-- ==== Sys2Proof/Word.lean ====
section
/-!
DEFINITION. The word types of the machine (spec/01_numbers.md R11, spec/02_encoding.md R34).
-/
namespace Sys2Proof

/-- A lane register, a scalar register and an instruction word (R11, R34). -/
abbrev Word := BitVec 32

/-- A 64-bit integer, held in a pair of registers or in two words of a record (R11). -/
abbrev Word64 := BitVec 64

/-- One byte of memory. -/
abbrev Byte := BitVec 8

end Sys2Proof
end

