-- ==== Sys2Proof/Config.lean ====
section
/-!
DEFINITION. What an implementation fixes and the values that the spec leaves open. A free value is an
uninterpreted constant, so that nothing can be proved of which value it takes (DESIGN CHOICE, log 7, log 8).
-/
namespace Sys2Proof

/-- Energy in nanojoules that a step charges to a counter, a partition's number or 96 for the package's, at the n-th
draw (R342 gives no figure). Free value (DESIGN CHOICE, log 7). -/
opaque Config.energyCharge : (n counter : Nat) → Nat

/-- A byte that the spec calls indeterminate, for the n-th draw (R295, R330, R376). Free value (DESIGN CHOICE, log 7). -/
opaque Config.freeByte : Nat → Byte

/-- SHA-384 of a byte string, the standard that R366 names (DESIGN CHOICE, log 8). -/
opaque Config.sha384 : List Byte → BitVec 384

/-- KMAC128 under the key of partition `part` drawn at its creation `draw`, of a line address, an epoch and 64
data bytes (R336, DESIGN CHOICE, log 8). -/
opaque Config.kmac128 : (part draw : Nat) → (addr : Nat) → (epoch : BitVec 32) → List Byte → BitVec 128

/-- Whether the host port has trained as CXL (R361): the installation decides. -/
opaque Config.cxlTrained : Bool

/-- The digest the boot ROM, the firmware or a configuration gives for measurement register `i` at the n-th
extension by the management core (R366, DESIGN CHOICE, log 8). -/
opaque Config.measuredDigest : (i n : Nat) → BitVec 384

/-- Whether a flit's AES-GCM tag verifies under the stream key set up as key number `key`, for the count
(G : SEQ) and the flit's 256 bytes (R371, DESIGN CHOICE, log 8). -/
opaque Config.gcmVerifies : (key : Nat) → (count : Nat) → BitVec 2048 → Bool

/-- The body of a protocol reply whose bytes an outside standard fixes (SPDM 1.3, TDISP 1.0, IDE_KM; R363, R364,
R367): the request's number in the standard and the count of requests served so far select it (DESIGN CHOICE, log 8). -/
opaque Config.protocolReply : (request : Nat) → (served : Nat) → List Byte

/-- Whether a bulk engine with DRAM traffic at its queues still holds a granule when the slot of a frame starts (R347).
Free value (DESIGN CHOICE, log 7). -/
opaque Config.stillHolds : (frame die engine : Nat) → Bool

/-- Whether a TLP of the host for a partition's VF arrives inside that VF's selective stream, at the n-th draw (R363). Free value
(DESIGN CHOICE, log 7). -/
opaque Config.inStream : (n part : Nat) → Bool

/-- A byte of a flit sent under a stream key: of its encrypted payload below 208, of its AES-GCM tag from 208 on, for the count
(G : SEQ) and the flit in clear (R369, R371, DESIGN CHOICE, log 8). -/
opaque Config.gcmByte : (key count : Nat) → List Byte → Nat → Byte

/-- The CRC-64 of a flit's first 240 bytes (R369 gives no polynomial; DESIGN CHOICE, log 8). -/
opaque Config.crc64 : List Byte → BitVec 64

/-- The receive credits that a port's n-th message returns (R369). Free value (DESIGN CHOICE, log 7). -/
opaque Config.credits : (port n : Nat) → BitVec 16

/-- The package id that the management core takes from its fuses or its configuration (R384). -/
opaque Config.packageId : BitVec 16

/-- Whether the management core has chosen this package as the time master (R375). -/
opaque Config.timeMaster : Bool

/-- Whether the peer of a port lies nearer the time master than this package (R375). -/
opaque Config.nearerMaster : (port : Nat) → Bool

/-- The delay in ns of a port's link, measured at training (R375). -/
opaque Config.linkDelay : (port : Nat) → Nat

/-- Whether the management core exports stage-2 entry `range` of a partition through CXL.mem (R362). -/
opaque Config.exported : (part range : Nat) → Bool

/-- Whether the host link holds stook blocks, as the DVSEC of its peer advertises (R313). -/
opaque Config.hostStook : Bool

end Sys2Proof
end

