-- ==== Sys2Proof/Machine/Bits.lean ====
section
/-!
DEFINITION. Bit fields, sign extension and byte order (spec/00_scope.md R5).
-/
namespace Sys2Proof

/-- `x[h:l]` of R5, as a number: the field of `x` that begins at bit `lo` and is `n` bits wide. -/
def fld (x lo n : Nat) : Nat := x / 2 ^ lo % 2 ^ n

/-- The bit `x[n]` of R5. -/
def bit (x n : Nat) : Bool := x / 2 ^ n % 2 == 1

/-- A field of a bit vector, as a number. -/
def bvFld {w : Nat} (x : BitVec w) (lo n : Nat) : Nat := fld x.toNat lo n

/-- The number of a bit. -/
def b2n (b : Bool) : Nat := if b then 1 else 0

/-- A one-bit value as a word. -/
def b2w (b : Bool) : Word := if b then 1 else 0

/-- The n-bit number `x` read as two's complement. -/
def sextNat (n x : Nat) : Int := if 2 * x < 2 ^ n then (x : Int) else (x : Int) - 2 ^ n

/-- The `n` bytes of `x`, least significant first (R5: multi-byte values are little-endian). -/
def bytesOf : Nat → Nat → List Byte
  | 0, _ => []
  | n + 1, x => BitVec.ofNat 8 x :: bytesOf n (x / 256)

/-- The number that a little-endian byte string holds (R5). -/
def ofBytes : List Byte → Nat
  | [] => 0
  | b :: bs => b.toNat + 256 * ofBytes bs

/-- `x` with the field of `n` bits at bit `lo` replaced by `v mod 2^n`. -/
def setFld (x lo n v : Nat) : Nat :=
  x - fld x lo n * 2 ^ lo + v % 2 ^ n * 2 ^ lo

/-- floor(log2 x) for x > 0, and 0 for 0. -/
def log2 (x : Nat) : Nat := Nat.log2 x

/-- ceil(a / b). -/
def ceilDiv (a b : Nat) : Nat := (a + b - 1) / b

/-- `x` rounded up to a multiple of `m`. -/
def roundUp (x m : Nat) : Nat := ceilDiv x m * m

/-- Whether `x` is a power of two. -/
def isPow2 (x : Nat) : Bool := x != 0 && x == 2 ^ Nat.log2 x

/-- The numbers from `a` upwards, `n` of them. -/
def upFrom (a : Nat) : Nat → List Nat
  | 0 => []
  | n + 1 => a :: upFrom (a + 1) n

/-- The element at place `i`, or `d` beyond the end. -/
def nth {α : Type} (d : α) : List α → Nat → α
  | [], _ => d
  | x :: _, 0 => x
  | _ :: xs, i + 1 => nth d xs i

/-- The list with `f` applied at place `i`; unchanged when there is no such place. -/
def modifyNth {α : Type} (f : α → α) : Nat → List α → List α
  | _, [] => []
  | 0, x :: xs => f x :: xs
  | i + 1, x :: xs => x :: modifyNth f i xs

/-- The list with `f` applied to each element together with its place, counted from `i`. -/
def mapFrom {α β : Type} (f : Nat → α → β) : Nat → List α → List β
  | _, [] => []
  | i, x :: xs => f i x :: mapFrom f (i + 1) xs

/-- The places, counted from `i`, whose element satisfies `p`, in rising order. -/
def placesFrom {α : Type} (p : Nat → α → Bool) : Nat → List α → List Nat
  | _, [] => []
  | i, x :: xs => if p i x then i :: placesFrom p (i + 1) xs else placesFrom p (i + 1) xs

/-- A 64-bit mask with a bit for each number of a list below 64. -/
def maskOf : List Nat → BitVec 64
  | [] => 0
  | l :: ls => maskOf ls ||| BitVec.ofNat 64 (2 ^ l)

end Sys2Proof
end

