-- ==== Sys2Proof/Syntax.lean ====
section
/-!
DEFINITION. The terms of the machine: one constructor of `Instr` for each row of spec/opcode_table.json. A row with an
encoding is an instruction or hint word (spec/02_encoding.md); a row without one is an event of a unit or a command
from outside (spec/95_what_each_step_holds.md). Operand codes are decoded here into names, so that the machine never
sees raw encodings.
-/
namespace Sys2Proof

/-- A source operand: a decoded SRC7 code (R37). -/
inductive Src where
  | v (i : Fin 64) | s (i : Fin 32) | b (i : Fin 4) | zero | lane | tid | ones | imm (i : Fin 16)
  deriving DecidableEq, Repr

/-- A source of a per-group instruction: the codes that R38 leaves for majors 0x0C to 0x0F and that R210 leaves for a
handle. -/
inductive SSrc where
  | s (i : Fin 32) | zero | ones | imm (i : Fin 16)
  deriving DecidableEq, Repr

/-- The guard G (R35): always, or where p1, p2 or p3 (`p` 0, 1, 2) is 1, or where it is 0. -/
inductive Guard where
  | always | on (p : Fin 3) | off (p : Fin 3)
  deriving DecidableEq, Repr

/-- A predicate-select code (R36): p0 to p3, or its negation. -/
structure PSel where
  neg : Bool
  p   : Fin 4
  deriving DecidableEq, Repr

/-- COND of ICMP (R68). -/
inductive ICond where
  | eq | ne | lt | le | gt | ge | tst
  deriving DecidableEq, Repr

/-- COND of FCMP (R68). -/
inductive FCond where
  | eq | ne | lt | le | gt | ge | un | ord
  deriving DecidableEq, Repr

/-- COND of PLOG, the logic function (R68, R127). -/
inductive LogFn where
  | and | or | xor | nand | nor | xnor | copy
  deriving DecidableEq, Repr

/-- COMB (R44): how the condition enters the old predicate. -/
inductive Comb where
  | set | and | or | xor
  deriving DecidableEq, Repr

/-- A scope, LANE to SYSTEM (R59, R64, R110). -/
inductive Scope where
  | lane | group | core | sheaf | cluster | die | package | system
  deriving DecidableEq, Repr

/-- ORD of HORD (R59). -/
inductive Order where
  | acq | rel | ar | sc
  deriving DecidableEq, Repr

/-- MOD of LD (R64). -/
inductive LdSize where
  | z8 | s8 | z16 | s16 | w32 | w64 | w128
  deriving DecidableEq, Repr

/-- MOD of ST (R64). -/
inductive StSize where
  | z8 | z16 | w32 | w64 | w128
  deriving DecidableEq, Repr

/-- MOD of ATOM (R64). -/
inductive AtomOp where
  | add | min | max | umin | umax | and | or | xor
  deriving DecidableEq, Repr

/-- MOD of ATOMX (R64). -/
inductive AtomXOp where
  | xchg | cas | fadd | add64 | xchg64 | cas64 | bfadd2
  deriving DecidableEq, Repr

/-- A rounding mode of a CVT minor (R63): .rn, .rz, .rd, .ru. -/
inductive RMode where
  | rn | rz | rd | ru
  deriving DecidableEq, Repr

/-- The latch type of MDRNL (R228). -/
inductive LatchTy where
  | bf16 | e4m3 | e5m2
  deriving DecidableEq, Repr

/-- Planes − 1 of the planed operands of a matrix instruction (R48): one, two or three planes. -/
inductive MPlanes where
  | p1 | p2 | p3
  deriving DecidableEq, Repr

/-- The special registers of R136. -/
inductive Special where
  | status | fuel | sig0lo | sig0hi | sig1lo | sig1hi | spill | stage | group | teamX | teamY | teamZ
  | gridX | gridY | gridZ | crew | core | seqLo | seqHi | timeLo | timeHi | energyLo | energyHi | fmask
  | cmaskLo | cmaskHi
  deriving DecidableEq, Repr

/-- Format R: guard, W, destination, two sources (R41). -/
structure OpR where
  g : Guard
  w : Bool
  d : Fin 64
  a : Src
  b : Src
  deriving DecidableEq, Repr

/-- The 64-bit pair family (R120): no W. -/
structure OpR64 where
  g : Guard
  d : Fin 64
  a : Src
  b : Src
  deriving DecidableEq, Repr

/-- Format U: guard, W, destination, one source (R42). -/
structure OpU where
  g : Guard
  w : Bool
  d : Fin 64
  a : Src
  deriving DecidableEq, Repr

/-- SEL: the predicate-select code in place of the guard (R124). -/
structure OpSel where
  sel : PSel
  w : Bool
  d : Fin 64
  a : Src
  b : Src
  deriving DecidableEq, Repr

/-- Scalar-destination format R (R125). -/
structure OpSR where
  d : Fin 32
  a : SSrc
  b : SSrc
  deriving DecidableEq, Repr

/-- Scalar-destination format U (R125). -/
structure OpSU where
  d : Fin 32
  a : SSrc
  deriving DecidableEq, Repr

/-- SSHR, with the count in the minor (R63). -/
structure OpSShr where
  d : Fin 32
  a : SSrc
  n : Fin 32
  deriving DecidableEq, Repr

/-- SADDI (R125). -/
structure OpSI where
  d : Fin 32
  a : SSrc
  imm : BitVec 9
  deriving DecidableEq, Repr

/-- Format I (R43). -/
structure OpI where
  g : Guard
  w : Bool
  d : Fin 64
  a : Src
  imm : BitVec 9
  deriving DecidableEq, Repr

/-- MOVI, the words of IADDI whose A is zero (R78). -/
structure OpMovI where
  g : Guard
  w : Bool
  d : Fin 64
  imm : BitVec 9
  deriving DecidableEq, Repr

/-- Format R in a float major: F holds FI and FO (R41). -/
structure OpRF where
  g : Guard
  w : Bool
  fi : Bool
  fo : Bool
  d : Fin 64
  a : Src
  b : Src
  deriving DecidableEq, Repr

/-- Format U in a float major (R42). -/
structure OpUF where
  g : Guard
  w : Bool
  fi : Bool
  fo : Bool
  d : Fin 64
  a : Src
  deriving DecidableEq, Repr

/-- CVT to an integer, with its rounding mode (R154). -/
structure OpCvtR where
  g : Guard
  w : Bool
  fi : Bool
  fo : Bool
  d : Fin 64
  a : Src
  r : RMode
  deriving DecidableEq, Repr

/-- CVT to FP8, saturating or not (R154). -/
structure OpCvtS where
  g : Guard
  w : Bool
  fi : Bool
  fo : Bool
  d : Fin 64
  a : Src
  sat : Bool
  deriving DecidableEq, Repr

/-- PLDEC: round-next-plane, and planes − 1 (R163). -/
structure OpPlDec where
  g : Guard
  w : Bool
  d : Fin 64
  a : Src
  rnp : Bool
  n : Fin 4
  deriving DecidableEq, Repr

/-- ICMP (R44, R126). -/
structure OpICmp where
  g : Guard
  pd : Fin 4
  cond : ICond
  comb : Comb
  u : Bool
  a : Src
  b : Src
  deriving DecidableEq, Repr

/-- FCMP (R44, R153). -/
structure OpFCmp where
  g : Guard
  pd : Fin 4
  cond : FCond
  comb : Comb
  q : Bool
  fi : Bool
  a : Src
  b : Src
  deriving DecidableEq, Repr

/-- PLOG (R44, R127). -/
structure OpPLog where
  g : Guard
  pd : Fin 4
  fn : LogFn
  comb : Comb
  x : PSel
  y : PSel
  deriving DecidableEq, Repr

/-- A vote, mask or reduction of the cohort family (R215). -/
structure OpCoh where
  g : Guard
  d : Fin 64
  a : Src
  deriving DecidableEq, Repr

/-- PTOV (R216). -/
structure OpPToV where
  g : Guard
  d : Fin 64
  p : Fin 4
  deriving DecidableEq, Repr

/-- VTOP (R216). -/
structure OpVToP where
  g : Guard
  p : Fin 4
  a : Src
  deriving DecidableEq, Repr

/-- READL: register `r` of lane `n` (R219). -/
structure OpReadL where
  d : Fin 32
  r : Fin 64
  n : Fin 64
  deriving DecidableEq, Repr

/-- Format B (R45). -/
structure OpB where
  g : Guard
  off : BitVec 23
  deriving DecidableEq, Repr

/-- A guarded instruction of one source (formats BR and S). -/
structure OpGA where
  g : Guard
  a : Src
  deriving DecidableEq, Repr

/-- A guarded instruction without operands. -/
structure OpG where
  g : Guard
  deriving DecidableEq, Repr

/-- MBR: number of targets − 1, and four predicate-select codes (R46). -/
structure OpMbr where
  n : Fin 4
  q1 : PSel
  q2 : PSel
  q3 : PSel
  q4 : PSel
  deriving DecidableEq, Repr

/-- DBNZ: counter register and offset (R45, R129). -/
structure OpBL where
  g : Guard
  a : Fin 64
  off : BitVec 16
  deriving DecidableEq, Repr

/-- TRAP (R134). -/
structure OpTrap where
  g : Guard
  a : Src
  k : Fin 8
  deriving DecidableEq, Repr

/-- SREAD (R135). -/
structure OpSRead where
  g : Guard
  d : Fin 64
  n : Special
  deriving DecidableEq, Repr

/-- SWRITE (R135). -/
structure OpSWrite where
  g : Guard
  n : Special
  a : Src
  deriving DecidableEq, Repr

/-- CENTER (R141). -/
structure OpCenter where
  g : Guard
  d : Fin 64
  a : Src
  b : Src
  deriving DecidableEq, Repr

/-- SIGC (R144). -/
structure OpSigc where
  g : Guard
  d : Fin 64
  deriving DecidableEq, Repr

/-- LD (R138): the first coordinate code `c` is read as R47 states. -/
structure OpLd where
  g : Guard
  size : LdSize
  d : Fin 64
  vw : Fin 64
  c : Fin 128
  deriving DecidableEq, Repr

/-- ST (R138). -/
structure OpSt where
  g : Guard
  size : StSize
  d : Fin 64
  vw : Fin 64
  c : Fin 128
  deriving DecidableEq, Repr

/-- LDA and STL (R199). -/
structure OpOrd where
  g : Guard
  scope : Scope
  d : Fin 64
  vw : Fin 64
  c : Fin 128
  deriving DecidableEq, Repr

/-- ATOM (R201). -/
structure OpAtom where
  g : Guard
  op : AtomOp
  d : Fin 64
  vw : Fin 64
  c : Fin 128
  deriving DecidableEq, Repr

/-- ATOMX (R202). -/
structure OpAtomX where
  g : Guard
  op : AtomXOp
  d : Fin 64
  vw : Fin 64
  c : Fin 128
  deriving DecidableEq, Repr

/-- PLD (R204): round-next-plane, and planes − 1. -/
structure OpPld where
  g : Guard
  rnp : Bool
  n : Fin 4
  d : Fin 64
  vw : Fin 64
  c : Fin 128
  deriving DecidableEq, Repr

/-- VNARROW (R195): destination view, source view, parameter block s(4p). -/
structure OpVNar where
  d : Fin 64
  src : Fin 64
  p : Fin 8
  deriving DecidableEq, Repr

/-- VQRY (R197). -/
structure OpVQry where
  d : Fin 64
  vw : Fin 64
  q : Fin 8
  deriving DecidableEq, Repr

/-- An instruction that names one view in D (R198, R296). -/
structure OpVOne where
  vw : Fin 64
  deriving DecidableEq, Repr

/-- MAPR and HBIND: a view in D and a parameter block (R212, R294). -/
structure OpVBlk where
  vw : Fin 64
  p : Fin 32
  deriving DecidableEq, Repr

/-- FENCE and CSYNC (R205, R207). -/
structure OpScope where
  scope : Scope
  deriving DecidableEq, Repr

/-- QFENCE (R206). -/
structure OpQFen where
  a : Src
  deriving DecidableEq, Repr

/-- BARG and BART (R208, R209). -/
structure OpBar where
  g : Guard
  a : Src
  deriving DecidableEq, Repr

/-- BARC: a cell of the crew (R284). -/
structure OpBarc where
  c : Fin 8
  deriving DecidableEq, Repr

/-- HARM: handle and expected arrivals (R211). -/
structure OpHarm where
  h : SSrc
  e : Fin 64
  deriving DecidableEq, Repr

/-- A handle-state member (R211). -/
structure OpHnd where
  h : SSrc
  deriving DecidableEq, Repr

/-- HWAIT (R211). -/
structure OpHWait where
  h : SSrc
  phase : Bool
  deriving DecidableEq, Repr

/-- HQRY (R213). -/
structure OpHQry where
  d : Fin 64
  h : SSrc
  deriving DecidableEq, Repr

/-- MMA and MMAG (R226, R227). -/
structure OpMma where
  z : Fin 8
  ha : Fin 256
  hb : Fin 256
  pl : MPlanes
  rn : Bool
  acc : Bool
  deriving DecidableEq, Repr

/-- MDRN, MDRNB and MLOAD (R229, R230). -/
structure OpDrn where
  z : Fin 8
  h : Fin 256
  deriving DecidableEq, Repr

/-- MDRNL (R228). -/
structure OpDrnL where
  z : Fin 8
  ty : LatchTy
  slot : Fin 16
  deriving DecidableEq, Repr

/-- MZERO (R230). -/
structure OpAcc where
  z : Fin 8
  deriving DecidableEq, Repr

/-- PADD (R232). -/
structure OpPAdd where
  z : Fin 8
  h : Fin 256
  k : Fin 16
  deriving DecidableEq, Repr

/-- PNORM (R233). -/
structure OpPNorm where
  h : Fin 256
  deriving DecidableEq, Repr

/-- Format A (R49): transform, handle, view, parameter block, follow-on. -/
structure OpTile where
  xf : Fin 64
  h : Fin 256
  vw : Fin 64
  pb : Fin 4
  fm : Bool
  deriving DecidableEq, Repr

/-- BCOPY (R307): transform and parameter block. -/
structure OpBCopy where
  xf : Fin 64
  p : Fin 32
  deriving DecidableEq, Repr

/-- QPOP (R275). -/
structure OpQPop where
  d : Fin 64
  vw : Fin 64
  deriving DecidableEq, Repr

/-- QSPAWN (R277): every lane, or the lanes of a predicate. -/
structure OpQSpawn where
  d : Fin 64
  vw : Fin 64
  sel : Option (Fin 4)
  deriving DecidableEq, Repr

/-- QCLOSE (R278). -/
structure OpQView where
  vw : Fin 64
  deriving DecidableEq, Repr

/-- FREAD and FFILL (R280, R282). -/
structure OpFut where
  d : Fin 64
  vw : Fin 64
  deriving DecidableEq, Repr

/-- SLOTQ (R346). -/
structure OpSlotQ where
  d : Fin 64
  deriving DecidableEq, Repr

/-- FEATQ (R382). -/
structure OpFeatQ where
  d : Fin 64
  q : Fin 8
  deriving DecidableEq, Repr

/-- HBT: an odd target and an even target (R58). -/
structure OpHbt where
  t1 : BitVec 11
  t2 : BitVec 11
  deriving DecidableEq, Repr

/-- HORD (R59). -/
structure OpHord where
  ord : Order
  scope : Scope
  rem : Bool
  deriving DecidableEq, Repr

/-- The driver's fields of one launch record: the 128 bytes of R320 as one little-endian number (byte n in bits
8n+7:8n). -/
abbrev LaunchBytes := BitVec 1024

/-- A stage-2 range entry (R302). -/
abbrev RangeEntry := BitVec 128

/-- What the management core gives a partition at its creation (R334). -/
structure PartCfg where
  id      : Fin 96
  sheaves : BitVec 96
  pool    : List (Fin 4)
  stage1  : BitVec 48
  ranges  : List RangeEntry
  engines : BitVec 256
  sealed  : Bool
  period  : Nat
  deriving DecidableEq, Repr

/-- A memory access by an outside agent: a read of `n` bytes, a write of bytes with a byte mask, or an atomic
(R359, R362, R373). -/
inductive OutAccess where
  | read (n : Nat)
  | write (bytes : List Byte) (mask : List Bool)
  | atomic (major : Nat) (mod : Nat) (operands : List Byte)
  deriving DecidableEq, Repr

/-- A Beacon flit as it reaches a port: the header fields of R369 that a receiver uses, the sending package, the flit's
own 256 bytes for its tag check, and the payload of its TYPE (R370). -/
structure Flit where
  port   : Fin 12
  spkg   : BitVec 16
  srcRaw : BitVec 16
  seq    : BitVec 32
  tag    : BitVec 32
  enc    : Bool
  poison : Bool
  raw    : BitVec 2048
  deriving DecidableEq, Repr

/-- Who reads an energy counter (R342): the driver of a partition, or the management core. -/
inductive EnergyAgent where
  | driver (part : Fin 96) | manager
  deriving DecidableEq, Repr

/-- A verdict of a targeted self-test (R315). -/
inductive Verdict where
  | transient | lasting | noSpare
  deriving DecidableEq, Repr

/-- The port by which a request reaches the management core's mailbox (R365). -/
inductive Mailbox where
  | doe | mctp
  deriving DecidableEq, Repr

/-- The rows of spec/opcode_table.json, in its order. -/
inductive Instr where
  /-- IADD, R118: Per-lane wrapping 32-bit addition into vD and b0. -/
  | iadd (x : OpR)
  /-- ISUB, R118: Per-lane wrapping 32-bit subtraction into vD and b0. -/
  | isub (x : OpR)
  /-- IADDS, R118: Per-lane signed saturating addition; sets SAT when it clamps. -/
  | iadds (x : OpR)
  /-- ISUBS, R118: Per-lane signed saturating subtraction; sets SAT when it clamps. -/
  | isubs (x : OpR)
  /-- UADDS, R118: Per-lane unsigned saturating addition. -/
  | uadds (x : OpR)
  /-- USUBS, R118: Per-lane unsigned saturating subtraction. -/
  | usubs (x : OpR)
  /-- IABSD, R118: Per-lane absolute difference of signed operands, delivered unsigned. -/
  | iabsd (x : OpR)
  /-- UAVG, R118: Per-lane unsigned rounding-up average. -/
  | uavg (x : OpR)
  /-- ADD64, R120: 64-bit register-pair addition. -/
  | add64 (x : OpR64)
  /-- SUB64, R120: 64-bit register-pair subtraction. -/
  | sub64 (x : OpR64)
  /-- MUL64, R120: 64-bit register-pair multiplication mod 2^64. -/
  | mul64 (x : OpR64)
  /-- SHL64, R120: 64-bit register-pair left shift by B[5:0]. -/
  | shl64 (x : OpR64)
  /-- IMUL, R118: Per-lane low 32 bits of the product. -/
  | imul (x : OpR)
  /-- IMULHI, R118: Per-lane high 32 bits of the signed product. -/
  | imulhi (x : OpR)
  /-- UMULHI, R118: Per-lane high 32 bits of the unsigned product. -/
  | umulhi (x : OpR)
  /-- IMAD, R118: Per-lane multiply-add into the T-form destination. -/
  | imad (x : OpR)
  /-- IDIV, R121: Per-lane signed division; zero divisor gives all-ones and DZ, or DIVZERO in contained state. -/
  | idiv (x : OpR)
  /-- UDIV, R121: Per-lane unsigned division. -/
  | udiv (x : OpR)
  /-- IREM, R121: Per-lane signed remainder. -/
  | irem (x : OpR)
  /-- UREM, R121: Per-lane unsigned remainder. -/
  | urem (x : OpR)
  /-- AND, R118: Per-lane bitwise AND. -/
  | and (x : OpR)
  /-- OR, R118: Per-lane bitwise OR. -/
  | or (x : OpR)
  /-- XOR, R118: Per-lane bitwise XOR. -/
  | xor (x : OpR)
  /-- ANDN, R118: Per-lane A AND NOT B. -/
  | andn (x : OpR)
  /-- SHL, R118: Per-lane logical left shift by B[4:0]. -/
  | shl (x : OpR)
  /-- SHR, R118: Per-lane logical right shift. -/
  | shr (x : OpR)
  /-- SAR, R118: Per-lane arithmetic right shift. -/
  | sar (x : OpR)
  /-- ROTL, R118: Per-lane rotate left. -/
  | rotl (x : OpR)
  /-- IMIN, R118: Per-lane signed minimum. -/
  | imin (x : OpR)
  /-- IMAX, R118: Per-lane signed maximum. -/
  | imax (x : OpR)
  /-- UMIN, R118: Per-lane unsigned minimum. -/
  | umin (x : OpR)
  /-- UMAX, R118: Per-lane unsigned maximum. -/
  | umax (x : OpR)
  /-- MOV, R122: Per-lane copy of A. -/
  | mov (x : OpU)
  /-- NOT, R122: Per-lane bitwise NOT. -/
  | not (x : OpU)
  /-- NEG, R122: Per-lane wrapping negation. -/
  | neg (x : OpU)
  /-- IABS, R122: Per-lane wrapping absolute value. -/
  | iabs (x : OpU)
  /-- POPC, R122: Per-lane population count. -/
  | popc (x : OpU)
  /-- CLZ, R122: Per-lane count of leading zeros. -/
  | clz (x : OpU)
  /-- CTZ, R122: Per-lane count of trailing zeros. -/
  | ctz (x : OpU)
  /-- BREV, R122: Per-lane bit reversal. -/
  | brev (x : OpU)
  /-- BSWAP, R122: Per-lane byte swap. -/
  | bswap (x : OpU)
  /-- SEXT8, R122: Per-lane sign extension of the low byte. -/
  | sext8 (x : OpU)
  /-- SEXT16, R122: Per-lane sign extension of the low half. -/
  | sext16 (x : OpU)
  /-- ZEXT8, R122: Per-lane zero extension of the low byte. -/
  | zext8 (x : OpU)
  /-- ZEXT16, R122: Per-lane zero extension of the low half. -/
  | zext16 (x : OpU)
  /-- BFXZ, R123: Per-lane zero-extended bit-field extract. -/
  | bfxz (x : OpR)
  /-- BFXS, R123: Per-lane sign-extended bit-field extract. -/
  | bfxs (x : OpR)
  /-- BFI, R123: Per-lane bit-field insert into the T-form destination. -/
  | bfi (x : OpR)
  /-- FSHL, R123: Per-lane funnel shift left with vD as the upper word. -/
  | fshl (x : OpR)
  /-- SEL, R124: Per-lane select of A or B by a predicate-select code. -/
  | sel (x : OpSel)
  /-- SHFLI, R214: Cohort shuffle reading the value offered by lane B. -/
  | shfli (x : OpR)
  /-- SHFLU, R214: Cohort shuffle reading lane l minus B. -/
  | shflu (x : OpR)
  /-- SHFLD, R214: Cohort shuffle reading lane l plus B. -/
  | shfld (x : OpR)
  /-- SHFLX, R214: Cohort shuffle reading lane l XOR B. -/
  | shflx (x : OpR)
  /-- SADD, R125: Group scalar addition, needing full convergence. -/
  | sadd (x : OpSR)
  /-- SSUB, R125: Group scalar subtraction. -/
  | ssub (x : OpSR)
  /-- SMUL, R125: Group scalar multiplication. -/
  | smul (x : OpSR)
  /-- SMIN, R125: Group scalar signed minimum. -/
  | smin (x : OpSR)
  /-- SAND, R125: Group scalar AND. -/
  | sand (x : OpSR)
  /-- SOR, R125: Group scalar OR. -/
  | sor (x : OpSR)
  /-- SXOR, R125: Group scalar XOR. -/
  | sxor (x : OpSR)
  /-- SSHL, R125: Group scalar left shift. -/
  | sshl (x : OpSR)
  /-- SMOV, R125: Group scalar move. -/
  | smov (x : OpSU)
  /-- SNOT, R125: Group scalar NOT. -/
  | snot (x : OpSU)
  /-- SNEG, R125: Group scalar negation. -/
  | sneg (x : OpSU)
  /-- SPOPC, R125: Group scalar population count. -/
  | spopc (x : OpSU)
  /-- SCLZ, R125: Group scalar count of leading zeros. -/
  | sclz (x : OpSU)
  /-- SSHR, R125: Group scalar logical right shift by the minor's count. -/
  | sshr (x : OpSShr)
  /-- SADDI, R125: Group scalar add of an immediate. -/
  | saddi (x : OpSI)
  /-- IADDI, R119: Per-lane add of an immediate. -/
  | iaddi (x : OpI)
  /-- MOVI, R78: IADDI with A = zero, loading an immediate. -/
  | movi (x : OpMovI)
  /-- ANDI, R119: Per-lane AND with an immediate. -/
  | andi (x : OpI)
  /-- ORI, R119: Per-lane OR with an immediate. -/
  | ori (x : OpI)
  /-- XORI, R119: Per-lane XOR with an immediate. -/
  | xori (x : OpI)
  /-- SHLI, R119: Per-lane left shift by an immediate. -/
  | shli (x : OpI)
  /-- SHRI, R119: Per-lane logical right shift by an immediate. -/
  | shri (x : OpI)
  /-- SARI, R119: Per-lane arithmetic right shift by an immediate. -/
  | sari (x : OpI)
  /-- IMULI, R119: Per-lane multiply by an immediate. -/
  | imuli (x : OpI)
  /-- FADD, R148: Per-lane binary32 addition, rounded once. -/
  | fadd (x : OpRF)
  /-- FSUB, R148: Per-lane binary32 subtraction. -/
  | fsub (x : OpRF)
  /-- FMUL, R148: Per-lane binary32 multiplication. -/
  | fmul (x : OpRF)
  /-- FFMA, R148: Per-lane fused multiply-add into the T-form destination. -/
  | ffma (x : OpRF)
  /-- FMIN, R148: Per-lane minimumNumber. -/
  | fmin (x : OpRF)
  /-- FMAX, R148: Per-lane maximumNumber. -/
  | fmax (x : OpRF)
  /-- FABS, R149: Per-lane float absolute value. -/
  | fabs (x : OpUF)
  /-- FNEG, R149: Per-lane float negation. -/
  | fneg (x : OpUF)
  /-- FSQRT, R150: Per-lane correctly rounded square root. -/
  | fsqrt (x : OpUF)
  /-- FRCP, R150: Per-lane correctly rounded reciprocal. -/
  | frcp (x : OpUF)
  /-- FRSQ, R150: Per-lane correctly rounded reciprocal square root. -/
  | frsq (x : OpUF)
  /-- FEXP2, R32: Per-lane 2^x by the fixed table algorithm. -/
  | fexp2 (x : OpUF)
  /-- FLOG2, R32: Per-lane log2 x by the fixed table algorithm. -/
  | flog2 (x : OpUF)
  /-- FFLOOR, R151: Per-lane round toward minus infinity to an integral value. -/
  | ffloor (x : OpUF)
  /-- FCEIL, R151: Per-lane round toward plus infinity to an integral value. -/
  | fceil (x : OpUF)
  /-- FTRUNC, R151: Per-lane round toward zero to an integral value. -/
  | ftrunc (x : OpUF)
  /-- FRINT, R151: Per-lane round to nearest even integral value. -/
  | frint (x : OpUF)
  /-- FCLASS, R152: Per-lane one-hot class mask of x. -/
  | fclass (x : OpUF)
  /-- CVT_F32_S32, R155: Convert signed integer to binary32. -/
  | cvtF32S32 (x : OpUF)
  /-- CVT_F32_N32, R155: Convert unsigned integer to binary32. -/
  | cvtF32N32 (x : OpUF)
  /-- CVT_S32_F32, R155: Convert binary32 to signed integer with a chosen rounding. -/
  | cvtS32F32 (x : OpCvtR)
  /-- CVT_N32_F32, R155: Convert binary32 to unsigned integer with a chosen rounding. -/
  | cvtN32F32 (x : OpCvtR)
  /-- CVT_BF16_F32, R156: Narrow binary32 to BF16. -/
  | cvtBf16F32 (x : OpUF)
  /-- CVT_F32_BF16, R157: Widen BF16 to binary32. -/
  | cvtF32Bf16 (x : OpUF)
  /-- CVT_E4M3_F32, R156: Narrow binary32 to E4M3, saturating or not. -/
  | cvtE4m3F32 (x : OpCvtS)
  /-- CVT_E5M2_F32, R156: Narrow binary32 to E5M2, saturating or not. -/
  | cvtE5m2F32 (x : OpCvtS)
  /-- CVT_F32_E4M3, R157: Widen E4M3 to binary32. -/
  | cvtF32E4m3 (x : OpUF)
  /-- CVT_F32_E5M2, R157: Widen E5M2 to binary32. -/
  | cvtF32E5m2 (x : OpUF)
  /-- CVT_E4M3_E2M1, R158: Expand four E2M1 elements to E4M3. -/
  | cvtE4m3E2m1 (x : OpUF)
  /-- CVT_E4M3_E3M2, R158: Expand four E3M2 elements to E4M3. -/
  | cvtE4m3E3m2 (x : OpUF)
  /-- CVT_E4M3_E2M3, R158: Expand four E2M3 elements to E4M3. -/
  | cvtE4m3E2m3 (x : OpUF)
  /-- CVT_E4M3_I4, R158: Expand four int4 elements to E4M3. -/
  | cvtE4m3I4 (x : OpUF)
  /-- BFMA2, R159: Per-half BF16 fused multiply-add into the T-form destination. -/
  | bfma2 (x : OpRF)
  /-- BFADD2, R159: Per-half BF16 addition. -/
  | bfadd2 (x : OpRF)
  /-- BFMUL2, R159: Per-half BF16 multiplication. -/
  | bfmul2 (x : OpRF)
  /-- PLENC, R162: Quantise a lane block into planed element codes with E or μ. -/
  | plenc (x : OpU)
  /-- PLMAX, R161: Write the lane block's maximum magnitude to each contributing lane. -/
  | plmax (x : OpU)
  /-- PLDEC, R163: Decode one planed element through n planes to binary32. -/
  | pldec (x : OpPlDec)
  /-- ICMP, R126: Per-lane integer compare combined into a predicate. -/
  | icmp (x : OpICmp)
  /-- FCMP, R153: Per-lane float compare combined into a predicate. -/
  | fcmp (x : OpFCmp)
  /-- PLOG, R127: Per-lane logic on two predicates combined into a predicate. -/
  | plog (x : OpPLog)
  /-- VANY, R216: Cohort vote: 1 if any contributing lane has A nonzero. -/
  | vany (x : OpCoh)
  /-- VALL, R216: Cohort vote: 1 if every contributing lane has A nonzero. -/
  | vall (x : OpCoh)
  /-- VBAL, R216: Cohort ballot mask of lanes with A nonzero. -/
  | vbal (x : OpCoh)
  /-- REDADD, R217: Cohort integer sum. -/
  | redadd (x : OpCoh)
  /-- REDMIN, R217: Cohort signed minimum. -/
  | redmin (x : OpCoh)
  /-- REDMAX, R217: Cohort signed maximum. -/
  | redmax (x : OpCoh)
  /-- REDFADD, R218: Cohort binary32 sum by a fixed lane-index tree. -/
  | redfadd (x : OpCoh)
  /-- PTOV, R216: Cohort ballot of a predicate. -/
  | ptov (x : OpPToV)
  /-- VTOP, R216: Set a predicate from a bit of a broadcast mask. -/
  | vtop (x : OpVToP)
  /-- READL, R219: Read a register of lane n into a scalar register. -/
  | readl (x : OpReadL)
  /-- BRA, R128: Per-lane relative branch. -/
  | bra (x : OpB)
  /-- CALL, R128: Per-lane relative call pushing the return word, spilling if full. -/
  | call (x : OpB)
  /-- JMPR, R130: Per-lane jump to a register target. -/
  | jmpr (x : OpGA)
  /-- CALLR, R130: Per-lane call to a register target. -/
  | callr (x : OpGA)
  /-- RET, R130: Per-lane return, refilling from the spill view if needed. -/
  | ret (x : OpG)
  /-- RVZ, R131: Wait up to a bound for the group's lanes to gather at this PC. -/
  | rvz (x : OpGA)
  /-- SYNCL, R132: Barrier among the lanes named by a mask, by generation counts. -/
  | syncl (x : OpGA)
  /-- MBR, R133: Per-lane multi-way branch on predicate-select codes. -/
  | mbr (x : OpMbr)
  /-- DBNZ, R129: Per-lane decrement and branch if nonzero. -/
  | dbnz (x : OpBL)
  /-- EXIT, R134: The lane exits, or a candidate ends with outcome EXIT. -/
  | exit (x : OpG)
  /-- TRAP, R134: Trap halt of the group, or outcome TRAP for a candidate. -/
  | trap (x : OpTrap)
  /-- BRK, R134: Breakpoint halt of the group. -/
  | brk (x : OpG)
  /-- NOP, R134: No operation. -/
  | nop (x : OpG)
  /-- YIELD, R134: Make the group not ready until other ready groups have issued or 64 cycles pass. -/
  | yield (x : OpG)
  /-- SREAD, R135: Read a special register into a lane register. -/
  | sread (x : OpSRead)
  /-- SWRITE, R135: Write a writable special register. -/
  | swrite (x : OpSWrite)
  /-- CENTER, R141: Run a candidate slot in contained state until its outcome. -/
  | center (x : OpCenter)
  /-- SIGF, R142: Fold a 32-bit value into the signature. -/
  | sigf (x : OpGA)
  /-- SIGC, R144: Submit the signature to the winnow bucket atomically and clear it. -/
  | sigc (x : OpSigc)
  /-- SIGZ, R142: Clear the signature. -/
  | sigz (x : OpG)
  /-- LD, R138: Per-lane load through a view. -/
  | ld (x : OpLd)
  /-- ST, R138: Per-lane store through a view. -/
  | st (x : OpSt)
  /-- LDA, R199: Per-lane 32-bit acquire load at a scope. -/
  | lda (x : OpOrd)
  /-- STL, R199: Per-lane 32-bit release store at a scope, writing the release tag. -/
  | stl (x : OpOrd)
  /-- ATOM, R201: Per-lane 32-bit atomic read-modify-write. -/
  | atom (x : OpAtom)
  /-- ATOMX, R202: Per-lane extended atomic: exchange, CAS, float add, 64-bit forms. -/
  | atomx (x : OpAtomX)
  /-- PLD, R204: Per-lane planed element load through n planes. -/
  | pld (x : OpPld)
  /-- VNARROW, R195: Derive a narrower view from a parameter block. -/
  | vnarrow (x : OpVNar)
  /-- VQRY, R197: Read four words of a view descriptor into scalars. -/
  | vqry (x : OpVQry)
  /-- VDROP, R198: Clear VALID of a view. -/
  | vdrop (x : OpVOne)
  /-- MAPR, R294: Create a mapped region and bind a translated view to it. -/
  | mapr (x : OpVBlk)
  /-- UNMAPR, R296: Write back dirty slots, free the region and unbind its views. -/
  | unmapr (x : OpVOne)
  /-- FLUSHR, R296: Write back every dirty slot of a region. -/
  | flushr (x : OpVOne)
  /-- INVR, R296: Write back and invalidate every slot of a region. -/
  | invr (x : OpVOne)
  /-- FENCE, R205: Fence the thread's accesses at a scope. -/
  | fence (x : OpScope)
  /-- QFENCE, R206: Marker that completes when named queues have performed earlier entries. -/
  | qfence (x : OpQFen)
  /-- CSYNC, R207: Make code written as data fetchable at a scope. -/
  | csync (x : OpScope)
  /-- BARG, R208: Arrive at the group's lane barrier. -/
  | barg (x : OpBar)
  /-- BART, R209: Arrive at the team barrier among groups. -/
  | bart (x : OpBar)
  /-- BARC, R284: Arrive at a crew barrier cell. -/
  | barc (x : OpBarc)
  /-- HBIND, R212: Make a CORE view of a handle's data region. -/
  | hbind (x : OpVBlk)
  /-- HARM, R211: Arm a FREE handle as unsealed FILLING with expected arrivals. -/
  | harm (x : OpHarm)
  /-- HSEAL, R211: Seal a FILLING handle, releasing earlier region accesses. -/
  | hseal (x : OpHnd)
  /-- HWAIT, R211: Wait for a handle's FULL in a phase and acquire. -/
  | hwait (x : OpHWait)
  /-- HTAKE, R211: Wait for FULL and take the handle into DRAINING. -/
  | htake (x : OpHnd)
  /-- HFREE, R211: Return a DRAINING handle to FREE and flip its phase. -/
  | hfree (x : OpHnd)
  /-- HQRY, R213: Snapshot a buffer-table entry into scalars. -/
  | hqry (x : OpHQry)
  /-- MMA, R226: Check and queue a 16x16 tile product into an accumulator. -/
  | mma (x : OpMma)
  /-- MMAG, R227: Check and queue a tile product with gathered A rows. -/
  | mmag (x : OpMma)
  /-- MDRN, R229: Queue a drain of an accumulator to a handle as binary32. -/
  | mdrn (x : OpDrn)
  /-- MDRNB, R229: Queue a drain of an accumulator to a handle as BF16. -/
  | mdrnb (x : OpDrn)
  /-- MDRNL, R228: Queue a drain of an accumulator into an A-latch slot. -/
  | mdrnl (x : OpDrnL)
  /-- MZERO, R230: Queue a clear of an accumulator. -/
  | mzero (x : OpAcc)
  /-- MLOAD, R230: Queue a load of an accumulator from a handle. -/
  | mload (x : OpDrn)
  /-- PADD, R232: Queue an in-place planed weight update from an accumulator. -/
  | padd (x : OpPAdd)
  /-- PNORM, R233: Queue a renormalisation of every planed block of a handle. -/
  | pnorm (x : OpPNorm)
  /-- TILEIN, R240: Check a copy from a view into a handle and wait for the handle. -/
  | tilein (x : OpTile)
  /-- TILEOUT, R241: Check a copy from a handle out to a view and wait for FULL. -/
  | tileout (x : OpTile)
  /-- BCOPY, R307: Check a bulk copy and wait for its completion handle. -/
  | bcopy (x : OpBCopy)
  /-- QPOP, R275: Release the held task and take or wait for a queue entry. -/
  | qpop (x : OpQPop)
  /-- QSPAWN, R277: Place the offering lanes' entries in a queue together, or none. -/
  | qspawn (x : OpQSpawn)
  /-- QCLOSE, R278: Close a queue. -/
  | qclose (x : OpQView)
  /-- FREAD, R280: Read a future, wait, squash the task, or fault. -/
  | fread (x : OpFut)
  /-- FFILL, R282: Fill a future and re-enqueue its ready waiters. -/
  | ffill (x : OpFut)
  /-- TRIG, R329: Mark the group triggered; the team triggers when all its groups have. -/
  | trig
  /-- SLOTQ, R346: Read the maintenance-slot calendar into four scalars. -/
  | slotq (x : OpSlotQ)
  /-- FEATQ, R382: Read features, level, package id and partition into scalars. -/
  | featq (x : OpFeatQ)
  /-- HIMM, R57: Hint supplying the upper 23 bits of the next instruction's immediate. -/
  | himm (imm : BitVec 23)
  /-- HBT, R58: Hint holding two MBR branch targets. -/
  | hbt (x : OpHbt)
  /-- HORD, R59: Hint giving order, scope and remote acquire to the next memory instruction. -/
  | hord (x : OpHord)
  /-- HSCH, R60: Hint asking to issue the next units back to back. -/
  | hsch (n : Fin 16)
  /-- HGATH, R61: Hint naming MMAG's row-index scalars. -/
  | hgath (sel : Fin 4)
  /-- BROADCAST_PC_TIMEOUT, R93: After 256 issues with lanes waiting at one PC, the broadcast PC moves. -/
  | broadcastPcTimeout (core group : Nat)
  /-- RVZ_BOUND_EXPIRE, R131: RVZ's cycle bound expires and the cohort as it stands proceeds. -/
  | rvzBoundExpire (core group : Nat)
  /-- YIELD_EXPIRE, R134: 64 cycles after a YIELD pass and the group is ready again. -/
  | yieldExpire (core group : Nat)
  /-- HSCH_RUN_END, R171: Another group has been ready for 128 cycles and the HSCH run ends. -/
  | hschRunEnd (core group : Nat)
  /-- CODE_FETCH_FILL, R300: A loop-buffer or code-fetch miss fill of 64 bytes completes through translation. -/
  | codeFetchFill (core : Nat) (line : Nat)
  /-- MAPPED_FILL_COMPLETE, R293: A granule fill of a mapped-region slot completes and waiting units replay. -/
  | mappedFillComplete (core region slot : Nat)
  /-- MAPPED_WRITE_BACK, R293: The dirty bytes of a slot are written home and the slot becomes CLEAN. -/
  | mappedWriteBack (core region slot : Nat)
  /-- TILE_COPY_ENQUEUE, R240: A waiting tile copy makes its late checks, takes the handle transition and enters its queue. -/
  | tileCopyEnqueue (core group : Nat)
  /-- TILE_GRANULE_LAND, R240: A tile-port granule lands, lowering PENDING; at FULL the header is written. -/
  | tileGranuleLand (core : Nat)
  /-- FOLLOW_ON_RELEASE, R242: The tile port releases a held follow-on command into the matrix queue. -/
  | followOnRelease (core : Nat)
  /-- MCAST_HOP_ARRIVAL, R243: A chain-multicast hop lands at a remote core and counts an arrival. -/
  | mcastHopArrival (core : Nat)
  /-- TILEOUT_GRANULE, R241: A TILEOUT granule is written; after the last byte read the handle becomes FREE. -/
  | tileoutGranule (core : Nat)
  /-- MATRIX_QUEUE_PERFORM, R231: The matrix queue performs its head entry, checking follow-ons at the head. -/
  | matrixQueuePerform (core : Nat)
  /-- BCOPY_ENQUEUE, R308: A waiting bulk copy makes check 7 and enters its engine queue. -/
  | bcopyEnqueue (core group : Nat)
  /-- BULK_GRANULE, R306: A bulk engine moves one 256-byte granule, lowering the completion handle's PENDING. -/
  | bulkGranule (die : Nat) (engine : Fin 8) (queue : Fin 8)
  /-- BARRIER_EPISODE_COMPLETE, R255: A crew barrier cell completes when all arrived and PENDING reaches 0. -/
  | barrierEpisodeComplete (core : Nat) (cell : Fin 8)
  /-- WATCHDOG_EXPIRE, R189: A team's watchdog count reaches zero and every group halts. -/
  | watchdogExpire (core : Nat)
  /-- FRAME_START, R344: A frame starts: watchdogs count down and TIME flits are sent. -/
  | frameStart
  /-- SLOT_GUARD_OPEN, R310: A slot's guard opens and no new DRAM granule begins. -/
  | slotGuardOpen
  /-- SLOT_START, R344: A maintenance slot starts; housekeeping runs. -/
  | slotStart
  /-- SLOT_EXTENDED, R348: Housekeeping outruns its slot, extending it by 64 ns steps with a notice. -/
  | slotExtended (steps : Nat)
  /-- SLOT_END, R310: A slot ends and DRAM granules may begin again. -/
  | slotEnd
  /-- SELF_TEST_VERDICT, R315: A targeted self-test ends with a TRANSIENT or LASTING verdict. -/
  | selfTestVerdict (die : Nat) (verdict : Verdict)
  /-- INTEGRITY_SWEEP_VISIT, R336: The integrity sweep visits one sealed line and retags it. -/
  | integritySweepVisit (part : Fin 96) (line : Nat)
  /-- INTEGRITY_PERIOD_END, R337: An integrity period ends and the accumulators are compared. -/
  | integrityPeriodEnd (part : Fin 96)
  /-- BALLAST_WINDOW, R341: Each 31.25 ns window the ballast sequencer compares issue and fills idle slots. -/
  | ballastWindow (sheaf : Fin 96) (issued : Nat)
  /-- THERMAL_EVENT, R340: A thermal or current event makes the power manager lower read-grant budgets. -/
  | thermalEvent (sheaf : Fin 96) (budget : Nat)
  /-- READ_GRANT_BUDGET, R340: The power manager sets a sheaf's read-grant budget B. -/
  | readGrantBudget (sheaf : Fin 96) (budget : Nat)
  /-- POOL_WRITE, R343: A sheaf's class pool changes while it is empty in a slot. -/
  | poolWrite (part : Fin 96) (sheaf : Fin 96) (cls : Fin 4)
  /-- LAUNCH_COMMIT, R318: Writing SEQ into a launch-window slot commits the record or is refused. -/
  | launchCommit (part : Fin 96) (slot : Fin 32) (record : LaunchBytes)
  /-- RECORD_COPY, R323: The dispatcher copies and validates a committed launch record. -/
  | recordCopy (part : Fin 96)
  /-- TEAM_PLACE, R325: The dispatcher places an eligible team or crew on free cores, or restores a saved one. -/
  | teamPlace (part : Fin 96)
  /-- SCRATCHPAD_IMAGE_COPY, R324: The scratchpad image copy for a placed team completes or faults. -/
  | scratchpadImageCopy (core : Nat)
  /-- TEAM_END, R326: A team's entries are performed and its core released; its END bit is set. -/
  | teamEnd (core : Nat)
  /-- PREEMPT, R331: A write to PREEMPT halts and saves running teams of a launch or partition. -/
  | preempt (part : Fin 96) (seq : Word64)
  /-- CONTEXT_SAVE_COMPLETE, R331: Saving of the pre-empted teams completes. -/
  | contextSaveComplete (part : Fin 96)
  /-- RESTORE, R333: A write to RESTORE makes a launch's saved teams eligible. -/
  | restore (part : Fin 96) (seq : Word64)
  /-- KILL, R317: A write to KILL kills every team of a launch. -/
  | kill (part : Fin 96) (seq : Word64)
  /-- XACT_RETRY, R304: Translation action RETRY walks the tables again for a faulted access. -/
  | xactRetry (part : Fin 96) (stamp : Word64)
  /-- XACT_FAIL, R304: Translation action FAIL applies the faulting agent's failure effect. -/
  | xactFail (part : Fin 96) (stamp : Word64)
  /-- XINV, R303: A write of 1 starts invalidation of the partition's translation caches. -/
  | xinv (part : Fin 96)
  /-- XINV_COMPLETE, R303: The translation-cache invalidation completes. -/
  | xinvComplete (part : Fin 96)
  /-- RESUME, R188: Halt-window action RESUME re-executes or continues the halted group. -/
  | resume (part : Fin 96) (slot : Nat)
  /-- SKIP, R188: Halt-window action SKIP continues after the faulting unit. -/
  | skip (part : Fin 96) (slot : Nat)
  /-- HALT_KILL, R188: Halt-window action KILL ends the team. -/
  | haltKill (part : Fin 96) (slot : Nat)
  /-- REGISTER_WRITE, R317: Write to a control-page register with no behaviour of its own, or an ignored action value. -/
  | registerWrite (part : Fin 96) (offset : Nat) (value : Word64)
  /-- PARTITION_CREATE, R334: The management core creates a partition. -/
  | partitionCreate (cfg : PartCfg)
  /-- PARTITION_DESTROY, R334: The management core destroys a partition, killing and zeroing. -/
  | partitionDestroy (part : Fin 96)
  /-- SHEAVES_WRITE, R334: The management core changes a partition's sheaf mask. -/
  | sheavesWrite (part : Fin 96) (sheaves : BitVec 96)
  /-- STAGE1_WRITE, R334: The management core sets the tenant table root. -/
  | stage1Write (part : Fin 96) (root : BitVec 48)
  /-- RANGES_WRITE, R302: The management core writes a stage-2 range entry, refused on overlap. -/
  | rangesWrite (part : Fin 96) (index : Fin 48) (entry : RangeEntry)
  /-- ENGINES_WRITE, R334: The management core grants bulk queues or engines. -/
  | enginesWrite (part : Fin 96) (engines : BitVec 256)
  /-- CORE_RELEASE, R335: The management core releases a frozen core. -/
  | coreRelease (core : Nat)
  /-- ENGINE_RELEASE, R347: The management core releases a frozen engine. -/
  | engineRelease (die : Nat) (engine : Fin 8)
  /-- TENANT_TABLE_WRITE, R372: The management core writes a Beacon tenant-table entry. -/
  | tenantTableWrite (index : Fin 256) (entry : Word64)
  /-- MEASUREMENT_EXTEND, R366: A measurement register is extended with SHA-384. -/
  | measurementExtend (index : Fin 16) (digest : BitVec 384)
  /-- RESET, R349: Reset clears every ready bit and starts the boot ROM. -/
  | reset
  /-- FUNCTION_READY, R10: A function's self-test completes and it sets its ready bit. -/
  | functionReady (register : Fin 3) (bitNo : Fin 64)
  /-- DIE_UNREACHABLE, R330: A die-to-die link fails and the die's teams are lost. -/
  | dieUnreachable (die : Nat)
  /-- INBOUND_APERTURE_ACCESS, R359: A host access through a VF's BAR2 aperture, translated by stage 2. -/
  | inboundApertureAccess (part : Fin 96) (offset : Nat) (access : OutAccess)
  /-- VAULT_APERTURE_ACCESS, R359: A host access through a VF's vault aperture. -/
  | vaultApertureAccess (part : Fin 96) (offset : Nat) (access : OutAccess)
  /-- CXL_MEM_ACCESS, R362: A host CXL.mem access to exported TIER1 memory. -/
  | cxlMemAccess (part : Fin 96) (address : Nat) (access : OutAccess)
  /-- QUERY, R363: IDE_KM QUERY message. -/
  | query (part : Fin 96)
  /-- KEY_PROG, R363: IDE_KM KEY_PROG programs an IDE key. -/
  | keyProg (part : Fin 96) (keySet : Bool)
  /-- K_SET_GO, R363: IDE_KM K_SET_GO activates a key set. -/
  | kSetGo (part : Fin 96) (keySet : Bool)
  /-- K_SET_STOP, R363: IDE_KM K_SET_STOP stops a key set. -/
  | kSetStop (part : Fin 96) (keySet : Bool)
  /-- GET_TDISP_VERSION, R364: TDISP version request. -/
  | getTdispVersion (part : Fin 96)
  /-- GET_TDISP_CAPABILITIES, R364: TDISP capabilities request. -/
  | getTdispCapabilities (part : Fin 96)
  /-- LOCK_INTERFACE_REQUEST, R365: Lock a TDI; a later request for a locked TDI gets an error. -/
  | lockInterfaceRequest (part : Fin 96) (via : Mailbox)
  /-- GET_DEVICE_INTERFACE_REPORT, R364: TDISP interface report request. -/
  | getDeviceInterfaceReport (part : Fin 96)
  /-- GET_DEVICE_INTERFACE_STATE, R364: TDISP interface state request. -/
  | getDeviceInterfaceState (part : Fin 96)
  /-- START_INTERFACE_REQUEST, R364: Move a TDI to RUN. -/
  | startInterfaceRequest (part : Fin 96)
  /-- STOP_INTERFACE_REQUEST, R364: Zero the partition and return the TDI to CONFIG_UNLOCKED. -/
  | stopInterfaceRequest (part : Fin 96)
  /-- GET_VERSION, R367: SPDM GET_VERSION. -/
  | getVersion (via : Mailbox)
  /-- GET_CAPABILITIES, R367: SPDM GET_CAPABILITIES. -/
  | getCapabilities (via : Mailbox)
  /-- NEGOTIATE_ALGORITHMS, R367: SPDM NEGOTIATE_ALGORITHMS. -/
  | negotiateAlgorithms (via : Mailbox)
  /-- GET_DIGESTS, R367: SPDM GET_DIGESTS. -/
  | getDigests (via : Mailbox)
  /-- GET_CERTIFICATE, R367: SPDM GET_CERTIFICATE. -/
  | getCertificate (via : Mailbox)
  /-- CHALLENGE, R367: SPDM CHALLENGE. -/
  | challenge (via : Mailbox)
  /-- GET_MEASUREMENTS, R367: SPDM GET_MEASUREMENTS returns the measurement registers. -/
  | getMeasurements (via : Mailbox)
  /-- KEY_EXCHANGE, R367: SPDM KEY_EXCHANGE, also setting up Beacon stream keys. -/
  | keyExchange (via : Mailbox) (stream : Option (Fin 96 × BitVec 16))
  /-- FINISH, R367: SPDM FINISH. -/
  | finish (via : Mailbox)
  /-- SPDM_UNSUPPORTED, R367: Any other SPDM request receives ERROR UnsupportedRequest. -/
  | spdmUnsupported (via : Mailbox)
  /-- WRITE, R373: Inbound Beacon WRITE flit performed for the local partition or refused. -/
  | write (f : Flit) (va : BitVec 64) (mask : BitVec 128) (bytes : List Byte)
  /-- READ, R373: Inbound Beacon READ flit answered or refused poisoned. -/
  | read (f : Flit) (va : BitVec 64) (count : Nat)
  /-- READ_RESPONSE, R370: A READ RESPONSE flit completes an outstanding read. -/
  | readResponse (f : Flit) (bytes : List Byte)
  /-- ATOMIC, R373: Inbound Beacon ATOMIC flit performed at the home. -/
  | atomic (f : Flit) (va : BitVec 64) (major : Nat) (mod : Nat) (order : Option (Order × Scope)) (operands : List Byte)
  /-- ATOMIC_RESPONSE, R370: An ATOMIC RESPONSE flit returns the old value. -/
  | atomicResponse (f : Flit) (old : Word64)
  /-- ACK, R370: An ACK flit confirms performed writes. -/
  | ack (f : Flit) (tags : List (BitVec 32))
  /-- LAUNCH, R374: A LAUNCH flit is validated and writes a launch window. -/
  | launch (f : Flit) (target : Byte) (record : LaunchBytes)
  /-- LAUNCH_RESULT, R370: A LAUNCH RESULT flit returns a verdict. -/
  | launchResult (f : Flit) (verdict : Byte)
  /-- CAPABILITY, R368: A CAPABILITY flit announces package id and capabilities. -/
  | capability (f : Flit) (package : BitVec 16) (stook timeMaster : Bool)
  /-- TIME, R375: A TIME flit adjusts package time. -/
  | time (f : Flit) (time : BitVec 56)
  /-- FLIT_NOP, R370: A NOP flit. -/
  | flitNop (f : Flit)
  /-- FLIT_UNLISTED, R370: A flit of an unlisted type is dropped and reported. -/
  | flitUnlisted (f : Flit) (type : Byte)
  /-- LINK_TRAINED, R368: A Beacon link completes training and sets its ready bit. -/
  | linkTrained (port : Fin 12) (peer : BitVec 16)
  /-- LINK_DOWN, R376: A Beacon port goes down; outstanding requests are given up. -/
  | linkDown (port : Fin 12)
  /-- STREAM_MOVE, R376: A stream resumes on its new port after its outstanding requests finish. -/
  | streamMove (part : Fin 96) (package : BitVec 16)
  /-- FQCONS_WRITE, R317: The driver's write to FQCONS frees fault-queue entries, so records the hub was holding are posted. -/
  | fqconsWrite (part : Fin 96) (value : Word64)
  /-- ENERGY_LO_READ, R342: A read of ENERGY.lo, or of the package counter's low half, latches the high half for the reading agent. -/
  | energyLoRead (agent : EnergyAgent)
  /-- HOST_READ_COMPLETION, R360: A PCIe completion for an outbound read, acquire or AtomicOp to HOST memory returns and releases the accesses waiting on it. -/
  | hostReadCompletion (tag : BitVec 32) (bytes : List Byte) (poison : Bool)
  /-- LANE_FAILS, R368: A Beacon lane fails and the port drops to four lanes at half rate until retraining in a long slot. -/
  | laneFails (port : Fin 12)
  deriving DecidableEq, Repr

end Sys2Proof
end

