-- ==== Sys2Proof/Machine/State.lean ====
section
/-!
DEFINITION. The state of the machine as plain data: threads (spec/04_lane.md R88), groups and teams (spec/08_core.md
R167 to R190), cores, clusters (spec/13_cluster.md), dies (spec/16_die.md), the package and its partitions
(spec/17_package.md) and the fabric (spec/19_fabric.md); why a step may stop; and the state after reset (R349).
-/
namespace Sys2Proof.Machine

/-- A memory: (address, byte) pairs in canonical form (`Memory.wf`). -/
abbrev Memory := List Host.Cell

/-- A word index together with the code view it counts in: the launch's code view, or the code-bank view of a contained
lane (R140). -/
structure Place where
  bank : Bool
  pc   : Word
  deriving DecidableEq, Repr

/-- A 64-byte line of code held in a loop buffer or by the code unit (R88, R300): its virtual address / 64 and its 16
words. -/
structure CodeLine where
  line  : Nat
  words : List Word
  deriving DecidableEq, Repr

/-- A view descriptor (R98, R99), with the mapped region it is bound to (R294, R295). -/
structure View where
  base   : Word64
  flags  : Word64
  ext    : Vector Word 5
  str    : Vector Word 4
  mbase  : Word64
  region : Option Nat
  deriving DecidableEq, Repr

/-- The checkpoint of a task (R273). -/
structure Checkpoint where
  pc    : Word
  stack : List Word
  spill : BitVec 16
  deriving DecidableEq, Repr

/-- The task state of a thread (R273). `home` is the flat address of the header of the task's queue: the model's own, since the
queue may be loaded under another number later (DEDUCED, log 86). -/
structure Task where
  hold  : Bool
  queue : Nat
  home  : Nat
  entry : List Word
  check : Option Checkpoint
  side  : Bool
  deriving DecidableEq, Repr

/-- The contained state of a lane, with what CENTER set aside and where the outcome goes (R104, R141). -/
structure Contained where
  entry  : Nat
  limit  : Nat
  count  : Nat
  stack  : List Word
  spill  : BitVec 16
  p      : Vector Bool 4
  status : Word
  d      : Fin 64
  home   : Word
  deriving DecidableEq, Repr

/-- What a lane waits for by itself: the broadcast PC, at an instruction of a held class (R92), SYNCL for a mask of lanes (R132), BARG (R208), a queue entry at a cluster's record
(R259, R272), a future (R280), a translation of code (R300), that the machine moves on (R170, R186), or the refill of its return stack (R97). -/
inductive LaneWait where
  | none
  | held
  | syncl (mask words : Nat)
  | barg (words : Nat)
  | qpop (rec : Nat)
  | fread (addr words : Nat) (d : Fin 64)
  | code (line : Nat)
  | retry (at_ : Nat)
  | refill
  deriving DecidableEq, Repr

/-- A thread (R88, R132, R137, R273). `latches` holds b0 first and is as long as the producers of the current chain, up
to four; `chain` is the chain's length so far (R55). `pending` are the destinations of logged loads (R170, R186). -/
structure Lane where
  v        : Vector Word 64
  p        : Vector Bool 4
  pc       : Word
  latches  : List Word
  chain    : Nat
  status   : Word
  fuel     : BitVec 24
  fuelLeft : BitVec 24
  h0       : Word64
  h1       : Word64
  stack    : List Word
  spill    : BitVec 16
  loop     : List CodeLine
  gen      : BitVec 16
  hi       : Vector Word 6
  exited   : Bool
  inside   : Option Contained
  wait     : LaneWait
  excused  : Bool
  pending  : List (Fin 64)
  bad      : List (Fin 64)
  task     : Task
  deriving DecidableEq, Repr

/-- A hint of the issue unit in hand (R56). -/
inductive Hint where
  | imm (x : BitVec 23)
  | bt (x : OpHbt)
  | ord (x : OpHord)
  | sch (n : Fin 16)
  | gath (sel : Fin 4)
  deriving DecidableEq, Repr

/-- What one lane recorded in an operand-log entry (R186). -/
structure LaneAccess where
  lane   : Nat
  coords : List Word
  data   : List Word
  deriving DecidableEq, Repr

/-- An operand-log entry (R186, R196): its number, the unit, the lanes and what they read, the view's number and descriptor, the
destination registers still pending, and the lanes whose access was answered with FAIL (R385). -/
structure LogEntry where
  no    : Nat
  place : Place
  words : Nat
  instr : Instr
  hints : List Hint
  lanes : List LaneAccess
  vw    : Nat
  view  : View
  dests : List (Fin 64)
  failed : Bool
  deriving DecidableEq, Repr

/-- A posted record (R187), with the eight bytes at 0x30 that a kind may place fields in. -/
structure Record where
  stamp  : Word64
  kind   : Nat
  stage  : Nat
  group  : Nat
  core   : Nat
  part   : Nat
  seq    : Nat
  pc     : Word
  lanes  : BitVec 64
  detail : Word
  teamNo : Word
  extra  : Word64
  deriving DecidableEq, Repr

/-- A group's halt (R188, R385): its record, the lanes that stand at the faulting unit, the unit's length in words,
whether RESUME continues after the unit (trap halt and breakpoint), whether it is the watchdog's, the number of the logged entry it
concerns, and its halt-window slot. -/
structure Halt where
  record : Record
  atUnit : BitVec 64
  words  : Nat
  after  : Bool
  dog    : Bool
  logged : Option Nat
  slot   : Option Nat
  deriving DecidableEq, Repr

/-- Which unit performs a copy, and between what (R234, R307, R324). -/
inductive CopyKind where
  | tileIn | tileOut | bulk | image
  deriving DecidableEq, Repr

/-- A copy in a queue (R234 to R243, R307, R311, R324): its number, the views it was checked against, its block, how many pieces
have moved, the teams on the cores that its chain lists and those still to come, what follows it, the stamp of the record it is suspended
under (R183), the landed bytes of a chain's tile by region offset (R243) with the offsets of the words that were
poisoned; of its next granule the bytes that the host or a peer has sent, by flat address and whether poisoned (R360, R370), and
whether its bytes are on their way to a peer and not yet acknowledged (R373). -/
structure Copy where
  no     : Nat
  kind   : CopyKind
  xf     : Nat
  src    : View
  dst    : View
  side   : View
  block  : List Word
  h      : Nat
  core   : Nat
  part   : Nat
  seq    : Nat
  team   : Nat
  group  : Nat
  lanes  : BitVec 64
  place  : Place
  vw     : Nat
  moved  : Nat
  chain  : List Nat
  hops   : List Nat
  hop    : Bool
  follow : Option Word
  susp   : Option Word64
  tile   : List (Nat × List Byte)
  spoilt : List Nat
  got    : List (Nat × Byte × Bool)
  sent   : Bool
  deriving DecidableEq, Repr

/-- What a whole group waits for (R170): a unit that issues again when the machine moves on, an entry of a full operand log
(R186), a QFENCE (R206), BART
(R209), BARC on a cell (R284), a tile copy or a bulk copy before its late checks (R240, R241, R308), with what it read, and a YIELD (R134)
with the groups that have yet to issue. -/
inductive GroupWait where
  | none
  | retry (at_ : Nat)
  | port
  | qfence (id words : Nat) (mem : Bool)
  | bart (words : Nat)
  | barc (cell words : Nat)
  | copy (c : Copy) (words : Nat)
  | bulk (c : Copy) (words eng q : Nat)
  | yielded (groups : List Nat)
  deriving DecidableEq, Repr

/-- The RVZ in progress (R131): its word index and its bound. -/
structure Rvz where
  place : Place
  bound : Word
  words : Nat
  guard : Guard
  deriving DecidableEq, Repr

/-- The role of a stage (R177). -/
inductive Role where
  | copy | matrix | vector
  deriving DecidableEq, Repr

/-- A group (R88, R89, R93, R136, R169 to R171, R186, R188, R208, R329). `heldFor` counts, for each place at which lanes wait
under R92, the issues for which some have (R93); `age` is the ready age, none while the group has not been ready since its
last issue (R171). `trigNo` is the number that was next when it
issued TRIG: log entries and copies with lower numbers were made before. -/
structure Group where
  stage     : Nat
  index     : Nat
  role      : Role
  width     : Nat
  nregs     : Nat
  segment   : Nat
  s         : Vector Word 32
  place     : Place
  heldFor   : List (Place × Nat)
  age       : Option Nat
  run       : Nat
  wait      : GroupWait
  rvz       : Option Rvz
  bargTo    : Option Nat
  cmask     : Word64
  log       : List LogEntry
  halts     : List Halt
  triggered : Bool
  trigNo    : Option Nat
  ended     : Bool
  lanes     : List Lane
  deriving DecidableEq, Repr

/-- The states of a buffer handle (R179). -/
inductive HState where
  | free | filling | full | draining
  deriving DecidableEq, Repr

/-- The description a fill's header is written from (R184, R238). -/
structure TileDesc where
  ty     : Nat
  planes : Nat
  rows   : Nat
  k      : Nat
  pitch  : Nat
  scale  : Nat
  deriving DecidableEq, Repr

/-- A buffer-table entry (R179), with the description of the fill in progress and whether a data error has set FAULTED
(R183). -/
structure Handle where
  state   : HState
  phase   : Bool
  isSealed : Bool
  faulted : Bool
  pending : Nat
  expect  : Nat
  arrived : Nat
  base    : Nat
  size    : Nat
  satcnt  : Nat
  desc    : Option TileDesc
  broken  : Bool
  deriving DecidableEq, Repr

/-- A slot of a mapped region (R293). -/
inductive SlotState where
  | invalid | clean | dirty
  deriving DecidableEq, Repr

/-- A slot's tag, the page whose fill is in progress (R293), and the translation that the granule's fill obtained (R203, R297): the
flat address of the granule and the rights of the two stages. -/
structure Slot where
  state   : SlotState
  page    : Nat
  filling : Option Nat
  trans   : Option (Nat × Nat × Nat)
  deriving DecidableEq, Repr

/-- A mapped region (R293, R294): its storage, its home's space and package (HOST, PEER or DEVICE), its slots, the
view first bound to it, and the slots whose storage another view has touched (R295). -/
structure Region where
  id    : Nat
  inVault : Bool
  vault : Nat
  off   : Nat
  slots : List Slot
  view  : Nat
  space : Nat
  pkg   : Nat
  strays : List Nat
  deriving DecidableEq, Repr

/-- An entry of the matrix queue (R185, R231, R242): an instruction with what it read at issue (MMAG's row indices, PADD's
step, the tile headers of its handles), its group, and for a follow-on the place of its copy; or the marker of a QFENCE
(R206). -/
inductive MatrixEntry where
  | op (instr : Instr) (rows : List Nat) (step : Word) (group : Nat) (follow : Option Place) (heads : List TileDesc)
  | fence (id : Nat)
  deriving DecidableEq, Repr

/-- An entry of a tile-port queue or of a bulk queue. -/
inductive CopyEntry where
  | copy (c : Copy)
  | fence (id : Nat)
  deriving DecidableEq, Repr

/-- A follow-on command that is not in the matrix queue yet (R242): the handle whose FULL releases it, or none where it
is released and held for room; whether it came from the out-queue; and its entry. -/
structure Follow where
  h     : Option Nat
  out   : Bool
  entry : MatrixEntry
  deriving DecidableEq, Repr

/-- A BART episode (R209): its target, and the groups that have arrived. -/
structure Bart where
  target  : Nat
  arrived : List Nat
  deriving DecidableEq, Repr

/-- What holds a placed team from issuing or a core from being released: nothing, the scratchpad image (R324), the
queue record named by the launch (R140), the team has ended and its
entries are being performed (R326), or it is over and keeps its core for its crew (R252). -/
inductive TeamPhase where
  | runs | image (moved : Nat) | queue | ending (killed : Bool) | finished
  deriving DecidableEq, Repr

/-- The type of the A latch and its 16 rows of 192 bytes (R228). -/
structure ALatch where
  ty   : LatchTy
  rows : List (List Byte)
  deriving DecidableEq, Repr

/-- A resident or saved team (R167); `stopped` says that a pre-emption has halted it (R190). -/
structure Team where
  part     : Nat
  seq      : Nat
  number   : Nat
  crewId   : Nat
  groups   : List Group
  views    : Vector View 64
  handles  : List Handle
  z        : List (List Word)
  alatch   : Option ALatch
  mq       : List MatrixEntry
  inq      : List CopyEntry
  outq     : List CopyEntry
  follows  : List Follow
  watchdog : Nat
  bart     : Option Bart
  barcIn   : Option Nat
  regions  : List Region
  nextReg  : Nat
  phase    : TeamPhase
  stopped  : Bool
  deriving DecidableEq, Repr

/-- A core (R167, R168, R300, R335). A core that is not listed is `Core.idle`. -/
structure Core where
  id     : Nat
  team   : Option Team
  fetch  : List CodeLine
  user   : Option Nat
  frozen : Bool
  deriving DecidableEq, Repr

/-- A lane that waits at a queue record (R259), with its unit's destination, length and view. -/
structure Waiter where
  core  : Nat
  group : Nat
  lane  : Nat
  d     : Fin 64
  words : Nat
  vw    : Nat
  deriving DecidableEq, Repr

/-- A loaded queue record (R256 to R261). Its `error`, as every error of the hardware, comes from outside. (DEDUCED, log 85.) -/
structure QRec where
  no      : Nat
  vault   : Nat
  base    : Nat
  cap     : Nat
  head    : Word
  tail    : Word
  live    : Word
  parked  : Nat
  parkn   : Nat
  closed  : Bool
  auto    : Bool
  error   : Bool
  pfree   : Nat
  waiters : List Waiter
  users   : List Nat
  part    : Nat
  deriving DecidableEq, Repr

/-- A crew barrier cell (R254), and whether an uncorrectable error has frozen it (R269). -/
structure BarCell where
  phase   : Bool
  expect  : Nat
  arrived : Nat
  pending : Nat
  frozen  : Bool
  deriving DecidableEq, Repr

/-- The eight cells of a crew (R254). -/
structure CrewCells where
  part  : Nat
  seq   : Nat
  crew  : Nat
  cells : List BarCell
  deriving DecidableEq, Repr

/-- A cluster (R254, R256), and whether its queue unit is frozen (R335). -/
structure Cluster where
  id     : Nat
  recs   : List QRec
  crews  : List CrewCells
  frozen : Bool
  deriving DecidableEq, Repr

/-- A bulk engine: its eight queues, whether it is frozen (R306, R347), the queue that it served last, and the queue whose
granule was in flight when it was frozen by a slot. -/
structure Engine where
  die    : Nat
  id     : Nat
  queues : List (List CopyEntry)
  frozen : Bool
  turn   : Nat
  flight : Option Nat
  deriving DecidableEq, Repr

/-- The release tag of a 64-byte line (R265), or of an atomic's unit outside SRAM (R113): scope, origin, and the thread
that released. -/
structure Tag where
  line   : Nat
  scope  : Nat
  origin : Nat
  core   : Nat
  group  : Nat
  lane   : Nat
  deriving DecidableEq, Repr

/-- The agent that a translation fault left waiting (R304): a logged access of its own, the fill of a slot, and the
units. -/
inductive XAgent where
  | log (core group no : Nat)
  | fill (core region slot : Nat)
  | code (core line : Nat)
  | tile (core : Nat) (out : Bool)
  | bulk (die engine queue : Nat)
  | writeBack (core region slot : Nat) (group : Option Nat)
  | bitmap (seq team : Nat) (ended : Bool)
  | image (core : Nat)
  deriving DecidableEq, Repr

/-- A group's unit that waits for a write-back (R304): its first word, its length, and the lanes that wait; of length 0 where
it is a logged access that is replayed. -/
structure Forced where
  group : Nat
  pc    : Word
  words : Nat
  lanes : BitVec 64
  deriving DecidableEq, Repr

/-- An outstanding TRANSLATE record (R304): the record, the agent, the length of the unit in hand when it was posted, and, of
a write-back, the further units that have come to wait for it. -/
structure XWait where
  record : Record
  agent  : XAgent
  words  : Nat
  also   : List Forced
  deriving DecidableEq, Repr

/-- The stages of a launch's life (R322, R323, R326, R330). -/
inductive Life where
  | active | rejected | done | failed | aborted
  deriving DecidableEq, Repr

/-- A launch the dispatcher has copied: its record, its plan entries, its map table's sets, its on-chip TRIG and END
state by team, the teams placed, lost and killed, and whether BLOCKED was posted (R322, R326, R327, R330). -/
structure Launch where
  record  : LaunchBytes
  life    : Life
  views   : Vector View 64
  plan    : List Word
  map     : List Word64
  trig    : List Nat
  ended   : List Nat
  placed  : List Nat
  lost    : List Nat
  killed  : Bool
  blocked : Bool
  deriving DecidableEq, Repr

/-- A saved team (R190, R331): its context, the core it ran on, its scratchpad allocation's listed bytes and poisoned
words by offset, its suspended bulk entries with their engine and queue, and its crew's cells. (DESIGN CHOICE, log 21.) -/
structure SavedTeam where
  team    : Team
  core    : Nat
  scratch : Memory
  poison  : List Nat
  bulk    : List (Nat × Nat × Copy)
  cells   : Option (List BarCell)
  die     : Nat
  eligible : Bool
  deriving DecidableEq, Repr

/-- The TDISP states of a TDI (R364). -/
inductive Tdisp where
  | unlocked | locked | run | error
  deriving DecidableEq, Repr

/-- The integrity unit's state for a sealed partition (R336): its key's number, its epoch, the accumulators W, RM and SW
of the two parities, the epoch tags of the lines, the lines visited in this period and the time it began, and whether an
accumulator has met an uncorrectable error (R338). -/
structure Integrity where
  key    : Nat
  epoch  : Word
  w      : Vector (BitVec 128) 2
  rm     : Vector (BitVec 128) 2
  sw     : Vector (BitVec 128) 2
  tags   : List (Nat × Word)
  seen   : List Nat
  began  : Nat
  broken : Bool
  deriving DecidableEq, Repr

/-- A cached translation of a 64 KiB page (R303): the virtual page, the physical page in the flat memory, and the R, W
and A rights of the two stages. -/
structure TlbEntry where
  page : Nat
  base : Nat
  r1   : Nat
  r2   : Nat
  isSealed : Bool
  deriving DecidableEq, Repr

/-- A partition (R317, R334, R336, R342, R364). `verdicts` are the launch packets whose records are committed and not yet
copied, by sequence number (R374); `lwin` is the launch window's 32 slots as they are written (R318). -/
structure Part where
  id       : Nat
  sheaves  : BitVec 96
  pool     : List (Fin 4)
  root     : BitVec 48
  ranges   : List RangeEntry
  engines  : BitVec 256
  isSealed : Bool
  period   : Nat
  window   : List LaunchBytes
  last     : Word64
  consumed : Word64
  kills    : List Nat
  ctxbase  : Word64
  fqbase   : Word64
  fqsize   : Word64
  fqprod   : Word
  fqcons   : Word
  lost     : Word64
  xinv     : Bool
  frozen   : Bool
  integFail : Bool
  preempting : Bool
  saving   : Nat
  held     : List Record
  energy   : Word64
  energyHi : Word
  tlb      : List TlbEntry
  xwaits   : List XWait
  launches : List Launch
  saved    : List SavedTeam
  integ    : Option Integrity
  tdisp    : Tdisp
  lockedAt : Option Word64
  ideKeys  : List Bool
  ideLive  : Option Bool
  portFrozen : Bool
  msix     : Nat
  verdicts : List (Word64 × Flit)
  lwin     : List LaunchBytes
  deriving DecidableEq, Repr

/-- A Beacon port (R368, R370): `lanes` counts the working ones. -/
structure Port where
  up      : Bool
  lanes   : Nat
  peer    : BitVec 16
  stook   : Bool
  master  : Bool
  deriving DecidableEq, Repr

/-- A stream (R371): source package and partition (of an inbound stream) or destination package (of an outbound one),
its count, its key's number, the key that replaces it once the stream has drained, and whether it is frozen. -/
structure Stream where
  inbound : Bool
  part    : Nat
  pkg     : BitVec 16
  port    : Nat
  gen     : Word
  seq     : Word
  key     : Option Nat
  nextKey : Option Nat
  frozen  : Bool
  deriving DecidableEq, Repr

/-- What waits for an outbound request (R360, R370, R376): a slot's fill, one lane's logged access, the ACK of a write
by a core's team, the bytes that a copy of a core's team reads, the ACK of those that it writes, or the answer to an addition of a
copy's bytes at their home (R237), with its transform. -/
inductive ReqAgent where
  | fill (core region slot : Nat)
  | access (core group no lane : Nat)
  | write (core : Nat)
  | read (core copy : Nat)
  | sent (core copy : Nat)
  | add (core copy xf : Nat) (bytes : List Byte)
  deriving DecidableEq, Repr

/-- An outbound request that waits for its completion, response or ACK (R360, R370, R376): the flat addresses it reads or
writes. -/
structure Request where
  tag    : Word
  toHost : Bool
  pkg    : BitVec 16
  part   : Nat
  atomic : Bool
  addrs  : List Nat
  agent  : ReqAgent
  deriving DecidableEq, Repr

/-- A response of a partition to a package, as it waits for its stream (R371, R376). -/
structure Reply where
  part   : Nat
  pkg    : BitVec 16
  type   : Nat
  poison : Bool
  tag    : Word
  body   : List Byte
  deriving DecidableEq, Repr

/-- The thread that wrote a byte of a scratchpad or vault last (R267): of a team of a launch, its group and its lane. -/
structure Author where
  addr  : Nat
  part  : Nat
  seq   : Nat
  team  : Nat
  group : Nat
  lane  : Nat
  deriving DecidableEq, Repr

/-- A write by a launch's team: which team, whether the team had triggered before, and the flat addresses (R330). -/
structure TeamWrite where
  part  : Nat
  seq   : Nat
  team  : Nat
  after : Bool
  addrs : List Nat
  deriving DecidableEq, Repr

/-- A message the device sends. `proto` is 0 for a PCIe completion (`code` 0 successful, 1 Unsupported Request, 2
poisoned; `dest` the partition, 96 for the physical function), 1 for a Beacon flit (`code` its TYPE, `dest` the port, `body` its
256 bytes), 2 and 3 for an SPDM response over DOE and MCTP, 4 for IDE_KM, 5 and 6 for TDISP over DOE and MCTP (`code` the
response, `dest` the partition), 7 for CXL.mem (as 0), and 8 for a back-invalidation of a line of the host (R362; `body` its
address). -/
structure Message where
  proto : Nat
  code  : Nat
  dest  : Nat
  body  : List Byte
  deriving DecidableEq, Repr

/-- The phase of the slot calendar (R310, R344, R348): in a slot, between, in a guard, and at a frame's start before its
slot has started. -/
inductive CalPhase where
  | slot | running | guard | starting
  deriving DecidableEq, Repr

/-- The SPDM session of the management core (R367). -/
structure Spdm where
  version : Bool
  caps    : Bool
  algs    : Bool
  session : Bool
  secured : Bool
  served  : Nat
  deriving DecidableEq, Repr

/-- The issue unit in hand: which group issues it, with which lanes, from which first word, how many words so far, the
hints read so far, and whether a diverged lane executes it alone (R56, R90, R91). The model's own field. -/
structure Issue where
  core  : Nat
  group : Nat
  lanes : List Nat
  place : Place
  words : Nat
  hints : List Hint
  alone : Bool
  deriving DecidableEq, Repr

/-- An outside access to this package's DRAM that waits for the end of a slot (R348) or for a channel (R305): through the inbound aperture or CXL.mem, or
by a WRITE, READ or ATOMIC flit. -/
inductive Deferred where
  | inbound (part : Fin 96) (offset : Nat) (access : OutAccess)
  | cxl (part : Fin 96) (address : Nat) (access : OutAccess)
  | write (f : Flit) (va : BitVec 64) (mask : BitVec 128) (bytes : List Byte)
  | read (f : Flit) (va : BitVec 64) (count : Nat)
  | atomic (f : Flit) (va : BitVec 64) (major mod : Nat) (order : Option (Order × Scope)) (operands : List Byte)
  deriving DecidableEq, Repr

/-- A move to come. The model's own: which agent moves next (DESIGN CHOICE, log 2). `flaw`, `linkFlaw` and `regFlaw` are ECC errors (R314), of the 64-bit word at
a flat address, of a die-to-die link lane and of a register-file row. `page` and `vfPage` are the host's reads of the
global page and of a partition's control page (R317, R359), which no row of the table names. -/
inductive Turn where
  | unit (core group : Nat)
  | lane (core group lane : Nat)
  | event (e : Instr)
  | wait (ns : Nat)
  | page (offset : Nat)
  | vfPage (part offset : Nat)
  | flaw (at_ : Nat) (corrected : Bool)
  | linkFlaw (at_ : Nat) (corrected : Bool)
  | regFlaw (core group lane : Nat) (reg : Fin 64) (corrected : Bool)
  deriving DecidableEq, Repr

/-- The whole machine. `timeHad` says that a TIME flit has set package time since a time path was last lost, and `timeOff`
counts the TIME flits in a row that found it more than 50 ns off; `timeSlow` is by how many ns it is still to be slewed back
(R375). `slotEmpty` are the sheaves that were empty as the slot started (R343). `writes` are the teams' writes, newest first
(R330), and `authors` the bytes of SRAM that a thread wrote last. `deferred` are the outside accesses to this package's DRAM
that wait for their DRAM to serve, oldest first (R305, R348), and `replies` the responses that wait for their streams (R376). `flip`, `progress`, `clock`, `draws`, `turns` and
`issue` are the model's own (DESIGN CHOICE, log 2, log 7). -/
structure State where
  cores     : List Core
  clusters  : List Cluster
  engines   : List Engine
  testing   : List (Nat × Option Nat × Record)
  parts     : List Part
  mem       : Memory
  tags      : List Tag
  poison    : List Nat
  time      : BitVec 56
  stampNext : Word64
  cutDies   : List Nat
  writes    : List TeamWrite
  authors   : List Author
  deferred  : List Deferred
  replies   : List Reply
  timeHad   : Bool
  timeOff   : Nat
  timeSlow  : Nat
  phase     : CalPhase
  slotLen   : Nat
  slotEmpty : BitVec 96
  ready0    : Word64
  ready1    : Word64
  ready2    : Word64
  energy    : Word64
  energyHi  : Word
  packageId : BitVec 16
  measures  : Vector (BitVec 384) 16
  budgets   : Vector Nat 96
  ballast   : Vector (Nat × Nat × Nat) 96
  tenants   : List Word64
  ports     : List Port
  streams   : List Stream
  requests  : List Request
  nextTag   : Word
  outbox    : List Message
  spdm      : Spdm
  mgmt      : List Record
  nextFence : Nat
  turns     : List Turn
  flip      : Bool
  progress  : Nat
  clock     : Nat
  draws     : Nat
  issue     : Option Issue
  deriving DecidableEq, Repr

/-- Why the model itself cannot go on. No rule of the spec ends a run; a fault of a program is a halt of its group, which
is a next state. -/
inductive Fault where
  /-- A meaning was called while no issue unit was in hand, or for a core, group or lane that does not exist. `step`
  never does that. Safe. -/
  | noIssue
  deriving DecidableEq, Repr

/-- Why the model gives no meaning. -/
inductive Refusal where
  /-- `exec` answers this for an instruction whose meaning is not written. Safe. -/
  | notModelled (mnemonic : String)
  deriving DecidableEq, Repr

/-- An empty port (R349: every ready bit is 0 at reset; DESIGN CHOICE, log 6). -/
def Port.down : Port := ⟨false, 8, 0, false, false⟩

/-- The state after reset (R349: every ready bit is 0; no partition exists; R366: the measurement registers are zero);
the values the spec does not give are those of log 1 and log 6 (DESIGN CHOICE). -/
def State.reset : State where
  cores     := []
  clusters  := []
  engines   := []
  testing   := []
  parts     := []
  mem       := []
  tags      := []
  poison    := []
  time      := 0
  stampNext := 0
  cutDies   := []
  writes    := []
  authors   := []
  deferred  := []
  replies   := []
  timeHad   := false
  timeOff   := 0
  timeSlow  := 0
  phase     := .slot
  slotLen   := 6144
  slotEmpty := BitVec.allOnes 96
  ready0    := 0
  ready1    := 0
  ready2    := 0
  energy    := 0
  energyHi  := 0
  packageId := 0
  measures  := Vector.replicate 16 0
  budgets   := Vector.replicate 96 16
  ballast   := Vector.replicate 96 (0, 0, 65)
  tenants   := List.replicate 256 0
  ports     := List.replicate 12 Port.down
  streams   := []
  requests  := []
  nextTag   := 0
  outbox    := []
  spdm      := ⟨false, false, false, false, false, 0⟩
  mgmt      := []
  nextFence := 0
  turns     := []
  flip      := false
  progress  := 0
  clock     := 0
  draws     := 0
  issue     := none

end Sys2Proof.Machine
end

