-- ==== Sys2Proof/Machine/Ops.lean ====
section
/-!
DEFINITION. The named operations over the machine: finding and changing its parts, memory in canonical form, translation
(spec/16_die.md R301, R302), stamps and records (spec/00_scope.md R7, R8; spec/17_package.md R317), and taking an
exception, which on this machine is the halt of a group with its record (spec/08_core.md R187), with the return from it
(R188).
-/
namespace Sys2Proof.Machine

/-! ## Parts of the machine -/

/-- A core with nothing on it. -/
def Core.idle (id : Nat) : Core := ⟨id, none, [], none, false⟩

/-- The listed core, or an idle one. -/
def findCore : List Core → Nat → Core
  | [], c => Core.idle c
  | x :: xs, c => if x.id == c then x else findCore xs c

/-- The list with the core put in the place of its number, in rising order. -/
def putCore : List Core → Core → List Core
  | [], c => [c]
  | x :: xs, c => if x.id == c.id then c :: xs else if c.id < x.id then c :: x :: xs else x :: putCore xs c

/-- Core `c`. -/
def State.core (s : State) (c : Nat) : Core := findCore s.cores c

/-- The machine with a core replaced. -/
def State.setCore (s : State) (c : Core) : State := { s with cores := putCore s.cores c }

/-- The team on a core. -/
def State.team (s : State) (c : Nat) : Option Team := (s.core c).team

/-- The machine with the team on a core changed; nothing where there is none. -/
def State.modTeam (s : State) (c : Nat) (f : Team → Team) : State :=
  match (s.core c).team with
  | none => s
  | some t => s.setCore { s.core c with team := some (f t) }

/-- Group `g` of a core's team. -/
def State.group (s : State) (c g : Nat) : Option Group :=
  match s.team c with
  | none => none
  | some t => t.groups[g]?

/-- The machine with a group changed. -/
def State.modGroup (s : State) (c g : Nat) (f : Group → Group) : State :=
  s.modTeam c fun t => { t with groups := modifyNth f g t.groups }

/-- The group with a lane changed. -/
def Group.modLane (g : Group) (l : Nat) (f : Lane → Lane) : Group := { g with lanes := modifyNth f l g.lanes }

/-- The machine with a lane changed. -/
def State.modLane (s : State) (c g l : Nat) (f : Lane → Lane) : State := s.modGroup c g fun x => x.modLane l f

/-- Partition `p`. -/
def findPart : List Part → Nat → Option Part
  | [], _ => none
  | x :: xs, p => if x.id == p then some x else findPart xs p

/-- Partition `p` of the machine. -/
def State.part (s : State) (p : Nat) : Option Part := findPart s.parts p

/-- The core that holds a team of a launch. -/
def State.coreOf (s : State) (part seq n : Nat) : Option Nat :=
  (s.cores.find? fun c => (c.team.map fun t => t.part == part && t.seq == seq && t.number == n).getD false).map (·.id)

/-- Some cores count as passed from one partition to another: the next team placed there finds the scratchpad zero (R168). -/
def State.passOn (s : State) (f : Core → Bool) : State :=
  { s with cores := s.cores.map fun (c : Core) => if f c then { c with user := none } else c }

/-- The machine with a partition changed; nothing where there is none. -/
def State.modPart (s : State) (p : Nat) (f : Part → Part) : State :=
  { s with parts := s.parts.map fun x => if x.id == p then f x else x }

/-- Cluster `k`, empty where it is not listed. -/
def State.cluster (s : State) (k : Nat) : Cluster :=
  (s.clusters.find? fun x => x.id == k).getD ⟨k, [], [], false⟩

/-- The machine with a cluster replaced. -/
def State.setCluster (s : State) (c : Cluster) : State :=
  if s.clusters.any fun x => x.id == c.id then
    { s with clusters := s.clusters.map fun x => if x.id == c.id then c else x }
  else { s with clusters := s.clusters ++ [c] }

/-- The queues of an engine in round-robin order, from the one after the queue served last (R306). -/
def Engine.order (x : Engine) : List Nat := (upFrom (x.turn + 1) 8).map (· % 8)

/-- Bulk engine `e` of a die. -/
def State.engine (s : State) (die e : Nat) : Engine :=
  (s.engines.find? fun x => x.die == die && x.id == e).getD ⟨die, e, List.replicate 8 [], false, 7, none⟩

/-- The machine with a bulk engine replaced. -/
def State.setEngine (s : State) (x : Engine) : State :=
  if s.engines.any fun y => y.die == x.die && y.id == x.id then
    { s with engines := s.engines.map fun y => if y.die == x.die && y.id == x.id then x else y }
  else { s with engines := s.engines ++ [x] }

/-- Something moved: waiting units are tried again (R170). The model's own counter. -/
def State.moved (s : State) : State := { s with progress := s.progress + 1 }

/-! ## Numbering (R250) -/

/-- The die, the cluster in the package, the sheaf in the package and the near vault in the die of a core. -/
def dieOfCore (c : Nat) : Nat := c / 384
def clusterOfCore (c : Nat) : Nat := c / 64
def sheafOfCore (c : Nat) : Nat := c / 16
def vaultOfCore (c : Nat) : Nat := c % 384 / 4

/-! ## Memory: one flat list of bytes in canonical form (DESIGN CHOICE, log 1) -/

/-- The canonical form: addresses strictly rising, no byte 0, which is what an unlisted address reads as. -/
def Memory.wf : Memory → Bool
  | [] => true
  | [(_, b)] => b != 0
  | (a, b) :: (a', b') :: m => b != 0 && decide (a < a') && Memory.wf ((a', b') :: m)

/-- The byte at an address; an unlisted address reads 0 (DESIGN CHOICE, log 1). -/
def Memory.get : Memory → Nat → Byte
  | [], _ => 0
  | (x, b) :: m, a => if x == a then b else if a < x then 0 else Memory.get m a

/-- The memory with one byte written; writing 0 removes the entry. -/
def Memory.put : Memory → Nat → Byte → Memory
  | [], a, b => if b == 0 then [] else [(a, b)]
  | (x, y) :: m, a, b =>
    if a < x then (if b == 0 then (x, y) :: m else (a, b) :: (x, y) :: m)
    else if a == x then (if b == 0 then m else (a, b) :: m)
    else (x, y) :: Memory.put m a b

/-- The bytes of a run that are listed: those that are not 0. -/
def listed : Nat → List Byte → Memory
  | _, [] => []
  | a, b :: bs => if b == 0 then listed (a + 1) bs else (a, b) :: listed (a + 1) bs

/-- Bytes written from an address upwards. -/
def Memory.putAll (m : Memory) (a : Nat) (bs : List Byte) : Memory :=
  m.filter (fun c => c.1 < a) ++ listed a bs ++ m.filter fun c => a + bs.length ≤ c.1

/-- The bytes at `n` addresses from `a` upwards. -/
def Memory.read (m : Memory) (a : Nat) : Nat → List Byte
  | 0 => []
  | n + 1 => Memory.get m a :: Memory.read m (a + 1) n

/-- The memory with every byte of [a, a + n) zero. -/
def Memory.zero (m : Memory) (a n : Nat) : Memory := m.filter fun c => c.1 < a || a + n ≤ c.1

/-- Where each memory lies in the flat list: scratchpads (R175), vaults (R291), the two DRAM tiers (R305), host memory
by bus address (R360) and peer memory by package and virtual address (R98). -/
def scratchAt (core off : Nat) : Nat := core * 2 ^ 18 + off
def vaultAt (die v off : Nat) : Nat := 2 ^ 30 + (die * 96 + v) * 2 ^ 22 + off
def tier1At (pa : Nat) : Nat := 2 ^ 40 + pa
def tier2At (pa : Nat) : Nat := 2 ^ 41 + pa
def hostAt (bus : Nat) : Nat := 2 ^ 50 + bus
def peerAt (pkg va : Nat) : Nat := 2 ^ 60 + pkg * 2 ^ 48 + va

/-- Whether a flat address lies in a scratchpad or a vault, and whether in this package's DRAM. -/
def isSram (a : Nat) : Bool := a < 2 ^ 40
def isDram (a : Nat) : Bool := 2 ^ 40 ≤ a && a < 2 ^ 50
def isVault (a : Nat) : Bool := 2 ^ 30 ≤ a && a < 2 ^ 40
def isHost (a : Nat) : Bool := 2 ^ 50 ≤ a && a < 2 ^ 60
def isPeer (a : Nat) : Bool := 2 ^ 60 ≤ a

/-- The die that holds a flat address (R250, R305). -/
def dieOfAddr (a : Nat) : Option Nat :=
  if a < 2 ^ 30 then some (a / 2 ^ 18 / 384)
  else if a < 2 ^ 40 then some ((a - 2 ^ 30) / 2 ^ 22 / 96)
  else if a < 2 ^ 41 then some ((a - 2 ^ 40) / 2 ^ 35)
  else if a < 2 ^ 50 then some ((a - 2 ^ 41) / (192 * 2 ^ 30))
  else none

/-- Whether the memory channel of a flat address has its ready bit (R305, R349). -/
def State.channelReady (s : State) (a : Nat) : Bool :=
  if isDram a then
    if a < 2 ^ 41 then bit s.ready1.toNat (8 * ((a - 2 ^ 40) / 2 ^ 35) + fld a 8 3)
    else bit s.ready1.toNat (32 + 4 * ((a - 2 ^ 41) / (192 * 2 ^ 30)) + fld a 8 2)
  else true

/-- Whether this package's DRAM serves nothing: in a slot, up to its end as extended (R344, R348). -/
def State.dramShut (s : State) : Bool := s.phase == .slot || s.phase == .starting

/-- Whether memory at a flat address serves an access now: DRAM does outside a slot (R344, R348), where its channel has its ready bit
(R305). -/
def State.serves (s : State) (a : Nat) : Bool := !isDram a || (!s.dramShut && s.channelReady a)

/-- The machine as it is when its DRAM serves: what a write that waits for its memory translates by. The tables are read as they
stand now. (DEDUCED, log 98.) -/
def State.served (s : State) : State := { s with phase := .running, ready1 := BitVec.allOnes 64 }

/-- Whether a flat address lies on a die that stopped answering (R330). -/
def State.cut (s : State) (a : Nat) : Bool :=
  match dieOfAddr a with
  | none => false
  | some d => s.cutDies.contains d

/-- Bytes of memory. An unreachable die gives poison, which `poisoned` reports (R330). -/
def State.read (s : State) (a n : Nat) : List Byte := s.mem.read a n

/-- The little-endian number at an address. -/
def State.num (s : State) (a n : Nat) : Nat := ofBytes (s.read a n)

/-- Whether any 64-bit word that [a, a + n) touches is poisoned, or its die unreachable (R314, R330). -/
def State.poisoned (s : State) (a n : Nat) : Bool :=
  s.poison.any (fun w => a / 8 ≤ w && w ≤ (a + n - 1) / 8) || s.cut a

/-- The first flat address of each 64-byte line that [a, a + n) touches, a line being a number. -/
def linesOf (a n : Nat) : List Nat := if n == 0 then [] else upFrom (a / 64) ((a + n - 1) / 64 - a / 64 + 1)

/-! ## Stamps (R7, R8) and records for the management core -/

/-- The next stamp: ORD counts within the tick, and a tick whose numbers are used up gives way to the next (R8). -/
def State.nextStamp (s : State) : Word64 :=
  let now : Word64 := BitVec.ofNat 64 (s.time.toNat * 2 ^ 8)
  if (s.stampNext - now).toNat < 2 ^ 63 then s.stampNext else now

/-- The machine at another moment of package time: no stamp that was given is given again, however far time moves. -/
def State.atTime (s : State) (t : BitVec 56) : State :=
  let now : Word64 := BitVec.ofNat 64 (s.time.toNat * 2 ^ 8)
  let later := (t - s.time).toNat * 2 ^ 8
  let ahead := (s.stampNext - now).toNat
  { s with
    time := t
    stampNext := if later ≤ ahead && ahead < 2 ^ 63 then s.stampNext else BitVec.ofNat 64 (t.toNat * 2 ^ 8) }

/-- The machine after a stamp was given. -/
def State.stamped (s : State) : State := { s with stampNext := s.nextStamp + 1 }

/-- Whether one stamp precedes another (R9). -/
def stampBefore (a b : Word64) : Bool := 0 < (b - a).toInt

/-- The source numbers of the stamping unit (R350). -/
inductive Source where
  | manager
  | dispatcher
  | calendar
  | integrity
  | hostPort
  | port (k : Nat)
  | dieErrors (die : Nat)
  | cluster (c : Nat)
  | engine (die e : Nat)
  deriving DecidableEq, Repr

/-- The number of a source (R350); clusters are numbered in the package. -/
def Source.no : Source → Nat
  | .manager => 0
  | .dispatcher => 1
  | .calendar => 2
  | .integrity => 3
  | .hostPort => 4
  | .port k => 5 + k
  | .dieErrors d => 17 + d
  | .cluster c => 32 + c
  | .engine d e => 56 + 8 * d + e

/-- An event put before the first one of a higher source number. -/
def insertEvent (e : Source × (State → State)) : List (Source × (State → State)) → List (Source × (State → State))
  | [] => [e]
  | x :: xs => if e.1.no < x.1.no then e :: x :: xs else x :: insertEvent e xs

/-- Events that reach the stamping unit in the same cycle happen in ascending order of source number, those of one source
in the order given (R8, R350). The events of different steps, and the accesses of a unit's lanes, which are performed one
after another, do not reach it in the same cycle. (DEDUCED, log 80.) -/
def State.together (s : State) (es : List (Source × (State → State))) : State :=
  (es.foldl (fun xs e => insertEvent e xs) []).foldl (fun (s : State) e => e.2 s) s

/-- A record of which only the kind is set. -/
def Record.ofKind (k : Nat) : Record := ⟨0, k, 0, 0, 0, 0, 0, 0, 0, 0, 0, 0⟩

/-- A record stamped and posted to the management core. -/
def State.postMgmt (s : State) (r : Record) : State :=
  { s.stamped with mgmt := s.mgmt ++ [{ r with stamp := s.nextStamp }] }

/-! ## Stage 2 and the integrity unit (R302, R336) -/

/-- A valid stage-2 entry's kind, or 0 (R302). -/
def RangeEntry.kind (e : RangeEntry) : Nat :=
  let k := bvFld e 124 4
  if 3 < k || bvFld e 96 24 != 0 then 0 else k

/-- The rights of an entry as R = 1, W = 2, A = 4 (R302). -/
def RangeEntry.rights (e : RangeEntry) : Nat := bvFld e 121 1 + 2 * bvFld e 122 1 + 4 * bvFld e 123 1

/-- Whether an intermediate address lies in a valid entry (R302). -/
def RangeEntry.holds (e : RangeEntry) (ia : Nat) : Bool :=
  RangeEntry.kind e != 0 && bvFld e 32 32 ≤ ia / 2 ^ 16 && ia / 2 ^ 16 ≤ bvFld e 64 32 && ia < 2 ^ 48

/-- The flat address that an entry gives (R302, R305); none for an address beyond its tier. -/
def RangeEntry.flat (e : RangeEntry) (ia : Nat) : Option Nat :=
  let pa := bvFld e 0 32 * 2 ^ 16 + ia - bvFld e 32 32 * 2 ^ 16
  match RangeEntry.kind e with
  | 1 => if pa < 2 ^ 37 then some (tier1At pa) else none
  | 2 => if pa < 768 * 2 ^ 30 then some (tier2At pa) else none
  | 3 => some (hostAt pa)
  | _ => none

/-- Whether a flat address lies in what a valid entry maps (R302). -/
def RangeEntry.spans (e : RangeEntry) (a : Nat) : Bool :=
  RangeEntry.kind e != 0 &&
    match RangeEntry.flat e (bvFld e 32 32 * 2 ^ 16), RangeEntry.flat e (bvFld e 64 32 * 2 ^ 16) with
    | some lo, some hi => lo ≤ a && a < hi + 2 ^ 16
    | _, _ => false

/-- The partition whose sealed range holds a flat DRAM address (R336). A partition that is not sealed has no accumulators, so its
ranges with SEALED set are not checked. (DEDUCED, log 99.) -/
def sealedOwner (parts : List Part) (a : Nat) : Option Part :=
  parts.find? fun p => p.integ.isSome && p.ranges.any fun e => bit e.toNat 120 && RangeEntry.spans e a

/-- The epoch tag of a line; a line not listed carries the epoch it was sealed with, 0 (R336). -/
def Integrity.tagOf (x : Integrity) (line : Nat) : Word := ((x.tags.find? fun t => t.1 == line).map (·.2)).getD 0

/-- The parity of an epoch. -/
def parity (t : Word) : Fin 2 := Fin.ofNat 2 t.toNat

/-- The vector with `d` added at a parity. -/
def addAt (v : Vector (BitVec 128) 2) (i : Fin 2) (d : BitVec 128) : Vector (BitVec 128) 2 := v.set i (v[i] + d)

/-- One write to a sealed line (R336): the old content is taken out, the new one put in; a tag of another epoch is a
mismatch, and an accumulator that has met an uncorrectable error ends the period (R338). -/
def Integrity.write (x : Integrity) (part line : Nat) (old new : List Byte) : Option Integrity :=
  let t := x.tagOf line
  if x.broken || (t != x.epoch && t != x.epoch + 1) then none
  else
    let h := fun d => Config.kmac128 part x.key line t d
    some { x with rm := addAt x.rm (parity t) (h old), w := addAt x.w (parity t) (h new) }

/-- The partition is frozen by the integrity unit (R338): every core of it halts without saving. -/
def Part.integrityFreeze (p : Part) : Part := { p with frozen := true, integFail := true }

/-- Whether a partition is frozen by the integrity unit (R338), or its TDI is in ERROR, which is as frozen (R364): nothing of it
goes on. -/
def Part.halted (p : Part) : Bool := p.frozen || p.tdisp == .error

/-- The poison marks after bytes [a, a + n) are written: a word wholly written is clean again (R314). -/
def cleanPoison (ps : List Nat) (a n : Nat) : List Nat := ps.filter fun w => 8 * w < a || a + n < 8 * w + 8

/-- The integrity unit's work for a write of `bs` at `a` (R336), line by line, before the bytes are stored. -/
def integrityLines (parts : List Part) (old : Memory) (new : Memory) : List Nat → List Part
  | [] => parts
  | l :: ls =>
    match sealedOwner parts (64 * l) with
    | none => integrityLines parts old new ls
    | some p =>
      let p' := match p.integ with
        | none => p
        | some x =>
          match x.write p.id l (old.read (64 * l) 64) (new.read (64 * l) 64) with
          | none => p.integrityFreeze
          | some x' => { p with integ := some x' }
      integrityLines (parts.map fun q => if q.id == p.id then p' else q) old new ls

/-- The INTEGRITY records (R338) of the partitions that are frozen by the integrity unit now and were not before. -/
def State.reportIntegrity (s : State) (before : List Part) : State :=
  (s.parts.filter fun p => p.integFail && !((findPart before p.id).map (·.integFail)).getD false).foldl
    (fun (s : State) p => s.postMgmt { Record.ofKind 0x24 with part := p.id }) s

/-- Bytes stored from a flat address upwards. Writes to an unreachable die are dropped (R330); a sealed line's
accumulators follow (R336); words wholly written are no longer poisoned; the bytes' last writer is no thread and no launch's
team, unless `State.sign` and `State.note` say so after it. -/
def State.store (s : State) (a : Nat) (bs : List Byte) : State :=
  if s.cut a then s
  else
    let m := s.mem.putAll a bs
    let s1 := { s with
      mem := m
      poison := cleanPoison s.poison a bs.length
      writes := s.writes.map fun (w : TeamWrite) => { w with addrs := w.addrs.filter fun x => x < a || a + bs.length ≤ x }
      authors := s.authors.filter fun x => x.addr < a || a + bs.length ≤ x.addr }
    if isDram a then
      { s1 with parts := integrityLines s.parts s.mem m (linesOf a bs.length) }.reportIntegrity s.parts
    else s1

/-- The bytes of `bs` whose mask bit is set stored from a flat address upwards. -/
def State.storeMask (s : State) (a : Nat) : List Byte → List Bool → State
  | [], _ => s
  | _ :: _, [] => s
  | b :: bs, k :: ks => State.storeMask (if k then s.store a [b] else s) (a + 1) bs ks

/-- Marks every 64-bit word of [a, a + n) poisoned (R314). -/
def State.markPoison (s : State) (a n : Nat) : State :=
  { s with poison := (upFrom (a / 8) ((a + n - 1) / 8 - a / 8 + 1)).filter (fun w => !s.poison.contains w) ++ s.poison }

/-- The poisoned words of [src, src + n) carried to [dst, dst + n) (R314): each word that a poisoned word's bytes come to lie
in; where `mask` is given, only bytes whose bit is set are carried. -/
def State.carryPoison (s : State) (src dst n : Nat) (mask : List Bool) : State :=
  (s.poison.filter fun w => src / 8 ≤ w && w ≤ (src + n - 1) / 8).foldl (fun (s : State) w =>
    ((upFrom (8 * w) 8).filter fun a => src ≤ a && a < src + n && nth true mask (a - src)).foldl
      (fun (s : State) a => s.markPoison (dst + (a - src)) 1) s) s

/-- Zeroes [a, a + n), with its poison and tags (R168, R334). -/
def State.zeroRange (s : State) (a n : Nat) : State :=
  { s with
    mem := s.mem.zero a n
    tags := s.tags.filter fun t => 64 * t.line < a || a + n ≤ 64 * t.line
    poison := s.poison.filter fun w => 8 * w < a || a + n ≤ 8 * w
    authors := s.authors.filter fun x => x.addr < a || a + n ≤ x.addr }

/-! ## Release tags (R265, R266) -/

/-- The tag of the line or unit keyed `k`. -/
def State.tagAt (s : State) (k : Nat) : Option Tag := s.tags.find? fun t => t.line == k

/-- The machine with a key untagged. -/
def State.untag (s : State) (k : Nat) : State := { s with tags := s.tags.filter fun t => t.line != k }

/-- The key of the tag of a flat address: its 64-byte line in a scratchpad or vault (R265), elsewhere its 4-byte unit,
which only atomics tag (R113). (DEDUCED, log 29.) -/
def tagKey (a : Nat) : Nat := if isSram a then a / 64 else 2 ^ 64 + a / 4

/-- The machine with the lines and units of [a, a + n) untagged (R266: a plain store, a tile-port or bulk-engine write). -/
def State.untagRange (s : State) (a n : Nat) : State :=
  { s with tags := s.tags.filter fun t => t.line < tagKey a || tagKey (a + n - 1) < t.line }

/-- The machine with a tag written. -/
def State.setTag (s : State) (t : Tag) : State := { s with tags := t :: s.tags.filter fun x => x.line != t.line }

/-! ## Translation (R299 to R303) -/

/-- What a translated access needs: R = 1, W = 2, A = 4. -/
abbrev Need := Nat

/-- Whether rights hold what is needed. -/
def allows (rights : Nat) (need : Need) : Bool := (upFrom 0 3).all fun k => !bit need k || bit rights k

/-- The outcome of a walk: a flat address with the rights of both stages, or a cause of R301, R302 and its stage. -/
inductive Walk where
  | ok (a : Nat) (r1 r2 : Nat) (isSealed : Bool)
  | bad (cause stage : Nat)
  deriving DecidableEq, Repr

/-- Stage 2 (R302). (DEDUCED, log 23.) -/
def stage2 (p : Part) (ia : Nat) (need : Need) : Walk :=
  match p.ranges.find? fun e => RangeEntry.holds e ia with
  | none => .bad 3 1
  | some e =>
    match RangeEntry.flat e ia with
    | none => .bad 3 1
    | some a => if allows (RangeEntry.rights e) need then .ok a 7 (RangeEntry.rights e) (bit e.toNat 120) else .bad 4 1

/-- The cause by which a walk says that a table's memory does not serve now, so that the access waits (R305, R344). It is no cause of
R301 or R302 and stands in no record. -/
def waitCause : Nat := 0x101

/-- A stage-1 table's descriptor, read through stage 2 (R301). -/
def tableEntry (s : State) (p : Part) (ia : Nat) : Except (Nat × Nat) Nat :=
  match stage2 p ia 1 with
  | .ok a _ _ _ => if s.serves a then .ok (s.num a 8) else .error (waitCause, 0)
  | .bad c g => .error (c, g)

/-- The rights of a leaf as R = 1, W = 2, A = 4 (R301). -/
def leafRights (d : Nat) : Nat := fld d 2 1 + 2 * fld d 3 1 + 4 * fld d 4 1

/-- Stage 1 from the table at `ia`, over the levels left, each with its low index bit, its index width, whether it may
hold a leaf and whether it must (R301): the intermediate address and the leaf's rights. -/
def stage1 (s : State) (p : Part) (va : Nat) (need : Need) :
    Nat → List (Nat × Nat × Bool × Bool) → Except (Nat × Nat) (Nat × Nat)
  | _, [] => .error (5, 0)
  | ia, (lo, n, may, must) :: rest =>
    match tableEntry s p (ia + 8 * fld va lo n) with
    | .error c => .error c
    | .ok d =>
      if !bit d 0 then .error (1, 0)
      else if fld d 48 16 != 0 || fld d 5 7 != 0 then .error (5, 0)
      else
        let next := fld d 12 36 * 2 ^ 12
        if bit d 1 then
          if !may || next % 2 ^ lo != 0 then .error (5, 0)
          else if !allows (leafRights d) need then .error (2, 0)
          else .ok (next + va % 2 ^ lo, leafRights d)
        else if must then .error (5, 0)
        else stage1 s p va need next rest

/-- The three levels of R301. -/
def levels : List (Nat × Nat × Bool × Bool) := [(38, 10, false, false), (27, 11, true, false), (16, 11, true, true)]

/-- Both stages from the tables as they stand (R299): `host` asks for a range of kind HOST, otherwise a DRAM one is
needed; another kind matches no range (cause 0x03). (DEDUCED, log 23.) -/
def walk (s : State) (p : Part) (host : Bool) (va : Nat) (need : Need) : Walk :=
  match stage1 s p va need p.root.toNat levels with
  | .error (c, g) => .bad c g
  | .ok (ia, r1) =>
    match stage2 p ia need with
    | .bad c g => .bad c g
    | .ok a _ r2 sl => if isHost a == host then .ok a r1 r2 sl else .bad 3 1

/-- Whether the firewall lets a partition's master reach a flat address (R335): a scratchpad or a vault of its sheaves, or
DRAM that its stage-2 table gives now. (DEDUCED, log 44.) -/
def Part.firewall (p : Part) (a : Nat) : Bool :=
  if a < 2 ^ 30 then bit p.sheaves.toNat (a / 2 ^ 18 / 16)
  else if isVault a then bit p.sheaves.toNat (24 * ((a - 2 ^ 30) / 2 ^ 22 / 96) + (a - 2 ^ 30) / 2 ^ 22 % 96 / 4)
  else if isDram a then
    p.ranges.any fun e =>
      match RangeEntry.flat e (bvFld e 32 32 * 2 ^ 16), RangeEntry.flat e (bvFld e 64 32 * 2 ^ 16) with
      | some lo, some hi => RangeEntry.kind e != 0 && lo ≤ a && a < hi + 2 ^ 16
      | _, _ => false
  else true

/-- The cause by which `translate` says that the firewall refuses the address given in the place of the stage. It is no
cause of R301 or R302 and stands in no record. -/
def wallCause : Nat := 0x100

/-- Translation with the partition's caches (R303): a cached page answers until an invalidation has completed, and the
firewall then checks its address (R335). (DEDUCED, log 44.) -/
def translate (s : State) (p : Part) (host : Bool) (va : Nat) (need : Need) : Walk :=
  match p.tlb.find? fun e => e.page == va / 2 ^ 16 && isHost e.base == host with
  | some e =>
    if !allows e.r1 need then .bad 2 0
    else if !allows e.r2 need then .bad 4 1
    else if !p.firewall (e.base + va % 2 ^ 16) then .bad wallCause (e.base + va % 2 ^ 16)
    else .ok (e.base + va % 2 ^ 16) e.r1 e.r2 e.isSealed
  | none => walk s p host va need

/-- The partition's caches with a translation that was made (R303). -/
def State.cache (s : State) (part va : Nat) (w : Walk) : State :=
  match w with
  | .bad _ _ => s
  | .ok a r1 r2 sl =>
    s.modPart part fun p =>
      if p.tlb.any fun e => e.page == va / 2 ^ 16 then p
      else { p with tlb := ⟨va / 2 ^ 16, a - va % 2 ^ 16, r1, r2, sl⟩ :: p.tlb }

/-- Whether the dispatcher can read `n` bytes of a partition's DEVICE memory now: the tables of their translation and their memory
serve (R305, R344). -/
def State.devServes (s : State) (p : Part) (va n : Nat) : Bool :=
  n == 0 || (upFrom (va / 256) ((va + n - 1) / 256 - va / 256 + 1)).all fun k =>
    match walk s p false (256 * k) 1 with
    | .bad c _ => c != waitCause
    | .ok a _ _ _ => s.serves a

/-- The dispatcher's read of `n` bytes of a partition's DEVICE memory (R322), page by page; none where a translation
fails or the data is poisoned. -/
def State.devRead (s : State) (p : Part) (va : Nat) : Nat → Option (List Byte)
  | 0 => some []
  | n + 1 =>
    match walk s p false va 1 with
    | .bad _ _ => none
    | .ok a _ _ _ =>
      if s.poisoned a 1 then none
      else
        match State.devRead s p (va + 1) n with
        | none => none
        | some bs => some (s.mem.get a :: bs)

/-! ## Records (R187, R317) -/

/-- The 64 bytes of a record (R187). -/
def Record.bytes (r : Record) : List Byte :=
  bytesOf 8 r.stamp.toNat ++ bytesOf 1 r.kind ++ bytesOf 1 r.stage ++ bytesOf 1 r.group ++ bytesOf 1 0
    ++ bytesOf 2 r.core ++ bytesOf 1 r.part ++ bytesOf 1 0 ++ bytesOf 8 r.seq ++ bytesOf 4 r.pc.toNat
    ++ bytesOf 8 r.lanes.toNat ++ bytesOf 4 r.detail.toNat ++ bytesOf 4 r.teamNo.toNat ++ bytesOf 4 0
    ++ bytesOf 8 r.extra.toNat ++ bytesOf 8 0

/-- Whether the partition's fault queue is full (R317). -/
def Part.queueFull (p : Part) : Bool := (p.fqprod - p.fqcons).toNat == p.fqsize.toNat

/-- Bytes written at a DEVICE virtual address of a partition, byte by byte; a byte that does not translate stays
unwritten (DEDUCED, log 20). What waits for its memory is written at once, since every read of it waits as long (DEDUCED, log 98). -/
def State.devWrite (s : State) (part va : Nat) : List Byte → State
  | [] => s
  | b :: bs =>
    let s' := match s.part part with
      | none => s
      | some p =>
        match walk s.served p false va 2 with
        | .ok a _ _ _ => s.store a [b]
        | .bad _ _ => s
    State.devWrite s' part (va + 1) bs

/-- A record put into the fault queue's entry FQPROD mod FQSIZE, with the interrupt of R359. (DEDUCED, log 20.) -/
def State.enqueue (s : State) (part : Nat) (r : Record) : State :=
  match s.part part with
  | none => s
  | some p =>
    let s1 := s.devWrite part (p.fqbase.toNat + 64 * (p.fqprod.toNat % p.fqsize.toNat)) r.bytes
    s1.modPart part fun q =>
      { q with fqprod := q.fqprod + 1, msix := if q.fqprod == q.fqcons then q.msix + 1 else q.msix }

/-- A stamped record posted to a partition: into its queue, or held by the hub, up to 256, or dropped and counted
(R317). -/
def State.postStamped (s : State) (part : Nat) (r : Record) : State :=
  match s.part part with
  | none => s
  | some p =>
    if p.queueFull || !p.held.isEmpty then
      s.modPart part fun q => if q.held.length < 256 then { q with held := q.held ++ [r] } else { q with lost := q.lost + 1 }
    else s.enqueue part r

/-- A record stamped and posted to a partition. -/
def State.post (s : State) (part : Nat) (r : Record) : State :=
  s.stamped.postStamped part { r with stamp := s.nextStamp, part := part }

/-- The partition that owns a sheaf (R334). -/
def State.sheafOwner (s : State) (sheaf : Nat) : Option Part := s.parts.find? fun p => bit p.sheaves.toNat sheaf

/-- A record posted to the partition that owns the unit, or to the management core when none does (R314). -/
def State.postOwner (s : State) (part : Option Nat) (r : Record) : State :=
  match part with
  | some p => s.post p r
  | none => s.postMgmt r

/-- An ERROR REPORT (R314): the unit, whether corrected, whether poisoned, its location. The unit awaits self-test in
stamp order (R315); a die-to-die lane does not. (DESIGN CHOICE, log 69.) -/
def State.errorReport (s : State) (part : Option Nat) (unit : Nat) (corrected poisonedData : Bool) (loc : Nat) : State :=
  let r : Record := { Record.ofKind 0x19 with
    detail := BitVec.ofNat 32 (unit + 16 * b2n corrected + 32 * b2n poisonedData), extra := BitVec.ofNat 64 loc }
  let s1 := s.postOwner part r
  match dieOfAddr loc with
  | some d => if unit < 4 then { s1 with testing := s1.testing ++ [(d, part, { r with stamp := s.nextStamp })] } else s1
  | none => s1

/-- The ERROR REPORT of a partition's access to a die that does not answer (R330); nothing where the die answers.
(DESIGN CHOICE, log 69.) -/
def State.reportCut (s : State) (part a : Nat) (read : Bool) : State :=
  if s.cut a then s.errorReport (some part) (if isVault a then 1 else 3) false read a else s

/-! ## Launch records (R320, R321) -/

/-- The field of `n` bits at bit `lo` of the 32-bit word at byte `off` of a launch record. -/
def recFld (r : LaunchBytes) (off lo n : Nat) : Nat := fld r.toNat (8 * off + lo) n

/-- Fields of a launch record (R320). -/
def recSeq (r : LaunchBytes) : Nat := recFld r 0x00 0 64
def recPart (r : LaunchBytes) : Nat := recFld r 0x08 0 7
def recPersist (r : LaunchBytes) : Bool := recFld r 0x08 8 1 == 1
def recContain (r : LaunchBytes) : Bool := recFld r 0x08 9 1 == 1
def recPrio (r : LaunchBytes) : Nat := recFld r 0x08 16 2
def recClass (r : LaunchBytes) : Nat := recFld r 0x08 18 2
def recCrew (r : LaunchBytes) : Nat := recFld r 0x08 20 6 + 1
def recX (r : LaunchBytes) : Nat := recFld r 0x0C 0 16
def recY (r : LaunchBytes) : Nat := recFld r 0x0C 16 8
def recZ (r : LaunchBytes) : Nat := recFld r 0x0C 24 8
def recStage (r : LaunchBytes) (i : Nat) : Nat := recFld r (0x10 + 4 * i) 0 32
def recVtab (r : LaunchBytes) : Nat := recFld r 0x20 0 48
def recCode (r : LaunchBytes) : Nat := recFld r 0x28 0 48
def recCodeLen (r : LaunchBytes) : Nat := recFld r 0x28 48 16
def recPlan (r : LaunchBytes) : Nat := recFld r 0x30 0 32
def recHcount (r : LaunchBytes) : Nat := recFld r 0x30 23 9
def recWdog (r : LaunchBytes) : Nat := recFld r 0x34 0 16
def recPred (r : LaunchBytes) : Nat := recFld r 0x38 0 64
def recMap (r : LaunchBytes) : Nat := recFld r 0x40 0 32
def recFuel (r : LaunchBytes) : Nat := recFld r 0x44 0 24
def recFmask (r : LaunchBytes) : Nat := recFld r 0x44 24 8
def recCmask (r : LaunchBytes) : Nat := recFld r 0x48 0 64
def recBank (r : LaunchBytes) : Nat := recFld r 0x50 16 6
def recQueue (r : LaunchBytes) : Nat := recFld r 0x50 8 6
def recWinnow (r : LaunchBytes) : Nat := recFld r 0x50 0 6
def recStart (r : LaunchBytes) : Nat := recFld r 0x54 0 32
def recSpimg (r : LaunchBytes) : Nat := recFld r 0x58 0 48
def recSplen (r : LaunchBytes) : Nat := recFld r 0x58 48 16
def recArg (r : LaunchBytes) (i : Nat) : Nat := recFld r (0x60 + 4 * i) 0 32

/-- The number of teams of a launch. -/
def recTeams (r : LaunchBytes) : Nat := recX r * recY r * recZ r

/-- The scratchpad allocation in 64-byte units (R178). -/
def recSpad (r : LaunchBytes) : Nat := if recFld r 0x30 0 13 == 0 then 4096 else recFld r 0x30 0 13

/-- The coordinates of a team by its linear number (R251, R320). -/
def teamX (r : LaunchBytes) (n : Nat) : Nat := n % recX r
def teamY (r : LaunchBytes) (n : Nat) : Nat := n / recX r % recY r
def teamZ (r : LaunchBytes) (n : Nat) : Nat := n / (recX r * recY r)

/-- A launch of a partition by its sequence number. -/
def Part.launch (p : Part) (seq : Nat) : Option Launch := p.launches.find? fun l => recSeq l.record == seq

/-- The launch of a team. -/
def State.launchOf (s : State) (t : Team) : Option Launch :=
  match s.part t.part with
  | none => none
  | some p => p.launch t.seq

/-- The record of a team's launch; the zero record where there is none, which no team is placed from. -/
def State.recordOf (s : State) (t : Team) : LaunchBytes := ((s.launchOf t).map (·.record)).getD 0

/-- A write of a launch's team noted, for the loss of a die (R330). (DEDUCED, log 61.) -/
def State.note (s : State) (part seq team : Nat) (addrs : List Nat) : State :=
  let after := (((s.part part).bind fun p => p.launch seq).map fun l => l.trig.contains team).getD false
  { s with writes := ⟨part, seq, team, after, addrs⟩ :: s.writes }

/-- A write by a core's team noted. (DEDUCED, log 61.) -/
def State.noteBy (s : State) (core : Nat) (addrs : List Nat) : State :=
  match s.team core with
  | none => s
  | some t => s.note t.part t.seq t.number addrs

/-- The partition with a launch changed. -/
def Part.modLaunch (p : Part) (seq : Nat) (f : Launch → Launch) : Part :=
  { p with launches := p.launches.map fun l => if recSeq l.record == seq then f l else l }

/-- The TEAM field of a record (R187). -/
def teamWord (r : LaunchBytes) (n : Nat) : Word := BitVec.ofNat 32 (teamX r n + 2 ^ 16 * teamY r n + 2 ^ 24 * teamZ r n)

/-! ## The firewall (R335) -/

/-- Whether the firewall lets a partition reach a flat address. -/
def State.firewall (s : State) (part a : Nat) : Bool := ((s.part part).map fun p => p.firewall a).getD false

/-- A FROZEN record for a partition and for the management core, each with a stamp of its own. (DEDUCED, log 44.) -/
def State.postFrozen (s : State) (part : Nat) (r : Record) (target : Nat) : State :=
  let x := { r with kind := 0x23, part := part, extra := BitVec.ofNat 64 target }
  (s.post part x).postMgmt x

/-- A core frozen by the firewall. -/
def State.freezeCore (s : State) (core part target : Nat) : State :=
  if (s.core core).frozen then s
  else
    let seq := ((s.team core).map (·.seq)).getD 0
    (s.setCore { s.core core with frozen := true }).postFrozen part { Record.ofKind 0x23 with core := core, seq := seq } target

/-- A bulk engine frozen by the firewall. -/
def State.freezeEngine (s : State) (die e part target : Nat) : State :=
  (s.setEngine { s.engine die e with frozen := true, flight := none }).postFrozen part (Record.ofKind 0x23) target

/-- A cluster's queue unit frozen by the firewall. -/
def State.freezeQueues (s : State) (cl part target : Nat) : State :=
  (s.setCluster { s.cluster cl with frozen := true }).postFrozen part (Record.ofKind 0x23) target

/-! ## What the host sends to a partition's function (R363) -/

/-- Whether a TDI is locked, RUN included (R363). (DEDUCED, log 68.) -/
def Part.locked (p : Part) : Bool := p.tdisp == .locked || p.tdisp == .run

/-- Whether a TLP that names a partition's VF is lost: its receive path is frozen, or it arrives outside the VF's selective stream,
which a TLP does while no key set is live and may do at any time (free value), while the TDI is locked (R363). (DEDUCED, log 68.) -/
def State.tlpLost (s : State) (p : Part) : Bool :=
  p.portFrozen || (p.locked && !(p.ideLive.isSome && Config.inStream s.draws p.id))

/-- The machine once such a TLP has been looked at. -/
def State.tlpSeen (s : State) (p : Part) : State := if p.locked then { s with draws := s.draws + 1 } else s

/-- A TLP of the host to a partition's VF with what it does: nothing where no VF is enabled; a lost one freezes the VF's receive
path, and a FROZEN record is posted (R335, R363). -/
def State.tlp (s : State) (part target : Nat) (f : State → State) : State :=
  match s.part part with
  | none => s
  | some p =>
    if p.portFrozen then s
    else if s.tlpLost p then
      ((s.tlpSeen p).modPart part fun p => { p with portFrozen := true }).postFrozen part (Record.ofKind 0x23) target
    else f (s.tlpSeen p)

/-! ## The storage of mapped regions (R293, R295) -/

/-- The flat address of a region's data area, and of its mask (R293). -/
def Region.dataAt (r : Region) (core : Nat) : Nat :=
  if r.inVault then vaultAt (dieOfCore core) r.vault (4096 * r.off) else scratchAt core (4096 * r.off)
def Region.maskAt (r : Region) (core : Nat) : Nat := r.dataAt core + 4096 * r.slots.length

/-- The slot whose data or mask a flat address lies in (R293), if it lies in the region's storage. -/
def Region.slotAt (r : Region) (core a : Nat) : Option Nat :=
  let n := r.slots.length
  if r.dataAt core ≤ a && a < r.maskAt core then some ((a - r.dataAt core) / 4096)
  else if r.maskAt core ≤ a && a < r.maskAt core + 512 * n then some ((a - r.maskAt core) / 512)
  else none

/-- The slots of bound regions whose storage holds a flat address: core, region and slot (R295). (DEDUCED, log 72.) -/
def State.strayAt (s : State) (a : Nat) : List (Nat × Nat × Nat) :=
  (s.cores.map fun (c : Core) => (((c.team.map (·.regions)).getD []).filterMap fun r =>
    (r.slotAt c.id a).map fun k => (c.id, r.id, k))).flatten

/-- `n` free values, and the machine that has drawn them. -/
def State.drawn (s : State) (n : Nat) : List Byte × State :=
  ((upFrom s.draws n).map Config.freeByte, { s with draws := s.draws + n })

/-- The machine with a region of a core's team changed. -/
def State.modRegion (s : State) (core id : Nat) (f : Region → Region) : State :=
  s.modTeam core fun t => { t with regions := t.regions.map fun r => if r.id == id then f r else r }

/-- Slots noted as touched through another view (R295). -/
def State.astray (s : State) (xs : List (Nat × Nat × Nat)) : State :=
  xs.foldl (fun (s : State) x => s.modRegion x.1 x.2.1 fun r => { r with strays := x.2.2 :: r.strays }) s

/-- `n` bytes of a bound region's storage that a unit without a view bound to it reads or writes: they are free values (R295).
Elsewhere nothing changes. (DEDUCED, log 72.) -/
def State.strayBytes (s : State) (a n : Nat) : State :=
  match s.strayAt a with
  | [] => s
  | xs => ((s.drawn n).2.store a (s.drawn n).1).astray xs

/-! ## Taking an exception: the halt of a group (R109, R187, R188), and the return from it -/

/-- What is halted and why: the fields of the record that the fault decides, and how the lanes stand. -/
structure HaltWhy where
  kind   : Nat
  detail : Nat
  extra  : Nat
  lanes  : BitVec 64
  atUnit : BitVec 64
  pc     : Word
  words  : Nat
  after  : Bool
  dog    : Bool
  logged : Option Nat
  deriving DecidableEq, Repr

/-- The record of R187 for a group. (DEDUCED, log 19.) -/
def groupRecord (s : State) (core : Nat) (t : Team) (g : Group) (h : HaltWhy) : Record :=
  { stamp := 0, kind := h.kind, stage := g.stage, group := g.index, core := core, part := t.part, seq := t.seq,
    pc := h.pc, lanes := h.lanes, detail := BitVec.ofNat 32 h.detail, teamNo := teamWord (s.recordOf t) t.number,
    extra := BitVec.ofNat 64 h.extra }

/-- The halt-window slots of a team's groups. -/
def Team.haltSlots (t : Team) : List Nat := (t.groups.map fun (g : Group) => g.halts.filterMap (·.slot)).flatten

/-- The halt-window slots in use by a partition, for teams on cores and saved ones. -/
def State.slotsUsed (s : State) (part : Nat) : List Nat :=
  (s.cores.map fun c =>
    match c.team with
    | none => []
    | some t => if t.part == part then t.haltSlots else []).flatten
  ++ (((s.part part).map (·.saved)).getD []).flatMap fun x => x.team.haltSlots

/-- The lowest number below `n` that is not in a list. -/
def lowestFree (used : List Nat) (n : Nat) : Option Nat := (upFrom 0 n).find? fun k => !used.contains k

/-- Takes the exception: posts the group's record to its partition (R187), halts the group with its lanes where they
stand (R109), and puts it in the lowest free halt-window slot (R188, R317), or in none while all 512 are in use. A group
that is halted already keeps its first halt and takes the new one after it. (DESIGN CHOICE, log 24.) -/
def State.haltGroup (s : State) (core g : Nat) (h : HaltWhy) : State :=
  match s.team core with
  | none => s
  | some t =>
    match t.groups[g]? with
    | none => s
    | some gr =>
      let r := { groupRecord s core t gr h with stamp := s.nextStamp }
      let slot := if gr.halts.isEmpty then lowestFree (s.slotsUsed t.part) 512 else none
      let s1 := s.stamped.postStamped t.part r
      (s1.modGroup core g fun x =>
        { x with halts := x.halts ++ [⟨r, h.atUnit, h.words, h.after, h.dog, h.logged, slot⟩] }).moved

/-- The lanes that leave a halt: at the faulting unit they execute it again or continue after it, and every lane's
latches are empty (R188). -/
def Lane.leaveHalt (words : Nat) (past atUnit : Bool) (l : Lane) : Lane :=
  { l with
    pc := if past && atUnit then l.pc + BitVec.ofNat 32 words else l.pc
    latches := []
    chain := 0 }

/-- The group after an action on its first halt: RESUME executes the unit again, or continues after it where the halt
says so; SKIP continues after it (R188). The record's next halt, if any, is then in force. -/
def Group.leaveHalt (g : Group) (skip : Bool) : Group :=
  match g.halts with
  | [] => g
  | h :: hs =>
    { g with
      halts := hs
      lanes := mapFrom (fun n l => l.leaveHalt h.words (skip || h.after) (bit h.atUnit.toNat n)) 0 g.lanes }

/-- Where a halt-window slot's group stands. -/
def State.slotGroup (s : State) (part slot : Nat) : Option (Nat × Nat) :=
  (s.cores.filterMap fun c =>
    match c.team with
    | none => none
    | some t =>
      if t.part == part then
        ((placesFrom (fun _ (g : Group) => g.halts.any fun h => h.slot == some slot) 0 t.groups).head?).map fun g => (c.id, g)
      else none).head?

/-- The halted groups of a team without a slot, with the stamp of the halt in force. -/
def Team.slotless (t : Team) : List (Word64 × Nat) :=
  (mapFrom (fun n (g : Group) =>
    match g.halts with
    | h :: _ => if h.slot.isNone then [(h.record.stamp, n)] else []
    | [] => []) 0 t.groups).flatten

/-- The halted groups of a partition without a slot, each with its stamp and where it is: on a core, or in a saved team. -/
def State.slotless (s : State) (part : Nat) : List (Word64 × (Nat ⊕ Nat) × Nat) :=
  (s.cores.map fun c =>
    match c.team with
    | none => []
    | some t => if t.part == part then t.slotless.map fun x => (x.1, Sum.inl c.id, x.2) else []).flatten
  ++ (mapFrom (fun k (x : SavedTeam) => x.team.slotless.map fun y => (y.1, Sum.inr k, y.2)) 0
      (((s.part part).map (·.saved)).getD [])).flatten

/-- A halted group without a slot, the earliest stamped of its partition by the difference of R9. Which of
several takes a freed slot R317 leaves open. (DESIGN CHOICE, log 24.) -/
def State.slotWaiter (s : State) (part : Nat) : Option ((Nat ⊕ Nat) × Nat) :=
  ((s.slotless part).foldl (fun (best : Option (Word64 × (Nat ⊕ Nat) × Nat)) x =>
    match best with
    | none => some x
    | some b => if stampBefore x.1 b.1 then some x else some b) none).map (·.2)

/-- The group with its halt in force in a slot. -/
def Group.takeSlot (k : Nat) (g : Group) : Group :=
  match g.halts with
  | [] => g
  | h :: hs => { g with halts := { h with slot := some k } :: hs }

/-- Gives the lowest free slot to the earliest halted group that has none, on a core or saved (R317). -/
def State.fillSlot (s : State) (part : Nat) : State :=
  match s.slotWaiter part, lowestFree (s.slotsUsed part) 512 with
  | some (.inl c, g), some k => s.modGroup c g (Group.takeSlot k)
  | some (.inr n, g), some k =>
    s.modPart part fun p => { p with saved := modifyNth (fun x =>
      { x with team := { x.team with groups := modifyNth (Group.takeSlot k) g x.team.groups } }) n p.saved }
  | _, _ => s

/-- Gives `n` free slots, as far as halted groups without one are left (R317). -/
def State.fillSlots (s : State) (part : Nat) : Nat → State
  | 0 => s
  | n + 1 => State.fillSlots (s.fillSlot part) part n

/-- A team with the group in a halt-window slot returned. The count is loaded at each action on a watchdog halt, and counts
on although other groups of the team may still be halted by it. (DEDUCED, log 81.) -/
def Team.returnSlot (t : Team) (slot : Nat) (skip : Bool) (budget : Nat) : Team :=
  let here := fun (g : Group) => g.halts.any fun h => h.slot == some slot
  let dog := t.groups.any fun g => here g && (g.halts.head?.map (·.dog)).getD false
  { t with
    watchdog := if dog then budget else t.watchdog
    groups := t.groups.map fun (g : Group) => if (here g) then g.leaveHalt skip else g }

/-- Return from the exception: RESUME or SKIP of the group in a slot (R188), on a core or saved. A RESUME or SKIP of a
watchdog halt reloads the count with the launch budget (R189). -/
def State.returnGroup (s : State) (part slot : Nat) (skip : Bool) : State :=
  let back := fun (t : Team) => t.returnSlot slot skip (recWdog (s.recordOf t))
  match s.slotGroup part slot with
  | some (c, _) => ((s.modTeam c back).fillSlot part).moved
  | none =>
    let one := fun (x : SavedTeam) => if x.team.haltSlots.contains slot then { x with team := back x.team } else x
    ((s.modPart part fun p => { p with saved := p.saved.map one }).fillSlot part).moved

end Sys2Proof.Machine
end

