-- ==== Sys2Proof/Machine/Views.lean ====
section
/-!
DEFINITION. Views (spec/04_lane.md R98 to R103): the fields of a descriptor, when it is valid, and where coordinates lead.
-/
namespace Sys2Proof.Machine

/-- A descriptor of zeros, which is invalid. -/
def View.zero : View := ⟨0, 0, Vector.replicate 5 0, Vector.replicate 4 0, 0, none⟩

/-- The fields of FLAGS (R99). -/
def View.space (v : View) : Nat := bvFld v.flags 0 3
def View.rank (v : View) : Nat := bvFld v.flags 3 3
def View.ty (v : View) : Nat := bvFld v.flags 6 6
def View.hasR (v : View) : Bool := bit v.flags.toNat 16
def View.hasW (v : View) : Bool := bit v.flags.toNat 17
def View.hasA (v : View) : Bool := bit v.flags.toNat 18
def View.planed (v : View) : Bool := bit v.flags.toNat 19
def View.stook (v : View) : Bool := bit v.flags.toNat 20
def View.perm (v : View) : Nat := bvFld v.flags 21 3
def View.valid (v : View) : Bool := bit v.flags.toNat 63

/-- The codes of SPACE (R99). -/
def spCORE : Nat := 0
def spCLUSTER : Nat := 1
def spVAULT : Nat := 2
def spDEVICE : Nat := 3
def spHOST : Nat := 4
def spPEER : Nat := 5
def spCODE : Nat := 6

/-- The codes of TYPE that a rule names (R100). -/
def tyB32 : Nat := 0x02
def tyB64 : Nat := 0x03
def tyF32 : Nat := 0x05
def tyBF16 : Nat := 0x06
def tyE4M3 : Nat := 0x07
def tyE5M2 : Nat := 0x08
def tyPLANED : Nat := 0x0D
def tyQUEUE : Nat := 0x0E
def tyFUTURE : Nat := 0x0F
def tyWINNOW : Nat := 0x10
def tyWORD : Nat := 0x11

/-- Whether the space is on-die SRAM: CORE, CLUSTER or VAULT. -/
def View.sram (v : View) : Bool := v.space ≤ 2

/-- Whether the space is a translated data space: DEVICE, HOST or PEER. -/
def View.translated (v : View) : Bool := 3 ≤ v.space && v.space ≤ 5

/-- The bits of an element (R100); a PLANED element has no size of its own. -/
def elemBits (ty : Nat) : Nat :=
  nth 0 [8, 16, 32, 64, 128, 32, 16, 8, 8, 4, 6, 6, 4, 0, 256, 128, 512, 32] ty

/-- The extent of dimension d, and its stride; 0 beyond the last. -/
def View.extN (v : View) (d : Nat) : Nat := (nth 0 v.ext.toList d).toNat
def View.strN (v : View) (d : Nat) : Nat := (nth 0 v.str.toList d).toNat

/-- The offset or address field of BASE (R98). -/
def View.offset (v : View) : Nat :=
  match v.space with
  | 0 => v.base.toNat
  | 1 => bvFld v.base 0 18
  | 2 => bvFld v.base 0 22
  | _ => bvFld v.base 0 48

/-- The width of that field. -/
def View.offsetBits (v : View) : Nat :=
  match v.space with
  | 0 => 64
  | 1 => 18
  | 2 => 22
  | _ => 48

/-- The view with FLAGS.VALID as given. -/
def View.setValid (v : View) (b : Bool) : View := { v with flags := BitVec.ofNat 64 (setFld v.flags.toNat 63 1 (b2n b)) }

/-- The bits of BASE that the space does not name are zero (R98; DEDUCED, log 10). -/
def View.baseOk (v : View) : Bool :=
  let b := v.base.toNat
  match v.space with
  | 0 => true
  | 1 => fld b 18 14 == 0 && fld b 38 26 == 0
  | 2 => fld b 22 10 == 0 && fld b 39 25 == 0
  | 5 => true
  | _ => fld b 48 16 == 0

/-- Whether an in-extent coordinate exists. -/
def View.inhabited (v : View) : Bool := (upFrom 0 v.rank).all fun d => 0 < v.extN d

/-- The blocks of a planed view in plane-major order (R103). -/
def View.blocks (v : View) : Nat :=
  ((upFrom 0 (v.rank - 1)).map v.extN).foldr (· * ·) 1 * (v.extN (v.rank - 1) / 16)

/-- The plane-section stride (R26): META, or for a stook view what its blocks need (R354). -/
def View.sectStride (v : View) : Nat := if v.stook then 256 * ceilDiv v.blocks 16 else v.mbase.toNat

/-- The bytes from BASE that in-extent coordinates reach (R102), in any section of a planed view. -/
def View.span (v : View) : Nat :=
  if !v.inhabited then 0
  else
    let r := v.rank
    let rows := ((upFrom 0 (r - 1)).map fun d => (v.extN d - 1) * v.strN d).foldr (· + ·) 0
    if v.planed then
      if v.sram then rows + v.extN (r - 1) / 16 * 64 else 4 * v.sectStride + 16 * v.blocks
    else rows + ceilDiv (v.extN (r - 1) * elemBits v.ty) 8

/-- The sums of coordinate times stride over some dimensions, each given by its extent and its stride; a dimension of stride 0 adds
nothing. -/
def rowStarts : List (Nat × Nat) → List Nat
  | [] => [0]
  | (e, t) :: ds => (upFrom 0 (if t == 0 then min e 1 else e)).flatMap fun c => (rowStarts ds).map (c * t + ·)

/-- The end of the first `n` bytes of a block once the numbers of its chunks are xored with `j`. -/
def permTail (chunk j n : Nat) : Nat :=
  ((upFrom 0 (ceilDiv n chunk)).map fun i => Nat.xor i j * chunk + min chunk (n - i * chunk)).foldr max 0

/-- The end of the bytes of a row that begins at `a`, once the low `k` bits of its chunks' numbers are xored with `j`; the row is
whole blocks of 2^k chunks. -/
def permRow (chunk k a row j : Nat) : Nat :=
  let u := chunk * 2 ^ k
  let e := a + row
  if e % u == 0 then e else e / u * u + permTail chunk j (e % u)

/-- The bytes from BASE that in-extent coordinates reach with the bank permutation (R101, R102), where `permOk` holds. -/
def View.permSpan (v : View) : Nat :=
  if !v.inhabited then 0
  else
    let r := v.rank
    let k := v.perm
    let row := if v.planed then v.extN (r - 1) / 16 * 64 else ceilDiv (v.extN (r - 1) * elemBits v.ty) 8
    let (n, t) := (v.extN (r - 2), v.strN (r - 2))
    let cs := if t == 0 then upFrom 0 (min n (2 ^ k)) else [n - 1]
    ((rowStarts ((upFrom 0 (r - 2)).map fun d => (v.extN d, v.strN d))).flatMap fun a =>
      cs.map fun c => permRow (if v.planed then 64 else 16) k (a + c * t) row (c % 2 ^ k)).foldr max 0

/-- Whether the bytes that in-extent coordinates reach end by a place (R102). -/
def View.endsBy (v : View) (n : Nat) : Bool := v.span ≤ n && (v.perm == 0 || v.rank < 2 || v.permSpan ≤ n)

/-- What a team's place fixes for the check of its descriptors (R102, R253): its scratchpad allocation in bytes, its crew's
size, its die and its partition's sheaves. -/
structure ViewCtx where
  spad    : Nat
  crew    : Nat
  die     : Nat
  sheaves : BitVec 96
  deriving DecidableEq, Repr

/-- Whether vault v of a die is in the partition's grant: its sheaf is the partition's (R250, R334). -/
def vaultGranted (sheaves : BitVec 96) (die v : Nat) : Bool := v < 96 && bit sheaves.toNat (24 * die + v / 4)

/-- Each field obeys R98 to R100 and R103. -/
def View.fieldsOk (v : View) : Bool :=
  let r := v.rank
  let f := v.flags.toNat
  v.space ≤ 6 && 1 ≤ r && r ≤ 5 && v.ty ≤ 0x11 && fld f 24 39 == 0 && fld f 12 4 == 0 && v.baseOk
    && (v.sram || v.perm == 0) && (!v.stook || v.translated) && v.planed == (v.ty == tyPLANED)
    && (v.space != spCODE || v.ty == tyWORD)
    && (upFrom 0 5).all (fun d => d < r || v.extN d == 0)
    && (upFrom 0 4).all (fun d => d + 1 < r || v.strN d == 0)
    && (if v.planed then
          v.extN (r - 1) % 16 == 0
            && (if v.sram then v.mbase == 0 && (upFrom 0 (r - 1)).all (fun d => v.strN d % 64 == 0)
                else (v.stook || (v.mbase.toNat % 64 == 0 && 16 * v.blocks ≤ v.mbase.toNat))
                  && (upFrom 0 (r - 1)).all (fun d => v.strN d == 0))
        else v.stook || v.mbase == 0)

/-- The conditions of R102 on the bank permutation. -/
def View.permOk (v : View) : Bool :=
  let k := v.perm
  let r := v.rank
  let unit := (if v.planed then 64 else 16) * 2 ^ k
  let rowBits := if v.planed then v.extN (r - 1) / 16 * 512 else v.extN (r - 1) * elemBits v.ty
  k == 0 || (rowBits % (8 * unit) == 0 && (r < 2 || v.strN (r - 2) % unit == 0))

/-- Every in-extent coordinate resolves inside the team's region of the space, or below 2^48 (R102, R253, R291). -/
def View.regionOk (v : View) (c : ViewCtx) : Bool :=
  let below := fun (e : Nat) => v.span == 0 || (v.offset ≤ e && v.endsBy (e - v.offset))
  match v.space with
  | 0 => below c.spad
  | 1 => bvFld v.base 32 6 < c.crew && below c.spad
  | 2 => vaultGranted c.sheaves c.die (bvFld v.base 32 7) && below (3 * 2 ^ 20)
  | _ => below (2 ^ 48)

/-- A valid descriptor (R102), apart from VALID itself. -/
def View.ok (v : View) (c : ViewCtx) : Bool := v.fieldsOk && v.permOk && v.regionOk c

/-- The descriptor as the dispatcher or VNARROW stores it: VALID stands only where R102 holds. -/
def View.checked (v : View) (c : ViewCtx) : View := if v.valid && !v.ok c then v.setValid false else v

/-- A descriptor read from its 64 bytes (R98); nonzero reserved bytes make it invalid. -/
def View.ofBytes (bs : List Byte) : View :=
  let w := fun o n => Sys2Proof.ofBytes ((bs.drop o).take n)
  let v : View := ⟨BitVec.ofNat 64 (w 0 8), BitVec.ofNat 64 (w 8 8),
    Vector.ofFn fun (i : Fin 5) => BitVec.ofNat 32 (w (0x10 + 4 * i.val) 4),
    Vector.ofFn fun (i : Fin 4) => BitVec.ofNat 32 (w (0x24 + 4 * i.val) 4),
    BitVec.ofNat 64 (w 0x34 8), none⟩
  if w 0x3C 4 == 0 then v else v.setValid false

/-- The place of a team for the check of its views. -/
def State.viewCtx (s : State) (core : Nat) (t : Team) : ViewCtx :=
  let r := s.recordOf t
  ⟨64 * recSpad r, recCrew r, dieOfCore core, ((s.part t.part).map (·.sheaves)).getD 0⟩

/-- The sum of coordinate times stride over dimensions 0 to r − 2. -/
def rowOffset : List Nat → List Nat → Nat
  | c :: cs, t :: ts => c * t + rowOffset cs ts
  | _, _ => 0

/-- `x` with its bits [lo + k − 1 : lo] xored with the low k bits of `y` (R101). -/
def xorBits (x lo k y : Nat) : Nat := setFld x lo k (Nat.xor (fld x lo k) (y % 2 ^ k))

/-- The offset from BASE of the element or byte at the coordinates of a non-planed view, by its byte position in the
last dimension, with the bank permutation (R101). -/
def View.offAt (v : View) (cs : List Nat) (lastByte : Nat) : Nat :=
  let r := v.rank
  let off := rowOffset (cs.take (r - 1)) (v.str.toList.map (·.toNat)) + lastByte
  if 0 < v.perm && 2 ≤ r then xorBits off 4 v.perm (nth 0 cs (r - 2)) else off

/-- The offset from BASE of the block line of a planed SRAM view that holds the coordinates (R103). -/
def View.lineAt (v : View) (cs : List Nat) : Nat :=
  let r := v.rank
  let off := rowOffset (cs.take (r - 1)) (v.str.toList.map (·.toNat)) + nth 0 cs (r - 1) / 16 * 64
  if 0 < v.perm && 2 ≤ r then xorBits off 6 v.perm (nth 0 cs (r - 2)) else off

/-- The linear block index of a plane-major view (R103). -/
def View.blockAt (v : View) (cs : List Nat) : Nat :=
  let r := v.rank
  ((upFrom 0 (r - 1)).foldl (fun b d => b * v.extN d + nth 0 cs d) 0) * (v.extN (r - 1) / 16) + nth 0 cs (r - 1) / 16

/-- The granule size of section k (R26). -/
def granuleBytes (k : Nat) : Nat := nth 0 [2, 8, 8, 16, 16] k

/-- The address of a block's granule in section k of a plane-major view (R26). -/
def View.granuleAt (v : View) (cs : List Nat) (k : Nat) : Nat :=
  v.offset + k * v.sectStride + v.blockAt cs * granuleBytes k

/-- Why a lane access does not resolve: the conditions of R101 and R102, all a view fault in R109's table. -/
inductive Resolve where
  | bad
  | unbound
  | ok (off : Nat)
  deriving DecidableEq, Repr

/-- The coordinates lie in the extents (R101). -/
def View.inExtent (v : View) (cs : List Nat) : Bool := (upFrom 0 v.rank).all fun d => nth 0 cs d < v.extN d

/-- What a lane access is (R102). -/
inductive Access where
  | load | store | atomic
  deriving DecidableEq, Repr

/-- Rights (R102): a load needs R, a store W, an atomic A. -/
def View.grants (v : View) : Access → Bool
  | .load => v.hasR
  | .store => v.hasW
  | .atomic => v.hasA

/-- The types through which lanes load, store and use atomics (R100). -/
def laneType (ty : Nat) : Bool := ty ≤ 0x08 || ty == tyFUTURE || ty == tyWINNOW || ty == tyWORD

/-- A lane access of `n` bytes (R101, R102, R300): the offset of its first byte from BASE. -/
def View.resolve (v : View) (k : Access) (cs : List Nat) (n : Nat) : Resolve :=
  if !v.valid || !laneType v.ty then .bad
  else
    let e := elemBits v.ty / 8
    let r := v.rank
    let many := max 1 (n / e)
    if !v.inExtent cs || v.extN (r - 1) < nth 0 cs (r - 1) + many then .bad
    else
      let off := rowOffset (cs.take (r - 1)) (v.str.toList.map (·.toNat)) + nth 0 cs (r - 1) * e
      if (v.offset + off) % n != 0 then .bad
      else if !v.grants k || v.stook || (v.space == spCODE && k == .atomic) then .bad
      else if v.translated && v.region.isNone then .unbound
      else .ok (v.offAt cs (nth 0 cs (r - 1) * e))

/-- The core that holds member m of a team's crew (R253). -/
def State.memberCore (s : State) (t : Team) (m : Nat) : Option Nat :=
  let n := t.crewId * recCrew (s.recordOf t) + m
  (s.cores.find? fun c =>
    match c.team with
    | none => false
    | some u => u.part == t.part && u.seq == t.seq && u.number == n).map (·.id)

/-- Where an offset of an SRAM view lies in the flat memory (R98, R253). -/
def State.sramAt (s : State) (core : Nat) (t : Team) (v : View) (off : Nat) : Option Nat :=
  match v.space with
  | 0 => some (scratchAt core (v.offset + off))
  | 1 => (s.memberCore t (bvFld v.base 32 6)).map fun c => scratchAt c (v.offset + off)
  | 2 => some (vaultAt (dieOfCore core) (bvFld v.base 32 7) (v.offset + off))
  | _ => none

/-- The package that a PEER view names (R98). -/
def View.peer (v : View) : Nat := bvFld v.base 48 16

/-- The home of a virtual address of a translated view (R299): a flat address, or a cause. -/
def State.homeOf (s : State) (part : Nat) (v : View) (va : Nat) (need : Need) : Walk :=
  if v.space == spPEER then .ok (peerAt v.peer va) 7 7 false
  else
    match s.part part with
    | none => .bad 3 1
    | some p => translate s p (v.space == spHOST) va need

end Sys2Proof.Machine
end

