-- ==== Sys2Proof/Machine/Pieces.lean ====
section
/-!
DEFINITION. The shape of a copy (spec/10_core_matrix_copy.md R234 to R238; spec/16_die.md R307, R308): its window, its
destination rows, and the pieces of at most 256 bytes in which it moves (R306). A handle's data is read and written through
a view made of its region (R222, R238).
-/
namespace Sys2Proof.Machine

/-- The window, and the fields of the block's last word (R234, R307). -/
def Copy.rows (c : Copy) : Nat := bvFld (nth 0 c.block 4) 16 16
def Copy.cols (c : Copy) : Nat := bvFld (nth 0 c.block 4) 0 16
def Copy.pln (c : Copy) : Nat := bvFld (nth 0 c.block 7) 12 2
def Copy.rnp (c : Copy) : Bool := bit (nth 0 c.block 7).toNat 11
def Copy.drow (c : Copy) : Nat := bvFld (nth 0 c.block 7) 0 11
def Copy.srow (c : Copy) : Nat := bvFld (nth 0 c.block 5) 0 26
def Copy.sv (c : Copy) : Nat := bvFld (nth 0 c.block 5) 26 6

/-- The transform codes that a rule names (R236). -/
def xfCOPY : Nat := 0
def xfQPLANE : Nat := 1
def xfTRANSPOSE : Nat := 6

/-- Whether the transform reads the side tensor (R236): QE4M3, QE5M2, DEQ. -/
def xfSide (xf : Nat) : Bool := xf == 2 || xf == 3 || xf == 5

/-- Whether the transform appends its multipliers in a handle (R238). -/
def xfScales (xf : Nat) : Bool := xf == 2 || xf == 3

/-- Whether the destination's rows are the window's columns (R237): a TRANSPOSE whose window lies in the source view. A
TILEOUT's window lies in its destination view (R235, DEDUCED, log 17). -/
def Copy.turned (c : Copy) : Bool := c.xf == xfTRANSPOSE && c.kind != .tileOut

/-- The destination rows and columns (R235, R237). -/
def Copy.dRows (c : Copy) : Nat := if c.turned then c.cols else c.rows
def Copy.dCols (c : Copy) : Nat := if c.turned then c.rows else c.cols

/-- The bytes of a run of elements, of a planed block each 64 in SRAM and 50 elsewhere (R308). -/
def runBytes (v : View) (n : Nat) : Nat :=
  if v.planed then n / 16 * (if v.sram then 64 else 50) else ceilDiv (n * elemBits v.ty) 8

/-- The destination columns that one piece holds. -/
def Copy.step (c : Copy) : Nat :=
  if c.dst.planed then 64
  else if c.dst.ty == 0x0A || c.dst.ty == 0x0B then (if c.dst.stook then 1024 else 256)
  else 2048 / max 1 (elemBits c.dst.ty)

/-- Whether the destination is a planed stook view, which is written block by block of its sections (R354). -/
def Copy.toSections (c : Copy) : Bool := c.dst.planed && c.dst.stook

/-- A piece: destination columns of one row; multipliers of one row in a handle's scale area; or one stook block of a
section of a planed destination. -/
inductive Piece where
  | run (row col n : Nat)
  | scales (row g n : Nat)
  | sect (k m : Nat)
  deriving DecidableEq, Repr

/-- The multipliers of a row (R235). -/
def Copy.groups (c : Copy) : Nat := ceilDiv c.cols 32

/-- Whether the copy lands multipliers. -/
def Copy.hasScales (c : Copy) : Bool := c.kind == .tileIn && xfScales c.xf

/-- The number of pieces, and the piece of a number. -/
def Copy.pieces (c : Copy) : Nat :=
  if c.toSections then 5 * ceilDiv c.dst.blocks 16
  else c.dRows * ceilDiv c.dCols c.step + if c.hasScales then c.rows * ceilDiv c.groups 64 else 0
def Copy.piece (c : Copy) (i : Nat) : Piece :=
  if c.toSections then .sect (i / ceilDiv c.dst.blocks 16) (i % ceilDiv c.dst.blocks 16)
  else
    let p := ceilDiv c.dCols c.step
    if i < c.dRows * p then .run (i / p) (i % p * c.step) (min c.step (c.dCols - i % p * c.step))
    else
      let j := i - c.dRows * p
      let q := ceilDiv c.groups 64
      .scales (j / q) (j % q * 64) (min 64 (c.groups - j % q * 64))

/-- The blocks of section k that stook block m holds, as linear block indices (R354). -/
def sectBlocks (v : View) (k m : Nat) : List Nat :=
  let per := 256 / granuleBytes k
  upFrom (m * per) (min per (v.blocks - m * per))

/-- The bytes that a piece counts (R238, R308). -/
def Copy.pieceBytes (c : Copy) (i : Nat) : Nat :=
  match c.piece i with
  | .run _ _ n => runBytes c.dst n
  | .scales _ _ n => 4 * n
  | .sect k m => (sectBlocks c.dst k m).length * granuleBytes k

/-- All the bytes of a copy (R238, R308). -/
def Copy.bytes (c : Copy) : Nat :=
  if c.toSections then 50 * c.dst.blocks
  else c.dRows * runBytes c.dst c.dCols + if c.hasScales then 4 * c.rows * c.groups else 0

/-- The bytes of a copy not yet moved (R255). -/
def copyLeft (c : Copy) : Nat := ((upFrom c.moved (c.pieces - c.moved)).map c.pieceBytes).foldr (· + ·) 0

/-- The coordinates (R235, R307) of row i and column j of a view whose dimensions 0 to rank − 3 have `org`'s. -/
def viewCoords (v : View) (org : List Nat) (row col : Nat) : List Nat :=
  if v.rank ≤ 1 then [col] else (upFrom 0 (v.rank - 2)).map (nth 0 org) ++ [row, col]

/-- The origin words of a tile copy's block. -/
def Copy.org (c : Copy) : List Nat := (c.block.take 4).map (·.toNat)

/-- The view coordinates of source row i and column j. -/
def Copy.srcCs (c : Copy) (i j : Nat) : List Nat :=
  let r := c.src.rank
  match c.kind with
  | .tileIn => viewCoords c.src c.org (nth 0 c.org (r - 2) + i) (nth 0 c.org (r - 1) + j)
  | .tileOut => [c.drow + i, j]
  | .bulk => viewCoords c.src [] (nth 0 c.org 0 + i) (nth 0 c.org 1 + j)
  | .image => [i, j]

/-- The view coordinates of destination row i and column j. -/
def Copy.dstCs (c : Copy) (i j : Nat) : List Nat :=
  let r := c.dst.rank
  match c.kind with
  | .tileIn => [c.drow + i, j]
  | .tileOut => viewCoords c.dst c.org (nth 0 c.org (r - 2) + i) (nth 0 c.org (r - 1) + j)
  | .bulk => viewCoords c.dst [] (nth 0 c.org 2 + i) (nth 0 c.org 3 + j)
  | .image => [i, j]

/-- The source row and column of a destination element (R237). -/
def Copy.from_ (c : Copy) (a b : Nat) : Nat × Nat := if c.xf == xfTRANSPOSE then (b, a) else (a, b)

/-- A handle's data as a view (R222): rows of `pitch` bytes after the header's place. -/
def handleView (h : Handle) (ty rows cols pitch : Nat) : View :=
  { base := BitVec.ofNat 64 (64 * h.base + 64)
    flags := BitVec.ofNat 64 (spCORE + 2 * 8 + ty * 64 + 7 * 2 ^ 16 + b2n (ty == tyPLANED) * 2 ^ 19 + 2 ^ 63)
    ext := #v[BitVec.ofNat 32 rows, BitVec.ofNat 32 cols, 0, 0, 0]
    str := #v[BitVec.ofNat 32 pitch, 0, 0, 0]
    mbase := 0
    region := none }

end Sys2Proof.Machine
end

