-- ==== Sys2Proof/Machine/Float.lean ====
section
/-!
DEFINITION. The numbers of spec/01_numbers.md: formats (R14), rounding (R15 to R19), the planed format (R21 to R29), the
matrix array's arithmetic (R31), FEXP2 and FLOG2 (R32), the helpers of R33, and the float operations of
spec/06_lane_float_planes.md on bit patterns. An exact value is a dyadic number, so nothing is rounded twice.
-/
namespace Sys2Proof

/-- The %status bits of R13 that arithmetic sets. -/
def fNV : Word := 0x01
def fDZ : Word := 0x02
def fOF : Word := 0x04
def fUF : Word := 0x08
def fNX : Word := 0x10
def fSAT : Word := 0x20
def fSCOPE : Word := 0x40
def fUNBOUND : Word := 0x80

/-- What a format keeps its top codes for (R14). -/
inductive TopCodes where
  | ieee | oneNaN | none
  deriving DecidableEq, Repr

/-- A float format (R14): exponent and mantissa bits, bias, top codes. -/
structure Fmt where
  eb   : Nat
  mb   : Nat
  bias : Nat
  top  : TopCodes
  deriving DecidableEq, Repr

/-- The formats of R14. -/
def fmtF32 : Fmt := ⟨8, 23, 127, .ieee⟩
def fmtBF16 : Fmt := ⟨8, 7, 127, .ieee⟩
def fmtE4M3 : Fmt := ⟨4, 3, 7, .oneNaN⟩
def fmtE5M2 : Fmt := ⟨5, 2, 15, .ieee⟩
def fmtE3M2 : Fmt := ⟨3, 2, 3, .none⟩
def fmtE2M3 : Fmt := ⟨2, 3, 1, .none⟩
def fmtE2M1 : Fmt := ⟨2, 1, 1, .none⟩

/-- The bits of a code without its sign. -/
def Fmt.magBits (f : Fmt) : Nat := f.eb + f.mb

/-- The sign bit of a code. -/
def Fmt.sgn (f : Fmt) (x : Nat) : Bool := bit x f.magBits

/-- A code of sign `neg` and magnitude bits `m`. -/
def Fmt.pack (f : Fmt) (neg : Bool) (m : Nat) : Nat := b2n neg * 2 ^ f.magBits + m

/-- The exponent of the last place of the subnormals. -/
def Fmt.emin (f : Fmt) : Int := 1 - (f.bias : Int) - (f.mb : Int)

/-- The magnitude bits of the canonical NaN (R14). -/
def Fmt.nan (f : Fmt) : Nat :=
  match f.top with
  | .ieee => (2 ^ f.eb - 1) * 2 ^ f.mb + 2 ^ (f.mb - 1)
  | .oneNaN => 2 ^ f.magBits - 1
  | .none => 0

/-- The magnitude bits of infinity, where the format has one. -/
def Fmt.inf (f : Fmt) : Nat := (2 ^ f.eb - 1) * 2 ^ f.mb

/-- The magnitude bits of the largest finite value (R14). -/
def Fmt.maxFin (f : Fmt) : Nat :=
  match f.top with
  | .ieee => (2 ^ f.eb - 1) * 2 ^ f.mb - 1
  | .oneNaN => 2 ^ f.magBits - 2
  | .none => 2 ^ f.magBits - 1

/-- An exact value, or a special one: a NaN (signalling or quiet), an infinity, or (−1)^neg · m · 2^e. -/
inductive Num where
  | nan (signalling : Bool)
  | inf (neg : Bool)
  | fin (neg : Bool) (m : Nat) (e : Int)
  deriving DecidableEq, Repr

/-- `Val` of R33 for the formats of R14. A NaN of an ieee format is signalling where its top mantissa bit is 0 (R157);
the E4M3 NaN is quiet. -/
def valOf (f : Fmt) (x : Nat) : Num :=
  let neg := f.sgn x
  let mag := x % 2 ^ f.magBits
  let e := mag / 2 ^ f.mb
  let m := mag % 2 ^ f.mb
  let special := match f.top with
    | .ieee => e == 2 ^ f.eb - 1
    | .oneNaN => mag == 2 ^ f.magBits - 1
    | .none => false
  if special then
    if f.top == .ieee && m == 0 then .inf neg
    else .nan (f.top == .ieee && !bit m (f.mb - 1))
  else if e == 0 then .fin neg m f.emin
  else .fin neg (2 ^ f.mb + m) (f.emin + (e : Int) - 1)

/-- Whether the code is a subnormal of the format. -/
def Fmt.isSub (f : Fmt) (x : Nat) : Bool :=
  let mag := x % 2 ^ f.magBits
  mag / 2 ^ f.mb == 0 && mag % 2 ^ f.mb != 0

/-- `Flush` of R33. -/
def flush (f : Fmt) (fi : Bool) (x : Nat) : Nat := if fi && f.isSub x then f.pack (f.sgn x) 0 else x

/-- m · 2^e as a whole number of units 2^q, ties to even, and whether that was inexact. -/
def unitsRNE (m : Nat) (e q : Int) : Nat × Bool :=
  if q ≤ e then (m * 2 ^ (e - q).toNat, false)
  else
    let k := (q - e).toNat
    let n := m / 2 ^ k
    let r := m % 2 ^ k
    let half := 2 ^ (k - 1)
    (if half < r || (r == half && n % 2 == 1) then n + 1 else n, r != 0)

/-- floor(log2 (m · 2^e)) for m > 0. -/
def expOf (m : Nat) (e : Int) : Int := (Nat.log2 m : Int) + e

/-- Rounding of a finite value to the format, before overflow and flushing: the magnitude bits (which may lie beyond the
largest finite value), whether it was inexact, and whether the result is tiny after rounding (R15). -/
def roundMag (f : Fmt) (m : Nat) (e : Int) : Nat × Bool × Bool :=
  if m == 0 then (0, false, false)
  else
    let l := expOf m e
    let q := max (l - f.mb) f.emin
    let (n, nx) := unitsRNE m e q
    let (n0, _) := unitsRNE m e (l - f.mb)
    let tiny := expOf n0 (l - f.mb) < 1 - (f.bias : Int)
    ((q - f.emin).toNat * 2 ^ f.mb + n, nx, tiny)

/-- FO of R16 on a rounded result: the magnitude bits and the flags. -/
def flushOut (f : Fmt) (fo : Bool) (mag : Nat) (flags : Word) : Nat × Word :=
  if fo && mag != 0 && mag / 2 ^ f.mb == 0 then (0, flags ||| fUF ||| fNX) else (mag, flags)

/-- `RoundF32` and `RoundBF16` of R33, for an ieee format: the code and the flags of R15 and R16. The NaN of an undefined
operation carries its own NV, which the caller sets. -/
def roundTo (f : Fmt) (fo : Bool) : Num → Nat × Word
  | .nan _ => (f.nan, 0)
  | .inf neg => (f.pack neg f.inf, 0)
  | .fin neg m e =>
    let (mag, nx, tiny) := roundMag f m e
    if f.inf ≤ mag then (f.pack neg f.inf, fOF ||| fNX)
    else
      let fl := (if nx then fNX else 0) ||| (if nx && tiny then fUF else 0)
      let (mag, fl) := flushOut f fo mag fl
      (f.pack neg mag, fl)

/-- `RoundF8` of R33, with the overflow forms of R19: a value is beyond the largest finite one when its rounding is
(DEDUCED, log 9). -/
def roundF8 (f : Fmt) (sat fo : Bool) : Num → Nat × Word
  | .nan s => (f.nan, if s then fNV else 0)
  | .inf neg =>
    match f.top with
    | .ieee => (f.pack neg f.inf, 0)
    | .oneNaN => if sat then (f.pack neg f.maxFin, fSAT) else (f.nan, fNV)
    | .none => (f.pack neg f.maxFin, fSAT)
  | .fin neg m e =>
    let (mag, nx, tiny) := roundMag f m e
    if f.maxFin < mag then
      if sat then (f.pack neg f.maxFin, fSAT)
      else
        match f.top with
        | .ieee => (f.pack neg f.inf, fOF ||| fNX)
        | .oneNaN => (f.nan, fOF ||| fNX)
        | .none => (f.pack neg f.maxFin, fSAT)
    else
      let fl := (if nx then fNX else 0) ||| (if nx && tiny then fUF else 0)
      let (mag, fl) := flushOut f fo mag fl
      (f.pack neg mag, fl)

/-- The signed magnitude of a finite value in units of 2^q, which must not exceed its exponent. -/
def signedUnits (neg : Bool) (m : Nat) (e q : Int) : Int :=
  let n : Int := m * 2 ^ (e - q).toNat
  if neg then -n else n

/-- Exact sum. The zero of an exact sum is +0 unless both terms are −0 (R148). NV of ∞ − ∞ shows as a signalling NaN. -/
def numAdd : Num → Num → Num
  | .nan s, .nan t => .nan (s || t)
  | .nan s, .inf _ => .nan s
  | .nan s, .fin _ _ _ => .nan s
  | .inf _, .nan t => .nan t
  | .fin _ _ _, .nan t => .nan t
  | .inf a, .inf b => if a == b then .inf a else .nan true
  | .inf a, .fin _ _ _ => .inf a
  | .fin _ _ _, .inf b => .inf b
  | .fin na ma ea, .fin nb mb eb =>
    if ma == 0 && mb == 0 then .fin (na && nb) 0 0
    else
      let q := min ea eb
      let t := signedUnits na ma ea q + signedUnits nb mb eb q
      .fin (t < 0) t.natAbs q

/-- The negation of a value. -/
def numNeg : Num → Num
  | .nan s => .nan s
  | .inf n => .inf (!n)
  | .fin n m e => .fin (!n) m e

/-- Exact product; 0 · ∞ gives NaN with NV, shown as a signalling NaN (R148). -/
def numMul : Num → Num → Num
  | .nan s, .nan t => .nan (s || t)
  | .nan s, .inf _ => .nan s
  | .nan s, .fin _ _ _ => .nan s
  | .inf _, .nan t => .nan t
  | .fin _ _ _, .nan t => .nan t
  | .inf a, .inf b => .inf (a != b)
  | .inf a, .fin b m _ => if m == 0 then .nan true else .inf (a != b)
  | .fin a m _, .inf b => if m == 0 then .nan true else .inf (a != b)
  | .fin a ma ea, .fin b mb eb => .fin (a != b) (ma * mb) (ea + eb)

/-- NV where a signalling NaN went in or the operation is undefined. -/
def numNV : Num → Word
  | .nan true => fNV
  | .nan false => 0
  | .inf _ => 0
  | .fin _ _ _ => 0

/-- The code and flags of an exact result, with NV. -/
def delivered (f : Fmt) (fo : Bool) (x : Num) : Nat × Word :=
  let (r, fl) := roundTo f fo x
  (r, fl ||| numNV x)

/-- x · y + c exactly (R148): a quiet NaN c does not hide an undefined product. -/
def numFma (x y c : Num) : Num := numAdd (numMul x y) c

/-- FADD, FSUB, FMUL and FFMA on codes of `f` (R148, R159). -/
def opAdd (f : Fmt) (fi fo : Bool) (a b : Nat) : Nat × Word :=
  delivered f fo (numAdd (valOf f (flush f fi a)) (valOf f (flush f fi b)))
def opSub (f : Fmt) (fi fo : Bool) (a b : Nat) : Nat × Word :=
  delivered f fo (numAdd (valOf f (flush f fi a)) (numNeg (valOf f (flush f fi b))))
def opMul (f : Fmt) (fi fo : Bool) (a b : Nat) : Nat × Word :=
  delivered f fo (numMul (valOf f (flush f fi a)) (valOf f (flush f fi b)))
def opFma (f : Fmt) (fi fo : Bool) (a b c : Nat) : Nat × Word :=
  delivered f fo (numFma (valOf f (flush f fi a)) (valOf f (flush f fi b)) (valOf f (flush f fi c)))

/-- Whether a < b for two values, −0 below +0, a NaN below nothing. -/
def numLt : Num → Num → Bool
  | .nan _, .nan _ => false
  | .nan _, .inf _ => false
  | .nan _, .fin _ _ _ => false
  | .inf _, .nan _ => false
  | .fin _ _ _, .nan _ => false
  | .inf a, .inf b => a && !b
  | .inf a, .fin _ _ _ => a
  | .fin _ _ _, .inf b => !b
  | .fin na ma ea, .fin nb mb eb =>
    if ma == 0 && mb == 0 then na && !nb
    else
      let q := min ea eb
      signedUnits na ma ea q < signedUnits nb mb eb q

/-- Whether two values are equal as numbers; −0 equals +0. -/
def numEq : Num → Num → Bool
  | .nan _, .nan _ => false
  | .nan _, .inf _ => false
  | .nan _, .fin _ _ _ => false
  | .inf _, .nan _ => false
  | .fin _ _ _, .nan _ => false
  | .inf a, .inf b => a == b
  | .inf _, .fin _ _ _ => false
  | .fin _ _ _, .inf _ => false
  | .fin na ma ea, .fin nb mb eb =>
    let q := min ea eb
    signedUnits na ma ea q == signedUnits nb mb eb q

/-- Whether the value is a NaN. -/
def Num.isNaN : Num → Bool
  | .nan _ => true
  | .inf _ => false
  | .fin _ _ _ => false

/-- FMIN and FMAX (R17, R148): `less` says which of the two is wanted. -/
def opMinMax (wantMax fi fo : Bool) (a b : Nat) : Nat × Word :=
  let f := fmtF32
  let x := flush f fi a
  let y := flush f fi b
  let vx := valOf f x
  let vy := valOf f y
  let fl := numNV vx ||| numNV vy
  if vx.isNaN && vy.isNaN then (f.nan, fl)
  else
    let r := if vx.isNaN then y else if vy.isNaN then x
      else if wantMax then (if numLt vx vy then y else x) else (if numLt vy vx then y else x)
    let (m, fl) := flushOut f fo (r % 2 ^ f.magBits) fl
    (f.pack (f.sgn r) m, fl)

/-- FABS and FNEG (R149): `sign` gives the result's sign. -/
def opSign (sign : Bool → Bool) (fi fo : Bool) (a : Nat) : Nat × Word :=
  let f := fmtF32
  let x := flush f fi a
  match valOf f x with
  | .nan s => (f.nan, if s then fNV else 0)
  | .inf n => (f.pack (sign n) f.inf, 0)
  | .fin n _ _ =>
    let (m, fl) := flushOut f fo (x % 2 ^ f.magBits) 0
    (f.pack (sign n) m, fl)

/-- The integer square root of `x`, by its bits from bit `k − 1` down, beginning at `r`. -/
def isqrtFrom (x : Nat) : Nat → Nat → Nat
  | 0, r => r
  | k + 1, r => if (r + 2 ^ k) * (r + 2 ^ k) ≤ x then isqrtFrom x k (r + 2 ^ k) else isqrtFrom x k r

/-- floor(sqrt x). -/
def isqrt (x : Nat) : Nat := isqrtFrom x (Nat.log2 x / 2 + 1) 0

/-- sqrt(m · 2^e) to more than 32 bits with a sticky last bit, which RNE to binary32 cannot tell from the exact root. -/
def rootOf (m : Nat) (e : Int) : Nat × Int :=
  let (m, e) := if e % 2 == 0 then (m, e) else (2 * m, e - 1)
  let t := m * 4 ^ 40
  let r := isqrt t
  (2 * r + b2n (r * r != t), e / 2 - 41)

/-- 1 / (m · 2^e) for m > 0, to more than 64 bits with a sticky last bit. -/
def recipOf (m : Nat) (e : Int) : Nat × Int :=
  let k := Nat.log2 m + 65
  let q := 2 ^ k / m
  (2 * q + b2n (q * m != 2 ^ k), -(k : Int) - e - 1)

/-- FSQRT (R150). -/
def opSqrt (fi fo : Bool) (a : Nat) : Nat × Word :=
  match valOf fmtF32 (flush fmtF32 fi a) with
  | .nan s => (fmtF32.nan, if s then fNV else 0)
  | .inf n => if n then (fmtF32.nan, fNV) else (fmtF32.inf, 0)
  | .fin n m e =>
    if m == 0 then (fmtF32.pack n 0, 0)
    else if n then (fmtF32.nan, fNV)
    else
      let (r, k) := rootOf m e
      roundTo fmtF32 fo (.fin false r k)

/-- FRCP (R150). -/
def opRcp (fi fo : Bool) (a : Nat) : Nat × Word :=
  match valOf fmtF32 (flush fmtF32 fi a) with
  | .nan s => (fmtF32.nan, if s then fNV else 0)
  | .inf n => (fmtF32.pack n 0, 0)
  | .fin n m e =>
    if m == 0 then (fmtF32.pack n fmtF32.inf, fDZ)
    else
      let (r, k) := recipOf m e
      roundTo fmtF32 fo (.fin n r k)

/-- FRSQ (R150): the root is taken of a reciprocal kept to 128 bits, so that one rounding is made. -/
def opRsq (fi fo : Bool) (a : Nat) : Nat × Word :=
  match valOf fmtF32 (flush fmtF32 fi a) with
  | .nan s => (fmtF32.nan, if s then fNV else 0)
  | .inf n => if n then (fmtF32.nan, fNV) else (0, 0)
  | .fin n m e =>
    if m == 0 then (fmtF32.pack n fmtF32.inf, 0)
    else if n then (fmtF32.nan, fNV)
    else
      let (m, e) := if e % 2 == 0 then (m, e) else (2 * m, e - 1)
      let t := 4 ^ 64 / m
      let r := isqrt t
      let exact := r * r * m == 4 ^ 64
      roundTo fmtF32 fo (.fin false (2 * r + b2n (!exact)) (-65 - e / 2))

/-- floor(m · 2^e) and whether it is exact. -/
def floorOf (m : Nat) (e : Int) : Nat × Bool :=
  if 0 ≤ e then (m * 2 ^ e.toNat, true)
  else (m / 2 ^ (-e).toNat, m % 2 ^ (-e).toNat == 0)

/-- The four roundings of CVT and of the integral members (R151, R155). -/
inductive RDir where
  | near | zero | down | up
  deriving DecidableEq, Repr

/-- The integral magnitude that (−1)^neg · m · 2^e rounds to in a direction (its sign is kept). -/
def integralOf (r : RDir) (neg : Bool) (m : Nat) (e : Int) : Nat :=
  let (n, exact) := floorOf m e
  match r with
  | .near => (unitsRNE m e 0).1
  | .zero => n
  | .down => if neg && !exact then n + 1 else n
  | .up => if !neg && !exact then n + 1 else n

/-- FFLOOR, FCEIL, FTRUNC, FRINT (R151). -/
def opIntegral (r : RDir) (fi : Bool) (a : Nat) : Nat × Word :=
  match valOf fmtF32 (flush fmtF32 fi a) with
  | .nan s => (fmtF32.nan, if s then fNV else 0)
  | .inf n => (fmtF32.pack n fmtF32.inf, 0)
  | .fin n m e => ((roundTo fmtF32 false (.fin n (integralOf r n m e) 0)).1, 0)

/-- FCLASS (R152). -/
def opClass (fi : Bool) (a : Nat) : Nat :=
  let x := flush fmtF32 fi a
  match valOf fmtF32 x with
  | .nan s => if s then 2 ^ 8 else 2 ^ 9
  | .inf n => if n then 1 else 2 ^ 7
  | .fin n m _ =>
    if m == 0 then (if n then 2 ^ 3 else 2 ^ 4)
    else if fmtF32.isSub x then (if n then 2 ^ 2 else 2 ^ 5)
    else (if n then 2 ^ 1 else 2 ^ 6)

/-- CVT to a 32-bit integer (R155), into [lo, hi]. -/
def opToInt (r : RDir) (fi : Bool) (lo hi : Int) (a : Nat) : Word × Word :=
  match valOf fmtF32 (flush fmtF32 fi a) with
  | .nan _ => (0, fNV)
  | .inf n => (BitVec.ofInt 32 (if n then lo else hi), fNV)
  | .fin n m e =>
    let k := integralOf r n m e
    let y : Int := if n then -(k : Int) else k
    if y < lo then (BitVec.ofInt 32 lo, fNV)
    else if hi < y then (BitVec.ofInt 32 hi, fNV)
    else (BitVec.ofInt 32 y, if (floorOf m e).2 then 0 else fNX)

/-- CVT from a 32-bit integer (R155). -/
def opFromInt (x : Int) : Nat × Word := roundTo fmtF32 false (.fin (x < 0) x.natAbs 0)

/-- An exact widening of a code of `f` to binary32 (R157): FO has no effect, though R16 would flush the subnormal value of a BF16
subnormal. (DEDUCED, log 93.) -/
def opWiden (f : Fmt) (fi : Bool) (a : Nat) : Nat × Word := delivered fmtF32 false (valOf f (flush f fi a))

/-- CVT from binary32 to BF16 (R156). -/
def opNarrowBF16 (fi fo : Bool) (a : Nat) : Nat × Word := delivered fmtBF16 fo (valOf fmtF32 (flush fmtF32 fi a))

/-- CVT from binary32 to FP8 (R156). -/
def opNarrowF8 (f : Fmt) (fi fo sat : Bool) (a : Nat) : Nat × Word :=
  roundF8 f sat fo (valOf fmtF32 (flush fmtF32 fi a))

/-- The E4M3 code of an element narrower than eight bits (R20, R158), an int4 where `f` is none. -/
def expandSub (f : Option Fmt) (fi : Bool) (x : Nat) : Nat :=
  match f with
  | some f => (roundF8 fmtE4M3 true false (valOf f (flush f fi x))).1
  | none =>
    let i := sextNat 4 (x % 16)
    (roundF8 fmtE4M3 true false (.fin (i < 0) i.natAbs 0)).1

/-- Four elements of `w` bits expanded to the bytes of a word (R158). -/
def opExpand4 (f : Option Fmt) (w : Nat) (fi : Bool) (a : Nat) : Nat :=
  ofBytes ((upFrom 0 4).map fun k => BitVec.ofNat 8 (expandSub f fi (fld a (w * k) w)))

/-- FCMP (R153): whether the condition holds, and NV. -/
def opFCmp (c : FCond) (q fi : Bool) (a b : Nat) : Bool × Word :=
  let x := valOf fmtF32 (flush fmtF32 fi a)
  let y := valOf fmtF32 (flush fmtF32 fi b)
  let un := x.isNaN || y.isNaN
  let lt := numLt x y && !numEq x y
  let gt := numLt y x && !numEq x y
  let ordering := c == .lt || c == .le || c == .gt || c == .ge
  let r := match c with
    | .eq => numEq x y
    | .ne => un || !numEq x y
    | .lt => lt
    | .le => !un && !gt
    | .gt => gt
    | .ge => !un && !lt
    | .un => un
    | .ord => !un
  (r, numNV x ||| numNV y ||| (if !q && un && ordering then fNV else 0))

/-! ## FEXP2 and FLOG2 (R32) -/

/-- T[j] of R32. -/
def exp2Table : List Nat :=
  [0x3F800000, 0x3F82CD87, 0x3F85AAC3, 0x3F88980F, 0x3F8B95C2, 0x3F8EA43A, 0x3F91C3D3, 0x3F94F4F0,
   0x3F9837F0, 0x3F9B8D3A, 0x3F9EF532, 0x3FA27043, 0x3FA5FED7, 0x3FA9A15B, 0x3FAD583F, 0x3FB123F6,
   0x3FB504F3, 0x3FB8FBAF, 0x3FBD08A4, 0x3FC12C4D, 0x3FC5672A, 0x3FC9B9BE, 0x3FCE248C, 0x3FD2A81E,
   0x3FD744FD, 0x3FDBFBB8, 0x3FE0CCDF, 0x3FE5B907, 0x3FEAC0C7, 0x3FEFE4BA, 0x3FF5257D, 0x3FFA83B3]

/-- The value of a binary32 code. -/
def f32v (x : Nat) : Num := valOf fmtF32 x

/-- `fma` and `mul` of R32: one rounding to binary32, no flags. -/
def fma32 (a b c : Num) : Num := f32v (roundTo fmtF32 false (numFma a b c)).1
def mul32 (a b : Num) : Num := f32v (roundTo fmtF32 false (numMul a b)).1

/-- T[j] as a value. -/
def tab (j : Nat) : Num := f32v (nth 0 exp2Table j)

/-- The value scaled by 2^k. -/
def numScale (k : Int) : Num → Num
  | .nan s => .nan s
  | .inf n => .inf n
  | .fin n m e => .fin n m (e + k)

/-- FEXP2 (R32). -/
def opExp2 (fi fo : Bool) (a : Nat) : Nat × Word :=
  match f32v (flush fmtF32 fi a) with
  | .nan s => (fmtF32.nan, if s then fNV else 0)
  | .inf n => if n then (0, 0) else (fmtF32.inf, 0)
  | .fin neg m e =>
    if !neg && 4096 ≤ (unitsRNE m e (-5)).1 then (fmtF32.inf, fOF ||| fNX)
    else
      let nn := (unitsRNE m e (-5)).1
      let n : Int := if neg then -(nn : Int) else nn
      if n < -(2 ^ 14) then
        -- the result is below half the smallest subnormal for every such n
        let (r, fl) := roundTo fmtF32 fo (.fin false 1 (-400))
        (r, fl ||| fNX)
      else
        let k := n / 32
        let j := (n % 32).toNat
        let x : Num := .fin neg m e
        let r := numAdd x (.fin (0 < n) n.natAbs (-5))
        let t := fma32 (f32v 0x3D635847) r (f32v 0x3E75FDF0)
        let t := fma32 t r (f32v 0x3F317218)
        let t := mul32 t r
        let y := fma32 (tab j) t (tab j)
        let (res, fl) := roundTo fmtF32 fo (numScale k y)
        let whole := (floorOf m e).2
        let normalPower := whole && -126 ≤ k && k ≤ 127
        (res, fl ||| (if normalPower then 0 else fNX))

/-- The largest j ≤ `k` with T[j] ≤ m. -/
def tabIndex (m : Num) : Nat → Nat
  | 0 => 0
  | k + 1 => if numLt m (tab (k + 1)) then tabIndex m k else k + 1

/-- FLOG2 (R32). -/
def opLog2 (fi : Bool) (a : Nat) : Nat × Word :=
  match f32v (flush fmtF32 fi a) with
  | .nan s => (fmtF32.nan, if s then fNV else 0)
  | .inf n => if n then (fmtF32.nan, fNV) else (fmtF32.inf, 0)
  | .fin neg m e =>
    if m == 0 then (fmtF32.pack true fmtF32.inf, fDZ)
    else if neg then (fmtF32.nan, fNV)
    else
      let l := Nat.log2 m
      let k : Int := (l : Int) + e
      let mant : Num := .fin false m (-(l : Int))
      let j := tabIndex mant 31
      let y := numAdd mant (numNeg (tab j))
      let h := if j == 0 then .fin false 1 0 else numScale (-1) (tab (32 - j))
      let u := mul32 y h
      let t := fma32 (f32v 0x3EF6384F) u (f32v 0xBF38AA3B)
      let t := fma32 t u (f32v 0x3FB8AA3B)
      let t := mul32 t u
      let kj := k * 32 + j
      let (r, fl) := roundTo fmtF32 false (numAdd (.fin (kj < 0) kj.natAbs (-5)) t)
      if isPow2 m then (r, 0) else (r, fl ||| fNX)

/-! ## The planed format -/

/-- A block (R21): E, μ and sixteen 24-bit elements. -/
structure Block where
  e     : Nat
  mu    : Nat
  elems : List Nat
  deriving DecidableEq, Repr

/-- The mantissa bits of an n-plane view (R22): 1, 5, 13 or 21. -/
def planeBits (n : Nat) : Nat := if n == 1 then 1 else if n == 2 then 5 else if n == 3 then 13 else 21

/-- The element code cut to its leading n planes. -/
def cutElem (n x : Nat) : Nat := x / 2 ^ (21 - planeBits n) * 2 ^ (21 - planeBits n)

/-- An element read through n planes under RNP (R23): the element code with deeper planes zero, and the saturation. -/
def readCode (x n : Nat) (rnp : Bool) : Nat × Bool :=
  let L := planeBits n
  let up := rnp && n < 4 && bit x (20 - L)
  let mag := fld x 0 23 / 2 ^ (21 - L)
  let sign := fld x 23 1 * 2 ^ 23
  if up then
    -- e and the mantissa are one number: a carry out of the mantissa raises e with f = 0
    if mag + 1 < 2 ^ (L + 2) then (sign + (mag + 1) * 2 ^ (21 - L), false)
    else (sign + mag * 2 ^ (21 - L), true)
  else (sign + mag * 2 ^ (21 - L), false)

/-- The exact value of an element code at scale 2^sc (R22). -/
def elemVal (x : Nat) (sc : Int) : Num :=
  let e := fld x 21 2
  let m := fld x 0 21
  if e == 0 then .fin (bit x 23) m (sc - 21) else .fin (bit x 23) (2 ^ 21 + m) (sc - 21 + (e : Int) - 1)

/-- The scale exponent E − 127 − μ of element i. -/
def Block.scale (b : Block) (i : Nat) : Int := (b.e : Int) - 127 - (b2n (bit b.mu (i / 2)) : Int)

/-- `ReadElem` of R33. -/
def readElem (b : Block) (i n : Nat) (rnp : Bool) : Num × Bool :=
  if b.e == 0xFF then (.nan false, false)
  else
    let (c, sat) := readCode (nth 0 b.elems i) n rnp
    (elemVal c (b.scale i), sat)

/-- `EncodeElem` of R27, of (−1)^neg · m · 2^x at the scale 2^sc: the element code and the overflow. -/
def encodeElem (neg : Bool) (m : Nat) (x sc : Int) : Nat × Bool :=
  let s := b2n neg * 2 ^ 23
  -- a = m · 2^(x − sc); rounding below 1 and above 1 both give one number e·2^21 + mantissa
  let a := x - sc
  let l := if m == 0 then -1 else max (expOf m a) (-1)
  let unit : Int := if l < 0 then -21 else l - 21
  let n := (unitsRNE m a unit).1
  let mag := if l < 0 then n else (l.toNat) * 2 ^ 21 + n
  if 2 ^ 23 ≤ mag then (s + 2 ^ 23 - 1, true) else (s + mag, false)

/-- The largest magnitude of a list of finite values, as a dyadic (m, e). -/
def maxMag : List Num → Nat × Int
  | [] => (0, 0)
  | x :: xs =>
    let (m, e) := maxMag xs
    match x with
    | .fin _ k f => if numLt (.fin false m e) (.fin false k f) then (k, f) else (m, e)
    | .nan _ => (m, e)
    | .inf _ => (m, e)

/-- Whether the value is finite. -/
def Num.isFin : Num → Bool
  | .fin _ _ _ => true
  | .nan _ => false
  | .inf _ => false

/-- `x` held to [lo, hi]. -/
def clampInt (x lo hi : Int) : Int := if x < lo then lo else if hi < x then hi else x

/-- The byte of the pairs j of 0 to 7 for which `f` holds. -/
def muOf (f : Nat → Bool) : Nat := ((upFrom 0 8).map fun j => b2n (f j) * 2 ^ j).foldr (· + ·) 0

/-- The μ bits of a block of values at shared exponent E (R28, R233): 1 where the pair's maximum is below 4 · 2^(E−127). -/
def pairMu (xs : List Num) (E : Nat) : Nat :=
  muOf fun j =>
    let (m, e) := maxMag [nth (.fin false 0 0) xs (2 * j), nth (.fin false 0 0) xs (2 * j + 1)]
    numLt (.fin false m e) (.fin false 4 ((E : Int) - 127))

/-- QPLANE on 16 values (R28): the block, and for each element whether it counts one saturation. -/
def quantBlock (xs : List Num) : Block × List Bool :=
  if xs.any fun x => !x.isFin then
    (⟨0xFF, 0, List.replicate 16 0⟩, xs.map fun x => !x.isFin)
  else
    let (m, e) := maxMag xs
    if m == 0 then (⟨1, 0, List.replicate 16 0⟩, xs.map fun _ => false)
    else
      let E := (clampInt (expOf m e - 2 + 127) 1 254).toNat
      let mu := pairMu xs E
      let enc := mapFrom (fun i x =>
        match x with
        | .fin n k f => encodeElem n k f ((E : Int) - 127 - (b2n (bit mu (i / 2)) : Int))
        | .nan _ => (0, false)
        | .inf _ => (0, false)) 0 xs
      (⟨E, mu, enc.map (·.1)⟩, enc.map (·.2))

/-- The 64 bytes of a block line (R25). -/
def Block.line (b : Block) : List Byte :=
  let el := fun i => nth 0 b.elems i
  let nib := fun lo => (upFrom 0 8).map fun k => BitVec.ofNat 8 (fld (el (2 * k)) lo 4 + 16 * fld (el (2 * k + 1)) lo 4)
  nib 20 ++ nib 16 ++ (upFrom 0 16).map (fun i => BitVec.ofNat 8 (fld (el i) 8 8))
    ++ (upFrom 0 16).map (fun i => BitVec.ofNat 8 (fld (el i) 0 8))
    ++ [BitVec.ofNat 8 b.e, BitVec.ofNat 8 b.mu] ++ List.replicate 14 0

/-- The block from the bytes of its planes (R25, R26): header, and the four planes. -/
def Block.ofPlanes (hdr p1 p2 p3 p4 : List Byte) : Block :=
  let n := fun (p : List Byte) i => fld (nth 0 p (i / 2)).toNat (4 * (i % 2)) 4
  let y := fun (p : List Byte) i => (nth 0 p i).toNat
  ⟨(nth 0 hdr 0).toNat, (nth 0 hdr 1).toNat,
   (upFrom 0 16).map fun i => n p1 i * 2 ^ 20 + n p2 i * 2 ^ 16 + y p3 i * 2 ^ 8 + y p4 i⟩

/-- The block of a block line (R25). -/
def Block.ofLine (bs : List Byte) : Block :=
  Block.ofPlanes ((bs.drop 48).take 2) (bs.take 8) ((bs.drop 8).take 8) ((bs.drop 16).take 16) ((bs.drop 32).take 16)

/-- The granule of section k of a block (R26). -/
def Block.granule (b : Block) (k : Nat) : List Byte :=
  let l := b.line
  if k == 0 then (l.drop 48).take 2
  else if k == 1 then l.take 8
  else if k == 2 then (l.drop 8).take 8
  else if k == 3 then (l.drop 16).take 16
  else (l.drop 32).take 16

/-- The elements cut to their leading n planes, as a COPY reads them (R237), and how many saturate. -/
def Block.cut (b : Block) (n : Nat) (rnp : Bool) : Block × Nat :=
  if b.e == 0xFF then (⟨0xFF, b.mu, b.elems.map (cutElem n)⟩, 0)
  else
    let rs := b.elems.map fun x => readCode x n rnp
    (⟨b.e, b.mu, rs.map (·.1)⟩, (rs.filter (·.2)).length)

/-! ## The matrix array's arithmetic (R31) -/

/-- The largest floor(log2 |x|) over the nonzero terms. -/
def emaxOf : List Num → Option Int
  | [] => none
  | .fin _ m e :: xs =>
    if m == 0 then emaxOf xs
    else match emaxOf xs with
      | none => some (expOf m e)
      | some k => some (max (expOf m e) k)
  | .nan _ :: xs => emaxOf xs
  | .inf _ :: xs => emaxOf xs

/-- A term truncated in magnitude to units of 2^q, signed. -/
def truncTerm (q : Int) : Num → Int
  | .fin n m e =>
    let k : Int := if q ≤ e then m * 2 ^ (e - q).toNat else m / 2 ^ (q - e).toNat
    if n then -k else k
  | .nan _ => 0
  | .inf _ => 0

/-- One step of R31 on its terms. -/
def mmaStep (terms : List Num) : Nat :=
  if terms.any Num.isNaN then fmtF32.nan
  else
    let pos := terms.any (· == .inf false)
    let neg := terms.any (· == .inf true)
    if pos && neg then fmtF32.nan
    else if pos then fmtF32.inf
    else if neg then fmtF32.pack true fmtF32.inf
    else
      match emaxOf terms with
      | none =>
        let allNeg := terms.all fun t => match t with
          | .fin n _ _ => n
          | .nan _ => false
          | .inf _ => false
        fmtF32.pack allNeg 0
      | some k =>
        let q := k - 47
        let t := (terms.map (truncTerm q)).foldr (· + ·) 0
        (roundTo fmtF32 false (.fin (t < 0) t.natAbs q)).1

end Sys2Proof
end

