-- ==== Sys2Proof/WellFormed.lean ====
section
/-!
DEFINITION. Which terms of `Instr` are instructions: the conditions on one word that the types of its operands do not
already say (R38, R39, R46, R59, R67 and the instruction's own description). A word that breaks one is reserved (R70). That A of
ADD64, SUB64, MUL64 and SHL64 may be zero, all-ones or an immediate is read from R38 (DEDUCED, log 94).
-/
namespace Sys2Proof

/-- A 64-bit source (R38): an even v register, zero, all-ones or an immediate. -/
def Src.ok64 : Src → Bool
  | .v i => i.val % 2 == 0
  | .s _ => false
  | .b _ => false
  | .zero => true
  | .lane => false
  | .tid => false
  | .ones => true
  | .imm _ => true

/-- A coordinate code that is no reserved operand code (R37, R47). -/
def coordCodeOk (c : Fin 128) : Bool := c.val < 0x68 || 0x70 ≤ c.val

/-- The registers a load or store of this size writes or reads (R39): how many, which is also the alignment of D. -/
def LdSize.regs : LdSize → Nat
  | .w64 => 2
  | .w128 => 4
  | .z8 => 1
  | .s8 => 1
  | .z16 => 1
  | .s16 => 1
  | .w32 => 1

/-- As `LdSize.regs`, for a store. -/
def StSize.regs : StSize → Nat
  | .w64 => 2
  | .w128 => 4
  | .z8 => 1
  | .z16 => 1
  | .w32 => 1

/-- The registers an ATOMX member uses from D on, which is also the alignment of D (R202). -/
def AtomXOp.regs : AtomXOp → Nat
  | .xchg => 1
  | .cas => 2
  | .fadd => 1
  | .add64 => 2
  | .xchg64 => 2
  | .cas64 => 4
  | .bfadd2 => 1

/-- Whether SWRITE may name the register (R136). -/
def Special.writable : Special → Bool
  | .status | .sig0lo | .sig0hi | .sig1lo | .sig1hi | .cmaskLo | .cmaskHi => true
  | .fuel | .spill | .stage | .group | .teamX | .teamY | .teamZ | .gridX | .gridY | .gridZ | .crew | .core
  | .seqLo | .seqHi | .timeLo | .timeHi | .energyLo | .energyHi | .fmask => false

/-- Whether SWRITE to the register is group-wide (R136). -/
def Special.groupWide : Special → Bool
  | .cmaskLo | .cmaskHi => true
  | .status | .sig0lo | .sig0hi | .sig1lo | .sig1hi
  | .fuel | .spill | .stage | .group | .teamX | .teamY | .teamZ | .gridX | .gridY | .gridZ | .crew | .core
  | .seqLo | .seqHi | .timeLo | .timeHi | .energyLo | .energyHi | .fmask => false

/-- The slots of the A latch by its type (R228). -/
def LatchTy.slots : LatchTy → Nat
  | .bf16 => 6
  | .e4m3 => 12
  | .e5m2 => 12

/-- The select code p0, which an MBR field beyond its targets holds (R46). -/
def PSel.zero : PSel := ⟨false, 0⟩

/-- Format MB: the fields beyond the n targets are zero (R46). -/
def OpMbr.ok (x : OpMbr) : Bool :=
  (0 < x.n.val || x.q2 == PSel.zero) && (1 < x.n.val || x.q3 == PSel.zero) && (2 < x.n.val || x.q4 == PSel.zero)

/-- The well-formed terms. A of ADD64, SUB64, MUL64 and SHL64 is any 64-bit source of R38 (DEDUCED, log 94). A BCOPY whose A is no s
code, or lies above s24, is reserved, as R195 and R346 say of theirs (R307; DEDUCED, log 100). An event row is a
command of a unit or of the outside and always well formed. -/
def Instr.wellFormed (i : Instr) : Bool :=
  match i with
  | .iaddi x => x.a != Src.zero
  | .add64 x | .sub64 x | .mul64 x => x.d.val % 2 == 0 && x.a.ok64 && x.b.ok64
  | .shl64 x => x.d.val % 2 == 0 && x.a.ok64
  | .icmp x => x.cond != .tst || !x.u
  | .ld x => x.d.val % x.size.regs == 0 && coordCodeOk x.c
  | .st x => x.d.val % x.size.regs == 0 && coordCodeOk x.c
  | .lda x | .stl x => coordCodeOk x.c
  | .atom x => coordCodeOk x.c
  | .atomx x => x.d.val % x.op.regs == 0 && coordCodeOk x.c
  | .pld x => coordCodeOk x.c
  | .vqry x => x.d.val ≤ 28 && x.q.val ≤ 3
  | .mapr x => x.p.val ≤ 30
  | .hbind x => x.p.val ≤ 28
  | .hqry x => x.d.val ≤ 28
  | .mmag x => x.ha.val != 255
  | .mdrnl x => x.slot.val < x.ty.slots
  | .bcopy x => x.p.val ≤ 24
  | .qpop x => x.d.val ≤ 56
  | .qspawn x => x.d.val ≤ 56
  | .fread x => x.d.val % 2 == 0
  | .ffill x => x.d.val % 2 == 0 && x.d.val ≤ 60
  | .slotq x => x.d.val ≤ 28
  | .featq x => x.d.val ≤ 28 && x.q.val ≤ 1
  | .swrite x => x.n.writable && (!x.n.groupWide || x.g == .always)
  | .mbr x => x.ok
  | .hord x => !x.rem || x.ord != .rel
  | _ => true

end Sys2Proof
end

