-- ==== Sys2Proof/Decode.lean ====
section
/-!
DEFINITION. Instruction words (spec/02_encoding.md): the decoder, total on any word and refusing every reserved one
(R70), and the encoder, both written from the format tables R35 to R51 and the opcode map R62 to R68.
-/
namespace Sys2Proof

/-- The guard of bits 25:23; 0b100 is reserved (R35). -/
def decGuard (c : Nat) : Option Guard :=
  if c == 0 then some .always
  else if c < 4 then some (.on (Fin.ofNat 3 (c - 1)))
  else if c == 4 then none
  else some (.off (Fin.ofNat 3 (c - 5)))

/-- A predicate-select code (R36). -/
def decPSel (c : Nat) : PSel := ⟨bit c 2, Fin.ofNat 4 c⟩

/-- A source code; 0x68 to 0x6F are reserved (R37). -/
def decSrc (c : Nat) : Option Src :=
  if c < 0x40 then some (.v (Fin.ofNat 64 c))
  else if c < 0x60 then some (.s (Fin.ofNat 32 (c - 0x40)))
  else if c < 0x64 then some (.b (Fin.ofNat 4 (c - 0x60)))
  else if c == 0x64 then some .zero
  else if c == 0x65 then some .lane
  else if c == 0x66 then some .tid
  else if c == 0x67 then some .ones
  else if c < 0x70 then none
  else some (.imm (Fin.ofNat 16 (c - 0x70)))

/-- A source of a per-group instruction (R38, R210). -/
def decSSrc (c : Nat) : Option SSrc :=
  if c < 0x40 then none
  else if c < 0x60 then some (.s (Fin.ofNat 32 (c - 0x40)))
  else if c == 0x64 then some .zero
  else if c == 0x67 then some .ones
  else if c < 0x70 then none
  else some (.imm (Fin.ofNat 16 (c - 0x70)))

/-- COND of ICMP; 7 is reserved (R68). -/
def decICond : Nat → Option ICond
  | 0 => some .eq | 1 => some .ne | 2 => some .lt | 3 => some .le | 4 => some .gt | 5 => some .ge | 6 => some .tst
  | _ => none

/-- COND of FCMP (R68). -/
def decFCond : Nat → FCond
  | 0 => .eq | 1 => .ne | 2 => .lt | 3 => .le | 4 => .gt | 5 => .ge | 6 => .un | _ => .ord

/-- COND of PLOG; 7 is reserved (R68). -/
def decLogFn : Nat → Option LogFn
  | 0 => some .and | 1 => some .or | 2 => some .xor | 3 => some .nand | 4 => some .nor | 5 => some .xnor
  | 6 => some .copy | _ => none

/-- COMB (R44). -/
def decComb : Nat → Comb
  | 0 => .set | 1 => .and | 2 => .or | _ => .xor

/-- A scope (R59). -/
def decScope : Nat → Scope
  | 0 => .lane | 1 => .group | 2 => .core | 3 => .sheaf | 4 => .cluster | 5 => .die | 6 => .package | _ => .system

/-- ORD of HORD (R59). -/
def decOrder : Nat → Order
  | 0 => .acq | 1 => .rel | 2 => .ar | _ => .sc

/-- MOD of LD; 7 is reserved (R64). -/
def decLdSize : Nat → Option LdSize
  | 0 => some .z8 | 1 => some .s8 | 2 => some .z16 | 3 => some .s16 | 4 => some .w32 | 5 => some .w64
  | 6 => some .w128 | _ => none

/-- MOD of ST; 1, 3 and 7 are reserved (R64). -/
def decStSize : Nat → Option StSize
  | 0 => some .z8 | 2 => some .z16 | 4 => some .w32 | 5 => some .w64 | 6 => some .w128 | _ => none

/-- MOD of ATOM (R64). -/
def decAtomOp : Nat → AtomOp
  | 0 => .add | 1 => .min | 2 => .max | 3 => .umin | 4 => .umax | 5 => .and | 6 => .or | _ => .xor

/-- MOD of ATOMX; 7 is reserved (R64). -/
def decAtomXOp : Nat → Option AtomXOp
  | 0 => some .xchg | 1 => some .cas | 2 => some .fadd | 3 => some .add64 | 4 => some .xchg64 | 5 => some .cas64
  | 6 => some .bfadd2 | _ => none

/-- A rounding mode in minor[1:0] of CVT (R63). -/
def decRMode : Nat → RMode
  | 0 => .rn | 1 => .rz | 2 => .rd | _ => .ru

/-- TY of MDRNL; 3 is reserved (R228). -/
def decLatchTy : Nat → Option LatchTy
  | 0 => some .bf16 | 1 => some .e4m3 | 2 => some .e5m2 | _ => none

/-- PL of format X; 0b11 is reserved (R48). -/
def decMPlanes : Nat → Option MPlanes
  | 0 => some .p1 | 1 => some .p2 | 2 => some .p3 | _ => none

/-- A special-register number; 26 to 63 are reserved (R136). -/
def decSpecial : Nat → Option Special
  | 0 => some .status | 1 => some .fuel | 2 => some .sig0lo | 3 => some .sig0hi | 4 => some .sig1lo
  | 5 => some .sig1hi | 6 => some .spill | 7 => some .stage | 8 => some .group | 9 => some .teamX
  | 10 => some .teamY | 11 => some .teamZ | 12 => some .gridX | 13 => some .gridY | 14 => some .gridZ
  | 15 => some .crew | 16 => some .core | 17 => some .seqLo | 18 => some .seqHi | 19 => some .timeLo
  | 20 => some .timeHi | 21 => some .energyLo | 22 => some .energyHi | 23 => some .fmask | 24 => some .cmaskLo
  | 25 => some .cmaskHi | _ => none

/-- The term `x` where a field that must be zero is zero, and a refusal where it is not (R40). -/
def whenZero (f : Nat) (x : Option Instr) : Option Instr := if f == 0 then x else none

/-- Format R (R41). -/
def decR (w : Nat) (mk : OpR → Instr) : Option Instr :=
  (decGuard (fld w 23 3)).bind fun g => (decSrc (fld w 7 7)).bind fun a => (decSrc (fld w 0 7)).bind fun b =>
    some (mk ⟨g, bit w 22, Fin.ofNat 64 (fld w 14 6), a, b⟩)

/-- Format R of the 64-bit pair family: W is zero (R54, R120). -/
def decR64 (w : Nat) (mk : OpR64 → Instr) : Option Instr :=
  whenZero (fld w 22 1) <|
  (decGuard (fld w 23 3)).bind fun g => (decSrc (fld w 7 7)).bind fun a => (decSrc (fld w 0 7)).bind fun b =>
    some (mk ⟨g, Fin.ofNat 64 (fld w 14 6), a, b⟩)

/-- Format U of an integer major: F is zero (R42). -/
def decU (w : Nat) (mk : OpU → Instr) : Option Instr :=
  whenZero (fld w 20 2) <|
  (decGuard (fld w 23 3)).bind fun g => (decSrc (fld w 7 7)).bind fun a =>
    some (mk ⟨g, bit w 22, Fin.ofNat 64 (fld w 14 6), a⟩)

/-- SEL (R124): F is zero. -/
def decSel (w : Nat) (mk : OpSel → Instr) : Option Instr :=
  whenZero (fld w 20 2) <|
  (decSrc (fld w 7 7)).bind fun a => (decSrc (fld w 0 7)).bind fun b =>
    some (mk ⟨decPSel (fld w 23 3), bit w 22, Fin.ofNat 64 (fld w 14 6), a, b⟩)

/-- Scalar-destination format R: G and W are zero and D is below 32 (R39, R54, R67). -/
def decSR (w : Nat) (mk : OpSR → Instr) : Option Instr :=
  whenZero (fld w 22 4) <| whenZero (fld w 19 1) <|
  (decSSrc (fld w 7 7)).bind fun a => (decSSrc (fld w 0 7)).bind fun b =>
    some (mk ⟨Fin.ofNat 32 (fld w 14 5), a, b⟩)

/-- Scalar-destination format U: G, W and F are zero and D is below 32 (R39, R42, R67). -/
def decSU (w : Nat) (mk : OpSU → Instr) : Option Instr :=
  whenZero (fld w 20 6) <| whenZero (fld w 19 1) <|
  (decSSrc (fld w 7 7)).bind fun a => some (mk ⟨Fin.ofNat 32 (fld w 14 5), a⟩)

/-- SSHR, with its count in minor[4:0] (R63). -/
def decSShr (w : Nat) (mk : OpSShr → Instr) : Option Instr :=
  whenZero (fld w 20 6) <| whenZero (fld w 19 1) <|
  (decSSrc (fld w 7 7)).bind fun a => some (mk ⟨Fin.ofNat 32 (fld w 14 5), a, Fin.ofNat 32 (fld w 0 5)⟩)

/-- SADDI: format I with G and W zero and D below 32 (R39, R43, R67). -/
def decSI (w : Nat) (mk : OpSI → Instr) : Option Instr :=
  whenZero (fld w 22 4) <| whenZero (fld w 21 1) <|
  (decSSrc (fld w 9 7)).bind fun a => some (mk ⟨Fin.ofNat 32 (fld w 16 5), a, BitVec.ofNat 9 (fld w 0 9)⟩)

/-- Format I (R43). -/
def decI (w : Nat) (mk : OpI → Instr) : Option Instr :=
  (decGuard (fld w 23 3)).bind fun g => (decSrc (fld w 9 7)).bind fun a =>
    some (mk ⟨g, bit w 22, Fin.ofNat 64 (fld w 16 6), a, BitVec.ofNat 9 (fld w 0 9)⟩)

/-- MOVI: the words of IADDI whose A is the code of zero (R78). -/
def decMovI (w : Nat) (mk : OpMovI → Instr) : Option Instr :=
  (decGuard (fld w 23 3)).bind fun g =>
    some (mk ⟨g, bit w 22, Fin.ofNat 64 (fld w 16 6), BitVec.ofNat 9 (fld w 0 9)⟩)

/-- Format R in a float major: bit 21 is FI and bit 20 is FO (R41). -/
def decRF (w : Nat) (mk : OpRF → Instr) : Option Instr :=
  (decGuard (fld w 23 3)).bind fun g => (decSrc (fld w 7 7)).bind fun a => (decSrc (fld w 0 7)).bind fun b =>
    some (mk ⟨g, bit w 22, bit w 21, bit w 20, Fin.ofNat 64 (fld w 14 6), a, b⟩)

/-- Format U in a float major (R42). -/
def decUF (w : Nat) (mk : OpUF → Instr) : Option Instr :=
  (decGuard (fld w 23 3)).bind fun g => (decSrc (fld w 7 7)).bind fun a =>
    some (mk ⟨g, bit w 22, bit w 21, bit w 20, Fin.ofNat 64 (fld w 14 6), a⟩)

/-- CVT to an integer (R63). -/
def decCvtR (w : Nat) (mk : OpCvtR → Instr) : Option Instr :=
  (decGuard (fld w 23 3)).bind fun g => (decSrc (fld w 7 7)).bind fun a =>
    some (mk ⟨g, bit w 22, bit w 21, bit w 20, Fin.ofNat 64 (fld w 14 6), a, decRMode (fld w 0 2)⟩)

/-- CVT to FP8 (R63). -/
def decCvtS (w : Nat) (mk : OpCvtS → Instr) : Option Instr :=
  (decGuard (fld w 23 3)).bind fun g => (decSrc (fld w 7 7)).bind fun a =>
    some (mk ⟨g, bit w 22, bit w 21, bit w 20, Fin.ofNat 64 (fld w 14 6), a, bit w 0⟩)

/-- PLDEC: minor[2] is RNP and minor[1:0] planes − 1; F is zero (R63, R160). -/
def decPlDec (w : Nat) (mk : OpPlDec → Instr) : Option Instr :=
  whenZero (fld w 20 2) <|
  (decGuard (fld w 23 3)).bind fun g => (decSrc (fld w 7 7)).bind fun a =>
    some (mk ⟨g, bit w 22, Fin.ofNat 64 (fld w 14 6), a, bit w 2, Fin.ofNat 4 (fld w 0 2)⟩)

/-- ICMP: FI is zero (R44). -/
def decICmp (w : Nat) (mk : OpICmp → Instr) : Option Instr :=
  whenZero (fld w 14 1) <|
  (decGuard (fld w 23 3)).bind fun g => (decICond (fld w 18 3)).bind fun c =>
  (decSrc (fld w 7 7)).bind fun a => (decSrc (fld w 0 7)).bind fun b =>
    some (mk ⟨g, Fin.ofNat 4 (fld w 21 2), c, decComb (fld w 16 2), bit w 15, a, b⟩)

/-- FCMP (R44). -/
def decFCmp (w : Nat) (mk : OpFCmp → Instr) : Option Instr :=
  (decGuard (fld w 23 3)).bind fun g =>
  (decSrc (fld w 7 7)).bind fun a => (decSrc (fld w 0 7)).bind fun b =>
    some (mk ⟨g, Fin.ofNat 4 (fld w 21 2), decFCond (fld w 18 3), decComb (fld w 16 2), bit w 15, bit w 14, a, b⟩)

/-- PLOG: U and FI are zero, and A and B are below 8 (R44). -/
def decPLog (w : Nat) (mk : OpPLog → Instr) : Option Instr :=
  whenZero (fld w 10 6) <| whenZero (fld w 3 4) <|
  (decGuard (fld w 23 3)).bind fun g => (decLogFn (fld w 18 3)).bind fun f =>
    some (mk ⟨g, Fin.ofNat 4 (fld w 21 2), f, decComb (fld w 16 2), decPSel (fld w 7 3), decPSel (fld w 0 3)⟩)

/-- A cohort member in format U: W and F are zero (R54, R215). -/
def decCoh (w : Nat) (mk : OpCoh → Instr) : Option Instr :=
  whenZero (fld w 20 3) <|
  (decGuard (fld w 23 3)).bind fun g => (decSrc (fld w 7 7)).bind fun a =>
    some (mk ⟨g, Fin.ofNat 64 (fld w 14 6), a⟩)

/-- PTOV: A is 0x70 to 0x73 (R63). -/
def decPToV (w : Nat) (mk : OpPToV → Instr) : Option Instr :=
  whenZero (fld w 20 3) <| if fld w 9 5 == 0x1C then
  (decGuard (fld w 23 3)).bind fun g => some (mk ⟨g, Fin.ofNat 64 (fld w 14 6), Fin.ofNat 4 (fld w 7 2)⟩)
  else none

/-- VTOP: D is 0 to 3 (R63). -/
def decVToP (w : Nat) (mk : OpVToP → Instr) : Option Instr :=
  whenZero (fld w 16 7) <|
  (decGuard (fld w 23 3)).bind fun g => (decSrc (fld w 7 7)).bind fun a =>
    some (mk ⟨g, Fin.ofNat 4 (fld w 14 2), a⟩)

/-- READL: A is a register number below 64, D below 32, G, W and F zero (R219). -/
def decReadL (w : Nat) (mk : OpReadL → Instr) : Option Instr :=
  whenZero (fld w 19 7) <| whenZero (fld w 13 1) <|
    some (mk ⟨Fin.ofNat 32 (fld w 14 5), Fin.ofNat 64 (fld w 7 6), Fin.ofNat 64 (fld w 0 6)⟩)

/-- Format B (R45). -/
def decB (w : Nat) (mk : OpB → Instr) : Option Instr :=
  (decGuard (fld w 23 3)).bind fun g => some (mk ⟨g, BitVec.ofNat 23 (fld w 0 23)⟩)

/-- Format BR with its register operand (R45). -/
def decGA (w : Nat) (mk : OpGA → Instr) : Option Instr :=
  whenZero (fld w 14 9) <|
  (decGuard (fld w 23 3)).bind fun g => (decSrc (fld w 7 7)).bind fun a => some (mk ⟨g, a⟩)

/-- RET: format BR with A zero (R130). -/
def decRet (w : Nat) (mk : OpG → Instr) : Option Instr :=
  whenZero (fld w 7 16) <| (decGuard (fld w 23 3)).bind fun g => some (mk ⟨g⟩)

/-- A member of format S without operands (R134). -/
def decG (w : Nat) (mk : OpG → Instr) : Option Instr :=
  whenZero (fld w 0 16) <| (decGuard (fld w 23 3)).bind fun g => some (mk ⟨g⟩)

/-- MBR: bits 25:23 and 8:0 are zero (R35, R46). -/
def decMbr (w : Nat) (mk : OpMbr → Instr) : Option Instr :=
  whenZero (fld w 23 3) <| whenZero (fld w 0 9) <|
    some (mk ⟨Fin.ofNat 4 (fld w 21 2), decPSel (fld w 18 3), decPSel (fld w 15 3), decPSel (fld w 12 3),
      decPSel (fld w 9 3)⟩)

/-- DBNZ: A is a v code (R45). -/
def decBL (w : Nat) (mk : OpBL → Instr) : Option Instr :=
  whenZero (fld w 22 1) <|
  (decGuard (fld w 23 3)).bind fun g => some (mk ⟨g, Fin.ofNat 64 (fld w 16 6), BitVec.ofNat 16 (fld w 0 16)⟩)

/-- TRAP: D is zero (R134). -/
def decTrap (w : Nat) (mk : OpTrap → Instr) : Option Instr :=
  whenZero (fld w 10 6) <|
  (decGuard (fld w 23 3)).bind fun g => (decSrc (fld w 3 7)).bind fun a =>
    some (mk ⟨g, a, Fin.ofNat 8 (fld w 0 3)⟩)

/-- SREAD: the special number is in A (R63). -/
def decSRead (w : Nat) (mk : OpSRead → Instr) : Option Instr :=
  whenZero (fld w 0 3) <|
  (decGuard (fld w 23 3)).bind fun g => (decSpecial (fld w 3 7)).bind fun n =>
    some (mk ⟨g, Fin.ofNat 64 (fld w 10 6), n⟩)

/-- SWRITE: the special number is in D (R63). -/
def decSWrite (w : Nat) (mk : OpSWrite → Instr) : Option Instr :=
  whenZero (fld w 0 3) <|
  (decGuard (fld w 23 3)).bind fun g => (decSpecial (fld w 10 6)).bind fun n => (decSrc (fld w 3 7)).bind fun a =>
    some (mk ⟨g, n, a⟩)

/-- CENTER: W is zero (R141). -/
def decCenter (w : Nat) (mk : OpCenter → Instr) : Option Instr :=
  whenZero (fld w 22 1) <|
  (decGuard (fld w 23 3)).bind fun g => (decSrc (fld w 7 7)).bind fun a => (decSrc (fld w 0 7)).bind fun b =>
    some (mk ⟨g, Fin.ofNat 64 (fld w 14 6), a, b⟩)

/-- SIGF: D and B are zero (R142). -/
def decSigf (w : Nat) (mk : OpGA → Instr) : Option Instr :=
  whenZero (fld w 22 1) <| whenZero (fld w 14 6) <| whenZero (fld w 0 7) <|
  (decGuard (fld w 23 3)).bind fun g => (decSrc (fld w 7 7)).bind fun a => some (mk ⟨g, a⟩)

/-- SIGC: A and B are zero (R144). -/
def decSigc (w : Nat) (mk : OpSigc → Instr) : Option Instr :=
  whenZero (fld w 22 1) <| whenZero (fld w 0 14) <|
  (decGuard (fld w 23 3)).bind fun g => some (mk ⟨g, Fin.ofNat 64 (fld w 14 6)⟩)

/-- SIGZ: D, A and B are zero (R142). -/
def decSigz (w : Nat) (mk : OpG → Instr) : Option Instr :=
  whenZero (fld w 22 1) <| whenZero (fld w 0 20) <| (decGuard (fld w 23 3)).bind fun g => some (mk ⟨g⟩)

/-- LD, format M (R47). -/
def decLd (w : Nat) (mk : OpLd → Instr) : Option Instr :=
  whenZero (fld w 0 1) <|
  (decGuard (fld w 23 3)).bind fun g => (decLdSize (fld w 20 3)).bind fun z =>
    some (mk ⟨g, z, Fin.ofNat 64 (fld w 14 6), Fin.ofNat 64 (fld w 8 6), Fin.ofNat 128 (fld w 1 7)⟩)

/-- ST, format M (R47). -/
def decSt (w : Nat) (mk : OpSt → Instr) : Option Instr :=
  whenZero (fld w 0 1) <|
  (decGuard (fld w 23 3)).bind fun g => (decStSize (fld w 20 3)).bind fun z =>
    some (mk ⟨g, z, Fin.ofNat 64 (fld w 14 6), Fin.ofNat 64 (fld w 8 6), Fin.ofNat 128 (fld w 1 7)⟩)

/-- LDA and STL, format M (R47). -/
def decOrd (w : Nat) (mk : OpOrd → Instr) : Option Instr :=
  whenZero (fld w 0 1) <|
  (decGuard (fld w 23 3)).bind fun g =>
    some (mk ⟨g, decScope (fld w 20 3), Fin.ofNat 64 (fld w 14 6), Fin.ofNat 64 (fld w 8 6),
      Fin.ofNat 128 (fld w 1 7)⟩)

/-- ATOM, format M (R47). -/
def decAtom (w : Nat) (mk : OpAtom → Instr) : Option Instr :=
  whenZero (fld w 0 1) <|
  (decGuard (fld w 23 3)).bind fun g =>
    some (mk ⟨g, decAtomOp (fld w 20 3), Fin.ofNat 64 (fld w 14 6), Fin.ofNat 64 (fld w 8 6),
      Fin.ofNat 128 (fld w 1 7)⟩)

/-- ATOMX, format M (R47). -/
def decAtomX (w : Nat) (mk : OpAtomX → Instr) : Option Instr :=
  whenZero (fld w 0 1) <|
  (decGuard (fld w 23 3)).bind fun g => (decAtomXOp (fld w 20 3)).bind fun o =>
    some (mk ⟨g, o, Fin.ofNat 64 (fld w 14 6), Fin.ofNat 64 (fld w 8 6), Fin.ofNat 128 (fld w 1 7)⟩)

/-- PLD, format M: MOD[2] is RNP and MOD[1:0] planes − 1 (R64). -/
def decPld (w : Nat) (mk : OpPld → Instr) : Option Instr :=
  whenZero (fld w 0 1) <|
  (decGuard (fld w 23 3)).bind fun g =>
    some (mk ⟨g, bit w 22, Fin.ofNat 4 (fld w 20 2), Fin.ofNat 64 (fld w 14 6), Fin.ofNat 64 (fld w 8 6),
      Fin.ofNat 128 (fld w 1 7)⟩)

/-- VNARROW: G is zero, A below 64 (R67, R195). -/
def decVNar (w : Nat) (mk : OpVNar → Instr) : Option Instr :=
  whenZero (fld w 23 3) <| whenZero (fld w 9 1) <|
    some (mk ⟨Fin.ofNat 64 (fld w 10 6), Fin.ofNat 64 (fld w 3 6), Fin.ofNat 8 (fld w 0 3)⟩)

/-- VQRY: G is zero, A below 64 (R67, R197). -/
def decVQry (w : Nat) (mk : OpVQry → Instr) : Option Instr :=
  whenZero (fld w 23 3) <| whenZero (fld w 9 1) <|
    some (mk ⟨Fin.ofNat 64 (fld w 10 6), Fin.ofNat 64 (fld w 3 6), Fin.ofNat 8 (fld w 0 3)⟩)

/-- VDROP, UNMAPR, FLUSHR and INVR: G, A and imm3 are zero (R198, R296). -/
def decVOne (w : Nat) (mk : OpVOne → Instr) : Option Instr :=
  whenZero (fld w 23 3) <| whenZero (fld w 0 10) <| some (mk ⟨Fin.ofNat 64 (fld w 10 6)⟩)

/-- MAPR and HBIND: A is an s code, G and imm3 are zero (R212, R294). -/
def decVBlk (w : Nat) (mk : OpVBlk → Instr) : Option Instr :=
  whenZero (fld w 23 3) <| whenZero (fld w 0 3) <| if fld w 8 2 == 2 then
    some (mk ⟨Fin.ofNat 64 (fld w 10 6), Fin.ofNat 32 (fld w 3 5)⟩) else none

/-- FENCE and CSYNC: the scope in imm3 (R205, R207). -/
def decScopeOp (w : Nat) (mk : OpScope → Instr) : Option Instr :=
  whenZero (fld w 23 3) <| whenZero (fld w 3 13) <| some (mk ⟨decScope (fld w 0 3)⟩)

/-- QFENCE (R206). -/
def decQFen (w : Nat) (mk : OpQFen → Instr) : Option Instr :=
  whenZero (fld w 23 3) <| whenZero (fld w 10 6) <| whenZero (fld w 0 3) <|
  (decSrc (fld w 3 7)).bind fun a => some (mk ⟨a⟩)

/-- BARG and BART, which may be guarded (R208, R209). -/
def decBar (w : Nat) (mk : OpBar → Instr) : Option Instr :=
  whenZero (fld w 10 6) <| whenZero (fld w 0 3) <|
  (decGuard (fld w 23 3)).bind fun g => (decSrc (fld w 3 7)).bind fun a => some (mk ⟨g, a⟩)

/-- BARC (R284). -/
def decBarc (w : Nat) (mk : OpBarc → Instr) : Option Instr :=
  whenZero (fld w 23 3) <| whenZero (fld w 3 13) <| some (mk ⟨Fin.ofNat 8 (fld w 0 3)⟩)

/-- HARM: D holds the expected arrivals (R211). -/
def decHarm (w : Nat) (mk : OpHarm → Instr) : Option Instr :=
  whenZero (fld w 23 3) <| whenZero (fld w 0 3) <|
  (decSSrc (fld w 3 7)).bind fun h => some (mk ⟨h, Fin.ofNat 64 (fld w 10 6)⟩)

/-- HSEAL, HTAKE and HFREE (R211). -/
def decHnd (w : Nat) (mk : OpHnd → Instr) : Option Instr :=
  whenZero (fld w 23 3) <| whenZero (fld w 10 6) <| whenZero (fld w 0 3) <|
  (decSSrc (fld w 3 7)).bind fun h => some (mk ⟨h⟩)

/-- HWAIT: the phase in imm3 bit 0 (R211). -/
def decHWait (w : Nat) (mk : OpHWait → Instr) : Option Instr :=
  whenZero (fld w 23 3) <| whenZero (fld w 10 6) <| whenZero (fld w 1 2) <|
  (decSSrc (fld w 3 7)).bind fun h => some (mk ⟨h, bit w 0⟩)

/-- HQRY (R213). -/
def decHQry (w : Nat) (mk : OpHQry → Instr) : Option Instr :=
  whenZero (fld w 23 3) <| whenZero (fld w 0 3) <|
  (decSSrc (fld w 3 7)).bind fun h => some (mk ⟨Fin.ofNat 64 (fld w 10 6), h⟩)

/-- MMA and MMAG, format X: bits 25:23 are zero (R48). -/
def decMma (w : Nat) (mk : OpMma → Instr) : Option Instr :=
  whenZero (fld w 23 3) <|
  (decMPlanes (fld w 2 2)).bind fun p =>
    some (mk ⟨Fin.ofNat 8 (fld w 20 3), Fin.ofNat 256 (fld w 12 8), Fin.ofNat 256 (fld w 4 8), p, bit w 1, bit w 0⟩)

/-- MDRN, MDRNB and MLOAD: PL, RN and ACC are zero (R229, R230). -/
def decDrn (w : Nat) (mk : OpDrn → Instr) : Option Instr :=
  whenZero (fld w 23 3) <| whenZero (fld w 0 4) <|
    some (mk ⟨Fin.ofNat 8 (fld w 20 3), Fin.ofNat 256 (fld w 12 8)⟩)

/-- MDRNL: HA holds TY and SLOT (R228). -/
def decDrnL (w : Nat) (mk : OpDrnL → Instr) : Option Instr :=
  whenZero (fld w 23 3) <| whenZero (fld w 0 4) <| whenZero (fld w 16 2) <|
  (decLatchTy (fld w 18 2)).bind fun t =>
    some (mk ⟨Fin.ofNat 8 (fld w 20 3), t, Fin.ofNat 16 (fld w 12 4)⟩)

/-- MZERO: HA, PL, RN and ACC are zero (R230). -/
def decAcc (w : Nat) (mk : OpAcc → Instr) : Option Instr :=
  whenZero (fld w 23 3) <| whenZero (fld w 12 8) <| whenZero (fld w 0 4) <| some (mk ⟨Fin.ofNat 8 (fld w 20 3)⟩)

/-- PADD: bits 3:0 name the step register (R232). -/
def decPAdd (w : Nat) (mk : OpPAdd → Instr) : Option Instr :=
  whenZero (fld w 23 3) <|
    some (mk ⟨Fin.ofNat 8 (fld w 20 3), Fin.ofNat 256 (fld w 12 8), Fin.ofNat 16 (fld w 0 4)⟩)

/-- PNORM: Z, PL, RN and ACC are zero (R233). -/
def decPNorm (w : Nat) (mk : OpPNorm → Instr) : Option Instr :=
  whenZero (fld w 20 6) <| whenZero (fld w 0 4) <| some (mk ⟨Fin.ofNat 256 (fld w 12 8)⟩)

/-- TILEIN and TILEOUT, format A (R49). -/
def decTile (w : Nat) (mk : OpTile → Instr) : Option Instr :=
  whenZero (fld w 23 3) <|
    some (mk ⟨Fin.ofNat 64 (fld w 17 6), Fin.ofNat 256 (fld w 9 8), Fin.ofNat 64 (fld w 3 6), Fin.ofNat 4 (fld w 1 2),
      bit w 0⟩)

/-- BCOPY: A is an s code (R307). -/
def decBCopy (w : Nat) (mk : OpBCopy → Instr) : Option Instr :=
  whenZero (fld w 23 3) <| whenZero (fld w 0 3) <| if fld w 8 2 == 2 then
    some (mk ⟨Fin.ofNat 64 (fld w 10 6), Fin.ofNat 32 (fld w 3 5)⟩) else none

/-- QPOP: A is a view number, imm3 zero (R272, R275). -/
def decQPop (w : Nat) (mk : OpQPop → Instr) : Option Instr :=
  whenZero (fld w 23 3) <| whenZero (fld w 9 1) <| whenZero (fld w 0 3) <|
    some (mk ⟨Fin.ofNat 64 (fld w 10 6), Fin.ofNat 64 (fld w 3 6)⟩)

/-- QSPAWN: imm3 selects the offering lanes; 0b001 to 0b011 are reserved (R277). -/
def decQSpawn (w : Nat) (mk : OpQSpawn → Instr) : Option Instr :=
  whenZero (fld w 23 3) <| whenZero (fld w 9 1) <|
  if fld w 0 3 == 0 then some (mk ⟨Fin.ofNat 64 (fld w 10 6), Fin.ofNat 64 (fld w 3 6), none⟩)
  else if fld w 0 3 < 4 then none
  else some (mk ⟨Fin.ofNat 64 (fld w 10 6), Fin.ofNat 64 (fld w 3 6), some (Fin.ofNat 4 (fld w 0 3))⟩)

/-- QCLOSE: D and imm3 are zero (R278). -/
def decQView (w : Nat) (mk : OpQView → Instr) : Option Instr :=
  whenZero (fld w 23 3) <| whenZero (fld w 9 7) <| whenZero (fld w 0 3) <| some (mk ⟨Fin.ofNat 64 (fld w 3 6)⟩)

/-- FREAD and FFILL: A is a view number, imm3 zero (R280, R282). -/
def decFut (w : Nat) (mk : OpFut → Instr) : Option Instr :=
  whenZero (fld w 23 3) <| whenZero (fld w 9 1) <| whenZero (fld w 0 3) <|
    some (mk ⟨Fin.ofNat 64 (fld w 10 6), Fin.ofNat 64 (fld w 3 6)⟩)

/-- TRIG: every field is zero (R329). -/
def decTrig (w : Nat) : Option Instr := whenZero (fld w 23 3) <| whenZero (fld w 0 16) <| some .trig

/-- SLOTQ: A and imm3 are zero (R346). -/
def decSlotQ (w : Nat) (mk : OpSlotQ → Instr) : Option Instr :=
  whenZero (fld w 23 3) <| whenZero (fld w 0 10) <| some (mk ⟨Fin.ofNat 64 (fld w 10 6)⟩)

/-- FEATQ: A is zero (R382). -/
def decFeatQ (w : Nat) (mk : OpFeatQ → Instr) : Option Instr :=
  whenZero (fld w 23 3) <| whenZero (fld w 3 7) <| some (mk ⟨Fin.ofNat 64 (fld w 10 6), Fin.ofNat 8 (fld w 0 3)⟩)

/-- HIMM (R57). -/
def decHimm (w : Nat) : Option Instr := some (.himm (BitVec.ofNat 23 (fld w 0 23)))

/-- HBT: payload bit 22 is zero (R58). -/
def decHbt (w : Nat) (mk : OpHbt → Instr) : Option Instr :=
  whenZero (fld w 22 1) <| some (mk ⟨BitVec.ofNat 11 (fld w 0 11), BitVec.ofNat 11 (fld w 11 11)⟩)

/-- HORD (R59). -/
def decHord (w : Nat) (mk : OpHord → Instr) : Option Instr :=
  whenZero (fld w 0 17) <| some (mk ⟨decOrder (fld w 21 2), decScope (fld w 18 3), bit w 17⟩)

/-- HSCH (R60). -/
def decHsch (w : Nat) : Option Instr := whenZero (fld w 4 19) <| some (.hsch (Fin.ofNat 16 (fld w 0 4)))

/-- HGATH (R61). -/
def decHgath (w : Nat) : Option Instr := whenZero (fld w 0 21) <| some (.hgath (Fin.ofNat 4 (fld w 21 2)))

/-- The term of a word by its major opcode, F, minor or HB (R62, R63, R65), before the conditions of
`Instr.wellFormed`. -/
def decodeRaw (w : Nat) : Option Instr :=
  match fld w 26 6 with
  | 0x00 => (match fld w 20 2 with
    | 0 => decR w .iadd
    | 1 => decR w .isub
    | 2 => decR w .iadds
    | 3 => decR w .isubs
    | _ => none)
  | 0x01 => (match fld w 20 2 with
    | 0 => decR w .uadds
    | 1 => decR w .usubs
    | 2 => decR w .iabsd
    | 3 => decR w .uavg
    | _ => none)
  | 0x02 => (match fld w 20 2 with
    | 0 => decR64 w .add64
    | 1 => decR64 w .sub64
    | 2 => decR64 w .mul64
    | 3 => decR64 w .shl64
    | _ => none)
  | 0x03 => (match fld w 20 2 with
    | 0 => decR w .imul
    | 1 => decR w .imulhi
    | 2 => decR w .umulhi
    | 3 => decR w .imad
    | _ => none)
  | 0x04 => (match fld w 20 2 with
    | 0 => decR w .idiv
    | 1 => decR w .udiv
    | 2 => decR w .irem
    | 3 => decR w .urem
    | _ => none)
  | 0x05 => (match fld w 20 2 with
    | 0 => decR w .and
    | 1 => decR w .or
    | 2 => decR w .xor
    | 3 => decR w .andn
    | _ => none)
  | 0x06 => (match fld w 20 2 with
    | 0 => decR w .shl
    | 1 => decR w .shr
    | 2 => decR w .sar
    | 3 => decR w .rotl
    | _ => none)
  | 0x07 => (match fld w 20 2 with
    | 0 => decR w .imin
    | 1 => decR w .imax
    | 2 => decR w .umin
    | 3 => decR w .umax
    | _ => none)
  | 0x08 => (match fld w 0 7 with
    | 0 => decU w .mov
    | 1 => decU w .not
    | 2 => decU w .neg
    | 3 => decU w .iabs
    | 4 => decU w .popc
    | 5 => decU w .clz
    | 6 => decU w .ctz
    | 7 => decU w .brev
    | 8 => decU w .bswap
    | 9 => decU w .sext8
    | 10 => decU w .sext16
    | 11 => decU w .zext8
    | 12 => decU w .zext16
    | _ => none)
  | 0x09 => (match fld w 20 2 with
    | 0 => decR w .bfxz
    | 1 => decR w .bfxs
    | 2 => decR w .bfi
    | 3 => decR w .fshl
    | _ => none)
  | 0x0A => decSel w .sel
  | 0x0B => (match fld w 20 2 with
    | 0 => decR w .shfli
    | 1 => decR w .shflu
    | 2 => decR w .shfld
    | 3 => decR w .shflx
    | _ => none)
  | 0x0C => (match fld w 20 2 with
    | 0 => decSR w .sadd
    | 1 => decSR w .ssub
    | 2 => decSR w .smul
    | 3 => decSR w .smin
    | _ => none)
  | 0x0D => (match fld w 20 2 with
    | 0 => decSR w .sand
    | 1 => decSR w .sor
    | 2 => decSR w .sxor
    | 3 => decSR w .sshl
    | _ => none)
  | 0x0E => if 0x20 ≤ fld w 0 7 && fld w 0 7 < 0x40 then decSShr w .sshr else (match fld w 0 7 with
    | 0 => decSU w .smov
    | 1 => decSU w .snot
    | 2 => decSU w .sneg
    | 4 => decSU w .spopc
    | 5 => decSU w .sclz
    | _ => none)
  | 0x0F => decSI w .saddi
  | 0x10 => if fld w 9 7 == 0x64 then decMovI w .movi else decI w .iaddi
  | 0x11 => decI w .andi
  | 0x12 => decI w .ori
  | 0x13 => decI w .xori
  | 0x14 => decI w .shli
  | 0x15 => decI w .shri
  | 0x16 => decI w .sari
  | 0x17 => decI w .imuli
  | 0x18 => decRF w .fadd
  | 0x19 => decRF w .fsub
  | 0x1A => decRF w .fmul
  | 0x1B => decRF w .ffma
  | 0x1C => decRF w .fmin
  | 0x1D => decRF w .fmax
  | 0x1E => (match fld w 0 7 with
    | 0 => decUF w .fabs
    | 1 => decUF w .fneg
    | 2 => decUF w .fsqrt
    | 3 => decUF w .frcp
    | 4 => decUF w .frsq
    | 5 => decUF w .fexp2
    | 6 => decUF w .flog2
    | 7 => decUF w .ffloor
    | 8 => decUF w .fceil
    | 9 => decUF w .ftrunc
    | 10 => decUF w .frint
    | 11 => decUF w .fclass
    | _ => none)
  | 0x1F => (match fld w 0 7 with
    | 0 => decUF w .cvtF32S32
    | 1 => decUF w .cvtF32N32
    | 4 => decCvtR w .cvtS32F32
    | 5 => decCvtR w .cvtS32F32
    | 6 => decCvtR w .cvtS32F32
    | 7 => decCvtR w .cvtS32F32
    | 8 => decCvtR w .cvtN32F32
    | 9 => decCvtR w .cvtN32F32
    | 10 => decCvtR w .cvtN32F32
    | 11 => decCvtR w .cvtN32F32
    | 16 => decUF w .cvtBf16F32
    | 17 => decUF w .cvtF32Bf16
    | 18 => decCvtS w .cvtE4m3F32
    | 19 => decCvtS w .cvtE4m3F32
    | 20 => decCvtS w .cvtE5m2F32
    | 21 => decCvtS w .cvtE5m2F32
    | 22 => decUF w .cvtF32E4m3
    | 23 => decUF w .cvtF32E5m2
    | 24 => decUF w .cvtE4m3E2m1
    | 25 => decUF w .cvtE4m3E3m2
    | 26 => decUF w .cvtE4m3E2m3
    | 27 => decUF w .cvtE4m3I4
    | _ => none)
  | 0x20 => decRF w .bfma2
  | 0x21 => decRF w .bfadd2
  | 0x22 => decRF w .bfmul2
  | 0x23 => if 8 ≤ fld w 0 7 && fld w 0 7 < 16 then decPlDec w .pldec else (match fld w 0 7 with
    | 0 => decU w .plenc
    | 1 => decU w .plmax
    | _ => none)
  | 0x24 => decICmp w .icmp
  | 0x25 => decFCmp w .fcmp
  | 0x26 => decPLog w .plog
  | 0x27 => if 0x40 ≤ fld w 0 7 then decReadL w .readl else (match fld w 0 7 with
    | 0 => decCoh w .vany
    | 1 => decCoh w .vall
    | 2 => decCoh w .vbal
    | 3 => decCoh w .redadd
    | 4 => decCoh w .redmin
    | 5 => decCoh w .redmax
    | 6 => decCoh w .redfadd
    | 7 => decPToV w .ptov
    | 8 => decVToP w .vtop
    | _ => none)
  | 0x28 => decB w .bra
  | 0x29 => decB w .call
  | 0x2A => (match fld w 0 7 with
    | 0 => decGA w .jmpr
    | 1 => decGA w .callr
    | 2 => decRet w .ret
    | 3 => decGA w .rvz
    | 4 => decGA w .syncl
    | _ => none)
  | 0x2B => decMbr w .mbr
  | 0x2C => decBL w .dbnz
  | 0x2D => (match fld w 16 7 with
    | 0 => decG w .exit
    | 1 => decTrap w .trap
    | 2 => decG w .brk
    | 3 => decG w .nop
    | 4 => decG w .yield
    | _ => none)
  | 0x2E => (match fld w 16 7 with
    | 0 => decSRead w .sread
    | 1 => decSWrite w .swrite
    | _ => none)
  | 0x2F => (match fld w 20 2 with
    | 0 => decCenter w .center
    | 1 => decSigf w .sigf
    | 2 => decSigc w .sigc
    | 3 => decSigz w .sigz
    | _ => none)
  | 0x30 => decLd w .ld
  | 0x31 => decSt w .st
  | 0x32 => decOrd w .lda
  | 0x33 => decOrd w .stl
  | 0x34 => decAtom w .atom
  | 0x35 => decAtomX w .atomx
  | 0x36 => decPld w .pld
  | 0x37 => (match fld w 16 7 with
    | 0 => decVNar w .vnarrow
    | 1 => decVQry w .vqry
    | 2 => decVOne w .vdrop
    | 3 => decVBlk w .mapr
    | 4 => decVOne w .unmapr
    | 5 => decVOne w .flushr
    | 6 => decVOne w .invr
    | _ => none)
  | 0x38 => (match fld w 16 7 with
    | 0 => decScopeOp w .fence
    | 1 => decQFen w .qfence
    | 2 => decScopeOp w .csync
    | 3 => decBar w .barg
    | 4 => decBar w .bart
    | 5 => decBarc w .barc
    | 6 => decVBlk w .hbind
    | 7 => decHarm w .harm
    | 8 => decHnd w .hseal
    | 9 => decHWait w .hwait
    | 10 => decHnd w .htake
    | 11 => decHnd w .hfree
    | 12 => decHQry w .hqry
    | _ => none)
  | 0x39 => decMma w .mma
  | 0x3A => decMma w .mmag
  | 0x3B => (match fld w 4 8 with
    | 0 => decDrn w .mdrn
    | 1 => decDrn w .mdrnb
    | 2 => decDrnL w .mdrnl
    | 3 => decAcc w .mzero
    | 4 => decDrn w .mload
    | 5 => decPAdd w .padd
    | 6 => decPNorm w .pnorm
    | _ => none)
  | 0x3C => decTile w .tilein
  | 0x3D => decTile w .tileout
  | 0x3E => (match fld w 16 7 with
    | 0 => decBCopy w .bcopy
    | 1 => decQPop w .qpop
    | 2 => decQSpawn w .qspawn
    | 3 => decQView w .qclose
    | 4 => decFut w .fread
    | 5 => decFut w .ffill
    | 6 => decTrig w
    | 7 => decSlotQ w .slotq
    | 8 => decFeatQ w .featq
    | _ => none)
  | 0x3F => (match fld w 23 3 with
    | 0 => decHimm w
    | 1 => decHbt w .hbt
    | 2 => decHord w .hord
    | 3 => decHsch w
    | 4 => decHgath w
    | _ => none)
  | _ => none

/-- The instruction or hint of a word, or none for a reserved word (R70). (DEDUCED, log 18.) -/
def decodeWord (w : Nat) : Option Instr :=
  (decodeRaw w).bind fun i => if i.wellFormed then some i else none

/-- The decoder on the words of the opcode table: one 32-bit word, bit 0 its least significant bit (R34). A number
that does not fit in the `nbits` bits of a row, or a row that is no word, is refused. -/
def decodeTableWord (nbits w : Nat) : Option Instr :=
  if nbits == 32 && w < 2 ^ 32 then decodeWord w else none

/-- The code of a guard (R35). -/
def encGuard : Guard → Nat
  | .always => 0
  | .on p => 1 + p.val
  | .off p => 5 + p.val

/-- A predicate-select code (R36). -/
def encPSel (q : PSel) : Nat := b2n q.neg * 4 + q.p.val

/-- A source code (R37). -/
def encSrc : Src → Nat
  | .v i => i.val
  | .s i => 0x40 + i.val
  | .b i => 0x60 + i.val
  | .zero => 0x64
  | .lane => 0x65
  | .tid => 0x66
  | .ones => 0x67
  | .imm i => 0x70 + i.val

/-- A per-group source code (R38, R210). -/
def encSSrc : SSrc → Nat
  | .s i => 0x40 + i.val
  | .zero => 0x64
  | .ones => 0x67
  | .imm i => 0x70 + i.val

/-- COND of ICMP (R68). -/
def encICond : ICond → Nat
  | .eq => 0 | .ne => 1 | .lt => 2 | .le => 3 | .gt => 4 | .ge => 5 | .tst => 6

/-- COND of FCMP (R68). -/
def encFCond : FCond → Nat
  | .eq => 0 | .ne => 1 | .lt => 2 | .le => 3 | .gt => 4 | .ge => 5 | .un => 6 | .ord => 7

/-- COND of PLOG (R68). -/
def encLogFn : LogFn → Nat
  | .and => 0 | .or => 1 | .xor => 2 | .nand => 3 | .nor => 4 | .xnor => 5 | .copy => 6

/-- COMB (R44). -/
def encComb : Comb → Nat
  | .set => 0 | .and => 1 | .or => 2 | .xor => 3

/-- A scope (R59). -/
def Scope.code : Scope → Nat
  | .lane => 0 | .group => 1 | .core => 2 | .sheaf => 3 | .cluster => 4 | .die => 5 | .package => 6 | .system => 7

/-- ORD (R59). -/
def encOrder : Order → Nat
  | .acq => 0 | .rel => 1 | .ar => 2 | .sc => 3

/-- MOD of LD (R64). -/
def encLdSize : LdSize → Nat
  | .z8 => 0 | .s8 => 1 | .z16 => 2 | .s16 => 3 | .w32 => 4 | .w64 => 5 | .w128 => 6

/-- MOD of ST (R64). -/
def encStSize : StSize → Nat
  | .z8 => 0 | .z16 => 2 | .w32 => 4 | .w64 => 5 | .w128 => 6

/-- MOD of ATOM (R64). -/
def encAtomOp : AtomOp → Nat
  | .add => 0 | .min => 1 | .max => 2 | .umin => 3 | .umax => 4 | .and => 5 | .or => 6 | .xor => 7

/-- MOD of ATOMX (R64). -/
def encAtomXOp : AtomXOp → Nat
  | .xchg => 0 | .cas => 1 | .fadd => 2 | .add64 => 3 | .xchg64 => 4 | .cas64 => 5 | .bfadd2 => 6

/-- A rounding mode (R63). -/
def encRMode : RMode → Nat
  | .rn => 0 | .rz => 1 | .rd => 2 | .ru => 3

/-- TY of MDRNL (R228). -/
def encLatchTy : LatchTy → Nat
  | .bf16 => 0 | .e4m3 => 1 | .e5m2 => 2

/-- PL (R48). -/
def encMPlanes : MPlanes → Nat
  | .p1 => 0 | .p2 => 1 | .p3 => 2

/-- A special-register number (R136). -/
def encSpecial : Special → Nat
  | .status => 0 | .fuel => 1 | .sig0lo => 2 | .sig0hi => 3 | .sig1lo => 4 | .sig1hi => 5 | .spill => 6 | .stage => 7
  | .group => 8 | .teamX => 9 | .teamY => 10 | .teamZ => 11 | .gridX => 12 | .gridY => 13 | .gridZ => 14 | .crew => 15
  | .core => 16 | .seqLo => 17 | .seqHi => 18 | .timeLo => 19 | .timeHi => 20 | .energyLo => 21 | .energyHi => 22
  | .fmask => 23 | .cmaskLo => 24 | .cmaskHi => 25

/-- Field bits of format R (R41). -/
def encR (x : OpR) : Nat :=
  encGuard x.g * 2 ^ 23 + b2n x.w * 2 ^ 22 + x.d.val * 2 ^ 14 + encSrc x.a * 2 ^ 7 + encSrc x.b
/-- Field bits of the 64-bit pair family (R120). -/
def encR64 (x : OpR64) : Nat := encGuard x.g * 2 ^ 23 + x.d.val * 2 ^ 14 + encSrc x.a * 2 ^ 7 + encSrc x.b
/-- Field bits of format U (R42). -/
def encU (x : OpU) : Nat := encGuard x.g * 2 ^ 23 + b2n x.w * 2 ^ 22 + x.d.val * 2 ^ 14 + encSrc x.a * 2 ^ 7
/-- Field bits of SEL (R124). -/
def encSel (x : OpSel) : Nat :=
  encPSel x.sel * 2 ^ 23 + b2n x.w * 2 ^ 22 + x.d.val * 2 ^ 14 + encSrc x.a * 2 ^ 7 + encSrc x.b
/-- Field bits of a scalar-destination word (R125). -/
def encSR (x : OpSR) : Nat := x.d.val * 2 ^ 14 + encSSrc x.a * 2 ^ 7 + encSSrc x.b
/-- Field bits of a unary scalar-destination word (R125). -/
def encSU (x : OpSU) : Nat := x.d.val * 2 ^ 14 + encSSrc x.a * 2 ^ 7
/-- Field bits of SSHR (R63). -/
def encSShr (x : OpSShr) : Nat := x.d.val * 2 ^ 14 + encSSrc x.a * 2 ^ 7 + x.n.val
/-- Field bits of SADDI (R43). -/
def encSI (x : OpSI) : Nat := x.d.val * 2 ^ 16 + encSSrc x.a * 2 ^ 9 + x.imm.toNat
/-- Field bits of format I (R43). -/
def encI (x : OpI) : Nat :=
  encGuard x.g * 2 ^ 23 + b2n x.w * 2 ^ 22 + x.d.val * 2 ^ 16 + encSrc x.a * 2 ^ 9 + x.imm.toNat
/-- Field bits of MOVI (R78). -/
def encMovI (x : OpMovI) : Nat := encGuard x.g * 2 ^ 23 + b2n x.w * 2 ^ 22 + x.d.val * 2 ^ 16 + x.imm.toNat
/-- Field bits of format R in a float major (R41). -/
def encRF (x : OpRF) : Nat :=
  encGuard x.g * 2 ^ 23 + b2n x.w * 2 ^ 22 + b2n x.fi * 2 ^ 21 + b2n x.fo * 2 ^ 20 + x.d.val * 2 ^ 14 +
    encSrc x.a * 2 ^ 7 + encSrc x.b
/-- Field bits of format U in a float major (R42). -/
def encUF (x : OpUF) : Nat :=
  encGuard x.g * 2 ^ 23 + b2n x.w * 2 ^ 22 + b2n x.fi * 2 ^ 21 + b2n x.fo * 2 ^ 20 + x.d.val * 2 ^ 14 +
    encSrc x.a * 2 ^ 7
/-- Field bits of CVT to an integer (R63). -/
def encCvtR (x : OpCvtR) : Nat :=
  encGuard x.g * 2 ^ 23 + b2n x.w * 2 ^ 22 + b2n x.fi * 2 ^ 21 + b2n x.fo * 2 ^ 20 + x.d.val * 2 ^ 14 +
    encSrc x.a * 2 ^ 7 + encRMode x.r
/-- Field bits of CVT to FP8 (R63). -/
def encCvtS (x : OpCvtS) : Nat :=
  encGuard x.g * 2 ^ 23 + b2n x.w * 2 ^ 22 + b2n x.fi * 2 ^ 21 + b2n x.fo * 2 ^ 20 + x.d.val * 2 ^ 14 +
    encSrc x.a * 2 ^ 7 + b2n x.sat
/-- Field bits of PLDEC (R163). -/
def encPlDec (x : OpPlDec) : Nat :=
  encGuard x.g * 2 ^ 23 + b2n x.w * 2 ^ 22 + x.d.val * 2 ^ 14 + encSrc x.a * 2 ^ 7 + b2n x.rnp * 4 + x.n.val
/-- Field bits of ICMP (R44). -/
def encICmp (x : OpICmp) : Nat :=
  encGuard x.g * 2 ^ 23 + x.pd.val * 2 ^ 21 + encICond x.cond * 2 ^ 18 + encComb x.comb * 2 ^ 16 + b2n x.u * 2 ^ 15 +
    encSrc x.a * 2 ^ 7 + encSrc x.b
/-- Field bits of FCMP (R44). -/
def encFCmp (x : OpFCmp) : Nat :=
  encGuard x.g * 2 ^ 23 + x.pd.val * 2 ^ 21 + encFCond x.cond * 2 ^ 18 + encComb x.comb * 2 ^ 16 + b2n x.q * 2 ^ 15 +
    b2n x.fi * 2 ^ 14 + encSrc x.a * 2 ^ 7 + encSrc x.b
/-- Field bits of PLOG (R44). -/
def encPLog (x : OpPLog) : Nat :=
  encGuard x.g * 2 ^ 23 + x.pd.val * 2 ^ 21 + encLogFn x.fn * 2 ^ 18 + encComb x.comb * 2 ^ 16 +
    encPSel x.x * 2 ^ 7 + encPSel x.y
/-- Field bits of a cohort member (R215). -/
def encCoh (x : OpCoh) : Nat := encGuard x.g * 2 ^ 23 + x.d.val * 2 ^ 14 + encSrc x.a * 2 ^ 7
/-- Field bits of PTOV, beside A's fixed bits (R63). -/
def encPToV (x : OpPToV) : Nat := encGuard x.g * 2 ^ 23 + x.d.val * 2 ^ 14 + x.p.val * 2 ^ 7
/-- Field bits of VTOP (R63). -/
def encVToP (x : OpVToP) : Nat := encGuard x.g * 2 ^ 23 + x.p.val * 2 ^ 14 + encSrc x.a * 2 ^ 7
/-- Field bits of READL (R219). -/
def encReadL (x : OpReadL) : Nat := x.d.val * 2 ^ 14 + x.r.val * 2 ^ 7 + x.n.val
/-- Field bits of format B (R45). -/
def encB (x : OpB) : Nat := encGuard x.g * 2 ^ 23 + x.off.toNat
/-- Field bits of format BR with a register, and of SIGF (R45, R142). -/
def encGA (x : OpGA) : Nat := encGuard x.g * 2 ^ 23 + encSrc x.a * 2 ^ 7
/-- Field bits of SIGF (R142). -/
def encSigf (x : OpGA) : Nat := encGA x
/-- Field bits of an instruction with a guard alone. -/
def encG (x : OpG) : Nat := encGuard x.g * 2 ^ 23
/-- Field bits of MBR (R46). -/
def encMbr (x : OpMbr) : Nat :=
  x.n.val * 2 ^ 21 + encPSel x.q1 * 2 ^ 18 + encPSel x.q2 * 2 ^ 15 + encPSel x.q3 * 2 ^ 12 + encPSel x.q4 * 2 ^ 9
/-- Field bits of DBNZ (R45). -/
def encBL (x : OpBL) : Nat := encGuard x.g * 2 ^ 23 + x.a.val * 2 ^ 16 + x.off.toNat
/-- Field bits of TRAP (R134). -/
def encTrap (x : OpTrap) : Nat := encGuard x.g * 2 ^ 23 + encSrc x.a * 2 ^ 3 + x.k.val
/-- Field bits of SREAD (R63). -/
def encSRead (x : OpSRead) : Nat := encGuard x.g * 2 ^ 23 + x.d.val * 2 ^ 10 + encSpecial x.n * 2 ^ 3
/-- Field bits of SWRITE (R63). -/
def encSWrite (x : OpSWrite) : Nat := encGuard x.g * 2 ^ 23 + encSpecial x.n * 2 ^ 10 + encSrc x.a * 2 ^ 3
/-- Field bits of CENTER (R141). -/
def encCenter (x : OpCenter) : Nat := encGuard x.g * 2 ^ 23 + x.d.val * 2 ^ 14 + encSrc x.a * 2 ^ 7 + encSrc x.b
/-- Field bits of SIGC (R144). -/
def encSigc (x : OpSigc) : Nat := encGuard x.g * 2 ^ 23 + x.d.val * 2 ^ 14
/-- The fields that every word of format M has at the same place (R47). -/
def encM (g : Guard) (md : Nat) (d vw : Fin 64) (c : Fin 128) : Nat :=
  encGuard g * 2 ^ 23 + md * 2 ^ 20 + d.val * 2 ^ 14 + vw.val * 2 ^ 8 + c.val * 2
/-- Field bits of LD (R47). -/
def encLd (x : OpLd) : Nat := encM x.g (encLdSize x.size) x.d x.vw x.c
/-- Field bits of ST (R47). -/
def encSt (x : OpSt) : Nat := encM x.g (encStSize x.size) x.d x.vw x.c
/-- Field bits of LDA and STL (R47). -/
def encOrd (x : OpOrd) : Nat := encM x.g x.scope.code x.d x.vw x.c
/-- Field bits of ATOM (R47). -/
def encAtom (x : OpAtom) : Nat := encM x.g (encAtomOp x.op) x.d x.vw x.c
/-- Field bits of ATOMX (R47). -/
def encAtomX (x : OpAtomX) : Nat := encM x.g (encAtomXOp x.op) x.d x.vw x.c
/-- Field bits of PLD (R47, R64). -/
def encPld (x : OpPld) : Nat := encM x.g (b2n x.rnp * 4 + x.n.val) x.d x.vw x.c
/-- Field bits of VNARROW (R195). -/
def encVNar (x : OpVNar) : Nat := x.d.val * 2 ^ 10 + x.src.val * 2 ^ 3 + x.p.val
/-- Field bits of VQRY (R197). -/
def encVQry (x : OpVQry) : Nat := x.d.val * 2 ^ 10 + x.vw.val * 2 ^ 3 + x.q.val
/-- Field bits of VDROP, UNMAPR, FLUSHR and INVR. -/
def encVOne (x : OpVOne) : Nat := x.vw.val * 2 ^ 10
/-- Field bits of MAPR and HBIND: A is the s code of the block (R212, R294). -/
def encVBlk (x : OpVBlk) : Nat := x.vw.val * 2 ^ 10 + (0x40 + x.p.val) * 2 ^ 3
/-- Field bits of FENCE and CSYNC. -/
def encScope (x : OpScope) : Nat := x.scope.code
/-- Field bits of QFENCE (R206). -/
def encQFen (x : OpQFen) : Nat := encSrc x.a * 2 ^ 3
/-- Field bits of BARG and BART. -/
def encBar (x : OpBar) : Nat := encGuard x.g * 2 ^ 23 + encSrc x.a * 2 ^ 3
/-- Field bits of BARC (R284). -/
def encBarc (x : OpBarc) : Nat := x.c.val
/-- Field bits of HARM (R211). -/
def encHarm (x : OpHarm) : Nat := x.e.val * 2 ^ 10 + encSSrc x.h * 2 ^ 3
/-- Field bits of HSEAL, HTAKE and HFREE (R211). -/
def encHnd (x : OpHnd) : Nat := encSSrc x.h * 2 ^ 3
/-- Field bits of HWAIT (R211). -/
def encHWait (x : OpHWait) : Nat := encSSrc x.h * 2 ^ 3 + b2n x.phase
/-- Field bits of HQRY (R213). -/
def encHQry (x : OpHQry) : Nat := x.d.val * 2 ^ 10 + encSSrc x.h * 2 ^ 3
/-- Field bits of MMA and MMAG (R48). -/
def encMma (x : OpMma) : Nat :=
  x.z.val * 2 ^ 20 + x.ha.val * 2 ^ 12 + x.hb.val * 2 ^ 4 + encMPlanes x.pl * 4 + b2n x.rn * 2 + b2n x.acc
/-- Field bits of MDRN, MDRNB and MLOAD. -/
def encDrn (x : OpDrn) : Nat := x.z.val * 2 ^ 20 + x.h.val * 2 ^ 12
/-- Field bits of MDRNL (R228). -/
def encDrnL (x : OpDrnL) : Nat := x.z.val * 2 ^ 20 + encLatchTy x.ty * 2 ^ 18 + x.slot.val * 2 ^ 12
/-- Field bits of MZERO. -/
def encAcc (x : OpAcc) : Nat := x.z.val * 2 ^ 20
/-- Field bits of PADD (R232). -/
def encPAdd (x : OpPAdd) : Nat := x.z.val * 2 ^ 20 + x.h.val * 2 ^ 12 + x.k.val
/-- Field bits of PNORM (R233). -/
def encPNorm (x : OpPNorm) : Nat := x.h.val * 2 ^ 12
/-- Field bits of TILEIN and TILEOUT (R49). -/
def encTile (x : OpTile) : Nat :=
  x.xf.val * 2 ^ 17 + x.h.val * 2 ^ 9 + x.vw.val * 2 ^ 3 + x.pb.val * 2 + b2n x.fm
/-- Field bits of BCOPY (R307). -/
def encBCopy (x : OpBCopy) : Nat := x.xf.val * 2 ^ 10 + (0x40 + x.p.val) * 2 ^ 3
/-- Field bits of QPOP (R275). -/
def encQPop (x : OpQPop) : Nat := x.d.val * 2 ^ 10 + x.vw.val * 2 ^ 3
/-- Field bits of QSPAWN (R277). -/
def encQSpawn (x : OpQSpawn) : Nat :=
  x.d.val * 2 ^ 10 + x.vw.val * 2 ^ 3 + (match x.sel with | none => 0 | some p => 4 + p.val)
/-- Field bits of QCLOSE (R278). -/
def encQView (x : OpQView) : Nat := x.vw.val * 2 ^ 3
/-- Field bits of FREAD and FFILL. -/
def encFut (x : OpFut) : Nat := x.d.val * 2 ^ 10 + x.vw.val * 2 ^ 3
/-- Field bits of SLOTQ (R346). -/
def encSlotQ (x : OpSlotQ) : Nat := x.d.val * 2 ^ 10
/-- Field bits of FEATQ (R382). -/
def encFeatQ (x : OpFeatQ) : Nat := x.d.val * 2 ^ 10 + x.q.val
/-- Field bits of HBT (R58). -/
def encHbt (x : OpHbt) : Nat := x.t2.toNat * 2 ^ 11 + x.t1.toNat
/-- Field bits of HORD (R59). -/
def encHord (x : OpHord) : Nat := encOrder x.ord * 2 ^ 21 + x.scope.code * 2 ^ 18 + b2n x.rem * 2 ^ 17

/-- The fixed bits of a row of the encoding tables (R62 to R65), or none for an event. -/
def Instr.base : Instr → Option Nat
  | .iadd .. => some 0x00000000
  | .isub .. => some 0x00100000
  | .iadds .. => some 0x00200000
  | .isubs .. => some 0x00300000
  | .uadds .. => some 0x04000000
  | .usubs .. => some 0x04100000
  | .iabsd .. => some 0x04200000
  | .uavg .. => some 0x04300000
  | .add64 .. => some 0x08000000
  | .sub64 .. => some 0x08100000
  | .mul64 .. => some 0x08200000
  | .shl64 .. => some 0x08300000
  | .imul .. => some 0x0C000000
  | .imulhi .. => some 0x0C100000
  | .umulhi .. => some 0x0C200000
  | .imad .. => some 0x0C300000
  | .idiv .. => some 0x10000000
  | .udiv .. => some 0x10100000
  | .irem .. => some 0x10200000
  | .urem .. => some 0x10300000
  | .and .. => some 0x14000000
  | .or .. => some 0x14100000
  | .xor .. => some 0x14200000
  | .andn .. => some 0x14300000
  | .shl .. => some 0x18000000
  | .shr .. => some 0x18100000
  | .sar .. => some 0x18200000
  | .rotl .. => some 0x18300000
  | .imin .. => some 0x1C000000
  | .imax .. => some 0x1C100000
  | .umin .. => some 0x1C200000
  | .umax .. => some 0x1C300000
  | .mov .. => some 0x20000000
  | .not .. => some 0x20000001
  | .neg .. => some 0x20000002
  | .iabs .. => some 0x20000003
  | .popc .. => some 0x20000004
  | .clz .. => some 0x20000005
  | .ctz .. => some 0x20000006
  | .brev .. => some 0x20000007
  | .bswap .. => some 0x20000008
  | .sext8 .. => some 0x20000009
  | .sext16 .. => some 0x2000000A
  | .zext8 .. => some 0x2000000B
  | .zext16 .. => some 0x2000000C
  | .bfxz .. => some 0x24000000
  | .bfxs .. => some 0x24100000
  | .bfi .. => some 0x24200000
  | .fshl .. => some 0x24300000
  | .sel .. => some 0x28000000
  | .shfli .. => some 0x2C000000
  | .shflu .. => some 0x2C100000
  | .shfld .. => some 0x2C200000
  | .shflx .. => some 0x2C300000
  | .sadd .. => some 0x30000000
  | .ssub .. => some 0x30100000
  | .smul .. => some 0x30200000
  | .smin .. => some 0x30300000
  | .sand .. => some 0x34000000
  | .sor .. => some 0x34100000
  | .sxor .. => some 0x34200000
  | .sshl .. => some 0x34300000
  | .smov .. => some 0x38000000
  | .snot .. => some 0x38000001
  | .sneg .. => some 0x38000002
  | .spopc .. => some 0x38000004
  | .sclz .. => some 0x38000005
  | .sshr .. => some 0x38000020
  | .saddi .. => some 0x3C000000
  | .iaddi .. => some 0x40000000
  | .movi .. => some 0x4000C800
  | .andi .. => some 0x44000000
  | .ori .. => some 0x48000000
  | .xori .. => some 0x4C000000
  | .shli .. => some 0x50000000
  | .shri .. => some 0x54000000
  | .sari .. => some 0x58000000
  | .imuli .. => some 0x5C000000
  | .fadd .. => some 0x60000000
  | .fsub .. => some 0x64000000
  | .fmul .. => some 0x68000000
  | .ffma .. => some 0x6C000000
  | .fmin .. => some 0x70000000
  | .fmax .. => some 0x74000000
  | .fabs .. => some 0x78000000
  | .fneg .. => some 0x78000001
  | .fsqrt .. => some 0x78000002
  | .frcp .. => some 0x78000003
  | .frsq .. => some 0x78000004
  | .fexp2 .. => some 0x78000005
  | .flog2 .. => some 0x78000006
  | .ffloor .. => some 0x78000007
  | .fceil .. => some 0x78000008
  | .ftrunc .. => some 0x78000009
  | .frint .. => some 0x7800000A
  | .fclass .. => some 0x7800000B
  | .cvtF32S32 .. => some 0x7C000000
  | .cvtF32N32 .. => some 0x7C000001
  | .cvtS32F32 .. => some 0x7C000004
  | .cvtN32F32 .. => some 0x7C000008
  | .cvtBf16F32 .. => some 0x7C000010
  | .cvtF32Bf16 .. => some 0x7C000011
  | .cvtE4m3F32 .. => some 0x7C000012
  | .cvtE5m2F32 .. => some 0x7C000014
  | .cvtF32E4m3 .. => some 0x7C000016
  | .cvtF32E5m2 .. => some 0x7C000017
  | .cvtE4m3E2m1 .. => some 0x7C000018
  | .cvtE4m3E3m2 .. => some 0x7C000019
  | .cvtE4m3E2m3 .. => some 0x7C00001A
  | .cvtE4m3I4 .. => some 0x7C00001B
  | .bfma2 .. => some 0x80000000
  | .bfadd2 .. => some 0x84000000
  | .bfmul2 .. => some 0x88000000
  | .plenc .. => some 0x8C000000
  | .plmax .. => some 0x8C000001
  | .pldec .. => some 0x8C000008
  | .icmp .. => some 0x90000000
  | .fcmp .. => some 0x94000000
  | .plog .. => some 0x98000000
  | .vany .. => some 0x9C000000
  | .vall .. => some 0x9C000001
  | .vbal .. => some 0x9C000002
  | .redadd .. => some 0x9C000003
  | .redmin .. => some 0x9C000004
  | .redmax .. => some 0x9C000005
  | .redfadd .. => some 0x9C000006
  | .ptov .. => some 0x9C003807
  | .vtop .. => some 0x9C000008
  | .readl .. => some 0x9C000040
  | .bra .. => some 0xA0000000
  | .call .. => some 0xA4000000
  | .jmpr .. => some 0xA8000000
  | .callr .. => some 0xA8000001
  | .ret .. => some 0xA8000002
  | .rvz .. => some 0xA8000003
  | .syncl .. => some 0xA8000004
  | .mbr .. => some 0xAC000000
  | .dbnz .. => some 0xB0000000
  | .exit .. => some 0xB4000000
  | .trap .. => some 0xB4010000
  | .brk .. => some 0xB4020000
  | .nop .. => some 0xB4030000
  | .yield .. => some 0xB4040000
  | .sread .. => some 0xB8000000
  | .swrite .. => some 0xB8010000
  | .center .. => some 0xBC000000
  | .sigf .. => some 0xBC100000
  | .sigc .. => some 0xBC200000
  | .sigz .. => some 0xBC300000
  | .ld .. => some 0xC0000000
  | .st .. => some 0xC4000000
  | .lda .. => some 0xC8000000
  | .stl .. => some 0xCC000000
  | .atom .. => some 0xD0000000
  | .atomx .. => some 0xD4000000
  | .pld .. => some 0xD8000000
  | .vnarrow .. => some 0xDC000000
  | .vqry .. => some 0xDC010000
  | .vdrop .. => some 0xDC020000
  | .mapr .. => some 0xDC030000
  | .unmapr .. => some 0xDC040000
  | .flushr .. => some 0xDC050000
  | .invr .. => some 0xDC060000
  | .fence .. => some 0xE0000000
  | .qfence .. => some 0xE0010000
  | .csync .. => some 0xE0020000
  | .barg .. => some 0xE0030000
  | .bart .. => some 0xE0040000
  | .barc .. => some 0xE0050000
  | .hbind .. => some 0xE0060000
  | .harm .. => some 0xE0070000
  | .hseal .. => some 0xE0080000
  | .hwait .. => some 0xE0090000
  | .htake .. => some 0xE00A0000
  | .hfree .. => some 0xE00B0000
  | .hqry .. => some 0xE00C0000
  | .mma .. => some 0xE4000000
  | .mmag .. => some 0xE8000000
  | .mdrn .. => some 0xEC000000
  | .mdrnb .. => some 0xEC000010
  | .mdrnl .. => some 0xEC000020
  | .mzero .. => some 0xEC000030
  | .mload .. => some 0xEC000040
  | .padd .. => some 0xEC000050
  | .pnorm .. => some 0xEC000060
  | .tilein .. => some 0xF0000000
  | .tileout .. => some 0xF4000000
  | .bcopy .. => some 0xF8000000
  | .qpop .. => some 0xF8010000
  | .qspawn .. => some 0xF8020000
  | .qclose .. => some 0xF8030000
  | .fread .. => some 0xF8040000
  | .ffill .. => some 0xF8050000
  | .trig .. => some 0xF8060000
  | .slotq .. => some 0xF8070000
  | .featq .. => some 0xF8080000
  | .himm .. => some 0xFC000000
  | .hbt .. => some 0xFC800000
  | .hord .. => some 0xFD000000
  | .hsch .. => some 0xFD800000
  | .hgath .. => some 0xFE000000
  | .broadcastPcTimeout .. => none
  | .rvzBoundExpire .. => none
  | .yieldExpire .. => none
  | .hschRunEnd .. => none
  | .codeFetchFill .. => none
  | .mappedFillComplete .. => none
  | .mappedWriteBack .. => none
  | .tileCopyEnqueue .. => none
  | .tileGranuleLand .. => none
  | .followOnRelease .. => none
  | .mcastHopArrival .. => none
  | .tileoutGranule .. => none
  | .matrixQueuePerform .. => none
  | .bcopyEnqueue .. => none
  | .bulkGranule .. => none
  | .barrierEpisodeComplete .. => none
  | .watchdogExpire .. => none
  | .frameStart .. => none
  | .slotGuardOpen .. => none
  | .slotStart .. => none
  | .slotExtended .. => none
  | .slotEnd .. => none
  | .selfTestVerdict .. => none
  | .integritySweepVisit .. => none
  | .integrityPeriodEnd .. => none
  | .ballastWindow .. => none
  | .thermalEvent .. => none
  | .readGrantBudget .. => none
  | .poolWrite .. => none
  | .launchCommit .. => none
  | .recordCopy .. => none
  | .teamPlace .. => none
  | .scratchpadImageCopy .. => none
  | .teamEnd .. => none
  | .preempt .. => none
  | .contextSaveComplete .. => none
  | .restore .. => none
  | .kill .. => none
  | .xactRetry .. => none
  | .xactFail .. => none
  | .xinv .. => none
  | .xinvComplete .. => none
  | .resume .. => none
  | .skip .. => none
  | .haltKill .. => none
  | .registerWrite .. => none
  | .partitionCreate .. => none
  | .partitionDestroy .. => none
  | .sheavesWrite .. => none
  | .stage1Write .. => none
  | .rangesWrite .. => none
  | .enginesWrite .. => none
  | .coreRelease .. => none
  | .engineRelease .. => none
  | .tenantTableWrite .. => none
  | .measurementExtend .. => none
  | .reset .. => none
  | .functionReady .. => none
  | .dieUnreachable .. => none
  | .inboundApertureAccess .. => none
  | .vaultApertureAccess .. => none
  | .cxlMemAccess .. => none
  | .query .. => none
  | .keyProg .. => none
  | .kSetGo .. => none
  | .kSetStop .. => none
  | .getTdispVersion .. => none
  | .getTdispCapabilities .. => none
  | .lockInterfaceRequest .. => none
  | .getDeviceInterfaceReport .. => none
  | .getDeviceInterfaceState .. => none
  | .startInterfaceRequest .. => none
  | .stopInterfaceRequest .. => none
  | .getVersion .. => none
  | .getCapabilities .. => none
  | .negotiateAlgorithms .. => none
  | .getDigests .. => none
  | .getCertificate .. => none
  | .challenge .. => none
  | .getMeasurements .. => none
  | .keyExchange .. => none
  | .finish .. => none
  | .spdmUnsupported .. => none
  | .write .. => none
  | .read .. => none
  | .readResponse .. => none
  | .atomic .. => none
  | .atomicResponse .. => none
  | .ack .. => none
  | .launch .. => none
  | .launchResult .. => none
  | .capability .. => none
  | .time .. => none
  | .flitNop .. => none
  | .flitUnlisted .. => none
  | .linkTrained .. => none
  | .linkDown .. => none
  | .streamMove .. => none
  | .fqconsWrite .. => none
  | .energyLoRead .. => none
  | .hostReadCompletion .. => none
  | .laneFails .. => none

/-- The operand bits of a term (R41 to R51). -/
def Instr.fieldBits : Instr → Nat
  | .iadd x => encR x
  | .isub x => encR x
  | .iadds x => encR x
  | .isubs x => encR x
  | .uadds x => encR x
  | .usubs x => encR x
  | .iabsd x => encR x
  | .uavg x => encR x
  | .add64 x => encR64 x
  | .sub64 x => encR64 x
  | .mul64 x => encR64 x
  | .shl64 x => encR64 x
  | .imul x => encR x
  | .imulhi x => encR x
  | .umulhi x => encR x
  | .imad x => encR x
  | .idiv x => encR x
  | .udiv x => encR x
  | .irem x => encR x
  | .urem x => encR x
  | .and x => encR x
  | .or x => encR x
  | .xor x => encR x
  | .andn x => encR x
  | .shl x => encR x
  | .shr x => encR x
  | .sar x => encR x
  | .rotl x => encR x
  | .imin x => encR x
  | .imax x => encR x
  | .umin x => encR x
  | .umax x => encR x
  | .mov x => encU x
  | .not x => encU x
  | .neg x => encU x
  | .iabs x => encU x
  | .popc x => encU x
  | .clz x => encU x
  | .ctz x => encU x
  | .brev x => encU x
  | .bswap x => encU x
  | .sext8 x => encU x
  | .sext16 x => encU x
  | .zext8 x => encU x
  | .zext16 x => encU x
  | .bfxz x => encR x
  | .bfxs x => encR x
  | .bfi x => encR x
  | .fshl x => encR x
  | .sel x => encSel x
  | .shfli x => encR x
  | .shflu x => encR x
  | .shfld x => encR x
  | .shflx x => encR x
  | .sadd x => encSR x
  | .ssub x => encSR x
  | .smul x => encSR x
  | .smin x => encSR x
  | .sand x => encSR x
  | .sor x => encSR x
  | .sxor x => encSR x
  | .sshl x => encSR x
  | .smov x => encSU x
  | .snot x => encSU x
  | .sneg x => encSU x
  | .spopc x => encSU x
  | .sclz x => encSU x
  | .sshr x => encSShr x
  | .saddi x => encSI x
  | .iaddi x => encI x
  | .movi x => encMovI x
  | .andi x => encI x
  | .ori x => encI x
  | .xori x => encI x
  | .shli x => encI x
  | .shri x => encI x
  | .sari x => encI x
  | .imuli x => encI x
  | .fadd x => encRF x
  | .fsub x => encRF x
  | .fmul x => encRF x
  | .ffma x => encRF x
  | .fmin x => encRF x
  | .fmax x => encRF x
  | .fabs x => encUF x
  | .fneg x => encUF x
  | .fsqrt x => encUF x
  | .frcp x => encUF x
  | .frsq x => encUF x
  | .fexp2 x => encUF x
  | .flog2 x => encUF x
  | .ffloor x => encUF x
  | .fceil x => encUF x
  | .ftrunc x => encUF x
  | .frint x => encUF x
  | .fclass x => encUF x
  | .cvtF32S32 x => encUF x
  | .cvtF32N32 x => encUF x
  | .cvtS32F32 x => encCvtR x
  | .cvtN32F32 x => encCvtR x
  | .cvtBf16F32 x => encUF x
  | .cvtF32Bf16 x => encUF x
  | .cvtE4m3F32 x => encCvtS x
  | .cvtE5m2F32 x => encCvtS x
  | .cvtF32E4m3 x => encUF x
  | .cvtF32E5m2 x => encUF x
  | .cvtE4m3E2m1 x => encUF x
  | .cvtE4m3E3m2 x => encUF x
  | .cvtE4m3E2m3 x => encUF x
  | .cvtE4m3I4 x => encUF x
  | .bfma2 x => encRF x
  | .bfadd2 x => encRF x
  | .bfmul2 x => encRF x
  | .plenc x => encU x
  | .plmax x => encU x
  | .pldec x => encPlDec x
  | .icmp x => encICmp x
  | .fcmp x => encFCmp x
  | .plog x => encPLog x
  | .vany x => encCoh x
  | .vall x => encCoh x
  | .vbal x => encCoh x
  | .redadd x => encCoh x
  | .redmin x => encCoh x
  | .redmax x => encCoh x
  | .redfadd x => encCoh x
  | .ptov x => encPToV x
  | .vtop x => encVToP x
  | .readl x => encReadL x
  | .bra x => encB x
  | .call x => encB x
  | .jmpr x => encGA x
  | .callr x => encGA x
  | .ret x => encG x
  | .rvz x => encGA x
  | .syncl x => encGA x
  | .mbr x => encMbr x
  | .dbnz x => encBL x
  | .exit x => encG x
  | .trap x => encTrap x
  | .brk x => encG x
  | .nop x => encG x
  | .yield x => encG x
  | .sread x => encSRead x
  | .swrite x => encSWrite x
  | .center x => encCenter x
  | .sigf x => encSigf x
  | .sigc x => encSigc x
  | .sigz x => encG x
  | .ld x => encLd x
  | .st x => encSt x
  | .lda x => encOrd x
  | .stl x => encOrd x
  | .atom x => encAtom x
  | .atomx x => encAtomX x
  | .pld x => encPld x
  | .vnarrow x => encVNar x
  | .vqry x => encVQry x
  | .vdrop x => encVOne x
  | .mapr x => encVBlk x
  | .unmapr x => encVOne x
  | .flushr x => encVOne x
  | .invr x => encVOne x
  | .fence x => encScope x
  | .qfence x => encQFen x
  | .csync x => encScope x
  | .barg x => encBar x
  | .bart x => encBar x
  | .barc x => encBarc x
  | .hbind x => encVBlk x
  | .harm x => encHarm x
  | .hseal x => encHnd x
  | .hwait x => encHWait x
  | .htake x => encHnd x
  | .hfree x => encHnd x
  | .hqry x => encHQry x
  | .mma x => encMma x
  | .mmag x => encMma x
  | .mdrn x => encDrn x
  | .mdrnb x => encDrn x
  | .mdrnl x => encDrnL x
  | .mzero x => encAcc x
  | .mload x => encDrn x
  | .padd x => encPAdd x
  | .pnorm x => encPNorm x
  | .tilein x => encTile x
  | .tileout x => encTile x
  | .bcopy x => encBCopy x
  | .qpop x => encQPop x
  | .qspawn x => encQSpawn x
  | .qclose x => encQView x
  | .fread x => encFut x
  | .ffill x => encFut x
  | .trig => 0
  | .slotq x => encSlotQ x
  | .featq x => encFeatQ x
  | .himm i => i.toNat
  | .hbt x => encHbt x
  | .hord x => encHord x
  | .hsch n => n.val
  | .hgath s => s.val * 2 ^ 21
  | .broadcastPcTimeout .. => 0
  | .rvzBoundExpire .. => 0
  | .yieldExpire .. => 0
  | .hschRunEnd .. => 0
  | .codeFetchFill .. => 0
  | .mappedFillComplete .. => 0
  | .mappedWriteBack .. => 0
  | .tileCopyEnqueue .. => 0
  | .tileGranuleLand .. => 0
  | .followOnRelease .. => 0
  | .mcastHopArrival .. => 0
  | .tileoutGranule .. => 0
  | .matrixQueuePerform .. => 0
  | .bcopyEnqueue .. => 0
  | .bulkGranule .. => 0
  | .barrierEpisodeComplete .. => 0
  | .watchdogExpire .. => 0
  | .frameStart .. => 0
  | .slotGuardOpen .. => 0
  | .slotStart .. => 0
  | .slotExtended .. => 0
  | .slotEnd .. => 0
  | .selfTestVerdict .. => 0
  | .integritySweepVisit .. => 0
  | .integrityPeriodEnd .. => 0
  | .ballastWindow .. => 0
  | .thermalEvent .. => 0
  | .readGrantBudget .. => 0
  | .poolWrite .. => 0
  | .launchCommit .. => 0
  | .recordCopy .. => 0
  | .teamPlace .. => 0
  | .scratchpadImageCopy .. => 0
  | .teamEnd .. => 0
  | .preempt .. => 0
  | .contextSaveComplete .. => 0
  | .restore .. => 0
  | .kill .. => 0
  | .xactRetry .. => 0
  | .xactFail .. => 0
  | .xinv .. => 0
  | .xinvComplete .. => 0
  | .resume .. => 0
  | .skip .. => 0
  | .haltKill .. => 0
  | .registerWrite .. => 0
  | .partitionCreate .. => 0
  | .partitionDestroy .. => 0
  | .sheavesWrite .. => 0
  | .stage1Write .. => 0
  | .rangesWrite .. => 0
  | .enginesWrite .. => 0
  | .coreRelease .. => 0
  | .engineRelease .. => 0
  | .tenantTableWrite .. => 0
  | .measurementExtend .. => 0
  | .reset .. => 0
  | .functionReady .. => 0
  | .dieUnreachable .. => 0
  | .inboundApertureAccess .. => 0
  | .vaultApertureAccess .. => 0
  | .cxlMemAccess .. => 0
  | .query .. => 0
  | .keyProg .. => 0
  | .kSetGo .. => 0
  | .kSetStop .. => 0
  | .getTdispVersion .. => 0
  | .getTdispCapabilities .. => 0
  | .lockInterfaceRequest .. => 0
  | .getDeviceInterfaceReport .. => 0
  | .getDeviceInterfaceState .. => 0
  | .startInterfaceRequest .. => 0
  | .stopInterfaceRequest .. => 0
  | .getVersion .. => 0
  | .getCapabilities .. => 0
  | .negotiateAlgorithms .. => 0
  | .getDigests .. => 0
  | .getCertificate .. => 0
  | .challenge .. => 0
  | .getMeasurements .. => 0
  | .keyExchange .. => 0
  | .finish .. => 0
  | .spdmUnsupported .. => 0
  | .write .. => 0
  | .read .. => 0
  | .readResponse .. => 0
  | .atomic .. => 0
  | .atomicResponse .. => 0
  | .ack .. => 0
  | .launch .. => 0
  | .launchResult .. => 0
  | .capability .. => 0
  | .time .. => 0
  | .flitNop .. => 0
  | .flitUnlisted .. => 0
  | .linkTrained .. => 0
  | .linkDown .. => 0
  | .streamMove .. => 0
  | .fqconsWrite .. => 0
  | .energyLoRead .. => 0
  | .hostReadCompletion .. => 0
  | .laneFails .. => 0

/-- The word of an instruction or hint, from the same tables as the decoder; none for an event. (DEDUCED, log 18.) -/
def encode (i : Instr) : Option Nat := i.base.map (· + i.fieldBits)

end Sys2Proof
end

