-- ==== Sys2Proof/Machine/Operands.lean ====
section
/-!
DEFINITION. Every operand form of spec/02_encoding.md: reading a source (R37, R38), guards and predicate selects (R35,
R36), immediates with their hint (R43, R57), coordinate runs (R47); what an instruction's fields name; and the classes of
instructions that issue and containment look at (R52, R62, R92, R95, R105, R177).
-/
namespace Sys2Proof

/-- The v registers a source names (R37), and those of a 64-bit source (R38). -/
def Src.vs : Src → List Nat
  | .v i => [i.val]
  | _ => []
def Src.vs64 : Src → List Nat
  | .v i => [i.val, i.val + 1]
  | _ => []

/-- One more than the number of the latch a source reads; 0 where it reads none. -/
def Src.latch : Src → Nat
  | .b i => i.val + 1
  | _ => 0

/-- What a word's fields name: its guard, the v registers of its fields other than a coordinate run, and one more than
the highest latch of its sources. -/
structure Shape where
  guard : Option Guard
  vs    : List Nat
  latch : Nat
  deriving DecidableEq, Repr

/-- The fields of each instruction, by its format. -/
def Instr.shape : Instr → Shape
  | .iadd x | .isub x | .iadds x | .isubs x | .uadds x | .usubs x | .iabsd x | .uavg x | .imul x | .imulhi x | .umulhi x | .imad x | .idiv x | .udiv x | .irem x | .urem x | .and x | .or x | .xor x | .andn x | .shl x | .shr x | .sar x | .rotl x | .imin x | .imax x | .umin x | .umax x | .bfxz x | .bfxs x | .bfi x | .fshl x | .shfli x | .shflu x | .shfld x | .shflx x =>
    ⟨some x.g, x.d.val :: (x.a.vs ++ x.b.vs), max x.a.latch x.b.latch⟩
  | .add64 x | .sub64 x | .mul64 x =>
    ⟨some x.g, x.d.val :: (x.d.val + 1) :: (x.a.vs64 ++ x.b.vs64), 0⟩
  | .shl64 x =>
    ⟨some x.g, x.d.val :: (x.d.val + 1) :: (x.a.vs64 ++ x.b.vs), x.b.latch⟩
  | .mov x | .not x | .neg x | .iabs x | .popc x | .clz x | .ctz x | .brev x | .bswap x | .sext8 x | .sext16 x | .zext8 x | .zext16 x | .plenc x | .plmax x =>
    ⟨some x.g, x.d.val :: x.a.vs, x.a.latch⟩
  | .sel x =>
    ⟨none, x.d.val :: (x.a.vs ++ x.b.vs), max x.a.latch x.b.latch⟩
  | .iaddi x | .andi x | .ori x | .xori x | .shli x | .shri x | .sari x | .imuli x =>
    ⟨some x.g, x.d.val :: x.a.vs, x.a.latch⟩
  | .movi x =>
    ⟨some x.g, [x.d.val], 0⟩
  | .fadd x | .fsub x | .fmul x | .ffma x | .fmin x | .fmax x | .bfma2 x | .bfadd2 x | .bfmul2 x =>
    ⟨some x.g, x.d.val :: (x.a.vs ++ x.b.vs), max x.a.latch x.b.latch⟩
  | .fabs x | .fneg x | .fsqrt x | .frcp x | .frsq x | .fexp2 x | .flog2 x | .ffloor x | .fceil x | .ftrunc x | .frint x | .fclass x | .cvtF32S32 x | .cvtF32N32 x | .cvtBf16F32 x | .cvtF32Bf16 x | .cvtF32E4m3 x | .cvtF32E5m2 x | .cvtE4m3E2m1 x | .cvtE4m3E3m2 x | .cvtE4m3E2m3 x | .cvtE4m3I4 x =>
    ⟨some x.g, x.d.val :: x.a.vs, x.a.latch⟩
  | .cvtS32F32 x | .cvtN32F32 x =>
    ⟨some x.g, x.d.val :: x.a.vs, x.a.latch⟩
  | .cvtE4m3F32 x | .cvtE5m2F32 x =>
    ⟨some x.g, x.d.val :: x.a.vs, x.a.latch⟩
  | .pldec x =>
    ⟨some x.g, x.d.val :: x.a.vs, x.a.latch⟩
  | .icmp x =>
    ⟨some x.g, x.a.vs ++ x.b.vs, max x.a.latch x.b.latch⟩
  | .fcmp x =>
    ⟨some x.g, x.a.vs ++ x.b.vs, max x.a.latch x.b.latch⟩
  | .plog x =>
    ⟨some x.g, [], 0⟩
  | .vany x | .vall x | .vbal x | .redadd x | .redmin x | .redmax x | .redfadd x =>
    ⟨some x.g, x.d.val :: x.a.vs, x.a.latch⟩
  | .ptov x =>
    ⟨some x.g, [x.d.val], 0⟩
  | .vtop x =>
    ⟨some x.g, x.a.vs, x.a.latch⟩
  | .readl x =>
    ⟨none, [x.r.val], 0⟩
  | .bra x | .call x =>
    ⟨some x.g, [], 0⟩
  | .jmpr x | .callr x | .rvz x | .syncl x | .sigf x =>
    ⟨some x.g, x.a.vs, x.a.latch⟩
  | .ret x | .exit x | .brk x | .nop x | .yield x | .sigz x =>
    ⟨some x.g, [], 0⟩
  | .dbnz x =>
    ⟨some x.g, [x.a.val], 0⟩
  | .trap x =>
    ⟨some x.g, x.a.vs, x.a.latch⟩
  | .sread x =>
    ⟨some x.g, [x.d.val], 0⟩
  | .swrite x =>
    ⟨some x.g, x.a.vs, x.a.latch⟩
  | .center x =>
    ⟨some x.g, x.d.val :: (x.a.vs ++ x.b.vs), max x.a.latch x.b.latch⟩
  | .sigc x =>
    ⟨some x.g, [x.d.val], 0⟩
  | .ld x =>
    ⟨some x.g, upFrom x.d.val x.size.regs, 0⟩
  | .st x =>
    ⟨some x.g, upFrom x.d.val x.size.regs, 0⟩
  | .lda x | .stl x =>
    ⟨some x.g, [x.d.val], 0⟩
  | .atom x =>
    ⟨some x.g, [x.d.val], 0⟩
  | .atomx x =>
    ⟨some x.g, upFrom x.d.val x.op.regs, 0⟩
  | .pld x =>
    ⟨some x.g, [x.d.val], 0⟩
  | .qfence x =>
    ⟨none, x.a.vs, x.a.latch⟩
  | .barg x | .bart x =>
    ⟨some x.g, x.a.vs, x.a.latch⟩
  | .qpop x =>
    ⟨none, upFrom x.d.val 8, 0⟩
  | .qspawn x =>
    ⟨none, upFrom x.d.val 8, 0⟩
  | .fread x =>
    ⟨none, upFrom x.d.val 2, 0⟩
  | .ffill x =>
    ⟨none, upFrom x.d.val 3, 0⟩
  | _ => ⟨none, [], 0⟩

/-- The major opcode of an instruction word (R62). -/
def Instr.major (i : Instr) : Nat := (i.base.getD 0) / 2 ^ 26

/-- Whether the term is an instruction or hint word, and not an event. -/
def Instr.isWord (i : Instr) : Bool := i.base.isSome

/-- Whether the word is a hint (R51). -/
def Instr.isHint : Instr → Bool
  | .himm _ | .hbt _ | .hord _ | .hsch _ | .hgath _ => true
  | _ => false

/-- The held classes (R92). -/
def Instr.held (i : Instr) : Bool :=
  match i with
  | .rvz _ => true
  | _ =>
    let m := i.major
    i.isWord && ((0x0B ≤ m && m ≤ 0x0F) || m == 0x27 || (0x37 ≤ m && m ≤ 0x3E))

/-- The units that contained state forbids (R105), hints apart. -/
def Instr.forbidden (i : Instr) : Bool :=
  match i with
  | .rvz _ | .syncl _ | .mbr _ | .brk _ | .nop _ | .yield _ | .sread _ | .swrite _ | .center _ | .sigc _ | .sigz _ => true
  | _ =>
    let m := i.major
    (0x0B ≤ m && m ≤ 0x0F) || m == 0x27 || (0x37 ≤ m && m ≤ 0x3E)

/-- The latch producers (R52). -/
def Instr.producer (i : Instr) : Bool :=
  let m := i.major
  i.isWord && (m ≤ 1 || (3 ≤ m && m ≤ 0x0B) || (0x10 ≤ m && m ≤ 0x23))

/-- The control transfers that end a chain (R55): majors 0x28 to 0x2D, and CENTER. -/
def Instr.transfer (i : Instr) : Bool :=
  match i with
  | .center _ => true
  | _ => 0x28 ≤ i.major && i.major ≤ 0x2D

/-- The roles that may issue an instruction (R177): none means every role. -/
def Instr.role (i : Instr) : Option Machine.Role :=
  match i with
  | .tilein _ | .tileout _ | .bcopy _ => some .copy
  | .mma _ | .mmag _ | .mdrn _ | .mdrnb _ | .mdrnl _ | .mzero _ | .mload _ | .padd _ | .pnorm _ => some .matrix
  | _ => none

/-- The instructions that need full convergence (R95): the scalar-destination instructions, and those of majors 0x37 to
0x3E and a group-wide SWRITE as each description says. -/
def Instr.needsFull (i : Instr) : Bool :=
  match i with
  | .readl _ => true
  | .fence _ | .csync _ | .barg _ | .qpop _ | .qspawn _ | .qclose _ | .fread _ | .ffill _ => false
  | .swrite x => x.n.groupWide
  | _ => (0x0C ≤ i.major && i.major ≤ 0x0F) || (0x37 ≤ i.major && i.major ≤ 0x3E)

/-- The tile, bulk, matrix and handle instructions, which are side effects of every lane of their cohort (R279). -/
def Instr.engine : Instr → Bool
  | .mma _ | .mmag _ | .mdrn _ | .mdrnb _ | .mdrnl _ | .mzero _ | .mload _ | .padd _ | .pnorm _
  | .tilein _ | .tileout _ | .bcopy _
  | .hbind _ | .harm _ | .hseal _ | .hwait _ | .htake _ | .hfree _ | .hqry _ => true
  | _ => false

/-- The view and the first coordinate code of a format-M word (R47). -/
def Instr.coords : Instr → Option (Nat × Nat)
  | .ld x => some (x.vw.val, x.c.val)
  | .st x => some (x.vw.val, x.c.val)
  | .lda x | .stl x => some (x.vw.val, x.c.val)
  | .atom x => some (x.vw.val, x.c.val)
  | .atomx x => some (x.vw.val, x.c.val)
  | .pld x => some (x.vw.val, x.c.val)
  | _ => none

/-- The v registers that the fields of a word name, the first code of a coordinate run among them (R47, R89). -/
def Instr.fields (i : Instr) : List Nat :=
  i.shape.vs ++ ((i.coords.bind fun x => decSrc x.2).map Src.vs).getD []

/-- The v registers that an instruction writes and does not read. -/
def Instr.overwrites (i : Instr) : List Nat :=
  match i with
  | .imad _ | .bfi _ | .fshl _ | .ffma _ | .bfma2 _ | .atom _ | .atomx _ | .icmp _ | .fcmp _ | .plog _ | .vtop _ | .readl _ | .dbnz _
  | .trap _ | .swrite _ | .st _ | .stl _ | .qspawn _ | .fread _ | .ffill _ | .sigc _ | .jmpr _ | .callr _ | .rvz _ | .syncl _ | .sigf _
  | .barg _ | .bart _ | .qfence _ => []
  | .add64 x | .sub64 x | .mul64 x | .shl64 x => [x.d.val, x.d.val + 1]
  | .ld x => upFrom x.d.val x.size.regs
  | .qpop x => upFrom x.d.val 8
  | i => i.shape.vs.take 1

/-- The v registers that the fields of a word read: those they name but for the destinations it only writes. -/
def Instr.reads (i : Instr) : List Nat := i.overwrites.foldl List.erase i.fields

/-- Whether a guard holds in a lane (R35). -/
def Guard.holds (g : Guard) (l : Machine.Lane) : Bool :=
  match g with
  | .always => true
  | .on p => l.p[p.val + 1]
  | .off p => !l.p[p.val + 1]

/-- Whether the instruction reads its sources in a lane: where its guard holds (R116), and in a shuffle whatever the guard, since every
lane of the cohort offers its value (R214). -/
def Instr.readsIn (i : Instr) (l : Machine.Lane) : Bool :=
  i.major == 0x0B || match i.shape.guard with
    | some g => g.holds l
    | none => true

/-- The selected predicate (R36). -/
def PSel.holds (q : PSel) (l : Machine.Lane) : Bool := l.p[q.p.val] != q.neg

namespace Machine

/-! ## Reading operands -/

/-- Register codes 0 to 31 of a contained lane name v32 to v63 (R104). -/
def Lane.phys (l : Lane) (i : Fin 64) : Fin 64 := if l.inside.isSome then i + 32 else i

/-- A v register of a lane, and its replacement. -/
def Lane.reg (l : Lane) (i : Fin 64) : Word := l.v[(l.phys i).val]
def Lane.setReg (l : Lane) (i : Fin 64) (x : Word) : Lane := { l with v := l.v.set (l.phys i).val x }

/-- `Pair` of R33, and its replacement: the low half in the even register (R11). -/
def Lane.pair (l : Lane) (i : Fin 64) : Word64 := (l.reg (i + 1)) ++ (l.reg i)
def Lane.setPair (l : Lane) (i : Fin 64) (x : Word64) : Lane :=
  (l.setReg i (x.setWidth 32)).setReg (i + 1) ((x >>> 32).setWidth 32)

/-- What a lane reads beside its own registers: its index, its thread index (DEDUCED, log 11), its group's scalars, the hints of
the unit, and the unit's length. -/
structure Env where
  n     : Nat
  tid   : Nat
  s     : Vector Word 32
  hints : List Hint
  words : Nat
  fmask : Nat
  deriving DecidableEq, Repr

/-- A source (R37). -/
def readSrc (e : Env) (l : Lane) : Src → Word
  | .v i => l.reg i
  | .s i => e.s[i.val]
  | .b i => nth 0 l.latches i.val
  | .zero => 0
  | .lane => BitVec.ofNat 32 e.n
  | .tid => BitVec.ofNat 32 e.tid
  | .ones => 0xFFFFFFFF
  | .imm i => BitVec.ofNat 32 i.val

/-- A 64-bit source (R38). -/
def readSrc64 (e : Env) (l : Lane) : Src → Word64
  | .v i => l.pair i
  | .ones => 0xFFFFFFFFFFFFFFFF
  | x => (readSrc e l x).setWidth 64

/-- A source of a per-group instruction (R38). -/
def readSSrc (s : Vector Word 32) : SSrc → Word
  | .s i => s[i.val]
  | .zero => 0
  | .ones => 0xFFFFFFFF
  | .imm i => BitVec.ofNat 32 i.val

/-- The immediate of a format-I unit (R43, R57): imm9 sign-extended, or HIMM's 23 bits above imm9. -/
def immOf (hints : List Hint) (imm : BitVec 9) : Word :=
  match hints.findSome? fun h => match h with
    | .imm x => some x
    | _ => none with
  | some x => x ++ imm
  | none => imm.signExtend 32

/-- The HORD of a unit (R59). -/
def ordOf (hints : List Hint) : Option OpHord :=
  hints.findSome? fun h => match h with
    | .ord x => some x
    | _ => none

/-- The codes of a coordinate run (R47); none where it holds a reserved code or passes 0x7F. -/
def coordRun (c : Nat) : Nat → Option (List Src)
  | 0 => some []
  | n + 1 =>
    if 0x7F < c then none
    else
      match decSrc c, coordRun (c + 1) n with
      | some a, some as => some (a :: as)
      | _, _ => none

/-! ## Hint rules (R56 to R61, R200) -/

/-- Whether a kind of hint appears at most once, HBT apart (R56). -/
def hintsOnce (hs : List Hint) : Bool :=
  let n := fun (p : Hint → Bool) => (hs.filter p).length
  n (fun h => match h with | .imm _ => true | _ => false) ≤ 1
    && n (fun h => match h with | .ord _ => true | _ => false) ≤ 1
    && n (fun h => match h with | .sch _ => true | _ => false) ≤ 1
    && n (fun h => match h with | .gath _ => true | _ => false) ≤ 1

/-- The HBT words of a unit, in order. -/
def hbts (hs : List Hint) : List OpHbt :=
  hs.filterMap fun h => match h with
    | .bt x => some x
    | _ => none

/-- The HBT rule of MBR (R58): exactly ceil(n/2) words, directly before it, the fields of targets beyond n zero. -/
def hbtOk (n : Nat) (hs : List Hint) : Bool :=
  let b := hbts hs
  b.length == (n + 1) / 2 && (hbts (hs.drop (hs.length - (n + 1) / 2))).length == (n + 1) / 2 && (n % 2 == 0 || ((b.getLast?.map fun x => x.t2 == 0).getD false))

/-- Whether the instruction accepts the hint (R56, R59, R200). -/
def accepts (i : Instr) (h : Hint) : Bool :=
  match h with
  | .imm _ => i.major == 0x0F || (0x10 ≤ i.major && i.major ≤ 0x17)
  | .bt _ => match i with
    | .mbr _ => true
    | _ => false
  | .sch _ => true
  | .gath _ => match i with
    | .mmag _ => true
    | _ => false
  | .ord x =>
    match i with
    | .ld _ => x.ord == .acq || x.ord == .sc
    | .pld _ => x.ord == .acq || x.ord == .sc
    | .st _ => (x.ord == .rel || x.ord == .sc) && !x.rem
    | .lda y => x.ord != .rel && x.scope == y.scope
    | .stl y => x.ord != .acq && x.scope == y.scope && !x.rem
    | .atom _ => true
    | .atomx _ => true
    | _ => false

/-- Whether an HGATH word stands directly before the instruction (R227). -/
def gathLast (hs : List Hint) : Bool :=
  match hs.getLast? with
  | some (.gath _) => true
  | _ => false

/-- The hint rules of a unit (R56 to R61, R227): a violation makes the unit reserved. -/
def hintsOk (i : Instr) (hs : List Hint) : Bool :=
  hintsOnce hs && hs.all (accepts i) &&
    match i with
    | .mbr x => hbtOk (x.n.val + 1) hs
    | .mmag _ => gathLast hs
    | _ => true

/-- Whether the unit holds a hint that contained state forbids (R105). -/
def hintsForbidden (hs : List Hint) : Bool :=
  hs.any fun h => match h with
    | .imm _ => false
    | _ => true

end Machine
end Sys2Proof
end

