-- ==== Sys2Proof/Machine/Flags.lean ====
section
/-!
DEFINITION. The %status flags (spec/01_numbers.md R13), the fault mask (spec/04_lane.md R108), and every condition that a
unit can raise, with its fault kind and detail in ordinary state (R109, R187, R225, R269) and its outcome in contained
state (R107).
-/
namespace Sys2Proof.Machine

/-- `SetFlag` of R33: flags are sticky (R13). -/
def Lane.setFlags (l : Lane) (f : Word) : Lane := { l with status := l.status ||| (f &&& 0xFF) }

/-- A fill of %status by SWRITE (R136): bits 31:8 are ignored. -/
def statusOf (x : Word) : Word := x &&& 0xFF

/-- A condition that a unit raises. -/
inductive Cause where
  | illegal
  | latch
  | forbidden
  | codeBounds
  | view (vw : Nat)
  | mapped (vw : Nat)
  | callSpill
  | retUnder
  | diverged
  | trap (k : Nat) (a : Word)
  | brk
  | role
  | handle (h reason : Nat)
  | queue (vw : Nat)
  | future (vw : Nat)
  | lateFuture (vw : Nat)
  | doubleFill (vw : Nat)
  | clusterError (vw : Nat)
  | dataError (vw : Nat)
  | exited
  | fuel
  | divZero
  | arith
  deriving DecidableEq, Repr

/-- The fault kind in ordinary state (R187, R269, R314); 0 for a condition that never faults there. -/
def Cause.kind : Cause → Nat
  | .illegal => 0x01
  | .latch => 0x02
  | .forbidden => 0x01
  | .codeBounds => 0x03
  | .view _ => 0x04
  | .mapped _ => 0x05
  | .callSpill => 0x06
  | .retUnder => 0x07
  | .diverged => 0x08
  | .trap _ _ => 0x09
  | .brk => 0x0A
  | .role => 0x0B
  | .handle _ _ => 0x0C
  | .queue _ => 0x10
  | .future _ => 0x11
  | .lateFuture _ => 0x12
  | .doubleFill _ => 0x13
  | .clusterError _ => 0x14
  | .dataError _ => 0x18
  | .exited => 0
  | .fuel => 0
  | .divZero => 0
  | .arith => 0

/-- The DETAIL of the record (R187, R225, R287): a call spill names view 63 (DEDUCED, log 12). -/
def Cause.detail : Cause → Nat
  | .view v => v
  | .mapped v => v
  | .callSpill => 63
  | .trap k _ => k
  | .handle h r => h % 256 + 256 * r
  | .queue v => v
  | .future v => v
  | .lateFuture v => v
  | .doubleFill v => v
  | .clusterError v => v
  | .dataError v => v
  | .illegal => 0
  | .latch => 0
  | .forbidden => 0
  | .codeBounds => 0
  | .retUnder => 0
  | .diverged => 0
  | .brk => 0
  | .role => 0
  | .exited => 0
  | .fuel => 0
  | .divZero => 0
  | .arith => 0

/-- Bytes 0x30 to 0x37 of the record: the A value of a trap halt (R187). -/
def Cause.extra : Cause → Nat
  | .trap _ a => a.toNat
  | _ => 0

/-- Whether a RESUME continues after the unit (R188): a trap halt and a breakpoint. -/
def Cause.after : Cause → Bool
  | .trap _ _ => true
  | .brk => true
  | _ => false

/-- The outcome code in contained state (R107). -/
def Cause.outcome : Cause → Nat
  | .exited => 0x00
  | .fuel => 0x01
  | .illegal => 0x02
  | .latch => 0x02
  | .forbidden => 0x03
  | .codeBounds => 0x04
  | .view _ => 0x05
  | .mapped _ => 0x05
  | .dataError _ => 0x05
  | .divZero => 0x06
  | .callSpill => 0x07
  | .retUnder => 0x07
  | .trap _ _ => 0x08
  | .arith => 0x0A
  | .diverged => 0x03
  | .brk => 0x03
  | .role => 0x03
  | .handle _ _ => 0x03
  | .queue _ => 0x03
  | .future _ => 0x03
  | .lateFuture _ => 0x03
  | .doubleFill _ => 0x03
  | .clusterError _ => 0x03

/-- The condition of the fault mask that a set of raised flags selects (R108): bit 1 NV, bit 2 DZ of a float, bit 3 OF,
bit 4 SAT. -/
def maskSelects (fmask : Nat) (fl : Word) : Bool :=
  (bit fmask 1 && bit fl.toNat 0) || (bit fmask 2 && bit fl.toNat 1) || (bit fmask 3 && bit fl.toNat 2)
    || (bit fmask 4 && bit fl.toNat 5)

/-- The outcome that raised flags end a candidate with, where the launch's mask selects one (R108). -/
def Lane.raises (l : Lane) (fmask : Nat) (fl : Word) : Option Cause :=
  if l.inside.isSome && maskSelects fmask fl then some .arith else none

/-- The outcome of a candidate delivered (R104, R107, R141): the set-aside state returns, the latches are empty, CENTER's
destination takes count · 256 + code, and %fuel the fuel left. -/
def Lane.deliver (l : Lane) (code : Nat) : Lane :=
  match l.inside with
  | none => l
  | some c =>
    { l with
      v := l.v.set c.d.val (BitVec.ofNat 32 (c.count * 256 + code))
      bad := l.bad.filter (· != c.d)
      p := c.p
      status := c.status
      stack := c.stack
      spill := c.spill
      fuelLeft := l.fuel
      latches := []
      chain := 0
      pc := c.home + 1
      inside := none }

end Sys2Proof.Machine
end

