-- ==== Sys2Proof/Machine/Queue.lean ====
section
/-!
DEFINITION. The queue unit of a cluster and the future cells (spec/13_cluster.md R256 to R263; spec/14_cluster_instructions.md
R273 to R283).
-/
namespace Sys2Proof.Machine

/-- The flat address of a byte of a queue's allocation. -/
def QRec.at (r : QRec) (off : Nat) : Nat := 2 ^ 30 + r.vault * 2 ^ 22 + r.base + off

/-- The ring slot that a count selects, and a park slot (R256). -/
def QRec.slotAt (r : QRec) (n : Word) : Nat := r.at (64 + 32 * (n.toNat % r.cap))
def QRec.parkAt (r : QRec) (j : Nat) : Nat := r.at (64 + 32 * r.cap + 32 * j)

/-- The queued entries q and the free space (R259). -/
def QRec.queued (r : QRec) : Nat := (r.tail - r.head).toNat
def QRec.free (r : QRec) : Nat := r.cap - r.queued - r.parked

/-- A record of a cluster by its number. -/
def State.qrec (s : State) (cl no : Nat) : Option QRec := (s.cluster cl).recs.find? fun r => r.no == no

/-- The machine with a record of a cluster changed. -/
def State.modRec (s : State) (cl no : Nat) (f : QRec → QRec) : State :=
  let c := s.cluster cl
  s.setCluster { c with recs := c.recs.map fun r => if r.no == no then f r else r }

/-- The eight words of an entry (R274). -/
def State.entryAt (s : State) (a : Nat) : List Word := (upFrom 0 8).map fun k => BitVec.ofNat 32 (s.num (a + 4 * k) 4)

/-- The bytes of an entry. -/
def entryBytes (e : List Word) : List Byte := (e.map fun w => bytesOf 4 w.toNat).flatten

/-- Fields of an entry (R274). -/
def entryDep (e : List Word) : Nat := bvFld (nth 0 e 0) 24 8
def entryHome (e : List Word) : Nat := bvFld (nth 0 e 1) 0 8
def entryLink (e : List Word) : Nat := bvFld (nth 0 e 1) 16 16

/-- The entry with a field of word 0 or word 1 replaced. -/
def entrySet (e : List Word) (word lo n v : Nat) : List Word :=
  modifyNth (fun w => BitVec.ofNat 32 (setFld w.toNat lo n v)) word e

/-- Writes an entry at a flat address; the line is then untagged, as after a tile port's or a bulk engine's write, while SIGC's write
leaves the tag (R266; DEDUCED, log 105). In the storage of a bound region what it writes is a free value (R295). -/
def State.putEntry (s : State) (a : Nat) (e : List Word) : State := ((s.store a (entryBytes e)).untagRange a 32).strayBytes a 32

/-- The lane that takes an entry of the queue whose header is at `home` (R275). -/
def Lane.takeEntry (l : Lane) (d : Fin 64) (words : Nat) (e : List Word) (home : Nat) : Lane :=
  let l1 := (upFrom 0 8).foldl (fun (l : Lane) k => l.setReg (Fin.ofNat 64 (d.val + k)) (nth 0 e k)) l
  { l1 with
    p := l.p.set 0 true
    task := { hold := true, queue := entryHome e, home := home, entry := e, check := some ⟨l.pc, l.stack, l.spill⟩, side := false }
    pc := l.pc + BitVec.ofNat 32 words
    wait := .none }

/-- The lane whose QPOP fails (R275). -/
def Lane.popFails (words : Nat) (l : Lane) : Lane :=
  { l with p := l.p.set 0 false, pc := l.pc + BitVec.ofNat 32 words, wait := .none }

/-- The mask of the waiting lanes of one group. -/
def waiterMask (ws : List Waiter) (core g : Nat) : BitVec 64 :=
  maskOf ((ws.filter fun w => w.core == core && w.group == g).map (·.lane))

/-- The groups among some waiting lanes, each once. -/
def waiterGroups : List Waiter → List Waiter
  | [] => []
  | w :: ws => w :: (waiterGroups ws).filter fun x => !(x.core == w.core && x.group == w.group)

/-- An uncorrectable error in a record, a ring slot or a park slot (R269): the queue is marked ERROR, and every group that
waits on it halts where its lanes stand. -/
def State.errorQueue (s : State) (cl no : Nat) : State :=
  match s.qrec cl no with
  | none => s
  | some r =>
    let s1 := s.modRec cl no fun q => { q with error := true, waiters := [] }
    let s2 := r.waiters.foldl (fun (s : State) w => s.modLane w.core w.group w.lane fun l => { l with wait := .none }) s1
    (waiterGroups r.waiters).foldl (fun (s : State) w =>
      let m := waiterMask r.waiters w.core w.group
      let pc := ((s.group w.core w.group).map fun g => (nth 0 (g.lanes.map (·.pc)) w.lane)).getD 0
      s.haltGroup w.core w.group ⟨0x14, w.vw, 0, m, m, pc, w.words, false, false, none⟩) s2

/-- Assignment in ring order: each entry to the earliest waiting lane, while the queue is open (R259); the waiters of a queue marked
ERROR are halted by `State.haltErrors`. -/
def State.assignTo (s : State) (cl no : Nat) : List Waiter → State
  | [] => s
  | w :: ws =>
    match s.qrec cl no with
    | none => s
    | some r =>
      if r.closed || r.error || r.queued == 0 then s
      else if s.poisoned (r.slotAt r.head) 32 then s.errorQueue cl no
      else
        let s0 := s.strayBytes (r.slotAt r.head) 32
        let e := s0.entryAt (r.slotAt r.head)
        let s1 := s0.modRec cl no fun q => { q with head := q.head + 1, waiters := q.waiters.drop 1 }
        let s2 := s1.modLane w.core w.group w.lane fun l => l.takeEntry w.d w.words e (r.at 0)
        State.assignTo s2.moved cl no ws

/-- Assignment at a record. -/
def State.assign (s : State) (cl no : Nat) : State :=
  match s.qrec cl no with
  | none => s
  | some r => s.assignTo cl no r.waiters

/-- Closing (R261): CLOSED is set and every waiting QPOP fails. -/
def State.closeQueue (s : State) (cl no : Nat) : State :=
  match s.qrec cl no with
  | none => s
  | some r =>
    let s1 := s.modRec cl no fun q => { q with closed := true, waiters := [] }
    (r.waiters.foldl (fun (s : State) w => s.modLane w.core w.group w.lane (Lane.popFails w.words)) s1).moved

/-- A LIVE decrement (R260), which closes an AUTOCLOSE queue that reaches 0 (R261). -/
def State.liveDown (s : State) (cl no : Nat) : State :=
  match s.qrec cl no with
  | none => s
  | some r =>
    let s1 := s.modRec cl no fun q => { q with live := q.live - 1 }
    if r.live - 1 == 0 && r.auto && !r.closed then s1.closeQueue cl no else s1

/-- The cluster of the vault that holds a flat address (R250). -/
def clusterAt (a : Nat) : Nat := (a - 2 ^ 30) / 2 ^ 22 / 16

/-- The loaded record of the queue whose header is at a flat address. -/
def State.recordAt (s : State) (home : Nat) : Option QRec :=
  (s.cluster (clusterAt home)).recs.find? fun r => r.at 0 == home

/-- A LIVE decrement in the header of a queue that is not loaded, whose fields are authoritative there (R257, R258, R260,
R261). (DEDUCED, log 86.) -/
def State.headerDown (s : State) (home : Nat) : State :=
  let s := s.strayBytes home 64
  let live := BitVec.ofNat 32 (s.num (home + 8) 4) - 1
  let fl := s.num (home + 0x12) 1
  let s1 := s.store (home + 8) (bytesOf 4 live.toNat)
  ((if live == 0 && bit fl 1 then s1.store (home + 0x12) [BitVec.ofNat 8 (setFld fl 0 1 1)] else s1).untagRange home 64).strayBytes
    home 64

/-- A LIVE decrement of the queue whose header is at a flat address, loaded or not (R260). (DEDUCED, log 86.) -/
def State.taskOver (s : State) (home : Nat) : State :=
  match s.recordAt home with
  | some r => s.liveDown (clusterAt home) r.no
  | none => s.headerDown home

/-- A lane gives up the task it holds (R260, R275). -/
def State.releaseTask (s : State) (core g l : Nat) : State :=
  match (s.group core g).bind fun x => x.lanes[l]? with
  | none => s
  | some x =>
    if x.task.hold then
      (s.modLane core g l fun y => { y with task := { y.task with hold := false } }).taskOver x.task.home
    else s

/-- A queue view (R256): else a queue instruction through it is a view fault. -/
def View.queueOk (v : View) (core : Nat) : Bool :=
  v.valid && v.ty == tyQUEUE && v.rank == 1 && v.hasR && v.hasW && v.space == spVAULT
    && bvFld v.base 32 7 / 16 == core % 384 / 64
    && isPow2 (v.extN 0) && 2 ≤ v.extN 0 && v.extN 0 ≤ 65536 && v.offset % 64 == 0

/-- What comes of naming a queue (R258): its record's number, a wait for a record, or a fault. -/
inductive QName where
  | ok (no : Nat) (s : State)
  | wait (s : State)
  | bad (c : Cause)

/-- One field of an entry written by the unit: the bytes beside it, and an error in them, stay. -/
def State.putField (s : State) (a : Nat) (bs : List Byte) : State := ((s.store a bs).untagRange a bs.length).strayBytes a bs.length

/-- The free park list through the LINK fields of slots j to PARKN − 1 (R258, R281). -/
def State.linkParks (s : State) (r : QRec) : Nat → Nat → State
  | _, 0 => s
  | j, n + 1 =>
    State.linkParks (s.putField (r.parkAt j + 6) (bytesOf 2 (if n == 0 then 0 else j + 2))) r (j + 1) n

/-- The slots of the free park list (R258, R281), over at most `n` links from slot index + 1. -/
def State.freeParks (s : State) (r : QRec) : Nat → Nat → List Nat
  | 0, _ => []
  | _, 0 => []
  | k + 1, n + 1 => k :: State.freeParks s r (entryLink (s.entryAt (r.parkAt k))) n

/-- The record's number written into HOME of the entry at a flat address (R288). -/
def State.putHome (s : State) (no a : Nat) : State := s.putField (a + 4) [BitVec.ofNat 8 no]

/-- At its load the unit writes the record's number into HOME of every ring entry from HEAD to TAIL and of every occupied
park slot (R288): those off the free list. -/
def State.writeHomes (s : State) (r : QRec) : State :=
  let ring := (upFrom 0 r.queued).map fun k => r.slotAt (r.head + BitVec.ofNat 32 k)
  let free := s.freeParks r r.pfree r.parkn
  let parks := if r.parked == 0 then [] else ((upFrom 0 r.parkn).filter fun k => !free.contains k).map r.parkAt
  (ring ++ parks).foldl (fun (s : State) a => s.putHome r.no a) s

/-- The record of the queue a view names, loaded if it is not (R258, R288). A vault that is no longer in the partition's grant
fails the load checks before anything of it is read (R258, R335). -/
def State.nameQueue (s : State) (core part vw : Nat) (v : View) : QName :=
  if !v.queueOk core then .bad (.view vw)
  else
    let cl := clusterOfCore core
    let vault := dieOfCore core * 96 + bvFld v.base 32 7
    let recs := (s.cluster cl).recs
    if (s.cluster cl).frozen then .wait s
    else
    match recs.find? fun r => r.vault == vault && r.base == v.offset with
    | some r =>
      if r.cap != v.extN 0 || r.error then .bad (.queue vw)
      else if !s.firewall part (r.at 0) then .wait (s.freezeQueues cl part (r.at 0))
      else .ok r.no (s.modRec cl r.no fun q => { q with users := if q.users.contains core then q.users else core :: q.users })
    | none =>
      match lowestFree (recs.map (·.no)) 64 with
      | none => .wait s
      | some no =>
        let a := 2 ^ 30 + vault * 2 ^ 22 + v.offset
        if !s.firewall part a then .bad (.queue vw)
        else if s.poisoned a 64 then .bad (.clusterError vw)
        else
        let s := s.strayBytes a 64
        let fl := s.num (a + 0x12) 1
        let r : QRec := ⟨no, vault, v.offset, v.extN 0, BitVec.ofNat 32 (s.num a 4), BitVec.ofNat 32 (s.num (a + 4) 4),
          BitVec.ofNat 32 (s.num (a + 8) 4), s.num (a + 0xC) 4, s.num (a + 0x10) 2, bit fl 0, bit fl 1, bit fl 2,
          s.num (a + 0x14) 4, [], [core], part⟩
        if r.cap < r.queued || r.parkn < r.parked || r.parkn < r.pfree || fl / 8 != 0 || s.num (a + 0x13) 1 != 0
            || s.num (a + 0x18) 0x28 != 0 || 3 * 2 ^ 20 < v.offset + 64 + 32 * (r.cap + r.parkn) || r.error then
          .bad (.queue vw)
        else
          let s1 := if r.parked == 0 && r.pfree == 0 then s.linkParks r 0 r.parkn else s
          let r1 := if r.parked == 0 && r.pfree == 0 && 0 < r.parkn then { r with pfree := 1 } else r
          let s2 := s1.writeHomes r1
          let c := s2.cluster cl
          .ok no (s2.setCluster { c with recs := c.recs ++ [r1] })

/-- The 64 bytes of a header (R257). -/
def QRec.header (r : QRec) : List Byte :=
  bytesOf 4 r.head.toNat ++ bytesOf 4 r.tail.toNat ++ bytesOf 4 r.live.toNat ++ bytesOf 4 r.parked ++ bytesOf 2 r.parkn
    ++ bytesOf 1 (b2n r.closed + 2 * b2n r.auto + 4 * b2n r.error) ++ bytesOf 1 0 ++ bytesOf 4 r.pfree ++ bytesOf 0x28 0

/-- Write-back of a record that no team uses, and its freeing when nothing is parked (R258). -/
def State.retire (s : State) (cl : Nat) (r : QRec) : State :=
  if !r.users.isEmpty then s
  else
    let s1 := ((s.store (r.at 0) r.header).untagRange (r.at 0) 64).strayBytes (r.at 0) 64
    if r.parked == 0 then
      let c := s1.cluster cl
      (s1.setCluster { c with recs := c.recs.filter fun q => q.no != r.no }).moved
    else s1

/-- A team on `core` stops using the cluster's records (R258): its waiting lanes leave, and records without users are
written back. -/
def State.dropUser (s : State) (core : Nat) : State :=
  let cl := clusterOfCore core
  let used := (s.cluster cl).recs.filter fun r => r.users.contains core
  used.foldl (fun (s : State) r =>
    let s1 := s.modRec cl r.no fun q =>
      { q with users := q.users.filter (· != core), waiters := q.waiters.filter fun w => w.core != core }
    match s1.qrec cl r.no with
    | none => s1
    | some q => s1.retire cl q) s

/-- QPOP of one lane at record `no` (R275), the waiting at the unit included; assignment follows. -/
def State.popLane (s : State) (core g l no words vw : Nat) (d : Fin 64) : State :=
  let cl := clusterOfCore core
  let s1 := s.releaseTask core g l
  match s1.qrec cl no with
  | none => s1
  | some r =>
    if r.closed then s1.modLane core g l (Lane.popFails words)
    else
      let s2 := s1.modRec cl no fun q => { q with waiters := q.waiters ++ [⟨core, g, l, d, words, vw⟩] }
      (s2.modLane core g l fun x => { x with wait := .qpop no }).assign cl no

/-- The entry that QSPAWN places (R277). -/
def spawnEntry (no : Nat) (e : List Word) : List Word :=
  modifyNth (fun w => BitVec.ofNat 32 (fld w.toNat 0 24)) 0
    (modifyNth (fun w => BitVec.ofNat 32 (fld w.toNat 8 2 * 256 + no)) 1 e)

/-- Entries placed from TAIL on (R277). -/
def State.placeAll (s : State) (r : QRec) : Word → List (List Word) → State
  | _, [] => s
  | n, e :: es => State.placeAll (s.putEntry (r.slotAt n) (spawnEntry r.no e)) r (n + 1) es

/-- A task put at TAIL of its home queue (R263, R281, R282). -/
def State.requeue (s : State) (cl : Nat) (r : QRec) (e : List Word) : State :=
  (s.putEntry (r.slotAt r.tail) e).modRec cl r.no fun q => { q with tail := q.tail + 1 }

/-- A future cell (R262). -/
structure FCell where
  value   : Word64
  st      : Nat
  qrec    : Nat
  waiters : Nat
  whead   : Nat
  deriving DecidableEq, Repr

/-- The cell at a flat address, and its writing back, which untags its line as `State.putEntry` does. -/
def State.fcell (s : State) (a : Nat) : FCell :=
  let w := s.num (a + 8) 4
  ⟨BitVec.ofNat 64 (s.num a 8), fld w 30 2, fld w 24 6, fld w 0 16, s.num (a + 0xC) 4⟩
def State.putCell (s : State) (a : Nat) (c : FCell) : State :=
  (s.store a (bytesOf 8 c.value.toNat ++ bytesOf 4 (c.st * 2 ^ 30 + c.qrec * 2 ^ 24 + c.waiters) ++ bytesOf 4 c.whead)).untagRange a 16

/-- The lane after a squash (R281): the checkpoint restored, the latches empty. -/
def Lane.squashed (l : Lane) : Lane :=
  match l.task.check with
  | none => { l with task := { l.task with hold := false }, latches := [], chain := 0 }
  | some c =>
    { l with pc := c.pc, stack := c.stack, spill := c.spill, latches := [], chain := 0,
             task := { l.task with hold := false } }

/-- What a squash or a fill comes to (R281, R282): a fault, which changes nothing but marks a queue with an error, a wait, or the
machine after it. -/
inductive TaskEnd where
  | bad (c : Cause) (s : State)
  | wait
  | done (s : State)

/-- A squash of the task `t` at the cell `a` (R281); the lane itself is changed by the caller. An error in the park slot that it
would take marks the queue ERROR (R269). -/
def State.squash (s : State) (cl a vw : Nat) (t : List Word) : TaskEnd :=
  match s.qrec cl (entryHome t) with
  | none => .bad (.queue vw) s
  | some r =>
    if r.error then .bad (.queue vw) s
    else if entryDep t == 255 then .bad (.future vw) s
    else
      let c := s.fcell a
      if (0 < c.waiters && entryHome t != c.qrec) || r.pfree == 0 then
        if 1 ≤ r.free then .done ((s.requeue cl r (entrySet t 1 11 1 1)).assign cl r.no) else .wait
      else
        let j := r.pfree - 1
        if s.poisoned (r.parkAt j) 32 then .bad (.clusterError vw) (s.errorQueue cl r.no)
        else
        let s := s.strayBytes (r.parkAt j) 32
        let next := entryLink (s.entryAt (r.parkAt j))
        let e := entrySet (entrySet t 0 24 8 (entryDep t + 1)) 1 16 16 c.whead
        let s1 := (s.putEntry (r.parkAt j) e).modRec cl r.no fun q => { q with pfree := next, parked := q.parked + 1 }
        .done (s1.putCell a { c with whead := j + 1, waiters := c.waiters + 1, qrec := r.no })

/-- A fill's walk of the wait list from a park slot's number (R263, R282), over at most `n` waiters. -/
def State.wake (s : State) (cl no : Nat) : Nat → Nat → State
  | _, 0 => s
  | 0, _ => s
  | k + 1, n + 1 =>
    match s.qrec cl no with
    | none => s
    | some r =>
      let s := s.strayBytes (r.parkAt k) 32
      let e := s.entryAt (r.parkAt k)
      let dep := (entryDep e + 255) % 256
      let e1 := entrySet e 0 24 8 dep
      let s1 :=
        if dep == 0 then
          let s2 := s.requeue cl r (entrySet (entrySet e1 1 16 16 0) 1 11 1 1)
          let s3 := s2.putEntry (r.parkAt k) (entrySet e1 1 16 16 r.pfree)
          s3.modRec cl no fun q => { q with pfree := k + 1, parked := q.parked - 1 }
        else s.putEntry (r.parkAt k) e1
      State.wake s1 cl no (entryLink e) n

/-- Whether the walk meets a park slot with an uncorrectable error (R269). -/
def State.walkBad (s : State) (r : QRec) : Nat → Nat → Bool
  | _, 0 => false
  | 0, _ => false
  | k + 1, n + 1 => s.poisoned (r.parkAt k) 32 || State.walkBad s r (entryLink (s.entryAt (r.parkAt k))) n

/-- A lane that waits in FREAD for the cell at `a` receives its value (R272, R280). -/
def Lane.readCell (a : Nat) (value : Word64) (l : Lane) : Lane :=
  match l.wait with
  | .fread b words d =>
    if a == b then { (l.setPair d value) with pc := l.pc + BitVec.ofNat 32 words, wait := .none } else l
  | _ => l

/-- The lanes that wait in FREAD for the cell at `a` receive its value. -/
def State.wakeReaders (s : State) (a : Nat) (value : Word64) : State :=
  { s with cores := s.cores.map fun c =>
      { c with team := c.team.map fun t =>
          { t with groups := t.groups.map fun g => { g with lanes := g.lanes.map (Lane.readCell a value) } } } }

/-- FFILL at the cell `a` (R282). A fill that passes on parked tasks needs their queue free of errors (R269, R287). -/
def State.fill (s : State) (cl a vw : Nat) (value : Word64) : TaskEnd :=
  let c := s.fcell a
  let r := s.qrec cl c.qrec
  if 2 ≤ c.st || (0 < c.waiters && r.isNone) then .bad (.future vw) s
  else if c.st == 1 then .bad (.doubleFill vw) s
  else if 0 < c.waiters && (r.map (·.error)).getD false then .bad (.queue vw) s
  else if (r.map fun r => s.walkBad r c.whead c.waiters).getD false then .bad (.clusterError vw) (s.errorQueue cl c.qrec)
  else
    let s1 := s.putCell a { c with value := value, st := 1, waiters := 0, whead := 0 }
    let s2 := s1.wake cl c.qrec c.whead c.waiters
    let s3 := s2.assign cl c.qrec
    let s4 := match s3.qrec cl c.qrec with
      | none => s3
      | some r => s3.retire cl r
    .done (s4.wakeReaders a value).moved

end Sys2Proof.Machine
end

