-- ==== Sys2Proof/Machine/Remote.lean ====
section
/-!
DEFINITION. Outbound traffic to peer packages and to the host (spec/19_fabric.md R360, R361, R370, R371, R376): streams,
requests, and what comes of a package that no port reaches.
-/
namespace Sys2Proof.Machine

/-- The numbers of the ports that are up. -/
def State.upPorts (s : State) : List Nat := placesFrom (fun _ (p : Port) => p.up) 0 s.ports

/-- The port that carries the streams to a package: the package id mod the number of up ports (R371). -/
def State.portFor (s : State) (pkg : Nat) : Option Nat :=
  match s.upPorts with
  | [] => none
  | ps => ps[pkg % ps.length]?

/-- The outbound stream of a partition to a package. -/
def State.outStream (s : State) (part pkg : Nat) : Option Stream :=
  s.streams.find? fun x => !x.inbound && x.part == part && x.pkg.toNat == pkg

/-- What comes of a send to a package (R371, R376): it goes out on a port, it waits for the stream to move or to be
released, or the package cannot be reached. -/
inductive Reach where
  | port (n : Nat)
  | wait
  | none
  deriving DecidableEq, Repr

/-- Whether a partition can send to a package now (R371, R376): a sealed partition sends only under a key. -/
def State.reach (s : State) (part pkg : Nat) : Reach :=
  let isSealed := ((s.part part).map (·.isSealed)).getD false
  match s.portFor pkg, s.outStream part pkg with
  | none, _ => .none
  | some p, none => if isSealed then .none else .port p
  | some p, some x =>
    if isSealed && x.key.isNone then .none
    else if x.frozen || x.nextKey.isSome || x.port != p then .wait
    else .port p

/-- The count of a stream after one flit: G rises as SEQ wraps (R371). -/
def Stream.next (x : Stream) : Stream :=
  { x with seq := x.seq + 1, gen := if x.seq == 0xFFFFFFFF then x.gen + 1 else x.gen }

/-- A flit sent on the stream of a partition to a package: its count advances; the first flit begins the stream. -/
def State.sent (s : State) (part pkg port : Nat) : State :=
  match s.outStream part pkg with
  | none => { s with streams := s.streams ++ [⟨false, part, BitVec.ofNat 16 pkg, port, 0, 1, none, none, false⟩] }
  | some _ =>
    { s with streams := s.streams.map fun (x : Stream) =>
        if !x.inbound && x.part == part && x.pkg.toNat == pkg then x.next else x }

/-! ## The flits that the package sends (R369, R370) -/

/-- What a flit carries beside the fields of its stream. -/
structure OutFlit where
  type   : Nat
  stook  : Bool
  poison : Bool
  tag    : Word
  body   : List Byte
  deriving DecidableEq, Repr

/-- Bytes filled up with zeros to `n`. -/
def padTo (n : Nat) (bs : List Byte) : List Byte := (bs ++ List.replicate (n - bs.length) 0).take n

/-- Bytes 0 to 15 of a flit (R369). -/
def flitHead (enc : Bool) (src : Nat) (seq : Word) (credit : BitVec 16) (x : OutFlit) : List Byte :=
  bytesOf 1 x.type ++ bytesOf 1 (b2n enc + 2 * b2n x.stook + 4 * b2n x.poison) ++ bytesOf 2 src ++ bytesOf 4 seq.toNat
    ++ bytesOf 2 x.body.length ++ bytesOf 2 credit.toNat ++ bytesOf 4 x.tag.toNat

/-- The 256 bytes of a flit (R369): under a key its payload is sealed and its tag stands in GTAG (R371). -/
def flitBytes (key : Option Nat) (count src : Nat) (seq : Word) (credit : BitVec 16) (x : OutFlit) : List Byte :=
  let head := flitHead key.isSome src seq credit x
  let plain := padTo 208 x.body
  let rest := match key with
    | none => plain ++ List.replicate 16 0
    | some k => (upFrom 0 224).map (Config.gcmByte k count (head ++ plain))
  head ++ rest ++ bytesOf 8 (Config.crc64 (head ++ rest)).toNat ++ List.replicate 8 0

/-- A flit sent on a port. -/
def State.emit (s : State) (port type : Nat) (bytes : List Byte) : State :=
  { s with outbox := s.outbox ++ [⟨1, type, port, bytes⟩] }

/-- A flit of no partition's stream: CAPABILITY, TIME, and the refusal of a launch packet without a tenant. -/
def State.sendFlit (s : State) (port : Nat) (x : OutFlit) : State :=
  s.emit port x.type (flitBytes none 0 0 0 (Config.credits port s.outbox.length) x)

/-- A flit sent on the stream of a partition to a package, under the stream's key and with its count. -/
def State.sendOn (s : State) (part pkg port : Nat) (x : OutFlit) : State :=
  let y := (s.outStream part pkg).getD ⟨false, part, 0, port, 0, 0, none, none, false⟩
  (s.sent part pkg port).emit port x.type
    (flitBytes y.key (y.gen.toNat * 2 ^ 32 + y.seq.toNat) part y.seq (Config.credits port s.outbox.length) x)

/-- A response: sent, or waiting for its stream to move or to be rekeyed; one that may not be sent in clear and has no key is
not sent (R371, R376). -/
def State.answer (s : State) (r : Reply) : State :=
  match s.reach r.part r.pkg.toNat with
  | .port p => s.sendOn r.part r.pkg.toNat p ⟨r.type, false, r.poison, r.tag, r.body⟩
  | .wait => { s with replies := s.replies ++ [r] }
  | .none => s

/-- The responses that wait are tried again, in their order. -/
def State.flushReplies (s : State) : State := s.replies.foldl (fun (s : State) r => s.answer r) { s with replies := [] }

/-- A run of `n` bytes from an address in parts of at most `size`. -/
def runParts (size a n : Nat) : List (Nat × Nat) :=
  (upFrom 0 (ceilDiv n size)).map fun k => (a + size * k, min size (n - size * k))

/-- The package of a peer's flat address, and its virtual address there. -/
def peerPkg (a : Nat) : Nat := (a - 2 ^ 60) / 2 ^ 48
def peerVa (a : Nat) : Nat := (a - 2 ^ 60) % 2 ^ 48

/-! ## Requests -/

/-- An outstanding request added, under a tag. -/
def State.addRequest (s : State) (tag : Word) (toHost atomic : Bool) (pkg part : Nat) (addrs : List Nat) (x : ReqAgent) : State :=
  { s with
    requests := s.requests ++ [⟨tag, toHost, BitVec.ofNat 16 pkg, part, atomic, addrs, x⟩]
    nextTag := s.nextTag + 1
    progress := s.progress + 1 }

/-- A request to a peer: its flit sent, its answer waited for (R370). -/
def State.request (s : State) (type part pkg port : Nat) (stook : Bool) (body : List Byte) (addrs : List Nat) (x : ReqAgent) :
    State :=
  (s.sendOn part pkg port ⟨type, stook, false, s.nextTag, body⟩).addRequest s.nextTag false (type == 0x04) pkg part addrs x

/-- Whether a request is outstanding for an agent. -/
def State.asked (s : State) (x : ReqAgent) : Bool := s.requests.any fun r => r.agent == x

/-- Whether a release to PEER memory by a core's team must wait for ACKs (R377 note 5); a copy's bytes are released by what waits
for the copy (note 7). -/
def State.unacked (s : State) (core : Nat) : Bool :=
  s.requests.any fun r => match r.agent with
    | .write c => c == core
    | .read _ _ => false
    | .sent _ _ => false
    | .add _ _ _ _ => false
    | .fill _ _ _ => false
    | .access _ _ _ _ => false

/-- Whether bytes of a copy are on their way to a peer and not acknowledged (R373). -/
def State.copyOut (s : State) (c : Copy) : Bool :=
  s.requests.any fun r => match r.agent with
    | .sent k no => k == c.core && no == c.no
    | .add k no _ _ => k == c.core && no == c.no
    | .write _ => false
    | .read _ _ => false
    | .fill _ _ _ => false
    | .access _ _ _ _ => false

/-- The lowest of the host port's 10-bit tags that no request holds (R358). -/
def State.hostTag (s : State) : Option Word :=
  (lowestFree ((s.requests.filter (·.toHost)).map (·.tag.toNat)) 1024).map (BitVec.ofNat 32)

/-- What comes of asking for bytes beyond the package. -/
inductive Ask where
  | sent (s : State)
  | wait
  | unreachable

/-- A read, or the atomic whose code and operands are given, sent to the host or to a peer (R360, R370), a read of a peer in parts
of at most 192 bytes. (DEDUCED, log 25.) -/
def State.askMore (s : State) (part : Nat) (atomic : Option (List Byte)) (a n : Nat) (x : ReqAgent) : Ask :=
  if isHost a then
    match s.hostTag with
    | some tag => .sent (s.addRequest tag true atomic.isSome 0 part (upFrom a n) x)
    | none => .wait
  else
    match s.reach part (peerPkg a) with
    | .none => .unreachable
    | .wait => .wait
    | .port p =>
      match atomic with
      | some ops => .sent (s.request 0x04 part (peerPkg a) p false (bytesOf 8 (peerVa a) ++ ops) (upFrom a n) x)
      | none => .sent ((runParts 192 a n).foldl (fun (s : State) y =>
          s.request 0x02 part (peerPkg a) p false (bytesOf 8 (peerVa y.1) ++ bytesOf 2 y.2) (upFrom y.1 y.2) x) s)

/-- As `State.askMore`, once for an agent. -/
def State.ask (s : State) (part : Nat) (atomic : Option (List Byte)) (a n : Nat) (x : ReqAgent) : Ask :=
  if s.asked x then .sent s else s.askMore part atomic a n x

/-- Whether nothing may be sent to a home now: its package's stream drains or is held (R371, R376). -/
def State.closedTo (s : State) (part a : Nat) : Bool := isPeer a && s.reach part (peerPkg a) == .wait

/-- The lines of this package's memory whose copies in the host are invalidated before the device writes them: those of TIER1
ranges that are exported through CXL.mem (R362). -/
def State.exportsLine (s : State) (l : Nat) : Option Part :=
  s.parts.find? fun p => (mapFrom (fun k e => RangeEntry.kind e == 1 && Config.exported p.id k &&
    match RangeEntry.flat e (bvFld e 32 32 * 2 ^ 16), RangeEntry.flat e (bvFld e 64 32 * 2 ^ 16) with
    | some lo, some hi => lo ≤ 64 * l && 64 * l < hi + 2 ^ 16
    | _, _ => false) 0 p.ranges).any id

/-- The back-invalidations of some lines before they are written (R362). -/
def State.backInvalidate (s : State) (ls : List Nat) : State :=
  if ls.isEmpty || !Config.cxlTrained then s
  else
    { s with outbox := s.outbox ++ ls.filterMap fun l =>
        if 2 ^ 40 ≤ 64 * l && 64 * l < 2 ^ 41 then
          (s.exportsLine l).map fun p => (⟨8, 0, p.id, bytesOf 8 (64 * l - 2 ^ 40)⟩ : Message)
        else none }

/-- Bytes written at a home beyond the package, or on it; `mask` names the bytes written, `stook` says that they are stook blocks.
Each WRITE to a peer carries at most 128 bytes and is outstanding until its ACK (R370); those to a package that no port reaches
are lost, and while its stream drains nothing is written (R376), for which the callers look. -/
def State.writeHome (s : State) (part : Nat) (x : ReqAgent) (a : Nat) (bs : List Byte) (mask : List Bool) (stook : Bool) : State :=
  if isPeer a then
    match s.reach part (peerPkg a) with
    | .port p =>
      (runParts 128 a bs.length).foldl (fun (s : State) y =>
        let b := (bs.drop (y.1 - a)).take y.2
        let m := (mask.drop (y.1 - a)).take y.2
        let addrs := (placesFrom (fun _ (x : Bool) => x) 0 m).map (y.1 + ·)
        if addrs.isEmpty then s
        else (s.storeMask y.1 b m).request 0x01 part (peerPkg a) p stook
          (bytesOf 8 (peerVa y.1) ++ bytesOf 16 ((placesFrom (fun _ (x : Bool) => x) 0 m).map (2 ^ ·) |>.foldr (· + ·) 0) ++ b)
          addrs x) s
    | _ => s
  else s.storeMask a bs mask

end Sys2Proof.Machine
end

