-- ==== Sys2Proof/Machine/Regions.lean ====
section
/-!
DEFINITION. Mapped regions (spec/16_die.md R293 to R298): the slots, fills, write-backs and what a lane access of a bound
view meets; TRANSLATE records (R304).
-/
namespace Sys2Proof.Machine

/-- The slot of a page (R293). -/
def Region.slotNo (r : Region) (page : Nat) : Nat := page % r.slots.length
def Region.slot (r : Region) (k : Nat) : Slot := nth ⟨.invalid, 0, none, none⟩ r.slots k

/-- The home of a virtual address of a region (R299). -/
def State.regionHome (s : State) (part : Nat) (r : Region) (va : Nat) (need : Need) : Walk :=
  if r.space == spPEER then .ok (peerAt r.pkg va) 7 7 false
  else
    match s.part part with
    | none => .bad 3 1
    | some p => translate s p (r.space == spHOST) va need

/-- The home of a virtual address whose granule stands in its slot (R203, R297): by the translation that the granule's fill obtained,
which the firewall checks (R335). -/
def State.slotHome (s : State) (part : Nat) (r : Region) (va : Nat) (need : Need) : Walk :=
  match (r.slot (r.slotNo (va / 4096))).trans with
  | none => s.regionHome part r va need
  | some (base, r1, r2) =>
    let a := base + va % 4096
    if !allows r1 need then .bad 2 0
    else if !allows r2 need then .bad 4 1
    else if s.firewall part a then .ok a r1 r2 false
    else .bad wallCause a

/-- Whether traffic to a flat address may begin now: DRAM traffic waits through the guard and the slot (R310), and for its
channel (R305). -/
def State.mayBegin (s : State) (a : Nat) : Bool := !isDram a || (s.phase == .running && s.channelReady a)

/-- Whether traffic to `n` bytes from a flat address may begin: consecutive 256-byte units lie in different channels (R305). -/
def State.mayBeginAll (s : State) (a n : Nat) : Bool :=
  (upFrom (a / 256) ((a + n - 1) / 256 - a / 256 + 1)).all fun k => s.mayBegin (256 * k)

/-- The machine with a slot changed. -/
def State.modSlot (s : State) (core id k : Nat) (f : Slot → Slot) : State :=
  s.modRegion core id fun r => { r with slots := modifyNth f k r.slots }

/-- A region of a core's team. -/
def State.region (s : State) (core id : Nat) : Option Region :=
  (s.team core).bind fun t => t.regions.find? fun r => r.id == id

/-- The mask bits of the 4096 bytes of slot k (R293). -/
def State.slotMask (s : State) (core : Nat) (r : Region) (k : Nat) : List Bool :=
  ((s.read (r.maskAt core + 512 * k) 512).map fun b => (upFrom 0 8).map fun i => bit b.toNat i).flatten

/-- Marks n data bytes of slot k dirty, from page offset o, or clean. -/
def State.setMask (s : State) (core : Nat) (r : Region) (k o : Nat) (dirty : Bool) : Nat → State
  | 0 => s
  | n + 1 =>
    let a := r.maskAt core + 512 * k + o / 8
    let b := setFld (s.num a 1) (o % 8) 1 (b2n dirty)
    State.setMask (s.store a [BitVec.ofNat 8 b]) core r k (o + 1) dirty n

/-- Whether any mask bit of the slot is set. -/
def State.maskAny (s : State) (core : Nat) (r : Region) (k : Nat) : Bool :=
  (s.read (r.maskAt core + 512 * k) 512).any (· != 0)

/-- Bytes stored at a home as a plain write or a unit's copy: tags of the lines go (R266). -/
def State.homeStore (s : State) (a : Nat) (bs : List Byte) : State := (s.store a bs).untagRange a bs.length

/-- The 4 KiB pages that one lane's logged access of an entry reads or writes through its view (R186, R204). -/
def LogEntry.spans (e : LogEntry) (x : LaneAccess) : List Nat :=
  let cs := x.coords.map (·.toNat)
  let v := e.view
  if v.planed then
    let n := match e.instr with
      | .pld p => p.n.val + 1 + b2n (p.rnp && p.n.val < 3)
      | _ => 4
    (upFrom 0 (n + 1)).map fun k => v.granuleAt cs k / 4096
  else [(v.offset + rowOffset (cs.take (v.rank - 1)) (v.str.toList.map (·.toNat))
    + nth 0 cs (v.rank - 1) * (elemBits v.ty / 8)) / 4096]

/-- The pages that it touches of a mapped region. -/
def LogEntry.pages (e : LogEntry) (x : LaneAccess) : List Nat := if e.view.space == spCODE then [] else e.spans x

/-- The lanes of an entry that access a page of region `id`. -/
def LogEntry.lanesAt (e : LogEntry) (id page : Nat) : List Nat :=
  if e.view.region == some id then (e.lanes.filter fun x => (e.pages x).contains page).map (·.lane) else []

/-- The dirty bytes of [o, o + n) of slot k written home, with byte enables and their poison (R314), the host's copies of their
lines invalidated before (R362); free values where another view has touched the slot's storage (R295). -/
def State.sendDirty (s : State) (core : Nat) (r : Region) (k o : Nat) (home : Nat) (n : Nat) : State :=
  let stray := r.strays.contains k
  let data := if stray then (s.drawn n).1 else s.read (r.dataAt core + 4096 * k + o) n
  let mask := ((s.slotMask core r k).drop o).take n
  let part := ((s.team core).map (·.part)).getD 0
  let lines := (linesOf home n).filter fun l => (upFrom (64 * l) 64).any fun a => home ≤ a && nth false mask (a - home)
  let s1 := ((if stray then (s.drawn n).2 else s).backInvalidate lines).writeHome part (.write core) home data mask false
  if !mask.any id then s1
  else ((s1.carryPoison (r.dataAt core + 4096 * k + o) home n mask).reportCut part home false).noteBy core
    (placesFrom (fun _ b => b) 0 mask |>.map (home + ·))

/-- A TRANSLATE record (R304) of a group's unit or, where none is named, of a unit acting for the team. -/
def translateRecord (s : State) (core : Nat) (t : Team) (g : Option Group) (pc : Word) (lanes : BitVec 64)
    (cause stage : Nat) (write : Bool) (vw va : Nat) (fetch : Bool) : Record :=
  { Record.ofKind 0x0D with
    stage := (g.map (·.stage)).getD 0, group := (g.map (·.index)).getD 0, core := core, part := t.part, seq := t.seq,
    pc := pc, lanes := lanes,
    detail := BitVec.ofNat 32 (cause + 256 * b2n write + 512 * stage + 2 ^ 24 * vw + 2 ^ 30 * b2n fetch),
    teamNo := teamWord (s.recordOf t) t.number, extra := BitVec.ofNat 64 va }

/-- Posts a TRANSLATE record and notes the agent that waits for its answer; an agent that waits already posts none. -/
def State.postTranslate (s : State) (part : Nat) (r : Record) (x : XAgent) : State :=
  match s.part part with
  | none => s
  | some p =>
    if p.xwaits.any fun w => w.agent == x then s
    else ((s.post part r).modPart part fun q =>
      { q with xwaits := q.xwaits ++ [⟨{ r with stamp := s.nextStamp, part := part }, x, ((s.issue.map (·.words)).getD 0), []⟩] }).moved

/-- Whether an agent waits for an answer. -/
def State.awaits (s : State) (part : Nat) (x : XAgent) : Bool :=
  ((s.part part).map fun p => p.xwaits.any fun w => w.agent == x).getD false

/-- The waiting agents of a region's write-back of slot k, whichever group waits. -/
def State.wbAwaits (s : State) (part core id k : Nat) : Bool :=
  ((s.part part).map fun p => p.xwaits.any fun w => match w.agent with
    | .writeBack c r i _ => c == core && r == id && i == k
    | _ => false).getD false

/-- A group's unit noted to wait for slot k's write-back, which waits for the driver's answer (R304). -/
def State.joinWriteBack (s : State) (part core id k : Nat) (grp : Option Nat) (pc : Word) (lanes : BitVec 64) : State :=
  match grp with
  | none => s
  | some gi =>
    let x : Forced := ⟨gi, pc, (s.issue.map (·.words)).getD 0, lanes⟩
    s.modPart part fun p => { p with xwaits := p.xwaits.map fun w => match w.agent with
      | .writeBack c r i g =>
        if c == core && r == id && i == k && !w.also.contains x
            && !(g == grp && w.record.pc == pc && w.words == x.words && w.record.lanes == lanes) then
          { w with also := w.also ++ [x] }
        else w
      | _ => w }

/-- Write-back of slot k for a group's unit, or for none (R293): whether the slot is now clean. A translation fault posts
a record and holds the slot; the guard and the slot of the calendar hold DRAM traffic. A frozen core writes nothing back (R298). -/
def State.writeBack (s : State) (core : Nat) (r : Region) (k : Nat) (grp : Option Nat) (pc : Word) (lanes : BitVec 64) :
    State × Bool :=
  let sl := r.slot k
  if sl.state != .dirty then (s, true)
  else if (s.core core).frozen then (s, false)
  else
    match s.team core with
    | none => (s, false)
    | some t =>
      if s.wbAwaits t.part core r.id k then (s.joinWriteBack t.part core r.id k grp pc lanes, false)
      else
        let va := 4096 * sl.page
        match s.regionHome t.part r va 2 with
        | .bad c g =>
          if c == waitCause then (s, false)
          else if c == wallCause then (s.freezeCore core t.part g, false)
          else
          let rec_ := translateRecord s core t (grp.bind fun i => t.groups[i]?) pc lanes c g true r.view va false
          (s.postTranslate t.part rec_ (.writeBack core r.id k grp), false)
        | .ok a r1 r2 sld =>
          if !s.mayBeginAll a 4096 || s.closedTo t.part a then (s, false)
          else
            let s1 := (s.cache t.part va (.ok a r1 r2 sld)).sendDirty core r k 0 a 4096
            let s2 := s1.store (r.maskAt core + 512 * k) (List.replicate 512 0)
            (s2.modSlot core r.id k fun x => { x with state := .clean }, true)

/-- Write-back of slots k to k + n − 1 of a region; whether all are clean. -/
def State.writeBackRegion (s : State) (core id : Nat) (grp : Option Nat) (pc : Word) (lanes : BitVec 64) :
    Nat → Nat → State × Bool
  | _, 0 => (s, true)
  | k, n + 1 =>
    match s.region core id with
    | none => (s, true)
    | some r =>
      let (s1, ok) := s.writeBack core r k grp pc lanes
      let (s2, ok2) := State.writeBackRegion s1 core id grp pc lanes (k + 1) n
      (s2, ok && ok2)

/-- Write-back of every dirty slot of the given regions (R296, R297, R298). -/
def State.writeBackAll (s : State) (core : Nat) (grp : Option Nat) (pc : Word) (lanes : BitVec 64) :
    List Region → State × Bool
  | [] => (s, true)
  | r :: rs =>
    let (s1, ok) := s.writeBackRegion core r.id grp pc lanes 0 r.slots.length
    let (s2, ok2) := State.writeBackAll s1 core grp pc lanes rs
    (s2, ok && ok2)

/-- The regions of a core's team. -/
def State.regions (s : State) (core : Nat) : List Region := ((s.team core).map (·.regions)).getD []

/-- The release of R297 at DIE scope or wider: every dirty slot of the team written back. (DEDUCED, log 30.) -/
def State.flushTeam (s : State) (core : Nat) (grp : Option Nat) (pc : Word) (lanes : BitVec 64) : State × Bool :=
  s.writeBackAll core grp pc lanes (s.regions core)

/-- What was asked of the host or a peer for the fills of a core's regions is no longer waited for: the fills ask again
(R296, R297). -/
def State.dropFills (s : State) (core : Nat) (mine : Nat → Bool) : State :=
  { s with requests := s.requests.filter fun r => match r.agent with
    | .fill c id _ => !(c == core && mine id)
    | .access _ _ _ _ => true
    | .write _ => true
    | .read _ _ => true
    | .sent _ _ => true
    | .add _ _ _ _ => true }

/-- Every clean slot of the team's regions invalid (R297, after an acquire at DIE scope or wider, whose write-backs come
first); a fill that is in progress reads its home after this. -/
def State.invalidate (s : State) (core : Nat) : State :=
  (s.dropFills core fun _ => true).modTeam core fun t =>
    { t with regions := t.regions.map fun r => { r with slots := r.slots.map fun x =>
        if x.state == .dirty then x else { x with state := .invalid } } }

/-- What an access through a bound view meets in its slot (R293). -/
inductive Touch where
  | hit (a : Nat) (s : State)
  | fill (s : State)
  | hold (s : State)

/-- A lane access at virtual address `va` of a region: the data area's flat address; or a fill to wait for, which this
begins; or a slot that is busy with another fill or with a write-back that waits for the driver's answer (R293, R304). A unit
whose conflict write-back must wait for the slot's end or a channel is logged with nothing begun (R310). -/
def State.touch (s : State) (core id va : Nat) (grp : Nat) (pc : Word) (lane : Nat) : Touch :=
  match s.region core id with
  | none => .hold s
  | some r =>
    let g := va / 4096
    let k := r.slotNo g
    let sl := r.slot k
    match sl.filling with
    | some p => if p == g then .fill s else .hold s
    | none =>
      let part := ((s.team core).map (·.part)).getD 0
      if sl.state != .invalid && sl.page == g then
        if s.wbAwaits part core id k then .hold s else .hit (r.dataAt core + 4096 * k + va % 4096) s
      else
        let (s1, ok) := s.writeBack core r k (some grp) pc (BitVec.ofNat 64 (2 ^ lane))
        if ok then .fill (s1.modSlot core id k fun x => { x with filling := some g })
        else if s1.wbAwaits part core id k || (s1.core core).frozen then .hold s1
        else .fill s1

/-- Bytes of slot k's granule landed in its data area from page offset o on, poisoned or not (R293, R314). -/
def State.landPart (s : State) (core id k o : Nat) (bytes : List Byte) (bad : Bool) : State :=
  match s.region core id with
  | none => s
  | some r =>
    let d := r.dataAt core + 4096 * k + o
    let s1 := s.homeStore d bytes
    if bad then s1.markPoison d bytes.length else s1

/-- The end of slot k's fill with page g (R293): the slot is CLEAN with its mask clear, and no other view has touched it since. -/
def State.landEnd (s : State) (core id k g : Nat) : State :=
  match s.region core id with
  | none => s
  | some r =>
    let s1 := s.store (r.maskAt core + 512 * k) (List.replicate 512 0)
    ((s1.modSlot core id k fun x => ⟨.clean, g, none, x.trans⟩).modRegion core id fun r =>
      { r with strays := r.strays.filter (· != k) }).moved

/-- The fill of slot k with a granule's bytes at once. -/
def State.landFill (s : State) (core id k g : Nat) (bytes : List Byte) (bad : Bool) : State :=
  (s.landPart core id k 0 bytes bad).landEnd core id k g

/-- The fill of slot k from its home (R293): whether it is complete. A translation fault posts a record for the entry that
waits (R304); a fill of DRAM waits through the guard and the slot (R310); one from the host or a peer is asked for and
completed by its answer (R360, R370). (DEDUCED, log 25.) -/
def State.fillSlotNow (s : State) (core id k : Nat) : State × Bool :=
  match s.team core, s.region core id with
  | some t, some r =>
    match (r.slot k).filling with
    | none => (s, false)
    | some g =>
      let va := 4096 * g
      let agent := XAgent.fill core id k
      if s.awaits t.part agent || s.asked (.fill core id k) then (s, false)
      else
        match s.regionHome t.part r va 1 with
        | .bad c gg =>
          if c == waitCause then (s, false)
          else if c == wallCause then (s.freezeCore core t.part gg, false)
          else
          let owner := t.groups.find? fun x => x.log.any fun e => !(e.lanesAt id g).isEmpty
          let e := owner.bind fun x => x.log.find? fun e => !(e.lanesAt id g).isEmpty
          let lanes := maskOf ((e.map fun e => e.lanesAt id g).getD [])
          let rc := translateRecord s core t owner ((e.map (·.place.pc)).getD 0) lanes c gg false
            ((e.map (·.vw)).getD r.view) va false
          (s.postTranslate t.part rc agent, false)
        | .ok a r1 r2 sld =>
          let s0 := s.modSlot core id k fun x => { x with trans := some (a, r1, r2) }
          if isHost a || isPeer a then
            match s0.ask t.part none a 4096 (.fill core id k) with
            | .sent s1 => (s1.cache t.part va (if isPeer a then .bad 0 0 else .ok a r1 r2 sld), false)
            | .wait => (s, false)
            | .unreachable => (s0.landFill core id k g ((upFrom 0 4096).map fun i => s.mem.get (a + i)) true, true)
          else if !s.mayBeginAll a 4096 then (s, false)
          else
            let s1 := (s0.cache t.part va (.ok a r1 r2 sld)).landFill core id k g (s.read a 4096) (s.cut a)
            ((s1.carryPoison a (r.dataAt core + 4096 * k) 4096 []).reportCut t.part a true, true)
  | _, _ => (s, false)

/-- Before an access is sent to the home (R203, R297): the dirty bytes of the 64-byte lines that [va, va + n) touches are
written back and their mask bits cleared; the slot becomes CLEAN when no mask bit is left. -/
def State.cleanLines (s : State) (core id va n home : Nat) : State :=
  match s.region core id with
  | none => s
  | some r =>
    let k := r.slotNo (va / 4096)
    let o := va % 4096 / 64 * 64
    let m := roundUp (va % 4096 + n) 64 - o
    let s1 := s.sendDirty core r k o (home - home % 64) m
    let s2 := s1.setMask core r k o false m
    if s2.maskAny core r k then s2
    else s2.modSlot core id k fun x => if x.state == .dirty then { x with state := .clean } else x

end Sys2Proof.Machine
end

