-- ==== Sys2Proof/Machine/Teams.lean ====
section
/-!
DEFINITION. What the lanes, groups and teams of a core wait for together, and how they end: SYNCL, RVZ and BARG (spec/05
R131, R132; spec/09 R208), BART (R209), crew barriers (spec/13 R252, R255; spec/14 R284), triggers and ends (spec/17 R326,
R329).
-/
namespace Sys2Proof.Machine

/-- Whether a lane counts as exited on the broadcast path (R93, R208, R272). -/
def Lane.away (l : Lane) : Bool :=
  l.exited || match l.wait with
  | .barg _ => true
  | .qpop _ => true
  | .fread _ _ _ => true
  | .none => false
  | .held => false
  | .syncl _ _ => false
  | .code _ => false
  | .retry _ => false
  | .refill => false

/-- Where a lane stands. -/
def Lane.place (l : Lane) : Place := ⟨l.inside.isSome, l.pc⟩

/-- Where a lane goes on (R93): past the SYNCL that it waits at, else where it stands. That the next PC of a lane at SYNCL is
the word past it while it still waits is the model's reading. (DEDUCED, log 13.) -/
def Lane.nextPlace (l : Lane) : Place :=
  match l.wait with
  | .syncl _ words => ⟨l.inside.isSome, l.pc + BitVec.ofNat 32 words⟩
  | _ => l.place

/-- The lane at the word after a unit. -/
def Lane.skip (words : Nat) (l : Lane) : Lane := { l with pc := l.pc + BitVec.ofNat 32 words, wait := .none }

/-- The lanes that have not exited. -/
def Group.alive (g : Group) : List Nat := placesFrom (fun _ (l : Lane) => !l.exited) 0 g.lanes

/-- A lane of a group by its number; beyond the width, an exited one. -/
def Lane.blank : Lane :=
  { v := Vector.replicate 64 0, p := Vector.replicate 4 false, pc := 0, latches := [], chain := 0, status := 0, fuel := 0,
    fuelLeft := 0, h0 := 0, h1 := 0, stack := [], spill := 0, loop := [], gen := 0, hi := Vector.replicate 6 0,
    exited := false, inside := none, wait := .none, excused := false, pending := [], bad := [],
    task := ⟨false, 0, 0, List.replicate 8 0, none, false⟩ }
def Group.lane (g : Group) (n : Nat) : Lane := nth { Lane.blank with exited := true } g.lanes n

/-- Whether the SYNCL of lane n with mask m may end (R132). -/
def Group.synclDone (g : Group) (n m : Nat) : Bool :=
  let base := if g.width == 64 then n / 32 * 32 else 0
  (upFrom 0 32).all fun i =>
    !bit m i || g.width ≤ base + i ||
      let j := g.lane (base + i)
      j.exited || (j.gen - (g.lane n).gen).toNat < 2 ^ 15

/-- Every SYNCL that may end ends (R132). -/
def Group.settleSyncl (g : Group) : Group :=
  { g with lanes := mapFrom (fun n l =>
      match l.wait with
      | .syncl m words => if g.synclDone n m then l.skip words else l
      | _ => l) 0 g.lanes }

/-- The lanes waiting at BARG. -/
def Group.bargIn (g : Group) : Nat :=
  (g.lanes.filter fun l => match l.wait with
    | .barg _ => true
    | _ => false).length

/-- The BARG episode ends when the arrivals reach the target, or no lane is left to arrive (R208). -/
def Group.settleBarg (g : Group) : Group :=
  match g.bargTo with
  | none => g
  | some t =>
    let n := g.bargIn
    if n != 0 && (t ≤ n || n == g.alive.length) then
      { g with bargTo := none, lanes := g.lanes.map fun l =>
          match l.wait with
          | .barg words => l.skip words
          | _ => l }
    else g

/-- The RVZ ends: the lanes at its place go on, and the broadcast PC with them (R131). -/
def Group.endRvz (g : Group) (r : Rvz) : Group :=
  { g with
    rvz := none
    place := ⟨r.place.bank, r.place.pc + BitVec.ofNat 32 r.words⟩
    lanes := g.lanes.map fun l =>
      let l1 := if !l.exited && l.place == r.place then { l.skip r.words with latches := [], chain := 0 } else l
      { l1 with excused := false } }

/-- While RVZ waits (R131): a lane that reaches it with a false guard goes on and is excused; the wait ends when every
non-exited lane is at it or excused. (DEDUCED, log 34.) -/
def Group.settleRvz (g : Group) : Group :=
  match g.rvz with
  | none => g
  | some r =>
    let g1 := { g with lanes := g.lanes.map fun (l : Lane) =>
      if !l.exited && l.place == r.place && !r.guard.holds l then { l.skip r.words with excused := true, latches := [], chain := 0 } else l }
    if g1.lanes.all fun l => l.exited || l.excused || l.place == r.place then g1.endRvz r else g1

/-- Whether every lane of the group has exited (R134). -/
def Group.allExited (g : Group) : Bool := g.lanes.all (·.exited)

/-- What a group's lanes wait for among themselves, settled after they moved. -/
def Group.settle (g : Group) : Group :=
  let g1 := g.settleSyncl.settleBarg.settleRvz
  if g1.allExited then { g1 with ended := true, triggered := true } else g1

/-- The whole group past a unit it waited at. -/
def Group.advance (words : Nat) (g : Group) : Group :=
  { g with
    wait := .none
    place := ⟨g.place.bank, g.place.pc + BitVec.ofNat 32 words⟩
    lanes := g.lanes.map fun l => if l.exited then l else l.skip words }

/-- The groups of a team that have not ended. -/
def Team.open_ (t : Team) : List Nat := placesFrom (fun _ (g : Group) => !g.ended) 0 t.groups

/-- BART completes when the arrivals reach the target, or every group that has not ended has arrived (R209;
DEDUCED, log 70). -/
def Team.settleBart (t : Team) : Team :=
  match t.bart with
  | none => t
  | some b =>
    if b.target ≤ b.arrived.length || t.open_.all b.arrived.contains then
      { t with bart := none, groups := t.groups.map fun g =>
          match g.wait with
          | .bart words => g.advance words
          | _ => g }
    else t

/-- The groups that wait at BARC on cell c go on (R284). -/
def Team.passBarc (t : Team) (c : Nat) : Team :=
  { t with barcIn := none, groups := t.groups.map fun g =>
      match g.wait with
      | .barc k words => if k == c then g.advance words else g
      | _ => g }

/-- The cell on which every group that has not ended has arrived (R284). -/
def Team.barcAll (t : Team) : Option Nat :=
  match t.open_.head? with
  | none => none
  | some i =>
    match (t.groups[i]?).map (fun (g : Group) => g.wait) with
    | some (.barc c _) =>
      if t.open_.all fun j => match (t.groups[j]?).map (fun (g : Group) => g.wait) with
        | some (.barc k _) => k == c
        | _ => false
      then some c else none
    | _ => none

/-- A cell in its start state but for EXPECT (R254). -/
def BarCell.zero : BarCell := ⟨false, 0, 0, 0, false⟩

/-- The crew of a team, as its cells are keyed (R254). -/
def State.crewOf (s : State) (core : Nat) (t : Team) : Option CrewCells :=
  (s.cluster (clusterOfCore core)).crews.find? fun x => x.part == t.part && x.seq == t.seq && x.crew == t.crewId

/-- The machine with the cells of a team's crew changed. -/
def State.modCells (s : State) (core : Nat) (t : Team) (f : Nat → BarCell → BarCell) : State :=
  let c := s.cluster (clusterOfCore core)
  s.setCluster { c with crews := c.crews.map fun x =>
    if x.part == t.part && x.seq == t.seq && x.crew == t.crewId then { x with cells := mapFrom f 0 x.cells } else x }

/-- Bytes of the team's tile-port out-queue entries into CLUSTER views not yet written (R255), given by the copies'
counts left. -/
def Team.clusterPending (t : Team) (left : Copy → Nat) : Nat :=
  (t.outq.map fun e => match e with
    | .copy c => if c.dst.space == spCLUSTER then left c else 0
    | .fence _ => 0).foldr (· + ·) 0

/-- The team's arrival at a crew's cell, or the completion at once for a crew of one (R255, R284). `left` counts a copy's
bytes not yet written. -/
def State.arriveBarc (s : State) (core : Nat) (left : Copy → Nat) : State :=
  match s.team core with
  | none => s
  | some t =>
    match t.barcAll with
    | none => s
    | some c =>
      if recCrew (s.recordOf t) == 1 then (s.modTeam core fun x => x.passBarc c).moved
      else if t.barcIn.isSome then s
      else
        match s.crewOf core t with
        | none => s
        | some x =>
          let n := t.clusterPending left
          if 2 ^ 36 ≤ (nth BarCell.zero x.cells c).pending + n then s
          else
            let s1 := s.modCells core t fun i b => if i == c then { b with arrived := b.arrived + 1, pending := b.pending + n } else b
            (s1.modTeam core fun (y : Team) => { y with barcIn := some c }).moved

/-- The bitmap byte of a team in DEVICE memory (R322). -/
def bitmapVa (r : LaunchBytes) (team : Nat) (ended : Bool) : Nat :=
  recVtab r + 0x2000 + (if ended then ceilDiv (recTeams r) 512 * 64 else 0) + team / 8

/-- The dispatcher's write of a TRIG or END bitmap byte from its on-chip state (R322, R304). What waits for its memory is written at
once (DEDUCED, log 98). -/
def State.writeBitmap (s : State) (part seq team : Nat) (ended : Bool) : State :=
  match s.part part with
  | none => s
  | some p =>
    match p.launch seq with
    | none => s
    | some l =>
      let va := bitmapVa l.record team ended
      let set := if ended then l.ended else l.trig
      let byte := ((upFrom 0 8).map fun i => if set.contains (team / 8 * 8 + i) then 2 ^ i else 0).foldr (· + ·) 0
      match walk s.served p false va 2 with
      | .ok a _ _ _ => (s.store a [BitVec.ofNat 8 (Nat.lor byte (s.num a 1))]).reportCut part a false
      | .bad c g =>
        let r := { Record.ofKind 0x0D with
          part := part, seq := seq, teamNo := teamWord l.record team,
          detail := BitVec.ofNat 32 (c + 256 + 512 * g), extra := BitVec.ofNat 64 va }
        s.postTranslate part r (.bitmap seq team ended)

/-- A team's TRIG bit set (R329), on chip and in the bitmap. -/
def State.setTrig (s : State) (part seq team : Nat) : State :=
  let s1 := s.modPart part fun p => p.modLaunch seq fun l =>
    if l.trig.contains team then l else { l with trig := team :: l.trig }
  s1.writeBitmap part seq team false

/-- A team's END bit set (R326). -/
def State.setEnd (s : State) (part seq team : Nat) : State :=
  let s1 := s.modPart part fun p => p.modLaunch seq fun l =>
    if l.ended.contains team then l else { l with ended := team :: l.ended }
  s1.writeBitmap part seq team true

/-- Whether every group of the team that has not ended is triggered (R329). -/
def Team.triggers (t : Team) : Bool := t.groups.all (·.triggered)

/-- Whether the accesses and the copies that the team's groups made before their TRIGs are performed (R329). -/
def State.earlierDone (s : State) (core : Nat) (t : Team) : Bool :=
  let bulk := (s.engines.map fun (e : Engine) => e.queues.flatten).flatten
  let copies := (t.inq ++ t.outq ++ bulk).filterMap fun x => match x with
    | .copy c => if c.core == core && c.part == t.part && c.seq == t.seq && c.team == t.number then some (c.group, c.no) else none
    | .fence _ => none
  (mapFrom (fun gi (g : Group) =>
    let before := fun (n : Nat) => match g.trigNo with
      | none => true
      | some k => decide (n < k)
    g.log.all (fun e => !before e.no) && copies.all fun c => c.1 != gi || !before c.2) 0 t.groups).all id

/-- The team triggers (R329), when its earlier accesses and its write-backs are done; whether they are. -/
def State.triggerTeam (s : State) (core : Nat) (grp : Option Nat) (pc : Word) (lanes : BitVec 64) : State × Bool :=
  match s.team core with
  | none => (s, true)
  | some t =>
    if !s.earlierDone core t then (s, false)
    else
      let (s1, ok) := s.flushTeam core grp pc lanes
      if ok then (s1.setTrig t.part t.seq t.number, true) else (s1, false)

/-- Whether a core's matrix unit and tile port work for its team: neither the core nor the partition is frozen, and the
team is not pre-empted (R190, R335, R338). -/
def State.enginesRun (s : State) (core : Nat) (t : Team) : Bool :=
  !(s.core core).frozen && !t.stopped && ((s.part t.part).map fun p => !p.halted).getD false

/-- After groups of a team may have ended (R134, R209, R284, R326, R329): the barriers that their end satisfies, the
trigger that it brings, and the end of the team, which a pre-emption in progress does not save any more (R331). -/
def State.afterEnds (s : State) (core : Nat) (left : Copy → Nat) : State :=
  match s.team core with
  | none => s
  | some t =>
    let s1 := s.modTeam core Team.settleBart
    let s2 := s1.arriveBarc core left
    if t.groups.all (·.ended) then
      match t.phase with
      | .runs => (s2.modTeam core fun (x : Team) => { x with phase := .ending false, stopped := false }).moved
      | _ => s2
    else
      match s.launchOf t with
      | none => s2
      | some l => if t.triggers && !l.trig.contains t.number then (s2.triggerTeam core none 0 0).1 else s2

/-- Every lane of a team that holds a task gives it up (R260). -/
def State.releaseTasks (s : State) (core : Nat) : State :=
  match s.team core with
  | none => s
  | some t =>
    (mapFrom (fun g (x : Group) => mapFrom (fun l (_ : Lane) => (g, l)) 0 x.lanes) 0 t.groups).flatten.foldl
      (fun (s : State) (gl : Nat × Nat) => s.releaseTask core gl.1 gl.2) s

/-- The outbound reads of a core's team are no longer waited for. -/
def State.dropRequests (s : State) (core : Nat) : State :=
  { s with requests := s.requests.filter fun r => match r.agent with
    | .fill c _ _ => c != core
    | .access c _ _ _ => c != core
    | .write _ => true
    | .read c _ => c != core
    | .sent _ _ => true
    | .add _ _ _ _ => true }

/-- The QFENCEs that the groups of a team wait at. -/
def Team.fences (t : Team) : List Nat :=
  t.groups.filterMap fun g => match g.wait with
    | .qfence id _ _ => some id
    | _ => none

/-- A handle that is discarded (R188): free, with nothing of its fill; FAULTED stays (R183). -/
def Handle.discarded (h : Handle) : Handle :=
  { h with state := .free, isSealed := false, pending := 0, expect := 0, arrived := 0, desc := none }

/-- A team as it is killed (R188, R317): its lanes have exited, nothing of it is queued, logged or halted, its handles and regions
are discarded. A pre-emption in progress does not save it (R331). -/
def Team.killed (t : Team) (p : TeamPhase) : Team :=
  { t with
    phase := p, stopped := false, handles := t.handles.map Handle.discarded, mq := [], inq := [], outq := [], follows := [], regions := [], bart := none
    groups := t.groups.map fun (g : Group) =>
      { g with ended := true, wait := .none, rvz := none, bargTo := none, halts := [], log := []
               lanes := g.lanes.map fun l => { l with exited := true, wait := .none } } }

/-- The bulk entries of a core's team cancelled, the markers of its QFENCEs with them (R188). -/
def State.dropBulk (s : State) (core : Nat) (t : Team) : State :=
  { s with engines := s.engines.map fun (e : Engine) =>
      { e with queues := e.queues.map fun (q : List CopyEntry) => q.filter fun (x : CopyEntry) => match x with
        | .copy c => !(c.core == core && c.part == t.part && c.seq == t.seq && c.team == t.number)
        | .fence n => !t.fences.contains n } }

/-- Whether the copy at the head of a bulk queue is a core's team's. -/
def State.heads (s : State) (core : Nat) (t : Team) (die e q : Nat) : Bool :=
  match (nth [] (s.engine die e).queues q).head? with
  | some (.copy c) => c.core == core && c.part == t.part && c.seq == t.seq && c.team == t.number
  | _ => false

/-- A team killed (R188, R298, R317): its lanes exit, queued entries are cancelled, its handles and regions discarded; its
core is released by TEAM_END. The halt-window slots of its groups free. A crew's cell keeps its arrival and the bytes it holds
PENDING. (DEDUCED, log 101.) -/
def State.killTeam (s : State) (core : Nat) : State :=
  match s.team core with
  | none => s
  | some t =>
    match t.phase with
    | .finished => s
    | _ =>
      let s1 := s.releaseTasks core
      let s3 := (s1.dropBulk core t).modPart t.part fun p =>
        { p with xwaits := p.xwaits.filter fun w => match w.agent with
          | .log c _ _ => c != core
          | .fill c _ _ => c != core
          | .code c _ => c != core
          | .tile c _ => c != core
          | .writeBack c _ _ _ => c != core
          | .image c => c != core
          | .bulk d e q => !s.heads core t d e q
          | .bitmap _ _ _ => true }
      let s4 := (s3.dropRequests core).modTeam core fun x => x.killed (.ending true)
      (s4.fillSlots t.part t.haltSlots.length).moved

end Sys2Proof.Machine
end

