-- ==== Sys2Proof/Machine/Unit.lean ====
section
/-!
DEFINITION. How an issue unit is executed by the lanes of its cohort or by a diverged lane alone: the checks of R106, R70
and R387 in their order, the latch chains (R52 to R55), what becomes of each lane's condition (R109), and what follows an
issue (R93, R134, R171). Each meaning calls one of `localUnit` (each lane acts on itself), `memUnit` (lanes act one after
the other on the machine) and `groupUnit` (once for the group).
-/
namespace Sys2Proof.Machine

/-- The outcome type of a meaning. -/
abbrev Res := Host.Outcome State Fault Refusal

/-- The unit in hand with the team and group it belongs to, as they stood at issue. -/
structure Ctx where
  core  : Nat
  gi    : Nat
  t     : Team
  g     : Group
  r     : LaunchBytes
  lanes : List Nat
  place : Place
  words : Nat
  hints : List Hint
  alone : Bool
  deriving DecidableEq, Repr

/-- The unit in hand. -/
def State.context (s : State) : Option Ctx :=
  match s.issue with
  | none => none
  | some u =>
    match s.team u.core with
    | none => none
    | some t =>
      match t.groups[u.group]? with
      | none => none
      | some g => some ⟨u.core, u.group, t, g, s.recordOf t, u.lanes, u.place, u.words, u.hints, u.alone⟩

/-- The thread number of a group's lane 0 (DEDUCED, log 11): the widths of the team's groups before it. -/
def tidBase (gs : List Group) (gi : Nat) : Nat := ((gs.take gi).map (·.width)).foldr (· + ·) 0

/-- What lane n reads beside its own registers. -/
def Ctx.env (c : Ctx) (n : Nat) : Env := ⟨n, tidBase c.t.groups c.gi + n, c.g.s, c.hints, c.words, recFmask c.r⟩

/-- Lanes as a mask. -/
def lanesMask (ls : List Nat) : BitVec 64 := maskOf ls

/-- How a lane leaves a unit: past it, at another word, with a condition, still at it with nothing done, or waiting at it
with the state given. -/
inductive LaneEnd where
  | go (l : Lane)
  | jump (l : Lane) (pc : Word)
  | fail (c : Cause)
  | stay
  | away (l : Lane)
  deriving DecidableEq, Repr

/-- The coordinate run of the unit, by the rank of the view it names (R47). -/
def Ctx.run (c : Ctx) (i : Instr) : Option (List Src) :=
  match i.coords with
  | none => some []
  | some (vw, code) => coordRun code (c.t.views[vw]?.getD View.zero).rank

/-- READL of a lane at or above the width is reserved (R63). -/
def readlOk (i : Instr) (width : Nat) : Bool :=
  match i with
  | .readl x => x.n.val < width
  | _ => true

/-- The coordinate run a lane reads: a lane whose guard is false resolves no view and reads none (R116, R138). (DEDUCED,
log 84.) -/
def Ctx.runFor (c : Ctx) (i : Instr) (l : Lane) : Option (List Src) :=
  if i.readsIn l then c.run i else some []

/-- One more than the highest latch the unit reads in the lane; 0 where it reads none, or its guard is false (R116). (DEDUCED,
log 84.) -/
def Ctx.depth (c : Ctx) (i : Instr) (l : Lane) : Nat :=
  if i.readsIn l then (((c.run i).getD []).map Src.latch).foldr max i.shape.latch else 0

/-- Checks 1 to 5 of R70 in their order, with R89, and then whether a register that the lane reads is poisoned (R314); none where the
unit passes. A poisoned register is no view's, and DETAIL is 63 (DESIGN CHOICE, log 109). What the word itself is, its encoding, its class and
the registers its fields name, is checked whatever the guard; what only executing it would read, the codes of a coordinate run
beyond the first and the latches, is checked in a lane whose guard holds (R116, R138). (DEDUCED, log 74, log 84.) -/
def precheck (i : Instr) (c : Ctx) (l : Lane) : Option Cause :=
  let run := c.runFor i l
  let vs := i.fields ++ ((run.getD []).map Src.vs).flatten
  let k := c.depth i l
  if !hintsOk i c.hints || !readlOk i c.g.width then some .illegal
  else if l.inside.isNone && vs.any fun v => c.g.nregs ≤ v then some .illegal
  else if l.inside.isSome && (i.forbidden || hintsForbidden c.hints) then some .forbidden
  else if l.inside.isSome && vs.any fun v => 32 ≤ v then some .illegal
  else if run.isNone then some .illegal
  else if 0 < k && (l.latches.length < k || l.chain == 0 || 8 ≤ l.chain) then some .latch
  else if i.readsIn l && (i.reads ++ ((run.getD []).map Src.vs).flatten).any fun v => l.bad.contains (l.phys (Fin.ofNat 64 v)) then
    some (.dataError 63)
  else none

/-- Whether the unit reads a latch in any source or coordinate. -/
def readsLatch (i : Instr) (c : Ctx) : Bool :=
  0 < (((c.run i).getD []).map Src.latch).foldr max i.shape.latch

/-- The chain after the unit joins or starts one (R55). -/
def Lane.chained (l : Lane) (reads : Bool) : Lane :=
  if reads then { l with chain := l.chain + 1 } else { l with latches := [], chain := 1 }

/-- R106 steps 1 to 4 of a lane, R70 alone in ordinary state: the lane with its words charged, and what failed. -/
def Lane.begin_ (l : Lane) (i : Instr) (c : Ctx) : Lane × Option Cause :=
  match l.inside with
  | none => (l, precheck i c l)
  | some k =>
    if l.pc.toNat < k.entry || k.limit < l.pc.toNat + c.words then (l, some .codeBounds)
    else if l.fuel.toNat < c.words then (l, some .fuel)
    else
      let l1 := { l with fuel := l.fuel - BitVec.ofNat 24 c.words, inside := some { k with count := k.count + c.words } }
      (l1, precheck i c l1)

/-- A lane that fails (R106, R107, R109): in contained state its outcome is delivered; in ordinary state it stands
unchanged at the unit, UNBOUND set for a latch violation (R55), and the group will halt. -/
def Lane.failed (l l1 : Lane) (c : Cause) : Lane × Option Cause :=
  if l.inside.isSome then (l1.deliver c.outcome, none)
  else (if c == .latch then l.setFlags fUNBOUND else l, some c)

/-- The lane after a side effect: SIDE is set where it holds a task (R279). -/
def Lane.sided (l : Lane) : Lane := if l.task.hold then { l with task := { l.task with side := true } } else l

/-- The lane after an engine instruction, or after another. -/
def Lane.sidedBy (l : Lane) (i : Instr) : Lane := if i.engine then l.sided else l

/-- How the lane's end settles its PC and its chain. -/
def Lane.ended (l l1 : Lane) (i : Instr) (c : Ctx) : LaneEnd → Lane × Option Cause
  | .go x => ({ x with pc := x.pc + BitVec.ofNat 32 c.words, chain := if i.transfer then 0 else x.chain }, none)
  | .jump x pc => ({ x with pc := pc, chain := if i.transfer then 0 else x.chain }, none)
  | .fail e => l.failed l1 e
  | .stay => (l, none)
  | .away x => (x, none)

/-- One lane executes the unit: its checks, then the body on the lane with its chain advanced. -/
def laneRun (i : Instr) (c : Ctx) (body : Lane → LaneEnd) (l0 : Lane) : Lane × Option Cause :=
  let l := { l0 with wait := .none }
  match l.begin_ i c with
  | (l1, some e) => l.failed l1 e
  | (l1, none) => l.ended l1 i c (body (l1.chained (readsLatch i c)))

/-! ## After an issue -/

/-- The number of lanes that wait under R92 at a place. -/
def Group.heldAt (g : Group) (p : Place) : Nat :=
  (g.lanes.filter fun (l : Lane) => !l.exited && l.wait == .held && l.place == p).length

/-- The places at which lanes wait under R92, each once. -/
def Group.heldPlaces (g : Group) : List Place :=
  ((g.lanes.filter fun l => !l.exited && l.wait == .held).map (·.place)).foldl
    (fun ps p => if ps.contains p then ps else ps ++ [p]) []

/-- The counts of R93 after an issue: at each place at which lanes wait, for how many issues some have. -/
def Group.countHeld (g : Group) : List (Place × Nat) :=
  g.heldPlaces.map fun p => (p, ((g.heldFor.find? fun x => x.1 == p).map (·.2)).getD 0 + 1)

/-- Whether lanes have waited at one place for 256 issues of the group (R93). -/
def Group.heldLong (g : Group) : Bool := g.heldFor.any fun x => 256 ≤ x.2

/-- Where the broadcast PC goes in the two cases of R93: to the place at which the most lanes wait, ties to the lowest PC;
where none waits, to the lowest-indexed lane that has not exited (nor waits as exited, DEDUCED, log 13). -/
def Group.moveBroadcast (g : Group) : Group :=
  match g.heldPlaces with
  | [] =>
    match g.lanes.find? fun l => !l.away with
    | none => g
    | some l => { g with place := l.nextPlace }
  | p :: ps =>
    let best := ps.foldl (fun b q =>
      let nb := g.heldAt b
      let nq := g.heldAt q
      if nb < nq || (nq == nb && q.pc.toNat < b.pc.toNat) then q else b) p
    { g with place := best }

/-- The group with its broadcast PC moved where no lane is left there (R93, first case). -/
def Group.refreshBroadcast (g : Group) : Group :=
  if g.rvz.isSome || g.lanes.any (fun l => !l.away && l.nextPlace == g.place) then g else g.moveBroadcast

/-- The broadcast PC after an issue of the cohort (R93); an RVZ that waits keeps it (R131). A lowest-indexed lane that has
exited, or left the broadcast path, has no next PC: the broadcast PC then moves as in the two cases of R93 although other
lanes of the cohort go on. (DEDUCED, log 13.) -/
def Group.nextBroadcast (g : Group) (cohort : List Nat) : Group :=
  if g.rvz.isSome then g
  else
    match cohort.head? with
    | none => g
    | some n => if (g.lane n).away then g.moveBroadcast else { g with place := (g.lane n).nextPlace }

/-- The run that HSCH asks for (R60, R171). -/
def runLeft (g : Group) (hs : List Hint) : Nat :=
  match hs.findSome? fun h => match h with
    | .sch n => some n.val
    | _ => none with
  | some n => if n == 0 then g.run - 1 else n
  | none => g.run - 1

/-- The group's own bookkeeping after an issue: the broadcast PC, the counts of R93, its ready age, which its issue ends
(R171), its run, and what its lanes wait for together. -/
def Group.afterIssue (c : Ctx) (g : Group) : Group :=
  let g1 := if c.alone then g else g.nextBroadcast c.lanes
  let g2 := { g1 with
    heldFor := if g1.rvz.isSome || c.alone then g1.heldFor else g1.countHeld
    age := if c.alone then g1.age else none
    run := if c.alone then g1.run else runLeft g c.hints }
  g2.settle.refreshBroadcast

/-- The other groups of the team no longer wait for this one after its issue (R134). A unit that a diverged lane executes alone is an issue
of its group here too. (DEDUCED, log 102.) -/
def yieldSeen (gi : Nat) (g : Group) : Group :=
  match g.wait with
  | .yielded ws =>
    let ws' := ws.filter (· != gi)
    { g with wait := if ws'.isEmpty then .none else .yielded ws' }
  | _ => g

/-- The machine after a unit: the group's bookkeeping, the halt that its failing lanes cause (R109, R187), the ends, and no
unit in hand. (DEDUCED, log 19.) -/
def State.finish (s : State) (c : Ctx) (fails : List (Nat × Cause)) : State :=
  let s1 := s.modGroup c.core c.gi (Group.afterIssue c)
  let s2 := s1.modTeam c.core fun t => { t with groups := mapFrom (fun k g => if k == c.gi then g else yieldSeen c.gi g) 0 t.groups }
  let s3 := match fails with
    | [] => s2
    | (_, e) :: _ =>
      let m := lanesMask (fails.map fun (p : Nat × Cause) => p.1)
      s2.haltGroup c.core c.gi ⟨e.kind, e.detail, e.extra, m, m, c.place.pc, c.words, e.after, false, none⟩
  let s4 := s3.afterEnds c.core copyLeft
  { s4 with issue := none, clock := s4.clock + 1, progress := s4.progress + 1 }

/-- The machine after a unit that could not issue: the group, or the lane that executes alone, waits until something moves
(R170). -/
def State.stall (s : State) (c : Ctx) : State :=
  let s1 := s.modGroup c.core c.gi fun g =>
    if c.alone then
      { g with lanes := mapFrom (fun n l => if c.lanes.contains n then { l with wait := .retry s.progress } else l) 0 g.lanes }
    else { g with wait := if g.wait == .port && c.g.wait != .port then .port else .retry s.progress }
  { s1 with issue := none }

/-! ## The three forms of a meaning -/

/-- Each lane of the unit acts on itself alone, seeing the group as it stood at issue. -/
def localUnit (i : Instr) (s : State) (body : Ctx → Nat → Lane → LaneEnd) : Res :=
  match s.context with
  | none => .fault .noIssue
  | some c =>
    let fails := c.lanes.filterMap fun n => (laneRun i c (body c n) (c.g.lane n)).2.map fun e => (n, e)
    let s1 := s.modGroup c.core c.gi fun g =>
      { g with lanes := mapFrom (fun n l => if c.lanes.contains n then (laneRun i c (body c n) l).1 else l) 0 g.lanes }
    .next (s1.finish c fails)

/-- One lane of a `memUnit`: the machine, the conditions so far, and whether some lane got on. -/
def memLane (i : Instr) (c : Ctx) (body : Ctx → State → Nat → Lane → State × LaneEnd)
    (acc : State × List (Nat × Cause) × Bool) (n : Nat) : State × List (Nat × Cause) × Bool :=
  let (s, fails, moved) := acc
  let l := { (((s.group c.core c.gi).map fun g => g.lane n).getD (c.g.lane n)) with wait := .none }
  match l.begin_ i c with
  | (l1, some e) =>
    let r := l.failed l1 e
    (s.modLane c.core c.gi n fun _ => r.1, fails ++ (r.2.map fun e => (n, e)).toList, true)
  | (l1, none) =>
    let (s1, en) := body c s n (l1.chained (readsLatch i c))
    let r := l.ended l1 i c en
    (s1.modLane c.core c.gi n fun _ => r.1, fails ++ (r.2.map fun e => (n, e)).toList, moved || en != .stay)

/-- The lanes of the unit act on the machine in ascending order (R203, R271). A unit of which no lane gets on stays to be
issued again. -/
def memUnit (i : Instr) (s : State) (body : Ctx → State → Nat → Lane → State × LaneEnd) : Res :=
  match s.context with
  | none => .fault .noIssue
  | some c =>
    let (s1, fails, moved) := c.lanes.foldl (memLane i c body) (s, [], false)
    .next (if moved then s1.finish c fails else s1.stall c)

/-- One lane of a `taskUnit`: nothing where a lower lane has faulted. -/
def taskLane (i : Instr) (c : Ctx) (body : Ctx → State → Nat → Lane → State × LaneEnd)
    (acc : State × List (Nat × Cause) × Bool) (n : Nat) : State × List (Nat × Cause) × Bool :=
  if acc.2.1.isEmpty then memLane i c body acc n else acc

/-- The lanes of the unit act on the queue unit in ascending order (R271); from a lane that faults on, none does anything
(R287). -/
def taskUnit (i : Instr) (s : State) (body : Ctx → State → Nat → Lane → State × LaneEnd) : Res :=
  match s.context with
  | none => .fault .noIssue
  | some c =>
    let (s1, fails, moved) := c.lanes.foldl (taskLane i c body) (s, [], false)
    .next (if moved then s1.finish c fails else s1.stall c)

/-- How a group leaves a unit that executes once for it: past it, with lanes given a last change; with a condition; not
ready yet; waiting; or on with only some of its lanes. -/
inductive GroupEnd where
  | go (s : State) (f : Nat → Lane → Lane)
  | fail (c : Cause)
  | retry (s : State)
  | wait (s : State) (w : GroupWait)

/-- Whether the cohort holds every non-exited lane of the group (R95). -/
def Ctx.full (c : Ctx) : Bool := !c.alone && c.g.alive.all c.lanes.contains

/-- Every lane of the unit past it, with a last change. -/
def State.allPast (s : State) (i : Instr) (c : Ctx) (f : Nat → Lane → Lane) : State :=
  s.modGroup c.core c.gi fun g =>
    { g with lanes := mapFrom (fun n l =>
        if c.lanes.contains n then
          let x := (f n (({ l with wait := .none } : Lane).chained (readsLatch i c))).sidedBy i
          { x with pc := x.pc + BitVec.ofNat 32 c.words }
        else l) 0 g.lanes }

/-- The lanes of a unit with a condition that all share, in ordinary state. -/
def allFail (c : Ctx) (e : Cause) : List (Nat × Cause) := c.lanes.map fun n => (n, e)

/-- The unit executes once for the group, after the checks of R387. Where a lane fails the decode checks, no lane
executes: contained lanes get their outcomes and the others fault. (DEDUCED, log 74.) -/
def groupUnit (i : Instr) (s : State) (body : Ctx → State → GroupEnd) : Res :=
  match s.context with
  | none => .fault .noIssue
  | some c =>
    let pre := fun n => (({ (c.g.lane n) with wait := .none } : Lane).begin_ i c).2
    if c.lanes.any fun n => (pre n).isSome then
      let run := laneRun i c fun _ => .stay
      let fails := c.lanes.filterMap fun n => (run (c.g.lane n)).2.map fun e => (n, e)
      let s1 := s.modGroup c.core c.gi fun g =>
        { g with lanes := mapFrom (fun n l => if c.lanes.contains n then (run l).1 else l) 0 g.lanes }
      .next (s1.finish c fails)
    else if i.needsFull && !c.full then .next (s.finish c (allFail c .diverged))
    else if (match i.role with
        | none => false
        | some r => r != c.g.role) then .next (s.finish c (allFail c .role))
    else
      match body c s with
      | .go s1 f => .next ((s1.allPast i c f).finish c [])
      | .fail e => .next (s.finish c (allFail c e))
      | .retry s1 => .next (s1.stall c)
      | .wait s1 w =>
        let s2 := s1.modGroup c.core c.gi fun g =>
          { g with wait := w, lanes := mapFrom (fun n (l : Lane) =>
              if c.lanes.contains n then (({ l with wait := .none } : Lane).chained (readsLatch i c)).sidedBy i else l) 0 g.lanes }
        .next (s2.finish c [])

/-- A hint word read into the unit in hand (R56). -/
def hintUnit (h : Hint) (s : State) : Res :=
  match s.issue with
  | none => .fault .noIssue
  | some u => .next { s with issue := some { u with hints := u.hints ++ [h] } }

/-- A reserved unit: every lane fails (R70). `i` is any instruction that is not forbidden in contained state. -/
def reservedUnit (s : State) : Res :=
  localUnit (.mov ⟨.always, false, 0, .zero⟩) { s with issue := s.issue.map fun u => { u with hints := [] } }
    fun _ _ _ => .fail .illegal

/-! ## Producers and plain per-lane results -/

/-- A producer's result into the latches, and into the register unless W = 1 (R53, R54). -/
def Lane.produce (l : Lane) (w : Bool) (d : Fin 64) (r : Word) : Lane :=
  let x := if w then l else l.setReg d r
  { x with latches := (r :: l.latches).take 4 }

/-- A latch producer whose lane computes a result and flags, or a condition that ends a candidate: where the guard is
false the latches still shift (R53); where the fault mask selects a raised flag the lane writes nothing (R108). -/
def producer (g : Guard) (w : Bool) (d : Fin 64) (f : Env → Lane → Except Cause (Word × Word)) (c : Ctx) (n : Nat)
    (l : Lane) : LaneEnd :=
  if g.holds l then
    match f (c.env n) l with
    | .error e => .fail e
    | .ok (r, fl) =>
      match l.raises (recFmask c.r) fl with
      | some e => .fail e
      | none => .go ((l.produce w d r).setFlags fl)
  else .go (l.produce true d (l.reg d))

/-- A per-lane instruction that is no producer. -/
def guarded (g : Guard) (f : Env → Lane → LaneEnd) (c : Ctx) (n : Nat) (l : Lane) : LaneEnd :=
  if g.holds l then f (c.env n) l else .go l

end Sys2Proof.Machine
end

