-- ==== Sys2Proof/Machine/Fetch.lean ====
section
/-!
DEFINITION. Fetching an issue unit (spec/02 R56; spec/04 R90, R91; spec/16 R300), and which groups and lanes can issue
(spec/04 R90 to R93; spec/08 R170).
-/
namespace Sys2Proof.Machine

/-- A fetched unit: the hint words with what they say, the instruction, and how many words. A word that is none is
reserved. -/
structure CodeUnit where
  hints : List (Option Instr)
  main  : Option Instr
  words : Nat
  deriving DecidableEq, Repr

/-- What a fetch comes to: a unit, a line that is not held, or a word outside the code view as the last of so many. -/
inductive Fetched where
  | unit (u : CodeUnit)
  | miss (line : Nat)
  | bounds (words : Nat)
  deriving DecidableEq, Repr

/-- The word at a virtual address in held lines. -/
def wordAt (ls : List CodeLine) (va : Nat) : Option Word :=
  (ls.find? fun l => l.line == va / 64).map fun l => nth 0 l.words (va % 64 / 4)

/-- Words read from `pc` up to the first that is no hint (R56), `k` read so far; `n` is more than the words left in the
extent. -/
def fetchWords (ls : List CodeLine) (base ext pc : Nat) : Nat → Nat → List (Option Instr) → Fetched
  | 0, k, _ => .bounds (k + 1)
  | n + 1, k, hs =>
    if ext ≤ pc + k then .bounds (k + 1)
    else
      match wordAt ls (base + 4 * (pc + k)) with
      | none => .miss ((base + 4 * (pc + k)) / 64)
      | some w =>
        if bvFld w 26 6 == 0x3F then fetchWords ls base ext pc n (k + 1) (hs ++ [decodeWord w.toNat])
        else .unit ⟨hs, decodeWord w.toNat, k + 1⟩

/-- The base address and the extent in words of the code that lanes at a place fetch: the launch's code view (R320), or for
contained lanes the bank view up to the largest limit (R106, R140). -/
def codeWindow (t : Team) (r : LaunchBytes) (bank : Bool) (limits : List Nat) : Nat × Nat :=
  if bank then ((t.views[recBank r]?.getD View.zero).offset, limits.foldr max 0)
  else (recCode r, 16 * recCodeLen r)

/-- The limit of a contained lane. -/
def Lane.limit (l : Lane) : Nat := (l.inside.map (·.limit)).getD 0

/-- Whether a lane's PC lies in its candidate's range, where it has one: a contained lane fetches nothing outside it (R106). -/
def Lane.within (l : Lane) : Bool :=
  match l.inside with
  | none => true
  | some k => k.entry ≤ l.pc.toNat && l.pc.toNat < k.limit

/-- The unit at a place for some lanes of a group: of contained lanes, for those whose PC is in range (R106). -/
def fetchAt (t : Team) (r : LaunchBytes) (ls : List CodeLine) (p : Place) (lanes : List Lane) : Fetched :=
  let (base, ext) := codeWindow t r p.bank ((lanes.filter Lane.within).map Lane.limit)
  fetchWords ls base ext p.pc.toNat (ext - p.pc.toNat + 1) 0 []

/-- The v registers that a unit's instruction names, its coordinates included. -/
def unitRegs (t : Team) (i : Instr) : List Nat :=
  let coords := match i.coords with
    | none => []
    | some (vw, code) => ((coordRun code (t.views[vw]?.getD View.zero).rank).getD []).map Src.vs
  i.shape.vs ++ coords.flatten

/-- Whether no register of the unit is pending in the lane (R170). -/
def Lane.operandsReady (l : Lane) (t : Team) (u : CodeUnit) : Bool :=
  match u.main with
  | none => true
  | some i => l.pending.isEmpty || (unitRegs t i).all fun v => !l.pending.contains (l.phys (Fin.ofNat 64 v))

/-- Whether a lane waits for nothing: a retry has something new to look at. -/
def Lane.free (progress : Nat) (l : Lane) : Bool :=
  !l.exited && match l.wait with
  | .none => true
  | .held => true
  | .retry n => n != progress
  | _ => false

/-- The lanes of a group that stand at its broadcast PC, but for those that left the broadcast path (R208, R272). -/
def Group.standing (g : Group) : List Nat := placesFrom (fun _ (l : Lane) => !l.away && l.place == g.place) 0 g.lanes

/-- Whether the group's broadcast path may issue at all: it is resident and runs, and neither halted nor waiting (R170); one
that waits at the memory port goes on when a log entry is free (R186). -/
def Group.open_ (g : Group) (progress : Nat) : Bool :=
  g.halts.isEmpty && !g.ended && g.rvz.isNone && match g.wait with
  | .none => true
  | .retry n => n != progress
  | .port => g.log.length < 4
  | _ => false

/-- Whether a core's team runs: placed and not ended, its core and its partition not frozen. A pre-empted team runs on in
the chains that are in progress (`Lane.mayIssue`). -/
def State.runs (s : State) (core : Nat) : Bool :=
  match s.team core with
  | none => false
  | some t => t.phase == .runs && !(s.core core).frozen && ((s.part t.part).map fun p => !p.halted).getD false

/-- Whether a unit goes on with a latch chain of the lane (R55): the lane is in a chain, and the unit reads a latch. -/
def Lane.continues (l : Lane) (t : Team) (u : CodeUnit) : Bool :=
  0 < l.chain && match u.main with
    | none => false
    | some i =>
      let coords := match i.coords with
        | none => []
        | some (vw, code) => (coordRun code (t.views[vw]?.getD View.zero).rank).getD []
      0 < (coords.map Src.latch).foldr max i.shape.latch

/-- Whether a lane's unit may issue as far as pre-emption goes: of a stopped team only units of chains in progress do
(R109, R190). -/
def Lane.mayIssue (l : Lane) (t : Team) (u : CodeUnit) : Bool := !t.stopped || l.continues t u

/-- What the broadcast path of a group can do: issue a unit with a cohort, fetch a line, or nothing. -/
inductive Front where
  | issue (u : CodeUnit) (lanes : List Nat)
  | bounds (words : Nat) (lanes : List Nat)
  | miss (line : Nat) (lanes : List Nat)
  | idle
  deriving DecidableEq, Repr

/-- Whether the broadcast PC has yet to move elsewhere, lanes having waited at one PC for 256 issues (R93): no further unit issues
at the old one. -/
def Group.mustMove (g : Group) : Bool := g.rvz.isNone && g.heldLong && g.moveBroadcast.place != g.place

/-- The broadcast path of a group, whichever groups share its segments (R90, R92, R93, R170). -/
def State.path (s : State) (core gi : Nat) : Front :=
  match s.team core with
  | none => .idle
  | some t =>
    match (t.groups[gi]?).map Group.refreshBroadcast with
    | none => .idle
    | some g =>
      if !s.runs core || !g.open_ s.progress || g.mustMove then .idle
      else
        let here := g.standing
        let free := here.filter fun n => (g.lane n).free s.progress && (!t.stopped || 0 < (g.lane n).chain)
        if free.isEmpty then .idle
        else
          match fetchAt t (s.recordOf t) (s.core core).fetch g.place (free.map g.lane) with
          | .miss line => .miss line (free.filter fun n => (g.lane n).within)
          | .bounds k => if t.stopped then .idle else .bounds k free
          | .unit u =>
            let ready := free.filter fun n => (g.lane n).operandsReady t u && (g.lane n).mayIssue t u
            let heldClass := ((u.main.map Instr.held).getD false) && !g.place.bank
            if ready.isEmpty || (heldClass && ready != here) then .idle else .issue u ready

/-- Whether two groups share a segment (R169). -/
def sharesSegment (g h : Group) : Bool :=
  g.segment < h.segment + h.width / 8 && h.segment < g.segment + g.width / 8

/-- Whether another group of the core has been ready for 128 cycles, a cycle being an issue in the model (R171). (DESIGN
CHOICE, log 4.) -/
def State.waitedLong (s : State) (t : Team) (gi : Nat) : Bool :=
  (placesFrom (fun k (h : Group) => k != gi && match h.age with
    | some a => a + 128 ≤ s.clock
    | none => false) 0 t.groups) != []

/-- The unit at which a lane stands. -/
def State.unitOf (s : State) (core : Nat) (t : Team) (l : Lane) : Fetched :=
  fetchAt t (s.recordOf t) (l.loop ++ (s.core core).fetch) l.place [l]

/-- Whether the unit at which a lane stands goes on with a chain of the lane (R55), or its line is not held yet. (DEDUCED, log 97.) -/
def State.runsOn (s : State) (core : Nat) (t : Team) (l : Lane) : Bool :=
  0 < l.chain && match s.unitOf core t l with
    | .unit u => l.continues t u
    | .miss _ => true
    | .bounds _ => false

/-- Whether a lane is in the middle of a latch chain, whether or not its next unit can issue; of one that waits for a refill that is
the unit after the one it stands at. -/
def State.inChain (s : State) (core : Nat) (t : Team) (l : Lane) : Bool :=
  !l.exited && match l.wait with
  | .none => s.runsOn core t l
  | .held => s.runsOn core t l
  | .retry _ => s.runsOn core t l
  | .code _ => s.runsOn core t l
  | .refill =>
    match s.unitOf core t l with
    | .unit u => !((u.main.map Instr.transfer).getD true) && s.runsOn core t { l with pc := l.pc + BitVec.ofNat 32 u.words }
    | .miss _ => false
    | .bounds _ => false
  | .syncl _ _ => false
  | .barg _ => false
  | .qpop _ => false
  | .fread _ _ _ => false

/-- Whether the unit that a group stands at may be tried again: it waits for nothing, or at its memory port. -/
def GroupWait.atUnit : GroupWait → Bool
  | .none => true
  | .retry _ => true
  | .port => true
  | _ => false

/-- Whether a group is in the middle of a latch chain on its broadcast path (R171), whether or not its next unit can issue. A halt
ends the chains (R188). -/
def State.midChain (s : State) (core : Nat) (t : Team) (g : Group) : Bool :=
  s.runs core && g.halts.isEmpty && !g.ended && g.rvz.isNone && g.wait.atUnit
    && g.standing.any fun n => s.inChain core t (g.lane n)

/-- Whether a group holds its segments (R171): it is in the middle of a latch chain on its broadcast path, or a run of HSCH lasts and
its next unit is ready. (DESIGN CHOICE, log 4.) -/
def State.holdsSegments (s : State) (core : Nat) (t : Team) (gi : Nat) (g : Group) : Bool :=
  s.midChain core t g.refreshBroadcast ||
    (0 < g.run && !s.waitedLong t gi && match s.path core gi with
      | .issue _ _ => true
      | _ => false)

/-- Whether another group holds a segment of a group (R171, R172); of two that hold one, the group of the lower number goes first.
(DEDUCED, log 97.) -/
def State.barred (s : State) (core : Nat) (t : Team) (gi : Nat) (g : Group) : Bool :=
  (placesFrom (fun k (h : Group) => k != gi && sharesSegment g h && s.holdsSegments core t k h
    && (k < gi || !s.holdsSegments core t gi g)) 0 t.groups) != []

/-- The broadcast path of a group (R90, R92, R170): nothing while another group holds a segment of it (R171). -/
def State.front (s : State) (core gi : Nat) : Front :=
  match s.team core with
  | none => .idle
  | some t =>
    match t.groups[gi]? with
    | none => .idle
    | some g => if s.barred core t gi g then .idle else s.path core gi

/-- Whether a group is ready (R170). -/
def State.groupReady (s : State) (core gi : Nat) : Bool :=
  match s.path core gi with
  | .idle => false
  | .issue _ _ => true
  | .bounds _ _ => true
  | .miss _ _ => true

/-- What a diverged lane can do by itself (R91, R92). -/
inductive Alone where
  | issue (u : CodeUnit)
  | bounds (words : Nat)
  | miss (line : Nat)
  | hold
  | idle
  deriving DecidableEq, Repr

/-- A lane off the broadcast PC (R91, R92): contained lanes never wait at a held class. It executes only while its group can hold its
segments (R172). -/
def State.alone (s : State) (core gi n : Nat) : Alone :=
  match s.team core with
  | none => .idle
  | some t =>
    match (t.groups[gi]?).map Group.refreshBroadcast with
    | none => .idle
    | some g =>
      let l := g.lane n
      let go := match l.wait with
        | .none => true
        | .retry k => k != s.progress
        | _ => false
      if !s.runs core || !g.halts.isEmpty || g.ended || l.exited || !go || l.place == g.place
          || (t.stopped && l.chain == 0) || s.barred core t gi g then .idle
      else
        match fetchAt t (s.recordOf t) (l.loop ++ (s.core core).fetch) l.place [l] with
        | .miss line => .miss line
        | .bounds k => if t.stopped then .idle else .bounds k
        | .unit u =>
          if !l.mayIssue t u then .idle
          else if ((u.main.map Instr.held).getD false) && l.inside.isNone then .hold
          else if l.operandsReady t u then .issue u
          else .idle

/-- The lane's loop buffer after it fetched a unit: the lines of the unit, newest first, three at most (R88, R91). -/
def Lane.looped (l : Lane) (held : List CodeLine) (va words : Nat) : Lane :=
  let used := ((upFrom (va / 64) ((va + 4 * words - 1) / 64 - va / 64 + 1)).filterMap fun k =>
    (l.loop ++ held).find? fun x => x.line == k).reverse
  { l with loop := (used ++ l.loop.filter fun x => !used.any fun y => y.line == x.line).take 3 }

end Sys2Proof.Machine
end

