-- ==== Sys2Proof/Machine/Access.lean ====
section
/-!
DEFINITION. One lane's memory access: what it reads and writes (spec/05 R138; spec/09 R199 to R204), where it is performed
(spec/16 R293, R297, R300; spec/19 R360), the release tags it writes and checks (spec/13 R265 to R268), and how it waits
(spec/08 R186).
-/
namespace Sys2Proof.Machine

/-! ## What the instructions do with bytes -/

/-- The bytes of a lane access (R64, R199, R201, R202). -/
def memBytes (i : Instr) : Nat :=
  match i with
  | .ld x =>
    match x.size with
    | .z8 => 1
    | .s8 => 1
    | .z16 => 2
    | .s16 => 2
    | .w32 => 4
    | .w64 => 8
    | .w128 => 16
  | .st x =>
    match x.size with
    | .z8 => 1
    | .z16 => 2
    | .w32 => 4
    | .w64 => 8
    | .w128 => 16
  | .atomx x =>
    match x.op with
    | .add64 => 8
    | .xchg64 => 8
    | .cas64 => 8
    | .xchg => 4
    | .cas => 4
    | .fadd => 4
    | .bfadd2 => 4
  | _ => 4

/-- Whether the access loads, stores or is an atomic (R102). -/
def memKind (i : Instr) : Access :=
  match i with
  | .st _ => .store
  | .stl _ => .store
  | .atom _ => .atomic
  | .atomx _ => .atomic
  | _ => .load

/-- The registers whose values the access takes from its lane: store data and atomic operands. -/
def memData (i : Instr) : List (Fin 64) :=
  match i with
  | .st x => (upFrom 0 x.size.regs).map fun k => x.d + Fin.ofNat 64 k
  | .stl x => [x.d]
  | .atom x => [x.d]
  | .atomx x => (upFrom 0 x.op.regs).map fun k => x.d + Fin.ofNat 64 k
  | _ => []

/-- The registers that the access writes. -/
def memDests (i : Instr) : List (Fin 64) :=
  match i with
  | .ld x => (upFrom 0 x.size.regs).map fun k => x.d + Fin.ofNat 64 k
  | .lda x => [x.d]
  | .pld x => [x.d]
  | .atom x => [x.d]
  | .atomx x =>
    match x.op with
    | .add64 => [x.d, x.d + 1]
    | .xchg64 => [x.d, x.d + 1]
    | .cas64 => [x.d, x.d + 1]
    | .xchg => [x.d]
    | .cas => [x.d]
    | .fadd => [x.d]
    | .bfadd2 => [x.d]
  | _ => []

/-- The words that a load of the bytes `bs` delivers (R138), or an atomic's old value. -/
def memOut (i : Instr) (bs : List Byte) : List Word :=
  match i with
  | .ld x =>
    match x.size with
    | .s8 => [BitVec.ofInt 32 (sextNat 8 (ofBytes bs))]
    | .s16 => [BitVec.ofInt 32 (sextNat 16 (ofBytes bs))]
    | .z8 => [BitVec.ofNat 32 (ofBytes bs)]
    | .z16 => [BitVec.ofNat 32 (ofBytes bs)]
    | .w32 => [BitVec.ofNat 32 (ofBytes bs)]
    | .w64 => (upFrom 0 2).map fun k => BitVec.ofNat 32 (ofBytes ((bs.drop (4 * k)).take 4))
    | .w128 => (upFrom 0 4).map fun k => BitVec.ofNat 32 (ofBytes ((bs.drop (4 * k)).take 4))
  | _ => (upFrom 0 (memDests i).length).map fun k => BitVec.ofNat 32 (ofBytes ((bs.drop (4 * k)).take 4))

/-- The number that words hold, the first lowest. -/
def wordsNum : List Word → Nat
  | [] => 0
  | w :: ws => w.toNat + 2 ^ 32 * wordsNum ws

/-- What an ATOM member makes of the old word and its operand (R201). -/
def atomNew (op : AtomOp) (old x : Word) : Word :=
  match op with
  | .add => old + x
  | .min => if x.slt old then x else old
  | .max => if old.slt x then x else old
  | .umin => if x.ult old then x else old
  | .umax => if old.ult x then x else old
  | .and => old &&& x
  | .or => old ||| x
  | .xor => old ^^^ x

/-- What an ATOMX member makes of the old value and its operands' number (R202). -/
def atomxNew (op : AtomXOp) (old x : Nat) : Nat :=
  match op with
  | .xchg => fld x 0 32
  | .cas => if old == fld x 0 32 then fld x 32 32 else old
  | .fadd => (opAdd fmtF32 false false old (fld x 0 32)).1
  | .add64 => (old + fld x 0 64) % 2 ^ 64
  | .xchg64 => fld x 0 64
  | .cas64 => if old == fld x 0 64 then fld x 64 64 else old
  | .bfadd2 => (opAdd fmtBF16 false false (fld old 16 16) (fld x 16 16)).1 * 2 ^ 16
      + (opAdd fmtBF16 false false (fld old 0 16) (fld x 0 16)).1

/-- The bytes that the access leaves in memory, from those it found; none for a load. -/
def memNew (i : Instr) (old : List Byte) (data : List Word) : Option (List Byte) :=
  let n := memBytes i
  match i with
  | .st _ => some (bytesOf n (wordsNum data))
  | .stl _ => some (bytesOf n (wordsNum data))
  | .atom x => some (bytesOf 4 (atomNew x.op (BitVec.ofNat 32 (ofBytes old)) (nth 0 data 0)).toNat)
  | .atomx x => some (bytesOf n (atomxNew x.op (ofBytes old) (wordsNum data)))
  | _ => none

/-- Whether an atomic on a HOST view goes out as a PCIe AtomicOp (R361). -/
def pcieAtomic (i : Instr) : Bool :=
  match i with
  | .atom x => x.op == .add
  | .atomx x => x.op != .fadd && x.op != .bfadd2
  | _ => false

/-! ## Orders (R59, R110, R139, R199, R200) -/

/-- The acquire of an access: its scope, and whether it is remote. -/
def acquireOf (i : Instr) (hs : List Hint) : Option (Scope × Bool) :=
  match i with
  | .lda x => some (x.scope, ((ordOf hs).map (·.rem)).getD false)
  | .ld _ => (ordOf hs).map fun o => (o.scope, o.rem)
  | .pld _ => (ordOf hs).map fun o => (o.scope, o.rem)
  | .atom _ => (ordOf hs).bind fun o => if o.ord == .rel then none else some (o.scope, o.rem)
  | .atomx _ => (ordOf hs).bind fun o => if o.ord == .rel then none else some (o.scope, o.rem)
  | _ => none

/-- The release of an access: its scope. -/
def releaseOf (i : Instr) (hs : List Hint) : Option Scope :=
  match i with
  | .stl x => some x.scope
  | .st _ => (ordOf hs).map (·.scope)
  | .atom _ => (ordOf hs).bind fun o => if o.ord == .acq then none else some o.scope
  | .atomx _ => (ordOf hs).bind fun o => if o.ord == .acq then none else some o.scope
  | _ => none

/-- Whether the access is in the .sc order (R59, R200). -/
def inScOrder (hs : List Hint) : Bool := ((ordOf hs).map fun o => o.ord == .sc).getD false

/-- The code of an order in a flit. -/
def orderCode (o : Order) : Nat :=
  match o with
  | .acq => 0
  | .rel => 1
  | .ar => 2
  | .sc => 3

/-- What an ATOMIC flit says after its VA (R370): MOD, the major, order and scope, and the operands; without HORD the scope is that of
the spaces from which it is sent, HOST and PEER: SYSTEM (R59). The widths are the model's. (DESIGN CHOICE, log 89.) -/
def atomicBytes (i : Instr) (hs : List Hint) (ws : List Word) : List Byte :=
  let w := (encode i).getD 0
  let o := ordOf hs
  bytesOf 1 (fld w 20 3) ++ bytesOf 1 (fld w 26 6) ++ bytesOf 1 (((o.map fun o => 4 + orderCode o.ord)).getD 0)
    ++ bytesOf 1 ((o.map fun o => o.scope.code).getD Scope.system.code) ++ (ws.map fun w => bytesOf 4 w.toNat).flatten

/-- Whether a scope is DIE or wider (R297). -/
def scopeWide (x : Scope) : Bool := 5 ≤ x.code

/-- Whether the access carries an order at DIE or wider. -/
def wideOrder (i : Instr) (hs : List Hint) : Bool :=
  ((acquireOf i hs).map fun a => scopeWide a.1).getD false || ((releaseOf i hs).map scopeWide).getD false

/-! ## Release tags -/

/-- The core that owns a scratchpad line (R265). -/
def ownerOf (a : Nat) : Option Nat := if a < 2 ^ 30 then some (a / 2 ^ 18) else none

/-- The ORIGIN of a release by a thread at a line (R265). -/
def originOf (scope : Scope) (a core group : Nat) : Nat :=
  let owns := ownerOf a == some core
  match scope with
  | .system => 0
  | .package => 0
  | .die => 0
  | .cluster => clusterOfCore core % 6
  | .sheaf => sheafOfCore core % 24
  | .core =>
    if owns then 0
    else if isVault a && (a - 2 ^ 30) / 2 ^ 22 == dieOfCore core * 96 + vaultOfCore core then 0x10 + core % 4
    else 0x1F
  | .group => if owns then group % 32 else 0x1F
  | .lane => if owns then group % 32 else 0x1F

/-- The instance that a tag names (R265), as the cores of the package it holds and, for one group, the group; none where
the origin is unknown. A LANE tag names a group's instance, as R268 states. -/
inductive Inst where
  | system
  | all
  | die (d : Nat)
  | cluster (c : Nat)
  | sheaf (q : Nat)
  | core (c : Nat)
  | group (c g : Nat)
  deriving DecidableEq, Repr

/-- Whether a tag of a line is one that is written (R265); SYSTEM with ORIGIN 0x1F is an untagged line's, and none here. -/
def Tag.legal (a : Nat) (t : Tag) : Bool :=
  let owned := (ownerOf a).isSome
  if 5 ≤ t.scope then t.scope ≤ 7 && t.origin == 0
  else if t.scope == 4 then t.origin < 6
  else if t.scope == 3 then t.origin < 24
  else if t.scope == 2 then t.origin == 0x1F || (if owned then t.origin == 0 else 0x10 ≤ t.origin && t.origin < 0x14)
  else t.origin == 0x1F || (owned && t.origin < 0x1F)

/-- The instance of a legal tag at a flat address. -/
def tagInst (a : Nat) (t : Tag) : Option Inst :=
  let d := (dieOfAddr a).getD 0
  let owner := ownerOf a
  if 7 ≤ t.scope then some .system
  else if t.scope == 6 then some .all
  else if t.scope == 5 then some (.die d)
  else if t.scope == 4 then some (.cluster (6 * d + t.origin))
  else if t.scope == 3 then some (.sheaf (24 * d + t.origin))
  else if t.origin == 0x1F then none
  else if t.scope == 2 then
    if t.origin == 0 then owner.map .core
    else some (.core (d * 384 + (a - 2 ^ 30) / 2 ^ 22 % 96 * 4 + (t.origin - 0x10)))
  else owner.map fun c => .group c t.origin

/-- Whether a thread of a core and group is in an instance. -/
def Inst.has (x : Inst) (core group : Nat) : Bool :=
  match x with
  | .system => true
  | .all => true
  | .die d => dieOfCore core == d
  | .cluster c => clusterOfCore core == c
  | .sheaf q => sheafOfCore core == q
  | .core c => core == c
  | .group c g => core == c && group == g

/-- Whether a core holds threads of an instance. -/
def Inst.hasCore (x : Inst) (core : Nat) : Bool :=
  match x with
  | .group c _ => core == c
  | _ => x.has core 0

/-- The common scope of a core and an instance (R268), as its code. -/
def Inst.common (x : Inst) (core : Nat) : Nat :=
  let near := fun c =>
    if c == core then 2 else if sheafOfCore c == sheafOfCore core then 3
    else if clusterOfCore c == clusterOfCore core then 4 else if dieOfCore c == dieOfCore core then 5 else 6
  match x with
  | .system => 7
  | .all => 6
  | .die d => if dieOfCore core == d then 5 else 6
  | .cluster c => if clusterOfCore core == c then 4 else if c / 6 == dieOfCore core then 5 else 6
  | .sheaf q => if sheafOfCore core == q then 3 else if q / 4 == clusterOfCore core then 4
      else if q / 24 == dieOfCore core then 5 else 6
  | .core c => near c
  | .group c _ => near c

/-- The instance of a scope that a core's thread belongs to. -/
def scopeInst (k core group : Nat) : Inst :=
  if k ≤ 1 then .group core group
  else if k == 2 then .core core
  else if k == 3 then .sheaf (sheafOfCore core)
  else if k == 4 then .cluster (clusterOfCore core)
  else if k == 5 then .die (dieOfCore core)
  else if k == 6 then .all
  else .system

/-- What an acquire makes of a tag (R267, R268): matched or nothing to match, a tag that is never written (R265), mismatched, or
promoted with the cores to force at a scope. -/
inductive TagCheck where
  | fine
  | spoilt
  | mismatch
  | promote (x : Inst) (scope : Nat)
  deriving DecidableEq, Repr

/-- Whether a thread wrote the bytes [a, a + n) of SRAM last (R267). -/
def State.wrote (s : State) (a n core group lane : Nat) : Bool :=
  match s.team core with
  | none => false
  | some t => (upFrom a n).all fun b => s.authors.contains ⟨b, t.part, t.seq, t.number, group, lane⟩

/-- The bytes [a, a + n) of SRAM noted as a thread's (R267). -/
def State.sign (s : State) (a n core group lane : Nat) : State :=
  match s.team core with
  | none => s
  | some t =>
    if isSram a then
      { s with authors := (upFrom a n).map (fun b => ⟨b, t.part, t.seq, t.number, group, lane⟩) ++ s.authors }
    else s

/-- The check of an acquire at scope `sc` by a thread that reads `n` bytes at flat address `a` (R267, R268); outside SRAM, the
containments of R112 on the releaser itself (R113). A thread wrote the value read if it wrote each byte of it last. (DEDUCED,
log 28.) -/
def State.checkTag (s : State) (a n core group lane sc : Nat) (rem : Bool) : TagCheck :=
  match s.tagAt (tagKey a) with
  | none => .fine
  | some t =>
    if !isSram a then
      let own := t.core == core && t.group == group && t.lane == lane
      if own || (t.scope != 0 && sc != 0 && (scopeInst t.scope t.core t.group).has core group
          && (scopeInst sc core group).has t.core t.group) then .fine else .mismatch
    else if !t.legal a then .spoilt
    else
      let ir := tagInst a t
      let matched :=
        if t.scope == 0 then s.wrote a n core group lane
        else match ir with
          | none => false
          | some x => x.has core group && t.scope ≤ sc
      if matched then .fine
      else if !rem then .mismatch
      else
        match ir with
        | some x => if x.common core ≤ sc then .promote x (x.common core) else .mismatch
        | none =>
          if (if isVault a then 5 else 4) ≤ sc then .promote (scopeInst sc core group) sc else .mismatch

/-- The tag that a release writes (R266). -/
def State.writeTag (s : State) (a : Nat) (scope : Scope) (core group lane : Nat) : State :=
  s.setTag ⟨tagKey a, scope.code, originOf scope a core group, core, group, lane⟩

/-- The cores that hold a team. -/
def State.teamCores (s : State) : List Nat := (s.cores.filter fun c => c.team.isSome).map (·.id)

/-- The writes of the cores of an instance performed at a scope (R268): from DIE on that takes their mapped regions'
write-backs (R297). Whether all are done. (DEDUCED, log 30.) -/
def State.force (s : State) (x : Inst) (scope : Nat) : State × Bool :=
  if scope < 5 then (s, true)
  else
    (s.teamCores.filter x.hasCore).foldl (fun (acc : State × Bool) c =>
      let (s1, ok) := acc.1.flushTeam c none 0 0
      (s1, acc.2 && ok)) (s, true)

/-! ## One access -/

/-- Who accesses: the core, the group's place in its team, the lane, whether it is contained, and the PC of its unit. -/
structure Who where
  core : Nat
  gi   : Nat
  n    : Nat
  part : Nat
  pc   : Word
  deriving DecidableEq, Repr

/-- How an access ends: performed, with the words it delivers and the flags it sets; with a condition; with a data error at
an address of a die that does not answer (R330); logged until a fill,
a translation or an answer (R186, R300, R360), with the data recorded; or not begun. -/
inductive AccEnd where
  | done (s : State) (out : List Word) (fl : Word)
  | fail (c : Cause)
  | dead (vw a : Nat)
  | log (s : State) (data : List Word)
  | hold (s : State)

/-- The acquire of an access that reads `n` bytes at a flat address: the machine, whether what a promotion forces is performed,
and the flag of a mismatch (R267, R268). A tag that is never written is an error of its row (R265, R314). Outside SRAM only
atomics find a tag (R113). -/
def State.acquireAt (s : State) (w : Who) (i : Instr) (hs : List Hint) (a n : Nat) : State × Bool × Word :=
  match acquireOf i hs with
  | none => (s, true, 0)
  | some (sc, rem) =>
    if !isSram a && memKind i != .atomic then (s, true, 0)
    else
      match s.checkTag a n w.core w.gi w.n sc.code rem with
      | .fine => (s, true, 0)
      | .mismatch => (s, true, fSCOPE)
      | .spoilt => ((s.untag (tagKey a)).errorReport (some w.part) (if isVault a then 1 else 0) false false a, true, 0)
      | .promote x k =>
        let (s1, ok) := s.force x k
        (s1, ok, 0)

/-- A TRANSLATE record for a logged access of its own (R304). (DEDUCED, log 31.) -/
def State.faultLog (s : State) (w : Who) (no vw va cause stage : Nat) (write : Bool) : State :=
  match s.team w.core with
  | none => s
  | some t =>
    if cause == waitCause then s
    else if cause == wallCause then s.freezeCore w.core w.part stage
    else
    let r := translateRecord s w.core t (t.groups[w.gi]?) w.pc (BitVec.ofNat 64 (2 ^ w.n)) cause stage write vw va false
    s.postTranslate w.part r (.log w.core w.gi no)

/-- An access performed on memory at flat address `a` on this package: the read, the tag check of an acquire, the write,
the tag of a release. The old bytes are given where an answer from outside brought them. (DEDUCED,
log 29, log 79; at one instant: DESIGN CHOICE, log 3.) -/
def State.perform (s : State) (w : Who) (i : Instr) (hs : List Hint) (a : Nat) (data : List Word)
    (ans : Option (List Byte × Bool)) : AccEnd :=
  let n := memBytes i
  let old := (ans.map (·.1)).getD (s.read a n)
  let bad := (ans.map (·.2)).getD (s.poisoned a n)
  let kind := memKind i
  if kind != Access.store && bad then (if ans.isNone && s.cut a then .dead 0 a else .fail (.dataError 0))
  else
    let (s1, ok, flag) := s.acquireAt w i hs a n
    if !ok then .hold s1
    else
      let s2 := match memNew i old data with
        | none => s1
        | some bs =>
          ((match releaseOf i hs, kind with
          | some sc, _ => (s1.store a bs).writeTag a sc w.core w.gi w.n
          | none, .atomic => s1.store a bs
          | none, _ => s1.homeStore a bs).sign a bs.length w.core w.gi w.n).noteBy w.core (upFrom a bs.length)
      .done (if kind == Access.store then s2.reportCut w.part a false else s2) (if kind == Access.store then [] else memOut i old) flag

/-- What must stand before an ordered access is performed: the team's write-backs at DIE or wider (R297), and for a release
to PEER memory the ACKs of its earlier writes (R377). -/
def State.beforeOrder (s : State) (w : Who) (i : Instr) (hs : List Hint) (space : Nat) : State × Bool :=
  let (s1, ok) := if wideOrder i hs then s.flushTeam w.core (some w.gi) w.pc (BitVec.ofNat 64 (2 ^ w.n)) else (s, true)
  (s1, ok && !((releaseOf i hs).isSome && space == spPEER && s1.unacked w.core))

/-- After an acquire at DIE or wider the team's slots are invalid (R297). -/
def State.afterOrder (s : State) (w : Who) (i : Instr) (hs : List Hint) : State :=
  match acquireOf i hs with
  | some (sc, _) => if scopeWide sc then s.invalidate w.core else s
  | none => s

/-- The end of an access with the acquire's effect. -/
def AccEnd.ordered (w : Who) (i : Instr) (hs : List Hint) : AccEnd → AccEnd
  | .done s out fl => .done (s.afterOrder w i hs) out fl
  | .fail c => .fail c
  | .dead vw a => .dead vw a
  | .log s d => .log s d
  | .hold s => .hold s

/-- The new bytes of a unit performed at its home written into the slot's data area, their mask bits clear (R203, R297). -/
def State.mirror (s : State) (core id va data : Nat) (bs : List Byte) : State :=
  match s.region core id with
  | none => s
  | some r => (s.homeStore data bs).setMask core r (r.slotNo (va / 4096)) (va % 4096) false bs.length

/-- An access at the home of a mapped unit whose granule stands in its slot at `data` (R203, R297, R360). -/
def State.atHome (s : State) (w : Who) (i : Instr) (hs : List Hint) (vw id va data : Nat)
    (ws : List Word) (no : Nat) (ans : Option (List Byte × Bool)) : AccEnd :=
  let n := memBytes i
  let kind := memKind i
  let need : Need := match kind with
    | .load => 1
    | .store => 2
    | .atomic => 4
  let after := fun (e : AccEnd) (old : List Byte) =>
    match e with
    | .done s2 out fl => AccEnd.done (s2.mirror w.core id va data ((memNew i old ws).getD old)) out fl
    | .fail c => .fail c
    | .dead v a => .dead v a
    | .log s2 d => .log s2 d
    | .hold s2 => .hold s2
  match s.region w.core id with
  | none => .hold s
  | some r =>
    match s.slotHome w.part r va need with
    | .bad c g => .log (s.faultLog w no vw va c g (need != 1)) ws
    | .ok h _ _ _ =>
      if !s.mayBegin h then .log s ws
      else if s.closedTo w.part h then .hold s
      else
        let s1 := s.cleanLines w.core id va n h
        if !(isHost h || isPeer h) || ans.isSome then
          after (s1.perform w i hs h ws ans) ((ans.map (·.1)).getD (s1.read h n))
        else if kind == Access.store then
          let s2 := (s1.writeHome w.part (.write w.core) h (bytesOf n (wordsNum ws)) (List.replicate n true) false).noteBy w.core (upFrom h n)
          .done (s2.mirror w.core id va data (bytesOf n (wordsNum ws))) [] 0
        else
          match s1.ask w.part (if kind == Access.atomic then some (atomicBytes i hs ws) else none) h n (.access w.core w.gi no w.n) with
          | .sent s2 => .log s2 ws
          | .wait => .hold s1
          | .unreachable => .fail (.dataError vw)

/-- A plain or narrowly ordered access to a slot's bytes (R293, R297). -/
def State.inSlot (s : State) (w : Who) (i : Instr) (vw id va data : Nat) (ws : List Word) : AccEnd :=
  let n := memBytes i
  match memNew i [] ws with
  | none => if s.poisoned data n then .fail (.dataError vw) else .done s (memOut i (s.read data n)) 0
  | some bs =>
    match s.region w.core id with
    | none => .hold s
    | some r =>
      let k := r.slotNo (va / 4096)
      let s1 := (s.homeStore data bs).setMask w.core r k (va % 4096) true n
      .done (s1.modSlot w.core id k fun x => { x with state := .dirty }) [] 0

/-- A lane access through the code unit (R300); while its home's DRAM must wait it is logged (R186, R310). (DEDUCED, log 33.) -/
def State.codeAccess (s : State) (w : Who) (i : Instr) (hs : List Hint) (vw va no : Nat) (ws : List Word) : AccEnd :=
  match s.part w.part with
  | none => .hold s
  | some p =>
    let write := memKind i == .store
    match walk s p false va (if write then 2 else 1) with
    | .bad c g => .log (s.faultLog w no vw va c g write) ws
    | .ok h _ _ _ => if s.mayBegin h then s.perform w i hs h ws none else .log s ws

/-- The view number in a data error's record. -/
def AccEnd.named (vw : Nat) : AccEnd → AccEnd
  | .fail (.dataError _) => .fail (.dataError vw)
  | .dead _ a => .dead vw a
  | e => e

/-- A lane access to the storage of a bound region through a view that is not bound to it: what it reads and what it writes are
free values (R295). (DEDUCED, log 72.) -/
def State.performStray (s : State) (w : Who) (i : Instr) (hs : List Hint) (a : Nat) (ws : List Word)
    (xs : List (Nat × Nat × Nat)) : AccEnd :=
  let n := memBytes i
  let old := s.drawn n
  let new := old.2.drawn (4 * ws.length)
  let data := (upFrom 0 ws.length).map fun k => BitVec.ofNat 32 (ofBytes ((new.1.drop (4 * k)).take 4))
  (new.2.astray xs).perform w i hs a data (some (old.1, s.poisoned a n))

/-! ### PLD (R204) -/

/-- The planes and RNP of a PLD. -/
def pldPlanes (i : Instr) : Nat × Bool :=
  match i with
  | .pld x => (x.n.val + 1, x.rnp)
  | _ => (1, false)

/-- The element of a block delivered to a register (R204). -/
def pldOut (b : Block) (i : Instr) (k : Nat) : Word × Word :=
  let (n, rnp) := pldPlanes i
  if b.e == 0xFF then (0x7FC00000, 0)
  else
    let (v, sat) := readElem b k n rnp
    let (r, fl) := roundTo fmtF32 false v
    (BitVec.ofNat 32 r, fl ||| (if sat then fSAT else 0))

/-- The bytes of the sections read so far, recorded as words in section order: 4 bytes for section 0, then each granule. -/
def sectionWords (k : Nat) (bs : List Byte) : List Word :=
  if k == 0 then [BitVec.ofNat 32 (ofBytes bs)]
  else (upFrom 0 (bs.length / 4)).map fun j => BitVec.ofNat 32 (ofBytes ((bs.drop (4 * j)).take 4))

/-- How many words the sections below k hold when recorded. (DEDUCED, log 71.) -/
def sectionStart (k : Nat) : Nat := nth 13 [0, 1, 3, 5, 9] k

/-- The block of recorded sections; a section not read is zero. -/
def sectionBlock (ws : List Word) : Block :=
  let b := fun k n => bytesOf n (wordsNum (ws.drop (sectionStart k)))
  Block.ofPlanes (b 0 2) (b 1 8) (b 2 8) (b 3 16) (b 4 16)

/-- The sections from `k` on, `m` of them left, each read on its own through a mapped region (R26, R204): at the home where
the PLD is ordered at DIE or wider. (DEDUCED, log 71.) -/
def State.pldSections (s : State) (w : Who) (i : Instr) (hs : List Hint) (vw : Nat) (v : View) (id : Nat)
    (cs : List Nat) (no : Nat) (ws : List Word) (ans : Option (List Byte × Bool)) : Nat → Nat → AccEnd
  | _, 0 =>
    let (r, fl) := pldOut (sectionBlock ws) i (nth 0 cs (v.rank - 1) % 16)
    .done s [r] fl
  | k, m + 1 =>
    if sectionStart k < ws.length then State.pldSections s w i hs vw v id cs no ws ans (k + 1) m
    else
      let va := v.granuleAt cs k
      let n := granuleBytes k
      match s.touch w.core id va w.gi w.pc w.n with
      | .fill s1 => .log s1 ws
      | .hold s1 => .hold s1
      | .hit data s1 =>
        if !wideOrder i hs then
          if s1.poisoned data n then .fail (.dataError vw)
          else State.pldSections s1 w i hs vw v id cs no (ws ++ sectionWords k (s1.read data n)) ans (k + 1) m
        else
          match s1.region w.core id with
          | none => .hold s1
          | some r =>
            match s1.slotHome w.part r va 1 with
            | .bad c g => .log (s1.faultLog w no vw va c g false) ws
            | .ok h _ _ _ =>
              if !s1.mayBegin h then .log s1 ws
              else if s1.closedTo w.part h then .hold s1
              else
                let s2 := s1.cleanLines w.core id va n h
                match ans with
                | some (bs, bad) =>
                  if bad then .fail (.dataError vw)
                  else State.pldSections (s2.mirror w.core id va data bs) w i hs vw v id cs no
                    (ws ++ sectionWords k bs) none (k + 1) m
                | none =>
                  if isHost h || isPeer h then
                    match s2.ask w.part none h n (.access w.core w.gi no w.n) with
                    | .sent s3 => .log s3 ws
                    | .wait => .hold s2
                    | .unreachable => .fail (.dataError vw)
                  else if s2.cut h then .dead vw h
                  else if s2.poisoned h n then .fail (.dataError vw)
                  else State.pldSections (s2.mirror w.core id va data (s2.read h n)) w i hs vw v id cs no
                    (ws ++ sectionWords k (s2.read h n)) none (k + 1) m

/-- A PLD of one lane (R204). -/
def State.pld (s : State) (w : Who) (i : Instr) (hs : List Hint) (vw : Nat) (v : View) (cs : List Nat) (no : Nat)
    (ws : List Word) (ans : Option (List Byte × Bool)) : AccEnd :=
  if !v.valid || !v.planed || v.stook || !v.hasR || !v.inExtent cs then .fail (.view vw)
  else if v.sram then
    match s.team w.core with
    | none => .hold s
    | some t =>
      match s.sramAt w.core t v (v.lineAt cs) with
      | none => .fail (.view vw)
      | some a =>
        if !s.firewall w.part a then .hold (s.freezeCore w.core w.part a)
        else if s.poisoned a 64 then .fail (.dataError vw)
        else
          let (s1, ok, flag) := s.acquireAt w i hs a 50
          let xs := s1.strayAt a
          let (line, s2) := if xs.isEmpty then (s1.read a 64, s1) else ((s1.drawn 64).1, (s1.drawn 64).2.astray xs)
          let (r, fl) := pldOut (Block.ofLine line) i (nth 0 cs (v.rank - 1) % 16)
          if ok then .done s2 [r] (fl ||| flag) else .hold s1
  else
    match v.region with
    | none => .fail (.mapped vw)
    | some id =>
      let (n, rnp) := pldPlanes i
      s.pldSections w i hs vw v id cs no ws ans 0 (n + 1 + b2n (rnp && n < 4))

/-- Whether the lane has an access in its group's log. (DEDUCED, log 42.) -/
def State.logged (s : State) (core gi n : Nat) : Bool :=
  ((s.group core gi).map fun (g : Group) => g.log.any fun e => e.lanes.any fun x => x.lane == n).getD false

/-- Whether the lane's access must wait for one in the log (R186, R112): one to a page that this access touches, an
acquire, for a release any, and for an access in the .sc order another of that order. (DEDUCED, log 42.) -/
def State.behindLog (s : State) (w : Who) (v : View) (i : Instr) (hs : List Hint) (cs : List Word) : Bool :=
  match s.group w.core w.gi with
  | none => false
  | some g =>
    let mine := g.log.filter fun e => e.lanes.any fun x => x.lane == w.n
    let order := mine.any (fun e => (acquireOf e.instr e.hints).isSome) || ((releaseOf i hs).isSome && !mine.isEmpty)
      || (inScOrder hs && mine.any fun e => inScOrder e.hints)
    order || match v.region with
      | some id =>
        let probe : LogEntry := ⟨0, ⟨false, 0⟩, 0, i, [], [], 0, v, [], false⟩
        let pages := probe.pages ⟨w.n, cs, []⟩
        mine.any fun e => e.view.region == some id && e.lanes.any fun x =>
          x.lane == w.n && (e.pages x).any pages.contains
      | none => v.space == spCODE && mine.any fun e => e.view.space == spCODE

/-- One lane's access through a view, at its coordinates, with its data (R101, R102, R138, R199 to R204). -/
def State.access (s : State) (w : Who) (i : Instr) (hs : List Hint) (vw : Nat) (v : View) (coords ws : List Word)
    (no : Nat) (ans : Option (List Byte × Bool)) : AccEnd :=
  let cs := coords.map (·.toNat)
  let (s0, ok) := s.beforeOrder w i hs v.space
  match i with
  | .pld _ => if ok then (s0.pld w i hs vw v cs no ws ans).ordered w i hs else .hold s0
  | _ =>
    match v.resolve (memKind i) cs (memBytes i) with
    | .bad => .fail (.view vw)
    | .unbound => .fail (.mapped vw)
    | .ok off =>
      if v.space == spHOST && memKind i == .atomic && !pcieAtomic i && !Config.cxlTrained then .fail (.view vw)
      else if !ok then .hold s0
      else if v.space == spCODE then ((s0.codeAccess w i hs vw (v.offset + off) no ws).named vw).ordered w i hs
      else
        match v.region with
        | none =>
          match s0.team w.core with
          | none => .hold s0
          | some t =>
            match s0.sramAt w.core t v off with
            | none => .fail (.view vw)
            | some a =>
              if !s0.firewall w.part a then .hold (s0.freezeCore w.core w.part a)
              else
                match s0.strayAt a with
                | [] => ((s0.perform w i hs a ws none).named vw).ordered w i hs
                | xs => ((s0.performStray w i hs a ws xs).named vw).ordered w i hs
        | some id =>
          let va := v.offset + off
          match s0.touch w.core id va w.gi w.pc w.n with
          | .fill s1 => .log s1 ws
          | .hold s1 => .hold s1
          | .hit data s1 =>
            if memKind i == .atomic || wideOrder i hs then
              ((s1.atHome w i hs vw id va data ws no ans).named vw).ordered w i hs
            else s1.inSlot w i vw id va data ws

end Sys2Proof.Machine
end

