-- ==== Sys2Proof/Machine/Integer.lean ====
section
/-!
DEFINITION. Lane integer instructions (spec/05_lane_integer_control.md R116 to R127): binary, immediate, 64-bit pair,
division, unary, bit field, SEL, scalar-destination, ICMP and PLOG.
-/
namespace Sys2Proof.Machine

/-! ## Results on words -/

/-- `SatS32` and `SatU32` of R12: the clamped value, and SAT where it differs from the exact one. -/
def satS32 (x : Int) : Word × Word :=
  let y := clampInt x (-(2 ^ 31)) (2 ^ 31 - 1)
  (BitVec.ofInt 32 y, if y == x then 0 else fSAT)
def satU32 (x : Int) : Word × Word :=
  let y := clampInt x 0 (2 ^ 32 - 1)
  (BitVec.ofInt 32 y, if y == x then 0 else fSAT)

/-- The shift count B[4:0] (R11). -/
def count5 (b : Word) : Nat := bvFld b 0 5

/-- Number of one bits, leading zeros, trailing zeros, bit reversal and byte reversal (R122). -/
def popCount (x : Word) : Nat := ((upFrom 0 32).filter fun k => bit x.toNat k).length
def leadZeros (x : Word) : Nat := if x == 0 then 32 else 31 - Nat.log2 x.toNat
def trailZeros (x : Word) : Nat := ((upFrom 0 32).find? fun k => bit x.toNat k).getD 32
def bitReverse (x : Word) : Word := x.reverse
def byteSwap (x : Word) : Word := BitVec.ofNat 32 (ofBytes (bytesOf 4 x.toNat).reverse)

/-- The bit-field descriptor of R123: the position and the effective length. -/
def fieldPos (b : Word) : Nat := bvFld b 0 5
def fieldLen (b : Word) : Nat := min (bvFld b 8 6) (32 - fieldPos b)

/-- The division family (R121): quotient, remainder, and whether the divisor was 0. -/
def divSigned (a b : Word) : Word × Word × Bool :=
  if b == 0 then (0xFFFFFFFF, a, true)
  else if a == 0x80000000 && b == 0xFFFFFFFF then (0x80000000, 0, false)
  else (BitVec.ofInt 32 (Int.tdiv a.toInt b.toInt), BitVec.ofInt 32 (Int.tmod a.toInt b.toInt), false)
def divUnsigned (a b : Word) : Word × Word × Bool :=
  if b == 0 then (0xFFFFFFFF, a, true)
  else (BitVec.ofNat 32 (a.toNat / b.toNat), BitVec.ofNat 32 (a.toNat % b.toNat), false)

/-! ## The shared forms -/

/-- A 32-bit binary producer (R118). -/
def binary (i : Instr) (x : OpR) (f : Word → Word → Word × Word) (s : State) : Res :=
  localUnit i s (producer x.g x.w x.d fun e l => .ok (f (readSrc e l x.a) (readSrc e l x.b)))

/-- A T-form binary producer, which reads D (R66). -/
def binaryT (i : Instr) (x : OpR) (f : Word → Word → Word → Word) (s : State) : Res :=
  localUnit i s (producer x.g x.w x.d fun e l => .ok (f (l.reg x.d) (readSrc e l x.a) (readSrc e l x.b), 0))

/-- A unary producer (R122). -/
def unary (i : Instr) (x : OpU) (f : Word → Word) (s : State) : Res :=
  localUnit i s (producer x.g x.w x.d fun e l => .ok (f (readSrc e l x.a), 0))

/-- An immediate producer (R119). -/
def immediate (i : Instr) (x : OpI) (f : Word → Word → Word) (s : State) : Res :=
  localUnit i s (producer x.g x.w x.d fun e l => .ok (f (readSrc e l x.a) (immOf e.hints x.imm), 0))

/-- A member of the 64-bit pair family (R120). -/
def pairOp (i : Instr) (x : OpR64) (f : Word64 → Word64 → Word64) (s : State) : Res :=
  localUnit i s (guarded x.g fun e l => .go (l.setPair x.d (f (readSrc64 e l x.a) (readSrc64 e l x.b))))

/-- A member of the division family: a zero divisor sets DZ, or ends a candidate where mask bit 0 is set (R108, R121). -/
def division (i : Instr) (x : OpR) (f : Word → Word → Word × Bool) (s : State) : Res :=
  localUnit i s fun c n l =>
    if x.g.holds l then
      let e := c.env n
      let (r, dz) := f (readSrc e l x.a) (readSrc e l x.b)
      if dz && l.inside.isSome && bit e.fmask 0 then .fail .divZero
      else .go ((l.produce x.w x.d r).setFlags (if dz then fDZ else 0))
    else .go (l.produce true x.d (l.reg x.d))

/-- A scalar-destination instruction (R125): once for the group. -/
def scalar (i : Instr) (d : Fin 32) (f : Vector Word 32 → List Hint → Word) (s : State) : Res :=
  groupUnit i s fun c s =>
    .go (s.modGroup c.core c.gi fun g => { g with s := g.s.set d.val (f c.g.s c.hints) }) fun _ l => l

/-- A binary, a unary scalar instruction (R125). -/
def scalar2 (i : Instr) (x : OpSR) (f : Word → Word → Word) (s : State) : Res :=
  scalar i x.d (fun v _ => f (readSSrc v x.a) (readSSrc v x.b)) s
def scalar1 (i : Instr) (x : OpSU) (f : Word → Word) (s : State) : Res :=
  scalar i x.d (fun v _ => f (readSSrc v x.a)) s

/-- COMB: how a condition enters the old predicate (R126). -/
def combine (k : Comb) (old c : Bool) : Bool :=
  match k with
  | .set => c
  | .and => old && c
  | .or => old || c
  | .xor => old != c

/-- A predicate of a lane replaced. -/
def Lane.setP (l : Lane) (i : Fin 4) (b : Bool) : Lane := { l with p := l.p.set i.val b }

/-- COND of ICMP on words (R126). -/
def icmpHolds (c : ICond) (u : Bool) (a b : Word) : Bool :=
  let lt := if u then a.ult b else a.slt b
  match c with
  | .eq => a == b
  | .ne => a != b
  | .lt => lt
  | .le => lt || a == b
  | .gt => !(lt || a == b)
  | .ge => !lt
  | .tst => (a &&& b) != 0

/-- The function of PLOG (R127). -/
def plogFn (f : LogFn) (x y : Bool) : Bool :=
  match f with
  | .and => x && y
  | .or => x || y
  | .xor => x != y
  | .nand => !(x && y)
  | .nor => !(x || y)
  | .xnor => x == y
  | .copy => x

/-! ## The members -/

/-- IADD (R118). -/
def execIadd (x : OpR) (s : State) : Res := binary (.iadd x) x (fun a b => (a + b, 0)) s

/-- ISUB (R118). -/
def execIsub (x : OpR) (s : State) : Res := binary (.isub x) x (fun a b => (a - b, 0)) s

/-- IADDS (R118). -/
def execIadds (x : OpR) (s : State) : Res := binary (.iadds x) x (fun a b => satS32 (a.toInt + b.toInt)) s

/-- ISUBS (R118). -/
def execIsubs (x : OpR) (s : State) : Res := binary (.isubs x) x (fun a b => satS32 (a.toInt - b.toInt)) s

/-- UADDS (R118). -/
def execUadds (x : OpR) (s : State) : Res := binary (.uadds x) x (fun a b => satU32 ((a.toNat : Int) + (b.toNat : Int))) s

/-- USUBS (R118). -/
def execUsubs (x : OpR) (s : State) : Res := binary (.usubs x) x (fun a b => satU32 ((a.toNat : Int) - (b.toNat : Int))) s

/-- IABSD (R118). -/
def execIabsd (x : OpR) (s : State) : Res := binary (.iabsd x) x (fun a b => (BitVec.ofNat 32 (a.toInt - b.toInt).natAbs, 0)) s

/-- UAVG (R118). -/
def execUavg (x : OpR) (s : State) : Res := binary (.uavg x) x (fun a b => (BitVec.ofNat 32 ((a.toNat + b.toNat + 1) / 2), 0)) s

/-- IMUL (R118). -/
def execImul (x : OpR) (s : State) : Res := binary (.imul x) x (fun a b => (a * b, 0)) s

/-- IMULHI (R118). -/
def execImulhi (x : OpR) (s : State) : Res := binary (.imulhi x) x (fun a b => (BitVec.ofInt 32 (a.toInt * b.toInt / 2 ^ 32), 0)) s

/-- UMULHI (R118). -/
def execUmulhi (x : OpR) (s : State) : Res := binary (.umulhi x) x (fun a b => (BitVec.ofNat 32 (a.toNat * b.toNat / 2 ^ 32), 0)) s

/-- AND (R118). -/
def execAnd (x : OpR) (s : State) : Res := binary (.and x) x (fun a b => (a &&& b, 0)) s

/-- OR (R118). -/
def execOr (x : OpR) (s : State) : Res := binary (.or x) x (fun a b => (a ||| b, 0)) s

/-- XOR (R118). -/
def execXor (x : OpR) (s : State) : Res := binary (.xor x) x (fun a b => (a ^^^ b, 0)) s

/-- ANDN (R118). -/
def execAndn (x : OpR) (s : State) : Res := binary (.andn x) x (fun a b => (a &&& ~~~b, 0)) s

/-- SHL (R118). -/
def execShl (x : OpR) (s : State) : Res := binary (.shl x) x (fun a b => (a <<< count5 b, 0)) s

/-- SHR (R118). -/
def execShr (x : OpR) (s : State) : Res := binary (.shr x) x (fun a b => (a >>> count5 b, 0)) s

/-- SAR (R118). -/
def execSar (x : OpR) (s : State) : Res := binary (.sar x) x (fun a b => (a.sshiftRight (count5 b), 0)) s

/-- ROTL (R118). -/
def execRotl (x : OpR) (s : State) : Res := binary (.rotl x) x (fun a b => (a.rotateLeft (count5 b), 0)) s

/-- IMIN (R118). -/
def execImin (x : OpR) (s : State) : Res := binary (.imin x) x (fun a b => (if b.slt a then b else a, 0)) s

/-- IMAX (R118). -/
def execImax (x : OpR) (s : State) : Res := binary (.imax x) x (fun a b => (if a.slt b then b else a, 0)) s

/-- UMIN (R118). -/
def execUmin (x : OpR) (s : State) : Res := binary (.umin x) x (fun a b => (if b.ult a then b else a, 0)) s

/-- UMAX (R118). -/
def execUmax (x : OpR) (s : State) : Res := binary (.umax x) x (fun a b => (if a.ult b then b else a, 0)) s

/-- BFXZ (R123). -/
def execBfxz (x : OpR) (s : State) : Res := binary (.bfxz x) x (fun a b => (BitVec.ofNat 32 (bvFld a (fieldPos b) (fieldLen b)), 0)) s

/-- BFXS (R123). -/
def execBfxs (x : OpR) (s : State) : Res := binary (.bfxs x) x (fun a b => (BitVec.ofInt 32 (if fieldLen b == 0 then 0 else sextNat (fieldLen b) (bvFld a (fieldPos b) (fieldLen b))), 0)) s

/-- IMAD (R118). -/
def execImad (x : OpR) (s : State) : Res := binaryT (.imad x) x (fun d a b => a * b + d) s

/-- BFI (R123). -/
def execBfi (x : OpR) (s : State) : Res := binaryT (.bfi x) x (fun d a b => BitVec.ofNat 32 (setFld d.toNat (fieldPos b) (fieldLen b) a.toNat)) s

/-- FSHL (R123). -/
def execFshl (x : OpR) (s : State) : Res := binaryT (.fshl x) x (fun d a b => BitVec.ofNat 32 ((d.toNat * 2 ^ 32 + a.toNat) * 2 ^ count5 b / 2 ^ 32)) s

/-- ADD64 (R120). -/
def execAdd64 (x : OpR64) (s : State) : Res := pairOp (.add64 x) x (fun a b => a + b) s

/-- SUB64 (R120). -/
def execSub64 (x : OpR64) (s : State) : Res := pairOp (.sub64 x) x (fun a b => a - b) s

/-- MUL64 (R120). -/
def execMul64 (x : OpR64) (s : State) : Res := pairOp (.mul64 x) x (fun a b => a * b) s

/-- SHL64 (R120): B is a 32-bit source of which bits 5:0 are the count. -/
def execShl64 (x : OpR64) (s : State) : Res :=
  localUnit (.shl64 x) s (guarded x.g fun e l =>
    .go (l.setPair x.d (readSrc64 e l x.a <<< bvFld (readSrc e l x.b) 0 6)))

/-- IDIV (R121). -/
def execIdiv (x : OpR) (s : State) : Res := division (.idiv x) x (fun a b => let r := divSigned a b; (r.1, r.2.2)) s

/-- UDIV (R121). -/
def execUdiv (x : OpR) (s : State) : Res := division (.udiv x) x (fun a b => let r := divUnsigned a b; (r.1, r.2.2)) s

/-- IREM (R121). -/
def execIrem (x : OpR) (s : State) : Res := division (.irem x) x (fun a b => let r := divSigned a b; (r.2.1, r.2.2)) s

/-- UREM (R121). -/
def execUrem (x : OpR) (s : State) : Res := division (.urem x) x (fun a b => let r := divUnsigned a b; (r.2.1, r.2.2)) s

/-- MOV (R122). -/
def execMov (x : OpU) (s : State) : Res := unary (.mov x) x (fun a => a) s

/-- NOT (R122). -/
def execNot (x : OpU) (s : State) : Res := unary (.not x) x (fun a => ~~~a) s

/-- NEG (R122). -/
def execNeg (x : OpU) (s : State) : Res := unary (.neg x) x (fun a => -a) s

/-- IABS (R122). -/
def execIabs (x : OpU) (s : State) : Res := unary (.iabs x) x (fun a => if a.toInt < 0 then -a else a) s

/-- POPC (R122). -/
def execPopc (x : OpU) (s : State) : Res := unary (.popc x) x (fun a => BitVec.ofNat 32 (popCount a)) s

/-- CLZ (R122). -/
def execClz (x : OpU) (s : State) : Res := unary (.clz x) x (fun a => BitVec.ofNat 32 (leadZeros a)) s

/-- CTZ (R122). -/
def execCtz (x : OpU) (s : State) : Res := unary (.ctz x) x (fun a => BitVec.ofNat 32 (trailZeros a)) s

/-- BREV (R122). -/
def execBrev (x : OpU) (s : State) : Res := unary (.brev x) x (fun a => bitReverse a) s

/-- BSWAP (R122). -/
def execBswap (x : OpU) (s : State) : Res := unary (.bswap x) x (fun a => byteSwap a) s

/-- SEXT8 (R122). -/
def execSext8 (x : OpU) (s : State) : Res := unary (.sext8 x) x (fun a => (a.setWidth 8).signExtend 32) s

/-- SEXT16 (R122). -/
def execSext16 (x : OpU) (s : State) : Res := unary (.sext16 x) x (fun a => (a.setWidth 16).signExtend 32) s

/-- ZEXT8 (R122). -/
def execZext8 (x : OpU) (s : State) : Res := unary (.zext8 x) x (fun a => (a.setWidth 8).setWidth 32) s

/-- ZEXT16 (R122). -/
def execZext16 (x : OpU) (s : State) : Res := unary (.zext16 x) x (fun a => (a.setWidth 16).setWidth 32) s

/-- SEL (R124): every lane of its cohort writes. -/
def execSel (x : OpSel) (s : State) : Res :=
  localUnit (.sel x) s (producer .always x.w x.d fun e l => .ok (if x.sel.holds l then readSrc e l x.a else readSrc e l x.b, 0))

/-- SADD (R125). -/
def execSadd (x : OpSR) (s : State) : Res := scalar2 (.sadd x) x (fun a b => a + b) s

/-- SSUB (R125). -/
def execSsub (x : OpSR) (s : State) : Res := scalar2 (.ssub x) x (fun a b => a - b) s

/-- SMUL (R125). -/
def execSmul (x : OpSR) (s : State) : Res := scalar2 (.smul x) x (fun a b => a * b) s

/-- SMIN (R125). -/
def execSmin (x : OpSR) (s : State) : Res := scalar2 (.smin x) x (fun a b => if b.slt a then b else a) s

/-- SAND (R125). -/
def execSand (x : OpSR) (s : State) : Res := scalar2 (.sand x) x (fun a b => a &&& b) s

/-- SOR (R125). -/
def execSor (x : OpSR) (s : State) : Res := scalar2 (.sor x) x (fun a b => a ||| b) s

/-- SXOR (R125). -/
def execSxor (x : OpSR) (s : State) : Res := scalar2 (.sxor x) x (fun a b => a ^^^ b) s

/-- SSHL (R125). -/
def execSshl (x : OpSR) (s : State) : Res := scalar2 (.sshl x) x (fun a b => a <<< count5 b) s

/-- SMOV (R125). -/
def execSmov (x : OpSU) (s : State) : Res := scalar1 (.smov x) x (fun a => a) s

/-- SNOT (R125). -/
def execSnot (x : OpSU) (s : State) : Res := scalar1 (.snot x) x (fun a => ~~~a) s

/-- SNEG (R125). -/
def execSneg (x : OpSU) (s : State) : Res := scalar1 (.sneg x) x (fun a => -a) s

/-- SPOPC (R125). -/
def execSpopc (x : OpSU) (s : State) : Res := scalar1 (.spopc x) x (fun a => BitVec.ofNat 32 (popCount a)) s

/-- SCLZ (R125). -/
def execSclz (x : OpSU) (s : State) : Res := scalar1 (.sclz x) x (fun a => BitVec.ofNat 32 (leadZeros a)) s

/-- SSHR (R125). -/
def execSshr (x : OpSShr) (s : State) : Res := scalar (.sshr x) x.d (fun v _ => readSSrc v x.a >>> x.n.val) s

/-- SADDI (R125). -/
def execSaddi (x : OpSI) (s : State) : Res := scalar (.saddi x) x.d (fun v h => readSSrc v x.a + immOf h x.imm) s

/-- IADDI (R119). -/
def execIaddi (x : OpI) (s : State) : Res := immediate (.iaddi x) x (fun a b => a + b) s

/-- ANDI (R119). -/
def execAndi (x : OpI) (s : State) : Res := immediate (.andi x) x (fun a b => a &&& b) s

/-- ORI (R119). -/
def execOri (x : OpI) (s : State) : Res := immediate (.ori x) x (fun a b => a ||| b) s

/-- XORI (R119). -/
def execXori (x : OpI) (s : State) : Res := immediate (.xori x) x (fun a b => a ^^^ b) s

/-- SHLI (R119). -/
def execShli (x : OpI) (s : State) : Res := immediate (.shli x) x (fun a b => a <<< count5 b) s

/-- SHRI (R119). -/
def execShri (x : OpI) (s : State) : Res := immediate (.shri x) x (fun a b => a >>> count5 b) s

/-- SARI (R119). -/
def execSari (x : OpI) (s : State) : Res := immediate (.sari x) x (fun a b => a.sshiftRight (count5 b)) s

/-- IMULI (R119). -/
def execImuli (x : OpI) (s : State) : Res := immediate (.imuli x) x (fun a b => a * b) s

/-- MOVI, which is IADDI of zero (R78, R119). -/
def execMovi (x : OpMovI) (s : State) : Res :=
  localUnit (.movi x) s (producer x.g x.w x.d fun e _ => .ok (immOf e.hints x.imm, 0))

/-- ICMP (R126). -/
def execIcmp (x : OpICmp) (s : State) : Res :=
  localUnit (.icmp x) s (guarded x.g fun e l =>
    .go (l.setP x.pd (combine x.comb l.p[x.pd.val] (icmpHolds x.cond x.u (readSrc e l x.a) (readSrc e l x.b)))))

/-- PLOG (R127). -/
def execPlog (x : OpPLog) (s : State) : Res :=
  localUnit (.plog x) s (guarded x.g fun _ l =>
    .go (l.setP x.pd (combine x.comb l.p[x.pd.val] (plogFn x.fn (x.x.holds l) (x.y.holds l)))))

end Sys2Proof.Machine
end

