-- ==== Sys2Proof/Machine/FloatOps.lean ====
section
/-!
DEFINITION. Lane float, conversion, BF16 and plane-element instructions (spec/06_lane_float_planes.md R146 to R164).
-/
namespace Sys2Proof.Machine

/-! ## The shared forms -/

/-- A result of a float helper as a word with its flags. -/
def wordOf (r : Nat × Word) : Word × Word := (BitVec.ofNat 32 r.1, r.2)

/-- A binary float producer (R148). -/
def fbinary (i : Instr) (x : OpRF) (f : Nat → Nat → Nat × Word) (s : State) : Res :=
  localUnit i s (producer x.g x.w x.d fun e l => .ok (wordOf (f (readSrc e l x.a).toNat (readSrc e l x.b).toNat)))

/-- A T-form float producer, which reads D (R66, R148). -/
def fbinaryT (i : Instr) (x : OpRF) (f : Nat → Nat → Nat → Nat × Word) (s : State) : Res :=
  localUnit i s (producer x.g x.w x.d fun e l =>
    .ok (wordOf (f (l.reg x.d).toNat (readSrc e l x.a).toNat (readSrc e l x.b).toNat)))

/-- A unary float producer (R149, R154). -/
def funary (i : Instr) (x : OpUF) (f : Nat → Nat × Word) (s : State) : Res :=
  localUnit i s (producer x.g x.w x.d fun e l => .ok (wordOf (f (readSrc e l x.a).toNat)))

/-- A BF16 pair: each half computed on its own, the flags together (R159). -/
def halves (f : Nat → Nat → Nat → Nat × Word) (d a b : Nat) : Nat × Word :=
  let lo := f (fld d 0 16) (fld a 0 16) (fld b 0 16)
  let hi := f (fld d 16 16) (fld a 16 16) (fld b 16 16)
  (hi.1 * 2 ^ 16 + lo.1, lo.2 ||| hi.2)

/-- The rounding direction of a CVT to an integer (R155). -/
def RMode.dir (r : RMode) : RDir :=
  match r with
  | .rn => .near
  | .rz => .zero
  | .rd => .down
  | .ru => .up

/-! ## Lane blocks (R160) -/

/-- The value that lane n contributes to its block: of a lane of the unit that passes the checks and whose guard holds;
every other gives +0, a lane that fails its own checks too. (DEDUCED, log 35.) -/
def Ctx.contribution (c : Ctx) (i : Instr) (g : Guard) (a : Src) (n : Nat) : Nat :=
  let l := c.g.lane n
  if c.lanes.contains n && (l.begin_ i c).2.isNone && g.holds l then (readSrc (c.env n) l a).toNat else 0

/-- The 16 values of the block of lane n, as binary32 codes; a contained lane is alone in its block. -/
def Ctx.block (c : Ctx) (i : Instr) (g : Guard) (a : Src) (n : Nat) : List Nat :=
  (upFrom (n / 16 * 16) 16).map fun m =>
    if (c.g.lane n).inside.isSome && m != n then 0 else c.contribution i g a m

/-- A lane-block producer: `f` gives the result and the flags from the block's values and the lane's place in it. -/
def blockUnit (i : Instr) (x : OpU) (f : List Nat → Nat → Word × Word) (s : State) : Res :=
  localUnit i s fun c n => producer x.g x.w x.d (fun e _ => .ok (f (c.block i x.g x.a n) (e.n % 16))) c n

/-- The maximum of PLMAX (R161). -/
def blockMax (vs : List Nat) (_ : Nat) : Word × Word :=
  if vs.any fun v => (f32v v).isNaN then (0x7FC00000, 0)
  else (BitVec.ofNat 32 ((vs.map fun v => v % 2 ^ 31).foldr max 0), 0)

/-- The element of PLENC (R162): EM and ELEM, and SAT. -/
def blockEnc (vs : List Nat) (k : Nat) : Word × Word :=
  let (b, sats) := quantBlock (vs.map f32v)
  let em := if k % 2 == 0 then b.e else b.mu
  let sat := if b.e == 0xFF then !(f32v (nth 0 vs k)).isFin else nth false sats k
  (BitVec.ofNat 32 (em * 2 ^ 24 + nth 0 b.elems k), if sat then fSAT else 0)

/-- PLDEC of a register (R163). -/
def decodeElem (n : Nat) (rnp : Bool) (a : Nat) : Nat × Word :=
  let k := fld a 24 8
  if k == 0xFF then (fmtF32.nan, 0)
  else
    let (v, sat) := readElem ⟨k, 0, [fld a 0 24]⟩ 0 n rnp
    let (r, fl) := roundTo fmtF32 false v
    (r, fl ||| (if sat then fSAT else 0))

/-! ## The members -/

/-- FADD (R148). -/
def execFadd (x : OpRF) (s : State) : Res := fbinary (.fadd x) x (opAdd fmtF32 x.fi x.fo) s

/-- FSUB (R148). -/
def execFsub (x : OpRF) (s : State) : Res := fbinary (.fsub x) x (opSub fmtF32 x.fi x.fo) s

/-- FMUL (R148). -/
def execFmul (x : OpRF) (s : State) : Res := fbinary (.fmul x) x (opMul fmtF32 x.fi x.fo) s

/-- FFMA (R148). -/
def execFfma (x : OpRF) (s : State) : Res := fbinaryT (.ffma x) x (fun d a b => opFma fmtF32 x.fi x.fo a b d) s

/-- FMIN (R148, R17). -/
def execFmin (x : OpRF) (s : State) : Res := fbinary (.fmin x) x (opMinMax false x.fi x.fo) s

/-- FMAX (R148, R17). -/
def execFmax (x : OpRF) (s : State) : Res := fbinary (.fmax x) x (opMinMax true x.fi x.fo) s

/-- FABS (R149). -/
def execFabs (x : OpUF) (s : State) : Res := funary (.fabs x) x (opSign (fun _ => false) x.fi x.fo) s

/-- FNEG (R149). -/
def execFneg (x : OpUF) (s : State) : Res := funary (.fneg x) x (opSign (fun n => !n) x.fi x.fo) s

/-- FSQRT (R149, R150). -/
def execFsqrt (x : OpUF) (s : State) : Res := funary (.fsqrt x) x (opSqrt x.fi x.fo) s

/-- FRCP (R149, R150). -/
def execFrcp (x : OpUF) (s : State) : Res := funary (.frcp x) x (opRcp x.fi x.fo) s

/-- FRSQ (R149, R150). -/
def execFrsq (x : OpUF) (s : State) : Res := funary (.frsq x) x (opRsq x.fi x.fo) s

/-- FEXP2 (R32). -/
def execFexp2 (x : OpUF) (s : State) : Res := funary (.fexp2 x) x (opExp2 x.fi x.fo) s

/-- FLOG2 (R32). -/
def execFlog2 (x : OpUF) (s : State) : Res := funary (.flog2 x) x (opLog2 x.fi) s

/-- FFLOOR (R151). -/
def execFfloor (x : OpUF) (s : State) : Res := funary (.ffloor x) x (opIntegral .down x.fi) s

/-- FCEIL (R151). -/
def execFceil (x : OpUF) (s : State) : Res := funary (.fceil x) x (opIntegral .up x.fi) s

/-- FTRUNC (R151). -/
def execFtrunc (x : OpUF) (s : State) : Res := funary (.ftrunc x) x (opIntegral .zero x.fi) s

/-- FRINT (R151). -/
def execFrint (x : OpUF) (s : State) : Res := funary (.frint x) x (opIntegral .near x.fi) s

/-- FCLASS (R152). -/
def execFclass (x : OpUF) (s : State) : Res := funary (.fclass x) x (fun a => (opClass x.fi a, 0)) s

/-- CVT.f32.s32 (R155). -/
def execCvtF32S32 (x : OpUF) (s : State) : Res := funary (.cvtF32S32 x) x (fun a => opFromInt (BitVec.ofNat 32 a).toInt) s

/-- CVT.f32.n32 (R155). -/
def execCvtF32N32 (x : OpUF) (s : State) : Res := funary (.cvtF32N32 x) x (fun a => opFromInt a) s

/-- CVT.s32.f32 (R155). -/
def execCvtS32F32 (x : OpCvtR) (s : State) : Res :=
  localUnit (.cvtS32F32 x) s (producer x.g x.w x.d fun e l =>
    .ok (opToInt (RMode.dir x.r) x.fi (-(2 ^ 31)) (2 ^ 31 - 1) (readSrc e l x.a).toNat))

/-- CVT.n32.f32 (R155). -/
def execCvtN32F32 (x : OpCvtR) (s : State) : Res :=
  localUnit (.cvtN32F32 x) s (producer x.g x.w x.d fun e l =>
    .ok (opToInt (RMode.dir x.r) x.fi 0 (2 ^ 32 - 1) (readSrc e l x.a).toNat))

/-- CVT.bf16.f32 (R156). -/
def execCvtBf16F32 (x : OpUF) (s : State) : Res := funary (.cvtBf16F32 x) x (opNarrowBF16 x.fi x.fo) s

/-- CVT.f32.bf16 (R157). -/
def execCvtF32Bf16 (x : OpUF) (s : State) : Res := funary (.cvtF32Bf16 x) x (fun a => opWiden fmtBF16 x.fi (fld a 0 16)) s

/-- CVT.e4m3.f32 (R156). -/
def execCvtE4m3F32 (x : OpCvtS) (s : State) : Res :=
  localUnit (.cvtE4m3F32 x) s (producer x.g x.w x.d fun e l =>
    .ok (wordOf (opNarrowF8 fmtE4M3 x.fi x.fo x.sat (readSrc e l x.a).toNat)))

/-- CVT.e5m2.f32 (R156). -/
def execCvtE5m2F32 (x : OpCvtS) (s : State) : Res :=
  localUnit (.cvtE5m2F32 x) s (producer x.g x.w x.d fun e l =>
    .ok (wordOf (opNarrowF8 fmtE5M2 x.fi x.fo x.sat (readSrc e l x.a).toNat)))

/-- CVT.f32.e4m3 (R157). -/
def execCvtF32E4m3 (x : OpUF) (s : State) : Res := funary (.cvtF32E4m3 x) x (fun a => opWiden fmtE4M3 x.fi (fld a 0 8)) s

/-- CVT.f32.e5m2 (R157). -/
def execCvtF32E5m2 (x : OpUF) (s : State) : Res := funary (.cvtF32E5m2 x) x (fun a => opWiden fmtE5M2 x.fi (fld a 0 8)) s

/-- CVT.e4m3.e2m1 (R158). -/
def execCvtE4m3E2m1 (x : OpUF) (s : State) : Res := funary (.cvtE4m3E2m1 x) x (fun a => (opExpand4 (some fmtE2M1) 4 x.fi a, 0)) s

/-- CVT.e4m3.e3m2 (R158). -/
def execCvtE4m3E3m2 (x : OpUF) (s : State) : Res := funary (.cvtE4m3E3m2 x) x (fun a => (opExpand4 (some fmtE3M2) 6 x.fi a, 0)) s

/-- CVT.e4m3.e2m3 (R158). -/
def execCvtE4m3E2m3 (x : OpUF) (s : State) : Res := funary (.cvtE4m3E2m3 x) x (fun a => (opExpand4 (some fmtE2M3) 6 x.fi a, 0)) s

/-- CVT.e4m3.i4 (R158). -/
def execCvtE4m3I4 (x : OpUF) (s : State) : Res := funary (.cvtE4m3I4 x) x (fun a => (opExpand4 none 4 x.fi a, 0)) s

/-- BFMA2 (R159). -/
def execBfma2 (x : OpRF) (s : State) : Res := fbinaryT (.bfma2 x) x (halves fun d a b => opFma fmtBF16 x.fi x.fo a b d) s

/-- BFADD2 (R159). -/
def execBfadd2 (x : OpRF) (s : State) : Res := fbinary (.bfadd2 x) x (halves (fun _ a b => opAdd fmtBF16 x.fi x.fo a b) 0) s

/-- BFMUL2 (R159). -/
def execBfmul2 (x : OpRF) (s : State) : Res := fbinary (.bfmul2 x) x (halves (fun _ a b => opMul fmtBF16 x.fi x.fo a b) 0) s

/-- PLENC (R162). -/
def execPlenc (x : OpU) (s : State) : Res := blockUnit (.plenc x) x blockEnc s

/-- PLMAX (R161). -/
def execPlmax (x : OpU) (s : State) : Res := blockUnit (.plmax x) x blockMax s

/-- PLDEC (R163). -/
def execPldec (x : OpPlDec) (s : State) : Res :=
  localUnit (.pldec x) s (producer x.g x.w x.d fun e l =>
    .ok (wordOf (decodeElem (x.n.val + 1) x.rnp (readSrc e l x.a).toNat)))

/-- FCMP (R153): a condition that the fault mask selects writes nothing (R108). -/
def execFcmp (x : OpFCmp) (s : State) : Res :=
  localUnit (.fcmp x) s (guarded x.g fun e l =>
    let (r, fl) := opFCmp x.cond x.q x.fi (readSrc e l x.a).toNat (readSrc e l x.b).toNat
    match l.raises e.fmask fl with
    | some k => .fail k
    | none => .go ((l.setP x.pd (combine x.comb l.p[x.pd.val] r)).setFlags fl))

end Sys2Proof.Machine
end

