-- ==== Sys2Proof/Machine/Mem.lean ====
section
/-!
DEFINITION. The lane memory instructions LD, ST, LDA, STL, ATOM, ATOMX and PLD (spec/05 R138, R139; spec/09 R199 to R204),
the operand log and its replay (spec/08 R186, R385), and the spill and refill of the return stack (spec/04 R97).
-/
namespace Sys2Proof.Machine

/-! ## The operand log -/

/-- The log entry of the unit in hand, where a lane of it has made one: the log as it stood at issue is shorter. -/
def Ctx.entry (c : Ctx) (s : State) : Option LogEntry :=
  match s.group c.core c.gi with
  | none => none
  | some g => if c.g.log.length < g.log.length then g.log.getLast? else none

/-- The number of the unit's log entry, made or to be made. -/
def Ctx.entryNo (c : Ctx) (s : State) : Nat := ((c.entry s).map (·.no)).getD s.nextFence

/-- Whether a lane of the unit may enter the log: its entry stands, or one of the four is free (R186). -/
def Ctx.canLog (c : Ctx) (s : State) : Bool :=
  (c.entry s).isSome || (((s.group c.core c.gi).map fun (g : Group) => decide (g.log.length < 4)).getD false)

/-- The machine whose unit finds the log full: the group is not ready until an entry frees (R186). -/
def State.atPort (s : State) (c : Ctx) : State := s.modGroup c.core c.gi fun g => { g with wait := .port }

/-- A lane's access in the unit's log entry (R186). -/
def State.logLane (s : State) (c : Ctx) (i : Instr) (vw : Nat) (v : View) (dests : List (Fin 64)) (x : LaneAccess) : State :=
  match c.entry s with
  | some _ =>
    s.modGroup c.core c.gi fun g =>
      { g with log := modifyNth (fun e => { e with lanes := e.lanes ++ [x] }) (g.log.length - 1) g.log }
  | none =>
    let s1 := s.modGroup c.core c.gi fun g =>
      { g with log := g.log ++ [⟨s.nextFence, c.place, c.words, i, c.hints, [x], vw, v, dests, false⟩] }
    { s1 with nextFence := s1.nextFence + 1 }

/-- The words delivered to physical registers, in order. -/
def Lane.fillRegs (l : Lane) : List (Fin 64) → List Word → Lane
  | d :: ds, w :: ws => Lane.fillRegs { l with v := l.v.set d.val w } ds ws
  | _, _ => l

/-- Whether a contained lane may name a view (R104). -/
def Ctx.maskOk (c : Ctx) (l : Lane) (vw : Nat) : Bool := l.inside.isNone || (bit c.g.cmask.toNat vw && vw != 63)

/-- The view numbered `vw` as the unit read it at issue (R196). -/
def Ctx.view (c : Ctx) (vw : Nat) : View := c.t.views[vw]?.getD View.zero

/-- Who a lane of the unit is. -/
def Ctx.who (c : Ctx) (n : Nat) : Who := ⟨c.core, c.gi, n, c.t.part, c.place.pc⟩

/-- A lane whose access has entered the log (R186): it goes on past the unit, but for a contained one, which waits there until the
access has been replayed (R104, R109). -/
def Lane.logs (l : Lane) (words : Nat) : LaneEnd :=
  if l.inside.isSome then .away { l with pc := l.pc + BitVec.ofNat 32 words, wait := .refill } else .go l

/-- A memory instruction in one lane. -/
def memBody (i : Instr) (g : Guard) (vw : Nat) (c : Ctx) (s : State) (n : Nat) (l : Lane) : State × LaneEnd :=
  if !g.holds l then (s, .go l)
  else if !c.maskOk l vw then (s, .fail (.view vw))
  else
    let v := c.view vw
    let coords := ((c.run i).getD []).map (readSrc (c.env n) l)
    let data := (memData i).map l.reg
    let dests := (memDests i).map l.phys
    if s.behindLog (c.who n) v i c.hints coords then (s, .stay)
    else
      match s.access (c.who n) i c.hints vw v coords data (c.entryNo s) none with
      | .fail e => (s, .fail e)
      | .dead k a => (s.reportCut c.t.part a true, .fail (.dataError k))
      | .hold s1 => (s1, .stay)
      | .log s1 ws =>
        if c.canLog s then
          let l1 := { l with pending := l.pending ++ dests }
          (s1.logLane c i vw v dests ⟨n, coords, ws⟩, (if memKind i == .load then l1 else l1.sided).logs c.words)
        else (s.atPort c, .stay)
      | .done s1 out fl =>
        match l.raises (recFmask c.r) fl with
        | some e => (s1, .fail e)
        | none =>
          let l1 := (l.fillRegs dests out).setFlags fl
          (s1, .go (if memKind i == .load then l1 else l1.sided))

/-! ## The return stack (R96, R97) -/

/-- The load and the store of the spill view's 64-bit element, as accesses of w63. -/
def spillLd : Instr := .ld ⟨.always, .w64, 0, 63, 0⟩
def spillSt : Instr := .st ⟨.always, .w64, 0, 63, 0⟩

/-- The conditions of R97 on w63. -/
def View.spillOk (v : View) : Bool := v.valid && v.rank == 2 && v.ty == tyB64 && v.hasR && v.hasW

/-- What comes of a push or a pop of the return stack. -/
inductive StackEnd where
  | ok (s : State) (l : Lane)
  | fail (c : Cause)
  | stay (s : State)
  | wait (s : State) (l : Lane)

/-- Whether the spill or refill coordinate lies in w63 (R97); another fault of the access, of a STOOK view or of a misaligned
element, stays the view fault it is (R101, R102). -/
def View.spillHolds (v : View) (coords : List Word) : Bool := v.inExtent (coords.map (·.toNat))

/-- A push (R96): a full stack spills its two oldest entries first (R97), which in contained state gives CALLDEPTH. -/
def State.push (s : State) (c : Ctx) (n : Nat) (l : Lane) (ret : Word) : StackEnd :=
  if l.stack.length < 4 then .ok s { l with stack := l.stack ++ [ret] }
  else if l.inside.isSome then .fail .callSpill
  else
    let v := c.view 63
    if !v.spillOk then .fail .callSpill
    else
      let coords := [BitVec.ofNat 32 (c.env n).tid, l.spill.setWidth 32]
      let ws := l.stack.take 2
      let l1 := { l with stack := l.stack.drop 2 ++ [ret], spill := l.spill + 1 }
      if !v.spillHolds coords then .fail .callSpill
      else if s.behindLog (c.who n) v spillSt [] coords then .stay s
      else
        match s.access (c.who n) spillSt [] 63 v coords ws (c.entryNo s) none with
        | .fail e => .fail e
        | .dead k _ => .fail (.dataError k)
        | .hold s1 => .stay s1
        | .log s1 ws1 => if c.canLog s then .ok (s1.logLane c spillSt 63 v [] ⟨n, coords, ws1⟩) l1 else .stay (s.atPort c)
        | .done s1 _ _ => .ok s1 l1

/-- The lane after RET has popped the newest entry. -/
def Lane.popped (l : Lane) : Lane := { l with pc := l.stack.getLast?.getD l.pc, stack := l.stack.dropLast }

/-- A pop (R96, R97): `ok` gives the lane with its PC at the entry; a refill that must wait leaves the lane waiting at the
RET. -/
def State.pop (s : State) (i : Instr) (c : Ctx) (n : Nat) (l : Lane) : StackEnd :=
  if !l.stack.isEmpty then .ok s l.popped
  else if l.inside.isSome || l.spill == 0 then .fail .retUnder
  else
    let v := c.view 63
    if !v.spillOk then .fail .callSpill
    else
      let coords := [BitVec.ofNat 32 (c.env n).tid, (l.spill - 1).setWidth 32]
      if !v.spillHolds coords then .fail .callSpill
      else if s.behindLog (c.who n) v spillLd [] coords then .stay s
      else
        match s.access (c.who n) spillLd [] 63 v coords [] (c.entryNo s) none with
        | .fail e => .fail e
        | .dead k _ => .fail (.dataError k)
        | .hold s1 => .stay s1
        | .log s1 _ =>
          if c.canLog s then .wait (s1.logLane c i 63 v [] ⟨n, coords, []⟩) { l with wait := .refill } else .stay (s.atPort c)
        | .done s1 out _ => .ok s1 ({ l with stack := out, spill := l.spill - 1 } : Lane).popped

/-! ## Entering contained state (R104, R141) -/

/-- The fuel that CENTER loads. -/
def centerFuel (r : LaunchBytes) (b : Word) : BitVec 24 :=
  if b == 0 then BitVec.ofNat 24 (recFuel r) else if bvFld b 24 8 == 0 then BitVec.ofNat 24 b.toNat else 0xFFFFFF

/-- The lane whose slot has no legal header, past CENTER (R141). -/
def Lane.noHeader (l : Lane) (d : Fin 64) (words : Nat) : Lane :=
  { (l.setReg d 0x09) with pc := l.pc + BitVec.ofNat 32 words, wait := .none, chain := 0 }

/-- The lane in contained state at the candidate of slot k, of n words, or past CENTER where n is no legal length. -/
def Lane.center (l : Lane) (r : LaunchBytes) (d : Fin 64) (words k n : Nat) (b : Word) : Lane :=
  if n < 1 || 15 < n then l.noHeader d words
  else
    { l with
      inside := some {
        entry := 16 * k + 1, limit := 16 * k + 1 + n, count := 0, stack := l.stack, spill := l.spill, p := l.p,
        status := l.status, d := d, home := l.pc + BitVec.ofNat 32 words - 1 }
      stack := []
      spill := 0
      p := Vector.replicate 4 false
      status := 0
      fuel := centerFuel r b
      latches := []
      chain := 0
      pc := BitVec.ofNat 32 (16 * k + 1)
      wait := .none }

/-! ## Replay (R186, R385) -/

/-- The wait for a replay is over, for a lane whose logged access it was: of a contained lane, which waits at each of its own
(R104). -/
def Lane.awake (l : Lane) : Lane := if l.inside.isSome && l.wait == .refill then { l with wait := .none } else l

/-- The lane when its logged access has been performed: registers written and no longer pending, flags set; a contained lane, and a
RET or a CENTER, that waited for it goes on. -/
def Lane.replayed (l : Lane) (r : LaunchBytes) (e : LogEntry) (x : LaneAccess) (out : List Word) (fl : Word) : Lane :=
  match e.instr with
  | .ret _ => ({ l with stack := out, spill := l.spill - 1, wait := .none, chain := 0 } : Lane).popped
  | .center y => l.center r y.d e.words ((nth 0 x.coords 0).toNat / 16) (nth 0 out 0).toNat (nth 0 x.data 0)
  | _ => ({ l.awake.fillRegs e.dests out with pending := l.pending.filter fun d => !e.dests.contains d } : Lane).setFlags fl

/-- The access that a logged unit replays: of a RET its refill, of a CENTER the read of its slot's length word. -/
def LogEntry.access (e : LogEntry) : Instr :=
  match e.instr with
  | .ret _ => spillLd
  | .center _ => .ld ⟨.always, .w32, 0, 0, 0⟩
  | i => i

/-- The group with a lane's access taken out of entry `no`, and the entry freed when it was the last. -/
def Group.unlog (g : Group) (no lane : Nat) : Group :=
  let log := g.log.map fun (e : LogEntry) =>
    if e.no == no then { e with lanes := e.lanes.filter fun x => x.lane != lane } else e
  { g with log := log.filter fun e => e.no != no || !e.lanes.isEmpty }

/-- The logged lanes of an entry whose access failed (R314, R385): contained ones end with VIEWBOUNDS, the others halt
their group where its lanes stand, the entry staying in the log. (DEDUCED, log 27.) -/
def State.failLogged (s : State) (core gi no kind detail : Nat) (lanes : List Nat) : State :=
  match s.group core gi with
  | none => s
  | some g =>
    match g.log.find? fun e => e.no == no with
    | none => s
    | some e =>
      let inside := lanes.filter fun n => (g.lane n).inside.isSome
      let plain := lanes.filter fun n => (g.lane n).inside.isNone
      let s1 := inside.foldl (fun (s : State) n =>
        (s.modLane core gi n fun l =>
          ({ l with pending := l.pending.filter (fun d => !e.dests.contains d), wait := .none } : Lane).deliver 5).modGroup
          core gi fun g => g.unlog no n) s
      if plain.isEmpty then s1
      else
        let s2 := s1.modGroup core gi fun g =>
          { g with log := g.log.map fun e => if e.no == no then { e with failed := true } else e }
        s2.haltGroup core gi ⟨kind, detail, 0, maskOf plain, 0, e.place.pc, e.words, false, false, some no⟩

/-- The replay of one lane's access of an entry, with the answer where one came: the machine, and the condition where the access
failed. (DEDUCED, log 27.) -/
def State.replayOne (s : State) (core gi no lane : Nat) (ans : Option (List Byte × Bool)) : State × Option Cause :=
  match s.team core with
  | none => (s, none)
  | some t =>
   match s.group core gi with
   | none => (s, none)
   | some g =>
    match g.log.find? fun e => e.no == no with
    | none => (s, none)
    | some e =>
      match e.lanes.find? fun x => x.lane == lane with
      | none => (s, none)
      | some x =>
        let w : Who := ⟨core, gi, lane, t.part, e.place.pc⟩
        let hs := match e.instr with
          | .ret _ => []
          | .center _ => []
          | _ => e.hints
        match s.access w e.access hs e.vw e.view x.coords x.data no ans with
        | .hold s1 => (s1, none)
        | .log s1 ws =>
          (s1.modGroup core gi fun g => { g with log := g.log.map fun y =>
            if y.no == no then { y with lanes := y.lanes.map fun z => if z.lane == lane then { z with data := ws } else z }
            else y }, none)
        | .fail c => (s, some c)
        | .dead k a => (s.reportCut t.part a true, some (.dataError k))
        | .done s1 out fl =>
          let r := s.recordOf t
          let s2 := s1.modLane core gi lane fun l =>
            match l.raises (recFmask r) fl with
            | some k => ({ l.awake with pending := l.pending.filter fun d => !e.dests.contains d } : Lane).deliver k.outcome
            | none => l.replayed r e x out fl
          ((s2.modGroup core gi fun g => (g.unlog no lane).settle).moved, none)

/-- Lanes of one entry that failed in the same unit share a record, of the first one's kind (R187). (DEDUCED, log 19.) -/
def State.replayFails (s : State) (core gi no : Nat) (fails : List (Nat × Cause)) : State :=
  match fails with
  | [] => s
  | (_, c) :: _ => s.failLogged core gi no c.kind c.detail (fails.map (·.1))

/-- The replay of one lane's access of an entry, with the answer that came for it. -/
def State.replayLane (s : State) (core gi no lane : Nat) (ans : Option (List Byte × Bool)) : State :=
  let (s1, c) := s.replayOne core gi no lane ans
  s1.replayFails core gi no ((c.map fun c => (lane, c)).toList)

/-- The replay of an entry, lane after lane. -/
def State.replayEntry (s : State) (core gi : Nat) (e : LogEntry) : State :=
  let (s1, fails) := e.lanes.foldl (fun (acc : State × List (Nat × Cause)) x =>
    let (s1, c) := acc.1.replayOne core gi e.no x.lane none
    (s1, acc.2 ++ (c.map fun c => (x.lane, c)).toList)) (s, [])
  s1.replayFails core gi e.no fails

/-- The replay of a group's log in log order; an entry whose access has failed stays for the driver (R385). -/
def State.replayGroup (s : State) (core gi : Nat) : State :=
  match s.group core gi with
  | none => s
  | some g => (g.log.filter fun e => !e.failed).foldl (fun (s : State) e => s.replayEntry core gi e) s

/-- The replay of every group of a core's team. -/
def State.replayTeam (s : State) (core : Nat) : State :=
  match s.team core with
  | none => s
  | some t => (upFrom 0 t.groups.length).foldl (fun (s : State) gi => s.replayGroup core gi) s

/-! ## The members -/

/-- LD (R138, R139). -/
def execLd (x : OpLd) (s : State) : Res := memUnit (.ld x) s (memBody (.ld x) x.g x.vw.val)

/-- ST (R138, R139). -/
def execSt (x : OpSt) (s : State) : Res := memUnit (.st x) s (memBody (.st x) x.g x.vw.val)

/-- LDA (R199). -/
def execLda (x : OpOrd) (s : State) : Res := memUnit (.lda x) s (memBody (.lda x) x.g x.vw.val)

/-- STL (R199). -/
def execStl (x : OpOrd) (s : State) : Res := memUnit (.stl x) s (memBody (.stl x) x.g x.vw.val)

/-- ATOM (R201, R203). -/
def execAtom (x : OpAtom) (s : State) : Res := memUnit (.atom x) s (memBody (.atom x) x.g x.vw.val)

/-- ATOMX (R202, R203). -/
def execAtomx (x : OpAtomX) (s : State) : Res := memUnit (.atomx x) s (memBody (.atomx x) x.g x.vw.val)

/-- PLD (R204). -/
def execPld (x : OpPld) (s : State) : Res := memUnit (.pld x) s (memBody (.pld x) x.g x.vw.val)

end Sys2Proof.Machine
end

