-- ==== Sys2Proof/Machine/Control.lean ====
section
/-!
DEFINITION. Lane control, system members, special registers, and running candidates (spec/05_lane_integer_control.md R128
to R137, R140 to R145).
-/
namespace Sys2Proof.Machine

/-! ## Branches (R128 to R130, R133) -/

/-- The word index of the unit's instruction word, which branch offsets count from (R56, R58; DEDUCED, log 14). -/
def Ctx.at_ (c : Ctx) (l : Lane) : Word := l.pc + BitVec.ofNat 32 (c.words - 1)

/-- BRA (R128). -/
def execBra (x : OpB) (s : State) : Res :=
  localUnit (.bra x) s fun c => guarded x.g (fun _ l => .jump l (c.at_ l + x.off.signExtend 32)) c

/-- DBNZ (R129). -/
def execDbnz (x : OpBL) (s : State) : Res :=
  localUnit (.dbnz x) s fun c => guarded x.g (fun _ l =>
    let v := l.reg x.a - 1
    let l1 := l.setReg x.a v
    if v != 0 then .jump l1 (c.at_ l + x.off.signExtend 32) else .go l1) c

/-- Whether a contained lane may go to a word of the bank (R130). -/
def Lane.mayJump (l : Lane) (pc : Word) : Bool :=
  match l.inside with
  | none => true
  | some k => k.entry ≤ pc.toNat && pc.toNat < k.limit

/-- JMPR (R130). -/
def execJmpr (x : OpGA) (s : State) : Res :=
  localUnit (.jmpr x) s (guarded x.g fun e l =>
    let a := readSrc e l x.a
    if l.mayJump a then .jump l a else .fail .codeBounds)

/-- A call: the push, then the jump to `target` (R96, R128, R130). -/
def callBody (g : Guard) (target : Ctx → Env → Lane → Word) (check : Bool) (c : Ctx) (s : State) (n : Nat) (l : Lane) :
    State × LaneEnd :=
  if !g.holds l then (s, .go l)
  else
    let t := target c (c.env n) l
    match s.push c n l (l.pc + BitVec.ofNat 32 c.words) with
    | .fail e => (s, .fail e)
    | .stay s1 => (s1, .stay)
    | .wait s1 l1 => (s1, .away l1)
    | .ok s1 l1 => if check && !l.mayJump t then (s, .fail .codeBounds) else (s1, .jump l1 t)

/-- CALL (R128). -/
def execCall (x : OpB) (s : State) : Res :=
  memUnit (.call x) s (callBody x.g (fun c _ l => c.at_ l + x.off.signExtend 32) false)

/-- CALLR (R130): in contained state the push is checked before the target. -/
def execCallr (x : OpGA) (s : State) : Res :=
  memUnit (.callr x) s (callBody x.g (fun _ e l => readSrc e l x.a) true)

/-- RET (R96, R97, R130). -/
def execRet (x : OpG) (s : State) : Res :=
  memUnit (.ret x) s fun c s n l =>
    if !x.g.holds l then (s, .go l)
    else
      match s.pop (.ret x) c n l with
      | .fail e => (s, .fail e)
      | .stay s1 => (s1, .stay)
      | .wait s1 l1 => (s1, .away { l1 with latches := [], chain := 0 })
      | .ok s1 l1 => (s1, .jump l1 l1.pc)

/-- The target of MBR in a lane (R58, R133): that of the first selected predicate that holds. -/
def mbrTarget (x : OpMbr) (hs : List Hint) (l : Lane) : Option (BitVec 11) :=
  let offs := ((hbts hs).map fun b => [b.t1, b.t2]).flatten
  let sels := [x.q1, x.q2, x.q3, x.q4].take (x.n.val + 1)
  ((sels.zip offs).find? fun p => p.1.holds l).map (·.2)

/-- MBR (R133). -/
def execMbr (x : OpMbr) (s : State) : Res :=
  localUnit (.mbr x) s fun c _ l =>
    match mbrTarget x c.hints l with
    | some off => .jump l (c.at_ l + off.signExtend 32)
    | none => .go l

/-! ## Gathering (R131, R132) -/

/-- RVZ (R131): where no lane of the cohort has a true guard, nobody waits; a bound of 0 completes at once. (DEDUCED, log 34.) -/
def execRvz (x : OpGA) (s : State) : Res :=
  groupUnit (.rvz x) s fun c s =>
    match c.lanes.filter fun n => x.g.holds (c.g.lane n) with
    | [] => .go s fun _ l => { l with chain := 0 }
    | _ :: _ =>
      let bound := match c.lanes.head? with
        | some n => readSrc (c.env n) (c.g.lane n) x.a
        | none => 0
      let r : Rvz := ⟨c.place, bound, c.words, x.g⟩
      if bound == 0 then .go s fun _ l => { l with latches := [], chain := 0 }
      else .wait (s.modGroup c.core c.gi fun g => { g with rvz := some r }) .none

/-- SYNCL (R132): a release, so a lane with a logged access stays until it is performed. -/
def execSyncl (x : OpGA) (s : State) : Res :=
  memUnit (.syncl x) s fun c s n l =>
    if !x.g.holds l then (s, .go l)
    else if s.logged c.core c.gi n then (s, .stay)
    else
      (s, .away { l with gen := l.gen + 1, wait := .syncl (readSrc (c.env n) l x.a).toNat c.words, latches := [], chain := 0 })

/-! ## System members (R134) -/

/-- EXIT (R134): a lane that holds a task gives it up (R260), which is a release of its accesses, the logged ones included
(R276). -/
def execExit (x : OpG) (s : State) : Res :=
  memUnit (.exit x) s fun c s n l =>
    if !x.g.holds l then (s, .go l)
    else if l.inside.isSome then (s, .fail .exited)
    else if l.task.hold && s.logged c.core c.gi n then (s, .stay)
    else
      (s.releaseTask c.core c.gi n,
        .away { l with exited := true, latches := [], chain := 0, task := { l.task with hold := false } })

/-- TRAP (R134). -/
def execTrap (x : OpTrap) (s : State) : Res :=
  localUnit (.trap x) s (guarded x.g fun e l => .fail (.trap x.k.val (readSrc e l x.a)))

/-- BRK (R134). -/
def execBrk (x : OpG) (s : State) : Res := localUnit (.brk x) s (guarded x.g fun _ _ => .fail .brk)

/-- NOP (R134). -/
def execNop (x : OpG) (s : State) : Res := localUnit (.nop x) s (guarded x.g fun _ l => .go l)

/-- The groups that a YIELD waits for (R134): the others that share a segment and are ready now. -/
def State.yieldsTo (s : State) (core gi : Nat) : List Nat :=
  match s.team core, s.group core gi with
  | some t, some g =>
    placesFrom (fun k (h : Group) => k != gi && sharesSegment g h && s.groupReady core k) 0 t.groups
  | _, _ => []

/-- YIELD (R134): with every non-exited lane in the cohort and a true guard in some. -/
def execYield (x : OpG) (s : State) : Res :=
  match s.context with
  | none => .fault .noIssue
  | some c =>
    match localUnit (.yield x) s (guarded x.g fun _ l => .go l) with
    | .next s1 =>
      if c.full && c.lanes.any fun n => x.g.holds (c.g.lane n) then
        match s.yieldsTo c.core c.gi with
        | [] => .next s1
        | ws => .next (s1.modGroup c.core c.gi fun g => if g.halts.isEmpty then { g with wait := .yielded ws } else g)
      else .next s1
    | .fault f => .fault f
    | .refused r => .refused r

/-! ## Special registers (R135 to R137) -/

/-- The low and high words of a 64-bit value. -/
def lo32 (x : Word64) : Word := x.setWidth 32
def hi32 (x : Word64) : Word := (x >>> 32).setWidth 32

/-- What a read of a special register gives in a lane (R136, R137): the value, and for a .lo register which half it latches
and what. -/
def readSpecial (s : State) (c : Ctx) (l : Lane) (n : Special) : Word × Option (Fin 6 × Word) :=
  let w64 := fun (k : Fin 6) (x : Word64) => (lo32 x, some (k, hi32 x))
  let word := BitVec.ofNat 32 (recStage c.r c.g.stage)
  match n with
  | .status => (l.status, none)
  | .fuel => (l.fuelLeft.setWidth 32, none)
  | .sig0lo => w64 0 l.h0
  | .sig0hi => (l.hi[0], none)
  | .sig1lo => w64 1 l.h1
  | .sig1hi => (l.hi[1], none)
  | .spill => (l.spill.setWidth 32, none)
  | .stage => (BitVec.ofNat 32 (c.g.stage + 4 * bvFld word 20 2 + 16 * bvFld word 22 2), none)
  | .group => (BitVec.ofNat 32 c.g.index, none)
  | .teamX => (BitVec.ofNat 32 (teamX c.r c.t.number), none)
  | .teamY => (BitVec.ofNat 32 (teamY c.r c.t.number), none)
  | .teamZ => (BitVec.ofNat 32 (teamZ c.r c.t.number), none)
  | .gridX => (BitVec.ofNat 32 (recX c.r), none)
  | .gridY => (BitVec.ofNat 32 (recY c.r), none)
  | .gridZ => (BitVec.ofNat 32 (recZ c.r), none)
  | .crew => (BitVec.ofNat 32 (c.t.number % recCrew c.r + 256 * (recCrew c.r - 1)), none)
  | .core => (BitVec.ofNat 32 c.core, none)
  | .seqLo => w64 2 (BitVec.ofNat 64 c.t.seq)
  | .seqHi => (l.hi[2], none)
  | .timeLo => w64 3 (s.time.setWidth 64)
  | .timeHi => (l.hi[3], none)
  | .energyLo => w64 4 (((s.part c.t.part).map (·.energy)).getD 0)
  | .energyHi => (l.hi[4], none)
  | .fmask => (BitVec.ofNat 32 (recFmask c.r), none)
  | .cmaskLo => w64 5 c.g.cmask
  | .cmaskHi => (l.hi[5], none)

/-- SREAD (R135 to R137). -/
def execSread (x : OpSRead) (s : State) : Res :=
  localUnit (.sread x) s fun c => guarded x.g (fun _ l =>
    let (v, half) := readSpecial s c l x.n
    let l1 := match half with
      | some (k, h) => { l with hi := l.hi.set k.val h }
      | none => l
    .go (l1.setReg x.d v)) c

/-- A 64-bit register with its low or high word replaced. -/
def setLo (x : Word64) (w : Word) : Word64 := BitVec.ofNat 64 (setFld x.toNat 0 32 w.toNat)
def setHi (x : Word64) (w : Word) : Word64 := BitVec.ofNat 64 (setFld x.toNat 32 32 w.toNat)

/-- A thread's writable special register written (R136); the others are no target. -/
def writeSpecial (l : Lane) (n : Special) (a : Word) : Lane :=
  match n with
  | .status => { l with status := statusOf a }
  | .sig0lo => { l with h0 := setLo l.h0 a }
  | .sig0hi => { l with h0 := setHi l.h0 a }
  | .sig1lo => { l with h1 := setLo l.h1 a }
  | .sig1hi => { l with h1 := setHi l.h1 a }
  | _ => l

/-- The candidate view mask after a group-wide SWRITE: bits are only cleared (R136). -/
def clearMask (n : Special) (m : Word64) (a : Word) : Word64 :=
  match n with
  | .cmaskLo => m &&& (0xFFFFFFFF00000000 ||| a.setWidth 64)
  | .cmaskHi => m &&& (0xFFFFFFFF ||| (a.setWidth 64 <<< 32))
  | _ => m

/-- SWRITE (R135, R136): per lane, or once for the group with the value of the lowest-indexed lane. -/
def execSwrite (x : OpSWrite) (s : State) : Res :=
  if x.n.groupWide then
    groupUnit (.swrite x) s fun c s =>
      let a := match c.lanes.head? with
        | some n => readSrc (c.env n) (c.g.lane n) x.a
        | none => 0
      .go (s.modGroup c.core c.gi fun g => { g with cmask := clearMask x.n g.cmask a }) fun _ l => l
  else localUnit (.swrite x) s (guarded x.g fun e l => .go (writeSpecial l x.n (readSrc e l x.a)))

/-! ## Running candidates (R140 to R145) -/

/-- The bank view of CENTER (R141). -/
def View.bankOk (v : View) : Bool := v.valid && v.space == spCODE && v.ty == tyWORD && v.rank == 1 && v.hasR

/-- CENTER (R141): the read of the slot's length word may wait (R300). -/
def execCenter (x : OpCenter) (s : State) : Res :=
  memUnit (.center x) s fun c s n l0 =>
    let l := if x.g.holds l0 then l0.sided else l0
    if !x.g.holds l then (s, .go l)
    else if !recContain c.r || c.g.nregs < 64 then (s, .fail .illegal)
    else
      let vw := recBank c.r
      let v := c.view vw
      if !v.bankOk then (s, .fail (.view vw))
      else
        let k := (readSrc (c.env n) l x.a).toNat
        let b := readSrc (c.env n) l x.b
        if v.extN 0 ≤ 16 * k + 15 then (s, .away (l.noHeader x.d c.words))
        else
          let coords := [BitVec.ofNat 32 (16 * k)]
          match s.access (c.who n) (.ld ⟨.always, .w32, 0, 0, 0⟩) [] vw v coords [] (c.entryNo s) none with
          | .fail e => (s, .fail e)
          | .dead k a => (s.reportCut c.t.part a true, .fail (.dataError k))
          | .hold s1 => (s1, .stay)
          | .log s1 _ =>
            if c.canLog s then
              (s1.logLane c (.center x) vw v [] ⟨n, coords, [b]⟩, .away { l with wait := .refill, latches := [], chain := 0 })
            else (s, .stay)
          | .done s1 out _ => (s1, .away (l.center c.r x.d c.words k (nth 0 out 0).toNat b))

/-- SIGF's fold (R142). -/
def sigFold (h0 h1 : Word64) (a : Word) : Word64 × Word64 :=
  let x := h0 ^^^ a.setWidth 64
  let y := (x * 0x9E3779B97F4A7C15).rotateLeft 29
  (y, ((h1 + y) * 0xC2B2AE3D27D4EB4F).rotateLeft 31)

/-- SIGF (R142). -/
def execSigf (x : OpGA) (s : State) : Res :=
  localUnit (.sigf x) s (guarded x.g fun e l =>
    let (a, b) := sigFold l.h0 l.h1 (readSrc e l x.a)
    .go { l with h0 := a, h1 := b })

/-- SIGZ (R142). -/
def execSigz (x : OpG) (s : State) : Res :=
  localUnit (.sigz x) s (guarded x.g fun _ l => .go { l with h0 := 0, h1 := 0 })

/-- A winnow view (R143). -/
def View.winnowOk (v : View) : Bool :=
  v.valid && v.space == spVAULT && v.ty == tyWINNOW && v.rank == 1 && v.hasR && v.hasW && v.hasA
    && isPow2 (v.extN 0) && v.extN 0 ≤ 2 ^ 22

/-- The slots of a bucket as pairs. -/
def bucketSlots (bs : List Byte) : List (Nat × Nat) :=
  (upFrom 0 4).map fun k => (ofBytes ((bs.drop (16 * k)).take 8), ofBytes ((bs.drop (16 * k + 8)).take 8))

/-- The bucket operation (R144): the result, and the slot to write, if any. -/
def bucketOp (slots : List (Nat × Nat)) (g : Nat × Nat) : Nat × Option Nat :=
  if slots.contains g then (1, none)
  else
    match (placesFrom (fun _ p => p == (0, 0)) 0 slots).head? with
    | some k => (0, some k)
    | none => (2, none)

/-- SIGC (R144, R145); a bucket in a bound region's storage holds free values (R295). -/
def execSigc (x : OpSigc) (s : State) : Res :=
  memUnit (.sigc x) s fun c s _ l =>
    if !x.g.holds l then (s, .go l)
    else
      let vw := recWinnow c.r
      let v := c.view vw
      if !v.winnowOk then (s, .fail (.view vw))
      else
        let g := if l.h0 == 0 && l.h1 == 0 then (1, 0) else (l.h0.toNat, l.h1.toNat)
        match s.sramAt c.core c.t v (64 * (g.1 % v.extN 0)) with
        | none => (s, .fail (.view vw))
        | some a =>
          if !s.firewall c.t.part a then (s.freezeCore c.core c.t.part a, .stay)
          else if s.poisoned a 64 then (s, .fail (.dataError vw))
          else
            let s0 := s.strayBytes a 64
            let (res, slot) := bucketOp (bucketSlots (s0.read a 64)) g
            let s1 := match slot with
              | some k =>
                ((s0.store (a + 16 * k) (bytesOf 8 g.1 ++ bytesOf 8 g.2)).strayBytes a 64).noteBy c.core (upFrom (a + 16 * k) 16)
              | none => s0
            let l1 := (l.setReg x.d (BitVec.ofNat 32 res)).setP 0 (res != 1)
            (s1, .go ({ l1 with h0 := 0, h1 := 0 } : Lane).sided)

end Sys2Proof.Machine
end

