-- ==== Sys2Proof/Machine/ViewOps.lean ====
section
/-!
DEFINITION. The instructions on views and mapped regions (spec/09 R195 to R198; spec/16 R294 to R296).
-/
namespace Sys2Proof.Machine

/-- A lane with p0 as given: the answer that a group's instruction gives every lane of its cohort. -/
def Lane.answer (b : Bool) (l : Lane) : Lane := l.setP 0 b

/-- The machine with a view of a core's team replaced. -/
def State.setView (s : State) (core : Nat) (vw : Fin 64) (v : View) : State :=
  s.modTeam core fun t => { t with views := t.views.set vw.val v }

/-- BASE with Δ added to its offset or address field; none where it does not fit (R98, R195). -/
def View.advance (v : View) (d : Nat) : Option View :=
  if v.offset + d < 2 ^ v.offsetBits then
    some { v with base := BitVec.ofNat 64 (setFld v.base.toNat 0 v.offsetBits (v.offset + d)) }
  else none

/-- Δ of R195; none where the origin does not fall on whole bytes or blocks. -/
def narrowDelta (v : View) (dim org : Nat) : Option Nat :=
  if dim + 1 < v.rank then some (org * v.strN dim)
  else if v.planed then (if org % 16 == 0 then some (org / 16 * 64) else none)
  else if v.ty == 0x09 || v.ty == 0x0C then (if org % 2 == 0 then some (org / 2) else none)
  else if v.ty == 0x0A || v.ty == 0x0B then (if org % 4 == 0 then some (org / 4 * 3) else none)
  else some (org * (elemBits v.ty / 8))

/-- The conditions of R195 on the permutation, the sections and the stook blocks. -/
def narrowFits (v : View) (dim org d : Nat) : Bool :=
  let k := v.perm
  (k == 0 || dim + 2 != v.rank || org % 2 ^ k == 0)
    && (k == 0 || dim + 1 != v.rank || d % ((if v.planed then 64 else 16) * 2 ^ k) == 0)
    && (!(v.planed && v.translated) || (dim == 0 && org == 0))
    && (!v.stook || d % 256 == 0)

/-- The view that VNARROW derives (R195); none where a condition of its own fails. -/
def View.narrow (v : View) (p0 p1 p2 p3 : Word) : Option View :=
  let org := p0.toNat
  let len := p1.toNat
  let dim := bvFld p2 0 3
  let clr := bvFld p2 3 3
  if !v.valid || len == 0 || bvFld p2 6 26 != 0 || v.rank ≤ dim || p3 != 0 || v.extN dim < org + len then none
  else
    match narrowDelta v dim org with
    | none => none
    | some d =>
      if !narrowFits v dim org d then none
      else
        match v.advance d with
        | none => none
        | some n =>
          some { n with
            mbase := if v.stook then v.mbase + BitVec.ofNat 64 (d / 256) else v.mbase
            ext := n.ext.set! dim p1
            flags := n.flags &&& ~~~(BitVec.ofNat 64 (clr * 2 ^ 16)) }

/-- VNARROW (R195, R196): a failure stores an invalid view (its other fields are DEDUCED, log 76). -/
def execVnarrow (x : OpVNar) (s : State) : Res :=
  groupUnit (.vnarrow x) s fun c s =>
    let v := c.view x.src.val
    let p := fun (k : Nat) => c.g.s[(4 * x.p.val + k) % 32]'(by omega)
    let n := match v.narrow (p 0) (p 1) (p 2) (p 3) with
      | none => v.setValid false
      | some n => n.checked (s.viewCtx c.core c.t)
    .go (s.setView c.core x.d n) fun _ l => l.answer n.valid

/-- Consecutive scalar registers from d on. -/
def Group.setScalars (g : Group) (d : Nat) : List Word → Group
  | [] => g
  | w :: ws => Group.setScalars { g with s := g.s.set! d w } (d + 1) ws

/-- The words of VQRY (R197). -/
def View.query (v : View) (q : Nat) : List Word :=
  let e := fun k => nth 0 v.ext.toList k
  let t := fun k => nth 0 v.str.toList k
  match q with
  | 0 => [lo32 v.flags, hi32 v.flags, e 0, e 1]
  | 1 => [e 2, e 3, e 4, t 0]
  | 2 => [t 1, t 2, t 3, 0]
  | _ => [lo32 v.base, hi32 v.base, lo32 v.mbase, hi32 v.mbase]

/-- An instruction that writes scalar registers once for the group. -/
def scalarsUnit (i : Instr) (d : Nat) (f : Ctx → State → List Word) (s : State) : Res :=
  groupUnit i s fun c s => .go (s.modGroup c.core c.gi fun g => g.setScalars d (f c s)) fun _ l => l

/-- VQRY (R197). -/
def execVqry (x : OpVQry) (s : State) : Res :=
  scalarsUnit (.vqry x) x.d.val (fun c _ => (c.view x.vw.val).query x.q.val) s

/-- VDROP (R198). -/
def execVdrop (x : OpVOne) (s : State) : Res :=
  groupUnit (.vdrop x) s fun c s => .go (s.setView c.core x.vw ((c.view x.vw.val).setValid false)) fun _ l => l

/-- Whether two byte ranges overlap. -/
def overlaps (a n b m : Nat) : Bool := a < b + m && b < a + n

/-- The storage that MAPR asks for (R294); none where a field fails or the place is not the team's. -/
def mapStorage (s : State) (core : Nat) (t : Team) (w0 w1 : Word) : Option Region :=
  let inVault := bit w0.toNat 31
  let vault := bvFld w0 24 7
  let off := bvFld w0 0 10
  let ng := bvFld w1 0 9
  let n := ng * 4608
  let ctx := s.viewCtx core t
  let fields := bvFld w0 10 14 == 0 && bvFld w1 9 23 == 0 && off < 768 && isPow2 ng && ng ≤ 256
    && (inVault || vault == 0)
  let inside := if inVault then vaultGranted ctx.sheaves ctx.die vault && 4096 * off + n ≤ 3 * 2 ^ 20
    else 4096 * off + n ≤ ctx.spad
  let clear := t.regions.all (fun r => r.inVault != inVault || (inVault && r.vault != vault)
      || !overlaps (4096 * off) n (4096 * r.off) (4608 * r.slots.length))
    && (inVault || t.handles.all fun h => !overlaps (4096 * off) n (64 * h.base) (64 * h.size))
  if fields && inside && clear then some ⟨t.nextReg, inVault, vault, off, List.replicate ng ⟨.invalid, 0, none, none⟩, 0, 0, 0, []⟩
  else none

/-- MAPR (R294). -/
def execMapr (x : OpVBlk) (s : State) : Res :=
  groupUnit (.mapr x) s fun c s =>
    let v := c.view x.vw.val
    let w := fun (k : Nat) => c.g.s[(x.p.val + k) % 32]'(by omega)
    let region := if v.valid && v.translated && !v.stook && v.region.isNone && c.t.regions.length < 8 then
        mapStorage s c.core c.t (w 0) (w 1)
      else none
    match region with
    | none => .go s fun _ l => l.answer false
    | some r =>
      let r := { r with view := x.vw.val, space := v.space, pkg := v.peer }
      let s1 := s.modTeam c.core fun t => { t with regions := t.regions ++ [r], nextReg := t.nextReg + 1 }
      .go (s1.setView c.core x.vw { v with region := some r.id }) fun _ l => l.answer true

/-- What UNMAPR, FLUSHR and INVR share (R296): nothing to do where the view is not bound; otherwise the slots are written
back, and `f` follows when all are clean and what went to a peer is acknowledged (R373). The group's own logged accesses through the region come first (die chapter, `A
region and a bulk copy`; DEDUCED, log 16); `wait` asks that no fill and no logged access of any group is left. -/
def regionUnit (i : Instr) (x : OpVOne) (wait : Bool) (f : Nat → State → Nat → State) (s : State) : Res :=
  groupUnit i s fun c s =>
    let v := c.view x.vw.val
    if !v.valid then .fail (.view x.vw.val)
    else
      match v.region with
      | none => .go s fun _ l => l
      | some id =>
        let uses := fun (g : Group) => g.log.any fun e => e.view.region == some id
        let busy := uses c.g || (wait && (((s.region c.core id).map fun r => r.slots.any fun k => k.filling.isSome).getD false
          || ((s.team c.core).map fun t => t.groups.any uses).getD false))
        if busy then .retry s
        else
          let n := ((s.region c.core id).map fun r => r.slots.length).getD 0
          let (s1, ok) := s.writeBackRegion c.core id (some c.gi) c.place.pc (lanesMask c.lanes) 0 n
          if ok && !s1.unacked c.core then .go (f c.core s1 id) fun _ l => l else .retry s1

/-- UNMAPR (R296). -/
def execUnmapr (x : OpVOne) (s : State) : Res :=
  regionUnit (.unmapr x) x true (fun core s id => s.modTeam core fun t =>
    { t with
      regions := t.regions.filter fun r => r.id != id
      views := t.views.map fun v => if v.region == some id then { v with region := none } else v }) s

/-- FLUSHR (R296). -/
def execFlushr (x : OpVOne) (s : State) : Res := regionUnit (.flushr x) x false (fun _ s _ => s) s

/-- INVR (R296); a fill that is in progress reads its home after it. -/
def execInvr (x : OpVOne) (s : State) : Res :=
  regionUnit (.invr x) x false (fun core s id =>
    (s.dropFills core (· == id)).modRegion core id fun r =>
      { r with slots := r.slots.map fun k => { k with state := .invalid } }) s

end Sys2Proof.Machine
end

