-- ==== Sys2Proof/Machine/Sync.lean ====
section
/-!
DEFINITION. Fences and barriers: FENCE, QFENCE, CSYNC, BARG, BART (spec/09 R205 to R209), BARC (spec/14 R284), the handle
members and HQRY (spec/09 R210 to R213; spec/08 R179 to R183), TRIG (spec/17 R329), SLOTQ (spec/17 R346) and FEATQ
(spec/19 R382).
-/
namespace Sys2Proof.Machine

/-! ## Fences -/

/-- Whether every earlier store of a lane is performed at a scope (R205, R207): its logged accesses are, and at DIE or wider the
team's dirty slots are written back (R297), which this begins; at SYSTEM the peers have acknowledged its writes (R377). -/
def State.storesDone (s : State) (c : Ctx) (n : Nat) (scope : Scope) : State × Bool :=
  if s.logged c.core c.gi n then (s, false)
  else if !scopeWide scope then (s, true)
  else
    let (s1, ok) := s.flushTeam c.core (some c.gi) c.place.pc (BitVec.ofNat 64 (2 ^ n))
    (s1, ok && !(scope == .system && s1.unacked c.core))

/-- FENCE (R205, R297): at DIE or wider the team's dirty slots are written back, and every slot is then invalid. -/
def execFence (x : OpScope) (s : State) : Res :=
  memUnit (.fence x) s fun c s n l =>
    match s.storesDone c n x.scope with
    | (s1, false) => (s1, .stay)
    | (s1, true) => (if scopeWide x.scope then s1.invalidate c.core else s1, .go l)

/-- The held code of a core discarded: what its code unit and its lanes' loop buffers hold. -/
def Core.dropCode (c : Core) : Core :=
  { c with
    fetch := []
    team := c.team.map fun t => { t with groups := t.groups.map fun g =>
      { g with lanes := g.lanes.map fun (l : Lane) => { l with loop := [] } } } }

/-- CSYNC (R207): the model discards every held line of the cores of the scope's instance, those that the lane wrote
among them. (DEDUCED, log 33.) -/
def execCsync (x : OpScope) (s : State) : Res :=
  memUnit (.csync x) s fun c s n l =>
    match s.storesDone c n x.scope with
    | (s1, false) => (s1, .stay)
    | (s1, true) =>
      let inst := scopeInst x.scope.code c.core c.gi
      ({ s1 with cores := s1.cores.map fun k => if inst.hasCore k.id then k.dropCode else k }, .go { l with loop := [] })

/-! ## QFENCE (R206) -/

/-- Whether an entry is the marker of a QFENCE. -/
def MatrixEntry.marks (id : Nat) : MatrixEntry → Bool
  | .fence n => n == id
  | .op _ _ _ _ _ _ => false
def CopyEntry.marks (id : Nat) : CopyEntry → Bool
  | .fence n => n == id
  | .copy _ => false

/-- Whether a marker is at the head of a queue, or not in it. -/
def headOrAbsent {α : Type} (p : α → Bool) (q : List α) : Bool := ((q.head?.map p).getD false) || !q.any p

/-- Whether the QFENCE numbered `id` of a group is complete (R206). -/
def State.fenceDone (s : State) (t : Team) (g : Group) (id : Nat) (mem : Bool) : Bool :=
  headOrAbsent (MatrixEntry.marks id) t.mq && headOrAbsent (CopyEntry.marks id) t.inq
    && headOrAbsent (CopyEntry.marks id) t.outq
    && (s.engines.all fun (e : Engine) => e.queues.all fun q => headOrAbsent (CopyEntry.marks id) q)
    && (!mem || g.log.all fun e => !decide (e.no < id))

/-- The markers of a QFENCE taken out of the queues. -/
def State.dropMarkers (s : State) (core id : Nat) : State :=
  let s1 := s.modTeam core fun t =>
    { t with
      mq := t.mq.filter fun e => !e.marks id
      inq := t.inq.filter fun e => !e.marks id
      outq := t.outq.filter fun e => !e.marks id }
  { s1 with engines := s1.engines.map fun (e : Engine) =>
      { e with queues := e.queues.map fun q => q.filter fun x => !CopyEntry.marks id x } }

/-- The QFENCE of one group ends if it is complete. -/
def State.settleFence (s : State) (core gi : Nat) : State :=
  match s.team core with
  | none => s
  | some t =>
    match t.groups[gi]? with
    | none => s
    | some g =>
      match g.wait with
      | .qfence id words mem =>
        if s.fenceDone t g id mem then ((s.dropMarkers core id).modGroup core gi (Group.advance words)).moved else s
      | _ => s

/-- Every QFENCE of the machine that is complete ends. -/
def State.settleFences (s : State) : State :=
  (s.cores.map fun c => ((c.team.map fun t => upFrom 0 t.groups.length).getD []).map fun gi => (c.id, gi)).flatten.foldl
    (fun (s : State) (p : Nat × Nat) => s.settleFence p.1 p.2) s

/-- What an engine's step leaves to settle for a core's team: QFENCEs, barriers, a trigger. -/
def State.settled (s : State) (core : Nat) : State := ((s.settleFences).afterEnds core copyLeft).moved

/-- Whether a partition holds a queue of a bulk engine (R206, R334). -/
def State.holdsQueue (s : State) (part die e q : Nat) : Bool :=
  ((s.part part).map fun p => bit p.engines.toNat (64 * die + 8 * e + q)).getD false

/-- QFENCE (R206). -/
def execQfence (x : OpQFen) (s : State) : Res :=
  groupUnit (.qfence x) s fun c s =>
    let n := c.lanes.headD 0
    let m := (readSrc (c.env n) (c.g.lane n) x.a).toNat
    let die := dieOfCore c.core
    let e := fld m 16 3
    let qs := (upFrom 0 8).filter fun j => bit m (8 + j)
    let eng := s.engine die e
    let id := s.nextFence
    if fld m 19 13 != 0 || fld m 4 4 != 0 || qs.any (fun j => !s.holdsQueue c.t.part die e j) then .fail .illegal
    else if m == 0 then .go s fun _ l => l
    else if (bit m 3 && 16 ≤ c.t.mq.length) || (bit m 2 && 32 ≤ c.t.outq.length) || (bit m 1 && 32 ≤ c.t.inq.length)
        || qs.any (fun j => 16 ≤ (nth [] eng.queues j).length) then .retry s
    else
      let s1 := s.modTeam c.core fun t =>
        { t with
          mq := if bit m 3 then t.mq ++ [.fence id] else t.mq
          outq := if bit m 2 then t.outq ++ [.fence id] else t.outq
          inq := if bit m 1 then t.inq ++ [.fence id] else t.inq }
      let marked := mapFrom (fun j (q : List CopyEntry) => if qs.contains j then q ++ [.fence id] else q) 0 eng.queues
      let s2 := if qs.isEmpty then s1 else s1.setEngine { eng with queues := marked }
      let s3 := { s2 with nextFence := id + 1 }
      if s3.fenceDone ((s3.team c.core).getD c.t) c.g id (bit m 0) then .go (s3.dropMarkers c.core id) fun _ l => l
      else .wait s3 (.qfence id c.words (bit m 0))

/-! ## Barriers -/

/-- The target that BARG or BART takes from a mask of at most `n`: 0 or more than `n` asks for all (R208, R209). -/
def barrierTarget (a : Word) (n all : Nat) : Nat := if a == 0 || n < a.toNat then all else a.toNat

/-- BARG (R208): the first arrival of an episode sets the target; 65 stands for every non-exited lane. An arrival is a release,
so the cohort's arriving lanes stay until the logged accesses of all of them are performed: the lowest-indexed one then
arrives first and sets the target (DEDUCED, log 42). BARG is no transfer, so the chain of a lane that waits goes on (R55). -/
def execBarg (x : OpBar) (s : State) : Res :=
  memUnit (.barg x) s fun c s n l =>
    if !x.g.holds l then (s, .go l)
    else if c.lanes.any fun m => x.g.holds (c.g.lane m) && s.logged c.core c.gi m then (s, .stay)
    else
      let goal := barrierTarget (readSrc (c.env n) l x.a) c.g.alive.length 65
      (s.modGroup c.core c.gi fun g => { g with bargTo := some (g.bargTo.getD goal) }, .away { l with wait := .barg c.words })

/-- BART (R209); 33 stands for every group of the team that has not ended. -/
def execBart (x : OpBar) (s : State) : Res :=
  groupUnit (.bart x) s fun c s =>
    match c.lanes.filter fun n => x.g.holds (c.g.lane n) with
    | [] => .go s fun _ l => l
    | _ :: _ =>
      if !c.lanes.all fun n => x.g.holds (c.g.lane n) then .fail .diverged
      else if !c.g.log.isEmpty then .retry s
      else
        let n := c.lanes.headD 0
        let b : Bart := c.t.bart.getD
          ⟨barrierTarget (readSrc (c.env n) (c.g.lane n) x.a) c.t.groups.length 33, []⟩
        .wait (s.modTeam c.core fun t => { t with bart := some { b with arrived := b.arrived ++ [c.gi] } }) (.bart c.words)

/-- BARC (R284); a frozen cell is a CLUSTER ERROR (R269, R287). The team's arrival follows when its last open group is here (`State.arriveBarc`). -/
def execBarc (x : OpBarc) (s : State) : Res :=
  groupUnit (.barc x) s fun c s =>
    if ((s.crewOf c.core c.t).map fun k => (nth BarCell.zero k.cells x.c.val).frozen).getD false then .fail (.clusterError 0)
    else if !c.g.log.isEmpty then .retry s
    else .wait s (.barc x.c.val c.words)

/-! ## Handles (R179 to R183, R210 to R213) -/

/-- Handle `h` of a team, if it is planned (R178). -/
def Team.handle (t : Team) (h : Nat) : Option Handle := t.handles[h]?

/-- The machine with a handle of a core's team changed. -/
def State.modHandle (s : State) (core h : Nat) (f : Handle → Handle) : State :=
  s.modTeam core fun t => { t with handles := modifyNth f h t.handles }

/-- The code of a handle's state (R179). -/
def HState.code : HState → Nat
  | .free => 0
  | .filling => 1
  | .full => 2
  | .draining => 3

/-- The 128-bit entry of a handle (R179). -/
def Handle.bits (h : Handle) : Nat :=
  h.satcnt * 2 ^ 29 + h.size * 2 ^ 49 + h.base * 2 ^ 62 + h.arrived * 2 ^ 74 + h.expect * 2 ^ 80 + h.pending * 2 ^ 86
    + b2n h.faulted * 2 ^ 123 + b2n h.isSealed * 2 ^ 124 + b2n h.phase * 2 ^ 125 + h.state.code * 2 ^ 126

/-- Whether a handle can be read as an operand (R180). -/
def Handle.readable (h : Handle) : Bool := h.state == .full || h.state == .draining

/-- The flat address of a byte of a handle's region. -/
def Handle.at (h : Handle) (core off : Nat) : Nat := scratchAt core (64 * h.base + off)

/-- A new fill begins (R180): of `bytes` by a local copy or a drain, or armed for `expect` arrivals. -/
def Handle.start (h : Handle) (isSealed : Bool) (expect bytes : Nat) (d : Option TileDesc) : Handle :=
  { h with
    state := .filling, isSealed := isSealed, expect := expect, arrived := 0, satcnt := 0, pending := bytes,
    faulted := false, broken := false, desc := d }

/-- The bytes of a tile header (R184). (PITCH modulo 2^16 is DEDUCED, log 75.) -/
def tileHeader (d : TileDesc) (sat stamp : Nat) : List Byte :=
  bytesOf 1 d.ty ++ bytesOf 1 d.planes ++ bytesOf 2 d.rows ++ bytesOf 2 d.k ++ bytesOf 2 d.pitch ++ bytesOf 4 d.scale
    ++ bytesOf 4 sat ++ bytesOf 8 stamp ++ bytesOf 40 0

/-- A unit's store into a scratchpad or vault (R266: the lines are untagged). -/
def State.unitStore (s : State) (a : Nat) (bs : List Byte) : State := (s.store a bs).untagRange a bs.length

/-- A released follow-on enters the matrix queue where it has room (R242). -/
def Team.releaseOne (t : Team) : Team :=
  match t.follows.find? fun f => f.h.isNone with
  | none => t
  | some f =>
    if t.mq.length < 16 then
      { t with
        mq := t.mq ++ [f.entry]
        follows := t.follows.takeWhile (fun g => g.h.isSome) ++ (t.follows.dropWhile fun g => g.h.isSome).drop 1 }
    else t

/-- Every released follow-on for which the matrix queue has room enters it. -/
def Team.releaseAll (t : Team) : Team := (upFrom 0 t.follows.length).foldl (fun (t : Team) _ => t.releaseOne) t

/-- Whether a queue of the tile port begins no later entry because a follow-on of it is held (R242). -/
def Team.holdsFollow (t : Team) (out : Bool) : Bool := t.follows.any fun f => f.h.isNone && f.out == out

/-- The FULL transition where its conditions hold together (R180): the header is written from the fill's description, with
the stamp of the transition (R184), and the fill's follow-ons are released (R242). -/
def State.settleHandle (s : State) (core h : Nat) : State :=
  match (s.team core).bind fun t => t.handle h with
  | none => s
  | some x =>
    if x.state == .filling && x.isSealed && x.pending == 0 && x.arrived == x.expect then
      let s1 := s.modHandle core h fun y => { y with state := .full }
      let s2 := match x.desc with
        | none => s1
        | some d => s1.stamped.unitStore (x.at core 0) (tileHeader d x.satcnt s1.nextStamp.toNat)
      (s2.modTeam core fun t =>
        ({ t with follows := t.follows.map fun (f : Follow) => if f.h == some h then { f with h := none } else f } : Team).releaseAll).moved
    else s

/-- Whether a matrix entry names a handle. -/
def MatrixEntry.names (h : Nat) : MatrixEntry → Bool
  | .fence _ => false
  | .op i _ _ _ _ _ =>
    match i with
    | .mma x => x.ha.val == h && h != 255 || x.hb.val == h
    | .mmag x => x.ha.val == h || x.hb.val == h
    | .mdrn x => x.h.val == h
    | .mdrnb x => x.h.val == h
    | .mload x => x.h.val == h
    | .padd x => x.h.val == h
    | .pnorm x => x.h.val == h
    | _ => false

/-- The handle value that a handle member's field names: all-ones is 255 (R210). -/
def handleNo (s : Vector Word 32) (a : SSrc) : Nat :=
  match a with
  | .ones => 255
  | _ => (readSSrc s a).toNat

/-- A handle member: the handle is read, an unplanned one faults, and `f` says what the member does (R210, R225). -/
def handleUnit (i : Instr) (a : SSrc) (s : State) (f : Ctx → State → Nat → Handle → GroupEnd) : Res :=
  groupUnit i s fun c s =>
    let v := handleNo c.g.s a
    if 255 < v then .fail (.handle v 0)
    else
      match c.t.handle v with
      | none => .fail (.handle v 0)
      | some h => f c s v h

/-- HARM (R211). -/
def execHarm (x : OpHarm) (s : State) : Res :=
  handleUnit (.harm x) x.h s fun c s v h =>
    if h.state != .free then .retry s
    else .go (s.modHandle c.core v fun h => h.start false x.e.val 0 none) fun _ l => l

/-- HSEAL (R211). -/
def execHseal (x : OpHnd) (s : State) : Res :=
  handleUnit (.hseal x) x.h s fun c s v h =>
    if h.state != .filling then .fail (.handle v 1)
    else .go ((s.modHandle c.core v fun h => { h with isSealed := true }).settleHandle c.core v) fun _ l => l

/-- HWAIT (R211): a FAULTED handle that it would wait for or find FULL is a fault. -/
def execHwait (x : OpHWait) (s : State) : Res :=
  handleUnit (.hwait x) x.h s fun _ s v h =>
    if h.faulted then .fail (.handle v 1)
    else if h.readable && h.phase == x.phase then .go s fun _ l => l
    else .retry s

/-- HTAKE (R211). -/
def execHtake (x : OpHnd) (s : State) : Res :=
  handleUnit (.htake x) x.h s fun c s v h =>
    if h.faulted then .fail (.handle v 1)
    else if h.state == .full then .go (s.modHandle c.core v fun h => { h with state := .draining }) fun _ l => l
    else .retry s

/-- The return to FREE (R180). -/
def Handle.freed (h : Handle) : Handle := { h with state := .free, phase := !h.phase }

/-- HFREE (R180, R211): it waits for the matrix-queue entries that name the handle. -/
def execHfree (x : OpHnd) (s : State) : Res :=
  handleUnit (.hfree x) x.h s fun c s v h =>
    if h.state != .draining then .fail (.handle v 1)
    else if c.t.mq.any (MatrixEntry.names v) then .retry s
    else .go (s.modHandle c.core v Handle.freed) fun _ l => l

/-- HQRY (R213). -/
def execHqry (x : OpHQry) (s : State) : Res :=
  handleUnit (.hqry x) x.h s fun c s _ h =>
    .go (s.modGroup c.core c.gi fun g =>
      g.setScalars x.d.val ((upFrom 0 4).map fun k => BitVec.ofNat 32 (fld h.bits (32 * k) 32))) fun _ l => l

/-- The view that HBIND makes of a handle's data (R212), before its check. -/
def bindView (h : Handle) (w0 rows cols pitch : Word) : View :=
  let ty := bvFld w0 8 6
  { base := BitVec.ofNat 64 (64 * h.base + 64)
    flags := BitVec.ofNat 64 (spCORE + 2 * 8 + ty * 64 + bvFld w0 14 3 * 2 ^ 16 + b2n (ty == tyPLANED) * 2 ^ 19 + 2 ^ 63)
    ext := #v[rows, cols, 0, 0, 0]
    str := #v[pitch, 0, 0, 0]
    mbase := 0
    region := none }

/-- The conditions of HBIND (R212). -/
def bindOk (h : Handle) (w0 rows cols : Word) (v : View) : Bool :=
  let ty := bvFld w0 8 6
  bvFld w0 17 15 == 0 && (ty ≤ 8 || ty == tyPLANED) && rows != 0 && cols != 0 && 64 + v.span ≤ 64 * h.size

/-- HBIND (R212). (The fields of a failed view are DEDUCED, log 76.) -/
def execHbind (x : OpVBlk) (s : State) : Res :=
  groupUnit (.hbind x) s fun c s =>
    let w := fun (k : Nat) => c.g.s[(x.p.val + k) % 32]'(by omega)
    let n := bvFld (w 0) 0 8
    match c.t.handle n with
    | none => .fail (.handle n 0)
    | some h =>
      let v := bindView h (w 0) (w 1) (w 2) (w 3)
      let v1 := if bindOk h (w 0) (w 1) (w 2) v then v.checked (s.viewCtx c.core c.t) else v.setValid false
      .go (s.setView c.core x.vw v1) fun _ l => l.answer v1.valid

/-! ## The team's trigger, the calendar and the features -/

/-- Whether a write-back of a core's team waits for the driver's answer (R304). -/
def State.wbFaulted (s : State) (core part : Nat) : Bool :=
  ((s.part part).map fun p => p.xwaits.any fun w => match w.agent with
    | .writeBack c _ _ _ => c == core
    | _ => false).getD false

/-- TRIG (R329): the group is marked triggered and goes on at once; its earlier accesses and the team's write-backs are awaited at
the team's trigger. TRIG begins the write-backs (R297), and where one of them has met a translation fault it waits for the
driver's answer (R304; DEDUCED, log 87). A group that is triggered already does nothing. -/
def execTrig (s : State) : Res :=
  groupUnit .trig s fun c s =>
    if c.g.triggered then .go s fun _ l => l
    else
      let (s1, ok) := s.flushTeam c.core (some c.gi) c.place.pc (lanesMask c.lanes)
      if !ok && s1.wbFaulted c.core c.t.part then .retry s1
      else
        let s2 := s1.modGroup c.core c.gi fun g => { g with triggered := true, trigNo := some s1.nextFence }
        .go { s2 with nextFence := s2.nextFence + 1 } fun _ l => l

/-- The nominal length of frame n's slot in ns (R344). -/
def slotNs (n : Nat) : Nat := if n % 32 == 0 then 6144 else 1536

/-- The four words of SLOTQ (R346). -/
def State.slotWords (s : State) : List Word :=
  let u := s.time.toNat
  let n := u / 32768
  let len := if s.phase == .slot then max (slotNs n) s.slotLen else slotNs n
  let k := if u % 32768 < len then n else n + 1
  [if u % 32768 < len then 0 else 32768 * (n + 1) - u, if u % 32768 < len then len else slotNs (n + 1), 32768,
    (32 - k % 32) % 32].map (BitVec.ofNat 32)

/-- SLOTQ (R346). -/
def execSlotq (x : OpSlotQ) (s : State) : Res := scalarsUnit (.slotq x) x.d.val (fun _ s => s.slotWords) s

/-- FEATQ (R69, R382). -/
def execFeatq (x : OpFeatQ) (s : State) : Res :=
  scalarsUnit (.featq x) x.d.val (fun c s =>
    if x.q.val == 0 then [0x1FF, 0, 0, 0] else [2, s.packageId.setWidth 32, BitVec.ofNat 32 c.t.part, 0]) s

end Sys2Proof.Machine
end

