-- ==== Sys2Proof/Machine/Copies.lean ====
section
/-!
DEFINITION. What one piece of a copy reads, computes and writes (spec/10_core_matrix_copy.md R234 to R238, R245;
spec/16_die.md R307, R309, R312 to R314; spec/18_program_slot_stream.md R354).
-/
namespace Sys2Proof.Machine

/-- Why a piece cannot move now: a translation fault (R304), the firewall (R335), bytes that the host or a peer has yet to send (R360,
R370), or DRAM, a stream or a team that is not there to serve it. -/
inductive Miss where
  | xlate (vw va cause stage : Nat) (write : Bool)
  | wall (a : Nat)
  | ask (as : List Nat)
  | hold
  deriving DecidableEq, Repr

/-- `f` on every element, or the first failure. -/
def tryAll {α β ε : Type} (f : α → Except ε β) : List α → Except ε (List β)
  | [] => .ok []
  | x :: xs =>
    match f x with
    | .error e => .error e
    | .ok y =>
      match tryAll f xs with
      | .error e => .error e
      | .ok ys => .ok (y :: ys)

/-- Where a byte of a view stands: an offset from BASE in SRAM, a virtual address elsewhere. -/
def View.pos (v : View) (off : Nat) : Nat := if v.sram then off else v.offset + off

/-- Whether a bulk copy has a PEER side, whose granules the guard does not hold (R357). -/
def Copy.peerSide (c : Copy) : Bool := c.kind == .bulk && (c.src.space == spPEER || c.dst.space == spPEER)

/-- Whether a copy has a side in this package's DRAM (R310). -/
def Copy.onDevice (c : Copy) : Bool := c.src.space == spDEVICE || c.dst.space == spDEVICE

/-- Whether a copy's granule may reach an address now (R310): one that has begun, or that has a PEER side (R357), wherever its memory
serves. -/
def State.mayReach (s : State) (c : Copy) (a : Nat) : Bool :=
  if c.peerSide || !c.got.isEmpty then s.serves a else s.mayBegin a

/-- Whether a copy's granule may ask for bytes (R310): so it begins, if it has not yet. -/
def State.mayAsk (s : State) (c : Copy) : Bool :=
  !c.onDevice || s.phase == .running || (!s.dramShut && (c.peerSide || !c.got.isEmpty))

/-- The flat address of a position of a view, for a copy's unit (R245, R299). -/
def State.placePos (s : State) (c : Copy) (v : View) (vw : Nat) (need : Need) (pos : Nat) : Except Miss Nat :=
  if v.sram then
    match (s.team c.core).bind fun t => s.sramAt c.core t v pos with
    | some a => if s.firewall c.part a then .ok a else .error (.wall a)
    | none => .error .hold
  else
    match s.homeOf c.part v pos need with
    | .bad cause stage => if cause == waitCause then .error .hold else if cause == wallCause then .error (.wall stage) else .error (.xlate vw pos cause stage (need != 1))
    | .ok a _ _ _ =>
      if !s.mayReach c a then .error .hold
      else if isPeer a && s.reach c.part v.peer == .wait then .error .hold
      else .ok a

/-- Whether a byte reads as poisoned: it is, or no port reaches its package (R314, R376). -/
def State.badByte (s : State) (part a : Nat) : Bool :=
  s.poisoned a 1 || (isPeer a && s.reach part (peerPkg a) == .none)

/-- What is wrong with data that a copy reads: it is poisoned, or it lies in a corrupt stook block of this package's DRAM, whose
header's flat address is given (R312, R314). -/
inductive Taint where
  | poison
  | corrupt (a : Nat)
  deriving DecidableEq, Repr

/-- The first thing that is wrong with any of some data. -/
def anyTaint (ts : List (Option Taint)) : Option Taint := ts.findSome? id

/-- Whether a copy has yet to ask for a byte, or to receive it: it is the host's or a peer's that a port reaches (R360, R370). -/
def State.lacks (s : State) (c : Copy) (a : Nat) : Bool :=
  (isHost a || (isPeer a && s.reach c.part (peerPkg a) != .none)) && !c.got.any fun x => x.1 == a

/-- A byte that a copy reads, with what is wrong with it. -/
def State.byteFor (s : State) (c : Copy) (a : Nat) : Byte × Option Taint :=
  match c.got.find? fun x => x.1 == a with
  | some x => (x.2.1, if x.2.2 then some .poison else none)
  | none => (s.mem.get a, if s.badByte c.part a then some .poison else none)

/-- Bytes at positions of a view, each with what is wrong with it. (DEDUCED, log 26.) -/
def State.readPos (s : State) (c : Copy) (v : View) (vw : Nat) (ps : List Nat) : Except Miss (List (Byte × Option Taint)) :=
  match tryAll (s.placePos c v vw 1) ps with
  | .error e => .error e
  | .ok as =>
    match as.filter (s.lacks c) with
    | [] => .ok (as.map (s.byteFor c))
    | lacks => if s.mayAsk c then .error (.ask lacks.eraseDups) else .error .hold

/-- Bytes read, and what is wrong with any of them. -/
def bytesRead (xs : List (Byte × Option Taint)) : List Byte := xs.map (·.1)
def taintRead (xs : List (Byte × Option Taint)) : Option Taint := anyTaint (xs.map (·.2))

/-! ## The stook format (R312) -/

/-- The places of a mask's set bits, in order. -/
def maskPlaces (bm : List Byte) : List Nat :=
  (mapFrom (fun k (b : Byte) => (upFrom 0 8).filterMap fun j => if bit b.toNat j then some (8 * k + j) else none) 0 bm).flatten

/-- The number of leading sectors that a header names; none where the block is corrupt for its header alone. -/
def stookSectors (h : Byte) : Option Nat :=
  let ns := bvFld h 3 3
  if bvFld h 0 3 != 0 then none
  else
    match bvFld h 6 2 with
    | 0 => if ns == 7 then some 8 else none
    | 1 => if ns == 0 then some 0 else none
    | 2 => if ns == 0 then some 1 else none
    | _ => if ns ≤ 6 then some (ns + 1) else none

/-- The 256 bytes of a block from its header and its stored bytes; none where it is corrupt. (DEDUCED, log 38.) -/
def stookDecode (h : Byte) (data : List Byte) : Option (List Byte) :=
  match stookSectors h with
  | none => none
  | some n =>
    match bvFld h 6 2 with
    | 0 => some (data.take 256)
    | 1 => some (List.replicate 256 0)
    | 2 => some ((List.replicate 64 (data.take 4)).flatten)
    | _ =>
      let ps := maskPlaces (data.take 32)
      if ceilDiv (32 + ps.length) 32 != n then none
      else
        let vs := ps.zip ((data.drop 32).take ps.length)
        some ((upFrom 0 256).map fun i => ((vs.find? fun p => p.1 == i).map (·.2)).getD 0)

/-- The leading bytes of block b that its header names, with the header; all 256 where the header is corrupt. -/
def State.stookStored (s : State) (c : Copy) (v : View) (vw b : Nat) :
    Except Miss ((Byte × Option Taint) × List (Byte × Option Taint)) :=
  match s.readPos c v vw [v.mbase.toNat + b] with
  | .error e => .error e
  | .ok hs =>
    let h := nth (0, none) hs 0
    match s.readPos c v vw (upFrom (v.pos (256 * b)) (32 * (stookSectors h.1).getD 8)) with
    | .error e => .error e
    | .ok bs => .ok (h, bs)

/-- What is wrong with a block that does not decode: an error at the controller that decodes it, which for DRAM of this package
is reported here (R312, R315). -/
def State.corruptAt (s : State) (c : Copy) (v : View) (vw b : Nat) : Taint :=
  match s.placePos c v vw 1 (v.mbase.toNat + b) with
  | .ok a => if isDram a then .corrupt a else .poison
  | .error _ => .poison

/-- Block b expanded; a corrupt one counts as poisoned (R314). An error in its stored words spoils all of it but for a RAW
block, whose bytes stand for themselves. (DEDUCED, log 38.) -/
def State.stookBlock (s : State) (c : Copy) (v : View) (vw b : Nat) : Except Miss (List (Byte × Option Taint)) :=
  match s.stookStored c v vw b with
  | .error e => .error e
  | .ok (h, bs) =>
    match h.2, stookDecode h.1 (bytesRead bs) with
    | none, some x =>
      if bvFld h.1 6 2 == 0 then .ok (bs.take 256) else .ok (x.map fun y => (y, taintRead bs))
    | some t, _ => .ok ((upFrom 0 256).map fun k => (nth 0 (bytesRead bs) k, some t))
    | none, none => .ok ((upFrom 0 256).map fun k => (nth 0 (bytesRead bs) k, some (s.corruptAt c v vw b)))

/-- `n` expanded bytes of a stook view from an offset. -/
def State.stookRun (s : State) (c : Copy) (v : View) (vw off n : Nat) : Except Miss (List (Byte × Option Taint)) :=
  match tryAll (s.stookBlock c v vw) (upFrom (off / 256) ((off + n - 1) / 256 - off / 256 + 1)) with
  | .error e => .error e
  | .ok bs => .ok ((bs.flatten.drop (off % 256)).take n)

/-! ## Reading the source -/

/-- `n` bytes of a view's row from byte `p`, the coordinates giving the row. -/
def State.readRow (s : State) (c : Copy) (v : View) (vw : Nat) (cs : List Nat) (p n : Nat) :
    Except Miss (List (Byte × Option Taint)) :=
  if v.stook then s.stookRun c v vw (v.offAt cs p) n
  else s.readPos c v vw ((upFrom p n).map fun q => v.pos (v.offAt cs q))

/-- The view numbers of a copy's source and destination (R234, R307). -/
def Copy.srcVw (c : Copy) : Nat := if c.kind == .bulk then bvFld (nth 0 c.block 6) 26 6 else c.vw
def Copy.dstVw (c : Copy) : Nat := if c.kind == .bulk then bvFld (nth 0 c.block 6) 20 6 else c.vw

/-- The codes of `n` packed elements of `e` bits (R100). -/
def unpack (bs : List Byte) (e n : Nat) : List Nat := (upFrom 0 n).map fun k => fld (ofBytes bs) (k * e) e

/-- The elements of `e` bits in bytes that were read, each with what is wrong with a byte of it. -/
def unpackRead (xs : List (Byte × Option Taint)) (e n : Nat) : List (Nat × Option Taint) :=
  mapFrom (fun k y => (y, taintRead ((xs.drop (k * e / 8)).take (ceilDiv (k * e % 8 + e) 8)))) 0 (unpack (bytesRead xs) e n)

/-- Elements of `e` bits packed into bytes. -/
def packElems (e : Nat) (xs : List Nat) : List Byte :=
  bytesOf (ceilDiv (xs.length * e) 8) ((mapFrom (fun k x => x % 2 ^ e * 2 ^ (k * e)) 0 xs).foldr (· + ·) 0)

/-- The source codes of destination row a, columns b to b + n − 1 (R235, R237). -/
def State.srcElems (s : State) (c : Copy) (a b n : Nat) : Except Miss (List (Nat × Option Taint)) :=
  let v := c.src
  let e := elemBits v.ty
  if c.xf == xfTRANSPOSE then
    match tryAll (fun k =>
        let cs := c.srcCs (b + k) a
        s.readRow c v c.srcVw cs (nth 0 cs (v.rank - 1) * e / 8) (e / 8)) (upFrom 0 n) with
    | .error m => .error m
    | .ok rs => .ok (rs.map fun r => (ofBytes (bytesRead r), taintRead r))
  else
    let cs := c.srcCs a b
    match s.readRow c v c.srcVw cs (nth 0 cs (v.rank - 1) * e / 8) (ceilDiv (n * e) 8) with
    | .error m => .error m
    | .ok bs => .ok (unpackRead bs e n)

/-- The planes that a COPY of a planed source reads (R245). -/
def Copy.planesRead (c : Copy) : Nat := min 4 (c.pln + 1 + b2n c.rnp)

/-- The planed source block at coordinates (R25, R26). -/
def State.srcBlock (s : State) (c : Copy) (cs : List Nat) : Except Miss (Block × Option Taint) :=
  let v := c.src
  if v.sram then
    match s.readPos c v c.srcVw (upFrom (v.lineAt cs) 64) with
    | .error m => .error m
    | .ok bs => .ok (Block.ofLine (bytesRead bs), taintRead bs)
  else
    let sect := fun k =>
      let a := v.granuleAt cs k
      let n := granuleBytes k
      if v.stook then s.stookRun c v c.srcVw (a - v.offset) n else s.readPos c v c.srcVw (upFrom a n)
    match tryAll sect (upFrom 0 (c.planesRead + 1)) with
    | .error m => .error m
    | .ok rs =>
      let g := fun k => bytesRead (nth [] rs k)
      .ok (Block.ofPlanes (g 0) (g 1) (g 2) (g 3) (g 4), anyTaint (rs.map taintRead))

/-- The multipliers of groups g to g + n − 1 of window row i (R235), as codes. -/
def State.multipliers (s : State) (c : Copy) (i g n : Nat) : Except Miss (List (Nat × Option Taint)) :=
  match s.readRow c c.side c.sv [c.srow + i, g] (4 * g) (4 * n) with
  | .error m => .error m
  | .ok bs => .ok (unpackRead bs 32 n)

/-! ## The transforms (R237) -/

/-- The format of a narrow source code (R20, R100): int4 where none. -/
def subFmt (ty : Nat) : Option Fmt :=
  match ty with
  | 0x09 => some fmtE2M1
  | 0x0A => some fmtE3M2
  | 0x0B => some fmtE2M3
  | _ => none

/-- The result of a transform on one element with its multiplier, and whether it counts (R236). -/
def xfElem (xf ty : Nat) (x m : Nat) : Nat × Bool :=
  match xf with
  | 2 =>
    let (r, fl) := roundF8 fmtE4M3 true false (numMul (f32v x) (f32v m))
    (r, fl &&& fSAT != 0)
  | 3 =>
    let (r, fl) := roundF8 fmtE5M2 true false (numMul (f32v x) (f32v m))
    (r, fl &&& fSAT != 0)
  | 4 => (expandSub (subFmt ty) false x, false)
  | 5 =>
    let v := valOf (if ty == tyE4M3 then fmtE4M3 else fmtE5M2) x
    let r := (roundTo fmtBF16 false (numMul v (f32v m))).1
    (r, v.isFin && r % 2 ^ 15 == fmtBF16.inf)
  | _ => (x, false)

/-- The destination blocks of row a from column b on, `n` of them, with what is wrong with each, and the saturations (R28,
R237). -/
def State.dstBlocks (s : State) (c : Copy) (a b n : Nat) : Except Miss (List (Block × Option Taint) × Nat) :=
  let one := fun k =>
    if c.xf == xfQPLANE then
      match s.srcElems c a (b + 16 * k) 16 with
      | .error m => Except.error m
      | .ok xs =>
        let (blk, sat) := quantBlock (xs.map fun x => f32v x.1)
        .ok ((blk, anyTaint (xs.map (·.2))), (sat.filter id).length)
    else
      match s.srcBlock c (c.srcCs a (b + 16 * k)) with
      | .error m => .error m
      | .ok (blk, bad) =>
        let (x, sat) := blk.cut (c.pln + 1) c.rnp
        .ok ((x, bad), sat)
  match tryAll one (upFrom 0 n) with
  | .error m => .error m
  | .ok rs => .ok (rs.map (·.1), (rs.map (·.2)).foldr (· + ·) 0)

/-- The destination codes of row a, columns b to b + n − 1, with what is wrong with each, and the saturations (R237). -/
def State.dstElems (s : State) (c : Copy) (a b n : Nat) : Except Miss (List (Nat × Option Taint) × Nat) :=
  match s.srcElems c a b n with
  | .error m => .error m
  | .ok xs =>
    match (if xfSide c.xf then s.multipliers c a (b / 32) (ceilDiv (b % 32 + n) 32) else .ok []) with
    | .error m => .error m
    | .ok ms =>
      let ys := mapFrom (fun k (x : Nat × Option Taint) =>
        let m := nth (0, none) ms ((b % 32 + k) / 32)
        (xfElem c.xf c.src.ty x.1 m.1, x.2.or m.2)) 0 xs
      .ok (ys.map fun y => (y.1.1, y.2), (ys.filter (·.1.2)).length)

/-! ## Writing the destination -/

/-- A byte that a piece writes: its position in the destination view, and what is wrong with it. -/
structure WByte where
  pos  : Nat
  byte : Byte
  bad  : Option Taint
  deriving DecidableEq, Repr

/-- What a piece writes: bytes at positions of the destination view, and the saturations. -/
structure Writes where
  bytes : List WByte
  sats  : Nat
  deriving DecidableEq, Repr

/-- Bytes at consecutive positions, all with the same thing wrong, or each with its own. -/
def putAt (pos : Nat) (bs : List Byte) (t : Option Taint) : List WByte := mapFrom (fun k b => ⟨pos + k, b, t⟩) 0 bs
def putRead (pos : Nat) (bs : List (Byte × Option Taint)) : List WByte := mapFrom (fun k b => ⟨pos + k, b.1, b.2⟩) 0 bs

/-- Elements of `e` bits as bytes at consecutive positions, each byte with what is wrong with an element in it. -/
def putElems (pos e : Nat) (xs : List (Nat × Option Taint)) : List WByte :=
  mapFrom (fun k b => ⟨pos + k, b, anyTaint (((xs.drop (8 * k / e)).take (ceilDiv (8 * k % e + 8) e)).map (·.2))⟩) 0
    (packElems e (xs.map (·.1)))

/-- The bytes of planed destination blocks: lines, or the granules of every section (R25, R26). (DEDUCED, log 37.) -/
def Copy.blockWrites (c : Copy) (a b : Nat) (bs : List (Block × Option Taint)) : List WByte :=
  let v := c.dst
  (mapFrom (fun k (x : Block × Option Taint) =>
    let cs := c.dstCs a (b + 16 * k)
    if v.sram then putAt (v.lineAt cs) x.1.line x.2
    else ((upFrom 0 5).map fun j => putAt (v.granuleAt cs j) (x.1.granule j) x.2).flatten) 0 bs).flatten

/-- The bytes of an unplaned run, and the headers 0x38 of the RAW blocks of a stook view (R313). (DEDUCED, log 37.) -/
def Copy.runWrites (c : Copy) (a b : Nat) (xs : List (Nat × Option Taint)) : List WByte :=
  let v := c.dst
  let e := elemBits v.ty
  let cs := c.dstCs a b
  let p := nth 0 cs (v.rank - 1) * e / 8
  let bs := putElems 0 e xs
  let data := bs.map fun x => { x with pos := v.pos (v.offAt cs (p + x.pos)) }
  let heads := if v.stook then
      (upFrom (v.offAt cs p / 256) (ceilDiv bs.length 256)).map fun k => ⟨v.mbase.toNat + k, 0x38, none⟩
    else []
  data ++ heads

/-- Blocks carried from stook block `i` of the source to `j` of the destination, headers and sectors unchanged (R313). -/
def State.carry (s : State) (c : Copy) (i j n : Nat) : Except Miss Writes :=
  match tryAll (fun k => s.stookStored c c.src c.srcVw (i + k)) (upFrom 0 n) with
  | .error m => .error m
  | .ok rs =>
    let ws := mapFrom (fun k (r : (Byte × Option Taint) × List (Byte × Option Taint)) =>
      putRead (c.dst.pos (256 * (j + k))) r.2 ++ [⟨c.dst.mbase.toNat + j + k, r.1.1, r.1.2⟩]) 0 rs
    .ok ⟨ws.flatten, 0⟩

/-- Whether the hop before a stook view's memory holds stook blocks (R313): the DRAM controllers do, the host link and a Beacon
port where the peer advertises it. -/
def State.stookHop (s : State) (v : View) : Bool :=
  if v.space == spHOST then Config.hostStook
  else if v.space == spPEER then (((s.portFor v.peer).bind fun p => s.ports[p]?).map (·.stook)).getD false
  else true

/-- Whether section k of a planed copy between stook views is carried as it is (R313, R354): the hops on the way hold stook
blocks; otherwise the block is expanded before the engine and stored RAW. (DEDUCED, log 38.) -/
def State.carries (s : State) (c : Copy) (k : Nat) : Bool :=
  c.src.stook && c.dst.stook && c.xf == xfCOPY && s.stookHop c.src && s.stookHop c.dst
    && (!c.src.planed || (k ≤ c.pln + 1 && !(c.rnp && c.pln < 3)))

/-- What a piece writes (R237, R238, R313, R354). -/
def State.pieceWrites (s : State) (c : Copy) (p : Piece) : Except Miss Writes :=
  match p with
  | .scales a g n =>
    match s.multipliers c a g n with
    | .error m => .error m
    | .ok ms => .ok ⟨putElems (c.rows * c.dst.strN 0 + 4 * (a * c.groups + g)) 32 ms, 0⟩
  | .sect k m =>
    let sec := k * c.dst.sectStride + 256 * m
    if s.carries c k then s.carry c ((k * c.src.sectStride + 256 * m) / 256) (sec / 256) 1
    else
      let per := c.dCols / 16
      match tryAll (fun b => s.dstBlocks c (b / per) (b % per * 16) 1) (sectBlocks c.dst k m) with
      | .error e => .error e
      | .ok rs =>
        let bs := (rs.map fun r => (r.1.map fun x => (x.1.granule k).map fun y => (y, x.2)).flatten).flatten
        .ok ⟨putRead (c.dst.pos sec) (bs ++ List.replicate (256 - bs.length) (0, none))
            ++ [⟨c.dst.mbase.toNat + sec / 256, 0x38, none⟩],
          if k == 0 then (rs.map (·.2)).foldr (· + ·) 0 else 0⟩
  | .run a b n =>
    if c.dst.planed then
      match s.dstBlocks c a b (n / 16) with
      | .error m => .error m
      | .ok (bs, sat) => .ok ⟨c.blockWrites a b bs, sat⟩
    else if s.carries c 0 then
      let e := elemBits c.dst.ty
      let so := c.srcCs a b
      let d := c.dstCs a b
      s.carry c (c.src.offAt so (nth 0 so (c.src.rank - 1) * e / 8) / 256)
        (c.dst.offAt d (nth 0 d (c.dst.rank - 1) * e / 8) / 256) (n * e / 8 / 256)
    else
      match s.dstElems c a b n with
      | .error m => .error m
      | .ok (xs, sat) => .ok ⟨c.runWrites a b xs, sat⟩

/-- Whether the transform adds into its destination (R237). -/
def xfAdds (xf : Nat) : Bool := xf == 7 || xf == 8

/-- The bytes that an adding transform leaves at a destination, from those it found (R237). -/
def addInto (xf : Nat) (old new : List Byte) : List Byte :=
  let e := if xf == 7 then 32 else 16
  let f := if xf == 7 then fmtF32 else fmtBF16
  let n := new.length * 8 / e
  packElems e ((unpack old e n).zip (unpack new e n) |>.map fun p => (opAdd f false false p.1 p.2).1)

/-- Bytes at rising flat addresses as runs. -/
def joinRuns : List (Nat × Byte) → List (Nat × List Byte)
  | [] => []
  | (a, b) :: xs =>
    match joinRuns xs with
    | [] => [(a, [b])]
    | (a', bs) :: rs => if a' == a + 1 then (a, b :: bs) :: rs else (a, [b]) :: (a', bs) :: rs

/-- An addition at a peer's home (R237): each 4-byte unit is an ATOMX of its own there, fadd or bfadd2, a half that is not
written being −0. (DESIGN CHOICE, log 89.) -/
def State.addHome (s : State) (c : Copy) (x : Nat × List Byte) : State :=
  match s.reach c.part (peerPkg x.1) with
  | .port p =>
    let fin := x.1 + x.2.length
    (upFrom (x.1 / 4) (ceilDiv fin 4 - x.1 / 4)).foldl (fun (s : State) u =>
      let lo := max x.1 (4 * u)
      let n := min fin (4 * u + 4) - lo
      let bs := (x.2.drop (lo - x.1)).take n
      let ops := (upFrom (4 * u) 4).map fun a => if lo ≤ a && a < lo + n then nth 0 bs (a - lo) else if a % 2 == 1 then 0x80 else 0
      s.request 0x04 c.part (peerPkg x.1) p false
        (bytesOf 8 (peerVa (4 * u)) ++ [if c.xf == 7 then 2 else 6, 0x35, 0, 0] ++ ops) (upFrom lo n) (.add c.core c.no c.xf bs)) s
  | _ => s

/-- A unit's write of a run: to a peer as WRITEs (R370), otherwise at once, the lines untagged (R266) and the host's copies of them
invalidated before (R362). -/
def State.putRun (s : State) (c : Copy) (r : Nat × List Byte) : State :=
  let s1 := if isPeer r.1 then
      s.writeHome c.part (.sent c.core c.no) r.1 r.2 (r.2.map fun _ => true) (c.dst.stook && s.stookHop c.dst)
    else (s.backInvalidate (linesOf r.1 r.2.length)).unitStore r.1 r.2
  (s1.reportCut c.part r.1 false).note c.part c.seq c.team (upFrom r.1 r.2.length)

/-- The flat address of the first source byte of a piece. -/
def State.srcAddr (s : State) (c : Copy) (p : Piece) : Option Nat :=
  let v := c.src
  let here := fun (a b : Nat) =>
    let x := c.from_ a b
    let cs := c.srcCs x.1 x.2
    let pos :=
      if v.planed then (if v.sram then v.lineAt cs else v.granuleAt cs 0)
      else v.pos (v.offAt cs (nth 0 cs (v.rank - 1) * elemBits v.ty / 8))
    match s.placePos c v c.srcVw 1 pos with
    | .ok a => some a
    | .error _ => none
  match p with
  | .run a b _ => here a b
  | .scales _ _ _ => none
  | .sect k m =>
    let b := m * (256 / granuleBytes k)
    here (b / (c.dCols / 16)) (b % (c.dCols / 16) * 16)

/-- The ERROR REPORT of a piece that was read from a die that does not answer (R330). -/
def State.reportSrc (s : State) (c : Copy) (p : Piece) (bad : Bool) : State :=
  match bad, s.srcAddr c p with
  | true, some a => s.reportCut c.part a true
  | _, _ => s

/-- The controllers of this package that met corrupt stook blocks report them, each header once (R312, R314, R315). -/
def State.reportCorrupt (s : State) (c : Copy) (ts : List (Option Taint)) : State :=
  let heads := ts.foldl (fun (xs : List Nat) t => match t with
    | some (.corrupt a) => if xs.contains a then xs else xs ++ [a]
    | _ => xs) []
  heads.foldl (fun (s : State) a => s.errorReport (some c.part) 3 false true a) s

/-- A copy changed where it stands in a queue, by its number. -/
def State.modCopy (s : State) (core no : Nat) (f : Copy → Copy) : State :=
  let on := fun (q : List CopyEntry) => q.map fun (x : CopyEntry) => match x with
    | .copy c => .copy (if c.core == core && c.no == no then f c else c)
    | .fence n => .fence n
  let s1 := s.modTeam core fun (t : Team) => { t with inq := on t.inq, outq := on t.outq }
  { s1 with engines := s1.engines.map fun (e : Engine) => { e with queues := e.queues.map on } }

/-- READs sent for what a copy's granule needs and has not asked for yet (R360, R370), as far as a port and a tag are there. -/
def State.askFor (s : State) (c : Copy) (as : List Nat) : State :=
  let new := as.filter fun a => !s.requests.any fun r => r.agent == .read c.core c.no && r.addrs.contains a
  (joinRuns (new.map fun a => (a, 0))).foldl (fun (s : State) r =>
    match s.askMore c.part none r.1 r.2.length (.read c.core c.no) with
    | .sent s1 => s1
    | .wait => s
    | .unreachable => s) s

/-- What came of a piece: the machine with it moved, the runs written, the saturations, and the addresses of the bytes that are
poisoned. -/
structure Landed where
  state : State
  runs  : List (Nat × List Byte)
  sats  : Nat
  bad   : List Nat

/-- Piece `i` of a copy moved as one granule (R306, R314, R237). (DEDUCED, log 26.) -/
def State.movePiece (s : State) (c : Copy) (i : Nat) : Except Miss Landed :=
  match s.pieceWrites c (c.piece i) with
  | .error m => .error m
  | .ok w =>
    match tryAll (fun (x : WByte) => s.placePos c c.dst c.dstVw (if xfAdds c.xf then 4 else 2) x.pos) w.bytes with
    | .error m => .error m
    | .ok as =>
      let adds := xfAdds c.xf
      let new := w.bytes.map (·.byte)
      let bs := if adds then addInto c.xf (as.map s.mem.get) new else new
      let bad := (as.zip w.bytes).filterMap fun x => if x.2.bad.isSome || (adds && s.badByte c.part x.1) then some x.1 else none
      let runs := joinRuns (as.zip bs)
      let s1 := (s.reportSrc c (c.piece i) (w.bytes.any (·.bad.isSome))).reportCorrupt c (w.bytes.map (·.bad))
      let s2 := if adds && c.dst.space == spPEER then (joinRuns (as.zip new)).foldl (fun (s : State) r => s.addHome c r) s1
        else runs.foldl (fun (s : State) r => s.putRun c r) s1
      .ok ⟨bad.foldl (fun (s : State) a => s.markPoison a 1) s2, runs, w.sats, bad⟩

end Sys2Proof.Machine
end

