-- ==== Sys2Proof/Machine/Tile.lean ====
section
/-!
DEFINITION. The tile port and the bulk engines: TILEIN and TILEOUT with their checks and waits (spec/10_core_matrix_copy.md
R234 to R245), BCOPY (spec/16_die.md R306 to R309), the granules they move, chain multicast (R243), and the suspension of
a copy (spec/08_core.md R183).
-/
namespace Sys2Proof.Machine

/-! ## Checks (R236, R239, R308) -/

/-- Whether a type suits a transform as its source (R236). -/
def xfSource (xf ty : Nat) : Bool :=
  match xf with
  | 0 => ty ≤ 0x0D
  | 1 => ty == tyF32
  | 2 => ty == tyF32
  | 3 => ty == tyF32
  | 4 => 0x09 ≤ ty && ty ≤ 0x0C
  | 5 => ty == tyE4M3 || ty == tyE5M2
  | 6 => ty ≤ 0x08
  | 7 => ty == tyF32
  | 8 => ty == tyBF16
  | _ => false

/-- The destination type of a transform from a source type (R236). -/
def xfTarget (xf ty : Nat) : Nat :=
  match xf with
  | 1 => tyPLANED
  | 2 => tyE4M3
  | 3 => tyE5M2
  | 4 => tyE4M3
  | 5 => tyBF16
  | 7 => tyF32
  | 8 => tyBF16
  | _ => ty

/-- Whether a view's type suits a transform of unknown source as its destination (R236). -/
def xfInto (xf ty : Nat) : Bool := if xf == xfCOPY || xf == xfTRANSPOSE then xfSource xf ty else ty == xfTarget xf 0

/-- The multiple of columns that a window keeps to (R239). -/
def windowStep (v : View) (xf : Nat) : Nat :=
  if v.planed || xf == xfQPLANE then 16
  else if elemBits v.ty == 4 then 2
  else if elemBits v.ty == 6 then 4
  else 1

/-- A window of `rows` by `cols` from (row, col) inside a view, dimensions 0 to rank − 3 at `org` (R235, R307).
(DEDUCED, log 36.) -/
def windowOk (v : View) (org : List Nat) (row col rows cols xf : Nat) : Bool :=
  let r := v.rank
  let k := windowStep v xf
  col % k == 0 && cols % k == 0 && col + cols ≤ v.extN (r - 1)
    && (if r == 1 then rows == 1
        else row + rows ≤ v.extN (r - 2) && (upFrom 0 (r - 2)).all fun d => nth 0 org d < v.extN d)

/-- A window of a stook view (R239, R308, R354): all of a planed one, else whole blocks of 256 bytes. (DEDUCED, log 36.) -/
def stookWindow (v : View) (org : List Nat) (row col rows cols : Nat) : Bool :=
  let r := v.rank
  let e := elemBits v.ty
  if v.planed then
    col == 0 && cols == v.extN (r - 1) && (r < 2 || (row == 0 && rows == v.extN (r - 2)))
      && (upFrom 0 (r - 2)).all fun d => v.extN d == 1
  else
    v.offAt (viewCoords v org row col) (col * e / 8) % 256 == 0 && cols * e % 2048 == 0
      && (rows ≤ 1 || r < 2 || v.strN (r - 2) % 256 == 0)

/-- The side view covers every multiplier (R235). -/
def sideOk (v : View) (srow rows cols : Nat) : Bool :=
  v.valid && v.ty == tyF32 && v.rank == 2 && v.hasR && srow + rows ≤ v.extN 0 && ceilDiv cols 32 ≤ v.extN 1

/-- The PITCH of a handle's rows of `n` elements of a type (R238). -/
def pitchOf (ty n : Nat) : Nat := roundUp (if ty == tyPLANED then n / 16 * 64 else ceilDiv (n * elemBits ty) 8) 64

/-- The description of a TILEIN's tile (R238). -/
def Copy.desc (c : Copy) : TileDesc :=
  let ty := c.dst.ty
  { ty := ty
    planes := if c.xf == xfQPLANE then 4 else if ty == tyPLANED then c.pln + 1 else 0
    rows := c.drow + c.dRows
    k := c.dCols
    pitch := c.dst.strN 0
    scale := if c.hasScales then 64 + c.rows * c.dst.strN 0 else 0 }

/-- The bytes of a handle's region that a TILEIN reaches (R238). -/
def Copy.reach (c : Copy) : Nat :=
  let d := c.desc
  let row := if c.dst.planed then c.dCols / 16 * 64 else ceilDiv (c.dCols * elemBits c.dst.ty) 8
  max (64 + (c.drow + c.dRows - 1) * d.pitch + row) (if c.hasScales then d.scale + 4 * c.rows * c.groups else 0)

/-- The cores that a chain-multicast list names (R243). (DEDUCED, log 39.) -/
def mcastCores (core w : Nat) : List Nat :=
  (upFrom 0 16).filterMap fun k => if bit w (16 + k) then some (sheafOfCore core * 16 + k) else none

/-- Whether the tile port takes the list (R243). -/
def State.mcastOk (s : State) (core : Nat) (t : Team) (h : Nat) (cores : List Nat) : Bool :=
  cores.all fun k => k != core && match s.team k with
    | none => false
    | some u => u.part == t.part && u.seq == t.seq && (u.handle h).isSome

/-- The block of eight scalar registers from s(p) (R234, R307). -/
def Group.block (g : Group) (p : Nat) : List Word := (upFrom p 8).map fun k => g.s[k % 32]'(by omega)

/-- The follow-on of a copy issued with FM = 1 (R239 check 1): a word of MMA. -/
def followOk (fm : Bool) (w : Word) : Bool :=
  !fm || match decodeWord w.toNat with
    | some (.mma _) => true
    | _ => false

/-- A copy of the unit in hand. -/
def Ctx.copy (c : Ctx) (s : State) (kind : CopyKind) (xf h vw : Nat) (src dst : View) (block : List Word) : Copy :=
  { no := s.nextFence, kind := kind, xf := xf, src := src, dst := dst, side := c.view (bvFld (nth 0 block 5) 26 6),
    block := block, h := h, core := c.core, part := c.t.part, seq := c.t.seq, team := c.t.number, group := c.gi,
    lanes := lanesMask c.lanes, place := c.place, vw := vw, moved := 0, chain := [], hops := [],
    hop := false, follow := none, susp := none, tile := [], spoilt := [], got := [], sent := false }

/-- Whether a copy may add into a view's space (R361): into HOST memory only where the port has trained as CXL. -/
def addsInto (xf : Nat) (v : View) : Bool := !xfAdds xf || v.space != spHOST || Config.cxlTrained

/-- Whether a group's copy or product waits for an access in its log (R193): an acquire of one of its lanes that is not
performed yet. -/
def Group.acquiring (g : Group) : Bool := g.log.any fun e => (acquireOf e.instr e.hints).isSome

/-- Checks 1 to 5 of R239, which TILEIN and TILEOUT share, and for TILEIN 6 and 8: the copy, or the condition.
PLN and RNP of a TILEIN COPY of a view that is not planed are let pass and say nothing (R234; DEDUCED, log 104). (DEDUCED, log 39.) -/
def tileChecks (c : Ctx) (s : State) (x : OpTile) (isIn : Bool) : Except Cause Copy :=
  let xf := x.xf.val
  let blk := c.g.block (8 * x.pb.val)
  let v := c.view x.vw.val
  let r := v.rank
  let w7 := (nth 0 blk 7).toNat
  let org := (blk.take 4).map (·.toNat)
  let vw := x.vw.val
  if 8 < xf || (isIn && xfAdds xf) || !followOk x.fm (nth 0 blk 6) then .error .illegal
  else
    match c.t.handle x.h.val with
    | none => .error (.handle x.h.val 0)
    | some h =>
      if !v.valid || v.space == spCODE || !(1 ≤ r && r ≤ 4)
          || !(if isIn then xfSource xf v.ty else xfInto xf v.ty)
          || !(if isIn then v.hasR else if xfAdds xf then v.hasA else v.hasW) || !(isIn || addsInto xf v) then .error (.view vw)
      else
        let dty := xfTarget xf v.ty
        let c0 := if isIn then c.copy s .tileIn xf x.h.val vw v v blk else c.copy s .tileOut xf x.h.val vw v v blk
        let hv := handleView h dty (c0.drow + c0.dRows) c0.dCols (pitchOf dty c0.dCols)
        let cores := if isIn then mcastCores c.core w7 else []
        let list := cores.filterMap fun k => (s.team k).map (·.number)
        let c1 := { c0 with
          dst := if isIn then hv else v
          chain := list
          hops := list
          hop := bit w7 15
          follow := if x.fm then some (nth 0 blk 6) else none }
        let row := nth 0 org (r - 2)
        let col := nth 0 org (r - 1)
        if c1.rows == 0 || c1.cols == 0 || bit w7 14 || (fld w7 11 3 != 0 && !(isIn && xf == xfCOPY))
            || (!isIn && fld w7 15 17 != 0) || (isIn && xfScales xf && c1.drow != 0)
            || !windowOk v org row col c1.rows c1.cols xf
            || (v.stook && !(isIn && stookWindow v org row col c1.rows c1.cols)) then .error (.view vw)
        else if xfSide xf && !sideOk c1.side c1.srow c1.rows c1.cols then .error (.view c1.sv)
        else if isIn && 64 * h.size < c1.reach then .error (.handle x.h.val 5)
        else if isIn && !s.mcastOk c.core c.t x.h.val cores then .error (.handle x.h.val 8)
        else .ok c1

/-- TILEIN (R240), after the group's acquires (R193): the checks at issue; the late ones and the transition are `execTileCopyEnqueue`. -/
def execTilein (x : OpTile) (s : State) : Res :=
  groupUnit (.tilein x) s fun c s =>
    if c.g.acquiring then .retry s else
    match tileChecks c s x true with
    | .error e => .fail e
    | .ok y => .wait { s with nextFence := s.nextFence + 1 } (.copy y c.words)

/-- TILEOUT (R241). -/
def execTileout (x : OpTile) (s : State) : Res :=
  groupUnit (.tileout x) s fun c s =>
    if c.g.acquiring then .retry s else
    match tileChecks c s x false with
    | .error e => .fail e
    | .ok y => .wait { s with nextFence := s.nextFence + 1 } (.copy y c.words)

/-- Checks 1 to 6 of R308, with the refusal of R361 among those of its views (DEDUCED, log 88). Where check 5 fails on the block itself,
DETAIL names SVIEW (DEDUCED, log 106). -/
def bulkChecks (c : Ctx) (s : State) (x : OpBCopy) : Except Cause (Copy × Nat × Nat) :=
  let xf := x.xf.val
  let blk := c.g.block x.p.val
  let w6 := (nth 0 blk 6).toNat
  let w7 := (nth 0 blk 7).toNat
  let eng := fld w6 9 3
  let q := fld w6 6 3
  let ch := fld w6 12 8
  let sid := fld w6 26 6
  let did := fld w6 20 6
  let sv := c.view sid
  let dv := c.view did
  let y := c.copy s .bulk xf ch sid sv dv blk
  let usable := fun (v : View) => v.valid && v.space != spCODE && 1 ≤ v.rank && v.rank ≤ 4
  let o := y.org
  if 8 < xf || !s.holdsQueue c.t.part (dieOfCore c.core) eng q then .error .illegal
  else if (c.t.handle ch).isNone then .error (.handle ch 0)
  else if !usable sv || !xfSource xf sv.ty || !sv.hasR then .error (.view sid)
  else if !usable dv || dv.ty != xfTarget xf sv.ty || !(if xfAdds xf then dv.hasA else dv.hasW) || !addsInto xf dv then
    .error (.view did)
  else if y.rows == 0 || y.cols == 0 || fld w6 0 6 != 0 || fld w7 14 18 != 0 || fld w7 0 11 != 0
      || (fld w7 11 3 != 0 && xf != xfCOPY) || (sv.rank == 1 && nth 0 o 0 != 0)
      || !windowOk sv [0, 0] (nth 0 o 0) (nth 0 o 1) y.rows y.cols xf
      || (sv.stook && !stookWindow sv [] (nth 0 o 0) (nth 0 o 1) y.rows y.cols) then .error (.view sid)
  else if (dv.rank == 1 && nth 0 o 2 != 0) || !windowOk dv [0, 0] (nth 0 o 2) (nth 0 o 3) y.dRows y.dCols xf
      || (dv.stook && !stookWindow dv [] (nth 0 o 2) (nth 0 o 3) y.dRows y.dCols) then .error (.view did)
  else if xfSide xf && !sideOk y.side y.srow y.rows y.cols then .error (.view y.sv)
  else .ok (y, eng, q)

/-- BCOPY (R307, R308): the checks at issue; check 7 and the transition are `execBcopyEnqueue`. -/
def execBcopy (x : OpBCopy) (s : State) : Res :=
  groupUnit (.bcopy x) s fun c s =>
    if c.g.acquiring then .retry s else
    match bulkChecks c s x with
    | .error e => .fail e
    | .ok (y, eng, q) => .wait { s with nextFence := s.nextFence + 1 } (.bulk y c.words eng q)

/-! ## Entering a queue -/

/-- A waiting copy's late check fails: its group halts at the unit (R239). -/
def State.failWait (s : State) (c : Copy) (words : Nat) (e : Cause) : State :=
  (s.modGroup c.core c.group fun g => { g with wait := .none }).haltGroup c.core c.group
    ⟨e.kind, e.detail, e.extra, c.lanes, c.lanes, c.place.pc, words, false, false, none⟩

/-- A handle joined by a local copy of `n` bytes (R180). -/
def Handle.join (h : Handle) (n : Nat) (d : Option TileDesc) : Handle :=
  if h.state == .free then h.start true 0 n d
  else { h with pending := h.pending + n, desc := match h.desc, d with
    | some a, some b => some { a with rows := max a.rows b.rows }
    | none, x => x
    | some a, none => some a }

/-- Whether a local copy may enter a fill of the handle (R180). -/
def Handle.takesCopy (h : Handle) : Bool := h.state == .free || (h.state == .filling && !h.isSealed)

/-- The conditions that stop a copy from joining a handle's fill when its wait ends (R225, R239 checks 7 and 9).
(DEDUCED, log 40.) Of a bulk copy only the last stands (R308). -/
def joinFault (h : Handle) (no n : Nat) (d : Option TileDesc) : Option Cause :=
  let live := h.state == .filling
  if live && h.faulted then some (.handle no 1)
  else if live && (match h.desc, d with
      | some a, some b => a.ty != b.ty || a.planes != b.planes || a.k != b.k || a.pitch != b.pitch
      | _, _ => false) then some (.handle no 7)
  else if 2 ^ 36 ≤ (if live then h.pending else 0) + n then some (.handle no 9)
  else none

/-- The follow-on entry of a copy (R242). -/
def Copy.followEntry (c : Copy) : Option MatrixEntry :=
  match c.follow with
  | none => none
  | some w => (decodeWord w.toNat).map fun i => .op i [] 0 c.group (some c.place) []

/-- The header of a handle's tile as it stands in the region (R184). -/
def State.readHeader (s : State) (core : Nat) (h : Handle) : TileDesc :=
  let n := fun o k => s.num (h.at core o) k
  ⟨n 0 1, n 1 1, n 2 2, n 4 2, n 6 2, n 8 4⟩

/-- The late checks of a TILEIN, and its transition (R240). -/
def State.enterIn (s : State) (c : Copy) (words : Nat) (t : Team) (h : Handle) : State :=
  if !h.takesCopy || 32 ≤ t.inq.length then s
  else
    match joinFault h c.h c.bytes (some c.desc) with
    | some e => s.failWait c words e
    | none =>
      let s1 := s.modTeam c.core fun t =>
        { t with
          handles := modifyNth (fun h => h.join c.bytes (some c.desc)) c.h t.handles
          inq := t.inq ++ [.copy c]
          follows := t.follows ++ (c.followEntry.map fun e => (⟨some c.h, false, e⟩ : Follow)).toList }
      (s1.modGroup c.core c.group (Group.advance words)).moved

/-- Check 6 of a TILEOUT against the header in place (R236, R239): what is wrong with it, if anything. -/
def outFault (c : Copy) (d : TileDesc) : Option Nat :=
  let suits := if c.xf == xfCOPY then
      d.ty == c.dst.ty || (d.ty ≤ 8 && c.dst.ty ≤ 8 && elemBits d.ty == elemBits c.dst.ty)
    else if c.xf == xfTRANSPOSE then d.ty == c.dst.ty else xfSource c.xf d.ty
  if !suits then some 2
  else if d.rows < c.drow + (if c.xf == xfTRANSPOSE then c.cols else c.rows)
      || d.k < (if c.xf == xfTRANSPOSE then c.rows else c.cols) then some 4
  else none

/-- The late check of a TILEOUT, and its transition (R241). -/
def State.enterOut (s : State) (c : Copy) (words : Nat) (t : Team) (h : Handle) : State :=
  if h.faulted then s.failWait c words (.handle c.h 1)
  else if h.state != .full || 32 ≤ t.outq.length then s
  else
    let d := s.readHeader c.core h
    match outFault c d with
    | some k => s.failWait c words (.handle c.h k)
    | none =>
      let pl := max 1 (min 4 d.planes) - 1
      let c1 := { c with
        src := handleView h d.ty d.rows d.k d.pitch
        block := modifyNth (fun w => BitVec.ofNat 32 (setFld w.toNat 12 2 pl)) 7 c.block }
      let s1 := s.modTeam c.core fun t =>
        { t with
          handles := modifyNth (fun h => { h with state := .draining }) c.h t.handles
          outq := t.outq ++ [.copy c1] }
      (s1.modGroup c.core c.group (Group.advance words)).moved

/-- TILE_COPY_ENQUEUE (R240, R241): nothing while the wait goes on. -/
def execTileCopyEnqueue (core group : Nat) (s : State) : Res :=
  match s.team core, s.group core group with
  | some t, some g =>
    match g.wait with
    | .copy c words =>
      match t.handle c.h with
      | some h =>
        if !g.halts.isEmpty || !s.enginesRun core t then .next s
        else .next (if c.kind == .tileIn then s.enterIn c words t h else s.enterOut c words t h)
      | none => .next s
    | _ => .next s
  | _, _ => .next s

/-- BCOPY_ENQUEUE (R308). The firewall checks the queue against ENGINES as they stand now (R335); its target is the number of
the queue's bit there. -/
def execBcopyEnqueue (core group : Nat) (s : State) : Res :=
  match s.team core, s.group core group with
  | some t, some g =>
    match g.wait with
    | .bulk c words eng q =>
      match t.handle c.h with
      | some h =>
        let x := s.engine (dieOfCore core) eng
        if !g.halts.isEmpty || !s.enginesRun core t || !h.takesCopy || 16 ≤ (nth [] x.queues q).length then .next s
        else
          if !s.holdsQueue t.part (dieOfCore core) eng q then .next (s.freezeCore core t.part (64 * dieOfCore core + 8 * eng + q)).moved
          else if 2 ^ 36 ≤ (if h.state == .filling then h.pending else 0) + c.bytes then .next (s.failWait c words (.handle c.h 9))
          else
            let s1 := s.modHandle core c.h fun h => h.join c.bytes none
            let s2 := s1.setEngine { x with queues := modifyNth (fun l => l ++ [.copy c]) q x.queues }
            .next (s2.modGroup core group (Group.advance words)).moved
      | none => .next s
    | _ => .next s
  | _, _ => .next s

/-! ## Moving -/

/-- SATCNT raised, holding at its largest value (R179). -/
def Handle.count (h : Handle) (n : Nat) : Handle := { h with satcnt := min (2 ^ 20 - 1) (h.satcnt + n) }

/-- A data error met by a copy (R183). -/
def Handle.err (h : Handle) (bad : Bool) : Handle := if bad then { h with faulted := true, broken := true } else h

/-- A copy suspended at its granule (R183): FAULTED, and a TRANSLATE record, of a bulk copy with its engine and queue (R304). -/
def State.suspend (s : State) (c : Copy) (vw va cause stage : Nat) (write : Bool) (x : XAgent) : State :=
  match s.team c.core with
  | none => s
  | some t =>
    let r := translateRecord s c.core t (t.groups[c.group]?) c.place.pc c.lanes cause stage write vw va false
    let r := match x with
      | .bulk _ e q => { r with detail := BitVec.ofNat 32 (r.detail.toNat + 2 ^ 10 + 2 ^ 16 * e + 2 ^ 19 * q) }
      | _ => r
    ((s.modHandle c.core c.h fun h => { h with faulted := true }).postTranslate c.part r x).moved

/-- The copy at the head of a queue, if it may move. -/
def headCopy (q : List CopyEntry) : Option Copy :=
  match q with
  | .copy c :: _ => if c.susp.isNone then some c else none
  | _ => none

/-- The head of a queue replaced, or taken out. -/
def setHead (q : List CopyEntry) (c : Option Copy) : List CopyEntry :=
  match c with
  | some x => .copy x :: q.drop 1
  | none => q.drop 1

/-- The copy of a chain whose hop waits at a core's tile port (R243): its next team is the one on the core. -/
def State.hopAt (s : State) (core : Nat) : Option Copy :=
  match s.team core with
  | none => none
  | some u =>
    s.cores.findSome? fun k =>
      match k.team with
      | none => none
      | some t =>
        match headCopy t.inq with
        | some c =>
          if c.pieces ≤ c.moved && c.part == u.part && c.seq == u.seq && c.hops.head? == some u.number then some c else none
        | none => none

/-- The in-queue's next granule (R240): its bytes land, and PENDING and SATCNT follow; of a chain without HOP the last
landing is counted with the last hop (R243). -/
def State.landIn (s : State) (t : Team) (c : Copy) : State :=
  match s.movePiece c c.moved with
  | .error (.xlate vw va cause stage wr) =>
    let s1 := s.suspend c vw va cause stage wr (.tile c.core false)
    s1.modTeam c.core fun t => { t with inq := setHead t.inq (some { c with susp := some s.nextStamp }) }
  | .error (.wall a) => s.freezeCore c.core c.part a
  | .error (.ask as) => s.askFor c as
  | .error .hold => s
  | .ok l =>
    let last := c.moved + 1 == c.pieces
    let keep := last && !c.hops.isEmpty && !c.hop
    let base := ((t.handle c.h).map fun h => h.at c.core 0).getD 0
    let tile := if c.hops.isEmpty then [] else c.tile ++ l.runs.map fun r => (r.1 - base, r.2)
    let spoilt := if c.hops.isEmpty then [] else c.spoilt ++ l.bad.map (· - base)
    let s1 := l.state.modHandle c.core c.h fun h =>
      let h1 := (h.count l.sats).err (!l.bad.isEmpty)
      if keep then h1 else { h1 with pending := h1.pending - c.pieceBytes c.moved }
    let s2 := s1.modTeam c.core fun t =>
      { t with inq := setHead t.inq (if last && c.hops.isEmpty then none else some { c with moved := c.moved + 1, tile := tile, spoilt := spoilt, got := [] }) }
    (s2.settleHandle c.core c.h).settled c.core

/-- TILE_GRANULE_LAND (R240): nothing while a hop or a held follow-on holds the in-queue, or nothing can move. -/
def execTileGranuleLand (core : Nat) (s : State) : Res :=
  match s.team core with
  | none => .next s
  | some t =>
    match headCopy t.inq with
    | none => .next s
    | some c =>
      if c.pieces ≤ c.moved || (s.hopAt core).isSome || t.holdsFollow false || !s.enginesRun core t then .next s
      else .next (s.landIn t c)

/-- Whether an arrival can count at a handle (R180). -/
def Handle.takesArrival (h : Handle) : Bool := h.state == .filling && h.arrived < h.expect

/-- An arrival counted at handle `h` of a core. -/
def State.arrive (s : State) (core h : Nat) : State :=
  (s.modHandle core h fun x => { x with arrived := x.arrived + 1 }).settleHandle core h

/-- The bytes of a chain's tile landed at a listed core (R243), with the description of its header, their poison and what it
makes of the handle (R183, R314). -/
def State.landTile (s : State) (core : Nat) (c : Copy) : State :=
  match (s.team core).bind fun t => t.handle c.h with
  | none => s
  | some h =>
    let s1 := c.tile.foldl (fun (s : State) r => s.unitStore (h.at core r.1) r.2) s
    let s2 := c.spoilt.foldl (fun (s : State) o => s.markPoison (h.at core o) 1) s1
    s2.modHandle core c.h fun h => { h.err (!c.spoilt.isEmpty) with desc := some c.desc }

/-- The end of a chain without HOP (R243): every handle counts its arrival, and the issuer's its last landing. -/
def State.endChain (s : State) (c : Copy) : State :=
  let s1 := (c.chain.filterMap (s.coreOf c.part c.seq)).foldl (fun (s : State) k => s.arrive k c.h) s
  (s1.modHandle c.core c.h fun h => { h with pending := h.pending - c.pieceBytes (c.pieces - 1) }).settleHandle c.core c.h

/-- Whether the handle of a chain's team takes an arrival now (R180, R243): the team is on a core, which works and is not
pre-empted. -/
def State.hopTakes (s : State) (c : Copy) (n : Nat) : Bool :=
  match s.coreOf c.part c.seq n with
  | none => false
  | some k => ((s.team k).map fun t => s.enginesRun k t && ((t.handle c.h).map Handle.takesArrival).getD false).getD false

/-- MCAST_HOP_ARRIVAL (R243): the hop that waits at `core` lands, if the handle there expects it. -/
def execMcastHopArrival (core : Nat) (s : State) : Res :=
  match s.hopAt core with
  | none => .next s
  | some c =>
    let last := c.hops.length == 1
    let due := if last && !c.hop then c.chain else c.hops.take 1
    if !((s.team c.core).map (s.enginesRun c.core)).getD false || !due.all (s.hopTakes c) then .next s
    else
      let s1 := s.landTile core c
      let s2 := if c.hop then s1.arrive core c.h else if last then s1.endChain c else s1
      let s3 := s2.modTeam c.core fun t =>
        { t with inq := setHead t.inq (if last then none else some { c with hops := c.hops.drop 1 }) }
      .next (s3.settled c.core)

/-- FOLLOW_ON_RELEASE (R242). -/
def execFollowOnRelease (core : Nat) (s : State) : Res :=
  match s.team core with
  | none => .next s
  | some t =>
    if (t.follows.any fun f => f.h.isNone) && t.mq.length < 16 then .next (s.modTeam core Team.releaseOne).moved else .next s

/-- Bytes of a CLUSTER view performed: PENDING of the cell that the team has arrived at falls (R255). -/
def State.clusterLanded (s : State) (c : Copy) (n : Nat) : State :=
  match s.team c.core with
  | none => s
  | some t =>
    match t.barcIn with
    | some cell =>
      if c.dst.space == spCLUSTER then
        s.modCells c.core t fun i b => if i == cell then { b with pending := b.pending - n } else b
      else s
    | none => s

/-- The bytes of an out-queue granule are performed: the copy goes on with the next, or leaves the queue, and its follow-on is released
(R242). -/
def State.landOut (s : State) (core : Nat) (c : Copy) : State :=
  let last := c.moved + 1 == c.pieces
  (((s.clusterLanded c (c.pieceBytes c.moved)).modTeam core fun t =>
    ({ t with
      outq := setHead t.outq (if last then none else some { c with moved := c.moved + 1, got := [], sent := false })
      follows := t.follows ++ (if last then (c.followEntry.map fun e => (⟨none, true, e⟩ : Follow)).toList else []) } : Team).releaseAll).settled
    core)

/-- TILEOUT_GRANULE (R241): a pre-empted team's copies go on only where a crew barrier's PENDING counts them (R284). Once the last
region byte is read the handle is FREE; a granule that goes to a peer is performed once it is acknowledged (R373). -/
def execTileoutGranule (core : Nat) (s : State) : Res :=
  match s.team core with
  | none => .next s
  | some t =>
    match headCopy t.outq with
    | none => .next s
    | some c =>
      let lands := t.stopped && t.barcIn.isSome && c.dst.space == spCLUSTER
      if c.sent then (if s.copyOut c then .next s else .next (s.landOut core c))
      else if t.holdsFollow true || !s.enginesRun core { t with stopped := t.stopped && !lands } then .next s
      else
        match s.movePiece c c.moved with
        | .error (.xlate vw va cause stage wr) =>
          let s1 := s.suspend c vw va cause stage wr (.tile core true)
          .next (s1.modTeam core fun t => { t with outq := setHead t.outq (some { c with susp := some s.nextStamp }) })
        | .error (.wall a) => .next (s.freezeCore core c.part a)
        | .error (.ask as) => .next (s.askFor c as)
        | .error .hold => .next s
        | .ok l =>
          let s1 := l.state.modHandle core c.h fun h =>
            let h1 := (h.count l.sats).err (!l.bad.isEmpty)
            if c.moved + 1 == c.pieces then h1.freed else h1
          if s1.copyOut c then
            .next ((s1.modTeam core fun t => { t with outq := setHead t.outq (some { c with sent := true }) }).settled core)
          else .next (s1.landOut core c)

/-- Whether the team that issued a copy is the one on its core. -/
def State.ownsCopy (s : State) (c : Copy) : Bool :=
  ((s.team c.core).map fun t => t.part == c.part && t.seq == c.seq && t.number == c.team).getD false

/-- Whether a copy's team has been pre-empted. -/
def State.copyStopped (s : State) (c : Copy) : Bool := ((s.team c.core).map (·.stopped)).getD false

/-- Whether a copy's granule is in flight: it has asked for bytes, has received some, or has sent them to a peer. -/
def State.inFlight (s : State) (c : Copy) : Bool :=
  s.ownsCopy c && !((s.part c.part).map Part.halted).getD true
    && (c.sent || (!s.copyStopped c && (!c.got.isEmpty || s.asked (.read c.core c.no))))

/-- Whether the head of an engine's queue can move on now (R306): its copy is not suspended, its team is on its core and is not
pre-empted, its partition is not halted, and its granule's memory serves it; a granule that has gone to a peer is acknowledged. -/
def State.bulkCan (s : State) (x : Engine) (q : Nat) : Bool :=
  match headCopy (nth [] x.queues q) with
  | none => false
  | some c =>
    !((s.part c.part).map Part.halted).getD true
      && (!s.ownsCopy c ||
        if c.sent then !s.copyOut c
        else !s.copyStopped c && match s.movePiece c c.moved with
          | .error .hold => false
          | .error (.ask as) => (s.askFor c as).progress != s.progress
          | _ => true)

/-- The queue of an engine whose granule is in flight. -/
def State.flightOf (s : State) (x : Engine) : Option Nat :=
  x.order.find? fun q => ((headCopy (nth [] x.queues q)).map s.inFlight).getD false

/-- The queue whose granule an engine moves next (R306): the one whose granule is in flight, else round-robin among those that can; of
an engine frozen by a slot the one whose granule was in flight, once the slot has ended (R347). A queue that cannot move is passed
over. (DEDUCED, log 83.) -/
def State.bulkTurn (s : State) (x : Engine) : Option Nat :=
  if x.frozen then (if s.dramShut then none else x.flight.filter (s.bulkCan x))
  else
    match s.flightOf x with
    | some q => if s.bulkCan x q then some q else none
    | none => x.order.find? (s.bulkCan x)

/-- A queue of an engine with its head replaced or taken out, the queue being the one served last (R306). -/
def State.servedBulk (s : State) (die e q : Nat) (y : Option Copy) : State :=
  let x := s.engine die e
  s.setEngine { x with queues := modifyNth (fun l => setHead l y) q x.queues, turn := q, flight := none }

/-- The bytes of a bulk copy's granule are performed (R308): its handle counts them, and the copy goes on with the next or leaves its
queue. -/
def State.landBulk (s : State) (die e q : Nat) (c : Copy) : State :=
  let s1 := s.modHandle c.core c.h fun h => { h with pending := h.pending - c.pieceBytes c.moved }
  let s2 := s1.servedBulk die e q (if c.moved + 1 == c.pieces then none else some { c with moved := c.moved + 1, got := [], sent := false })
  (s2.settleHandle c.core c.h).settled c.core

/-- BULK_GRANULE (R306, R308): nothing while the granule is not the engine's next. A granule that goes to a peer is performed once it
is acknowledged (R373). -/
def execBulkGranule (die : Nat) (engine : Fin 8) (queue : Fin 8) (s : State) : Res :=
  let x := s.engine die engine.val
  let setQ := fun (s : State) (y : Option Copy) => s.servedBulk die engine.val queue.val y
  match headCopy (nth [] x.queues queue.val) with
  | none => .next s
  | some c =>
    if s.bulkTurn x != some queue.val then .next s
    else if !s.ownsCopy c then .next (setQ s none).moved
    else if c.sent then .next (s.landBulk die engine.val queue.val c)
    else
      match s.movePiece c c.moved with
      | .error (.xlate vw va cause stage wr) =>
        let s1 := s.suspend c vw va cause stage wr (.bulk die engine.val queue.val)
        .next (setQ s1 (some { c with susp := some s.nextStamp }))
      | .error (.wall a) => .next (s.freezeEngine die engine.val c.part a)
      | .error (.ask as) => .next (s.askFor c as)
      | .error .hold => .next s
      | .ok l =>
        let s1 := l.state.modHandle c.core c.h fun h => (h.count l.sats).err (!l.bad.isEmpty)
        .next (if s1.copyOut c then (s1.modCopy c.core c.no fun c => { c with sent := true }).moved
          else s1.landBulk die engine.val queue.val c)

end Sys2Proof.Machine
end

