-- ==== Sys2Proof/Machine/Clock.lean ====
section
/-!
DEFINITION. Package time and the slot calendar (spec/17 R344 to R348), what happens at its moments (R189, R310, R315, R347,
R375), the integrity sweep (R336 to R338), and the power events (R340 to R343).
-/
namespace Sys2Proof.Machine

/-- The frame that package time lies in (R344). -/
def State.frame (s : State) : Nat := s.time.toNat / 32768

/-- The machine at a later moment of package time, or as it is where the moment has passed. -/
def State.until_ (s : State) (t : Nat) : State := s.atTime (BitVec.ofNat 56 (max t s.time.toNat))

/-- The moment at which the calendar's next event is due (R310, R344): the slot's end as extended, the guard's opening,
the last ns before the next frame, or now. -/
def State.boundary (s : State) : Nat :=
  match s.phase with
  | .slot => 32768 * s.frame + s.slotLen
  | .running => 32768 * (s.frame + 1) - 2048
  | .guard => 32768 * (s.frame + 1) - 1
  | .starting => s.time.toNat

/-- Whether the calendar's next event is due. -/
def State.due (s : State) : Bool := s.boundary ≤ s.time.toNat

/-- Time passes by some ns, up to the calendar's next event (DESIGN CHOICE, log 4). A package that is slewed back holds its
time for the ns it owes (R375). (DEDUCED, log 52.) -/
def State.pass (s : State) (ns : Nat) : State :=
  if s.due then s
  else
    let held := min ns s.timeSlow
    { s.atTime (BitVec.ofNat 56 (min (s.time.toNat + (ns - held)) s.boundary)) with timeSlow := s.timeSlow - held }

/-- A partition's record posted to every partition. -/
def State.postAll (s : State) (r : Record) : State :=
  (s.parts.map (·.id)).foldl (fun (s : State) p => s.post p r) s

/-! ## The watchdog (R189) -/

/-- Whether a team's groups may be halted by its watchdog: it is resident and has not ended. -/
def Team.resident (t : Team) : Bool :=
  match t.phase with
  | .runs => true
  | .image _ => true
  | .queue => true
  | .ending _ => false
  | .finished => false

/-- A team's count falls by one at a frame start while it is resident and not pre-empted (R189); it stays at zero. -/
def Team.countDown (t : Team) : Team := if t.resident && !t.stopped then { t with watchdog := t.watchdog - 1 } else t

/-- Whether a group has a watchdog halt. -/
def Group.dogged (g : Group) : Bool := g.halts.any (·.dog)

/-- A group halts with the team's WATCHDOG record (R189) and takes the lowest free halt-window slot. (DESIGN CHOICE, log 24.) -/
def State.dogHalt (s : State) (core gi : Nat) (t : Team) (r : Record) : State :=
  s.modGroup core gi fun g =>
    { g with halts := g.halts ++ [⟨r, 0, 0, false, true, none,
        if g.halts.isEmpty then lowestFree (s.slotsUsed t.part) 512 else none⟩] }

/-- WATCHDOG_EXPIRE (R189): one record, and every group of the team halts; nothing unless the count is at zero, the
watchdog is enabled, and some group is not halted by it yet. The record names no group: its STAGE, GROUP, PC and LANES are
zero. (DEDUCED, log 82.) -/
def execWatchdogExpire (core : Nat) (s : State) : Res :=
  match s.team core with
  | none => .next s
  | some t =>
    if !t.resident || t.stopped || recWdog (s.recordOf t) == 0 || t.watchdog != 0
        || !(t.groups.any fun g => !g.ended && !g.dogged) then .next s
    else
      let r : Record := { Record.ofKind 0x0E with
        stamp := s.nextStamp, core := core, part := t.part, seq := t.seq, teamNo := teamWord (s.recordOf t) t.number }
      let s1 := s.stamped.postStamped t.part r
      let s2 := t.open_.foldl (fun (s : State) gi =>
        if ((s.group core gi).map Group.dogged).getD true then s else s.dogHalt core gi t r) s1
      .next s2.moved

/-! ## The calendar -/

/-- The up ports whose peers are nearer the time master (R375). -/
def State.timePorts (s : State) : List Nat :=
  placesFrom (fun n (p : Port) => p.up && (p.master || Config.nearerMaster n)) 0 s.ports

/-- TIME LOST (R375, R376), posted to the management core. -/
def State.postTimeLost (s : State) : State := s.postMgmt (Record.ofKind 0x32)

/-- FRAME_START (R189, R344, R375): the frame begins as the guard ends; watchdogs count down, every up port sends TIME, and
a package that has lost every time path says so. -/
def execFrameStart (s : State) : Res :=
  if s.phase != .guard then .next s
  else
    let s1 := { s.atTime (BitVec.ofNat 56 (32768 * (s.frame + 1))) with phase := .starting }
    let s2 := { s1 with cores := s1.cores.map fun (c : Core) => { c with team := c.team.map Team.countDown } }
    let s3 := s2.upPorts.foldl (fun (s : State) p => s.sendFlit p ⟨0x21, false, false, 0, bytesOf 8 s.time.toNat⟩) s2
    let lost := !Config.timeMaster && s3.timeHad && s3.timePorts.isEmpty
    .next (if lost then { s3.postTimeLost with timeHad := false, timeOff := 0 } else s3).moved

/-- SLOT_GUARD_OPEN (R310): from here on no unit begins a granule of DRAM traffic (`State.mayBegin`). -/
def execSlotGuardOpen (s : State) : Res :=
  if s.phase != .running then .next s
  else .next { s.until_ (32768 * (s.frame + 1) - 2048) with phase := .guard }.moved

/-- The queue of an engine whose DRAM traffic is in flight as a slot starts (R347): a granule that has a side in this package's DRAM or
in a peer's (R357) and has asked for bytes or sent them; or one with a PEER side that the engine has begun and not finished
otherwise (free value). A granule of this package's memory alone never begins in the guard and has completed by the slot (R310,
R356). (DEDUCED, log 83.) -/
def State.caught (s : State) (x : Engine) (frame : Nat) : Option Nat :=
  let head := fun q => headCopy (nth [] x.queues q)
  match s.flightOf x with
  | some q => ((head q).filter fun c => c.peerSide || c.onDevice).map fun _ => q
  | none =>
    if Config.stillHolds frame x.die x.id then
      x.order.find? fun q => ((head q).map fun c => c.peerSide && s.ownsCopy c && !s.copyStopped c).getD false
    else none

/-- ENGINE OVERRUN (R347): the engine is frozen with queue q's granule in flight, and each partition that holds one of its
queues gets a record, and the management core. -/
def State.overrun (s : State) (x : Engine) (q : Nat) : State :=
  let r : Record := { Record.ofKind 0x25 with detail := BitVec.ofNat 32 (8 * x.die + x.id) }
  let s1 := s.setEngine { x with frozen := true, flight := some q }
  let own := (s1.parts.filter fun p => (upFrom 0 8).any fun q => bit p.engines.toNat (64 * x.die + 8 * x.id + q)).map (·.id)
  (own.foldl (fun (s : State) p => s.post p r) s1).postMgmt r

/-- Whether no core of a sheaf holds a team. -/
def State.sheafEmpty (s : State) (sheaf : Nat) : Bool :=
  s.cores.all fun c => sheafOfCore c.id != sheaf || c.team.isNone

/-- SLOT_START (R343 to R345, R347, R368): the slot of the frame starts; the sheaves that are empty are noted; an engine that
still holds DRAM traffic is frozen; in a long slot the lanes of the up ports are retrained. -/
def execSlotStart (s : State) : Res :=
  if s.phase != .starting then .next s
  else
    let n := s.frame
    let s1 := { s with
      phase := .slot, slotLen := slotNs n
      slotEmpty := BitVec.ofNat 96 (((upFrom 0 96).map fun q => if s.sheafEmpty q then 2 ^ q else 0).foldr (· + ·) 0) }
    let s2 := s1.together ((s1.engines.filter (!·.frozen)).filterMap fun x =>
      (s1.caught x n).map fun q => (Source.engine x.die x.id, fun (s : State) => s.overrun x q))
    let s3 := if n % 32 == 0 then
        { s2 with ports := s2.ports.map fun (p : Port) => if p.up then { p with lanes := 8 } else p }
      else s2
    .next s3.moved

/-- SLOT_EXTENDED (R348): by steps of 64 ns, no further than the next guard; every partition is told. (DEDUCED, log 51.) -/
def execSlotExtended (steps : Nat) (s : State) : Res :=
  if s.phase != .slot || steps == 0 || 30720 < s.slotLen + 64 * steps then .next s
  else
    let s1 := { s with slotLen := s.slotLen + 64 * steps }
    .next (s1.postAll { Record.ofKind 0x26 with detail := BitVec.ofNat 32 (64 * steps) })

/-- The DETAIL code of a verdict (R314). -/
def verdictCode : Verdict → Nat
  | .transient => 1
  | .lasting => 2
  | .noSpare => 3

/-- Whether a stamp was given before a moment of package time (R9). -/
def stampedBefore (x : Word64) (t : Nat) : Bool := stampBefore x (BitVec.ofNat 64 (t * 2 ^ 8))

/-- SELF_TEST_VERDICT (R315): in a long slot, the test of a die's earliest unit that was reported before the slot ends. -/
def execSelfTestVerdict (die : Nat) (verdict : Verdict) (s : State) : Res :=
  if s.phase != .slot || s.frame % 32 != 0 then .next s
  else
    match s.testing.find? fun x => x.1 == die && stampedBefore x.2.2.stamp (32768 * s.frame) with
    | none => .next s
    | some (_, own, r) =>
      let s1 := { s with testing := s.testing.filter fun x => x.2.2.stamp != r.stamp }
      .next (s1.postOwner own { Record.ofKind 0x1A with detail := BitVec.ofNat 32 (verdictCode verdict), extra := r.extra })

/-! ## The integrity sweep -/

/-- The flat lines of a sealed DRAM entry: the first and how many; none for an entry that is no such. -/
def RangeEntry.sealedLines (e : RangeEntry) : Option (Nat × Nat) :=
  if !bit e.toNat 120 || RangeEntry.kind e == 0 || RangeEntry.kind e == 3 then none
  else
    match RangeEntry.flat e (bvFld e 32 32 * 2 ^ 16), RangeEntry.flat e (bvFld e 64 32 * 2 ^ 16) with
    | some lo, some hi => some (lo / 64, (hi + 2 ^ 16 - lo) / 64)
    | _, _ => none

/-- The number of sealed lines of a partition. -/
def Part.sealedCount (p : Part) : Nat := ((p.ranges.filterMap RangeEntry.sealedLines).map (·.2)).foldr (· + ·) 0

/-- INTEGRITY_SWEEP_VISIT (R336 to R338): a sealed line that this period's sweep has not visited; the sweep pauses from a
guard to the slot's end. A mismatch, or an uncorrectable error in an accumulator, freezes the partition. -/
def execIntegritySweepVisit (part : Fin 96) (line : Nat) (s : State) : Res :=
  match s.part part.val with
  | none => .next s
  | some p =>
    match p.integ with
    | none => .next s
    | some x =>
      if s.phase != .running || p.halted || x.seen.contains line
          || ((sealedOwner s.parts (64 * line)).map (·.id)) != some part.val then .next s
      else if x.broken || x.tagOf line != x.epoch then
        .next ((s.modPart part.val Part.integrityFreeze).reportIntegrity s.parts).moved
      else
        let d := s.read (64 * line) 64
        let h := fun t => Config.kmac128 part.val x.key line t d
        let x1 := { x with
          sw := addAt x.sw (parity x.epoch) (h x.epoch)
          w := addAt x.w (parity (x.epoch + 1)) (h (x.epoch + 1))
          tags := (line, x.epoch + 1) :: x.tags.filter fun t => t.1 != line
          seen := line :: x.seen }
        .next (s.modPart part.val fun p => { p with integ := some x1 })

/-- INTEGRITY_PERIOD_END (R336 to R338): once every sealed line is visited and PERIOD has elapsed, the accumulators are
compared; an uncorrectable error in one counts as a mismatch. -/
def execIntegrityPeriodEnd (part : Fin 96) (s : State) : Res :=
  match s.part part.val with
  | none => .next s
  | some p =>
    match p.integ with
    | none => .next s
    | some x =>
      if p.halted || x.seen.length != p.sealedCount || s.time.toNat < x.began + 1000000 * p.period then .next s
      else
        let i := parity x.epoch
        if x.broken || x.w[i] != x.sw[i] + x.rm[i] then
          .next ((s.modPart part.val Part.integrityFreeze).reportIntegrity s.parts).moved
        else
          let x1 := { x with
            w := x.w.set i 0, rm := x.rm.set i 0, sw := x.sw.set i 0
            epoch := x.epoch + 1, seen := [], began := s.time.toNat }
          .next (s.modPart part.val fun p => { p with integ := some x1 })

/-! ## Power -/

/-- The energy of a step charged to every partition and to the package (R342): its sheaves and vaults, its DRAM accesses,
whoever makes them, and its share of the hub; the amounts are free values. -/
def State.charge (s : State) : State :=
  { s with
    parts := s.parts.map fun p => { p with energy := p.energy + BitVec.ofNat 64 (Config.energyCharge s.draws p.id) }
    energy := s.energy + BitVec.ofNat 64 (Config.energyCharge s.draws 96)
    draws := s.draws + 1 }

/-- The fade of the ballast after a window in which `issued` units were issued (R341): the last issue, the level L and m,
65 where there is no fade. A new drop starts from the level then in force. (DEDUCED, log 50.) -/
def ballastNext (b : Nat × Nat × Nat) (issued : Nat) : Nat × Nat × Nat :=
  let (prev, level, m) := b
  let inForce := max prev (level * (64 - m) / 64)
  if 2 * issued < prev then (issued, inForce, 1) else (issued, level, min 65 (m + 1))

/-- BALLAST_WINDOW (R341): the window's issue is compared with the last one's; ballast is charged to the sheaf's
partition and changes nothing that a program sees. (DEDUCED, log 50.) -/
def execBallastWindow (sheaf : Fin 96) (issued : Nat) (s : State) : Res :=
  let b := ballastNext s.ballast[sheaf] issued
  let s1 := { s with ballast := s.ballast.set sheaf b }
  match s.sheafOwner sheaf.val with
  | some p => .next (if b.2.2 ≤ 64 then
      { s1.modPart p.id fun p => { p with energy := p.energy + BitVec.ofNat 64 (Config.energyCharge s.draws p.id) } with
        energy := s.energy + BitVec.ofNat 64 (Config.energyCharge s.draws 96), draws := s.draws + 1 } else s1)
  | none => .next s1

/-- READ_GRANT_BUDGET (R340): from 4 to 16. -/
def execReadGrantBudget (sheaf : Fin 96) (budget : Nat) (s : State) : Res :=
  if budget < 4 || 16 < budget then .next s else .next { s with budgets := s.budgets.set sheaf budget }

/-- THERMAL_EVENT (R340): the power manager lowers the budget first. -/
def execThermalEvent (sheaf : Fin 96) (budget : Nat) (s : State) : Res :=
  if budget < 4 || s.budgets[sheaf] < budget then .next s else .next { s with budgets := s.budgets.set sheaf budget }

/-- POOL_WRITE (R334, R343): the class of an owned sheaf that was empty at the start of the slot and is still, within that slot. -/
def execPoolWrite (part : Fin 96) (sheaf : Fin 96) (cls : Fin 4) (s : State) : Res :=
  match s.part part.val with
  | none => .next s
  | some p =>
    if s.phase != .slot || !bit p.sheaves.toNat sheaf.val || !bit s.slotEmpty.toNat sheaf.val || !s.sheafEmpty sheaf.val then .next s
    else .next (s.modPart part.val fun p => { p with pool := modifyNth (fun _ => cls) sheaf.val p.pool }).moved

/-- ENERGY_LO_READ (R342): the high half is latched for the reading agent. -/
def execEnergyLoRead (agent : EnergyAgent) (s : State) : Res :=
  match agent with
  | .driver part => .next (s.tlp part.val 0x1070 fun s => s.modPart part.val fun p => { p with energyHi := (p.energy >>> 32).setWidth 32 })
  | .manager => .next { s with energyHi := (s.energy >>> 32).setWidth 32 }

end Sys2Proof.Machine
end

