-- ==== Sys2Proof/Machine/Cores.lean ====
section
/-!
DEFINITION. What comes about on a core without an instruction: the bounds of R93, R131, R134 and R171, the fill of a line
of code (spec/16 R300), the fill and the write-back of a mapped region's slot (R293), and the completion of a crew barrier
(spec/13 R255).
-/
namespace Sys2Proof.Machine

/-- BROADCAST_PC_TIMEOUT (R93): after lanes have waited at one place for 256 issues, the broadcast PC goes to the place at which
most wait. -/
def execBroadcastPcTimeout (core group : Nat) (s : State) : Res :=
  match s.group core group with
  | none => .next s
  | some g =>
    if g.rvz.isSome || !g.heldLong || g.moveBroadcast.place == g.place then .next s
    else .next (s.modGroup core group Group.moveBroadcast).moved

/-- RVZ_BOUND_EXPIRE (R131): the lanes at the RVZ go on. -/
def execRvzBoundExpire (core group : Nat) (s : State) : Res :=
  match s.group core group with
  | none => .next s
  | some g =>
    match g.rvz with
    | none => .next s
    | some r =>
      if !g.halts.isEmpty then .next s
      else
        .next (((s.modGroup core group fun x => ((x.endRvz r).settle).refreshBroadcast).afterEnds core copyLeft).moved)

/-- YIELD_EXPIRE (R134): 64 cycles after a YIELD the group is ready again. -/
def execYieldExpire (core group : Nat) (s : State) : Res :=
  match (s.group core group).map (fun (g : Group) => g.wait) with
  | some (.yielded _) => .next (s.modGroup core group fun g => { g with wait := .none }).moved
  | _ => .next s

/-- HSCH_RUN_END (R171): the run that HSCH asked for ends. -/
def execHschRunEnd (core group : Nat) (s : State) : Res :=
  match s.group core group with
  | none => .next s
  | some g => if g.run == 0 then .next s else .next (s.modGroup core group fun g => { g with run := 0 }).moved

/-- The lanes of a group that wait for a line of code. -/
def Group.awaitingCode (g : Group) (line : Nat) : List Nat :=
  placesFrom (fun _ (l : Lane) => !l.exited && l.wait == .code line) 0 g.lanes

/-- Every lane of a team that waits for a line of code goes on. -/
def Team.gotCode (line : Nat) (t : Team) : Team :=
  { t with groups := t.groups.map fun (g : Group) => { g with lanes := g.lanes.map fun (l : Lane) =>
      if l.wait == (.code line) then { l with wait := .none } else l } }

/-- A line of code fetched for a core (R300), once its DRAM serves (R305, R344), not for a frozen core or partition (R335, R338): the
code unit takes it in; a translation fault posts a TRANSLATE record with
DETAIL bit 30, for the first group that waits. (DEDUCED, log 31.) (DEDUCED, log 32.) -/
def State.fetchCode (s : State) (core line : Nat) : State :=
  match s.team core with
  | none => s
  | some t =>
    match s.part t.part with
    | none => s
    | some p =>
      if s.awaits t.part (.code core line) || (s.core core).frozen || p.halted then s
      else
        match translate s p false (64 * line) 1 with
        | .bad c g =>
          if c == waitCause then s
          else if c == wallCause then s.freezeCore core t.part g
          else
            let own := t.groups.find? fun x => !(x.awaitingCode line).isEmpty
            let lanes := (own.map fun x => x.awaitingCode line).getD []
            let pc := ((own.map fun x => (x.lane (lanes.headD 0)).pc)).getD 0
            let r := translateRecord s core t own pc (maskOf lanes) c g false 0 (64 * line) true
            (s.postTranslate t.part r (.code core line)).moved
        | .ok a r1 r2 sl =>
          if !s.serves a then s
          else
            let ws := (upFrom 0 16).map fun k => BitVec.ofNat 32 (s.num (a + 4 * k) 4)
            let s1 := s.cache t.part (64 * line) (.ok a r1 r2 sl)
            let k := s1.core core
            let s2 := s1.setCore { k with
              fetch := ⟨line, ws⟩ :: k.fetch.filter fun x => x.line != line
              team := k.team.map (Team.gotCode line) }
            (s2.reportCut t.part a true).moved

/-- CODE_FETCH_FILL (R300). -/
def execCodeFetchFill (core : Nat) (line : Nat) (s : State) : Res := .next (s.fetchCode core line)

/-- Whether a core's mapped-region unit works: neither the core nor its partition is frozen (R335, R338). -/
def State.mapRuns (s : State) (core : Nat) (t : Team) : Bool :=
  !(s.core core).frozen && ((s.part t.part).map fun p => !p.halted).getD false

/-- The logs of all teams replayed, as DRAM or a channel of it serves again (R186, R305, R310). -/
def State.replayAll (s : State) : State :=
  s.cores.foldl (fun (s : State) c =>
    match s.team c.id with
    | none => s
    | some t => if s.mapRuns c.id t then (s.replayTeam c.id).settled c.id else s) s

/-- MAPPED_FILL_COMPLETE (R293): the slot's granule lands, and the units that wait for it replay. -/
def execMappedFillComplete (core region slot : Nat) (s : State) : Res :=
  match s.team core with
  | none => .next s
  | some t =>
    if !s.mapRuns core t then .next s
    else
      let (s1, done) := s.fillSlotNow core region slot
      .next (if done then (s1.replayTeam core).settled core else s1)

/-- MAPPED_WRITE_BACK (R293): the slot's dirty bytes go home. -/
def execMappedWriteBack (core region slot : Nat) (s : State) : Res :=
  match s.team core, s.region core region with
  | some t, some r =>
    if !s.mapRuns core t || slot ≥ r.slots.length || (r.slot slot).state != .dirty then .next s
    else
      let (s1, done) := s.writeBack core r slot none 0 0
      .next (if done then s1.settled core else s1)
  | _, _ => .next s

/-- The cores that hold the members of a team's crew. -/
def State.crewCores (s : State) (t : Team) : List Nat :=
  (s.cores.filter fun c => match c.team with
    | none => false
    | some u => u.part == t.part && u.seq == t.seq && u.crewId == t.crewId).map (·.id)

/-- An episode of a cell of a team's crew completes if every member that has not ended has arrived and no byte is pending:
every waiting team goes on (R255). On a frozen cell the groups that wait are halted by `State.haltErrors`. -/
def State.completeCell (s : State) (core cell : Nat) (t : Team) : State :=
  match s.crewOf core t with
  | none => s
  | some x =>
    let b := nth BarCell.zero x.cells cell
    if b.frozen || b.arrived == 0 || b.arrived != b.expect || b.pending != 0 then s
    else
      let s1 := s.modCells core t fun i y => if i == cell then { y with phase := !y.phase, arrived := 0 } else y
      ((s.crewCores t).foldl (fun (s : State) c =>
        ((s.modTeam c fun u => if u.barcIn == some cell then u.passBarc cell else u).afterEnds c copyLeft)) s1).moved

/-- The groups of a core's team that wait at BARC on a cell of their crew that an uncorrectable error has frozen halt there (R269). -/
def State.haltFrozen (s : State) (core : Nat) : State :=
  match s.team core with
  | none => s
  | some t =>
    (upFrom 0 t.groups.length).foldl (fun (s : State) gi =>
      match s.group core gi with
      | none => s
      | some g =>
        match g.wait with
        | .barc k words =>
          if ((s.crewOf core t).map fun x => (nth BarCell.zero x.cells k).frozen).getD false then
            let m := maskOf g.alive
            ((s.modTeam core fun (u : Team) => { u with barcIn := none }).modGroup core gi fun g => { g with wait := .none }).haltGroup
              core gi ⟨0x14, 0, 0, m, m, g.place.pc, words, false, false, none⟩
          else s
        | _ => s) s

/-- Every group that waits on a queue marked ERROR, or on a frozen cell, halts (R269). Errors come from outside (DEDUCED, log 85). -/
def State.haltErrors (s : State) : State :=
  let s1 := (s.clusters.flatMap fun k => (k.recs.filter fun r => r.error && !r.waiters.isEmpty).map fun r => (k.id, r.no)).foldl
    (fun (s : State) x => s.errorQueue x.1 x.2) s
  (s.cores.map (·.id)).foldl (fun (s : State) c => s.haltFrozen c) s1

/-- BARRIER_EPISODE_COMPLETE (R255). -/
def execBarrierEpisodeComplete (core : Nat) (cell : Fin 8) (s : State) : Res :=
  match s.team core with
  | none => .next s
  | some t => .next (s.completeCell core cell.val t)

/-! ## ECC errors (R314) -/

/-- The partition that owns the unit at a flat address (R314, R334): of a scratchpad or a vault, the one that owns its sheaf; of a page of
DRAM, the first whose ranges hold it; none where no partition does. (DESIGN CHOICE, log 109.) -/
def State.unitOwner (s : State) (a : Nat) : Option Nat :=
  let own := if isVault a then s.sheafOwner ((a - 2 ^ 30) / 2 ^ 22 / 4) else if a < 2 ^ 30 then s.sheafOwner (sheafOfCore (a / 2 ^ 18))
    else s.parts.find? fun p => p.ranges.any fun e => RangeEntry.spans e a
  own.map (·.id)

/-- An ECC error of the 64-bit word at a flat address (R314): one that is not corrected marks the word poisoned; both are reported to the
unit's owner. -/
def State.flaw (s : State) (a : Nat) (corrected : Bool) : State :=
  match dieOfAddr a with
  | none => s
  | some _ =>
    (if corrected then s else s.markPoison a 1).errorReport (s.unitOwner a)
      (if isVault a then 1 else if a < 2 ^ 30 then 0 else 3) corrected (!corrected) a

/-- An error of a die-to-die link lane, which no partition owns (R314). -/
def State.linkFlaw (s : State) (a : Nat) (corrected : Bool) : State := s.errorReport none 4 corrected false a

/-- An ECC error in a register-file row (R173, R314): its 64-bit word is the register in an even lane and the next; one that is not
corrected marks both poisoned. Its location is the start of the core's scratchpad (DESIGN CHOICE, log 69). -/
def State.regFlaw (s : State) (core gi n : Nat) (r : Fin 64) (corrected : Bool) : State :=
  match s.group core gi with
  | none => s
  | some g =>
    if g.lanes.length ≤ n then s
    else
      let mark := fun (l : Lane) => { l with bad := r :: l.bad.filter (· != r) }
      let s1 := if corrected then s else (s.modLane core gi (n / 2 * 2) mark).modLane core gi (n / 2 * 2 + 1) mark
      s1.errorReport (s.unitOwner (scratchAt core 0)) 2 corrected (!corrected) (scratchAt core 0)

/-- What the unit wrote is no longer poisoned (R314): in each lane that got past it or waits at it, the registers it overwrites. -/
def State.rewritten (s : State) (i : Instr) (core gi : Nat) (lanes : List Nat) (old : Group) : State :=
  s.modGroup core gi fun g =>
    { g with lanes := mapFrom (fun n (l : Lane) =>
        let l0 := old.lane n
        if l0.bad.isEmpty || !lanes.contains n || !i.readsIn l0 || (l.pc == l0.pc && l.wait == .none) then l
        else { l with bad := l.bad.filter fun r => !(i.overwrites.any fun v => l0.phys (Fin.ofNat 64 v) == r) }) 0 g.lanes }

end Sys2Proof.Machine
end

