-- ==== Sys2Proof/Machine/Launch.lean ====
section
/-!
DEFINITION. Launches (spec/17 R317 to R329): the commit, the dispatcher's copy and validation of a record, eligibility, the
building and the placing of teams, the scratchpad image, and the end of a team.
-/
namespace Sys2Proof.Machine

/-! ## Stage words (R321) -/

def stageGroups (w : Nat) : Nat := fld w 24 4
def stageRegs (w : Nat) : Nat := 4 * (fld w 28 4 + 1)
def stageWidth (w : Nat) : Nat := 8 * 2 ^ fld w 22 2
def stageRole (w : Nat) : Nat := fld w 20 2
def stageEntry (w : Nat) : Nat := fld w 0 20

/-- The stages that are present, by number. -/
def stagesOf (r : LaunchBytes) : List Nat := (upFrom 0 4).filter fun i => stageGroups (recStage r i) != 0

/-- The stage of each group of a team, in order. -/
def groupStages (r : LaunchBytes) : List Nat :=
  ((upFrom 0 4).map fun i => List.replicate (stageGroups (recStage r i)) i).flatten

/-- Stage words in order: stage 0 present, none after an absent one, absent ones zero, role and entry legal. -/
def stagesOk (r : LaunchBytes) : Bool :=
  stageGroups (recStage r 0) != 0 && (upFrom 0 4).all fun i =>
    let w := recStage r i
    if stageGroups w == 0 then w == 0
    else (i == 0 || stageGroups (recStage r (i - 1)) != 0) && stageRole w != 3 && stageEntry w < 16 * recCodeLen r

/-- The sum over a record's groups. -/
def overGroups (r : LaunchBytes) (f : Nat → Nat) : Nat := ((groupStages r).map fun i => f (recStage r i)).foldr (· + ·) 0

/-- The limits of R167. -/
def residencyOk (r : LaunchBytes) : Bool :=
  (groupStages r).length ≤ 32 && overGroups r stageWidth ≤ 1024
    && overGroups r (fun w => stageWidth w * stageRegs w * 4) ≤ 2 ^ 18

/-! ## The handle plan (R178) -/

def planBase (e : Word) : Nat := bvFld e 20 12
def planSize (e : Word) : Nat := bvFld e 7 13

/-- The plan entries against the allocation and against each other. -/
def planEntriesOk (spad : Nat) : List Word → Bool
  | [] => true
  | e :: es =>
    planSize e != 0 && bvFld e 0 7 == 0 && planBase e + planSize e ≤ spad
      && (es.all fun f => planBase f + planSize f ≤ planBase e || planBase e + planSize e ≤ planBase f)
      && planEntriesOk spad es

/-- The plan word and the entries (R178). -/
def planOk (r : LaunchBytes) (es : List Word) : Bool :=
  recHcount r ≤ 256 && recFld r 0x30 13 10 == 0 && recFld r 0x30 0 13 ≤ 4096 && planEntriesOk (recSpad r) es

/-! ## The dependence map (R327) -/

def mapKind (r : LaunchBytes) : Nat := fld (recMap r) 0 4
def mapK (r : LaunchBytes) : Nat := fld (recMap r) 8 8

/-- The MAP word's own fields. -/
def mapWordOk (r : LaunchBytes) : Bool :=
  fld (recMap r) 16 16 == 0 && fld (recMap r) 4 4 == 0 && mapKind r ≤ 4
    && !((mapKind r == 2 || mapKind r == 3) && mapK r == 0)

/-- A map-table entry against the number of producer teams, where it is known. -/
def mapEntryOk (teams : Option Nat) (e : Word64) : Bool :=
  bvFld e 48 16 == 0 && match teams with
    | none => true
    | some t => bvFld e 32 16 == 0 || bvFld e 0 32 + bvFld e 32 16 ≤ t

/-- The producer teams of consumer team `n` in the grid of the predecessor's record `q`. -/
def producers (r : LaunchBytes) (table : List Word64) (q : LaunchBytes) (n : Nat) : List Nat :=
  let x := teamX r n
  let y := teamY r n
  let z := teamZ r n
  let k := mapK r
  let grid := fun (xs ys : List Nat) =>
    if recZ q ≤ z then []
    else (ys.map fun b => xs.map fun a => a + recX q * (b + recY q * z)).flatten
  match mapKind r with
  | 0 => upFrom 0 (recTeams q)
  | 1 => grid ((upFrom x 1).filter (· < recX q)) ((upFrom y 1).filter (· < recY q))
  | 2 => grid (upFrom 0 (recX q)) ((upFrom (k * y) k).filter (· < recY q))
  | 3 => grid ((upFrom (k * x) k).filter (· < recX q)) (upFrom 0 (recY q))
  | _ =>
    let e := nth 0 table n
    (upFrom (bvFld e 0 32) (bvFld e 32 16)).filter (· < recTeams q)

/-- Whether a launch is over: every team of it ended, or its grid failed and none of its teams is on a core. (DEDUCED, log 49.) -/
def State.launchOver (s : State) (part : Nat) (q : Launch) : Bool :=
  match q.life with
  | .active => false
  | .rejected => true
  | .done => true
  | .failed => !(s.cores.any fun c => (c.team.map fun t => t.part == part && t.seq == recSeq q.record).getD false)
  | .aborted => true

/-- Whether a team is eligible (R325, R327). -/
def Launch.eligible (l : Launch) (p : Part) (n : Nat) : Bool :=
  if recPred l.record == 0 then true
  else
    match p.launch (recPred l.record) with
    | none => false
    | some q =>
      q.life != .rejected
        && ((q.life == .done && !q.killed && q.lost.isEmpty)
          || (producers l.record l.map q.record n).all q.trig.contains)

/-- Whether a team can never become eligible (R327). (DEDUCED, log 49.) -/
def State.neverEligible (s : State) (p : Part) (l : Launch) (n : Nat) : Bool :=
  if recPred l.record == 0 then false
  else
    match p.launch (recPred l.record) with
    | none => false
    | some q => q.life == .rejected || (s.launchOver p.id q && !l.eligible p n)

/-- The teams of a launch that are still to be placed. -/
def Launch.waiting (l : Launch) : List Nat :=
  (upFrom (recStart l.record) (recTeams l.record - recStart l.record)).filter fun n => !l.placed.contains n

/-- One BLOCKED record for each launch that is first found to have a blocked team (R327). -/
def State.postBlocked (s : State) (part : Nat) : State :=
  match s.part part with
  | none => s
  | some p =>
    p.launches.foldl (fun (s : State) l =>
      if l.life == .active && !l.blocked && l.waiting.any (s.neverEligible p l) then
        let seq := recSeq l.record
        (s.modPart part fun q => q.modLaunch seq fun l => { l with blocked := true }).post part
          { Record.ofKind 0x29 with seq := seq, extra := BitVec.ofNat 64 (recPred l.record) }
      else s) s

/-! ## The commit (R318) -/

/-- Whether a partition's window takes commits (R338, R364): a sealed one only in RUN; one whose TDI is locked or in error
does not. (DEDUCED, log 45.) -/
def Part.windowOpen (p : Part) : Bool :=
  !p.halted && (p.tdisp == .run || (p.tdisp == .unlocked && !p.isSealed))

/-- A LAUNCH REJECTED record (R323). -/
def rejectedRecord (seq reason : Nat) : Record :=
  { Record.ofKind 0x20 with seq := seq, detail := BitVec.ofNat 32 reason }

/-- Whether a slot of the window holds a committed record that the dispatcher has not yet copied: writes to it are ignored. -/
def Part.slotHeld (p : Part) (slot : Nat) : Bool := p.window.any fun r => recSeq r % 32 == slot

/-- A partition's window slot as it is written. -/
def Part.slotBytes (p : Part) (slot : Nat) : LaunchBytes := nth 0 p.lwin slot

/-- A window slot written, unless it is held (R317, R318). -/
def Part.writeSlot (p : Part) (slot : Nat) (r : LaunchBytes) : Part :=
  if p.slotHeld slot then p else { p with lwin := modifyNth (fun _ => r) slot p.lwin }

/-- The commit write of a record in a slot of a partition's window: whether it is accepted, and the machine after it; a refused
one leaves the slot unchanged. (DEDUCED, log 46.) -/
def State.commit (s : State) (part slot : Nat) (r : LaunchBytes) : Bool × State :=
  match s.part part with
  | none => (false, s)
  | some p =>
    let seq := recSeq r
    if p.windowOpen && slot == seq % 32 && seq == p.last.toNat + 1 && seq ≤ p.consumed.toNat + 32 then
      (true, (s.modPart part fun q => { q with
        last := BitVec.ofNat 64 seq, window := q.window ++ [r], lwin := modifyNth (fun _ => r) slot q.lwin }).moved)
    else (false, s.post part (rejectedRecord seq 1))

/-- A record's slot with bytes 0x08 to 0x7F of a record written into it, bytes 0x00 to 0x07 as they were. -/
def belowSeq (old r : LaunchBytes) : LaunchBytes := BitVec.ofNat 1024 (r.toNat / 2 ^ 64 * 2 ^ 64 + old.toNat % 2 ^ 64)

/-- Bytes 0x08 to 0x7F of a record written into a slot, then its SEQ (R318). -/
def State.commitWrite (s : State) (part slot : Nat) (r : LaunchBytes) : Bool × State :=
  (s.modPart part fun p => p.writeSlot slot (belowSeq (p.slotBytes slot) r)).commit part slot r

/-- LAUNCH_COMMIT (R318). -/
def execLaunchCommit (part : Fin 96) (slot : Fin 32) (record : LaunchBytes) (s : State) : Res :=
  .next (s.tlp part.val (128 * slot.val) fun s => (s.commitWrite part.val slot.val record).2)

/-! ## The copy and validation of a record (R322, R323) -/

/-- The first reason that holds. -/
def firstReason : List (Bool × Nat) → Option Nat
  | [] => none
  | (b, n) :: xs => if b then some n else firstReason xs

/-- What the dispatcher reads with a record: the view table, the plan entries, the map table; none where it cannot. -/
structure Tables where
  views : Option (List Byte)
  plan  : Option (List Byte)
  map   : Option (List Byte)
  deriving DecidableEq, Repr

/-- Where the map table of a launch begins (R322). -/
def mapTableVa (r : LaunchBytes) : Nat := recVtab r + 0x2000 + 2 * (ceilDiv (recTeams r) 512 * 64)

/-- Whether a launch has a map table. -/
def hasTable (r : LaunchBytes) : Bool := recPred r != 0 && mapKind r == 4

/-- The tables of a record. -/
def State.tables (s : State) (p : Part) (r : LaunchBytes) : Tables :=
  { views := s.devRead p (recVtab r) 4096
    plan := if recHcount r ≤ 256 then s.devRead p (recVtab r + 0x1000) (4 * recHcount r) else some []
    map := if hasTable r then s.devRead p (mapTableVa r) (8 * recTeams r) else some [] }

/-- Bytes as little-endian numbers of `n` bytes. -/
def numbers (n : Nat) (bs : List Byte) : List Nat := (upFrom 0 (bs.length / n)).map fun k => ofBytes ((bs.drop (n * k)).take n)

/-- The plan entries and the map entries that were read. -/
def Tables.planWords (t : Tables) : List Word := (numbers 4 (t.plan.getD [])).map (BitVec.ofNat 32)
def Tables.mapWords (t : Tables) : List Word64 := (numbers 8 (t.map.getD [])).map (BitVec.ofNat 64)

/-- Whether a sheaf is in a partition's pool of a class (R325). -/
def Part.inPool (p : Part) (c sheaf : Nat) : Bool := bit p.sheaves.toNat sheaf && (nth 0 p.pool sheaf).val == c

/-- The sheaves of a partition's pool of a class, in all and in a cluster. -/
def Part.poolSheaves (p : Part) (c : Nat) : List Nat := (upFrom 0 96).filter (p.inPool c)
def Part.clusterSheaves (p : Part) (c k : Nat) : Nat := ((p.poolSheaves c).filter fun q => q / 4 == k).length

/-- Whether the pool of a record's class can never hold what it must (R251, R328); a pool without sheaves waits (R325).
(DEDUCED, log 47.) -/
def placeFails (p : Part) (r : LaunchBytes) : Bool :=
  let c := recClass r
  let n := (p.poolSheaves c).length
  n != 0 && (!((upFrom 0 24).any fun k => recCrew r ≤ 16 * p.clusterSheaves c k)
    || (recPersist r && 16 * n < recTeams r - recStart r))

/-- The image fields of a record (R320, R323). -/
def imageFails (r : LaunchBytes) : Bool :=
  recSpad r < recSplen r || recSpimg r % 64 != 0 || ((recSpimg r == 0) != (recSplen r == 0))

/-- Whether the image's range translates (R324), by its 64-byte units. -/
def State.imageReadable (s : State) (p : Part) (r : LaunchBytes) : Bool :=
  (upFrom 0 (recSplen r)).all fun k => match walk s p false (recSpimg r + 64 * k) 1 with
    | .ok _ _ _ _ => true
    | .bad _ _ => false

/-- The reserved bits of a record and its alignments (R323, FLAGS). -/
def flagsFail (r : LaunchBytes) : Bool :=
  recFld r 0x08 7 1 != 0 || recFld r 0x08 10 6 != 0 || recFld r 0x08 26 6 != 0 || recFld r 0x34 16 16 != 0
    || recFld r 0x50 22 10 != 0 || recFld r 0x50 14 2 != 0 || recFld r 0x50 6 2 != 0 || recFld r 0x20 48 16 != 0
    || recVtab r % 4096 != 0 || recCode r % 64 != 0 || recFmask r / 32 != 0

/-- Validation: the first failing reason in the table's order; TABLES stands at the place where unread data is needed. -/
def State.invalid (s : State) (p : Part) (r : LaunchBytes) (t : Tables) : Option Nat :=
  let pred := (p.launch (recPred r)).bind fun q => if q.life == .rejected then none else some (recTeams q.record)
  firstReason [
    (recPart r != p.id, 0x02),
    (flagsFail r, 0x03),
    (recX r == 0 || recY r == 0 || recZ r == 0 || recTeams r % recCrew r != 0 || recTeams r ≤ recStart r, 0x04),
    (!stagesOk r, 0x05),
    (t.plan.isNone, 0x0B),
    (!residencyOk r, 0x06),
    (!planOk r t.planWords, 0x07),
    (!mapWordOk r || recSeq r ≤ recPred r, 0x08),
    (t.map.isNone, 0x0B),
    (!t.mapWords.all (mapEntryOk pred), 0x08),
    (placeFails p r, 0x09),
    (imageFails r, 0x0A),
    (t.views.isNone || !s.imageReadable p r, 0x0B)]

/-- The launch of a validated record: the teams below START count as ended and triggered. -/
def newLaunch (r : LaunchBytes) (t : Tables) : Launch :=
  let vs := t.views.getD []
  { record := r, life := .active
    views := Vector.ofFn fun (i : Fin 64) => View.ofBytes ((vs.drop (64 * i.val)).take 64)
    plan := t.planWords, map := t.mapWords
    trig := upFrom 0 (recStart r), ended := upFrom 0 (recStart r)
    placed := [], lost := [], killed := false, blocked := false }

/-- The ERROR REPORTs of tables that a die does not give (R330), as events of that die's error unit. -/
def State.tableErrors (s : State) (p : Part) (r : LaunchBytes) (t : Tables) : List (Source × (State → State)) :=
  [(t.views, recVtab r), (t.plan, recVtab r + 0x1000), (t.map, mapTableVa r)].filterMap fun x =>
    match x.1, walk s p false x.2 1 with
    | none, .ok a _ _ _ => (dieOfAddr a).map fun d => (.dieErrors d, fun s => s.reportCut p.id a true)
    | _, _ => none

/-- Whether all that the dispatcher reads with a record is served now, its image's translation included (R305, R344, R348). -/
def State.tablesServe (s : State) (p : Part) (r : LaunchBytes) : Bool :=
  s.devServes p (recVtab r) 4096
    && (256 < recHcount r || s.devServes p (recVtab r + 0x1000) (4 * recHcount r))
    && (!hasTable r || s.devServes p (mapTableVa r) (8 * recTeams r))
    && (upFrom 0 (recSplen r)).all fun k => walk s p false (recSpimg r + 64 * k) 1 != .bad waitCause 0

/-! ## The end of a launch (R317, R326) -/

/-- LAUNCH DONE once every team from START has ended. -/
def State.checkDone (s : State) (part seq : Nat) : State :=
  match (s.part part).bind fun p => p.launch seq with
  | none => s
  | some l =>
    if l.life == .active && recTeams l.record ≤ l.ended.length then
      (s.modPart part fun p => p.modLaunch seq fun l => { l with life := .done }).post part
        { Record.ofKind 0x28 with seq := seq, detail := BitVec.ofNat 32 (b2n (l.killed || !l.lost.isEmpty)) }
    else s

/-- The END bits of some teams set (R317, R326). (DEDUCED, log 54.) -/
def State.endAll (s : State) (part seq : Nat) (ns : List Nat) : State :=
  ns.foldl (fun (s : State) n => s.setEnd part seq n) s

/-- The tasks that the lanes of a saved team hold are over (R260). -/
def State.releaseSaved (s : State) (t : Team) : State :=
  (t.groups.flatMap fun g => g.lanes).foldl (fun (s : State) (l : Lane) => if l.task.hold then s.taskOver l.task.home else s) s

/-- KILL of a launch (R317, R333): its teams on cores are killed; those to be placed and those saved end unplaced.
(DEDUCED, log 54.) -/
def State.killLaunch (s : State) (part seq : Nat) : State :=
  match (s.part part).bind fun p => p.launch seq with
  | none => s
  | some l =>
    match l.life with
    | .rejected => s
    | .done => s
    | _ =>
      let on := (s.cores.filter fun c => (c.team.map fun t => t.part == part && t.seq == seq).getD false).map (·.id)
      let s0 := on.foldl (fun (s : State) c => s.killTeam c) s
      let gone := (((s.part part).map (·.saved)).getD []).filter fun x => x.team.seq == seq && x.team.phase != .finished
      let left := (if l.life == .active then l.waiting else []) ++ gone.map (·.team.number)
      let s1 := gone.foldl (fun (s : State) x => s.releaseSaved x.team) s0
      let s2 := s1.modPart part fun p =>
        { p.modLaunch seq fun l => { l with killed := true, placed := l.waiting ++ l.placed } with
          saved := p.saved.filter fun x => x.team.seq != seq }
      ((((s2.endAll part seq left).checkDone part seq).postBlocked part).fillSlots part
        (gone.flatMap fun x => x.team.haltSlots).length).moved

/-- KILL (R317): a launch that is not copied yet is killed when it is. -/
def execKill (part : Fin 96) (seq : Word64) (s : State) : Res :=
  .next (s.tlp part.val 0x1028 fun s =>
    match s.part part.val with
    | none => s
    | some p =>
      if p.last.toNat < seq.toNat then s
      else if (p.launch seq.toNat).isSome then s.killLaunch part.val seq.toNat
      else s.modPart part.val fun p => { p with kills := p.kills ++ [seq.toNat] })

/-- The verdict on a record that a launch packet brought, returned to its sender (R374): 0 where it is accepted. -/
def State.returnVerdict (s : State) (part seq : Nat) (bad : Option Nat) : State :=
  match s.part part with
  | none => s
  | some p =>
    match p.verdicts.find? fun x => x.1.toNat == seq with
    | none => s
    | some (_, f) =>
      (s.modPart part fun p => { p with verdicts := p.verdicts.filter fun x => x.1.toNat != seq }).answer
        ⟨part, f.spkg, 0x11, false, f.tag, bytesOf 1 (bad.getD 0)⟩

/-- The bits of the teams below START set in both bitmaps, which are copies of the on-chip state (R320, R322). (DEDUCED, log 90.) -/
def State.writeBelow (s : State) (part seq start : Nat) : State :=
  (upFrom 0 (ceilDiv start 8)).foldl (fun (s : State) k =>
    (s.writeBitmap part seq (8 * k) false).writeBitmap part seq (8 * k) true) s

/-- What the dispatcher does with a record that it has copied, its verdict given (R317, R322, R323, R374). -/
def State.recordCopied (s : State) (p : Part) (rs : List LaunchBytes) (l : Launch) (bad : Option Nat) : State :=
  let seq := recSeq l.record
  let s1 := s.modPart p.id fun q =>
    { q with
      window := rs, consumed := BitVec.ofNat 64 seq
      launches := q.launches ++ [if bad.isSome then { l with life := .rejected } else l]
      kills := q.kills.filter (· != seq) }
  let s2 := match bad with
    | some n => s1.post p.id (rejectedRecord seq n)
    | none =>
      let s3 := s1.writeBelow p.id seq (recStart l.record)
      if p.kills.contains seq then s3.killLaunch p.id seq else s3
  (s2.returnVerdict p.id seq bad).postBlocked p.id

/-- RECORD_COPY (R323): the earliest committed record is copied and validated, once its tables' memory serves (R344, R348); a launch
with a KILL before its copy is killed; the verdict on a launch packet goes back (R374). -/
def execRecordCopy (part : Fin 96) (s : State) : Res :=
  match s.part part.val with
  | none => .next s
  | some p =>
    match p.window with
    | [] => .next s
    | r :: rs =>
      if p.halted || !s.tablesServe p r then .next s
      else
        let t := s.tables p r
        let bad := s.invalid p r t
        .next (s.together ((Source.dispatcher, fun s => s.recordCopied p rs (newLaunch r t) bad) :: s.tableErrors p r t)).moved

/-! ## A team at its start (R88, R167, R169) -/

/-- The aligned set of `k` segments that holds the fewest threads, by its first segment; ties to the lowest. -/
def fewest (occ : List Nat) (k : Nat) : Nat :=
  let load := fun a => ((occ.drop a).take k).foldr (· + ·) 0
  ((upFrom 0 (8 / k)).map (· * k)).foldl (fun b a => if load a < load b then a else b) 0

/-- The role of a code (R177). -/
def roleOf (n : Nat) : Role :=
  match n with
  | 0 => .copy
  | 1 => .matrix
  | _ => .vector

/-- A thread at its start. -/
def newLane (r : LaunchBytes) (entry : Nat) : Lane :=
  { Lane.blank with pc := BitVec.ofNat 32 entry, fuel := BitVec.ofNat 24 (recFuel r) }

/-- A group at its start. -/
def newGroup (r : LaunchBytes) (stage index segment : Nat) : Group :=
  let w := recStage r stage
  { stage := stage, index := index, role := roleOf (stageRole w), width := stageWidth w, nregs := stageRegs w
    segment := segment
    s := Vector.ofFn fun (i : Fin 32) => if i.val < 8 then BitVec.ofNat 32 (recArg r i.val) else 0
    place := ⟨false, BitVec.ofNat 32 (stageEntry w)⟩
    heldFor := [], age := none, run := 0, wait := .none, rvz := none, bargTo := none
    cmask := BitVec.ofNat 64 (recCmask r), log := [], halts := [], triggered := false, trigNo := none, ended := false
    lanes := List.replicate (stageWidth w) (newLane r (stageEntry w)) }

/-- The groups of a team, each bound to its segments in order (R169). -/
def newGroups (r : LaunchBytes) : List Group :=
  ((groupStages r).foldl (fun (acc : List Group × List Nat) stage =>
    let k := stageWidth (recStage r stage) / 8
    let a := fewest acc.2 k
    (acc.1 ++ [newGroup r stage acc.1.length a], mapFrom (fun n x => if a ≤ n && n < a + k then x + 8 else x) 0 acc.2))
    ([], List.replicate 8 0)).1

/-- A planned handle at the start (R167, R178). -/
def newHandle (e : Word) : Handle :=
  { state := .free, phase := false, isSealed := false, faulted := false, pending := 0, expect := 0, arrived := 0
    base := planBase e, size := planSize e, satcnt := 0, desc := none, broken := false }

/-- Where a team that has its image goes on: the record of its QUEUE view is loaded first (R140). -/
def queuePhase (r : LaunchBytes) (views : Vector View 64) : TeamPhase :=
  let v := views[recQueue r]?.getD View.zero
  if v.valid && v.ty == tyQUEUE then .queue else .runs

/-- A team as it is placed (R167), its views not yet checked. -/
def newTeam (r : LaunchBytes) (views : Vector View 64) (plan : List Word) (part n : Nat) : Team :=
  { part := part, seq := recSeq r, number := n, crewId := n / recCrew r, groups := newGroups r, views := views
    handles := plan.map newHandle, z := List.replicate 8 (List.replicate 256 0), alatch := none
    mq := [], inq := [], outq := [], follows := [], watchdog := recWdog r, bart := none, barcIn := none
    regions := [], nextReg := 0, phase := if recSplen r == 0 then queuePhase r views else .image 0, stopped := false }

/-- A core takes a team: its scratchpad is zeroed unless the core has stayed the partition's since its last team (R168); nothing
that its code unit or the tags hold belongs to the new threads. -/
def State.putTeam (s : State) (core : Nat) (t : Team) : State :=
  let k := s.core core
  let s1 := if k.user == some t.part then s else s.zeroRange (scratchAt core 0) (2 ^ 18)
  let s2 := { s1 with
    tags := s1.tags.map fun (x : Tag) => if x.core == core then { x with lane := 2 ^ 16 } else x
    writes := s1.writes.map fun (w : TeamWrite) => { w with addrs := w.addrs.filter fun a => a / 2 ^ 18 != core } }
  s2.setCore { k with team := some t, fetch := [], user := some t.part }

/-- A team of a launch placed on a core, its views checked (R102). -/
def State.placeNew (s : State) (part : Nat) (l : Launch) (n core : Nat) : State :=
  let r := l.record
  let t := newTeam r l.views l.plan part n
  let vs := l.views.map fun v => v.checked (s.viewCtx core t)
  let t1 := { t with views := vs, phase := if recSplen r == 0 then queuePhase r vs else .image 0 }
  (s.putTeam core t1).modPart part fun p => p.modLaunch t.seq fun l => { l with placed := n :: l.placed }

/-- The cells of a crew of size 2 or more, new (R254): EXPECT counts the members that run. (DEDUCED, log 48.) -/
def State.newCells (s : State) (cl part seq crew expect : Nat) : State :=
  let c := s.cluster cl
  s.setCluster { c with crews := c.crews ++ [⟨part, seq, crew, List.replicate 8 ⟨false, expect, 0, 0, false⟩⟩] }

/-! ## The queue record of a placed team (R140) -/

/-- Every group of a team that has not ended halts with one record, whose STAGE, GROUP, PC and LANES are zero, since it names no
group (DEDUCED, log 82). -/
def State.haltTeam (s : State) (core kind detail : Nat) : State :=
  match s.team core with
  | none => s
  | some t =>
    let r : Record := { Record.ofKind kind with
      stamp := s.nextStamp, core := core, part := t.part, seq := t.seq, teamNo := teamWord (s.recordOf t) t.number
      detail := BitVec.ofNat 32 detail }
    (t.open_.foldl (fun (s : State) gi => s.modGroup core gi fun g =>
      { g with halts := g.halts ++ [⟨r, 0, 0, false, false, none, lowestFree (s.slotsUsed t.part) 512⟩] })
      (s.stamped.postStamped t.part r)).moved

/-- The load of the record for a team that waits for it; nothing while the queue unit is full. A fault's DETAIL holds the QUEUE
view's number (DEDUCED, log 82). -/
def State.loadQueue (s : State) (core : Nat) : State :=
  match s.team core with
  | none => s
  | some t =>
    if t.phase != .queue then s
    else
      let vw := recQueue (s.recordOf t)
      let run := fun (s : State) => (s.modTeam core fun t => { t with phase := .runs }).moved
      match s.nameQueue core t.part vw (t.views[vw]?.getD View.zero) with
      | .ok _ s1 => run s1
      | .wait s1 => s1
      | .bad _ => (run s).haltTeam core 0x10 vw

/-! ## Placement (R251, R325, R328) -/

/-- Whether a core can take a team: it is ready (R10), answers, and is neither held nor frozen. (DEDUCED, log 47.) -/
def State.coreFree (s : State) (core : Nat) : Bool :=
  let k := s.core core
  k.team.isNone && !k.frozen && !s.cutDies.contains (dieOfCore core) && bit s.ready0.toNat (5 + clusterOfCore core)

/-- The free cores of a partition's pool. -/
def State.freeCores (s : State) (p : Part) (c : Nat) : List Nat :=
  (upFrom 0 1536).filter fun k => p.inPool c (sheafOfCore k) && s.coreFree k

/-- Units of teams that go together, each to the lowest free cores, a crew to the lowest cluster that holds it. -/
def assignCores (crew : Bool) : List Nat → List (List Nat) → Option (List (Nat × Nat))
  | _, [] => some []
  | free, u :: us =>
    let here := fun k => free.filter fun c => clusterOfCore c == k
    let cs := if !crew then free
      else ((upFrom 0 24).find? fun k => u.length ≤ (here k).length).elim [] here
    if cs.length < u.length then none
    else
      let used := cs.take u.length
      (assignCores crew (free.filter fun c => !used.contains c) us).map fun r => u.zip used ++ r

/-- What the dispatcher would place next of one launch: saved teams of it, or new ones that go together. -/
inductive Choice where
  | saved (ts : List SavedTeam)
  | fresh (units : List (List Nat))
  deriving DecidableEq, Repr

/-- The members of a crew from START on. (DEDUCED, log 48.) -/
def crewTeams (r : LaunchBytes) (m : Nat) : List Nat :=
  (upFrom (m * recCrew r) (recCrew r)).filter fun n => recStart r ≤ n

/-- Saved teams by their linear numbers (R325). -/
def insertSaved (x : SavedTeam) : List SavedTeam → List SavedTeam
  | [] => [x]
  | y :: ys => if x.team.number < y.team.number then x :: y :: ys else y :: insertSaved x ys
def byNumber (xs : List SavedTeam) : List SavedTeam := xs.foldr insertSaved []

/-- The next choice of a launch (R325, R328, R333). (DEDUCED, log 78.) -/
def Launch.choice (l : Launch) (p : Part) : Option Choice :=
  let r := l.record
  let saved := byNumber (p.saved.filter fun x => x.eligible && x.team.seq == recSeq r)
  match saved with
  | x :: _ => some (.saved (if recCrew r == 1 then [x] else saved.filter fun y => y.team.crewId == x.team.crewId))
  | [] =>
    if l.life != .active then none
    else
      let ready := fun n => (crewTeams r (n / recCrew r)).all (l.eligible p)
      match l.waiting.find? ready with
      | none => none
      | some n =>
        if recPersist r then
          (if l.waiting.all (l.eligible p) then
            some (.fresh (((upFrom 0 (recTeams r / recCrew r)).map (crewTeams r)).filter fun u => !u.isEmpty))
          else some (.fresh []))
        else some (.fresh [crewTeams r (n / recCrew r)])

/-- Whether launch l with its choice goes before the best so far: by PRIO, saved ones first, then by SEQ. -/
def before (l : Launch) (c : Choice) (b : Launch × Choice) : Bool :=
  let rank := fun (l : Launch) (c : Choice) =>
    (recPrio l.record * 2 + (match c with
      | .saved _ => 0
      | .fresh _ => 1)) * 2 ^ 64 + recSeq l.record
  rank l c < rank b.1 b.2

/-- The choice of a pool. -/
def Part.poolChoice (p : Part) (c : Nat) : Option (Launch × Choice) :=
  p.launches.foldl (fun (best : Option (Launch × Choice)) l =>
    if recClass l.record != c then best
    else
      match l.choice p, best with
      | none, _ => best
      | some x, none => some (l, x)
      | some x, some b => if before l x b then some (l, x) else best) none

/-! ## Restoring (R191, R298, R311) -/

/-- A copy that follows its team to another core (R191); its chain names teams and not cores (R243). -/
def Copy.moveTo (f : Nat → Nat) (c : Copy) : Copy := { c with core := f c.core }
def CopyEntry.moveTo (f : Nat → Nat) : CopyEntry → CopyEntry
  | .copy c => .copy (c.moveTo f)
  | .fence n => .fence n

/-- The suspended bulk entries of a team put back in front of their queues, in their order (R311). -/
def State.requeueBulk (s : State) (die : Nat) (f : Nat → Nat) (xs : List (Nat × Nat × Copy)) : State :=
  xs.foldr (fun x (s : State) =>
    let e := s.engine die x.1
    s.setEngine { e with queues := modifyNth (fun q => .copy (x.2.2.moveTo f) :: q) x.2.1 e.queues }) s

/-- A saved team put on a core: its scratchpad allocation, its mapped regions with every slot INVALID, its queues. -/
def State.placeSaved (s : State) (f : Nat → Nat) (x : SavedTeam) : State :=
  let core := f x.core
  let t := { x.team with
    stopped := false, barcIn := none
    inq := x.team.inq.map (CopyEntry.moveTo f), outq := x.team.outq.map (CopyEntry.moveTo f)
    regions := x.team.regions.map fun (r : Region) => { r with slots := r.slots.map fun _ => ⟨.invalid, 0, none, none⟩ } }
  let s1 := s.putTeam core t
  let n := 64 * recSpad (s.recordOf t)
  let s2 := s1.zeroRange (scratchAt core 0) n
  let bytes := x.scratch.foldl (fun (m : Memory) (c : Nat × Byte) => m.putAll (scratchAt core c.1) [c.2]) s2.mem
  let s3 := { s2 with mem := bytes, poison := x.poison.map (fun w => scratchAt core 0 / 8 + w) ++ s2.poison }
  let s4 := s3.requeueBulk (dieOfCore core) f x.bulk
  s4.modPart t.part fun p => { p with saved := p.saved.filter fun y => !(y.team.seq == t.seq && y.team.number == t.number) }

/-- The cores on which saved teams could go: those of one die where a team has a region in a vault (R298). -/
def savedCores (free : List Nat) (ts : List SavedTeam) : List Nat :=
  ts.foldl (fun (cs : List Nat) x =>
    if x.team.regions.any (·.inVault) then cs.filter fun c => dieOfCore c == x.die else cs) free

/-- Whether the clusters named, once for each crew, have eight free cells for each (R254). -/
def State.cellsFree (s : State) (ks : List Nat) : Bool :=
  ks.all fun k => (s.cluster k).crews.length + (ks.filter (· == k)).length ≤ 32

/-- The choice of a pool placed; none where it cannot be. The record of the QUEUE view is loaded for a saved team only where it
waited for its load; another's is loaded again when a queue instruction names it (DEDUCED, log 91). -/
def State.placeChoice (s : State) (p : Part) (l : Launch) (ch : Choice) : Option State :=
  let r := l.record
  let crew := 1 < recCrew r
  let free := s.freeCores p (recClass r)
  match ch with
  | .saved ts =>
    match assignCores crew (savedCores free ts) [ts.map (·.team.number)] with
    | none => none
    | some ps =>
      let dst := fun n => ((ps.find? fun x => x.1 == n).map (·.2)).getD 0
      let f := fun c => ((ts.find? fun x => x.core == c).map fun x => dst x.team.number).getD c
      if crew && !s.cellsFree [clusterOfCore (dst ((ts.map (·.team.number)).headD 0))] then none
      else
      let s1 := ts.foldl (fun (s : State) x => s.placeSaved f x) s
      let s2 := match ts with
        | x :: _ =>
          match x.cells with
          | some bs =>
            let c := s1.cluster (clusterOfCore (f x.core))
            s1.setCluster { c with crews := c.crews ++ [⟨p.id, x.team.seq, x.team.crewId, bs⟩] }
          | none => s1
        | [] => s1
      some (ts.foldl (fun (s : State) x => s.replayTeam (f x.core)) s2)
  | .fresh us =>
    if us.isEmpty then none
    else
    match assignCores crew free us with
    | none => none
    | some ps =>
      let home := fun (u : List Nat) => clusterOfCore (((ps.find? fun x => x.1 == u.headD 0).map (·.2)).getD 0)
      if crew && !s.cellsFree (us.map home) then none
      else
      let s1 := ps.foldl (fun (s : State) x => s.placeNew p.id l x.1 x.2) s
      let s2 := if !crew then s1
        else us.foldl (fun (s : State) u =>
          s.newCells (home u) p.id (recSeq r) (u.headD 0 / recCrew r) u.length) s1
      some (ps.foldl (fun (s : State) x => s.loadQueue x.2) s2)

/-- The first pool whose choice can be placed now. -/
def State.placeFirst (s : State) (p : Part) : List Nat → Option State
  | [] => none
  | c :: cs =>
    match p.poolChoice c with
    | none => State.placeFirst s p cs
    | some (l, ch) =>
      match s.placeChoice p l ch with
      | some s1 => some s1
      | none => State.placeFirst s p cs

/-- The cores whose teams wait for the queue unit. -/
def State.queueWaits (s : State) (part : Nat) : List Nat :=
  (s.cores.filter fun c => (c.team.map fun t => t.part == part && t.phase == .queue && !t.stopped).getD false).map (·.id)

/-- TEAM_PLACE (R325): the queue records that placed teams wait for are loaded where there is room (R140), and the next
eligible team, crew or persistent launch is placed, or a saved one restored; nothing of a frozen partition (R338). -/
def execTeamPlace (part : Fin 96) (s : State) : Res :=
  if ((s.part part.val).map Part.halted).getD true then .next s
  else
    let s1 := (s.queueWaits part.val).foldl (fun (s : State) c => s.loadQueue c) s
    match (s1.part part.val).bind fun p => s1.placeFirst p [0, 1, 2, 3] with
    | some s2 => .next (s2.postBlocked part.val).moved
    | none => .next (s1.postBlocked part.val)

/-! ## The scratchpad image (R324) -/

/-- A granule's bytes by the 64 KiB pages that they lie in. -/
def imageRuns (va n : Nat) : List (Nat × Nat) :=
  let m := 2 ^ 16 - va % 2 ^ 16
  if n ≤ m then [(va, n)] else [(va, m), (va + m, n - m)]

/-- A run of an image with its flat address and translation, or its address with a fault's cause and stage. -/
def imageAt (s : State) (p : Part) (x : Nat × Nat) : Except (Nat × Nat × Nat) (Nat × Nat × Nat × Walk) :=
  match translate s p false x.1 1 with
  | .bad c g => .error (x.1, c, g)
  | .ok a r1 r2 sl => .ok (x.1, x.2, a, .ok a r1 r2 sl)

/-- A run of an image landed in the scratchpad, poisoned bytes as poisoned ones (R314, R324). -/
def State.landImage (s : State) (part core off : Nat) (x : Nat × Nat × Nat × Walk) : State :=
  let dst := scratchAt core off
  let s1 := (s.cache part x.1 x.2.2.2).unitStore dst (s.read x.2.2.1 x.2.1)
  let s2 := if s.cut x.2.2.1 then s1.markPoison dst x.2.1 else s1
  ((s2.carryPoison x.2.2.1 dst x.2.1 []).reportCut part x.2.2.1 true).noteBy core (upFrom dst x.2.1)

/-- SCRATCHPAD_IMAGE_COPY: the next 256-byte granule of a placed team's image; the record of a fault names engine 0 of the
die (DESIGN CHOICE, log 15). -/
def execScratchpadImageCopy (core : Nat) (s : State) : Res :=
  match s.team core with
  | none => .next s
  | some t =>
    match t.phase with
    | .image k =>
      match s.part t.part with
      | none => .next s
      | some p =>
        let r := s.recordOf t
        let total := 64 * recSplen r
        let n := min 256 (total - 256 * k)
        let va := recSpimg r + 256 * k
        if p.halted || s.awaits t.part (.image core) then .next s
        else
          match tryAll (imageAt s p) (imageRuns va n) with
          | .error (va, c, g) =>
            if c == waitCause then .next s
            else if c == wallCause then .next (s.freezeEngine (dieOfCore core) 0 t.part g)
            else
              let rec_ := { translateRecord s core t none 0 0 c g false 0 va false with
                core := 0, detail := BitVec.ofNat 32 (c + 512 * g + 2 ^ 10) }
              .next (s.postTranslate t.part rec_ (.image core)).moved
          | .ok xs =>
            if !(xs.all fun x => s.mayBeginAll x.2.2.1 x.2.1) || (s.engine (dieOfCore core) 0).frozen then .next s
            else
              let s2 := xs.foldl (fun (s : State) x => s.landImage t.part core (256 * k + (x.1 - va)) x) s
              let done := total ≤ 256 * k + n
              let s3 := (s2.modTeam core fun t =>
                { t with phase := if done then queuePhase r t.views else .image (k + 1) }).moved
              .next (if done && !t.stopped then s3.loadQueue core else s3)
    | _ => .next s

/-! ## Writes that a loss makes indeterminate (R330) -/

/-- The addresses whose last noted write is one that is gone, `newer` being the writes after those of the list. -/
def spoiled (gone : TeamWrite → Bool) : List TeamWrite → List TeamWrite → List Nat
  | _, [] => []
  | newer, w :: ws =>
    (if gone w then w.addrs.filter fun a => !newer.any (·.addrs.contains a) else []) ++ spoiled gone (w :: newer) ws

/-- The bytes of some addresses become free values. -/
def State.spoil (s : State) (as : List Nat) : State :=
  as.foldl (fun (s : State) a => { s.store a [Config.freeByte s.draws] with draws := s.draws + 1 }) s

/-- The visibility of R330 after a launch lost some teams: the lost teams' writes are indeterminate, and those that ended teams
made after their TRIGs; of an aborted launch every write but those that ended teams made before their TRIGs. -/
def State.unsettle (s : State) (part seq : Nat) (lost : List Nat) : State :=
  match (s.part part).bind fun p => p.launch seq with
  | none => s
  | some l =>
    let gone := fun (w : TeamWrite) => w.part == part && w.seq == seq
      && (lost.contains w.team || (if l.ended.contains w.team then w.after else l.life == .aborted))
    let s1 := s.spoil (spoiled gone [] s.writes)
    { s1 with writes := s1.writes.filter fun w => !gone w }

/-- The end of a team of a failed grid: what it wrote after its TRIG is indeterminate too (R330). -/
def State.unsettleEnd (s : State) (part seq : Nat) : State :=
  match (s.part part).bind fun p => p.launch seq with
  | none => s
  | some l => if l.life == .failed then s.unsettle part seq [] else s

/-! ## The end of a team (R252, R255, R326) -/

/-- Whether an engine's queues hold an entry of a core's team. -/
def State.bulkLeft (s : State) (core : Nat) (t : Team) : Bool :=
  s.engines.any fun e => e.queues.any fun q => q.any fun x => match x with
    | .copy c => c.core == core && c.part == t.part && c.seq == t.seq && c.team == t.number
    | .fence _ => false

/-- Whether everything that a team's groups began is performed or cancelled. -/
def State.quiet (s : State) (core : Nat) (t : Team) : Bool :=
  t.mq.isEmpty && t.inq.isEmpty && t.outq.isEmpty && t.follows.isEmpty && !s.bulkLeft core t
    && t.groups.all fun g => g.log.isEmpty && g.halts.isEmpty

/-- A member of a crew ends: EXPECT falls in its eight cells, and an episode that this satisfies completes (R255). -/
def State.crewDown (s : State) (core : Nat) (t : Team) : State :=
  let s1 := s.modCells core t fun _ b => { b with expect := b.expect - 1 }
  (upFrom 0 8).foldl (fun (s : State) k => s.completeCell core k t) s1

/-- The cores of an ended team, or of its crew once every member has ended, are released (R252). -/
def State.releaseCrew (s : State) (t : Team) : State :=
  let cs := s.crewCores t
  let ends := cs.all fun c => ((s.team c).map fun u => u.phase == .finished).getD false
  if !ends then s
  else
    let s1 := cs.foldl (fun (s : State) c => (s.dropRequests c).setCore { s.core c with team := none, fetch := [] }) s
    cs.foldl (fun (s : State) c =>
      let k := s.cluster (clusterOfCore c)
      s.setCluster { k with crews := k.crews.filter fun x => !(x.part == t.part && x.seq == t.seq && x.crew == t.crewId) }) s1

/-- TEAM_END (R326): once its entries are performed or cancelled and, for an end by exit, its trigger is made (R329) and its
dirty slots are written back, the team's END bit is set and its core released. -/
def execTeamEnd (core : Nat) (s : State) : Res :=
  match s.team core with
  | none => .next s
  | some t =>
    match t.phase with
    | .ending killed =>
      if (!killed && !s.enginesRun core t) || !s.quiet core t then .next s
      else
        let trig := ((s.launchOf t).map fun l => l.trig.contains t.number).getD true
        let (s1, ok) := if killed then (s, true)
          else if trig then s.flushTeam core none 0 0
          else s.triggerTeam core none 0 0
        if !ok then .next s1
        else
          let s2 := (s1.modTeam core fun (x : Team) => { x with phase := .finished, regions := [] }).dropUser core
          let s3 := ((s2.setEnd t.part t.seq t.number).unsettleEnd t.part t.seq).modPart t.part fun p => p.modLaunch t.seq fun l =>
            { l with killed := l.killed || killed }
          let s4 := (s3.crewDown core t).releaseCrew t
          .next (((s4.checkDone t.part t.seq).postBlocked t.part).fillSlot t.part).moved
    | _ => .next s

end Sys2Proof.Machine
end

