-- ==== Sys2Proof/Machine/Preempt.lean ====
section
/-!
DEFINITION. Pre-emption, saving and restoring (spec/08 R190, R191; spec/16 R298, R311; spec/17 R331 to R333), and the
control-page registers without behaviour of their own (R317).
-/
namespace Sys2Proof.Machine

/-! ## Pre-emption -/

/-- A lane stops at the unit that it waits at, which issues again on restore (R190); a logged refill stays logged. A lane excused
from an RVZ is so no longer: the RVZ that issues again counts it. (DEDUCED, log 22.) -/
def Lane.withdrawn (l : Lane) : Lane :=
  match l.wait with
  | .refill => { l with excused := false }
  | .syncl _ _ => { l with excused := false, wait := .none, gen := l.gen - 1 }
  | _ => { l with excused := false, wait := .none }

/-- A group stops at the unit that it waits at (R131, R190). -/
def Group.withdrawn (g : Group) : Group :=
  { g with wait := .none, rvz := none, bargTo := none, lanes := g.lanes.map Lane.withdrawn }

/-- A copy is no longer suspended under a record: on restore its granule is tried again. -/
def Copy.wake (c : Copy) : Copy := { c with susp := none, got := [] }
def CopyEntry.wake : CopyEntry → CopyEntry
  | .copy c => .copy c.wake
  | .fence n => .fence n

/-- The handles of the copies that were suspended are as without the suspension (R183). -/
def Team.clearFaults (t : Team) (hs : List Nat) : Team :=
  { t with handles := mapFrom (fun n (h : Handle) => if hs.contains n then { h with faulted := h.broken } else h) 0 t.handles }

/-- The handles of suspended copies among some entries. -/
def suspended (q : List CopyEntry) : List Nat :=
  q.filterMap fun x => match x with
    | .copy c => if c.susp.isSome then some c.h else none
    | .fence _ => none

/-- Whether a bulk entry is a copy of a core's team. -/
def CopyEntry.ofTeam (core : Nat) (t : Team) : CopyEntry → Bool
  | .copy c => c.core == core && c.part == t.part && c.seq == t.seq && c.team == t.number
  | .fence _ => false

/-- A team as the request reaches its core: it issues nothing more but what the chains in progress still hold (R109, R190), and its
waits are withdrawn. -/
def Team.halted (t : Team) : Team := { t with stopped := true, bart := none, groups := t.groups.map Group.withdrawn }

/-- A core's team halted by a pre-emption request (R190): its QFENCE markers, its places in queue records and its crew's
arrivals are withdrawn. Its fills and its accesses in flight go on as long as its chains may need them. (DEDUCED, log 73.) -/
def State.stopTeam (s : State) (core : Nat) : State :=
  match s.team core with
  | none => s
  | some t =>
    let s1 := (t.fences.foldl (fun (s : State) id => s.dropMarkers core id) s).modTeam core Team.halted
    let k := s1.cluster (clusterOfCore core)
    let s2 := s1.setCluster { k with recs := k.recs.map fun (r : QRec) =>
      { r with waiters := r.waiters.filter fun w => w.core != core } }
    s2.modCells core t fun _ b => { b with arrived := 0 }

/-- A team as its context is saved: no copy of it is suspended under a record and no slot waits for a fill, since all is tried again
on restore, and no lane is in a chain or holds a latch (R190). -/
def Team.packed (t : Team) : Team :=
  ({ t with
    inq := t.inq.map CopyEntry.wake, outq := t.outq.map CopyEntry.wake
    regions := t.regions.map fun (r : Region) => { r with slots := r.slots.map fun (x : Slot) => { x with filling := none } }
    groups := t.groups.map fun (g : Group) => { g with lanes := g.lanes.map fun (l : Lane) => { l with latches := [], chain := 0 } }
    : Team }).clearFaults (suspended t.inq ++ suspended t.outq)

/-- What a stopped team still waits for is given up as it is saved: its accesses in flight stay in the operand log (R190), and no
answer is waited for but for write-backs and the image. (DEDUCED, log 73.) -/
def State.packTeam (s : State) (core : Nat) : State :=
  match s.team core with
  | none => s
  | some t =>
    let bulk := (s.engines.map fun (e : Engine) => (e.queues.map fun q => q.filter (CopyEntry.ofTeam core t)).flatten).flatten
    let s2 := s.modTeam core fun u => u.packed.clearFaults (suspended bulk)
    let s3 := s2.modPart t.part fun p => { p with xwaits := p.xwaits.filter fun w => match w.agent with
      | .log c _ _ => c != core
      | .fill c _ _ => c != core
      | .code c _ => c != core
      | .tile c _ => c != core
      | .bulk d e q => !(((nth [] (s.engine d e).queues q).head?.map (CopyEntry.ofTeam core t)).getD false)
      | .writeBack _ _ _ _ => true
      | .bitmap _ _ _ => true
      | .image _ => true }
    { s3 with engines := s3.engines.map fun (e : Engine) =>
      { e with queues := e.queues.map fun (q : List CopyEntry) => q.map fun (x : CopyEntry) => if x.ofTeam core t then x.wake else x } }.dropRequests core

/-- Whether the firewall has frozen the core of a team or of a crew-mate: such a team is neither halted nor saved, since a crew is
saved whole and a frozen core's team writes back nothing (R298, R331, R335). (DEDUCED, log 73.) -/
def State.crewFrozen (s : State) (core : Nat) : Bool :=
  (s.core core).frozen || match s.team core with
    | none => false
    | some t => (s.crewCores t).any fun c => (s.core c).frozen

/-- Whether a pre-emption request of a partition reaches a team: sequence number 0 names every launch. -/
def Team.target (t : Team) (part seq : Nat) : Bool :=
  t.part == part && (seq == 0 || t.seq == seq) && t.resident && !t.stopped

/-- PREEMPT (R331): ignored while PREEMPTING is set. -/
def execPreempt (part : Fin 96) (seq : Word64) (s : State) : Res :=
  .next (s.tlp part.val 0x1010 fun s =>
    match s.part part.val with
    | none => s
    | some p =>
      if p.preempting then s
      else
        let on := (s.cores.filter fun c => !s.crewFrozen c.id && (c.team.map fun t => t.target part.val seq.toNat).getD false).map (·.id)
        let s1 := on.foldl (fun (s : State) c => s.stopTeam c) s
        (s1.modPart part.val fun p => { p with preempting := true, saving := seq.toNat }).moved)

/-! ## The save -/

/-- The bytes of a memory range as a memory of its own. -/
def Memory.slice (m : Memory) (a n : Nat) : Memory :=
  (m.filter fun c => a ≤ c.1 && c.1 < a + n).map fun c => (c.1 - a, c.2)

/-- The cores whose teams a save concerns: those that the request stopped, and the ended members of their crews; none that the
firewall has frozen since. -/
def State.saveCores (s : State) (part : Nat) : List Nat :=
  let stopped := s.cores.filterMap fun c => c.team.bind fun t => if t.part == part && t.stopped then some t else none
  (s.cores.filter fun c => !s.crewFrozen c.id && (c.team.map fun t => t.part == part
    && (t.stopped || (t.phase == .finished && stopped.any fun u => u.seq == t.seq && u.crewId == t.crewId))).getD false).map (·.id)

/-- Whether a lane of a stopped team stays at the unit that it stands at (R92, R190): the unit waits for a handle, a barrier or a
queue, or is of a held class and the group's lanes are not there together to issue it. -/
def State.stands (s : State) (core : Nat) (t : Team) (g : Group) (l : Lane) : Bool :=
  l.wait == .retry s.progress || (l.place == g.place && g.wait == .retry s.progress) ||
    match s.unitOf core t l with
    | .unit u => ((u.main.map Instr.held).getD false) && l.inside.isNone
        && (l.place != g.place || !g.standing.all fun n => (g.lane n).free s.progress && (g.lane n).continues t u)
    | .miss _ => false
    | .bounds _ => false

/-- Whether the latch chains that were in progress at a pre-emption are over (R109, R190): no lane is in the middle of one, whatever its
next unit waits for, but at a unit that it stays at. A halt ends the chains of its group (R188). -/
def State.chainsOver (s : State) (core : Nat) (t : Team) : Bool :=
  (t.groups.map Group.refreshBroadcast).all fun g =>
    !g.halts.isEmpty || g.ended || g.lanes.all fun l => !s.inChain core t l || s.stands core t g l

/-- Whether a copy of a core's team has bytes on their way to a peer: its granule in flight completes before the copy is suspended
(R190, R311). -/
def State.copiesOut (s : State) (core : Nat) (t : Team) : Bool :=
  (t.inq ++ t.outq ++ ((s.engines.map fun (e : Engine) => e.queues.flatten).flatten.filter (CopyEntry.ofTeam core t))).any fun x =>
    match x with
    | .copy c => c.sent
    | .fence _ => false

/-- Whether a core's team can be saved: its image has landed, its chains are over, its crew's cells have nothing pending, its
crew-mates are all stopped or ended, and no peer has yet to acknowledge a write. (DEDUCED, log 73.) -/
def State.savable (s : State) (core : Nat) : Bool :=
  match s.team core with
  | none => true
  | some t =>
    (match t.phase with
      | .image _ => false
      | _ => true)
    && s.chainsOver core t
    && !s.unacked core && !s.copiesOut core t
    && ((s.crewOf core t).map fun x => x.cells.all fun b => b.pending == 0).getD true
    && (s.crewCores t).all fun c => ((s.team c).map fun u => u.stopped || u.phase == .finished).getD true

/-- 4096-byte parts of a context save area written (R331). The spec gives the area's sizes and not its layout, so each byte
is a free value (DESIGN CHOICE, log 7). -/
def State.saveArea (s : State) (part va : Nat) : Nat → State
  | 0 => s
  | n + 1 =>
    let s1 := match s.part part with
      | none => s
      | some p =>
        match walk s.served p false va 2 with
        | .ok a _ _ _ => (s.store a ((upFrom s.draws 4096).map Config.freeByte)).reportCut part a false
        | .bad _ _ => s
    State.saveArea { s1 with draws := s1.draws + 4096 } part (va + 4096) n

/-- The suspended bulk entries of a core's team, with their engine and queue, in order (R311). -/
def State.bulkOf (s : State) (core : Nat) (t : Team) : List (Nat × Nat × Copy) :=
  ((s.engines.filter fun e => e.die == dieOfCore core).map fun e =>
    (mapFrom (fun q (xs : List CopyEntry) => xs.filterMap fun x => match x with
      | .copy c => if (CopyEntry.copy c).ofTeam core t then some (e.id, q, c) else none
      | .fence _ => none) 0 e.queues).flatten).flatten

/-- One team saved and its core freed (R190, R298). (DESIGN CHOICE, log 21.) -/
def State.saveTeam (s : State) (core : Nat) : State :=
  match s.team core with
  | none => s
  | some t =>
    let r := s.recordOf t
    let base := scratchAt core 0
    let n := 64 * recSpad r
    let x : SavedTeam :=
      { team := t, core := core, scratch := s.mem.slice base n
        poison := (s.poison.filter fun w => base / 8 ≤ w && w < (base + n) / 8).map (· - base / 8)
        bulk := s.bulkOf core t
        cells := (s.crewOf core t).map fun k => k.cells.map fun b => { b with arrived := 0 }
        die := dieOfCore core, eligible := false }
    let s1 := { s with engines := s.engines.map fun (e : Engine) =>
      { e with queues := e.queues.map fun (q : List CopyEntry) => q.filter fun (y : CopyEntry) => !y.ofTeam core t } }
    let va := ((s.part t.part).map (·.ctxbase.toNat)).getD 0 + 0x88000 * (t.number - recStart r)
    let s2 := (s1.saveArea t.part va 136).dropUser core
    let s3 := s2.modPart t.part fun p => { p with saved := p.saved ++ [x] }
    s3.setCore { s3.core core with team := none, fetch := [] }

/-- The cells of the saved crews are given back. -/
def State.dropCrews (s : State) (ts : List Team) : State :=
  { s with clusters := s.clusters.map fun (k : Cluster) =>
    { k with crews := k.crews.filter fun x => !ts.any fun t => x.part == t.part && x.seq == t.seq && x.crew == t.crewId } }

/-- What the chains that were completed after the request have come to wait for is withdrawn too. -/
def State.stopAgain (s : State) (core : Nat) : State :=
  if ((s.team core).map (·.stopped)).getD false then (s.stopTeam core).packTeam core else s

/-- The teams that the request stopped and the save has left on their cores go on. -/
def State.goAgain (s : State) (part : Nat) : State :=
  { s with cores := s.cores.map fun (c : Core) =>
    { c with team := c.team.map fun (t : Team) => if t.part == part then { t with stopped := false } else t } }

/-- CONTEXT_SAVE_COMPLETE (R298, R331): dirty slots are written back and the contexts saved, outside guard and slot. -/
def execContextSaveComplete (part : Fin 96) (s : State) : Res :=
  match s.part part.val with
  | none => .next s
  | some p =>
    let on := s.saveCores part.val
    if !p.preempting || p.halted || s.phase != .running || !on.all s.savable then .next s
    else
      let (s1, ok) := on.foldl (fun (acc : State × Bool) c =>
        let (s2, o) := acc.1.flushTeam c none 0 0
        (s2, acc.2 && o)) (s, true)
      if !ok then .next s1
      else
        let ts := on.filterMap s1.team
        let n := (ts.filter fun t => t.phase != .finished).length
        let s2 := (on.foldl (fun (s : State) c => (s.stopAgain c).saveTeam c) s1).dropCrews ts
        let s3 := (s2.goAgain part.val).modPart part.val fun p => { p with preempting := false }
        .next (s3.post part.val
          { Record.ofKind 0x27 with seq := p.saving, detail := BitVec.ofNat 32 n }).moved

/-- RESTORE (R333): the saved teams of a launch are eligible again. -/
def execRestore (part : Fin 96) (seq : Word64) (s : State) : Res :=
  .next (s.tlp part.val 0x1020 fun s =>
    (s.modPart part.val fun p => { p with saved := p.saved.map fun (x : SavedTeam) =>
      if x.team.seq == seq.toNat then { x with eligible := true } else x }).moved)

/-! ## Control-page registers (R317) -/

/-- A write of eight bytes into a slot of the launch window (R317, R318): of its bytes 0x00 to 0x07 it is the commit write, other
bytes the slot holds until then. -/
def State.windowWrite (s : State) (part slot o : Nat) (value : Word64) : State :=
  match s.part part with
  | none => s
  | some p =>
    let r : LaunchBytes := BitVec.ofNat 1024 (setFld (p.slotBytes slot).toNat (8 * o) 64 value.toNat)
    if o % 8 != 0 then s
    else if o == 0 then (s.commit part slot r).2
    else s.modPart part fun p => p.writeSlot slot r

/-- The registers with no behaviour of their own (R317): CTXBASE, FQBASE and FQSIZE take the values their rules allow; any other
write changes nothing, as a reserved offset, a register that is only read, or an ignored action value. (DEDUCED, log 53.) -/
def Part.writeReg (p : Part) (offset : Nat) (value : Word64) : Part :=
  if offset == 0x1018 && value.toNat % 2 ^ 16 == 0 then { p with ctxbase := value }
  else if offset == 0x1048 && value.toNat % 64 == 0 then { p with fqbase := value }
  else if offset == 0x1050 && isPow2 value.toNat && 64 ≤ value.toNat && value.toNat ≤ 65536 then { p with fqsize := value }
  else p

/-- REGISTER_WRITE (R317). -/
def execRegisterWrite (part : Fin 96) (offset : Nat) (value : Word64) (s : State) : Res :=
  .next (s.tlp part.val offset fun s =>
    if offset < 0x1000 then s.windowWrite part.val (offset / 128) (offset % 128) value
    else s.modPart part.val fun p => p.writeReg offset value)

/-- Held records posted while the fault queue has room (R317), at most `n`. -/
def State.drain (s : State) (part : Nat) : Nat → State
  | 0 => s
  | n + 1 =>
    match s.part part with
    | none => s
    | some p =>
      match p.held with
      | [] => s
      | r :: rs =>
        if p.queueFull then s
        else State.drain ((s.enqueue part r).modPart part fun q => { q with held := rs }) part n

/-- FQCONS_WRITE (R317). -/
def execFqconsWrite (part : Fin 96) (value : Word64) (s : State) : Res :=
  .next (s.tlp part.val 0x1060 fun s => (s.modPart part.val fun p => { p with fqcons := value.setWidth 32 }).drain part.val 256)

end Sys2Proof.Machine
end

