-- ==== Sys2Proof/Machine/Answers.lean ====
section
/-!
DEFINITION. The driver's answers: to a TRANSLATE record, RETRY or FAIL (spec/16_die.md R300, R303, R304); to a halted group,
RESUME, SKIP or KILL (spec/08_core.md R188, R385).
-/
namespace Sys2Proof.Machine

/-! ## Translation actions -/

/-- The outstanding record that a stamp names: bit 0 of the register holds the action, so the oldest whose other bits agree
(R317). (DEDUCED, log 55.) -/
def Part.answered (p : Part) (stamp : Word64) : Option XWait :=
  p.xwaits.find? fun w => w.record.stamp.toNat / 2 == stamp.toNat / 2

/-- The partition with the answered record no longer outstanding. -/
def Part.unwait (p : Part) (w : XWait) : Part := { p with xwaits := p.xwaits.filter (· != w) }

/-- The faulting virtual address and the view of a TRANSLATE record (R304). -/
def XWait.va (w : XWait) : Nat := w.record.extra.toNat
def XWait.vw (w : XWait) : Nat := bvFld w.record.detail 24 6

/-- A suspended head copy of a queue goes on (R183). -/
def wakeHead (q : List CopyEntry) : List CopyEntry :=
  match q with
  | x :: xs => x.wake :: xs
  | [] => []

/-- The copy at the head of a queue. -/
def frontCopy (q : List CopyEntry) : Option Copy :=
  match q with
  | .copy c :: _ => some c
  | _ => none

/-- The handle of a copy that is no longer suspended: FAULTED stays only where a data error set it (R183). -/
def State.unsuspend (s : State) (c : Option Copy) : State :=
  match c with
  | some c => s.modHandle c.core c.h fun h => { h with faulted := h.broken }
  | none => s

/-- The handle of a copy whose fault was answered with FAIL: FAULTED stays (R183, R304). (DEDUCED, log 56.) -/
def State.breakHandle (s : State) (c : Option Copy) : State :=
  match c with
  | some c => s.modHandle c.core c.h fun h => { h with faulted := true, broken := true }
  | none => s

/-- One of the two tile-port queues of a core's team changed. -/
def State.modTileQueue (s : State) (core : Nat) (out : Bool) (f : List CopyEntry → List CopyEntry) : State :=
  s.modTeam core fun (t : Team) => if out then { t with outq := f t.outq } else { t with inq := f t.inq }

/-- One queue of a bulk engine changed. -/
def State.modBulk (s : State) (die e q : Nat) (f : List CopyEntry → List CopyEntry) : State :=
  let x := s.engine die e
  s.setEngine { x with queues := modifyNth f q x.queues }

/-- The head copies of a tile-port queue and of a bulk queue. -/
def State.tileHead (s : State) (core : Nat) (out : Bool) : Option Copy :=
  (s.team core).bind fun t => frontCopy (if out then t.outq else t.inq)
def State.bulkHead (s : State) (die e q : Nat) : Option Copy := frontCopy (nth [] (s.engine die e).queues q)

/-- RETRY (R304): the tables are walked again for the agent; a new fault posts a new record. -/
def State.retryAgent (s : State) (part : Nat) (x : XAgent) : State :=
  match x with
  | .log core gi _ => (s.replayGroup core gi).settled core
  | .fill core id k =>
    let (s1, done) := s.fillSlotNow core id k
    if done then (s1.replayTeam core).settled core else s1
  | .code core line => s.fetchCode core line
  | .tile core out => (s.unsuspend (s.tileHead core out)).modTileQueue core out wakeHead
  | .bulk die e q => (s.unsuspend (s.bulkHead die e q)).modBulk die e q wakeHead
  | .writeBack _ _ _ _ => s
  | .bitmap seq team ended => s.writeBitmap part seq team ended
  | .image _ => s

/-- XACT_RETRY (R304). -/
def execXactRetry (part : Fin 96) (stamp : Word64) (s : State) : Res :=
  .next (s.tlp part.val 0x1030 fun s => match (s.part part.val).bind fun p => p.answered stamp with
  | none => s
  | some w => ((s.modPart part.val fun p => p.unwait w).retryAgent part.val w.agent).moved)

/-- The lanes of a log entry whose access lies in the 64 KiB page that did not translate. -/
def LogEntry.lanesIn (e : LogEntry) (va : Nat) : List Nat :=
  (e.lanes.filter fun x => (e.spans x).any fun p => p / 16 == va / 2 ^ 16).map (·.lane)

/-- FAIL of a logged access (R385). -/
def State.failLog (s : State) (core gi no va vw : Nat) : State :=
  match (s.group core gi).bind fun g => g.log.find? fun e => e.no == no with
  | none => s
  | some e => s.failLogged core gi no 5 vw (e.lanesIn va)

/-- FAIL of a slot's fill: every logged access that waits for it fails (R304, R385). -/
def State.failFill (s : State) (core id k : Nat) : State :=
  match s.team core, (s.region core id).bind fun r => (r.slot k).filling with
  | some t, some page =>
    let s1 := s.modSlot core id k fun x => { x with state := .invalid, filling := none }
    (mapFrom (fun gi (g : Group) => g.log.map fun e => (gi, e)) 0 t.groups).flatten.foldl
      (fun (s : State) (x : Nat × LogEntry) =>
        let lanes := x.2.lanesAt id page
        if lanes.isEmpty || x.2.failed then s else s.failLogged core x.1 x.2.no 5 x.2.vw lanes) s1
  | _, _ => s

/-- FAIL of a code fetch in one group (R300): contained lanes that wait for the line end with PCBOUNDS, the others halt their
group with a code-bounds fault, one record for each unit (R187). -/
def State.failCode (s : State) (core gi line : Nat) : State :=
  match s.group core gi with
  | none => s
  | some g =>
    let ls := g.awaitingCode line
    let plain := ls.filter fun n => (g.lane n).inside.isNone
    let s1 := s.modGroup core gi fun (x : Group) =>
      { x with lanes := mapFrom (fun n (l : Lane) =>
          if ls.contains n then
            let l1 := { l with wait := LaneWait.none }
            if l.inside.isSome then l1.deliver Cause.codeBounds.outcome else l1
          else l) 0 x.lanes }
    let pcs := plain.foldl (fun (acc : List Word) n => if acc.contains (g.lane n).pc then acc else acc ++ [(g.lane n).pc]) []
    pcs.foldl (fun (s : State) pc =>
      let m := maskOf (plain.filter fun n => (g.lane n).pc == pc)
      s.haltGroup core gi ⟨Cause.codeBounds.kind, 0, 0, m, m, pc, 1, false, false, none⟩) s1

/-- FAIL of a write-back (R304): the dirty bytes are discarded and the slot is INVALID. -/
def State.dropSlot (s : State) (core id k : Nat) : State :=
  match s.region core id with
  | none => s
  | some r =>
    (s.store (r.maskAt core + 512 * k) (List.replicate 512 0)).modSlot core id k fun x => { x with state := .invalid }

/-- FAIL of a write-back that a group's unit waits for (R304): the group halts at the unit with those of the waiting lanes that
still stand there; contained lanes end with VIEWBOUNDS; a logged access that is being replayed fails as R385 says. (DEDUCED,
log 58.) -/
def State.failForced (s : State) (core vw : Nat) (x : Forced) : State :=
  match s.group core x.group with
  | none => s
  | some g =>
    if x.words == 0 then
      let lanes := (upFrom 0 g.lanes.length).filter fun n => bit x.lanes.toNat n
      match g.log.find? fun e => e.place.pc == x.pc && e.lanes.any fun y => lanes.contains y.lane with
      | none => s
      | some e => s.failLogged core x.group e.no 5 vw lanes
    else
      let lanes := placesFrom (fun n (l : Lane) => bit x.lanes.toNat n && !l.exited && l.pc == x.pc) 0 g.lanes
      let inside := lanes.filter fun n => (g.lane n).inside.isSome
      let m := maskOf (lanes.filter fun n => (g.lane n).inside.isNone)
      let s1 := inside.foldl (fun (s : State) n =>
        s.modLane core x.group n fun (l : Lane) => ({ l with wait := LaneWait.none } : Lane).deliver 5) s
      if m == 0 || g.halts.any fun h => h.record.pc == x.pc then s1
      else s1.haltGroup core x.group ⟨5, vw, 0, m, m, x.pc, x.words, false, false, none⟩

/-- The units that wait for a write-back: the one that its record names, and those that came after (R304). -/
def XWait.forced (w : XWait) (grp : Option Nat) : List Forced :=
  (grp.map fun g => (⟨g, w.record.pc, w.words, w.record.lanes⟩ : Forced)).toList ++ w.also

/-- FAIL (R304), by the faulting agent. (DEDUCED, log 56.) -/
def State.failAgent (s : State) (w : XWait) : State :=
  match w.agent with
  | .log core gi no => s.failLog core gi no w.va w.vw
  | .fill core id k => s.failFill core id k
  | .code core line =>
    match s.team core with
    | none => s
    | some t => (upFrom 0 t.groups.length).foldl (fun (s : State) gi => s.failCode core gi line) s
  | .tile core out => ((s.breakHandle (s.tileHead core out)).modTileQueue core out (List.drop 1)).settled core
  | .bulk die e q =>
    let c := s.bulkHead die e q
    let s1 := (s.breakHandle c).modBulk die e q (List.drop 1)
    match c with
    | some c => s1.settled c.core
    | none => s1
  | .writeBack core id k grp =>
    (w.forced grp).foldl (fun (s : State) x => s.failForced core w.vw x) (s.dropSlot core id k)
  | .bitmap _ _ _ => s
  | .image core => s.killTeam core

/-- XACT_FAIL (R304). -/
def execXactFail (part : Fin 96) (stamp : Word64) (s : State) : Res :=
  .next (s.tlp part.val 0x1030 fun s => match (s.part part.val).bind fun p => p.answered stamp with
  | none => s
  | some w => ((s.modPart part.val fun p => p.unwait w).failAgent w).moved)

/-! ## Invalidation (R303, R317) -/

/-- XINV: the invalidation is requested. -/
def execXinv (part : Fin 96) (s : State) : Res := 
  .next (s.tlp part.val 0x1038 fun s => (s.modPart part.val fun p => { p with xinv := true }).moved)

/-- XINV_COMPLETE: the partition's caches hold nothing. -/
def execXinvComplete (part : Fin 96) (s : State) : Res :=
  match s.part part.val with
  | none => .next s
  | some p => if p.xinv then .next (s.modPart part.val fun p => { p with xinv := false, tlb := [] }).moved else .next s

/-! ## Actions on halted groups (R188, R189, R385) -/

/-- The group in a halt-window slot. -/
def State.haltedGroup (s : State) (part slot : Nat) : Option (Nat × Nat × Group) :=
  match s.slotGroup part slot with
  | none => none
  | some (c, gi) => (s.group c gi).map fun g => (c, gi, g)

/-- The logged entry of the halt in force. -/
def Group.haltEntry (g : Group) : Option Nat := (g.halts.head?).bind (·.logged)

/-- An entry of the log discarded (R385): its destinations are no longer pending, and a lane that waits for its refill
goes on. (DEDUCED, log 57.) -/
def Group.discard (g : Group) (no : Nat) : Group :=
  match g.log.find? fun e => e.no == no with
  | none => g
  | some e =>
    { g with
      log := g.log.filter fun e => e.no != no
      lanes := mapFrom (fun n (l : Lane) =>
        if e.lanes.any fun x => x.lane == n then
          { l with
            pending := l.pending.filter fun d => !e.dests.contains d
            wait := if l.wait == .refill then .none else l.wait
            pc := if l.wait == .refill then l.pc + BitVec.ofNat 32 e.words else l.pc }
        else l) 0 g.lanes }

/-- An entry of the log that may be replayed again (R385). -/
def Group.unfail (g : Group) (no : Nat) : Group :=
  { g with log := g.log.map fun e => if e.no == no then { e with failed := false } else e }

/-- The saved teams of a partition with the group in a slot changed. -/
def Part.modSavedGroup (p : Part) (slot : Nat) (f : Group → Group) : Part :=
  { p with saved := p.saved.map fun (x : SavedTeam) =>
      { x with team := { x.team with groups := x.team.groups.map fun (g : Group) =>
          if (g.halts.any fun h => h.slot == some slot) then f g else g } } }

/-- The place of a halt-window slot's action word in the control page (R188, R317). -/
def slotAction (slot : Nat) : Nat := 0x8000 + 64 * slot + 0x3C

/-- RESUME (R188): of a logged access's halt, the entry is replayed (R385). -/
def execResume (part : Fin 96) (slot : Nat) (s : State) : Res :=
  .next (s.tlp part.val (slotAction slot) fun s =>
    match s.haltedGroup part.val slot with
    | none =>
      let on := fun (g : Group) => (g.haltEntry.map g.unfail).getD g
      (s.modPart part.val fun p => p.modSavedGroup slot on).returnGroup part.val slot false
    | some (c, gi, g) =>
      match g.haltEntry with
      | none => s.returnGroup part.val slot false
      | some no => (((s.modGroup c gi fun g => g.unfail no).returnGroup part.val slot false).replayGroup c gi).settled c)

/-- SKIP (R188): of a logged access's halt, the entry is discarded (R385). (DEDUCED, log 57.) -/
def execSkip (part : Fin 96) (slot : Nat) (s : State) : Res :=
  .next (s.tlp part.val (slotAction slot) fun s =>
    let off := fun (g : Group) => (g.haltEntry.map g.discard).getD g
    match s.haltedGroup part.val slot with
    | none => (s.modPart part.val fun p => p.modSavedGroup slot off).returnGroup part.val slot true
    | some (c, gi, _) => ((s.modGroup c gi off).returnGroup part.val slot true).settled c)

/-- Whether two saved teams are of one crew. -/
def SavedTeam.mate (x y : SavedTeam) : Bool := y.team.seq == x.team.seq && y.team.crewId == x.team.crewId

/-- The saved teams of a partition after one of them was killed: it stays with its scratchpad as an ended member of its crew, whose
cells no longer expect it, until every member has ended (R252, R255). -/
def savedWithout (x : SavedTeam) (ys : List SavedTeam) : List SavedTeam :=
  let zs := ys.map fun (y : SavedTeam) =>
    let y1 := if x.mate y then
        { y with cells := y.cells.map fun bs => bs.map fun (b : BarCell) => { b with expect := b.expect - 1 } }
      else y
    if y.team.seq == x.team.seq && y.team.number == x.team.number then { y1 with team := y.team.killed .finished, bulk := [] } else y1
  if zs.all fun y => !x.mate y || y.team.phase == .finished then zs.filter fun y => !x.mate y else zs

/-- A saved team ends as killed (R188, R252, R333): its END bit is set, and the tasks that its lanes hold are over (R260). -/
def State.killSaved (s : State) (part : Nat) (x : SavedTeam) : State :=
  let t := x.team
  let s1 := (s.releaseSaved t).modPart part fun p =>
    { p.modLaunch t.seq fun l => { l with killed := true } with saved := savedWithout x p.saved }
  ((((s1.setEnd part t.seq t.number).checkDone part t.seq).postBlocked part).fillSlots part t.haltSlots.length).moved

/-- HALT_KILL (R188): the team of the halted group ends. -/
def execHaltKill (part : Fin 96) (slot : Nat) (s : State) : Res :=
  .next (s.tlp part.val (slotAction slot) fun s =>
    match s.slotGroup part.val slot with
    | some (c, _) => s.killTeam c
    | none =>
      match (((s.part part.val).map (·.saved)).getD []).find? fun x => x.team.haltSlots.contains slot with
      | some x => s.killSaved part.val x
      | none => s)

end Sys2Proof.Machine
end

