-- ==== Sys2Proof/Machine/Cohort.lean ====
section
/-!
DEFINITION. Shuffles and the cohort family (spec/09_core_memory_sync.md R214 to R219).
-/
namespace Sys2Proof.Machine

/-- The lanes of the unit that pass the checks: the others take no part (R55). (DEDUCED, log 35.) -/
def Ctx.present (c : Ctx) (i : Instr) : List Nat := c.lanes.filter fun n => ((c.g.lane n).begin_ i c).2.isNone

/-- The contributing lanes of an issue (R215). (DEDUCED, log 35.) -/
def Ctx.contributing (c : Ctx) (i : Instr) (g : Guard) : List Nat := (c.present i).filter fun n => g.holds (c.g.lane n)

/-- A source as lane n reads it at issue. -/
def Ctx.readAt (c : Ctx) (a : Src) (n : Nat) : Word := readSrc (c.env n) (c.g.lane n) a

/-- A shuffle (R214): `pick` gives the selected lane from the lane's index and its selector. -/
def shuffle (i : Instr) (x : OpR) (pick : Int → Int → Int) (s : State) : Res :=
  localUnit i s fun c n => producer x.g x.w x.d (fun e l =>
    let j := pick n ((readSrc e l x.b).toNat : Int)
    .ok (if 0 ≤ j && j < c.g.width && (c.present i).contains j.toNat then c.readAt x.a j.toNat else readSrc e l x.a, 0)) c n

/-- The lane that bit k of a mask names in lane l's half (R215). -/
def halfLane (width l k : Nat) : Nat := if width == 64 then l / 32 * 32 + k else k

/-- The mask whose bit k is set where the lane it names satisfies `p` (R215, R216). -/
def ballot (width l : Nat) (p : Nat → Bool) : Word :=
  BitVec.ofNat 32 (((upFrom 0 32).map fun k => b2n (p (halfLane width l k)) * 2 ^ k).foldr (· + ·) 0)

/-- A vote or an integer reduction (R216, R217): one value from the contributing lanes' values. -/
def vote (i : Instr) (x : OpCoh) (f : List Word → Word) (s : State) : Res :=
  localUnit i s fun c => guarded x.g (fun _ l => .go (l.setReg x.d (f ((c.contributing i x.g).map (c.readAt x.a))))) c

/-- SHFLI (R214). -/
def execShfli (x : OpR) (s : State) : Res := shuffle (.shfli x) x (fun _ b => b) s

/-- SHFLU (R214). -/
def execShflu (x : OpR) (s : State) : Res := shuffle (.shflu x) x (fun l b => l - b) s

/-- SHFLD (R214). -/
def execShfld (x : OpR) (s : State) : Res := shuffle (.shfld x) x (fun l b => l + b) s

/-- SHFLX (R214). -/
def execShflx (x : OpR) (s : State) : Res := shuffle (.shflx x) x (fun l b => (Nat.xor l.toNat b.toNat : Nat)) s

/-- VANY (R216). -/
def execVany (x : OpCoh) (s : State) : Res := vote (.vany x) x (fun vs => b2w (vs.any (· != 0))) s

/-- VALL (R216). -/
def execVall (x : OpCoh) (s : State) : Res := vote (.vall x) x (fun vs => b2w (vs.all (· != 0))) s

/-- VBAL (R216). -/
def execVbal (x : OpCoh) (s : State) : Res :=
  localUnit (.vbal x) s fun c n => guarded x.g (fun _ l =>
    let cs := c.contributing (.vbal x) x.g
    .go (l.setReg x.d (ballot c.g.width n fun m => cs.contains m && c.readAt x.a m != 0))) c n

/-- PTOV (R216). -/
def execPtov (x : OpPToV) (s : State) : Res :=
  localUnit (.ptov x) s fun c n => guarded x.g (fun _ l =>
    let cs := c.contributing (.ptov x) x.g
    .go (l.setReg x.d (ballot c.g.width n fun m => cs.contains m && (c.g.lane m).p[x.p.val]))) c n

/-- VTOP (R216): the mask is that of the lowest-indexed contributing lane of the half. -/
def execVtop (x : OpVToP) (s : State) : Res :=
  localUnit (.vtop x) s fun c n => guarded x.g (fun e l =>
    let half := (c.contributing (.vtop x) x.g).filter fun m => c.g.width != 64 || m / 32 == n / 32
    let a := match half.head? with
      | some m => c.readAt x.a m
      | none => readSrc e l x.a
    .go (l.setP x.p (bit a.toNat (n % 32)))) c n

/-- REDADD (R217). -/
def execRedadd (x : OpCoh) (s : State) : Res := vote (.redadd x) x (fun vs => vs.foldr (· + ·) 0) s

/-- REDMIN (R217). -/
def execRedmin (x : OpCoh) (s : State) : Res :=
  vote (.redmin x) x (fun vs => vs.foldr (fun a b => if a.slt b then a else b) 0x7FFFFFFF) s

/-- REDMAX (R217). -/
def execRedmax (x : OpCoh) (s : State) : Res :=
  vote (.redmax x) x (fun vs => vs.foldr (fun a b => if b.slt a then a else b) 0x80000000) s

/-- A node of REDFADD's tree (R218): the sum of its children, the present one, or absent, with the flags so far. -/
def treeNode (x y : Option Nat) : Option Nat × Word :=
  match x, y with
  | some a, some b => let r := opAdd fmtF32 false false a b; (some r.1, r.2)
  | some a, none => (some a, 0)
  | none, some b => (some b, 0)
  | none, none => (none, 0)

/-- The positions from q on at level m of the tree: the node over 2^m of them, with its flags. -/
def treeSum (v : Nat → Option Nat) : Nat → Nat → Option Nat × Word
  | 0, q => (v q, 0)
  | m + 1, q =>
    let (x, fx) := treeSum v m q
    let (y, fy) := treeSum v m (q + 2 ^ m)
    let (r, f) := treeNode x y
    (r, fx ||| fy ||| f)

/-- REDFADD (R218). -/
def execRedfadd (x : OpCoh) (s : State) : Res :=
  localUnit (.redfadd x) s fun c n => guarded x.g (fun e l =>
    let cs := c.contributing (.redfadd x) x.g
    let (r, fl) := treeSum (fun q => if cs.contains q then some (c.readAt x.a q).toNat else none) (log2 c.g.width) 0
    match l.raises e.fmask fl with
    | some k => .fail k
    | none => .go ((l.setReg x.d (BitVec.ofNat 32 (r.getD 0))).setFlags fl)) c n

/-- READL (R219). -/
def execReadl (x : OpReadL) (s : State) : Res :=
  groupUnit (.readl x) s fun c s =>
    .go (s.modGroup c.core c.gi fun g => { g with s := g.s.set x.d.val (c.g.lane x.n.val).v[x.r.val] }) fun _ l => l

end Sys2Proof.Machine
end

