-- ==== Sys2Proof/Machine/Manager.lean ====
section
/-!
DEFINITION. What the management core does: partitions and their configuration (spec/17_package.md R334; spec/16_die.md R302),
releases (R335, R347), the tenant table (spec/19_fabric.md R372), measurement (R366), reset and ready bits (R349, R384); and
the loss of a die (R330).
-/
namespace Sys2Proof.Machine

/-! ## Measurement (R366) -/

/-- Register i extended: M[i] ← SHA-384(M[i] ‖ d). -/
def State.extend (s : State) (i : Fin 16) (d : BitVec 384) : State :=
  { s with measures := s.measures.set i (Config.sha384 (bytesOf 48 s.measures[i].toNat ++ bytesOf 48 d.toNat)) }

/-- Register i extended by what the management core measures (DESIGN CHOICE, log 8). -/
def State.measure (s : State) (i : Fin 16) : State :=
  { s.extend i (Config.measuredDigest i.val s.draws) with draws := s.draws + 1 }

/-- MEASUREMENT_EXTEND (R366): registers 8 to 14 stay zero, and register 15 is extended once. The management core itself is another
processor, whose acts come as events. (DEDUCED, log 95.) -/
def execMeasurementExtend (index : Fin 16) (digest : BitVec 384) (s : State) : Res :=
  if 8 ≤ index.val && (index.val != 15 || s.measures[index] != 0) then .next s else .next (s.extend index digest)

/-! ## Configuration (R302, R334, R364) -/

/-- Whether a partition's configuration may be changed: its TDI is unlocked (R364). -/
def Part.unlocked (p : Part) : Bool := p.tdisp == .unlocked

/-- Whether no other partition owns any of the named bits. -/
def State.unowned {n : Nat} (s : State) (part : Nat) (own : Part → BitVec n) (mask : BitVec n) : Bool :=
  s.parts.all fun p => p.id == part || own p &&& mask == 0

/-- SHEAVES_WRITE (R334): in a slot, while every sheaf that changes hands is empty; a partition keeps at least one sheaf (R2). The
cores that change hands pass from one partition to another (R168). (DEDUCED, log 60.) -/
def execSheavesWrite (part : Fin 96) (sheaves : BitVec 96) (s : State) : Res :=
  match s.part part.val with
  | none => .next s
  | some p =>
    let changed := (upFrom 0 96).filter fun q => bit (p.sheaves ^^^ sheaves).toNat q
    if sheaves == 0 || s.phase != .slot || !p.unlocked || !changed.all s.sheafEmpty || !s.unowned part.val (·.sheaves) sheaves then .next s
    else
      .next ((s.passOn fun c => changed.contains (sheafOfCore c.id)).modPart part.val fun p => { p with sheaves := sheaves }).moved

/-- STAGE1_WRITE (R301, R334). -/
def execStage1Write (part : Fin 96) (root : BitVec 48) (s : State) : Res :=
  .next (s.modPart part.val fun p => { p with root := root }).moved

/-- Whether two valid entries overlap (R302). -/
def overlap (a b : RangeEntry) : Bool :=
  RangeEntry.kind a != 0 && RangeEntry.kind b != 0 && bvFld a 32 32 ≤ bvFld b 64 32 && bvFld b 32 32 ≤ bvFld a 64 32

/-- The lines of a range that becomes sealed: zero, tagged with the current epoch, and folded into W (R336). (DEDUCED, log 59.) -/
def Integrity.fold (x : Integrity) (part lo n : Nat) : Integrity :=
  let zeros := List.replicate 64 0
  let sum := (upFrom lo n).foldl (fun (acc : BitVec 128) l => acc + Config.kmac128 part x.key l x.epoch zeros) 0
  { x with
    w := addAt x.w (parity x.epoch) sum
    tags := (upFrom lo n).map (fun l => (l, x.epoch)) ++ x.tags.filter fun t => t.1 < lo || lo + n ≤ t.1 }

/-- A stage-2 entry written; one that would overlap another is refused (R302). A range that becomes sealed is zero-filled
and folded in (R336). (DEDUCED, log 59.) -/
def State.setRange (s : State) (part i : Nat) (e : RangeEntry) : State :=
  match s.part part with
  | none => s
  | some p =>
    if (mapFrom (fun k x => k != i && overlap x e) 0 p.ranges).any id then s
    else
      let s1 := s.modPart part fun p => { p with ranges := modifyNth (fun _ => e) i p.ranges }
      match p.integ, RangeEntry.sealedLines e with
      | some x, some (lo, n) =>
        if RangeEntry.sealedLines (nth 0 p.ranges i) == some (lo, n) then s1
        else (s1.zeroRange (64 * lo) (64 * n)).modPart part fun p => { p with integ := some (x.fold part lo n) }
      | _, _ => s1

/-- RANGES_WRITE (R302, R334). -/
def execRangesWrite (part : Fin 96) (index : Fin 48) (entry : RangeEntry) (s : State) : Res :=
  match s.part part.val with
  | none => .next s
  | some p => if p.unlocked then .next (s.setRange part.val index.val entry).moved else .next s

/-- Whether the bulk queue of bit `k` of an ENGINES mask is empty. -/
def State.queueEmpty (s : State) (k : Nat) : Bool := (nth [] (s.engine (k / 64) (k % 64 / 8)).queues (k % 8)).isEmpty

/-- ENGINES_WRITE (R334): while every queue that changes hands is empty. -/
def execEnginesWrite (part : Fin 96) (engines : BitVec 256) (s : State) : Res :=
  match s.part part.val with
  | none => .next s
  | some p =>
    let changed := (upFrom 0 256).filter fun k => bit (p.engines ^^^ engines).toNat k
    if !p.unlocked || !changed.all s.queueEmpty || !s.unowned part.val (·.engines) engines then .next s
    else .next (s.modPart part.val fun p => { p with engines := engines }).moved

/-! ## Creation and destruction (R334) -/

/-- The package id is set before any partition exists (R384). -/
def State.bringUp (s : State) : State := { s with packageId := Config.packageId }

/-- A partition as it is created (R334), with no range yet. -/
def newPart (c : PartCfg) (key now : Nat) : Part :=
  { id := c.id.val, sheaves := c.sheaves, pool := c.pool, root := c.stage1, ranges := List.replicate 48 0
    engines := c.engines, isSealed := c.sealed, period := c.period, window := [], last := 0, consumed := 0, kills := []
    ctxbase := 0, fqbase := 0, fqsize := 64, fqprod := 0, fqcons := 0, lost := 0, xinv := false, frozen := false
    integFail := false, preempting := false, saving := 0, held := [], energy := 0, energyHi := 0, tlb := [], xwaits := []
    launches := [], saved := []
    integ := if c.sealed then
      some ⟨key, 0, Vector.replicate 2 0, Vector.replicate 2 0, Vector.replicate 2 0, [], [], now, false⟩ else none
    tdisp := .unlocked, lockedAt := none, ideKeys := [], ideLive := none, portFrozen := false, msix := 0, verdicts := []
    lwin := List.replicate 32 0 }

/-- Ranges written one after another. -/
def State.setRanges (s : State) (part : Nat) : Nat → List RangeEntry → State
  | _, [] => s
  | i, e :: es => State.setRanges (s.setRange part i e) part (i + 1) es

/-- Whether a configuration keeps to R2 and R334: at least one sheaf, and a period of 1 ms to 10 s. -/
def cfgLegal (c : PartCfg) : Bool := c.sheaves != 0 && 1 ≤ c.period && c.period ≤ 10000

/-- PARTITION_CREATE (R334): refused for a number in use, an illegal configuration, a sheaf or a queue that is owned, and a 33rd
sealed partition. (DEDUCED, log 60.) -/
def execPartitionCreate (cfg : PartCfg) (s : State) : Res :=
  let n := cfg.id.val
  if (s.part n).isSome || !cfgLegal cfg || !s.unowned n (·.sheaves) cfg.sheaves || !s.unowned n (·.engines) cfg.engines
      || (cfg.sealed && 32 ≤ (s.parts.filter (·.isSealed)).length) then .next s
  else
    let s1 := { s.bringUp with parts := s.parts ++ [newPart cfg s.draws s.time.toNat], draws := s.draws + 1 }
    .next ((s1.setRanges n 0 (cfg.ranges.take 48)).measure 5).moved

/-- The cores that hold a partition's teams. -/
def State.partCores (s : State) (part : Nat) : List Nat :=
  (s.cores.filter fun c => (c.team.map fun t => t.part == part).getD false).map (·.id)

/-- A killed team ended at once, and its core given back. -/
def State.endNow (s : State) (core : Nat) : State :=
  match s.team core with
  | none => s
  | some t =>
    let s1 := match t.phase with
      | .finished => s
      | _ => (s.dropUser core).setEnd t.part t.seq t.number
    s1.setCore { s1.core core with team := none, fetch := [] }

/-- Every team of a partition killed, and the scratchpads and vaults of its sheaves zeroed (R168, R334). -/
def State.wipe (s : State) (part : Nat) : State :=
  match s.part part with
  | none => s
  | some p =>
    let seqs := p.launches.map fun l => recSeq l.record
    let s1 := seqs.foldl (fun (s : State) n => s.killLaunch part n) s
    let s2 := (s1.partCores part).foldl (fun (s : State) c => s.endNow c) s1
    let s3 := seqs.foldl (fun (s : State) n => s.checkDone part n) s2
    let s4 := { s3 with
      clusters := s3.clusters.map fun (k : Cluster) =>
        { k with recs := k.recs.filter fun r => r.part != part, crews := k.crews.filter fun x => x.part != part }
      engines := s3.engines.map fun (e : Engine) =>
        { e with queues := e.queues.map fun (q : List CopyEntry) => q.filter fun x => match x with
          | .copy c => c.part != part
          | .fence _ => true }
      requests := s3.requests.filter fun r => r.part != part }
    ((upFrom 0 96).filter fun q => bit p.sheaves.toNat q).foldl (fun (s : State) q =>
      let s1 := (upFrom (16 * q) 16).foldl (fun (s : State) c => s.zeroRange (scratchAt c 0) (2 ^ 18)) s
      (upFrom (4 * (q % 24)) 4).foldl (fun (s : State) v => s.zeroRange (vaultAt (q / 24) v 0) (2 ^ 22)) s1) s4

/-- A partition destroyed (R334): its teams are killed and its memories zeroed, and its accumulators, keys and streams go with
it; the cores that it used pass on (R168). -/
def State.destroy (s : State) (part : Nat) : State :=
  let s1 := (s.wipe part).passOn fun c => c.user == some part
  { s1 with
    parts := s1.parts.filter fun p => p.id != part
    streams := s1.streams.filter fun x => x.part != part || x.inbound
    replies := s1.replies.filter fun x => x.part != part
    writes := s1.writes.filter fun w => w.part != part }.measure 5

/-- PARTITION_DESTROY (R334). -/
def execPartitionDestroy (part : Fin 96) (s : State) : Res :=
  match s.part part.val with
  | none => .next s
  | some _ => .next (s.destroy part.val).moved

/-! ## Releases (R335, R347) -/

/-- CORE_RELEASE (R335): the core is no longer frozen; what stands in its log is tried again. (DEDUCED, log 43.) -/
def execCoreRelease (core : Nat) (s : State) : Res :=
  if (s.core core).frozen then .next (((s.setCore { s.core core with frozen := false }).replayTeam core).settled core) else .next s

/-- ENGINE_RELEASE (R335, R347). (DEDUCED, log 43.) -/
def execEngineRelease (die : Nat) (engine : Fin 8) (s : State) : Res :=
  let x := s.engine die engine.val
  if x.frozen then .next (s.setEngine { x with frozen := false }).moved else .next s

/-! ## The tenant table (R372) -/

/-- Fields of a tenant entry. -/
def tenantLpart (e : Word64) : Nat := bvFld e 33 7

/-- Whether the entry's partition lets it change (R364). -/
def State.tenantOpen (s : State) (e : Word64) : Bool :=
  !bit e.toNat 63 || ((s.part (tenantLpart e)).map Part.unlocked).getD true

/-- TENANT_TABLE_WRITE (R364, R366, R372). -/
def execTenantTableWrite (index : Fin 256) (entry : Word64) (s : State) : Res :=
  if s.tenantOpen entry && s.tenantOpen (nth 0 s.tenants index.val) then
    .next ({ s with tenants := modifyNth (fun _ => entry) index.val s.tenants }.measure 6)
  else .next s

/-! ## Reset and ready bits (R349) -/

/-- RESET (R349): everything is as after reset; the moves to come and the free values drawn so far are the model's own. -/
def execReset (s : State) : Res := .next { State.reset with turns := s.turns, draws := s.draws }

/-- The number of ready bits of a register (R349). -/
def readyBits (register : Fin 3) : Nat :=
  match register with
  | 0 => 41
  | 1 => 48
  | 2 => 45

/-- A ready bit set. -/
def State.setReady (s : State) (register : Fin 3) (n : Nat) : State :=
  match register with
  | 0 => { s with ready0 := s.ready0 ||| BitVec.ofNat 64 (2 ^ n) }
  | 1 => { s with ready1 := s.ready1 ||| BitVec.ofNat 64 (2 ^ n) }
  | 2 => { s with ready2 := s.ready2 ||| BitVec.ofNat 64 (2 ^ n) }

/-! ## The loss of a die (R330) -/

/-- The halt-window slots that a partition's teams on a die hold. -/
def State.slotsOn (s : State) (part die : Nat) : Nat :=
  (s.cores.map fun c => if dieOfCore c.id == die then ((c.team.map fun t => if t.part == part then t.haltSlots.length else 0)).getD 0
    else 0).foldr (· + ·) 0

/-- What the loss of a die leaves on the cores, in the clusters and in the engines of it: nothing. The halt-window slots of its
teams free. -/
def State.dropDie (s : State) (die : Nat) : State :=
  let on := (s.cores.filter fun c => dieOfCore c.id == die).map (·.id)
  let s1 := on.foldl (fun (s : State) c => (s.dropRequests c).setCore { s.core c with team := none, fetch := [] }) s
  let s2 := { s1 with
    clusters := s1.clusters.filter fun k => k.id / 6 != die
    engines := s1.engines.filter fun e => e.die != die
    parts := s1.parts.map fun (p : Part) => { p with xwaits := p.xwaits.filter fun w => match w.agent with
      | .log c _ _ => dieOfCore c != die
      | .fill c _ _ => dieOfCore c != die
      | .code c _ => dieOfCore c != die
      | .tile c _ => dieOfCore c != die
      | .bulk d _ _ => d != die
      | .writeBack c _ _ _ => dieOfCore c != die
      | .bitmap _ _ _ => true
      | .image c => dieOfCore c != die } }
  (s2.parts.map (·.id)).foldl (fun (t : State) p => t.fillSlots p (s.slotsOn p die)) s2

/-- The dispatcher's handling of one launch that loses teams. -/
def State.loseTeams (s : State) (part seq : Nat) (lost : List Nat) : State :=
  match (s.part part).bind fun p => p.launch seq with
  | none => s
  | some l =>
    let start := recStart l.record
    let total := recTeams l.record
    let e := (l.ended.filter fun n => start ≤ n).length
    let first := ((upFrom 0 total).find? fun n => !l.ended.contains n).getD total
    let fails := total - start ≤ 2 * e
    let life := fun (x : Life) => match x with
      | .active => if fails then Life.failed else .aborted
      | .failed => if fails then .failed else .aborted
      | .rejected => .rejected
      | .done => .done
      | .aborted => .aborted
    let s1 := s.modPart part fun p => p.modLaunch seq fun l => { l with lost := lost ++ l.lost, life := life l.life }
    if l.life == .aborted then s1
    else
      let on := (s1.cores.filter fun c => (c.team.map fun t => t.part == part && t.seq == seq).getD false).map (·.id)
      let s2 := if fails then s1 else on.foldl (fun (s : State) c => s.killTeam c) s1
      s2.post part { Record.ofKind (if fails then 0x21 else 0x22) with
        seq := seq, detail := BitVec.ofNat 32 e, extra := BitVec.ofNat 64 first }

/-- DIE_UNREACHABLE (R330): the lane errors that fail the link are reported (unit 4), the ready bit clears, and the launches with
teams on the die lose them. -/
def execDieUnreachable (die : Nat) (s : State) : Res :=
  if 4 ≤ die || s.cutDies.contains die then .next s
  else
    let gone := s.cores.filterMap fun c =>
      if dieOfCore c.id != die then none
      else c.team.bind fun t => if t.phase == .finished then none else some (t.part, t.seq, t.number)
    let keys := gone.foldl (fun (acc : List (Nat × Nat)) x =>
      if acc.contains (x.1, x.2.1) then acc else acc ++ [(x.1, x.2.1)]) []
    let s1 := { s.dropDie die with
      cutDies := die :: s.cutDies
      ready0 := s.ready0 &&& ~~~(BitVec.ofNat 64 (2 ^ (1 + die))) }
    .next (s1.together [
      (.dieErrors die, fun s => s.errorReport none 4 false false (vaultAt die 0 0)),
      (.dispatcher, fun s =>
        let s2 := keys.foldl (fun (s : State) k =>
          let lost := (gone.filter fun x => x.1 == k.1 && x.2.1 == k.2).map fun x => x.2.2
          (s.loseTeams k.1 k.2 lost).unsettle k.1 k.2 lost) s
        (s2.parts.map (·.id)).foldl (fun (s : State) p => s.postBlocked p) s2)]).moved

end Sys2Proof.Machine
end

