-- ==== Sys2Proof/Machine/Fabric.lean ====
section
/-!
DEFINITION. The fabric (spec/19_fabric.md R358 to R376): the host's accesses through the apertures and CXL.mem, IDE_KM, TDISP
and SPDM, the Beacon flits as they arrive, streams, ports and package time.
-/
namespace Sys2Proof.Machine

/-! ## Accesses by an outside agent -/

/-- What an outside access needs, and how many bytes it touches. -/
def outNeed (x : OutAccess) : Need :=
  match x with
  | .read _ => 1
  | .write _ _ => 2
  | .atomic _ _ _ => 4

/-- The ATOM or ATOMX instruction of a major and a MOD (R64, R370). -/
def atomicOf (major mod : Nat) : Option Instr :=
  match major with
  | 0x34 => if mod < 8 then some (.atom ⟨.always, decAtomOp mod, 0, 0, 0⟩) else none
  | 0x35 => (decAtomXOp mod).map fun o => .atomx ⟨.always, o, 0, 0, 0⟩
  | _ => none

/-- The bytes that an outside access touches; none for no known operation. -/
def outSize (x : OutAccess) : Option Nat :=
  match x with
  | .read n => some n
  | .write bs _ => some bs.length
  | .atomic major mod _ => (atomicOf major mod).map memBytes

/-- Little-endian words of bytes. -/
def wordsOf (bs : List Byte) : List Word := (numbers 4 (bs ++ List.replicate ((4 - bs.length % 4) % 4) 0)).map (BitVec.ofNat 32)

/-- The key under which an outside thread's tag is noted: no core of this package (R113). -/
def outsideCore (pkg : Nat) : Nat := 2 ^ 20 + pkg

/-- An atomic by an outside agent at flat address `a` (R203): its old bytes, and the machine with the new ones and the tag of
a release, which only SYSTEM scope makes one for this package's threads (R112, R113). -/
def State.outAtomic (s : State) (a : Nat) (i : Instr) (ops : List Byte) (pkg : Nat) (order : Option (Order × Scope)) :
    State × List Byte :=
  let old := s.read a (memBytes i)
  match memNew i old (wordsOf ops) with
  | none => (s, old)
  | some bs =>
    let s1 := s.store a bs
    let wide := fun (b : Bool) => if b then 7 else 1
    match order with
    | some (.rel, sc) => (s1.setTag ⟨tagKey a, wide (sc == .system), 0, outsideCore pkg, 0, 0⟩, old)
    | some (.ar, sc) => (s1.setTag ⟨tagKey a, wide (sc == .system), 0, outsideCore pkg, 0, 0⟩, old)
    | some (.sc, sc) => (s1.setTag ⟨tagKey a, wide (sc == .system), 0, outsideCore pkg, 0, 0⟩, old)
    | _ => ({ s1 with tags := s1.tags.map fun (t : Tag) =>
        if t.line == (tagKey a) then { t with core := outsideCore pkg, scope := wide (t.scope == 7) } else t }, old)

/-- An outside access performed at flat addresses, byte by byte: the machine, the bytes it answers with, and whether they
are poisoned. A write sets its lines untagged (R266, R359). -/
def State.outPerform (s : State) (part : Nat) (as : List Nat) (x : OutAccess) (pkg : Nat)
    (order : Option (Order × Scope)) : State × List Byte × Bool :=
  let bad := as.any fun a => s.poisoned a 1
  let s0 := (as.take 1).foldl (fun (s : State) a => s.reportCut part a (outNeed x != 2)) s
  match x with
  | .read _ => (s0, as.map s.mem.get, bad)
  | .write bs mask =>
    let runs := joinRuns (((as.zip bs).zip mask).filterMap fun (y : (Nat × Byte) × Bool) => if y.2 then some y.1 else none)
    (runs.foldl (fun (s : State) r => (s.store r.1 r.2).untagRange r.1 r.2.length) s0, [], false)
  | .atomic major mod ops =>
    match as, atomicOf major mod with
    | a :: _, some i =>
      if bad then (s0, s.read a (memBytes i), true)
      else
        let r := s0.outAtomic a i ops pkg order
        (r.1, r.2, false)
    | _, _ => (s0, [], false)

/-- A PCIe or CXL completion to the host: 0 successful, 1 Unsupported Request, 2 poisoned. -/
def State.complete_ (s : State) (proto code part : Nat) (body : List Byte) : State :=
  { s with outbox := s.outbox ++ [⟨proto, code, part, body⟩] }

/-- The completion of an outside access; a write is posted and has none. -/
def answerOut (proto part : Nat) (x : OutAccess) (r : State × List Byte × Bool) : State :=
  match x with
  | .write _ _ => r.1
  | .read _ => r.1.complete_ proto (if r.2.2 then 2 else 0) part r.2.1
  | .atomic _ _ _ => r.1.complete_ proto (if r.2.2 then 2 else 0) part r.2.1

/-- Whether the host port carries the operation: reads, writes, and the AtomicOps of R358. -/
def outPcie (x : OutAccess) : Bool :=
  match x with
  | .atomic major mod _ => ((atomicOf major mod).map pcieAtomic).getD false
  | .read _ => true
  | .write _ _ => true

/-- The flat addresses of `n` bytes of intermediate addresses through ranges that pass a test; none where one has no right
or no such range (R302, R359). -/
def iaAddrs (p : Part) (need : Need) (good : Nat → Bool) (ia n : Nat) : Option (List Nat) :=
  (tryAll (fun a =>
    match stage2 p a need with
    | .ok x _ _ _ => if isDram x && good a then Except.ok x else .error ()
    | .bad _ _ => .error ()) (upFrom ia n)).toOption

/-- An outside access put off until its DRAM serves: to the slot's end (R348), or until its channel is ready (R305). (DEDUCED, log 67.) -/
def State.defer (s : State) (d : Deferred) : State := { s with deferred := s.deferred ++ [d] }.moved

/-- An access through the inbound aperture, served (R359). (DEDUCED, log 67.) -/
def State.serveInbound (s : State) (part : Fin 96) (offset : Nat) (access : OutAccess) : State :=
  match s.part part.val with
  | none => s.complete_ 0 1 part.val []
  | some p =>
    match (outSize access).bind fun n =>
      if offset + n ≤ 2 ^ 36 && outPcie access then iaAddrs p (outNeed access) (fun _ => true) offset n else none with
    | none => s.complete_ 0 1 part.val []
    | some as =>
      if !as.all s.serves then s.defer (.inbound part offset access)
      else (answerOut 0 part.val access (s.outPerform part.val as access 0 none)).moved

/-- INBOUND_APERTURE_ACCESS (R359, R363): offset o is the partition's intermediate address o. -/
def execInboundApertureAccess (part : Fin 96) (offset : Nat) (access : OutAccess) (s : State) : Res :=
  match s.part part.val with
  | none => .next (s.complete_ 0 1 part.val [])
  | some _ => .next (s.tlp part.val offset fun s => s.serveInbound part offset access)

/-- The flat address of an access through the vault aperture; none where its decode refuses it (R359). -/
def vaultTarget (p : Part) (offset n : Nat) : Option Nat :=
  let d := offset / 2 ^ 29
  let v := offset % 2 ^ 29 / 2 ^ 22
  let x := offset % 2 ^ 22
  if 4 ≤ d || 96 ≤ v || 3 * 2 ^ 20 < x + n || !bit p.sheaves.toNat (24 * d + v / 4) then none else some (vaultAt d v x)

/-- VAULT_APERTURE_ACCESS (R359). -/
def execVaultApertureAccess (part : Fin 96) (offset : Nat) (access : OutAccess) (s : State) : Res :=
  match s.part part.val with
  | none => .next (s.complete_ 0 1 part.val [])
  | some p =>
    .next (s.tlp part.val offset fun s =>
      match (outSize access).bind fun n => if outPcie access then (vaultTarget p offset n).map fun a => upFrom a n else none with
      | none => s.complete_ 0 1 part.val []
      | some as => (answerOut 0 part.val access (s.outPerform part.val as access 0 none)).moved)

/-- Whether an intermediate address lies in a TIER1 range that is exported through CXL.mem (R362). -/
def Part.exportsAt (p : Part) (ia : Nat) : Bool :=
  ((mapFrom (fun k e => (k, e)) 0 p.ranges).find? fun x => RangeEntry.holds x.2 ia).any fun x =>
    RangeEntry.kind x.2 == 1 && Config.exported p.id x.1

/-- A CXL.mem access served (R362). (DEDUCED, log 67.) -/
def State.serveCxl (s : State) (part : Fin 96) (address : Nat) (access : OutAccess) : State :=
  match s.part part.val with
  | none => s
  | some p =>
    match (outSize access).bind fun n => iaAddrs p (outNeed access) p.exportsAt address n with
    | none => s.complete_ 7 1 part.val []
    | some as =>
      if !as.all s.serves then s.defer (.cxl part address access)
      else (answerOut 7 part.val access (s.outPerform part.val as access 0 (some (.ar, .system)))).moved

/-- CXL_MEM_ACCESS (R362): nothing unless the port has trained as CXL. -/
def execCxlMemAccess (part : Fin 96) (address : Nat) (access : OutAccess) (s : State) : Res :=
  if !Config.cxlTrained then .next s else .next (s.serveCxl part address access)

/-- A host's read of eight bytes of the global page in BAR0 of the physical function (R359): the ready registers (R349) and the
package energy counter, whose low half latches its high half (R342); any other offset is no register. -/
def State.pageRead (s : State) (offset : Nat) : State :=
  match offset with
  | 0x00 => s.complete_ 0 0 96 (bytesOf 8 s.ready0.toNat)
  | 0x08 => s.complete_ 0 0 96 (bytesOf 8 s.ready1.toNat)
  | 0x10 => s.complete_ 0 0 96 (bytesOf 8 s.ready2.toNat)
  | 0x20 => { s with energyHi := (s.energy >>> 32).setWidth 32 }.complete_ 0 0 96 (bytesOf 8 s.energy.toNat)
  | _ => s.complete_ 0 1 96 []

/-- STATUS of a control page (R317). -/
def Part.status (p : Part) : Nat := b2n p.frozen + 2 * b2n p.integFail + 4 * b2n p.isSealed + 8 * b2n p.preempting

/-- The halt-window slot of a partition (R188): the record of the group that holds it, its action word reading as the record's last
bytes; zero where none does. -/
def State.haltBytes (s : State) (part slot : Nat) : List Byte :=
  let of := fun (t : Team) => (t.groups.flatMap (·.halts)).find? fun h => h.slot == some slot
  let on := s.cores.findSome? fun c => c.team.bind fun t => if t.part == part then of t else none
  match on.or ((((s.part part).map (·.saved)).getD []).findSome? fun x => of x.team) with
  | some h => h.record.bytes
  | none => List.replicate 64 0

/-- The eight bytes of a readable register of a control page (R317), at an offset that is a multiple of 8; none for another. -/
def State.pageReg (s : State) (p : Part) (offset : Nat) : Option (List Byte) :=
  let n := fun (x : Nat) => some (bytesOf 8 x)
  match offset with
  | 0x1000 => n p.last.toNat
  | 0x1008 => n p.consumed.toNat
  | 0x1018 => n p.ctxbase.toNat
  | 0x1038 => n (b2n p.xinv)
  | 0x1040 => n p.status
  | 0x1048 => n p.fqbase.toNat
  | 0x1050 => n p.fqsize.toNat
  | 0x1058 => n p.fqprod.toNat
  | 0x1060 => n p.fqcons.toNat
  | 0x1068 => n p.lost.toNat
  | 0x1070 => n p.energy.toNat
  | 0x1078 => n p.energyHi.toNat
  | _ =>
    if 0x8000 ≤ offset && offset < 0x10000 && offset % 8 == 0 then
      some (((s.haltBytes p.id ((offset - 0x8000) / 64)).drop (offset % 64)).take 8)
    else none

/-- The host's read of eight bytes of a partition's control page in BAR0 of its VF (R317, R359, R363): ENERGY.lo latches ENERGY.hi
(R342). What it finds at an offset that is no register to read is UR. (DEDUCED, log 108.) -/
def State.vfRead (s : State) (part offset : Nat) : State :=
  match s.part part with
  | none => s.complete_ 0 1 part []
  | some _ => s.tlp part offset fun s =>
    match s.part part with
    | none => s
    | some p =>
      let s1 := if offset == 0x1070 then s.modPart part fun p => { p with energyHi := (p.energy >>> 32).setWidth 32 } else s
      match s.pageReg p offset with
      | some bs => s1.complete_ 0 0 part bs
      | none => s1.complete_ 0 1 part []

/-! ## IDE_KM, TDISP and SPDM (R363 to R367) -/

/-- A reply of the management core whose bytes an outside standard fixes (DESIGN CHOICE, log 8), counted. -/
def State.reply (s : State) (proto code dest : Nat) (body : List Byte) : State :=
  { s with
    outbox := s.outbox ++ [⟨proto, code, dest, body⟩]
    spdm := { s.spdm with served := s.spdm.served + 1 } }

/-- The bytes of a reply that the standard fixes. -/
def State.protoBody (s : State) (proto code : Nat) : List Byte := Config.protocolReply (256 * proto + code) s.spdm.served

/-- A request as it reaches the management core's mailbox: it takes a stamp (R365). -/
def State.mailed (s : State) : State := s.stamped

/-- An IDE_KM request inside the secured session, for an enabled VF (R363), stamped on arrival whatever it names (R365). -/
def State.ideRequest (s : State) (part code : Nat) (f : State → Part → State) : State :=
  match s.part part with
  | none => s.mailed
  | some p => if s.spdm.secured then (f s.mailed p).reply 4 code part (s.protoBody 4 code) else s.mailed

/-- QUERY (R363). -/
def execQuery (part : Fin 96) (s : State) : Res := .next (s.ideRequest part.val 1 fun s _ => s)

/-- KEY_PROG (R363). -/
def execKeyProg (part : Fin 96) (keySet : Bool) (s : State) : Res :=
  .next (s.ideRequest part.val 3 fun s p =>
    s.modPart p.id fun p => { p with ideKeys := if p.ideKeys.contains keySet then p.ideKeys else keySet :: p.ideKeys })

/-- K_SET_GO (R363, R366): the stream runs under the key set, if it is programmed. -/
def execKSetGo (part : Fin 96) (keySet : Bool) (s : State) : Res :=
  .next (s.ideRequest part.val 6 fun s p =>
    if p.ideKeys.contains keySet then (s.modPart p.id fun p => { p with ideLive := some keySet }).measure 7 else s)

/-- K_SET_STOP (R363, R366). A locked TDI whose stream ends enters ERROR, as TDISP 1.0 has it (R364; PRESUMED, log 92). -/
def execKSetStop (part : Fin 96) (keySet : Bool) (s : State) : Res :=
  .next (s.ideRequest part.val 6 fun s p =>
    if p.ideLive == some keySet then
      (s.modPart p.id fun p => { p with ideLive := none, tdisp := if p.locked then .error else p.tdisp }).measure 7
    else s)

/-- The protocol number of a TDISP request's and of an SPDM request's answer. -/
def mailTdisp (v : Mailbox) : Nat :=
  match v with
  | .doe => 5
  | .mctp => 6
def mailSpdm (v : Mailbox) : Nat :=
  match v with
  | .doe => 2
  | .mctp => 3

/-- A TDISP request for an enabled VF (R364, R365): stamped on arrival, whatever it names, then served. -/
def State.tdispRequest (s : State) (part : Nat) (f : State → Part → State) : State :=
  match s.part part with
  | none => s.mailed
  | some p => f s.mailed p

/-- The code of a TDISP state. -/
def Tdisp.code (t : Tdisp) : Nat :=
  match t with
  | .unlocked => 0
  | .locked => 1
  | .run => 2
  | .error => 3

/-- TDISP ERROR with code INVALID_INTERFACE_STATE (R365). -/
def State.tdispError (s : State) (proto part : Nat) : State := s.reply proto 0x7F part (bytesOf 4 4)

/-- GET_TDISP_VERSION (R364). -/
def execGetTdispVersion (part : Fin 96) (s : State) : Res :=
  .next (s.tdispRequest part.val fun s p => s.reply 5 1 p.id (s.protoBody 5 1))

/-- GET_TDISP_CAPABILITIES (R364). -/
def execGetTdispCapabilities (part : Fin 96) (s : State) : Res :=
  .next (s.tdispRequest part.val fun s p => s.reply 5 2 p.id (s.protoBody 5 2))

/-- LOCK_INTERFACE_REQUEST (R364, R365): only an unlocked TDI locks. -/
def execLockInterfaceRequest (part : Fin 96) (via : Mailbox) (s : State) : Res :=
  .next (s.tdispRequest part.val fun s1 p =>
    if p.tdisp == .unlocked then
      ((s1.modPart p.id fun p => { p with tdisp := .locked, lockedAt := some s.nextStamp }).measure 7).reply (mailTdisp via) 3 p.id
        (s.protoBody 5 3)
    else s1.tdispError (mailTdisp via) p.id)

/-- GET_DEVICE_INTERFACE_REPORT (R364). -/
def execGetDeviceInterfaceReport (part : Fin 96) (s : State) : Res :=
  .next (s.tdispRequest part.val fun s p => s.reply 5 4 p.id (s.protoBody 5 4))

/-- GET_DEVICE_INTERFACE_STATE (R364). -/
def execGetDeviceInterfaceState (part : Fin 96) (s : State) : Res :=
  .next (s.tdispRequest part.val fun s p => s.reply 5 5 p.id [BitVec.ofNat 8 p.tdisp.code])

/-- START_INTERFACE_REQUEST (R364): from CONFIG_LOCKED to RUN. -/
def execStartInterfaceRequest (part : Fin 96) (s : State) : Res :=
  .next (s.tdispRequest part.val fun s p =>
    if p.tdisp == .locked then
      ((s.modPart p.id fun p => { p with tdisp := .run }).measure 7).reply 5 6 p.id (s.protoBody 5 6)
    else s.tdispError 5 p.id)

/-- STOP_INTERFACE_REQUEST (R364): the partition's cores and vaults are zeroed and the TDI is unlocked; leaving ERROR destroys
the partition. -/
def execStopInterfaceRequest (part : Fin 96) (s : State) : Res :=
  .next (s.tdispRequest part.val fun s p =>
    let s1 := if p.tdisp == .error then s.destroy p.id
      else (s.wipe p.id).modPart p.id fun p => { p with tdisp := .unlocked, lockedAt := none }
    ((s1.measure 7).reply 5 7 p.id (s.protoBody 5 7)).moved)

/-- An SPDM request stamped (R365) and answered (R367). -/
def State.spdmSay (s : State) (via : Mailbox) (code : Nat) (body : List Byte) : State := s.mailed.reply (mailSpdm via) code 0 body
def State.spdmReply (s : State) (via : Mailbox) (code : Nat) : State := s.spdmSay via code (s.protoBody 2 code)

/-- GET_VERSION (R367): it begins the connection anew. -/
def execGetVersion (via : Mailbox) (s : State) : Res :=
  .next ({ s with spdm := { s.spdm with version := true, caps := false, algs := false } }.spdmReply via 0x04)

/-- GET_CAPABILITIES (R367). -/
def execGetCapabilities (via : Mailbox) (s : State) : Res :=
  .next ({ s with spdm := { s.spdm with caps := true } }.spdmReply via 0x61)

/-- NEGOTIATE_ALGORITHMS (R367). -/
def execNegotiateAlgorithms (via : Mailbox) (s : State) : Res :=
  .next ({ s with spdm := { s.spdm with algs := true } }.spdmReply via 0x63)

/-- GET_DIGESTS (R367). -/
def execGetDigests (via : Mailbox) (s : State) : Res := .next (s.spdmReply via 0x01)

/-- GET_CERTIFICATE (R367). -/
def execGetCertificate (via : Mailbox) (s : State) : Res := .next (s.spdmReply via 0x02)

/-- CHALLENGE (R367). -/
def execChallenge (via : Mailbox) (s : State) : Res := .next (s.spdmReply via 0x03)

/-- The registers of R366 as measurement blocks 1 to 16 (R367). -/
def State.measurementBlocks (s : State) : List Byte := (s.measures.toList.map fun m => bytesOf 48 m.toNat).flatten

/-- GET_MEASUREMENTS (R367). -/
def execGetMeasurements (via : Mailbox) (s : State) : Res := .next (s.spdmSay via 0x60 s.measurementBlocks)

/-- Whether a stream has a request outstanding (R376). -/
def State.streamBusy (s : State) (x : Stream) : Bool :=
  !x.inbound && s.requests.any fun r => !r.toHost && r.part == x.part && r.pkg == x.pkg

/-- The new key of a stream in force: G and SEQ begin at 0 (R371). -/
def Stream.rekey (x : Stream) (k : Nat) : Stream := { x with key := some k, nextKey := none, gen := 0, seq := 0, frozen := false }

/-- Every stream that has drained takes the key agreed for it (R371), and the responses that waited go out. (DEDUCED, log 66.) -/
def State.settleStreams (s : State) : State :=
  { s with streams := s.streams.map fun (x : Stream) =>
      match x.nextKey with
      | some k => if s.streamBusy x then x else x.rekey k
      | none => x }.flushReplies

/-- The two streams between a partition and a package, listed. -/
def State.withStreams (s : State) (part : Nat) (pkg : BitVec 16) : State :=
  let add := fun (s : State) (inb : Bool) =>
    if s.streams.any fun x => x.inbound == inb && x.part == part && x.pkg == pkg then s
    else { s with streams := s.streams ++ [⟨inb, part, pkg, (s.portFor pkg.toNat).getD 0, 0, 0, none, none, false⟩] }
  add (add s false) true

/-- KEY_EXCHANGE (R367, R371): a session; over a link, the key of the streams between a partition and a package, in force
once they have drained. (DEDUCED, log 66.) -/
def execKeyExchange (via : Mailbox) (stream : Option (Fin 96 × BitVec 16)) (s : State) : Res :=
  let s1 := { s with spdm := { s.spdm with session := true, secured := false } }.spdmReply via 0x64
  match stream with
  | none => .next s1
  | some (p, pkg) =>
    let s2 := s1.withStreams p.val pkg
    let s3 := { s2 with draws := s2.draws + 1, streams := s2.streams.map fun (x : Stream) =>
      if x.part == p.val && x.pkg == pkg then { x with nextKey := some s2.draws } else x }
    .next s3.settleStreams.moved

/-- FINISH (R367): the session is secured, if there is one. -/
def execFinish (via : Mailbox) (s : State) : Res :=
  if s.spdm.session then .next ({ s with spdm := { s.spdm with secured := true } }.spdmReply via 0x65)
  else .next (s.spdmReply via 0x7F)

/-- SPDM_UNSUPPORTED (R367): ERROR UnsupportedRequest. -/
def execSpdmUnsupported (via : Mailbox) (s : State) : Res := .next (s.spdmSay via 0x7F [0x07])

/-! ## Streams and tenants (R371 to R373) -/

/-- The inbound stream of a flit. -/
def State.inStream (s : State) (f : Flit) : Option Stream :=
  s.streams.find? fun x => x.inbound && x.part == f.srcRaw.toNat && x.pkg == f.spkg

/-- The inbound stream of a flit changed. -/
def State.modInStream (s : State) (f : Flit) (g : Stream → Stream) : State :=
  { s with streams := s.streams.map fun (x : Stream) =>
      if x.inbound && x.part == f.srcRaw.toNat && x.pkg == f.spkg then g x else x }

/-- Whether a tenant entry is valid (R372). -/
def tenantValid (e : Word64) : Bool := bit e.toNat 63 && bvFld e 0 22 == 0

/-- The tenant entry that an inbound request matches (R372, R373). -/
def State.tenantOf (s : State) (f : Flit) : Option Word64 :=
  s.tenants.find? fun e => tenantValid e && bvFld e 47 16 == f.spkg.toNat && bvFld e 40 7 == f.srcRaw.toNat

/-- A stream frozen (R335, R371): the partition it acts for and the management core are told. (DEDUCED, log 65.) -/
def State.freezeStream (s : State) (f : Flit) : State :=
  let s1 := s.modInStream f fun x => { x with frozen := true }
  match s.tenantOf f with
  | some e => s1.postFrozen (tenantLpart e) (Record.ofKind 0x23) 0
  | none => s1.postMgmt (Record.ofKind 0x23)

/-- A flit of a stream received (R371): whether it is accepted. (DEDUCED, log 65.) -/
def State.receive (s : State) (f : Flit) : State × Bool :=
  if !((s.ports[f.port.val]?).map (·.up)).getD false then (s, false)
  else
    match s.inStream f with
    | none =>
      let fresh : Stream := ⟨true, f.srcRaw.toNat, f.spkg, f.port.val, 0, 0, none, none, false⟩
      let s1 := { s with streams := s.streams ++ [fresh] }
      if f.enc then (s1.freezeStream f, false) else (s1.modInStream f Stream.next, true)
    | some x =>
      if x.frozen then (s, false)
      else
        let good := match x.key with
          | none => !f.enc
          | some k => f.enc && f.seq == x.seq && Config.gcmVerifies k (x.gen.toNat * 2 ^ 32 + x.seq.toNat) f.raw
        if good then (s.modInStream f fun y => { y.next with port := f.port.val }, true) else (s.freezeStream f, false)

/-- The partition that an inbound request acts for, where its entry grants the right at bit `b` (R373). -/
def State.actsFor (s : State) (f : Flit) (b : Nat) : Option Part :=
  match s.tenantOf f with
  | none => none
  | some e => if (bit e.toNat 32 && !f.enc) || !bit e.toNat b then none else s.part (tenantLpart e)

/-- The flat addresses of an inbound request's bytes (R373): LPART's two stages, and the firewall. -/
def State.vaAddrs (s : State) (p : Part) (need : Need) (va n : Nat) : Option (List Nat) :=
  (tryAll (fun a =>
    match walk s p false a need with
    | .ok x _ _ _ => if p.firewall x then Except.ok x else .error ()
    | .bad _ _ => .error ()) (upFrom va n)).toOption

/-- A response to a flit on the stream of the partition that acted or is named (R370, R371); where no tenant entry matches, so that no
partition is known, in clear on the port that it came by, with SRC and SEQ 0. (DEDUCED, log 107.) -/
def State.respond (s : State) (f : Flit) (part : Option Nat) (type : Nat) (bad : Bool) (body : List Byte) : State :=
  match part with
  | none => s.sendFlit f.port.val ⟨type, false, bad, f.tag, body⟩
  | some p => s.answer ⟨p, f.spkg, type, bad, f.tag, body⟩

/-- An inbound request of a right and a need at VA, performed; none where it is refused or does not translate. -/
def State.inbound (s : State) (f : Flit) (b : Nat) (va : BitVec 64) (x : OutAccess) (order : Option (Order × Scope)) :
    Option (Nat × State × List Byte × Bool) :=
  match s.actsFor f b, outSize x with
  | some p, some n =>
    match s.vaAddrs p (outNeed x) va.toNat n with
    | some as => some (p.id, s.outPerform p.id as x f.spkg.toNat order)
    | none => none
  | _, _ => none

/-- Whether an inbound request waits (R305, R348): it reaches DRAM of this package that does not serve now, or is translated by a table
there. -/
def State.inboundWaits (s : State) (f : Flit) (b : Nat) (va : BitVec 64) (x : OutAccess) : Bool :=
  match s.actsFor f b, outSize x with
  | some p, some n => (upFrom va.toNat n).any fun a =>
    match walk s p false a (outNeed x) with
    | .ok h _ _ _ => p.firewall h && !s.serves h
    | .bad c _ => c == waitCause
  | _, _ => false

/-- The partition that the tenant entry of a request names, whether or not the entry grants what is asked (R372, R373). -/
def State.lpartOf (s : State) (f : Flit) : Option Nat := (s.tenantOf f).map tenantLpart

/-! ## The flits (R370) -/

/-- The byte mask of a WRITE as flags. -/
def maskFlags (mask : BitVec 128) (n : Nat) : List Bool := (upFrom 0 n).map fun k => bit mask.toNat k

/-- A WRITE served: performed at its home, then acknowledged; a refused one is dropped. (DEDUCED, log 63, log 67.) -/
def State.serveWrite (s : State) (f : Flit) (va : BitVec 64) (mask : BitVec 128) (bytes : List Byte) : State :=
  let x := OutAccess.write (bytes.take 128) (maskFlags mask 128)
  if s.inboundWaits f 30 va x then s.defer (.write f va mask bytes)
  else
    match s.inbound f 30 va x none with
    | none => s
    | some (p, s1, _, _) => (s1.respond f (some p) 0x06 false (bytesOf 4 f.tag.toNat)).moved

/-- WRITE (R370, R373). -/
def execWrite (f : Flit) (va : BitVec 64) (mask : BitVec 128) (bytes : List Byte) (s : State) : Res :=
  let (s1, ok) := s.receive f
  .next (if ok then s1.serveWrite f va mask bytes else s1)

/-- A READ served. (DEDUCED, log 63, log 67.) -/
def State.serveRead (s : State) (f : Flit) (va : BitVec 64) (count : Nat) : State :=
  if s.inboundWaits f 31 va (.read (min count 192)) then s.defer (.read f va count)
  else
    match s.inbound f 31 va (.read (min count 192)) none with
    | none => s.respond f (s.lpartOf f) 0x03 true []
    | some (p, s1, bs, bad) => (s1.respond f (some p) 0x03 bad bs).moved

/-- READ (R370, R373): up to 192 bytes. -/
def execRead (f : Flit) (va : BitVec 64) (count : Nat) (s : State) : Res :=
  let (s1, ok) := s.receive f
  .next (if ok then s1.serveRead f va count else s1)

/-- An ATOMIC served (R203). -/
def State.serveAtomic (s : State) (f : Flit) (va : BitVec 64) (major mod : Nat) (order : Option (Order × Scope))
    (operands : List Byte) : State :=
  let aligned := ((atomicOf major mod).map fun i => va.toNat % memBytes i == 0).getD false
  if aligned && s.inboundWaits f 29 va (.atomic major mod operands) then s.defer (.atomic f va major mod order operands)
  else
    match if aligned then s.inbound f 29 va (.atomic major mod operands) order else none with
    | none => s.respond f (s.lpartOf f) 0x05 true []
    | some (p, s1, bs, bad) => (s1.respond f (some p) 0x05 bad bs).moved

/-- ATOMIC (R203, R370, R373). -/
def execAtomic (f : Flit) (va : BitVec 64) (major : Nat) (mod : Nat) (order : Option (Order × Scope))
    (operands : List Byte) (s : State) : Res :=
  let (s1, ok) := s.receive f
  .next (if ok then s1.serveAtomic f va major mod order operands else s1)

/-- An access that waited, tried again. -/
def State.serve (s : State) (d : Deferred) : State :=
  match d with
  | .inbound part offset access => s.serveInbound part offset access
  | .cxl part address access => s.serveCxl part address access
  | .write f va mask bytes => s.serveWrite f va mask bytes
  | .read f va count => s.serveRead f va count
  | .atomic f va major mod order operands => s.serveAtomic f va major mod order operands

/-- What came from outside and waited, served in its order, as far as its DRAM serves now (R305, R348). -/
def State.serveDeferred (s : State) : State := s.deferred.foldl (fun (s : State) d => s.serve d) { s with deferred := [] }

/-- SLOT_END (R310, R348): DRAM granules may begin again, the logged accesses that waited are performed, and what came from outside
is served in its order. -/
def execSlotEnd (s : State) : Res :=
  if s.phase != .slot then .next s
  else
    .next { s.until_ (32768 * s.frame + s.slotLen) with phase := .running }.serveDeferred.replayAll.moved

/-- FUNCTION_READY (R349, R384): a die that stopped answering does not become ready (R330); accesses that waited for a memory
channel go on (R305). -/
def execFunctionReady (register : Fin 3) (bitNo : Fin 64) (s : State) : Res :=
  if readyBits register ≤ bitNo.val || (register == 0 && 1 ≤ bitNo.val && s.cutDies.contains (bitNo.val - 1)) then .next s
  else .next (s.bringUp.setReady register bitNo.val).serveDeferred.replayAll.moved

/-- The outstanding requests without one. -/
def State.forget (s : State) (r : Request) : State :=
  { s with requests := s.requests.filter fun x => x.tag != r.tag || x.toHost != r.toHost }

/-- Bytes landed for a slot's fill; it is complete when no other part of it is outstanding (R293). -/
def State.fillAnswer (s : State) (core id k o : Nat) (data : List Byte) (bad : Bool) : State :=
  match ((s.region core id).map fun x => x.slot k).bind (·.filling) with
  | none => s
  | some g =>
    let s1 := s.landPart core id k o data bad
    if s1.asked (.fill core id k) then s1.moved else ((s1.landEnd core id k g).replayTeam core).settled core

/-- The answer to an outbound request handed to what waits for it (R186, R203, R237, R293, R360, R370). Bytes that the answer does
not bring are as the model's memory has them. -/
def State.handAnswer (s : State) (r : Request) (bytes : List Byte) (bad : Bool) : State :=
  let all := bytes ++ (r.addrs.drop bytes.length).map s.mem.get
  let data := all.take r.addrs.length
  let s1 := s.forget r
  match r.agent with
  | .fill core id k => s1.fillAnswer core id k (r.addrs.headD 0 % 4096) data bad
  | .access core gi no lane => (s1.replayLane core gi no lane (some (data, bad))).settled core
  | .write _ => s1.moved
  | .sent _ _ => s1.moved
  | .read core no =>
    (s1.modCopy core no fun c => { c with got := (r.addrs.zip data).map (fun x => (x.1, x.2, bad)) ++ c.got }).moved
  | .add _ _ xf bs => (s1.store (r.addrs.headD 0) (addInto xf data bs)).moved

/-- The outstanding request to a package that a tag names. -/
def State.requestOf (s : State) (f : Flit) : Option Request :=
  s.requests.find? fun r => !r.toHost && r.tag == f.tag && r.pkg == f.spkg

/-- Whether a request is a WRITE. -/
def Request.isWrite (r : Request) : Bool :=
  match r.agent with
  | .write _ => true
  | .sent _ _ => true
  | .read _ _ => false
  | .fill _ _ _ => false
  | .access _ _ _ _ => false
  | .add _ _ _ _ => false

/-- READ_RESPONSE (R370). -/
def execReadResponse (f : Flit) (bytes : List Byte) (s : State) : Res :=
  let (s1, ok) := s.receive f
  match (if ok then s1.requestOf f else none) with
  | some r => if r.atomic || r.isWrite then .next s1 else .next (s1.handAnswer r bytes f.poison).settleStreams
  | none => .next s1

/-- The bytes of a request that an old value of the unit holding them brings. -/
def Request.oldBytes (r : Request) (old : Word64) : List Byte :=
  ((bytesOf 8 old.toNat).drop (r.addrs.headD 0 % 4)).take r.addrs.length

/-- ATOMIC_RESPONSE (R370): the old value. -/
def execAtomicResponse (f : Flit) (old : Word64) (s : State) : Res :=
  let (s1, ok) := s.receive f
  match (if ok then s1.requestOf f else none) with
  | some r => if r.atomic then .next (s1.handAnswer r (r.oldBytes old) f.poison).settleStreams else .next s1
  | none => .next s1

/-- ACK (R370): the writes it names are performed. -/
def execAck (f : Flit) (tags : List (BitVec 32)) (s : State) : Res :=
  let (s1, ok) := s.receive f
  if !ok then .next s1
  else
    .next { s1 with requests := s1.requests.filter fun r =>
      !(r.isWrite && !r.toHost && r.pkg == f.spkg && tags.contains r.tag) }.settleStreams.moved

/-- The reason for which a launch packet is refused (R374). (DEDUCED, log 62.) -/
def State.launchRefused (s : State) (f : Flit) (target : Byte) (r : LaunchBytes) : Option Nat :=
  match s.tenantOf f with
  | none => some 0x80
  | some e =>
    if (bit e.toNat 32 && !f.enc) || recPart r != tenantLpart e || target.toNat != tenantLpart e then some 0x80
    else if !bit e.toNat 28 then some 0x81
    else if recPrio r < bvFld e 26 2 then some 0x82
    else if !bit e.toNat (22 + recClass r) then some 0x83
    else none

/-- LAUNCH (R318, R374): the verdict goes back once the record is copied and validated; a refused commit is answered at once with
its reason, SEQ. (DEDUCED, log 64.) -/
def execLaunch (f : Flit) (target : Byte) (record : LaunchBytes) (s : State) : Res :=
  let (s1, ok) := s.receive f
  if !ok then .next s1
  else
    match s1.launchRefused f target record with
    | some n =>
      let own := s1.lpartOf f
      .next ((s1.respond f own 0x11 false (bytesOf 1 n)).postMgmt (Record.ofKind 0x30))
    | none =>
      let p := recPart record
      let (fine, s2) := s1.commitWrite p (recSeq record % 32) record
      if fine then
        .next (s2.modPart p fun q => { q with verdicts := q.verdicts ++ [(BitVec.ofNat 64 (recSeq record), f)] }).moved
      else .next (s2.respond f (some p) 0x11 false (bytesOf 1 1)).moved

/-- LAUNCH_RESULT (R370): the verdict is for the sender of a launch packet, and changes nothing of this package. -/
def execLaunchResult (f : Flit) (_verdict : Byte) (s : State) : Res := .next (s.receive f).1

/-- FLIT_NOP (R370). -/
def execFlitNop (_f : Flit) (s : State) : Res := .next s

/-- FLIT_UNLISTED (R370): dropped, and an ERROR REPORT posted. The spec names no unit for it: a free value (DESIGN CHOICE, log 7). -/
def execFlitUnlisted (f : Flit) (_type : Byte) (s : State) : Res :=
  if !((s.ports[f.port.val]?).map (·.up)).getD false then .next s
  else
    let unit := (Config.freeByte s.draws).toNat % 16
    .next ({ s with draws := s.draws + 1 }.postMgmt { Record.ofKind 0x19 with
      detail := BitVec.ofNat 32 unit, extra := BitVec.ofNat 64 f.port.val })

/-! ## Ports (R368, R376) -/

/-- A port changed. -/
def State.modPort (s : State) (n : Nat) (f : Port → Port) : State := { s with ports := modifyNth f n s.ports }

/-- CAPABILITY (R370, R375). -/
def execCapability (f : Flit) (package : BitVec 16) (stook timeMaster : Bool) (s : State) : Res :=
  .next (s.modPort f.port.val fun p =>
    if p.up then { p with peer := package, stook := stook, master := timeMaster } else p)

/-- LINK_TRAINED (R349, R368, R384): one CAPABILITY flit with the package's id, then the ready bit. -/
def execLinkTrained (port : Fin 12) (peer : BitVec 16) (s : State) : Res :=
  let s1 := s.bringUp.modPort port.val fun p => { p with up := true, lanes := 8, peer := peer }
  let s2 := s1.sendFlit port.val ⟨0x20, false, false, 0,
    bytesOf 2 s1.packageId.toNat ++ [BitVec.ofNat 8 (1 + 2 * b2n Config.timeMaster)]⟩
  .next (s2.setReady 0 (29 + port.val)).moved

/-- The outstanding requests that were sent on a port: those of the streams that it carries. -/
def State.requestsOn (s : State) (port : Nat) : List Request :=
  s.requests.filter fun r => !r.toHost && ((s.outStream r.part r.pkg.toNat).map fun x => x.port == port).getD false

/-- An outstanding request given up as its port goes down (R376): a read or an atomic completes with poisoned data, whose
bytes are free values; the bytes of a WRITE that was not acknowledged, and of a copy's addition, are indeterminate at the
destination. -/
def State.giveUp (s : State) (r : Request) : State :=
  let bs := (upFrom s.draws r.addrs.length).map Config.freeByte
  let s1 := { s with draws := s.draws + r.addrs.length }
  let lost := fun (_ : Unit) =>
    { s1 with mem := (r.addrs.zip bs).foldl (fun (m : Memory) (x : Nat × Byte) => m.put x.1 x.2) s1.mem }.forget r
  match r.agent with
  | .write _ => lost ()
  | .sent _ _ => lost ()
  | .add _ _ _ _ => lost ()
  | .read _ _ => s1.handAnswer r bs true
  | .fill _ _ _ => s1.handAnswer r bs true
  | .access _ _ _ _ => s1.handAnswer r bs true

/-- The core for which a request was sent. -/
def Request.core (r : Request) : Nat :=
  match r.agent with
  | .fill c _ _ => c
  | .access c _ _ _ => c
  | .write c => c
  | .read c _ => c
  | .sent c _ => c
  | .add c _ _ _ => c

/-- A port goes down (R376): its record's source comes before the clusters' (R350). (DEDUCED, log 64.) -/
def State.portDown (s : State) (port : Fin 12) : State :=
  if !((s.ports[port.val]?).map (·.up)).getD false then s
  else
    let s1 := s.modPort port.val fun p => { p with up := false }
    let s2 := { s1 with ready0 := s1.ready0 &&& ~~~(BitVec.ofNat 64 (2 ^ (29 + port.val))) }
    let down : Source × (State → State) := (Source.port port.val, fun (s : State) => s.postMgmt (Record.ofKind 0x31))
    let s3 := s2.together (down :: (s.requestsOn port.val).map fun r =>
      (Source.cluster (clusterOfCore r.core), fun (s : State) => s.giveUp r))
    s3.settleStreams.moved

/-- LINK_DOWN (R376). -/
def execLinkDown (port : Fin 12) (s : State) : Res := .next (s.portDown port)

/-- LANE_FAILS (R368): with fewer than four working lanes the port goes down. -/
def execLaneFails (port : Fin 12) (s : State) : Res :=
  let s1 := s.modPort port.val fun p => { p with lanes := p.lanes - 1 }
  if ((s1.ports[port.val]?).map fun p => decide (p.lanes < 4)).getD false then .next (s1.portDown port) else .next s1

/-- STREAM_MOVE (R376): a stream whose port has changed goes on, once nothing of it is outstanding, on its new port with its
count. -/
def execStreamMove (part : Fin 96) (package : BitVec 16) (s : State) : Res :=
  match s.outStream part.val package.toNat, s.portFor package.toNat with
  | some x, some p =>
    if x.port == p || s.streamBusy x then .next s
    else
      .next { s with streams := s.streams.map fun (y : Stream) =>
        if !y.inbound && y.part == part.val && y.pkg == package then { y with port := p } else y }.flushReplies.moved
  | _, _ => .next s

/-- HOST_READ_COMPLETION (R360): a TLP that names the VF of the request's partition as requester (R363). -/
def execHostReadCompletion (tag : BitVec 32) (bytes : List Byte) (poison : Bool) (s : State) : Res :=
  match s.requests.find? fun r => r.toHost && r.tag == tag with
  | some r => .next (s.tlp r.part 0 fun s => s.handAnswer r bytes poison)
  | none => .next s

/-! ## Package time (R375) -/

/-- The calendar's phase at a moment (R344). -/
def phaseAt (t : Nat) : CalPhase :=
  if t % 32768 < slotNs (t / 32768) then .slot else if t % 32768 < 30720 then .running else .guard

/-- A forward step of package time, before any partition exists. (DEDUCED, log 52.) -/
def State.stepTime (s : State) (t : Nat) : State :=
  if t ≤ s.time.toNat then s
  else { s.atTime (BitVec.ofNat 56 t) with phase := phaseAt t, slotLen := slotNs (t / 32768) }

/-- Package time slewed towards `t` by at most 200 ppm of a frame, 6 ns (R375): forward at once, no further than the calendar's next
event, or back by that many ns in which it stands still. (DEDUCED, log 52.) -/
def State.slew (s : State) (t : Nat) : State :=
  if t ≤ s.time.toNat then { s with timeSlow := min 6 (s.time.toNat - t) }
  else { s with timeSlow := 0 }.pass (min 6 (t - s.time.toNat))

/-- TIME (R375): from the lowest-numbered up port whose peer is nearer the master; a package more than 50 ns off for a whole
frame says so. -/
def execTime (f : Flit) (time : BitVec 56) (s : State) : Res :=
  if Config.timeMaster || s.timePorts.head? != some f.port.val then .next s
  else
    let t := time.toNat + Config.linkDelay f.port.val
    let off := 50 < t - s.time.toNat || 50 < s.time.toNat - t
    let s1 := { s with timeHad := true }
    if s.parts.isEmpty then .next { s1.stepTime t with timeOff := 0 }
    else
      let n := if off then s.timeOff + 1 else 0
      let s2 := { s1.slew t with timeOff := n }
      .next (if 2 ≤ n then { s2.postTimeLost with timeOff := 0 } else s2)

end Sys2Proof.Machine
end

