-- ==== Sys2Proof/Machine/Hints.lean ====
section
/-!
DEFINITION. The hint words (spec/02 R56 to R61): each adds what it says to the unit in hand, and the instruction that ends
the unit reads it.
-/
namespace Sys2Proof.Machine

/-- HIMM (R57). -/
def execHimm (imm : BitVec 23) (s : State) : Res := hintUnit (.imm imm) s

/-- HBT (R58). -/
def execHbt (x : OpHbt) (s : State) : Res := hintUnit (.bt x) s

/-- HORD (R59). -/
def execHord (x : OpHord) (s : State) : Res := hintUnit (.ord x) s

/-- HSCH (R60). -/
def execHsch (n : Fin 16) (s : State) : Res := hintUnit (.sch n) s

/-- HGATH (R61). -/
def execHgath (sel : Fin 4) (s : State) : Res := hintUnit (.gath sel) s

end Sys2Proof.Machine
end

