-- ==== Sys2Proof/Machine/Matrix.lean ====
section
/-!
DEFINITION. The matrix array and the optimiser (spec/10_core_matrix_copy.md R222 to R233, R242): the checks at issue, the
entries of the matrix queue, and what each does when the queue performs it.
-/
namespace Sys2Proof.Machine

/-! ## Operand tiles and their checks (R222 to R225) -/

/-- The kinds of operand types (R223). -/
inductive TileKind where
  | planed | f8 | bf16
  deriving DecidableEq, Repr

/-- The kind of a type; none where no pair names it. -/
def tileKind (ty : Nat) : Option TileKind :=
  if ty == tyPLANED then some .planed
  else if ty == tyE4M3 || ty == tyE5M2 then some .f8
  else if ty == tyBF16 then some .bf16
  else none

/-- Planes − 1 of the planed operands. -/
def planesOf : MPlanes → Nat
  | .p1 => 0
  | .p2 => 1
  | .p3 => 2

/-- K of a pair of types with PL and RN (R223); none for a TYPE violation. -/
def pairK (a b pl : Nat) (rn : Bool) : Option Nat :=
  match tileKind a, tileKind b with
  | some .planed, some .planed => if pl == 0 then some 384 else if pl == 1 then some 192 else if pl == 2 then some 96 else none
  | some .f8, some .f8 => if pl == 0 && !rn then some 192 else none
  | some .f8, some .planed => if pl == 1 then some 192 else none
  | some .planed, some .f8 => if pl == 1 then some 192 else none
  | some .bf16, some .bf16 => if pl == 0 && !rn then some 96 else none
  | some .bf16, some .planed => if pl == 2 then some 96 else none
  | some .planed, some .bf16 => if pl == 2 then some 96 else none
  | _, _ => none

/-- The bytes of a row of k elements (R222). -/
def rowBytes (ty k : Nat) : Nat := if ty == tyPLANED then k / 16 * 64 else k * elemBits ty / 8

/-- The A latch's type code, and the tile that it stands for (R228). -/
def latchCode : LatchTy → Nat
  | .bf16 => 6
  | .e4m3 => 7
  | .e5m2 => 8
def latchDesc (ty : LatchTy) : TileDesc := ⟨latchCode ty, 0, 16, if ty == .bf16 then 96 else 192, 192, 0⟩

/-- Whether rows read from region offset 64 stay in the region (R225). -/
def rowsFit (h : Handle) (n pitch row : Nat) : Bool := n == 0 || 64 + (n - 1) * pitch + row ≤ 64 * h.size

/-- The operands of a product: the A handle (none for the latch) and the B handle, planes − 1, RN, and MMAG's rows. -/
structure Product where
  ha  : Option Nat
  hb  : Nat
  pl  : Nat
  rn  : Bool
  acc : Bool
  z   : Nat
  idx : Option (List Nat)
  deriving DecidableEq, Repr

/-- The number that a fault names for operand A (R225). -/
def Product.aNo (p : Product) : Nat := p.ha.getD 255

/-- The checks of a product before the wait for its handles: the latch, the plan, FAULTED (R224, R225). -/
def Product.early (p : Product) (t : Team) : Option Cause :=
  let hs := p.ha.toList ++ [p.hb]
  if p.ha.isNone && t.alatch.isNone then some (.handle 255 6)
  else
    match hs.find? fun h => (t.handle h).isNone with
    | some h => some (.handle h 0)
    | none =>
      match hs.find? fun h => ((t.handle h).map (·.faulted)).getD false with
      | some h => some (.handle h 1)
      | none => none

/-- Whether every handle that a product reads can be read (R224). -/
def Product.ready (p : Product) (t : Team) : Bool :=
  (p.ha.toList ++ [p.hb]).all fun h => ((t.handle h).map Handle.readable).getD false

/-- The headers of a product's operands as they stand (R184, R228). (DEDUCED, log 41.) -/
def State.productHeads (s : State) (core : Nat) (t : Team) (p : Product) : TileDesc × TileDesc :=
  let of := fun h => ((t.handle h).map fun x => s.readHeader core x).getD ⟨0, 0, 0, 0, 0, 0⟩
  (match p.ha with
    | none => (t.alatch.map fun x => latchDesc x.ty).getD ⟨0, 0, 0, 0, 0, 0⟩
    | some h => of h,
   of p.hb)

/-- The SHAPE violation of an operand (R225). -/
def badShape (h : Option Handle) (d : TileDesc) (k : Nat) (pool : Option (List Nat)) : Bool :=
  let row := rowBytes d.ty k
  let used := match pool with
    | none => 16
    | some is => (is.filter (· < d.rows)).foldr (fun i m => max (i + 1) m) 0
  (pool.isNone && d.rows < 16) || d.k < k || d.pitch < row || (h.map fun x => !rowsFit x used d.pitch row).getD false

/-- The checks of a product against its headers, in the order of R225. (DEDUCED, log 40.) -/
def Product.late (p : Product) (t : Team) (a b : TileDesc) : Option Cause :=
  match pairK a.ty b.ty p.pl p.rn with
  | none => some (.handle p.aNo 2)
  | some k =>
    let thin := fun (d : TileDesc) => d.ty == tyPLANED && d.planes < p.pl + 1
    if thin a then some (.handle p.aNo 3)
    else if thin b then some (.handle p.hb 3)
    else if badShape (p.ha.bind t.handle) a k p.idx then some (.handle p.aNo 4)
    else if badShape (t.handle p.hb) b k none then some (.handle p.hb 4)
    else if (p.idx.getD []).any fun i => i != 0xFFFF && a.rows ≤ i then some (.handle p.aNo 10)
    else none

/-- The product of an MMA word. -/
def mmaProduct (x : OpMma) : Product :=
  ⟨if x.ha.val == 255 then none else some x.ha.val, x.hb.val, planesOf x.pl, x.rn, x.acc, x.z.val, none⟩

/-- The rows that MMAG's hint names (R61, R227). -/
def gatherRows (g : Group) (hs : List Hint) : List Nat :=
  let sel := (hs.findSome? fun h => match h with
    | .gath n => some n.val
    | _ => none).getD 0
  (upFrom 0 16).map fun r => bvFld (g.s[(8 * sel + r / 2) % 32]'(by omega)) (16 * (r % 2)) 16

/-- An entry put into the matrix queue. -/
def State.queueMatrix (s : State) (core : Nat) (e : MatrixEntry) : State :=
  s.modTeam core fun t => { t with mq := t.mq ++ [e] }

/-- A product at issue (R224): its checks, its wait and its entry. -/
def productUnit (i : Instr) (s : State) (f : Ctx → Product) : Res :=
  groupUnit i s fun c s =>
    let p := f c
    match p.early c.t with
    | some e => .fail e
    | none =>
      if !p.ready c.t || 16 ≤ c.t.mq.length || c.g.acquiring then .retry s
      else
        let (a, b) := s.productHeads c.core c.t p
        match p.late c.t a b with
        | some e => .fail e
        | none => .go (s.queueMatrix c.core (.op i (p.idx.getD []) 0 c.gi none [a, b])) fun _ l => l

/-- MMA (R226). -/
def execMma (x : OpMma) (s : State) : Res := productUnit (.mma x) s fun _ => mmaProduct x

/-- MMAG (R227). -/
def execMmag (x : OpMma) (s : State) : Res :=
  productUnit (.mmag x) s fun c => { mmaProduct x with ha := some x.ha.val, idx := some (gatherRows c.g c.hints) }

/-! ## The other entries at issue (R228 to R233) -/

/-- A drain (R229): the handle is waited for FREE and begins a fill of 1,024 bytes, which clears a FAULTED that a FREE handle still
has (R183). (DEDUCED, log 75.) -/
def drainUnit (i : Instr) (x : OpDrn) (ty : Nat) (s : State) : Res :=
  groupUnit i s fun c s =>
    match c.t.handle x.h.val with
    | none => .fail (.handle x.h.val 0)
    | some h =>
      if h.state != .free || 16 ≤ c.t.mq.length then .retry s
      else if h.size < 17 then .fail (.handle x.h.val 5)
      else
        let s1 := s.modHandle c.core x.h.val fun h => h.start true 0 1024 (some ⟨ty, 0, 16, 16, 64, 0⟩)
        .go (s1.queueMatrix c.core (.op i [] 0 c.gi none [])) fun _ l => l

/-- MDRN (R229). -/
def execMdrn (x : OpDrn) (s : State) : Res := drainUnit (.mdrn x) x tyF32 s

/-- MDRNB (R229). -/
def execMdrnb (x : OpDrn) (s : State) : Res := drainUnit (.mdrnb x) x tyBF16 s

/-- An entry that reads no handle. -/
def plainEntry (i : Instr) (s : State) : Res :=
  groupUnit i s fun c s =>
    if 16 ≤ c.t.mq.length then .retry s else .go (s.queueMatrix c.core (.op i [] 0 c.gi none [])) fun _ l => l

/-- MDRNL (R228). -/
def execMdrnl (x : OpDrnL) (s : State) : Res := plainEntry (.mdrnl x) s

/-- MZERO (R230). -/
def execMzero (x : OpAcc) (s : State) : Res := plainEntry (.mzero x) s

/-- An entry that reads handle `n`, with the checks of its header (R224, R225). -/
def readerUnit (i : Instr) (n : Nat) (chk : Handle → TileDesc → Option Nat) (step : Ctx → Word) (s : State) : Res :=
  groupUnit i s fun c s =>
    match c.t.handle n with
    | none => .fail (.handle n 0)
    | some h =>
      if h.faulted then .fail (.handle n 1)
      else if !h.readable || 16 ≤ c.t.mq.length then .retry s
      else
        let d := s.readHeader c.core h
        match chk h d with
        | some k => .fail (.handle n k)
        | none => .go (s.queueMatrix c.core (.op i [] (step c) c.gi none [d])) fun _ l => l

/-- MLOAD (R230). -/
def execMload (x : OpDrn) (s : State) : Res :=
  readerUnit (.mload x) x.h.val (fun h d =>
    if d.ty != tyF32 then some 2
    else if d.rows < 16 || d.k < 16 || d.pitch < 64 || !rowsFit h 16 d.pitch 64 then some 4
    else none) (fun _ => 0) s

/-- The header of a planed tile of four planes (R232, R233): PADD wants 16 rows, PNORM takes any ROWS and acts on them.
(DEDUCED, log 103.) -/
def planedCheck (h : Handle) (d : TileDesc) (rows : Nat) (square : Bool) : Option Nat :=
  if d.ty != tyPLANED then some 2
  else if d.planes != 4 then some 3
  else if (square && (d.rows != 16 || d.k != 16)) || d.pitch < d.k / 16 * 64 || !rowsFit h rows d.pitch (d.k / 16 * 64) then some 4
  else none

/-- PADD (R232): the step register is read at issue. -/
def execPadd (x : OpPAdd) (s : State) : Res :=
  readerUnit (.padd x) x.h.val (fun h d => planedCheck h d 16 true) (fun c => c.g.s[x.k.val]) s

/-- PNORM (R233). -/
def execPnorm (x : OpPNorm) (s : State) : Res :=
  readerUnit (.pnorm x) x.h.val (fun h d => planedCheck h d d.rows false) (fun _ => 0) s

/-! ## Performing (R231) -/

/-- The values of K elements of a row's bytes, and its saturations (R222, R226). -/
def rowVals (ty k n planes : Nat) (rn : Bool) (bs : List Byte) : List Num × Nat :=
  if ty == tyPLANED then
    let blocks := (upFrom 0 (k / 16)).map fun b =>
      let x := Block.ofLine ((bs.drop (64 * b)).take 64)
      let y := { x with elems := x.elems.map (cutElem (max 1 (min 4 planes))) }
      (upFrom 0 16).map fun i => readElem y i n rn
    ((blocks.flatten).map (·.1), ((blocks.flatten).filter (·.2)).length)
  else
    let f := if ty == tyBF16 then fmtBF16 else if ty == tyE4M3 then fmtE4M3 else fmtE5M2
    ((unpack bs (elemBits ty) k).map (valOf f), 0)

/-- A row of +0 (R227). -/
def zeroRow (k : Nat) : List Num := List.replicate k (.fin false 0 0)

/-- The rows of an operand, and its saturations. (DEDUCED, log 77.) -/
def State.operandRows (s : State) (core : Nat) (t : Team) (h : Option Nat) (d : TileDesc) (idx : List Nat) (k n : Nat) (rn : Bool) :
    List (List Num) × Nat :=
  let row := fun r =>
    if r == 0xFFFF then (zeroRow k, 0)
    else
      let bs := match h with
        | none => nth [] ((t.alatch.map (·.rows)).getD []) r
        | some n => ((t.handle n).map fun x => s.read (x.at core (64 + r * d.pitch)) (rowBytes d.ty k)).getD []
      rowVals d.ty k n d.planes rn bs
  let rs := idx.map row
  (rs.map (·.1), (rs.map (·.2)).foldr (· + ·) 0)

/-- One accumulator's 24 steps over its operands' rows (R31, R226), `n` of them left. -/
def mmaChain (ks : Nat) : Nat → List Num → List Num → Nat → Nat
  | 0, _, _, c => c
  | n + 1, as, bs, c =>
    let terms := f32v c :: ((as.take ks).zip (bs.take ks)).map fun p => numMul p.1 p.2
    mmaChain ks n (as.drop ks) (bs.drop ks) (mmaStep terms)

/-- Accumulator `n` of a team. -/
def Team.acc (t : Team) (n : Nat) : List Word := nth (List.replicate 256 0) t.z n

/-- The machine with an accumulator replaced. -/
def State.setAcc (s : State) (core n : Nat) (z : List Word) : State :=
  s.modTeam core fun t => { t with z := modifyNth (fun _ => z) n t.z }

/-- A product performed (R226, R227). The A latch is read by the tag that it has then (R228); where a drain has since given it a tag
that makes no pair with B, the results are free values. (DEDUCED, log 77.) -/
def State.performProduct (s : State) (core : Nat) (t : Team) (p : Product) (a b : TileDesc) : State :=
  let a := if p.ha.isNone then { a with ty := (s.productHeads core t p).1.ty } else a
  match pairK a.ty b.ty p.pl p.rn with
  | none =>
    let free := s.drawn 1024
    free.2.setAcc core p.z ((upFrom 0 256).map fun n => BitVec.ofNat 32 (ofBytes ((free.1.drop (4 * n)).take 4)))
  | some k =>
    let (ra, sa) := s.operandRows core t p.ha a (p.idx.getD (upFrom 0 16)) k (p.pl + 1) p.rn
    let (rb, sb) := s.operandRows core t (some p.hb) b (upFrom 0 16) k (p.pl + 1) p.rn
    let old := t.acc p.z
    let z := ((mapFrom (fun i x => mapFrom (fun j y =>
      BitVec.ofNat 32 (mmaChain (k / 24) 24 x y (if p.acc then (nth 0 old (16 * i + j)).toNat else 0))) 0 rb) 0 ra).flatten)
    let s1 := match p.ha with
      | none => s
      | some h => s.modHandle core h fun x => x.count sa
    (s1.modHandle core p.hb fun x => x.count sb).setAcc core p.z z

/-- The canonical NaN for a NaN, and any other code unchanged (R229). -/
def canon32 (x : Word) : Nat := if (f32v x.toNat).isNaN then fmtF32.nan else x.toNat

/-- A drain performed (R229). -/
def State.performDrain (s : State) (core : Nat) (t : Team) (x : OpDrn) (narrow : Bool) : State :=
  match t.handle x.h.val with
  | none => s
  | some h =>
    let z := t.acc x.z.val
    let row := fun i =>
      let xs := (upFrom 0 16).map fun j => nth 0 z (16 * i + j)
      if narrow then packElems 16 (xs.map fun y => (roundTo fmtBF16 false (f32v y.toNat)).1) ++ List.replicate 32 0
      else packElems 32 (xs.map canon32)
    let s1 := (upFrom 0 16).foldl (fun (s : State) i => s.unitStore (h.at core (64 + 64 * i)) (row i)) s
    ((s1.noteBy core (upFrom (h.at core 64) 1024)).modHandle core x.h.val fun h => { h with pending := h.pending - 1024 }).settleHandle
      core x.h.val

/-- The list with bytes put at a place. -/
def overwrite (xs : List Byte) (at_ : Nat) (bs : List Byte) : List Byte := xs.take at_ ++ bs ++ xs.drop (at_ + bs.length)

/-- A drain into the A latch performed (R228). -/
def Team.drainLatch (t : Team) (x : OpDrnL) : Team :=
  let z := t.acc x.z.val
  let e := if x.ty == .bf16 then 16 else 8
  let conv := fun (y : Word) =>
    match x.ty with
    | .bf16 => (roundTo fmtBF16 false (f32v y.toNat)).1
    | .e4m3 => (roundF8 fmtE4M3 true false (f32v y.toNat)).1
    | .e5m2 => (roundF8 fmtE5M2 true false (f32v y.toNat)).1
  let old : ALatch := match t.alatch with
    | some l => if l.ty == x.ty then l else ⟨x.ty, List.replicate 16 (List.replicate 192 0)⟩
    | none => ⟨x.ty, List.replicate 16 (List.replicate 192 0)⟩
  { t with alatch := some ⟨x.ty, mapFrom (fun i row =>
      overwrite row (2 * e * x.slot.val) (packElems e ((upFrom 0 16).map fun j => conv (nth 0 z (16 * i + j))))) 0 old.rows⟩ }

/-- MLOAD performed (R230). -/
def State.performLoad (s : State) (core : Nat) (t : Team) (x : OpDrn) (d : TileDesc) : State :=
  match t.handle x.h.val with
  | none => s
  | some h =>
    s.setAcc core x.z.val (((upFrom 0 16).map fun i =>
      (upFrom 0 16).map fun j => BitVec.ofNat 32 (s.num (h.at core (64 + i * d.pitch + 4 * j)) 4)).flatten)

/-- The elements of PADD encoded at the lowest exponent from E on at which none overflows, 254 at the latest (R232). -/
def padEncode (vs : List Num) (mu : Nat) : Nat → Nat → Block × Nat
  | 0, e => (⟨e, mu, List.replicate 16 0⟩, 0)
  | n + 1, e =>
    let enc := mapFrom (fun i v =>
      match v with
      | .fin s m x => encodeElem s m x ((e : Int) - 127 - (b2n (bit mu (i / 2)) : Int))
      | .nan _ => (0, false)
      | .inf _ => (0, false)) 0 vs
    let sat := (enc.filter (·.2)).length
    if sat == 0 then (⟨e, mu, enc.map (·.1)⟩, 0)
    else if e == 254 then (⟨e, mu, enc.map (·.1)⟩, sat)
    else padEncode vs mu n (e + 1)

/-- PADD on one block line (R232): the block written, none for a NaN block, which stays, and what SATCNT rises by. -/
def padBlock (b : Block) (a : Word) (zs : List Word) : Option Block × Nat :=
  if b.e == 0xFF then (none, 0)
  else if !(f32v a.toNat).isFin || zs.any fun z => !(f32v z.toNat).isFin then (some ⟨0xFF, 0, List.replicate 16 0⟩, 1)
  else
    let vs := mapFrom (fun i (z : Word) => numAdd (readElem b i 4 false).1 (numMul (f32v a.toNat) (f32v z.toNat))) 0 zs
    let (x, n) := padEncode vs b.mu 256 b.e
    (some x, n)

/-- PADD performed (R232). -/
def State.performPadd (s : State) (core : Nat) (t : Team) (x : OpPAdd) (a : Word) (d : TileDesc) : State :=
  match t.handle x.h.val with
  | none => s
  | some h =>
    let z := t.acc x.z.val
    (upFrom 0 16).foldl (fun (s : State) r =>
      let at_ := h.at core (64 + r * d.pitch)
      let old := Block.ofLine (s.read at_ 64)
      let (b, n) := padBlock old a ((z.drop (16 * r)).take 16)
      (match b with
        | none => s
        | some b => (s.unitStore at_ b.line).noteBy core (upFrom at_ 64)).modHandle core x.h.val fun h => h.count n) s

/-- PNORM on one block (R233): the block re-encoded, none where it stays unchanged. -/
def normBlock (b : Block) : Option Block :=
  if b.e == 0xFF then none
  else
    let xs := (upFrom 0 16).map fun i => (readElem b i 4 false).1
    let (m, e) := maxMag xs
    if m == 0 then none
    else
      let e' := min b.e (clampInt (expOf m e - 2 + 127) 1 254).toNat
      let mu := pairMu xs e'
      some ⟨e', mu, mapFrom (fun i v =>
        match v with
        | .fin s m x => (encodeElem s m x ((e' : Int) - 127 - (b2n (bit mu (i / 2)) : Int))).1
        | .nan _ => 0
        | .inf _ => 0) 0 xs⟩

/-- PNORM performed (R233): every line that it re-encodes is written, its reserved bytes zero (R24); one that the
rule calls unchanged is not. (DEDUCED, log 96.) -/
def State.performPnorm (s : State) (core : Nat) (t : Team) (x : OpPNorm) (d : TileDesc) : State :=
  match t.handle x.h.val with
  | none => s
  | some h =>
    (((upFrom 0 d.rows).map fun r => (upFrom 0 (d.k / 16)).map fun b => h.at core (64 + r * d.pitch + 64 * b)).flatten).foldl
      (fun (s : State) a =>
        match normBlock (Block.ofLine (s.read a 64)) with
        | none => s
        | some b => (s.unitStore a b.line).noteBy core (upFrom a 64)) s

/-- An entry performed (R226 to R233). -/
def State.performEntry (s : State) (core : Nat) (t : Team) (i : Instr) (rows : List Nat) (step : Word) (heads : List TileDesc) :
    State :=
  let d := nth ⟨0, 0, 0, 0, 0, 0⟩ heads
  match i with
  | .mma x => s.performProduct core t (mmaProduct x) (d 0) (d 1)
  | .mmag x => s.performProduct core t { mmaProduct x with ha := some x.ha.val, idx := some rows } (d 0) (d 1)
  | .mdrn x => s.performDrain core t x false
  | .mdrnb x => s.performDrain core t x true
  | .mdrnl x => s.modTeam core fun t => t.drainLatch x
  | .mzero x => s.setAcc core x.z.val (List.replicate 256 0)
  | .mload x => s.performLoad core t x (d 0)
  | .padd x => s.performPadd core t x step (d 0)
  | .pnorm x => s.performPnorm core t x (d 0)
  | _ => s

/-- The head entry taken out, and what waited for it: held follow-ons, QFENCEs. -/
def State.mqPop (s : State) (core : Nat) : State :=
  (s.modTeam core fun t => ({ t with mq := t.mq.drop 1 } : Team).releaseAll).settled core

/-- A follow-on that fails its check at the head (R242): discarded, and its copy's group halts; no lane raised the fault, and the
record's LANES are those that have not exited. (DEDUCED, log 19.) -/
def State.dropFollow (s : State) (core gi : Nat) (p : Place) (e : Cause) : State :=
  let s1 := s.mqPop core
  match s1.group core gi with
  | none => s1
  | some g =>
    if g.ended then s1
    else s1.haltGroup core gi ⟨e.kind, e.detail, e.extra, maskOf g.alive, 0, p.pc, 0, false, false, none⟩

/-- MATRIX_QUEUE_PERFORM (R231, R242): a marker at the head, or a follow-on whose handles are not readable, holds the
queue. (DEDUCED, log 41.) -/
def execMatrixQueuePerform (core : Nat) (s : State) : Res :=
  match s.team core with
  | none => .next s
  | some t =>
    if !s.enginesRun core t then .next s
    else
      match t.mq.head? with
      | some (.op i rows step g follow heads) =>
        match follow, i with
        | some p, .mma x =>
          let q := mmaProduct x
          match q.early t with
          | some e => .next (s.dropFollow core g p e)
          | none =>
            if !q.ready t then .next s
            else
              let (a, b) := s.productHeads core t q
              match q.late t a b with
              | some e => .next (s.dropFollow core g p e)
              | none => .next ((s.performEntry core t i rows step [a, b]).mqPop core)
        | _, _ => .next ((s.performEntry core t i rows step heads).mqPop core)
      | _ => .next s

end Sys2Proof.Machine
end

