-- ==== Sys2Proof/Machine/Task.lean ====
section
/-!
DEFINITION. Tasks and futures: QPOP, QSPAWN, QCLOSE, FREAD and FFILL (spec/14_cluster_instructions.md R271 to R283, R287).
-/
namespace Sys2Proof.Machine

/-- The lane that leaves the broadcast path with its wait (R272), or goes on. -/
def Lane.offPath (l : Lane) : Lane := if l.wait == .none then l else { l with latches := [], chain := 0 }

/-- QPOP (R275): where it releases a held task, the lane's logged accesses come first (R276). -/
def execQpop (x : OpQPop) (s : State) : Res :=
  taskUnit (.qpop x) s fun c s n l =>
    if l.task.hold && s.logged c.core c.gi n then (s, .stay)
    else
      match s.nameQueue c.core c.t.part x.vw.val (c.view x.vw.val) with
      | .bad e => (s, .fail e)
      | .wait s1 => (s1, .stay)
      | .ok no s1 =>
        let s2 := (s1.modLane c.core c.gi n fun _ => l).popLane c.core c.gi n no c.words x.vw.val x.d
        (s2, .away (((s2.group c.core c.gi).map fun g => (g.lane n).offPath).getD l))

/-- The entry that a lane offers (R274, R277). -/
def Lane.offer (l : Lane) (d : Fin 64) : List Word := (upFrom 0 8).map fun k => l.reg (d + Fin.ofNat 64 k)

/-- QSPAWN (R277). -/
def execQspawn (x : OpQSpawn) (s : State) : Res :=
  groupUnit (.qspawn x) s fun c s =>
    let offers := c.lanes.filter fun n => match x.sel with
      | none => true
      | some p => (c.g.lane n).p[p.val]
    if offers.any fun n => s.logged c.core c.gi n then .retry s
    else
      match s.nameQueue c.core c.t.part x.vw.val (c.view x.vw.val) with
      | .bad e => .fail e
      | .wait s1 => .retry s1
      | .ok no s1 =>
        let cl := clusterOfCore c.core
        match s1.qrec cl no with
        | none => .retry s
        | some r =>
          if !r.closed && offers.length ≤ r.free then
            let s2 := (s1.placeAll r r.tail (offers.map fun n => (c.g.lane n).offer x.d)).noteBy c.core
              ((upFrom 0 offers.length).flatMap fun k => upFrom (r.slotAt (r.tail + BitVec.ofNat 32 k)) 32)
            let k := BitVec.ofNat 32 offers.length
            let s3 := s2.modRec cl no fun q => { q with tail := q.tail + k, live := q.live + k }
            .go (s3.assign cl no) fun n l => if offers.contains n then (l.answer true).sided else l
          else .go s1 fun n l => if offers.contains n then l.answer false else l

/-- QCLOSE (R278). -/
def execQclose (x : OpQView) (s : State) : Res :=
  groupUnit (.qclose x) s fun c s =>
    if c.lanes.any fun n => s.logged c.core c.gi n then .retry s
    else
      match s.nameQueue c.core c.t.part x.vw.val (c.view x.vw.val) with
      | .bad e => .fail e
      | .wait s1 => .retry s1
      | .ok no s1 => .go (s1.closeQueue (clusterOfCore c.core) no) fun _ l => l.sided

/-- A future view of the team's cluster (R280). -/
def View.futureOk (v : View) (core : Nat) : Bool :=
  v.valid && v.rank == 1 && v.space == spVAULT && v.ty == tyFUTURE && bvFld v.base 32 7 / 16 == core % 384 / 64

/-- The flat address of the cell that a lane names (R280, R282). -/
def State.cellAt (s : State) (c : Ctx) (vw : Nat) (k : Access) (coord : Word) : Except Cause Nat :=
  let v := c.view vw
  if !v.futureOk c.core then .error (.view vw)
  else
    match v.resolve k [coord.toNat] 16 with
    | .ok off =>
      match s.sramAt c.core c.t v off with
      | none => .error (.view vw)
      | some a => if s.poisoned a 16 then .error (.dataError vw) else .ok a
    | _ => .error (.view vw)

/-- A lane that waits in FREAD goes on once its cell is FULL, whatever made it so (R262, R280); at a poisoned cell it issues the FREAD
again, which meets the error (R314). -/
def State.pollLane (s : State) (l : Lane) : Lane :=
  match l.wait with
  | .fread a _ _ =>
    if (s.fcell a).st != 1 then l
    else if s.poisoned a 16 then { l with wait := .none }
    else l.readCell a (s.fcell a).value
  | _ => l

/-- The cells that lanes wait for in FREAD. -/
def State.cellsAwaited (s : State) : List Nat :=
  s.cores.flatMap fun c => if s.runs c.id then
      ((c.team.map (·.groups)).getD []).flatMap fun g => g.lanes.filterMap fun (l : Lane) => match l.wait with
        | .fread a _ _ => some a
        | _ => none
    else []

/-- The waits for cells that have become FULL end; a cell in the storage of a bound region reads as a free value (R295). -/
def State.pollCells (s : State) : State :=
  let s := s.cellsAwaited.foldl (fun (s : State) a => s.strayBytes a 16) s
  { s with cores := s.cores.map fun c =>
      if s.runs c.id then
        { c with team := c.team.map fun t =>
            { t with groups := t.groups.map fun g => { g with lanes := g.lanes.map s.pollLane } } }
      else c }

/-- FREAD (R280, R281). A lane that waits for space issues it again in turn, which counts as an issue of R93 (DEDUCED, log 13). -/
def execFread (x : OpFut) (s : State) : Res :=
  taskUnit (.fread x) s fun c s _ l =>
    let vw := x.vw.val
    match s.cellAt c vw .load (l.reg x.d) with
    | .error e => (s, .fail e)
    | .ok a =>
      let s := s.strayBytes a 16
      let cell := s.fcell a
      if !s.firewall c.t.part a then (s.freezeCore c.core c.t.part a, .stay)
      else if 2 ≤ cell.st then (s, .fail (.future vw))
      else if cell.st == 1 then (s, .go (l.setPair x.d cell.value))
      else if !l.task.hold then (s, .away { l with wait := .fread a c.words x.d, latches := [], chain := 0 })
      else if l.task.side then (s, .fail (.lateFuture vw))
      else
        match s.squash (clusterOfCore c.core) a vw l.task.entry with
        | .bad e s1 => (s1, .fail e)
        | .wait => (s, .away l)
        | .done s1 => (s1.moved, .away l.squashed)

/-- FFILL (R282): a release, so the lane's logged accesses come first (R283). -/
def execFfill (x : OpFut) (s : State) : Res :=
  taskUnit (.ffill x) s fun c s n l =>
    let vw := x.vw.val
    if s.logged c.core c.gi n then (s, .stay)
    else
      match s.cellAt c vw .store (l.reg (x.d + 2)) with
      | .error e => (s, .fail e)
      | .ok a =>
        if !s.firewall c.t.part a then (s.freezeCore c.core c.t.part a, .stay)
        else
        match (s.strayBytes a 16).fill (clusterOfCore c.core) a vw (l.pair x.d) with
        | .bad e s1 => (s1, .fail e)
        | .wait => (s, .stay)
        | .done s1 => ((s1.strayBytes a 16).noteBy c.core (upFrom a 8), .go l.sided)

end Sys2Proof.Machine
end

