-- ==== Sys2Proof/Machine/Dispatch.lean ====
section
/-!
DEFINITION. Which meaning each instruction has: one arm per constructor, each one call of its meaning.
-/
namespace Sys2Proof.Machine

def exec (i : Instr) (s : State) : Host.Outcome State Fault Refusal :=
  match i with
  | .iadd x => Sys2Proof.Machine.execIadd x s
  | .isub x => Sys2Proof.Machine.execIsub x s
  | .iadds x => Sys2Proof.Machine.execIadds x s
  | .isubs x => Sys2Proof.Machine.execIsubs x s
  | .uadds x => Sys2Proof.Machine.execUadds x s
  | .usubs x => Sys2Proof.Machine.execUsubs x s
  | .iabsd x => Sys2Proof.Machine.execIabsd x s
  | .uavg x => Sys2Proof.Machine.execUavg x s
  | .add64 x => Sys2Proof.Machine.execAdd64 x s
  | .sub64 x => Sys2Proof.Machine.execSub64 x s
  | .mul64 x => Sys2Proof.Machine.execMul64 x s
  | .shl64 x => Sys2Proof.Machine.execShl64 x s
  | .imul x => Sys2Proof.Machine.execImul x s
  | .imulhi x => Sys2Proof.Machine.execImulhi x s
  | .umulhi x => Sys2Proof.Machine.execUmulhi x s
  | .imad x => Sys2Proof.Machine.execImad x s
  | .idiv x => Sys2Proof.Machine.execIdiv x s
  | .udiv x => Sys2Proof.Machine.execUdiv x s
  | .irem x => Sys2Proof.Machine.execIrem x s
  | .urem x => Sys2Proof.Machine.execUrem x s
  | .and x => Sys2Proof.Machine.execAnd x s
  | .or x => Sys2Proof.Machine.execOr x s
  | .xor x => Sys2Proof.Machine.execXor x s
  | .andn x => Sys2Proof.Machine.execAndn x s
  | .shl x => Sys2Proof.Machine.execShl x s
  | .shr x => Sys2Proof.Machine.execShr x s
  | .sar x => Sys2Proof.Machine.execSar x s
  | .rotl x => Sys2Proof.Machine.execRotl x s
  | .imin x => Sys2Proof.Machine.execImin x s
  | .imax x => Sys2Proof.Machine.execImax x s
  | .umin x => Sys2Proof.Machine.execUmin x s
  | .umax x => Sys2Proof.Machine.execUmax x s
  | .mov x => Sys2Proof.Machine.execMov x s
  | .not x => Sys2Proof.Machine.execNot x s
  | .neg x => Sys2Proof.Machine.execNeg x s
  | .iabs x => Sys2Proof.Machine.execIabs x s
  | .popc x => Sys2Proof.Machine.execPopc x s
  | .clz x => Sys2Proof.Machine.execClz x s
  | .ctz x => Sys2Proof.Machine.execCtz x s
  | .brev x => Sys2Proof.Machine.execBrev x s
  | .bswap x => Sys2Proof.Machine.execBswap x s
  | .sext8 x => Sys2Proof.Machine.execSext8 x s
  | .sext16 x => Sys2Proof.Machine.execSext16 x s
  | .zext8 x => Sys2Proof.Machine.execZext8 x s
  | .zext16 x => Sys2Proof.Machine.execZext16 x s
  | .bfxz x => Sys2Proof.Machine.execBfxz x s
  | .bfxs x => Sys2Proof.Machine.execBfxs x s
  | .bfi x => Sys2Proof.Machine.execBfi x s
  | .fshl x => Sys2Proof.Machine.execFshl x s
  | .sel x => Sys2Proof.Machine.execSel x s
  | .shfli x => Sys2Proof.Machine.execShfli x s
  | .shflu x => Sys2Proof.Machine.execShflu x s
  | .shfld x => Sys2Proof.Machine.execShfld x s
  | .shflx x => Sys2Proof.Machine.execShflx x s
  | .sadd x => Sys2Proof.Machine.execSadd x s
  | .ssub x => Sys2Proof.Machine.execSsub x s
  | .smul x => Sys2Proof.Machine.execSmul x s
  | .smin x => Sys2Proof.Machine.execSmin x s
  | .sand x => Sys2Proof.Machine.execSand x s
  | .sor x => Sys2Proof.Machine.execSor x s
  | .sxor x => Sys2Proof.Machine.execSxor x s
  | .sshl x => Sys2Proof.Machine.execSshl x s
  | .smov x => Sys2Proof.Machine.execSmov x s
  | .snot x => Sys2Proof.Machine.execSnot x s
  | .sneg x => Sys2Proof.Machine.execSneg x s
  | .spopc x => Sys2Proof.Machine.execSpopc x s
  | .sclz x => Sys2Proof.Machine.execSclz x s
  | .sshr x => Sys2Proof.Machine.execSshr x s
  | .saddi x => Sys2Proof.Machine.execSaddi x s
  | .iaddi x => Sys2Proof.Machine.execIaddi x s
  | .movi x => Sys2Proof.Machine.execMovi x s
  | .andi x => Sys2Proof.Machine.execAndi x s
  | .ori x => Sys2Proof.Machine.execOri x s
  | .xori x => Sys2Proof.Machine.execXori x s
  | .shli x => Sys2Proof.Machine.execShli x s
  | .shri x => Sys2Proof.Machine.execShri x s
  | .sari x => Sys2Proof.Machine.execSari x s
  | .imuli x => Sys2Proof.Machine.execImuli x s
  | .fadd x => Sys2Proof.Machine.execFadd x s
  | .fsub x => Sys2Proof.Machine.execFsub x s
  | .fmul x => Sys2Proof.Machine.execFmul x s
  | .ffma x => Sys2Proof.Machine.execFfma x s
  | .fmin x => Sys2Proof.Machine.execFmin x s
  | .fmax x => Sys2Proof.Machine.execFmax x s
  | .fabs x => Sys2Proof.Machine.execFabs x s
  | .fneg x => Sys2Proof.Machine.execFneg x s
  | .fsqrt x => Sys2Proof.Machine.execFsqrt x s
  | .frcp x => Sys2Proof.Machine.execFrcp x s
  | .frsq x => Sys2Proof.Machine.execFrsq x s
  | .fexp2 x => Sys2Proof.Machine.execFexp2 x s
  | .flog2 x => Sys2Proof.Machine.execFlog2 x s
  | .ffloor x => Sys2Proof.Machine.execFfloor x s
  | .fceil x => Sys2Proof.Machine.execFceil x s
  | .ftrunc x => Sys2Proof.Machine.execFtrunc x s
  | .frint x => Sys2Proof.Machine.execFrint x s
  | .fclass x => Sys2Proof.Machine.execFclass x s
  | .cvtF32S32 x => Sys2Proof.Machine.execCvtF32S32 x s
  | .cvtF32N32 x => Sys2Proof.Machine.execCvtF32N32 x s
  | .cvtS32F32 x => Sys2Proof.Machine.execCvtS32F32 x s
  | .cvtN32F32 x => Sys2Proof.Machine.execCvtN32F32 x s
  | .cvtBf16F32 x => Sys2Proof.Machine.execCvtBf16F32 x s
  | .cvtF32Bf16 x => Sys2Proof.Machine.execCvtF32Bf16 x s
  | .cvtE4m3F32 x => Sys2Proof.Machine.execCvtE4m3F32 x s
  | .cvtE5m2F32 x => Sys2Proof.Machine.execCvtE5m2F32 x s
  | .cvtF32E4m3 x => Sys2Proof.Machine.execCvtF32E4m3 x s
  | .cvtF32E5m2 x => Sys2Proof.Machine.execCvtF32E5m2 x s
  | .cvtE4m3E2m1 x => Sys2Proof.Machine.execCvtE4m3E2m1 x s
  | .cvtE4m3E3m2 x => Sys2Proof.Machine.execCvtE4m3E3m2 x s
  | .cvtE4m3E2m3 x => Sys2Proof.Machine.execCvtE4m3E2m3 x s
  | .cvtE4m3I4 x => Sys2Proof.Machine.execCvtE4m3I4 x s
  | .bfma2 x => Sys2Proof.Machine.execBfma2 x s
  | .bfadd2 x => Sys2Proof.Machine.execBfadd2 x s
  | .bfmul2 x => Sys2Proof.Machine.execBfmul2 x s
  | .plenc x => Sys2Proof.Machine.execPlenc x s
  | .plmax x => Sys2Proof.Machine.execPlmax x s
  | .pldec x => Sys2Proof.Machine.execPldec x s
  | .icmp x => Sys2Proof.Machine.execIcmp x s
  | .fcmp x => Sys2Proof.Machine.execFcmp x s
  | .plog x => Sys2Proof.Machine.execPlog x s
  | .vany x => Sys2Proof.Machine.execVany x s
  | .vall x => Sys2Proof.Machine.execVall x s
  | .vbal x => Sys2Proof.Machine.execVbal x s
  | .redadd x => Sys2Proof.Machine.execRedadd x s
  | .redmin x => Sys2Proof.Machine.execRedmin x s
  | .redmax x => Sys2Proof.Machine.execRedmax x s
  | .redfadd x => Sys2Proof.Machine.execRedfadd x s
  | .ptov x => Sys2Proof.Machine.execPtov x s
  | .vtop x => Sys2Proof.Machine.execVtop x s
  | .readl x => Sys2Proof.Machine.execReadl x s
  | .bra x => Sys2Proof.Machine.execBra x s
  | .call x => Sys2Proof.Machine.execCall x s
  | .jmpr x => Sys2Proof.Machine.execJmpr x s
  | .callr x => Sys2Proof.Machine.execCallr x s
  | .ret x => Sys2Proof.Machine.execRet x s
  | .rvz x => Sys2Proof.Machine.execRvz x s
  | .syncl x => Sys2Proof.Machine.execSyncl x s
  | .mbr x => Sys2Proof.Machine.execMbr x s
  | .dbnz x => Sys2Proof.Machine.execDbnz x s
  | .exit x => Sys2Proof.Machine.execExit x s
  | .trap x => Sys2Proof.Machine.execTrap x s
  | .brk x => Sys2Proof.Machine.execBrk x s
  | .nop x => Sys2Proof.Machine.execNop x s
  | .yield x => Sys2Proof.Machine.execYield x s
  | .sread x => Sys2Proof.Machine.execSread x s
  | .swrite x => Sys2Proof.Machine.execSwrite x s
  | .center x => Sys2Proof.Machine.execCenter x s
  | .sigf x => Sys2Proof.Machine.execSigf x s
  | .sigc x => Sys2Proof.Machine.execSigc x s
  | .sigz x => Sys2Proof.Machine.execSigz x s
  | .ld x => Sys2Proof.Machine.execLd x s
  | .st x => Sys2Proof.Machine.execSt x s
  | .lda x => Sys2Proof.Machine.execLda x s
  | .stl x => Sys2Proof.Machine.execStl x s
  | .atom x => Sys2Proof.Machine.execAtom x s
  | .atomx x => Sys2Proof.Machine.execAtomx x s
  | .pld x => Sys2Proof.Machine.execPld x s
  | .vnarrow x => Sys2Proof.Machine.execVnarrow x s
  | .vqry x => Sys2Proof.Machine.execVqry x s
  | .vdrop x => Sys2Proof.Machine.execVdrop x s
  | .mapr x => Sys2Proof.Machine.execMapr x s
  | .unmapr x => Sys2Proof.Machine.execUnmapr x s
  | .flushr x => Sys2Proof.Machine.execFlushr x s
  | .invr x => Sys2Proof.Machine.execInvr x s
  | .fence x => Sys2Proof.Machine.execFence x s
  | .qfence x => Sys2Proof.Machine.execQfence x s
  | .csync x => Sys2Proof.Machine.execCsync x s
  | .barg x => Sys2Proof.Machine.execBarg x s
  | .bart x => Sys2Proof.Machine.execBart x s
  | .barc x => Sys2Proof.Machine.execBarc x s
  | .hbind x => Sys2Proof.Machine.execHbind x s
  | .harm x => Sys2Proof.Machine.execHarm x s
  | .hseal x => Sys2Proof.Machine.execHseal x s
  | .hwait x => Sys2Proof.Machine.execHwait x s
  | .htake x => Sys2Proof.Machine.execHtake x s
  | .hfree x => Sys2Proof.Machine.execHfree x s
  | .hqry x => Sys2Proof.Machine.execHqry x s
  | .mma x => Sys2Proof.Machine.execMma x s
  | .mmag x => Sys2Proof.Machine.execMmag x s
  | .mdrn x => Sys2Proof.Machine.execMdrn x s
  | .mdrnb x => Sys2Proof.Machine.execMdrnb x s
  | .mdrnl x => Sys2Proof.Machine.execMdrnl x s
  | .mzero x => Sys2Proof.Machine.execMzero x s
  | .mload x => Sys2Proof.Machine.execMload x s
  | .padd x => Sys2Proof.Machine.execPadd x s
  | .pnorm x => Sys2Proof.Machine.execPnorm x s
  | .tilein x => Sys2Proof.Machine.execTilein x s
  | .tileout x => Sys2Proof.Machine.execTileout x s
  | .bcopy x => Sys2Proof.Machine.execBcopy x s
  | .qpop x => Sys2Proof.Machine.execQpop x s
  | .qspawn x => Sys2Proof.Machine.execQspawn x s
  | .qclose x => Sys2Proof.Machine.execQclose x s
  | .fread x => Sys2Proof.Machine.execFread x s
  | .ffill x => Sys2Proof.Machine.execFfill x s
  | .trig => Sys2Proof.Machine.execTrig s
  | .slotq x => Sys2Proof.Machine.execSlotq x s
  | .featq x => Sys2Proof.Machine.execFeatq x s
  | .himm imm => Sys2Proof.Machine.execHimm imm s
  | .hbt x => Sys2Proof.Machine.execHbt x s
  | .hord x => Sys2Proof.Machine.execHord x s
  | .hsch n => Sys2Proof.Machine.execHsch n s
  | .hgath sel => Sys2Proof.Machine.execHgath sel s
  | .broadcastPcTimeout core group => Sys2Proof.Machine.execBroadcastPcTimeout core group s
  | .rvzBoundExpire core group => Sys2Proof.Machine.execRvzBoundExpire core group s
  | .yieldExpire core group => Sys2Proof.Machine.execYieldExpire core group s
  | .hschRunEnd core group => Sys2Proof.Machine.execHschRunEnd core group s
  | .codeFetchFill core line => Sys2Proof.Machine.execCodeFetchFill core line s
  | .mappedFillComplete core region slot => Sys2Proof.Machine.execMappedFillComplete core region slot s
  | .mappedWriteBack core region slot => Sys2Proof.Machine.execMappedWriteBack core region slot s
  | .tileCopyEnqueue core group => Sys2Proof.Machine.execTileCopyEnqueue core group s
  | .tileGranuleLand core => Sys2Proof.Machine.execTileGranuleLand core s
  | .followOnRelease core => Sys2Proof.Machine.execFollowOnRelease core s
  | .mcastHopArrival core => Sys2Proof.Machine.execMcastHopArrival core s
  | .tileoutGranule core => Sys2Proof.Machine.execTileoutGranule core s
  | .matrixQueuePerform core => Sys2Proof.Machine.execMatrixQueuePerform core s
  | .bcopyEnqueue core group => Sys2Proof.Machine.execBcopyEnqueue core group s
  | .bulkGranule die engine queue => Sys2Proof.Machine.execBulkGranule die engine queue s
  | .barrierEpisodeComplete core cell => Sys2Proof.Machine.execBarrierEpisodeComplete core cell s
  | .watchdogExpire core => Sys2Proof.Machine.execWatchdogExpire core s
  | .frameStart => Sys2Proof.Machine.execFrameStart s
  | .slotGuardOpen => Sys2Proof.Machine.execSlotGuardOpen s
  | .slotStart => Sys2Proof.Machine.execSlotStart s
  | .slotExtended steps => Sys2Proof.Machine.execSlotExtended steps s
  | .slotEnd => Sys2Proof.Machine.execSlotEnd s
  | .selfTestVerdict die verdict => Sys2Proof.Machine.execSelfTestVerdict die verdict s
  | .integritySweepVisit part line => Sys2Proof.Machine.execIntegritySweepVisit part line s
  | .integrityPeriodEnd part => Sys2Proof.Machine.execIntegrityPeriodEnd part s
  | .ballastWindow sheaf issued => Sys2Proof.Machine.execBallastWindow sheaf issued s
  | .thermalEvent sheaf budget => Sys2Proof.Machine.execThermalEvent sheaf budget s
  | .readGrantBudget sheaf budget => Sys2Proof.Machine.execReadGrantBudget sheaf budget s
  | .poolWrite part sheaf cls => Sys2Proof.Machine.execPoolWrite part sheaf cls s
  | .launchCommit part slot record => Sys2Proof.Machine.execLaunchCommit part slot record s
  | .recordCopy part => Sys2Proof.Machine.execRecordCopy part s
  | .teamPlace part => Sys2Proof.Machine.execTeamPlace part s
  | .scratchpadImageCopy core => Sys2Proof.Machine.execScratchpadImageCopy core s
  | .teamEnd core => Sys2Proof.Machine.execTeamEnd core s
  | .preempt part seq => Sys2Proof.Machine.execPreempt part seq s
  | .contextSaveComplete part => Sys2Proof.Machine.execContextSaveComplete part s
  | .restore part seq => Sys2Proof.Machine.execRestore part seq s
  | .kill part seq => Sys2Proof.Machine.execKill part seq s
  | .xactRetry part stamp => Sys2Proof.Machine.execXactRetry part stamp s
  | .xactFail part stamp => Sys2Proof.Machine.execXactFail part stamp s
  | .xinv part => Sys2Proof.Machine.execXinv part s
  | .xinvComplete part => Sys2Proof.Machine.execXinvComplete part s
  | .resume part slot => Sys2Proof.Machine.execResume part slot s
  | .skip part slot => Sys2Proof.Machine.execSkip part slot s
  | .haltKill part slot => Sys2Proof.Machine.execHaltKill part slot s
  | .registerWrite part offset value => Sys2Proof.Machine.execRegisterWrite part offset value s
  | .partitionCreate cfg => Sys2Proof.Machine.execPartitionCreate cfg s
  | .partitionDestroy part => Sys2Proof.Machine.execPartitionDestroy part s
  | .sheavesWrite part sheaves => Sys2Proof.Machine.execSheavesWrite part sheaves s
  | .stage1Write part root => Sys2Proof.Machine.execStage1Write part root s
  | .rangesWrite part index entry => Sys2Proof.Machine.execRangesWrite part index entry s
  | .enginesWrite part engines => Sys2Proof.Machine.execEnginesWrite part engines s
  | .coreRelease core => Sys2Proof.Machine.execCoreRelease core s
  | .engineRelease die engine => Sys2Proof.Machine.execEngineRelease die engine s
  | .tenantTableWrite index entry => Sys2Proof.Machine.execTenantTableWrite index entry s
  | .measurementExtend index digest => Sys2Proof.Machine.execMeasurementExtend index digest s
  | .reset => Sys2Proof.Machine.execReset s
  | .functionReady register bitNo => Sys2Proof.Machine.execFunctionReady register bitNo s
  | .dieUnreachable die => Sys2Proof.Machine.execDieUnreachable die s
  | .inboundApertureAccess part offset access => Sys2Proof.Machine.execInboundApertureAccess part offset access s
  | .vaultApertureAccess part offset access => Sys2Proof.Machine.execVaultApertureAccess part offset access s
  | .cxlMemAccess part address access => Sys2Proof.Machine.execCxlMemAccess part address access s
  | .query part => Sys2Proof.Machine.execQuery part s
  | .keyProg part keySet => Sys2Proof.Machine.execKeyProg part keySet s
  | .kSetGo part keySet => Sys2Proof.Machine.execKSetGo part keySet s
  | .kSetStop part keySet => Sys2Proof.Machine.execKSetStop part keySet s
  | .getTdispVersion part => Sys2Proof.Machine.execGetTdispVersion part s
  | .getTdispCapabilities part => Sys2Proof.Machine.execGetTdispCapabilities part s
  | .lockInterfaceRequest part via => Sys2Proof.Machine.execLockInterfaceRequest part via s
  | .getDeviceInterfaceReport part => Sys2Proof.Machine.execGetDeviceInterfaceReport part s
  | .getDeviceInterfaceState part => Sys2Proof.Machine.execGetDeviceInterfaceState part s
  | .startInterfaceRequest part => Sys2Proof.Machine.execStartInterfaceRequest part s
  | .stopInterfaceRequest part => Sys2Proof.Machine.execStopInterfaceRequest part s
  | .getVersion via => Sys2Proof.Machine.execGetVersion via s
  | .getCapabilities via => Sys2Proof.Machine.execGetCapabilities via s
  | .negotiateAlgorithms via => Sys2Proof.Machine.execNegotiateAlgorithms via s
  | .getDigests via => Sys2Proof.Machine.execGetDigests via s
  | .getCertificate via => Sys2Proof.Machine.execGetCertificate via s
  | .challenge via => Sys2Proof.Machine.execChallenge via s
  | .getMeasurements via => Sys2Proof.Machine.execGetMeasurements via s
  | .keyExchange via stream => Sys2Proof.Machine.execKeyExchange via stream s
  | .finish via => Sys2Proof.Machine.execFinish via s
  | .spdmUnsupported via => Sys2Proof.Machine.execSpdmUnsupported via s
  | .write f va mask bytes => Sys2Proof.Machine.execWrite f va mask bytes s
  | .read f va count => Sys2Proof.Machine.execRead f va count s
  | .readResponse f bytes => Sys2Proof.Machine.execReadResponse f bytes s
  | .atomic f va major mod order operands => Sys2Proof.Machine.execAtomic f va major mod order operands s
  | .atomicResponse f old => Sys2Proof.Machine.execAtomicResponse f old s
  | .ack f tags => Sys2Proof.Machine.execAck f tags s
  | .launch f target record => Sys2Proof.Machine.execLaunch f target record s
  | .launchResult f verdict => Sys2Proof.Machine.execLaunchResult f verdict s
  | .capability f package stook timeMaster => Sys2Proof.Machine.execCapability f package stook timeMaster s
  | .time f time => Sys2Proof.Machine.execTime f time s
  | .flitNop f => Sys2Proof.Machine.execFlitNop f s
  | .flitUnlisted f type => Sys2Proof.Machine.execFlitUnlisted f type s
  | .linkTrained port peer => Sys2Proof.Machine.execLinkTrained port peer s
  | .linkDown port => Sys2Proof.Machine.execLinkDown port s
  | .streamMove part package => Sys2Proof.Machine.execStreamMove part package s
  | .fqconsWrite part value => Sys2Proof.Machine.execFqconsWrite part value s
  | .energyLoRead agent => Sys2Proof.Machine.execEnergyLoRead agent s
  | .hostReadCompletion tag bytes poison => Sys2Proof.Machine.execHostReadCompletion tag bytes poison s
  | .laneFails port => Sys2Proof.Machine.execLaneFails port s

end Sys2Proof.Machine
end

