-- ==== Sys2Proof/Machine/Schedule.lean ====
section
/-!
DEFINITION. What one step does (DESIGN CHOICE, log 2): the moves to come are taken first; with none left, units issue and the machine's other
work goes on in turn. The fetch and the issue of a unit (spec/02 R56; spec/04 R90 to R92; spec/08 R170, R171), and how an
instruction is placed at the fetch of a machine (DESIGN CHOICE, log 5).
-/
namespace Sys2Proof.Machine

/-- The outcome with its next state changed. -/
def Res.map (f : State → State) (r : Res) : Res :=
  match r with
  | .next s => .next (f s)
  | .fault e => .fault e
  | .refused e => .refused e

/-- The outcome of one meaning followed by another. -/
def Res.andThen (r : Res) (f : State → Res) : Res :=
  match r with
  | .next s => f s
  | .fault e => .fault e
  | .refused e => .refused e

/-! ## Issue -/

/-- The hints of a unit read one after another, then its instruction executed (R56), and what it wrote no longer poisoned (R314); a unit with a reserved word is
reserved (R70). -/
def runUnit (u : CodeUnit) (s : State) : Res :=
  match u.main with
  | none => reservedUnit s
  | some i =>
    if u.hints.any Option.isNone then reservedUnit s
    else
      Res.map (fun t => match s.issue, s.context with
          | some u, some c => t.rewritten i u.core u.group u.lanes c.g
          | _, _ => t)
        (Res.andThen ((u.hints.filterMap id).foldl (fun (r : Res) h => Res.andThen r (exec h)) (.next s)) (exec i))

/-- A unit taken in hand: its group's wait is over. -/
def State.take (s : State) (core gi : Nat) (lanes : List Nat) (p : Place) (words : Nat) (alone : Bool) : State :=
  { s.modGroup core gi fun g => { g.refreshBroadcast with wait := if alone then g.wait else .none } with
    issue := some ⟨core, gi, lanes, p, words, [], alone⟩ }

/-- A unit that reaches beyond its code view (R106, R187): a code-bounds fault. -/
def boundsUnit (s : State) : Res := localUnit (.mov ⟨.always, false, 0, .zero⟩) s fun _ _ _ => .fail .codeBounds

/-- Lanes wait for a line of code, which is then fetched (R300). -/
def State.awaitLine (s : State) (core gi line : Nat) (lanes : List Nat) : State :=
  (s.modGroup core gi fun g =>
    { g.refreshBroadcast with
      lanes := mapFrom (fun n (l : Lane) => if lanes.contains n then { l with wait := .code line } else l) 0
        g.refreshBroadcast.lanes }).fetchCode core line

/-- The place at which a group's cohort issues (R93). -/
def State.frontPlace (s : State) (core gi : Nat) : Place :=
  ((s.group core gi).map fun g => g.refreshBroadcast.place).getD ⟨false, 0⟩

/-- The broadcast path of a group takes its turn. -/
def unitTurn (core gi : Nat) (s : State) : Res :=
  match s.front core gi with
  | .idle => .next s
  | .miss line lanes => .next (s.awaitLine core gi line lanes)
  | .bounds words lanes => boundsUnit (s.take core gi lanes (s.frontPlace core gi) words false)
  | .issue u lanes => runUnit u (s.take core gi lanes (s.frontPlace core gi) u.words false)

/-- A lane's first word as a virtual address (R300). -/
def State.laneVa (s : State) (core : Nat) (l : Lane) : Nat :=
  match s.team core with
  | none => 0
  | some t => (codeWindow t (s.recordOf t) l.inside.isSome [l.limit]).1 + 4 * l.pc.toNat

/-- A diverged lane takes its turn (R91, R92). -/
def laneTurn (core gi n : Nat) (s : State) : Res :=
  match s.group core gi with
  | none => .next s
  | some g =>
    let l := g.lane n
    match s.alone core gi n with
    | .idle => .next s
    | .hold => .next (s.modLane core gi n fun l => { l with wait := .held })
    | .miss line => .next (s.awaitLine core gi line [n])
    | .bounds words => boundsUnit (s.take core gi [n] l.place words true)
    | .issue u =>
      let s1 := s.modLane core gi n fun l => l.looped (s.core core).fetch (s.laneVa core l) u.words
      runUnit u (s1.take core gi [n] l.place u.words true)

/-! ## Moves to come -/

/-- One move. An instruction of a thread is no event: it issues only by fetch. -/
def runTurn (t : Turn) (s : State) : Res :=
  match t with
  | .unit core gi => unitTurn core gi s
  | .lane core gi n => laneTurn core gi n s
  | .event e => if (encode e).isSome then .next s else exec e s
  | .wait ns => .next (s.pass ns)
  | .page offset => .next (s.pageRead offset)
  | .vfPage part offset => .next (s.vfRead part offset)
  | .flaw a corrected => .next (s.flaw a corrected)
  | .linkFlaw a corrected => .next (s.linkFlaw a corrected)
  | .regFlaw core gi n r corrected => .next (s.regFlaw core gi n r corrected)

/-! ## What is done by default -/

/-- The calendar's next event (R344). -/
def State.calendarEvent (s : State) : Instr :=
  match s.phase with
  | .slot => .slotEnd
  | .running => .slotGuardOpen
  | .guard => .frameStart
  | .starting => .slotStart

/-- The events of one group. -/
def groupEvents (core gi : Nat) (g : Group) : List Instr :=
  (match g.wait with
    | .copy _ _ => [.tileCopyEnqueue core gi]
    | .bulk _ _ _ _ => [.bcopyEnqueue core gi]
    | _ => [])
  ++ (if g.heldLong then [.broadcastPcTimeout core gi] else [])
  ++ g.lanes.filterMap fun l => match l.wait with
    | .code line => some (.codeFetchFill core line)
    | _ => none

/-- The events of one mapped region: its fills. -/
def regionEvents (core : Nat) (r : Region) : List Instr :=
  (placesFrom (fun _ (x : Slot) => x.filling.isSome) 0 r.slots).map fun k => .mappedFillComplete core r.id k

/-- The events of one core (R170, R189, R231, R240 to R243, R255, R293, R324, R326). -/
def coreEvents (c : Core) : List Instr :=
  match c.team with
  | none => []
  | some t =>
    (mapFrom (fun gi g => groupEvents c.id gi g) 0 t.groups).flatten
    ++ (t.regions.map (regionEvents c.id)).flatten
    ++ (if t.inq.isEmpty then [] else [.tileGranuleLand c.id])
    ++ [.mcastHopArrival c.id]
    ++ (if t.outq.isEmpty then [] else [.tileoutGranule c.id])
    ++ (if t.mq.isEmpty then [] else [.matrixQueuePerform c.id])
    ++ (if t.follows.isEmpty then [] else [.followOnRelease c.id])
    ++ (match t.barcIn with
        | some k => [.barrierEpisodeComplete c.id (Fin.ofNat 8 k)]
        | none => [])
    ++ (if t.watchdog == 0 then [.watchdogExpire c.id] else [])
    ++ (match t.phase with
        | .image _ => [.scratchpadImageCopy c.id]
        | .ending _ => [.teamEnd c.id]
        | .runs => []
        | .queue => []
        | .finished => [])

/-- The events of a bulk engine (R306). -/
def engineEvents (e : Engine) : List Instr :=
  (placesFrom (fun _ (q : List CopyEntry) => !q.isEmpty) 0 e.queues).map fun q =>
    .bulkGranule e.die (Fin.ofNat 8 e.id) (Fin.ofNat 8 q)

/-- The events of a partition (R303, R323, R325, R331). -/
def partEvents (p : Part) : List Instr :=
  let n := Fin.ofNat 96 p.id
  [.recordCopy n, .teamPlace n, .contextSaveComplete n, .xinvComplete n]

/-- The answer that an outstanding request gets by default: the bytes of the model's memory; none on a stream with a key, whose
sealed flits only the peer makes (DESIGN CHOICE, log 2). -/
def answerRequest (r : Request) (s : State) : Res :=
  if r.toHost then execHostReadCompletion r.tag [] false s
  else
    let port : Fin 12 := Fin.ofNat 12 ((s.portFor r.pkg.toNat).getD 0)
    let f : Flit := ⟨port, r.pkg, 0, 0, r.tag, false, false, 0⟩
    if ((s.inStream f).bind (·.key)).isSome then .next s
    else if r.isWrite then execAck f [r.tag] s
    else if r.atomic then
      execAtomicResponse f (BitVec.ofNat 64 (2 ^ (8 * (r.addrs.headD 0 % 4)) * ofBytes (r.addrs.map s.mem.get))) s
    else execReadResponse f [] s

/-- The move of an outbound stream (R376). -/
def moveStream (x : Stream) : State → Res := execStreamMove (Fin.ofNat 96 x.part) x.pkg

/-- Everything that the machine's units other than the issue units may do, in turning order. -/
def State.candidates (s : State) : List (State → Res) :=
  let all := ((s.cores.map coreEvents).flatten ++ (s.engines.map engineEvents).flatten
    ++ (s.parts.map partEvents).flatten).map exec
    ++ (s.streams.filter fun x => !x.inbound).map moveStream ++ s.requests.map answerRequest
  let k := s.progress % (all.length + 1)
  all.drop k ++ all.take k

/-- The first that moves something. -/
def firstMove (s : State) : List (State → Res) → Option Res
  | [] => none
  | e :: es =>
    match e s with
    | .next s1 => if s1.progress == s.progress then firstMove s es else some (.next s1)
    | .fault _ => firstMove s es
    | .refused _ => firstMove s es

/-- The bounds of RVZ and YIELD, which end a wait when nothing else can (R131, R134). -/
def State.boundEvents (s : State) : List Instr :=
  (s.cores.map fun c => match c.team with
    | none => []
    | some t => (mapFrom (fun gi (g : Group) =>
        (if g.rvz.isSome then [Instr.rvzBoundExpire c.id gi] else [])
        ++ (match g.wait with
            | .yielded _ => [Instr.yieldExpire c.id gi]
            | _ => [])) 0 t.groups).flatten).flatten

/-- The ready groups whose segments are free, with their run and ready age (R171). -/
def State.readyGroups (s : State) : List (Nat × Nat × Nat × Nat) :=
  (s.cores.map fun c => match c.team with
    | none => []
    | some t => (mapFrom (fun gi (g : Group) =>
        if s.front c.id gi == .idle then [] else [(c.id, gi, g.run, g.age.getD s.clock)]) 0 t.groups).flatten).flatten

/-- The group that issues: one whose run lasts, else the one with the oldest ready age (R171). -/
def bestGroup : List (Nat × Nat × Nat × Nat) → Option (Nat × Nat)
  | [] => none
  | x :: xs =>
    let b := xs.foldl (fun (b : Nat × Nat × Nat × Nat) y =>
      if (b.2.2.1 == 0 && y.2.2.1 != 0) || ((b.2.2.1 == 0) == (y.2.2.1 == 0) && y.2.2.2 < b.2.2.2) then y else b) x
    some (b.1, b.2.1)

/-- The diverged lanes that can act. -/
def State.laggards (s : State) : List (Nat × Nat × Nat) :=
  (s.cores.map fun c => match c.team with
    | none => []
    | some t => (mapFrom (fun gi (g : Group) =>
        (mapFrom (fun n (_ : Lane) => if s.alone c.id gi n == .idle then [] else [(c.id, gi, n)]) 0 g.lanes).flatten)
        0 t.groups).flatten).flatten

/-- An issue by default: diverged lanes and groups in turn. -/
def State.unitMove (s : State) : Option Turn :=
  let ls := s.laggards
  let lane := (ls[s.clock / 2 % (ls.length + 1)]?).or ls.head?
  match lane, bestGroup s.readyGroups with
  | some (c, g, n), some (d, h) => some (if s.clock % 2 == 0 then .lane c g n else .unit d h)
  | some (c, g, n), none => some (.lane c g n)
  | none, some (d, h) => some (.unit d h)
  | none, none => none

/-- What is done with no moves to come: the calendar's event that is due; otherwise, in turn, an issue and another event;
where neither can be, a bound of R131 or R134, or the calendar's next event. -/
def defaultMove (s : State) : Turn ⊕ Res :=
  if s.due then .inl (.event s.calendarEvent)
  else
    let other := fun (_ : Unit) => firstMove s s.candidates
    let last := fun (_ : Unit) =>
      match firstMove s (s.boundEvents.map exec) with
      | some r => Sum.inr r
      | none => Sum.inl (Turn.event s.calendarEvent)
    if s.flip then
      match other () with
      | some r => .inr r
      | none => match s.unitMove with
        | some t => .inl t
        | none => last ()
    else
      match s.unitMove with
      | some t => .inl t
      | none => match other () with
        | some r => .inr r
        | none => last ()

/-! ## The end of a step -/

/-- The ready ages after a step (R171): a group that has become ready since its last issue is as old as this moment, and one
that is not ready has none. Its run of HSCH is over where it is not ready, or another group has been ready for 128 cycles. -/
def State.aged (s : State) : State :=
  let age := fun (core : Nat) (t : Team) (gi : Nat) (g : Group) =>
    if s.groupReady core gi then
      { g with age := some (g.age.getD s.clock), run := if s.waitedLong t gi then 0 else g.run }
    else { g with age := none, run := 0 }
  { s with cores := s.cores.map fun (c : Core) =>
      { c with team := c.team.map fun (t : Team) => { t with groups := mapFrom (age c.id t) 0 t.groups } } }

/-- What every step adds: QFENCEs that nothing stands before any more end (R206), the waits for cells that were filled end (R280), what waits on a queue or a cell with an error halts (R269), ready ages go on (R171), 1 ns of package time passes,
and its energy is charged (R342, DESIGN CHOICE, log 4, log 7). -/
def State.afterStep (s : State) : State := (s.settleFences.pollCells.haltErrors.aged.pass 1).charge

/-- One move with what every step adds. -/
def stepTurn (t : Turn) (s : State) : Res := Res.map State.afterStep (runTurn t s)

/-- A step with no moves to come. -/
def stepDefault (s : State) : Res :=
  match defaultMove s with
  | .inl t => Res.map (fun s => { s with flip := !s.flip }) (stepTurn t s)
  | .inr r => Res.map (fun s => { s.afterStep with flip := !s.flip }) r

/-! ## Placing an instruction (DESIGN CHOICE, log 5) -/

/-- The code of a role (R177). -/
def roleCode : Option Role → Nat
  | some .copy => 0
  | some .matrix => 1
  | some .vector => 2
  | none => 2

/-- A launch record of one team with one group of eight threads of a role, its 16 words of code at address 0 (R320, R321). -/
def placedRecord (role : Nat) : LaunchBytes :=
  let put := fun (x off : Nat) => BitVec.ofNat 1024 x <<< (8 * off)
  put 1 0x00 ||| put 0x01010001 0x0C ||| put (0xF1000000 + role * 2 ^ 20) 0x10 ||| put 1 0x2E

/-- The line of code that holds an instruction's words, zeros after them. -/
def placedLine (w : Nat) : CodeLine := ⟨0, BitVec.ofNat 32 w :: List.replicate 15 0⟩

/-- The machine with partition 0 and its launch placed on core 0, the instruction in its code unit, about to issue. -/
def State.placed (s : State) (w : Nat) : State :=
  let r := placedRecord (roleCode ((decodeWord (w % 2 ^ 32)).bind Instr.role))
  let views := Vector.replicate 64 View.zero
  let l : Launch :=
    { record := r, life := .active, views := views, plan := [], map := [], trig := [], ended := [], placed := [0], lost := []
      killed := false, blocked := false }
  let p := { newPart ⟨0, 1, [], 0, [], 0, false, 1⟩ 0 0 with last := 1, consumed := 1, launches := [l] }
  let c : Core := { Core.idle 0 with team := some (newTeam r views [] 0 0), fetch := [placedLine w], user := some 0 }
  { s.bringUp with
    cores := putCore s.cores c, parts := p :: s.parts.filter (fun q => q.id != 0)
    turns := [.unit 0 0], issue := none }

end Sys2Proof.Machine
end

