-- ==== Sys2Proof/Safety.lean ====
section
/-!
DEFINITION. What counts as a safe run, in the terms that claims use: the machine goes on, its memory stays in canonical form,
and no unit is in hand between steps.
-/
namespace Sys2Proof.Machine

/-- A step answers a next state. -/
def State.goesOn (s : State) : Prop := ∃ t, step s = .next t

/-- A run of any length from a state stops neither with a fault nor with a refusal. -/
def State.safe (s : State) : Prop := ∀ k, ∃ t, Sys2Proof.core.run k s = .next t

/-- What every step keeps: memory lists rising addresses and no zero byte, and no unit is in hand between steps. -/
structure State.Inv (s : State) : Prop where
  mem  : s.mem.wf = true
  idle : s.issue = none

/-! ## The terms of the statements about one unit -/

/-- Lane `n` of group `gi` of the team on a core. -/
def State.laneAt (s : State) (core gi n : Nat) : Option Lane := (s.group core gi).bind fun g => g.lanes[n]?

/-- The group waits at no barrier of its team. -/
def Group.atNoBarrier (g : Group) : Bool :=
  match g.wait with
  | .bart _ => false
  | .barc _ _ => false
  | _ => true

/-- A unit is in hand, as `c` describes it, with each lane once; its group waits neither at RVZ (R131) nor at a barrier of its
team. -/
structure Issuing (s : State) (c : Ctx) : Prop where
  inHand : s.context = some c
  once   : c.lanes.Nodup
  noRvz  : c.g.rvz = none
  noBar  : c.g.atNoBarrier = true

/-- The lane as it executes `i`: past the checks of R106 with its words charged, its latch chain joined or begun (R55). -/
def Lane.started (l : Lane) (i : Instr) (c : Ctx) : Lane :=
  (({ l with wait := .none } : Lane).begin_ i c).1.chained (readsLatch i c)

/-- Lane `n` of the unit in hand stands as `l` and passes the checks of R106 and R70 for `i`. -/
structure Executes (s : State) (c : Ctx) (i : Instr) (n : Nat) (l : Lane) : Prop extends Issuing s c where
  among  : n ∈ c.lanes
  lane   : c.g.lanes[n]? = some l
  passes : (({ l with wait := .none } : Lane).begin_ i c).2 = none

/-- Every lane of the unit in hand passes the checks of R106 and R70 for `i`, the unit holds the whole group where `i` needs
that (R95), and the group's stage has the role that `i` needs (R177): the unit executes once for its group. -/
structure ExecutesOnce (s : State) (c : Ctx) (i : Instr) : Prop extends Issuing s c where
  passes : ∀ n ∈ c.lanes, (({ c.g.lane n with wait := .none } : Lane).begin_ i c).2 = none
  full   : i.needsFull = true → c.full = true
  role   : ∀ r, i.role = some r → r = c.g.role

/-- The group of the unit in hand, as a state has it. -/
def Ctx.groupIn (c : Ctx) (t : State) : Option Group := t.group c.core c.gi

/-- The lane of the unit in hand with number `n`, as a state has it. -/
def Ctx.laneIn (c : Ctx) (t : State) (n : Nat) : Option Lane := t.laneAt c.core c.gi n

/-- The lane past the unit in hand. -/
def Lane.past (l : Lane) (c : Ctx) : Lane := { l with pc := l.pc + BitVec.ofNat 32 c.words }

/-! ## The shapes of the statements about lane and scalar instructions -/

/-- `i` is a latch producer with guard `g`, W = `w` and destination `d`, whose result and flags are `f` (R53, R54, R108,
R116): wherever a lane executes it, the machine goes on; where the guard holds the lane writes the result to `d`, unless W
is set, and to b0, shifts its latches and sets the flags, or, contained and where the fault mask selects a flag, ends with the
outcome; where the guard is false the lane only shifts its latches, b0 taking the register's value. Nothing else of the lane
changes but its PC. `f` may read the other lanes of the unit as they stood at issue. -/
def ProducesIn (i : Instr) (g : Guard) (w : Bool) (d : Fin 64) (f : Ctx → Env → Lane → Word × Word) : Prop :=
  ∀ s c n l, Executes s c i n l →
    let y := l.started i c
    let r := f c (c.env n) y
    ∃ t, exec i s = .next t ∧ c.laneIn t n = some (
      if g.holds y then
        match y.raises (recFmask c.r) r.2 with
        | some e => y.deliver e.outcome
        | none => ({ y with
            v := if w then y.v else y.v.set (y.phys d).val r.1
            latches := (r.1 :: y.latches).take 4
            status := y.status ||| r.2 &&& 0xFF } : Lane).past c
      else ({ y with latches := (y.reg d :: y.latches).take 4 } : Lane).past c)

/-- The same of a result that reads nothing but its own lane and the group's scalars. -/
def Produces (i : Instr) (g : Guard) (w : Bool) (d : Fin 64) (f : Env → Lane → Word × Word) : Prop :=
  ProducesIn i g w d fun _ => f

/-- `i` is no producer and changes each executing lane by `f` where its guard holds: wherever a lane executes it, the machine
goes on with the lane so changed, or unchanged where the guard is false, past the unit. `f` may read the unit's other lanes
as they stood at issue. -/
def ChangesIn (i : Instr) (g : Guard) (f : Ctx → Env → Lane → Lane) : Prop :=
  ∀ s c n l, Executes s c i n l →
    ∃ t, exec i s = .next t ∧
      c.laneIn t n = some ((if g.holds (l.started i c) then f c (c.env n) (l.started i c) else l.started i c).past c)

/-- The same of a change that reads nothing but its own lane and the group's scalars. -/
def Changes (i : Instr) (g : Guard) (f : Env → Lane → Lane) : Prop := ChangesIn i g fun _ => f

/-- `i` transfers control in each executing lane: where its guard holds the lane, changed by `f`, goes to the word index `f`
gives, or past the unit where that is none; where the guard is false it goes past. The transfer ends the latch chain (R55). -/
def Transfers (i : Instr) (g : Guard) (f : Ctx → Env → Lane → Lane × Option Word) : Prop :=
  ∀ s c n l, Executes s c i n l →
    let y := l.started i c
    let r := if g.holds y then f c (c.env n) y else (y, none)
    ∃ t, exec i s = .next t ∧
      c.laneIn t n = some { r.1 with pc := r.2.getD (y.pc + BitVec.ofNat 32 c.words), chain := 0 }

/-- The lanes of the unit that contribute to a cohort result (R55, R215): those that pass the checks and whose guard holds,
as they stood at issue. -/
def Ctx.givers (c : Ctx) (i : Instr) (g : Guard) : List Nat :=
  c.lanes.filter fun m => ((c.g.lane m).begin_ i c).2.isNone && g.holds (c.g.lane m)

/-- A source as lane `m` of the unit read it at issue. -/
def Ctx.sees (c : Ctx) (a : Src) (m : Nat) : Word := readSrc (c.env m) (c.g.lane m) a

/-- `i` executes once for its group and writes scalar register `d` with `f` of the scalars and the hints (R125): the machine
goes on, that register alone of the group's scalars changes, and every lane of the unit goes past it unchanged. -/
def SetsScalar (i : Instr) (d : Fin 32) (f : Vector Word 32 → List Hint → Word) : Prop :=
  ∀ s c, ExecutesOnce s c i →
    ∃ t, exec i s = .next t ∧
      (∃ g, c.groupIn t = some g ∧ g.s = c.g.s.set d.val (f c.g.s c.hints)) ∧
      ∀ n ∈ c.lanes, ∀ l, c.g.lanes[n]? = some l →
        c.laneIn t n = some ((({ l with wait := .none } : Lane).chained (readsLatch i c)).past c)

/-! ## What a unit leaves as it was -/

/-- The part of a lane that no unit of another lane changes: its registers, predicates, flags, signatures, return stack, fuel,
latched halves, task and contained state. -/
def Lane.own (l : Lane) :=
  (l.v, l.p, l.status, l.h0, l.h1, l.stack, l.spill, l.fuel, l.fuelLeft, l.hi, l.task, l.inside)

/-- The unit in hand neither triggers its group nor ends it: the group has not triggered and a lane of it has not exited. So no
write-back and no trigger of the team follows the unit (R326, R329). -/
structure Ctx.Calm (c : Ctx) : Prop where
  untriggered : c.g.triggered = false
  alive       : ∃ (n : Nat) (l : Lane), c.g.lanes[n]? = some l ∧ l.exited = false

/-- From `s` to `t` the unit `c` changed nothing of the partitions, of other cores, of other groups and lanes of its own core, of
the accumulators and of the machine's own registers. A barrier that the unit's end completes may let other lanes go on. -/
structure Leaves (c : Ctx) (s t : State) : Prop where
  parts   : t.parts = s.parts
  cores   : ∀ k, k ≠ c.core → t.core k = s.core k
  lanes   : ∀ gi m l, (gi ≠ c.gi ∨ m ∉ c.lanes) → s.laneAt c.core gi m = some l →
    ∃ z, t.laneAt c.core gi m = some z ∧ z.own = l.own
  scalars : ∀ gi g, gi ≠ c.gi → s.group c.core gi = some g → ∃ x, t.group c.core gi = some x ∧ x.s = g.s ∧ x.cmask = g.cmask
  sums    : ∀ u, s.team c.core = some u → ∃ v, t.team c.core = some v ∧ v.z = u.z ∧ v.alatch = u.alatch
  others  : t.time = s.time ∧ t.measures = s.measures ∧ t.tenants = s.tenants ∧ t.ready0 = s.ready0 ∧ t.ready1 = s.ready1
    ∧ t.ready2 = s.ready2 ∧ t.energy = s.energy

/-- Every byte of memory, with its tags and poison, is as it was. -/
structure LeavesMemory (s t : State) : Prop where
  bytes  : ∀ a, t.mem.get a = s.mem.get a
  tags   : t.tags = s.tags
  poison : t.poison = s.poison

/-- The views, handles, mapped regions and queues of the unit's team are as they were. -/
def LeavesTeam (c : Ctx) (s t : State) : Prop :=
  ∀ u, s.team c.core = some u → ∃ v, t.team c.core = some v ∧ v.views = u.views ∧ v.handles = u.handles
    ∧ v.regions = u.regions ∧ v.mq = u.mq ∧ v.inq = u.inq ∧ v.outq = u.outq

/-- The group's own scalars and candidate view mask are as they were. -/
def LeavesScalars (c : Ctx) (t : State) : Prop := ∃ g, c.groupIn t = some g ∧ g.s = c.g.s ∧ g.cmask = c.g.cmask

/-! ## The terms of the statements about memory -/

/-- The coordinates that lane `m` of the unit read at issue (R47). -/
def Ctx.coordsOf (c : Ctx) (i : Instr) (m : Nat) : List Nat := ((c.run i).getD []).map fun a => (c.sees a m).toNat

/-- Where lane `m`'s access `i` of view `vw` stands in the flat memory, if it resolves and the view is of a scratchpad or a vault
(R101, R102). -/
def State.placeOf (s : State) (c : Ctx) (i : Instr) (vw : Fin 64) (m : Nat) : Option Nat :=
  match (c.view vw.val).resolve (memKind i) (c.coordsOf i m) (memBytes i) with
  | .ok off => s.sramAt c.core c.t (c.view vw.val) off
  | .bad => none
  | .unbound => none

/-- A unit in hand whose lanes access view `vw`, of a scratchpad or a vault: each passes the checks of R106, none has a logged
access, and where its guard holds a lane may name the view and its access resolves to bytes that its partition may reach, which
answer, are not poisoned and are no storage of a mapped region (R295). -/
structure Accesses (s : State) (c : Ctx) (i : Instr) (g : Guard) (vw : Fin 64) : Prop extends Issuing s c where
  calm    : c.Calm
  unlogged : c.g.log = []
  passes  : ∀ m ∈ c.lanes, ∃ l, Executes s c i m l
  sram    : (c.view vw.val).sram = true
  unbound : (c.view vw.val).region = none
  reaches : ∀ m ∈ c.lanes, g.holds (c.g.lane m) = true → c.maskOk (c.g.lane m) vw.val = true ∧
    ∃ a, s.placeOf c i vw m = some a ∧ a < 2 ^ 40 ∧ s.firewall c.t.part a = true ∧ s.poisoned a (memBytes i) = false ∧
      s.strayAt a = []

/-- One lane's access `i` of view `vw` in hand, alone in its unit, with its guard true and nothing logged before it. -/
structure AccessesOne (s : State) (c : Ctx) (i : Instr) (g : Guard) (n : Nat) (l : Lane) : Prop extends Executes s c i n l where
  single   : c.lanes = [n]
  holds    : g.holds l = true
  calm     : c.Calm
  unlogged : c.g.log = []

/-- The same behind an access that its group has logged, on the broadcast path. -/
structure AccessesOneBehind (s : State) (c : Ctx) (i : Instr) (g : Guard) (n : Nat) (l : Lane) : Prop extends Executes s c i n l where
  single   : c.lanes = [n]
  holds    : g.holds l = true
  together : c.alone = false
  ready    : c.g.wait = .none

/-- The lane memory instructions but PLD, with their guard and view. -/
def IsAccess (i : Instr) (g : Guard) (vw : Fin 64) : Prop :=
  (∃ x, i = .ld x ∧ g = x.g ∧ vw = x.vw) ∨ (∃ x, i = .st x ∧ g = x.g ∧ vw = x.vw) ∨ (∃ x, i = .lda x ∧ g = x.g ∧ vw = x.vw) ∨
  (∃ x, i = .stl x ∧ g = x.g ∧ vw = x.vw) ∨ (∃ x, i = .atom x ∧ g = x.g ∧ vw = x.vw) ∨ ∃ x, i = .atomx x ∧ g = x.g ∧ vw = x.vw

/-- No slot of the unit's team waits to be written back. -/
def Ctx.NoDirty (c : Ctx) : Prop := ∀ r ∈ c.t.regions, ∀ k ∈ r.slots, k.state ≠ .dirty

/-- Slot `k` of region `r` alone of the regions of the unit's team waits to be written back. -/
structure Ctx.OneDirty (c : Ctx) (s : State) (r : Region) (k : Nat) : Prop where
  found : s.region c.core r.id = some r
  among : r ∈ c.t.regions
  slot  : k < r.slots.length
  dirty : (r.slot k).state = .dirty
  rest  : ∀ q ∈ c.t.regions, ∀ j, (q.id ≠ r.id ∨ j ≠ k) → (q.slot j).state ≠ .dirty

/-- Every slot of the mapped regions of the unit's team is invalid. -/
def Ctx.AllInvalid (c : Ctx) (t : State) : Prop := ∀ u, t.team c.core = some u → ∀ r ∈ u.regions, ∀ k ∈ r.slots, k.state = .invalid

/-- The memory as the lanes `ls` of a unit leave it, acting in their order: each whose guard holds replaces the `n` bytes at its
place by `f` of what they held. -/
def Ctx.storedBy (c : Ctx) (g : Guard) (place : Nat → Option Nat) (n : Nat) (f : Nat → List Byte → List Byte) (ls : List Nat)
    (m : Memory) : Memory :=
  ls.foldl (fun m k =>
    match place k with
    | some a => if g.holds (c.g.lane k) then m.putAll a (f k (m.read a n)) else m
    | none => m) m

/-- Register words of lane `m` of the unit from `d` on, at issue, as one number. -/
def Ctx.dataOf (c : Ctx) (d : Fin 64) (m : Nat) : Nat → Nat
  | 0 => 0
  | k + 1 => Ctx.dataOf c d m k + ((c.g.lane m).reg (d + Fin.ofNat 64 k)).toNat * 2 ^ (32 * k)

/-! ## The terms of the statements about units that execute once for their group -/

/-- A unit that executes once for its group, and neither ends nor triggers it. -/
structure ExecutesCalm (s : State) (c : Ctx) (i : Instr) : Prop extends ExecutesOnce s c i where
  calm   : c.Calm
  filled : c.lanes ≠ []

/-- Every lane of the unit is past it, with the last change `f`; an engine instruction is a side effect of a lane with a task
(R279). -/
def Ctx.PastIn (c : Ctx) (i : Instr) (t : State) (f : Lane → Lane) : Prop :=
  ∀ n ∈ c.lanes, ∀ l, c.g.lanes[n]? = some l →
    c.laneIn t n = some (((f (({ l with wait := .none } : Lane).chained (readsLatch i c))).sidedBy i).past c)

/-- The unit waits to be issued again: the machine goes on with nothing changed but that. -/
def Ctx.RetriesIn (c : Ctx) (s t : State) : Prop :=
  t = ({ s.modGroup c.core c.gi fun g => { g with wait := .retry s.progress } with issue := none } : State)

/-- The group of the unit halts with one more record, of a kind and a detail, at the unit with all the unit's lanes. -/
def Ctx.HaltsIn (c : Ctx) (t : State) (kind detail : Nat) : Prop :=
  ∃ g h, c.groupIn t = some g ∧ g.halts = c.g.halts ++ [h] ∧ h.record.kind = kind ∧ h.record.detail = BitVec.ofNat 32 detail
    ∧ h.record.pc = c.place.pc ∧ h.record.lanes = maskOf c.lanes ∧ h.atUnit = maskOf c.lanes ∧ h.after = false

/-- View `vw` of the unit names the loaded queue record `r` of its cluster, which is in order and which its partition may reach
(R256, R258). -/
structure NamesQueue (s : State) (c : Ctx) (vw : Fin 64) (r : QRec) : Prop where
  view   : (c.view vw.val).queueOk c.core = true
  awake  : (s.cluster (clusterOfCore c.core)).frozen = false
  found  : (s.cluster (clusterOfCore c.core)).recs.find? (fun q => q.vault == dieOfCore c.core * 96
    + bvFld (c.view vw.val).base 32 7 && q.base == (c.view vw.val).offset) = some r
  number : s.qrec (clusterOfCore c.core) r.no = some r
  size   : r.cap = (c.view vw.val).extN 0
  fine   : r.error = false
  wall   : s.firewall c.t.part (r.at 0) = true

/-- The record of the unit's cluster with a number, as a state has it. -/
def Ctx.recordIn (c : Ctx) (t : State) (no : Nat) : Option QRec := t.qrec (clusterOfCore c.core) no

/-! ## The terms of the statements about events -/

/-- No group of the machine waits at a QFENCE. -/
def State.NoFences (s : State) : Prop :=
  ∀ core u, s.team core = some u → ∀ g ∈ u.groups, ∀ id words mem, g.wait ≠ .qfence id words mem

/-- A group of the team has neither ended nor triggered, so that no end and no trigger of the team follows. -/
def Team.Busy (u : Team) : Prop := ∃ g ∈ u.groups, g.triggered = false ∧ g.ended = false

/-- A TLP of the host to the function of partition number `n`, `p`, does what it is for: its receive path is open, and it lies in
the selective stream where the TDI is locked (R363). -/
structure Arrives (s : State) (n : Nat) (p : Part) : Prop where
  part  : s.part n = some p
  open_ : p.portFrozen = false
  kept  : s.tlpLost p = false

/-- The events that are TLPs of the host to a partition's function (R317, R342, R359, R363). -/
def IsTlp (part : Fin 96) (i : Instr) : Prop :=
  (∃ o x, i = .inboundApertureAccess part o x) ∨ (∃ o x, i = .vaultApertureAccess part o x) ∨ (∃ k r, i = .launchCommit part k r) ∨
  (∃ n, i = .kill part n) ∨ (∃ n, i = .preempt part n) ∨ (∃ n, i = .restore part n) ∨ (∃ n, i = .xactRetry part n) ∨
  (∃ n, i = .xactFail part n) ∨ i = .xinv part ∨ (∃ k, i = .resume part k) ∨ (∃ k, i = .skip part k) ∨ (∃ k, i = .haltKill part k) ∨
  (∃ o v, i = .registerWrite part o v) ∨ (∃ v, i = .fqconsWrite part v) ∨ i = .energyLoRead (.driver part)

/-- A record posted to the partition now enters its fault queue (R317). -/
def Part.hasRoom (p : Part) : Prop := p.held = [] ∧ p.queueFull = false

/-- Memory is in canonical form and every die answers, so that a store is read back. -/
structure State.Plain (s : State) : Prop where
  mem    : s.mem.wf = true
  answer : s.cutDies = []

/-- A granule of a copy at the head of a queue of core `core` can move: its team is on the core and its engines work, the copy is
not suspended, and its bytes can be read and placed. -/
structure Moves (s : State) (core : Nat) (u : Team) (c : Copy) (h : Handle) (l : Landed) : Prop where
  team   : s.team core = some u
  own    : c.core = core
  awake  : c.susp = none
  works  : s.enginesRun core u = true
  handle : u.handle c.h = some h
  quiet  : s.NoFences
  busy   : u.Busy
  lands  : s.movePiece c c.moved = .ok l

end Sys2Proof.Machine

namespace Sys2Proof

/-! ## The terms of the statements about numbers (spec/01_numbers.md) -/

/-- The rational number of a finite value. -/
def Num.rat : Num → Rat
  | .fin neg m e => (if neg then -1 else 1) * m * (2 : Rat) ^ e
  | .nan _ => 0
  | .inf _ => 0

/-- The sign of a value. -/
def Num.negative : Num → Bool
  | .fin neg _ _ => neg
  | .nan _ => false
  | .inf neg => neg

/-- `z` is `v` rounded to the nearest integer, ties to even. -/
def RneInt (v : Rat) (z : Int) : Prop :=
  (z : Rat) - v ≤ 1 / 2 ∧ v - z ≤ 1 / 2 ∧ (((z : Rat) - v = 1 / 2 ∨ v - z = 1 / 2) → z % 2 = 0)

/-- The finite code `r` of a sign lies nearest, ties to even, to the magnitude x that `le` (q ≤ x) and `ge` (x ≤ q) tell of: for each
other finite code of that sign the midpoint of the two magnitudes lies on the other side of x. -/
def Fmt.Nearest (f : Fmt) (neg : Bool) (le ge : Rat → Bool) (r : Nat) : Prop :=
  r < 2 ^ (f.eb + f.mb + 1) ∧ (valOf f r).isFin = true ∧ (valOf f r).negative = neg ∧
  ∀ y, y < 2 ^ (f.eb + f.mb + 1) → (valOf f y).isFin = true → (valOf f y).negative = neg →
    let p := |(valOf f r).rat|
    let q := |(valOf f y).rat|
    (p < q → ge ((p + q) / 2) = true ∧ (le ((p + q) / 2) = true → r % 2 = 0)) ∧
    (q < p → le ((p + q) / 2) = true ∧ (ge ((p + q) / 2) = true → r % 2 = 0))

/-- The code and flags of a magnitude that rounds to a finite code (R15, R16): NX where the code's value differs from it, UF too where
it is below what rounds to a normal number; FO makes a subnormal result a zero of its sign with UF and NX. -/
def Fmt.RoundsFinite (f : Fmt) (fo neg : Bool) (le ge : Rat → Bool) (r : Nat × Word) : Prop :=
  ∃ p, f.Nearest neg le ge p ∧
    let v := |(valOf f p).rat|
    let small : Rat := (2 ^ (f.mb + 2) - 1) * (2 : Rat) ^ (-(f.bias : Int) - f.mb - 1)
    let nx := !(le v && ge v)
    let fl : Word := (if nx then 0x10 else 0) ||| (if nx && !le small then 0x08 else 0)
    let mag := p % 2 ^ (f.eb + f.mb)
    r = if fo = true ∧ 0 < mag ∧ mag < 2 ^ f.mb then (p - mag, fl ||| 0x18) else (p, fl)

/-- The code and flags of a magnitude rounded to a format with infinities: from half a unit beyond the largest finite value on it is
an infinity, with OF and NX (R15). -/
def Fmt.Rounds (f : Fmt) (fo neg : Bool) (le ge : Rat → Bool) (r : Nat × Word) : Prop :=
  let top : Rat := (2 ^ (f.mb + 2) - 1) * (2 : Rat) ^ ((f.bias : Int) - f.mb - 1)
  (le top = true → r = ((if neg then 2 ^ (f.eb + f.mb) else 0) + (2 ^ f.eb - 1) * 2 ^ f.mb, 0x14)) ∧
  (le top = false → f.RoundsFinite fo neg le ge r)

/-- The same of a rational number, whose zero has the sign `zero`. -/
def Fmt.RoundsRat (f : Fmt) (fo : Bool) (v : Rat) (zero : Bool) (r : Nat × Word) : Prop :=
  f.Rounds fo (if v = 0 then zero else decide (v < 0)) (fun q => decide (q ≤ |v|)) (fun q => decide (|v| ≤ q)) r

/-- `w` is `v` rounded once to binary32, as FEXP2 and FLOG2 do it (R32). -/
def OnceRounded (v w : Rat) : Prop := ∃ c fl, fmtF32.RoundsRat false v false (c, fl) ∧ (valOf fmtF32 c).isFin = true ∧ w = (valOf fmtF32 c).rat

/-! ## Instructions by what they touch -/

/-- The per-lane instructions that only change their own lane, and never end with a condition in ordinary state. -/
def Instr.actsOnLanes : Instr → Bool
  | .iadd _ | .isub _ | .iadds _ | .isubs _ | .uadds _ | .usubs _ | .iabsd _ | .uavg _ | .add64 _ | .sub64 _ | .mul64 _ | .shl64 _
  | .imul _ | .imulhi _ | .umulhi _ | .imad _ | .idiv _ | .udiv _ | .irem _ | .urem _ | .and _ | .or _ | .xor _ | .andn _ | .shl _
  | .shr _ | .sar _ | .rotl _ | .imin _ | .imax _ | .umin _ | .umax _ | .mov _ | .not _ | .neg _ | .iabs _ | .popc _ | .clz _
  | .ctz _ | .brev _ | .bswap _ | .sext8 _ | .sext16 _ | .zext8 _ | .zext16 _ | .bfxz _ | .bfxs _ | .bfi _ | .fshl _ | .sel _
  | .shfli _ | .shflu _ | .shfld _ | .shflx _ | .iaddi _ | .movi _ | .andi _ | .ori _ | .xori _ | .shli _ | .shri _ | .sari _
  | .imuli _ | .fadd _ | .fsub _ | .fmul _ | .ffma _ | .fmin _ | .fmax _ | .fabs _ | .fneg _ | .fsqrt _ | .frcp _ | .frsq _
  | .fexp2 _ | .flog2 _ | .ffloor _ | .fceil _ | .ftrunc _ | .frint _ | .fclass _ | .cvtF32S32 _ | .cvtF32N32 _ | .cvtS32F32 _
  | .cvtN32F32 _ | .cvtBf16F32 _ | .cvtF32Bf16 _ | .cvtE4m3F32 _ | .cvtE5m2F32 _ | .cvtF32E4m3 _ | .cvtF32E5m2 _ | .cvtE4m3E2m1 _
  | .cvtE4m3E3m2 _ | .cvtE4m3E2m3 _ | .cvtE4m3I4 _ | .bfma2 _ | .bfadd2 _ | .bfmul2 _ | .plenc _ | .plmax _ | .pldec _ | .icmp _
  | .fcmp _ | .plog _ | .vany _ | .vall _ | .vbal _ | .redadd _ | .redmin _ | .redmax _ | .redfadd _ | .ptov _ | .vtop _ | .bra _
  | .mbr _ | .dbnz _ | .nop _ | .sread _ | .sigf _ | .sigz _ => true
  | .swrite x => !x.n.groupWide
  | _ => false

/-- The instructions that execute once for their group and only write its scalars. -/
def Instr.actsOnScalars : Instr → Bool
  | .sadd _ | .ssub _ | .smul _ | .smin _ | .sand _ | .sor _ | .sxor _ | .sshl _ | .smov _ | .snot _ | .sneg _ | .spopc _ | .sclz _
  | .sshr _ | .saddi _ | .readl _ | .vqry _ | .slotq _ | .featq _ => true
  | _ => false

end Sys2Proof
end

