-- ==== Sys2Proof/Certificates/Slice0/Obligations.lean ====
section
/-!
DEFINITION. The statements about the machine, each with the rule of spec/ that it formalises.
-/

open Sys2Proof Sys2Proof.Machine

/-! ## Lane integer instructions (spec/05_lane_integer_control.md) -/

/-- R118: the 32-bit binary members that set no flag, in every executing lane. Sums, products and shifts are said in
numbers; sA is `a.toInt`, uA is `a.toNat`. -/
def Obligations.IntegerBinaryResults : Prop :=
  ∀ m ∈ ([
    (.iadd, fun a b => BitVec.ofNat 32 (a.toNat + b.toNat)),
    (.isub, fun a b => BitVec.ofInt 32 (a.toInt - b.toInt)),
    (.iabsd, fun a b => BitVec.ofNat 32 (a.toInt - b.toInt).natAbs),
    (.uavg, fun a b => BitVec.ofNat 32 ((a.toNat + b.toNat + 1) / 2)),
    (.imul, fun a b => BitVec.ofNat 32 (a.toNat * b.toNat)),
    (.imulhi, fun a b => BitVec.ofInt 32 (Int.fdiv (a.toInt * b.toInt) (2 ^ 32))),
    (.umulhi, fun a b => BitVec.ofNat 32 (a.toNat * b.toNat / 2 ^ 32)),
    (.and, fun a b => a &&& b),
    (.or, fun a b => a ||| b),
    (.xor, fun a b => a ^^^ b),
    (.andn, fun a b => a &&& ~~~b),
    (.shl, fun a b => BitVec.ofNat 32 (a.toNat * 2 ^ (b.toNat % 32))),
    (.shr, fun a b => BitVec.ofNat 32 (a.toNat / 2 ^ (b.toNat % 32))),
    (.sar, fun a b => BitVec.ofInt 32 (Int.fdiv a.toInt (2 ^ (b.toNat % 32)))),
    (.rotl, fun a b => a.rotateLeft (b.toNat % 32)),
    (.imin, fun a b => BitVec.ofInt 32 (min a.toInt b.toInt)),
    (.imax, fun a b => BitVec.ofInt 32 (max a.toInt b.toInt)),
    (.umin, fun a b => BitVec.ofNat 32 (min a.toNat b.toNat)),
    (.umax, fun a b => BitVec.ofNat 32 (max a.toNat b.toNat))] : List ((OpR → Instr) × (Word → Word → Word))),
  ∀ x : OpR, Produces (m.1 x) x.g x.w x.d fun e y => (m.2 (readSrc e y x.a) (readSrc e y x.b), 0)

/-- R12, R118: the saturating members deliver the exact result clamped to the range of the format, and set SAT (0x20) exactly
where it was clamped. -/
def Obligations.IntegerSaturation : Prop :=
  ∀ m ∈ ([
    (.iadds, -(2 ^ 31), 2 ^ 31 - 1, fun a b => a.toInt + b.toInt),
    (.isubs, -(2 ^ 31), 2 ^ 31 - 1, fun a b => a.toInt - b.toInt),
    (.uadds, 0, 2 ^ 32 - 1, fun a b => a.toNat + b.toNat),
    (.usubs, 0, 2 ^ 32 - 1, fun a b => (a.toNat : Int) - b.toNat)] : List ((OpR → Instr) × Int × Int × (Word → Word → Int))),
  ∀ x : OpR, Produces (m.1 x) x.g x.w x.d fun e y =>
    let z := m.2.2.2 (readSrc e y x.a) (readSrc e y x.b)
    (BitVec.ofInt 32 (max m.2.1 (min m.2.2.1 z)), if m.2.1 ≤ z ∧ z ≤ m.2.2.1 then 0 else 0x20)

/-- R66, R118, R123: IMAD and the bit-field family. The field's position is B[4:0] and its length min(B[13:8], 32 − pos). R43, R57,
R119: the immediate family; I is imm9 sign-extended, or HIMM's 23 bits above it. -/
def Obligations.IntegerFieldsAndImmediates : Prop :=
  ((∀ x : OpR, Produces (.imad x) x.g x.w x.d fun e y =>
    (BitVec.ofNat 32 ((readSrc e y x.a).toNat * (readSrc e y x.b).toNat + (y.reg x.d).toNat), 0)) ∧
  (∀ m ∈ ([
    (.bfxz, fun _ a pos len => BitVec.ofNat 32 (a.toNat / 2 ^ pos % 2 ^ len)),
    (.bfxs, fun _ a pos len => BitVec.ofInt 32 (if len = 0 then 0
      else if a.toNat / 2 ^ (pos + len - 1) % 2 = 1 then (a.toNat / 2 ^ pos % 2 ^ len : Nat) - 2 ^ len
      else (a.toNat / 2 ^ pos % 2 ^ len : Nat))),
    (.bfi, fun d a pos len => BitVec.ofNat 32
      (d.toNat - d.toNat / 2 ^ pos % 2 ^ len * 2 ^ pos + a.toNat % 2 ^ len * 2 ^ pos))] :
      List ((OpR → Instr) × (Word → Word → Nat → Nat → Word))),
    ∀ x : OpR, Produces (m.1 x) x.g x.w x.d fun e y =>
      let b := (readSrc e y x.b).toNat
      (m.2 (y.reg x.d) (readSrc e y x.a) (b % 32) (min (b / 2 ^ 8 % 2 ^ 6) (32 - b % 32)), 0)) ∧
  (∀ x : OpR, Produces (.fshl x) x.g x.w x.d fun e y =>
    (BitVec.ofNat 32 (((y.reg x.d).toNat * 2 ^ 32 + (readSrc e y x.a).toNat) * 2 ^ ((readSrc e y x.b).toNat % 32) / 2 ^ 32), 0))) ∧
  ((∀ m ∈ ([
    (.iaddi, fun a i => BitVec.ofNat 32 (a.toNat + i.toNat)),
    (.andi, fun a i => a &&& i),
    (.ori, fun a i => a ||| i),
    (.xori, fun a i => a ^^^ i),
    (.shli, fun a i => BitVec.ofNat 32 (a.toNat * 2 ^ (i.toNat % 32))),
    (.shri, fun a i => BitVec.ofNat 32 (a.toNat / 2 ^ (i.toNat % 32))),
    (.sari, fun a i => BitVec.ofInt 32 (Int.fdiv a.toInt (2 ^ (i.toNat % 32)))),
    (.imuli, fun a i => BitVec.ofNat 32 (a.toNat * i.toNat))] : List ((OpI → Instr) × (Word → Word → Word))),
    ∀ x : OpI, Produces (m.1 x) x.g x.w x.d fun e y => (m.2 (readSrc e y x.a) (immOf e.hints x.imm), 0)) ∧
  (∀ x : OpMovI, Produces (.movi x) x.g x.w x.d fun e _ => (immOf e.hints x.imm, 0)) ∧
  (∀ imm : BitVec 9, immOf [] imm = BitVec.ofInt 32 imm.toInt) ∧
  (∀ (hi : BitVec 23) (imm : BitVec 9), immOf [.imm hi] imm = BitVec.ofNat 32 (hi.toNat * 2 ^ 9 + imm.toNat)))

/-- R122: the integer unary family. -/
def Obligations.IntegerUnary : Prop :=
  ∀ m ∈ ([
    (.mov, fun a => a),
    (.not, fun a => BitVec.ofNat 32 (2 ^ 32 - 1 - a.toNat)),
    (.neg, fun a => BitVec.ofInt 32 (-a.toInt)),
    (.iabs, fun a => BitVec.ofNat 32 a.toInt.natAbs),
    (.popc, fun a => BitVec.ofNat 32 ((List.range 32).countP fun k => a.toNat.testBit k)),
    (.clz, fun a => BitVec.ofNat 32 ((List.range 32).takeWhile fun k => !a.toNat.testBit (31 - k)).length),
    (.ctz, fun a => BitVec.ofNat 32 ((List.range 32).takeWhile fun k => !a.toNat.testBit k).length),
    (.brev, fun a => BitVec.ofNat 32 (((List.range 32).map fun k => if a.toNat.testBit (31 - k) then 2 ^ k else 0).sum)),
    (.bswap, fun a => BitVec.ofNat 32 (a.toNat % 2 ^ 8 * 2 ^ 24 + a.toNat / 2 ^ 8 % 2 ^ 8 * 2 ^ 16
      + a.toNat / 2 ^ 16 % 2 ^ 8 * 2 ^ 8 + a.toNat / 2 ^ 24)),
    (.sext8, fun a => BitVec.ofInt 32 (a.setWidth 8).toInt),
    (.sext16, fun a => BitVec.ofInt 32 (a.setWidth 16).toInt),
    (.zext8, fun a => BitVec.ofNat 32 (a.toNat % 2 ^ 8)),
    (.zext16, fun a => BitVec.ofNat 32 (a.toNat % 2 ^ 16))] : List ((OpU → Instr) × (Word → Word))),
  ∀ x : OpU, Produces (m.1 x) x.g x.w x.d fun e y => (m.2 (readSrc e y x.a), 0)

/-- R11, R108, R121: the division family. A zero divisor gives the quotient of all ones and the dividend as remainder and sets
DZ (2); −2^31 by −1 gives −2^31 and 0. Where the launch's fault mask has bit 0 set, a zero divisor in a contained lane ends
the candidate with DIVZERO (6) and writes nothing. -/
def Obligations.IntegerDivision : Prop :=
  ∀ m ∈ ([
    (.idiv, fun a b => if a = 0x80000000 ∧ b = 0xFFFFFFFF then a else BitVec.ofInt 32 (Int.tdiv a.toInt b.toInt),
      fun _ => 0xFFFFFFFF),
    (.irem, fun a b => BitVec.ofInt 32 (a.toInt - Int.tdiv a.toInt b.toInt * b.toInt), fun a => a),
    (.udiv, fun a b => BitVec.ofNat 32 (a.toNat / b.toNat), fun _ => 0xFFFFFFFF),
    (.urem, fun a b => BitVec.ofNat 32 (a.toNat - a.toNat / b.toNat * b.toNat), fun a => a)] :
      List ((OpR → Instr) × (Word → Word → Word) × (Word → Word))),
  ∀ (x : OpR) (s : State) (c : Ctx) (n : Nat) (l : Lane), Executes s c (m.1 x) n l →
    let y := l.started (m.1 x) c
    let a := readSrc (c.env n) y x.a
    let b := readSrc (c.env n) y x.b
    let r := if b = 0 then m.2.2 a else m.2.1 a b
    ∃ t, exec (m.1 x) s = .next t ∧ c.laneIn t n = some (
      if x.g.holds y then
        if b = 0 ∧ y.inside.isSome ∧ (recFmask c.r).testBit 0 then y.deliver 6
        else ({ y with
          v := if x.w then y.v else y.v.set (y.phys x.d).val r
          latches := (r :: y.latches).take 4
          status := y.status ||| (if b = 0 then 2 else 0) } : Lane).past c
      else ({ y with latches := (y.reg x.d :: y.latches).take 4 } : Lane).past c)

/-- R11, R38, R120: the 64-bit pair family; the low half stands in the named register and the high half in the next. No latch
and no flag changes. -/
def Obligations.IntegerPairs : Prop :=
  ∀ m ∈ ([
    (.add64, fun e y x => BitVec.ofNat 64 ((readSrc64 e y x.a).toNat + (readSrc64 e y x.b).toNat)),
    (.sub64, fun e y x => BitVec.ofInt 64 ((readSrc64 e y x.a).toInt - (readSrc64 e y x.b).toInt)),
    (.mul64, fun e y x => BitVec.ofNat 64 ((readSrc64 e y x.a).toNat * (readSrc64 e y x.b).toNat)),
    (.shl64, fun e y x => BitVec.ofNat 64 ((readSrc64 e y x.a).toNat * 2 ^ ((readSrc e y x.b).toNat % 64)))] :
      List ((OpR64 → Instr) × (Env → Lane → OpR64 → Word64))),
  ∀ x : OpR64, Changes (m.1 x) x.g fun e y =>
    let r := m.2 e y x
    let low := y.v.set (y.phys x.d).val (BitVec.ofNat 32 r.toNat)
    { y with v := low.set (y.phys (x.d + 1)).val (BitVec.ofNat 32 (r.toNat / 2 ^ 32)) }

/-- R124, R126, R127: SEL writes A or B by its predicate in every lane; ICMP and PLOG write one predicate, combined with its
old value as COMB says, and nothing else. -/
def Obligations.SelectCompareLogic : Prop :=
  (∀ x : OpSel, Produces (.sel x) .always x.w x.d fun e y =>
    (if (y.p[x.sel.p.val] != x.sel.neg) then readSrc e y x.a else readSrc e y x.b, 0)) ∧
  (∀ x : OpICmp, Changes (.icmp x) x.g fun e y =>
    let a := readSrc e y x.a
    let b := readSrc e y x.b
    let v : Word → Int := fun w => if x.u then w.toNat else w.toInt
    let k : Bool := match x.cond with
      | .eq => a == b
      | .ne => a != b
      | .lt => v a < v b
      | .le => v a ≤ v b
      | .gt => v b < v a
      | .ge => v b ≤ v a
      | .tst => (a &&& b) != 0
    { y with p := y.p.set x.pd.val (combine x.comb y.p[x.pd.val] k) }) ∧
  (∀ x : OpPLog, Changes (.plog x) x.g fun _ y =>
    let p := y.p[x.x.p.val] != x.x.neg
    let q := y.p[x.y.p.val] != x.y.neg
    let k : Bool := match x.fn with
      | .and => p && q
      | .or => p || q
      | .xor => p != q
      | .nand => !(p && q)
      | .nor => !(p || q)
      | .xnor => p == q
      | .copy => p
    { y with p := y.p.set x.pd.val (combine x.comb y.p[x.pd.val] k) }) ∧
  (∀ old k : Bool, combine .set old k = k ∧ combine .and old k = (old && k) ∧ combine .or old k = (old || k)
    ∧ combine .xor old k = (old != k))

/-- R38, R125: the scalar-destination instructions, once for the group. R219: READL writes a scalar register with register vR of
lane n, once for the group. -/
def Obligations.ScalarResults : Prop :=
  ((∀ m ∈ ([
    (.sadd, fun a b => BitVec.ofNat 32 (a.toNat + b.toNat)),
    (.ssub, fun a b => BitVec.ofInt 32 (a.toInt - b.toInt)),
    (.smul, fun a b => BitVec.ofNat 32 (a.toNat * b.toNat)),
    (.smin, fun a b => BitVec.ofInt 32 (min a.toInt b.toInt)),
    (.sand, fun a b => a &&& b),
    (.sor, fun a b => a ||| b),
    (.sxor, fun a b => a ^^^ b),
    (.sshl, fun a b => BitVec.ofNat 32 (a.toNat * 2 ^ (b.toNat % 32)))] : List ((OpSR → Instr) × (Word → Word → Word))),
    ∀ x : OpSR, SetsScalar (m.1 x) x.d fun v _ => m.2 (readSSrc v x.a) (readSSrc v x.b)) ∧
  (∀ m ∈ ([
    (.smov, fun a => a),
    (.snot, fun a => BitVec.ofNat 32 (2 ^ 32 - 1 - a.toNat)),
    (.sneg, fun a => BitVec.ofInt 32 (-a.toInt)),
    (.spopc, fun a => BitVec.ofNat 32 ((List.range 32).countP fun k => a.toNat.testBit k)),
    (.sclz, fun a => BitVec.ofNat 32 ((List.range 32).takeWhile fun k => !a.toNat.testBit (31 - k)).length)] :
      List ((OpSU → Instr) × (Word → Word))),
    ∀ x : OpSU, SetsScalar (m.1 x) x.d fun v _ => m.2 (readSSrc v x.a)) ∧
  (∀ x : OpSShr, SetsScalar (.sshr x) x.d fun v _ => BitVec.ofNat 32 ((readSSrc v x.a).toNat / 2 ^ x.n.val)) ∧
  (∀ x : OpSI, SetsScalar (.saddi x) x.d fun v h => BitVec.ofNat 32 ((readSSrc v x.a).toNat + (immOf h x.imm).toNat))) ∧
  (∀ (x : OpReadL) (s : State) (c : Ctx), ExecutesOnce s c (.readl x) →
    ∃ t, exec (.readl x) s = .next t ∧
      (∃ g, c.groupIn t = some g ∧ g.s = c.g.s.set x.d.val (c.g.lane x.n.val).v[x.r.val]) ∧
      ∀ n ∈ c.lanes, ∀ l, c.g.lanes[n]? = some l →
        c.laneIn t n = some ((({ l with wait := .none } : Lane).chained (readsLatch (.readl x) c)).past c))

/-! ## Lane float, conversion and plane instructions (spec/06_lane_float_planes.md) -/

/-- R148, R159: the binary float family and the BF16 pairs, on the codes their operands hold; FFMA and BFMA2 add the old value of
the destination, and a pair computes its halves apart and collects their flags. R149 to R152, R154 to R158: the float unary family
and the conversions, on the code that A holds. FCLASS sets no flag. R15, R16, R148: the sum, difference, product and fused sum of finite
operands, after FI, is the exact number rounded once; an exact zero sum is +0 unless both terms are −0. R17: FMIN and FMAX of numbers
give the smaller or the larger, −0 below +0. R32: FEXP2 and FLOG2 of a finite operand by their steps, each rounded once; the table
holds the binary32 codes nearest 2^(j/32). What else operations make of codes `FloatToInteger`, `FloatSpecialValues` and `FloatRounding` say.
What FP8 rounding calls beyond the largest value, and its UF, and that a widening of a BF16 subnormal ignores FO, are the model's readings (DEDUCED, log 9, log 93). -/
def Obligations.FloatResults : Prop :=
  ((∀ m ∈ ([
    (.fadd, fun fi fo _ a b => opAdd fmtF32 fi fo a b),
    (.fsub, fun fi fo _ a b => opSub fmtF32 fi fo a b),
    (.fmul, fun fi fo _ a b => opMul fmtF32 fi fo a b),
    (.ffma, fun fi fo d a b => opFma fmtF32 fi fo a b d),
    (.fmin, fun fi fo _ a b => opMinMax false fi fo a b),
    (.fmax, fun fi fo _ a b => opMinMax true fi fo a b)] :
      List ((OpRF → Instr) × (Bool → Bool → Nat → Nat → Nat → Nat × Word))),
    ∀ x : OpRF, Produces (m.1 x) x.g x.w x.d fun e y =>
      let r := m.2 x.fi x.fo (y.reg x.d).toNat (readSrc e y x.a).toNat (readSrc e y x.b).toNat
      (BitVec.ofNat 32 r.1, r.2)) ∧
  (∀ m ∈ ([
    (.bfadd2, fun fi fo _ a b => opAdd fmtBF16 fi fo a b),
    (.bfmul2, fun fi fo _ a b => opMul fmtBF16 fi fo a b),
    (.bfma2, fun fi fo d a b => opFma fmtBF16 fi fo a b d)] :
      List ((OpRF → Instr) × (Bool → Bool → Nat → Nat → Nat → Nat × Word))),
    ∀ x : OpRF, Produces (m.1 x) x.g x.w x.d fun e y =>
      let d := (y.reg x.d).toNat
      let a := (readSrc e y x.a).toNat
      let b := (readSrc e y x.b).toNat
      let lo := m.2 x.fi x.fo (d % 2 ^ 16) (a % 2 ^ 16) (b % 2 ^ 16)
      let hi := m.2 x.fi x.fo (d / 2 ^ 16) (a / 2 ^ 16) (b / 2 ^ 16)
      (BitVec.ofNat 32 (hi.1 * 2 ^ 16 + lo.1), lo.2 ||| hi.2))) ∧
  ((∀ m ∈ ([
    (.fabs, fun fi fo a => opSign (fun _ => false) fi fo a),
    (.fneg, fun fi fo a => opSign (fun n => !n) fi fo a),
    (.fsqrt, fun fi fo a => opSqrt fi fo a),
    (.frcp, fun fi fo a => opRcp fi fo a),
    (.frsq, fun fi fo a => opRsq fi fo a),
    (.fexp2, fun fi fo a => opExp2 fi fo a),
    (.flog2, fun fi _ a => opLog2 fi a),
    (.ffloor, fun fi _ a => opIntegral .down fi a),
    (.fceil, fun fi _ a => opIntegral .up fi a),
    (.ftrunc, fun fi _ a => opIntegral .zero fi a),
    (.frint, fun fi _ a => opIntegral .near fi a),
    (.fclass, fun fi _ a => (opClass fi a, 0)),
    (.cvtF32S32, fun _ _ a => roundTo fmtF32 false (.fin (2 ^ 31 ≤ a) (if 2 ^ 31 ≤ a then 2 ^ 32 - a else a) 0)),
    (.cvtF32N32, fun _ _ a => roundTo fmtF32 false (.fin false a 0)),
    (.cvtBf16F32, fun fi fo a => opNarrowBF16 fi fo a),
    (.cvtF32Bf16, fun fi _ a => opWiden fmtBF16 fi (a % 2 ^ 16)),
    (.cvtF32E4m3, fun fi _ a => opWiden fmtE4M3 fi (a % 2 ^ 8)),
    (.cvtF32E5m2, fun fi _ a => opWiden fmtE5M2 fi (a % 2 ^ 8)),
    (.cvtE4m3E2m1, fun fi _ a => (opExpand4 (some fmtE2M1) 4 fi a, 0)),
    (.cvtE4m3E3m2, fun fi _ a => (opExpand4 (some fmtE3M2) 6 fi a, 0)),
    (.cvtE4m3E2m3, fun fi _ a => (opExpand4 (some fmtE2M3) 6 fi a, 0)),
    (.cvtE4m3I4, fun fi _ a => (opExpand4 none 4 fi a, 0))] :
      List ((OpUF → Instr) × (Bool → Bool → Nat → Nat × Word))),
    ∀ x : OpUF, Produces (m.1 x) x.g x.w x.d fun e y =>
      let r := m.2 x.fi x.fo (readSrc e y x.a).toNat
      (BitVec.ofNat 32 r.1, r.2)) ∧
  (∀ x : OpCvtS, Produces (.cvtE4m3F32 x) x.g x.w x.d fun e y =>
    let r := opNarrowF8 fmtE4M3 x.fi x.fo x.sat (readSrc e y x.a).toNat
    (BitVec.ofNat 32 r.1, r.2)) ∧
  (∀ x : OpCvtS, Produces (.cvtE5m2F32 x) x.g x.w x.d fun e y =>
    let r := opNarrowF8 fmtE5M2 x.fi x.fo x.sat (readSrc e y x.a).toNat
    (BitVec.ofNat 32 r.1, r.2))) ∧
  (∀ (f : Fmt) (fi fo : Bool) (a b c : Nat), (f = fmtF32 ∨ f = fmtBF16) → a < 2 ^ (f.eb + f.mb + 1) → b < 2 ^ (f.eb + f.mb + 1) →
    c < 2 ^ (f.eb + f.mb + 1) →
    let x := valOf f (flush f fi a)
    let y := valOf f (flush f fi b)
    let z := valOf f (flush f fi c)
    x.isFin = true → y.isFin = true →
    f.RoundsRat fo (x.rat + y.rat) (x.negative && y.negative) (opAdd f fi fo a b) ∧
    f.RoundsRat fo (x.rat - y.rat) (x.negative && !y.negative) (opSub f fi fo a b) ∧
    f.RoundsRat fo (x.rat * y.rat) (x.negative != y.negative) (opMul f fi fo a b) ∧
    (z.isFin = true → f.RoundsRat fo (x.rat * y.rat + z.rat) ((x.negative != y.negative) && z.negative) (opFma f fi fo a b c))) ∧
  (∀ (fi : Bool) (a b : Nat), a < 2 ^ 32 → b < 2 ^ 32 →
    let x := valOf fmtF32 (flush fmtF32 fi a)
    let y := valOf fmtF32 (flush fmtF32 fi b)
    x.isFin = true → y.isFin = true → ∀ mx : Bool,
    let r := opMinMax mx fi false a b
    let z := valOf fmtF32 r.1
    r.2 = 0 ∧ (r.1 = flush fmtF32 fi a ∨ r.1 = flush fmtF32 fi b) ∧ z.rat = (if mx then max x.rat y.rat else min x.rat y.rat) ∧
      (z.rat = 0 → z.negative = if mx then x.negative && y.negative else x.negative || y.negative)) ∧
  (∀ j, j < 32 → fmtF32.Nearest false (fun q => decide (q ^ 32 ≤ 2 ^ j)) (fun q => decide (2 ^ j ≤ q ^ 32)) (exp2Table.getD j 0)) ∧
  (∀ (fi fo : Bool) (a : Nat), a < 2 ^ 32 →
    let x := valOf fmtF32 (flush fmtF32 fi a)
    let tab := fun j : Nat => (valOf fmtF32 (exp2Table.getD j 0)).rat
    let lit := fun c : Nat => (valOf fmtF32 c).rat
    x.isFin = true →
    (∀ n : Int, RneInt (x.rat * 32) n →
      (4096 ≤ n → opExp2 fi fo a = (0x7F800000, 0x14)) ∧
      (n < 4096 →
        let k := n / 32
        let r := x.rat - n / 32
        let t := tab (n % 32).toNat
        ∃ t1 t2 t3 y fl, OnceRounded (lit 0x3D635847 * r + lit 0x3E75FDF0) t1 ∧ OnceRounded (t1 * r + lit 0x3F317218) t2 ∧
          OnceRounded (t2 * r) t3 ∧ OnceRounded (t * t3 + t) y ∧
          fmtF32.RoundsRat fo (y * (2 : Rat) ^ k) false ((opExp2 fi fo a).1, fl) ∧
          (opExp2 fi fo a).2 = fl ||| if x.rat = k ∧ -126 ≤ k ∧ k ≤ 127 then 0 else 0x10)) ∧
    (0 < x.rat → ∀ (k : Int) (m : Rat) (j : Nat), x.rat = (2 : Rat) ^ k * m → 1 ≤ m → m < 2 → j < 32 → tab j ≤ m →
      (∀ i, j < i → i < 32 → m < tab i) →
        ∃ u t1 t2 t3 fl, OnceRounded ((m - tab j) * if j = 0 then 1 else tab (32 - j) / 2) u ∧
          OnceRounded (lit 0x3EF6384F * u + lit 0xBF38AA3B) t1 ∧ OnceRounded (t1 * u + lit 0x3FB8AA3B) t2 ∧ OnceRounded (t2 * u) t3 ∧
          fmtF32.RoundsRat false (k + j / 32 + t3) false ((opLog2 fi a).1, fl) ∧ (opLog2 fi a).2 = if m = 1 then 0 else fl ||| 0x10))

/-- R155: a float to a 32-bit integer, by its rounding direction. A NaN gives 0 and an infinity or a value beyond the range its
end, each with NV (1); within the range the result is the rounded value, with NX (0x10) exactly where that differs from x. R151: FFLOOR,
FCEIL, FTRUNC and FRINT give the integral value of a finite operand with its sign and no flag. R157, R158: a widening from BF16 or FP8
keeps the value and the sign and sets no flag, and each of the four elements of a sub-byte word becomes the E4M3 code of its value.
That a widening of a BF16 subnormal ignores FO is the model's reading (DEDUCED, log 93). -/
def Obligations.FloatToInteger : Prop :=
  (∀ m ∈ ([(.cvtS32F32, -(2 ^ 31), 2 ^ 31 - 1), (.cvtN32F32, 0, 2 ^ 32 - 1)] : List ((OpCvtR → Instr) × Int × Int)),
  ∀ x : OpCvtR, ∃ f : Word → Word × Word,
    (Produces (m.1 x) x.g x.w x.d fun e y => f (readSrc e y x.a)) ∧
    ∀ a : Word,
      match valOf fmtF32 (flush fmtF32 x.fi a.toNat) with
      | .nan _ => f a = (0, 1)
      | .inf neg => f a = (BitVec.ofInt 32 (if neg then m.2.1 else m.2.2), 1)
      | .fin neg k e =>
        let v : Rat := (if neg then -1 else 1) * k * (2 : Rat) ^ e
        let near := fun (z : Int) => (z : Rat) - v ≤ 1 / 2 ∧ v - z ≤ 1 / 2 ∧ (((z : Rat) - v = 1 / 2 ∨ v - z = 1 / 2) → z % 2 = 0)
        ∃ z : Int,
          (match x.r with
            | .rn => near z
            | .rz => z = (if neg then -(-v).floor else v.floor)
            | .rd => z = v.floor
            | .ru => z = -(-v).floor) ∧
          f a = if z < m.2.1 then (BitVec.ofInt 32 m.2.1, 1)
            else if m.2.2 < z then (BitVec.ofInt 32 m.2.2, 1)
            else (BitVec.ofInt 32 z, if (z : Rat) = v then 0 else 0x10)) ∧
  (∀ (d : RDir) (fi : Bool) (a : Nat), a < 2 ^ 32 →
    let x := valOf fmtF32 (flush fmtF32 fi a)
    let r := opIntegral d fi a
    x.isFin = true → r.2 = 0 ∧ r.1 < 2 ^ 32 ∧ (valOf fmtF32 r.1).isFin = true ∧ (valOf fmtF32 r.1).negative = x.negative ∧
      ∃ z : Int, (valOf fmtF32 r.1).rat = z ∧ match d with
        | .near => RneInt x.rat z
        | .zero => z = if x.negative then -(-x.rat).floor else x.rat.floor
        | .down => z = x.rat.floor
        | .up => z = -(-x.rat).floor) ∧
  (∀ (f : Fmt) (fi : Bool) (a : Nat), (f = fmtBF16 ∨ f = fmtE4M3 ∨ f = fmtE5M2) → a < 2 ^ (f.eb + f.mb + 1) →
    let x := valOf f (flush f fi a)
    let z := valOf fmtF32 (opWiden f fi a).1
    x.isFin = true → (opWiden f fi a).2 = 0 ∧ (opWiden f fi a).1 < 2 ^ 32 ∧ z.isFin = true ∧ z.rat = x.rat ∧ z.negative = x.negative) ∧
  (∀ (fi : Bool) (a k : Nat), k < 4 →
    let element := fun r : Nat => valOf fmtE4M3 (r / 2 ^ (8 * k) % 2 ^ 8)
    (∀ p ∈ [(fmtE2M1, 4), (fmtE3M2, 6), (fmtE2M3, 6)],
      let x := valOf p.1 (flush p.1 fi (a / 2 ^ (p.2 * k) % 2 ^ p.2))
      let z := element (opExpand4 (some p.1) p.2 fi a)
      z.isFin = true ∧ z.rat = x.rat ∧ z.negative = x.negative) ∧
    (let z := element (opExpand4 none 4 fi a)
     let i : Nat := a / 2 ^ (4 * k) % 2 ^ 4
     z.isFin = true ∧ z.rat = (if i < 8 then (i : Rat) else i - 16) ∧ z.negative = decide (8 ≤ i)))

/-- R15, R16, R17, R148, R149, R152: what no rounding decides. Every NaN result is 0x7FC00000, with NV (1) exactly where a
signalling NaN went in or the operation is undefined; FMIN and FMAX ignore one NaN; FI takes a subnormal input for a zero of
its sign, FO delivers a subnormal result as a zero of its sign with UF and NX (0x18); FCLASS sets the one bit of the class. R148: an
infinity in a sum, a product or a fused sum gives an infinity. R150, R32: FSQRT, FRCP, FRSQ, FEXP2 and FLOG2 of NaNs, infinities, zeros
and negative numbers, with DZ (2) and NV as their rules say. R19, R151, R156, R157: NaNs and infinities in the integral members and in
the conversions between float formats; a saturating E4M3 clamps an infinity and sets SAT (0x20). -/
def Obligations.FloatSpecialValues : Prop :=
  let nan := fun a => 0x7F800000 < a % 2 ^ 31
  let snan := fun a => nan a ∧ a / 2 ^ 22 % 2 = 0
  let sub := fun a => 0 < a % 2 ^ 31 ∧ a % 2 ^ 31 < 0x00800000
  (∀ a b, a < 2 ^ 32 → b < 2 ^ 32 → ∀ fi fo, (nan a ∨ nan b) →
    ∀ op ∈ [opAdd fmtF32, opSub fmtF32, opMul fmtF32], op fi fo a b = (0x7FC00000, if snan a ∨ snan b then 1 else 0)) ∧
  (∀ a b c, a < 2 ^ 32 → b < 2 ^ 32 → c < 2 ^ 32 → ∀ fi fo, (nan a ∨ nan b ∨ nan c) → (opFma fmtF32 fi fo a b c).1 = 0x7FC00000) ∧
  (∀ fi fo, opAdd fmtF32 fi fo 0x7F800000 0xFF800000 = (0x7FC00000, 1) ∧ opSub fmtF32 fi fo 0x7F800000 0x7F800000 = (0x7FC00000, 1)
    ∧ opMul fmtF32 fi fo 0 0x7F800000 = (0x7FC00000, 1) ∧ opFma fmtF32 fi fo 0 0x7F800000 0x7FC00000 = (0x7FC00000, 1)) ∧
  (∀ a b, a < 2 ^ 32 → b < 2 ^ 32 → ∀ mx fo, nan b → ¬ nan a → ¬ sub a →
    opMinMax mx false fo a b = (a, if snan b then 1 else 0) ∧ opMinMax mx false fo b a = (a, if snan b then 1 else 0)) ∧
  (∀ a, a < 2 ^ 32 → ∀ fo b, sub a → (opAdd fmtF32 true fo a b = opAdd fmtF32 true fo (a / 2 ^ 31 * 2 ^ 31) b
    ∧ opMul fmtF32 true fo a b = opMul fmtF32 true fo (a / 2 ^ 31 * 2 ^ 31) b)) ∧
  (∀ a, a < 2 ^ 32 → sub a → opSign (fun n => !n) false true a = ((1 - a / 2 ^ 31) * 2 ^ 31, 0x18)
    ∧ opSign (fun _ => false) false true a = (0, 0x18)) ∧
  (∀ a, a < 2 ^ 32 → opClass false a = 2 ^ (if nan a then (if snan a then 8 else 9)
    else if a % 2 ^ 31 = 0x7F800000 then (if a / 2 ^ 31 = 1 then 0 else 7)
    else if a % 2 ^ 31 = 0 then (if a / 2 ^ 31 = 1 then 3 else 4)
    else if sub a then (if a / 2 ^ 31 = 1 then 2 else 5)
    else (if a / 2 ^ 31 = 1 then 1 else 6))) ∧
  (∀ (f : Fmt) (fi fo : Bool) (a b c : Nat) (n : Bool), (f = fmtF32 ∨ f = fmtBF16) →
    let x := valOf f (flush f fi a)
    let y := valOf f (flush f fi b)
    let z := valOf f (flush f fi c)
    let inf := fun s : Bool => (if s then 2 ^ (f.eb + f.mb) else 0) + 255 * 2 ^ f.mb
    x = .inf n →
    (y.isFin = true ∨ y = .inf n → opAdd f fi fo a b = (inf n, 0) ∧ opAdd f fi fo b a = (inf n, 0)) ∧
    (y = .inf y.negative ∨ (y.isFin = true ∧ y.rat ≠ 0) →
      opMul f fi fo a b = (inf (n != y.negative), 0) ∧ opMul f fi fo b a = (inf (n != y.negative), 0) ∧
      (z.isFin = true ∨ z = .inf (n != y.negative) → opFma f fi fo a b c = (inf (n != y.negative), 0))) ∧
    (y.isFin = true → z.isFin = true → opFma f fi fo b c a = (inf n, 0))) ∧
  (∀ fi fo a, a < 2 ^ 32 →
    let q : Nat × Word := (0x7FC00000, if snan a then 1 else 0)
    (nan a → opSqrt fi fo a = q ∧ opRcp fi fo a = q ∧ opRsq fi fo a = q ∧ opExp2 fi fo a = q ∧ opLog2 fi a = q ∧
      (∀ d, opIntegral d fi a = q) ∧ opNarrowBF16 fi fo a = (0x7FC0, q.2) ∧
      ∀ sat, opNarrowF8 fmtE4M3 fi fo sat a = (0x7F, q.2) ∧ opNarrowF8 fmtE5M2 fi fo sat a = (0x7E, q.2)) ∧
    (2 ^ 31 < a → a ≤ 0xFF800000 → (fi = false ∨ ¬ sub a) → opSqrt fi fo a = (0x7FC00000, 1) ∧ opRsq fi fo a = (0x7FC00000, 1) ∧
      opLog2 fi a = (0x7FC00000, 1))) ∧
  (∀ fi fo,
    opSqrt fi fo 0x80000000 = (0x80000000, 0) ∧ opSqrt fi fo 0 = (0, 0) ∧ opSqrt fi fo 0x7F800000 = (0x7F800000, 0) ∧
    opRcp fi fo 0xFF800000 = (0x80000000, 0) ∧ opRcp fi fo 0x80000000 = (0xFF800000, 2) ∧ opRcp fi fo 0 = (0x7F800000, 2) ∧
    opRcp fi fo 0x7F800000 = (0, 0) ∧
    opRsq fi fo 0x80000000 = (0xFF800000, 0) ∧ opRsq fi fo 0 = (0x7F800000, 0) ∧ opRsq fi fo 0x7F800000 = (0, 0) ∧
    opExp2 fi fo 0x7F800000 = (0x7F800000, 0) ∧ opExp2 fi fo 0xFF800000 = (0, 0) ∧
    opLog2 fi 0 = (0xFF800000, 2) ∧ opLog2 fi 0x80000000 = (0xFF800000, 2) ∧ opLog2 fi 0x7F800000 = (0x7F800000, 0) ∧
    ∀ s : Bool,
      let m := fun (top : Nat) (k : Nat) => (if s then top else 0) + k
      let a := m (2 ^ 31) 0x7F800000
      (∀ d, opIntegral d fi a = (a, 0)) ∧ opNarrowBF16 fi fo a = (m (2 ^ 15) 0x7F80, 0) ∧
      opNarrowF8 fmtE4M3 fi fo true a = (m (2 ^ 7) 0x7E, 0x20) ∧ opNarrowF8 fmtE4M3 fi fo false a = (0x7F, 1) ∧
      (∀ sat, opNarrowF8 fmtE5M2 fi fo sat a = (m (2 ^ 7) 0x7C, 0)) ∧
      opWiden fmtBF16 fi (m (2 ^ 15) 0x7F80) = (a, 0) ∧ opWiden fmtE5M2 fi (m (2 ^ 7) 0x7C) = (a, 0)) ∧
  (∀ fi,
    (∀ a, a < 2 ^ 16 → 0x7F80 < a % 2 ^ 15 → opWiden fmtBF16 fi a = (0x7FC00000, if a / 2 ^ 6 % 2 = 0 then 1 else 0)) ∧
    (∀ a, a < 2 ^ 8 → 0x7C < a % 2 ^ 7 → opWiden fmtE5M2 fi a = (0x7FC00000, if a / 2 % 2 = 0 then 1 else 0)) ∧
    opWiden fmtE4M3 fi 0x7F = (0x7FC00000, 0) ∧ opWiden fmtE4M3 fi 0xFF = (0x7FC00000, 0))

/-- R14, R16: the number that a code of each format names, and FI. R15, R16, R18: rounding to binary32 and BF16 is to nearest, ties to even; an
infinity with OF and NX (0x14) from half a unit beyond the largest value on; NX (0x10) exactly where the result differs, UF (0x08) too
where the result is tiny after rounding; FO makes a subnormal result a zero with UF and NX. No code of a nonzero value's sign is
nearer than the result. R19, R156: the same to FP8, where a magnitude that rounds beyond the largest value is clamped with SAT (0x20), or is
a NaN in E4M3 and an infinity in E5M2 with OF and NX. R150: FSQRT, FRCP and FRSQ round the exact root and reciprocal once.
What FP8 rounding calls beyond the largest value, and its UF, are the model's readings (DEDUCED, log 9). -/
def Obligations.FloatRounding : Prop :=
  (∀ (neg : Bool) (m : Nat) (e : Int), m ≠ 0 →
    let x : Rat := m * (2 : Rat) ^ e
    ∀ m' e', valOf fmtF32 (roundTo fmtF32 false (.fin neg m e)).1 = .fin neg m' e' →
      ∀ y m'' e'', y < 2 ^ 32 → valOf fmtF32 y = .fin neg m'' e'' →
        let d : Rat := |m' * (2 : Rat) ^ e' - x|
        let d' : Rat := |m'' * (2 : Rat) ^ e'' - x|
        d ≤ d' ∧ (d = d' → (m' : Rat) * 2 ^ e' ≠ m'' * 2 ^ e'' → (roundTo fmtF32 false (.fin neg m e)).1 % 2 = 0)) ∧
  (∀ p ∈ ([(fmtF32, 8, 23, 127, true), (fmtBF16, 8, 7, 127, true), (fmtE5M2, 5, 2, 15, true), (fmtE4M3, 4, 3, 7, false),
      (fmtE3M2, 3, 2, 3, false), (fmtE2M3, 2, 3, 1, false), (fmtE2M1, 2, 1, 1, false)] : List (Fmt × Nat × Nat × Nat × Bool)),
    let f := p.1
    let eb := p.2.1
    let mb := p.2.2.1
    let bias := p.2.2.2.1
    ∀ x, x < 2 ^ (eb + mb + 1) →
      let neg := decide (x / 2 ^ (eb + mb) = 1)
      let e : Nat := x / 2 ^ mb % 2 ^ eb
      let m : Nat := x % 2 ^ mb
      let topmost := p.2.2.2.2 = true ∧ e = 2 ^ eb - 1
      let nan := f = fmtE4M3 ∧ x % 2 ^ 7 = 2 ^ 7 - 1
      (topmost → valOf f x = if m = 0 then .inf neg else .nan (decide (m < 2 ^ (mb - 1)))) ∧ (nan → valOf f x = .nan false) ∧
      (¬ topmost → ¬ nan → (valOf f x).isFin = true ∧ (valOf f x).negative = neg ∧
        |(valOf f x).rat| = if e = 0 then m * (2 : Rat) ^ (1 - (bias : Int) - mb) else (2 ^ mb + m) * (2 : Rat) ^ ((e : Int) - bias - mb)) ∧
      flush f false x = x ∧ flush f true x = if e = 0 ∧ m ≠ 0 then x - m else x) ∧
  (∀ (f : Fmt) (fo neg : Bool) (m : Nat) (e : Int), (f = fmtF32 ∨ f = fmtBF16) →
    let x : Rat := m * (2 : Rat) ^ e
    f.Rounds fo neg (fun q => decide (q ≤ x)) (fun q => decide (x ≤ q)) (roundTo f fo (.fin neg m e))) ∧
  (∀ (sat fo neg : Bool) (m : Nat) (e : Int),
    let x : Rat := m * (2 : Rat) ^ e
    let s := if neg then 0x80 else 0
    let four := roundF8 fmtE4M3 sat fo (.fin neg m e)
    let five := roundF8 fmtE5M2 sat fo (.fin neg m e)
    (x ≤ 464 → fmtE4M3.RoundsFinite fo neg (fun q => decide (q ≤ x)) (fun q => decide (x ≤ q)) four) ∧
    (464 < x → four = if sat then (s + 0x7E, 0x20) else (0x7F, 0x14)) ∧
    (x < 61440 → fmtE5M2.RoundsFinite fo neg (fun q => decide (q ≤ x)) (fun q => decide (x ≤ q)) five) ∧
    (61440 ≤ x → five = if sat then (s + 0x7B, 0x20) else (s + 0x7C, 0x14))) ∧
  (∀ (fi fo : Bool) (a : Nat), a < 2 ^ 32 →
    let x := valOf fmtF32 (flush fmtF32 fi a)
    let v := x.rat
    x.isFin = true →
    fmtBF16.RoundsRat fo v x.negative (opNarrowBF16 fi fo a) ∧
    (∀ sat, opNarrowF8 fmtE4M3 fi fo sat a = roundF8 fmtE4M3 sat fo x ∧ opNarrowF8 fmtE5M2 fi fo sat a = roundF8 fmtE5M2 sat fo x) ∧
    (0 < v → fmtF32.Rounds fo false (fun q => decide (q * q ≤ v)) (fun q => decide (v ≤ q * q)) (opSqrt fi fo a)) ∧
    (0 < v → fmtF32.Rounds fo false (fun q => decide (q * q * v ≤ 1)) (fun q => decide (1 ≤ q * q * v)) (opRsq fi fo a)) ∧
    (v ≠ 0 → fmtF32.Rounds fo x.negative (fun q => decide (q * |v| ≤ 1)) (fun q => decide (1 ≤ q * |v|)) (opRcp fi fo a)))

/-- R153, R126: FCMP writes one predicate and sets NV for a signalling NaN, and for any NaN where an ordering condition is not
quiet; where the fault mask selects NV a contained lane ends instead (R108). Values compare as the numbers that they are, −0 equal to +0,
with the infinities at the ends, and a NaN neither equals nor precedes a value. -/
def Obligations.FloatCompare : Prop :=
  (∀ (x : OpFCmp) (s : State) (c : Ctx) (n : Nat) (l : Lane), Executes s c (.fcmp x) n l →
    let y := l.started (.fcmp x) c
    let a := valOf fmtF32 (flush fmtF32 x.fi (readSrc (c.env n) y x.a).toNat)
    let b := valOf fmtF32 (flush fmtF32 x.fi (readSrc (c.env n) y x.b).toNat)
    let un := a.isNaN || b.isNaN
    let k : Bool := match x.cond with
      | .eq => numEq a b
      | .ne => un || !numEq a b
      | .lt => numLt a b && !numEq a b
      | .le => !un && (numLt a b || numEq a b)
      | .gt => numLt b a && !numEq a b
      | .ge => !un && (numLt b a || numEq a b)
      | .un => un
      | .ord => !un
    let order := x.cond = .lt ∨ x.cond = .le ∨ x.cond = .gt ∨ x.cond = .ge
    let nv : Bool := a = .nan true ∨ b = .nan true ∨ (!x.q ∧ un ∧ order)
    ∃ t, exec (.fcmp x) s = .next t ∧ c.laneIn t n = some (
      if x.g.holds y then
        if nv ∧ y.inside.isSome ∧ (recFmask c.r).testBit 1 then y.deliver 0x0A
        else ({ y with
          p := y.p.set x.pd.val (combine x.comb y.p[x.pd.val] k)
          status := y.status ||| (if nv then 1 else 0) } : Lane).past c
      else y.past c)) ∧
  (∀ x y : Sys2Proof.Num,
    let less := numLt x y && !numEq x y
    (x.isNaN = true ∨ y.isNaN = true → numEq x y = false ∧ numLt x y = false) ∧
    (x.isFin = true → y.isFin = true → (numEq x y = true ↔ x.rat = y.rat) ∧ (less = true ↔ x.rat < y.rat)) ∧
    (∀ n, x = .inf n → y.isFin = true → numEq x y = false ∧ numEq y x = false ∧ less = n ∧ (numLt y x && !numEq y x) = !n) ∧
    (∀ n k, x = .inf n → y = .inf k → (numEq x y = (n == k)) ∧ less = (n && !k))) ∧
  numEq (valOf fmtF32 0x80000000) (valOf fmtF32 0) = true

/-- R160 to R163: PLMAX, PLENC and PLDEC. A block is sixteen lanes; a lane of it that is not in the unit, fails its checks or
has a false guard gives +0, and a contained lane is alone in its block. R22, R23: an element read through n planes is the number that its
sign, exponent and leading mantissa bits name at its block's scale, raised by one unit where the next plane is rounded; R27: an element
encodes a number by one rounding, up to the largest magnitude; R28: a block of sixteen values takes its exponent from the largest and its
pair bits from the pairs; not-finite values give a NaN block and zeros the zero block. R25: the places of planes, E and μ in a block line.
That a lane which fails its checks gives +0 is the model's reading (DEDUCED, log 35). -/
def Obligations.PlaneElements : Prop :=
  let block := fun (c : Ctx) (i : Instr) (x : OpU) (n : Nat) => (List.range 16).map fun k =>
    let m := n / 16 * 16 + k
    if ((c.g.lane n).inside.isSome ∧ m ≠ n) ∨ m ∉ c.givers i x.g then 0 else (c.sees x.a m).toNat
  (∀ x : OpU, ProducesIn (.plmax x) x.g x.w x.d fun c e _ =>
    let vs := block c (.plmax x) x e.n
    (if ∃ v ∈ vs, 0x7F800000 < v % 2 ^ 31 then 0x7FC00000 else BitVec.ofNat 32 ((vs.map (· % 2 ^ 31)).foldr max 0), 0)) ∧
  (∀ x : OpU, ProducesIn (.plenc x) x.g x.w x.d fun c e _ => blockEnc (block c (.plenc x) x e.n) (e.n % 16)) ∧
  (∀ x : OpPlDec, Produces (.pldec x) x.g x.w x.d fun e y =>
    let a := (readSrc e y x.a).toNat
    if a / 2 ^ 24 = 0xFF then (0x7FC00000, 0)
    else
      let v := readElem ⟨a / 2 ^ 24, 0, [a % 2 ^ 24]⟩ 0 (x.n.val + 1) x.rnp
      let r := roundTo fmtF32 false v.1
      (BitVec.ofNat 32 r.1, r.2 ||| if v.2 then 0x20 else 0)) ∧
  (∀ (b : Block) (i n : Nat) (rnp : Bool), 1 ≤ n → n ≤ 4 → b.elems.getD i 0 < 2 ^ 24 →
    let x := b.elems.getD i 0
    let e := x / 2 ^ 21 % 4
    let bits := [1, 5, 13, 21].getD (n - 1) 0
    let f := x % 2 ^ 21 / 2 ^ (21 - bits) + if rnp = true ∧ n < 4 ∧ x / 2 ^ (20 - bits) % 2 = 1 then 1 else 0
    let r : Nat × Nat × Bool := if f < 2 ^ bits then (e, f, false) else if e < 3 then (e + 1, 0, false) else (3, 2 ^ bits - 1, true)
    let scale : Rat := (2 : Rat) ^ ((b.e : Int) - 127 - (b.mu / 2 ^ (i / 2) % 2 : Nat))
    let y := readElem b i n rnp
    (b.e = 0xFF → y = (.nan false, false)) ∧
    (b.e ≠ 0xFF → y.1.isFin = true ∧ y.1.negative = decide (x / 2 ^ 23 = 1) ∧ y.2 = r.2.2 ∧
      |y.1.rat| = if r.1 = 0 then r.2.1 / 2 ^ bits * scale else 2 ^ (r.1 - 1) * (1 + (r.2.1 : Rat) / 2 ^ bits) * scale)) ∧
  (∀ (neg : Bool) (m : Nat) (x sc : Int),
    let a : Rat := m * (2 : Rat) ^ (x - sc)
    let s := if neg then 2 ^ 23 else 0
    let y := encodeElem neg m x sc
    (a < 1 → ∃ z : Nat, RneInt (a * 2 ^ 21) z ∧ y = (s + z, false)) ∧
    (∀ l : Nat, 2 ^ l ≤ a → a < 2 ^ (l + 1) → ∃ z : Nat, RneInt ((a / 2 ^ l - 1) * 2 ^ 21) z ∧
      let code := (l + 1) * 2 ^ 21 + z
      y = if code < 2 ^ 23 then (s + code, false) else (s + 2 ^ 23 - 1, true))) ∧
  (∀ (vs : List Nat) (k : Nat), vs.length = 16 → (∀ v ∈ vs, v < 2 ^ 32) → k < 16 →
    let val := fun j => valOf fmtF32 (vs.getD j 0)
    let mag := fun j => |(val j).rat|
    let fin := ∀ j, j < 16 → (val j).isFin = true
    let y := blockEnc vs k
    let em := fun e mu : Nat => if k % 2 = 0 then e * 2 ^ 24 else mu * 2 ^ 24
    (¬ fin → y = (BitVec.ofNat 32 (em 0xFF 0), if (val k).isFin then 0 else 0x20)) ∧
    (fin → (∀ j, j < 16 → (val j).rat = 0) → y = (BitVec.ofNat 32 (em 1 0), 0)) ∧
    (fin → ∀ (t : Nat) (l : Int), t < 16 → (∀ j, j < 16 → mag j ≤ mag t) → (2 : Rat) ^ l ≤ mag t → mag t < (2 : Rat) ^ (l + 1) →
      let e := (max 1 (min 254 (l - 2 + 127))).toNat
      let low := fun j : Nat => max (mag (2 * j)) (mag (2 * j + 1)) < 4 * (2 : Rat) ^ ((e : Int) - 127)
      ∃ mu : Nat, mu < 2 ^ 8 ∧ (∀ j, j < 8 → (mu.testBit j = true ↔ low j)) ∧
        ∀ n m x, val k = .fin n m x →
          let c := encodeElem n m x ((e : Int) - 127 - if mu.testBit (k / 2) then 1 else 0)
          y = (BitVec.ofNat 32 (em e mu + c.1), if c.2 then 0x20 else 0))) ∧
  (∀ (bs : List Byte) (i : Nat), bs.length = 64 → i < 16 →
    let at_ := fun k => (bs.getD k 0).toNat
    let nibble := fun plane => at_ (8 * plane + i / 2) / 2 ^ (4 * (i % 2)) % 2 ^ 4
    let b := Block.ofLine bs
    b.e = at_ 48 ∧ b.mu = at_ 49 ∧ b.elems.length = 16 ∧
      b.elems.getD i 0 = nibble 0 * 2 ^ 20 + nibble 1 * 2 ^ 16 + at_ (16 + i) * 2 ^ 8 + at_ (32 + i)) ∧
  (∀ b : Block, b.e < 2 ^ 8 → b.mu < 2 ^ 8 → b.elems.length = 16 → (∀ x ∈ b.elems, x < 2 ^ 24) →
    b.line.length = 64 ∧ Block.ofLine b.line = b ∧ b.line.drop 50 = List.replicate 14 0)

/-! ## Shuffles and the cohort family (spec/09_core_memory_sync.md) -/

/-- R214: a shuffle delivers the A that the selected lane read at issue, where that lane is in the unit and passes its checks,
and otherwise the lane's own. That a lane failing its checks is not in it is the model's reading (DEDUCED, log 35). -/
def Obligations.ShuffleResults : Prop :=
  ∀ m ∈ ([
    (.shfli, fun _ b => b),
    (.shflu, fun n b => n - b),
    (.shfld, fun n b => n + b),
    (.shflx, fun n b => (n.toNat ^^^ b.toNat : Nat))] : List ((OpR → Instr) × (Int → Int → Int))),
  ∀ x : OpR, ProducesIn (m.1 x) x.g x.w x.d fun c e y =>
    let j := m.2 e.n (readSrc e y x.b).toNat
    (if 0 ≤ j ∧ j < c.g.width ∧ j.toNat ∈ c.lanes ∧ ((c.g.lane j.toNat).begin_ (m.1 x) c).2 = none
      then c.sees x.a j.toNat else readSrc e y x.a, 0)

/-- R215 to R218: votes, ballots and reductions over the contributing lanes. A mask has the bits of the lane's own 32 lanes.
REDFADD's flags are raised, and where the fault mask selects one a contained lane ends. R218: REDFADD sums by the fixed tree of
neighbours: two present children are added and rounded, one present child passes, and no lane present gives none.
That a lane failing its checks does not contribute is the model's reading (DEDUCED, log 35). -/
def Obligations.CohortResults : Prop :=
  ((∀ m ∈ ([
    (.vany, fun vs => if vs.any (· != 0) then 1 else 0),
    (.vall, fun vs => if vs.all (· != 0) then 1 else 0),
    (.redadd, fun vs => BitVec.ofNat 32 (vs.map BitVec.toNat).sum),
    (.redmin, fun vs => BitVec.ofInt 32 ((vs.map BitVec.toInt).foldr min (2 ^ 31 - 1))),
    (.redmax, fun vs => BitVec.ofInt 32 ((vs.map BitVec.toInt).foldr max (-(2 ^ 31))))] :
      List ((OpCoh → Instr) × (List Word → Word))),
    ∀ x : OpCoh, ChangesIn (m.1 x) x.g fun c _ y =>
      y.setReg x.d (m.2 ((c.givers (m.1 x) x.g).map (c.sees x.a)))) ∧
  (∀ x : OpCoh, ChangesIn (.vbal x) x.g fun c e y =>
    y.setReg x.d (BitVec.ofNat 32 (((List.range 32).map fun k =>
      let m := (if c.g.width = 64 then e.n / 32 * 32 else 0) + k
      if m ∈ c.givers (.vbal x) x.g ∧ c.sees x.a m ≠ 0 then 2 ^ k else 0).sum))) ∧
  (∀ x : OpPToV, ChangesIn (.ptov x) x.g fun c e y =>
    y.setReg x.d (BitVec.ofNat 32 (((List.range 32).map fun k =>
      let m := (if c.g.width = 64 then e.n / 32 * 32 else 0) + k
      if m ∈ c.givers (.ptov x) x.g ∧ (c.g.lane m).p[x.p.val] then 2 ^ k else 0).sum))) ∧
  (∀ x : OpVToP, ChangesIn (.vtop x) x.g fun c e y =>
    let half := (c.givers (.vtop x) x.g).filter fun m => c.g.width ≠ 64 ∨ m / 32 = e.n / 32
    let a := (half.head?.map (c.sees x.a)).getD (readSrc e y x.a)
    { y with p := y.p.set x.p.val (a.toNat.testBit (e.n % 32)) }) ∧
  (∀ (x : OpCoh) (s : State) (c : Ctx) (n : Nat) (l : Lane), Executes s c (.redfadd x) n l →
    let y := l.started (.redfadd x) c
    let r := treeSum (fun q => if q ∈ c.givers (.redfadd x) x.g then some (c.sees x.a q).toNat else none) (log2 c.g.width) 0
    ∃ t, exec (.redfadd x) s = .next t ∧ c.laneIn t n = some (
      if x.g.holds y then
        match y.raises (recFmask c.r) r.2 with
        | some e => y.deliver e.outcome
        | none => ((y.setReg x.d (BitVec.ofNat 32 (r.1.getD 0))).setFlags r.2).past c
      else y.past c))) ∧
  (∀ (v : Nat → Option Nat) (m q : Nat),
    let x := treeSum v m q
    let y := treeSum v m (q + 2 ^ m)
    treeSum v 0 q = (v q, 0) ∧
    (∀ a b, x.1 = some a → y.1 = some b → treeSum v (m + 1) q =
      (some (opAdd fmtF32 false false a b).1, x.2 ||| y.2 ||| (opAdd fmtF32 false false a b).2)) ∧
    (y.1 = none → (treeSum v (m + 1) q).1 = x.1) ∧ (x.1 = none → (treeSum v (m + 1) q).1 = y.1))

/-! ## Lane control (spec/05_lane_integer_control.md) -/

/-- R128, R129, R133: BRA, DBNZ and MBR; offsets count from the unit's instruction word, its last (the model's reading for a hinted unit:
DEDUCED, log 14). MBR takes the target of the first
of its selected predicates that holds, from the HBT words of the unit, and falls through where none does. R130: JMPR goes to the
word index in A. A contained lane whose target lies outside its candidate ends with PCBOUNDS (4). R96, R128, R130: CALL and
CALLR with room in the return stack push the word after the unit and go to the target; RET with an entry pops the newest and
goes there. A contained lane with a full stack ends with CALLDEPTH and one with an empty stack with the same (7); its CALLR
outside the candidate ends with PCBOUNDS (4), and the push is not kept. R97: in ordinary state a call on a full stack stores its two
oldest entries at [%tid, spill count] of view w63 and raises the count, and a RET of an empty stack with a count lowers it, loads them
back and pops; where w63 is not a valid B64 view of rank 2 with R and W, or does not hold the coordinate, the group halts with kind 0x06,
and a RET with nothing spilt with kind 0x07. That the record of kind 0x06 names view 63 in DETAIL is the model's reading (DEDUCED,
log 12). -/
def Obligations.BranchesAndCalls : Prop :=
  ((∀ x : OpB, Transfers (.bra x) x.g fun c _ y =>
    (y, some (y.pc + BitVec.ofNat 32 (c.words - 1) + x.off.signExtend 32))) ∧
  (∀ x : OpBL, Transfers (.dbnz x) x.g fun c _ y =>
    let v := y.reg x.a - 1
    (y.setReg x.a v, if v = 0 then none else some (y.pc + BitVec.ofNat 32 (c.words - 1) + x.off.signExtend 32))) ∧
  (∀ x : OpMbr, Transfers (.mbr x) .always fun c _ y =>
    let offs := ((c.hints.filterMap fun h => match h with
      | .bt b => some [b.t1, b.t2]
      | _ => none)).flatten
    let sels := [x.q1, x.q2, x.q3, x.q4].take (x.n.val + 1)
    (y, ((sels.zip offs).find? fun p => y.p[p.1.p.val] != p.1.neg).map fun p =>
      y.pc + BitVec.ofNat 32 (c.words - 1) + p.2.signExtend 32))) ∧
  (∀ (x : OpGA) (s : State) (c : Ctx) (n : Nat) (l : Lane), Executes s c (.jmpr x) n l →
    let y := l.started (.jmpr x) c
    let a := readSrc (c.env n) y x.a
    let out := ∃ k, y.inside = some k ∧ (a.toNat < k.entry ∨ k.limit ≤ a.toNat)
    ∃ t, exec (.jmpr x) s = .next t ∧
      (x.g.holds y = true → out → c.laneIn t n = some (y.deliver 4)) ∧
      (x.g.holds y = true → ¬ out → c.laneIn t n = some { y with pc := a, chain := 0 }) ∧
      (x.g.holds y = false → c.laneIn t n = some { y.past c with chain := 0 })) ∧
  ((∀ (x : OpB) (s : State) (c : Ctx) (n : Nat) (l : Lane), Executes s c (.call x) n l →
    let y := l.started (.call x) c
    ∃ t, exec (.call x) s = .next t ∧
      (x.g.holds y = false → c.laneIn t n = some { y.past c with chain := 0 }) ∧
      (x.g.holds y = true → y.stack.length < 4 → c.laneIn t n = some { y with
        stack := y.stack ++ [y.pc + BitVec.ofNat 32 c.words]
        pc := y.pc + BitVec.ofNat 32 (c.words - 1) + x.off.signExtend 32
        chain := 0 }) ∧
      (x.g.holds y = true → ¬ y.stack.length < 4 → y.inside.isSome → c.laneIn t n = some (y.deliver 7))) ∧
  (∀ (x : OpGA) (s : State) (c : Ctx) (n : Nat) (l : Lane), Executes s c (.callr x) n l →
    let y := l.started (.callr x) c
    let a := readSrc (c.env n) y x.a
    let out := ∃ k, y.inside = some k ∧ (a.toNat < k.entry ∨ k.limit ≤ a.toNat)
    ∃ t, exec (.callr x) s = .next t ∧
      (x.g.holds y = false → c.laneIn t n = some { y.past c with chain := 0 }) ∧
      (x.g.holds y = true → y.stack.length < 4 → ¬ out → c.laneIn t n = some { y with
        stack := y.stack ++ [y.pc + BitVec.ofNat 32 c.words], pc := a, chain := 0 }) ∧
      (x.g.holds y = true → y.stack.length < 4 → out → c.laneIn t n = some (y.deliver 4)) ∧
      (x.g.holds y = true → ¬ y.stack.length < 4 → y.inside.isSome → c.laneIn t n = some (y.deliver 7))) ∧
  (∀ (x : OpG) (s : State) (c : Ctx) (n : Nat) (l : Lane), Executes s c (.ret x) n l →
    let y := l.started (.ret x) c
    ∃ t, exec (.ret x) s = .next t ∧
      (x.g.holds y = false → c.laneIn t n = some { y.past c with chain := 0 }) ∧
      (∀ es e, x.g.holds y = true → y.stack = es ++ [e] →
        c.laneIn t n = some { y with stack := es, pc := e, chain := 0 }) ∧
      (x.g.holds y = true → y.stack = [] → y.inside.isSome → c.laneIn t n = some (y.deliver 7)))) ∧
  (let fits := fun (c : Ctx) (n count : Nat) =>
     let v := c.view 63
     v.valid = true ∧ v.rank = 2 ∧ v.ty = 0x03 ∧ v.hasR = true ∧ v.hasW = true ∧
       (BitVec.ofNat 32 (c.env n).tid).toNat < v.extN 0 ∧ count < v.extN 1
   let place := fun (s : State) (c : Ctx) (n count : Nat) (k : Access) (a : Nat) =>
     let v := c.view 63
     v.sram = true ∧ v.region = none ∧ a < 2 ^ 40 ∧ s.firewall c.t.part a = true ∧ s.strayAt a = [] ∧ s.poisoned a 8 = false ∧
       ∃ off, v.resolve k [(BitVec.ofNat 32 (c.env n).tid).toNat, count] 8 = .ok off ∧ s.sramAt c.core c.t v off = some a
   (∀ (i : Instr) (g : Guard) (target : Ctx → Nat → Lane → Word),
     ((∃ x, i = .call x ∧ g = x.g ∧ target = fun c _ y => y.pc + BitVec.ofNat 32 (c.words - 1) + x.off.signExtend 32) ∨
       (∃ x, i = .callr x ∧ g = x.g ∧ target = fun c n y => readSrc (c.env n) y x.a)) →
     ∀ (s : State) (c : Ctx) (n : Nat) (l : Lane) (e0 e1 e2 e3 : Word), AccessesOne s c i g n l → l.inside = none →
     l.stack = [e0, e1, e2, e3] →
     let y := l.started i c
     ∃ t, exec i s = .next t ∧ (¬ fits c n l.spill.toNat → c.HaltsIn t 0x06 63) ∧
       ∀ a, fits c n l.spill.toNat → place s c n l.spill.toNat .store a →
         t.mem = s.mem.putAll a (bytesOf 8 (e0.toNat + 2 ^ 32 * e1.toNat)) ∧ c.laneIn t n = some { y with
           stack := [e2, e3, y.pc + BitVec.ofNat 32 c.words], spill := l.spill + 1, pc := target c n y, chain := 0 }) ∧
   (∀ (x : OpG) (s : State) (c : Ctx) (n : Nat) (l : Lane), AccessesOne s c (.ret x) x.g n l → l.inside = none → l.stack = [] →
     let y := l.started (.ret x) c
     let count := (l.spill - 1).toNat
     ∃ t, exec (.ret x) s = .next t ∧ (l.spill = 0 → c.HaltsIn t 0x07 0) ∧ (l.spill ≠ 0 → ¬ fits c n count → c.HaltsIn t 0x06 63) ∧
       ∀ a, l.spill ≠ 0 → fits c n count → place s c n count .load a → LeavesMemory s t ∧ c.laneIn t n = some { y with
         stack := [BitVec.ofNat 32 (s.num a 4)], spill := l.spill - 1, pc := BitVec.ofNat 32 (s.num (a + 4) 4), chain := 0 }))

/-- R134: EXIT ends the lane and it gives up its task, where none of its accesses is logged (R276) and no lane of the unit waits at a
queue; NOP changes nothing; YIELD sends its lanes on, and where the unit holds
the whole group and a guard holds, the group waits for the other groups of its segments that are ready. -/
def Obligations.ExitNopYield : Prop :=
  (∀ (x : OpG) (s : State) (c : Ctx) (n : Nat) (l : Lane), Executes s c (.exit x) n l →
    (l.task.hold = true → s.logged c.core c.gi n = false) →
    (∀ k ∈ s.clusters, ∀ r ∈ k.recs, ∀ w ∈ r.waiters, w.core = c.core → w.group = c.gi → w.lane ∉ c.lanes) →
    let y := l.started (.exit x) c
    ∃ t, exec (.exit x) s = .next t ∧
      (x.g.holds y = false → c.laneIn t n = some { y.past c with chain := 0 }) ∧
      (x.g.holds y = true → y.inside.isSome → c.laneIn t n = some (y.deliver 0)) ∧
      (x.g.holds y = true → y.inside = none → c.laneIn t n = some { y with
        exited := true, latches := [], chain := 0, task := { y.task with hold := false } })) ∧
  (∀ x : OpG, Transfers (.nop x) x.g fun _ _ y => (y, none)) ∧
  (∀ (x : OpG) (s : State) (c : Ctx), Issuing s c → c.g.halts = [] →
    (∀ n ∈ c.lanes, ∃ l, Executes s c (.yield x) n l) →
    ∃ t g, exec (.yield x) s = .next t ∧ c.groupIn t = some g ∧
      (∀ n ∈ c.lanes, ∀ l, c.g.lanes[n]? = some l → c.laneIn t n = some { (l.started (.yield x) c).past c with chain := 0 }) ∧
      (if c.full = true ∧ (∃ n ∈ c.lanes, x.g.holds (c.g.lane n) = true) ∧ s.yieldsTo c.core c.gi ≠ [] then
        g.wait = .yielded (s.yieldsTo c.core c.gi)
      else g.wait = c.g.wait))

/-- R107, R134, R187, R188: a TRAP or BRK of lanes in ordinary state takes its exception: the group halts with one record more, of
kind 0x09 or 0x0A, at the unit's PC, that names every lane whose guard holds; a trap carries k and the lowest such lane's A; a
resume continues after the unit. Those lanes stand at the unit unchanged and the others go past it. A lane whose guard does not hold goes
past, in any state; a TRAP in contained state ends its candidate with TRAP (8). -/
def Obligations.TrapAndBreakpoint : Prop :=
  (∀ (i : Instr) (g : Guard) (a : Src) (kind k : Nat),
    ((∃ x, i = .trap x ∧ g = x.g ∧ a = x.a ∧ kind = 0x09 ∧ k = x.k.val) ∨ (∃ x, i = .brk x ∧ g = x.g ∧ kind = 0x0A ∧ k = 0 ∧ a = .zero)) →
  ∀ (s : State) (c : Ctx) (n : Nat) (ns : List Nat), Issuing s c →
    (∀ m ∈ c.lanes, ∃ l, Executes s c i m l ∧ l.inside = none) →
    (c.lanes.filter fun m => g.holds (c.g.lane m)) = n :: ns →
    ∃ t x h, exec i s = .next t ∧ c.groupIn t = some x ∧ x.halts = c.g.halts ++ [h] ∧
      h.record.kind = kind ∧ h.record.detail = BitVec.ofNat 32 k ∧ h.record.pc = c.place.pc ∧
      h.record.lanes = maskOf (n :: ns) ∧ h.record.extra = (readSrc (c.env n) ((c.g.lane n).started i c) a).setWidth 64 ∧
      h.record.core = c.core ∧ h.record.group = c.g.index ∧ h.record.stage = c.g.stage ∧ h.after = true ∧ h.words = c.words ∧
      ∀ m ∈ c.lanes, ∀ l, c.g.lanes[m]? = some l → c.laneIn t m = some (
        if g.holds l then { l with wait := .none } else { (l.started i c).past c with chain := 0 })) ∧
  (∀ (i : Instr) (g : Guard), ((∃ x, i = .trap x ∧ g = x.g) ∨ ∃ x, i = .brk x ∧ g = x.g) →
    ∀ (s : State) (c : Ctx) (n : Nat) (l : Lane), Executes s c i n l →
    let y := l.started i c
    ∃ t, exec i s = .next t ∧ (g.holds y = false → c.laneIn t n = some { y.past c with chain := 0 }) ∧
      ((∃ x, i = .trap x) → g.holds y = true → l.inside.isSome = true → c.laneIn t n = some (y.deliver 8)))

/-- R131: RVZ completes at once where the bound is 0 or where the cohort holds every lane of the group that has not exited; it waits
nobody where no guard holds; otherwise its group waits at it, with the bound of the lowest lane. R132: a lane that executes
SYNCL, with no logged access of its own, raises its count by one; it goes past where its mask names no other lane, and otherwise
either waits at the unit for the mask or has gone past.
An RVZ that no guard waits at is the model's reading (DEDUCED, log 34). -/
def Obligations.RendezvousAndLaneSync : Prop :=
  (∀ (x : OpGA) (s : State) (c : Ctx) (n : Nat) (ns : List Nat), ExecutesOnce s c (.rvz x) → c.lanes = n :: ns →
    (∀ m ∈ c.lanes, ∃ l, c.g.lanes[m]? = some l ∧ l.exited = false ∧ l.place = c.place ∧ l.excused = false) → c.g.wait = .none →
    let bound := readSrc (c.env n) (c.g.lane n) x.a
    let holds := c.lanes.filter fun m => x.g.holds (c.g.lane m)
    let past := fun (l : Lane) => ({ l with wait := .none, latches := [], chain := 0 } : Lane).past c
    ∃ t g, exec (.rvz x) s = .next t ∧ c.groupIn t = some g ∧
      (holds = [] → g.rvz = none ∧ ∀ m ∈ c.lanes, ∃ l, c.laneIn t m = some l ∧ l.pc = (c.g.lane m).pc + BitVec.ofNat 32 c.words) ∧
      (holds ≠ [] → bound = 0 → g.rvz = none ∧ ∀ m ∈ c.lanes, c.laneIn t m = some (past (c.g.lane m))) ∧
      (holds = c.lanes → bound ≠ 0 → (∀ k l, c.g.lanes[k]? = some l → l.exited = false → k ∈ c.lanes) →
        g.rvz = none ∧ ∀ m ∈ c.lanes, ∃ l, c.laneIn t m = some l ∧ l.pc = (c.g.lane m).pc + BitVec.ofNat 32 c.words ∧ l.latches = []) ∧
      (holds = c.lanes → bound ≠ 0 →
        (∃ k l, c.g.lanes[k]? = some l ∧ l.exited = false ∧ k ∉ c.lanes ∧ l.place ≠ c.place ∧ l.excused = false ∧ l.wait = .none) →
        g.rvz = some ⟨c.place, bound, c.words, x.g⟩ ∧ ∀ m ∈ c.lanes, ∃ l, c.laneIn t m = some l ∧ l.pc = (c.g.lane m).pc)) ∧
  (∀ (x : OpGA) (s : State) (c : Ctx) (n : Nat) (l : Lane), Executes s c (.syncl x) n l → s.logged c.core c.gi n = false →
    let y := l.started (.syncl x) c
    let m := readSrc (c.env n) y x.a
    ∃ t z, exec (.syncl x) s = .next t ∧ c.laneIn t n = some z ∧ z.v = y.v ∧ z.p = y.p ∧ z.status = y.status ∧
      (x.g.holds y = false → z = { y.past c with chain := 0 }) ∧
      (x.g.holds y = true → z.gen = y.gen + 1 ∧ z.latches = [] ∧
        ((z.pc = y.pc + BitVec.ofNat 32 c.words ∧ z.wait = .none) ∨ (z.pc = y.pc ∧ z.wait = .syncl m.toNat c.words))) ∧
      (x.g.holds y = true → (∀ k, k < 32 → m.toNat.testBit k = true → k = n % 32) → z.pc = y.pc + BitVec.ofNat 32 c.words))

/-- R135 to R137: SREAD writes the register with the special register's value, for every special register; a read of a .lo register
latches its high half in the lane, and a read of a .hi register gives the latched half. Nothing else changes. R135, R136: SWRITE
writes the lane's %status (bits 7:0) or half of a signature; a write of a half of %cmask is made once for its group, with the
value of the unit's lowest lane, and only clears bits. -/
def Obligations.SpecialRegisters : Prop :=
  (∀ (x : OpSRead) (s : State) (c : Ctx) (n : Nat) (l : Lane), Executes s c (.sread x) n l →
    let y := l.started (.sread x) c
    let word := recStage c.r c.g.stage
    let one : Nat → Word × Vector Word 6 := fun v => (BitVec.ofNat 32 v, y.hi)
    let low : Fin 6 → Nat → Word × Vector Word 6 := fun k v => (BitVec.ofNat 32 v, y.hi.set k.val (BitVec.ofNat 32 (v / 2 ^ 32)))
    let r : Word × Vector Word 6 := match x.n with
      | .status => (y.status, y.hi)
      | .fuel => one y.fuelLeft.toNat
      | .sig0lo => low 0 y.h0.toNat
      | .sig0hi => (y.hi[0], y.hi)
      | .sig1lo => low 1 y.h1.toNat
      | .sig1hi => (y.hi[1], y.hi)
      | .spill => one y.spill.toNat
      | .stage => one (c.g.stage + 4 * (word / 2 ^ 20 % 4) + 16 * (word / 2 ^ 22 % 4))
      | .group => one c.g.index
      | .teamX => one (c.t.number % recX c.r)
      | .teamY => one (c.t.number / recX c.r % recY c.r)
      | .teamZ => one (c.t.number / (recX c.r * recY c.r))
      | .gridX => one (recX c.r)
      | .gridY => one (recY c.r)
      | .gridZ => one (recZ c.r)
      | .crew => one (c.t.number % recCrew c.r + 2 ^ 8 * (recCrew c.r - 1))
      | .core => one c.core
      | .seqLo => low 2 (c.t.seq % 2 ^ 64)
      | .seqHi => (y.hi[2], y.hi)
      | .timeLo => low 3 s.time.toNat
      | .timeHi => (y.hi[3], y.hi)
      | .energyLo => low 4 (((s.part c.t.part).map (·.energy.toNat)).getD 0)
      | .energyHi => (y.hi[4], y.hi)
      | .fmask => one (recFmask c.r)
      | .cmaskLo => low 5 c.g.cmask.toNat
      | .cmaskHi => (y.hi[5], y.hi)
    ∃ t, exec (.sread x) s = .next t ∧ c.laneIn t n = some (
      (if x.g.holds y then ({ y with v := y.v.set (y.phys x.d).val r.1, hi := r.2 } : Lane) else y).past c)) ∧
  ((∀ x : OpSWrite, x.n.groupWide = false → Changes (.swrite x) x.g fun e y =>
    let a := readSrc e y x.a
    match x.n with
    | .status => { y with status := BitVec.ofNat 32 (a.toNat % 2 ^ 8) }
    | .sig0lo => { y with h0 := BitVec.ofNat 64 (y.h0.toNat / 2 ^ 32 * 2 ^ 32 + a.toNat) }
    | .sig0hi => { y with h0 := BitVec.ofNat 64 (a.toNat * 2 ^ 32 + y.h0.toNat % 2 ^ 32) }
    | .sig1lo => { y with h1 := BitVec.ofNat 64 (y.h1.toNat / 2 ^ 32 * 2 ^ 32 + a.toNat) }
    | .sig1hi => { y with h1 := BitVec.ofNat 64 (a.toNat * 2 ^ 32 + y.h1.toNat % 2 ^ 32) }
    | _ => y) ∧
  (∀ (x : OpSWrite) (s : State) (c : Ctx) (n : Nat) (ns : List Nat), ExecutesOnce s c (.swrite x) → c.lanes = n :: ns →
    x.n = .cmaskLo ∨ x.n = .cmaskHi →
    let a := readSrc (c.env n) (c.g.lane n) x.a
    ∃ t g, exec (.swrite x) s = .next t ∧ c.groupIn t = some g ∧
      (∀ k, k < 64 → g.cmask.getLsbD k = (c.g.cmask.getLsbD k &&
        if x.n = .cmaskLo then 32 ≤ k || a.getLsbD k else k < 32 || a.getLsbD (k - 32))) ∧
      ∀ m ∈ c.lanes, ∀ l, c.g.lanes[m]? = some l →
        c.laneIn t m = some ((({ l with wait := .none } : Lane).chained (readsLatch (.swrite x) c)).past c)))

/-! ## Running candidates (spec/05_lane_integer_control.md R140 to R145) -/

/-- R142: SIGF folds its operand into the two halves of the signature, and SIGZ clears them. R143, R144: SIGC of a unit of one lane
whose view is a winnow view of an unpoisoned vault that its partition may reach. The signature (1, 0 for 0, 0) selects the
bucket; a slot that holds it gives 1, else the lowest empty slot takes it and gives 0, else 2; p0 says whether it was new; the
signature is cleared; memory changes in the slot written and nowhere else. R104, R140, R141: CENTER of a unit of one lane. A
slot beyond the bank view, or with a length word outside 1 to 15, gives 0x09 and goes on; a legal candidate, whose length word
the code unit can read now, is entered: predicates, flags and stack set aside and cleared, the fuel loaded, and the PC at its
first word.
That a bucket in a region's storage holds free values, and the read of the length word at once, are the model's readings (DEDUCED,
log 72, log 33). -/
def Obligations.Candidates : Prop :=
  ((∀ x : OpGA, Changes (.sigf x) x.g fun e y =>
    let p := BitVec.ofNat 64 ((y.h0 ^^^ (readSrc e y x.a).setWidth 64).toNat * 0x9E3779B97F4A7C15)
    let h0 := p.rotateLeft 29
    let q := BitVec.ofNat 64 ((y.h1 + h0).toNat * 0xC2B2AE3D27D4EB4F)
    { y with h0 := h0, h1 := q.rotateLeft 31 }) ∧
  (∀ x : OpG, Changes (.sigz x) x.g fun _ y => { y with h0 := 0, h1 := 0 })) ∧
  (∀ (x : OpSigc) (s : State) (c : Ctx) (n : Nat) (l : Lane) (a : Nat), Executes s c (.sigc x) n l → c.lanes = [n] →
    x.g.holds l = true → s.mem.wf = true →
    let y := l.started (.sigc x) c
    let v := c.view (recWinnow c.r)
    let g : Nat × Nat := if l.h0 = 0 ∧ l.h1 = 0 then (1, 0) else (l.h0.toNat, l.h1.toNat)
    v.winnowOk = true → s.sramAt c.core c.t v (64 * (g.1 % v.extN 0)) = some a → a < 2 ^ 40 →
    s.firewall c.t.part a = true → s.poisoned a 64 = false → s.strayAt a = [] → c.g.triggered = false → l.exited = false →
    let slot := fun k => (s.num (a + 16 * k) 8, s.num (a + 16 * k + 8) 8)
    let found := (List.range 4).any fun k => slot k == g
    let empty := (List.range 4).find? fun k => slot k == (0, 0)
    let r : Word := if found then 1 else if empty.isSome then 0 else 2
    ∃ t z, exec (.sigc x) s = .next t ∧ c.laneIn t n = some z ∧ z.v = y.v.set (y.phys x.d).val r ∧ z.p = y.p.set 0 (r != 1) ∧
      z.h0 = 0 ∧ z.h1 = 0 ∧ z.pc = y.pc + BitVec.ofNat 32 c.words ∧ z.status = y.status ∧
      (∀ k, empty = some k → found = false → t.num (a + 16 * k) 8 = g.1 ∧ t.num (a + 16 * k + 8) 8 = g.2) ∧
      ∀ b, (∀ k, empty = some k → found = false → b < a + 16 * k ∨ a + 16 * k + 16 ≤ b) → t.mem.get b = s.mem.get b) ∧
  (∀ (x : OpCenter) (s : State) (c : Ctx) (n : Nat) (l : Lane), Executes s c (.center x) n l → c.lanes = [n] →
    x.g.holds l = true → recContain c.r = true → 64 ≤ c.g.nregs →
    let y := l.started (.center x) c
    let v := c.view (recBank c.r)
    let k := (readSrc (c.env n) y x.a).toNat
    let b := (readSrc (c.env n) y x.b).toNat
    let z := y.sided
    v.bankOk = true → v.stook = false →
    (v.extN 0 ≤ 16 * k + 15 → ∃ t, exec (.center x) s = .next t ∧
      c.laneIn t n = some { (z.past c) with v := z.v.set (z.phys x.d).val 0x09, chain := 0 }) ∧
    (∀ p h r1 r2 sl, ¬ v.extN 0 ≤ 16 * k + 15 → k < 2 ^ 28 → s.part c.t.part = some p → (v.offset + 64 * k) % 4 = 0 →
      walk s p false (v.offset + 64 * k) 1 = .ok h r1 r2 sl → s.mayBegin h = true → s.poisoned h 4 = false →
      let len := s.num h 4
      ∃ t, exec (.center x) s = .next t ∧
        c.laneIn t n = some (
          if len < 1 ∨ 15 < len then { (z.past c) with v := z.v.set (z.phys x.d).val 0x09, chain := 0 }
          else { z with
            inside := some ⟨16 * k + 1, 16 * k + 1 + len, 0, z.stack, z.spill, z.p, z.status, x.d, z.pc + BitVec.ofNat 32 c.words - 1⟩
            stack := [], spill := 0, p := Vector.replicate 4 false, status := 0
            fuel := if b = 0 then BitVec.ofNat 24 (recFuel c.r) else if b < 2 ^ 24 then BitVec.ofNat 24 b else 0xFFFFFF
            latches := [], chain := 0, pc := BitVec.ofNat 32 (16 * k + 1) })))

/-! ## Lane memory instructions (spec/05_lane_integer_control.md R138, R139; spec/09_core_instructions.md R199 to R204) -/

/-- R56 to R61: each hint word is read into the unit in hand, behind the hints before it, and changes nothing else. -/
def Obligations.HintWords : Prop :=
  ∀ (s : State) (u : Issue), s.issue = some u →
    let with_ := fun h : Hint => ({ s with issue := some { u with hints := u.hints ++ [h] } } : State)
    (∀ x, exec (.himm x) s = .next (with_ (.imm x))) ∧ (∀ x, exec (.hbt x) s = .next (with_ (.bt x))) ∧
    (∀ x, exec (.hord x) s = .next (with_ (.ord x))) ∧ (∀ n, exec (.hsch n) s = .next (with_ (.sch n))) ∧
    (∀ n, exec (.hgath n) s = .next (with_ (.gath n)))

/-- R11, R64, R101, R138, R266: LD and ST without an order, through a view of a scratchpad or a vault, for every lane of the unit.
LD delivers the bytes at the lane's place, sign-extended, zero-extended or word by word; ST stores the low bytes of its registers
there, lane after lane, and leaves the lines untagged. Nothing else changes. R300: the same of one lane through a CODE view, at the home
that its walk gives. R295: at a place in the storage of a mapped region, of whatever team, a load delivers some words and a store
leaves some bytes, and no other byte changes. R101, R102, R104, R138, R361: when an access of LD, ST, LDA, STL, ATOM or ATOMX faults: an
invalid view or a type that lanes do not use, a coordinate or an element beyond the extents, a misaligned address, a missing right, a
STOOK view, an atomic through CODE, or one on HOST that no AtomicOp is where the port is not CXL, is a view fault (kind 0x04); an unbound
DEVICE, HOST or PEER view a mapped-region fault (0x05). A contained lane ends with VIEWBOUNDS (5) instead, also where its candidate mask
does not name the view or the view is w63.
That an access in a region's storage gives free values is the model's form of R295's indeterminate (DESIGN CHOICE, log
7; DEDUCED, log 72); CODE accesses at once are the model's reading (DEDUCED, log 33). -/
def Obligations.LoadsAndStores : Prop :=
  (∀ (x : OpLd) (s : State) (c : Ctx), Accesses s c (.ld x) x.g x.vw → ordOf c.hints = none →
    let words : Nat → List Word := fun a => match x.size with
      | .z8 => [BitVec.ofNat 32 (s.num a 1)]
      | .s8 => [BitVec.ofInt 32 (BitVec.ofNat 8 (s.num a 1)).toInt]
      | .z16 => [BitVec.ofNat 32 (s.num a 2)]
      | .s16 => [BitVec.ofInt 32 (BitVec.ofNat 16 (s.num a 2)).toInt]
      | .w32 => [BitVec.ofNat 32 (s.num a 4)]
      | .w64 => [BitVec.ofNat 32 (s.num a 4), BitVec.ofNat 32 (s.num (a + 4) 4)]
      | .w128 => [BitVec.ofNat 32 (s.num a 4), BitVec.ofNat 32 (s.num (a + 4) 4), BitVec.ofNat 32 (s.num (a + 8) 4),
          BitVec.ofNat 32 (s.num (a + 12) 4)]
    ∃ t, exec (.ld x) s = .next t ∧ Leaves c s t ∧ LeavesMemory s t ∧ LeavesTeam c s t ∧ LeavesScalars c t ∧
      ∀ n ∈ c.lanes, ∀ l, c.g.lanes[n]? = some l →
        let y := l.started (.ld x) c
        (x.g.holds l = false → c.laneIn t n = some (y.past c)) ∧
        ∀ a, x.g.holds l = true → s.placeOf c (.ld x) x.vw n = some a →
          c.laneIn t n = some ((y.fillRegs ((List.range (words a).length).map fun k => y.phys (x.d + Fin.ofNat 64 k)) (words a)).past c)) ∧
  (∀ (x : OpSt) (s : State) (c : Ctx), Accesses s c (.st x) x.g x.vw → ordOf c.hints = none →
    let n := match x.size with
      | .z8 => 1
      | .z16 => 2
      | .w32 => 4
      | .w64 => 8
      | .w128 => 16
    ∃ t, exec (.st x) s = .next t ∧ Leaves c s t ∧ LeavesTeam c s t ∧ LeavesScalars c t ∧
      t.mem = c.storedBy x.g (s.placeOf c (.st x) x.vw) n (fun m _ => bytesOf n (c.dataOf x.d m ((n + 3) / 4))) c.lanes s.mem ∧
      (∀ m ∈ c.lanes, ∀ a, x.g.holds (c.g.lane m) = true → s.placeOf c (.st x) x.vw m = some a → t.tagAt (a / 64) = none) ∧
      ∀ m ∈ c.lanes, ∀ l, c.g.lanes[m]? = some l →
        let y := l.started (.st x) c
        c.laneIn t m = some ((if x.g.holds l then y.sided else y).past c)) ∧
  (∀ (i : Instr) (g : Guard) (vw : Fin 64), ((∃ x, i = .ld x ∧ g = x.g ∧ vw = x.vw) ∨ ∃ x, i = .st x ∧ g = x.g ∧ vw = x.vw) →
    ∀ (s : State) (c : Ctx) (n : Nat) (l : Lane) (a : Nat), Executes s c i n l → c.lanes = [n] → g.holds l = true → c.Calm →
    c.g.log = [] → ordOf c.hints = none → c.maskOk l vw.val = true → (c.view vw.val).sram = true → (c.view vw.val).region = none →
    s.placeOf c i vw n = some a → a < 2 ^ 40 → s.firewall c.t.part a = true → s.poisoned a (memBytes i) = false → s.mem.wf = true →
    s.strayAt a ≠ [] →
    let y := l.started i c
    ∃ t, exec i s = .next t ∧
      ((∃ x, i = .ld x) → LeavesMemory s t ∧ ∃ ws : List Word, ws.length = (memDests i).length ∧
        c.laneIn t n = some ((y.fillRegs ((memDests i).map y.phys) ws).past c)) ∧
      ((∃ x, i = .st x) → c.laneIn t n = some (y.sided.past c) ∧
        ∀ z, (z < a ∨ a + memBytes i ≤ z) → t.mem.get z = s.mem.get z)) ∧
  (∀ (i : Instr) (g : Guard) (vw : Fin 64), ((∃ x, i = .ld x ∧ g = x.g ∧ vw = x.vw) ∨ ∃ x, i = .st x ∧ g = x.g ∧ vw = x.vw) →
    ∀ (s : State) (c : Ctx) (n : Nat) (l : Lane), AccessesOne s c i g n l → ordOf c.hints = none → c.maskOk l vw.val = true →
    let v := c.view vw.val
    let y := l.started i c
    ∀ p off h r1 r2 sl, v.space = 6 → s.part c.t.part = some p →
      v.resolve (memKind i) (c.coordsOf i n) (memBytes i) = .ok off →
      walk s p false (v.offset + off) (if memKind i = .store then 2 else 1) = .ok h r1 r2 sl →
      s.mayBegin h = true → s.poisoned h (memBytes i) = false →
      ∃ t, exec i s = .next t ∧
        ((∃ x, i = .ld x) → LeavesMemory s t ∧ Leaves c s t ∧
          c.laneIn t n = some ((y.fillRegs ((memDests i).map y.phys) (memOut i (s.read h (memBytes i)))).past c)) ∧
        ((∃ x, i = .st x) → c.laneIn t n = some (y.sided.past c) ∧
          t.mem = s.mem.putAll h (bytesOf (memBytes i) (wordsNum ((memData i).map y.reg))))) ∧
  (∀ (i : Instr) (g : Guard) (vw : Fin 64), IsAccess i g vw → ∀ (s : State) (c : Ctx) (n : Nat) (l : Lane), AccessesOne s c i g n l →
    let v := c.view vw.val
    let k := memKind i
    let b := memBytes i
    let cs := fun d => (c.coordsOf i n).getD d 0
    let e := elemBits v.ty / 8
    let last := cs (v.rank - 1)
    let rows := ((List.range (v.rank - 1)).map fun d => cs d * v.strN d).sum
    let refused := v.valid = false ∨ ¬ (v.ty ≤ 8 ∨ v.ty = 0x0F ∨ v.ty = 0x10 ∨ v.ty = 0x11) ∨ (∃ d, d < v.rank ∧ v.extN d ≤ cs d) ∨
      v.extN (v.rank - 1) < last + max 1 (b / e) ∨ (v.offset + (rows + last * e)) % b ≠ 0 ∨
      (k = .load ∧ v.hasR = false) ∨ (k = .store ∧ v.hasW = false) ∨ (k = .atomic ∧ v.hasA = false) ∨ v.stook = true ∨
      (v.space = 6 ∧ k = .atomic)
    let unbound := v.translated = true ∧ v.region = none
    let noOp := v.space = 4 ∧ k = .atomic ∧ pcieAtomic i = false ∧ Config.cxlTrained = false
    ∃ t, exec i s = .next t ∧
      (l.inside = none → refused → c.HaltsIn t 0x04 vw.val) ∧
      (l.inside = none → ¬ refused → unbound → c.HaltsIn t 0x05 vw.val) ∧
      (l.inside = none → ¬ refused → ¬ unbound → noOp → c.HaltsIn t 0x04 vw.val) ∧
      (l.inside.isSome = true → (c.g.cmask.getLsbD vw.val = false ∨ vw.val = 63 ∨ refused ∨ unbound) →
        c.laneIn t n = some ((l.started i c).deliver 5))) ∧
  (pcieAtomic = fun i => match i with
    | .atom x => decide (x.op = .add)
    | .atomx x => decide (x.op ≠ .fadd ∧ x.op ≠ .bfadd2)
    | _ => false)

/-- R199, R265 to R267: LDA and STL in a scratchpad or a vault at a scope narrower than DIE. LDA delivers the word and sets SCOPE
(0x40) where the line's tag does not match; STL stores the word, tags its line with the scope and the origin of the lane that
stores last, and leaves the tags of other lines. R110, R139, R200, R297: the same of every ordered access of one lane but PLD, at any
scope: an acquire sets SCOPE where the tag does not match, at DIE or wider with no dirty slot every slot of the team is then invalid; a
release tags its line. R205, R352: a release stays while its lane has a logged access. R266 to R268: when a tag that a release wrote is
matched, and when a remote acquire (.rem) of one that is not is promoted, at which scope.
When a thread wrote the value that it reads, and the wait of a release, are the model's readings (DEDUCED, log 28, log 42). -/
def Obligations.OrderedAccesses : Prop :=
  (∀ (x : OpOrd) (s : State) (c : Ctx), Accesses s c (.lda x) x.g x.vw → x.scope.code < 5 →
    (∀ o, ordOf c.hints = some o → o.rem = false) →
    (∀ m ∈ c.lanes, ∀ a q, s.placeOf c (.lda x) x.vw m = some a → s.tagAt (tagKey a) = some q → q.legal a = true) →
    ∃ t, exec (.lda x) s = .next t ∧ Leaves c s t ∧ LeavesMemory s t ∧ LeavesTeam c s t ∧ LeavesScalars c t ∧
      ∀ n ∈ c.lanes, ∀ l, c.g.lanes[n]? = some l →
        let y := l.started (.lda x) c
        (x.g.holds l = false → c.laneIn t n = some (y.past c)) ∧
        ∀ a, x.g.holds l = true → s.placeOf c (.lda x) x.vw n = some a →
          c.laneIn t n = some (({ y with
            v := y.v.set (y.phys x.d).val (BitVec.ofNat 32 (s.num a 4))
            status := y.status ||| (if s.checkTag a 4 c.core c.gi n x.scope.code false = .mismatch then 0x40 else 0) } : Lane).past c)) ∧
  (∀ (x : OpOrd) (s : State) (c : Ctx), Accesses s c (.stl x) x.g x.vw → x.scope.code < 5 →
    let place := s.placeOf c (.stl x) x.vw
    ∃ t, exec (.stl x) s = .next t ∧ Leaves c s t ∧ LeavesTeam c s t ∧ LeavesScalars c t ∧
      t.mem = c.storedBy x.g place 4 (fun m _ => bytesOf 4 (c.dataOf x.d m 1)) c.lanes s.mem ∧
      (∀ m before after a, c.lanes = before ++ m :: after → x.g.holds (c.g.lane m) = true → place m = some a →
        (∀ k ∈ after, ∀ b, x.g.holds (c.g.lane k) = true → place k = some b → b / 64 ≠ a / 64) →
        t.tagAt (a / 64) = some ⟨a / 64, x.scope.code, originOf x.scope a c.core c.gi, c.core, c.gi, m⟩) ∧
      (∀ line, (∀ m ∈ c.lanes, ∀ a, x.g.holds (c.g.lane m) = true → place m = some a → a / 64 ≠ line) → t.tagAt line = s.tagAt line) ∧
      ∀ m ∈ c.lanes, ∀ l, c.g.lanes[m]? = some l →
        let y := l.started (.stl x) c
        c.laneIn t m = some ((if x.g.holds l then y.sided else y).past c)) ∧
  (∀ (i : Instr) (g : Guard) (vw : Fin 64), IsAccess i g vw → ∀ (s : State) (c : Ctx) (n : Nat) (l : Lane), AccessesOne s c i g n l →
    c.maskOk l vw.val = true → (c.view vw.val).sram = true → (c.view vw.val).region = none → s.mem.wf = true →
    let y := l.started i c
    let o := ordOf c.hints
    let ordered := fun q : Order => o.bind fun h => if h.ord = q then none else some h.scope
    let acq : Option Scope := match i with
      | .lda x => some x.scope
      | .ld _ => o.map (·.scope)
      | .atom _ => ordered .rel
      | .atomx _ => ordered .rel
      | _ => none
    let rel : Option Scope := match i with
      | .stl x => some x.scope
      | .st _ => o.map (·.scope)
      | .atom _ => ordered .acq
      | .atomx _ => ordered .acq
      | _ => none
    let wide := fun q : Option Scope => ∃ z, q = some z ∧ 5 ≤ z.code
    let b := memBytes i
    acq ≠ none ∨ rel ≠ none → ((wide acq ∨ wide rel) → c.NoDirty) →
    ∀ a, s.placeOf c i vw n = some a → a < 2 ^ 40 → s.firewall c.t.part a = true → s.poisoned a b = false → s.strayAt a = [] →
      (∀ q, s.tagAt (a / 64) = some q → q.legal a = true) →
      (∀ sc k x, acq = some sc → s.checkTag a b c.core c.gi n sc.code ((o.map (·.rem)).getD false) = .promote x k → k < 5) →
      ∃ t, exec i s = .next t ∧ Leaves c s t ∧
        t.mem = (match memNew i (s.read a b) ((memData i).map y.reg) with
          | none => s.mem
          | some bs => s.mem.putAll a bs) ∧
        (rel = none → t.tags = s.tags) ∧
        (∀ sc, rel = some sc → t.tagAt (a / 64) = some ⟨a / 64, sc.code, originOf sc a c.core c.gi, c.core, c.gi, n⟩) ∧
        (∀ line, line ≠ a / 64 → t.tagAt line = s.tagAt line) ∧
        (wide acq → c.AllInvalid t) ∧
        ∃ z, c.laneIn t n = some ({ z with
          status := y.status ||| (match acq with
            | none => 0
            | some sc => if s.checkTag a b c.core c.gi n sc.code ((o.map (·.rem)).getD false) = .mismatch then 0x40 else 0) } : Lane) ∧
          z = (((if memKind i = .load then y else y.sided).fillRegs ((memDests i).map y.phys) (memOut i (s.read a b))).past c)) ∧
  (∀ (x : OpOrd) (s : State) (c : Ctx) (n : Nat) (l : Lane), AccessesOneBehind s c (.stl x) x.g n l → c.maskOk l x.vw.val = true →
    s.logged c.core c.gi n = true →
    ∃ t g, exec (.stl x) s = .next t ∧ c.groupIn t = some g ∧ g.log = c.g.log ∧ g.wait = .retry s.progress ∧
      c.laneIn t n = some { l with wait := .none } ∧ LeavesMemory s t) ∧
  (∀ (s : State) (a n core gi m sc : Nat) (rem : Bool), s.tagAt (tagKey a) = none → s.checkTag a n core gi m sc rem = .fine) ∧
  (∀ (s : State) (a n core gi m core' gi' m' sc : Nat) (z : Scope) (rem : Bool), a < 2 ^ 40 → gi' < 32 → core' < 1536 → core < 1536 →
    dieOfAddr a = some (core' / 384) →
    s.tagAt (a / 64) = some ⟨a / 64, z.code, originOf z a core' gi', core', gi', m'⟩ →
    let known := originOf z a core' gi' ≠ 0x1F
    let inside := match z with
      | .system => True
      | .package => True
      | .die => core / 384 = core' / 384
      | .cluster => core / 64 = core' / 64
      | .sheaf => core / 16 = core' / 16
      | .core => known ∧ core = core'
      | .group => known ∧ core = core' ∧ gi = gi'
      | .lane => s.wrote a n core gi m = true
    let near := if core = core' then 2 else if core / 16 = core' / 16 then 3 else if core / 64 = core' / 64 then 4
      else if core / 384 = core' / 384 then 5 else 6
    let common := match z with
      | .system => 7
      | .package => 6
      | .die => max 5 near
      | .cluster => max 4 near
      | .sheaf => max 3 near
      | _ => near
    let check := s.checkTag a n core gi m sc rem
    let reach := if known then common else if a < 2 ^ 30 then 4 else 5
    (inside ∧ z.code ≤ sc → check = .fine) ∧
    (¬ (inside ∧ z.code ≤ sc) → (rem = false ∨ sc < reach) → check = .mismatch) ∧
    (¬ (inside ∧ z.code ≤ sc) → rem = true → reach ≤ sc → ∃ x, check = .promote x (if known then common else sc)))

/-- R201 to R203: the atomic members without an order, through a view of a scratchpad or a vault. The lanes act in their order;
each lane's destination takes the value that it found, and memory what its member makes of that value and its operands; no tag changes
(R266). R203, R361: through a bound view whose granule stands clean in its slot, the atomic of one lane is performed at its home in
DEVICE memory and its bytes are written into the slot's data area too, at the home that the granule's fill obtained; for a home in HOST
memory it goes out as a request, and the lane goes on with its destinations pending, a contained one waiting for them (R104). -/
def Obligations.Atomics : Prop :=
  (∀ m ∈ ([
    (.add, fun old x => BitVec.ofNat 32 (old.toNat + x.toNat)),
    (.min, fun old x => BitVec.ofInt 32 (min old.toInt x.toInt)),
    (.max, fun old x => BitVec.ofInt 32 (max old.toInt x.toInt)),
    (.umin, fun old x => BitVec.ofNat 32 (min old.toNat x.toNat)),
    (.umax, fun old x => BitVec.ofNat 32 (max old.toNat x.toNat)),
    (.and, fun old x => old &&& x),
    (.or, fun old x => old ||| x),
    (.xor, fun old x => old ^^^ x)] : List (AtomOp × (Word → Word → Word))),
    ∀ (x : OpAtom) (s : State) (c : Ctx), x.op = m.1 → Accesses s c (.atom x) x.g x.vw → ordOf c.hints = none →
    let new := fun n (bs : List Byte) => bytesOf 4 (m.2 (BitVec.ofNat 32 (ofBytes bs)) ((c.g.lane n).reg x.d)).toNat
    let before := fun ls => c.storedBy x.g (s.placeOf c (.atom x) x.vw) 4 new ls s.mem
    ∃ t, exec (.atom x) s = .next t ∧ Leaves c s t ∧ LeavesTeam c s t ∧ LeavesScalars c t ∧ t.mem = before c.lanes ∧ t.tags = s.tags ∧
      ∀ n ∈ c.lanes, ∀ l, c.g.lanes[n]? = some l →
        let y := l.started (.atom x) c
        (x.g.holds l = false → c.laneIn t n = some (y.past c)) ∧
        ∀ a, x.g.holds l = true → s.placeOf c (.atom x) x.vw n = some a →
          let old := ofBytes ((before (c.lanes.takeWhile (· != n))).read a 4)
          c.laneIn t n = some (({ y.sided with v := y.v.set (y.phys x.d).val (BitVec.ofNat 32 old) } : Lane).past c)) ∧
  (∀ m ∈ ([
    (.xchg, 4, 1, 1, fun _ x => x),
    (.cas, 4, 2, 1, fun old x => if old = x % 2 ^ 32 then x / 2 ^ 32 else old),
    (.fadd, 4, 1, 1, fun old x => (opAdd fmtF32 false false old x).1),
    (.bfadd2, 4, 1, 1, fun old x => (opAdd fmtBF16 false false (old / 2 ^ 16) (x / 2 ^ 16)).1 * 2 ^ 16
      + (opAdd fmtBF16 false false (old % 2 ^ 16) (x % 2 ^ 16)).1),
    (.add64, 8, 2, 2, fun old x => (old + x) % 2 ^ 64),
    (.xchg64, 8, 2, 2, fun _ x => x),
    (.cas64, 8, 4, 2, fun old x => if old = x % 2 ^ 64 then x / 2 ^ 64 else old)] :
      List (AtomXOp × Nat × Nat × Nat × (Nat → Nat → Nat))),
    ∀ (x : OpAtomX) (s : State) (c : Ctx), x.op = m.1 → Accesses s c (.atomx x) x.g x.vw → ordOf c.hints = none →
    let new := fun n (bs : List Byte) => bytesOf m.2.1 (m.2.2.2.2 (ofBytes bs) (c.dataOf x.d n m.2.2.1))
    let before := fun ls => c.storedBy x.g (s.placeOf c (.atomx x) x.vw) m.2.1 new ls s.mem
    ∃ t, exec (.atomx x) s = .next t ∧ Leaves c s t ∧ LeavesTeam c s t ∧ LeavesScalars c t ∧ t.mem = before c.lanes ∧ t.tags = s.tags ∧
      ∀ n ∈ c.lanes, ∀ l, c.g.lanes[n]? = some l →
        let y := l.started (.atomx x) c
        (x.g.holds l = false → c.laneIn t n = some (y.past c)) ∧
        ∀ a, x.g.holds l = true → s.placeOf c (.atomx x) x.vw n = some a →
          let old := ofBytes ((before (c.lanes.takeWhile (· != n))).read a m.2.1)
          c.laneIn t n = some ((y.sided.fillRegs ((List.range m.2.2.2.1).map fun k => y.phys (x.d + Fin.ofNat 64 k))
            ((List.range m.2.2.2.1).map fun k => BitVec.ofNat 32 (old / 2 ^ (32 * k)))).past c)) ∧
  (∀ (i : Instr) (g : Guard) (vw : Fin 64), ((∃ x, i = .atom x ∧ g = x.g ∧ vw = x.vw) ∨ ∃ x, i = .atomx x ∧ g = x.g ∧ vw = x.vw) →
    ∀ (s : State) (c : Ctx) (n : Nat) (l : Lane), AccessesOne s c i g n l → ordOf c.hints = none → c.maskOk l vw.val = true →
    s.mem.wf = true → s.cutDies = [] →
    let v := c.view vw.val
    let y := l.started i c
    let b := memBytes i
    let data := (memData i).map y.reg
    ∀ id r off h r1 r2 sl, v.region = some id → s.region c.core id = some r → v.resolve .atomic (c.coordsOf i n) b = .ok off →
      r.maskAt c.core + 512 * r.slots.length ≤ 2 ^ 40 →
      let va := v.offset + off
      let k := va / 4096 % r.slots.length
      let a := r.dataAt c.core + 4096 * k + va % 4096
      (r.slot k).state = .clean → (r.slot k).page = va / 4096 → (r.slot k).filling = none → s.wbAwaits c.t.part c.core id k = false →
      s.maskAny c.core r k = false → s.slotHome c.t.part r va 4 = .ok h r1 r2 sl →
      (v.space = 3 → 2 ^ 40 ≤ h → h < 2 ^ 50 → s.mayBegin h = true → s.poisoned h b = false →
        ∃ t bs, exec i s = .next t ∧ memNew i (s.read h b) data = some bs ∧ t.read h b = bs ∧ t.read a b = bs ∧
          (∀ z, (z < a ∨ a + b ≤ z) → (z < h ∨ h + b ≤ z) → t.mem.get z = s.mem.get z) ∧
          c.laneIn t n = some ((y.sided.fillRegs ((memDests i).map y.phys) (memOut i (s.read h b))).past c)) ∧
      (∀ tag, v.space = 4 → isHost h = true → (pcieAtomic i = true ∨ Config.cxlTrained = true) → s.hostTag = some tag →
        s.asked (.access c.core c.gi s.nextFence n) = false →
        ∃ t g e, exec i s = .next t ∧ c.groupIn t = some g ∧ g.log = [e] ∧ e.instr = i ∧ e.no = s.nextFence ∧
          e.lanes = [⟨n, ((c.run i).getD []).map fun q => c.sees q n, data⟩] ∧ LeavesMemory s t ∧
          t.requests = s.requests ++ [⟨tag, true, 0, c.t.part, true, (List.range b).map (h + ·), .access c.core c.gi s.nextFence n⟩] ∧
          c.laneIn t n = some (({ y.sided with
            pending := y.pending ++ (memDests i).map y.phys
            wait := if y.inside.isSome then .refill else .none } : Lane).past c)))

/-- R103, R204: PLD through a planed view of a scratchpad or a vault, for every lane of the unit: the element of the lane's block,
cut to the planes asked for and rounded to f32 with its flags; a block of NaN gives the canonical NaN. Nothing else changes. R139, R200,
R267, R297: an ordered PLD sets SCOPE too where the line's tag does not match, and at DIE or wider, with no dirty slot, every slot of the
team is then invalid. R102, R103, R104: an invalid view, one that is not PLANED, STOOK or without R, and a coordinate beyond the extents
are a view fault (kind 0x04), an unbound DEVICE, HOST or PEER view a mapped-region fault (0x05); a contained lane ends with VIEWBOUNDS (5)
instead, also where its candidate mask does not name the view or the view is w63. -/
def Obligations.PlaneLoad : Prop :=
  (∀ (x : OpPld) (s : State) (c : Ctx), Issuing s c → c.Calm → c.g.log = [] →
    (∀ m ∈ c.lanes, ∃ l, Executes s c (.pld x) m l) →
    let v := c.view x.vw.val
    let cs := c.coordsOf (.pld x)
    let o := ordOf c.hints
    (∀ h, o = some h → h.rem = false ∧ (5 ≤ h.scope.code → c.NoDirty)) →
    v.valid = true → v.planed = true → v.stook = false → v.hasR = true → v.sram = true →
    (∀ m ∈ c.lanes, x.g.holds (c.g.lane m) = true → c.maskOk (c.g.lane m) x.vw.val = true ∧ v.inExtent (cs m) = true ∧
      ∃ a, s.sramAt c.core c.t v (v.lineAt (cs m)) = some a ∧ a < 2 ^ 40 ∧ s.firewall c.t.part a = true ∧ s.poisoned a 64 = false ∧
        s.strayAt a = [] ∧ ∀ q, s.tagAt (a / 64) = some q → q.legal a = true) →
    ∃ t, exec (.pld x) s = .next t ∧ Leaves c s t ∧ LeavesMemory s t ∧ LeavesScalars c t ∧
      ((∀ h, o = some h → h.scope.code < 5) → LeavesTeam c s t) ∧
      (∀ h, o = some h → 5 ≤ h.scope.code → (∃ m ∈ c.lanes, x.g.holds (c.g.lane m) = true) → c.AllInvalid t) ∧
      ∀ n ∈ c.lanes, ∀ l, c.g.lanes[n]? = some l →
        let y := l.started (.pld x) c
        (x.g.holds l = false → c.laneIn t n = some (y.past c)) ∧
        ∀ a, x.g.holds l = true → s.sramAt c.core c.t v (v.lineAt (cs n)) = some a →
          let b := Block.ofLine (s.read a 64)
          let e := readElem b ((cs n).getD (v.rank - 1) 0 % 16) (x.n.val + 1) x.rnp
          let r := if b.e = 0xFF then (0x7FC00000, 0) else
            ((roundTo fmtF32 false e.1).1, (roundTo fmtF32 false e.1).2 ||| if e.2 then 0x20 else 0)
          let fl := r.2 ||| match o with
            | none => 0
            | some h => if s.checkTag a 50 c.core c.gi n h.scope.code false = .mismatch then 0x40 else 0
          c.laneIn t n = some (match y.raises (recFmask c.r) fl with
            | some k => y.deliver k.outcome
            | none => ({ y with v := y.v.set (y.phys x.d).val (BitVec.ofNat 32 r.1), status := y.status ||| fl &&& 0xFF } : Lane).past c)) ∧
  (∀ (x : OpPld) (s : State) (c : Ctx) (n : Nat) (l : Lane), AccessesOne s c (.pld x) x.g n l → ordOf c.hints = none →
    let v := c.view x.vw.val
    let cs := c.coordsOf (.pld x) n
    let refused := v.valid = false ∨ v.planed = false ∨ v.stook = true ∨ v.hasR = false ∨ ∃ d, d < v.rank ∧ v.extN d ≤ cs.getD d 0
    let unbound := v.translated = true ∧ v.region = none
    ∃ t, exec (.pld x) s = .next t ∧
      (l.inside = none → refused → c.HaltsIn t 0x04 x.vw.val) ∧
      (l.inside = none → ¬ refused → unbound → c.HaltsIn t 0x05 x.vw.val) ∧
      (l.inside.isSome = true → (c.g.cmask.getLsbD x.vw.val = false ∨ x.vw.val = 63 ∨ refused ∨ unbound) →
        c.laneIn t n = some ((l.started (.pld x) c).deliver 5)))

/-- R170, R186, R293: a lane's plain access through a bound view, its granule in a slot: a load reads the slot's data area, a store
writes there, sets the mask bits of its bytes, and makes the slot DIRTY. Where the granule is not there and the slot is not dirty, a
fill begins, the access stands in the operand log, and the lane goes on with its destinations pending; a contained lane waits there for
the replay (R104). -/
def Obligations.MappedAccess : Prop :=
  ∀ (i : Instr) (g : Guard) (vw : Fin 64), ((∃ x, i = .ld x ∧ g = x.g ∧ vw = x.vw) ∨ ∃ x, i = .st x ∧ g = x.g ∧ vw = x.vw) →
  ∀ (s : State) (c : Ctx) (n : Nat) (l : Lane), Executes s c i n l → c.lanes = [n] → g.holds l = true → c.Calm → c.g.log = [] →
    ordOf c.hints = none → c.maskOk l vw.val = true → s.mem.wf = true → s.cutDies = [] →
    let v := c.view vw.val
    let y := l.started i c
    let b := memBytes i
    ∀ id r off, v.translated = true → v.region = some id → s.region c.core id = some r →
      v.resolve (memKind i) (c.coordsOf i n) b = .ok off → r.maskAt c.core + 512 * r.slots.length ≤ 2 ^ 40 →
    let va := v.offset + off
    let k := va / 4096 % r.slots.length
    let a := r.dataAt c.core + 4096 * k + va % 4096
    let data := (memData i).map y.reg
    ((r.slot k).state = .clean ∨ (r.slot k).state = .dirty → (r.slot k).page = va / 4096 → (r.slot k).filling = none → s.wbAwaits c.t.part c.core id k = false → s.poisoned a b = false →
      ∃ t, exec i s = .next t ∧ Leaves c s t ∧
        ((∃ x, i = .ld x) → LeavesMemory s t ∧ LeavesTeam c s t ∧
          c.laneIn t n = some ((y.fillRegs ((memDests i).map y.phys) (memOut i (s.read a b))).past c)) ∧
        ((∃ x, i = .st x) → c.laneIn t n = some (y.sided.past c) ∧ t.read a b = bytesOf b (wordsNum data) ∧
          (∀ u, t.region c.core id = some u → u.slot k = { r.slot k with state := .dirty }) ∧
          t.slotMask c.core r k = (List.range 4096).map (fun j => (s.slotMask c.core r k).getD j false
            || decide (va % 4096 ≤ j ∧ j < va % 4096 + b)) ∧
          ∀ z, (z < a ∨ a + b ≤ z) → (z < r.maskAt c.core + 512 * k ∨ r.maskAt c.core + 512 * k + 512 ≤ z) → t.mem.get z = s.mem.get z)) ∧
    ((r.slot k).filling = none → (r.slot k).state ≠ .dirty → ((r.slot k).state = .clean → (r.slot k).page ≠ va / 4096) → k < r.slots.length →
      ∃ t g', exec i s = .next t ∧ Leaves c s t ∧ LeavesMemory s t ∧ c.groupIn t = some g' ∧
        (∀ u, t.region c.core id = some u → (u.slot k).filling = some (va / 4096)) ∧
        (∃ e, g'.log = [e] ∧ e.instr = i ∧ e.place = c.place ∧ e.vw = vw.val ∧ e.view = v ∧ e.dests = (memDests i).map y.phys ∧ e.failed = false ∧
          e.lanes = [⟨n, ((c.run i).getD []).map fun q => c.sees q n, data⟩]) ∧
        c.laneIn t n = some (({ (if memKind i = .load then y else y.sided) with
          pending := y.pending ++ (memDests i).map y.phys
          wait := if y.inside.isSome then .refill else .none } : Lane).past c))

/-! ## Views, mapped regions, fences and barriers (spec/09_core_instructions.md R195 to R209; spec/16_die.md R293 to R297) -/

/-- R195 to R198: VNARROW stores a view that is valid only where its block is legal, and that reaches no more than its source: one
dimension cut to the window, rights only cleared, everything else kept; p0 says whether it is valid. VQRY writes four words of a
descriptor to scalar registers; VDROP clears VALID. Nothing else changes.
What a failed view holds beside VALID 0 is the model's reading (DEDUCED, log 76). -/
def Obligations.ViewInstructions : Prop :=
  (∀ (x : OpVNar) (s : State) (c : Ctx), ExecutesCalm s c (.vnarrow x) →
    let v := c.view x.src.val
    let p := fun k : Nat => (c.g.s.toList.getD ((4 * x.p.val + k) % 32) 0).toNat
    let dim := p 2 % 8
    let legal := v.valid = true ∧ p 1 ≠ 0 ∧ p 2 / 64 = 0 ∧ p 3 = 0 ∧ dim < v.rank ∧ p 0 + p 1 ≤ v.extN dim
    ∃ t u n, exec (.vnarrow x) s = .next t ∧ t.team c.core = some u ∧ u.views = c.t.views.set x.d.val n ∧
      c.PastIn (.vnarrow x) t (fun l => { l with p := l.p.set 0 n.valid }) ∧ Leaves c s t ∧ LeavesMemory s t ∧ LeavesScalars c t ∧
      (n.valid = true → legal ∧ n.ok (s.viewCtx c.core c.t) = true ∧ n.space = v.space ∧ n.rank = v.rank ∧ n.ty = v.ty ∧
        n.str = v.str ∧ n.region = v.region ∧ (∀ d, d < 5 → n.extN d = if d = dim then p 1 else v.extN d) ∧
        n.hasR = (v.hasR && !(p 2 / 8).testBit 0) ∧ n.hasW = (v.hasW && !(p 2 / 8).testBit 1) ∧
        n.hasA = (v.hasA && !(p 2 / 8).testBit 2)) ∧
      (legal → v.planed = false → v.stook = false → v.perm = 0 → 8 ≤ elemBits v.ty →
        let d := if dim + 1 < v.rank then p 0 * v.strN dim else p 0 * (elemBits v.ty / 8)
        v.offset + d < 2 ^ v.offsetBits → n.offset = v.offset + d)) ∧
  (∀ (x : OpVQry) (s : State) (c : Ctx), ExecutesCalm s c (.vqry x) → x.q.val ≤ 3 →
    let v := c.view x.vw.val
    let e := fun k => v.ext.toList.getD k 0
    let r := fun k => v.str.toList.getD k 0
    let lo := fun w : Word64 => BitVec.ofNat 32 (w.toNat % 2 ^ 32)
    let hi := fun w : Word64 => BitVec.ofNat 32 (w.toNat / 2 ^ 32)
    let words := match x.q.val with
      | 0 => [lo v.flags, hi v.flags, e 0, e 1]
      | 1 => [e 2, e 3, e 4, r 0]
      | 2 => [r 1, r 2, r 3, 0]
      | _ => [lo v.base, hi v.base, lo v.mbase, hi v.mbase]
    ∃ t g, exec (.vqry x) s = .next t ∧ c.groupIn t = some g ∧
      (∀ k : Fin 32, g.s[k] = if x.d.val ≤ k.val ∧ k.val < x.d.val + 4 then words.getD (k.val - x.d.val) 0 else c.g.s[k]) ∧
      c.PastIn (.vqry x) t (fun l => l) ∧ Leaves c s t ∧ LeavesMemory s t ∧ LeavesTeam c s t) ∧
  (∀ (x : OpVOne) (s : State) (c : Ctx), ExecutesCalm s c (.vdrop x) →
    let v := c.view x.vw.val
    ∃ t u, exec (.vdrop x) s = .next t ∧ t.team c.core = some u ∧
      u.views = c.t.views.set x.vw.val { v with flags := BitVec.ofNat 64 (v.flags.toNat % 2 ^ 63) } ∧
      c.PastIn (.vdrop x) t (fun l => l) ∧ Leaves c s t ∧ LeavesMemory s t ∧ LeavesScalars c t)

/-- R294 to R296: MAPR binds a valid, translated, unbound view to a new region, or changes nothing but p0; UNMAPR, FLUSHR and INVR
of an unbound view change nothing; of a region with no dirty slot, no fill and no logged access, INVR makes every slot invalid and
UNMAPR removes the region and unbinds its views; of a region with one dirty slot, they write it back first, so that memory is as that
write-back leaves it (what that is, `CodeAndSlotFills` says), and while it cannot be written back, or a write of the core to a peer is not
acknowledged (R373), the group is not ready; while the group has a logged access through the region they wait; an invalid view faults with kind 0x04.
That they wait for logged accesses is the model's reading (DEDUCED, log 16). -/
def Obligations.MappedRegions : Prop :=
  (∀ (x : OpVBlk) (s : State) (c : Ctx), ExecutesCalm s c (.mapr x) →
    let v := c.view x.vw.val
    let w := fun k : Nat => c.g.s.toList.getD ((x.p.val + k) % 32) 0
    let asked := if v.valid = true ∧ v.translated = true ∧ v.stook = false ∧ v.region = none ∧ c.t.regions.length < 8 then
      mapStorage s c.core c.t (w 0) (w 1) else none
    ∃ t u, exec (.mapr x) s = .next t ∧ t.team c.core = some u ∧ Leaves c s t ∧ LeavesMemory s t ∧ LeavesScalars c t ∧
      c.PastIn (.mapr x) t (fun l => { l with p := l.p.set 0 asked.isSome }) ∧ u.handles = c.t.handles ∧
      (asked = none → u.regions = c.t.regions ∧ u.views = c.t.views) ∧
      ∀ r, asked = some r → u.regions = c.t.regions ++ [{ r with view := x.vw.val, space := v.space, pkg := v.peer }] ∧
        u.views = c.t.views.set x.vw.val { v with region := some r.id }) ∧
  (∀ (s : State) (core : Nat) (t : Team) (w0 w1 : Word) (r : Region), mapStorage s core t w0 w1 = some r →
    let n := r.slots.length
    r.id = t.nextReg ∧ r.inVault = w0.getLsbD 31 ∧ r.vault = w0.toNat / 2 ^ 24 % 2 ^ 7 ∧ r.off = w0.toNat % 2 ^ 10 ∧
    n = w1.toNat ∧ (∃ k, n = 2 ^ k) ∧ n ≤ 256 ∧ (∀ k ∈ r.slots, k.state = .invalid ∧ k.filling = none) ∧
    (r.inVault = false → 4096 * r.off + 4608 * n ≤ (s.viewCtx core t).spad) ∧
    (r.inVault = true → 4096 * r.off + 4608 * n ≤ 3 * 2 ^ 20) ∧
    ∀ q ∈ t.regions, q.inVault = r.inVault → q.vault = r.vault →
      4096 * r.off + 4608 * n ≤ 4096 * q.off ∨ 4096 * q.off + 4608 * q.slots.length ≤ 4096 * r.off) ∧
  (∀ m ∈ ([
    (.unmapr, fun id u => { u with
      regions := u.regions.filter fun r => r.id != id
      views := u.views.map fun v => if v.region = some id then { v with region := none } else v }),
    (.flushr, fun _ u => u),
    (.invr, fun id u => { u with regions := u.regions.map fun r =>
      if r.id = id then { r with slots := r.slots.map fun k => { k with state := .invalid } } else r })] :
      List ((OpVOne → Instr) × (Nat → Team → Team))),
    ∀ (x : OpVOne) (s : State) (c : Ctx), ExecutesCalm s c (m.1 x) →
    let v := c.view x.vw.val
    let uses := fun (id : Nat) (g : Group) => ∃ e ∈ g.log, e.view.region = some id
    ∃ t, exec (m.1 x) s = .next t ∧
      (v.valid = false → c.HaltsIn t 0x04 x.vw.val) ∧
      (v.valid = true → v.region = none →
        c.PastIn (m.1 x) t (fun l => l) ∧ Leaves c s t ∧ LeavesMemory s t ∧ LeavesTeam c s t ∧ LeavesScalars c t) ∧
      ∀ id, v.valid = true → v.region = some id →
        (uses id c.g → c.RetriesIn s t) ∧
        ((∀ g ∈ c.t.groups, ¬ uses id g) → (∀ r ∈ c.t.regions, r.id = id → ∀ k ∈ r.slots, k.state ≠ .dirty ∧ k.filling = none) →
          (s.unacked c.core = true → c.RetriesIn s t) ∧ (s.unacked c.core = false → ∃ u, t.team c.core = some u ∧ u.regions = (m.2 id c.t).regions ∧ u.views = (m.2 id c.t).views ∧ u.handles = c.t.handles ∧
            c.PastIn (m.1 x) t (fun l => l) ∧ Leaves c s t ∧ LeavesMemory s t ∧ LeavesScalars c t)) ∧
        (∀ r k, (∀ g ∈ c.t.groups, ¬ uses id g) → s.region c.core id = some r → r.id = id → (∀ j, (r.slot j).filling = none) →
          k < r.slots.length → (r.slot k).state = .dirty → (∀ j, j ≠ k → (r.slot j).state ≠ .dirty) →
          let w := s.writeBack c.core r k (some c.gi) c.place.pc (maskOf c.lanes)
          (w.2 = true → w.1.unacked c.core = false → t.mem = w.1.mem ∧ c.PastIn (m.1 x) t (fun l => l) ∧ ∃ u v, t.team c.core = some u ∧
            w.1.team c.core = some v ∧ u.regions = (m.2 id v).regions ∧ u.views = (m.2 id v).views) ∧
          (w.2 = false ∨ w.1.unacked c.core = true →
            t.mem = w.1.mem ∧ ∃ g p, c.groupIn t = some g ∧ g.wait = .retry p ∧ g.lanes = c.g.lanes)))

/-- R205 to R207, R297: FENCE lets a lane go on once its logged accesses are done; at DIE or wider, with no dirty slot, every slot
is then invalid. CSYNC discards the code that the cores of its scope hold. With one dirty slot, the lane of a FENCE or CSYNC at DIE or
wider goes on with memory as the slot's write-back leaves it, and stays where that cannot be written back yet. QFENCE of 0 does nothing, names of queues that the
partition does not hold fault with kind 0x01, empty queues complete it at once, and it waits behind the entries of a queue.
What a CODE access and a release wait for is the model's reading (DEDUCED, log 33, log 42). -/
def Obligations.Fences : Prop :=
  (∀ (x : OpScope) (s : State) (c : Ctx) (n : Nat) (l : Lane), Executes s c (.fence x) n l → s.logged c.core c.gi n = false →
    (x.scope.code < 5 ∨ c.NoDirty ∧ s.unacked c.core = false) →
    ∃ t u, exec (.fence x) s = .next t ∧ t.team c.core = some u ∧ c.laneIn t n = some ((l.started (.fence x) c).past c) ∧
      (5 ≤ x.scope.code → c.Calm → ∀ r ∈ u.regions, ∀ k ∈ r.slots, k.state = .invalid)) ∧
  (∀ (x : OpScope) (s : State) (c : Ctx) (n : Nat) (l : Lane) (r : Region) (k : Nat) (i : Instr), (i = .fence x ∨ i = .csync x) →
    Executes s c i n l → c.lanes = [n] → c.alone = false → s.logged c.core c.gi n = false → 5 ≤ x.scope.code → c.Calm → c.OneDirty s r k →
    (x.scope = .system → r.space ≠ 5 ∧ s.unacked c.core = false) →
    let w := s.writeBack c.core r k (some c.gi) c.place.pc (BitVec.ofNat 64 (2 ^ n))
    ∃ t, exec i s = .next t ∧ t.mem = w.1.mem ∧
      (w.2 = true → (i = .fence x → c.AllInvalid t ∧ c.laneIn t n = some ((l.started i c).past c)) ∧
        (i = .csync x → c.laneIn t n = some { (l.started i c).past c with loop := [] })) ∧
      (w.2 = false → c.laneIn t n = some { l with wait := .none })) ∧
  (∀ (x : OpScope) (s : State) (c : Ctx) (n : Nat) (l : Lane), Executes s c (.csync x) n l → s.logged c.core c.gi n = false →
    (x.scope.code < 5 ∨ c.NoDirty ∧ s.unacked c.core = false) →
    ∃ t, exec (.csync x) s = .next t ∧
      c.laneIn t n = some { (l.started (.csync x) c).past c with loop := [] } ∧
      ∀ k, (scopeInst x.scope.code c.core c.gi).hasCore k = true → (t.core k).fetch = []) ∧
  (∀ (x : OpQFen) (s : State) (c : Ctx), ExecutesCalm s c (.qfence x) →
    let n := c.lanes.headD 0
    let m := (readSrc (c.env n) (c.g.lane n) x.a).toNat
    let engine := m / 2 ^ 16 % 8
    let held := ∀ j, j < 8 → m.testBit (8 + j) = true → s.holdsQueue c.t.part (dieOfCore c.core) engine j = true
    let legal := m / 2 ^ 19 = 0 ∧ m / 2 ^ 4 % 2 ^ 4 = 0 ∧ held
    ∃ t g, exec (.qfence x) s = .next t ∧ c.groupIn t = some g ∧
      (¬ legal → c.HaltsIn t 0x01 0) ∧
      (m = 0 → c.PastIn (.qfence x) t (fun l => l) ∧ Leaves c s t ∧ LeavesMemory s t ∧ LeavesTeam c s t ∧ LeavesScalars c t) ∧
      (legal → c.t.mq = [] → c.t.inq = [] → c.t.outq = [] → (∀ e ∈ s.engines, ∀ q ∈ e.queues, q = []) → c.g.log = [] →
        c.PastIn (.qfence x) t (fun l => l) ∧ Leaves c s t ∧ LeavesMemory s t ∧ LeavesTeam c s t ∧ LeavesScalars c t) ∧
      (legal → m = 8 → c.t.mq ≠ [] → c.t.mq.length < 16 → (∀ e ∈ c.t.mq, e.marks s.nextFence = false) →
        g.wait = .qfence s.nextFence c.words false ∧ (∃ u, t.team c.core = some u ∧ u.mq = c.t.mq ++ [.fence s.nextFence]) ∧
        Leaves c s t ∧ LeavesMemory s t ∧ LeavesScalars c t) ∧
      (legal → m.testBit 3 = true → 16 ≤ c.t.mq.length → c.RetriesIn s t))

/-- R208, R209, R284: the lanes of a cohort whose guard holds arrive at BARG, and the episode ends when the arrivals reach its
target, where 65 stands for all, or no lane is left to arrive. BART is the same among the groups of a team, each as a whole, where
33 stands for all. BARC of a team without a crew ends when every group that has not ended is at it, and a team of a crew arrives
at the crew's cell; a cell that is frozen by an error faults with kind 0x14 (R269).
That an arrival at BARG waits for the logged accesses of all arriving lanes, and that BART ends when every group that has not ended is there, are the model's readings (DEDUCED, log 42, log 70). -/
def Obligations.Barriers : Prop :=
  (∀ (x : OpBar) (s : State) (c : Ctx), Issuing s c → c.g.log = [] →
    (∀ m ∈ c.lanes, ∃ l, Executes s c (.barg x) m l ∧ l.wait = .none ∧ l.exited = false) →
    let arriving := c.lanes.filter fun m => x.g.holds (c.g.lane m)
    let alive := c.g.alive.length
    let first := arriving.headD 0
    let a := readSrc (c.env first) (c.g.lane first) x.a
    let target := c.g.bargTo.getD (if a = 0 ∨ alive < a.toNat then 65 else a.toNat)
    let total := c.g.bargIn + arriving.length
    ∃ t, exec (.barg x) s = .next t ∧
      (∀ m ∈ c.lanes, ∀ l, c.g.lanes[m]? = some l → x.g.holds l = false → c.laneIn t m = some ((l.started (.barg x) c).past c)) ∧
      ∀ m ∈ arriving, ∀ l, c.g.lanes[m]? = some l →
        let y := l.started (.barg x) c
        c.laneIn t m = some (if target ≤ total ∨ total = alive then y.past c else { y with wait := .barg c.words })) ∧
  (∀ (x : OpBar) (s : State) (c : Ctx), ExecutesCalm s c (.bart x) →
    let holds := c.lanes.filter fun m => x.g.holds (c.g.lane m)
    let n := c.lanes.headD 0
    let a := readSrc (c.env n) (c.g.lane n) x.a
    let b := c.t.bart.getD ⟨if a = 0 ∨ c.t.groups.length < a.toNat then 33 else a.toNat, []⟩
    let arrived := b.arrived ++ [c.gi]
    let over_ := b.target ≤ arrived.length ∨ ∀ k ∈ c.t.open_, k ∈ arrived
    ∃ t u g, exec (.bart x) s = .next t ∧ t.team c.core = some u ∧ c.groupIn t = some g ∧
      (holds = [] → c.PastIn (.bart x) t (fun l => l)) ∧
      (holds ≠ [] → holds ≠ c.lanes → c.HaltsIn t 0x08 0) ∧
      (holds = c.lanes → c.g.log ≠ [] → c.RetriesIn s t) ∧
      (holds = c.lanes → c.g.log = [] → over_ → u.bart = none ∧ g.wait = .none ∧
        ∀ m ∈ c.lanes, ∀ l, c.g.lanes[m]? = some l → l.exited = false →
          c.laneIn t m = some ((({ l with wait := .none } : Lane).chained (readsLatch (.bart x) c)).past c)) ∧
      (holds = c.lanes → c.g.log = [] → ¬ over_ → u.bart = some ⟨b.target, arrived⟩ ∧ g.wait = .bart c.words ∧
        ∀ m ∈ c.lanes, ∀ l, c.g.lanes[m]? = some l → ∃ z, c.laneIn t m = some z ∧ z.pc = l.pc)) ∧
  (∀ (x : OpBarc) (s : State) (c : Ctx), ExecutesCalm s c (.barc x) →
    let frozen := ∃ w b, s.crewOf c.core c.t = some w ∧ w.cells[x.c.val]? = some b ∧ b.frozen = true
    ∃ t u g, exec (.barc x) s = .next t ∧ t.team c.core = some u ∧ c.groupIn t = some g ∧
      (frozen → c.HaltsIn t 0x14 0) ∧
      (¬ frozen → c.g.log ≠ [] → c.RetriesIn s t) ∧
      (¬ frozen → c.g.log = [] → recCrew c.r = 1 →
        (∀ k ∈ c.t.open_, k ≠ c.gi → ∃ h w, c.t.groups[k]? = some h ∧ h.wait = .barc x.c.val w) → c.gi ∈ c.t.open_ →
        g.wait = .none ∧ ∀ m ∈ c.lanes, ∀ l, c.g.lanes[m]? = some l → l.exited = false →
          c.laneIn t m = some ((({ l with wait := .none } : Lane).chained (readsLatch (.barc x) c)).past c)) ∧
      (¬ frozen → c.g.log = [] → (∃ k ∈ c.t.open_, k ≠ c.gi ∧ ∀ h, c.t.groups[k]? = some h → ∀ w, h.wait ≠ .barc x.c.val w) →
        g.wait = .barc x.c.val c.words ∧ ∀ m ∈ c.lanes, ∀ l, c.g.lanes[m]? = some l → ∃ z, c.laneIn t m = some z ∧ z.pc = l.pc) ∧
      (¬ frozen → c.g.log = [] → recCrew c.r ≠ 1 → c.t.open_ = [c.gi] → c.t.barcIn = none → c.t.outq = [] →
        ∀ w, s.crewOf c.core c.t = some w → (∀ b ∈ w.cells, b.pending < 2 ^ 36) →
          u.barcIn = some x.c.val ∧ g.wait = .barc x.c.val c.words ∧
          ∃ w', t.crewOf c.core c.t = some w' ∧ ∀ k b, w.cells[k]? = some b →
            w'.cells[k]? = some (if k = x.c.val then { b with arrived := b.arrived + 1 } else b)))

/-! ## Handles and the team's own (spec/08_core.md R179 to R184; spec/09_core_instructions.md R210 to R213; spec/17_package.md R329) -/

/-- R179 to R181, R210, R211: the handle members. An all-ones field names handle 255 (R210). A number beyond 255 or a handle that is not planned faults with kind 0x0C; each
member changes the handle where its state allows, waits where it may come to allow it, and otherwise faults with reason 1. R212:
HBIND makes a CORE view of rank 2 of the data of a planned handle; it is valid only where its fields are legal and every byte
lies in the handle's region; p0 says whether it is.
That HSEAL and HFREE wait for no logged access, that DETAIL takes a number beyond 255 modulo 256 and an HFREE waits for no TILEOUT that
still drains its handle, and what the fields of a failed HBIND hold are the model's readings (DEDUCED, log 42, log 75, log 76). -/
def Obligations.Handles : Prop :=
  (let changes := fun (i : Instr) (s : State) (c : Ctx) (v : Nat) (h : Handle) => ∃ t u, exec i s = .next t ∧ t.team c.core = some u ∧
    u.handles = c.t.handles.set v h ∧ c.PastIn i t (fun l => l) ∧ Leaves c s t ∧ LeavesMemory s t ∧ LeavesScalars c t
  let waits := fun (i : Instr) (s : State) (c : Ctx) => ∃ t, exec i s = .next t ∧ c.RetriesIn s t
  let fails := fun (i : Instr) (s : State) (c : Ctx) (detail : Nat) => ∃ t, exec i s = .next t ∧ c.HaltsIn t 0x0C detail
  let number := fun (c : Ctx) (a : SSrc) => if a = .ones then 255 else (readSSrc c.g.s a).toNat
  (∀ (i : Instr) (a : SSrc), ((∃ x, i = .harm x ∧ a = x.h) ∨ (∃ x, i = .hseal x ∧ a = x.h) ∨ (∃ x, i = .hwait x ∧ a = x.h) ∨
      (∃ x, i = .htake x ∧ a = x.h) ∨ (∃ x, i = .hfree x ∧ a = x.h) ∨ ∃ x, i = .hqry x ∧ a = x.h) →
    ∀ s c, ExecutesCalm s c i → (255 < number c a ∨ c.t.handle (number c a) = none) → fails i s c (number c a % 256)) ∧
  (∀ (x : OpHarm) s c h, ExecutesCalm s c (.harm x) → number c x.h ≤ 255 → c.t.handle (number c x.h) = some h →
    (h.state = .free → changes (.harm x) s c (number c x.h) { h with
      state := .filling, isSealed := false, expect := x.e.val, arrived := 0, satcnt := 0, pending := 0, faulted := false,
      broken := false, desc := none }) ∧
    (h.state ≠ .free → waits (.harm x) s c)) ∧
  (∀ (x : OpHnd) s c h, ExecutesCalm s c (.hseal x) → number c x.h ≤ 255 → c.t.handle (number c x.h) = some h →
    (h.state = .filling → h.pending ≠ 0 ∨ h.arrived ≠ h.expect →
      changes (.hseal x) s c (number c x.h) { h with isSealed := true }) ∧
    (h.state = .filling → h.pending = 0 → h.arrived = h.expect → s.mem.wf = true → s.cutDies = [] → h.at c.core 0 < 2 ^ 40 →
      ∃ t u, exec (.hseal x) s = .next t ∧ t.team c.core = some u ∧
        u.handles = c.t.handles.set (number c x.h) { h with isSealed := true, state := .full } ∧ c.PastIn (.hseal x) t (fun l => l) ∧
        Leaves c s t ∧ LeavesScalars c t ∧
        (∀ d, h.desc = some d → t.read (h.at c.core 0) 64 = tileHeader d h.satcnt s.nextStamp.toNat) ∧
        ∀ z, (z < h.at c.core 0 ∨ h.at c.core 0 + 64 ≤ z) → t.mem.get z = s.mem.get z) ∧
    (h.state ≠ .filling → fails (.hseal x) s c (number c x.h + 256))) ∧
  (∀ (x : OpHWait) s c h, ExecutesCalm s c (.hwait x) → number c x.h ≤ 255 → c.t.handle (number c x.h) = some h →
    (h.faulted = true → fails (.hwait x) s c (number c x.h + 256)) ∧
    (h.faulted = false → (h.state = .full ∨ h.state = .draining) → h.phase = x.phase → changes (.hwait x) s c (number c x.h) h) ∧
    (h.faulted = false → (h.state = .free ∨ h.state = .filling ∨ h.phase ≠ x.phase) → waits (.hwait x) s c)) ∧
  (∀ (x : OpHnd) s c h, ExecutesCalm s c (.htake x) → number c x.h ≤ 255 → c.t.handle (number c x.h) = some h →
    (h.faulted = true → fails (.htake x) s c (number c x.h + 256)) ∧
    (h.faulted = false → h.state = .full → changes (.htake x) s c (number c x.h) { h with state := .draining }) ∧
    (h.faulted = false → h.state ≠ .full → waits (.htake x) s c)) ∧
  (∀ (x : OpHnd) s c h, ExecutesCalm s c (.hfree x) → number c x.h ≤ 255 → c.t.handle (number c x.h) = some h →
    (h.state ≠ .draining → fails (.hfree x) s c (number c x.h + 256)) ∧
    (h.state = .draining → (∃ e ∈ c.t.mq, e.names (number c x.h) = true) → waits (.hfree x) s c) ∧
    (h.state = .draining → (∀ e ∈ c.t.mq, e.names (number c x.h) = false) →
      changes (.hfree x) s c (number c x.h) { h with state := .free, phase := !h.phase })) ∧
  (∀ (x : OpHQry) s c h, ExecutesCalm s c (.hqry x) → number c x.h ≤ 255 → c.t.handle (number c x.h) = some h →
    let code := match h.state with
      | .free => 0
      | .filling => 1
      | .full => 2
      | .draining => 3
    let b := fun q : Bool => if q then 1 else 0
    let entry := h.satcnt * 2 ^ 29 + h.size * 2 ^ 49 + h.base * 2 ^ 62 + h.arrived * 2 ^ 74 + h.expect * 2 ^ 80 + h.pending * 2 ^ 86
      + b h.faulted * 2 ^ 123 + b h.isSealed * 2 ^ 124 + b h.phase * 2 ^ 125 + code * 2 ^ 126
    ∃ t g, exec (.hqry x) s = .next t ∧ c.groupIn t = some g ∧
      (∀ k : Fin 32, g.s[k] = if x.d.val ≤ k.val ∧ k.val < x.d.val + 4 then BitVec.ofNat 32 (entry / 2 ^ (32 * (k.val - x.d.val)))
        else c.g.s[k]) ∧
      c.PastIn (.hqry x) t (fun l => l) ∧ Leaves c s t ∧ LeavesMemory s t ∧ LeavesTeam c s t)) ∧
  (∀ (x : OpVBlk) (s : State) (c : Ctx), ExecutesCalm s c (.hbind x) →
    let w := fun k : Nat => c.g.s.toList.getD ((x.p.val + k) % 32) 0
    let no := (w 0).toNat % 2 ^ 8
    let ty := (w 0).toNat / 2 ^ 8 % 2 ^ 6
    ∃ t, exec (.hbind x) s = .next t ∧
      (c.t.handle no = none → c.HaltsIn t 0x0C no) ∧
      ∀ h, c.t.handle no = some h → ∃ u n, t.team c.core = some u ∧ u.views = c.t.views.set x.vw.val n ∧
        c.PastIn (.hbind x) t (fun l => { l with p := l.p.set 0 n.valid }) ∧ Leaves c s t ∧ LeavesMemory s t ∧ LeavesScalars c t ∧
        n.base = BitVec.ofNat 64 (64 * h.base + 64) ∧ n.extN 0 = (w 1).toNat ∧ n.extN 1 = (w 2).toNat ∧ n.strN 0 = (w 3).toNat ∧
        n.space = 0 ∧ n.rank = 2 ∧ n.ty = ty ∧ n.region = none ∧
        (n.valid = true → (w 0).toNat / 2 ^ 17 = 0 ∧ (ty ≤ 8 ∨ ty = 0x0D) ∧ w 1 ≠ 0 ∧ w 2 ≠ 0 ∧ 64 + n.span ≤ 64 * h.size ∧
          n.hasR = (w 0).getLsbD 14 ∧ n.hasW = (w 0).getLsbD 15 ∧ n.hasA = (w 0).getLsbD 16))

/-- R297, R329, R344, R346, R382: TRIG marks its group at once, whatever its log holds, and writes a dirty slot of the team back; the last
group to do so, when the team's earlier accesses and copies are done, sets the team's TRIG bit; a group that is marked does nothing; SLOTQ gives the time to the slot, its length, the frame's length and the frames to the next long one;
FEATQ gives the features, and the version, the package and the partition.
That TRIG itself begins the write-backs is the model's reading (DEDUCED, log 87). -/
def Obligations.TeamQueries : Prop :=
  (∀ (s : State) (c : Ctx), ExecutesOnce s c .trig → c.g.triggered = false → c.t.regions = [] →
    ∃ t g, exec .trig s = .next t ∧ c.groupIn t = some g ∧
      g.triggered = true ∧ g.trigNo = some s.nextFence ∧ c.PastIn .trig t (fun l => l) ∧
      (∀ l, s.launchOf c.t = some l → c.Calm → c.g.ended = false → (∀ h ∈ c.t.groups, h.log = []) →
        (∀ k h, c.t.groups[k]? = some h → k ≠ c.gi → h.triggered = true) →
        c.t.inq = [] → c.t.outq = [] → (∀ e ∈ s.engines, ∀ q ∈ e.queues, q = []) →
        ∃ l', t.launchOf c.t = some l' ∧ c.t.number ∈ l'.trig)) ∧
  (∀ (s : State) (c : Ctx) (r : Region) (k : Nat), ExecutesCalm s c .trig → c.OneDirty s r k →
    (∃ j h, c.t.groups[j]? = some h ∧ j ≠ c.gi ∧ h.triggered = false ∧ h.ended = false) →
    let w := s.writeBack c.core r k (some c.gi) c.place.pc (maskOf c.lanes)
    w.2 = true → ∃ t g, exec .trig s = .next t ∧ c.groupIn t = some g ∧ g.triggered = true ∧ t.mem = w.1.mem ∧
      c.PastIn .trig t (fun l => l)) ∧
  (∀ (s : State) (c : Ctx), ExecutesOnce s c .trig → c.lanes ≠ [] → c.g.triggered = true →
    (∃ (n : Nat) (l : Lane), c.g.lanes[n]? = some l ∧ l.exited = false) → (∃ h ∈ c.t.groups, h.triggered = false ∧ h.ended = false) →
    ∃ t, exec .trig s = .next t ∧ c.PastIn .trig t (fun l => l) ∧ Leaves c s t ∧ LeavesMemory s t ∧ LeavesTeam c s t) ∧
  (∀ (x : OpSlotQ) (s : State) (c : Ctx), ExecutesCalm s c (.slotq x) →
    let u := s.time.toNat
    let n := u / 32768
    let nominal := fun k => if k % 32 = 0 then 6144 else 1536
    let len := if s.phase = .slot then max (nominal n) s.slotLen else nominal n
    let inside := decide (u % 32768 < len)
    let next := if inside then n else n + 1
    let words := [if inside then 0 else 32768 * (n + 1) - u, if inside then len else nominal (n + 1), 32768, (32 - next % 32) % 32]
    ∃ t g, exec (.slotq x) s = .next t ∧ c.groupIn t = some g ∧
      (∀ k : Fin 32, g.s[k] = if x.d.val ≤ k.val ∧ k.val < x.d.val + 4 then BitVec.ofNat 32 (words.getD (k.val - x.d.val) 0)
        else c.g.s[k]) ∧
      c.PastIn (.slotq x) t (fun l => l) ∧ Leaves c s t ∧ LeavesMemory s t ∧ LeavesTeam c s t) ∧
  (∀ (x : OpFeatQ) (s : State) (c : Ctx), ExecutesCalm s c (.featq x) → x.q.val ≤ 1 →
    let words := if x.q.val = 0 then [0x1FF, 0, 0, 0] else [2, s.packageId.toNat, c.t.part, 0]
    ∃ t g, exec (.featq x) s = .next t ∧ c.groupIn t = some g ∧
      (∀ k : Fin 32, g.s[k] = if x.d.val ≤ k.val ∧ k.val < x.d.val + 4 then BitVec.ofNat 32 (words.getD (k.val - x.d.val) 0)
        else c.g.s[k]) ∧
      c.PastIn (.featq x) t (fun l => l) ∧ Leaves c s t ∧ LeavesMemory s t ∧ LeavesTeam c s t)

/-! ## The matrix array and the copy units (spec/10_core_matrix_copy.md; spec/16_die.md R307, R308) -/

/-- R222 to R225, R228 to R233: each matrix instruction at issue. A handle that its operands name and that is not planned, is
FAULTED or has an unsuited header faults with kind 0x0C and its reason; a handle that is not ready and a full queue make it wait;
otherwise its entry, with the headers as they stand, goes to the end of the matrix queue, and a drain's handle is FILLING.
The order between FAULTED and TYPE, the headers kept, and a drain's wait are the model's readings (DEDUCED, log 40,
log 41, log 75). -/
def Obligations.MatrixIssue : Prop :=
  let enters := fun (i : Instr) (s : State) (c : Ctx) (e : MatrixEntry) (hs : List Handle) => ∃ t u, exec i s = .next t ∧
    t.team c.core = some u ∧ u.mq = c.t.mq ++ [e] ∧ u.handles = hs ∧ c.PastIn i t (fun l => l) ∧ Leaves c s t ∧ LeavesMemory s t ∧
    LeavesScalars c t
  let waits := fun (i : Instr) (s : State) (c : Ctx) => ∃ t, exec i s = .next t ∧ c.RetriesIn s t
  let fails := fun (i : Instr) (s : State) (c : Ctx) (h reason : Nat) => ∃ t, exec i s = .next t ∧ c.HaltsIn t 0x0C (h + 256 * reason)
  let readable := fun (c : Ctx) (h : Nat) => ∃ x, c.t.handle h = some x ∧ (x.state = .full ∨ x.state = .draining)
  (∀ (i : Instr) (x : OpMma) (s : State) (c : Ctx), (i = .mma x ∨ i = .mmag x) → ExecutesCalm s c i →
    let latch := decide (i = .mma x) && x.ha.val == 255
    let hs := (if latch then [] else [x.ha.val]) ++ [x.hb.val]
    let p : Product := ⟨if latch then none else some x.ha.val, x.hb.val, planesOf x.pl, x.rn, x.acc, x.z.val,
      if i = .mma x then none else some (gatherRows c.g c.hints)⟩
    let heads := s.productHeads c.core c.t p
    (latch = true → c.t.alatch = none → fails i s c 255 6) ∧
    ((latch = true → c.t.alatch ≠ none) →
      (∀ h rest, hs = h :: rest → c.t.handle h = none → fails i s c h 0) ∧
      (∀ h rest y, hs = h :: rest → (∀ k ∈ hs, (c.t.handle k).isSome = true) → c.t.handle h = some y → y.faulted = true → fails i s c h 1) ∧
      ((∀ h ∈ hs, ∃ y, c.t.handle h = some y ∧ y.faulted = false) →
        ((∃ h ∈ hs, ¬ readable c h) ∨ 16 ≤ c.t.mq.length ∨ c.g.acquiring = true → waits i s c) ∧
        ((∀ h ∈ hs, readable c h) → c.t.mq.length < 16 → c.g.acquiring = false →
          (∀ h k, p.late c.t heads.1 heads.2 = some (.handle h k) → h < 256 → fails i s c h k) ∧
          (p.late c.t heads.1 heads.2 = none →
            enters i s c (.op i (p.idx.getD []) 0 c.gi none [heads.1, heads.2]) c.t.handles))))) ∧
  (∀ m ∈ ([(.mdrn, 0x05), (.mdrnb, 0x06)] : List ((OpDrn → Instr) × Nat)),
    ∀ (x : OpDrn) (s : State) (c : Ctx), ExecutesCalm s c (m.1 x) →
    (c.t.handle x.h.val = none → fails (m.1 x) s c x.h.val 0) ∧
    ∀ h, c.t.handle x.h.val = some h →
      (h.state ≠ .free ∨ 16 ≤ c.t.mq.length → waits (m.1 x) s c) ∧
      (h.state = .free → c.t.mq.length < 16 → h.size < 17 → fails (m.1 x) s c x.h.val 5) ∧
      (h.state = .free → c.t.mq.length < 16 → 17 ≤ h.size → enters (m.1 x) s c (.op (m.1 x) [] 0 c.gi none [])
        (c.t.handles.set x.h.val { h with
          state := .filling, isSealed := true, expect := 0, arrived := 0, satcnt := 0, pending := 1024, faulted := false,
          broken := false, desc := some ⟨m.2, 0, 16, 16, 64, 0⟩ }))) ∧
  (∀ i, ((∃ x, i = .mdrnl x) ∨ ∃ x, i = .mzero x) → ∀ (s : State) (c : Ctx), ExecutesCalm s c i →
    (16 ≤ c.t.mq.length → waits i s c) ∧ (c.t.mq.length < 16 → enters i s c (.op i [] 0 c.gi none []) c.t.handles)) ∧
  (∀ (i : Instr) (n : Fin 256) (rows : TileDesc → Nat) (row : TileDesc → Nat) (step : Ctx → Word) (kind : Nat),
    ((∃ x, i = .mload x ∧ n = x.h ∧ (rows = fun _ => 16) ∧ (row = fun _ => 64) ∧ (step = fun _ => 0) ∧ kind = 0) ∨
     (∃ x, i = .padd x ∧ n = x.h ∧ (rows = fun _ => 16) ∧ (row = fun d => d.k / 16 * 64) ∧ (step = fun c => c.g.s[x.k.val]) ∧ kind = 1) ∨
     (∃ x, i = .pnorm x ∧ n = x.h ∧ (rows = fun d => d.rows) ∧ (row = fun d => d.k / 16 * 64) ∧ (step = fun _ => 0) ∧ kind = 2)) →
    ∀ (s : State) (c : Ctx), ExecutesCalm s c i →
    (c.t.handle n.val = none → fails i s c n.val 0) ∧
    ∀ h, c.t.handle n.val = some h →
      let d := s.readHeader c.core h
      let fits := rows d = 0 ∨ 64 + (rows d - 1) * d.pitch + row d ≤ 64 * h.size
      let shape := (kind = 0 → 16 ≤ d.rows ∧ 16 ≤ d.k) ∧ (kind = 1 → d.rows = 16 ∧ d.k = 16) ∧ row d ≤ d.pitch ∧ fits
      (h.faulted = true → fails i s c n.val 1) ∧
      (h.faulted = false → ¬ readable c n.val ∨ 16 ≤ c.t.mq.length → waits i s c) ∧
      (h.faulted = false → readable c n.val → c.t.mq.length < 16 →
        (d.ty ≠ (if kind = 0 then 0x05 else 0x0D) → fails i s c n.val 2) ∧
        (d.ty = (if kind = 0 then 0x05 else 0x0D) → kind ≠ 0 → d.planes ≠ 4 → fails i s c n.val 3) ∧
        (d.ty = (if kind = 0 then 0x05 else 0x0D) → (kind ≠ 0 → d.planes = 4) → ¬ shape → fails i s c n.val 4) ∧
        (d.ty = (if kind = 0 then 0x05 else 0x0D) → (kind ≠ 0 → d.planes = 4) → shape →
          enters i s c (.op i [] (step c) c.gi none [d]) c.t.handles)))

/-- R226 to R233: the head of the matrix queue performed, with nothing behind it. A product leaves in each accumulator the
chain of 24 steps over a row of A (a handle's, MMAG's row of its pool, or the latch's, by the tag that it has then) and a row of B, from its old value or from 0, and
counts its saturations at the handles; MZERO clears; MLOAD takes the words of its tile; MDRN and MDRNB leave an accumulator in the handle's
rows, 1,024 bytes, and MDRNL in a slice of the latch; PADD and PNORM re-encode the block lines of their tile; no other accumulator
changes. R31: a step gives NaN, an infinity, or the sum of its terms, each truncated 48 bits below the largest, rounded once. R222: the
elements of a row. R232: PADD adds exactly and takes the lowest exponent from E on that holds every element. R233: PNORM keeps every value.
How often a saturated element counts and the headers kept are the model's readings (DEDUCED, log 41, log 77). -/
def Obligations.MatrixResults : Prop :=
  (∀ (s : State) (core : Nat) (t : Team) (i : Instr) (rows : List Nat) (step : Word) (gi : Nat) (heads : List TileDesc),
    s.team core = some t → s.enginesRun core t = true → t.mq = [.op i rows step gi none heads] → t.follows = [] → t.z.length = 8 →
    let d := fun k => heads.getD k ⟨0, 0, 0, 0, 0, 0⟩
    let acc := fun (n : Fin 8) (r q : Nat) => ((t.acc n.val).getD (16 * r + q) 0).toNat
    ∃ t' u, exec (.matrixQueuePerform core) s = .next t' ∧ t'.team core = some u ∧ u.mq = [] ∧ u.z.length = 8 ∧
      (∀ x p k, (i = .mma x ∧ p = mmaProduct x ∨
          i = .mmag x ∧ rows.length = 16 ∧ p = { mmaProduct x with ha := some x.ha.val, idx := some rows }) →
        let da := { d 0 with ty := if p.ha.isSome then (d 0).ty else match t.alatch with
          | none => 0
          | some l => match l.ty with
            | .bf16 => 6
            | .e4m3 => 7
            | .e5m2 => 8 }
        pairK da.ty (d 1).ty (planesOf x.pl) x.rn = some k →
        let a := s.operandRows core t p.ha da (p.idx.getD (List.range 16)) k (p.pl + 1) p.rn
        let b := s.operandRows core t (some p.hb) (d 1) (List.range 16) k (p.pl + 1) p.rn
        (∀ r q, r < 16 → q < 16 → (u.acc x.z.val).getD (16 * r + q) 0 = BitVec.ofNat 32 (mmaChain (k / 24) 24 (a.1.getD r []) (b.1.getD q [])
          (if x.acc then acc x.z r q else 0))) ∧
        ∀ n h, t.handle n = some h → ∃ z, u.handle n = some z ∧ z = if p.ha = some n ∨ p.hb = n then
          { h with satcnt := min (2 ^ 20 - 1) (h.satcnt + (if p.ha = some n then a.2 else 0) + if p.hb = n then b.2 else 0) } else h) ∧
      (∀ x, i = .mzero x → u.acc x.z.val = List.replicate 256 0) ∧
      (∀ x h, i = .mload x → t.handle x.h.val = some h → ∀ r q, r < 16 → q < 16 →
        (u.acc x.z.val).getD (16 * r + q) 0 = BitVec.ofNat 32 (s.num (h.at core (64 + r * (d 0).pitch + 4 * q)) 4)) ∧
      (∀ x h, (i = .mdrn x ∨ i = .mdrnb x) → t.handle x.h.val = some h → t.Busy → s.Plain → h.at core 0 + 1088 ≤ 2 ^ 40 →
        (∀ r q, r < 16 → q < 16 →
          let v := valOf fmtF32 (acc x.z r q)
          (i = .mdrn x → t'.num (h.at core (64 + 64 * r + 4 * q)) 4 = if v.isNaN then 0x7FC00000 else acc x.z r q) ∧
          (i = .mdrnb x → t'.num (h.at core (64 + 64 * r + 2 * q)) 2 = (roundTo fmtBF16 false v).1 ∧
            t'.num (h.at core (64 + 64 * r + 32 + 2 * q)) 2 = 0)) ∧
        (∀ z, (z < h.at core 0 ∨ h.at core 0 + 1088 ≤ z) → t'.mem.get z = s.mem.get z) ∧
        ∃ z, u.handle x.h.val = some z ∧ z.pending = h.pending - 1024 ∧ z.state = if h.state = .filling ∧ h.isSealed = true ∧
          h.pending ≤ 1024 ∧ h.arrived = h.expect then .full else h.state) ∧
      (∀ x, i = .mdrnl x → (∀ l, t.alatch = some l → l.rows.length = 16 ∧ ∀ row ∈ l.rows, row.length = 192) →
        x.slot.val < (if x.ty = .bf16 then 6 else 12) →
        let w := if x.ty = .bf16 then 2 else 1
        let kept := fun r k : Nat => match t.alatch with
          | some l => if l.ty = x.ty then (l.rows.getD r []).getD k 0 else 0
          | none => 0
        ∃ l, u.alatch = some l ∧ l.ty = x.ty ∧ ∀ r, r < 16 →
          (∀ q, q < 16 → ofBytes (((l.rows.getD r []).drop (w * (16 * x.slot.val + q))).take w) = match x.ty with
            | .bf16 => (roundTo fmtBF16 false (valOf fmtF32 (acc x.z r q))).1
            | .e4m3 => (roundF8 fmtE4M3 true false (valOf fmtF32 (acc x.z r q))).1
            | .e5m2 => (roundF8 fmtE5M2 true false (valOf fmtF32 (acc x.z r q))).1) ∧
          ∀ k, k < 192 → (k < w * 16 * x.slot.val ∨ w * 16 * (x.slot.val + 1) ≤ k) → (l.rows.getD r []).getD k 0 = kept r k) ∧
      (∀ x h, i = .padd x → t.handle x.h.val = some h → t.Busy → s.Plain → 64 ≤ (d 0).pitch → h.at core (64 + 15 * (d 0).pitch) + 64 ≤ 2 ^ 40 →
        let line := fun r => h.at core (64 + r * (d 0).pitch)
        let y := fun r => padBlock (Block.ofLine (s.read (line r) 64)) step (((t.acc x.z.val).drop (16 * r)).take 16)
        (∀ r, r < 16 → t'.read (line r) 64 = match (y r).1 with
          | none => s.read (line r) 64
          | some b => b.line) ∧
        (∀ z, (∀ r, r < 16 → z < line r ∨ line r + 64 ≤ z) → t'.mem.get z = s.mem.get z) ∧
        ∃ z, u.handle x.h.val = some z ∧
          z = { h with satcnt := min (2 ^ 20 - 1) (h.satcnt + ((List.range 16).map fun r => (y r).2).sum) }) ∧
      (∀ x h, i = .pnorm x → t.handle x.h.val = some h → t.Busy → s.Plain → (d 0).k / 16 * 64 ≤ (d 0).pitch →
        h.at core (64 + (d 0).rows * (d 0).pitch) ≤ 2 ^ 40 →
        let line := fun r b => h.at core (64 + r * (d 0).pitch + 64 * b)
        u.handle x.h.val = some h ∧
        (∀ r b, r < (d 0).rows → b < (d 0).k / 16 → t'.read (line r b) 64 = match normBlock (Block.ofLine (s.read (line r b) 64)) with
          | none => s.read (line r b) 64
          | some y => y.line) ∧
        ∀ z, (∀ r b, r < (d 0).rows → b < (d 0).k / 16 → z < line r b ∨ line r b + 64 ≤ z) → t'.mem.get z = s.mem.get z) ∧
      (∀ n, (∀ x, (i = .mma x ∨ i = .mmag x) → n ≠ x.z.val) → (∀ x, i = .mzero x → n ≠ x.z.val) → (∀ x, i = .mload x → n ≠ x.z.val) →
        u.acc n = t.acc n)) ∧
  (∀ (s : State) (core : Nat) (t : Team) (h : Option Nat) (d : TileDesc) (idx : List Nat) (k n j i : Nat) (rn : Bool), idx[j]? = some i →
    (s.operandRows core t h d idx k n rn).1.getD j [] = if i = 0xFFFF then List.replicate k (.fin false 0 0)
      else (rowVals d.ty k n d.planes rn (match h with
        | none => ((t.alatch.map (·.rows)).getD []).getD i []
        | some m => ((t.handle m).map fun x => s.read (x.at core (64 + i * d.pitch)) (rowBytes d.ty k)).getD [])).1) ∧
  (∀ (k n planes j : Nat) (rn : Bool) (bs : List Byte), j < k →
    let at_ := fun m => (bs.getD m 0).toNat
    let val := fun ty => (rowVals ty k n planes rn bs).1.getD j (.nan true)
    (k ≤ bs.length → val 7 = valOf fmtE4M3 (at_ j) ∧ val 8 = valOf fmtE5M2 (at_ j)) ∧
    (2 * k ≤ bs.length → val 6 = valOf fmtBF16 (at_ (2 * j) + 2 ^ 8 * at_ (2 * j + 1))) ∧
    (k % 16 = 0 → 4 * k ≤ bs.length → 1 ≤ planes → planes ≤ 4 →
      let b := Block.ofLine ((bs.drop (64 * (j / 16))).take 64)
      let deep := 2 ^ (21 - [1, 5, 13, 21].getD (planes - 1) 0)
      val 0x0D = (readElem { b with elems := b.elems.map fun x => x / deep * deep } (j % 16) n rn).1)) ∧
  (∀ (ks n : Nat) (as bs : List Sys2Proof.Num) (c : Nat), mmaChain ks 0 as bs c = c ∧
    mmaChain ks (n + 1) as bs c = mmaChain ks n (as.drop ks) (bs.drop ks)
      (mmaStep (valOf fmtF32 c :: List.zipWith numMul (as.take ks) (bs.take ks)))) ∧
  (∀ x y : Sys2Proof.Num,
    (x.isNaN = true ∨ y.isNaN = true → (numMul x y).isNaN = true) ∧
    (x.isFin = true → y.isFin = true → (numMul x y).isFin = true ∧ (numMul x y).rat = x.rat * y.rat ∧
      (numMul x y).negative = (x.negative != y.negative)) ∧
    (∀ n, x = .inf n → (y.isFin = true → y.rat = 0 → (numMul x y).isNaN = true ∧ (numMul y x).isNaN = true) ∧
      (y.isNaN = false → (y.isFin = true → y.rat ≠ 0) → numMul x y = .inf (n != y.negative) ∧ numMul y x = .inf (n != y.negative)))) ∧
  (∀ (ts : List Sys2Proof.Num), ts ≠ [] →
    let some_ := fun x : Sys2Proof.Num => x ∈ ts
    let fin := ∀ x ∈ ts, x.isFin = true
    ((∃ x ∈ ts, x.isNaN = true) ∨ some_ (.inf true) ∧ some_ (.inf false) → mmaStep ts = 0x7FC00000) ∧
    (∀ n, (∀ x ∈ ts, x.isNaN = false) → some_ (.inf n) → ¬ some_ (.inf !n) → mmaStep ts = if n then 0xFF800000 else 0x7F800000) ∧
    (fin → (∀ x ∈ ts, x.rat = 0) → mmaStep ts = if ∀ x ∈ ts, x.negative = true then 0x80000000 else 0) ∧
    (fin → ∀ k : Int, (∃ x ∈ ts, (2 : Rat) ^ k ≤ |x.rat|) → (∀ x ∈ ts, |x.rat| < (2 : Rat) ^ (k + 1)) →
      let cut := fun x : Sys2Proof.Num => (if x.negative then -1 else 1) * ((|x.rat| / (2 : Rat) ^ (k - 47)).floor : Rat) * (2 : Rat) ^ (k - 47)
      ∃ fl, fmtF32.RoundsRat false (ts.map cut).sum false (mmaStep ts, fl))) ∧
  (∀ (b : Block) (a : Word) (zs : List Word), zs.length = 16 →
    let fin := (valOf fmtF32 a.toNat).isFin = true ∧ ∀ z ∈ zs, (valOf fmtF32 z.toNat).isFin = true
    (b.e = 0xFF → padBlock b a zs = (none, 0)) ∧
    (b.e ≠ 0xFF → ¬ fin → padBlock b a zs = (some ⟨0xFF, 0, List.replicate 16 0⟩, 1)) ∧
    (b.e < 0xFF → fin → ∃ (e n : Nat) (xs : List Nat) (v : Nat → Sys2Proof.Num), padBlock b a zs = (some ⟨e, b.mu, xs⟩, n) ∧ b.e ≤ e ∧ e ≤ 254 ∧
      let enc := fun (e : Nat) (j : Nat) => match v j with
        | .fin s m x => encodeElem s m x ((e : Int) - 127 - (b.mu / 2 ^ (j / 2) % 2 : Nat))
        | .nan _ => (0, false)
        | .inf _ => (0, false)
      (∀ j, j < 16 →
        let x := (readElem b j 4 false).1
        let y := valOf fmtF32 ((zs.getD j 0).toNat)
        let step := valOf fmtF32 a.toNat
        (v j).isFin = true ∧ (v j).rat = x.rat + step.rat * y.rat ∧
          ((v j).rat = 0 → (v j).negative = (x.negative && (step.negative != y.negative))) ∧ xs.getD j 0 = (enc e j).1) ∧
      n = (List.range 16).countP (fun j => (enc e j).2) ∧ (n ≠ 0 → e = 254) ∧
      ∀ k, b.e ≤ k → k < e → ∃ j, j < 16 ∧ (enc k j).2 = true)) ∧
  (∀ b : Block, b.mu < 2 ^ 8 → b.elems.length = 16 → (∀ x ∈ b.elems, x < 2 ^ 24) →
    let val := fun (b : Block) (j : Nat) => (readElem b j 4 false).1
    (b.e = 0xFF ∨ (∀ j, j < 16 → (val b j).rat = 0) → normBlock b = none) ∧
    (b.e < 0xFF → ∀ (t : Nat) (l : Int), t < 16 → (∀ j, j < 16 → |(val b j).rat| ≤ |(val b t).rat|) → (2 : Rat) ^ l ≤ |(val b t).rat| →
      |(val b t).rat| < (2 : Rat) ^ (l + 1) →
      ∃ c, normBlock b = some c ∧ c.e = min b.e (max 1 (min 254 (l - 2 + 127))).toNat ∧ c.mu < 2 ^ 8 ∧
        (∀ j, j < 8 → (c.mu.testBit j = true ↔ max |(val b (2 * j)).rat| |(val b (2 * j + 1)).rat| < 4 * (2 : Rat) ^ ((c.e : Int) - 127))) ∧
        ∀ j, j < 16 → (val c j).isFin = true ∧ (val c j).rat = (val b j).rat ∧ (val c j).negative = (val b j).negative))

/-- R234 to R241, R308: a copy at issue. TILEIN, TILEOUT and BCOPY whose checks pass make their group wait, and where the handle
takes the copy and the queue has room the copy enters its queue: the handle of TILEIN and BCOPY is FILLING with the copy's bytes
pending, that of TILEOUT is DRAINING, and the group goes on. A check that fails is the fault that it names. R193: while the group's log
holds an acquire the copy waits to be issued.
A join of a FAULTED fill and HOP without a list are the model's readings (DEDUCED, log 40, log 39). -/
def Obligations.CopyIssue : Prop :=
  let past := fun (c : Ctx) (i : Instr) (t : State) => ∀ n ∈ c.lanes, ∀ l, c.g.lanes[n]? = some l → l.exited = false →
    c.laneIn t n = some ((({ l with wait := .none } : Lane).chained (readsLatch i c)).sided.past c)
  (∀ (i : Instr) (s : State) (c : Ctx), ((∃ x, i = .tilein x) ∨ (∃ x, i = .tileout x) ∨ ∃ x, i = .bcopy x) → ExecutesCalm s c i →
    c.g.acquiring = true → ∃ t, exec i s = .next t ∧ c.RetriesIn s t) ∧
  (∀ (x : OpTile) (s : State) (c : Ctx), ExecutesCalm s c (.tilein x) → c.g.acquiring = false →
    (∀ e, tileChecks c s x true = .error e → ∃ t, exec (.tilein x) s = .next t ∧ c.HaltsIn t e.kind e.detail) ∧
    ∀ y h, tileChecks c s x true = .ok y → c.t.handle x.h.val = some h → c.g.halts = [] → s.enginesRun c.core c.t = true →
      ∃ t g, exec (.tilein x) s = .next t ∧ c.groupIn t = some g ∧ g.wait = .copy y c.words ∧ Leaves c s t ∧ LeavesMemory s t ∧
        (h.state = .free → c.t.inq.length < 32 → y.bytes < 2 ^ 36 →
          ∃ t' u z, exec (.tileCopyEnqueue c.core c.gi) t = .next t' ∧ t'.team c.core = some u ∧ u.inq = c.t.inq ++ [.copy y] ∧
            u.handle x.h.val = some z ∧ z.state = .filling ∧ z.isSealed = true ∧ z.pending = y.bytes ∧ z.desc = some y.desc ∧
            past c (.tilein x) t')) ∧
  (∀ (x : OpTile) (s : State) (c : Ctx), ExecutesCalm s c (.tileout x) → c.g.acquiring = false →
    (∀ e, tileChecks c s x false = .error e → ∃ t, exec (.tileout x) s = .next t ∧ c.HaltsIn t e.kind e.detail) ∧
    ∀ y h, tileChecks c s x false = .ok y → c.t.handle x.h.val = some h → c.g.halts = [] → s.enginesRun c.core c.t = true →
      ∃ t g, exec (.tileout x) s = .next t ∧ c.groupIn t = some g ∧ g.wait = .copy y c.words ∧ Leaves c s t ∧ LeavesMemory s t ∧
        (h.state = .full → h.faulted = false → c.t.outq.length < 32 → outFault y (s.readHeader c.core h) = none →
          ∃ t' u z q, exec (.tileCopyEnqueue c.core c.gi) t = .next t' ∧ t'.team c.core = some u ∧ u.outq = c.t.outq ++ [.copy q] ∧
            q.no = y.no ∧ q.dst = y.dst ∧ u.handle x.h.val = some z ∧ z = { h with state := .draining } ∧ past c (.tileout x) t')) ∧
  (∀ (x : OpBCopy) (s : State) (c : Ctx), ExecutesCalm s c (.bcopy x) → c.g.acquiring = false →
    (∀ e, bulkChecks c s x = .error e → ∃ t, exec (.bcopy x) s = .next t ∧ c.HaltsIn t e.kind e.detail) ∧
    ∀ y eng q h, bulkChecks c s x = .ok (y, eng, q) → c.t.handle y.h = some h → c.g.halts = [] → s.enginesRun c.core c.t = true →
      ∃ t g, exec (.bcopy x) s = .next t ∧ c.groupIn t = some g ∧ g.wait = .bulk y c.words eng q ∧ Leaves c s t ∧ LeavesMemory s t ∧
        (h.state = .free → ∀ es, (s.engine (dieOfCore c.core) eng).queues[q]? = some es → es.length < 16 → y.bytes < 2 ^ 36 →
          ∃ t' u z, exec (.bcopyEnqueue c.core c.gi) t = .next t' ∧ t'.team c.core = some u ∧
            (t'.engine (dieOfCore c.core) eng).queues[q]? = some (es ++ [.copy y]) ∧
            u.handle y.h = some z ∧ z.state = .filling ∧ z.isSealed = true ∧ z.pending = y.bytes ∧ past c (.bcopy x) t'))

/-! ## Tasks and futures (spec/14_cluster_instructions.md) -/

/-- R259, R260, R275: QPOP of a lane at a loaded queue. Where nobody waits an entry goes to the lane, its eight words from the
destination on, with p0 set, the task held and a checkpoint of the lane, and HEAD goes on; at an empty queue the lane waits in
the ring behind those that wait; at a closed one it goes on with p0 clear. A task that it held is given up, which counts LIVE of its queue
down, loaded or not, and closes that queue where it is AUTOCLOSE and LIVE reaches 0 (R261). R259: entries are assigned in ring order to the
waiting lanes, the earliest first. R259, R277: QSPAWN at a loaded queue where nobody waits. Where the queue is open and has room for every
offered entry, all are placed from TAIL on in lane order, with their HOME and without their dependences, TAIL and LIVE rise by their
number, and p0 of the offering lanes is set; otherwise nothing is placed and p0 is clear. R261, R278: QCLOSE closes the queue. Every
waiting QPOP fails.
That a task given up counts at its own queue's header where that is not loaded, and that entries in a region's storage are free values, are
the model's readings (DEDUCED, log 86, log 72). -/
def Obligations.TaskQueues : Prop :=
  (∀ (x : OpQPop) (s : State) (c : Ctx) (n : Nat) (l : Lane) (r : QRec), Executes s c (.qpop x) n l → c.lanes = [n] → c.g.log = [] →
    NamesQueue s c x.vw r → (r.waiters = [] ∨ r.head = r.tail) →
    (l.task.hold = true → s.recordAt l.task.home = some r ∧ clusterAt l.task.home = clusterOfCore c.core) →
    let y := l.started (.qpop x) c
    let live := if l.task.hold then r.live - 1 else r.live
    let closes := l.task.hold = true ∧ r.auto = true ∧ live = 0
    let closed := r.closed = true ∨ closes
    let slot := 2 ^ 30 + r.vault * 2 ^ 22 + r.base + 64 + 32 * (r.head.toNat % r.cap)
    let entry := (List.range 8).map fun k => BitVec.ofNat 32 (s.num (slot + 4 * k) 4)
    ∃ t z q, exec (.qpop x) s = .next t ∧ c.laneIn t n = some z ∧ c.recordIn t r.no = some q ∧ q.live = live ∧ q.tail = r.tail ∧
      (q.closed = true ↔ closed) ∧
      (¬ closed → r.waiters = [] → r.head ≠ r.tail → s.poisoned slot 32 = false → s.strayAt slot = [] →
        (∀ k, k < 8 → z.reg (x.d + Fin.ofNat 64 k) = entry.getD k 0) ∧ z.p = y.p.set 0 true ∧
        z.task = ⟨true, (entry.getD 1 0).toNat % 2 ^ 8, r.at 0, entry, some ⟨y.pc, y.stack, y.spill⟩, false⟩ ∧
        z.pc = y.pc + BitVec.ofNat 32 c.words ∧ z.status = y.status ∧ z.wait = .none ∧ q.head = r.head + 1 ∧ q.waiters = []) ∧
      (¬ closed → r.head = r.tail → z.wait = .qpop r.no ∧ z.pc = y.pc ∧ z.v = y.v ∧ q.head = r.head ∧
        q.waiters = r.waiters ++ [⟨c.core, c.gi, n, x.d, c.words, x.vw.val⟩]) ∧
      (closed → z.p = y.p.set 0 false ∧ z.pc = y.pc + BitVec.ofNat 32 c.words ∧ z.v = y.v ∧ q.head = r.head)) ∧
  (∀ (x : OpQPop) (s : State) (c : Ctx) (n : Nat) (l : Lane) (r : QRec), Executes s c (.qpop x) n l → c.lanes = [n] → c.g.log = [] →
    NamesQueue s c x.vw r → l.task.hold = true →
    let home := l.task.home
    ∃ t z, exec (.qpop x) s = .next t ∧ c.laneIn t n = some z ∧
      (∀ r2, s.recordAt home = some r2 → s.qrec (clusterAt home) r2.no = some r2 → (clusterAt home ≠ clusterOfCore c.core ∨ r2.no ≠ r.no) →
        ∃ q, t.qrec (clusterAt home) r2.no = some q ∧ q.live = r2.live - 1 ∧
          q.closed = (r2.closed || (r2.auto && decide (r2.live = 1)))) ∧
      (s.recordAt home = none → s.Plain → home + 64 ≤ 2 ^ 40 → (∀ a, s.strayAt a = []) →
        let live := (s.num (home + 8) 4 + 2 ^ 32 - 1) % 2 ^ 32
        let bits := s.num (home + 0x12) 1
        t.num (home + 8) 4 = live ∧ t.num (home + 0x12) 1 = if live = 0 ∧ bits / 2 % 2 = 1 then bits / 2 * 2 + 1 else bits)) ∧
  (∀ (s : State) (cl : Nat) (r : QRec), s.qrec cl r.no = some r → r.closed = false → r.error = false →
    (r.waiters.map fun w => (w.core, w.group, w.lane)).Nodup → (∀ w ∈ r.waiters, (s.laneAt w.core w.group w.lane).isSome = true) →
    let m := min r.queued r.waiters.length
    let slot := fun k => r.slotAt (r.head + BitVec.ofNat 32 k)
    (∀ k, k < m → s.poisoned (slot k) 32 = false ∧ s.strayAt (slot k) = []) →
    let t := s.assign cl r.no
    (∃ q, t.qrec cl r.no = some q ∧ q.head = r.head + BitVec.ofNat 32 m ∧ q.tail = r.tail ∧ q.waiters = r.waiters.drop m) ∧
    ∀ (k : Nat) (w : Waiter) (l : Lane), k < m → r.waiters[k]? = some w → s.laneAt w.core w.group w.lane = some l →
      ∃ z, t.laneAt w.core w.group w.lane = some z ∧ z.p = l.p.set 0 true ∧ z.pc = l.pc + BitVec.ofNat 32 w.words ∧ z.wait = .none ∧
        z.task.hold = true ∧ z.task.home = r.at 0 ∧ z.task.entry = s.entryAt (slot k) ∧
        ∀ j, j < 8 → z.reg (w.d + Fin.ofNat 64 j) = (s.entryAt (slot k)).getD j 0) ∧
  (∀ (x : OpQSpawn) (s : State) (c : Ctx) (r : QRec), ExecutesCalm s c (.qspawn x) → c.g.log = [] → NamesQueue s c x.vw r →
    r.waiters = [] → s.mem.wf = true → s.cutDies = [] → r.at 0 + 64 + 32 * r.cap ≤ 2 ^ 40 → r.no < 64 →
    (∀ j, j < 64 → s.strayAt (r.slotAt (r.tail + BitVec.ofNat 32 j)) = []) →
    let offers := c.lanes.filter fun n => match x.sel with
      | none => true
      | some p => (c.g.lane n).p[p.val]
    let fits := r.closed = false ∧ offers.length + r.queued + r.parked ≤ r.cap
    let k := BitVec.ofNat 32 offers.length
    ∃ t q, exec (.qspawn x) s = .next t ∧ c.recordIn t r.no = some q ∧ q.head = r.head ∧ q.closed = r.closed ∧
      q.tail = (if fits then r.tail + k else r.tail) ∧ q.live = (if fits then r.live + k else r.live) ∧
      (fits → ∀ j n, offers[j]? = some n →
        let e := (List.range 8).map fun i => (c.g.lane n).reg (x.d + Fin.ofNat 64 i)
        let slot := r.at 0 + 64 + 32 * ((r.tail + BitVec.ofNat 32 j).toNat % r.cap)
        t.num slot 4 = (e.getD 0 0).toNat % 2 ^ 24 ∧
        t.num (slot + 4) 4 = (e.getD 1 0).toNat / 2 ^ 8 % 2 ^ 2 * 2 ^ 8 + r.no ∧
        ∀ i, 2 ≤ i → i < 8 → t.num (slot + 4 * i) 4 = (e.getD i 0).toNat) ∧
      (¬ fits → LeavesMemory s t) ∧ Leaves c s t ∧
      ∀ n ∈ c.lanes, ∀ l, c.g.lanes[n]? = some l →
        let y := ({ l with wait := .none } : Lane).chained (readsLatch (.qspawn x) c)
        c.laneIn t n = some (if n ∈ offers then (if fits then ({ y with p := y.p.set 0 true } : Lane).sided.past c
          else ({ y with p := y.p.set 0 false } : Lane).past c) else y.past c)) ∧
  ((∀ (x : OpQView) (s : State) (c : Ctx) (r : QRec), ExecutesCalm s c (.qclose x) → c.g.log = [] → NamesQueue s c x.vw r →
    ∃ t q, exec (.qclose x) s = .next t ∧ c.recordIn t r.no = some q ∧ q.closed = true ∧ q.waiters = [] ∧ q.head = r.head ∧
      q.tail = r.tail ∧ q.live = r.live ∧ LeavesMemory s t ∧
      (r.waiters = [] → Leaves c s t ∧ ∀ n ∈ c.lanes, ∀ l, c.g.lanes[n]? = some l →
        c.laneIn t n = some ((({ l with wait := .none } : Lane).chained (readsLatch (.qclose x) c)).sided.past c))) ∧
  (∀ (s : State) (cl : Nat) (r : QRec) (w : Waiter) (l : Lane), s.qrec cl r.no = some r → w ∈ r.waiters →
    (r.waiters.map fun w => (w.core, w.group, w.lane)).Nodup → s.laneAt w.core w.group w.lane = some l →
    (s.closeQueue cl r.no).laneAt w.core w.group w.lane
      = some { l with p := l.p.set 0 false, pc := l.pc + BitVec.ofNat 32 w.words, wait := .none }))

/-- R262, R272, R280 to R282: FREAD and FFILL at a cell of the cluster. FREAD of a full cell delivers its value; of an empty one a
lane without a task waits, a lane whose task has had a side effect faults with kind 0x12, and another parks its task on the cell and
stands again at its checkpoint. FFILL fills an empty cell once, and the lanes that wait in FREAD for it receive the value; a full
cell faults with kind 0x13, and a cell in another state with 0x11. R263, R282: a fill takes one dependence from each parked task of the
cell, its 8-bit count; one that has none left goes to TAIL of its queue, and its park slot is free.
That a cell in a region's storage gives free values is the model's reading (DEDUCED, log 72). -/
def Obligations.Futures : Prop :=
  (∀ (x : OpFut) (s : State) (c : Ctx) (n : Nat) (l : Lane) (a : Nat), c.lanes = [n] → c.g.log = [] → l.inside = none →
    let vw := x.vw.val
    let value := s.num a 8
    let st := s.num (a + 8) 4 / 2 ^ 30
    let waiting := s.num (a + 8) 4 % 2 ^ 16
    let record := s.num (a + 8) 4 / 2 ^ 24 % 2 ^ 6
    s.firewall c.t.part a = true → s.strayAt a = [] →
    (Executes s c (.fread x) n l → s.cellAt c vw .load (l.reg x.d) = .ok a →
      let y := l.started (.fread x) c
      ∃ t z, exec (.fread x) s = .next t ∧ c.laneIn t n = some z ∧
        (st = 1 → z = ({ y with v := (y.v.set x.d.val (BitVec.ofNat 32 value)).set (x.d + 1).val (BitVec.ofNat 32 (value / 2 ^ 32)) } : Lane).past c) ∧
        (2 ≤ st → c.HaltsIn t 0x11 vw) ∧
        (st = 0 → l.task.hold = false → z = { y with wait := .fread a c.words x.d, latches := [], chain := 0 }) ∧
        (st = 0 → l.task.hold = true → l.task.side = true → c.HaltsIn t 0x12 vw) ∧
        (st = 0 → l.task.hold = true → l.task.side = false → waiting = 0 →
          ∀ r k, s.qrec (clusterOfCore c.core) (entryHome l.task.entry) = some r → r.pfree ≠ 0 → entryDep l.task.entry < 255 →
            r.error = false → s.poisoned (r.parkAt (r.pfree - 1)) 32 = false → l.task.check = some k →
            z.pc = k.pc ∧ z.stack = k.stack ∧ z.spill = k.spill ∧ z.task.hold = false ∧ z.latches = [] ∧
            ∃ q, c.recordIn t r.no = some q ∧ q.parked = r.parked + 1)) ∧
    (Executes s c (.ffill x) n l → c.Calm → s.cellAt c vw .store (l.reg (x.d + 2)) = .ok a → s.mem.wf = true → s.cutDies = [] → a + 16 ≤ 2 ^ 40 →
      let y := l.started (.ffill x) c
      let new := (l.reg x.d).toNat + 2 ^ 32 * (l.reg (x.d + 1)).toNat
      ∃ t, exec (.ffill x) s = .next t ∧
        (2 ≤ st → c.HaltsIn t 0x11 vw) ∧
        (st = 1 → (waiting = 0 ∨ s.qrec (clusterOfCore c.core) record ≠ none) → c.HaltsIn t 0x13 vw) ∧
        (st = 0 → waiting = 0 → (∀ r, s.qrec (clusterOfCore c.core) record = some r → r.users ≠ [] ∧ (r.waiters = [] ∨ r.head = r.tail)) →
          c.laneIn t n = some (y.sided.past c) ∧ t.num a 8 = new ∧ t.num (a + 8) 4 / 2 ^ 30 = 1 ∧ t.num (a + 8) 4 % 2 ^ 16 = 0 ∧
          (∀ z, (z < a ∨ a + 16 ≤ z) → t.mem.get z = s.mem.get z) ∧
          ∀ core gi m w words (d : Fin 64), core ≠ c.core → s.laneAt core gi m = some w → w.wait = .fread a words d → w.inside = none →
            t.laneAt core gi m = some { w with
              v := (w.v.set d.val (BitVec.ofNat 32 new)).set (d + 1).val (BitVec.ofNat 32 (new / 2 ^ 32))
              pc := w.pc + BitVec.ofNat 32 words, wait := .none }) ∧
        ∀ r j, st = 0 → waiting = 1 → s.qrec (clusterOfCore c.core) record = some r → s.num (a + 0xC) 4 = j + 1 → r.no = record →
          r.error = false → r.users ≠ [] → r.waiters = [] → r.cap ≠ 0 → j < r.parkn → r.at (64 + 32 * (r.cap + r.parkn)) ≤ 2 ^ 40 →
          (a + 16 ≤ r.at 0 ∨ r.at (64 + 32 * (r.cap + r.parkn)) ≤ a) → s.poisoned (r.parkAt j) 32 = false →
          s.strayAt (r.parkAt j) = [] → s.strayAt (r.slotAt r.tail) = [] →
          let e := fun k => s.num (r.parkAt j + 4 * k) 4
          let dep := e 0 / 2 ^ 24
          let slot := r.slotAt r.tail
          ∃ q, c.recordIn t r.no = some q ∧ c.laneIn t n = some (y.sided.past c) ∧ t.num a 8 = new ∧ t.num (a + 8) 4 / 2 ^ 30 = 1 ∧
            q.head = r.head ∧ q.live = r.live ∧
            (dep = 1 → q.tail = r.tail + 1 ∧ q.parked = r.parked - 1 ∧ q.pfree = j + 1 ∧ t.num slot 4 = e 0 % 2 ^ 24 ∧
              t.num (slot + 4) 4 = e 1 % 2 ^ 11 + 2 ^ 11 + e 1 / 2 ^ 12 % 2 ^ 4 * 2 ^ 12 ∧
              (∀ k, 2 ≤ k → k < 8 → t.num (slot + 4 * k) 4 = e k) ∧ t.num (r.parkAt j + 6) 2 = r.pfree % 2 ^ 16) ∧
            (dep ≠ 1 → q.tail = r.tail ∧ q.parked = r.parked ∧ q.pfree = r.pfree ∧
              t.num (r.parkAt j) 4 = e 0 % 2 ^ 24 + (dep + 2 ^ 8 - 1) % 2 ^ 8 * 2 ^ 24))) ∧
  (∀ (s : State) (cl no k n : Nat) (r : QRec), s.qrec cl no = some r →
    s.wake cl no (k + 1) (n + 1) = (s.wake cl no (k + 1) 1).wake cl no
      (entryLink ((s.strayBytes (r.parkAt k) 32).entryAt (r.parkAt k))) n ∧
    s.wake cl no 0 n = s ∧ s.wake cl no k 0 = s)

/-! ## What comes about on a core without an instruction (spec/04, 05, 08, 13, 16) -/

/-- R93, R131, R134, R171, R189, R255, R269: the broadcast PC goes to the place at which most held lanes wait, the lowest of such, once
lanes have waited at one place for 256 issues; the lanes at an RVZ whose
bound expires go on; a YIELD and a run end; a watchdog at zero halts every group of its team, which is not pre-empted, with one WATCHDOG
record (kind 0x0E); a cell on which every member has arrived with nothing pending flips its phase, and the groups that wait at it go on;
a frozen cell does not.
That R93's 256 issues are counted for each place is the model's choice (DESIGN CHOICE, log 4), and that a group which has halted halts
again at its watchdog, behind the first halt, is too (DESIGN CHOICE, log 24); that the record's STAGE, GROUP, PC and LANES are 0 is its
reading (DEDUCED, log 82). -/
def Obligations.BoundsAndBarrierEpisodes : Prop :=
  (∀ (s : State) (core gi : Nat) (g : Group), s.group core gi = some g → g.rvz = none → (∃ x ∈ g.heldFor, 256 ≤ x.2) →
    (∃ l ∈ g.lanes, l.exited = false ∧ l.wait = .held) →
    let count := fun p : Place => g.lanes.countP fun l => !l.exited && l.wait == .held && l.place == p
    ∃ t x, exec (.broadcastPcTimeout core gi) s = .next t ∧ t.group core gi = some x ∧ x.lanes = g.lanes ∧ x.heldFor = g.heldFor ∧
      (∃ l ∈ g.lanes, l.exited = false ∧ l.wait = .held ∧ l.place = x.place) ∧
      ∀ p, count p ≤ count x.place ∧ (count p = count x.place → x.place.pc.toNat ≤ p.pc.toNat)) ∧
  (∀ (s : State) (core gi : Nat) (g : Group), s.group core gi = some g → (∀ x ∈ g.heldFor, x.2 < 256) →
    exec (.broadcastPcTimeout core gi) s = .next s) ∧
  (∀ (g : Group) (p : Place), let held := g.lanes.any fun l => !l.exited && l.wait == .held && l.place == p
    (held = true → ∀ k, (∀ x ∈ g.heldFor, x.1 = p → x.2 = k) → (p, if g.heldFor.any (·.1 == p) then k + 1 else 1) ∈ g.countHeld) ∧
    (held = false → ∀ x ∈ g.countHeld, x.1 ≠ p)) ∧
  (∀ (s : State) (core gi : Nat) (g : Group) (r : Rvz), s.group core gi = some g → g.rvz = some r → g.halts = [] →
    g.atNoBarrier = true →
    ∃ t x, exec (.rvzBoundExpire core gi) s = .next t ∧ t.group core gi = some x ∧ x.rvz = none ∧
      ∀ (n : Nat) (l : Lane), g.lanes[n]? = some l → l.exited = false → l.place = r.place →
        ∃ z, t.laneAt core gi n = some z ∧ z.pc = l.pc + BitVec.ofNat 32 r.words ∧ z.latches = [] ∧ z.v = l.v) ∧
  (∀ (s : State) (core gi : Nat) (g : Group) (gs : List Nat), s.group core gi = some g → g.wait = .yielded gs →
    ∃ t, exec (.yieldExpire core gi) s = .next t ∧ t.group core gi = some { g with wait := .none }) ∧
  (∀ (s : State) (core gi : Nat) (g : Group), s.group core gi = some g → g.run ≠ 0 →
    ∃ t, exec (.hschRunEnd core gi) s = .next t ∧ t.group core gi = some { g with run := 0 }) ∧
  (∀ (s : State) (core : Nat) (u : Team), s.team core = some u →
    ((u.watchdog ≠ 0 ∨ recWdog (s.recordOf u) = 0 ∨ u.stopped = true) → exec (.watchdogExpire core) s = .next s) ∧
    (u.phase = .runs → u.stopped = false → recWdog (s.recordOf u) ≠ 0 → u.watchdog = 0 → (∃ g ∈ u.groups, g.ended = false ∧ g.dogged = false) →
      ∃ t, exec (.watchdogExpire core) s = .next t ∧ ∀ (gi : Nat) (g : Group), u.groups[gi]? = some g →
        ∃ z, t.group core gi = some z ∧ z.lanes = g.lanes ∧ ((g.ended = true ∨ g.dogged = true) → z.halts = g.halts) ∧
          (g.ended = false → g.dogged = false → ∃ h, z.halts = g.halts ++ [h] ∧ h.dog = true ∧ h.after = false ∧
            h.record = { Record.ofKind 0x0E with
              stamp := s.nextStamp, core := core, part := u.part, seq := u.seq, teamNo := teamWord (s.recordOf u) u.number }))) ∧
  (∀ (s : State) (core : Nat) (cell : Fin 8) (u : Team) (x : CrewCells) (b : BarCell), s.team core = some u →
    s.crewOf core u = some x → x.cells[cell.val]? = some b →
    ((b.arrived ≠ b.expect ∨ b.pending ≠ 0 ∨ b.frozen = true) → exec (.barrierEpisodeComplete core cell) s = .next s) ∧
    (b.arrived ≠ 0 → b.arrived = b.expect → b.pending = 0 → b.frozen = false → u.barcIn = some cell.val →
      ∃ t y b', exec (.barrierEpisodeComplete core cell) s = .next t ∧ t.crewOf core u = some y ∧ y.cells[cell.val]? = some b' ∧
        b'.phase = !b.phase ∧
        ∀ (gi : Nat) (g : Group) (w : Nat), u.groups[gi]? = some g → g.wait = .barc cell.val w →
          ∃ z, t.group core gi = some z ∧ z.wait = .none ∧ ∀ (n : Nat) (l : Lane), g.lanes[n]? = some l → l.exited = false →
            ∃ k, z.lanes[n]? = some k ∧ k.pc = l.pc + BitVec.ofNat 32 w))

/-- R293, R300, R304, R305, R344: a line of code whose address translates, and whose memory serves, is held by the code unit and its waiting lanes go on; one whose
address does not posts a TRANSLATE record (kind 0x0D) with bit 30 of DETAIL. The fill of a slot whose home is DRAM leaves the
granule in the data area and the slot CLEAN with its mask clear and its translation kept (R203). R293, R297, R310: the write-back of a dirty slot whose home is
DRAM that may begin its traffic: each byte whose mask bit is set stands at its home, the home's other bytes are as they were,
the mask is clear and the slot CLEAN.
The view number of a code fetch's record, and that poisoned code is fetched as it stands, are the model's readings (DEDUCED, log 31,
log 32). -/
def Obligations.CodeAndSlotFills : Prop :=
  ((∀ (s : State) (core line : Nat) (u : Team) (p : Part), s.team core = some u → s.part u.part = some p →
    s.awaits u.part (.code core line) = false → s.cutDies = [] → (s.core core).frozen = false → p.halted = false →
    (∀ a r1 r2 sl, translate s p false (64 * line) 1 = .ok a r1 r2 sl → isDram a = true →
      (s.phase = .slot ∨ s.phase = .starting ∨ s.channelReady a = false) → exec (.codeFetchFill core line) s = .next s) ∧
    (∀ a r1 r2 sl, translate s p false (64 * line) 1 = .ok a r1 r2 sl →
      (isDram a = true → s.phase ≠ .slot ∧ s.phase ≠ .starting ∧ s.channelReady a = true) →
      ∃ t, exec (.codeFetchFill core line) s = .next t ∧ t.mem = s.mem ∧
        (t.core core).fetch = ⟨line, (List.range 16).map fun k => BitVec.ofNat 32 (s.num (a + 4 * k) 4)⟩
          :: (s.core core).fetch.filter (fun x => x.line ≠ line) ∧
        ∀ gi n l, s.laneAt core gi n = some l →
          t.laneAt core gi n = some (if l.wait = .code line then { l with wait := .none } else l)) ∧
    (∀ c g, translate s p false (64 * line) 1 = .bad c g → c ≠ wallCause → c ≠ waitCause →
      ∃ t q w, exec (.codeFetchFill core line) s = .next t ∧ t.part u.part = some q ∧ w ∈ q.xwaits ∧ w.agent = .code core line ∧
        w.record.kind = 0x0D ∧ w.record.extra = BitVec.ofNat 64 (64 * line) ∧
        w.record.detail = BitVec.ofNat 32 (c + 512 * g + 2 ^ 30))) ∧
  (∀ (s : State) (core id k g a r1 r2 : Nat) (sl : Bool) (u : Team) (r : Region), s.team core = some u → u.Busy →
    (∀ x ∈ u.groups, x.log = []) → s.mapRuns core u = true → s.region core id = some r → (r.slot k).filling = some g →
    s.awaits u.part (.fill core id k) = false → s.asked (.fill core id k) = false → s.Plain →
    s.regionHome u.part r (4096 * g) 1 = .ok a r1 r2 sl → isDram a = true → s.mayBeginAll a 4096 = true →
    r.maskAt core + 512 * r.slots.length ≤ 2 ^ 40 →
    let data := r.dataAt core + 4096 * k
    let mask := r.maskAt core + 512 * k
    ∃ t v, exec (.mappedFillComplete core id k) s = .next t ∧ t.region core id = some v ∧ v.slot k = ⟨.clean, g, none, some (a, r1, r2)⟩ ∧
      (∀ i, i < 4096 → t.mem.get (data + i) = s.mem.get (a + i)) ∧ (∀ i, i < 512 → t.mem.get (mask + i) = 0) ∧
      ∀ z, (z < data ∨ data + 4096 ≤ z) → (z < mask ∨ mask + 512 ≤ z) → t.mem.get z = s.mem.get z) ∧
  (∀ (s : State) (core id k : Nat) (u : Team) (r : Region), s.team core = some u → u.Busy → s.region core id = some r →
    s.mapRuns core u = true → k < r.slots.length →
    ((r.slot k).state ≠ .dirty → exec (.mappedWriteBack core id k) s = .next s) ∧
    ((r.slot k).state = .dirty → (s.writeBack core r k none 0 0).2 = true →
      ∃ t v, exec (.mappedWriteBack core id k) s = .next t ∧ t.mem = (s.writeBack core r k none 0 0).1.mem ∧
        t.region core id = some v ∧ (v.slot k).state = .clean))) ∧
  (∀ (s : State) (core k page a r1 r2 : Nat) (sl : Bool) (t : Team) (r : Region) (grp : Option Nat) (pc : Word) (lanes : BitVec 64),
    s.team core = some t → s.region core r.id = some r → k ∉ r.strays → (r.slot k).state = .dirty → (r.slot k).page = page → (s.core core).frozen = false → s.wbAwaits t.part core r.id k = false →
    s.regionHome t.part r (4096 * page) 2 = .ok a r1 r2 sl → isDram a = true → isDram (a + 4095) = true → s.mayBeginAll a 4096 = true →
    s.mem.wf = true → s.cutDies = [] → r.maskAt core + 512 * r.slots.length ≤ 2 ^ 40 →
    let data := r.dataAt core + 4096 * k
    let t' := (s.writeBack core r k grp pc lanes).1
    (s.writeBack core r k grp pc lanes).2 = true ∧
    (∀ i, i < 4096 → t'.mem.get (a + i) = if (s.slotMask core r k).getD i false then s.mem.get (data + i) else s.mem.get (a + i)) ∧
    (∀ z, (z < a ∨ a + 4096 ≤ z) → (z < r.maskAt core + 512 * k ∨ r.maskAt core + 512 * k + 512 ≤ z) → t'.mem.get z = s.mem.get z) ∧
    t'.maskAny core r k = false ∧
    ∃ u, t'.region core r.id = some u ∧ u.slot k = { r.slot k with state := .clean })

/-- R240 to R243, R306, R308, R373: a granule of the copy at the head of an in-queue, an out-queue or a bulk queue moves. PENDING
falls by its bytes, or the handle of a TILEOUT is FREE after the last; SATCNT counts the saturations up to its largest value; the
fill is FULL when nothing is pending and it is sealed with its arrivals; after the last granule the copy leaves its queue. A granule
that goes to a peer is performed once it is acknowledged. A released follow-on enters the matrix queue; the hop of a chain leaves its
bytes and one arrival at its core. An engine serves its queues in turn.
That a queue whose head cannot move is passed over, and that a granule in flight is finished first, are the model's readings (DEDUCED,
log 83), as is the granule as one move (DEDUCED, log 26). -/
def Obligations.TileAndBulkMoves : Prop :=
  let counts := fun (z h : Handle) (l : Landed) => z.satcnt = min (2 ^ 20 - 1) (h.satcnt + l.sats)
  let rest := fun (c : Copy) (cs : List CopyEntry) =>
    if c.moved + 1 = c.pieces then cs else .copy { c with moved := c.moved + 1, got := [], sent := false } :: cs
  (∀ (s : State) (core : Nat) (u : Team) (c : Copy) (h : Handle) (l : Landed) (cs : List CopyEntry), Moves s core u c h l →
    u.inq = .copy c :: cs → c.moved < c.pieces → c.sent = false → c.hops = [] → c.tile = [] → c.spoilt = [] → s.hopAt core = none → u.holdsFollow false = false →
    let left := h.pending - c.pieceBytes c.moved
    ∃ t v z, exec (.tileGranuleLand core) s = .next t ∧ t.team core = some v ∧ v.handle c.h = some z ∧ v.inq = rest c cs ∧
      z.pending = left ∧ counts z h l ∧
      z.state = (if h.state = .filling ∧ h.isSealed = true ∧ left = 0 ∧ h.arrived = h.expect then .full else h.state)) ∧
  (∀ (s : State) (core : Nat) (u : Team) (c : Copy) (h : Handle) (l : Landed) (cs : List CopyEntry), Moves s core u c h l →
    u.outq = .copy c :: cs → c.follow = none → u.stopped = false →
    (c.sent = false → u.holdsFollow true = false →
      ∃ t v z, exec (.tileoutGranule core) s = .next t ∧ t.team core = some v ∧ v.handle c.h = some z ∧
        v.outq = (if l.state.copyOut c then .copy { c with sent := true } :: cs else rest c cs) ∧
        counts z h l ∧ (c.moved + 1 = c.pieces → z.state = .free ∧ z.phase = !h.phase) ∧
        (c.moved + 1 ≠ c.pieces → z.state = h.state ∧ z.phase = h.phase)) ∧
    (c.sent = true → (s.copyOut c = true → exec (.tileoutGranule core) s = .next s) ∧ (s.copyOut c = false →
      ∃ t v, exec (.tileoutGranule core) s = .next t ∧ t.team core = some v ∧ v.outq = rest c cs ∧ v.handle c.h = some h))) ∧
  (∀ (s : State) (die : Nat) (e q : Fin 8) (core : Nat) (u : Team) (c : Copy) (h : Handle) (l : Landed) (cs : List CopyEntry),
    Moves s core u c h l → (s.engine die e.val).queues[q.val]? = some (.copy c :: cs) → s.ownsCopy c = true →
    (∀ d, CopyEntry.copy d ∈ cs → d.core ≠ c.core ∨ d.no ≠ c.no) →
    (s.bulkTurn (s.engine die e.val) = some q.val →
      let left := h.pending - c.pieceBytes c.moved
      ∃ t v z, exec (.bulkGranule die e q) s = .next t ∧ t.team core = some v ∧ v.handle c.h = some z ∧
        (c.sent = false → counts z h l) ∧ (c.sent = true → z.satcnt = h.satcnt) ∧
        (c.sent = false → l.state.copyOut c = true → z.pending = h.pending ∧
          (t.engine die e.val).queues[q.val]? = some (.copy { c with sent := true } :: cs)) ∧
        ((c.sent = true ∨ l.state.copyOut c = false) → (t.engine die e.val).queues[q.val]? = some (rest c cs) ∧
          (t.engine die e.val).turn = q.val ∧ (t.engine die e.val).flight = none ∧ z.pending = left)) ∧
    (s.bulkTurn (s.engine die e.val) ≠ some q.val → exec (.bulkGranule die e q) s = .next s)) ∧
  (∀ (s : State) (x : Engine) (q : Nat), s.bulkTurn x = some q → x.frozen = false → x.turn < 8 →
    s.bulkCan x q = true ∧ (∀ p, s.flightOf x = some p → p = q) ∧
    (s.flightOf x = none → ∀ k, k < (q + 7 - x.turn) % 8 → s.bulkCan x ((x.turn + 1 + k) % 8) = false)) ∧
  (∀ (s : State) (core : Nat) (u : Team) (f : Follow) (fs : List Follow), s.team core = some u → u.follows = f :: fs → f.h = none →
    u.mq.length < 16 →
    ∃ t v, exec (.followOnRelease core) s = .next t ∧ t.team core = some v ∧ v.mq = u.mq ++ [f.entry] ∧ v.follows = fs) ∧
  (∀ (s : State) (core off : Nat) (bs : List Byte) (c : Copy) (u w : Team) (h : Handle), s.hopAt core = some c → c.hop = true →
    c.tile = [(off, bs)] → 64 ≤ off → s.team c.core = some w → s.enginesRun c.core w = true → w.Busy → s.team core = some u →
    u.part = c.part → u.seq = c.seq → s.coreOf c.part c.seq u.number = some core → s.enginesRun core u = true →
    u.handle c.h = some h → h.state = .filling → h.arrived < h.expect → s.Plain →
    h.at core off + bs.length ≤ 2 ^ 40 →
    ∃ t v z, exec (.mcastHopArrival core) s = .next t ∧ t.team core = some v ∧ v.handle c.h = some z ∧ z.arrived = h.arrived + 1 ∧
      z.desc = some c.desc ∧ t.read (h.at core off) bs.length = bs)

/-! ## The calendar, the integrity unit and power (spec/17_package.md R336 to R348) -/

/-- R189, R310, R315, R343 to R345, R347, R348, R350, R375: frame start, guard, slot start, extension and slot end move package time and
the calendar's phase as the calendar says; a frame start counts the watchdog of every running team down that is not pre-empted, and sends
TIME (0x21) on every port that is up; a slot that starts notes the empty sheaves and freezes the engines that still hold DRAM traffic, their
granule in flight; events of one cycle happen in the order of their source numbers; what waited for a slot's end is served at it; the
verdict of the self-test of a unit reported before the slot is posted.
The extension's limit is the model's reading (DEDUCED, log 51), as are what is of one cycle and which granules can be caught (DEDUCED,
log 80, log 83); which engines are caught is free (DESIGN CHOICE, log 7). -/
def Obligations.SlotCalendar : Prop :=
  let frame := fun s : State => s.time.toNat / 32768
  let empties := fun (s : State) => ∀ c ∈ s.cores, c.team = none
  (∀ s : State, s.phase = .guard → ∃ t, exec .frameStart s = .next t ∧ t.phase = .starting ∧ t.mem = s.mem ∧
    t.time = BitVec.ofNat 56 (32768 * (frame s + 1)) ∧
    t.outbox = s.upPorts.foldl (fun o p => o ++ [(⟨1, 0x21, p, flitBytes none 0 0 0 (Config.credits p o.length)
      ⟨0x21, false, false, 0, bytesOf 8 t.time.toNat⟩⟩ : Message)]) s.outbox ∧
    ∀ core u, s.team core = some u → ∃ v, t.team core = some v ∧ v.groups = u.groups ∧
      (u.phase = .runs → u.stopped = false → v.watchdog = u.watchdog - 1) ∧
      (u.phase = .finished ∨ u.stopped = true → v.watchdog = u.watchdog)) ∧
  (∀ s : State, s.phase = .running → ∃ t, exec .slotGuardOpen s = .next t ∧ t.phase = .guard ∧ t.mem = s.mem ∧ t.cores = s.cores ∧
    t.time = BitVec.ofNat 56 (max (32768 * frame s + 30720) s.time.toNat)) ∧
  (∀ s : State, s.phase = .starting → ∃ t, exec .slotStart s = .next t ∧ t.phase = .slot ∧ t.time = s.time ∧ t.cores = s.cores ∧
    t.slotLen = (if frame s % 32 = 0 then 6144 else 1536) ∧
    (∀ q, q < 96 → (t.slotEmpty.getLsbD q = true ↔ ∀ c ∈ s.cores, c.id / 16 = q → c.team = none)) ∧
    ((s.engines.map fun e => (e.die, e.id)).Nodup → ∀ e ∈ s.engines, e.frozen = false → ∀ q, s.caught e (frame s) = some q →
      (t.engine e.die e.id).frozen = true ∧ (t.engine e.die e.id).flight = some q ∧ (t.engine e.die e.id).queues = e.queues) ∧
    ((∀ e ∈ s.engines, e.frozen = false → s.caught e (frame s) = none) → t.engines = s.engines ∧ t.mem = s.mem) ∧
    ((∀ e ∈ s.engines, e.die < 4 ∧ e.id < 8) → (∀ p ∈ s.parts, p.engines = 0) → ∃ rs : List Record, t.mgmt = s.mgmt ++ rs ∧
      rs.length = s.engines.countP (fun e => !e.frozen && (s.caught e (frame s)).isSome) ∧ (∀ r ∈ rs, r.kind = 0x25) ∧
      (rs.map fun r => r.detail.toNat).Pairwise (· ≤ ·)) ∧
    (∀ (n : Nat) (p : Port), frame s % 32 = 0 → s.ports[n]? = some p → p.up = true → t.ports[n]? = some { p with lanes := 8 })) ∧
  ((∀ (s : State) (a b : Source) (f g : State → State), s.together [(a, f), (b, g)] = if b.no < a.no then f (g s) else g (f s)) ∧
    Source.manager.no = 0 ∧ Source.dispatcher.no = 1 ∧ Source.calendar.no = 2 ∧ Source.integrity.no = 3 ∧ Source.hostPort.no = 4 ∧
    ∀ k, (Source.port k).no = 5 + k ∧ (Source.dieErrors k).no = 17 + k ∧
      ∀ j, (Source.cluster (6 * k + j)).no = 32 + 6 * k + j ∧ (Source.engine k j).no = 56 + 8 * k + j) ∧
  (∀ (s : State) (k : Nat), s.phase = .slot → k ≠ 0 → s.slotLen + 64 * k ≤ 30720 → ∃ t, exec (.slotExtended k) s = .next t ∧
    t.phase = .slot ∧ t.time = s.time ∧ t.cores = s.cores ∧ t.slotLen = s.slotLen + 64 * k ∧
    ∀ n p, s.part n = some p → p.hasRoom → (s.parts.map (·.id)).Nodup → ∃ q, t.part n = some q ∧ q.fqprod = p.fqprod + 1) ∧
  (∀ s : State, s.phase = .slot → let s1 := ({ s.until_ (32768 * frame s + s.slotLen) with phase := .running, deferred := [] } : State)
    ∃ t, exec .slotEnd s = .next t ∧ t.phase = .running ∧ t.time = BitVec.ofNat 56 (max (32768 * frame s + s.slotLen) s.time.toNat) ∧
      (empties s → t.cores = s.cores ∧ (s.deferred = [] → t.mem = s.mem ∧ t.deferred = []) ∧
        ∀ d, s.deferred = [d] → t.mem = (s1.serve d).mem ∧ t.outbox = (s1.serve d).outbox ∧ t.deferred = (s1.serve d).deferred)) ∧
  (∀ (s : State) (die : Nat) (v : Verdict), s.phase = .slot → frame s % 32 = 0 →
    let due := fun x : Nat × Option Nat × Record => x.1 == die && decide (0 < (BitVec.ofNat 64 (32768 * frame s * 256) - x.2.2.stamp).toInt)
    (s.testing.any due = false → exec (.selfTestVerdict die v) s = .next s) ∧
    ∀ r, s.testing.find? due = some (die, none, r) →
      ∃ t, exec (.selfTestVerdict die v) s = .next t ∧ (∀ x ∈ t.testing, x.2.2.stamp ≠ r.stamp) ∧ t.cores = s.cores ∧ t.mem = s.mem ∧
        t.mgmt = s.mgmt ++ [{ Record.ofKind 0x1A with
          stamp := s.nextStamp
          detail := (match v with
            | .transient => 1
            | .lasting => 2
            | .noSpare => 3)
          extra := r.extra }])

/-- R334, R336 to R338, R340 to R343: the sweep's visit of a line folds its content under the old epoch into SW and under the
new one into W, or freezes the partition where the line's tag is wrong or an accumulator has met an uncorrectable error; at the end of a period W must be SW + RM, and a mismatch
freezes it. A pool is changed within a slot for a sheaf that was empty at its start. Every step charges every partition. The ballast fades from the level L in 64 windows after an issue that fell below half; budgets, pools and energy latches
take their values.
A second drop during a fade is the model's reading (DEDUCED, log 50); the amounts charged are free (DESIGN CHOICE, log 7). -/
def Obligations.IntegrityAndPower : Prop :=
  (∀ (s : State) (part : Fin 96) (line : Nat) (p : Part) (x : Integrity), s.part part.val = some p → p.integ = some x →
    s.phase = .running → p.halted = false → line ∉ x.seen → (sealedOwner s.parts (64 * line)).map (·.id) = some part.val →
    let h := fun e => Config.kmac128 part.val x.key line e (s.read (64 * line) 64)
    ∃ t q, exec (.integritySweepVisit part line) s = .next t ∧ t.part part.val = some q ∧ t.mem = s.mem ∧ t.cores = s.cores ∧
      (x.broken = true ∨ x.tagOf line ≠ x.epoch → q.frozen = true ∧ q.integFail = true) ∧
      (x.broken = false → x.tagOf line = x.epoch → q.frozen = false ∧ ∃ y, q.integ = some y ∧ y.epoch = x.epoch ∧ y.tagOf line = x.epoch + 1 ∧
        line ∈ y.seen ∧ y.rm = x.rm ∧ y.sw[parity x.epoch] = x.sw[parity x.epoch] + h x.epoch ∧
        y.w[parity (x.epoch + 1)] = x.w[parity (x.epoch + 1)] + h (x.epoch + 1) ∧ y.w[parity x.epoch] = x.w[parity x.epoch])) ∧
  (∀ (s : State) (part : Fin 96) (p : Part) (x : Integrity), s.part part.val = some p → p.integ = some x → p.halted = false →
    x.seen.length = p.sealedCount → x.began + 1000000 * p.period ≤ s.time.toNat →
    let i := parity x.epoch
    ∃ t q, exec (.integrityPeriodEnd part) s = .next t ∧ t.part part.val = some q ∧ t.mem = s.mem ∧ t.cores = s.cores ∧
      (x.broken = true ∨ x.w[i] ≠ x.sw[i] + x.rm[i] → q.frozen = true ∧ q.integFail = true ∧ ∃ r ∈ t.mgmt, r.kind = 0x24) ∧
      (x.broken = false → x.w[i] = x.sw[i] + x.rm[i] → q.frozen = false ∧ ∃ y, q.integ = some y ∧ y.epoch = x.epoch + 1 ∧ y.seen = [] ∧
        y.began = s.time.toNat ∧ y.w[i] = 0 ∧ y.sw[i] = 0 ∧ y.rm[i] = 0)) ∧
  (∀ (s : State) (q : Fin 96) (n : Nat),
    let b := s.ballast[q]
    let next := if 2 * n < b.1 then (n, max b.1 (b.2.1 * (64 - b.2.2) / 64), 1) else (n, b.2.1, min 65 (b.2.2 + 1))
    ∃ t, exec (.ballastWindow q n) s = .next t ∧ t.mem = s.mem ∧ t.cores = s.cores ∧ t.ballast = s.ballast.set q next) ∧
  (∀ (s : State) (q : Fin 96) (b : Nat),
    exec (.thermalEvent q b) s = .next (if 4 ≤ b ∧ b ≤ s.budgets[q] then { s with budgets := s.budgets.set q b } else s) ∧
    exec (.readGrantBudget q b) s = .next (if 4 ≤ b ∧ b ≤ 16 then { s with budgets := s.budgets.set q b } else s)) ∧
  (∀ (s : State) (part q : Fin 96) (k : Fin 4) (p : Part), s.part part.val = some p →
    (s.phase = .slot → p.sheaves.getLsbD q.val = true → s.slotEmpty.getLsbD q.val = true →
      (∀ c ∈ s.cores, c.id / 16 = q.val → c.team = none) →
      ∃ t, exec (.poolWrite part q k) s = .next t ∧ t.part part.val = some { p with pool := p.pool.set q.val k }) ∧
    ((s.phase ≠ .slot ∨ p.sheaves.getLsbD q.val = false ∨ s.slotEmpty.getLsbD q.val = false ∨
      ∃ c ∈ s.cores, c.id / 16 = q.val ∧ c.team ≠ none) → exec (.poolWrite part q k) s = .next s)) ∧
  (∀ (s : State) (part : Fin 96) (p : Part), Arrives s part.val p →
    ∃ t, exec (.energyLoRead (.driver part)) s = .next t ∧
      t.part part.val = some { p with energyHi := BitVec.ofNat 32 (p.energy.toNat / 2 ^ 32) }) ∧
  (∀ (s : State) (n : Nat) (p : Part), s.part n = some p → ∃ q, s.charge.part n = some q ∧
    q = { p with energy := p.energy + BitVec.ofNat 64 (Config.energyCharge s.draws n) }) ∧
  (∀ s : State, exec (.energyLoRead .manager) s = .next { s with energyHi := BitVec.ofNat 32 (s.energy.toNat / 2 ^ 32) })

/-! ## Launches, pre-emption and the driver (spec/17_package.md R317 to R333; spec/08 R188, R190; spec/16 R303, R304) -/

/-- R317, R318, R320, R322 to R326, R328, R329: a commit in the slot of its sequence number, in turn and within 32 of the dispatcher's copy, is
accepted, and any other posts LAUNCH REJECTED; a record is copied and validated once the memory of its tables serves, its teams below START ended and triggered; a team is placed with its groups and handles new,
on a core whose scratchpad is zero if another partition had it; a granule of the scratchpad image lands; a team that has ended with
nothing left sets its END bit and frees its core.
Which windows take commits, another slot, and a pool without sheaves are the model's readings (DEDUCED, log 45, log
46, log 47). -/
def Obligations.Launches : Prop :=
  (∀ (s : State) (part : Fin 96) (slot : Fin 32) (r : LaunchBytes) (p : Part), Arrives s part.val p →
    let fine := p.frozen = false ∧ (p.tdisp = .run ∨ (p.tdisp = .unlocked ∧ p.isSealed = false)) ∧ slot.val = recSeq r % 32 ∧
      recSeq r = p.last.toNat + 1 ∧ recSeq r ≤ p.consumed.toNat + 32
    ∃ t q, exec (.launchCommit part slot r) s = .next t ∧ t.part part.val = some q ∧ t.cores = s.cores ∧
      (fine → t.mem = s.mem ∧ q = { p with
        last := BitVec.ofNat 64 (recSeq r), window := p.window ++ [r], lwin := modifyNth (fun _ => r) slot.val p.lwin }) ∧
      (¬ fine → q.last = p.last ∧ q.window = p.window ∧ (p.hasRoom → q.fqprod = p.fqprod + 1) ∧
        q.lwin = if ∃ x ∈ p.window, recSeq x % 32 = slot.val then p.lwin
          else modifyNth (fun x => BitVec.ofNat 1024 (r.toNat / 2 ^ 64 * 2 ^ 64 + x.toNat % 2 ^ 64)) slot.val p.lwin)) ∧
  (∀ (s : State) (part : Fin 96) (r : LaunchBytes) (rs : List LaunchBytes) (p : Part), s.part part.val = some p →
    p.window = r :: rs → p.halted = false → recSeq r ∉ p.kills →
    (s.tablesServe p r = false → exec (.recordCopy part) s = .next s) ∧ (s.tablesServe p r = true → ∃ t q, exec (.recordCopy part) s = .next t ∧ t.part part.val = some q ∧ t.cores = s.cores ∧ q.window = rs ∧
      q.consumed = BitVec.ofNat 64 (recSeq r) ∧ q.launches.map (·.record) = p.launches.map (·.record) ++ [r] ∧
      ∃ l, q.launches.getLast? = some l ∧ l.life = (if s.invalid p r (s.tables p r) = none then .active else .rejected) ∧
        (∀ n, (n ∈ l.trig ↔ n < recStart r) ∧ (n ∈ l.ended ↔ n < recStart r)) ∧ l.placed = [] ∧ l.lost = [] ∧ l.killed = false)) ∧
  (∀ (s : State) (part : Fin 96) (p : Part) (l : Launch) (n k : Nat), s.part part.val = some p → p.halted = false →
    s.queueWaits part.val = [] → (∀ q ∈ p.launches, recPred q.record = 0) → p.poolChoice 0 = some (l, .fresh [[n]]) →
    recClass l.record = 0 → recCrew l.record = 1 → (s.freeCores p 0).head? = some k →
    (l.views[recQueue l.record]?.getD View.zero).valid = false →
    ∃ t u, exec (.teamPlace part) s = .next t ∧ t.team k = some u ∧ u.part = part.val ∧ u.seq = recSeq l.record ∧ u.number = n ∧
      u.groups = newGroups l.record ∧ u.handles = l.plan.map newHandle ∧ u.z = List.replicate 8 (List.replicate 256 0) ∧
      u.watchdog = recWdog l.record ∧ u.phase = (if recSplen l.record = 0 then .runs else .image 0) ∧
      (t.core k).user = some part.val ∧ ((s.core k).user ≠ some part.val → ∀ a, a < 2 ^ 18 → t.mem.get (scratchAt k a) = 0) ∧
      ∀ c, c ≠ k → t.core c = s.core c) ∧
  (∀ (s : State) (core k : Nat) (at_ : Nat → Nat) (u : Team) (p : Part), s.team core = some u → u.phase = .image k →
    s.part u.part = some p → p.halted = false → s.awaits u.part (.image core) = false → s.Plain → core < 1536 →
    let r := s.recordOf u
    let total := 64 * recSplen r
    let va := recSpimg r + 256 * k
    let n := min 256 (total - 256 * k)
    let head := min n (2 ^ 16 - va % 2 ^ 16)
    let runs := if head = n then [(va, n)] else [(va, head), (va + head, n - head)]
    (∀ x ∈ runs, (∃ r1 r2 sl, translate s p false x.1 1 = .ok (at_ x.1) r1 r2 sl) ∧ s.mayBeginAll (at_ x.1) x.2 = true) →
    (s.engine (core / 384) 0).frozen = false → (u.views[recQueue r]?.getD View.zero).valid = false → 256 * k < total →
    ∃ t v, exec (.scratchpadImageCopy core) s = .next t ∧ t.team core = some v ∧
      v.phase = (if total ≤ 256 * k + 256 then .runs else .image (k + 1)) ∧
      ∀ x ∈ runs, ∀ i, i < x.2 → t.mem.get (scratchAt core (256 * k + (x.1 - va) + i)) = s.mem.get (at_ x.1 + i)) ∧
  (∀ (s : State) (core : Nat) (killed : Bool) (u : Team) (l : Launch), s.team core = some u → u.phase = .ending killed →
    s.quiet core u = true → (killed = true ∨ (s.enginesRun core u = true ∧ u.regions = [] ∧ u.number ∈ l.trig)) →
    s.launchOf u = some l → s.crewCores u = [core] →
    ∃ t q m, exec (.teamEnd core) s = .next t ∧ t.team core = none ∧ t.part u.part = some q ∧ q.launch u.seq = some m ∧
      u.number ∈ m.ended ∧ m.killed = (l.killed || killed))

/-- R109, R188, R190, R298, R317, R326, R331 to R333: PREEMPT stops the teams that it names, but for those of a crew with a frozen core,
and sets PREEMPTING; a stopped team issues nothing but what goes on with a latch chain in progress; when the save completes every
stopped team is among the saved ones, with its latches empty and no lane in a chain, and its core is free; RESTORE makes the saved teams of a launch eligible; KILL ends the teams
of a launch on cores, with their queue entries and QFENCE markers, and those not placed, and of a launch that is not copied yet is
noted. The bits of a killed launch and the teams whose save waits are the model's readings (DEDUCED, log 54, log 73). -/
def Obligations.PreemptionAndKill : Prop :=
  (∀ (s : State) (part : Fin 96) (seq : Word64) (p : Part), Arrives s part.val p →
    (p.preempting = true → exec (.preempt part seq) s = .next (s.tlpSeen p)) ∧
    (p.preempting = false → ∃ t q, exec (.preempt part seq) s = .next t ∧ t.part part.val = some q ∧ q.preempting = true ∧
      q.saving = seq.toNat ∧ t.mem = s.mem ∧
      ∀ core u, s.team core = some u → u.part = part.val → (seq = 0 ∨ u.seq = seq.toNat) → u.phase = .runs →
        (s.crewFrozen core = false → ∃ v, t.team core = some v ∧ v.stopped = true ∧ v.number = u.number) ∧
        (s.crewFrozen core = true → ∃ v, t.team core = some v ∧ v.stopped = u.stopped))) ∧
  (∀ (s : State) (core gi : Nat) (t : Team) (g : Group), s.team core = some t → t.groups[gi]? = some g → t.stopped = true →
    s.groupReady core gi = true → ∃ l ∈ g.lanes, l.exited = false ∧ l.chain ≠ 0) ∧
  (∀ (s : State) (part : Fin 96) (p : Part), s.part part.val = some p → p.preempting = true → p.halted = false → s.phase = .running →
    (s.cores.map (·.id)).Nodup → (∀ c ∈ s.saveCores part.val, s.savable c = true ∧ ∀ u, s.team c = some u → u.regions = []) →
    ∃ t q, exec (.contextSaveComplete part) s = .next t ∧ t.part part.val = some q ∧ q.preempting = false ∧
      ∀ c ∈ s.saveCores part.val, t.team c = none ∧ ∀ u, s.team c = some u →
        ∃ x ∈ q.saved, x.core = c ∧ x.eligible = false ∧ x.team.number = u.number ∧ x.team.seq = u.seq ∧ x.team.views = u.views ∧
          x.team.z = u.z ∧ x.team.alatch = u.alatch ∧ x.team.watchdog = u.watchdog ∧
          x.team.groups.map (fun g => (g.s, g.cmask, g.log, g.lanes.map fun l => (l.own, l.pc, l.exited)))
            = u.groups.map (fun g => (g.s, g.cmask, g.log, g.lanes.map fun l => (l.own, l.pc, l.exited))) ∧
          (u.stopped = true → ∀ g ∈ x.team.groups, ∀ l ∈ g.lanes, l.latches = [] ∧ l.chain = 0)) ∧
  (∀ (s : State) (part : Fin 96) (seq : Word64) (p : Part), Arrives s part.val p →
    ∃ t, exec (.restore part seq) s = .next t ∧ t.part part.val = some { p with
      saved := p.saved.map fun x => if x.team.seq = seq.toNat then { x with eligible := true } else x }) ∧
  (∀ (s : State) (part : Fin 96) (seq : Word64) (p : Part), Arrives s part.val p →
    (p.last.toNat < seq.toNat → exec (.kill part seq) s = .next (s.tlpSeen p)) ∧
    (seq.toNat ≤ p.last.toNat → p.launch seq.toNat = none →
      ∃ t, exec (.kill part seq) s = .next t ∧ t.part part.val = some { p with kills := p.kills ++ [seq.toNat] }) ∧
    (seq.toNat ≤ p.last.toNat → ∀ l, p.launch seq.toNat = some l → l.life = .active → p.saved = [] →
      ∃ t q m, exec (.kill part seq) s = .next t ∧ t.part part.val = some q ∧ q.launch seq.toNat = some m ∧ m.killed = true ∧
        (∀ n ∈ l.waiting, n ∈ m.ended ∧ n ∈ m.placed) ∧
        ∀ core u, s.team core = some u → u.part = part.val → u.seq = seq.toNat → u.phase ≠ .finished →
          ∃ v, t.team core = some v ∧ v.phase = .ending true ∧ v.stopped = false ∧ v.inq = [] ∧ v.outq = [] ∧ v.mq = [] ∧ v.regions = [] ∧
            ∀ e ∈ t.engines, ∀ es ∈ e.queues, ∀ id ∈ u.fences, CopyEntry.fence id ∉ es))

/-- R183, R188, R300, R303, R304, R317: RETRY and FAIL of a suspended tile copy take its record away; a retried copy goes on, a
failed one leaves its queue and its handle FAULTED. XINV is asked for, and its completion empties the partition's caches. RESUME runs a
halted unit again or, after a trap, continues after it, SKIP continues after it, and a halt's KILL ends the team. CTXBASE, FQBASE and
FQSIZE take the values that their rules allow, and the launch window's slots the bytes written, SEQ's with a commit; FQCONS lets held records enter the queue.
Other values of the registers, and what FAIL leaves of a tile copy, are the model's readings (DEDUCED, log 53, log
56). -/
def Obligations.DriverActions : Prop :=
  (∀ (s : State) (part : Fin 96) (stamp : Word64) (p : Part), Arrives s part.val p → p.answered stamp = none →
    exec (.xactRetry part stamp) s = .next (s.tlpSeen p) ∧ exec (.xactFail part stamp) s = .next (s.tlpSeen p)) ∧
  (∀ (s : State) (part : Fin 96) (stamp : Word64) (p : Part) (w : XWait) (core : Nat) (u : Team) (c : Copy) (h : Handle)
      (cs : List CopyEntry), Arrives s part.val p → p.answered stamp = some w → w.agent = .tile core false →
    s.team core = some u → u.inq = .copy c :: cs → c.core = core → u.handle c.h = some h → s.NoFences → u.Busy →
    (∃ t q v z, exec (.xactRetry part stamp) s = .next t ∧ t.part part.val = some q ∧ w ∉ q.xwaits ∧ t.team core = some v ∧
      v.inq = .copy { c with susp := none, got := [] } :: cs ∧ v.handle c.h = some z ∧ z = { h with faulted := h.broken }) ∧
    (∃ t q v z, exec (.xactFail part stamp) s = .next t ∧ t.part part.val = some q ∧ w ∉ q.xwaits ∧ t.team core = some v ∧
      v.inq = cs ∧ v.handle c.h = some z ∧ z = { h with faulted := true, broken := true })) ∧
  (∀ (s : State) (part : Fin 96) (p : Part), s.part part.val = some p →
    (Arrives s part.val p → ∃ t, exec (.xinv part) s = .next t ∧ t.part part.val = some { p with xinv := true }) ∧
    (p.xinv = true → ∃ t, exec (.xinvComplete part) s = .next t ∧ t.part part.val = some { p with xinv := false, tlb := [] })) ∧
  (∀ (s : State) (part : Fin 96) (slot core gi : Nat) (p : Part) (u : Team) (g : Group) (h : Halt), Arrives s part.val p →
    s.slotGroup part.val slot = some (core, gi) → s.NoFences → g.atNoBarrier = true → s.team core = some u → u.groups[gi]? = some g → g.halts = [h] → h.logged = none →
    let leaves := fun (l : Lane) (past : Bool) =>
      { l with pc := if past then l.pc + BitVec.ofNat 32 h.words else l.pc, latches := [], chain := 0 }
    (∃ t x, exec (.resume part slot) s = .next t ∧ t.group core gi = some x ∧ x.halts = [] ∧
      ∀ (n : Nat) (l : Lane), g.lanes[n]? = some l → x.lanes[n]? = some (leaves l (h.after && h.atUnit.getLsbD n))) ∧
    (∃ t x, exec (.skip part slot) s = .next t ∧ t.group core gi = some x ∧ x.halts = [] ∧
      ∀ (n : Nat) (l : Lane), g.lanes[n]? = some l → x.lanes[n]? = some (leaves l (h.atUnit.getLsbD n))) ∧
    (u.phase ≠ .finished → ∃ t v, exec (.haltKill part slot) s = .next t ∧ t.team core = some v ∧ v.phase = .ending true)) ∧
  (∀ (s : State) (part : Fin 96) (o : Nat) (v : Word64) (p : Part), Arrives s part.val p → o < 0x1000 →
    let slot := p.lwin.getD (o / 128) 0
    (o % 8 ≠ 0 → exec (.registerWrite part o v) s = .next (s.tlpSeen p)) ∧
    (o % 128 = 0 → exec (.registerWrite part o v) s
      = exec (.launchCommit part (Fin.ofNat 32 (o / 128)) (BitVec.ofNat 1024 (slot.toNat / 2 ^ 64 * 2 ^ 64 + v.toNat))) s) ∧
    (o % 8 = 0 → o % 128 ≠ 0 → ∃ t q, exec (.registerWrite part o v) s = .next t ∧ t.mem = s.mem ∧ t.part part.val = some q ∧
      ((∃ x ∈ p.window, recSeq x % 32 = o / 128) → q = p) ∧
      ((∀ x ∈ p.window, recSeq x % 32 ≠ o / 128) → p.lwin.length = 32 → ∃ y, q = { p with lwin := p.lwin.set (o / 128) y } ∧
        ∀ j, j < 16 → recFld y (8 * j) 0 64 = if j = o % 128 / 8 then v.toNat else recFld slot (8 * j) 0 64))) ∧
  (∀ (s : State) (part : Fin 96) (o : Nat) (v : Word64) (p : Part), Arrives s part.val p → 0x1000 ≤ o →
    ∃ t, exec (.registerWrite part o v) s = .next t ∧ t.mem = s.mem ∧ t.part part.val = some (
      if o = 0x1018 ∧ v.toNat % 2 ^ 16 = 0 then { p with ctxbase := v }
      else if o = 0x1048 ∧ v.toNat % 64 = 0 then { p with fqbase := v }
      else if o = 0x1050 ∧ (∃ k ∈ List.range 11, v.toNat = 2 ^ (6 + k)) then { p with fqsize := v }
      else p)) ∧
  (∀ (s : State) (part : Fin 96) (v : Word64) (p : Part), Arrives s part.val p →
    let p1 := { p with fqcons := BitVec.ofNat 32 v.toNat }
    ∃ t q, exec (.fqconsWrite part v) s = .next t ∧ t.part part.val = some q ∧
      ((p.held = [] ∨ p1.queueFull = true) → q = p1) ∧
      (∀ r, p.held = [r] → p1.queueFull = false → q.held = [] ∧ q.fqprod = p.fqprod + 1 ∧ q.fqcons = p1.fqcons))

/-! ## The management core (spec/17_package.md R330, R334, R335, R349, R366; spec/16 R302; spec/19 R364, R372) -/

/-- R302, R330, R334 to R336, R347, R349, R364, R366, R372: creating a partition of resources that nobody owns, and refusing one
that overlaps, has no sheaf or an illegal period; destroying one, which zeroes the scratchpads and vaults of its sheaves; the writes of its configuration, each where its
rule allows it; releases of frozen units; the tenant table; a measurement; a ready bit; and the loss of a die.
What a release leaves, the refusals of overlapping resources and which writes are lost are the model's readings
(DEDUCED, log 43, log 60, log 61); the values after RESET that the spec does not give are the model's (DESIGN CHOICE, log 1, log 6). -/
def Obligations.ManagementCore : Prop :=
  (∀ (s : State) (g : PartCfg), s.part g.id.val = none →
    ((∃ p ∈ s.parts, p.sheaves &&& g.sheaves ≠ 0 ∨ p.engines &&& g.engines ≠ 0) → exec (.partitionCreate g) s = .next s) ∧
    ((g.sheaves = 0 ∨ g.period = 0 ∨ 10000 < g.period) → exec (.partitionCreate g) s = .next s) ∧
    ((∀ p ∈ s.parts, p.sheaves &&& g.sheaves = 0 ∧ p.engines &&& g.engines = 0) → g.ranges = [] →
      g.sheaves ≠ 0 → 1 ≤ g.period → g.period ≤ 10000 →
      (g.sealed = true → (s.parts.filter (·.isSealed)).length < 32) →
      ∃ t q, exec (.partitionCreate g) s = .next t ∧ t.part g.id.val = some q ∧ t.mem = s.mem ∧ t.cores = s.cores ∧
        t.packageId = Config.packageId ∧ q.sheaves = g.sheaves ∧ q.engines = g.engines ∧ q.pool = g.pool ∧ q.root = g.stage1 ∧
        q.isSealed = g.sealed ∧ q.integ.isSome = g.sealed ∧ q.ranges = List.replicate 48 0 ∧ q.tdisp = .unlocked ∧ q.last = 0 ∧
        q.window = [] ∧ q.launches = [] ∧ q.tlb = [] ∧ ∀ n, n ≠ g.id.val → t.part n = s.part n)) ∧
  (∀ (s : State) (part : Fin 96) (p : Part), s.part part.val = some p →
    ∃ t, exec (.partitionDestroy part) s = .next t ∧ t.part part.val = none ∧
      ∀ q a, q < 96 → p.sheaves.getLsbD q = true →
        (∀ c, c / 16 = q → a < 2 ^ 18 → t.mem.get (scratchAt c a) = 0) ∧
        (∀ v, v < 96 → v / 4 = q % 24 → a < 2 ^ 22 → t.mem.get (vaultAt (q / 24) v a) = 0)) ∧
  (∀ (s : State) (part : Fin 96) (p : Part), s.part part.val = some p →
    (∀ x : BitVec 96, x ≠ 0 → s.phase = .slot → p.tdisp = .unlocked → (∀ q ∈ s.parts, q.id ≠ part.val → q.sheaves &&& x = 0) →
      (∀ k, k < 96 → (p.sheaves ^^^ x).getLsbD k = true → ∀ c ∈ s.cores, c.id / 16 = k → c.team = none) →
      ∃ t, exec (.sheavesWrite part x) s = .next t ∧ t.part part.val = some { p with sheaves := x } ∧
        ∀ c ∈ s.cores, (p.sheaves ^^^ x).getLsbD (c.id / 16) = true → (t.core c.id).user = none) ∧
    (∀ x : BitVec 96, (x = 0 ∨ s.phase ≠ .slot ∨ p.tdisp ≠ .unlocked) → exec (.sheavesWrite part x) s = .next s) ∧
    (∀ x : BitVec 48, ∃ t, exec (.stage1Write part x) s = .next t ∧ t.part part.val = some { p with root := x }) ∧
    (∀ (i : Fin 48) (e : RangeEntry), p.tdisp = .unlocked → p.integ = none →
      ∃ t q, exec (.rangesWrite part i e) s = .next t ∧ t.part part.val = some q ∧
        q.ranges = if ∃ k ∈ List.range p.ranges.length, k ≠ i.val ∧ overlap (p.ranges.getD k 0) e = true then p.ranges
          else p.ranges.set i.val e) ∧
    (∀ (i : Fin 48) (e : RangeEntry), p.tdisp ≠ .unlocked → exec (.rangesWrite part i e) s = .next s) ∧
    (∀ x : BitVec 256, p.tdisp = .unlocked → (∀ q ∈ s.parts, q.id ≠ part.val → q.engines &&& x = 0) →
      (∀ e ∈ s.engines, ∀ q ∈ e.queues, q = []) →
      ∃ t, exec (.enginesWrite part x) s = .next t ∧ t.part part.val = some { p with engines := x })) ∧
  (∀ (s : State) (core : Nat), (s.core core).frozen = true → (∀ u, s.team core = some u → u.Busy ∧ ∀ g ∈ u.groups, g.log = []) →
    ∃ t, exec (.coreRelease core) s = .next t ∧ (t.core core).frozen = false ∧
      (s.team core = none → t.core core = { s.core core with frozen := false })) ∧
  (∀ (s : State) (die : Nat) (e : Fin 8), ∃ t, exec (.engineRelease die e) s = .next t ∧
    t.engine die e.val = { s.engine die e.val with frozen := false }) ∧
  (∀ (s : State) (i : Fin 256) (e : Word64), (e.getLsbD 63 = false ∨ s.part (bvFld e 33 7) = none) →
    ((s.tenants.getD i.val 0).getLsbD 63 = false ∨ s.part (bvFld (s.tenants.getD i.val 0) 33 7) = none) →
    ∃ t, exec (.tenantTableWrite i e) s = .next t ∧ t.tenants = s.tenants.set i.val e) ∧
  (∀ (s : State) (i : Fin 16) (d : BitVec 384),
    exec (.measurementExtend i d) s = .next (if i.val < 8 ∨ (i.val = 15 ∧ s.measures[i] = 0) then { s with
      measures := s.measures.set i (Config.sha384 (bytesOf 48 s.measures[i].toNat ++ bytesOf 48 d.toNat)) } else s)) ∧
  (∀ s : State, exec .reset s = .next { State.reset with turns := s.turns, draws := s.draws }) ∧
  (∀ (s : State) (n : Fin 64), s.cutDies = [] →
    (n.val < 41 → ∃ t, exec (.functionReady 0 n) s = .next t ∧ t.ready0 = s.ready0 ||| BitVec.ofNat 64 (2 ^ n.val)) ∧
    (n.val < 48 → ∃ t, exec (.functionReady 1 n) s = .next t ∧ t.ready1 = s.ready1 ||| BitVec.ofNat 64 (2 ^ n.val)) ∧
    (n.val < 45 → ∃ t, exec (.functionReady 2 n) s = .next t ∧ t.ready2 = s.ready2 ||| BitVec.ofNat 64 (2 ^ n.val))) ∧
  (∀ (s : State) (die : Nat), die < 4 → die ∉ s.cutDies → ∃ t, exec (.dieUnreachable die) s = .next t ∧ die ∈ t.cutDies ∧
    t.ready0.getLsbD (1 + die) = false ∧ (∀ k, k ≠ 1 + die → t.ready0.getLsbD k = s.ready0.getLsbD k) ∧
    ∀ c, c / 384 = die → t.team c = none)

/-! ## The host port (spec/19_fabric.md R359, R360, R362, R363) -/

/-- R305, R317, R348, R359, R360, R362, R363: a read or a write by the host through the inbound aperture, the vault aperture or CXL.mem, of bytes
that the partition's ranges or sheaves hold: a read completes with the bytes of memory and changes none, a write writes its bytes and has
no completion, and one that the partition does not reach gets Unsupported Request; one to this package's DRAM waits for the slot's end,
or until its channel is ready.
While the TDI is locked a TLP outside its selective stream, whatever it is for, freezes the VF's receive path and does nothing else. The
global page gives the ready registers and the package energy, and the control page of a VF its registers. A read of host memory that
nobody waits for changes nothing, and one that is answered is no longer outstanding.
Access during a guard, what lies in a TDI's stream, and the parts of a fill are the model's readings (DEDUCED, log 67, log 68, log
25). -/
def Obligations.HostAccess : Prop :=
  let takes := fun (i : OutAccess → Instr) (x : OutAccess) (proto part : Nat) (s s1 : State) (as : Option (List Nat)) =>
    ∃ t, exec (i x) s = .next t ∧
      (as = none → t = { s1 with outbox := s1.outbox ++ [⟨proto, 1, part, []⟩] }) ∧
      (∀ l n, as = some l → x = .read n → (∀ a ∈ l, s.poisoned a 1 = false) →
        t.mem = s.mem ∧ t.outbox = s.outbox ++ [⟨proto, 0, part, l.map s.mem.get⟩]) ∧
      (∀ l bs, as = some l → x = .write bs (bs.map fun _ => true) → l.Nodup → s.Plain → t.outbox = s.outbox ∧
        (∀ k a : Nat, l[k]? = some a → some (t.mem.get a) = bs[k]?) ∧ ∀ a, a ∉ l → t.mem.get a = s.mem.get a)
  let size := fun x : OutAccess => match x with
    | .read n => some n
    | .write bs _ => some bs.length
    | .atomic _ _ _ => none
  let waits := fun (s : State) (as : Option (List Nat)) => ∃ l a, as = some l ∧ a ∈ l ∧
    (s.phase = .slot ∨ s.phase = .starting ∨ s.channelReady a = false)
  (∀ (s : State) (part : Fin 96) (p : Part) (o n : Nat) (x : OutAccess), Arrives s part.val p → size x = some n →
    let as := if o + n ≤ 2 ^ 36 then iaAddrs p (outNeed x) (fun _ => true) o n else none
    (¬ waits s as → takes (.inboundApertureAccess part o) x 0 part.val s (s.tlpSeen p) as) ∧
    (waits s as → exec (.inboundApertureAccess part o x) s = .next ((s.tlpSeen p).defer (.inbound part o x))) ∧
    takes (.vaultApertureAccess part o) x 0 part.val s (s.tlpSeen p)
      (let d := o / 2 ^ 29
       let v := o % 2 ^ 29 / 2 ^ 22
       if d < 4 ∧ v < 96 ∧ o % 2 ^ 22 + n ≤ 3 * 2 ^ 20 ∧ p.sheaves.getLsbD (24 * d + v / 4) = true then
         some ((List.range n).map fun k => vaultAt d v (o % 2 ^ 22) + k) else none)) ∧
  (∀ (s : State) (part : Fin 96) (p : Part) (o n : Nat) (x : OutAccess), s.part part.val = some p → size x = some n →
    (Config.cxlTrained = true → let as := iaAddrs p (outNeed x) p.exportsAt o n
      (¬ waits s as → takes (.cxlMemAccess part o) x 7 part.val s s as) ∧
      (waits s as → exec (.cxlMemAccess part o x) s = .next (s.defer (.cxl part o x)))) ∧
    (Config.cxlTrained = false → exec (.cxlMemAccess part o x) s = .next s)) ∧
  (∀ (s : State) (part : Fin 96) (p : Part), s.part part.val = some p →
    (p.portFrozen = false → p.tdisp = .unlocked → s.tlpLost p = false) ∧
    ((p.tdisp = .locked ∨ p.tdisp = .run) → p.ideLive = none → s.tlpLost p = true) ∧
    ∀ i, IsTlp part i →
      (p.portFrozen = true → exec i s = .next s) ∧
      (p.portFrozen = false → s.tlpLost p = true → ∃ t q, exec i s = .next t ∧ t.part part.val = some q ∧ q.portFrozen = true ∧
        q.launches = p.launches ∧ q.window = p.window ∧ q.last = p.last ∧ q.kills = p.kills ∧ q.saved = p.saved ∧ q.xwaits = p.xwaits ∧
        t.cores = s.cores ∧ t.outbox = s.outbox ∧ (p.hasRoom → q.fqprod = p.fqprod + 1) ∧
        ∃ r ∈ t.mgmt, r.kind = 0x23 ∧ r.part = part.val)) ∧
  (∀ s : State, let tells := fun (s : State) (w : Word64) => ({ s with outbox := s.outbox ++ [⟨0, 0, 96, bytesOf 8 w.toNat⟩] } : State)
    runTurn (.page 0x00) s = .next (tells s s.ready0) ∧ runTurn (.page 0x08) s = .next (tells s s.ready1) ∧
    runTurn (.page 0x10) s = .next (tells s s.ready2) ∧
    runTurn (.page 0x20) s = .next (tells { s with energyHi := BitVec.ofNat 32 (s.energy.toNat / 2 ^ 32) } s.energy)) ∧
  (∀ (s : State) (part : Fin 96) (p : Part), Arrives s part.val p →
    let tells := fun (o n : Nat) => runTurn (.vfPage part.val o) s
      = .next { s.tlpSeen p with outbox := s.outbox ++ [⟨0, 0, part.val, bytesOf 8 n⟩] }
    tells 0x1000 p.last.toNat ∧ tells 0x1008 p.consumed.toNat ∧ tells 0x1018 p.ctxbase.toNat ∧ tells 0x1038 p.xinv.toNat ∧
    tells 0x1040 (p.frozen.toNat + 2 * p.integFail.toNat + 4 * p.isSealed.toNat + 8 * p.preempting.toNat) ∧
    tells 0x1048 p.fqbase.toNat ∧ tells 0x1050 p.fqsize.toNat ∧ tells 0x1058 p.fqprod.toNat ∧ tells 0x1060 p.fqcons.toNat ∧
    tells 0x1068 p.lost.toNat ∧ tells 0x1078 p.energyHi.toNat ∧
    ∃ t, runTurn (.vfPage part.val 0x1070) s = .next t ∧ t.outbox = s.outbox ++ [⟨0, 0, part.val, bytesOf 8 p.energy.toNat⟩] ∧
      t.part part.val = some { p with energyHi := BitVec.ofNat 32 (p.energy.toNat / 2 ^ 32) }) ∧
  (∀ (s : State) (part : Fin 96) (o : Nat) (x : OutAccess), s.part part.val = none →
    exec (.inboundApertureAccess part o x) s = .next { s with outbox := s.outbox ++ [⟨0, 1, part.val, []⟩] } ∧
    exec (.vaultApertureAccess part o x) s = .next { s with outbox := s.outbox ++ [⟨0, 1, part.val, []⟩] }) ∧
  (∀ (s : State) (tag : BitVec 32) (bs : List Byte) (bad : Bool),
    ((∀ r ∈ s.requests, r.toHost = true → r.tag ≠ tag) → exec (.hostReadCompletion tag bs bad) s = .next s) ∧
    (∀ r p, s.requests = [r] → r.toHost = true → r.tag = tag → s.part r.part = some p → s.tlpLost p = true →
      ∃ t, exec (.hostReadCompletion tag bs bad) s = .next t ∧ t.requests = s.requests ∧ t.mem = s.mem ∧ t.cores = s.cores) ∧
    (∀ r p core id k u v g, s.requests = [r] → r.toHost = true → r.tag = tag → Arrives s r.part p → r.agent = .fill core id k → s.team core = some u →
      u.Busy → (∀ x ∈ u.groups, x.log = []) → s.region core id = some v → (v.slot k).filling = some g → r.addrs.length = 4096 →
      r.addrs.headD 0 % 4096 = 0 → bs.length = 4096 → s.Plain → v.maskAt core + 512 * v.slots.length ≤ 2 ^ 40 →
      ∃ t w, exec (.hostReadCompletion tag bs bad) s = .next t ∧ t.requests = [] ∧ t.region core id = some w ∧
        w.slot k = ⟨.clean, g, none, (v.slot k).trans⟩ ∧ t.read (v.dataAt core + 4096 * k) 4096 = bs ∧
        (bad = true → t.poisoned (v.dataAt core + 4096 * k) 4096 = true)))

/-! ## IDE_KM, TDISP and SPDM (spec/19_fabric.md R363 to R367) -/

/-- R363 to R367: what each request leaves and answers, stamped as it arrives: inside the secured session a key set programmed, in force or not; the TDI's state
(LOCK from unlocked to locked, START from locked to RUN, STOP to unlocked; in another state ERROR 0x7F, INVALID_INTERFACE_STATE); and
the progress of the SPDM session. The numbers of the answers are the model's (DESIGN CHOICE, log 8), and their bodies are opaque but for the states,
the measurements and the errors. That a locked TDI whose stream is stopped enters ERROR is taken from TDISP (PRESUMED, log 92). -/
def Obligations.Attestation : Prop :=
  let body := fun (s : State) (n : Nat) => Config.protocolReply n s.spdm.served
  let answers := fun (s t : State) (proto code dest : Nat) (b : List Byte) => t.outbox = s.outbox ++ [⟨proto, code, dest, b⟩] ∧
    t.spdm.served = s.spdm.served + 1 ∧ t.stampNext = s.nextStamp + 1
  let mail := fun (via : Mailbox) (doe mctp : Nat) => match via with
    | .doe => doe
    | .mctp => mctp
  (∀ (s : State) (part : Fin 96) (p : Part) (k : Bool), s.part part.val = some p → s.spdm.secured = true →
    (∃ t, exec (.query part) s = .next t ∧ answers s t 4 1 part.val (body s 1025) ∧ t.parts = s.parts) ∧
    (∃ t q, exec (.keyProg part k) s = .next t ∧ answers s t 4 3 part.val (body s 1027) ∧ t.part part.val = some q ∧
      k ∈ q.ideKeys ∧ (∀ j ∈ p.ideKeys, j ∈ q.ideKeys) ∧ q.ideLive = p.ideLive) ∧
    (∃ t, exec (.kSetGo part k) s = .next t ∧ answers s t 4 6 part.val (body s 1030) ∧
      t.part part.val = some (if k ∈ p.ideKeys then { p with ideLive := some k } else p)) ∧
    (∃ t, exec (.kSetStop part k) s = .next t ∧ answers s t 4 6 part.val (body s 1030) ∧
      t.part part.val = some (if p.ideLive = some k then
        { p with ideLive := none, tdisp := if p.tdisp = .locked ∨ p.tdisp = .run then .error else p.tdisp } else p))) ∧
  (∀ (s : State) (part : Fin 96) (p : Part) (k : Bool), s.part part.val = some p → s.spdm.secured = false →
    exec (.query part) s = .next s.stamped ∧ exec (.keyProg part k) s = .next s.stamped ∧
    exec (.kSetGo part k) s = .next s.stamped ∧ exec (.kSetStop part k) s = .next s.stamped) ∧
  (∀ (s : State) (part : Fin 96) (p : Part), s.part part.val = some p →
    (∃ t, exec (.getTdispVersion part) s = .next t ∧ answers s t 5 1 part.val (body s 1281) ∧ t.parts = s.parts) ∧
    (∃ t, exec (.getTdispCapabilities part) s = .next t ∧ answers s t 5 2 part.val (body s 1282) ∧ t.parts = s.parts) ∧
    (∃ t, exec (.getDeviceInterfaceReport part) s = .next t ∧ answers s t 5 4 part.val (body s 1284) ∧ t.parts = s.parts) ∧
    (∃ t, exec (.getDeviceInterfaceState part) s = .next t ∧ t.parts = s.parts ∧ answers s t 5 5 part.val [match p.tdisp with
      | .unlocked => 0
      | .locked => 1
      | .run => 2
      | .error => 3]) ∧
    (∀ via, ∃ t, exec (.lockInterfaceRequest part via) s = .next t ∧
      (p.tdisp = .unlocked → answers s t (mail via 5 6) 3 part.val (body s 1283) ∧
        t.part part.val = some { p with tdisp := .locked, lockedAt := some s.nextStamp }) ∧
      (p.tdisp ≠ .unlocked → answers s t (mail via 5 6) 0x7F part.val [4, 0, 0, 0] ∧ t.parts = s.parts)) ∧
    (∃ t, exec (.startInterfaceRequest part) s = .next t ∧
      (p.tdisp = .locked → answers s t 5 6 part.val (body s 1286) ∧ t.part part.val = some { p with tdisp := .run }) ∧
      (p.tdisp ≠ .locked → answers s t 5 0x7F part.val [4, 0, 0, 0] ∧ t.parts = s.parts)) ∧
    (∃ t, exec (.stopInterfaceRequest part) s = .next t ∧ t.outbox.getLast? = some ⟨5, 7, part.val, body s 1287⟩ ∧
      t.spdm.served = s.spdm.served + 1 ∧ (p.tdisp = .error → t.part part.val = none) ∧
      (p.tdisp ≠ .error → ∃ q, t.part part.val = some q ∧ q.tdisp = .unlocked ∧ q.lockedAt = none) ∧
      ∀ q a c, q < 96 → p.sheaves.getLsbD q = true → c / 16 = q → a < 2 ^ 18 → t.mem.get (scratchAt c a) = 0)) ∧
  (∀ (s : State) (via : Mailbox),
    let replies := fun (i : Instr) (code : Nat) (f : Spdm → Spdm) => ∃ t, exec i s = .next t ∧
      answers s t (mail via 2 3) code 0 (body s (512 + code)) ∧ t.spdm = { f s.spdm with served := s.spdm.served + 1 } ∧
      t.parts = s.parts
    replies (.getVersion via) 0x04 (fun x => { x with version := true, caps := false, algs := false }) ∧
    replies (.getCapabilities via) 0x61 (fun x => { x with caps := true }) ∧
    replies (.negotiateAlgorithms via) 0x63 (fun x => { x with algs := true }) ∧
    replies (.getDigests via) 0x01 id ∧ replies (.getCertificate via) 0x02 id ∧ replies (.challenge via) 0x03 id ∧
    replies (.keyExchange via none) 0x64 (fun x => { x with session := true, secured := false }) ∧
    (s.spdm.session = true → replies (.finish via) 0x65 (fun x => { x with secured := true })) ∧
    (s.spdm.session = false → replies (.finish via) 0x7F id) ∧
    (∃ t, exec (.getMeasurements via) s = .next t ∧ t.measures = s.measures ∧
      answers s t (mail via 2 3) 0x60 0 ((s.measures.toList.map fun m => bytesOf 48 m.toNat).flatten)) ∧
    (∃ t, exec (.spdmUnsupported via) s = .next t ∧ answers s t (mail via 2 3) 0x7F 0 [7] ∧ t.parts = s.parts))

/-! ## Beacon flits and links (spec/19_fabric.md R368 to R376) -/

/-- R203, R293, R305, R348, R369 to R371, R373 to R375: what an accepted flit does. A WRITE whose tenant entry grants it writes its bytes at
their home and is acknowledged (0x06), a READ answers with the bytes (0x03), an ATOMIC of a member performs it and answers with the old
value (0x05); one to this package's DRAM, or translated by tables there, waits for the slot's end, or until its channel is ready; where the entry grants nothing a READ or
an ATOMIC gets a poisoned response, on the stream of the partition that the entry names, and a WRITE none. A LAUNCH is committed, and its verdict goes back when its record is copied, or refused with its reason (0x11). A
READ_RESPONSE brings its bytes to the slot or the lane that waits, an ATOMIC_RESPONSE the old value to the lane, an ACK ends its writes.
Another answer, and a flit that is not accepted, does nothing more. A flit sent on a stream carries its count, which goes on.
The reason for a wrong PART, what a refused WRITE gives, where a response goes that no entry names a partition for, what waits, and
when TIME steps are the model's readings (DEDUCED, log 62, log 63, log 107, log 67, log 52);
the checksum, the credits and what a key seals are opaque (DESIGN CHOICE, log 7, log 8). -/
def Obligations.Flits : Prop :=
  let tells := fun (s t : State) (part : Nat) (f : Flit) (type : Nat) (bad : Bool) (b : List Byte) =>
    (∀ k, s.reach part f.spkg.toNat = .port k → t.outbox = (s.sendOn part f.spkg.toNat k ⟨type, false, bad, f.tag, b⟩).outbox) ∧
    (s.reach part f.spkg.toNat = .wait → t.outbox = s.outbox ∧ t.replies = s.replies ++ [⟨part, f.spkg, type, bad, f.tag, b⟩])
  let refuses := fun (s t : State) (f : Flit) (type : Nat) => t.mem = s.mem ∧
    (s.tenantOf f = none → t.outbox = s.outbox ++
      [⟨1, type, f.port.val, flitBytes none 0 0 0 (Config.credits f.port.val s.outbox.length) ⟨type, false, true, f.tag, []⟩⟩]) ∧
    ∀ e, s.tenantOf f = some e → tells s t (tenantLpart e) f type true []
  let clear := fun (s t : State) (f : Flit) (type : Nat) (bad : Bool) (b : List Byte) => t.outbox = s.outbox ++
    [⟨1, type, f.port.val, flitBytes none 0 0 0 (Config.credits f.port.val s.outbox.length) ⟨type, false, bad, f.tag, b⟩⟩]
  let now := fun (s : State) (l : List Nat) =>
    ∀ a ∈ l, isDram a = true → s.phase ≠ .slot ∧ s.phase ≠ .starting ∧ s.channelReady a = true
  (∀ (enc stook bad : Bool) (src : Nat) (seq tag : Word) (cr : BitVec 16) (ty : Nat) (b : List Byte), b.length ≤ 208 → ty < 256 → src < 128 →
    let x := flitBytes none 0 src seq cr ⟨ty, stook, bad, tag, b⟩
    let fld := fun (o n : Nat) => ofBytes ((x.drop o).take n)
    x.length = 256 ∧ fld 0 1 = ty ∧ fld 1 1 = 2 * stook.toNat + 4 * bad.toNat ∧ fld 2 2 = src ∧ fld 4 4 = seq.toNat ∧
      fld 8 2 = b.length ∧ fld 10 2 = cr.toNat ∧ fld 12 4 = tag.toNat ∧ (x.drop 16).take b.length = b ∧
      (∀ k, 16 + b.length ≤ k → k < 240 → x.getD k 0 = 0) ∧ fld 240 8 = (Config.crc64 (x.take 240)).toNat ∧ fld 248 8 = 0) ∧
  (∀ (s : State) (part pkg k : Nat) (y : Stream) (x : OutFlit), s.outStream part pkg = some y →
    let t := s.sendOn part pkg k x
    t.outbox = s.outbox ++ [⟨1, x.type, k, flitBytes y.key (y.gen.toNat * 2 ^ 32 + y.seq.toNat) part y.seq
      (Config.credits k s.outbox.length) x⟩] ∧
    t.outStream part pkg = some { y with seq := y.seq + 1, gen := if y.seq = 0xFFFFFFFF then y.gen + 1 else y.gen }) ∧
  (∀ (s s1 : State) (f : Flit), s.receive f = (s1, false) →
    ∀ i, ((∃ va m bs, i = .write f va m bs) ∨ (∃ va n, i = .read f va n) ∨ (∃ va a m o ops, i = .atomic f va a m o ops) ∨
        (∃ bs, i = .readResponse f bs) ∨ (∃ v, i = .atomicResponse f v) ∨ (∃ ts, i = .ack f ts) ∨ (∃ b r, i = .launch f b r) ∨
        ∃ v, i = .launchResult f v) → exec i s = .next s1) ∧
  (∀ (s s1 : State) (f : Flit) (va : BitVec 64), s.receive f = (s1, true) →
    (∀ (m : BitVec 128) (bs : List Byte),
      (s1.actsFor f 30 = none → exec (.write f va m bs) s = .next s1) ∧
      (∀ p a g, s1.actsFor f 30 = some p → va.toNat ≤ a → a < va.toNat + bs.length → bs.length ≤ 128 →
        walk s1 p false a 2 = .bad waitCause g → exec (.write f va m bs) s = .next (s1.defer (.write f va m bs))) ∧
      (∀ p l, s1.actsFor f 30 = some p → s1.vaAddrs p 2 va.toNat bs.length = some l → bs.length ≤ 128 →
        (¬ now s1 l → exec (.write f va m bs) s = .next (s1.defer (.write f va m bs))) ∧
        (now s1 l → l.Nodup → s1.Plain →
          ∃ t, exec (.write f va m bs) s = .next t ∧ tells s1 t p.id f 0x06 false (bytesOf 4 f.tag.toNat) ∧
            (∀ k a : Nat, l[k]? = some a → m.getLsbD k = true → some (t.mem.get a) = bs[k]?) ∧
            ∀ a, (∀ k : Nat, l[k]? = some a → m.getLsbD k = false) → t.mem.get a = s1.mem.get a))) ∧
    (∀ n : Nat,
      (s1.actsFor f 31 = none → ∃ t, exec (.read f va n) s = .next t ∧ refuses s1 t f 0x03) ∧
      (∀ p a g, s1.actsFor f 31 = some p → va.toNat ≤ a → a < va.toNat + n → n ≤ 192 → walk s1 p false a 1 = .bad waitCause g →
        exec (.read f va n) s = .next (s1.defer (.read f va n))) ∧
      (∀ p l, s1.actsFor f 31 = some p → n ≤ 192 → s1.vaAddrs p 1 va.toNat n = some l →
        (¬ now s1 l → exec (.read f va n) s = .next (s1.defer (.read f va n))) ∧
        (now s1 l → (∀ a ∈ l, s1.poisoned a 1 = false) →
          ∃ t, exec (.read f va n) s = .next t ∧ t.mem = s1.mem ∧ tells s1 t p.id f 0x03 false (l.map s1.mem.get)))) ∧
    (∀ (o : Option (Order × Scope)) (ops : List Byte),
      (s1.actsFor f 29 = none → ∃ t, exec (.atomic f va 0x34 0 o ops) s = .next t ∧ refuses s1 t f 0x05) ∧
      (∀ p g, s1.actsFor f 29 = some p → va.toNat % 4 = 0 → walk s1 p false va.toNat 4 = .bad waitCause g →
        exec (.atomic f va 0x34 0 o ops) s = .next (s1.defer (.atomic f va 0x34 0 o ops))) ∧
      (∀ p a, s1.actsFor f 29 = some p → va.toNat % 4 = 0 → ops.length = 4 → s1.Plain →
        s1.vaAddrs p 4 va.toNat 4 = some [a, a + 1, a + 2, a + 3] →
        (¬ now s1 [a, a + 1, a + 2, a + 3] → exec (.atomic f va 0x34 0 o ops) s = .next (s1.defer (.atomic f va 0x34 0 o ops))) ∧
        (now s1 [a, a + 1, a + 2, a + 3] → (∀ k, k < 4 → s1.poisoned (a + k) 1 = false) →
          ∃ t, exec (.atomic f va 0x34 0 o ops) s = .next t ∧ t.num a 4 = (s1.num a 4 + ofBytes ops) % 2 ^ 32 ∧
            (∀ z, (z < a ∨ a + 4 ≤ z) → t.mem.get z = s1.mem.get z) ∧ tells s1 t p.id f 0x05 false (s1.read a 4))))) ∧
  (∀ (s s1 : State) (f : Flit) (b : Byte) (r : LaunchBytes), s.receive f = (s1, true) →
    (s1.tenantOf f = none → ∃ t, exec (.launch f b r) s = .next t ∧ t.parts = s1.parts ∧ clear s1 t f 0x11 false [0x80] ∧
      ∃ x, t.mgmt = s1.mgmt ++ [x] ∧ x.kind = 0x30) ∧
    (∀ e, s1.tenantOf f = some e →
      let first := if (e.getLsbD 32 = true ∧ f.enc = false) ∨ recPart r ≠ tenantLpart e ∨ b.toNat ≠ tenantLpart e then some 0x80
        else if e.getLsbD 28 = false then some 0x81
        else if recPrio r < e.toNat / 2 ^ 26 % 4 then some 0x82
        else if e.getLsbD (22 + recClass r) = false then some 0x83
        else none
      (∀ n, first = some n → ∃ t, exec (.launch f b r) s = .next t ∧ t.parts = s1.parts ∧
        tells s1 t (tenantLpart e) f 0x11 false [BitVec.ofNat 8 n] ∧ ∃ x, t.mgmt = s1.mgmt ++ [x] ∧ x.kind = 0x30) ∧
      (∀ p, first = none → s1.part (recPart r) = some p → p.windowOpen = true →
        recSeq r = p.last.toNat + 1 → recSeq r ≤ p.consumed.toNat + 32 →
        ∃ t q, exec (.launch f b r) s = .next t ∧ t.part (recPart r) = some q ∧ q.last = BitVec.ofNat 64 (recSeq r) ∧
          q.window = p.window ++ [r] ∧ q.verdicts = p.verdicts ++ [(BitVec.ofNat 64 (recSeq r), f)] ∧ t.outbox = s1.outbox)) ∧
    ∀ v, exec (.launchResult f v) s = .next s1) ∧
  (∀ (s : State) (part : Fin 96) (p : Part) (r : LaunchBytes) (rs : List LaunchBytes) (f : Flit), s.part part.val = some p →
    p.window = r :: rs → p.halted = false → s.tablesServe p r = true → recSeq r ∉ p.kills → recSeq r < 2 ^ 64 → p.verdicts = [(BitVec.ofNat 64 (recSeq r), f)] →
    ∃ t q, exec (.recordCopy part) s = .next t ∧ t.part part.val = some q ∧ q.verdicts = [] ∧
      tells s t part.val f 0x11 false [BitVec.ofNat 8 ((s.invalid p r (s.tables p r)).getD 0)]) ∧
  (∀ (s s1 : State) (f : Flit), s.receive f = (s1, true) →
    (∀ ts, ∃ t, exec (.ack f ts) s = .next t ∧ t.mem = s1.mem ∧
      ∀ r ∈ s1.requests, (((∃ c, r.agent = .write c) ∨ ∃ c n, r.agent = .sent c n) ∧ r.toHost = false ∧ r.pkg = f.spkg ∧ r.tag ∈ ts) → r ∉ t.requests) ∧
    ((∀ r ∈ s1.requests, r.toHost = false → r.pkg = f.spkg → r.tag ≠ f.tag) →
      (∀ bs, exec (.readResponse f bs) s = .next s1) ∧ ∀ v, exec (.atomicResponse f v) s = .next s1) ∧
    (∀ r, s1.requests = [r] → r.toHost = false → r.tag = f.tag → r.pkg = f.spkg →
      (∀ core id k u v g bs, r.agent = .fill core id k → r.atomic = false → s1.team core = some u → u.Busy →
        (∀ x ∈ u.groups, x.log = []) → s1.region core id = some v → (v.slot k).filling = some g →
        let o := r.addrs.headD 0 % 4096
        bs.length = r.addrs.length → o + bs.length ≤ 4096 → s1.Plain → v.maskAt core + 512 * v.slots.length ≤ 2 ^ 40 →
        ∃ t w, exec (.readResponse f bs) s = .next t ∧ t.requests = [] ∧ t.region core id = some w ∧
          w.slot k = ⟨.clean, g, none, (v.slot k).trans⟩ ∧
          t.read (v.dataAt core + 4096 * k + o) bs.length = bs ∧
          (f.poison = true → bs ≠ [] → t.poisoned (v.dataAt core + 4096 * k + o) bs.length = true)) ∧
      (∀ core gi no u g e x l d id, r.agent = .access core gi no x.lane → s1.team core = some u → s1.group core gi = some g →
        g.log = [e] → e.no = no → e.lanes = [x] → g.lanes[x.lane]? = some l → l.inside = none → e.dests = [d] →
        e.view.region = some id → wideOrder e.instr e.hints = true → r.addrs.length = 4 → f.poison = false →
        let lands := fun bs => ∃ s2 out fl, (s1.forget r).access ⟨core, gi, x.lane, u.part, e.place.pc⟩ e.instr e.hints e.vw e.view
          x.coords x.data no (some (bs, false)) = .done s2 out fl
        let gets := fun (t : State) (w : Word) => ∃ z y, t.laneAt core gi x.lane = some z ∧ z.v[d] = w ∧ d ∉ z.pending ∧
          t.group core gi = some y ∧ y.log = []
        (∀ y bs, e.instr = .lda y → r.atomic = false → bs.length = 4 → lands bs →
          ∃ t, exec (.readResponse f bs) s = .next t ∧ gets t (BitVec.ofNat 32 (ofBytes bs))) ∧
        (∀ y old, e.instr = .atom y → r.atomic = true → r.addrs.headD 0 % 4 = 0 → lands (bytesOf 4 old.toNat) →
          ∃ t, exec (.atomicResponse f old) s = .next t ∧ gets t (BitVec.ofNat 32 old.toNat))))) ∧
  (∀ (s : State) (f : Flit),
    exec (.flitNop f) s = .next s ∧
    (∀ ty p, s.ports[f.port.val]? = some p → p.up = true → ∃ t r, exec (.flitUnlisted f ty) s = .next t ∧
      t.mgmt = s.mgmt ++ [r] ∧ r.kind = 0x19 ∧ t.parts = s.parts ∧ t.mem = s.mem) ∧
    (∀ pkg a b p, s.ports[f.port.val]? = some p → p.up = true → ∃ t, exec (.capability f pkg a b) s = .next t ∧
      t.ports = s.ports.set f.port.val { p with peer := pkg, stook := a, master := b }) ∧
    (∀ x : BitVec 56, Config.timeMaster = false → s.timePorts.head? = some f.port.val → ∃ t, exec (.time f x) s = .next t ∧
      t.timeHad = true ∧ t.parts = s.parts ∧ t.mem = s.mem ∧ (s.parts ≠ [] →
        let due := x.toNat + Config.linkDelay f.port.val
        t.timeSlow = (if due ≤ s.time.toNat then min 6 (s.time.toNat - due) else 0) ∧ (due ≤ s.time.toNat → t.time = s.time)) ∧
      (s.parts = [] → t.time = BitVec.ofNat 56 (max s.time.toNat (x.toNat + Config.linkDelay f.port.val))) ∧
      (s.parts ≠ [] → s.time.toNat + 6 < 2 ^ 56 → s.time.toNat ≤ t.time.toNat ∧ t.time.toNat ≤ s.time.toNat + 6))) ∧
  (∀ (s : State) (ns : Nat), s.due = false → s.time.toNat + ns < 2 ^ 56 → s.boundary < 2 ^ 56 →
    let held := min ns s.timeSlow
    (s.pass ns).time.toNat = min (s.time.toNat + (ns - held)) s.boundary ∧ (s.pass ns).timeSlow = s.timeSlow - held)

/-- R368, R369, R371, R376, R384: a port that trains is up with its eight lanes and its ready bit, and sends CAPABILITY (0x20); one that goes
down, or is left with fewer than four lanes, loses its ready bit, posts LINK DOWN (kind 0x31), and gives up the requests that it
carried; a stream moves to the port that now carries its package once nothing of it is outstanding, and keeps its count; while it
drains nothing is sent on it.
The record's fields are the model's reading (DEDUCED, log 64). -/
def Obligations.Links : Prop :=
  (∀ (s : State) (n : Fin 12) (peer : BitVec 16) (p : Port), s.ports[n.val]? = some p → ∃ t, exec (.linkTrained n peer) s = .next t ∧
    t.ports = s.ports.set n.val { p with up := true, lanes := 8, peer := peer } ∧
    t.ready0 = s.ready0 ||| BitVec.ofNat 64 (2 ^ (29 + n.val)) ∧ t.packageId = Config.packageId ∧ t.outbox = s.outbox ++
      [⟨1, 0x20, n.val, flitBytes none 0 0 0 (Config.credits n.val s.outbox.length) ⟨0x20, false, false, 0,
        bytesOf 2 Config.packageId.toNat ++ [if Config.timeMaster then 3 else 1]⟩⟩]) ∧
  (∀ (s : State) (n : Fin 12) (p : Port) (i : Instr) (k : Nat), s.ports[n.val]? = some p → p.up = true →
    (i = .linkDown n ∧ k = p.lanes ∨ i = .laneFails n ∧ k = p.lanes - 1 ∧ k < 4) → s.requestsOn n.val = [] →
    ∃ t r, exec i s = .next t ∧ t.ports = s.ports.set n.val { p with up := false, lanes := k } ∧ t.mem = s.mem ∧
      t.ready0 = s.ready0 &&& ~~~(BitVec.ofNat 64 (2 ^ (29 + n.val))) ∧ t.mgmt = s.mgmt ++ [r] ∧ r.kind = 0x31 ∧ r.stamp = s.nextStamp) ∧
  (∀ (s : State) (n : Fin 12) (p : Port) (r : Request), s.ports[n.val]? = some p → p.up = true → s.requestsOn n.val = [r] →
    s.requests = [r] → (∃ c, r.agent = .write c) → s.mem.wf = true →
    ∃ t, exec (.linkDown n) s = .next t ∧ t.requests = [] ∧ ∀ a, a ∉ r.addrs → t.mem.get a = s.mem.get a) ∧
  (∀ (s : State) (n : Fin 12) (p : Port), s.ports[n.val]? = some p → 5 ≤ p.lanes →
    exec (.laneFails n) s = .next { s with ports := s.ports.set n.val { p with lanes := p.lanes - 1 } }) ∧
  (∀ (s : State) (part : Fin 96) (pkg : BitVec 16) (x : Stream) (k : Nat), s.outStream part.val pkg.toNat = some x →
    s.portFor pkg.toNat = some k →
    (x.port = k ∨ s.streamBusy x = true → exec (.streamMove part pkg) s = .next s) ∧
    (x.port ≠ k → s.streamBusy x = false → s.replies = [] → ∃ t, exec (.streamMove part pkg) s = .next t ∧ t.mem = s.mem ∧
      t.outStream part.val pkg.toNat = some { x with port := k }) ∧
    (x.port ≠ k → (∀ p, s.part part.val = some p → p.isSealed = true → x.key ≠ none) → s.reach part.val pkg.toNat = .wait))

/-! ## The machine as a whole (spec/02_encoding.md, spec/04_threads_containment.md, spec/08_core.md, spec/17_package.md) -/

/-- R34, R62 and the encoding rules: an encoded well-formed instruction or hint word decodes to itself and fits in 32 bits; a word
that decodes to an instruction is the one that the encoder writes for it, and what it decodes to is well formed. So no bit of a
word is dropped, and no two instructions share a word. -/
def Obligations.EncodeDecodeRoundTrip : Prop :=
  (∀ (i : Instr) (w : Nat), i.wellFormed = true → encode i = some w → w < 2 ^ 32 ∧ decodeWord w = some i) ∧
  (∀ (w : Nat) (i : Instr), w < 2 ^ 32 → decodeWord w = some i → i.wellFormed = true ∧ encode i = some w)

/-- Words that the spec writes out beside their instructions, and words that it calls reserved: a word of every encoding format
decodes to its instruction, with its operands. -/
def Obligations.DecodedWords : Prop :=
  decodeWord 0x0000C0F5 = some (.iadd ⟨.always, false, 3, .v 1, .imm 5⟩) ∧
  decodeWord 0x6F223044 = some (.ffma ⟨.off 1, false, true, false, 8, .b 0, .s 4⟩) ∧
  decodeWord 0x54060A03 = some (.shri ⟨.always, false, 6, .v 5, 3⟩) ∧
  decodeWord 0x2000C405 = some (.clz ⟨.always, false, 3, .v 8⟩) ∧
  decodeWord 0x28024184 = some (.sel ⟨⟨false, 0⟩, false, 9, .v 3, .v 4⟩) ∧
  decodeWord 0x38016223 = some (.sshr ⟨5, .s 4, 3⟩) ∧
  decodeWord 0x90280174 = some (.icmp ⟨.always, 1, .lt, .set, false, .v 2, .imm 4⟩) ∧
  decodeWord 0x94280103 = some (.fcmp ⟨.always, 1, .lt, .set, false, false, .v 2, .v 3⟩) ∧
  decodeWord 0x98380000 = some (.plog ⟨.always, 1, .copy, .set, ⟨false, 0⟩, ⟨false, 0⟩⟩) ∧
  decodeWord 0xA07FFFFD = some (.bra ⟨.always, BitVec.ofInt 23 (-3)⟩) ∧
  decodeWord 0xB007FFFD = some (.dbnz ⟨.always, 7, BitVec.ofInt 16 (-3)⟩) ∧
  decodeWord 0xB401001D = some (.trap ⟨.always, .v 3, 5⟩) ∧
  decodeWord 0xC0420302 = some (.ld ⟨.always, .w32, 8, 3, 1⟩) ∧
  decodeWord 0xC84147E0 = some (.lda ⟨.always, .cluster, 5, 7, 112⟩) ∧
  decodeWord 0xD4120602 = some (.atomx ⟨.always, .cas, 8, 6, 1⟩) ∧
  decodeWord 0xD8520502 = some (.pld ⟨.always, true, 1, 8, 5, 1⟩) ∧
  decodeWord 0xDC00301A = some (.vnarrow ⟨12, 3, 2⟩) ∧
  decodeWord 0xE0062640 = some (.hbind ⟨9, 8⟩) ∧
  decodeWord 0xE4004051 = some (.mma ⟨0, 4, 5, .p1, false, true⟩) ∧
  decodeWord 0xF8026055 = some (.qspawn ⟨24, 10, some 1⟩) ∧
  decodeWord 0xFD120000 = some (.hord ⟨.acq, .cluster, true⟩) ∧
  decodeWord 0xA8000280 = some (.jmpr ⟨.always, .v 5⟩) ∧
  decodeWord 0xAC270000 = some (.mbr ⟨1, ⟨false, 1⟩, ⟨true, 2⟩, ⟨false, 0⟩, ⟨false, 0⟩⟩) ∧
  decodeWord 0xF0020A3D = some (.tilein ⟨1, 5, 7, 2, true⟩) ∧
  decodeWord 0x00000068 = none

/-- R56, R90 to R92, R170, R314: a step with a group's broadcast path to come executes, for the ready lanes at the broadcast PC, the
instruction that the held words at that PC decode to, its hint words read before it; what it wrote is no longer poisoned; the step's end
adds 1 ns of package time and the energy (DESIGN CHOICE, log 4, log 7). A diverged lane executes alone what the words at its own PC decode to, and keeps the lines it read in its
loop buffer. An event runs as its own meaning. With nothing to come the group or the lane that is due executes in the same way, in the
model's order of moves (DESIGN CHOICE, log 2). -/
def Obligations.StepRunsDecoded : Prop :=
  let after := Res.map State.afterStep
  let runs := fun (hs : List Instr) (i : Instr) (core gi : Nat) (lanes : List Nat) (x : Group) (s : State) =>
    Res.map (fun t => t.rewritten i core gi lanes x)
      (Res.andThen (hs.foldl (fun (r : Res) h => Res.andThen r (exec h)) (.next s)) (exec i))
  (∀ (s : State) (core gi : Nat) (ts : List Turn) (t : Team) (g : Group) (w : Word) (i : Instr), s.turns = .unit core gi :: ts →
    s.team core = some t → t.groups[gi]? = some g → g.refreshBroadcast = g → s.runs core = true → t.stopped = false →
    g.open_ s.progress = true → g.mustMove = false → s.barred core t gi g = false → g.standing ≠ [] → (∀ n ∈ g.standing, (g.lane n).free s.progress = true ∧ (g.lane n).pending = []) → g.place.bank = false →
    g.place.pc.toNat < 16 * recCodeLen (s.recordOf t) →
    wordAt (s.core core).fetch (recCode (s.recordOf t) + 4 * g.place.pc.toNat) = some w →
    w.toNat / 2 ^ 26 ≠ 0x3F → decodeWord w.toNat = some i →
    step s = after (runs [] i core gi g.standing { g with wait := .none }
      (({ s with turns := ts } : State).take core gi g.standing g.place 1 false))) ∧
  (∀ (s : State) (core gi : Nat) (ts : List Turn) (u : CodeUnit) (lanes : List Nat) (hs : List Instr) (i : Instr) (x : Group),
    s.turns = .unit core gi :: ts → s.front core gi = .issue u lanes → u.hints = hs.map some → u.main = some i →
    let s1 := ({ s with turns := ts } : State).take core gi lanes (s.frontPlace core gi) u.words false
    s1.group core gi = some x → step s = after (runs hs i core gi lanes x s1)) ∧
  (∀ (s : State) (core gi n : Nat) (ts : List Turn) (g x : Group) (u : CodeUnit) (hs : List Instr) (i : Instr),
    s.turns = .lane core gi n :: ts → s.group core gi = some g → s.alone core gi n = .issue u → u.hints = hs.map some →
    u.main = some i →
    let s1 := (({ s with turns := ts } : State).modLane core gi n fun l =>
      l.looped (s.core core).fetch (s.laneVa core l) u.words).take core gi [n] (g.lane n).place u.words true
    s1.group core gi = some x → step s = after (runs hs i core gi [n] x s1)) ∧
  (∀ (t : Team) (r : LaunchBytes) (ls : List CodeLine) (pc : Word) (lanes : List Lane) (w x : Word) (h : Instr),
    pc.toNat + 1 < 16 * recCodeLen r → wordAt ls (recCode r + 4 * pc.toNat) = some w →
    wordAt ls (recCode r + 4 * (pc.toNat + 1)) = some x → w.toNat / 2 ^ 26 = 0x3F → decodeWord w.toNat = some h →
    x.toNat / 2 ^ 26 ≠ 0x3F → fetchAt t r ls ⟨false, pc⟩ lanes = .unit ⟨[some h], decodeWord x.toNat, 2⟩) ∧
  (∀ (s : State) (e : Instr) (ts : List Turn), s.turns = .event e :: ts → encode e = none →
    step s = after (exec e { s with turns := ts })) ∧
  (∀ (s : State) (turn : Turn), s.turns = [] → s.due = false → s.flip = false → s.unitMove = some turn →
    step s = Res.map (fun s => { s with flip := !s.flip }) (step { s with turns := [turn] }))

/-- R349, R366: right after reset every ready bit is 0, the measurement registers are zero, no partition exists and no thread is on a
core. Memory lists no byte and is in canonical form, and no unit is in hand; the values of the other registers are the model's
(DESIGN CHOICE, log 1, log 6). -/
def Obligations.ResetValues : Prop :=
  State.reset.ready0 = 0 ∧ State.reset.ready1 = 0 ∧ State.reset.ready2 = 0 ∧ (∀ k : Fin 16, State.reset.measures[k] = 0) ∧
  State.reset.parts = [] ∧ (∀ core, State.reset.team core = none) ∧ (∀ p ∈ State.reset.ports, p.up = false) ∧
  State.reset.mem = [] ∧ State.reset.tags = [] ∧ State.reset.poison = [] ∧ State.reset.time = 0 ∧ State.reset.Inv

/-- Every step of the machine, whatever it moves, keeps memory in canonical form and leaves no unit in hand. The canonical form, by
which an unlisted byte reads 0, is the model's (DESIGN CHOICE, log 1). -/
def Obligations.InvariantKept : Prop := ∀ s t : State, s.Inv → step s = .next t → t.Inv

/-- R109, R317: no word, no event and no ordinary data stops the machine: a condition halts a group or ends a candidate, and every step
from every state answers a next state, neither a fault nor a refusal of the model.
A step with no turn to take makes the default move (DESIGN CHOICE, log 2). -/
def Obligations.StepGoesOn : Prop := ∀ s : State, ∃ t, step s = .next t

/-- R55, R70, R95, R106, R107, R109, R116, R138, R177, R187, R314: the checks of a unit before it executes, in their order, and what fails
where. A lane whose guard is false reads no latch, no coordinate run and no poisoned register, so none of these fails it. A contained lane
that fails leaves containment with its outcome; a lane in ordinary state stands at the unit unchanged, UNBOUND set for a latch
violation, and the group halts with one record: the kind of its lowest failing lane, and all its failing lanes. A unit that needs full
convergence without it halts its group with kind 0x08, and one that another role must issue with kind 0x0B.
Which lane gives the record its kind, that one lane's decode check stops all, and that what the word itself is, its class and the
registers that its fields name, is checked whatever the guard, are the model's readings (DEDUCED, log 19, log 74, log 84); DETAIL 63 for a
poisoned register is the model's (DESIGN CHOICE, log 109). -/
def Obligations.UnitConditions : Prop :=
  (∀ (l : Lane) (i : Instr) (c : Ctx),
    (l.inside = none → l.begin_ i c = (l, precheck i c l)) ∧
    (∀ k, l.inside = some k → (l.pc.toNat < k.entry ∨ k.limit < l.pc.toNat + c.words) → l.begin_ i c = (l, some .codeBounds)) ∧
    (∀ k, l.inside = some k → k.entry ≤ l.pc.toNat → l.pc.toNat + c.words ≤ k.limit →
      (l.fuel.toNat < c.words → l.begin_ i c = (l, some .fuel)) ∧
      (c.words ≤ l.fuel.toNat → ∃ y, l.begin_ i c = (y, precheck i c y) ∧ y.fuel.toNat = l.fuel.toNat - c.words ∧
        y.inside = some { k with count := k.count + c.words } ∧ y.v = l.v ∧ y.p = l.p ∧ y.pc = l.pc ∧ y.latches = l.latches))) ∧
  (∀ (l : Lane) (i : Instr) (c : Ctx), hintsOk i c.hints = true → readlOk i c.g.width = true →
    let on := i.readsIn l
    let run := if on then (c.run i).getD [] else []
    let vs := i.fields ++ (run.map Src.vs).flatten
    let depth := if on then (run.map Src.latch).foldr max i.shape.latch else 0
    let room := if l.inside.isSome then 32 else c.g.nregs
    precheck i c l =
      if l.inside.isNone ∧ ∃ v ∈ vs, room ≤ v then some .illegal
      else if l.inside.isSome ∧ (i.forbidden = true ∨ hintsForbidden c.hints = true) then some .forbidden
      else if (∃ v ∈ vs, room ≤ v) ∨ (on = true ∧ c.run i = none) then some .illegal
      else if 0 < depth ∧ (l.latches.length < depth ∨ l.chain = 0 ∨ 8 ≤ l.chain) then some .latch
      else if on = true ∧ ∃ v ∈ i.reads ++ (run.map Src.vs).flatten, l.phys (Fin.ofNat 64 v) ∈ l.bad then some (.dataError 63)
      else none) ∧
  (∀ (l : Lane) (i : Instr) (c : Ctx), (hintsOk i c.hints = false ∨ readlOk i c.g.width = false) → precheck i c l = some .illegal) ∧
  (∀ (s : State) (c : Ctx) (i : Instr), Issuing s c → i.actsOnLanes = true →
    let first := fun n => ({ c.g.lane n with wait := .none } : Lane).begin_ i c
    let bad := c.lanes.filter fun n => (c.g.lane n).inside.isNone && (first n).2.isSome
    ∃ t, exec i s = .next t ∧
      (∀ n ∈ c.lanes, ∀ l e, c.g.lanes[n]? = some l → (first n).2 = some e →
        (l.inside.isSome = true → c.laneIn t n = some ((first n).1.deliver e.outcome)) ∧
        (l.inside = none → c.laneIn t n = some { l with
          wait := .none
          status := if e = .latch then l.status ||| fUNBOUND else l.status })) ∧
      (bad = [] → ∃ g, c.groupIn t = some g ∧ g.halts = c.g.halts) ∧
      ∀ n ns, bad = n :: ns → ∃ e g h, (first n).2 = some e ∧ c.groupIn t = some g ∧ g.halts = c.g.halts ++ [h] ∧
        h.record.kind = e.kind ∧ h.record.detail = BitVec.ofNat 32 e.detail ∧ h.record.pc = c.place.pc ∧
        h.record.lanes = maskOf bad ∧ h.atUnit = maskOf bad ∧ h.after = false) ∧
  (∀ (s : State) (c : Ctx) (i : Instr), Issuing s c → c.lanes ≠ [] →
    (∀ n ∈ c.lanes, (({ c.g.lane n with wait := .none } : Lane).begin_ i c).2 = none) →
    (i.needsFull = true → c.full = false → ∃ t, exec i s = .next t ∧ c.HaltsIn t 0x08 0) ∧
    (∀ r, i.needsFull = true → c.full = true → i.role = some r → r ≠ c.g.role → ∃ t, exec i s = .next t ∧ c.HaltsIn t 0x0B 0))

/-- R53, R118 to R137, R146 to R167, R214 to R219: the frame. A lane instruction that every lane of its unit executes, and that neither
ends nor triggers its group, goes on and changes nothing but its own lanes: no byte of memory, no other lane, group, core or
partition, no scalar, view, handle, mapped region, queue, accumulator or register of the machine. A scalar instruction changes nothing
but its group's scalars and its lanes' PCs and latch chains. What becomes of a lane itself the statements of each instruction say. -/
def Obligations.LaneAndScalarFrame : Prop :=
  (∀ (s : State) (c : Ctx) (i : Instr), Issuing s c → c.Calm → c.lanes ≠ [] → (∀ n ∈ c.lanes, ∃ l, Executes s c i n l) →
    i.actsOnLanes = true →
    ∃ t, exec i s = .next t ∧ Leaves c s t ∧ LeavesMemory s t ∧ LeavesTeam c s t ∧ LeavesScalars c t) ∧
  (∀ (s : State) (c : Ctx) (i : Instr), ExecutesCalm s c i → i.actsOnScalars = true →
    ∃ t, exec i s = .next t ∧ Leaves c s t ∧ LeavesMemory s t ∧ LeavesTeam c s t ∧
      ∀ g, c.groupIn t = some g → g.cmask = c.g.cmask ∧
        ∀ n ∈ c.lanes, ∀ l, c.g.lanes[n]? = some l → ∃ z, c.laneIn t n = some z ∧ z.v = l.v ∧ z.p = l.p ∧ z.status = l.status)
end

