-- ==== Sys2Proof/Laws/Lists.lean ====
section
/-!
SUPPORT. The small laws of the list operations of Machine/Bits.lean.
-/
namespace Sys2Proof

theorem nth_eq {α : Type} (d : α) (l : List α) (i : Nat) : nth d l i = l[i]?.getD d := by
  induction l generalizing i with
  | nil => simp [nth]
  | cons x xs ih => cases i <;> simp [nth, ih]

theorem getElem?_modifyNth {α : Type} (f : α → α) (l : List α) (i j : Nat) :
    (modifyNth f i l)[j]? = if i = j then l[j]?.map f else l[j]? := by
  induction l generalizing i j with
  | nil => simp [modifyNth]
  | cons x xs ih => cases i <;> cases j <;> simp [modifyNth, ih]

@[simp] theorem getElem?_modifyNth_same {α : Type} (f : α → α) (l : List α) (i : Nat) :
    (modifyNth f i l)[i]? = l[i]?.map f := by simp [getElem?_modifyNth]

theorem modifyNth_none {α : Type} (f : α → α) (l : List α) (i : Nat) (h : l[i]? = none) : modifyNth f i l = l := by
  apply List.ext_getElem?
  intro j
  rw [getElem?_modifyNth]
  split
  · subst_vars; simp [h]
  · rfl

@[simp] theorem length_modifyNth {α : Type} (f : α → α) (l : List α) (i : Nat) :
    (modifyNth f i l).length = l.length := by
  induction l generalizing i with
  | nil => simp [modifyNth]
  | cons x xs ih => cases i <;> simp [modifyNth, ih]

theorem mem_modifyNth {α : Type} {f : α → α} {l : List α} {i : Nat} {x : α} (h : x ∈ modifyNth f i l) :
    x ∈ l ∨ ∃ y, l[i]? = some y ∧ x = f y := by
  obtain ⟨j, hj⟩ := List.mem_iff_getElem?.1 h
  rw [getElem?_modifyNth] at hj
  split at hj
  · rename_i hij
    rw [← hij] at hj
    obtain ⟨y, h1, h2⟩ := Option.map_eq_some_iff.1 hj
    exact .inr ⟨y, h1, h2.symm⟩
  · exact .inl (List.mem_iff_getElem?.2 ⟨j, hj⟩)

theorem getElem?_mapFrom {α β : Type} (f : Nat → α → β) (l : List α) (k j : Nat) :
    (mapFrom f k l)[j]? = l[j]?.map (f (k + j)) := by
  induction l generalizing k j with
  | nil => simp [mapFrom]
  | cons x xs ih =>
    cases j with
    | zero => simp [mapFrom]
    | succ j => simp [mapFrom, ih, Nat.add_assoc, Nat.add_comm 1 j]

@[simp] theorem getElem?_mapFrom_zero {α β : Type} (f : Nat → α → β) (l : List α) (j : Nat) :
    (mapFrom f 0 l)[j]? = l[j]?.map (f j) := by simp [getElem?_mapFrom]

@[simp] theorem length_mapFrom {α β : Type} (f : Nat → α → β) (l : List α) (k : Nat) :
    (mapFrom f k l).length = l.length := by
  induction l generalizing k with
  | nil => simp [mapFrom]
  | cons x xs ih => simp [mapFrom, ih]

theorem mem_placesFrom {α : Type} (p : Nat → α → Bool) (l : List α) (k j : Nat) :
    j ∈ placesFrom p k l ↔ ∃ i x, l[i]? = some x ∧ j = k + i ∧ p j x = true := by
  induction l generalizing k with
  | nil => simp [placesFrom]
  | cons y ys ih =>
    simp only [placesFrom]
    have tail : (∃ i x, ys[i]? = some x ∧ j = k + 1 + i ∧ p j x = true) ↔
        ∃ i x, (y :: ys)[i + 1]? = some x ∧ j = k + (i + 1) ∧ p j x = true := by
      simp [Nat.add_assoc, Nat.add_comm 1]
    split <;> rename_i hp
    · simp only [List.mem_cons, ih, tail]
      constructor
      · rintro (rfl | ⟨i, x, h⟩)
        · exact ⟨0, y, by simp [hp]⟩
        · exact ⟨i + 1, x, h⟩
      · rintro ⟨i, x, h⟩
        cases i with
        | zero => exact .inl (by simpa using h.2.1)
        | succ i => exact .inr ⟨i, x, h⟩
    · rw [ih, tail]
      constructor
      · rintro ⟨i, x, h⟩; exact ⟨i + 1, x, h⟩
      · rintro ⟨i, x, h⟩
        cases i with
        | zero =>
          obtain ⟨h1, h2, h3⟩ := h
          simp only [List.getElem?_cons_zero, Option.some.injEq, Nat.add_zero] at h1 h2
          subst h1 h2; exact absurd h3 hp
        | succ i => exact ⟨i, x, h⟩

@[simp] theorem length_upFrom (a n : Nat) : (upFrom a n).length = n := by
  induction n generalizing a with
  | zero => rfl
  | succ n ih => simp [upFrom, ih]

@[simp] theorem mem_upFrom (a n k : Nat) : k ∈ upFrom a n ↔ a ≤ k ∧ k < a + n := by
  induction n generalizing a with
  | zero => simp [upFrom]
  | succ n ih => simp [upFrom, ih]; omega

@[simp] theorem length_bytesOf (n x : Nat) : (bytesOf n x).length = n := by
  induction n generalizing x with
  | zero => rfl
  | succ n ih => simp [bytesOf, ih]

/-- Bytes written little-endian read back as the number modulo the width. -/
theorem ofBytes_bytesOf (n x : Nat) : ofBytes (bytesOf n x) = x % 256 ^ n := by
  induction n generalizing x with
  | zero => simp [bytesOf, ofBytes, Nat.mod_one]
  | succ n ih =>
    have h : (BitVec.ofNat 8 x).toNat = x % 256 := by simp
    simp only [bytesOf, ofBytes, ih]
    rw [h, Nat.pow_succ', Nat.mod_mul]

end Sys2Proof
end

