-- ==== Sys2Proof/Laws/Memory.lean ====
section
/-!
SUPPORT. The laws of memory: every operation keeps the canonical form, a read after a write gives what was written, and a
write leaves every other address alone.
-/
namespace Sys2Proof.Machine

/-! ## The canonical form -/

/-- The form said of a list as a whole: rising addresses, no byte zero. -/
theorem Memory.wf_iff (m : Memory) :
    m.wf = true ↔ (m.map Prod.fst).Pairwise (· < ·) ∧ ∀ c ∈ m, c.2 ≠ 0 := by
  match m with
  | [] => simp [Memory.wf]
  | [(a, b)] => simp [Memory.wf]
  | (a, b) :: (a', b') :: m =>
    have ih := Memory.wf_iff ((a', b') :: m)
    simp only [Memory.wf, Bool.and_eq_true, bne_iff_ne, decide_eq_true_eq, ih]
    constructor
    · rintro ⟨⟨h1, h2⟩, h3, h4⟩
      refine ⟨?_, ?_⟩
      · simp only [List.map_cons, List.pairwise_cons] at h3 ⊢
        refine ⟨?_, h3⟩
        intro x hx
        rcases List.mem_cons.1 hx with rfl | hx
        · exact h2
        · exact Nat.lt_trans h2 (h3.1 x hx)
      · intro c hc
        rcases List.mem_cons.1 hc with rfl | hc
        · exact h1
        · exact h4 c hc
    · rintro ⟨h1, h2⟩
      simp only [List.map_cons, List.pairwise_cons] at h1 ⊢
      exact ⟨⟨h2 (a, b) (by simp), h1.1 a' (by simp)⟩, h1.2, fun c hc => h2 c (List.mem_cons_of_mem _ hc)⟩

theorem Memory.wf_filter (m : Memory) (p : Host.Cell → Bool) (h : m.wf = true) : Memory.wf (m.filter p) = true := by
  rw [Memory.wf_iff] at h ⊢
  refine ⟨?_, fun c hc => h.2 c (List.mem_of_mem_filter hc)⟩
  rw [List.pairwise_map] at h ⊢
  exact h.1.filter p

/-- Zeroing a range keeps the form. -/
theorem Memory.wf_zero (m : Memory) (a n : Nat) (h : m.wf = true) : (m.zero a n).wf = true := Memory.wf_filter _ _ h

theorem listed_spec (a : Nat) (bs : List Byte) :
    ((listed a bs).map Prod.fst).Pairwise (· < ·) ∧ (∀ c ∈ listed a bs, c.2 ≠ 0 ∧ a ≤ c.1 ∧ c.1 < a + bs.length) := by
  induction bs generalizing a with
  | nil => simp [listed]
  | cons b bs ih =>
    obtain ⟨h1, h2⟩ := ih (a + 1)
    simp only [listed, List.length_cons]
    split <;> rename_i hb
    · refine ⟨h1, fun c hc => ?_⟩
      have := h2 c hc
      exact ⟨this.1, by omega, by omega⟩
    · refine ⟨?_, ?_⟩
      · simp only [List.map_cons, List.pairwise_cons]
        refine ⟨?_, h1⟩
        intro x hx
        obtain ⟨c, hc, rfl⟩ := List.mem_map.1 hx
        have := h2 c hc
        omega
      · intro c hc
        rcases List.mem_cons.1 hc with rfl | hc
        · exact ⟨by simpa using hb, by simp, by simp⟩
        · have := h2 c hc
          exact ⟨this.1, by omega, by omega⟩

/-- Writing bytes keeps the form. -/
theorem Memory.wf_putAll (m : Memory) (a : Nat) (bs : List Byte) (h : m.wf = true) : (m.putAll a bs).wf = true := by
  rw [Memory.wf_iff] at h ⊢
  obtain ⟨l1, l2⟩ := listed_spec a bs
  have hp := List.pairwise_map.1 h.1
  constructor
  · simp only [Memory.putAll, List.map_append, List.pairwise_append]
    refine ⟨⟨?_, l1, ?_⟩, ?_, ?_⟩
    · exact List.pairwise_map.2 (hp.filter _)
    · simp only [List.mem_map, List.mem_filter, decide_eq_true_eq]
      rintro x ⟨c, ⟨_, hc⟩, rfl⟩ y ⟨d, hd, rfl⟩
      have := l2 d hd
      omega
    · exact List.pairwise_map.2 (hp.filter _)
    · simp only [List.mem_append, List.mem_map, List.mem_filter, decide_eq_true_eq]
      rintro x (⟨c, ⟨_, hc⟩, rfl⟩ | ⟨c, hc, rfl⟩) y ⟨d, ⟨_, hd⟩, rfl⟩
      · omega
      · have := l2 c hc
        omega
  · simp only [Memory.putAll, List.mem_append, List.mem_filter]
    rintro c ((⟨hc, _⟩ | hc) | ⟨hc, _⟩)
    · exact h.2 c hc
    · exact (l2 c hc).1
    · exact h.2 c hc

/-- Writing one byte keeps the form. -/
theorem Memory.wf_put (m : Memory) (a : Nat) (b : Byte) (h : m.wf = true) : (m.put a b).wf = true := by
  rw [Memory.wf_iff] at h ⊢
  induction m with
  | nil =>
    simp only [Memory.put]
    split <;> simp_all
  | cons c m ih =>
    obtain ⟨x, y⟩ := c
    obtain ⟨h1, h2⟩ := h
    simp only [List.map_cons, List.pairwise_cons] at h1
    have h3 : ∀ d ∈ m, x < d.1 := fun d hd => h1.1 _ (List.mem_map_of_mem hd)
    have h4 : ∀ d ∈ m, d.2 ≠ 0 := fun d hd => h2 d (List.mem_cons_of_mem _ hd)
    simp only [Memory.put]
    split
    · split
      · exact ⟨by simpa using h1, h2⟩
      · refine ⟨?_, ?_⟩
        · simp only [List.map_cons, List.pairwise_cons, List.mem_cons]
          refine ⟨?_, h1⟩
          rintro z (rfl | hz)
          · assumption
          · have := h1.1 z hz; omega
        · intro d hd
          rcases List.mem_cons.1 hd with rfl | hd
          · rename_i hb; simpa using hb
          · exact h2 d hd
    · split
      · rename_i hax
        have hax : a = x := by simpa using hax
        subst hax
        split
        · exact ⟨h1.2, h4⟩
        · refine ⟨by simpa using h1, ?_⟩
          intro d hd
          rcases List.mem_cons.1 hd with rfl | hd
          · rename_i hb; simpa using hb
          · exact h4 d hd
      · rename_i hlt hne
        have hne : a ≠ x := by simpa using hne
        obtain ⟨i1, i2⟩ := ih ⟨h1.2, h4⟩
        refine ⟨?_, ?_⟩
        · simp only [List.map_cons, List.pairwise_cons]
          refine ⟨?_, i1⟩
          have hput : ∀ (m : Memory) (z : Nat), z ∈ (m.put a b).map Prod.fst → z = a ∨ z ∈ m.map Prod.fst := by
            intro m
            induction m with
            | nil => intro z; simp only [Memory.put]; split <;> simp
            | cons e m ihm =>
              obtain ⟨p, q⟩ := e
              intro z
              simp only [Memory.put]
              split
              · split <;> simp <;> tauto
              · split
                · split <;> simp_all
                · simp only [List.map_cons, List.mem_cons]
                  rintro (h | h)
                  · exact .inr (.inl h)
                  · rcases ihm z h with h | h
                    · exact .inl h
                    · exact .inr (.inr h)
          intro z hz
          rcases hput m z hz with rfl | hz
          · omega
          · exact h1.1 z hz
        · intro d hd
          rcases List.mem_cons.1 hd with rfl | hd
          · exact h2 _ (by simp)
          · exact i2 d hd

/-- The memory after reset has the form. -/
theorem State.reset_mem_wf : State.reset.mem.wf = true := rfl

/-! ## Reads after writes -/

theorem Memory.get_of_lt (m : Memory) (a : Nat) (h : ∀ c ∈ m, a < c.1) : m.get a = 0 := by
  cases m with
  | nil => rfl
  | cons c m =>
    obtain ⟨x, y⟩ := c
    have h0 := h (x, y) (by simp)
    have hne : (x == a) = false := by simpa using Nat.ne_of_gt h0
    simp [Memory.get, hne, h0]

/-- Reading in a canonical memory looks the address up. -/
theorem Memory.get_eq_find (m : Memory) (a : Nat) (h : (m.map Prod.fst).Pairwise (· < ·)) :
    m.get a = ((m.find? fun c => c.1 == a).map (·.2)).getD 0 := by
  induction m with
  | nil => rfl
  | cons c m ih =>
    obtain ⟨x, y⟩ := c
    simp only [List.map_cons, List.pairwise_cons] at h
    simp only [Memory.get, List.find?_cons]
    split
    · simp_all
    · rename_i hx
      simp only [Bool.not_eq_true] at hx
      simp only [hx]
      split
      · rename_i hlt
        have hn : m.find? (fun c => c.1 == a) = none := by
          rw [List.find?_eq_none]
          intro c hc
          have := h.1 c.1 (List.mem_map_of_mem hc)
          simp; omega
        rw [hn]
        simp
      · exact ih h.2

theorem listed_find (a : Nat) (bs : List Byte) (i : Nat) :
    (((listed a bs).find? fun c => c.1 == a + i).map (·.2)).getD 0 = bs[i]?.getD 0 := by
  induction bs generalizing a i with
  | nil => simp [listed]
  | cons b bs ih =>
    simp only [listed]
    cases i with
    | zero =>
      split <;> rename_i hb
      · have hn : (listed (a + 1) bs).find? (fun c => c.1 == a + 0) = none := by
          rw [List.find?_eq_none]
          intro c hc
          have := (listed_spec (a + 1) bs).2 c hc
          simp; omega
        rw [hn]
        simp_all
      · simp
    | succ i =>
      have hi := ih (a + 1) i
      have e : a + (i + 1) = a + 1 + i := by omega
      split
      · rw [e, hi]; simp
      · have : ((a == a + (i + 1)) = false) := by simp
        simp only [List.find?_cons, this]
        rw [e, hi]; simp

/-- A read after a write of bytes: those bytes within the write, the old ones outside. -/
theorem Memory.get_putAll (m : Memory) (a : Nat) (bs : List Byte) (x : Nat) (h : m.wf = true) :
    (m.putAll a bs).get x = if a ≤ x ∧ x < a + bs.length then bs[x - a]?.getD 0 else m.get x := by
  have hw := (Memory.wf_iff _).1 (Memory.wf_putAll m a bs h)
  have hm := (Memory.wf_iff _).1 h
  rw [Memory.get_eq_find _ _ hw.1, Memory.get_eq_find _ _ hm.1]
  simp only [Memory.putAll, List.find?_append]
  have fnone : ∀ (p : Host.Cell → Bool), (∀ c : Host.Cell, c.1 = x → p c = false) →
      (m.filter p).find? (fun c => c.1 == x) = none := by
    intro p hp
    rw [List.find?_eq_none]
    intro c hc hcx
    have := hp c (by simpa using hcx)
    have := (List.mem_filter.1 hc).2
    simp_all
  have fsome : ∀ (p : Host.Cell → Bool), (∀ c : Host.Cell, c.1 = x → p c = true) →
      (m.filter p).find? (fun c => c.1 == x) = m.find? (fun c => c.1 == x) := by
    intro p hp
    rw [List.find?_filter]
    congr 1
    funext c
    by_cases hc : c.1 = x
    · simp [hc, hp c hc]
    · simp [hc]
  have lnone : ¬ (a ≤ x ∧ x < a + bs.length) → (listed a bs).find? (fun c => c.1 == x) = none := by
    intro hx
    rw [List.find?_eq_none]
    intro c hc
    have := (listed_spec a bs).2 c hc
    simp; omega
  split
  · rename_i hx
    rw [fnone _ (by intro c hc; simp; omega), fnone _ (by intro c hc; simp; omega)]
    obtain ⟨i, rfl⟩ := Nat.exists_eq_add_of_le hx.1
    simp only [Option.none_or, Option.or_none, Nat.add_sub_cancel_left]
    exact listed_find a bs i
  · rename_i hx
    rw [lnone hx]
    by_cases hlt : x < a
    · rw [fsome _ (by intro c hc; simp; omega), fnone _ (by intro c hc; simp; omega)]
      simp
    · rw [fnone _ (by intro c hc; simp; omega), fsome _ (by intro c hc; simp; omega)]
      simp

/-- Zeroed bytes read 0 and the others as before. -/
theorem Memory.get_zero (m : Memory) (a n x : Nat) (h : m.wf = true) :
    (m.zero a n).get x = if a ≤ x ∧ x < a + n then 0 else m.get x := by
  have hw := (Memory.wf_iff _).1 (Memory.wf_zero m a n h)
  have hm := (Memory.wf_iff _).1 h
  rw [Memory.get_eq_find _ _ hw.1, Memory.get_eq_find _ _ hm.1]
  simp only [Memory.zero]
  split
  · rename_i hx
    have : (m.filter fun c => c.1 < a || a + n ≤ c.1).find? (fun c => c.1 == x) = none := by
      rw [List.find?_eq_none]
      intro c hc hcx
      have h1 := (List.mem_filter.1 hc).2
      have h2 : c.1 = x := by simpa using hcx
      simp at h1; omega
    rw [this]; rfl
  · rename_i hx
    rw [List.find?_filter]
    congr 2
    congr 1
    funext c
    by_cases hc : c.1 = x
    · have : a ≤ x → a + n ≤ x := by omega
      simp [hc]; omega
    · simp [hc]

end Sys2Proof.Machine
end

