-- ==== Sys2Proof/Laws/State.lean ====
section
/-!
SUPPORT. One lemma per field of State per plain update of Machine/Ops.lean, true by rfl.
-/
namespace Sys2Proof.Machine

/-! ## setCore -/

@[simp] theorem State.setCore_cores (s : State) (c : Core) : (s.setCore c).cores = putCore s.cores c := rfl
@[simp] theorem State.setCore_clusters (s : State) (c : Core) : (s.setCore c).clusters = s.clusters := rfl
@[simp] theorem State.setCore_engines (s : State) (c : Core) : (s.setCore c).engines = s.engines := rfl
@[simp] theorem State.setCore_testing (s : State) (c : Core) : (s.setCore c).testing = s.testing := rfl
@[simp] theorem State.setCore_parts (s : State) (c : Core) : (s.setCore c).parts = s.parts := rfl
@[simp] theorem State.setCore_mem (s : State) (c : Core) : (s.setCore c).mem = s.mem := rfl
@[simp] theorem State.setCore_tags (s : State) (c : Core) : (s.setCore c).tags = s.tags := rfl
@[simp] theorem State.setCore_poison (s : State) (c : Core) : (s.setCore c).poison = s.poison := rfl
@[simp] theorem State.setCore_time (s : State) (c : Core) : (s.setCore c).time = s.time := rfl
@[simp] theorem State.setCore_stampNext (s : State) (c : Core) : (s.setCore c).stampNext = s.stampNext := rfl
@[simp] theorem State.setCore_cutDies (s : State) (c : Core) : (s.setCore c).cutDies = s.cutDies := rfl
@[simp] theorem State.setCore_writes (s : State) (c : Core) : (s.setCore c).writes = s.writes := rfl
@[simp] theorem State.setCore_authors (s : State) (c : Core) : (s.setCore c).authors = s.authors := rfl
@[simp] theorem State.setCore_deferred (s : State) (c : Core) : (s.setCore c).deferred = s.deferred := rfl
@[simp] theorem State.setCore_replies (s : State) (c : Core) : (s.setCore c).replies = s.replies := rfl
@[simp] theorem State.setCore_timeHad (s : State) (c : Core) : (s.setCore c).timeHad = s.timeHad := rfl
@[simp] theorem State.setCore_timeOff (s : State) (c : Core) : (s.setCore c).timeOff = s.timeOff := rfl
@[simp] theorem State.setCore_timeSlow (s : State) (c : Core) : (s.setCore c).timeSlow = s.timeSlow := rfl
@[simp] theorem State.setCore_phase (s : State) (c : Core) : (s.setCore c).phase = s.phase := rfl
@[simp] theorem State.setCore_slotLen (s : State) (c : Core) : (s.setCore c).slotLen = s.slotLen := rfl
@[simp] theorem State.setCore_slotEmpty (s : State) (c : Core) : (s.setCore c).slotEmpty = s.slotEmpty := rfl
@[simp] theorem State.setCore_ready0 (s : State) (c : Core) : (s.setCore c).ready0 = s.ready0 := rfl
@[simp] theorem State.setCore_ready1 (s : State) (c : Core) : (s.setCore c).ready1 = s.ready1 := rfl
@[simp] theorem State.setCore_ready2 (s : State) (c : Core) : (s.setCore c).ready2 = s.ready2 := rfl
@[simp] theorem State.setCore_energy (s : State) (c : Core) : (s.setCore c).energy = s.energy := rfl
@[simp] theorem State.setCore_energyHi (s : State) (c : Core) : (s.setCore c).energyHi = s.energyHi := rfl
@[simp] theorem State.setCore_packageId (s : State) (c : Core) : (s.setCore c).packageId = s.packageId := rfl
@[simp] theorem State.setCore_measures (s : State) (c : Core) : (s.setCore c).measures = s.measures := rfl
@[simp] theorem State.setCore_budgets (s : State) (c : Core) : (s.setCore c).budgets = s.budgets := rfl
@[simp] theorem State.setCore_ballast (s : State) (c : Core) : (s.setCore c).ballast = s.ballast := rfl
@[simp] theorem State.setCore_tenants (s : State) (c : Core) : (s.setCore c).tenants = s.tenants := rfl
@[simp] theorem State.setCore_ports (s : State) (c : Core) : (s.setCore c).ports = s.ports := rfl
@[simp] theorem State.setCore_streams (s : State) (c : Core) : (s.setCore c).streams = s.streams := rfl
@[simp] theorem State.setCore_requests (s : State) (c : Core) : (s.setCore c).requests = s.requests := rfl
@[simp] theorem State.setCore_nextTag (s : State) (c : Core) : (s.setCore c).nextTag = s.nextTag := rfl
@[simp] theorem State.setCore_outbox (s : State) (c : Core) : (s.setCore c).outbox = s.outbox := rfl
@[simp] theorem State.setCore_spdm (s : State) (c : Core) : (s.setCore c).spdm = s.spdm := rfl
@[simp] theorem State.setCore_mgmt (s : State) (c : Core) : (s.setCore c).mgmt = s.mgmt := rfl
@[simp] theorem State.setCore_nextFence (s : State) (c : Core) : (s.setCore c).nextFence = s.nextFence := rfl
@[simp] theorem State.setCore_turns (s : State) (c : Core) : (s.setCore c).turns = s.turns := rfl
@[simp] theorem State.setCore_flip (s : State) (c : Core) : (s.setCore c).flip = s.flip := rfl
@[simp] theorem State.setCore_progress (s : State) (c : Core) : (s.setCore c).progress = s.progress := rfl
@[simp] theorem State.setCore_clock (s : State) (c : Core) : (s.setCore c).clock = s.clock := rfl
@[simp] theorem State.setCore_draws (s : State) (c : Core) : (s.setCore c).draws = s.draws := rfl
@[simp] theorem State.setCore_issue (s : State) (c : Core) : (s.setCore c).issue = s.issue := rfl

/-! ## modPart -/

@[simp] theorem State.modPart_cores (s : State) (p : Nat) (f : Part → Part) : (s.modPart p f).cores = s.cores := rfl
@[simp] theorem State.modPart_clusters (s : State) (p : Nat) (f : Part → Part) : (s.modPart p f).clusters = s.clusters := rfl
@[simp] theorem State.modPart_engines (s : State) (p : Nat) (f : Part → Part) : (s.modPart p f).engines = s.engines := rfl
@[simp] theorem State.modPart_testing (s : State) (p : Nat) (f : Part → Part) : (s.modPart p f).testing = s.testing := rfl
@[simp] theorem State.modPart_parts (s : State) (p : Nat) (f : Part → Part) : (s.modPart p f).parts = s.parts.map fun x => if x.id == p then f x else x := rfl
@[simp] theorem State.modPart_mem (s : State) (p : Nat) (f : Part → Part) : (s.modPart p f).mem = s.mem := rfl
@[simp] theorem State.modPart_tags (s : State) (p : Nat) (f : Part → Part) : (s.modPart p f).tags = s.tags := rfl
@[simp] theorem State.modPart_poison (s : State) (p : Nat) (f : Part → Part) : (s.modPart p f).poison = s.poison := rfl
@[simp] theorem State.modPart_time (s : State) (p : Nat) (f : Part → Part) : (s.modPart p f).time = s.time := rfl
@[simp] theorem State.modPart_stampNext (s : State) (p : Nat) (f : Part → Part) : (s.modPart p f).stampNext = s.stampNext := rfl
@[simp] theorem State.modPart_cutDies (s : State) (p : Nat) (f : Part → Part) : (s.modPart p f).cutDies = s.cutDies := rfl
@[simp] theorem State.modPart_writes (s : State) (p : Nat) (f : Part → Part) : (s.modPart p f).writes = s.writes := rfl
@[simp] theorem State.modPart_authors (s : State) (p : Nat) (f : Part → Part) : (s.modPart p f).authors = s.authors := rfl
@[simp] theorem State.modPart_deferred (s : State) (p : Nat) (f : Part → Part) : (s.modPart p f).deferred = s.deferred := rfl
@[simp] theorem State.modPart_replies (s : State) (p : Nat) (f : Part → Part) : (s.modPart p f).replies = s.replies := rfl
@[simp] theorem State.modPart_timeHad (s : State) (p : Nat) (f : Part → Part) : (s.modPart p f).timeHad = s.timeHad := rfl
@[simp] theorem State.modPart_timeOff (s : State) (p : Nat) (f : Part → Part) : (s.modPart p f).timeOff = s.timeOff := rfl
@[simp] theorem State.modPart_timeSlow (s : State) (p : Nat) (f : Part → Part) : (s.modPart p f).timeSlow = s.timeSlow := rfl
@[simp] theorem State.modPart_phase (s : State) (p : Nat) (f : Part → Part) : (s.modPart p f).phase = s.phase := rfl
@[simp] theorem State.modPart_slotLen (s : State) (p : Nat) (f : Part → Part) : (s.modPart p f).slotLen = s.slotLen := rfl
@[simp] theorem State.modPart_slotEmpty (s : State) (p : Nat) (f : Part → Part) : (s.modPart p f).slotEmpty = s.slotEmpty := rfl
@[simp] theorem State.modPart_ready0 (s : State) (p : Nat) (f : Part → Part) : (s.modPart p f).ready0 = s.ready0 := rfl
@[simp] theorem State.modPart_ready1 (s : State) (p : Nat) (f : Part → Part) : (s.modPart p f).ready1 = s.ready1 := rfl
@[simp] theorem State.modPart_ready2 (s : State) (p : Nat) (f : Part → Part) : (s.modPart p f).ready2 = s.ready2 := rfl
@[simp] theorem State.modPart_energy (s : State) (p : Nat) (f : Part → Part) : (s.modPart p f).energy = s.energy := rfl
@[simp] theorem State.modPart_energyHi (s : State) (p : Nat) (f : Part → Part) : (s.modPart p f).energyHi = s.energyHi := rfl
@[simp] theorem State.modPart_packageId (s : State) (p : Nat) (f : Part → Part) : (s.modPart p f).packageId = s.packageId := rfl
@[simp] theorem State.modPart_measures (s : State) (p : Nat) (f : Part → Part) : (s.modPart p f).measures = s.measures := rfl
@[simp] theorem State.modPart_budgets (s : State) (p : Nat) (f : Part → Part) : (s.modPart p f).budgets = s.budgets := rfl
@[simp] theorem State.modPart_ballast (s : State) (p : Nat) (f : Part → Part) : (s.modPart p f).ballast = s.ballast := rfl
@[simp] theorem State.modPart_tenants (s : State) (p : Nat) (f : Part → Part) : (s.modPart p f).tenants = s.tenants := rfl
@[simp] theorem State.modPart_ports (s : State) (p : Nat) (f : Part → Part) : (s.modPart p f).ports = s.ports := rfl
@[simp] theorem State.modPart_streams (s : State) (p : Nat) (f : Part → Part) : (s.modPart p f).streams = s.streams := rfl
@[simp] theorem State.modPart_requests (s : State) (p : Nat) (f : Part → Part) : (s.modPart p f).requests = s.requests := rfl
@[simp] theorem State.modPart_nextTag (s : State) (p : Nat) (f : Part → Part) : (s.modPart p f).nextTag = s.nextTag := rfl
@[simp] theorem State.modPart_outbox (s : State) (p : Nat) (f : Part → Part) : (s.modPart p f).outbox = s.outbox := rfl
@[simp] theorem State.modPart_spdm (s : State) (p : Nat) (f : Part → Part) : (s.modPart p f).spdm = s.spdm := rfl
@[simp] theorem State.modPart_mgmt (s : State) (p : Nat) (f : Part → Part) : (s.modPart p f).mgmt = s.mgmt := rfl
@[simp] theorem State.modPart_nextFence (s : State) (p : Nat) (f : Part → Part) : (s.modPart p f).nextFence = s.nextFence := rfl
@[simp] theorem State.modPart_turns (s : State) (p : Nat) (f : Part → Part) : (s.modPart p f).turns = s.turns := rfl
@[simp] theorem State.modPart_flip (s : State) (p : Nat) (f : Part → Part) : (s.modPart p f).flip = s.flip := rfl
@[simp] theorem State.modPart_progress (s : State) (p : Nat) (f : Part → Part) : (s.modPart p f).progress = s.progress := rfl
@[simp] theorem State.modPart_clock (s : State) (p : Nat) (f : Part → Part) : (s.modPart p f).clock = s.clock := rfl
@[simp] theorem State.modPart_draws (s : State) (p : Nat) (f : Part → Part) : (s.modPart p f).draws = s.draws := rfl
@[simp] theorem State.modPart_issue (s : State) (p : Nat) (f : Part → Part) : (s.modPart p f).issue = s.issue := rfl

/-! ## moved -/

@[simp] theorem State.moved_cores (s : State) : (s.moved).cores = s.cores := rfl
@[simp] theorem State.moved_clusters (s : State) : (s.moved).clusters = s.clusters := rfl
@[simp] theorem State.moved_engines (s : State) : (s.moved).engines = s.engines := rfl
@[simp] theorem State.moved_testing (s : State) : (s.moved).testing = s.testing := rfl
@[simp] theorem State.moved_parts (s : State) : (s.moved).parts = s.parts := rfl
@[simp] theorem State.moved_mem (s : State) : (s.moved).mem = s.mem := rfl
@[simp] theorem State.moved_tags (s : State) : (s.moved).tags = s.tags := rfl
@[simp] theorem State.moved_poison (s : State) : (s.moved).poison = s.poison := rfl
@[simp] theorem State.moved_time (s : State) : (s.moved).time = s.time := rfl
@[simp] theorem State.moved_stampNext (s : State) : (s.moved).stampNext = s.stampNext := rfl
@[simp] theorem State.moved_cutDies (s : State) : (s.moved).cutDies = s.cutDies := rfl
@[simp] theorem State.moved_writes (s : State) : (s.moved).writes = s.writes := rfl
@[simp] theorem State.moved_authors (s : State) : (s.moved).authors = s.authors := rfl
@[simp] theorem State.moved_deferred (s : State) : (s.moved).deferred = s.deferred := rfl
@[simp] theorem State.moved_replies (s : State) : (s.moved).replies = s.replies := rfl
@[simp] theorem State.moved_timeHad (s : State) : (s.moved).timeHad = s.timeHad := rfl
@[simp] theorem State.moved_timeOff (s : State) : (s.moved).timeOff = s.timeOff := rfl
@[simp] theorem State.moved_timeSlow (s : State) : (s.moved).timeSlow = s.timeSlow := rfl
@[simp] theorem State.moved_phase (s : State) : (s.moved).phase = s.phase := rfl
@[simp] theorem State.moved_slotLen (s : State) : (s.moved).slotLen = s.slotLen := rfl
@[simp] theorem State.moved_slotEmpty (s : State) : (s.moved).slotEmpty = s.slotEmpty := rfl
@[simp] theorem State.moved_ready0 (s : State) : (s.moved).ready0 = s.ready0 := rfl
@[simp] theorem State.moved_ready1 (s : State) : (s.moved).ready1 = s.ready1 := rfl
@[simp] theorem State.moved_ready2 (s : State) : (s.moved).ready2 = s.ready2 := rfl
@[simp] theorem State.moved_energy (s : State) : (s.moved).energy = s.energy := rfl
@[simp] theorem State.moved_energyHi (s : State) : (s.moved).energyHi = s.energyHi := rfl
@[simp] theorem State.moved_packageId (s : State) : (s.moved).packageId = s.packageId := rfl
@[simp] theorem State.moved_measures (s : State) : (s.moved).measures = s.measures := rfl
@[simp] theorem State.moved_budgets (s : State) : (s.moved).budgets = s.budgets := rfl
@[simp] theorem State.moved_ballast (s : State) : (s.moved).ballast = s.ballast := rfl
@[simp] theorem State.moved_tenants (s : State) : (s.moved).tenants = s.tenants := rfl
@[simp] theorem State.moved_ports (s : State) : (s.moved).ports = s.ports := rfl
@[simp] theorem State.moved_streams (s : State) : (s.moved).streams = s.streams := rfl
@[simp] theorem State.moved_requests (s : State) : (s.moved).requests = s.requests := rfl
@[simp] theorem State.moved_nextTag (s : State) : (s.moved).nextTag = s.nextTag := rfl
@[simp] theorem State.moved_outbox (s : State) : (s.moved).outbox = s.outbox := rfl
@[simp] theorem State.moved_spdm (s : State) : (s.moved).spdm = s.spdm := rfl
@[simp] theorem State.moved_mgmt (s : State) : (s.moved).mgmt = s.mgmt := rfl
@[simp] theorem State.moved_nextFence (s : State) : (s.moved).nextFence = s.nextFence := rfl
@[simp] theorem State.moved_turns (s : State) : (s.moved).turns = s.turns := rfl
@[simp] theorem State.moved_flip (s : State) : (s.moved).flip = s.flip := rfl
@[simp] theorem State.moved_progress (s : State) : (s.moved).progress = s.progress + 1 := rfl
@[simp] theorem State.moved_clock (s : State) : (s.moved).clock = s.clock := rfl
@[simp] theorem State.moved_draws (s : State) : (s.moved).draws = s.draws := rfl
@[simp] theorem State.moved_issue (s : State) : (s.moved).issue = s.issue := rfl

/-! ## stamped -/

@[simp] theorem State.stamped_cores (s : State) : (s.stamped).cores = s.cores := rfl
@[simp] theorem State.stamped_clusters (s : State) : (s.stamped).clusters = s.clusters := rfl
@[simp] theorem State.stamped_engines (s : State) : (s.stamped).engines = s.engines := rfl
@[simp] theorem State.stamped_testing (s : State) : (s.stamped).testing = s.testing := rfl
@[simp] theorem State.stamped_parts (s : State) : (s.stamped).parts = s.parts := rfl
@[simp] theorem State.stamped_mem (s : State) : (s.stamped).mem = s.mem := rfl
@[simp] theorem State.stamped_tags (s : State) : (s.stamped).tags = s.tags := rfl
@[simp] theorem State.stamped_poison (s : State) : (s.stamped).poison = s.poison := rfl
@[simp] theorem State.stamped_time (s : State) : (s.stamped).time = s.time := rfl
@[simp] theorem State.stamped_stampNext (s : State) : (s.stamped).stampNext = s.nextStamp + 1 := rfl
@[simp] theorem State.stamped_cutDies (s : State) : (s.stamped).cutDies = s.cutDies := rfl
@[simp] theorem State.stamped_writes (s : State) : (s.stamped).writes = s.writes := rfl
@[simp] theorem State.stamped_authors (s : State) : (s.stamped).authors = s.authors := rfl
@[simp] theorem State.stamped_deferred (s : State) : (s.stamped).deferred = s.deferred := rfl
@[simp] theorem State.stamped_replies (s : State) : (s.stamped).replies = s.replies := rfl
@[simp] theorem State.stamped_timeHad (s : State) : (s.stamped).timeHad = s.timeHad := rfl
@[simp] theorem State.stamped_timeOff (s : State) : (s.stamped).timeOff = s.timeOff := rfl
@[simp] theorem State.stamped_timeSlow (s : State) : (s.stamped).timeSlow = s.timeSlow := rfl
@[simp] theorem State.stamped_phase (s : State) : (s.stamped).phase = s.phase := rfl
@[simp] theorem State.stamped_slotLen (s : State) : (s.stamped).slotLen = s.slotLen := rfl
@[simp] theorem State.stamped_slotEmpty (s : State) : (s.stamped).slotEmpty = s.slotEmpty := rfl
@[simp] theorem State.stamped_ready0 (s : State) : (s.stamped).ready0 = s.ready0 := rfl
@[simp] theorem State.stamped_ready1 (s : State) : (s.stamped).ready1 = s.ready1 := rfl
@[simp] theorem State.stamped_ready2 (s : State) : (s.stamped).ready2 = s.ready2 := rfl
@[simp] theorem State.stamped_energy (s : State) : (s.stamped).energy = s.energy := rfl
@[simp] theorem State.stamped_energyHi (s : State) : (s.stamped).energyHi = s.energyHi := rfl
@[simp] theorem State.stamped_packageId (s : State) : (s.stamped).packageId = s.packageId := rfl
@[simp] theorem State.stamped_measures (s : State) : (s.stamped).measures = s.measures := rfl
@[simp] theorem State.stamped_budgets (s : State) : (s.stamped).budgets = s.budgets := rfl
@[simp] theorem State.stamped_ballast (s : State) : (s.stamped).ballast = s.ballast := rfl
@[simp] theorem State.stamped_tenants (s : State) : (s.stamped).tenants = s.tenants := rfl
@[simp] theorem State.stamped_ports (s : State) : (s.stamped).ports = s.ports := rfl
@[simp] theorem State.stamped_streams (s : State) : (s.stamped).streams = s.streams := rfl
@[simp] theorem State.stamped_requests (s : State) : (s.stamped).requests = s.requests := rfl
@[simp] theorem State.stamped_nextTag (s : State) : (s.stamped).nextTag = s.nextTag := rfl
@[simp] theorem State.stamped_outbox (s : State) : (s.stamped).outbox = s.outbox := rfl
@[simp] theorem State.stamped_spdm (s : State) : (s.stamped).spdm = s.spdm := rfl
@[simp] theorem State.stamped_mgmt (s : State) : (s.stamped).mgmt = s.mgmt := rfl
@[simp] theorem State.stamped_nextFence (s : State) : (s.stamped).nextFence = s.nextFence := rfl
@[simp] theorem State.stamped_turns (s : State) : (s.stamped).turns = s.turns := rfl
@[simp] theorem State.stamped_flip (s : State) : (s.stamped).flip = s.flip := rfl
@[simp] theorem State.stamped_progress (s : State) : (s.stamped).progress = s.progress := rfl
@[simp] theorem State.stamped_clock (s : State) : (s.stamped).clock = s.clock := rfl
@[simp] theorem State.stamped_draws (s : State) : (s.stamped).draws = s.draws := rfl
@[simp] theorem State.stamped_issue (s : State) : (s.stamped).issue = s.issue := rfl

/-! ## atTime -/

@[simp] theorem State.atTime_cores (s : State) (t : BitVec 56) : (s.atTime t).cores = s.cores := rfl
@[simp] theorem State.atTime_clusters (s : State) (t : BitVec 56) : (s.atTime t).clusters = s.clusters := rfl
@[simp] theorem State.atTime_engines (s : State) (t : BitVec 56) : (s.atTime t).engines = s.engines := rfl
@[simp] theorem State.atTime_testing (s : State) (t : BitVec 56) : (s.atTime t).testing = s.testing := rfl
@[simp] theorem State.atTime_parts (s : State) (t : BitVec 56) : (s.atTime t).parts = s.parts := rfl
@[simp] theorem State.atTime_mem (s : State) (t : BitVec 56) : (s.atTime t).mem = s.mem := rfl
@[simp] theorem State.atTime_tags (s : State) (t : BitVec 56) : (s.atTime t).tags = s.tags := rfl
@[simp] theorem State.atTime_poison (s : State) (t : BitVec 56) : (s.atTime t).poison = s.poison := rfl
@[simp] theorem State.atTime_time (s : State) (t : BitVec 56) : (s.atTime t).time = t := rfl
@[simp] theorem State.atTime_cutDies (s : State) (t : BitVec 56) : (s.atTime t).cutDies = s.cutDies := rfl
@[simp] theorem State.atTime_writes (s : State) (t : BitVec 56) : (s.atTime t).writes = s.writes := rfl
@[simp] theorem State.atTime_authors (s : State) (t : BitVec 56) : (s.atTime t).authors = s.authors := rfl
@[simp] theorem State.atTime_deferred (s : State) (t : BitVec 56) : (s.atTime t).deferred = s.deferred := rfl
@[simp] theorem State.atTime_replies (s : State) (t : BitVec 56) : (s.atTime t).replies = s.replies := rfl
@[simp] theorem State.atTime_timeHad (s : State) (t : BitVec 56) : (s.atTime t).timeHad = s.timeHad := rfl
@[simp] theorem State.atTime_timeOff (s : State) (t : BitVec 56) : (s.atTime t).timeOff = s.timeOff := rfl
@[simp] theorem State.atTime_timeSlow (s : State) (t : BitVec 56) : (s.atTime t).timeSlow = s.timeSlow := rfl
@[simp] theorem State.atTime_phase (s : State) (t : BitVec 56) : (s.atTime t).phase = s.phase := rfl
@[simp] theorem State.atTime_slotLen (s : State) (t : BitVec 56) : (s.atTime t).slotLen = s.slotLen := rfl
@[simp] theorem State.atTime_slotEmpty (s : State) (t : BitVec 56) : (s.atTime t).slotEmpty = s.slotEmpty := rfl
@[simp] theorem State.atTime_ready0 (s : State) (t : BitVec 56) : (s.atTime t).ready0 = s.ready0 := rfl
@[simp] theorem State.atTime_ready1 (s : State) (t : BitVec 56) : (s.atTime t).ready1 = s.ready1 := rfl
@[simp] theorem State.atTime_ready2 (s : State) (t : BitVec 56) : (s.atTime t).ready2 = s.ready2 := rfl
@[simp] theorem State.atTime_energy (s : State) (t : BitVec 56) : (s.atTime t).energy = s.energy := rfl
@[simp] theorem State.atTime_energyHi (s : State) (t : BitVec 56) : (s.atTime t).energyHi = s.energyHi := rfl
@[simp] theorem State.atTime_packageId (s : State) (t : BitVec 56) : (s.atTime t).packageId = s.packageId := rfl
@[simp] theorem State.atTime_measures (s : State) (t : BitVec 56) : (s.atTime t).measures = s.measures := rfl
@[simp] theorem State.atTime_budgets (s : State) (t : BitVec 56) : (s.atTime t).budgets = s.budgets := rfl
@[simp] theorem State.atTime_ballast (s : State) (t : BitVec 56) : (s.atTime t).ballast = s.ballast := rfl
@[simp] theorem State.atTime_tenants (s : State) (t : BitVec 56) : (s.atTime t).tenants = s.tenants := rfl
@[simp] theorem State.atTime_ports (s : State) (t : BitVec 56) : (s.atTime t).ports = s.ports := rfl
@[simp] theorem State.atTime_streams (s : State) (t : BitVec 56) : (s.atTime t).streams = s.streams := rfl
@[simp] theorem State.atTime_requests (s : State) (t : BitVec 56) : (s.atTime t).requests = s.requests := rfl
@[simp] theorem State.atTime_nextTag (s : State) (t : BitVec 56) : (s.atTime t).nextTag = s.nextTag := rfl
@[simp] theorem State.atTime_outbox (s : State) (t : BitVec 56) : (s.atTime t).outbox = s.outbox := rfl
@[simp] theorem State.atTime_spdm (s : State) (t : BitVec 56) : (s.atTime t).spdm = s.spdm := rfl
@[simp] theorem State.atTime_mgmt (s : State) (t : BitVec 56) : (s.atTime t).mgmt = s.mgmt := rfl
@[simp] theorem State.atTime_nextFence (s : State) (t : BitVec 56) : (s.atTime t).nextFence = s.nextFence := rfl
@[simp] theorem State.atTime_turns (s : State) (t : BitVec 56) : (s.atTime t).turns = s.turns := rfl
@[simp] theorem State.atTime_flip (s : State) (t : BitVec 56) : (s.atTime t).flip = s.flip := rfl
@[simp] theorem State.atTime_progress (s : State) (t : BitVec 56) : (s.atTime t).progress = s.progress := rfl
@[simp] theorem State.atTime_clock (s : State) (t : BitVec 56) : (s.atTime t).clock = s.clock := rfl
@[simp] theorem State.atTime_draws (s : State) (t : BitVec 56) : (s.atTime t).draws = s.draws := rfl
@[simp] theorem State.atTime_issue (s : State) (t : BitVec 56) : (s.atTime t).issue = s.issue := rfl

/-! ## postMgmt -/

@[simp] theorem State.postMgmt_cores (s : State) (r : Record) : (s.postMgmt r).cores = s.cores := rfl
@[simp] theorem State.postMgmt_clusters (s : State) (r : Record) : (s.postMgmt r).clusters = s.clusters := rfl
@[simp] theorem State.postMgmt_engines (s : State) (r : Record) : (s.postMgmt r).engines = s.engines := rfl
@[simp] theorem State.postMgmt_testing (s : State) (r : Record) : (s.postMgmt r).testing = s.testing := rfl
@[simp] theorem State.postMgmt_parts (s : State) (r : Record) : (s.postMgmt r).parts = s.parts := rfl
@[simp] theorem State.postMgmt_mem (s : State) (r : Record) : (s.postMgmt r).mem = s.mem := rfl
@[simp] theorem State.postMgmt_tags (s : State) (r : Record) : (s.postMgmt r).tags = s.tags := rfl
@[simp] theorem State.postMgmt_poison (s : State) (r : Record) : (s.postMgmt r).poison = s.poison := rfl
@[simp] theorem State.postMgmt_time (s : State) (r : Record) : (s.postMgmt r).time = s.time := rfl
@[simp] theorem State.postMgmt_stampNext (s : State) (r : Record) : (s.postMgmt r).stampNext = s.nextStamp + 1 := rfl
@[simp] theorem State.postMgmt_cutDies (s : State) (r : Record) : (s.postMgmt r).cutDies = s.cutDies := rfl
@[simp] theorem State.postMgmt_writes (s : State) (r : Record) : (s.postMgmt r).writes = s.writes := rfl
@[simp] theorem State.postMgmt_authors (s : State) (r : Record) : (s.postMgmt r).authors = s.authors := rfl
@[simp] theorem State.postMgmt_deferred (s : State) (r : Record) : (s.postMgmt r).deferred = s.deferred := rfl
@[simp] theorem State.postMgmt_replies (s : State) (r : Record) : (s.postMgmt r).replies = s.replies := rfl
@[simp] theorem State.postMgmt_timeHad (s : State) (r : Record) : (s.postMgmt r).timeHad = s.timeHad := rfl
@[simp] theorem State.postMgmt_timeOff (s : State) (r : Record) : (s.postMgmt r).timeOff = s.timeOff := rfl
@[simp] theorem State.postMgmt_timeSlow (s : State) (r : Record) : (s.postMgmt r).timeSlow = s.timeSlow := rfl
@[simp] theorem State.postMgmt_phase (s : State) (r : Record) : (s.postMgmt r).phase = s.phase := rfl
@[simp] theorem State.postMgmt_slotLen (s : State) (r : Record) : (s.postMgmt r).slotLen = s.slotLen := rfl
@[simp] theorem State.postMgmt_slotEmpty (s : State) (r : Record) : (s.postMgmt r).slotEmpty = s.slotEmpty := rfl
@[simp] theorem State.postMgmt_ready0 (s : State) (r : Record) : (s.postMgmt r).ready0 = s.ready0 := rfl
@[simp] theorem State.postMgmt_ready1 (s : State) (r : Record) : (s.postMgmt r).ready1 = s.ready1 := rfl
@[simp] theorem State.postMgmt_ready2 (s : State) (r : Record) : (s.postMgmt r).ready2 = s.ready2 := rfl
@[simp] theorem State.postMgmt_energy (s : State) (r : Record) : (s.postMgmt r).energy = s.energy := rfl
@[simp] theorem State.postMgmt_energyHi (s : State) (r : Record) : (s.postMgmt r).energyHi = s.energyHi := rfl
@[simp] theorem State.postMgmt_packageId (s : State) (r : Record) : (s.postMgmt r).packageId = s.packageId := rfl
@[simp] theorem State.postMgmt_measures (s : State) (r : Record) : (s.postMgmt r).measures = s.measures := rfl
@[simp] theorem State.postMgmt_budgets (s : State) (r : Record) : (s.postMgmt r).budgets = s.budgets := rfl
@[simp] theorem State.postMgmt_ballast (s : State) (r : Record) : (s.postMgmt r).ballast = s.ballast := rfl
@[simp] theorem State.postMgmt_tenants (s : State) (r : Record) : (s.postMgmt r).tenants = s.tenants := rfl
@[simp] theorem State.postMgmt_ports (s : State) (r : Record) : (s.postMgmt r).ports = s.ports := rfl
@[simp] theorem State.postMgmt_streams (s : State) (r : Record) : (s.postMgmt r).streams = s.streams := rfl
@[simp] theorem State.postMgmt_requests (s : State) (r : Record) : (s.postMgmt r).requests = s.requests := rfl
@[simp] theorem State.postMgmt_nextTag (s : State) (r : Record) : (s.postMgmt r).nextTag = s.nextTag := rfl
@[simp] theorem State.postMgmt_outbox (s : State) (r : Record) : (s.postMgmt r).outbox = s.outbox := rfl
@[simp] theorem State.postMgmt_spdm (s : State) (r : Record) : (s.postMgmt r).spdm = s.spdm := rfl
@[simp] theorem State.postMgmt_mgmt (s : State) (r : Record) : (s.postMgmt r).mgmt = s.mgmt ++ [{ r with stamp := s.nextStamp }] := rfl
@[simp] theorem State.postMgmt_nextFence (s : State) (r : Record) : (s.postMgmt r).nextFence = s.nextFence := rfl
@[simp] theorem State.postMgmt_turns (s : State) (r : Record) : (s.postMgmt r).turns = s.turns := rfl
@[simp] theorem State.postMgmt_flip (s : State) (r : Record) : (s.postMgmt r).flip = s.flip := rfl
@[simp] theorem State.postMgmt_progress (s : State) (r : Record) : (s.postMgmt r).progress = s.progress := rfl
@[simp] theorem State.postMgmt_clock (s : State) (r : Record) : (s.postMgmt r).clock = s.clock := rfl
@[simp] theorem State.postMgmt_draws (s : State) (r : Record) : (s.postMgmt r).draws = s.draws := rfl
@[simp] theorem State.postMgmt_issue (s : State) (r : Record) : (s.postMgmt r).issue = s.issue := rfl

/-! ## markPoison -/

@[simp] theorem State.markPoison_cores (s : State) (a n : Nat) : (s.markPoison a n).cores = s.cores := rfl
@[simp] theorem State.markPoison_clusters (s : State) (a n : Nat) : (s.markPoison a n).clusters = s.clusters := rfl
@[simp] theorem State.markPoison_engines (s : State) (a n : Nat) : (s.markPoison a n).engines = s.engines := rfl
@[simp] theorem State.markPoison_testing (s : State) (a n : Nat) : (s.markPoison a n).testing = s.testing := rfl
@[simp] theorem State.markPoison_parts (s : State) (a n : Nat) : (s.markPoison a n).parts = s.parts := rfl
@[simp] theorem State.markPoison_mem (s : State) (a n : Nat) : (s.markPoison a n).mem = s.mem := rfl
@[simp] theorem State.markPoison_tags (s : State) (a n : Nat) : (s.markPoison a n).tags = s.tags := rfl
@[simp] theorem State.markPoison_time (s : State) (a n : Nat) : (s.markPoison a n).time = s.time := rfl
@[simp] theorem State.markPoison_stampNext (s : State) (a n : Nat) : (s.markPoison a n).stampNext = s.stampNext := rfl
@[simp] theorem State.markPoison_cutDies (s : State) (a n : Nat) : (s.markPoison a n).cutDies = s.cutDies := rfl
@[simp] theorem State.markPoison_writes (s : State) (a n : Nat) : (s.markPoison a n).writes = s.writes := rfl
@[simp] theorem State.markPoison_authors (s : State) (a n : Nat) : (s.markPoison a n).authors = s.authors := rfl
@[simp] theorem State.markPoison_deferred (s : State) (a n : Nat) : (s.markPoison a n).deferred = s.deferred := rfl
@[simp] theorem State.markPoison_replies (s : State) (a n : Nat) : (s.markPoison a n).replies = s.replies := rfl
@[simp] theorem State.markPoison_timeHad (s : State) (a n : Nat) : (s.markPoison a n).timeHad = s.timeHad := rfl
@[simp] theorem State.markPoison_timeOff (s : State) (a n : Nat) : (s.markPoison a n).timeOff = s.timeOff := rfl
@[simp] theorem State.markPoison_timeSlow (s : State) (a n : Nat) : (s.markPoison a n).timeSlow = s.timeSlow := rfl
@[simp] theorem State.markPoison_phase (s : State) (a n : Nat) : (s.markPoison a n).phase = s.phase := rfl
@[simp] theorem State.markPoison_slotLen (s : State) (a n : Nat) : (s.markPoison a n).slotLen = s.slotLen := rfl
@[simp] theorem State.markPoison_slotEmpty (s : State) (a n : Nat) : (s.markPoison a n).slotEmpty = s.slotEmpty := rfl
@[simp] theorem State.markPoison_ready0 (s : State) (a n : Nat) : (s.markPoison a n).ready0 = s.ready0 := rfl
@[simp] theorem State.markPoison_ready1 (s : State) (a n : Nat) : (s.markPoison a n).ready1 = s.ready1 := rfl
@[simp] theorem State.markPoison_ready2 (s : State) (a n : Nat) : (s.markPoison a n).ready2 = s.ready2 := rfl
@[simp] theorem State.markPoison_energy (s : State) (a n : Nat) : (s.markPoison a n).energy = s.energy := rfl
@[simp] theorem State.markPoison_energyHi (s : State) (a n : Nat) : (s.markPoison a n).energyHi = s.energyHi := rfl
@[simp] theorem State.markPoison_packageId (s : State) (a n : Nat) : (s.markPoison a n).packageId = s.packageId := rfl
@[simp] theorem State.markPoison_measures (s : State) (a n : Nat) : (s.markPoison a n).measures = s.measures := rfl
@[simp] theorem State.markPoison_budgets (s : State) (a n : Nat) : (s.markPoison a n).budgets = s.budgets := rfl
@[simp] theorem State.markPoison_ballast (s : State) (a n : Nat) : (s.markPoison a n).ballast = s.ballast := rfl
@[simp] theorem State.markPoison_tenants (s : State) (a n : Nat) : (s.markPoison a n).tenants = s.tenants := rfl
@[simp] theorem State.markPoison_ports (s : State) (a n : Nat) : (s.markPoison a n).ports = s.ports := rfl
@[simp] theorem State.markPoison_streams (s : State) (a n : Nat) : (s.markPoison a n).streams = s.streams := rfl
@[simp] theorem State.markPoison_requests (s : State) (a n : Nat) : (s.markPoison a n).requests = s.requests := rfl
@[simp] theorem State.markPoison_nextTag (s : State) (a n : Nat) : (s.markPoison a n).nextTag = s.nextTag := rfl
@[simp] theorem State.markPoison_outbox (s : State) (a n : Nat) : (s.markPoison a n).outbox = s.outbox := rfl
@[simp] theorem State.markPoison_spdm (s : State) (a n : Nat) : (s.markPoison a n).spdm = s.spdm := rfl
@[simp] theorem State.markPoison_mgmt (s : State) (a n : Nat) : (s.markPoison a n).mgmt = s.mgmt := rfl
@[simp] theorem State.markPoison_nextFence (s : State) (a n : Nat) : (s.markPoison a n).nextFence = s.nextFence := rfl
@[simp] theorem State.markPoison_turns (s : State) (a n : Nat) : (s.markPoison a n).turns = s.turns := rfl
@[simp] theorem State.markPoison_flip (s : State) (a n : Nat) : (s.markPoison a n).flip = s.flip := rfl
@[simp] theorem State.markPoison_progress (s : State) (a n : Nat) : (s.markPoison a n).progress = s.progress := rfl
@[simp] theorem State.markPoison_clock (s : State) (a n : Nat) : (s.markPoison a n).clock = s.clock := rfl
@[simp] theorem State.markPoison_draws (s : State) (a n : Nat) : (s.markPoison a n).draws = s.draws := rfl
@[simp] theorem State.markPoison_issue (s : State) (a n : Nat) : (s.markPoison a n).issue = s.issue := rfl

/-! ## zeroRange -/

@[simp] theorem State.zeroRange_cores (s : State) (a n : Nat) : (s.zeroRange a n).cores = s.cores := rfl
@[simp] theorem State.zeroRange_clusters (s : State) (a n : Nat) : (s.zeroRange a n).clusters = s.clusters := rfl
@[simp] theorem State.zeroRange_engines (s : State) (a n : Nat) : (s.zeroRange a n).engines = s.engines := rfl
@[simp] theorem State.zeroRange_testing (s : State) (a n : Nat) : (s.zeroRange a n).testing = s.testing := rfl
@[simp] theorem State.zeroRange_parts (s : State) (a n : Nat) : (s.zeroRange a n).parts = s.parts := rfl
@[simp] theorem State.zeroRange_mem (s : State) (a n : Nat) : (s.zeroRange a n).mem = s.mem.zero a n := rfl
@[simp] theorem State.zeroRange_time (s : State) (a n : Nat) : (s.zeroRange a n).time = s.time := rfl
@[simp] theorem State.zeroRange_stampNext (s : State) (a n : Nat) : (s.zeroRange a n).stampNext = s.stampNext := rfl
@[simp] theorem State.zeroRange_cutDies (s : State) (a n : Nat) : (s.zeroRange a n).cutDies = s.cutDies := rfl
@[simp] theorem State.zeroRange_writes (s : State) (a n : Nat) : (s.zeroRange a n).writes = s.writes := rfl
@[simp] theorem State.zeroRange_deferred (s : State) (a n : Nat) : (s.zeroRange a n).deferred = s.deferred := rfl
@[simp] theorem State.zeroRange_replies (s : State) (a n : Nat) : (s.zeroRange a n).replies = s.replies := rfl
@[simp] theorem State.zeroRange_timeHad (s : State) (a n : Nat) : (s.zeroRange a n).timeHad = s.timeHad := rfl
@[simp] theorem State.zeroRange_timeOff (s : State) (a n : Nat) : (s.zeroRange a n).timeOff = s.timeOff := rfl
@[simp] theorem State.zeroRange_timeSlow (s : State) (a n : Nat) : (s.zeroRange a n).timeSlow = s.timeSlow := rfl
@[simp] theorem State.zeroRange_phase (s : State) (a n : Nat) : (s.zeroRange a n).phase = s.phase := rfl
@[simp] theorem State.zeroRange_slotLen (s : State) (a n : Nat) : (s.zeroRange a n).slotLen = s.slotLen := rfl
@[simp] theorem State.zeroRange_slotEmpty (s : State) (a n : Nat) : (s.zeroRange a n).slotEmpty = s.slotEmpty := rfl
@[simp] theorem State.zeroRange_ready0 (s : State) (a n : Nat) : (s.zeroRange a n).ready0 = s.ready0 := rfl
@[simp] theorem State.zeroRange_ready1 (s : State) (a n : Nat) : (s.zeroRange a n).ready1 = s.ready1 := rfl
@[simp] theorem State.zeroRange_ready2 (s : State) (a n : Nat) : (s.zeroRange a n).ready2 = s.ready2 := rfl
@[simp] theorem State.zeroRange_energy (s : State) (a n : Nat) : (s.zeroRange a n).energy = s.energy := rfl
@[simp] theorem State.zeroRange_energyHi (s : State) (a n : Nat) : (s.zeroRange a n).energyHi = s.energyHi := rfl
@[simp] theorem State.zeroRange_packageId (s : State) (a n : Nat) : (s.zeroRange a n).packageId = s.packageId := rfl
@[simp] theorem State.zeroRange_measures (s : State) (a n : Nat) : (s.zeroRange a n).measures = s.measures := rfl
@[simp] theorem State.zeroRange_budgets (s : State) (a n : Nat) : (s.zeroRange a n).budgets = s.budgets := rfl
@[simp] theorem State.zeroRange_ballast (s : State) (a n : Nat) : (s.zeroRange a n).ballast = s.ballast := rfl
@[simp] theorem State.zeroRange_tenants (s : State) (a n : Nat) : (s.zeroRange a n).tenants = s.tenants := rfl
@[simp] theorem State.zeroRange_ports (s : State) (a n : Nat) : (s.zeroRange a n).ports = s.ports := rfl
@[simp] theorem State.zeroRange_streams (s : State) (a n : Nat) : (s.zeroRange a n).streams = s.streams := rfl
@[simp] theorem State.zeroRange_requests (s : State) (a n : Nat) : (s.zeroRange a n).requests = s.requests := rfl
@[simp] theorem State.zeroRange_nextTag (s : State) (a n : Nat) : (s.zeroRange a n).nextTag = s.nextTag := rfl
@[simp] theorem State.zeroRange_outbox (s : State) (a n : Nat) : (s.zeroRange a n).outbox = s.outbox := rfl
@[simp] theorem State.zeroRange_spdm (s : State) (a n : Nat) : (s.zeroRange a n).spdm = s.spdm := rfl
@[simp] theorem State.zeroRange_mgmt (s : State) (a n : Nat) : (s.zeroRange a n).mgmt = s.mgmt := rfl
@[simp] theorem State.zeroRange_nextFence (s : State) (a n : Nat) : (s.zeroRange a n).nextFence = s.nextFence := rfl
@[simp] theorem State.zeroRange_turns (s : State) (a n : Nat) : (s.zeroRange a n).turns = s.turns := rfl
@[simp] theorem State.zeroRange_flip (s : State) (a n : Nat) : (s.zeroRange a n).flip = s.flip := rfl
@[simp] theorem State.zeroRange_progress (s : State) (a n : Nat) : (s.zeroRange a n).progress = s.progress := rfl
@[simp] theorem State.zeroRange_clock (s : State) (a n : Nat) : (s.zeroRange a n).clock = s.clock := rfl
@[simp] theorem State.zeroRange_draws (s : State) (a n : Nat) : (s.zeroRange a n).draws = s.draws := rfl
@[simp] theorem State.zeroRange_issue (s : State) (a n : Nat) : (s.zeroRange a n).issue = s.issue := rfl

/-! ## untag -/

@[simp] theorem State.untag_cores (s : State) (k : Nat) : (s.untag k).cores = s.cores := rfl
@[simp] theorem State.untag_clusters (s : State) (k : Nat) : (s.untag k).clusters = s.clusters := rfl
@[simp] theorem State.untag_engines (s : State) (k : Nat) : (s.untag k).engines = s.engines := rfl
@[simp] theorem State.untag_testing (s : State) (k : Nat) : (s.untag k).testing = s.testing := rfl
@[simp] theorem State.untag_parts (s : State) (k : Nat) : (s.untag k).parts = s.parts := rfl
@[simp] theorem State.untag_mem (s : State) (k : Nat) : (s.untag k).mem = s.mem := rfl
@[simp] theorem State.untag_tags (s : State) (k : Nat) : (s.untag k).tags = s.tags.filter fun t => t.line != k := rfl
@[simp] theorem State.untag_poison (s : State) (k : Nat) : (s.untag k).poison = s.poison := rfl
@[simp] theorem State.untag_time (s : State) (k : Nat) : (s.untag k).time = s.time := rfl
@[simp] theorem State.untag_stampNext (s : State) (k : Nat) : (s.untag k).stampNext = s.stampNext := rfl
@[simp] theorem State.untag_cutDies (s : State) (k : Nat) : (s.untag k).cutDies = s.cutDies := rfl
@[simp] theorem State.untag_writes (s : State) (k : Nat) : (s.untag k).writes = s.writes := rfl
@[simp] theorem State.untag_authors (s : State) (k : Nat) : (s.untag k).authors = s.authors := rfl
@[simp] theorem State.untag_deferred (s : State) (k : Nat) : (s.untag k).deferred = s.deferred := rfl
@[simp] theorem State.untag_replies (s : State) (k : Nat) : (s.untag k).replies = s.replies := rfl
@[simp] theorem State.untag_timeHad (s : State) (k : Nat) : (s.untag k).timeHad = s.timeHad := rfl
@[simp] theorem State.untag_timeOff (s : State) (k : Nat) : (s.untag k).timeOff = s.timeOff := rfl
@[simp] theorem State.untag_timeSlow (s : State) (k : Nat) : (s.untag k).timeSlow = s.timeSlow := rfl
@[simp] theorem State.untag_phase (s : State) (k : Nat) : (s.untag k).phase = s.phase := rfl
@[simp] theorem State.untag_slotLen (s : State) (k : Nat) : (s.untag k).slotLen = s.slotLen := rfl
@[simp] theorem State.untag_slotEmpty (s : State) (k : Nat) : (s.untag k).slotEmpty = s.slotEmpty := rfl
@[simp] theorem State.untag_ready0 (s : State) (k : Nat) : (s.untag k).ready0 = s.ready0 := rfl
@[simp] theorem State.untag_ready1 (s : State) (k : Nat) : (s.untag k).ready1 = s.ready1 := rfl
@[simp] theorem State.untag_ready2 (s : State) (k : Nat) : (s.untag k).ready2 = s.ready2 := rfl
@[simp] theorem State.untag_energy (s : State) (k : Nat) : (s.untag k).energy = s.energy := rfl
@[simp] theorem State.untag_energyHi (s : State) (k : Nat) : (s.untag k).energyHi = s.energyHi := rfl
@[simp] theorem State.untag_packageId (s : State) (k : Nat) : (s.untag k).packageId = s.packageId := rfl
@[simp] theorem State.untag_measures (s : State) (k : Nat) : (s.untag k).measures = s.measures := rfl
@[simp] theorem State.untag_budgets (s : State) (k : Nat) : (s.untag k).budgets = s.budgets := rfl
@[simp] theorem State.untag_ballast (s : State) (k : Nat) : (s.untag k).ballast = s.ballast := rfl
@[simp] theorem State.untag_tenants (s : State) (k : Nat) : (s.untag k).tenants = s.tenants := rfl
@[simp] theorem State.untag_ports (s : State) (k : Nat) : (s.untag k).ports = s.ports := rfl
@[simp] theorem State.untag_streams (s : State) (k : Nat) : (s.untag k).streams = s.streams := rfl
@[simp] theorem State.untag_requests (s : State) (k : Nat) : (s.untag k).requests = s.requests := rfl
@[simp] theorem State.untag_nextTag (s : State) (k : Nat) : (s.untag k).nextTag = s.nextTag := rfl
@[simp] theorem State.untag_outbox (s : State) (k : Nat) : (s.untag k).outbox = s.outbox := rfl
@[simp] theorem State.untag_spdm (s : State) (k : Nat) : (s.untag k).spdm = s.spdm := rfl
@[simp] theorem State.untag_mgmt (s : State) (k : Nat) : (s.untag k).mgmt = s.mgmt := rfl
@[simp] theorem State.untag_nextFence (s : State) (k : Nat) : (s.untag k).nextFence = s.nextFence := rfl
@[simp] theorem State.untag_turns (s : State) (k : Nat) : (s.untag k).turns = s.turns := rfl
@[simp] theorem State.untag_flip (s : State) (k : Nat) : (s.untag k).flip = s.flip := rfl
@[simp] theorem State.untag_progress (s : State) (k : Nat) : (s.untag k).progress = s.progress := rfl
@[simp] theorem State.untag_clock (s : State) (k : Nat) : (s.untag k).clock = s.clock := rfl
@[simp] theorem State.untag_draws (s : State) (k : Nat) : (s.untag k).draws = s.draws := rfl
@[simp] theorem State.untag_issue (s : State) (k : Nat) : (s.untag k).issue = s.issue := rfl

/-! ## untagRange -/

@[simp] theorem State.untagRange_cores (s : State) (a n : Nat) : (s.untagRange a n).cores = s.cores := rfl
@[simp] theorem State.untagRange_clusters (s : State) (a n : Nat) : (s.untagRange a n).clusters = s.clusters := rfl
@[simp] theorem State.untagRange_engines (s : State) (a n : Nat) : (s.untagRange a n).engines = s.engines := rfl
@[simp] theorem State.untagRange_testing (s : State) (a n : Nat) : (s.untagRange a n).testing = s.testing := rfl
@[simp] theorem State.untagRange_parts (s : State) (a n : Nat) : (s.untagRange a n).parts = s.parts := rfl
@[simp] theorem State.untagRange_mem (s : State) (a n : Nat) : (s.untagRange a n).mem = s.mem := rfl
@[simp] theorem State.untagRange_poison (s : State) (a n : Nat) : (s.untagRange a n).poison = s.poison := rfl
@[simp] theorem State.untagRange_time (s : State) (a n : Nat) : (s.untagRange a n).time = s.time := rfl
@[simp] theorem State.untagRange_stampNext (s : State) (a n : Nat) : (s.untagRange a n).stampNext = s.stampNext := rfl
@[simp] theorem State.untagRange_cutDies (s : State) (a n : Nat) : (s.untagRange a n).cutDies = s.cutDies := rfl
@[simp] theorem State.untagRange_writes (s : State) (a n : Nat) : (s.untagRange a n).writes = s.writes := rfl
@[simp] theorem State.untagRange_authors (s : State) (a n : Nat) : (s.untagRange a n).authors = s.authors := rfl
@[simp] theorem State.untagRange_deferred (s : State) (a n : Nat) : (s.untagRange a n).deferred = s.deferred := rfl
@[simp] theorem State.untagRange_replies (s : State) (a n : Nat) : (s.untagRange a n).replies = s.replies := rfl
@[simp] theorem State.untagRange_timeHad (s : State) (a n : Nat) : (s.untagRange a n).timeHad = s.timeHad := rfl
@[simp] theorem State.untagRange_timeOff (s : State) (a n : Nat) : (s.untagRange a n).timeOff = s.timeOff := rfl
@[simp] theorem State.untagRange_timeSlow (s : State) (a n : Nat) : (s.untagRange a n).timeSlow = s.timeSlow := rfl
@[simp] theorem State.untagRange_phase (s : State) (a n : Nat) : (s.untagRange a n).phase = s.phase := rfl
@[simp] theorem State.untagRange_slotLen (s : State) (a n : Nat) : (s.untagRange a n).slotLen = s.slotLen := rfl
@[simp] theorem State.untagRange_slotEmpty (s : State) (a n : Nat) : (s.untagRange a n).slotEmpty = s.slotEmpty := rfl
@[simp] theorem State.untagRange_ready0 (s : State) (a n : Nat) : (s.untagRange a n).ready0 = s.ready0 := rfl
@[simp] theorem State.untagRange_ready1 (s : State) (a n : Nat) : (s.untagRange a n).ready1 = s.ready1 := rfl
@[simp] theorem State.untagRange_ready2 (s : State) (a n : Nat) : (s.untagRange a n).ready2 = s.ready2 := rfl
@[simp] theorem State.untagRange_energy (s : State) (a n : Nat) : (s.untagRange a n).energy = s.energy := rfl
@[simp] theorem State.untagRange_energyHi (s : State) (a n : Nat) : (s.untagRange a n).energyHi = s.energyHi := rfl
@[simp] theorem State.untagRange_packageId (s : State) (a n : Nat) : (s.untagRange a n).packageId = s.packageId := rfl
@[simp] theorem State.untagRange_measures (s : State) (a n : Nat) : (s.untagRange a n).measures = s.measures := rfl
@[simp] theorem State.untagRange_budgets (s : State) (a n : Nat) : (s.untagRange a n).budgets = s.budgets := rfl
@[simp] theorem State.untagRange_ballast (s : State) (a n : Nat) : (s.untagRange a n).ballast = s.ballast := rfl
@[simp] theorem State.untagRange_tenants (s : State) (a n : Nat) : (s.untagRange a n).tenants = s.tenants := rfl
@[simp] theorem State.untagRange_ports (s : State) (a n : Nat) : (s.untagRange a n).ports = s.ports := rfl
@[simp] theorem State.untagRange_streams (s : State) (a n : Nat) : (s.untagRange a n).streams = s.streams := rfl
@[simp] theorem State.untagRange_requests (s : State) (a n : Nat) : (s.untagRange a n).requests = s.requests := rfl
@[simp] theorem State.untagRange_nextTag (s : State) (a n : Nat) : (s.untagRange a n).nextTag = s.nextTag := rfl
@[simp] theorem State.untagRange_outbox (s : State) (a n : Nat) : (s.untagRange a n).outbox = s.outbox := rfl
@[simp] theorem State.untagRange_spdm (s : State) (a n : Nat) : (s.untagRange a n).spdm = s.spdm := rfl
@[simp] theorem State.untagRange_mgmt (s : State) (a n : Nat) : (s.untagRange a n).mgmt = s.mgmt := rfl
@[simp] theorem State.untagRange_nextFence (s : State) (a n : Nat) : (s.untagRange a n).nextFence = s.nextFence := rfl
@[simp] theorem State.untagRange_turns (s : State) (a n : Nat) : (s.untagRange a n).turns = s.turns := rfl
@[simp] theorem State.untagRange_flip (s : State) (a n : Nat) : (s.untagRange a n).flip = s.flip := rfl
@[simp] theorem State.untagRange_progress (s : State) (a n : Nat) : (s.untagRange a n).progress = s.progress := rfl
@[simp] theorem State.untagRange_clock (s : State) (a n : Nat) : (s.untagRange a n).clock = s.clock := rfl
@[simp] theorem State.untagRange_draws (s : State) (a n : Nat) : (s.untagRange a n).draws = s.draws := rfl
@[simp] theorem State.untagRange_issue (s : State) (a n : Nat) : (s.untagRange a n).issue = s.issue := rfl

/-! ## setTag -/

@[simp] theorem State.setTag_cores (s : State) (t : Tag) : (s.setTag t).cores = s.cores := rfl
@[simp] theorem State.setTag_clusters (s : State) (t : Tag) : (s.setTag t).clusters = s.clusters := rfl
@[simp] theorem State.setTag_engines (s : State) (t : Tag) : (s.setTag t).engines = s.engines := rfl
@[simp] theorem State.setTag_testing (s : State) (t : Tag) : (s.setTag t).testing = s.testing := rfl
@[simp] theorem State.setTag_parts (s : State) (t : Tag) : (s.setTag t).parts = s.parts := rfl
@[simp] theorem State.setTag_mem (s : State) (t : Tag) : (s.setTag t).mem = s.mem := rfl
@[simp] theorem State.setTag_tags (s : State) (t : Tag) : (s.setTag t).tags = t :: s.tags.filter fun x => x.line != t.line := rfl
@[simp] theorem State.setTag_poison (s : State) (t : Tag) : (s.setTag t).poison = s.poison := rfl
@[simp] theorem State.setTag_time (s : State) (t : Tag) : (s.setTag t).time = s.time := rfl
@[simp] theorem State.setTag_stampNext (s : State) (t : Tag) : (s.setTag t).stampNext = s.stampNext := rfl
@[simp] theorem State.setTag_cutDies (s : State) (t : Tag) : (s.setTag t).cutDies = s.cutDies := rfl
@[simp] theorem State.setTag_writes (s : State) (t : Tag) : (s.setTag t).writes = s.writes := rfl
@[simp] theorem State.setTag_authors (s : State) (t : Tag) : (s.setTag t).authors = s.authors := rfl
@[simp] theorem State.setTag_deferred (s : State) (t : Tag) : (s.setTag t).deferred = s.deferred := rfl
@[simp] theorem State.setTag_replies (s : State) (t : Tag) : (s.setTag t).replies = s.replies := rfl
@[simp] theorem State.setTag_timeHad (s : State) (t : Tag) : (s.setTag t).timeHad = s.timeHad := rfl
@[simp] theorem State.setTag_timeOff (s : State) (t : Tag) : (s.setTag t).timeOff = s.timeOff := rfl
@[simp] theorem State.setTag_timeSlow (s : State) (t : Tag) : (s.setTag t).timeSlow = s.timeSlow := rfl
@[simp] theorem State.setTag_phase (s : State) (t : Tag) : (s.setTag t).phase = s.phase := rfl
@[simp] theorem State.setTag_slotLen (s : State) (t : Tag) : (s.setTag t).slotLen = s.slotLen := rfl
@[simp] theorem State.setTag_slotEmpty (s : State) (t : Tag) : (s.setTag t).slotEmpty = s.slotEmpty := rfl
@[simp] theorem State.setTag_ready0 (s : State) (t : Tag) : (s.setTag t).ready0 = s.ready0 := rfl
@[simp] theorem State.setTag_ready1 (s : State) (t : Tag) : (s.setTag t).ready1 = s.ready1 := rfl
@[simp] theorem State.setTag_ready2 (s : State) (t : Tag) : (s.setTag t).ready2 = s.ready2 := rfl
@[simp] theorem State.setTag_energy (s : State) (t : Tag) : (s.setTag t).energy = s.energy := rfl
@[simp] theorem State.setTag_energyHi (s : State) (t : Tag) : (s.setTag t).energyHi = s.energyHi := rfl
@[simp] theorem State.setTag_packageId (s : State) (t : Tag) : (s.setTag t).packageId = s.packageId := rfl
@[simp] theorem State.setTag_measures (s : State) (t : Tag) : (s.setTag t).measures = s.measures := rfl
@[simp] theorem State.setTag_budgets (s : State) (t : Tag) : (s.setTag t).budgets = s.budgets := rfl
@[simp] theorem State.setTag_ballast (s : State) (t : Tag) : (s.setTag t).ballast = s.ballast := rfl
@[simp] theorem State.setTag_tenants (s : State) (t : Tag) : (s.setTag t).tenants = s.tenants := rfl
@[simp] theorem State.setTag_ports (s : State) (t : Tag) : (s.setTag t).ports = s.ports := rfl
@[simp] theorem State.setTag_streams (s : State) (t : Tag) : (s.setTag t).streams = s.streams := rfl
@[simp] theorem State.setTag_requests (s : State) (t : Tag) : (s.setTag t).requests = s.requests := rfl
@[simp] theorem State.setTag_nextTag (s : State) (t : Tag) : (s.setTag t).nextTag = s.nextTag := rfl
@[simp] theorem State.setTag_outbox (s : State) (t : Tag) : (s.setTag t).outbox = s.outbox := rfl
@[simp] theorem State.setTag_spdm (s : State) (t : Tag) : (s.setTag t).spdm = s.spdm := rfl
@[simp] theorem State.setTag_mgmt (s : State) (t : Tag) : (s.setTag t).mgmt = s.mgmt := rfl
@[simp] theorem State.setTag_nextFence (s : State) (t : Tag) : (s.setTag t).nextFence = s.nextFence := rfl
@[simp] theorem State.setTag_turns (s : State) (t : Tag) : (s.setTag t).turns = s.turns := rfl
@[simp] theorem State.setTag_flip (s : State) (t : Tag) : (s.setTag t).flip = s.flip := rfl
@[simp] theorem State.setTag_progress (s : State) (t : Tag) : (s.setTag t).progress = s.progress := rfl
@[simp] theorem State.setTag_clock (s : State) (t : Tag) : (s.setTag t).clock = s.clock := rfl
@[simp] theorem State.setTag_draws (s : State) (t : Tag) : (s.setTag t).draws = s.draws := rfl
@[simp] theorem State.setTag_issue (s : State) (t : Tag) : (s.setTag t).issue = s.issue := rfl

/-! ## Lanes -/

@[simp] theorem Lane.setReg_v (l : Lane) (i : Fin 64) (x : Word) : (l.setReg i x).v = l.v.set (l.phys i).val x := rfl
@[simp] theorem Lane.setReg_p (l : Lane) (i : Fin 64) (x : Word) : (l.setReg i x).p = l.p := rfl
@[simp] theorem Lane.setReg_pc (l : Lane) (i : Fin 64) (x : Word) : (l.setReg i x).pc = l.pc := rfl
@[simp] theorem Lane.setReg_latches (l : Lane) (i : Fin 64) (x : Word) : (l.setReg i x).latches = l.latches := rfl
@[simp] theorem Lane.setReg_chain (l : Lane) (i : Fin 64) (x : Word) : (l.setReg i x).chain = l.chain := rfl
@[simp] theorem Lane.setReg_status (l : Lane) (i : Fin 64) (x : Word) : (l.setReg i x).status = l.status := rfl
@[simp] theorem Lane.setReg_fuel (l : Lane) (i : Fin 64) (x : Word) : (l.setReg i x).fuel = l.fuel := rfl
@[simp] theorem Lane.setReg_fuelLeft (l : Lane) (i : Fin 64) (x : Word) : (l.setReg i x).fuelLeft = l.fuelLeft := rfl
@[simp] theorem Lane.setReg_h0 (l : Lane) (i : Fin 64) (x : Word) : (l.setReg i x).h0 = l.h0 := rfl
@[simp] theorem Lane.setReg_h1 (l : Lane) (i : Fin 64) (x : Word) : (l.setReg i x).h1 = l.h1 := rfl
@[simp] theorem Lane.setReg_stack (l : Lane) (i : Fin 64) (x : Word) : (l.setReg i x).stack = l.stack := rfl
@[simp] theorem Lane.setReg_spill (l : Lane) (i : Fin 64) (x : Word) : (l.setReg i x).spill = l.spill := rfl
@[simp] theorem Lane.setReg_loop (l : Lane) (i : Fin 64) (x : Word) : (l.setReg i x).loop = l.loop := rfl
@[simp] theorem Lane.setReg_gen (l : Lane) (i : Fin 64) (x : Word) : (l.setReg i x).gen = l.gen := rfl
@[simp] theorem Lane.setReg_hi (l : Lane) (i : Fin 64) (x : Word) : (l.setReg i x).hi = l.hi := rfl
@[simp] theorem Lane.setReg_exited (l : Lane) (i : Fin 64) (x : Word) : (l.setReg i x).exited = l.exited := rfl
@[simp] theorem Lane.setReg_inside (l : Lane) (i : Fin 64) (x : Word) : (l.setReg i x).inside = l.inside := rfl
@[simp] theorem Lane.setReg_wait (l : Lane) (i : Fin 64) (x : Word) : (l.setReg i x).wait = l.wait := rfl
@[simp] theorem Lane.setReg_excused (l : Lane) (i : Fin 64) (x : Word) : (l.setReg i x).excused = l.excused := rfl
@[simp] theorem Lane.setReg_pending (l : Lane) (i : Fin 64) (x : Word) : (l.setReg i x).pending = l.pending := rfl
@[simp] theorem Lane.setReg_bad (l : Lane) (i : Fin 64) (x : Word) : (l.setReg i x).bad = l.bad := rfl
@[simp] theorem Lane.setReg_task (l : Lane) (i : Fin 64) (x : Word) : (l.setReg i x).task = l.task := rfl

@[simp] theorem Lane.setFlags_v (l : Lane) (f : Word) : (l.setFlags f).v = l.v := rfl
@[simp] theorem Lane.setFlags_p (l : Lane) (f : Word) : (l.setFlags f).p = l.p := rfl
@[simp] theorem Lane.setFlags_pc (l : Lane) (f : Word) : (l.setFlags f).pc = l.pc := rfl
@[simp] theorem Lane.setFlags_latches (l : Lane) (f : Word) : (l.setFlags f).latches = l.latches := rfl
@[simp] theorem Lane.setFlags_chain (l : Lane) (f : Word) : (l.setFlags f).chain = l.chain := rfl
@[simp] theorem Lane.setFlags_status (l : Lane) (f : Word) : (l.setFlags f).status = l.status ||| (f &&& 0xFF) := rfl
@[simp] theorem Lane.setFlags_fuel (l : Lane) (f : Word) : (l.setFlags f).fuel = l.fuel := rfl
@[simp] theorem Lane.setFlags_fuelLeft (l : Lane) (f : Word) : (l.setFlags f).fuelLeft = l.fuelLeft := rfl
@[simp] theorem Lane.setFlags_h0 (l : Lane) (f : Word) : (l.setFlags f).h0 = l.h0 := rfl
@[simp] theorem Lane.setFlags_h1 (l : Lane) (f : Word) : (l.setFlags f).h1 = l.h1 := rfl
@[simp] theorem Lane.setFlags_stack (l : Lane) (f : Word) : (l.setFlags f).stack = l.stack := rfl
@[simp] theorem Lane.setFlags_spill (l : Lane) (f : Word) : (l.setFlags f).spill = l.spill := rfl
@[simp] theorem Lane.setFlags_loop (l : Lane) (f : Word) : (l.setFlags f).loop = l.loop := rfl
@[simp] theorem Lane.setFlags_gen (l : Lane) (f : Word) : (l.setFlags f).gen = l.gen := rfl
@[simp] theorem Lane.setFlags_hi (l : Lane) (f : Word) : (l.setFlags f).hi = l.hi := rfl
@[simp] theorem Lane.setFlags_exited (l : Lane) (f : Word) : (l.setFlags f).exited = l.exited := rfl
@[simp] theorem Lane.setFlags_inside (l : Lane) (f : Word) : (l.setFlags f).inside = l.inside := rfl
@[simp] theorem Lane.setFlags_wait (l : Lane) (f : Word) : (l.setFlags f).wait = l.wait := rfl
@[simp] theorem Lane.setFlags_excused (l : Lane) (f : Word) : (l.setFlags f).excused = l.excused := rfl
@[simp] theorem Lane.setFlags_pending (l : Lane) (f : Word) : (l.setFlags f).pending = l.pending := rfl
@[simp] theorem Lane.setFlags_bad (l : Lane) (f : Word) : (l.setFlags f).bad = l.bad := rfl
@[simp] theorem Lane.setFlags_task (l : Lane) (f : Word) : (l.setFlags f).task = l.task := rfl

end Sys2Proof.Machine
end

