-- ==== Sys2Proof/Laws/Parts.lean ====
section
/-!
SUPPORT. Finding and changing the parts of the machine: what a core, a team, a group and a lane read after a change.
-/
namespace Sys2Proof.Machine

theorem findCore_id (cs : List Core) (k : Nat) : (findCore cs k).id = k := by
  induction cs with
  | nil => rfl
  | cons x xs ih =>
    simp only [findCore]
    split
    · rename_i h; simpa using h
    · exact ih

@[simp] theorem State.core_id (s : State) (k : Nat) : (s.core k).id = k := findCore_id _ _

theorem findCore_putCore (cs : List Core) (c : Core) (k : Nat) :
    findCore (putCore cs c) k = if c.id = k then c else findCore cs k := by
  induction cs with
  | nil =>
    simp only [putCore, findCore]
    split <;> simp_all
  | cons x xs ih =>
    simp only [putCore]
    by_cases h1 : x.id = c.id
    · simp only [h1, beq_self_eq_true, if_true, findCore]
      by_cases h2 : c.id = k <;> simp [h2]
    · by_cases h2 : c.id < x.id
      · simp only [beq_eq_false_iff_ne.2 h1, h2, if_true, findCore, Bool.false_eq_true, if_false]
        by_cases h3 : c.id = k <;> simp [h3]
      · simp only [beq_eq_false_iff_ne.2 h1, h2, findCore, Bool.false_eq_true, if_false, ih]
        by_cases h3 : x.id = k
        · have : c.id ≠ k := fun h => h1 (h3.trans h.symm)
          simp [h3, this]
        · simp [h3]

@[simp] theorem State.core_setCore (s : State) (c : Core) (k : Nat) :
    (s.setCore c).core k = if c.id = k then c else s.core k := findCore_putCore _ _ _

/-- A core after its team is changed. -/
theorem State.core_modTeam (s : State) (c k : Nat) (f : Team → Team) :
    (s.modTeam c f).core k = if c = k then { s.core k with team := (s.core k).team.map f } else s.core k := by
  unfold State.modTeam
  split <;> rename_i h
  · split
    · subst_vars
      have : s.core k = { s.core k with team := none } := by rw [← h]
      rw [h]; exact this
    · rfl
  · simp only [State.core_setCore, State.core_id]
    split
    · subst_vars; simp [h]
    · rfl

@[simp] theorem State.team_modTeam (s : State) (c k : Nat) (f : Team → Team) :
    (s.modTeam c f).team k = if c = k then (s.team k).map f else s.team k := by
  unfold State.team
  rw [State.core_modTeam]
  split <;> rfl

/-- A group after a group is changed. -/
theorem State.group_modGroup (s : State) (c g k j : Nat) (f : Group → Group) :
    (s.modGroup c g f).group k j = if c = k ∧ g = j then (s.group k j).map f else s.group k j := by
  unfold State.modGroup State.group
  rw [State.team_modTeam]
  by_cases h1 : c = k
  · subst h1
    simp only [if_true, true_and]
    cases s.team c with
    | none => simp
    | some t => simp only [Option.map_some, getElem?_modifyNth]
  · simp [h1]

/-! ## What a change of a team leaves -/

/-- The two machines differ at most in the team on a core. -/
def State.sameBut (core : Nat) (s t : State) : Prop := ∃ cs, t = { s with cores := cs } ∧ ∀ k, k ≠ core → findCore cs k = s.core k

theorem State.sameBut_refl (core : Nat) (s : State) : s.sameBut core s := ⟨s.cores, rfl, fun _ _ => rfl⟩

theorem State.sameBut_trans {core : Nat} {s t u : State} (h : s.sameBut core t) (h' : t.sameBut core u) :
    s.sameBut core u := by
  obtain ⟨cs, rfl, h1⟩ := h
  obtain ⟨ds, rfl, h2⟩ := h'
  exact ⟨ds, rfl, fun k hk => (h2 k hk).trans (h1 k hk)⟩

theorem State.sameBut_modTeam (s : State) (core : Nat) (f : Team → Team) : s.sameBut core (s.modTeam core f) := by
  unfold State.modTeam
  split
  · exact State.sameBut_refl _ _
  · refine ⟨_, rfl, fun k hk => ?_⟩
    rw [findCore_putCore]
    simp only [State.core_id]
    rw [if_neg (Ne.symm hk)]
    rfl

theorem State.sameBut_modGroup (s : State) (core gi : Nat) (f : Group → Group) :
    s.sameBut core (s.modGroup core gi f) := State.sameBut_modTeam _ _ _

end Sys2Proof.Machine
end

