-- ==== Sys2Proof/Laws/Keep.lean ====
section
/-!
SUPPORT. What the shared operations leave alone: the canonical form of memory and the unit in hand (`Keeps`), the cores
(`_cores` lemmas), and the groups (`SameGroups`).
-/
namespace Sys2Proof.Machine

/-- From a memory in canonical form comes one in canonical form, and the unit in hand is the same. -/
structure Keeps (s t : State) : Prop where
  wf    : s.mem.wf = true → t.mem.wf = true
  issue : t.issue = s.issue

theorem Keeps.refl (s : State) : Keeps s s := ⟨id, rfl⟩

theorem Keeps.trans {s t u : State} (h : Keeps s t) (h' : Keeps t u) : Keeps s u :=
  ⟨fun x => h'.wf (h.wf x), h'.issue.trans h.issue⟩

theorem Keeps.of_eq {s t : State} (h : t.mem = s.mem) (h' : t.issue = s.issue) : Keeps s t :=
  ⟨fun x => by rw [h]; exact x, h'⟩

/-- A fold of steps that keep, keeps. -/
theorem Keeps.foldl {α : Type} (f : State → α → State) (hf : ∀ s a, Keeps s (f s a)) (l : List α) (s : State) :
    Keeps s (l.foldl f s) := by
  induction l generalizing s with
  | nil => exact Keeps.refl s
  | cons x xs ih => exact (hf s x).trans (ih _)

/-- The groups of every core are the same. -/
def SameGroups (s t : State) : Prop := ∀ core gi, t.group core gi = s.group core gi

theorem SameGroups.refl (s : State) : SameGroups s s := fun _ _ => rfl

theorem SameGroups.trans {s t u : State} (h : SameGroups s t) (h' : SameGroups t u) : SameGroups s u :=
  fun c g => (h' c g).trans (h c g)

theorem SameGroups.of_cores {s t : State} (h : t.cores = s.cores) : SameGroups s t := by
  intro c g
  simp [State.group, State.team, State.core, h]

/-! ## Changes of a team -/

theorem keeps_setCore (s : State) (c : Core) : Keeps s (s.setCore c) := Keeps.of_eq rfl rfl

theorem keeps_modTeam (s : State) (c : Nat) (f : Team → Team) : Keeps s (s.modTeam c f) := by
  unfold State.modTeam
  split
  · exact Keeps.refl s
  · exact keeps_setCore _ _

theorem keeps_modGroup (s : State) (c g : Nat) (f : Group → Group) : Keeps s (s.modGroup c g f) := keeps_modTeam _ _ _
theorem keeps_modLane (s : State) (c g l : Nat) (f : Lane → Lane) : Keeps s (s.modLane c g l f) := keeps_modGroup _ _ _ _
theorem keeps_modPart (s : State) (p : Nat) (f : Part → Part) : Keeps s (s.modPart p f) := Keeps.of_eq rfl rfl
theorem keeps_setCluster (s : State) (c : Cluster) : Keeps s (s.setCluster c) := by
  unfold State.setCluster; split <;> exact Keeps.of_eq rfl rfl
theorem keeps_setEngine (s : State) (c : Engine) : Keeps s (s.setEngine c) := by
  unfold State.setEngine; split <;> exact Keeps.of_eq rfl rfl
theorem keeps_moved (s : State) : Keeps s s.moved := Keeps.of_eq rfl rfl

@[simp] theorem State.modTeam_mem (s : State) (c : Nat) (f : Team → Team) : (s.modTeam c f).mem = s.mem := by
  unfold State.modTeam; split <;> rfl
@[simp] theorem State.modGroup_mem (s : State) (c g : Nat) (f : Group → Group) : (s.modGroup c g f).mem = s.mem :=
  State.modTeam_mem _ _ _
@[simp] theorem State.modLane_mem (s : State) (c g l : Nat) (f : Lane → Lane) : (s.modLane c g l f).mem = s.mem :=
  State.modGroup_mem _ _ _ _
@[simp] theorem State.modTeam_parts (s : State) (c : Nat) (f : Team → Team) : (s.modTeam c f).parts = s.parts := by
  unfold State.modTeam; split <;> rfl
@[simp] theorem State.modGroup_parts (s : State) (c g : Nat) (f : Group → Group) : (s.modGroup c g f).parts = s.parts :=
  State.modTeam_parts _ _ _
@[simp] theorem State.modTeam_issue (s : State) (c : Nat) (f : Team → Team) : (s.modTeam c f).issue = s.issue := by
  unfold State.modTeam; split <;> rfl
@[simp] theorem State.modGroup_issue (s : State) (c g : Nat) (f : Group → Group) : (s.modGroup c g f).issue = s.issue :=
  State.modTeam_issue _ _ _
@[simp] theorem State.setCluster_cores (s : State) (c : Cluster) : (s.setCluster c).cores = s.cores := by
  unfold State.setCluster; split <;> rfl
@[simp] theorem State.setCluster_mem (s : State) (c : Cluster) : (s.setCluster c).mem = s.mem := by
  unfold State.setCluster; split <;> rfl
@[simp] theorem State.setEngine_cores (s : State) (c : Engine) : (s.setEngine c).cores = s.cores := by
  unfold State.setEngine; split <;> rfl

/-- A change of a team that leaves its groups leaves every group. -/
theorem sameGroups_modTeam (s : State) (c : Nat) (f : Team → Team) (h : ∀ t, (f t).groups = t.groups) :
    SameGroups s (s.modTeam c f) := by
  intro k j
  simp only [State.group, State.team_modTeam]
  by_cases hk : c = k
  · subst hk
    simp only [if_true]
    cases ht : s.team c with
    | none => rfl
    | some t => simp only [Option.map_some, h]
  · simp [hk]

theorem sameGroups_setCore (s : State) (c : Core) (h : c.team = s.team c.id) : SameGroups s (s.setCore c) := by
  intro k j
  have : (s.setCore c).team k = s.team k := by
    simp only [State.team, State.core_setCore]
    by_cases hk : c.id = k
    · subst hk; rw [if_pos rfl, h]; rfl
    · rw [if_neg hk]
  simp only [State.group, this]

/-! ## Records -/

theorem foldl_postMgmt (l : List Part) (f : Part → Record) (s : State) :
    (l.foldl (fun (s : State) p => s.postMgmt (f p)) s).cores = s.cores ∧
    (l.foldl (fun (s : State) p => s.postMgmt (f p)) s).mem = s.mem ∧
    (l.foldl (fun (s : State) p => s.postMgmt (f p)) s).issue = s.issue := by
  induction l generalizing s with
  | nil => exact ⟨rfl, rfl, rfl⟩
  | cons x xs ih => exact ih (s.postMgmt (f x))

@[simp] theorem State.reportIntegrity_cores (s : State) (ps : List Part) : (s.reportIntegrity ps).cores = s.cores :=
  (foldl_postMgmt _ _ _).1
@[simp] theorem State.reportIntegrity_mem (s : State) (ps : List Part) : (s.reportIntegrity ps).mem = s.mem :=
  (foldl_postMgmt _ _ _).2.1
@[simp] theorem State.reportIntegrity_issue (s : State) (ps : List Part) : (s.reportIntegrity ps).issue = s.issue :=
  (foldl_postMgmt _ _ _).2.2

/-- What a store does: to an unreachable die nothing; elsewhere the bytes are written. -/
theorem State.store_mem (s : State) (a : Nat) (bs : List Byte) :
    (s.store a bs).mem = if s.cut a then s.mem else s.mem.putAll a bs := by
  unfold State.store
  split
  · rfl
  · simp only
    split <;> simp

@[simp] theorem State.store_cores (s : State) (a : Nat) (bs : List Byte) : (s.store a bs).cores = s.cores := by
  unfold State.store
  split
  · rfl
  · simp only
    split <;> simp

@[simp] theorem State.store_issue (s : State) (a : Nat) (bs : List Byte) : (s.store a bs).issue = s.issue := by
  unfold State.store
  split
  · rfl
  · simp only
    split <;> simp

theorem keeps_store (s : State) (a : Nat) (bs : List Byte) : Keeps s (s.store a bs) := by
  refine ⟨fun h => ?_, State.store_issue _ _ _⟩
  rw [State.store_mem]
  split
  · exact h
  · exact Memory.wf_putAll _ _ _ h

theorem storeMask_spec (bs : List Byte) (s : State) (a : Nat) (ks : List Bool) :
    Keeps s (s.storeMask a bs ks) ∧ (s.storeMask a bs ks).cores = s.cores := by
  induction bs generalizing s a ks with
  | nil => exact ⟨Keeps.refl s, rfl⟩
  | cons b bs ih =>
    cases ks with
    | nil => exact ⟨Keeps.refl s, rfl⟩
    | cons k ks =>
      simp only [State.storeMask]
      obtain ⟨h1, h2⟩ := ih (if k then s.store a [b] else s) (a + 1) ks
      constructor
      · refine Keeps.trans ?_ h1
        split
        · exact keeps_store _ _ _
        · exact Keeps.refl s
      · rw [h2]; split <;> simp

theorem keeps_storeMask (s : State) (a : Nat) (bs : List Byte) (ks : List Bool) : Keeps s (s.storeMask a bs ks) :=
  (storeMask_spec bs s a ks).1
@[simp] theorem State.storeMask_cores (s : State) (a : Nat) (bs : List Byte) (ks : List Bool) :
    (s.storeMask a bs ks).cores = s.cores := (storeMask_spec bs s a ks).2

theorem keeps_markPoison (s : State) (a n : Nat) : Keeps s (s.markPoison a n) := Keeps.of_eq rfl rfl
theorem keeps_zeroRange (s : State) (a n : Nat) : Keeps s (s.zeroRange a n) := ⟨Memory.wf_zero _ _ _, rfl⟩
theorem keeps_untagRange (s : State) (a n : Nat) : Keeps s (s.untagRange a n) := Keeps.of_eq rfl rfl
theorem keeps_untag (s : State) (k : Nat) : Keeps s (s.untag k) := Keeps.of_eq rfl rfl
theorem keeps_setTag (s : State) (t : Tag) : Keeps s (s.setTag t) := Keeps.of_eq rfl rfl
theorem keeps_stamped (s : State) : Keeps s s.stamped := Keeps.of_eq rfl rfl
theorem keeps_postMgmt (s : State) (r : Record) : Keeps s (s.postMgmt r) := Keeps.of_eq rfl rfl

theorem cache_spec (s : State) (part va : Nat) (w : Walk) :
    Keeps s (s.cache part va w) ∧ (s.cache part va w).cores = s.cores ∧ (s.cache part va w).mem = s.mem := by
  unfold State.cache
  split
  · exact ⟨Keeps.refl s, rfl, rfl⟩
  · exact ⟨keeps_modPart _ _ _, rfl, rfl⟩
theorem keeps_cache (s : State) (part va : Nat) (w : Walk) : Keeps s (s.cache part va w) := (cache_spec s part va w).1
@[simp] theorem State.cache_cores (s : State) (part va : Nat) (w : Walk) : (s.cache part va w).cores = s.cores :=
  (cache_spec s part va w).2.1

theorem devWrite_spec (part : Nat) (bs : List Byte) (s : State) (va : Nat) :
    Keeps s (s.devWrite part va bs) ∧ (s.devWrite part va bs).cores = s.cores := by
  induction bs generalizing s va with
  | nil => exact ⟨Keeps.refl s, rfl⟩
  | cons b bs ih =>
    simp only [State.devWrite]
    have h0 : ∀ s' : State, Keeps s s' → s'.cores = s.cores →
        Keeps s (s'.devWrite part (va + 1) bs) ∧ (s'.devWrite part (va + 1) bs).cores = s.cores := by
      intro s' h1 h2
      obtain ⟨h3, h4⟩ := ih s' (va + 1)
      exact ⟨h1.trans h3, h4.trans h2⟩
    split
    · exact h0 s (Keeps.refl s) rfl
    · split
      · exact h0 _ (keeps_store _ _ _) (State.store_cores _ _ _)
      · exact h0 s (Keeps.refl s) rfl

theorem enqueue_spec (s : State) (part : Nat) (r : Record) :
    Keeps s (s.enqueue part r) ∧ (s.enqueue part r).cores = s.cores := by
  unfold State.enqueue
  split
  · exact ⟨Keeps.refl s, rfl⟩
  · rename_i p _
    have h := devWrite_spec part r.bytes s (p.fqbase.toNat + 64 * (p.fqprod.toNat % p.fqsize.toNat))
    exact ⟨h.1.trans (keeps_modPart _ _ _), by rw [State.modPart_cores]; exact h.2⟩

theorem postStamped_spec (s : State) (part : Nat) (r : Record) :
    Keeps s (s.postStamped part r) ∧ (s.postStamped part r).cores = s.cores := by
  unfold State.postStamped
  split
  · exact ⟨Keeps.refl s, rfl⟩
  · split
    · exact ⟨keeps_modPart _ _ _, rfl⟩
    · exact enqueue_spec _ _ _

theorem keeps_postStamped (s : State) (part : Nat) (r : Record) : Keeps s (s.postStamped part r) :=
  (postStamped_spec s part r).1
@[simp] theorem State.postStamped_cores (s : State) (part : Nat) (r : Record) : (s.postStamped part r).cores = s.cores :=
  (postStamped_spec s part r).2

theorem keeps_post (s : State) (part : Nat) (r : Record) : Keeps s (s.post part r) :=
  (keeps_stamped s).trans (keeps_postStamped _ _ _)
@[simp] theorem State.post_cores (s : State) (part : Nat) (r : Record) : (s.post part r).cores = s.cores := by
  unfold State.post; simp

theorem keeps_postOwner (s : State) (part : Option Nat) (r : Record) : Keeps s (s.postOwner part r) := by
  unfold State.postOwner; split
  · exact keeps_post _ _ _
  · exact keeps_postMgmt _ _
@[simp] theorem State.postOwner_cores (s : State) (part : Option Nat) (r : Record) :
    (s.postOwner part r).cores = s.cores := by
  unfold State.postOwner; split <;> simp

theorem errorReport_spec (s : State) (part : Option Nat) (u : Nat) (c p : Bool) (loc : Nat) :
    Keeps s (s.errorReport part u c p loc) ∧ (s.errorReport part u c p loc).cores = s.cores := by
  unfold State.errorReport
  simp only
  split
  · split
    · exact ⟨(keeps_postOwner _ _ _).trans (Keeps.of_eq rfl rfl), by simp⟩
    · exact ⟨keeps_postOwner _ _ _, by simp⟩
  · exact ⟨keeps_postOwner _ _ _, by simp⟩

theorem keeps_errorReport (s : State) (part : Option Nat) (u : Nat) (c p : Bool) (loc : Nat) :
    Keeps s (s.errorReport part u c p loc) := (errorReport_spec s part u c p loc).1
@[simp] theorem State.errorReport_cores (s : State) (part : Option Nat) (u : Nat) (c p : Bool) (loc : Nat) :
    (s.errorReport part u c p loc).cores = s.cores := (errorReport_spec s part u c p loc).2

theorem keeps_reportCut (s : State) (part a : Nat) (r : Bool) : Keeps s (s.reportCut part a r) := by
  unfold State.reportCut; split
  · exact keeps_errorReport _ _ _ _ _ _
  · exact Keeps.refl s
@[simp] theorem State.reportCut_cores (s : State) (part a : Nat) (r : Bool) : (s.reportCut part a r).cores = s.cores := by
  unfold State.reportCut; split <;> simp

theorem keeps_noteBy (s : State) (core : Nat) (as : List Nat) : Keeps s (s.noteBy core as) := by
  unfold State.noteBy; split
  · exact Keeps.refl s
  · exact ⟨id, rfl⟩
@[simp] theorem State.noteBy_cores (s : State) (core : Nat) (as : List Nat) : (s.noteBy core as).cores = s.cores := by
  unfold State.noteBy; split <;> rfl

theorem keeps_postFrozen (s : State) (part : Nat) (r : Record) (x : Nat) : Keeps s (s.postFrozen part r x) := by
  unfold State.postFrozen
  exact (keeps_post _ _ _).trans (keeps_postMgmt _ _)
@[simp] theorem State.postFrozen_cores (s : State) (part : Nat) (r : Record) (x : Nat) :
    (s.postFrozen part r x).cores = s.cores := by
  unfold State.postFrozen; simp

theorem keeps_freezeCore (s : State) (core part x : Nat) : Keeps s (s.freezeCore core part x) := by
  unfold State.freezeCore; split
  · exact Keeps.refl s
  · exact (keeps_setCore _ _).trans (keeps_postFrozen _ _ _ _)

theorem sameGroups_freezeCore (s : State) (core part x : Nat) : SameGroups s (s.freezeCore core part x) := by
  unfold State.freezeCore; split
  · exact SameGroups.refl s
  · have h := sameGroups_setCore s { s.core core with frozen := true } (by simp [State.team])
    exact h.trans (SameGroups.of_cores (State.postFrozen_cores _ _ _ _))

theorem keeps_freezeEngine (s : State) (d e part x : Nat) : Keeps s (s.freezeEngine d e part x) :=
  (keeps_setEngine _ _).trans (keeps_postFrozen _ _ _ _)
theorem keeps_freezeQueues (s : State) (k part x : Nat) : Keeps s (s.freezeQueues k part x) :=
  (keeps_setCluster _ _).trans (keeps_postFrozen _ _ _ _)

/-! ## The halt of a group -/

theorem keeps_haltGroup (s : State) (core g : Nat) (h : HaltWhy) : Keeps s (s.haltGroup core g h) := by
  unfold State.haltGroup
  split
  · exact Keeps.refl s
  · split
    · exact Keeps.refl s
    · exact (((keeps_stamped s).trans (keeps_postStamped _ _ _)).trans (keeps_modGroup _ _ _ _)).trans (keeps_moved _)

end Sys2Proof.Machine
end

