-- ==== Sys2Proof/Laws/Flush.lean ====
section
/-!
SUPPORT. Write-backs, flushes, triggers and the ends of groups: what they leave alone.
-/
namespace Sys2Proof.Machine

theorem sent_spec (s : State) (part pkg port : Nat) :
    Keeps s (s.sent part pkg port) ∧ (s.sent part pkg port).cores = s.cores := by
  unfold State.sent; split <;> exact ⟨Keeps.of_eq rfl rfl, rfl⟩

/-- A fold of steps that keep memory's form, the unit in hand and the cores. -/
theorem foldl_spec {α : Type} (f : State → α → State) (hf : ∀ s a, Keeps s (f s a) ∧ (f s a).cores = s.cores) (l : List α)
    (s : State) : Keeps s (l.foldl f s) ∧ (l.foldl f s).cores = s.cores := by
  induction l generalizing s with
  | nil => exact ⟨Keeps.refl s, rfl⟩
  | cons x xs ih => exact ⟨(hf s x).1.trans (ih _).1, (ih _).2.trans (hf s x).2⟩

theorem sendOn_spec (s : State) (part pkg port : Nat) (x : OutFlit) :
    Keeps s (s.sendOn part pkg port x) ∧ (s.sendOn part pkg port x).cores = s.cores :=
  ⟨(sent_spec s part pkg port).1.trans (Keeps.of_eq rfl rfl), (sent_spec s part pkg port).2⟩

theorem request_spec (s : State) (type part pkg port : Nat) (k : Bool) (body : List Byte) (ads : List Nat) (x : ReqAgent) :
    Keeps s (s.request type part pkg port k body ads x) ∧ (s.request type part pkg port k body ads x).cores = s.cores :=
  let y : OutFlit := ⟨type, k, false, s.nextTag, body⟩
  ⟨(sendOn_spec s part pkg port y).1.trans (Keeps.of_eq rfl rfl), (sendOn_spec s part pkg port y).2⟩

theorem writeHome_spec (s : State) (part : Nat) (x : ReqAgent) (a : Nat) (bs : List Byte) (ks : List Bool) (k : Bool) :
    Keeps s (s.writeHome part x a bs ks k) ∧ (s.writeHome part x a bs ks k).cores = s.cores := by
  unfold State.writeHome
  split
  · split
    · refine foldl_spec _ (fun s y => ?_) _ s
      dsimp only
      split
      · exact ⟨Keeps.refl s, rfl⟩
      · exact ⟨(keeps_storeMask _ _ _ _).trans (request_spec _ _ _ _ _ _ _ _ _).1,
          (request_spec _ _ _ _ _ _ _ _ _).2.trans (State.storeMask_cores _ _ _ _)⟩
    · exact ⟨Keeps.refl s, rfl⟩
  · exact ⟨keeps_storeMask _ _ _ _, State.storeMask_cores _ _ _ _⟩

theorem backInvalidate_spec (s : State) (ls : List Nat) :
    Keeps s (s.backInvalidate ls) ∧ (s.backInvalidate ls).cores = s.cores := by
  unfold State.backInvalidate; split <;> exact ⟨Keeps.of_eq rfl rfl, rfl⟩

theorem carryPoison_spec (s : State) (src dst n : Nat) (ks : List Bool) :
    Keeps s (s.carryPoison src dst n ks) ∧ (s.carryPoison src dst n ks).cores = s.cores :=
  foldl_spec _ (fun s _ => foldl_spec _ (fun s _ => ⟨keeps_markPoison s _ _, rfl⟩) _ s) _ s

theorem drawn_spec (s : State) (b : Bool) (n : Nat) :
    Keeps s (if b then (s.drawn n).2 else s) ∧ (if b then (s.drawn n).2 else s).cores = s.cores := by
  cases b
  · exact ⟨Keeps.refl s, rfl⟩
  · exact ⟨⟨id, rfl⟩, rfl⟩

theorem sendDirty_spec (s : State) (core : Nat) (r : Region) (k o home n : Nat) :
    Keeps s (s.sendDirty core r k o home n) ∧ (s.sendDirty core r k o home n).cores = s.cores := by
  unfold State.sendDirty
  extract_lets stray data mask part lines s1
  have h : Keeps s s1 ∧ s1.cores = s.cores := by
    have d := drawn_spec s stray n
    have b := backInvalidate_spec (if stray then (s.drawn n).2 else s) lines
    have w := writeHome_spec ((if stray then (s.drawn n).2 else s).backInvalidate lines) part (.write core) home data mask false
    exact ⟨(d.1.trans b.1).trans w.1, (w.2.trans b.2).trans d.2⟩
  split
  · exact h
  · have c := carryPoison_spec s1 (r.dataAt core + 4096 * k + o) home n mask
    exact ⟨((h.1.trans c.1).trans (keeps_reportCut _ _ _ _)).trans (keeps_noteBy _ _ _), by
      rw [State.noteBy_cores, State.reportCut_cores, c.2, h.2]⟩

theorem setMask_spec (core : Nat) (r : Region) (k : Nat) (d : Bool) (n : Nat) (s : State) (o : Nat) :
    Keeps s (s.setMask core r k o d n) ∧ (s.setMask core r k o d n).cores = s.cores := by
  induction n generalizing s o with
  | zero => exact ⟨Keeps.refl s, rfl⟩
  | succ n ih =>
    simp only [State.setMask]
    obtain ⟨h1, h2⟩ := ih (s.store (r.maskAt core + 512 * k + o / 8)
      [BitVec.ofNat 8 (setFld (s.num (r.maskAt core + 512 * k + o / 8) 1) (o % 8) 1 (b2n d))]) (o + 1)
    exact ⟨(keeps_store _ _ _).trans h1, by rw [h2, State.store_cores]⟩

theorem keeps_modRegion (s : State) (core id : Nat) (f : Region → Region) : Keeps s (s.modRegion core id f) :=
  keeps_modTeam _ _ _
theorem keeps_modSlot (s : State) (core id k : Nat) (f : Slot → Slot) : Keeps s (s.modSlot core id k f) :=
  keeps_modRegion _ _ _ _
theorem sameGroups_modRegion (s : State) (core id : Nat) (f : Region → Region) : SameGroups s (s.modRegion core id f) :=
  sameGroups_modTeam _ _ _ fun _ => rfl
theorem sameGroups_modSlot (s : State) (core id k : Nat) (f : Slot → Slot) : SameGroups s (s.modSlot core id k f) :=
  sameGroups_modRegion _ _ _ _

theorem postTranslate_spec (s : State) (part : Nat) (r : Record) (x : XAgent) :
    Keeps s (s.postTranslate part r x) ∧ (s.postTranslate part r x).cores = s.cores := by
  unfold State.postTranslate
  split
  · exact ⟨Keeps.refl s, rfl⟩
  · split
    · exact ⟨Keeps.refl s, rfl⟩
    · exact ⟨((keeps_post _ _ _).trans (keeps_modPart _ _ _)).trans (keeps_moved _), by simp⟩

theorem joinWriteBack_spec (s : State) (part core id k : Nat) (grp : Option Nat) (pc : Word) (ls : BitVec 64) :
    Keeps s (s.joinWriteBack part core id k grp pc ls) ∧ (s.joinWriteBack part core id k grp pc ls).cores = s.cores := by
  unfold State.joinWriteBack
  split
  · exact ⟨Keeps.refl s, rfl⟩
  · exact ⟨keeps_modPart _ _ _, rfl⟩

/-- A write-back keeps memory's form, the unit in hand and every lane. -/
theorem writeBack_spec (s : State) (core : Nat) (r : Region) (k : Nat) (grp : Option Nat) (pc : Word) (ls : BitVec 64) :
    Keeps s (s.writeBack core r k grp pc ls).1 ∧ SameGroups s (s.writeBack core r k grp pc ls).1 := by
  unfold State.writeBack
  simp only
  split
  · exact ⟨Keeps.refl s, SameGroups.refl s⟩
  · split
    · exact ⟨Keeps.refl s, SameGroups.refl s⟩
    · split
      · exact ⟨Keeps.refl s, SameGroups.refl s⟩
      · split
        · exact ⟨(joinWriteBack_spec _ _ _ _ _ _ _ _).1, SameGroups.of_cores (joinWriteBack_spec _ _ _ _ _ _ _ _).2⟩
        · split
          · split
            · exact ⟨Keeps.refl s, SameGroups.refl s⟩
            · split
              · exact ⟨keeps_freezeCore _ _ _ _, sameGroups_freezeCore _ _ _ _⟩
              · exact ⟨(postTranslate_spec _ _ _ _).1, SameGroups.of_cores (postTranslate_spec _ _ _ _).2⟩
          · split
            · exact ⟨Keeps.refl s, SameGroups.refl s⟩
            · rename_i t _ _ _ a r1 r2 sld _ _
              have h := sendDirty_spec (s.cache t.part (4096 * (r.slot k).page) (.ok a r1 r2 sld)) core r k 0 a 4096
              refine ⟨(((keeps_cache _ _ _ _).trans h.1).trans (keeps_store _ _ _)).trans (keeps_modSlot _ _ _ _ _),
                SameGroups.trans (SameGroups.of_cores ?_) (sameGroups_modSlot _ _ _ _ _)⟩
              rw [State.store_cores, h.2, State.cache_cores]

theorem writeBackRegion_spec (core id : Nat) (grp : Option Nat) (pc : Word) (ls : BitVec 64) (n : Nat) (s : State) (k : Nat) :
    Keeps s (s.writeBackRegion core id grp pc ls k n).1 ∧ SameGroups s (s.writeBackRegion core id grp pc ls k n).1 := by
  induction n generalizing s k with
  | zero => exact ⟨Keeps.refl s, SameGroups.refl s⟩
  | succ n ih =>
    simp only [State.writeBackRegion]
    split
    · exact ⟨Keeps.refl s, SameGroups.refl s⟩
    · rename_i r _
      have h := writeBack_spec s core r k grp pc ls
      have h' := ih (s.writeBack core r k grp pc ls).1 (k + 1)
      exact ⟨h.1.trans h'.1, h.2.trans h'.2⟩

theorem writeBackAll_spec (core : Nat) (grp : Option Nat) (pc : Word) (ls : BitVec 64) (rs : List Region) (s : State) :
    Keeps s (s.writeBackAll core grp pc ls rs).1 ∧ SameGroups s (s.writeBackAll core grp pc ls rs).1 := by
  induction rs generalizing s with
  | nil => exact ⟨Keeps.refl s, SameGroups.refl s⟩
  | cons r rs ih =>
    simp only [State.writeBackAll]
    have h := writeBackRegion_spec core r.id grp pc ls r.slots.length s 0
    have h' := ih (s.writeBackRegion core r.id grp pc ls 0 r.slots.length).1
    exact ⟨h.1.trans h'.1, h.2.trans h'.2⟩

theorem flushTeam_spec (s : State) (core : Nat) (grp : Option Nat) (pc : Word) (ls : BitVec 64) :
    Keeps s (s.flushTeam core grp pc ls).1 ∧ SameGroups s (s.flushTeam core grp pc ls).1 := writeBackAll_spec _ _ _ _ _ _

theorem writeBitmap_spec (s : State) (part seq team : Nat) (e : Bool) :
    Keeps s (s.writeBitmap part seq team e) ∧ (s.writeBitmap part seq team e).cores = s.cores := by
  unfold State.writeBitmap
  split
  · exact ⟨Keeps.refl s, rfl⟩
  · split
    · exact ⟨Keeps.refl s, rfl⟩
    · simp only
      split
      · exact ⟨(keeps_store _ _ _).trans (keeps_reportCut _ _ _ _), by simp⟩
      · exact postTranslate_spec _ _ _ _

theorem setTrig_spec (s : State) (part seq team : Nat) :
    Keeps s (s.setTrig part seq team) ∧ (s.setTrig part seq team).cores = s.cores := by
  unfold State.setTrig
  exact ⟨(keeps_modPart _ _ _).trans (writeBitmap_spec _ _ _ _ _).1, (writeBitmap_spec _ _ _ _ _).2⟩

theorem setEnd_spec (s : State) (part seq team : Nat) :
    Keeps s (s.setEnd part seq team) ∧ (s.setEnd part seq team).cores = s.cores := by
  unfold State.setEnd
  exact ⟨(keeps_modPart _ _ _).trans (writeBitmap_spec _ _ _ _ _).1, (writeBitmap_spec _ _ _ _ _).2⟩

theorem triggerTeam_spec (s : State) (core : Nat) (grp : Option Nat) (pc : Word) (ls : BitVec 64) :
    Keeps s (s.triggerTeam core grp pc ls).1 ∧ SameGroups s (s.triggerTeam core grp pc ls).1 := by
  unfold State.triggerTeam
  split
  · exact ⟨Keeps.refl s, SameGroups.refl s⟩
  · split
    · exact ⟨Keeps.refl s, SameGroups.refl s⟩
    · rename_i t _ _
      have h := flushTeam_spec s core grp pc ls
      simp only
      split
      · have h' := setTrig_spec (s.flushTeam core grp pc ls).1 t.part t.seq t.number
        exact ⟨h.1.trans h'.1, h.2.trans (SameGroups.of_cores h'.2)⟩
      · exact h

/-! ## Barriers of the team and the ends of groups -/

theorem settleBart_group (t : Team) (gi : Nat) (g : Group) (h : t.groups[gi]? = some g) (hb : g.atNoBarrier = true) :
    t.settleBart.groups[gi]? = some g := by
  unfold Team.settleBart
  split
  · exact h
  · split
    · simp only [List.getElem?_map, h, Option.map_some]
      cases hw : g.wait <;> simp_all [Group.atNoBarrier]
    · exact h

theorem passBarc_group (t : Team) (k gi : Nat) (g : Group) (h : t.groups[gi]? = some g) (hb : g.atNoBarrier = true) :
    (t.passBarc k).groups[gi]? = some g := by
  simp only [Team.passBarc, List.getElem?_map, h, Option.map_some]
  cases hw : g.wait <;> simp_all [Group.atNoBarrier]

theorem group_modTeam (s : State) (core gi : Nat) (f : Team → Team) (g : Group) (h : s.group core gi = some g)
    (hf : ∀ t, s.team core = some t → t.groups[gi]? = some g → (f t).groups[gi]? = some g) :
    (s.modTeam core f).group core gi = some g := by
  unfold State.group at h ⊢
  rw [State.team_modTeam, if_pos rfl]
  cases ht : s.team core with
  | none => simp [ht] at h
  | some t => simp only [ht] at h; exact hf t ht h

theorem arriveBarc_group (s : State) (core gi : Nat) (left : Copy → Nat) (g : Group) (h : s.group core gi = some g)
    (hb : g.atNoBarrier = true) : (s.arriveBarc core left).group core gi = some g := by
  unfold State.arriveBarc
  split
  · exact h
  · split
    · exact h
    · split
      · exact group_modTeam s core gi _ g h fun t _ ht => passBarc_group t _ gi g ht hb
      · split
        · exact h
        · split
          · exact h
          · simp only
            split
            · exact h
            · refine group_modTeam _ core gi _ g ?_ fun t _ ht => ht
              unfold State.modCells
              simpa [State.group, State.team, State.core] using h

/-- What follows the end of groups leaves a group that waits at no barrier of the team. -/
theorem afterEnds_group (s : State) (core gi : Nat) (left : Copy → Nat) (g : Group) (h : s.group core gi = some g)
    (hb : g.atNoBarrier = true) : (s.afterEnds core left).group core gi = some g := by
  unfold State.afterEnds
  split
  · exact h
  · have h1 : (s.modTeam core Team.settleBart).group core gi = some g :=
      group_modTeam s core gi _ g h fun t _ ht => settleBart_group t gi g ht hb
    have h2 := arriveBarc_group _ core gi left g h1 hb
    simp only
    split
    · split
      · exact group_modTeam _ core gi _ g h2 fun t _ ht => ht
      · exact h2
    · split
      · exact h2
      · split
        · rw [(triggerTeam_spec _ core none 0 0).2 core gi]; exact h2
        · exact h2

theorem keeps_modCells (s : State) (core : Nat) (t : Team) (f : Nat → BarCell → BarCell) : Keeps s (s.modCells core t f) :=
  keeps_setCluster _ _

theorem keeps_arriveBarc (s : State) (core : Nat) (left : Copy → Nat) : Keeps s (s.arriveBarc core left) := by
  unfold State.arriveBarc
  split
  · exact Keeps.refl s
  · split
    · exact Keeps.refl s
    · split
      · exact (keeps_modTeam _ _ _).trans (keeps_moved _)
      · split
        · exact Keeps.refl s
        · split
          · exact Keeps.refl s
          · simp only
            split
            · exact Keeps.refl s
            · exact ((keeps_modCells _ _ _ _).trans (keeps_modTeam _ _ _)).trans (keeps_moved _)

theorem keeps_afterEnds (s : State) (core : Nat) (left : Copy → Nat) : Keeps s (s.afterEnds core left) := by
  unfold State.afterEnds
  split
  · exact Keeps.refl s
  · have h := (keeps_modTeam s core Team.settleBart).trans (keeps_arriveBarc _ core left)
    simp only
    split
    · split
      · exact h.trans ((keeps_modTeam _ _ _).trans (keeps_moved _))
      · exact h
    · split
      · exact h
      · split
        · exact h.trans (triggerTeam_spec _ _ _ _ _).1
        · exact h

end Sys2Proof.Machine
end

