-- ==== Sys2Proof/Laws/PerInstr.lean ====
section
/-!
SUPPORT. Per instruction: the word that the encoder writes for a well-formed term decodes to that term (`RoundTrip`). An event has
no word.
-/
namespace Sys2Proof.Laws

/-- The word of a well-formed term fits in 32 bits and decodes to the term. -/
def RoundTrip.Statement (i : Instr) : Prop :=
  i.wellFormed = true → ∀ w, encode i = some w → w < 2 ^ 32 ∧ decodeWord w = some i

theorem of_event {i : Instr} (h : i.base = none) : RoundTrip.Statement i := by
  intro _ w hw
  simp [encode, h] at hw

theorem of_raw {i : Instr} {b : Nat} (hb : i.base = some b) (h0 : b + i.fieldBits < 2 ^ 32)
    (hr : i.wellFormed = true → decodeRaw (b + i.fieldBits) = some i) : RoundTrip.Statement i := by
  intro hi w hw
  simp only [encode, hb, Option.map_some, Option.some.injEq] at hw
  subst hw
  exact ⟨h0, by simp [decodeWord, hr hi, hi]⟩

/-! ## Fields and codes -/

theorem bit_of (w n : Nat) (b : Bool) (h : fld w n 1 = b2n b) : bit w n = b := by
  have : bit w n = (fld w n 1 == 1) := by simp [bit, fld]
  rw [this, h]
  cases b <;> rfl

theorem fin_of (n : Nat) [NeZero n] (i : Fin n) : Fin.ofNat n i.val = i := by
  apply Fin.ext
  simp [Fin.ofNat, Nat.mod_eq_of_lt i.isLt]

theorem bv_of (n : Nat) (x : BitVec n) : BitVec.ofNat n x.toNat = x := by simp

theorem b2n_le (b : Bool) : b2n b ≤ 1 := by cases b <;> decide
theorem encGuard_lt (g : Guard) : encGuard g < 8 := by cases g <;> simp only [encGuard] <;> omega
theorem encSrc_lt (a : Src) : encSrc a < 128 := by cases a <;> simp only [encSrc] <;> omega
theorem encSSrc_bd (a : SSrc) : 64 ≤ encSSrc a ∧ encSSrc a < 128 := by cases a <;> simp only [encSSrc] <;> omega
theorem encPSel_lt (q : PSel) : encPSel q < 8 := by
  have := b2n_le q.neg
  simp only [encPSel]
  omega
theorem encICond_lt (a : ICond) : encICond a < 8 := by cases a <;> decide
theorem encFCond_lt (a : FCond) : encFCond a < 8 := by cases a <;> decide
theorem encLogFn_lt (a : LogFn) : encLogFn a < 8 := by cases a <;> decide
theorem encComb_lt (a : Comb) : encComb a < 4 := by cases a <;> decide
theorem scopeCode_lt (a : Scope) : a.code < 8 := by cases a <;> decide
theorem encOrder_lt (a : Order) : encOrder a < 4 := by cases a <;> decide
theorem encLdSize_lt (a : LdSize) : encLdSize a < 8 := by cases a <;> decide
theorem encStSize_lt (a : StSize) : encStSize a < 8 := by cases a <;> decide
theorem encAtomOp_lt (a : AtomOp) : encAtomOp a < 8 := by cases a <;> decide
theorem encAtomXOp_lt (a : AtomXOp) : encAtomXOp a < 8 := by cases a <;> decide
theorem encRMode_lt (a : RMode) : encRMode a < 4 := by cases a <;> decide
theorem encLatchTy_lt (a : LatchTy) : encLatchTy a < 4 := by cases a <;> decide
theorem encMPlanes_lt (a : MPlanes) : encMPlanes a < 4 := by cases a <;> decide
theorem encSpecial_lt (a : Special) : encSpecial a < 64 := by cases a <;> decide

theorem decGuard_enc (g : Guard) : decGuard (encGuard g) = some g := by
  cases g <;> first | (rename_i i; revert i; decide) | decide
theorem decSrc_enc (a : Src) : decSrc (encSrc a) = some a := by
  cases a <;> first | (rename_i i; revert i; decide) | decide
theorem decSSrc_enc (a : SSrc) : decSSrc (encSSrc a) = some a := by
  cases a <;> first | (rename_i i; revert i; decide) | decide
theorem decPSel_enc (q : PSel) : decPSel (encPSel q) = q := by
  obtain ⟨b, p⟩ := q
  revert b p
  decide
theorem decICond_enc (a : ICond) : decICond (encICond a) = some a := by cases a <;> rfl
theorem decFCond_enc (a : FCond) : decFCond (encFCond a) = a := by cases a <;> rfl
theorem decLogFn_enc (a : LogFn) : decLogFn (encLogFn a) = some a := by cases a <;> rfl
theorem decComb_enc (a : Comb) : decComb (encComb a) = a := by cases a <;> rfl
theorem decScope_enc (a : Scope) : decScope a.code = a := by cases a <;> rfl
theorem decOrder_enc (a : Order) : decOrder (encOrder a) = a := by cases a <;> rfl
theorem decLdSize_enc (a : LdSize) : decLdSize (encLdSize a) = some a := by cases a <;> rfl
theorem decStSize_enc (a : StSize) : decStSize (encStSize a) = some a := by cases a <;> rfl
theorem decAtomOp_enc (a : AtomOp) : decAtomOp (encAtomOp a) = a := by cases a <;> rfl
theorem decAtomXOp_enc (a : AtomXOp) : decAtomXOp (encAtomXOp a) = some a := by cases a <;> rfl
theorem decRMode_enc (a : RMode) : decRMode (encRMode a) = a := by cases a <;> rfl
theorem decLatchTy_enc (a : LatchTy) : decLatchTy (encLatchTy a) = some a := by cases a <;> rfl
theorem decMPlanes_enc (a : MPlanes) : decMPlanes (encMPlanes a) = some a := by cases a <;> rfl
theorem decSpecial_enc (a : Special) : decSpecial (encSpecial a) = some a := by cases a <;> rfl

/-! ## The formats -/

theorem R_dec (m f : Nat) (x : OpR) (mk : OpR → Instr) (hm : m < 64) (hf : f < 4) :
    let w := m * 2 ^ 26 + f * 2 ^ 20 + encR x
    w < 2 ^ 32 ∧ fld w 26 6 = m ∧ fld w 20 2 = f ∧ decR w mk = some (mk x) := by
  intro w
  have := b2n_le x.w
  have := encGuard_lt x.g
  have := encSrc_lt x.a
  have := encSrc_lt x.b
  have := x.d.isLt
  have hw : w = m * 2 ^ 26 + f * 2 ^ 20 + encR x := rfl
  simp only [encR] at hw
  have h23_3 : fld w 23 3 = encGuard x.g := by simp only [fld]; omega
  have h7_7 : fld w 7 7 = encSrc x.a := by simp only [fld]; omega
  have h0_7 : fld w 0 7 = encSrc x.b := by simp only [fld]; omega
  have h22_1 : bit w 22 = x.w := bit_of _ _ _ (by simp only [fld]; omega)
  have h14_6 : fld w 14 6 = x.d.val := by simp only [fld]; omega
  refine ⟨by omega, by simp only [fld]; omega, by simp only [fld]; omega, ?_⟩
  simp only [decR, h23_3, h7_7, h0_7, h22_1, h14_6, decGuard_enc, decSrc_enc, Option.bind_some, fin_of]

theorem R64_dec (m f : Nat) (x : OpR64) (mk : OpR64 → Instr) (hm : m < 64) (hf : f < 4) :
    let w := m * 2 ^ 26 + f * 2 ^ 20 + encR64 x
    w < 2 ^ 32 ∧ fld w 26 6 = m ∧ fld w 20 2 = f ∧ decR64 w mk = some (mk x) := by
  intro w
  have := encGuard_lt x.g
  have := encSrc_lt x.a
  have := encSrc_lt x.b
  have := x.d.isLt
  have hw : w = m * 2 ^ 26 + f * 2 ^ 20 + encR64 x := rfl
  simp only [encR64] at hw
  have h22_1 : fld w 22 1 = 0 := by simp only [fld]; omega
  have h23_3 : fld w 23 3 = encGuard x.g := by simp only [fld]; omega
  have h7_7 : fld w 7 7 = encSrc x.a := by simp only [fld]; omega
  have h0_7 : fld w 0 7 = encSrc x.b := by simp only [fld]; omega
  have h14_6 : fld w 14 6 = x.d.val := by simp only [fld]; omega
  refine ⟨by omega, by simp only [fld]; omega, by simp only [fld]; omega, ?_⟩
  simp only [decR64, h22_1, h23_3, h7_7, h0_7, h14_6, decGuard_enc, decSrc_enc, whenZero, beq_self_eq_true, if_true, Option.bind_some, fin_of]

theorem U_dec (m f : Nat) (x : OpU) (mk : OpU → Instr) (hm : m < 64) (hf : f < 128) :
    let w := m * 2 ^ 26 + f * 2 ^ 0 + encU x
    w < 2 ^ 32 ∧ fld w 26 6 = m ∧ fld w 0 7 = f ∧ decU w mk = some (mk x) := by
  intro w
  have := b2n_le x.w
  have := encGuard_lt x.g
  have := encSrc_lt x.a
  have := x.d.isLt
  have hw : w = m * 2 ^ 26 + f * 2 ^ 0 + encU x := rfl
  simp only [encU] at hw
  have h20_2 : fld w 20 2 = 0 := by simp only [fld]; omega
  have h23_3 : fld w 23 3 = encGuard x.g := by simp only [fld]; omega
  have h7_7 : fld w 7 7 = encSrc x.a := by simp only [fld]; omega
  have h22_1 : bit w 22 = x.w := bit_of _ _ _ (by simp only [fld]; omega)
  have h14_6 : fld w 14 6 = x.d.val := by simp only [fld]; omega
  refine ⟨by omega, by simp only [fld]; omega, by simp only [fld]; omega, ?_⟩
  simp only [decU, h20_2, h23_3, h7_7, h22_1, h14_6, decGuard_enc, decSrc_enc, whenZero, beq_self_eq_true, if_true, Option.bind_some, fin_of]

theorem Sel_dec (m : Nat) (x : OpSel) (mk : OpSel → Instr) (hm : m < 64) :
    let w := m * 2 ^ 26 + encSel x
    w < 2 ^ 32 ∧ fld w 26 6 = m ∧ decSel w mk = some (mk x) := by
  intro w
  have := b2n_le x.w
  have := encPSel_lt x.sel
  have := encSrc_lt x.a
  have := encSrc_lt x.b
  have := x.d.isLt
  have hw : w = m * 2 ^ 26 + encSel x := rfl
  simp only [encSel] at hw
  have h20_2 : fld w 20 2 = 0 := by simp only [fld]; omega
  have h7_7 : fld w 7 7 = encSrc x.a := by simp only [fld]; omega
  have h0_7 : fld w 0 7 = encSrc x.b := by simp only [fld]; omega
  have h23_3 : fld w 23 3 = encPSel x.sel := by simp only [fld]; omega
  have h22_1 : bit w 22 = x.w := bit_of _ _ _ (by simp only [fld]; omega)
  have h14_6 : fld w 14 6 = x.d.val := by simp only [fld]; omega
  refine ⟨by omega, by simp only [fld]; omega, ?_⟩
  simp only [decSel, h20_2, h7_7, h0_7, h23_3, h22_1, h14_6, decSrc_enc, decPSel_enc, whenZero, beq_self_eq_true, if_true, Option.bind_some, fin_of]

theorem SR_dec (m f : Nat) (x : OpSR) (mk : OpSR → Instr) (hm : m < 64) (hf : f < 4) :
    let w := m * 2 ^ 26 + f * 2 ^ 20 + encSR x
    w < 2 ^ 32 ∧ fld w 26 6 = m ∧ fld w 20 2 = f ∧ decSR w mk = some (mk x) := by
  intro w
  have := encSSrc_bd x.a
  have := encSSrc_bd x.b
  have := x.d.isLt
  have hw : w = m * 2 ^ 26 + f * 2 ^ 20 + encSR x := rfl
  simp only [encSR] at hw
  have h22_4 : fld w 22 4 = 0 := by simp only [fld]; omega
  have h19_1 : fld w 19 1 = 0 := by simp only [fld]; omega
  have h7_7 : fld w 7 7 = encSSrc x.a := by simp only [fld]; omega
  have h0_7 : fld w 0 7 = encSSrc x.b := by simp only [fld]; omega
  have h14_5 : fld w 14 5 = x.d.val := by simp only [fld]; omega
  refine ⟨by omega, by simp only [fld]; omega, by simp only [fld]; omega, ?_⟩
  simp only [decSR, h22_4, h19_1, h7_7, h0_7, h14_5, decSSrc_enc, whenZero, beq_self_eq_true, if_true, Option.bind_some, fin_of]

theorem SU_dec (m f : Nat) (x : OpSU) (mk : OpSU → Instr) (hm : m < 64) (hf : f < 128) :
    let w := m * 2 ^ 26 + f * 2 ^ 0 + encSU x
    w < 2 ^ 32 ∧ fld w 26 6 = m ∧ fld w 0 7 = f ∧ decSU w mk = some (mk x) := by
  intro w
  have := encSSrc_bd x.a
  have := x.d.isLt
  have hw : w = m * 2 ^ 26 + f * 2 ^ 0 + encSU x := rfl
  simp only [encSU] at hw
  have h20_6 : fld w 20 6 = 0 := by simp only [fld]; omega
  have h19_1 : fld w 19 1 = 0 := by simp only [fld]; omega
  have h7_7 : fld w 7 7 = encSSrc x.a := by simp only [fld]; omega
  have h14_5 : fld w 14 5 = x.d.val := by simp only [fld]; omega
  refine ⟨by omega, by simp only [fld]; omega, by simp only [fld]; omega, ?_⟩
  simp only [decSU, h20_6, h19_1, h7_7, h14_5, decSSrc_enc, whenZero, beq_self_eq_true, if_true, Option.bind_some, fin_of]

theorem SI_dec (m : Nat) (x : OpSI) (mk : OpSI → Instr) (hm : m < 64) :
    let w := m * 2 ^ 26 + encSI x
    w < 2 ^ 32 ∧ fld w 26 6 = m ∧ decSI w mk = some (mk x) := by
  intro w
  have := encSSrc_bd x.a
  have := x.d.isLt
  have := x.imm.isLt
  have hw : w = m * 2 ^ 26 + encSI x := rfl
  simp only [encSI] at hw
  have h22_4 : fld w 22 4 = 0 := by simp only [fld]; omega
  have h21_1 : fld w 21 1 = 0 := by simp only [fld]; omega
  have h9_7 : fld w 9 7 = encSSrc x.a := by simp only [fld]; omega
  have h16_5 : fld w 16 5 = x.d.val := by simp only [fld]; omega
  have h0_9 : fld w 0 9 = x.imm.toNat := by simp only [fld]; omega
  refine ⟨by omega, by simp only [fld]; omega, ?_⟩
  simp only [decSI, h22_4, h21_1, h9_7, h16_5, h0_9, decSSrc_enc, whenZero, beq_self_eq_true, if_true, Option.bind_some, fin_of, bv_of]

theorem I_dec (m : Nat) (x : OpI) (mk : OpI → Instr) (hm : m < 64) :
    let w := m * 2 ^ 26 + encI x
    w < 2 ^ 32 ∧ fld w 26 6 = m ∧ decI w mk = some (mk x) := by
  intro w
  have := b2n_le x.w
  have := encGuard_lt x.g
  have := encSrc_lt x.a
  have := x.d.isLt
  have := x.imm.isLt
  have hw : w = m * 2 ^ 26 + encI x := rfl
  simp only [encI] at hw
  have h23_3 : fld w 23 3 = encGuard x.g := by simp only [fld]; omega
  have h9_7 : fld w 9 7 = encSrc x.a := by simp only [fld]; omega
  have h22_1 : bit w 22 = x.w := bit_of _ _ _ (by simp only [fld]; omega)
  have h16_6 : fld w 16 6 = x.d.val := by simp only [fld]; omega
  have h0_9 : fld w 0 9 = x.imm.toNat := by simp only [fld]; omega
  refine ⟨by omega, by simp only [fld]; omega, ?_⟩
  simp only [decI, h23_3, h9_7, h22_1, h16_6, h0_9, decGuard_enc, decSrc_enc, Option.bind_some, fin_of, bv_of]

theorem RF_dec (m : Nat) (x : OpRF) (mk : OpRF → Instr) (hm : m < 64) :
    let w := m * 2 ^ 26 + encRF x
    w < 2 ^ 32 ∧ fld w 26 6 = m ∧ decRF w mk = some (mk x) := by
  intro w
  have := b2n_le x.fi
  have := b2n_le x.fo
  have := b2n_le x.w
  have := encGuard_lt x.g
  have := encSrc_lt x.a
  have := encSrc_lt x.b
  have := x.d.isLt
  have hw : w = m * 2 ^ 26 + encRF x := rfl
  simp only [encRF] at hw
  have h23_3 : fld w 23 3 = encGuard x.g := by simp only [fld]; omega
  have h7_7 : fld w 7 7 = encSrc x.a := by simp only [fld]; omega
  have h0_7 : fld w 0 7 = encSrc x.b := by simp only [fld]; omega
  have h22_1 : bit w 22 = x.w := bit_of _ _ _ (by simp only [fld]; omega)
  have h21_1 : bit w 21 = x.fi := bit_of _ _ _ (by simp only [fld]; omega)
  have h20_1 : bit w 20 = x.fo := bit_of _ _ _ (by simp only [fld]; omega)
  have h14_6 : fld w 14 6 = x.d.val := by simp only [fld]; omega
  refine ⟨by omega, by simp only [fld]; omega, ?_⟩
  simp only [decRF, h23_3, h7_7, h0_7, h22_1, h21_1, h20_1, h14_6, decGuard_enc, decSrc_enc, Option.bind_some, fin_of]

theorem UF_dec (m f : Nat) (x : OpUF) (mk : OpUF → Instr) (hm : m < 64) (hf : f < 128) :
    let w := m * 2 ^ 26 + f * 2 ^ 0 + encUF x
    w < 2 ^ 32 ∧ fld w 26 6 = m ∧ fld w 0 7 = f ∧ decUF w mk = some (mk x) := by
  intro w
  have := b2n_le x.fi
  have := b2n_le x.fo
  have := b2n_le x.w
  have := encGuard_lt x.g
  have := encSrc_lt x.a
  have := x.d.isLt
  have hw : w = m * 2 ^ 26 + f * 2 ^ 0 + encUF x := rfl
  simp only [encUF] at hw
  have h23_3 : fld w 23 3 = encGuard x.g := by simp only [fld]; omega
  have h7_7 : fld w 7 7 = encSrc x.a := by simp only [fld]; omega
  have h22_1 : bit w 22 = x.w := bit_of _ _ _ (by simp only [fld]; omega)
  have h21_1 : bit w 21 = x.fi := bit_of _ _ _ (by simp only [fld]; omega)
  have h20_1 : bit w 20 = x.fo := bit_of _ _ _ (by simp only [fld]; omega)
  have h14_6 : fld w 14 6 = x.d.val := by simp only [fld]; omega
  refine ⟨by omega, by simp only [fld]; omega, by simp only [fld]; omega, ?_⟩
  simp only [decUF, h23_3, h7_7, h22_1, h21_1, h20_1, h14_6, decGuard_enc, decSrc_enc, Option.bind_some, fin_of]

theorem ICmp_dec (m : Nat) (x : OpICmp) (mk : OpICmp → Instr) (hm : m < 64) :
    let w := m * 2 ^ 26 + encICmp x
    w < 2 ^ 32 ∧ fld w 26 6 = m ∧ decICmp w mk = some (mk x) := by
  intro w
  have := b2n_le x.u
  have := encComb_lt x.comb
  have := encGuard_lt x.g
  have := encICond_lt x.cond
  have := encSrc_lt x.a
  have := encSrc_lt x.b
  have := x.pd.isLt
  have hw : w = m * 2 ^ 26 + encICmp x := rfl
  simp only [encICmp] at hw
  have h14_1 : fld w 14 1 = 0 := by simp only [fld]; omega
  have h23_3 : fld w 23 3 = encGuard x.g := by simp only [fld]; omega
  have h18_3 : fld w 18 3 = encICond x.cond := by simp only [fld]; omega
  have h7_7 : fld w 7 7 = encSrc x.a := by simp only [fld]; omega
  have h0_7 : fld w 0 7 = encSrc x.b := by simp only [fld]; omega
  have h21_2 : fld w 21 2 = x.pd.val := by simp only [fld]; omega
  have h16_2 : fld w 16 2 = encComb x.comb := by simp only [fld]; omega
  have h15_1 : bit w 15 = x.u := bit_of _ _ _ (by simp only [fld]; omega)
  refine ⟨by omega, by simp only [fld]; omega, ?_⟩
  simp only [decICmp, h14_1, h23_3, h18_3, h7_7, h0_7, h21_2, h16_2, h15_1, decGuard_enc, decSrc_enc, decICond_enc, decComb_enc, whenZero, beq_self_eq_true, if_true, Option.bind_some, fin_of]

theorem FCmp_dec (m : Nat) (x : OpFCmp) (mk : OpFCmp → Instr) (hm : m < 64) :
    let w := m * 2 ^ 26 + encFCmp x
    w < 2 ^ 32 ∧ fld w 26 6 = m ∧ decFCmp w mk = some (mk x) := by
  intro w
  have := b2n_le x.fi
  have := b2n_le x.q
  have := encComb_lt x.comb
  have := encFCond_lt x.cond
  have := encGuard_lt x.g
  have := encSrc_lt x.a
  have := encSrc_lt x.b
  have := x.pd.isLt
  have hw : w = m * 2 ^ 26 + encFCmp x := rfl
  simp only [encFCmp] at hw
  have h23_3 : fld w 23 3 = encGuard x.g := by simp only [fld]; omega
  have h7_7 : fld w 7 7 = encSrc x.a := by simp only [fld]; omega
  have h0_7 : fld w 0 7 = encSrc x.b := by simp only [fld]; omega
  have h21_2 : fld w 21 2 = x.pd.val := by simp only [fld]; omega
  have h18_3 : fld w 18 3 = encFCond x.cond := by simp only [fld]; omega
  have h16_2 : fld w 16 2 = encComb x.comb := by simp only [fld]; omega
  have h15_1 : bit w 15 = x.q := bit_of _ _ _ (by simp only [fld]; omega)
  have h14_1 : bit w 14 = x.fi := bit_of _ _ _ (by simp only [fld]; omega)
  refine ⟨by omega, by simp only [fld]; omega, ?_⟩
  simp only [decFCmp, h23_3, h7_7, h0_7, h21_2, h18_3, h16_2, h15_1, h14_1, decGuard_enc, decSrc_enc, decFCond_enc, decComb_enc, Option.bind_some, fin_of]

theorem PLog_dec (m : Nat) (x : OpPLog) (mk : OpPLog → Instr) (hm : m < 64) :
    let w := m * 2 ^ 26 + encPLog x
    w < 2 ^ 32 ∧ fld w 26 6 = m ∧ decPLog w mk = some (mk x) := by
  intro w
  have := encComb_lt x.comb
  have := encGuard_lt x.g
  have := encLogFn_lt x.fn
  have := encPSel_lt x.x
  have := encPSel_lt x.y
  have := x.pd.isLt
  have hw : w = m * 2 ^ 26 + encPLog x := rfl
  simp only [encPLog] at hw
  have h10_6 : fld w 10 6 = 0 := by simp only [fld]; omega
  have h3_4 : fld w 3 4 = 0 := by simp only [fld]; omega
  have h23_3 : fld w 23 3 = encGuard x.g := by simp only [fld]; omega
  have h18_3 : fld w 18 3 = encLogFn x.fn := by simp only [fld]; omega
  have h21_2 : fld w 21 2 = x.pd.val := by simp only [fld]; omega
  have h16_2 : fld w 16 2 = encComb x.comb := by simp only [fld]; omega
  have h7_3 : fld w 7 3 = encPSel x.x := by simp only [fld]; omega
  have h0_3 : fld w 0 3 = encPSel x.y := by simp only [fld]; omega
  refine ⟨by omega, by simp only [fld]; omega, ?_⟩
  simp only [decPLog, h10_6, h3_4, h23_3, h18_3, h21_2, h16_2, h7_3, h0_3, decGuard_enc, decPSel_enc, decLogFn_enc, decComb_enc, whenZero, beq_self_eq_true, if_true, Option.bind_some, fin_of]

theorem Coh_dec (m f : Nat) (x : OpCoh) (mk : OpCoh → Instr) (hm : m < 64) (hf : f < 128) :
    let w := m * 2 ^ 26 + f * 2 ^ 0 + encCoh x
    w < 2 ^ 32 ∧ fld w 26 6 = m ∧ fld w 0 7 = f ∧ decCoh w mk = some (mk x) := by
  intro w
  have := encGuard_lt x.g
  have := encSrc_lt x.a
  have := x.d.isLt
  have hw : w = m * 2 ^ 26 + f * 2 ^ 0 + encCoh x := rfl
  simp only [encCoh] at hw
  have h20_3 : fld w 20 3 = 0 := by simp only [fld]; omega
  have h23_3 : fld w 23 3 = encGuard x.g := by simp only [fld]; omega
  have h7_7 : fld w 7 7 = encSrc x.a := by simp only [fld]; omega
  have h14_6 : fld w 14 6 = x.d.val := by simp only [fld]; omega
  refine ⟨by omega, by simp only [fld]; omega, by simp only [fld]; omega, ?_⟩
  simp only [decCoh, h20_3, h23_3, h7_7, h14_6, decGuard_enc, decSrc_enc, whenZero, beq_self_eq_true, if_true, Option.bind_some, fin_of]

theorem VToP_dec (m f : Nat) (x : OpVToP) (mk : OpVToP → Instr) (hm : m < 64) (hf : f < 128) :
    let w := m * 2 ^ 26 + f * 2 ^ 0 + encVToP x
    w < 2 ^ 32 ∧ fld w 26 6 = m ∧ fld w 0 7 = f ∧ decVToP w mk = some (mk x) := by
  intro w
  have := encGuard_lt x.g
  have := encSrc_lt x.a
  have := x.p.isLt
  have hw : w = m * 2 ^ 26 + f * 2 ^ 0 + encVToP x := rfl
  simp only [encVToP] at hw
  have h16_7 : fld w 16 7 = 0 := by simp only [fld]; omega
  have h23_3 : fld w 23 3 = encGuard x.g := by simp only [fld]; omega
  have h7_7 : fld w 7 7 = encSrc x.a := by simp only [fld]; omega
  have h14_2 : fld w 14 2 = x.p.val := by simp only [fld]; omega
  refine ⟨by omega, by simp only [fld]; omega, by simp only [fld]; omega, ?_⟩
  simp only [decVToP, h16_7, h23_3, h7_7, h14_2, decGuard_enc, decSrc_enc, whenZero, beq_self_eq_true, if_true, Option.bind_some, fin_of]

theorem B_dec (m : Nat) (x : OpB) (mk : OpB → Instr) (hm : m < 64) :
    let w := m * 2 ^ 26 + encB x
    w < 2 ^ 32 ∧ fld w 26 6 = m ∧ decB w mk = some (mk x) := by
  intro w
  have := encGuard_lt x.g
  have := x.off.isLt
  have hw : w = m * 2 ^ 26 + encB x := rfl
  simp only [encB] at hw
  have h23_3 : fld w 23 3 = encGuard x.g := by simp only [fld]; omega
  have h0_23 : fld w 0 23 = x.off.toNat := by simp only [fld]; omega
  refine ⟨by omega, by simp only [fld]; omega, ?_⟩
  simp only [decB, h23_3, h0_23, decGuard_enc, Option.bind_some, bv_of]

theorem GA_dec (m f : Nat) (x : OpGA) (mk : OpGA → Instr) (hm : m < 64) (hf : f < 128) :
    let w := m * 2 ^ 26 + f * 2 ^ 0 + encGA x
    w < 2 ^ 32 ∧ fld w 26 6 = m ∧ fld w 0 7 = f ∧ decGA w mk = some (mk x) := by
  intro w
  have := encGuard_lt x.g
  have := encSrc_lt x.a
  have hw : w = m * 2 ^ 26 + f * 2 ^ 0 + encGA x := rfl
  simp only [encGA] at hw
  have h14_9 : fld w 14 9 = 0 := by simp only [fld]; omega
  have h23_3 : fld w 23 3 = encGuard x.g := by simp only [fld]; omega
  have h7_7 : fld w 7 7 = encSrc x.a := by simp only [fld]; omega
  refine ⟨by omega, by simp only [fld]; omega, by simp only [fld]; omega, ?_⟩
  simp only [decGA, h14_9, h23_3, h7_7, decGuard_enc, decSrc_enc, whenZero, beq_self_eq_true, if_true, Option.bind_some]

theorem Ret_dec (m f : Nat) (x : OpG) (mk : OpG → Instr) (hm : m < 64) (hf : f < 128) :
    let w := m * 2 ^ 26 + f * 2 ^ 0 + encG x
    w < 2 ^ 32 ∧ fld w 26 6 = m ∧ fld w 0 7 = f ∧ decRet w mk = some (mk x) := by
  intro w
  have := encGuard_lt x.g
  have hw : w = m * 2 ^ 26 + f * 2 ^ 0 + encG x := rfl
  simp only [encG] at hw
  have h7_16 : fld w 7 16 = 0 := by simp only [fld]; omega
  have h23_3 : fld w 23 3 = encGuard x.g := by simp only [fld]; omega
  refine ⟨by omega, by simp only [fld]; omega, by simp only [fld]; omega, ?_⟩
  simp only [decRet, h7_16, h23_3, decGuard_enc, whenZero, beq_self_eq_true, if_true, Option.bind_some]

theorem Mbr_dec (m : Nat) (x : OpMbr) (mk : OpMbr → Instr) (hm : m < 64) :
    let w := m * 2 ^ 26 + encMbr x
    w < 2 ^ 32 ∧ fld w 26 6 = m ∧ decMbr w mk = some (mk x) := by
  intro w
  have := encPSel_lt x.q1
  have := encPSel_lt x.q2
  have := encPSel_lt x.q3
  have := encPSel_lt x.q4
  have := x.n.isLt
  have hw : w = m * 2 ^ 26 + encMbr x := rfl
  simp only [encMbr] at hw
  have h23_3 : fld w 23 3 = 0 := by simp only [fld]; omega
  have h0_9 : fld w 0 9 = 0 := by simp only [fld]; omega
  have h21_2 : fld w 21 2 = x.n.val := by simp only [fld]; omega
  have h18_3 : fld w 18 3 = encPSel x.q1 := by simp only [fld]; omega
  have h15_3 : fld w 15 3 = encPSel x.q2 := by simp only [fld]; omega
  have h12_3 : fld w 12 3 = encPSel x.q3 := by simp only [fld]; omega
  have h9_3 : fld w 9 3 = encPSel x.q4 := by simp only [fld]; omega
  refine ⟨by omega, by simp only [fld]; omega, ?_⟩
  simp only [decMbr, h23_3, h0_9, h21_2, h18_3, h15_3, h12_3, h9_3, decPSel_enc, whenZero, beq_self_eq_true, if_true, fin_of]

theorem BL_dec (m : Nat) (x : OpBL) (mk : OpBL → Instr) (hm : m < 64) :
    let w := m * 2 ^ 26 + encBL x
    w < 2 ^ 32 ∧ fld w 26 6 = m ∧ decBL w mk = some (mk x) := by
  intro w
  have := encGuard_lt x.g
  have := x.a.isLt
  have := x.off.isLt
  have hw : w = m * 2 ^ 26 + encBL x := rfl
  simp only [encBL] at hw
  have h22_1 : fld w 22 1 = 0 := by simp only [fld]; omega
  have h23_3 : fld w 23 3 = encGuard x.g := by simp only [fld]; omega
  have h16_6 : fld w 16 6 = x.a.val := by simp only [fld]; omega
  have h0_16 : fld w 0 16 = x.off.toNat := by simp only [fld]; omega
  refine ⟨by omega, by simp only [fld]; omega, ?_⟩
  simp only [decBL, h22_1, h23_3, h16_6, h0_16, decGuard_enc, whenZero, beq_self_eq_true, if_true, Option.bind_some, fin_of, bv_of]

theorem G_dec (m f : Nat) (x : OpG) (mk : OpG → Instr) (hm : m < 64) (hf : f < 128) :
    let w := m * 2 ^ 26 + f * 2 ^ 16 + encG x
    w < 2 ^ 32 ∧ fld w 26 6 = m ∧ fld w 16 7 = f ∧ decG w mk = some (mk x) := by
  intro w
  have := encGuard_lt x.g
  have hw : w = m * 2 ^ 26 + f * 2 ^ 16 + encG x := rfl
  simp only [encG] at hw
  have h0_16 : fld w 0 16 = 0 := by simp only [fld]; omega
  have h23_3 : fld w 23 3 = encGuard x.g := by simp only [fld]; omega
  refine ⟨by omega, by simp only [fld]; omega, by simp only [fld]; omega, ?_⟩
  simp only [decG, h0_16, h23_3, decGuard_enc, whenZero, beq_self_eq_true, if_true, Option.bind_some]

theorem Trap_dec (m f : Nat) (x : OpTrap) (mk : OpTrap → Instr) (hm : m < 64) (hf : f < 128) :
    let w := m * 2 ^ 26 + f * 2 ^ 16 + encTrap x
    w < 2 ^ 32 ∧ fld w 26 6 = m ∧ fld w 16 7 = f ∧ decTrap w mk = some (mk x) := by
  intro w
  have := encGuard_lt x.g
  have := encSrc_lt x.a
  have := x.k.isLt
  have hw : w = m * 2 ^ 26 + f * 2 ^ 16 + encTrap x := rfl
  simp only [encTrap] at hw
  have h10_6 : fld w 10 6 = 0 := by simp only [fld]; omega
  have h23_3 : fld w 23 3 = encGuard x.g := by simp only [fld]; omega
  have h3_7 : fld w 3 7 = encSrc x.a := by simp only [fld]; omega
  have h0_3 : fld w 0 3 = x.k.val := by simp only [fld]; omega
  refine ⟨by omega, by simp only [fld]; omega, by simp only [fld]; omega, ?_⟩
  simp only [decTrap, h10_6, h23_3, h3_7, h0_3, decGuard_enc, decSrc_enc, whenZero, beq_self_eq_true, if_true, Option.bind_some, fin_of]

theorem SRead_dec (m f : Nat) (x : OpSRead) (mk : OpSRead → Instr) (hm : m < 64) (hf : f < 128) :
    let w := m * 2 ^ 26 + f * 2 ^ 16 + encSRead x
    w < 2 ^ 32 ∧ fld w 26 6 = m ∧ fld w 16 7 = f ∧ decSRead w mk = some (mk x) := by
  intro w
  have := encGuard_lt x.g
  have := encSpecial_lt x.n
  have := x.d.isLt
  have hw : w = m * 2 ^ 26 + f * 2 ^ 16 + encSRead x := rfl
  simp only [encSRead] at hw
  have h0_3 : fld w 0 3 = 0 := by simp only [fld]; omega
  have h23_3 : fld w 23 3 = encGuard x.g := by simp only [fld]; omega
  have h3_7 : fld w 3 7 = encSpecial x.n := by simp only [fld]; omega
  have h10_6 : fld w 10 6 = x.d.val := by simp only [fld]; omega
  refine ⟨by omega, by simp only [fld]; omega, by simp only [fld]; omega, ?_⟩
  simp only [decSRead, h0_3, h23_3, h3_7, h10_6, decGuard_enc, decSpecial_enc, whenZero, beq_self_eq_true, if_true, Option.bind_some, fin_of]

theorem SWrite_dec (m f : Nat) (x : OpSWrite) (mk : OpSWrite → Instr) (hm : m < 64) (hf : f < 128) :
    let w := m * 2 ^ 26 + f * 2 ^ 16 + encSWrite x
    w < 2 ^ 32 ∧ fld w 26 6 = m ∧ fld w 16 7 = f ∧ decSWrite w mk = some (mk x) := by
  intro w
  have := encGuard_lt x.g
  have := encSpecial_lt x.n
  have := encSrc_lt x.a
  have hw : w = m * 2 ^ 26 + f * 2 ^ 16 + encSWrite x := rfl
  simp only [encSWrite] at hw
  have h0_3 : fld w 0 3 = 0 := by simp only [fld]; omega
  have h23_3 : fld w 23 3 = encGuard x.g := by simp only [fld]; omega
  have h10_6 : fld w 10 6 = encSpecial x.n := by simp only [fld]; omega
  have h3_7 : fld w 3 7 = encSrc x.a := by simp only [fld]; omega
  refine ⟨by omega, by simp only [fld]; omega, by simp only [fld]; omega, ?_⟩
  simp only [decSWrite, h0_3, h23_3, h10_6, h3_7, decGuard_enc, decSrc_enc, decSpecial_enc, whenZero, beq_self_eq_true, if_true, Option.bind_some]

theorem Center_dec (m f : Nat) (x : OpCenter) (mk : OpCenter → Instr) (hm : m < 64) (hf : f < 4) :
    let w := m * 2 ^ 26 + f * 2 ^ 20 + encCenter x
    w < 2 ^ 32 ∧ fld w 26 6 = m ∧ fld w 20 2 = f ∧ decCenter w mk = some (mk x) := by
  intro w
  have := encGuard_lt x.g
  have := encSrc_lt x.a
  have := encSrc_lt x.b
  have := x.d.isLt
  have hw : w = m * 2 ^ 26 + f * 2 ^ 20 + encCenter x := rfl
  simp only [encCenter] at hw
  have h22_1 : fld w 22 1 = 0 := by simp only [fld]; omega
  have h23_3 : fld w 23 3 = encGuard x.g := by simp only [fld]; omega
  have h7_7 : fld w 7 7 = encSrc x.a := by simp only [fld]; omega
  have h0_7 : fld w 0 7 = encSrc x.b := by simp only [fld]; omega
  have h14_6 : fld w 14 6 = x.d.val := by simp only [fld]; omega
  refine ⟨by omega, by simp only [fld]; omega, by simp only [fld]; omega, ?_⟩
  simp only [decCenter, h22_1, h23_3, h7_7, h0_7, h14_6, decGuard_enc, decSrc_enc, whenZero, beq_self_eq_true, if_true, Option.bind_some, fin_of]

theorem Sigf_dec (m f : Nat) (x : OpGA) (mk : OpGA → Instr) (hm : m < 64) (hf : f < 4) :
    let w := m * 2 ^ 26 + f * 2 ^ 20 + encSigf x
    w < 2 ^ 32 ∧ fld w 26 6 = m ∧ fld w 20 2 = f ∧ decSigf w mk = some (mk x) := by
  intro w
  have := encGuard_lt x.g
  have := encSrc_lt x.a
  have hw : w = m * 2 ^ 26 + f * 2 ^ 20 + encSigf x := rfl
  simp only [encSigf, encGA] at hw
  have h22_1 : fld w 22 1 = 0 := by simp only [fld]; omega
  have h14_6 : fld w 14 6 = 0 := by simp only [fld]; omega
  have h0_7 : fld w 0 7 = 0 := by simp only [fld]; omega
  have h23_3 : fld w 23 3 = encGuard x.g := by simp only [fld]; omega
  have h7_7 : fld w 7 7 = encSrc x.a := by simp only [fld]; omega
  refine ⟨by omega, by simp only [fld]; omega, by simp only [fld]; omega, ?_⟩
  simp only [decSigf, h22_1, h14_6, h0_7, h23_3, h7_7, decGuard_enc, decSrc_enc, whenZero, beq_self_eq_true, if_true, Option.bind_some]

theorem Sigc_dec (m f : Nat) (x : OpSigc) (mk : OpSigc → Instr) (hm : m < 64) (hf : f < 4) :
    let w := m * 2 ^ 26 + f * 2 ^ 20 + encSigc x
    w < 2 ^ 32 ∧ fld w 26 6 = m ∧ fld w 20 2 = f ∧ decSigc w mk = some (mk x) := by
  intro w
  have := encGuard_lt x.g
  have := x.d.isLt
  have hw : w = m * 2 ^ 26 + f * 2 ^ 20 + encSigc x := rfl
  simp only [encSigc] at hw
  have h22_1 : fld w 22 1 = 0 := by simp only [fld]; omega
  have h0_14 : fld w 0 14 = 0 := by simp only [fld]; omega
  have h23_3 : fld w 23 3 = encGuard x.g := by simp only [fld]; omega
  have h14_6 : fld w 14 6 = x.d.val := by simp only [fld]; omega
  refine ⟨by omega, by simp only [fld]; omega, by simp only [fld]; omega, ?_⟩
  simp only [decSigc, h22_1, h0_14, h23_3, h14_6, decGuard_enc, whenZero, beq_self_eq_true, if_true, Option.bind_some, fin_of]

theorem Sigz_dec (m f : Nat) (x : OpG) (mk : OpG → Instr) (hm : m < 64) (hf : f < 4) :
    let w := m * 2 ^ 26 + f * 2 ^ 20 + encG x
    w < 2 ^ 32 ∧ fld w 26 6 = m ∧ fld w 20 2 = f ∧ decSigz w mk = some (mk x) := by
  intro w
  have := encGuard_lt x.g
  have hw : w = m * 2 ^ 26 + f * 2 ^ 20 + encG x := rfl
  simp only [encG] at hw
  have h22_1 : fld w 22 1 = 0 := by simp only [fld]; omega
  have h0_20 : fld w 0 20 = 0 := by simp only [fld]; omega
  have h23_3 : fld w 23 3 = encGuard x.g := by simp only [fld]; omega
  refine ⟨by omega, by simp only [fld]; omega, by simp only [fld]; omega, ?_⟩
  simp only [decSigz, h22_1, h0_20, h23_3, decGuard_enc, whenZero, beq_self_eq_true, if_true, Option.bind_some]

theorem Ld_dec (m : Nat) (x : OpLd) (mk : OpLd → Instr) (hm : m < 64) :
    let w := m * 2 ^ 26 + encLd x
    w < 2 ^ 32 ∧ fld w 26 6 = m ∧ decLd w mk = some (mk x) := by
  intro w
  have := encGuard_lt x.g
  have := encLdSize_lt x.size
  have := x.c.isLt
  have := x.d.isLt
  have := x.vw.isLt
  have hw : w = m * 2 ^ 26 + encLd x := rfl
  simp only [encLd, encM] at hw
  have h0_1 : fld w 0 1 = 0 := by simp only [fld]; omega
  have h23_3 : fld w 23 3 = encGuard x.g := by simp only [fld]; omega
  have h20_3 : fld w 20 3 = encLdSize x.size := by simp only [fld]; omega
  have h14_6 : fld w 14 6 = x.d.val := by simp only [fld]; omega
  have h8_6 : fld w 8 6 = x.vw.val := by simp only [fld]; omega
  have h1_7 : fld w 1 7 = x.c.val := by simp only [fld]; omega
  refine ⟨by omega, by simp only [fld]; omega, ?_⟩
  simp only [decLd, h0_1, h23_3, h20_3, h14_6, h8_6, h1_7, decGuard_enc, decLdSize_enc, whenZero, beq_self_eq_true, if_true, Option.bind_some, fin_of]

theorem St_dec (m : Nat) (x : OpSt) (mk : OpSt → Instr) (hm : m < 64) :
    let w := m * 2 ^ 26 + encSt x
    w < 2 ^ 32 ∧ fld w 26 6 = m ∧ decSt w mk = some (mk x) := by
  intro w
  have := encGuard_lt x.g
  have := encStSize_lt x.size
  have := x.c.isLt
  have := x.d.isLt
  have := x.vw.isLt
  have hw : w = m * 2 ^ 26 + encSt x := rfl
  simp only [encSt, encM] at hw
  have h0_1 : fld w 0 1 = 0 := by simp only [fld]; omega
  have h23_3 : fld w 23 3 = encGuard x.g := by simp only [fld]; omega
  have h20_3 : fld w 20 3 = encStSize x.size := by simp only [fld]; omega
  have h14_6 : fld w 14 6 = x.d.val := by simp only [fld]; omega
  have h8_6 : fld w 8 6 = x.vw.val := by simp only [fld]; omega
  have h1_7 : fld w 1 7 = x.c.val := by simp only [fld]; omega
  refine ⟨by omega, by simp only [fld]; omega, ?_⟩
  simp only [decSt, h0_1, h23_3, h20_3, h14_6, h8_6, h1_7, decGuard_enc, decStSize_enc, whenZero, beq_self_eq_true, if_true, Option.bind_some, fin_of]

theorem Ord_dec (m : Nat) (x : OpOrd) (mk : OpOrd → Instr) (hm : m < 64) :
    let w := m * 2 ^ 26 + encOrd x
    w < 2 ^ 32 ∧ fld w 26 6 = m ∧ decOrd w mk = some (mk x) := by
  intro w
  have := encGuard_lt x.g
  have := scopeCode_lt x.scope
  have := x.c.isLt
  have := x.d.isLt
  have := x.vw.isLt
  have hw : w = m * 2 ^ 26 + encOrd x := rfl
  simp only [encOrd, encM] at hw
  have h0_1 : fld w 0 1 = 0 := by simp only [fld]; omega
  have h23_3 : fld w 23 3 = encGuard x.g := by simp only [fld]; omega
  have h20_3 : fld w 20 3 = x.scope.code := by simp only [fld]; omega
  have h14_6 : fld w 14 6 = x.d.val := by simp only [fld]; omega
  have h8_6 : fld w 8 6 = x.vw.val := by simp only [fld]; omega
  have h1_7 : fld w 1 7 = x.c.val := by simp only [fld]; omega
  refine ⟨by omega, by simp only [fld]; omega, ?_⟩
  simp only [decOrd, h0_1, h23_3, h20_3, h14_6, h8_6, h1_7, decGuard_enc, decScope_enc, whenZero, beq_self_eq_true, if_true, Option.bind_some, fin_of]

theorem Atom_dec (m : Nat) (x : OpAtom) (mk : OpAtom → Instr) (hm : m < 64) :
    let w := m * 2 ^ 26 + encAtom x
    w < 2 ^ 32 ∧ fld w 26 6 = m ∧ decAtom w mk = some (mk x) := by
  intro w
  have := encAtomOp_lt x.op
  have := encGuard_lt x.g
  have := x.c.isLt
  have := x.d.isLt
  have := x.vw.isLt
  have hw : w = m * 2 ^ 26 + encAtom x := rfl
  simp only [encAtom, encM] at hw
  have h0_1 : fld w 0 1 = 0 := by simp only [fld]; omega
  have h23_3 : fld w 23 3 = encGuard x.g := by simp only [fld]; omega
  have h20_3 : fld w 20 3 = encAtomOp x.op := by simp only [fld]; omega
  have h14_6 : fld w 14 6 = x.d.val := by simp only [fld]; omega
  have h8_6 : fld w 8 6 = x.vw.val := by simp only [fld]; omega
  have h1_7 : fld w 1 7 = x.c.val := by simp only [fld]; omega
  refine ⟨by omega, by simp only [fld]; omega, ?_⟩
  simp only [decAtom, h0_1, h23_3, h20_3, h14_6, h8_6, h1_7, decGuard_enc, decAtomOp_enc, whenZero, beq_self_eq_true, if_true, Option.bind_some, fin_of]

theorem AtomX_dec (m : Nat) (x : OpAtomX) (mk : OpAtomX → Instr) (hm : m < 64) :
    let w := m * 2 ^ 26 + encAtomX x
    w < 2 ^ 32 ∧ fld w 26 6 = m ∧ decAtomX w mk = some (mk x) := by
  intro w
  have := encAtomXOp_lt x.op
  have := encGuard_lt x.g
  have := x.c.isLt
  have := x.d.isLt
  have := x.vw.isLt
  have hw : w = m * 2 ^ 26 + encAtomX x := rfl
  simp only [encAtomX, encM] at hw
  have h0_1 : fld w 0 1 = 0 := by simp only [fld]; omega
  have h23_3 : fld w 23 3 = encGuard x.g := by simp only [fld]; omega
  have h20_3 : fld w 20 3 = encAtomXOp x.op := by simp only [fld]; omega
  have h14_6 : fld w 14 6 = x.d.val := by simp only [fld]; omega
  have h8_6 : fld w 8 6 = x.vw.val := by simp only [fld]; omega
  have h1_7 : fld w 1 7 = x.c.val := by simp only [fld]; omega
  refine ⟨by omega, by simp only [fld]; omega, ?_⟩
  simp only [decAtomX, h0_1, h23_3, h20_3, h14_6, h8_6, h1_7, decGuard_enc, decAtomXOp_enc, whenZero, beq_self_eq_true, if_true, Option.bind_some, fin_of]

theorem Pld_dec (m : Nat) (x : OpPld) (mk : OpPld → Instr) (hm : m < 64) :
    let w := m * 2 ^ 26 + encPld x
    w < 2 ^ 32 ∧ fld w 26 6 = m ∧ decPld w mk = some (mk x) := by
  intro w
  have := b2n_le x.rnp
  have := encGuard_lt x.g
  have := x.c.isLt
  have := x.d.isLt
  have := x.n.isLt
  have := x.vw.isLt
  have hw : w = m * 2 ^ 26 + encPld x := rfl
  simp only [encPld, encM] at hw
  have h0_1 : fld w 0 1 = 0 := by simp only [fld]; omega
  have h23_3 : fld w 23 3 = encGuard x.g := by simp only [fld]; omega
  have h22_1 : bit w 22 = x.rnp := bit_of _ _ _ (by simp only [fld]; omega)
  have h20_2 : fld w 20 2 = x.n.val := by simp only [fld]; omega
  have h14_6 : fld w 14 6 = x.d.val := by simp only [fld]; omega
  have h8_6 : fld w 8 6 = x.vw.val := by simp only [fld]; omega
  have h1_7 : fld w 1 7 = x.c.val := by simp only [fld]; omega
  refine ⟨by omega, by simp only [fld]; omega, ?_⟩
  simp only [decPld, h0_1, h23_3, h22_1, h20_2, h14_6, h8_6, h1_7, decGuard_enc, whenZero, beq_self_eq_true, if_true, Option.bind_some, fin_of]

theorem VNar_dec (m f : Nat) (x : OpVNar) (mk : OpVNar → Instr) (hm : m < 64) (hf : f < 128) :
    let w := m * 2 ^ 26 + f * 2 ^ 16 + encVNar x
    w < 2 ^ 32 ∧ fld w 26 6 = m ∧ fld w 16 7 = f ∧ decVNar w mk = some (mk x) := by
  intro w
  have := x.d.isLt
  have := x.p.isLt
  have := x.src.isLt
  have hw : w = m * 2 ^ 26 + f * 2 ^ 16 + encVNar x := rfl
  simp only [encVNar] at hw
  have h23_3 : fld w 23 3 = 0 := by simp only [fld]; omega
  have h9_1 : fld w 9 1 = 0 := by simp only [fld]; omega
  have h10_6 : fld w 10 6 = x.d.val := by simp only [fld]; omega
  have h3_6 : fld w 3 6 = x.src.val := by simp only [fld]; omega
  have h0_3 : fld w 0 3 = x.p.val := by simp only [fld]; omega
  refine ⟨by omega, by simp only [fld]; omega, by simp only [fld]; omega, ?_⟩
  simp only [decVNar, h23_3, h9_1, h10_6, h3_6, h0_3, whenZero, beq_self_eq_true, if_true, fin_of]

theorem VQry_dec (m f : Nat) (x : OpVQry) (mk : OpVQry → Instr) (hm : m < 64) (hf : f < 128) :
    let w := m * 2 ^ 26 + f * 2 ^ 16 + encVQry x
    w < 2 ^ 32 ∧ fld w 26 6 = m ∧ fld w 16 7 = f ∧ decVQry w mk = some (mk x) := by
  intro w
  have := x.d.isLt
  have := x.q.isLt
  have := x.vw.isLt
  have hw : w = m * 2 ^ 26 + f * 2 ^ 16 + encVQry x := rfl
  simp only [encVQry] at hw
  have h23_3 : fld w 23 3 = 0 := by simp only [fld]; omega
  have h9_1 : fld w 9 1 = 0 := by simp only [fld]; omega
  have h10_6 : fld w 10 6 = x.d.val := by simp only [fld]; omega
  have h3_6 : fld w 3 6 = x.vw.val := by simp only [fld]; omega
  have h0_3 : fld w 0 3 = x.q.val := by simp only [fld]; omega
  refine ⟨by omega, by simp only [fld]; omega, by simp only [fld]; omega, ?_⟩
  simp only [decVQry, h23_3, h9_1, h10_6, h3_6, h0_3, whenZero, beq_self_eq_true, if_true, fin_of]

theorem VOne_dec (m f : Nat) (x : OpVOne) (mk : OpVOne → Instr) (hm : m < 64) (hf : f < 128) :
    let w := m * 2 ^ 26 + f * 2 ^ 16 + encVOne x
    w < 2 ^ 32 ∧ fld w 26 6 = m ∧ fld w 16 7 = f ∧ decVOne w mk = some (mk x) := by
  intro w
  have := x.vw.isLt
  have hw : w = m * 2 ^ 26 + f * 2 ^ 16 + encVOne x := rfl
  simp only [encVOne] at hw
  have h23_3 : fld w 23 3 = 0 := by simp only [fld]; omega
  have h0_10 : fld w 0 10 = 0 := by simp only [fld]; omega
  have h10_6 : fld w 10 6 = x.vw.val := by simp only [fld]; omega
  refine ⟨by omega, by simp only [fld]; omega, by simp only [fld]; omega, ?_⟩
  simp only [decVOne, h23_3, h0_10, h10_6, whenZero, beq_self_eq_true, if_true, fin_of]

theorem Scope_dec (m f : Nat) (x : OpScope) (mk : OpScope → Instr) (hm : m < 64) (hf : f < 128) :
    let w := m * 2 ^ 26 + f * 2 ^ 16 + encScope x
    w < 2 ^ 32 ∧ fld w 26 6 = m ∧ fld w 16 7 = f ∧ decScopeOp w mk = some (mk x) := by
  intro w
  have := scopeCode_lt x.scope
  have hw : w = m * 2 ^ 26 + f * 2 ^ 16 + encScope x := rfl
  simp only [encScope] at hw
  have h23_3 : fld w 23 3 = 0 := by simp only [fld]; omega
  have h3_13 : fld w 3 13 = 0 := by simp only [fld]; omega
  have h0_3 : fld w 0 3 = x.scope.code := by simp only [fld]; omega
  refine ⟨by omega, by simp only [fld]; omega, by simp only [fld]; omega, ?_⟩
  simp only [decScopeOp, h23_3, h3_13, h0_3, decScope_enc, whenZero, beq_self_eq_true, if_true]

theorem QFen_dec (m f : Nat) (x : OpQFen) (mk : OpQFen → Instr) (hm : m < 64) (hf : f < 128) :
    let w := m * 2 ^ 26 + f * 2 ^ 16 + encQFen x
    w < 2 ^ 32 ∧ fld w 26 6 = m ∧ fld w 16 7 = f ∧ decQFen w mk = some (mk x) := by
  intro w
  have := encSrc_lt x.a
  have hw : w = m * 2 ^ 26 + f * 2 ^ 16 + encQFen x := rfl
  simp only [encQFen] at hw
  have h23_3 : fld w 23 3 = 0 := by simp only [fld]; omega
  have h10_6 : fld w 10 6 = 0 := by simp only [fld]; omega
  have h0_3 : fld w 0 3 = 0 := by simp only [fld]; omega
  have h3_7 : fld w 3 7 = encSrc x.a := by simp only [fld]; omega
  refine ⟨by omega, by simp only [fld]; omega, by simp only [fld]; omega, ?_⟩
  simp only [decQFen, h23_3, h10_6, h0_3, h3_7, decSrc_enc, whenZero, beq_self_eq_true, if_true, Option.bind_some]

theorem Bar_dec (m f : Nat) (x : OpBar) (mk : OpBar → Instr) (hm : m < 64) (hf : f < 128) :
    let w := m * 2 ^ 26 + f * 2 ^ 16 + encBar x
    w < 2 ^ 32 ∧ fld w 26 6 = m ∧ fld w 16 7 = f ∧ decBar w mk = some (mk x) := by
  intro w
  have := encGuard_lt x.g
  have := encSrc_lt x.a
  have hw : w = m * 2 ^ 26 + f * 2 ^ 16 + encBar x := rfl
  simp only [encBar] at hw
  have h10_6 : fld w 10 6 = 0 := by simp only [fld]; omega
  have h0_3 : fld w 0 3 = 0 := by simp only [fld]; omega
  have h23_3 : fld w 23 3 = encGuard x.g := by simp only [fld]; omega
  have h3_7 : fld w 3 7 = encSrc x.a := by simp only [fld]; omega
  refine ⟨by omega, by simp only [fld]; omega, by simp only [fld]; omega, ?_⟩
  simp only [decBar, h10_6, h0_3, h23_3, h3_7, decGuard_enc, decSrc_enc, whenZero, beq_self_eq_true, if_true, Option.bind_some]

theorem Barc_dec (m f : Nat) (x : OpBarc) (mk : OpBarc → Instr) (hm : m < 64) (hf : f < 128) :
    let w := m * 2 ^ 26 + f * 2 ^ 16 + encBarc x
    w < 2 ^ 32 ∧ fld w 26 6 = m ∧ fld w 16 7 = f ∧ decBarc w mk = some (mk x) := by
  intro w
  have := x.c.isLt
  have hw : w = m * 2 ^ 26 + f * 2 ^ 16 + encBarc x := rfl
  simp only [encBarc] at hw
  have h23_3 : fld w 23 3 = 0 := by simp only [fld]; omega
  have h3_13 : fld w 3 13 = 0 := by simp only [fld]; omega
  have h0_3 : fld w 0 3 = x.c.val := by simp only [fld]; omega
  refine ⟨by omega, by simp only [fld]; omega, by simp only [fld]; omega, ?_⟩
  simp only [decBarc, h23_3, h3_13, h0_3, whenZero, beq_self_eq_true, if_true, fin_of]

theorem Harm_dec (m f : Nat) (x : OpHarm) (mk : OpHarm → Instr) (hm : m < 64) (hf : f < 128) :
    let w := m * 2 ^ 26 + f * 2 ^ 16 + encHarm x
    w < 2 ^ 32 ∧ fld w 26 6 = m ∧ fld w 16 7 = f ∧ decHarm w mk = some (mk x) := by
  intro w
  have := encSSrc_bd x.h
  have := x.e.isLt
  have hw : w = m * 2 ^ 26 + f * 2 ^ 16 + encHarm x := rfl
  simp only [encHarm] at hw
  have h23_3 : fld w 23 3 = 0 := by simp only [fld]; omega
  have h0_3 : fld w 0 3 = 0 := by simp only [fld]; omega
  have h3_7 : fld w 3 7 = encSSrc x.h := by simp only [fld]; omega
  have h10_6 : fld w 10 6 = x.e.val := by simp only [fld]; omega
  refine ⟨by omega, by simp only [fld]; omega, by simp only [fld]; omega, ?_⟩
  simp only [decHarm, h23_3, h0_3, h3_7, h10_6, decSSrc_enc, whenZero, beq_self_eq_true, if_true, Option.bind_some, fin_of]

theorem Hnd_dec (m f : Nat) (x : OpHnd) (mk : OpHnd → Instr) (hm : m < 64) (hf : f < 128) :
    let w := m * 2 ^ 26 + f * 2 ^ 16 + encHnd x
    w < 2 ^ 32 ∧ fld w 26 6 = m ∧ fld w 16 7 = f ∧ decHnd w mk = some (mk x) := by
  intro w
  have := encSSrc_bd x.h
  have hw : w = m * 2 ^ 26 + f * 2 ^ 16 + encHnd x := rfl
  simp only [encHnd] at hw
  have h23_3 : fld w 23 3 = 0 := by simp only [fld]; omega
  have h10_6 : fld w 10 6 = 0 := by simp only [fld]; omega
  have h0_3 : fld w 0 3 = 0 := by simp only [fld]; omega
  have h3_7 : fld w 3 7 = encSSrc x.h := by simp only [fld]; omega
  refine ⟨by omega, by simp only [fld]; omega, by simp only [fld]; omega, ?_⟩
  simp only [decHnd, h23_3, h10_6, h0_3, h3_7, decSSrc_enc, whenZero, beq_self_eq_true, if_true, Option.bind_some]

theorem HWait_dec (m f : Nat) (x : OpHWait) (mk : OpHWait → Instr) (hm : m < 64) (hf : f < 128) :
    let w := m * 2 ^ 26 + f * 2 ^ 16 + encHWait x
    w < 2 ^ 32 ∧ fld w 26 6 = m ∧ fld w 16 7 = f ∧ decHWait w mk = some (mk x) := by
  intro w
  have := b2n_le x.phase
  have := encSSrc_bd x.h
  have hw : w = m * 2 ^ 26 + f * 2 ^ 16 + encHWait x := rfl
  simp only [encHWait] at hw
  have h23_3 : fld w 23 3 = 0 := by simp only [fld]; omega
  have h10_6 : fld w 10 6 = 0 := by simp only [fld]; omega
  have h1_2 : fld w 1 2 = 0 := by simp only [fld]; omega
  have h3_7 : fld w 3 7 = encSSrc x.h := by simp only [fld]; omega
  have h0_1 : bit w 0 = x.phase := bit_of _ _ _ (by simp only [fld]; omega)
  refine ⟨by omega, by simp only [fld]; omega, by simp only [fld]; omega, ?_⟩
  simp only [decHWait, h23_3, h10_6, h1_2, h3_7, h0_1, decSSrc_enc, whenZero, beq_self_eq_true, if_true, Option.bind_some]

theorem HQry_dec (m f : Nat) (x : OpHQry) (mk : OpHQry → Instr) (hm : m < 64) (hf : f < 128) :
    let w := m * 2 ^ 26 + f * 2 ^ 16 + encHQry x
    w < 2 ^ 32 ∧ fld w 26 6 = m ∧ fld w 16 7 = f ∧ decHQry w mk = some (mk x) := by
  intro w
  have := encSSrc_bd x.h
  have := x.d.isLt
  have hw : w = m * 2 ^ 26 + f * 2 ^ 16 + encHQry x := rfl
  simp only [encHQry] at hw
  have h23_3 : fld w 23 3 = 0 := by simp only [fld]; omega
  have h0_3 : fld w 0 3 = 0 := by simp only [fld]; omega
  have h3_7 : fld w 3 7 = encSSrc x.h := by simp only [fld]; omega
  have h10_6 : fld w 10 6 = x.d.val := by simp only [fld]; omega
  refine ⟨by omega, by simp only [fld]; omega, by simp only [fld]; omega, ?_⟩
  simp only [decHQry, h23_3, h0_3, h3_7, h10_6, decSSrc_enc, whenZero, beq_self_eq_true, if_true, Option.bind_some, fin_of]

theorem Mma_dec (m : Nat) (x : OpMma) (mk : OpMma → Instr) (hm : m < 64) :
    let w := m * 2 ^ 26 + encMma x
    w < 2 ^ 32 ∧ fld w 26 6 = m ∧ decMma w mk = some (mk x) := by
  intro w
  have := b2n_le x.acc
  have := b2n_le x.rn
  have := encMPlanes_lt x.pl
  have := x.ha.isLt
  have := x.hb.isLt
  have := x.z.isLt
  have hw : w = m * 2 ^ 26 + encMma x := rfl
  simp only [encMma] at hw
  have h23_3 : fld w 23 3 = 0 := by simp only [fld]; omega
  have h2_2 : fld w 2 2 = encMPlanes x.pl := by simp only [fld]; omega
  have h20_3 : fld w 20 3 = x.z.val := by simp only [fld]; omega
  have h12_8 : fld w 12 8 = x.ha.val := by simp only [fld]; omega
  have h4_8 : fld w 4 8 = x.hb.val := by simp only [fld]; omega
  have h1_1 : bit w 1 = x.rn := bit_of _ _ _ (by simp only [fld]; omega)
  have h0_1 : bit w 0 = x.acc := bit_of _ _ _ (by simp only [fld]; omega)
  refine ⟨by omega, by simp only [fld]; omega, ?_⟩
  simp only [decMma, h23_3, h2_2, h20_3, h12_8, h4_8, h1_1, h0_1, decMPlanes_enc, whenZero, beq_self_eq_true, if_true, Option.bind_some, fin_of]

theorem Drn_dec (m f : Nat) (x : OpDrn) (mk : OpDrn → Instr) (hm : m < 64) (hf : f < 256) :
    let w := m * 2 ^ 26 + f * 2 ^ 4 + encDrn x
    w < 2 ^ 32 ∧ fld w 26 6 = m ∧ fld w 4 8 = f ∧ decDrn w mk = some (mk x) := by
  intro w
  have := x.h.isLt
  have := x.z.isLt
  have hw : w = m * 2 ^ 26 + f * 2 ^ 4 + encDrn x := rfl
  simp only [encDrn] at hw
  have h23_3 : fld w 23 3 = 0 := by simp only [fld]; omega
  have h0_4 : fld w 0 4 = 0 := by simp only [fld]; omega
  have h20_3 : fld w 20 3 = x.z.val := by simp only [fld]; omega
  have h12_8 : fld w 12 8 = x.h.val := by simp only [fld]; omega
  refine ⟨by omega, by simp only [fld]; omega, by simp only [fld]; omega, ?_⟩
  simp only [decDrn, h23_3, h0_4, h20_3, h12_8, whenZero, beq_self_eq_true, if_true, fin_of]

theorem DrnL_dec (m f : Nat) (x : OpDrnL) (mk : OpDrnL → Instr) (hm : m < 64) (hf : f < 256) :
    let w := m * 2 ^ 26 + f * 2 ^ 4 + encDrnL x
    w < 2 ^ 32 ∧ fld w 26 6 = m ∧ fld w 4 8 = f ∧ decDrnL w mk = some (mk x) := by
  intro w
  have := encLatchTy_lt x.ty
  have := x.slot.isLt
  have := x.z.isLt
  have hw : w = m * 2 ^ 26 + f * 2 ^ 4 + encDrnL x := rfl
  simp only [encDrnL] at hw
  have h23_3 : fld w 23 3 = 0 := by simp only [fld]; omega
  have h0_4 : fld w 0 4 = 0 := by simp only [fld]; omega
  have h16_2 : fld w 16 2 = 0 := by simp only [fld]; omega
  have h18_2 : fld w 18 2 = encLatchTy x.ty := by simp only [fld]; omega
  have h20_3 : fld w 20 3 = x.z.val := by simp only [fld]; omega
  have h12_4 : fld w 12 4 = x.slot.val := by simp only [fld]; omega
  refine ⟨by omega, by simp only [fld]; omega, by simp only [fld]; omega, ?_⟩
  simp only [decDrnL, h23_3, h0_4, h16_2, h18_2, h20_3, h12_4, decLatchTy_enc, whenZero, beq_self_eq_true, if_true, Option.bind_some, fin_of]

theorem Acc_dec (m f : Nat) (x : OpAcc) (mk : OpAcc → Instr) (hm : m < 64) (hf : f < 256) :
    let w := m * 2 ^ 26 + f * 2 ^ 4 + encAcc x
    w < 2 ^ 32 ∧ fld w 26 6 = m ∧ fld w 4 8 = f ∧ decAcc w mk = some (mk x) := by
  intro w
  have := x.z.isLt
  have hw : w = m * 2 ^ 26 + f * 2 ^ 4 + encAcc x := rfl
  simp only [encAcc] at hw
  have h23_3 : fld w 23 3 = 0 := by simp only [fld]; omega
  have h12_8 : fld w 12 8 = 0 := by simp only [fld]; omega
  have h0_4 : fld w 0 4 = 0 := by simp only [fld]; omega
  have h20_3 : fld w 20 3 = x.z.val := by simp only [fld]; omega
  refine ⟨by omega, by simp only [fld]; omega, by simp only [fld]; omega, ?_⟩
  simp only [decAcc, h23_3, h12_8, h0_4, h20_3, whenZero, beq_self_eq_true, if_true, fin_of]

theorem PAdd_dec (m f : Nat) (x : OpPAdd) (mk : OpPAdd → Instr) (hm : m < 64) (hf : f < 256) :
    let w := m * 2 ^ 26 + f * 2 ^ 4 + encPAdd x
    w < 2 ^ 32 ∧ fld w 26 6 = m ∧ fld w 4 8 = f ∧ decPAdd w mk = some (mk x) := by
  intro w
  have := x.h.isLt
  have := x.k.isLt
  have := x.z.isLt
  have hw : w = m * 2 ^ 26 + f * 2 ^ 4 + encPAdd x := rfl
  simp only [encPAdd] at hw
  have h23_3 : fld w 23 3 = 0 := by simp only [fld]; omega
  have h20_3 : fld w 20 3 = x.z.val := by simp only [fld]; omega
  have h12_8 : fld w 12 8 = x.h.val := by simp only [fld]; omega
  have h0_4 : fld w 0 4 = x.k.val := by simp only [fld]; omega
  refine ⟨by omega, by simp only [fld]; omega, by simp only [fld]; omega, ?_⟩
  simp only [decPAdd, h23_3, h20_3, h12_8, h0_4, whenZero, beq_self_eq_true, if_true, fin_of]

theorem PNorm_dec (m f : Nat) (x : OpPNorm) (mk : OpPNorm → Instr) (hm : m < 64) (hf : f < 256) :
    let w := m * 2 ^ 26 + f * 2 ^ 4 + encPNorm x
    w < 2 ^ 32 ∧ fld w 26 6 = m ∧ fld w 4 8 = f ∧ decPNorm w mk = some (mk x) := by
  intro w
  have := x.h.isLt
  have hw : w = m * 2 ^ 26 + f * 2 ^ 4 + encPNorm x := rfl
  simp only [encPNorm] at hw
  have h20_6 : fld w 20 6 = 0 := by simp only [fld]; omega
  have h0_4 : fld w 0 4 = 0 := by simp only [fld]; omega
  have h12_8 : fld w 12 8 = x.h.val := by simp only [fld]; omega
  refine ⟨by omega, by simp only [fld]; omega, by simp only [fld]; omega, ?_⟩
  simp only [decPNorm, h20_6, h0_4, h12_8, whenZero, beq_self_eq_true, if_true, fin_of]

theorem Tile_dec (m : Nat) (x : OpTile) (mk : OpTile → Instr) (hm : m < 64) :
    let w := m * 2 ^ 26 + encTile x
    w < 2 ^ 32 ∧ fld w 26 6 = m ∧ decTile w mk = some (mk x) := by
  intro w
  have := b2n_le x.fm
  have := x.h.isLt
  have := x.pb.isLt
  have := x.vw.isLt
  have := x.xf.isLt
  have hw : w = m * 2 ^ 26 + encTile x := rfl
  simp only [encTile] at hw
  have h23_3 : fld w 23 3 = 0 := by simp only [fld]; omega
  have h17_6 : fld w 17 6 = x.xf.val := by simp only [fld]; omega
  have h9_8 : fld w 9 8 = x.h.val := by simp only [fld]; omega
  have h3_6 : fld w 3 6 = x.vw.val := by simp only [fld]; omega
  have h1_2 : fld w 1 2 = x.pb.val := by simp only [fld]; omega
  have h0_1 : bit w 0 = x.fm := bit_of _ _ _ (by simp only [fld]; omega)
  refine ⟨by omega, by simp only [fld]; omega, ?_⟩
  simp only [decTile, h23_3, h17_6, h9_8, h3_6, h1_2, h0_1, whenZero, beq_self_eq_true, if_true, fin_of]

theorem QPop_dec (m f : Nat) (x : OpQPop) (mk : OpQPop → Instr) (hm : m < 64) (hf : f < 128) :
    let w := m * 2 ^ 26 + f * 2 ^ 16 + encQPop x
    w < 2 ^ 32 ∧ fld w 26 6 = m ∧ fld w 16 7 = f ∧ decQPop w mk = some (mk x) := by
  intro w
  have := x.d.isLt
  have := x.vw.isLt
  have hw : w = m * 2 ^ 26 + f * 2 ^ 16 + encQPop x := rfl
  simp only [encQPop] at hw
  have h23_3 : fld w 23 3 = 0 := by simp only [fld]; omega
  have h9_1 : fld w 9 1 = 0 := by simp only [fld]; omega
  have h0_3 : fld w 0 3 = 0 := by simp only [fld]; omega
  have h10_6 : fld w 10 6 = x.d.val := by simp only [fld]; omega
  have h3_6 : fld w 3 6 = x.vw.val := by simp only [fld]; omega
  refine ⟨by omega, by simp only [fld]; omega, by simp only [fld]; omega, ?_⟩
  simp only [decQPop, h23_3, h9_1, h0_3, h10_6, h3_6, whenZero, beq_self_eq_true, if_true, fin_of]

theorem QView_dec (m f : Nat) (x : OpQView) (mk : OpQView → Instr) (hm : m < 64) (hf : f < 128) :
    let w := m * 2 ^ 26 + f * 2 ^ 16 + encQView x
    w < 2 ^ 32 ∧ fld w 26 6 = m ∧ fld w 16 7 = f ∧ decQView w mk = some (mk x) := by
  intro w
  have := x.vw.isLt
  have hw : w = m * 2 ^ 26 + f * 2 ^ 16 + encQView x := rfl
  simp only [encQView] at hw
  have h23_3 : fld w 23 3 = 0 := by simp only [fld]; omega
  have h9_7 : fld w 9 7 = 0 := by simp only [fld]; omega
  have h0_3 : fld w 0 3 = 0 := by simp only [fld]; omega
  have h3_6 : fld w 3 6 = x.vw.val := by simp only [fld]; omega
  refine ⟨by omega, by simp only [fld]; omega, by simp only [fld]; omega, ?_⟩
  simp only [decQView, h23_3, h9_7, h0_3, h3_6, whenZero, beq_self_eq_true, if_true, fin_of]

theorem Fut_dec (m f : Nat) (x : OpFut) (mk : OpFut → Instr) (hm : m < 64) (hf : f < 128) :
    let w := m * 2 ^ 26 + f * 2 ^ 16 + encFut x
    w < 2 ^ 32 ∧ fld w 26 6 = m ∧ fld w 16 7 = f ∧ decFut w mk = some (mk x) := by
  intro w
  have := x.d.isLt
  have := x.vw.isLt
  have hw : w = m * 2 ^ 26 + f * 2 ^ 16 + encFut x := rfl
  simp only [encFut] at hw
  have h23_3 : fld w 23 3 = 0 := by simp only [fld]; omega
  have h9_1 : fld w 9 1 = 0 := by simp only [fld]; omega
  have h0_3 : fld w 0 3 = 0 := by simp only [fld]; omega
  have h10_6 : fld w 10 6 = x.d.val := by simp only [fld]; omega
  have h3_6 : fld w 3 6 = x.vw.val := by simp only [fld]; omega
  refine ⟨by omega, by simp only [fld]; omega, by simp only [fld]; omega, ?_⟩
  simp only [decFut, h23_3, h9_1, h0_3, h10_6, h3_6, whenZero, beq_self_eq_true, if_true, fin_of]

theorem SlotQ_dec (m f : Nat) (x : OpSlotQ) (mk : OpSlotQ → Instr) (hm : m < 64) (hf : f < 128) :
    let w := m * 2 ^ 26 + f * 2 ^ 16 + encSlotQ x
    w < 2 ^ 32 ∧ fld w 26 6 = m ∧ fld w 16 7 = f ∧ decSlotQ w mk = some (mk x) := by
  intro w
  have := x.d.isLt
  have hw : w = m * 2 ^ 26 + f * 2 ^ 16 + encSlotQ x := rfl
  simp only [encSlotQ] at hw
  have h23_3 : fld w 23 3 = 0 := by simp only [fld]; omega
  have h0_10 : fld w 0 10 = 0 := by simp only [fld]; omega
  have h10_6 : fld w 10 6 = x.d.val := by simp only [fld]; omega
  refine ⟨by omega, by simp only [fld]; omega, by simp only [fld]; omega, ?_⟩
  simp only [decSlotQ, h23_3, h0_10, h10_6, whenZero, beq_self_eq_true, if_true, fin_of]

theorem FeatQ_dec (m f : Nat) (x : OpFeatQ) (mk : OpFeatQ → Instr) (hm : m < 64) (hf : f < 128) :
    let w := m * 2 ^ 26 + f * 2 ^ 16 + encFeatQ x
    w < 2 ^ 32 ∧ fld w 26 6 = m ∧ fld w 16 7 = f ∧ decFeatQ w mk = some (mk x) := by
  intro w
  have := x.d.isLt
  have := x.q.isLt
  have hw : w = m * 2 ^ 26 + f * 2 ^ 16 + encFeatQ x := rfl
  simp only [encFeatQ] at hw
  have h23_3 : fld w 23 3 = 0 := by simp only [fld]; omega
  have h3_7 : fld w 3 7 = 0 := by simp only [fld]; omega
  have h10_6 : fld w 10 6 = x.d.val := by simp only [fld]; omega
  have h0_3 : fld w 0 3 = x.q.val := by simp only [fld]; omega
  refine ⟨by omega, by simp only [fld]; omega, by simp only [fld]; omega, ?_⟩
  simp only [decFeatQ, h23_3, h3_7, h10_6, h0_3, whenZero, beq_self_eq_true, if_true, fin_of]

theorem Hbt_dec (m f : Nat) (x : OpHbt) (mk : OpHbt → Instr) (hm : m < 64) (hf : f < 8) :
    let w := m * 2 ^ 26 + f * 2 ^ 23 + encHbt x
    w < 2 ^ 32 ∧ fld w 26 6 = m ∧ fld w 23 3 = f ∧ decHbt w mk = some (mk x) := by
  intro w
  have := x.t1.isLt
  have := x.t2.isLt
  have hw : w = m * 2 ^ 26 + f * 2 ^ 23 + encHbt x := rfl
  simp only [encHbt] at hw
  have h22_1 : fld w 22 1 = 0 := by simp only [fld]; omega
  have h0_11 : fld w 0 11 = x.t1.toNat := by simp only [fld]; omega
  have h11_11 : fld w 11 11 = x.t2.toNat := by simp only [fld]; omega
  refine ⟨by omega, by simp only [fld]; omega, by simp only [fld]; omega, ?_⟩
  simp only [decHbt, h22_1, h0_11, h11_11, whenZero, beq_self_eq_true, if_true, bv_of]

theorem Hord_dec (m f : Nat) (x : OpHord) (mk : OpHord → Instr) (hm : m < 64) (hf : f < 8) :
    let w := m * 2 ^ 26 + f * 2 ^ 23 + encHord x
    w < 2 ^ 32 ∧ fld w 26 6 = m ∧ fld w 23 3 = f ∧ decHord w mk = some (mk x) := by
  intro w
  have := b2n_le x.rem
  have := encOrder_lt x.ord
  have := scopeCode_lt x.scope
  have hw : w = m * 2 ^ 26 + f * 2 ^ 23 + encHord x := rfl
  simp only [encHord] at hw
  have h0_17 : fld w 0 17 = 0 := by simp only [fld]; omega
  have h21_2 : fld w 21 2 = encOrder x.ord := by simp only [fld]; omega
  have h18_3 : fld w 18 3 = x.scope.code := by simp only [fld]; omega
  have h17_1 : bit w 17 = x.rem := bit_of _ _ _ (by simp only [fld]; omega)
  refine ⟨by omega, by simp only [fld]; omega, by simp only [fld]; omega, ?_⟩
  simp only [decHord, h0_17, h21_2, h18_3, h17_1, decScope_enc, decOrder_enc, whenZero, beq_self_eq_true, if_true]

/-! ## The terms -/

theorem arm_iadd (w : Nat) (r : Option Instr) (h1 : fld w 26 6 = 0) (h2 : fld w 20 2 = 0) (h3 : decR w .iadd = r) :
    decodeRaw w = r := by
  unfold decodeRaw
  rw [h1, h2]
  generalize decR w .iadd = q at h3 ⊢
  exact h3

theorem RoundTrip.iadd (x : OpR) : RoundTrip.Statement (.iadd x) := by
  obtain ⟨h0, h1, h2, h3⟩ := R_dec 0 0 x .iadd (by decide) (by decide)
  exact of_raw (b := 0 * 2 ^ 26 + 0 * 2 ^ 20) rfl h0 fun _ => arm_iadd _ _ h1 h2 h3

theorem arm_isub (w : Nat) (r : Option Instr) (h1 : fld w 26 6 = 0) (h2 : fld w 20 2 = 1) (h3 : decR w .isub = r) :
    decodeRaw w = r := by
  unfold decodeRaw
  rw [h1, h2]
  generalize decR w .isub = q at h3 ⊢
  exact h3

theorem RoundTrip.isub (x : OpR) : RoundTrip.Statement (.isub x) := by
  obtain ⟨h0, h1, h2, h3⟩ := R_dec 0 1 x .isub (by decide) (by decide)
  exact of_raw (b := 0 * 2 ^ 26 + 1 * 2 ^ 20) rfl h0 fun _ => arm_isub _ _ h1 h2 h3

theorem arm_iadds (w : Nat) (r : Option Instr) (h1 : fld w 26 6 = 0) (h2 : fld w 20 2 = 2) (h3 : decR w .iadds = r) :
    decodeRaw w = r := by
  unfold decodeRaw
  rw [h1, h2]
  generalize decR w .iadds = q at h3 ⊢
  exact h3

theorem RoundTrip.iadds (x : OpR) : RoundTrip.Statement (.iadds x) := by
  obtain ⟨h0, h1, h2, h3⟩ := R_dec 0 2 x .iadds (by decide) (by decide)
  exact of_raw (b := 0 * 2 ^ 26 + 2 * 2 ^ 20) rfl h0 fun _ => arm_iadds _ _ h1 h2 h3

theorem arm_isubs (w : Nat) (r : Option Instr) (h1 : fld w 26 6 = 0) (h2 : fld w 20 2 = 3) (h3 : decR w .isubs = r) :
    decodeRaw w = r := by
  unfold decodeRaw
  rw [h1, h2]
  generalize decR w .isubs = q at h3 ⊢
  exact h3

theorem RoundTrip.isubs (x : OpR) : RoundTrip.Statement (.isubs x) := by
  obtain ⟨h0, h1, h2, h3⟩ := R_dec 0 3 x .isubs (by decide) (by decide)
  exact of_raw (b := 0 * 2 ^ 26 + 3 * 2 ^ 20) rfl h0 fun _ => arm_isubs _ _ h1 h2 h3

theorem arm_uadds (w : Nat) (r : Option Instr) (h1 : fld w 26 6 = 1) (h2 : fld w 20 2 = 0) (h3 : decR w .uadds = r) :
    decodeRaw w = r := by
  unfold decodeRaw
  rw [h1, h2]
  generalize decR w .uadds = q at h3 ⊢
  exact h3

theorem RoundTrip.uadds (x : OpR) : RoundTrip.Statement (.uadds x) := by
  obtain ⟨h0, h1, h2, h3⟩ := R_dec 1 0 x .uadds (by decide) (by decide)
  exact of_raw (b := 1 * 2 ^ 26 + 0 * 2 ^ 20) rfl h0 fun _ => arm_uadds _ _ h1 h2 h3

theorem arm_usubs (w : Nat) (r : Option Instr) (h1 : fld w 26 6 = 1) (h2 : fld w 20 2 = 1) (h3 : decR w .usubs = r) :
    decodeRaw w = r := by
  unfold decodeRaw
  rw [h1, h2]
  generalize decR w .usubs = q at h3 ⊢
  exact h3

theorem RoundTrip.usubs (x : OpR) : RoundTrip.Statement (.usubs x) := by
  obtain ⟨h0, h1, h2, h3⟩ := R_dec 1 1 x .usubs (by decide) (by decide)
  exact of_raw (b := 1 * 2 ^ 26 + 1 * 2 ^ 20) rfl h0 fun _ => arm_usubs _ _ h1 h2 h3

theorem arm_iabsd (w : Nat) (r : Option Instr) (h1 : fld w 26 6 = 1) (h2 : fld w 20 2 = 2) (h3 : decR w .iabsd = r) :
    decodeRaw w = r := by
  unfold decodeRaw
  rw [h1, h2]
  generalize decR w .iabsd = q at h3 ⊢
  exact h3

theorem RoundTrip.iabsd (x : OpR) : RoundTrip.Statement (.iabsd x) := by
  obtain ⟨h0, h1, h2, h3⟩ := R_dec 1 2 x .iabsd (by decide) (by decide)
  exact of_raw (b := 1 * 2 ^ 26 + 2 * 2 ^ 20) rfl h0 fun _ => arm_iabsd _ _ h1 h2 h3

theorem arm_uavg (w : Nat) (r : Option Instr) (h1 : fld w 26 6 = 1) (h2 : fld w 20 2 = 3) (h3 : decR w .uavg = r) :
    decodeRaw w = r := by
  unfold decodeRaw
  rw [h1, h2]
  generalize decR w .uavg = q at h3 ⊢
  exact h3

theorem RoundTrip.uavg (x : OpR) : RoundTrip.Statement (.uavg x) := by
  obtain ⟨h0, h1, h2, h3⟩ := R_dec 1 3 x .uavg (by decide) (by decide)
  exact of_raw (b := 1 * 2 ^ 26 + 3 * 2 ^ 20) rfl h0 fun _ => arm_uavg _ _ h1 h2 h3

theorem arm_add64 (w : Nat) (r : Option Instr) (h1 : fld w 26 6 = 2) (h2 : fld w 20 2 = 0) (h3 : decR64 w .add64 = r) :
    decodeRaw w = r := by
  unfold decodeRaw
  rw [h1, h2]
  generalize decR64 w .add64 = q at h3 ⊢
  exact h3

theorem RoundTrip.add64 (x : OpR64) : RoundTrip.Statement (.add64 x) := by
  obtain ⟨h0, h1, h2, h3⟩ := R64_dec 2 0 x .add64 (by decide) (by decide)
  exact of_raw (b := 2 * 2 ^ 26 + 0 * 2 ^ 20) rfl h0 fun _ => arm_add64 _ _ h1 h2 h3

theorem arm_sub64 (w : Nat) (r : Option Instr) (h1 : fld w 26 6 = 2) (h2 : fld w 20 2 = 1) (h3 : decR64 w .sub64 = r) :
    decodeRaw w = r := by
  unfold decodeRaw
  rw [h1, h2]
  generalize decR64 w .sub64 = q at h3 ⊢
  exact h3

theorem RoundTrip.sub64 (x : OpR64) : RoundTrip.Statement (.sub64 x) := by
  obtain ⟨h0, h1, h2, h3⟩ := R64_dec 2 1 x .sub64 (by decide) (by decide)
  exact of_raw (b := 2 * 2 ^ 26 + 1 * 2 ^ 20) rfl h0 fun _ => arm_sub64 _ _ h1 h2 h3

theorem arm_mul64 (w : Nat) (r : Option Instr) (h1 : fld w 26 6 = 2) (h2 : fld w 20 2 = 2) (h3 : decR64 w .mul64 = r) :
    decodeRaw w = r := by
  unfold decodeRaw
  rw [h1, h2]
  generalize decR64 w .mul64 = q at h3 ⊢
  exact h3

theorem RoundTrip.mul64 (x : OpR64) : RoundTrip.Statement (.mul64 x) := by
  obtain ⟨h0, h1, h2, h3⟩ := R64_dec 2 2 x .mul64 (by decide) (by decide)
  exact of_raw (b := 2 * 2 ^ 26 + 2 * 2 ^ 20) rfl h0 fun _ => arm_mul64 _ _ h1 h2 h3

theorem arm_shl64 (w : Nat) (r : Option Instr) (h1 : fld w 26 6 = 2) (h2 : fld w 20 2 = 3) (h3 : decR64 w .shl64 = r) :
    decodeRaw w = r := by
  unfold decodeRaw
  rw [h1, h2]
  generalize decR64 w .shl64 = q at h3 ⊢
  exact h3

theorem RoundTrip.shl64 (x : OpR64) : RoundTrip.Statement (.shl64 x) := by
  obtain ⟨h0, h1, h2, h3⟩ := R64_dec 2 3 x .shl64 (by decide) (by decide)
  exact of_raw (b := 2 * 2 ^ 26 + 3 * 2 ^ 20) rfl h0 fun _ => arm_shl64 _ _ h1 h2 h3

theorem arm_imul (w : Nat) (r : Option Instr) (h1 : fld w 26 6 = 3) (h2 : fld w 20 2 = 0) (h3 : decR w .imul = r) :
    decodeRaw w = r := by
  unfold decodeRaw
  rw [h1, h2]
  generalize decR w .imul = q at h3 ⊢
  exact h3

theorem RoundTrip.imul (x : OpR) : RoundTrip.Statement (.imul x) := by
  obtain ⟨h0, h1, h2, h3⟩ := R_dec 3 0 x .imul (by decide) (by decide)
  exact of_raw (b := 3 * 2 ^ 26 + 0 * 2 ^ 20) rfl h0 fun _ => arm_imul _ _ h1 h2 h3

theorem arm_imulhi (w : Nat) (r : Option Instr) (h1 : fld w 26 6 = 3) (h2 : fld w 20 2 = 1) (h3 : decR w .imulhi = r) :
    decodeRaw w = r := by
  unfold decodeRaw
  rw [h1, h2]
  generalize decR w .imulhi = q at h3 ⊢
  exact h3

theorem RoundTrip.imulhi (x : OpR) : RoundTrip.Statement (.imulhi x) := by
  obtain ⟨h0, h1, h2, h3⟩ := R_dec 3 1 x .imulhi (by decide) (by decide)
  exact of_raw (b := 3 * 2 ^ 26 + 1 * 2 ^ 20) rfl h0 fun _ => arm_imulhi _ _ h1 h2 h3

theorem arm_umulhi (w : Nat) (r : Option Instr) (h1 : fld w 26 6 = 3) (h2 : fld w 20 2 = 2) (h3 : decR w .umulhi = r) :
    decodeRaw w = r := by
  unfold decodeRaw
  rw [h1, h2]
  generalize decR w .umulhi = q at h3 ⊢
  exact h3

theorem RoundTrip.umulhi (x : OpR) : RoundTrip.Statement (.umulhi x) := by
  obtain ⟨h0, h1, h2, h3⟩ := R_dec 3 2 x .umulhi (by decide) (by decide)
  exact of_raw (b := 3 * 2 ^ 26 + 2 * 2 ^ 20) rfl h0 fun _ => arm_umulhi _ _ h1 h2 h3

theorem arm_imad (w : Nat) (r : Option Instr) (h1 : fld w 26 6 = 3) (h2 : fld w 20 2 = 3) (h3 : decR w .imad = r) :
    decodeRaw w = r := by
  unfold decodeRaw
  rw [h1, h2]
  generalize decR w .imad = q at h3 ⊢
  exact h3

theorem RoundTrip.imad (x : OpR) : RoundTrip.Statement (.imad x) := by
  obtain ⟨h0, h1, h2, h3⟩ := R_dec 3 3 x .imad (by decide) (by decide)
  exact of_raw (b := 3 * 2 ^ 26 + 3 * 2 ^ 20) rfl h0 fun _ => arm_imad _ _ h1 h2 h3

theorem arm_idiv (w : Nat) (r : Option Instr) (h1 : fld w 26 6 = 4) (h2 : fld w 20 2 = 0) (h3 : decR w .idiv = r) :
    decodeRaw w = r := by
  unfold decodeRaw
  rw [h1, h2]
  generalize decR w .idiv = q at h3 ⊢
  exact h3

theorem RoundTrip.idiv (x : OpR) : RoundTrip.Statement (.idiv x) := by
  obtain ⟨h0, h1, h2, h3⟩ := R_dec 4 0 x .idiv (by decide) (by decide)
  exact of_raw (b := 4 * 2 ^ 26 + 0 * 2 ^ 20) rfl h0 fun _ => arm_idiv _ _ h1 h2 h3

theorem arm_udiv (w : Nat) (r : Option Instr) (h1 : fld w 26 6 = 4) (h2 : fld w 20 2 = 1) (h3 : decR w .udiv = r) :
    decodeRaw w = r := by
  unfold decodeRaw
  rw [h1, h2]
  generalize decR w .udiv = q at h3 ⊢
  exact h3

theorem RoundTrip.udiv (x : OpR) : RoundTrip.Statement (.udiv x) := by
  obtain ⟨h0, h1, h2, h3⟩ := R_dec 4 1 x .udiv (by decide) (by decide)
  exact of_raw (b := 4 * 2 ^ 26 + 1 * 2 ^ 20) rfl h0 fun _ => arm_udiv _ _ h1 h2 h3

theorem arm_irem (w : Nat) (r : Option Instr) (h1 : fld w 26 6 = 4) (h2 : fld w 20 2 = 2) (h3 : decR w .irem = r) :
    decodeRaw w = r := by
  unfold decodeRaw
  rw [h1, h2]
  generalize decR w .irem = q at h3 ⊢
  exact h3

theorem RoundTrip.irem (x : OpR) : RoundTrip.Statement (.irem x) := by
  obtain ⟨h0, h1, h2, h3⟩ := R_dec 4 2 x .irem (by decide) (by decide)
  exact of_raw (b := 4 * 2 ^ 26 + 2 * 2 ^ 20) rfl h0 fun _ => arm_irem _ _ h1 h2 h3

theorem arm_urem (w : Nat) (r : Option Instr) (h1 : fld w 26 6 = 4) (h2 : fld w 20 2 = 3) (h3 : decR w .urem = r) :
    decodeRaw w = r := by
  unfold decodeRaw
  rw [h1, h2]
  generalize decR w .urem = q at h3 ⊢
  exact h3

theorem RoundTrip.urem (x : OpR) : RoundTrip.Statement (.urem x) := by
  obtain ⟨h0, h1, h2, h3⟩ := R_dec 4 3 x .urem (by decide) (by decide)
  exact of_raw (b := 4 * 2 ^ 26 + 3 * 2 ^ 20) rfl h0 fun _ => arm_urem _ _ h1 h2 h3

theorem arm_and (w : Nat) (r : Option Instr) (h1 : fld w 26 6 = 5) (h2 : fld w 20 2 = 0) (h3 : decR w .and = r) :
    decodeRaw w = r := by
  unfold decodeRaw
  rw [h1, h2]
  generalize decR w .and = q at h3 ⊢
  exact h3

theorem RoundTrip.and (x : OpR) : RoundTrip.Statement (.and x) := by
  obtain ⟨h0, h1, h2, h3⟩ := R_dec 5 0 x .and (by decide) (by decide)
  exact of_raw (b := 5 * 2 ^ 26 + 0 * 2 ^ 20) rfl h0 fun _ => arm_and _ _ h1 h2 h3

theorem arm_or (w : Nat) (r : Option Instr) (h1 : fld w 26 6 = 5) (h2 : fld w 20 2 = 1) (h3 : decR w .or = r) :
    decodeRaw w = r := by
  unfold decodeRaw
  rw [h1, h2]
  generalize decR w .or = q at h3 ⊢
  exact h3

theorem RoundTrip.or (x : OpR) : RoundTrip.Statement (.or x) := by
  obtain ⟨h0, h1, h2, h3⟩ := R_dec 5 1 x .or (by decide) (by decide)
  exact of_raw (b := 5 * 2 ^ 26 + 1 * 2 ^ 20) rfl h0 fun _ => arm_or _ _ h1 h2 h3

theorem arm_xor (w : Nat) (r : Option Instr) (h1 : fld w 26 6 = 5) (h2 : fld w 20 2 = 2) (h3 : decR w .xor = r) :
    decodeRaw w = r := by
  unfold decodeRaw
  rw [h1, h2]
  generalize decR w .xor = q at h3 ⊢
  exact h3

theorem RoundTrip.xor (x : OpR) : RoundTrip.Statement (.xor x) := by
  obtain ⟨h0, h1, h2, h3⟩ := R_dec 5 2 x .xor (by decide) (by decide)
  exact of_raw (b := 5 * 2 ^ 26 + 2 * 2 ^ 20) rfl h0 fun _ => arm_xor _ _ h1 h2 h3

theorem arm_andn (w : Nat) (r : Option Instr) (h1 : fld w 26 6 = 5) (h2 : fld w 20 2 = 3) (h3 : decR w .andn = r) :
    decodeRaw w = r := by
  unfold decodeRaw
  rw [h1, h2]
  generalize decR w .andn = q at h3 ⊢
  exact h3

theorem RoundTrip.andn (x : OpR) : RoundTrip.Statement (.andn x) := by
  obtain ⟨h0, h1, h2, h3⟩ := R_dec 5 3 x .andn (by decide) (by decide)
  exact of_raw (b := 5 * 2 ^ 26 + 3 * 2 ^ 20) rfl h0 fun _ => arm_andn _ _ h1 h2 h3

theorem arm_shl (w : Nat) (r : Option Instr) (h1 : fld w 26 6 = 6) (h2 : fld w 20 2 = 0) (h3 : decR w .shl = r) :
    decodeRaw w = r := by
  unfold decodeRaw
  rw [h1, h2]
  generalize decR w .shl = q at h3 ⊢
  exact h3

theorem RoundTrip.shl (x : OpR) : RoundTrip.Statement (.shl x) := by
  obtain ⟨h0, h1, h2, h3⟩ := R_dec 6 0 x .shl (by decide) (by decide)
  exact of_raw (b := 6 * 2 ^ 26 + 0 * 2 ^ 20) rfl h0 fun _ => arm_shl _ _ h1 h2 h3

theorem arm_shr (w : Nat) (r : Option Instr) (h1 : fld w 26 6 = 6) (h2 : fld w 20 2 = 1) (h3 : decR w .shr = r) :
    decodeRaw w = r := by
  unfold decodeRaw
  rw [h1, h2]
  generalize decR w .shr = q at h3 ⊢
  exact h3

theorem RoundTrip.shr (x : OpR) : RoundTrip.Statement (.shr x) := by
  obtain ⟨h0, h1, h2, h3⟩ := R_dec 6 1 x .shr (by decide) (by decide)
  exact of_raw (b := 6 * 2 ^ 26 + 1 * 2 ^ 20) rfl h0 fun _ => arm_shr _ _ h1 h2 h3

theorem arm_sar (w : Nat) (r : Option Instr) (h1 : fld w 26 6 = 6) (h2 : fld w 20 2 = 2) (h3 : decR w .sar = r) :
    decodeRaw w = r := by
  unfold decodeRaw
  rw [h1, h2]
  generalize decR w .sar = q at h3 ⊢
  exact h3

theorem RoundTrip.sar (x : OpR) : RoundTrip.Statement (.sar x) := by
  obtain ⟨h0, h1, h2, h3⟩ := R_dec 6 2 x .sar (by decide) (by decide)
  exact of_raw (b := 6 * 2 ^ 26 + 2 * 2 ^ 20) rfl h0 fun _ => arm_sar _ _ h1 h2 h3

theorem arm_rotl (w : Nat) (r : Option Instr) (h1 : fld w 26 6 = 6) (h2 : fld w 20 2 = 3) (h3 : decR w .rotl = r) :
    decodeRaw w = r := by
  unfold decodeRaw
  rw [h1, h2]
  generalize decR w .rotl = q at h3 ⊢
  exact h3

theorem RoundTrip.rotl (x : OpR) : RoundTrip.Statement (.rotl x) := by
  obtain ⟨h0, h1, h2, h3⟩ := R_dec 6 3 x .rotl (by decide) (by decide)
  exact of_raw (b := 6 * 2 ^ 26 + 3 * 2 ^ 20) rfl h0 fun _ => arm_rotl _ _ h1 h2 h3

theorem arm_imin (w : Nat) (r : Option Instr) (h1 : fld w 26 6 = 7) (h2 : fld w 20 2 = 0) (h3 : decR w .imin = r) :
    decodeRaw w = r := by
  unfold decodeRaw
  rw [h1, h2]
  generalize decR w .imin = q at h3 ⊢
  exact h3

theorem RoundTrip.imin (x : OpR) : RoundTrip.Statement (.imin x) := by
  obtain ⟨h0, h1, h2, h3⟩ := R_dec 7 0 x .imin (by decide) (by decide)
  exact of_raw (b := 7 * 2 ^ 26 + 0 * 2 ^ 20) rfl h0 fun _ => arm_imin _ _ h1 h2 h3

theorem arm_imax (w : Nat) (r : Option Instr) (h1 : fld w 26 6 = 7) (h2 : fld w 20 2 = 1) (h3 : decR w .imax = r) :
    decodeRaw w = r := by
  unfold decodeRaw
  rw [h1, h2]
  generalize decR w .imax = q at h3 ⊢
  exact h3

theorem RoundTrip.imax (x : OpR) : RoundTrip.Statement (.imax x) := by
  obtain ⟨h0, h1, h2, h3⟩ := R_dec 7 1 x .imax (by decide) (by decide)
  exact of_raw (b := 7 * 2 ^ 26 + 1 * 2 ^ 20) rfl h0 fun _ => arm_imax _ _ h1 h2 h3

theorem arm_umin (w : Nat) (r : Option Instr) (h1 : fld w 26 6 = 7) (h2 : fld w 20 2 = 2) (h3 : decR w .umin = r) :
    decodeRaw w = r := by
  unfold decodeRaw
  rw [h1, h2]
  generalize decR w .umin = q at h3 ⊢
  exact h3

theorem RoundTrip.umin (x : OpR) : RoundTrip.Statement (.umin x) := by
  obtain ⟨h0, h1, h2, h3⟩ := R_dec 7 2 x .umin (by decide) (by decide)
  exact of_raw (b := 7 * 2 ^ 26 + 2 * 2 ^ 20) rfl h0 fun _ => arm_umin _ _ h1 h2 h3

theorem arm_umax (w : Nat) (r : Option Instr) (h1 : fld w 26 6 = 7) (h2 : fld w 20 2 = 3) (h3 : decR w .umax = r) :
    decodeRaw w = r := by
  unfold decodeRaw
  rw [h1, h2]
  generalize decR w .umax = q at h3 ⊢
  exact h3

theorem RoundTrip.umax (x : OpR) : RoundTrip.Statement (.umax x) := by
  obtain ⟨h0, h1, h2, h3⟩ := R_dec 7 3 x .umax (by decide) (by decide)
  exact of_raw (b := 7 * 2 ^ 26 + 3 * 2 ^ 20) rfl h0 fun _ => arm_umax _ _ h1 h2 h3

theorem arm_mov (w : Nat) (r : Option Instr) (h1 : fld w 26 6 = 8) (h2 : fld w 0 7 = 0) (h3 : decU w .mov = r) :
    decodeRaw w = r := by
  unfold decodeRaw
  rw [h1, h2]
  generalize decU w .mov = q at h3 ⊢
  exact h3

theorem RoundTrip.mov (x : OpU) : RoundTrip.Statement (.mov x) := by
  obtain ⟨h0, h1, h2, h3⟩ := U_dec 8 0 x .mov (by decide) (by decide)
  exact of_raw (b := 8 * 2 ^ 26 + 0 * 2 ^ 0) rfl h0 fun _ => arm_mov _ _ h1 h2 h3

theorem arm_not (w : Nat) (r : Option Instr) (h1 : fld w 26 6 = 8) (h2 : fld w 0 7 = 1) (h3 : decU w .not = r) :
    decodeRaw w = r := by
  unfold decodeRaw
  rw [h1, h2]
  generalize decU w .not = q at h3 ⊢
  exact h3

theorem RoundTrip.not (x : OpU) : RoundTrip.Statement (.not x) := by
  obtain ⟨h0, h1, h2, h3⟩ := U_dec 8 1 x .not (by decide) (by decide)
  exact of_raw (b := 8 * 2 ^ 26 + 1 * 2 ^ 0) rfl h0 fun _ => arm_not _ _ h1 h2 h3

theorem arm_neg (w : Nat) (r : Option Instr) (h1 : fld w 26 6 = 8) (h2 : fld w 0 7 = 2) (h3 : decU w .neg = r) :
    decodeRaw w = r := by
  unfold decodeRaw
  rw [h1, h2]
  generalize decU w .neg = q at h3 ⊢
  exact h3

theorem RoundTrip.neg (x : OpU) : RoundTrip.Statement (.neg x) := by
  obtain ⟨h0, h1, h2, h3⟩ := U_dec 8 2 x .neg (by decide) (by decide)
  exact of_raw (b := 8 * 2 ^ 26 + 2 * 2 ^ 0) rfl h0 fun _ => arm_neg _ _ h1 h2 h3

theorem arm_iabs (w : Nat) (r : Option Instr) (h1 : fld w 26 6 = 8) (h2 : fld w 0 7 = 3) (h3 : decU w .iabs = r) :
    decodeRaw w = r := by
  unfold decodeRaw
  rw [h1, h2]
  generalize decU w .iabs = q at h3 ⊢
  exact h3

theorem RoundTrip.iabs (x : OpU) : RoundTrip.Statement (.iabs x) := by
  obtain ⟨h0, h1, h2, h3⟩ := U_dec 8 3 x .iabs (by decide) (by decide)
  exact of_raw (b := 8 * 2 ^ 26 + 3 * 2 ^ 0) rfl h0 fun _ => arm_iabs _ _ h1 h2 h3

theorem arm_popc (w : Nat) (r : Option Instr) (h1 : fld w 26 6 = 8) (h2 : fld w 0 7 = 4) (h3 : decU w .popc = r) :
    decodeRaw w = r := by
  unfold decodeRaw
  rw [h1, h2]
  generalize decU w .popc = q at h3 ⊢
  exact h3

theorem RoundTrip.popc (x : OpU) : RoundTrip.Statement (.popc x) := by
  obtain ⟨h0, h1, h2, h3⟩ := U_dec 8 4 x .popc (by decide) (by decide)
  exact of_raw (b := 8 * 2 ^ 26 + 4 * 2 ^ 0) rfl h0 fun _ => arm_popc _ _ h1 h2 h3

theorem arm_clz (w : Nat) (r : Option Instr) (h1 : fld w 26 6 = 8) (h2 : fld w 0 7 = 5) (h3 : decU w .clz = r) :
    decodeRaw w = r := by
  unfold decodeRaw
  rw [h1, h2]
  generalize decU w .clz = q at h3 ⊢
  exact h3

theorem RoundTrip.clz (x : OpU) : RoundTrip.Statement (.clz x) := by
  obtain ⟨h0, h1, h2, h3⟩ := U_dec 8 5 x .clz (by decide) (by decide)
  exact of_raw (b := 8 * 2 ^ 26 + 5 * 2 ^ 0) rfl h0 fun _ => arm_clz _ _ h1 h2 h3

theorem arm_ctz (w : Nat) (r : Option Instr) (h1 : fld w 26 6 = 8) (h2 : fld w 0 7 = 6) (h3 : decU w .ctz = r) :
    decodeRaw w = r := by
  unfold decodeRaw
  rw [h1, h2]
  generalize decU w .ctz = q at h3 ⊢
  exact h3

theorem RoundTrip.ctz (x : OpU) : RoundTrip.Statement (.ctz x) := by
  obtain ⟨h0, h1, h2, h3⟩ := U_dec 8 6 x .ctz (by decide) (by decide)
  exact of_raw (b := 8 * 2 ^ 26 + 6 * 2 ^ 0) rfl h0 fun _ => arm_ctz _ _ h1 h2 h3

theorem arm_brev (w : Nat) (r : Option Instr) (h1 : fld w 26 6 = 8) (h2 : fld w 0 7 = 7) (h3 : decU w .brev = r) :
    decodeRaw w = r := by
  unfold decodeRaw
  rw [h1, h2]
  generalize decU w .brev = q at h3 ⊢
  exact h3

theorem RoundTrip.brev (x : OpU) : RoundTrip.Statement (.brev x) := by
  obtain ⟨h0, h1, h2, h3⟩ := U_dec 8 7 x .brev (by decide) (by decide)
  exact of_raw (b := 8 * 2 ^ 26 + 7 * 2 ^ 0) rfl h0 fun _ => arm_brev _ _ h1 h2 h3

theorem arm_bswap (w : Nat) (r : Option Instr) (h1 : fld w 26 6 = 8) (h2 : fld w 0 7 = 8) (h3 : decU w .bswap = r) :
    decodeRaw w = r := by
  unfold decodeRaw
  rw [h1, h2]
  generalize decU w .bswap = q at h3 ⊢
  exact h3

theorem RoundTrip.bswap (x : OpU) : RoundTrip.Statement (.bswap x) := by
  obtain ⟨h0, h1, h2, h3⟩ := U_dec 8 8 x .bswap (by decide) (by decide)
  exact of_raw (b := 8 * 2 ^ 26 + 8 * 2 ^ 0) rfl h0 fun _ => arm_bswap _ _ h1 h2 h3

theorem arm_sext8 (w : Nat) (r : Option Instr) (h1 : fld w 26 6 = 8) (h2 : fld w 0 7 = 9) (h3 : decU w .sext8 = r) :
    decodeRaw w = r := by
  unfold decodeRaw
  rw [h1, h2]
  generalize decU w .sext8 = q at h3 ⊢
  exact h3

theorem RoundTrip.sext8 (x : OpU) : RoundTrip.Statement (.sext8 x) := by
  obtain ⟨h0, h1, h2, h3⟩ := U_dec 8 9 x .sext8 (by decide) (by decide)
  exact of_raw (b := 8 * 2 ^ 26 + 9 * 2 ^ 0) rfl h0 fun _ => arm_sext8 _ _ h1 h2 h3

theorem arm_sext16 (w : Nat) (r : Option Instr) (h1 : fld w 26 6 = 8) (h2 : fld w 0 7 = 10) (h3 : decU w .sext16 = r) :
    decodeRaw w = r := by
  unfold decodeRaw
  rw [h1, h2]
  generalize decU w .sext16 = q at h3 ⊢
  exact h3

theorem RoundTrip.sext16 (x : OpU) : RoundTrip.Statement (.sext16 x) := by
  obtain ⟨h0, h1, h2, h3⟩ := U_dec 8 10 x .sext16 (by decide) (by decide)
  exact of_raw (b := 8 * 2 ^ 26 + 10 * 2 ^ 0) rfl h0 fun _ => arm_sext16 _ _ h1 h2 h3

theorem arm_zext8 (w : Nat) (r : Option Instr) (h1 : fld w 26 6 = 8) (h2 : fld w 0 7 = 11) (h3 : decU w .zext8 = r) :
    decodeRaw w = r := by
  unfold decodeRaw
  rw [h1, h2]
  generalize decU w .zext8 = q at h3 ⊢
  exact h3

theorem RoundTrip.zext8 (x : OpU) : RoundTrip.Statement (.zext8 x) := by
  obtain ⟨h0, h1, h2, h3⟩ := U_dec 8 11 x .zext8 (by decide) (by decide)
  exact of_raw (b := 8 * 2 ^ 26 + 11 * 2 ^ 0) rfl h0 fun _ => arm_zext8 _ _ h1 h2 h3

theorem arm_zext16 (w : Nat) (r : Option Instr) (h1 : fld w 26 6 = 8) (h2 : fld w 0 7 = 12) (h3 : decU w .zext16 = r) :
    decodeRaw w = r := by
  unfold decodeRaw
  rw [h1, h2]
  generalize decU w .zext16 = q at h3 ⊢
  exact h3

theorem RoundTrip.zext16 (x : OpU) : RoundTrip.Statement (.zext16 x) := by
  obtain ⟨h0, h1, h2, h3⟩ := U_dec 8 12 x .zext16 (by decide) (by decide)
  exact of_raw (b := 8 * 2 ^ 26 + 12 * 2 ^ 0) rfl h0 fun _ => arm_zext16 _ _ h1 h2 h3

theorem arm_bfxz (w : Nat) (r : Option Instr) (h1 : fld w 26 6 = 9) (h2 : fld w 20 2 = 0) (h3 : decR w .bfxz = r) :
    decodeRaw w = r := by
  unfold decodeRaw
  rw [h1, h2]
  generalize decR w .bfxz = q at h3 ⊢
  exact h3

theorem RoundTrip.bfxz (x : OpR) : RoundTrip.Statement (.bfxz x) := by
  obtain ⟨h0, h1, h2, h3⟩ := R_dec 9 0 x .bfxz (by decide) (by decide)
  exact of_raw (b := 9 * 2 ^ 26 + 0 * 2 ^ 20) rfl h0 fun _ => arm_bfxz _ _ h1 h2 h3

theorem arm_bfxs (w : Nat) (r : Option Instr) (h1 : fld w 26 6 = 9) (h2 : fld w 20 2 = 1) (h3 : decR w .bfxs = r) :
    decodeRaw w = r := by
  unfold decodeRaw
  rw [h1, h2]
  generalize decR w .bfxs = q at h3 ⊢
  exact h3

theorem RoundTrip.bfxs (x : OpR) : RoundTrip.Statement (.bfxs x) := by
  obtain ⟨h0, h1, h2, h3⟩ := R_dec 9 1 x .bfxs (by decide) (by decide)
  exact of_raw (b := 9 * 2 ^ 26 + 1 * 2 ^ 20) rfl h0 fun _ => arm_bfxs _ _ h1 h2 h3

theorem arm_bfi (w : Nat) (r : Option Instr) (h1 : fld w 26 6 = 9) (h2 : fld w 20 2 = 2) (h3 : decR w .bfi = r) :
    decodeRaw w = r := by
  unfold decodeRaw
  rw [h1, h2]
  generalize decR w .bfi = q at h3 ⊢
  exact h3

theorem RoundTrip.bfi (x : OpR) : RoundTrip.Statement (.bfi x) := by
  obtain ⟨h0, h1, h2, h3⟩ := R_dec 9 2 x .bfi (by decide) (by decide)
  exact of_raw (b := 9 * 2 ^ 26 + 2 * 2 ^ 20) rfl h0 fun _ => arm_bfi _ _ h1 h2 h3

theorem arm_fshl (w : Nat) (r : Option Instr) (h1 : fld w 26 6 = 9) (h2 : fld w 20 2 = 3) (h3 : decR w .fshl = r) :
    decodeRaw w = r := by
  unfold decodeRaw
  rw [h1, h2]
  generalize decR w .fshl = q at h3 ⊢
  exact h3

theorem RoundTrip.fshl (x : OpR) : RoundTrip.Statement (.fshl x) := by
  obtain ⟨h0, h1, h2, h3⟩ := R_dec 9 3 x .fshl (by decide) (by decide)
  exact of_raw (b := 9 * 2 ^ 26 + 3 * 2 ^ 20) rfl h0 fun _ => arm_fshl _ _ h1 h2 h3

theorem arm_sel (w : Nat) (r : Option Instr) (h1 : fld w 26 6 = 10) (h3 : decSel w .sel = r) :
    decodeRaw w = r := by
  unfold decodeRaw
  rw [h1]
  generalize decSel w .sel = q at h3 ⊢
  exact h3

theorem RoundTrip.sel (x : OpSel) : RoundTrip.Statement (.sel x) := by
  obtain ⟨h0, h1, h3⟩ := Sel_dec 10 x .sel (by decide)
  exact of_raw (b := 10 * 2 ^ 26) rfl h0 fun _ => arm_sel _ _ h1 h3

theorem arm_shfli (w : Nat) (r : Option Instr) (h1 : fld w 26 6 = 11) (h2 : fld w 20 2 = 0) (h3 : decR w .shfli = r) :
    decodeRaw w = r := by
  unfold decodeRaw
  rw [h1, h2]
  generalize decR w .shfli = q at h3 ⊢
  exact h3

theorem RoundTrip.shfli (x : OpR) : RoundTrip.Statement (.shfli x) := by
  obtain ⟨h0, h1, h2, h3⟩ := R_dec 11 0 x .shfli (by decide) (by decide)
  exact of_raw (b := 11 * 2 ^ 26 + 0 * 2 ^ 20) rfl h0 fun _ => arm_shfli _ _ h1 h2 h3

theorem arm_shflu (w : Nat) (r : Option Instr) (h1 : fld w 26 6 = 11) (h2 : fld w 20 2 = 1) (h3 : decR w .shflu = r) :
    decodeRaw w = r := by
  unfold decodeRaw
  rw [h1, h2]
  generalize decR w .shflu = q at h3 ⊢
  exact h3

theorem RoundTrip.shflu (x : OpR) : RoundTrip.Statement (.shflu x) := by
  obtain ⟨h0, h1, h2, h3⟩ := R_dec 11 1 x .shflu (by decide) (by decide)
  exact of_raw (b := 11 * 2 ^ 26 + 1 * 2 ^ 20) rfl h0 fun _ => arm_shflu _ _ h1 h2 h3

theorem arm_shfld (w : Nat) (r : Option Instr) (h1 : fld w 26 6 = 11) (h2 : fld w 20 2 = 2) (h3 : decR w .shfld = r) :
    decodeRaw w = r := by
  unfold decodeRaw
  rw [h1, h2]
  generalize decR w .shfld = q at h3 ⊢
  exact h3

theorem RoundTrip.shfld (x : OpR) : RoundTrip.Statement (.shfld x) := by
  obtain ⟨h0, h1, h2, h3⟩ := R_dec 11 2 x .shfld (by decide) (by decide)
  exact of_raw (b := 11 * 2 ^ 26 + 2 * 2 ^ 20) rfl h0 fun _ => arm_shfld _ _ h1 h2 h3

theorem arm_shflx (w : Nat) (r : Option Instr) (h1 : fld w 26 6 = 11) (h2 : fld w 20 2 = 3) (h3 : decR w .shflx = r) :
    decodeRaw w = r := by
  unfold decodeRaw
  rw [h1, h2]
  generalize decR w .shflx = q at h3 ⊢
  exact h3

theorem RoundTrip.shflx (x : OpR) : RoundTrip.Statement (.shflx x) := by
  obtain ⟨h0, h1, h2, h3⟩ := R_dec 11 3 x .shflx (by decide) (by decide)
  exact of_raw (b := 11 * 2 ^ 26 + 3 * 2 ^ 20) rfl h0 fun _ => arm_shflx _ _ h1 h2 h3

theorem arm_sadd (w : Nat) (r : Option Instr) (h1 : fld w 26 6 = 12) (h2 : fld w 20 2 = 0) (h3 : decSR w .sadd = r) :
    decodeRaw w = r := by
  unfold decodeRaw
  rw [h1, h2]
  generalize decSR w .sadd = q at h3 ⊢
  exact h3

theorem RoundTrip.sadd (x : OpSR) : RoundTrip.Statement (.sadd x) := by
  obtain ⟨h0, h1, h2, h3⟩ := SR_dec 12 0 x .sadd (by decide) (by decide)
  exact of_raw (b := 12 * 2 ^ 26 + 0 * 2 ^ 20) rfl h0 fun _ => arm_sadd _ _ h1 h2 h3

theorem arm_ssub (w : Nat) (r : Option Instr) (h1 : fld w 26 6 = 12) (h2 : fld w 20 2 = 1) (h3 : decSR w .ssub = r) :
    decodeRaw w = r := by
  unfold decodeRaw
  rw [h1, h2]
  generalize decSR w .ssub = q at h3 ⊢
  exact h3

theorem RoundTrip.ssub (x : OpSR) : RoundTrip.Statement (.ssub x) := by
  obtain ⟨h0, h1, h2, h3⟩ := SR_dec 12 1 x .ssub (by decide) (by decide)
  exact of_raw (b := 12 * 2 ^ 26 + 1 * 2 ^ 20) rfl h0 fun _ => arm_ssub _ _ h1 h2 h3

theorem arm_smul (w : Nat) (r : Option Instr) (h1 : fld w 26 6 = 12) (h2 : fld w 20 2 = 2) (h3 : decSR w .smul = r) :
    decodeRaw w = r := by
  unfold decodeRaw
  rw [h1, h2]
  generalize decSR w .smul = q at h3 ⊢
  exact h3

theorem RoundTrip.smul (x : OpSR) : RoundTrip.Statement (.smul x) := by
  obtain ⟨h0, h1, h2, h3⟩ := SR_dec 12 2 x .smul (by decide) (by decide)
  exact of_raw (b := 12 * 2 ^ 26 + 2 * 2 ^ 20) rfl h0 fun _ => arm_smul _ _ h1 h2 h3

theorem arm_smin (w : Nat) (r : Option Instr) (h1 : fld w 26 6 = 12) (h2 : fld w 20 2 = 3) (h3 : decSR w .smin = r) :
    decodeRaw w = r := by
  unfold decodeRaw
  rw [h1, h2]
  generalize decSR w .smin = q at h3 ⊢
  exact h3

theorem RoundTrip.smin (x : OpSR) : RoundTrip.Statement (.smin x) := by
  obtain ⟨h0, h1, h2, h3⟩ := SR_dec 12 3 x .smin (by decide) (by decide)
  exact of_raw (b := 12 * 2 ^ 26 + 3 * 2 ^ 20) rfl h0 fun _ => arm_smin _ _ h1 h2 h3

theorem arm_sand (w : Nat) (r : Option Instr) (h1 : fld w 26 6 = 13) (h2 : fld w 20 2 = 0) (h3 : decSR w .sand = r) :
    decodeRaw w = r := by
  unfold decodeRaw
  rw [h1, h2]
  generalize decSR w .sand = q at h3 ⊢
  exact h3

theorem RoundTrip.sand (x : OpSR) : RoundTrip.Statement (.sand x) := by
  obtain ⟨h0, h1, h2, h3⟩ := SR_dec 13 0 x .sand (by decide) (by decide)
  exact of_raw (b := 13 * 2 ^ 26 + 0 * 2 ^ 20) rfl h0 fun _ => arm_sand _ _ h1 h2 h3

theorem arm_sor (w : Nat) (r : Option Instr) (h1 : fld w 26 6 = 13) (h2 : fld w 20 2 = 1) (h3 : decSR w .sor = r) :
    decodeRaw w = r := by
  unfold decodeRaw
  rw [h1, h2]
  generalize decSR w .sor = q at h3 ⊢
  exact h3

theorem RoundTrip.sor (x : OpSR) : RoundTrip.Statement (.sor x) := by
  obtain ⟨h0, h1, h2, h3⟩ := SR_dec 13 1 x .sor (by decide) (by decide)
  exact of_raw (b := 13 * 2 ^ 26 + 1 * 2 ^ 20) rfl h0 fun _ => arm_sor _ _ h1 h2 h3

theorem arm_sxor (w : Nat) (r : Option Instr) (h1 : fld w 26 6 = 13) (h2 : fld w 20 2 = 2) (h3 : decSR w .sxor = r) :
    decodeRaw w = r := by
  unfold decodeRaw
  rw [h1, h2]
  generalize decSR w .sxor = q at h3 ⊢
  exact h3

theorem RoundTrip.sxor (x : OpSR) : RoundTrip.Statement (.sxor x) := by
  obtain ⟨h0, h1, h2, h3⟩ := SR_dec 13 2 x .sxor (by decide) (by decide)
  exact of_raw (b := 13 * 2 ^ 26 + 2 * 2 ^ 20) rfl h0 fun _ => arm_sxor _ _ h1 h2 h3

theorem arm_sshl (w : Nat) (r : Option Instr) (h1 : fld w 26 6 = 13) (h2 : fld w 20 2 = 3) (h3 : decSR w .sshl = r) :
    decodeRaw w = r := by
  unfold decodeRaw
  rw [h1, h2]
  generalize decSR w .sshl = q at h3 ⊢
  exact h3

theorem RoundTrip.sshl (x : OpSR) : RoundTrip.Statement (.sshl x) := by
  obtain ⟨h0, h1, h2, h3⟩ := SR_dec 13 3 x .sshl (by decide) (by decide)
  exact of_raw (b := 13 * 2 ^ 26 + 3 * 2 ^ 20) rfl h0 fun _ => arm_sshl _ _ h1 h2 h3

theorem arm_smov (w : Nat) (r : Option Instr) (h1 : fld w 26 6 = 14) (h2 : fld w 0 7 = 0) (h3 : decSU w .smov = r) :
    decodeRaw w = r := by
  unfold decodeRaw
  rw [h1, h2]
  generalize decSU w .smov = q at h3 ⊢
  exact h3

theorem RoundTrip.smov (x : OpSU) : RoundTrip.Statement (.smov x) := by
  obtain ⟨h0, h1, h2, h3⟩ := SU_dec 14 0 x .smov (by decide) (by decide)
  exact of_raw (b := 14 * 2 ^ 26 + 0 * 2 ^ 0) rfl h0 fun _ => arm_smov _ _ h1 h2 h3

theorem arm_snot (w : Nat) (r : Option Instr) (h1 : fld w 26 6 = 14) (h2 : fld w 0 7 = 1) (h3 : decSU w .snot = r) :
    decodeRaw w = r := by
  unfold decodeRaw
  rw [h1, h2]
  generalize decSU w .snot = q at h3 ⊢
  exact h3

theorem RoundTrip.snot (x : OpSU) : RoundTrip.Statement (.snot x) := by
  obtain ⟨h0, h1, h2, h3⟩ := SU_dec 14 1 x .snot (by decide) (by decide)
  exact of_raw (b := 14 * 2 ^ 26 + 1 * 2 ^ 0) rfl h0 fun _ => arm_snot _ _ h1 h2 h3

theorem arm_sneg (w : Nat) (r : Option Instr) (h1 : fld w 26 6 = 14) (h2 : fld w 0 7 = 2) (h3 : decSU w .sneg = r) :
    decodeRaw w = r := by
  unfold decodeRaw
  rw [h1, h2]
  generalize decSU w .sneg = q at h3 ⊢
  exact h3

theorem RoundTrip.sneg (x : OpSU) : RoundTrip.Statement (.sneg x) := by
  obtain ⟨h0, h1, h2, h3⟩ := SU_dec 14 2 x .sneg (by decide) (by decide)
  exact of_raw (b := 14 * 2 ^ 26 + 2 * 2 ^ 0) rfl h0 fun _ => arm_sneg _ _ h1 h2 h3

theorem arm_spopc (w : Nat) (r : Option Instr) (h1 : fld w 26 6 = 14) (h2 : fld w 0 7 = 4) (h3 : decSU w .spopc = r) :
    decodeRaw w = r := by
  unfold decodeRaw
  rw [h1, h2]
  generalize decSU w .spopc = q at h3 ⊢
  exact h3

theorem RoundTrip.spopc (x : OpSU) : RoundTrip.Statement (.spopc x) := by
  obtain ⟨h0, h1, h2, h3⟩ := SU_dec 14 4 x .spopc (by decide) (by decide)
  exact of_raw (b := 14 * 2 ^ 26 + 4 * 2 ^ 0) rfl h0 fun _ => arm_spopc _ _ h1 h2 h3

theorem arm_sclz (w : Nat) (r : Option Instr) (h1 : fld w 26 6 = 14) (h2 : fld w 0 7 = 5) (h3 : decSU w .sclz = r) :
    decodeRaw w = r := by
  unfold decodeRaw
  rw [h1, h2]
  generalize decSU w .sclz = q at h3 ⊢
  exact h3

theorem RoundTrip.sclz (x : OpSU) : RoundTrip.Statement (.sclz x) := by
  obtain ⟨h0, h1, h2, h3⟩ := SU_dec 14 5 x .sclz (by decide) (by decide)
  exact of_raw (b := 14 * 2 ^ 26 + 5 * 2 ^ 0) rfl h0 fun _ => arm_sclz _ _ h1 h2 h3

theorem arm_saddi (w : Nat) (r : Option Instr) (h1 : fld w 26 6 = 15) (h3 : decSI w .saddi = r) :
    decodeRaw w = r := by
  unfold decodeRaw
  rw [h1]
  generalize decSI w .saddi = q at h3 ⊢
  exact h3

theorem RoundTrip.saddi (x : OpSI) : RoundTrip.Statement (.saddi x) := by
  obtain ⟨h0, h1, h3⟩ := SI_dec 15 x .saddi (by decide)
  exact of_raw (b := 15 * 2 ^ 26) rfl h0 fun _ => arm_saddi _ _ h1 h3

theorem arm_andi (w : Nat) (r : Option Instr) (h1 : fld w 26 6 = 17) (h3 : decI w .andi = r) :
    decodeRaw w = r := by
  unfold decodeRaw
  rw [h1]
  generalize decI w .andi = q at h3 ⊢
  exact h3

theorem RoundTrip.andi (x : OpI) : RoundTrip.Statement (.andi x) := by
  obtain ⟨h0, h1, h3⟩ := I_dec 17 x .andi (by decide)
  exact of_raw (b := 17 * 2 ^ 26) rfl h0 fun _ => arm_andi _ _ h1 h3

theorem arm_ori (w : Nat) (r : Option Instr) (h1 : fld w 26 6 = 18) (h3 : decI w .ori = r) :
    decodeRaw w = r := by
  unfold decodeRaw
  rw [h1]
  generalize decI w .ori = q at h3 ⊢
  exact h3

theorem RoundTrip.ori (x : OpI) : RoundTrip.Statement (.ori x) := by
  obtain ⟨h0, h1, h3⟩ := I_dec 18 x .ori (by decide)
  exact of_raw (b := 18 * 2 ^ 26) rfl h0 fun _ => arm_ori _ _ h1 h3

theorem arm_xori (w : Nat) (r : Option Instr) (h1 : fld w 26 6 = 19) (h3 : decI w .xori = r) :
    decodeRaw w = r := by
  unfold decodeRaw
  rw [h1]
  generalize decI w .xori = q at h3 ⊢
  exact h3

theorem RoundTrip.xori (x : OpI) : RoundTrip.Statement (.xori x) := by
  obtain ⟨h0, h1, h3⟩ := I_dec 19 x .xori (by decide)
  exact of_raw (b := 19 * 2 ^ 26) rfl h0 fun _ => arm_xori _ _ h1 h3

theorem arm_shli (w : Nat) (r : Option Instr) (h1 : fld w 26 6 = 20) (h3 : decI w .shli = r) :
    decodeRaw w = r := by
  unfold decodeRaw
  rw [h1]
  generalize decI w .shli = q at h3 ⊢
  exact h3

theorem RoundTrip.shli (x : OpI) : RoundTrip.Statement (.shli x) := by
  obtain ⟨h0, h1, h3⟩ := I_dec 20 x .shli (by decide)
  exact of_raw (b := 20 * 2 ^ 26) rfl h0 fun _ => arm_shli _ _ h1 h3

theorem arm_shri (w : Nat) (r : Option Instr) (h1 : fld w 26 6 = 21) (h3 : decI w .shri = r) :
    decodeRaw w = r := by
  unfold decodeRaw
  rw [h1]
  generalize decI w .shri = q at h3 ⊢
  exact h3

theorem RoundTrip.shri (x : OpI) : RoundTrip.Statement (.shri x) := by
  obtain ⟨h0, h1, h3⟩ := I_dec 21 x .shri (by decide)
  exact of_raw (b := 21 * 2 ^ 26) rfl h0 fun _ => arm_shri _ _ h1 h3

theorem arm_sari (w : Nat) (r : Option Instr) (h1 : fld w 26 6 = 22) (h3 : decI w .sari = r) :
    decodeRaw w = r := by
  unfold decodeRaw
  rw [h1]
  generalize decI w .sari = q at h3 ⊢
  exact h3

theorem RoundTrip.sari (x : OpI) : RoundTrip.Statement (.sari x) := by
  obtain ⟨h0, h1, h3⟩ := I_dec 22 x .sari (by decide)
  exact of_raw (b := 22 * 2 ^ 26) rfl h0 fun _ => arm_sari _ _ h1 h3

theorem arm_imuli (w : Nat) (r : Option Instr) (h1 : fld w 26 6 = 23) (h3 : decI w .imuli = r) :
    decodeRaw w = r := by
  unfold decodeRaw
  rw [h1]
  generalize decI w .imuli = q at h3 ⊢
  exact h3

theorem RoundTrip.imuli (x : OpI) : RoundTrip.Statement (.imuli x) := by
  obtain ⟨h0, h1, h3⟩ := I_dec 23 x .imuli (by decide)
  exact of_raw (b := 23 * 2 ^ 26) rfl h0 fun _ => arm_imuli _ _ h1 h3

theorem arm_fadd (w : Nat) (r : Option Instr) (h1 : fld w 26 6 = 24) (h3 : decRF w .fadd = r) :
    decodeRaw w = r := by
  unfold decodeRaw
  rw [h1]
  generalize decRF w .fadd = q at h3 ⊢
  exact h3

theorem RoundTrip.fadd (x : OpRF) : RoundTrip.Statement (.fadd x) := by
  obtain ⟨h0, h1, h3⟩ := RF_dec 24 x .fadd (by decide)
  exact of_raw (b := 24 * 2 ^ 26) rfl h0 fun _ => arm_fadd _ _ h1 h3

theorem arm_fsub (w : Nat) (r : Option Instr) (h1 : fld w 26 6 = 25) (h3 : decRF w .fsub = r) :
    decodeRaw w = r := by
  unfold decodeRaw
  rw [h1]
  generalize decRF w .fsub = q at h3 ⊢
  exact h3

theorem RoundTrip.fsub (x : OpRF) : RoundTrip.Statement (.fsub x) := by
  obtain ⟨h0, h1, h3⟩ := RF_dec 25 x .fsub (by decide)
  exact of_raw (b := 25 * 2 ^ 26) rfl h0 fun _ => arm_fsub _ _ h1 h3

theorem arm_fmul (w : Nat) (r : Option Instr) (h1 : fld w 26 6 = 26) (h3 : decRF w .fmul = r) :
    decodeRaw w = r := by
  unfold decodeRaw
  rw [h1]
  generalize decRF w .fmul = q at h3 ⊢
  exact h3

theorem RoundTrip.fmul (x : OpRF) : RoundTrip.Statement (.fmul x) := by
  obtain ⟨h0, h1, h3⟩ := RF_dec 26 x .fmul (by decide)
  exact of_raw (b := 26 * 2 ^ 26) rfl h0 fun _ => arm_fmul _ _ h1 h3

theorem arm_ffma (w : Nat) (r : Option Instr) (h1 : fld w 26 6 = 27) (h3 : decRF w .ffma = r) :
    decodeRaw w = r := by
  unfold decodeRaw
  rw [h1]
  generalize decRF w .ffma = q at h3 ⊢
  exact h3

theorem RoundTrip.ffma (x : OpRF) : RoundTrip.Statement (.ffma x) := by
  obtain ⟨h0, h1, h3⟩ := RF_dec 27 x .ffma (by decide)
  exact of_raw (b := 27 * 2 ^ 26) rfl h0 fun _ => arm_ffma _ _ h1 h3

theorem arm_fmin (w : Nat) (r : Option Instr) (h1 : fld w 26 6 = 28) (h3 : decRF w .fmin = r) :
    decodeRaw w = r := by
  unfold decodeRaw
  rw [h1]
  generalize decRF w .fmin = q at h3 ⊢
  exact h3

theorem RoundTrip.fmin (x : OpRF) : RoundTrip.Statement (.fmin x) := by
  obtain ⟨h0, h1, h3⟩ := RF_dec 28 x .fmin (by decide)
  exact of_raw (b := 28 * 2 ^ 26) rfl h0 fun _ => arm_fmin _ _ h1 h3

theorem arm_fmax (w : Nat) (r : Option Instr) (h1 : fld w 26 6 = 29) (h3 : decRF w .fmax = r) :
    decodeRaw w = r := by
  unfold decodeRaw
  rw [h1]
  generalize decRF w .fmax = q at h3 ⊢
  exact h3

theorem RoundTrip.fmax (x : OpRF) : RoundTrip.Statement (.fmax x) := by
  obtain ⟨h0, h1, h3⟩ := RF_dec 29 x .fmax (by decide)
  exact of_raw (b := 29 * 2 ^ 26) rfl h0 fun _ => arm_fmax _ _ h1 h3

theorem arm_fabs (w : Nat) (r : Option Instr) (h1 : fld w 26 6 = 30) (h2 : fld w 0 7 = 0) (h3 : decUF w .fabs = r) :
    decodeRaw w = r := by
  unfold decodeRaw
  rw [h1, h2]
  generalize decUF w .fabs = q at h3 ⊢
  exact h3

theorem RoundTrip.fabs (x : OpUF) : RoundTrip.Statement (.fabs x) := by
  obtain ⟨h0, h1, h2, h3⟩ := UF_dec 30 0 x .fabs (by decide) (by decide)
  exact of_raw (b := 30 * 2 ^ 26 + 0 * 2 ^ 0) rfl h0 fun _ => arm_fabs _ _ h1 h2 h3

theorem arm_fneg (w : Nat) (r : Option Instr) (h1 : fld w 26 6 = 30) (h2 : fld w 0 7 = 1) (h3 : decUF w .fneg = r) :
    decodeRaw w = r := by
  unfold decodeRaw
  rw [h1, h2]
  generalize decUF w .fneg = q at h3 ⊢
  exact h3

theorem RoundTrip.fneg (x : OpUF) : RoundTrip.Statement (.fneg x) := by
  obtain ⟨h0, h1, h2, h3⟩ := UF_dec 30 1 x .fneg (by decide) (by decide)
  exact of_raw (b := 30 * 2 ^ 26 + 1 * 2 ^ 0) rfl h0 fun _ => arm_fneg _ _ h1 h2 h3

theorem arm_fsqrt (w : Nat) (r : Option Instr) (h1 : fld w 26 6 = 30) (h2 : fld w 0 7 = 2) (h3 : decUF w .fsqrt = r) :
    decodeRaw w = r := by
  unfold decodeRaw
  rw [h1, h2]
  generalize decUF w .fsqrt = q at h3 ⊢
  exact h3

theorem RoundTrip.fsqrt (x : OpUF) : RoundTrip.Statement (.fsqrt x) := by
  obtain ⟨h0, h1, h2, h3⟩ := UF_dec 30 2 x .fsqrt (by decide) (by decide)
  exact of_raw (b := 30 * 2 ^ 26 + 2 * 2 ^ 0) rfl h0 fun _ => arm_fsqrt _ _ h1 h2 h3

theorem arm_frcp (w : Nat) (r : Option Instr) (h1 : fld w 26 6 = 30) (h2 : fld w 0 7 = 3) (h3 : decUF w .frcp = r) :
    decodeRaw w = r := by
  unfold decodeRaw
  rw [h1, h2]
  generalize decUF w .frcp = q at h3 ⊢
  exact h3

theorem RoundTrip.frcp (x : OpUF) : RoundTrip.Statement (.frcp x) := by
  obtain ⟨h0, h1, h2, h3⟩ := UF_dec 30 3 x .frcp (by decide) (by decide)
  exact of_raw (b := 30 * 2 ^ 26 + 3 * 2 ^ 0) rfl h0 fun _ => arm_frcp _ _ h1 h2 h3

theorem arm_frsq (w : Nat) (r : Option Instr) (h1 : fld w 26 6 = 30) (h2 : fld w 0 7 = 4) (h3 : decUF w .frsq = r) :
    decodeRaw w = r := by
  unfold decodeRaw
  rw [h1, h2]
  generalize decUF w .frsq = q at h3 ⊢
  exact h3

theorem RoundTrip.frsq (x : OpUF) : RoundTrip.Statement (.frsq x) := by
  obtain ⟨h0, h1, h2, h3⟩ := UF_dec 30 4 x .frsq (by decide) (by decide)
  exact of_raw (b := 30 * 2 ^ 26 + 4 * 2 ^ 0) rfl h0 fun _ => arm_frsq _ _ h1 h2 h3

theorem arm_fexp2 (w : Nat) (r : Option Instr) (h1 : fld w 26 6 = 30) (h2 : fld w 0 7 = 5) (h3 : decUF w .fexp2 = r) :
    decodeRaw w = r := by
  unfold decodeRaw
  rw [h1, h2]
  generalize decUF w .fexp2 = q at h3 ⊢
  exact h3

theorem RoundTrip.fexp2 (x : OpUF) : RoundTrip.Statement (.fexp2 x) := by
  obtain ⟨h0, h1, h2, h3⟩ := UF_dec 30 5 x .fexp2 (by decide) (by decide)
  exact of_raw (b := 30 * 2 ^ 26 + 5 * 2 ^ 0) rfl h0 fun _ => arm_fexp2 _ _ h1 h2 h3

theorem arm_flog2 (w : Nat) (r : Option Instr) (h1 : fld w 26 6 = 30) (h2 : fld w 0 7 = 6) (h3 : decUF w .flog2 = r) :
    decodeRaw w = r := by
  unfold decodeRaw
  rw [h1, h2]
  generalize decUF w .flog2 = q at h3 ⊢
  exact h3

theorem RoundTrip.flog2 (x : OpUF) : RoundTrip.Statement (.flog2 x) := by
  obtain ⟨h0, h1, h2, h3⟩ := UF_dec 30 6 x .flog2 (by decide) (by decide)
  exact of_raw (b := 30 * 2 ^ 26 + 6 * 2 ^ 0) rfl h0 fun _ => arm_flog2 _ _ h1 h2 h3

theorem arm_ffloor (w : Nat) (r : Option Instr) (h1 : fld w 26 6 = 30) (h2 : fld w 0 7 = 7) (h3 : decUF w .ffloor = r) :
    decodeRaw w = r := by
  unfold decodeRaw
  rw [h1, h2]
  generalize decUF w .ffloor = q at h3 ⊢
  exact h3

theorem RoundTrip.ffloor (x : OpUF) : RoundTrip.Statement (.ffloor x) := by
  obtain ⟨h0, h1, h2, h3⟩ := UF_dec 30 7 x .ffloor (by decide) (by decide)
  exact of_raw (b := 30 * 2 ^ 26 + 7 * 2 ^ 0) rfl h0 fun _ => arm_ffloor _ _ h1 h2 h3

theorem arm_fceil (w : Nat) (r : Option Instr) (h1 : fld w 26 6 = 30) (h2 : fld w 0 7 = 8) (h3 : decUF w .fceil = r) :
    decodeRaw w = r := by
  unfold decodeRaw
  rw [h1, h2]
  generalize decUF w .fceil = q at h3 ⊢
  exact h3

theorem RoundTrip.fceil (x : OpUF) : RoundTrip.Statement (.fceil x) := by
  obtain ⟨h0, h1, h2, h3⟩ := UF_dec 30 8 x .fceil (by decide) (by decide)
  exact of_raw (b := 30 * 2 ^ 26 + 8 * 2 ^ 0) rfl h0 fun _ => arm_fceil _ _ h1 h2 h3

theorem arm_ftrunc (w : Nat) (r : Option Instr) (h1 : fld w 26 6 = 30) (h2 : fld w 0 7 = 9) (h3 : decUF w .ftrunc = r) :
    decodeRaw w = r := by
  unfold decodeRaw
  rw [h1, h2]
  generalize decUF w .ftrunc = q at h3 ⊢
  exact h3

theorem RoundTrip.ftrunc (x : OpUF) : RoundTrip.Statement (.ftrunc x) := by
  obtain ⟨h0, h1, h2, h3⟩ := UF_dec 30 9 x .ftrunc (by decide) (by decide)
  exact of_raw (b := 30 * 2 ^ 26 + 9 * 2 ^ 0) rfl h0 fun _ => arm_ftrunc _ _ h1 h2 h3

theorem arm_frint (w : Nat) (r : Option Instr) (h1 : fld w 26 6 = 30) (h2 : fld w 0 7 = 10) (h3 : decUF w .frint = r) :
    decodeRaw w = r := by
  unfold decodeRaw
  rw [h1, h2]
  generalize decUF w .frint = q at h3 ⊢
  exact h3

theorem RoundTrip.frint (x : OpUF) : RoundTrip.Statement (.frint x) := by
  obtain ⟨h0, h1, h2, h3⟩ := UF_dec 30 10 x .frint (by decide) (by decide)
  exact of_raw (b := 30 * 2 ^ 26 + 10 * 2 ^ 0) rfl h0 fun _ => arm_frint _ _ h1 h2 h3

theorem arm_fclass (w : Nat) (r : Option Instr) (h1 : fld w 26 6 = 30) (h2 : fld w 0 7 = 11) (h3 : decUF w .fclass = r) :
    decodeRaw w = r := by
  unfold decodeRaw
  rw [h1, h2]
  generalize decUF w .fclass = q at h3 ⊢
  exact h3

theorem RoundTrip.fclass (x : OpUF) : RoundTrip.Statement (.fclass x) := by
  obtain ⟨h0, h1, h2, h3⟩ := UF_dec 30 11 x .fclass (by decide) (by decide)
  exact of_raw (b := 30 * 2 ^ 26 + 11 * 2 ^ 0) rfl h0 fun _ => arm_fclass _ _ h1 h2 h3

theorem arm_cvtF32S32 (w : Nat) (r : Option Instr) (h1 : fld w 26 6 = 31) (h2 : fld w 0 7 = 0) (h3 : decUF w .cvtF32S32 = r) :
    decodeRaw w = r := by
  unfold decodeRaw
  rw [h1, h2]
  generalize decUF w .cvtF32S32 = q at h3 ⊢
  exact h3

theorem RoundTrip.cvtF32S32 (x : OpUF) : RoundTrip.Statement (.cvtF32S32 x) := by
  obtain ⟨h0, h1, h2, h3⟩ := UF_dec 31 0 x .cvtF32S32 (by decide) (by decide)
  exact of_raw (b := 31 * 2 ^ 26 + 0 * 2 ^ 0) rfl h0 fun _ => arm_cvtF32S32 _ _ h1 h2 h3

theorem arm_cvtF32N32 (w : Nat) (r : Option Instr) (h1 : fld w 26 6 = 31) (h2 : fld w 0 7 = 1) (h3 : decUF w .cvtF32N32 = r) :
    decodeRaw w = r := by
  unfold decodeRaw
  rw [h1, h2]
  generalize decUF w .cvtF32N32 = q at h3 ⊢
  exact h3

theorem RoundTrip.cvtF32N32 (x : OpUF) : RoundTrip.Statement (.cvtF32N32 x) := by
  obtain ⟨h0, h1, h2, h3⟩ := UF_dec 31 1 x .cvtF32N32 (by decide) (by decide)
  exact of_raw (b := 31 * 2 ^ 26 + 1 * 2 ^ 0) rfl h0 fun _ => arm_cvtF32N32 _ _ h1 h2 h3

theorem arm_cvtBf16F32 (w : Nat) (r : Option Instr) (h1 : fld w 26 6 = 31) (h2 : fld w 0 7 = 16) (h3 : decUF w .cvtBf16F32 = r) :
    decodeRaw w = r := by
  unfold decodeRaw
  rw [h1, h2]
  generalize decUF w .cvtBf16F32 = q at h3 ⊢
  exact h3

theorem RoundTrip.cvtBf16F32 (x : OpUF) : RoundTrip.Statement (.cvtBf16F32 x) := by
  obtain ⟨h0, h1, h2, h3⟩ := UF_dec 31 16 x .cvtBf16F32 (by decide) (by decide)
  exact of_raw (b := 31 * 2 ^ 26 + 16 * 2 ^ 0) rfl h0 fun _ => arm_cvtBf16F32 _ _ h1 h2 h3

theorem arm_cvtF32Bf16 (w : Nat) (r : Option Instr) (h1 : fld w 26 6 = 31) (h2 : fld w 0 7 = 17) (h3 : decUF w .cvtF32Bf16 = r) :
    decodeRaw w = r := by
  unfold decodeRaw
  rw [h1, h2]
  generalize decUF w .cvtF32Bf16 = q at h3 ⊢
  exact h3

theorem RoundTrip.cvtF32Bf16 (x : OpUF) : RoundTrip.Statement (.cvtF32Bf16 x) := by
  obtain ⟨h0, h1, h2, h3⟩ := UF_dec 31 17 x .cvtF32Bf16 (by decide) (by decide)
  exact of_raw (b := 31 * 2 ^ 26 + 17 * 2 ^ 0) rfl h0 fun _ => arm_cvtF32Bf16 _ _ h1 h2 h3

theorem arm_cvtF32E4m3 (w : Nat) (r : Option Instr) (h1 : fld w 26 6 = 31) (h2 : fld w 0 7 = 22) (h3 : decUF w .cvtF32E4m3 = r) :
    decodeRaw w = r := by
  unfold decodeRaw
  rw [h1, h2]
  generalize decUF w .cvtF32E4m3 = q at h3 ⊢
  exact h3

theorem RoundTrip.cvtF32E4m3 (x : OpUF) : RoundTrip.Statement (.cvtF32E4m3 x) := by
  obtain ⟨h0, h1, h2, h3⟩ := UF_dec 31 22 x .cvtF32E4m3 (by decide) (by decide)
  exact of_raw (b := 31 * 2 ^ 26 + 22 * 2 ^ 0) rfl h0 fun _ => arm_cvtF32E4m3 _ _ h1 h2 h3

theorem arm_cvtF32E5m2 (w : Nat) (r : Option Instr) (h1 : fld w 26 6 = 31) (h2 : fld w 0 7 = 23) (h3 : decUF w .cvtF32E5m2 = r) :
    decodeRaw w = r := by
  unfold decodeRaw
  rw [h1, h2]
  generalize decUF w .cvtF32E5m2 = q at h3 ⊢
  exact h3

theorem RoundTrip.cvtF32E5m2 (x : OpUF) : RoundTrip.Statement (.cvtF32E5m2 x) := by
  obtain ⟨h0, h1, h2, h3⟩ := UF_dec 31 23 x .cvtF32E5m2 (by decide) (by decide)
  exact of_raw (b := 31 * 2 ^ 26 + 23 * 2 ^ 0) rfl h0 fun _ => arm_cvtF32E5m2 _ _ h1 h2 h3

theorem arm_cvtE4m3E2m1 (w : Nat) (r : Option Instr) (h1 : fld w 26 6 = 31) (h2 : fld w 0 7 = 24) (h3 : decUF w .cvtE4m3E2m1 = r) :
    decodeRaw w = r := by
  unfold decodeRaw
  rw [h1, h2]
  generalize decUF w .cvtE4m3E2m1 = q at h3 ⊢
  exact h3

theorem RoundTrip.cvtE4m3E2m1 (x : OpUF) : RoundTrip.Statement (.cvtE4m3E2m1 x) := by
  obtain ⟨h0, h1, h2, h3⟩ := UF_dec 31 24 x .cvtE4m3E2m1 (by decide) (by decide)
  exact of_raw (b := 31 * 2 ^ 26 + 24 * 2 ^ 0) rfl h0 fun _ => arm_cvtE4m3E2m1 _ _ h1 h2 h3

theorem arm_cvtE4m3E3m2 (w : Nat) (r : Option Instr) (h1 : fld w 26 6 = 31) (h2 : fld w 0 7 = 25) (h3 : decUF w .cvtE4m3E3m2 = r) :
    decodeRaw w = r := by
  unfold decodeRaw
  rw [h1, h2]
  generalize decUF w .cvtE4m3E3m2 = q at h3 ⊢
  exact h3

theorem RoundTrip.cvtE4m3E3m2 (x : OpUF) : RoundTrip.Statement (.cvtE4m3E3m2 x) := by
  obtain ⟨h0, h1, h2, h3⟩ := UF_dec 31 25 x .cvtE4m3E3m2 (by decide) (by decide)
  exact of_raw (b := 31 * 2 ^ 26 + 25 * 2 ^ 0) rfl h0 fun _ => arm_cvtE4m3E3m2 _ _ h1 h2 h3

theorem arm_cvtE4m3E2m3 (w : Nat) (r : Option Instr) (h1 : fld w 26 6 = 31) (h2 : fld w 0 7 = 26) (h3 : decUF w .cvtE4m3E2m3 = r) :
    decodeRaw w = r := by
  unfold decodeRaw
  rw [h1, h2]
  generalize decUF w .cvtE4m3E2m3 = q at h3 ⊢
  exact h3

theorem RoundTrip.cvtE4m3E2m3 (x : OpUF) : RoundTrip.Statement (.cvtE4m3E2m3 x) := by
  obtain ⟨h0, h1, h2, h3⟩ := UF_dec 31 26 x .cvtE4m3E2m3 (by decide) (by decide)
  exact of_raw (b := 31 * 2 ^ 26 + 26 * 2 ^ 0) rfl h0 fun _ => arm_cvtE4m3E2m3 _ _ h1 h2 h3

theorem arm_cvtE4m3I4 (w : Nat) (r : Option Instr) (h1 : fld w 26 6 = 31) (h2 : fld w 0 7 = 27) (h3 : decUF w .cvtE4m3I4 = r) :
    decodeRaw w = r := by
  unfold decodeRaw
  rw [h1, h2]
  generalize decUF w .cvtE4m3I4 = q at h3 ⊢
  exact h3

theorem RoundTrip.cvtE4m3I4 (x : OpUF) : RoundTrip.Statement (.cvtE4m3I4 x) := by
  obtain ⟨h0, h1, h2, h3⟩ := UF_dec 31 27 x .cvtE4m3I4 (by decide) (by decide)
  exact of_raw (b := 31 * 2 ^ 26 + 27 * 2 ^ 0) rfl h0 fun _ => arm_cvtE4m3I4 _ _ h1 h2 h3

theorem arm_bfma2 (w : Nat) (r : Option Instr) (h1 : fld w 26 6 = 32) (h3 : decRF w .bfma2 = r) :
    decodeRaw w = r := by
  unfold decodeRaw
  rw [h1]
  generalize decRF w .bfma2 = q at h3 ⊢
  exact h3

theorem RoundTrip.bfma2 (x : OpRF) : RoundTrip.Statement (.bfma2 x) := by
  obtain ⟨h0, h1, h3⟩ := RF_dec 32 x .bfma2 (by decide)
  exact of_raw (b := 32 * 2 ^ 26) rfl h0 fun _ => arm_bfma2 _ _ h1 h3

theorem arm_bfadd2 (w : Nat) (r : Option Instr) (h1 : fld w 26 6 = 33) (h3 : decRF w .bfadd2 = r) :
    decodeRaw w = r := by
  unfold decodeRaw
  rw [h1]
  generalize decRF w .bfadd2 = q at h3 ⊢
  exact h3

theorem RoundTrip.bfadd2 (x : OpRF) : RoundTrip.Statement (.bfadd2 x) := by
  obtain ⟨h0, h1, h3⟩ := RF_dec 33 x .bfadd2 (by decide)
  exact of_raw (b := 33 * 2 ^ 26) rfl h0 fun _ => arm_bfadd2 _ _ h1 h3

theorem arm_bfmul2 (w : Nat) (r : Option Instr) (h1 : fld w 26 6 = 34) (h3 : decRF w .bfmul2 = r) :
    decodeRaw w = r := by
  unfold decodeRaw
  rw [h1]
  generalize decRF w .bfmul2 = q at h3 ⊢
  exact h3

theorem RoundTrip.bfmul2 (x : OpRF) : RoundTrip.Statement (.bfmul2 x) := by
  obtain ⟨h0, h1, h3⟩ := RF_dec 34 x .bfmul2 (by decide)
  exact of_raw (b := 34 * 2 ^ 26) rfl h0 fun _ => arm_bfmul2 _ _ h1 h3

theorem arm_plenc (w : Nat) (r : Option Instr) (h1 : fld w 26 6 = 35) (h2 : fld w 0 7 = 0) (h3 : decU w .plenc = r) :
    decodeRaw w = r := by
  unfold decodeRaw
  rw [h1, h2]
  generalize decU w .plenc = q at h3 ⊢
  exact h3

theorem RoundTrip.plenc (x : OpU) : RoundTrip.Statement (.plenc x) := by
  obtain ⟨h0, h1, h2, h3⟩ := U_dec 35 0 x .plenc (by decide) (by decide)
  exact of_raw (b := 35 * 2 ^ 26 + 0 * 2 ^ 0) rfl h0 fun _ => arm_plenc _ _ h1 h2 h3

theorem arm_plmax (w : Nat) (r : Option Instr) (h1 : fld w 26 6 = 35) (h2 : fld w 0 7 = 1) (h3 : decU w .plmax = r) :
    decodeRaw w = r := by
  unfold decodeRaw
  rw [h1, h2]
  generalize decU w .plmax = q at h3 ⊢
  exact h3

theorem RoundTrip.plmax (x : OpU) : RoundTrip.Statement (.plmax x) := by
  obtain ⟨h0, h1, h2, h3⟩ := U_dec 35 1 x .plmax (by decide) (by decide)
  exact of_raw (b := 35 * 2 ^ 26 + 1 * 2 ^ 0) rfl h0 fun _ => arm_plmax _ _ h1 h2 h3

theorem arm_icmp (w : Nat) (r : Option Instr) (h1 : fld w 26 6 = 36) (h3 : decICmp w .icmp = r) :
    decodeRaw w = r := by
  unfold decodeRaw
  rw [h1]
  generalize decICmp w .icmp = q at h3 ⊢
  exact h3

theorem RoundTrip.icmp (x : OpICmp) : RoundTrip.Statement (.icmp x) := by
  obtain ⟨h0, h1, h3⟩ := ICmp_dec 36 x .icmp (by decide)
  exact of_raw (b := 36 * 2 ^ 26) rfl h0 fun _ => arm_icmp _ _ h1 h3

theorem arm_fcmp (w : Nat) (r : Option Instr) (h1 : fld w 26 6 = 37) (h3 : decFCmp w .fcmp = r) :
    decodeRaw w = r := by
  unfold decodeRaw
  rw [h1]
  generalize decFCmp w .fcmp = q at h3 ⊢
  exact h3

theorem RoundTrip.fcmp (x : OpFCmp) : RoundTrip.Statement (.fcmp x) := by
  obtain ⟨h0, h1, h3⟩ := FCmp_dec 37 x .fcmp (by decide)
  exact of_raw (b := 37 * 2 ^ 26) rfl h0 fun _ => arm_fcmp _ _ h1 h3

theorem arm_plog (w : Nat) (r : Option Instr) (h1 : fld w 26 6 = 38) (h3 : decPLog w .plog = r) :
    decodeRaw w = r := by
  unfold decodeRaw
  rw [h1]
  generalize decPLog w .plog = q at h3 ⊢
  exact h3

theorem RoundTrip.plog (x : OpPLog) : RoundTrip.Statement (.plog x) := by
  obtain ⟨h0, h1, h3⟩ := PLog_dec 38 x .plog (by decide)
  exact of_raw (b := 38 * 2 ^ 26) rfl h0 fun _ => arm_plog _ _ h1 h3

theorem arm_vany (w : Nat) (r : Option Instr) (h1 : fld w 26 6 = 39) (h2 : fld w 0 7 = 0) (h3 : decCoh w .vany = r) :
    decodeRaw w = r := by
  unfold decodeRaw
  rw [h1, h2]
  generalize decCoh w .vany = q at h3 ⊢
  exact h3

theorem RoundTrip.vany (x : OpCoh) : RoundTrip.Statement (.vany x) := by
  obtain ⟨h0, h1, h2, h3⟩ := Coh_dec 39 0 x .vany (by decide) (by decide)
  exact of_raw (b := 39 * 2 ^ 26 + 0 * 2 ^ 0) rfl h0 fun _ => arm_vany _ _ h1 h2 h3

theorem arm_vall (w : Nat) (r : Option Instr) (h1 : fld w 26 6 = 39) (h2 : fld w 0 7 = 1) (h3 : decCoh w .vall = r) :
    decodeRaw w = r := by
  unfold decodeRaw
  rw [h1, h2]
  generalize decCoh w .vall = q at h3 ⊢
  exact h3

theorem RoundTrip.vall (x : OpCoh) : RoundTrip.Statement (.vall x) := by
  obtain ⟨h0, h1, h2, h3⟩ := Coh_dec 39 1 x .vall (by decide) (by decide)
  exact of_raw (b := 39 * 2 ^ 26 + 1 * 2 ^ 0) rfl h0 fun _ => arm_vall _ _ h1 h2 h3

theorem arm_vbal (w : Nat) (r : Option Instr) (h1 : fld w 26 6 = 39) (h2 : fld w 0 7 = 2) (h3 : decCoh w .vbal = r) :
    decodeRaw w = r := by
  unfold decodeRaw
  rw [h1, h2]
  generalize decCoh w .vbal = q at h3 ⊢
  exact h3

theorem RoundTrip.vbal (x : OpCoh) : RoundTrip.Statement (.vbal x) := by
  obtain ⟨h0, h1, h2, h3⟩ := Coh_dec 39 2 x .vbal (by decide) (by decide)
  exact of_raw (b := 39 * 2 ^ 26 + 2 * 2 ^ 0) rfl h0 fun _ => arm_vbal _ _ h1 h2 h3

theorem arm_redadd (w : Nat) (r : Option Instr) (h1 : fld w 26 6 = 39) (h2 : fld w 0 7 = 3) (h3 : decCoh w .redadd = r) :
    decodeRaw w = r := by
  unfold decodeRaw
  rw [h1, h2]
  generalize decCoh w .redadd = q at h3 ⊢
  exact h3

theorem RoundTrip.redadd (x : OpCoh) : RoundTrip.Statement (.redadd x) := by
  obtain ⟨h0, h1, h2, h3⟩ := Coh_dec 39 3 x .redadd (by decide) (by decide)
  exact of_raw (b := 39 * 2 ^ 26 + 3 * 2 ^ 0) rfl h0 fun _ => arm_redadd _ _ h1 h2 h3

theorem arm_redmin (w : Nat) (r : Option Instr) (h1 : fld w 26 6 = 39) (h2 : fld w 0 7 = 4) (h3 : decCoh w .redmin = r) :
    decodeRaw w = r := by
  unfold decodeRaw
  rw [h1, h2]
  generalize decCoh w .redmin = q at h3 ⊢
  exact h3

theorem RoundTrip.redmin (x : OpCoh) : RoundTrip.Statement (.redmin x) := by
  obtain ⟨h0, h1, h2, h3⟩ := Coh_dec 39 4 x .redmin (by decide) (by decide)
  exact of_raw (b := 39 * 2 ^ 26 + 4 * 2 ^ 0) rfl h0 fun _ => arm_redmin _ _ h1 h2 h3

theorem arm_redmax (w : Nat) (r : Option Instr) (h1 : fld w 26 6 = 39) (h2 : fld w 0 7 = 5) (h3 : decCoh w .redmax = r) :
    decodeRaw w = r := by
  unfold decodeRaw
  rw [h1, h2]
  generalize decCoh w .redmax = q at h3 ⊢
  exact h3

theorem RoundTrip.redmax (x : OpCoh) : RoundTrip.Statement (.redmax x) := by
  obtain ⟨h0, h1, h2, h3⟩ := Coh_dec 39 5 x .redmax (by decide) (by decide)
  exact of_raw (b := 39 * 2 ^ 26 + 5 * 2 ^ 0) rfl h0 fun _ => arm_redmax _ _ h1 h2 h3

theorem arm_redfadd (w : Nat) (r : Option Instr) (h1 : fld w 26 6 = 39) (h2 : fld w 0 7 = 6) (h3 : decCoh w .redfadd = r) :
    decodeRaw w = r := by
  unfold decodeRaw
  rw [h1, h2]
  generalize decCoh w .redfadd = q at h3 ⊢
  exact h3

theorem RoundTrip.redfadd (x : OpCoh) : RoundTrip.Statement (.redfadd x) := by
  obtain ⟨h0, h1, h2, h3⟩ := Coh_dec 39 6 x .redfadd (by decide) (by decide)
  exact of_raw (b := 39 * 2 ^ 26 + 6 * 2 ^ 0) rfl h0 fun _ => arm_redfadd _ _ h1 h2 h3

theorem arm_vtop (w : Nat) (r : Option Instr) (h1 : fld w 26 6 = 39) (h2 : fld w 0 7 = 8) (h3 : decVToP w .vtop = r) :
    decodeRaw w = r := by
  unfold decodeRaw
  rw [h1, h2]
  generalize decVToP w .vtop = q at h3 ⊢
  exact h3

theorem RoundTrip.vtop (x : OpVToP) : RoundTrip.Statement (.vtop x) := by
  obtain ⟨h0, h1, h2, h3⟩ := VToP_dec 39 8 x .vtop (by decide) (by decide)
  exact of_raw (b := 39 * 2 ^ 26 + 8 * 2 ^ 0) rfl h0 fun _ => arm_vtop _ _ h1 h2 h3

theorem arm_bra (w : Nat) (r : Option Instr) (h1 : fld w 26 6 = 40) (h3 : decB w .bra = r) :
    decodeRaw w = r := by
  unfold decodeRaw
  rw [h1]
  generalize decB w .bra = q at h3 ⊢
  exact h3

theorem RoundTrip.bra (x : OpB) : RoundTrip.Statement (.bra x) := by
  obtain ⟨h0, h1, h3⟩ := B_dec 40 x .bra (by decide)
  exact of_raw (b := 40 * 2 ^ 26) rfl h0 fun _ => arm_bra _ _ h1 h3

theorem arm_call (w : Nat) (r : Option Instr) (h1 : fld w 26 6 = 41) (h3 : decB w .call = r) :
    decodeRaw w = r := by
  unfold decodeRaw
  rw [h1]
  generalize decB w .call = q at h3 ⊢
  exact h3

theorem RoundTrip.call (x : OpB) : RoundTrip.Statement (.call x) := by
  obtain ⟨h0, h1, h3⟩ := B_dec 41 x .call (by decide)
  exact of_raw (b := 41 * 2 ^ 26) rfl h0 fun _ => arm_call _ _ h1 h3

theorem arm_jmpr (w : Nat) (r : Option Instr) (h1 : fld w 26 6 = 42) (h2 : fld w 0 7 = 0) (h3 : decGA w .jmpr = r) :
    decodeRaw w = r := by
  unfold decodeRaw
  rw [h1, h2]
  generalize decGA w .jmpr = q at h3 ⊢
  exact h3

theorem RoundTrip.jmpr (x : OpGA) : RoundTrip.Statement (.jmpr x) := by
  obtain ⟨h0, h1, h2, h3⟩ := GA_dec 42 0 x .jmpr (by decide) (by decide)
  exact of_raw (b := 42 * 2 ^ 26 + 0 * 2 ^ 0) rfl h0 fun _ => arm_jmpr _ _ h1 h2 h3

theorem arm_callr (w : Nat) (r : Option Instr) (h1 : fld w 26 6 = 42) (h2 : fld w 0 7 = 1) (h3 : decGA w .callr = r) :
    decodeRaw w = r := by
  unfold decodeRaw
  rw [h1, h2]
  generalize decGA w .callr = q at h3 ⊢
  exact h3

theorem RoundTrip.callr (x : OpGA) : RoundTrip.Statement (.callr x) := by
  obtain ⟨h0, h1, h2, h3⟩ := GA_dec 42 1 x .callr (by decide) (by decide)
  exact of_raw (b := 42 * 2 ^ 26 + 1 * 2 ^ 0) rfl h0 fun _ => arm_callr _ _ h1 h2 h3

theorem arm_ret (w : Nat) (r : Option Instr) (h1 : fld w 26 6 = 42) (h2 : fld w 0 7 = 2) (h3 : decRet w .ret = r) :
    decodeRaw w = r := by
  unfold decodeRaw
  rw [h1, h2]
  generalize decRet w .ret = q at h3 ⊢
  exact h3

theorem RoundTrip.ret (x : OpG) : RoundTrip.Statement (.ret x) := by
  obtain ⟨h0, h1, h2, h3⟩ := Ret_dec 42 2 x .ret (by decide) (by decide)
  exact of_raw (b := 42 * 2 ^ 26 + 2 * 2 ^ 0) rfl h0 fun _ => arm_ret _ _ h1 h2 h3

theorem arm_rvz (w : Nat) (r : Option Instr) (h1 : fld w 26 6 = 42) (h2 : fld w 0 7 = 3) (h3 : decGA w .rvz = r) :
    decodeRaw w = r := by
  unfold decodeRaw
  rw [h1, h2]
  generalize decGA w .rvz = q at h3 ⊢
  exact h3

theorem RoundTrip.rvz (x : OpGA) : RoundTrip.Statement (.rvz x) := by
  obtain ⟨h0, h1, h2, h3⟩ := GA_dec 42 3 x .rvz (by decide) (by decide)
  exact of_raw (b := 42 * 2 ^ 26 + 3 * 2 ^ 0) rfl h0 fun _ => arm_rvz _ _ h1 h2 h3

theorem arm_syncl (w : Nat) (r : Option Instr) (h1 : fld w 26 6 = 42) (h2 : fld w 0 7 = 4) (h3 : decGA w .syncl = r) :
    decodeRaw w = r := by
  unfold decodeRaw
  rw [h1, h2]
  generalize decGA w .syncl = q at h3 ⊢
  exact h3

theorem RoundTrip.syncl (x : OpGA) : RoundTrip.Statement (.syncl x) := by
  obtain ⟨h0, h1, h2, h3⟩ := GA_dec 42 4 x .syncl (by decide) (by decide)
  exact of_raw (b := 42 * 2 ^ 26 + 4 * 2 ^ 0) rfl h0 fun _ => arm_syncl _ _ h1 h2 h3

theorem arm_mbr (w : Nat) (r : Option Instr) (h1 : fld w 26 6 = 43) (h3 : decMbr w .mbr = r) :
    decodeRaw w = r := by
  unfold decodeRaw
  rw [h1]
  generalize decMbr w .mbr = q at h3 ⊢
  exact h3

theorem RoundTrip.mbr (x : OpMbr) : RoundTrip.Statement (.mbr x) := by
  obtain ⟨h0, h1, h3⟩ := Mbr_dec 43 x .mbr (by decide)
  exact of_raw (b := 43 * 2 ^ 26) rfl h0 fun _ => arm_mbr _ _ h1 h3

theorem arm_dbnz (w : Nat) (r : Option Instr) (h1 : fld w 26 6 = 44) (h3 : decBL w .dbnz = r) :
    decodeRaw w = r := by
  unfold decodeRaw
  rw [h1]
  generalize decBL w .dbnz = q at h3 ⊢
  exact h3

theorem RoundTrip.dbnz (x : OpBL) : RoundTrip.Statement (.dbnz x) := by
  obtain ⟨h0, h1, h3⟩ := BL_dec 44 x .dbnz (by decide)
  exact of_raw (b := 44 * 2 ^ 26) rfl h0 fun _ => arm_dbnz _ _ h1 h3

theorem arm_exit (w : Nat) (r : Option Instr) (h1 : fld w 26 6 = 45) (h2 : fld w 16 7 = 0) (h3 : decG w .exit = r) :
    decodeRaw w = r := by
  unfold decodeRaw
  rw [h1, h2]
  generalize decG w .exit = q at h3 ⊢
  exact h3

theorem RoundTrip.exit (x : OpG) : RoundTrip.Statement (.exit x) := by
  obtain ⟨h0, h1, h2, h3⟩ := G_dec 45 0 x .exit (by decide) (by decide)
  exact of_raw (b := 45 * 2 ^ 26 + 0 * 2 ^ 16) rfl h0 fun _ => arm_exit _ _ h1 h2 h3

theorem arm_trap (w : Nat) (r : Option Instr) (h1 : fld w 26 6 = 45) (h2 : fld w 16 7 = 1) (h3 : decTrap w .trap = r) :
    decodeRaw w = r := by
  unfold decodeRaw
  rw [h1, h2]
  generalize decTrap w .trap = q at h3 ⊢
  exact h3

theorem RoundTrip.trap (x : OpTrap) : RoundTrip.Statement (.trap x) := by
  obtain ⟨h0, h1, h2, h3⟩ := Trap_dec 45 1 x .trap (by decide) (by decide)
  exact of_raw (b := 45 * 2 ^ 26 + 1 * 2 ^ 16) rfl h0 fun _ => arm_trap _ _ h1 h2 h3

theorem arm_brk (w : Nat) (r : Option Instr) (h1 : fld w 26 6 = 45) (h2 : fld w 16 7 = 2) (h3 : decG w .brk = r) :
    decodeRaw w = r := by
  unfold decodeRaw
  rw [h1, h2]
  generalize decG w .brk = q at h3 ⊢
  exact h3

theorem RoundTrip.brk (x : OpG) : RoundTrip.Statement (.brk x) := by
  obtain ⟨h0, h1, h2, h3⟩ := G_dec 45 2 x .brk (by decide) (by decide)
  exact of_raw (b := 45 * 2 ^ 26 + 2 * 2 ^ 16) rfl h0 fun _ => arm_brk _ _ h1 h2 h3

theorem arm_nop (w : Nat) (r : Option Instr) (h1 : fld w 26 6 = 45) (h2 : fld w 16 7 = 3) (h3 : decG w .nop = r) :
    decodeRaw w = r := by
  unfold decodeRaw
  rw [h1, h2]
  generalize decG w .nop = q at h3 ⊢
  exact h3

theorem RoundTrip.nop (x : OpG) : RoundTrip.Statement (.nop x) := by
  obtain ⟨h0, h1, h2, h3⟩ := G_dec 45 3 x .nop (by decide) (by decide)
  exact of_raw (b := 45 * 2 ^ 26 + 3 * 2 ^ 16) rfl h0 fun _ => arm_nop _ _ h1 h2 h3

theorem arm_yield (w : Nat) (r : Option Instr) (h1 : fld w 26 6 = 45) (h2 : fld w 16 7 = 4) (h3 : decG w .yield = r) :
    decodeRaw w = r := by
  unfold decodeRaw
  rw [h1, h2]
  generalize decG w .yield = q at h3 ⊢
  exact h3

theorem RoundTrip.yield (x : OpG) : RoundTrip.Statement (.yield x) := by
  obtain ⟨h0, h1, h2, h3⟩ := G_dec 45 4 x .yield (by decide) (by decide)
  exact of_raw (b := 45 * 2 ^ 26 + 4 * 2 ^ 16) rfl h0 fun _ => arm_yield _ _ h1 h2 h3

theorem arm_sread (w : Nat) (r : Option Instr) (h1 : fld w 26 6 = 46) (h2 : fld w 16 7 = 0) (h3 : decSRead w .sread = r) :
    decodeRaw w = r := by
  unfold decodeRaw
  rw [h1, h2]
  generalize decSRead w .sread = q at h3 ⊢
  exact h3

theorem RoundTrip.sread (x : OpSRead) : RoundTrip.Statement (.sread x) := by
  obtain ⟨h0, h1, h2, h3⟩ := SRead_dec 46 0 x .sread (by decide) (by decide)
  exact of_raw (b := 46 * 2 ^ 26 + 0 * 2 ^ 16) rfl h0 fun _ => arm_sread _ _ h1 h2 h3

theorem arm_swrite (w : Nat) (r : Option Instr) (h1 : fld w 26 6 = 46) (h2 : fld w 16 7 = 1) (h3 : decSWrite w .swrite = r) :
    decodeRaw w = r := by
  unfold decodeRaw
  rw [h1, h2]
  generalize decSWrite w .swrite = q at h3 ⊢
  exact h3

theorem RoundTrip.swrite (x : OpSWrite) : RoundTrip.Statement (.swrite x) := by
  obtain ⟨h0, h1, h2, h3⟩ := SWrite_dec 46 1 x .swrite (by decide) (by decide)
  exact of_raw (b := 46 * 2 ^ 26 + 1 * 2 ^ 16) rfl h0 fun _ => arm_swrite _ _ h1 h2 h3

theorem arm_center (w : Nat) (r : Option Instr) (h1 : fld w 26 6 = 47) (h2 : fld w 20 2 = 0) (h3 : decCenter w .center = r) :
    decodeRaw w = r := by
  unfold decodeRaw
  rw [h1, h2]
  generalize decCenter w .center = q at h3 ⊢
  exact h3

theorem RoundTrip.center (x : OpCenter) : RoundTrip.Statement (.center x) := by
  obtain ⟨h0, h1, h2, h3⟩ := Center_dec 47 0 x .center (by decide) (by decide)
  exact of_raw (b := 47 * 2 ^ 26 + 0 * 2 ^ 20) rfl h0 fun _ => arm_center _ _ h1 h2 h3

theorem arm_sigf (w : Nat) (r : Option Instr) (h1 : fld w 26 6 = 47) (h2 : fld w 20 2 = 1) (h3 : decSigf w .sigf = r) :
    decodeRaw w = r := by
  unfold decodeRaw
  rw [h1, h2]
  generalize decSigf w .sigf = q at h3 ⊢
  exact h3

theorem RoundTrip.sigf (x : OpGA) : RoundTrip.Statement (.sigf x) := by
  obtain ⟨h0, h1, h2, h3⟩ := Sigf_dec 47 1 x .sigf (by decide) (by decide)
  exact of_raw (b := 47 * 2 ^ 26 + 1 * 2 ^ 20) rfl h0 fun _ => arm_sigf _ _ h1 h2 h3

theorem arm_sigc (w : Nat) (r : Option Instr) (h1 : fld w 26 6 = 47) (h2 : fld w 20 2 = 2) (h3 : decSigc w .sigc = r) :
    decodeRaw w = r := by
  unfold decodeRaw
  rw [h1, h2]
  generalize decSigc w .sigc = q at h3 ⊢
  exact h3

theorem RoundTrip.sigc (x : OpSigc) : RoundTrip.Statement (.sigc x) := by
  obtain ⟨h0, h1, h2, h3⟩ := Sigc_dec 47 2 x .sigc (by decide) (by decide)
  exact of_raw (b := 47 * 2 ^ 26 + 2 * 2 ^ 20) rfl h0 fun _ => arm_sigc _ _ h1 h2 h3

theorem arm_sigz (w : Nat) (r : Option Instr) (h1 : fld w 26 6 = 47) (h2 : fld w 20 2 = 3) (h3 : decSigz w .sigz = r) :
    decodeRaw w = r := by
  unfold decodeRaw
  rw [h1, h2]
  generalize decSigz w .sigz = q at h3 ⊢
  exact h3

theorem RoundTrip.sigz (x : OpG) : RoundTrip.Statement (.sigz x) := by
  obtain ⟨h0, h1, h2, h3⟩ := Sigz_dec 47 3 x .sigz (by decide) (by decide)
  exact of_raw (b := 47 * 2 ^ 26 + 3 * 2 ^ 20) rfl h0 fun _ => arm_sigz _ _ h1 h2 h3

theorem arm_ld (w : Nat) (r : Option Instr) (h1 : fld w 26 6 = 48) (h3 : decLd w .ld = r) :
    decodeRaw w = r := by
  unfold decodeRaw
  rw [h1]
  generalize decLd w .ld = q at h3 ⊢
  exact h3

theorem RoundTrip.ld (x : OpLd) : RoundTrip.Statement (.ld x) := by
  obtain ⟨h0, h1, h3⟩ := Ld_dec 48 x .ld (by decide)
  exact of_raw (b := 48 * 2 ^ 26) rfl h0 fun _ => arm_ld _ _ h1 h3

theorem arm_st (w : Nat) (r : Option Instr) (h1 : fld w 26 6 = 49) (h3 : decSt w .st = r) :
    decodeRaw w = r := by
  unfold decodeRaw
  rw [h1]
  generalize decSt w .st = q at h3 ⊢
  exact h3

theorem RoundTrip.st (x : OpSt) : RoundTrip.Statement (.st x) := by
  obtain ⟨h0, h1, h3⟩ := St_dec 49 x .st (by decide)
  exact of_raw (b := 49 * 2 ^ 26) rfl h0 fun _ => arm_st _ _ h1 h3

theorem arm_lda (w : Nat) (r : Option Instr) (h1 : fld w 26 6 = 50) (h3 : decOrd w .lda = r) :
    decodeRaw w = r := by
  unfold decodeRaw
  rw [h1]
  generalize decOrd w .lda = q at h3 ⊢
  exact h3

theorem RoundTrip.lda (x : OpOrd) : RoundTrip.Statement (.lda x) := by
  obtain ⟨h0, h1, h3⟩ := Ord_dec 50 x .lda (by decide)
  exact of_raw (b := 50 * 2 ^ 26) rfl h0 fun _ => arm_lda _ _ h1 h3

theorem arm_stl (w : Nat) (r : Option Instr) (h1 : fld w 26 6 = 51) (h3 : decOrd w .stl = r) :
    decodeRaw w = r := by
  unfold decodeRaw
  rw [h1]
  generalize decOrd w .stl = q at h3 ⊢
  exact h3

theorem RoundTrip.stl (x : OpOrd) : RoundTrip.Statement (.stl x) := by
  obtain ⟨h0, h1, h3⟩ := Ord_dec 51 x .stl (by decide)
  exact of_raw (b := 51 * 2 ^ 26) rfl h0 fun _ => arm_stl _ _ h1 h3

theorem arm_atom (w : Nat) (r : Option Instr) (h1 : fld w 26 6 = 52) (h3 : decAtom w .atom = r) :
    decodeRaw w = r := by
  unfold decodeRaw
  rw [h1]
  generalize decAtom w .atom = q at h3 ⊢
  exact h3

theorem RoundTrip.atom (x : OpAtom) : RoundTrip.Statement (.atom x) := by
  obtain ⟨h0, h1, h3⟩ := Atom_dec 52 x .atom (by decide)
  exact of_raw (b := 52 * 2 ^ 26) rfl h0 fun _ => arm_atom _ _ h1 h3

theorem arm_atomx (w : Nat) (r : Option Instr) (h1 : fld w 26 6 = 53) (h3 : decAtomX w .atomx = r) :
    decodeRaw w = r := by
  unfold decodeRaw
  rw [h1]
  generalize decAtomX w .atomx = q at h3 ⊢
  exact h3

theorem RoundTrip.atomx (x : OpAtomX) : RoundTrip.Statement (.atomx x) := by
  obtain ⟨h0, h1, h3⟩ := AtomX_dec 53 x .atomx (by decide)
  exact of_raw (b := 53 * 2 ^ 26) rfl h0 fun _ => arm_atomx _ _ h1 h3

theorem arm_pld (w : Nat) (r : Option Instr) (h1 : fld w 26 6 = 54) (h3 : decPld w .pld = r) :
    decodeRaw w = r := by
  unfold decodeRaw
  rw [h1]
  generalize decPld w .pld = q at h3 ⊢
  exact h3

theorem RoundTrip.pld (x : OpPld) : RoundTrip.Statement (.pld x) := by
  obtain ⟨h0, h1, h3⟩ := Pld_dec 54 x .pld (by decide)
  exact of_raw (b := 54 * 2 ^ 26) rfl h0 fun _ => arm_pld _ _ h1 h3

theorem arm_vnarrow (w : Nat) (r : Option Instr) (h1 : fld w 26 6 = 55) (h2 : fld w 16 7 = 0) (h3 : decVNar w .vnarrow = r) :
    decodeRaw w = r := by
  unfold decodeRaw
  rw [h1, h2]
  generalize decVNar w .vnarrow = q at h3 ⊢
  exact h3

theorem RoundTrip.vnarrow (x : OpVNar) : RoundTrip.Statement (.vnarrow x) := by
  obtain ⟨h0, h1, h2, h3⟩ := VNar_dec 55 0 x .vnarrow (by decide) (by decide)
  exact of_raw (b := 55 * 2 ^ 26 + 0 * 2 ^ 16) rfl h0 fun _ => arm_vnarrow _ _ h1 h2 h3

theorem arm_vqry (w : Nat) (r : Option Instr) (h1 : fld w 26 6 = 55) (h2 : fld w 16 7 = 1) (h3 : decVQry w .vqry = r) :
    decodeRaw w = r := by
  unfold decodeRaw
  rw [h1, h2]
  generalize decVQry w .vqry = q at h3 ⊢
  exact h3

theorem RoundTrip.vqry (x : OpVQry) : RoundTrip.Statement (.vqry x) := by
  obtain ⟨h0, h1, h2, h3⟩ := VQry_dec 55 1 x .vqry (by decide) (by decide)
  exact of_raw (b := 55 * 2 ^ 26 + 1 * 2 ^ 16) rfl h0 fun _ => arm_vqry _ _ h1 h2 h3

theorem arm_vdrop (w : Nat) (r : Option Instr) (h1 : fld w 26 6 = 55) (h2 : fld w 16 7 = 2) (h3 : decVOne w .vdrop = r) :
    decodeRaw w = r := by
  unfold decodeRaw
  rw [h1, h2]
  generalize decVOne w .vdrop = q at h3 ⊢
  exact h3

theorem RoundTrip.vdrop (x : OpVOne) : RoundTrip.Statement (.vdrop x) := by
  obtain ⟨h0, h1, h2, h3⟩ := VOne_dec 55 2 x .vdrop (by decide) (by decide)
  exact of_raw (b := 55 * 2 ^ 26 + 2 * 2 ^ 16) rfl h0 fun _ => arm_vdrop _ _ h1 h2 h3

theorem arm_unmapr (w : Nat) (r : Option Instr) (h1 : fld w 26 6 = 55) (h2 : fld w 16 7 = 4) (h3 : decVOne w .unmapr = r) :
    decodeRaw w = r := by
  unfold decodeRaw
  rw [h1, h2]
  generalize decVOne w .unmapr = q at h3 ⊢
  exact h3

theorem RoundTrip.unmapr (x : OpVOne) : RoundTrip.Statement (.unmapr x) := by
  obtain ⟨h0, h1, h2, h3⟩ := VOne_dec 55 4 x .unmapr (by decide) (by decide)
  exact of_raw (b := 55 * 2 ^ 26 + 4 * 2 ^ 16) rfl h0 fun _ => arm_unmapr _ _ h1 h2 h3

theorem arm_flushr (w : Nat) (r : Option Instr) (h1 : fld w 26 6 = 55) (h2 : fld w 16 7 = 5) (h3 : decVOne w .flushr = r) :
    decodeRaw w = r := by
  unfold decodeRaw
  rw [h1, h2]
  generalize decVOne w .flushr = q at h3 ⊢
  exact h3

theorem RoundTrip.flushr (x : OpVOne) : RoundTrip.Statement (.flushr x) := by
  obtain ⟨h0, h1, h2, h3⟩ := VOne_dec 55 5 x .flushr (by decide) (by decide)
  exact of_raw (b := 55 * 2 ^ 26 + 5 * 2 ^ 16) rfl h0 fun _ => arm_flushr _ _ h1 h2 h3

theorem arm_invr (w : Nat) (r : Option Instr) (h1 : fld w 26 6 = 55) (h2 : fld w 16 7 = 6) (h3 : decVOne w .invr = r) :
    decodeRaw w = r := by
  unfold decodeRaw
  rw [h1, h2]
  generalize decVOne w .invr = q at h3 ⊢
  exact h3

theorem RoundTrip.invr (x : OpVOne) : RoundTrip.Statement (.invr x) := by
  obtain ⟨h0, h1, h2, h3⟩ := VOne_dec 55 6 x .invr (by decide) (by decide)
  exact of_raw (b := 55 * 2 ^ 26 + 6 * 2 ^ 16) rfl h0 fun _ => arm_invr _ _ h1 h2 h3

theorem arm_fence (w : Nat) (r : Option Instr) (h1 : fld w 26 6 = 56) (h2 : fld w 16 7 = 0) (h3 : decScopeOp w .fence = r) :
    decodeRaw w = r := by
  unfold decodeRaw
  rw [h1, h2]
  generalize decScopeOp w .fence = q at h3 ⊢
  exact h3

theorem RoundTrip.fence (x : OpScope) : RoundTrip.Statement (.fence x) := by
  obtain ⟨h0, h1, h2, h3⟩ := Scope_dec 56 0 x .fence (by decide) (by decide)
  exact of_raw (b := 56 * 2 ^ 26 + 0 * 2 ^ 16) rfl h0 fun _ => arm_fence _ _ h1 h2 h3

theorem arm_qfence (w : Nat) (r : Option Instr) (h1 : fld w 26 6 = 56) (h2 : fld w 16 7 = 1) (h3 : decQFen w .qfence = r) :
    decodeRaw w = r := by
  unfold decodeRaw
  rw [h1, h2]
  generalize decQFen w .qfence = q at h3 ⊢
  exact h3

theorem RoundTrip.qfence (x : OpQFen) : RoundTrip.Statement (.qfence x) := by
  obtain ⟨h0, h1, h2, h3⟩ := QFen_dec 56 1 x .qfence (by decide) (by decide)
  exact of_raw (b := 56 * 2 ^ 26 + 1 * 2 ^ 16) rfl h0 fun _ => arm_qfence _ _ h1 h2 h3

theorem arm_csync (w : Nat) (r : Option Instr) (h1 : fld w 26 6 = 56) (h2 : fld w 16 7 = 2) (h3 : decScopeOp w .csync = r) :
    decodeRaw w = r := by
  unfold decodeRaw
  rw [h1, h2]
  generalize decScopeOp w .csync = q at h3 ⊢
  exact h3

theorem RoundTrip.csync (x : OpScope) : RoundTrip.Statement (.csync x) := by
  obtain ⟨h0, h1, h2, h3⟩ := Scope_dec 56 2 x .csync (by decide) (by decide)
  exact of_raw (b := 56 * 2 ^ 26 + 2 * 2 ^ 16) rfl h0 fun _ => arm_csync _ _ h1 h2 h3

theorem arm_barg (w : Nat) (r : Option Instr) (h1 : fld w 26 6 = 56) (h2 : fld w 16 7 = 3) (h3 : decBar w .barg = r) :
    decodeRaw w = r := by
  unfold decodeRaw
  rw [h1, h2]
  generalize decBar w .barg = q at h3 ⊢
  exact h3

theorem RoundTrip.barg (x : OpBar) : RoundTrip.Statement (.barg x) := by
  obtain ⟨h0, h1, h2, h3⟩ := Bar_dec 56 3 x .barg (by decide) (by decide)
  exact of_raw (b := 56 * 2 ^ 26 + 3 * 2 ^ 16) rfl h0 fun _ => arm_barg _ _ h1 h2 h3

theorem arm_bart (w : Nat) (r : Option Instr) (h1 : fld w 26 6 = 56) (h2 : fld w 16 7 = 4) (h3 : decBar w .bart = r) :
    decodeRaw w = r := by
  unfold decodeRaw
  rw [h1, h2]
  generalize decBar w .bart = q at h3 ⊢
  exact h3

theorem RoundTrip.bart (x : OpBar) : RoundTrip.Statement (.bart x) := by
  obtain ⟨h0, h1, h2, h3⟩ := Bar_dec 56 4 x .bart (by decide) (by decide)
  exact of_raw (b := 56 * 2 ^ 26 + 4 * 2 ^ 16) rfl h0 fun _ => arm_bart _ _ h1 h2 h3

theorem arm_barc (w : Nat) (r : Option Instr) (h1 : fld w 26 6 = 56) (h2 : fld w 16 7 = 5) (h3 : decBarc w .barc = r) :
    decodeRaw w = r := by
  unfold decodeRaw
  rw [h1, h2]
  generalize decBarc w .barc = q at h3 ⊢
  exact h3

theorem RoundTrip.barc (x : OpBarc) : RoundTrip.Statement (.barc x) := by
  obtain ⟨h0, h1, h2, h3⟩ := Barc_dec 56 5 x .barc (by decide) (by decide)
  exact of_raw (b := 56 * 2 ^ 26 + 5 * 2 ^ 16) rfl h0 fun _ => arm_barc _ _ h1 h2 h3

theorem arm_harm (w : Nat) (r : Option Instr) (h1 : fld w 26 6 = 56) (h2 : fld w 16 7 = 7) (h3 : decHarm w .harm = r) :
    decodeRaw w = r := by
  unfold decodeRaw
  rw [h1, h2]
  generalize decHarm w .harm = q at h3 ⊢
  exact h3

theorem RoundTrip.harm (x : OpHarm) : RoundTrip.Statement (.harm x) := by
  obtain ⟨h0, h1, h2, h3⟩ := Harm_dec 56 7 x .harm (by decide) (by decide)
  exact of_raw (b := 56 * 2 ^ 26 + 7 * 2 ^ 16) rfl h0 fun _ => arm_harm _ _ h1 h2 h3

theorem arm_hseal (w : Nat) (r : Option Instr) (h1 : fld w 26 6 = 56) (h2 : fld w 16 7 = 8) (h3 : decHnd w .hseal = r) :
    decodeRaw w = r := by
  unfold decodeRaw
  rw [h1, h2]
  generalize decHnd w .hseal = q at h3 ⊢
  exact h3

theorem RoundTrip.hseal (x : OpHnd) : RoundTrip.Statement (.hseal x) := by
  obtain ⟨h0, h1, h2, h3⟩ := Hnd_dec 56 8 x .hseal (by decide) (by decide)
  exact of_raw (b := 56 * 2 ^ 26 + 8 * 2 ^ 16) rfl h0 fun _ => arm_hseal _ _ h1 h2 h3

theorem arm_hwait (w : Nat) (r : Option Instr) (h1 : fld w 26 6 = 56) (h2 : fld w 16 7 = 9) (h3 : decHWait w .hwait = r) :
    decodeRaw w = r := by
  unfold decodeRaw
  rw [h1, h2]
  generalize decHWait w .hwait = q at h3 ⊢
  exact h3

theorem RoundTrip.hwait (x : OpHWait) : RoundTrip.Statement (.hwait x) := by
  obtain ⟨h0, h1, h2, h3⟩ := HWait_dec 56 9 x .hwait (by decide) (by decide)
  exact of_raw (b := 56 * 2 ^ 26 + 9 * 2 ^ 16) rfl h0 fun _ => arm_hwait _ _ h1 h2 h3

theorem arm_htake (w : Nat) (r : Option Instr) (h1 : fld w 26 6 = 56) (h2 : fld w 16 7 = 10) (h3 : decHnd w .htake = r) :
    decodeRaw w = r := by
  unfold decodeRaw
  rw [h1, h2]
  generalize decHnd w .htake = q at h3 ⊢
  exact h3

theorem RoundTrip.htake (x : OpHnd) : RoundTrip.Statement (.htake x) := by
  obtain ⟨h0, h1, h2, h3⟩ := Hnd_dec 56 10 x .htake (by decide) (by decide)
  exact of_raw (b := 56 * 2 ^ 26 + 10 * 2 ^ 16) rfl h0 fun _ => arm_htake _ _ h1 h2 h3

theorem arm_hfree (w : Nat) (r : Option Instr) (h1 : fld w 26 6 = 56) (h2 : fld w 16 7 = 11) (h3 : decHnd w .hfree = r) :
    decodeRaw w = r := by
  unfold decodeRaw
  rw [h1, h2]
  generalize decHnd w .hfree = q at h3 ⊢
  exact h3

theorem RoundTrip.hfree (x : OpHnd) : RoundTrip.Statement (.hfree x) := by
  obtain ⟨h0, h1, h2, h3⟩ := Hnd_dec 56 11 x .hfree (by decide) (by decide)
  exact of_raw (b := 56 * 2 ^ 26 + 11 * 2 ^ 16) rfl h0 fun _ => arm_hfree _ _ h1 h2 h3

theorem arm_hqry (w : Nat) (r : Option Instr) (h1 : fld w 26 6 = 56) (h2 : fld w 16 7 = 12) (h3 : decHQry w .hqry = r) :
    decodeRaw w = r := by
  unfold decodeRaw
  rw [h1, h2]
  generalize decHQry w .hqry = q at h3 ⊢
  exact h3

theorem RoundTrip.hqry (x : OpHQry) : RoundTrip.Statement (.hqry x) := by
  obtain ⟨h0, h1, h2, h3⟩ := HQry_dec 56 12 x .hqry (by decide) (by decide)
  exact of_raw (b := 56 * 2 ^ 26 + 12 * 2 ^ 16) rfl h0 fun _ => arm_hqry _ _ h1 h2 h3

theorem arm_mma (w : Nat) (r : Option Instr) (h1 : fld w 26 6 = 57) (h3 : decMma w .mma = r) :
    decodeRaw w = r := by
  unfold decodeRaw
  rw [h1]
  generalize decMma w .mma = q at h3 ⊢
  exact h3

theorem RoundTrip.mma (x : OpMma) : RoundTrip.Statement (.mma x) := by
  obtain ⟨h0, h1, h3⟩ := Mma_dec 57 x .mma (by decide)
  exact of_raw (b := 57 * 2 ^ 26) rfl h0 fun _ => arm_mma _ _ h1 h3

theorem arm_mmag (w : Nat) (r : Option Instr) (h1 : fld w 26 6 = 58) (h3 : decMma w .mmag = r) :
    decodeRaw w = r := by
  unfold decodeRaw
  rw [h1]
  generalize decMma w .mmag = q at h3 ⊢
  exact h3

theorem RoundTrip.mmag (x : OpMma) : RoundTrip.Statement (.mmag x) := by
  obtain ⟨h0, h1, h3⟩ := Mma_dec 58 x .mmag (by decide)
  exact of_raw (b := 58 * 2 ^ 26) rfl h0 fun _ => arm_mmag _ _ h1 h3

theorem arm_mdrn (w : Nat) (r : Option Instr) (h1 : fld w 26 6 = 59) (h2 : fld w 4 8 = 0) (h3 : decDrn w .mdrn = r) :
    decodeRaw w = r := by
  unfold decodeRaw
  rw [h1, h2]
  generalize decDrn w .mdrn = q at h3 ⊢
  exact h3

theorem RoundTrip.mdrn (x : OpDrn) : RoundTrip.Statement (.mdrn x) := by
  obtain ⟨h0, h1, h2, h3⟩ := Drn_dec 59 0 x .mdrn (by decide) (by decide)
  exact of_raw (b := 59 * 2 ^ 26 + 0 * 2 ^ 4) rfl h0 fun _ => arm_mdrn _ _ h1 h2 h3

theorem arm_mdrnb (w : Nat) (r : Option Instr) (h1 : fld w 26 6 = 59) (h2 : fld w 4 8 = 1) (h3 : decDrn w .mdrnb = r) :
    decodeRaw w = r := by
  unfold decodeRaw
  rw [h1, h2]
  generalize decDrn w .mdrnb = q at h3 ⊢
  exact h3

theorem RoundTrip.mdrnb (x : OpDrn) : RoundTrip.Statement (.mdrnb x) := by
  obtain ⟨h0, h1, h2, h3⟩ := Drn_dec 59 1 x .mdrnb (by decide) (by decide)
  exact of_raw (b := 59 * 2 ^ 26 + 1 * 2 ^ 4) rfl h0 fun _ => arm_mdrnb _ _ h1 h2 h3

theorem arm_mdrnl (w : Nat) (r : Option Instr) (h1 : fld w 26 6 = 59) (h2 : fld w 4 8 = 2) (h3 : decDrnL w .mdrnl = r) :
    decodeRaw w = r := by
  unfold decodeRaw
  rw [h1, h2]
  generalize decDrnL w .mdrnl = q at h3 ⊢
  exact h3

theorem RoundTrip.mdrnl (x : OpDrnL) : RoundTrip.Statement (.mdrnl x) := by
  obtain ⟨h0, h1, h2, h3⟩ := DrnL_dec 59 2 x .mdrnl (by decide) (by decide)
  exact of_raw (b := 59 * 2 ^ 26 + 2 * 2 ^ 4) rfl h0 fun _ => arm_mdrnl _ _ h1 h2 h3

theorem arm_mzero (w : Nat) (r : Option Instr) (h1 : fld w 26 6 = 59) (h2 : fld w 4 8 = 3) (h3 : decAcc w .mzero = r) :
    decodeRaw w = r := by
  unfold decodeRaw
  rw [h1, h2]
  generalize decAcc w .mzero = q at h3 ⊢
  exact h3

theorem RoundTrip.mzero (x : OpAcc) : RoundTrip.Statement (.mzero x) := by
  obtain ⟨h0, h1, h2, h3⟩ := Acc_dec 59 3 x .mzero (by decide) (by decide)
  exact of_raw (b := 59 * 2 ^ 26 + 3 * 2 ^ 4) rfl h0 fun _ => arm_mzero _ _ h1 h2 h3

theorem arm_mload (w : Nat) (r : Option Instr) (h1 : fld w 26 6 = 59) (h2 : fld w 4 8 = 4) (h3 : decDrn w .mload = r) :
    decodeRaw w = r := by
  unfold decodeRaw
  rw [h1, h2]
  generalize decDrn w .mload = q at h3 ⊢
  exact h3

theorem RoundTrip.mload (x : OpDrn) : RoundTrip.Statement (.mload x) := by
  obtain ⟨h0, h1, h2, h3⟩ := Drn_dec 59 4 x .mload (by decide) (by decide)
  exact of_raw (b := 59 * 2 ^ 26 + 4 * 2 ^ 4) rfl h0 fun _ => arm_mload _ _ h1 h2 h3

theorem arm_padd (w : Nat) (r : Option Instr) (h1 : fld w 26 6 = 59) (h2 : fld w 4 8 = 5) (h3 : decPAdd w .padd = r) :
    decodeRaw w = r := by
  unfold decodeRaw
  rw [h1, h2]
  generalize decPAdd w .padd = q at h3 ⊢
  exact h3

theorem RoundTrip.padd (x : OpPAdd) : RoundTrip.Statement (.padd x) := by
  obtain ⟨h0, h1, h2, h3⟩ := PAdd_dec 59 5 x .padd (by decide) (by decide)
  exact of_raw (b := 59 * 2 ^ 26 + 5 * 2 ^ 4) rfl h0 fun _ => arm_padd _ _ h1 h2 h3

theorem arm_pnorm (w : Nat) (r : Option Instr) (h1 : fld w 26 6 = 59) (h2 : fld w 4 8 = 6) (h3 : decPNorm w .pnorm = r) :
    decodeRaw w = r := by
  unfold decodeRaw
  rw [h1, h2]
  generalize decPNorm w .pnorm = q at h3 ⊢
  exact h3

theorem RoundTrip.pnorm (x : OpPNorm) : RoundTrip.Statement (.pnorm x) := by
  obtain ⟨h0, h1, h2, h3⟩ := PNorm_dec 59 6 x .pnorm (by decide) (by decide)
  exact of_raw (b := 59 * 2 ^ 26 + 6 * 2 ^ 4) rfl h0 fun _ => arm_pnorm _ _ h1 h2 h3

theorem arm_tilein (w : Nat) (r : Option Instr) (h1 : fld w 26 6 = 60) (h3 : decTile w .tilein = r) :
    decodeRaw w = r := by
  unfold decodeRaw
  rw [h1]
  generalize decTile w .tilein = q at h3 ⊢
  exact h3

theorem RoundTrip.tilein (x : OpTile) : RoundTrip.Statement (.tilein x) := by
  obtain ⟨h0, h1, h3⟩ := Tile_dec 60 x .tilein (by decide)
  exact of_raw (b := 60 * 2 ^ 26) rfl h0 fun _ => arm_tilein _ _ h1 h3

theorem arm_tileout (w : Nat) (r : Option Instr) (h1 : fld w 26 6 = 61) (h3 : decTile w .tileout = r) :
    decodeRaw w = r := by
  unfold decodeRaw
  rw [h1]
  generalize decTile w .tileout = q at h3 ⊢
  exact h3

theorem RoundTrip.tileout (x : OpTile) : RoundTrip.Statement (.tileout x) := by
  obtain ⟨h0, h1, h3⟩ := Tile_dec 61 x .tileout (by decide)
  exact of_raw (b := 61 * 2 ^ 26) rfl h0 fun _ => arm_tileout _ _ h1 h3

theorem arm_qpop (w : Nat) (r : Option Instr) (h1 : fld w 26 6 = 62) (h2 : fld w 16 7 = 1) (h3 : decQPop w .qpop = r) :
    decodeRaw w = r := by
  unfold decodeRaw
  rw [h1, h2]
  generalize decQPop w .qpop = q at h3 ⊢
  exact h3

theorem RoundTrip.qpop (x : OpQPop) : RoundTrip.Statement (.qpop x) := by
  obtain ⟨h0, h1, h2, h3⟩ := QPop_dec 62 1 x .qpop (by decide) (by decide)
  exact of_raw (b := 62 * 2 ^ 26 + 1 * 2 ^ 16) rfl h0 fun _ => arm_qpop _ _ h1 h2 h3

theorem arm_qclose (w : Nat) (r : Option Instr) (h1 : fld w 26 6 = 62) (h2 : fld w 16 7 = 3) (h3 : decQView w .qclose = r) :
    decodeRaw w = r := by
  unfold decodeRaw
  rw [h1, h2]
  generalize decQView w .qclose = q at h3 ⊢
  exact h3

theorem RoundTrip.qclose (x : OpQView) : RoundTrip.Statement (.qclose x) := by
  obtain ⟨h0, h1, h2, h3⟩ := QView_dec 62 3 x .qclose (by decide) (by decide)
  exact of_raw (b := 62 * 2 ^ 26 + 3 * 2 ^ 16) rfl h0 fun _ => arm_qclose _ _ h1 h2 h3

theorem arm_fread (w : Nat) (r : Option Instr) (h1 : fld w 26 6 = 62) (h2 : fld w 16 7 = 4) (h3 : decFut w .fread = r) :
    decodeRaw w = r := by
  unfold decodeRaw
  rw [h1, h2]
  generalize decFut w .fread = q at h3 ⊢
  exact h3

theorem RoundTrip.fread (x : OpFut) : RoundTrip.Statement (.fread x) := by
  obtain ⟨h0, h1, h2, h3⟩ := Fut_dec 62 4 x .fread (by decide) (by decide)
  exact of_raw (b := 62 * 2 ^ 26 + 4 * 2 ^ 16) rfl h0 fun _ => arm_fread _ _ h1 h2 h3

theorem arm_ffill (w : Nat) (r : Option Instr) (h1 : fld w 26 6 = 62) (h2 : fld w 16 7 = 5) (h3 : decFut w .ffill = r) :
    decodeRaw w = r := by
  unfold decodeRaw
  rw [h1, h2]
  generalize decFut w .ffill = q at h3 ⊢
  exact h3

theorem RoundTrip.ffill (x : OpFut) : RoundTrip.Statement (.ffill x) := by
  obtain ⟨h0, h1, h2, h3⟩ := Fut_dec 62 5 x .ffill (by decide) (by decide)
  exact of_raw (b := 62 * 2 ^ 26 + 5 * 2 ^ 16) rfl h0 fun _ => arm_ffill _ _ h1 h2 h3

theorem arm_slotq (w : Nat) (r : Option Instr) (h1 : fld w 26 6 = 62) (h2 : fld w 16 7 = 7) (h3 : decSlotQ w .slotq = r) :
    decodeRaw w = r := by
  unfold decodeRaw
  rw [h1, h2]
  generalize decSlotQ w .slotq = q at h3 ⊢
  exact h3

theorem RoundTrip.slotq (x : OpSlotQ) : RoundTrip.Statement (.slotq x) := by
  obtain ⟨h0, h1, h2, h3⟩ := SlotQ_dec 62 7 x .slotq (by decide) (by decide)
  exact of_raw (b := 62 * 2 ^ 26 + 7 * 2 ^ 16) rfl h0 fun _ => arm_slotq _ _ h1 h2 h3

theorem arm_featq (w : Nat) (r : Option Instr) (h1 : fld w 26 6 = 62) (h2 : fld w 16 7 = 8) (h3 : decFeatQ w .featq = r) :
    decodeRaw w = r := by
  unfold decodeRaw
  rw [h1, h2]
  generalize decFeatQ w .featq = q at h3 ⊢
  exact h3

theorem RoundTrip.featq (x : OpFeatQ) : RoundTrip.Statement (.featq x) := by
  obtain ⟨h0, h1, h2, h3⟩ := FeatQ_dec 62 8 x .featq (by decide) (by decide)
  exact of_raw (b := 62 * 2 ^ 26 + 8 * 2 ^ 16) rfl h0 fun _ => arm_featq _ _ h1 h2 h3

theorem arm_hbt (w : Nat) (r : Option Instr) (h1 : fld w 26 6 = 63) (h2 : fld w 23 3 = 1) (h3 : decHbt w .hbt = r) :
    decodeRaw w = r := by
  unfold decodeRaw
  rw [h1, h2]
  generalize decHbt w .hbt = q at h3 ⊢
  exact h3

theorem RoundTrip.hbt (x : OpHbt) : RoundTrip.Statement (.hbt x) := by
  obtain ⟨h0, h1, h2, h3⟩ := Hbt_dec 63 1 x .hbt (by decide) (by decide)
  exact of_raw (b := 63 * 2 ^ 26 + 1 * 2 ^ 23) rfl h0 fun _ => arm_hbt _ _ h1 h2 h3

theorem arm_hord (w : Nat) (r : Option Instr) (h1 : fld w 26 6 = 63) (h2 : fld w 23 3 = 2) (h3 : decHord w .hord = r) :
    decodeRaw w = r := by
  unfold decodeRaw
  rw [h1, h2]
  generalize decHord w .hord = q at h3 ⊢
  exact h3

theorem RoundTrip.hord (x : OpHord) : RoundTrip.Statement (.hord x) := by
  obtain ⟨h0, h1, h2, h3⟩ := Hord_dec 63 2 x .hord (by decide) (by decide)
  exact of_raw (b := 63 * 2 ^ 26 + 2 * 2 ^ 23) rfl h0 fun _ => arm_hord _ _ h1 h2 h3

theorem RoundTrip.broadcastPcTimeout (core group : Nat) : RoundTrip.Statement (.broadcastPcTimeout core group) := of_event rfl

theorem RoundTrip.rvzBoundExpire (core group : Nat) : RoundTrip.Statement (.rvzBoundExpire core group) := of_event rfl

theorem RoundTrip.yieldExpire (core group : Nat) : RoundTrip.Statement (.yieldExpire core group) := of_event rfl

theorem RoundTrip.hschRunEnd (core group : Nat) : RoundTrip.Statement (.hschRunEnd core group) := of_event rfl

theorem RoundTrip.codeFetchFill (core : Nat) (line : Nat) : RoundTrip.Statement (.codeFetchFill core line) := of_event rfl

theorem RoundTrip.mappedFillComplete (core region slot : Nat) : RoundTrip.Statement (.mappedFillComplete core region slot) := of_event rfl

theorem RoundTrip.mappedWriteBack (core region slot : Nat) : RoundTrip.Statement (.mappedWriteBack core region slot) := of_event rfl

theorem RoundTrip.tileCopyEnqueue (core group : Nat) : RoundTrip.Statement (.tileCopyEnqueue core group) := of_event rfl

theorem RoundTrip.tileGranuleLand (core : Nat) : RoundTrip.Statement (.tileGranuleLand core) := of_event rfl

theorem RoundTrip.followOnRelease (core : Nat) : RoundTrip.Statement (.followOnRelease core) := of_event rfl

theorem RoundTrip.mcastHopArrival (core : Nat) : RoundTrip.Statement (.mcastHopArrival core) := of_event rfl

theorem RoundTrip.tileoutGranule (core : Nat) : RoundTrip.Statement (.tileoutGranule core) := of_event rfl

theorem RoundTrip.matrixQueuePerform (core : Nat) : RoundTrip.Statement (.matrixQueuePerform core) := of_event rfl

theorem RoundTrip.bcopyEnqueue (core group : Nat) : RoundTrip.Statement (.bcopyEnqueue core group) := of_event rfl

theorem RoundTrip.bulkGranule (die : Nat) (engine : Fin 8) (queue : Fin 8) : RoundTrip.Statement (.bulkGranule die engine queue) := of_event rfl

theorem RoundTrip.barrierEpisodeComplete (core : Nat) (cell : Fin 8) : RoundTrip.Statement (.barrierEpisodeComplete core cell) := of_event rfl

theorem RoundTrip.watchdogExpire (core : Nat) : RoundTrip.Statement (.watchdogExpire core) := of_event rfl

theorem RoundTrip.frameStart : RoundTrip.Statement (.frameStart) := of_event rfl

theorem RoundTrip.slotGuardOpen : RoundTrip.Statement (.slotGuardOpen) := of_event rfl

theorem RoundTrip.slotStart : RoundTrip.Statement (.slotStart) := of_event rfl

theorem RoundTrip.slotExtended (steps : Nat) : RoundTrip.Statement (.slotExtended steps) := of_event rfl

theorem RoundTrip.slotEnd : RoundTrip.Statement (.slotEnd) := of_event rfl

theorem RoundTrip.selfTestVerdict (die : Nat) (verdict : Verdict) : RoundTrip.Statement (.selfTestVerdict die verdict) := of_event rfl

theorem RoundTrip.integritySweepVisit (part : Fin 96) (line : Nat) : RoundTrip.Statement (.integritySweepVisit part line) := of_event rfl

theorem RoundTrip.integrityPeriodEnd (part : Fin 96) : RoundTrip.Statement (.integrityPeriodEnd part) := of_event rfl

theorem RoundTrip.ballastWindow (sheaf : Fin 96) (issued : Nat) : RoundTrip.Statement (.ballastWindow sheaf issued) := of_event rfl

theorem RoundTrip.thermalEvent (sheaf : Fin 96) (budget : Nat) : RoundTrip.Statement (.thermalEvent sheaf budget) := of_event rfl

theorem RoundTrip.readGrantBudget (sheaf : Fin 96) (budget : Nat) : RoundTrip.Statement (.readGrantBudget sheaf budget) := of_event rfl

theorem RoundTrip.poolWrite (part : Fin 96) (sheaf : Fin 96) (cls : Fin 4) : RoundTrip.Statement (.poolWrite part sheaf cls) := of_event rfl

theorem RoundTrip.launchCommit (part : Fin 96) (slot : Fin 32) (record : LaunchBytes) : RoundTrip.Statement (.launchCommit part slot record) := of_event rfl

theorem RoundTrip.recordCopy (part : Fin 96) : RoundTrip.Statement (.recordCopy part) := of_event rfl

theorem RoundTrip.teamPlace (part : Fin 96) : RoundTrip.Statement (.teamPlace part) := of_event rfl

theorem RoundTrip.scratchpadImageCopy (core : Nat) : RoundTrip.Statement (.scratchpadImageCopy core) := of_event rfl

theorem RoundTrip.teamEnd (core : Nat) : RoundTrip.Statement (.teamEnd core) := of_event rfl

theorem RoundTrip.preempt (part : Fin 96) (seq : Word64) : RoundTrip.Statement (.preempt part seq) := of_event rfl

theorem RoundTrip.contextSaveComplete (part : Fin 96) : RoundTrip.Statement (.contextSaveComplete part) := of_event rfl

theorem RoundTrip.restore (part : Fin 96) (seq : Word64) : RoundTrip.Statement (.restore part seq) := of_event rfl

theorem RoundTrip.kill (part : Fin 96) (seq : Word64) : RoundTrip.Statement (.kill part seq) := of_event rfl

theorem RoundTrip.xactRetry (part : Fin 96) (stamp : Word64) : RoundTrip.Statement (.xactRetry part stamp) := of_event rfl

theorem RoundTrip.xactFail (part : Fin 96) (stamp : Word64) : RoundTrip.Statement (.xactFail part stamp) := of_event rfl

theorem RoundTrip.xinv (part : Fin 96) : RoundTrip.Statement (.xinv part) := of_event rfl

theorem RoundTrip.xinvComplete (part : Fin 96) : RoundTrip.Statement (.xinvComplete part) := of_event rfl

theorem RoundTrip.resume (part : Fin 96) (slot : Nat) : RoundTrip.Statement (.resume part slot) := of_event rfl

theorem RoundTrip.skip (part : Fin 96) (slot : Nat) : RoundTrip.Statement (.skip part slot) := of_event rfl

theorem RoundTrip.haltKill (part : Fin 96) (slot : Nat) : RoundTrip.Statement (.haltKill part slot) := of_event rfl

theorem RoundTrip.registerWrite (part : Fin 96) (offset : Nat) (value : Word64) : RoundTrip.Statement (.registerWrite part offset value) := of_event rfl

theorem RoundTrip.partitionCreate (cfg : PartCfg) : RoundTrip.Statement (.partitionCreate cfg) := of_event rfl

theorem RoundTrip.partitionDestroy (part : Fin 96) : RoundTrip.Statement (.partitionDestroy part) := of_event rfl

theorem RoundTrip.sheavesWrite (part : Fin 96) (sheaves : BitVec 96) : RoundTrip.Statement (.sheavesWrite part sheaves) := of_event rfl

theorem RoundTrip.stage1Write (part : Fin 96) (root : BitVec 48) : RoundTrip.Statement (.stage1Write part root) := of_event rfl

theorem RoundTrip.rangesWrite (part : Fin 96) (index : Fin 48) (entry : RangeEntry) : RoundTrip.Statement (.rangesWrite part index entry) := of_event rfl

theorem RoundTrip.enginesWrite (part : Fin 96) (engines : BitVec 256) : RoundTrip.Statement (.enginesWrite part engines) := of_event rfl

theorem RoundTrip.coreRelease (core : Nat) : RoundTrip.Statement (.coreRelease core) := of_event rfl

theorem RoundTrip.engineRelease (die : Nat) (engine : Fin 8) : RoundTrip.Statement (.engineRelease die engine) := of_event rfl

theorem RoundTrip.tenantTableWrite (index : Fin 256) (entry : Word64) : RoundTrip.Statement (.tenantTableWrite index entry) := of_event rfl

theorem RoundTrip.measurementExtend (index : Fin 16) (digest : BitVec 384) : RoundTrip.Statement (.measurementExtend index digest) := of_event rfl

theorem RoundTrip.reset : RoundTrip.Statement (.reset) := of_event rfl

theorem RoundTrip.functionReady (register : Fin 3) (bitNo : Fin 64) : RoundTrip.Statement (.functionReady register bitNo) := of_event rfl

theorem RoundTrip.dieUnreachable (die : Nat) : RoundTrip.Statement (.dieUnreachable die) := of_event rfl

theorem RoundTrip.inboundApertureAccess (part : Fin 96) (offset : Nat) (access : OutAccess) : RoundTrip.Statement (.inboundApertureAccess part offset access) := of_event rfl

theorem RoundTrip.vaultApertureAccess (part : Fin 96) (offset : Nat) (access : OutAccess) : RoundTrip.Statement (.vaultApertureAccess part offset access) := of_event rfl

theorem RoundTrip.cxlMemAccess (part : Fin 96) (address : Nat) (access : OutAccess) : RoundTrip.Statement (.cxlMemAccess part address access) := of_event rfl

theorem RoundTrip.query (part : Fin 96) : RoundTrip.Statement (.query part) := of_event rfl

theorem RoundTrip.keyProg (part : Fin 96) (keySet : Bool) : RoundTrip.Statement (.keyProg part keySet) := of_event rfl

theorem RoundTrip.kSetGo (part : Fin 96) (keySet : Bool) : RoundTrip.Statement (.kSetGo part keySet) := of_event rfl

theorem RoundTrip.kSetStop (part : Fin 96) (keySet : Bool) : RoundTrip.Statement (.kSetStop part keySet) := of_event rfl

theorem RoundTrip.getTdispVersion (part : Fin 96) : RoundTrip.Statement (.getTdispVersion part) := of_event rfl

theorem RoundTrip.getTdispCapabilities (part : Fin 96) : RoundTrip.Statement (.getTdispCapabilities part) := of_event rfl

theorem RoundTrip.lockInterfaceRequest (part : Fin 96) (via : Mailbox) : RoundTrip.Statement (.lockInterfaceRequest part via) := of_event rfl

theorem RoundTrip.getDeviceInterfaceReport (part : Fin 96) : RoundTrip.Statement (.getDeviceInterfaceReport part) := of_event rfl

theorem RoundTrip.getDeviceInterfaceState (part : Fin 96) : RoundTrip.Statement (.getDeviceInterfaceState part) := of_event rfl

theorem RoundTrip.startInterfaceRequest (part : Fin 96) : RoundTrip.Statement (.startInterfaceRequest part) := of_event rfl

theorem RoundTrip.stopInterfaceRequest (part : Fin 96) : RoundTrip.Statement (.stopInterfaceRequest part) := of_event rfl

theorem RoundTrip.getVersion (via : Mailbox) : RoundTrip.Statement (.getVersion via) := of_event rfl

theorem RoundTrip.getCapabilities (via : Mailbox) : RoundTrip.Statement (.getCapabilities via) := of_event rfl

theorem RoundTrip.negotiateAlgorithms (via : Mailbox) : RoundTrip.Statement (.negotiateAlgorithms via) := of_event rfl

theorem RoundTrip.getDigests (via : Mailbox) : RoundTrip.Statement (.getDigests via) := of_event rfl

theorem RoundTrip.getCertificate (via : Mailbox) : RoundTrip.Statement (.getCertificate via) := of_event rfl

theorem RoundTrip.challenge (via : Mailbox) : RoundTrip.Statement (.challenge via) := of_event rfl

theorem RoundTrip.getMeasurements (via : Mailbox) : RoundTrip.Statement (.getMeasurements via) := of_event rfl

theorem RoundTrip.keyExchange (via : Mailbox) (stream : Option (Fin 96 × BitVec 16)) : RoundTrip.Statement (.keyExchange via stream) := of_event rfl

theorem RoundTrip.finish (via : Mailbox) : RoundTrip.Statement (.finish via) := of_event rfl

theorem RoundTrip.spdmUnsupported (via : Mailbox) : RoundTrip.Statement (.spdmUnsupported via) := of_event rfl

theorem RoundTrip.write (f : Flit) (va : BitVec 64) (mask : BitVec 128) (bytes : List Byte) : RoundTrip.Statement (.write f va mask bytes) := of_event rfl

theorem RoundTrip.read (f : Flit) (va : BitVec 64) (count : Nat) : RoundTrip.Statement (.read f va count) := of_event rfl

theorem RoundTrip.readResponse (f : Flit) (bytes : List Byte) : RoundTrip.Statement (.readResponse f bytes) := of_event rfl

theorem RoundTrip.atomic (f : Flit) (va : BitVec 64) (major : Nat) (mod : Nat) (order : Option (Order × Scope)) (operands : List Byte) : RoundTrip.Statement (.atomic f va major mod order operands) := of_event rfl

theorem RoundTrip.atomicResponse (f : Flit) (old : Word64) : RoundTrip.Statement (.atomicResponse f old) := of_event rfl

theorem RoundTrip.ack (f : Flit) (tags : List (BitVec 32)) : RoundTrip.Statement (.ack f tags) := of_event rfl

theorem RoundTrip.launch (f : Flit) (target : Byte) (record : LaunchBytes) : RoundTrip.Statement (.launch f target record) := of_event rfl

theorem RoundTrip.launchResult (f : Flit) (verdict : Byte) : RoundTrip.Statement (.launchResult f verdict) := of_event rfl

theorem RoundTrip.capability (f : Flit) (package : BitVec 16) (stook timeMaster : Bool) : RoundTrip.Statement (.capability f package stook timeMaster) := of_event rfl

theorem RoundTrip.time (f : Flit) (time : BitVec 56) : RoundTrip.Statement (.time f time) := of_event rfl

theorem RoundTrip.flitNop (f : Flit) : RoundTrip.Statement (.flitNop f) := of_event rfl

theorem RoundTrip.flitUnlisted (f : Flit) (type : Byte) : RoundTrip.Statement (.flitUnlisted f type) := of_event rfl

theorem RoundTrip.linkTrained (port : Fin 12) (peer : BitVec 16) : RoundTrip.Statement (.linkTrained port peer) := of_event rfl

theorem RoundTrip.linkDown (port : Fin 12) : RoundTrip.Statement (.linkDown port) := of_event rfl

theorem RoundTrip.streamMove (part : Fin 96) (package : BitVec 16) : RoundTrip.Statement (.streamMove part package) := of_event rfl

theorem RoundTrip.fqconsWrite (part : Fin 96) (value : Word64) : RoundTrip.Statement (.fqconsWrite part value) := of_event rfl

theorem RoundTrip.energyLoRead (agent : EnergyAgent) : RoundTrip.Statement (.energyLoRead agent) := of_event rfl

theorem RoundTrip.hostReadCompletion (tag : BitVec 32) (bytes : List Byte) (poison : Bool) : RoundTrip.Statement (.hostReadCompletion tag bytes poison) := of_event rfl

theorem RoundTrip.laneFails (port : Fin 12) : RoundTrip.Statement (.laneFails port) := of_event rfl

theorem arm_sshr (w : Nat) (r : Option Instr) (h1 : fld w 26 6 = 14)
    (h2 : (decide (0x20 ≤ fld w 0 7) && decide (fld w 0 7 < 0x40)) = true) (h3 : decSShr w .sshr = r) : decodeRaw w = r := by
  unfold decodeRaw
  rw [h1, h2]
  generalize decSShr w .sshr = q at h3 ⊢
  exact h3

theorem SShr_dec (x : OpSShr) (mk : OpSShr → Instr) :
    let w := 0x38000020 + encSShr x
    w < 2 ^ 32 ∧ fld w 26 6 = 14 ∧ fld w 0 7 = 0x20 + x.n.val ∧ decSShr w mk = some (mk x) := by
  intro w
  have := encSSrc_bd x.a
  have := x.d.isLt
  have := x.n.isLt
  have hw : w = 0x38000020 + encSShr x := rfl
  simp only [encSShr] at hw
  refine ⟨by omega, by simp only [fld]; omega, by simp only [fld]; omega, ?_⟩
  simp only [decSShr, whenZero, show fld w 20 6 = 0 by simp only [fld]; omega, show fld w 19 1 = 0 by simp only [fld]; omega,
    show fld w 7 7 = encSSrc x.a by simp only [fld]; omega, show fld w 14 5 = x.d.val by simp only [fld]; omega,
    show fld w 0 5 = x.n.val by simp only [fld]; omega, beq_self_eq_true, if_true, decSSrc_enc, Option.bind_some, fin_of]

theorem RoundTrip.sshr (x : OpSShr) : RoundTrip.Statement (.sshr x) := by
  obtain ⟨h0, h1, h2, h3⟩ := SShr_dec x .sshr
  have h := x.n.isLt
  exact of_raw (b := 0x38000020) rfl h0 fun _ => arm_sshr (0x38000020 + encSShr x) _ h1 (by rw [h2]; simp; omega) h3

theorem arm_iaddi (w : Nat) (r : Option Instr) (h1 : fld w 26 6 = 16) (h2 : (fld w 9 7 == 0x64) = false)
    (h3 : decI w .iaddi = r) : decodeRaw w = r := by
  unfold decodeRaw
  rw [h1, h2]
  generalize decI w .iaddi = q at h3 ⊢
  exact h3

theorem RoundTrip.iaddi (x : OpI) : RoundTrip.Statement (.iaddi x) := by
  obtain ⟨h0, h1, h3⟩ := I_dec 16 x .iaddi (by decide)
  have h4 : fld (16 * 2 ^ 26 + encI x) 9 7 = encSrc x.a := by
    have := encSrc_lt x.a
    have := x.imm.isLt
    simp only [fld, encI]
    omega
  refine of_raw (b := 16 * 2 ^ 26) rfl h0 fun hx => arm_iaddi _ _ h1 ?_ h3
  have h5 : encSrc x.a ≠ 0x64 := by
    intro h
    have h6 := decSrc_enc x.a
    rw [h] at h6
    have h7 : x.a = Src.zero := (Option.some.inj h6).symm
    simp [Instr.wellFormed, h7] at hx
  exact (congrArg (· == 0x64) h4).trans (by simpa using h5)

theorem arm_movi (w : Nat) (r : Option Instr) (h1 : fld w 26 6 = 16) (h2 : (fld w 9 7 == 0x64) = true)
    (h3 : decMovI w .movi = r) : decodeRaw w = r := by
  unfold decodeRaw
  rw [h1, h2]
  generalize decMovI w .movi = q at h3 ⊢
  exact h3

theorem MovI_dec (x : OpMovI) (mk : OpMovI → Instr) :
    let w := 0x4000C800 + encMovI x
    w < 2 ^ 32 ∧ fld w 26 6 = 16 ∧ fld w 9 7 = 0x64 ∧ decMovI w mk = some (mk x) := by
  intro w
  have := encGuard_lt x.g
  have := x.d.isLt
  have := x.imm.isLt
  have := b2n_le x.w
  have hw : w = 0x4000C800 + encMovI x := rfl
  simp only [encMovI] at hw
  refine ⟨by omega, by simp only [fld]; omega, by simp only [fld]; omega, ?_⟩
  simp only [decMovI, show fld w 23 3 = encGuard x.g by simp only [fld]; omega,
    show bit w 22 = x.w from bit_of _ _ _ (by simp only [fld]; omega), show fld w 16 6 = x.d.val by simp only [fld]; omega,
    show fld w 0 9 = x.imm.toNat by simp only [fld]; omega, decGuard_enc, Option.bind_some, fin_of, bv_of]

theorem RoundTrip.movi (x : OpMovI) : RoundTrip.Statement (.movi x) := by
  obtain ⟨h0, h1, h2, h3⟩ := MovI_dec x .movi
  exact of_raw (b := 0x4000C800) rfl h0 fun _ => arm_movi (0x4000C800 + encMovI x) _ h1 (by rw [h2]; rfl) h3

/-- CVT to an integer: the rounding mode stands in the two low bits of the minor, above a base that is a multiple of 4. -/
theorem CvtR_dec (q : Nat) (x : OpCvtR) (mk : OpCvtR → Instr) (hq : q < 32) :
    let w := 31 * 2 ^ 26 + 4 * q + encCvtR x
    w < 2 ^ 32 ∧ fld w 26 6 = 31 ∧ fld w 0 7 = 4 * q + encRMode x.r ∧ decCvtR w mk = some (mk x) := by
  intro w
  have := encGuard_lt x.g
  have := x.d.isLt
  have := encSrc_lt x.a
  have := b2n_le x.w
  have := b2n_le x.fi
  have := b2n_le x.fo
  have := encRMode_lt x.r
  have hw : w = 31 * 2 ^ 26 + 4 * q + encCvtR x := rfl
  simp only [encCvtR] at hw
  refine ⟨by omega, by simp only [fld]; omega, by simp only [fld]; omega, ?_⟩
  simp only [decCvtR, show fld w 23 3 = encGuard x.g by simp only [fld]; omega, show fld w 7 7 = encSrc x.a by simp only [fld]; omega,
    show bit w 22 = x.w from bit_of _ _ _ (by simp only [fld]; omega), show bit w 21 = x.fi from bit_of _ _ _ (by simp only [fld]; omega),
    show bit w 20 = x.fo from bit_of _ _ _ (by simp only [fld]; omega), show fld w 14 6 = x.d.val by simp only [fld]; omega,
    show fld w 0 2 = encRMode x.r by simp only [fld]; omega, decGuard_enc, decSrc_enc, decRMode_enc, Option.bind_some, fin_of]

theorem arm_cvtS32F32 (w : Nat) (m : RMode) (r : Option Instr) (h1 : fld w 26 6 = 31) (h2 : fld w 0 7 = 4 * 1 + encRMode m)
    (h3 : decCvtR w .cvtS32F32 = r) : decodeRaw w = r := by
  unfold decodeRaw
  rw [h1, h2]
  generalize decCvtR w .cvtS32F32 = q at h3 ⊢
  cases m <;> exact h3

theorem RoundTrip.cvtS32F32 (x : OpCvtR) : RoundTrip.Statement (.cvtS32F32 x) := by
  obtain ⟨h0, h1, h2, h3⟩ := CvtR_dec 1 x .cvtS32F32 (by decide)
  exact of_raw (b := 31 * 2 ^ 26 + 4 * 1) rfl h0 fun _ => arm_cvtS32F32 _ _ _ h1 h2 h3

theorem arm_cvtN32F32 (w : Nat) (m : RMode) (r : Option Instr) (h1 : fld w 26 6 = 31) (h2 : fld w 0 7 = 4 * 2 + encRMode m)
    (h3 : decCvtR w .cvtN32F32 = r) : decodeRaw w = r := by
  unfold decodeRaw
  rw [h1, h2]
  generalize decCvtR w .cvtN32F32 = q at h3 ⊢
  cases m <;> exact h3

theorem RoundTrip.cvtN32F32 (x : OpCvtR) : RoundTrip.Statement (.cvtN32F32 x) := by
  obtain ⟨h0, h1, h2, h3⟩ := CvtR_dec 2 x .cvtN32F32 (by decide)
  exact of_raw (b := 31 * 2 ^ 26 + 4 * 2) rfl h0 fun _ => arm_cvtN32F32 _ _ _ h1 h2 h3

/-- CVT to FP8: SAT stands in the low bit of the minor, above an even base. -/
theorem CvtS_dec (q : Nat) (x : OpCvtS) (mk : OpCvtS → Instr) (hq : q < 64) :
    let w := 31 * 2 ^ 26 + 2 * q + encCvtS x
    w < 2 ^ 32 ∧ fld w 26 6 = 31 ∧ fld w 0 7 = 2 * q + b2n x.sat ∧ decCvtS w mk = some (mk x) := by
  intro w
  have := encGuard_lt x.g
  have := x.d.isLt
  have := encSrc_lt x.a
  have := b2n_le x.w
  have := b2n_le x.fi
  have := b2n_le x.fo
  have := b2n_le x.sat
  have hw : w = 31 * 2 ^ 26 + 2 * q + encCvtS x := rfl
  simp only [encCvtS] at hw
  refine ⟨by omega, by simp only [fld]; omega, by simp only [fld]; omega, ?_⟩
  simp only [decCvtS, show fld w 23 3 = encGuard x.g by simp only [fld]; omega, show fld w 7 7 = encSrc x.a by simp only [fld]; omega,
    show bit w 22 = x.w from bit_of _ _ _ (by simp only [fld]; omega), show bit w 21 = x.fi from bit_of _ _ _ (by simp only [fld]; omega),
    show bit w 20 = x.fo from bit_of _ _ _ (by simp only [fld]; omega), show fld w 14 6 = x.d.val by simp only [fld]; omega,
    show bit w 0 = x.sat from bit_of _ _ _ (by simp only [fld]; omega), decGuard_enc, decSrc_enc, Option.bind_some, fin_of]

theorem arm_cvtE4m3F32 (w : Nat) (b : Bool) (r : Option Instr) (h1 : fld w 26 6 = 31) (h2 : fld w 0 7 = 2 * 9 + b2n b)
    (h3 : decCvtS w .cvtE4m3F32 = r) : decodeRaw w = r := by
  unfold decodeRaw
  rw [h1, h2]
  generalize decCvtS w .cvtE4m3F32 = q at h3 ⊢
  cases b <;> exact h3

theorem RoundTrip.cvtE4m3F32 (x : OpCvtS) : RoundTrip.Statement (.cvtE4m3F32 x) := by
  obtain ⟨h0, h1, h2, h3⟩ := CvtS_dec 9 x .cvtE4m3F32 (by decide)
  exact of_raw (b := 31 * 2 ^ 26 + 2 * 9) rfl h0 fun _ => arm_cvtE4m3F32 _ _ _ h1 h2 h3

theorem arm_cvtE5m2F32 (w : Nat) (b : Bool) (r : Option Instr) (h1 : fld w 26 6 = 31) (h2 : fld w 0 7 = 2 * 10 + b2n b)
    (h3 : decCvtS w .cvtE5m2F32 = r) : decodeRaw w = r := by
  unfold decodeRaw
  rw [h1, h2]
  generalize decCvtS w .cvtE5m2F32 = q at h3 ⊢
  cases b <;> exact h3

theorem RoundTrip.cvtE5m2F32 (x : OpCvtS) : RoundTrip.Statement (.cvtE5m2F32 x) := by
  obtain ⟨h0, h1, h2, h3⟩ := CvtS_dec 10 x .cvtE5m2F32 (by decide)
  exact of_raw (b := 31 * 2 ^ 26 + 2 * 10) rfl h0 fun _ => arm_cvtE5m2F32 _ _ _ h1 h2 h3

theorem arm_pldec (w : Nat) (r : Option Instr) (h1 : fld w 26 6 = 35)
    (h2 : (decide (8 ≤ fld w 0 7) && decide (fld w 0 7 < 16)) = true) (h3 : decPlDec w .pldec = r) : decodeRaw w = r := by
  unfold decodeRaw
  rw [h1, h2]
  generalize decPlDec w .pldec = q at h3 ⊢
  exact h3

theorem PlDec_dec (x : OpPlDec) (mk : OpPlDec → Instr) :
    let w := 0x8C000008 + encPlDec x
    w < 2 ^ 32 ∧ fld w 26 6 = 35 ∧ fld w 0 7 = 8 + b2n x.rnp * 4 + x.n.val ∧ decPlDec w mk = some (mk x) := by
  intro w
  have := encGuard_lt x.g
  have := x.d.isLt
  have := x.n.isLt
  have := b2n_le x.w
  have := b2n_le x.rnp
  have := encSrc_lt x.a
  have hw : w = 0x8C000008 + encPlDec x := rfl
  simp only [encPlDec] at hw
  refine ⟨by omega, by simp only [fld]; omega, by simp only [fld]; omega, ?_⟩
  simp only [decPlDec, whenZero, show fld w 20 2 = 0 by simp only [fld]; omega, show fld w 23 3 = encGuard x.g by simp only [fld]; omega,
    show fld w 7 7 = encSrc x.a by simp only [fld]; omega, show bit w 22 = x.w from bit_of _ _ _ (by simp only [fld]; omega),
    show bit w 2 = x.rnp from bit_of _ _ _ (by simp only [fld]; omega), show fld w 14 6 = x.d.val by simp only [fld]; omega,
    show fld w 0 2 = x.n.val by simp only [fld]; omega, beq_self_eq_true, if_true, decGuard_enc, decSrc_enc, Option.bind_some, fin_of]

theorem RoundTrip.pldec (x : OpPlDec) : RoundTrip.Statement (.pldec x) := by
  obtain ⟨h0, h1, h2, h3⟩ := PlDec_dec x .pldec
  have h := x.n.isLt
  have h' := b2n_le x.rnp
  exact of_raw (b := 0x8C000008) rfl h0 fun _ => arm_pldec (0x8C000008 + encPlDec x) _ h1 (by rw [h2]; simp; omega) h3

theorem arm_ptov (w : Nat) (r : Option Instr) (h1 : fld w 26 6 = 39) (h2 : fld w 0 7 = 7) (h3 : decPToV w .ptov = r) :
    decodeRaw w = r := by
  unfold decodeRaw
  rw [h1, h2]
  generalize decPToV w .ptov = q at h3 ⊢
  exact h3

theorem PToV_dec (x : OpPToV) (mk : OpPToV → Instr) :
    let w := 0x9C003807 + encPToV x
    w < 2 ^ 32 ∧ fld w 26 6 = 39 ∧ fld w 0 7 = 7 ∧ decPToV w mk = some (mk x) := by
  intro w
  have := encGuard_lt x.g
  have := x.d.isLt
  have := x.p.isLt
  have hw : w = 0x9C003807 + encPToV x := rfl
  simp only [encPToV] at hw
  refine ⟨by omega, by simp only [fld]; omega, by simp only [fld]; omega, ?_⟩
  simp only [decPToV, whenZero, show fld w 20 3 = 0 by simp only [fld]; omega, show fld w 9 5 = 0x1C by simp only [fld]; omega,
    show fld w 23 3 = encGuard x.g by simp only [fld]; omega, show fld w 14 6 = x.d.val by simp only [fld]; omega,
    show fld w 7 2 = x.p.val by simp only [fld]; omega, beq_self_eq_true, if_true, decGuard_enc, Option.bind_some, fin_of]

theorem RoundTrip.ptov (x : OpPToV) : RoundTrip.Statement (.ptov x) := by
  obtain ⟨h0, h1, h2, h3⟩ := PToV_dec x .ptov
  exact of_raw (b := 0x9C003807) rfl h0 fun _ => arm_ptov _ _ h1 h2 h3

theorem arm_readl (w : Nat) (r : Option Instr) (h1 : fld w 26 6 = 39) (h2 : (0x40 ≤ fld w 0 7) = True)
    (h3 : decReadL w .readl = r) : decodeRaw w = r := by
  unfold decodeRaw
  rw [h1]
  generalize decReadL w .readl = q at h3 ⊢
  show (if 0x40 ≤ fld w 0 7 then q else _) = _
  rw [if_pos (h2 ▸ trivial)]
  exact h3

theorem ReadL_dec (x : OpReadL) (mk : OpReadL → Instr) :
    let w := 0x9C000040 + encReadL x
    w < 2 ^ 32 ∧ fld w 26 6 = 39 ∧ fld w 0 7 = 0x40 + x.n.val ∧ decReadL w mk = some (mk x) := by
  intro w
  have := x.d.isLt
  have := x.r.isLt
  have := x.n.isLt
  have hw : w = 0x9C000040 + encReadL x := rfl
  simp only [encReadL] at hw
  refine ⟨by omega, by simp only [fld]; omega, by simp only [fld]; omega, ?_⟩
  simp only [decReadL, whenZero, show fld w 19 7 = 0 by simp only [fld]; omega, show fld w 13 1 = 0 by simp only [fld]; omega,
    show fld w 14 5 = x.d.val by simp only [fld]; omega, show fld w 7 6 = x.r.val by simp only [fld]; omega,
    show fld w 0 6 = x.n.val by simp only [fld]; omega, beq_self_eq_true, if_true, fin_of]

theorem RoundTrip.readl (x : OpReadL) : RoundTrip.Statement (.readl x) := by
  obtain ⟨h0, h1, h2, h3⟩ := ReadL_dec x .readl
  exact of_raw (b := 0x9C000040) rfl h0 fun _ => arm_readl (0x9C000040 + encReadL x) _ h1 (by rw [h2]; simp) h3

/-- MAPR and HBIND: A is an s code. -/
theorem VBlk_dec (m f : Nat) (x : OpVBlk) (mk : OpVBlk → Instr) (hm : m < 64) (hf : f < 128) :
    let w := m * 2 ^ 26 + f * 2 ^ 16 + encVBlk x
    w < 2 ^ 32 ∧ fld w 26 6 = m ∧ fld w 16 7 = f ∧ decVBlk w mk = some (mk x) := by
  intro w
  have := x.vw.isLt
  have := x.p.isLt
  have hw : w = m * 2 ^ 26 + f * 2 ^ 16 + encVBlk x := rfl
  simp only [encVBlk] at hw
  refine ⟨by omega, by simp only [fld]; omega, by simp only [fld]; omega, ?_⟩
  simp only [decVBlk, whenZero, show fld w 23 3 = 0 by simp only [fld]; omega, show fld w 0 3 = 0 by simp only [fld]; omega,
    show fld w 8 2 = 2 by simp only [fld]; omega, show fld w 10 6 = x.vw.val by simp only [fld]; omega,
    show fld w 3 5 = x.p.val by simp only [fld]; omega, beq_self_eq_true, if_true, fin_of]

theorem arm_mapr (w : Nat) (r : Option Instr) (h1 : fld w 26 6 = 55) (h2 : fld w 16 7 = 3) (h3 : decVBlk w .mapr = r) :
    decodeRaw w = r := by
  unfold decodeRaw
  rw [h1, h2]
  generalize decVBlk w .mapr = q at h3 ⊢
  exact h3

theorem RoundTrip.mapr (x : OpVBlk) : RoundTrip.Statement (.mapr x) := by
  obtain ⟨h0, h1, h2, h3⟩ := VBlk_dec 55 3 x .mapr (by decide) (by decide)
  exact of_raw (b := 55 * 2 ^ 26 + 3 * 2 ^ 16) rfl h0 fun _ => arm_mapr _ _ h1 h2 h3

theorem arm_hbind (w : Nat) (r : Option Instr) (h1 : fld w 26 6 = 56) (h2 : fld w 16 7 = 6) (h3 : decVBlk w .hbind = r) :
    decodeRaw w = r := by
  unfold decodeRaw
  rw [h1, h2]
  generalize decVBlk w .hbind = q at h3 ⊢
  exact h3

theorem RoundTrip.hbind (x : OpVBlk) : RoundTrip.Statement (.hbind x) := by
  obtain ⟨h0, h1, h2, h3⟩ := VBlk_dec 56 6 x .hbind (by decide) (by decide)
  exact of_raw (b := 56 * 2 ^ 26 + 6 * 2 ^ 16) rfl h0 fun _ => arm_hbind _ _ h1 h2 h3

theorem arm_bcopy (w : Nat) (r : Option Instr) (h1 : fld w 26 6 = 62) (h2 : fld w 16 7 = 0) (h3 : decBCopy w .bcopy = r) :
    decodeRaw w = r := by
  unfold decodeRaw
  rw [h1, h2]
  generalize decBCopy w .bcopy = q at h3 ⊢
  exact h3

theorem BCopy_dec (x : OpBCopy) (mk : OpBCopy → Instr) :
    let w := 62 * 2 ^ 26 + encBCopy x
    w < 2 ^ 32 ∧ fld w 26 6 = 62 ∧ fld w 16 7 = 0 ∧ decBCopy w mk = some (mk x) := by
  intro w
  have := x.xf.isLt
  have := x.p.isLt
  have hw : w = 62 * 2 ^ 26 + encBCopy x := rfl
  simp only [encBCopy] at hw
  refine ⟨by omega, by simp only [fld]; omega, by simp only [fld]; omega, ?_⟩
  simp only [decBCopy, whenZero, show fld w 23 3 = 0 by simp only [fld]; omega, show fld w 0 3 = 0 by simp only [fld]; omega,
    show fld w 8 2 = 2 by simp only [fld]; omega, show fld w 10 6 = x.xf.val by simp only [fld]; omega,
    show fld w 3 5 = x.p.val by simp only [fld]; omega, beq_self_eq_true, if_true, fin_of]

theorem RoundTrip.bcopy (x : OpBCopy) : RoundTrip.Statement (.bcopy x) := by
  obtain ⟨h0, h1, h2, h3⟩ := BCopy_dec x .bcopy
  exact of_raw (b := 62 * 2 ^ 26) rfl h0 fun _ => arm_bcopy _ _ h1 h2 h3

theorem arm_qspawn (w : Nat) (r : Option Instr) (h1 : fld w 26 6 = 62) (h2 : fld w 16 7 = 2) (h3 : decQSpawn w .qspawn = r) :
    decodeRaw w = r := by
  unfold decodeRaw
  rw [h1, h2]
  generalize decQSpawn w .qspawn = q at h3 ⊢
  exact h3

theorem QSpawn_dec (x : OpQSpawn) (mk : OpQSpawn → Instr) :
    let w := 62 * 2 ^ 26 + 2 * 2 ^ 16 + encQSpawn x
    w < 2 ^ 32 ∧ fld w 26 6 = 62 ∧ fld w 16 7 = 2 ∧ decQSpawn w mk = some (mk x) := by
  intro w
  obtain ⟨d, vw, sel⟩ := x
  have := d.isLt
  have := vw.isLt
  cases sel with
  | none =>
    have hw : w = 62 * 2 ^ 26 + 2 * 2 ^ 16 + (d.val * 2 ^ 10 + vw.val * 2 ^ 3 + 0) := rfl
    refine ⟨by omega, by simp only [fld]; omega, by simp only [fld]; omega, ?_⟩
    simp only [decQSpawn, whenZero, show fld w 23 3 = 0 by simp only [fld]; omega, show fld w 9 1 = 0 by simp only [fld]; omega,
      show fld w 0 3 = 0 by simp only [fld]; omega, show fld w 10 6 = d.val by simp only [fld]; omega,
      show fld w 3 6 = vw.val by simp only [fld]; omega, beq_self_eq_true, if_true, fin_of]
  | some p =>
    have := p.isLt
    have hw : w = 62 * 2 ^ 26 + 2 * 2 ^ 16 + (d.val * 2 ^ 10 + vw.val * 2 ^ 3 + (4 + p.val)) := rfl
    have hp : ∀ p : Fin 4, (4 + p.val == 0) = false ∧ ¬ (4 + p.val < 4) ∧ Fin.ofNat 4 (4 + p.val) = p := by decide
    obtain ⟨p1, p2, p3⟩ := hp p
    refine ⟨by omega, by simp only [fld]; omega, by simp only [fld]; omega, ?_⟩
    simp only [decQSpawn, whenZero, show fld w 23 3 = 0 by simp only [fld]; omega, show fld w 9 1 = 0 by simp only [fld]; omega,
      show fld w 0 3 = 4 + p.val by simp only [fld]; omega, show fld w 10 6 = d.val by simp only [fld]; omega,
      show fld w 3 6 = vw.val by simp only [fld]; omega, beq_self_eq_true, if_true, fin_of, p1, p2, p3, if_false, Bool.false_eq_true]

theorem RoundTrip.qspawn (x : OpQSpawn) : RoundTrip.Statement (.qspawn x) := by
  obtain ⟨h0, h1, h2, h3⟩ := QSpawn_dec x .qspawn
  exact of_raw (b := 62 * 2 ^ 26 + 2 * 2 ^ 16) rfl h0 fun _ => arm_qspawn _ _ h1 h2 h3

theorem RoundTrip.trig : RoundTrip.Statement .trig := of_raw (b := 0xF8060000) rfl (by decide) fun _ => by decide

theorem arm_himm (w : Nat) (r : Option Instr) (h1 : fld w 26 6 = 63) (h2 : fld w 23 3 = 0) (h3 : decHimm w = r) :
    decodeRaw w = r := by
  unfold decodeRaw
  rw [h1, h2]
  generalize decHimm w = q at h3 ⊢
  exact h3

theorem Himm_dec (imm : BitVec 23) :
    let w := 63 * 2 ^ 26 + imm.toNat
    w < 2 ^ 32 ∧ fld w 26 6 = 63 ∧ fld w 23 3 = 0 ∧ decHimm w = some (.himm imm) := by
  intro w
  have := imm.isLt
  have hw : w = 63 * 2 ^ 26 + imm.toNat := rfl
  refine ⟨by omega, by simp only [fld]; omega, by simp only [fld]; omega, ?_⟩
  simp only [decHimm, show fld w 0 23 = imm.toNat by simp only [fld]; omega, bv_of]

theorem RoundTrip.himm (imm : BitVec 23) : RoundTrip.Statement (.himm imm) := by
  obtain ⟨h0, h1, h2, h3⟩ := Himm_dec imm
  exact of_raw (b := 63 * 2 ^ 26) rfl h0 fun _ => arm_himm _ _ h1 h2 h3

theorem Hsch_dec : ∀ n : Fin 16, 0xFD800000 + n.val < 2 ^ 32 ∧ decodeRaw (0xFD800000 + n.val) = some (.hsch n) := by decide

theorem RoundTrip.hsch (n : Fin 16) : RoundTrip.Statement (.hsch n) :=
  of_raw (b := 0xFD800000) rfl (Hsch_dec n).1 fun _ => (Hsch_dec n).2

theorem Hgath_dec : ∀ n : Fin 4, 0xFE000000 + n.val * 2 ^ 21 < 2 ^ 32 ∧ decodeRaw (0xFE000000 + n.val * 2 ^ 21) = some (.hgath n) := by
  decide

theorem RoundTrip.hgath (sel : Fin 4) : RoundTrip.Statement (.hgath sel) :=
  of_raw (b := 0xFE000000) rfl (Hgath_dec sel).1 fun _ => (Hgath_dec sel).2

end Sys2Proof.Laws
end

