-- ==== Sys2Proof/Laws/Unit.lean ====
section
/-!
SUPPORT. What the three forms of a meaning do: each answers a next state wherever a unit is in hand, and where no RVZ and no
barrier of the team is in progress a lane of the unit ends as its body says.
-/
namespace Sys2Proof.Machine

/-! ## The group's bookkeeping -/

theorem settleSyncl_lane (g : Group) (n : Nat) (l : Lane) (h : g.lanes[n]? = some l) (hw : l.wait = .none) :
    g.settleSyncl.lanes[n]? = some l := by
  simp [Group.settleSyncl, h, hw]

theorem settleBarg_lane (g : Group) (n : Nat) (l : Lane) (h : g.lanes[n]? = some l) (hw : l.wait = .none) :
    g.settleBarg.lanes[n]? = some l := by
  unfold Group.settleBarg
  split
  · exact h
  · simp only
    split
    · simp [h, hw]
    · exact h

theorem settleRvz_none (g : Group) (h : g.rvz = none) : g.settleRvz = g := by
  simp [Group.settleRvz, h]

@[simp] theorem settleSyncl_rvz (g : Group) : g.settleSyncl.rvz = g.rvz := rfl
@[simp] theorem settleBarg_rvz (g : Group) : g.settleBarg.rvz = g.rvz := by
  unfold Group.settleBarg
  split
  · rfl
  · simp only; split <;> rfl

theorem settle_lane (g : Group) (n : Nat) (l : Lane) (h : g.lanes[n]? = some l) (hw : l.wait = .none) (hr : g.rvz = none) :
    g.settle.lanes[n]? = some l := by
  have h1 := settleBarg_lane g.settleSyncl n l (settleSyncl_lane g n l h hw) hw
  have h2 : g.settleSyncl.settleBarg.settleRvz = g.settleSyncl.settleBarg := settleRvz_none _ (by simp [hr])
  unfold Group.settle
  simp only [h2]
  split <;> exact h1

@[simp] theorem moveBroadcast_lanes (g : Group) : g.moveBroadcast.lanes = g.lanes := by
  unfold Group.moveBroadcast
  simp only
  split
  · split <;> rfl
  · rfl

@[simp] theorem moveBroadcast_rvz (g : Group) : g.moveBroadcast.rvz = g.rvz := by
  unfold Group.moveBroadcast
  simp only
  split
  · split <;> rfl
  · rfl

@[simp] theorem refreshBroadcast_lanes (g : Group) : g.refreshBroadcast.lanes = g.lanes := by
  unfold Group.refreshBroadcast; split <;> simp

theorem nextBroadcast_same (g : Group) (ls : List Nat) :
    (g.nextBroadcast ls).lanes = g.lanes ∧ (g.nextBroadcast ls).rvz = g.rvz := by
  unfold Group.nextBroadcast
  split
  · exact ⟨rfl, rfl⟩
  · split
    · exact ⟨rfl, rfl⟩
    · split
      · simp
      · exact ⟨rfl, rfl⟩

/-- The bookkeeping after an issue changes neither a lane that waits for nothing nor what the group waits for. -/
theorem afterIssue_lane (c : Ctx) (g : Group) (n : Nat) (l : Lane) (h : g.lanes[n]? = some l)
    (hw : l.wait = .none) (hr : g.rvz = none) : (g.afterIssue c).lanes[n]? = some l := by
  unfold Group.afterIssue
  simp only [refreshBroadcast_lanes]
  obtain ⟨h1, h2⟩ := nextBroadcast_same g c.lanes
  apply settle_lane
  · show (if c.alone then g else g.nextBroadcast c.lanes).lanes[n]? = some l
    split
    · exact h
    · rw [h1]; exact h
  · exact hw
  · show (if c.alone then g else g.nextBroadcast c.lanes).rvz = none
    split
    · exact hr
    · rw [h2]; exact hr

/-! ## What the bookkeeping leaves of a group -/

/-- The fields that the bookkeeping after an issue may change, replaced. -/
def Group.booked (g : Group) (p : Place) (h : List (Place × Nat)) (a : Option Nat) (r : Nat) (ls : List Lane) (e t : Bool) (v : Option Rvz) (b : Option Nat) : Group :=
  { g with place := p, heldFor := h, age := a, run := r, lanes := ls, ended := e, triggered := t, rvz := v, bargTo := b }

theorem moveBroadcast_booked (g : Group) :
    ∃ p, g.moveBroadcast = g.booked p g.heldFor g.age g.run g.lanes g.ended g.triggered g.rvz g.bargTo := by
  unfold Group.moveBroadcast
  simp only
  split
  · split
    · exact ⟨g.place, rfl⟩
    · exact ⟨_, rfl⟩
  · exact ⟨_, rfl⟩

theorem settle_booked (g : Group) :
    ∃ p ls e t v b, g.settle = g.booked p g.heldFor g.age g.run ls e t v b := by
  have h1 : ∀ x : Group, ∃ ls b, x.settleBarg = { x with lanes := ls, bargTo := b } := by
    intro x
    unfold Group.settleBarg
    split
    · exact ⟨x.lanes, x.bargTo, rfl⟩
    · simp only
      split
      · exact ⟨_, none, rfl⟩
      · exact ⟨x.lanes, x.bargTo, rfl⟩
  have h2 : ∀ x : Group, ∃ p ls v, x.settleRvz = { x with place := p, lanes := ls, rvz := v } := by
    intro x
    unfold Group.settleRvz
    split
    · exact ⟨x.place, x.lanes, x.rvz, rfl⟩
    · simp only
      split
      · exact ⟨_, _, none, rfl⟩
      · exact ⟨x.place, _, x.rvz, rfl⟩
  obtain ⟨ls, b, e1⟩ := h1 g.settleSyncl
  obtain ⟨p, ls', v, e2⟩ := h2 g.settleSyncl.settleBarg
  unfold Group.settle
  simp only
  split
  · exact ⟨p, ls', true, true, v, b, by rw [e2, e1]; rfl⟩
  · exact ⟨p, ls', g.ended, g.triggered, v, b, by rw [e2, e1]; rfl⟩

/-- The bookkeeping after an issue touches nothing of a group but what `booked` names. -/
theorem afterIssue_booked (c : Ctx) (g : Group) :
    ∃ p h a r ls e t v b, g.afterIssue c = g.booked p h a r ls e t v b := by
  have h1 : ∃ p h, (if c.alone then g else g.nextBroadcast c.lanes) =
      g.booked p h g.age g.run g.lanes g.ended g.triggered g.rvz g.bargTo := by
    split
    · exact ⟨g.place, g.heldFor, rfl⟩
    · unfold Group.nextBroadcast
      split
      · exact ⟨g.place, g.heldFor, rfl⟩
      · split
        · exact ⟨g.place, g.heldFor, rfl⟩
        · split
          · exact ⟨_, _, (moveBroadcast_booked g).choose_spec⟩
          · exact ⟨_, g.heldFor, rfl⟩
  have h2 : ∀ x : Group, ∃ p h, x.refreshBroadcast =
      x.booked p h x.age x.run x.lanes x.ended x.triggered x.rvz x.bargTo := by
    intro x
    unfold Group.refreshBroadcast
    split
    · exact ⟨x.place, x.heldFor, rfl⟩
    · exact ⟨_, _, (moveBroadcast_booked x).choose_spec⟩
  have h3 : ∀ (y : Group) (hf : List (Place × Nat)) (ag : Option Nat) (rn : Nat), ∃ p h a r ls e t v b,
      ({ y with heldFor := hf, age := ag, run := rn } : Group).settle.refreshBroadcast = y.booked p h a r ls e t v b := by
    intro y hf ag rn
    obtain ⟨p2, ls2, e2', t2, v2, b2, e2⟩ := settle_booked ({ y with heldFor := hf, age := ag, run := rn } : Group)
    obtain ⟨p3, h3, e3⟩ := h2 ({ y with heldFor := hf, age := ag, run := rn } : Group).settle
    rw [e3, e2]
    exact ⟨_, _, _, _, _, _, _, _, _, rfl⟩
  obtain ⟨p, h, e1⟩ := h1
  unfold Group.afterIssue
  simp only
  rw [e1]
  obtain ⟨_, _, _, _, _, _, _, _, _, e4⟩ := h3 (g.booked p h g.age g.run g.lanes g.ended g.triggered g.rvz g.bargTo) _ _ _
  exact ⟨_, _, _, _, _, _, _, _, _, e4⟩

@[simp] theorem afterIssue_index (c : Ctx) (g : Group) : (g.afterIssue c).index = g.index := by
  obtain ⟨_, _, _, _, _, _, _, _, _, h⟩ := afterIssue_booked c g; rw [h]; rfl
@[simp] theorem afterIssue_stage (c : Ctx) (g : Group) : (g.afterIssue c).stage = g.stage := by
  obtain ⟨_, _, _, _, _, _, _, _, _, h⟩ := afterIssue_booked c g; rw [h]; rfl
@[simp] theorem afterIssue_role (c : Ctx) (g : Group) : (g.afterIssue c).role = g.role := by
  obtain ⟨_, _, _, _, _, _, _, _, _, h⟩ := afterIssue_booked c g; rw [h]; rfl
@[simp] theorem afterIssue_width (c : Ctx) (g : Group) : (g.afterIssue c).width = g.width := by
  obtain ⟨_, _, _, _, _, _, _, _, _, h⟩ := afterIssue_booked c g; rw [h]; rfl
@[simp] theorem afterIssue_nregs (c : Ctx) (g : Group) : (g.afterIssue c).nregs = g.nregs := by
  obtain ⟨_, _, _, _, _, _, _, _, _, h⟩ := afterIssue_booked c g; rw [h]; rfl
@[simp] theorem afterIssue_segment (c : Ctx) (g : Group) : (g.afterIssue c).segment = g.segment := by
  obtain ⟨_, _, _, _, _, _, _, _, _, h⟩ := afterIssue_booked c g; rw [h]; rfl
@[simp] theorem afterIssue_s (c : Ctx) (g : Group) : (g.afterIssue c).s = g.s := by
  obtain ⟨_, _, _, _, _, _, _, _, _, h⟩ := afterIssue_booked c g; rw [h]; rfl
@[simp] theorem afterIssue_cmask (c : Ctx) (g : Group) : (g.afterIssue c).cmask = g.cmask := by
  obtain ⟨_, _, _, _, _, _, _, _, _, h⟩ := afterIssue_booked c g; rw [h]; rfl
@[simp] theorem afterIssue_log (c : Ctx) (g : Group) : (g.afterIssue c).log = g.log := by
  obtain ⟨_, _, _, _, _, _, _, _, _, h⟩ := afterIssue_booked c g; rw [h]; rfl
@[simp] theorem afterIssue_halts (c : Ctx) (g : Group) : (g.afterIssue c).halts = g.halts := by
  obtain ⟨_, _, _, _, _, _, _, _, _, h⟩ := afterIssue_booked c g; rw [h]; rfl
@[simp] theorem afterIssue_wait (c : Ctx) (g : Group) : (g.afterIssue c).wait = g.wait := by
  obtain ⟨_, _, _, _, _, _, _, _, _, h⟩ := afterIssue_booked c g; rw [h]; rfl

/-! ## The machine after a unit -/

theorem keeps_haltFails (s : State) (c : Ctx) (fails : List (Nat × Cause)) :
    Keeps s (match fails with
      | [] => s
      | (_, e) :: _ =>
        s.haltGroup c.core c.gi ⟨e.kind, e.detail, e.extra, lanesMask (fails.map fun (p : Nat × Cause) => p.1),
          lanesMask (fails.map fun (p : Nat × Cause) => p.1), c.place.pc, c.words, e.after, false, none⟩) := by
  split
  · exact Keeps.refl s
  · exact keeps_haltGroup _ _ _ _

/-- After a unit memory is still canonical and no unit is in hand. -/
theorem finish_keeps (s : State) (c : Ctx) (fails : List (Nat × Cause)) :
    (s.mem.wf = true → (s.finish c fails).mem.wf = true) ∧ (s.finish c fails).issue = none := by
  unfold State.finish
  refine ⟨fun h => ?_, rfl⟩
  have h1 := (keeps_modGroup s c.core c.gi (Group.afterIssue c)).trans (keeps_modTeam _ c.core fun t =>
    { t with groups := mapFrom (fun k g => if k == c.gi then g else yieldSeen c.gi g) 0 t.groups })
  exact ((h1.trans (keeps_haltFails _ c fails)).trans (keeps_afterEnds _ c.core copyLeft)).wf h

theorem stall_keeps (s : State) (c : Ctx) :
    (s.mem.wf = true → (s.stall c).mem.wf = true) ∧ (s.stall c).issue = none := by
  unfold State.stall
  exact ⟨fun h => (keeps_modGroup s _ _ _).wf h, rfl⟩

/-- What taking the exception does to the group: its record, stamped, stands last among its halts, and nothing else of the
group changes (R109, R187, R188). -/
theorem haltGroup_group (s : State) (core gi : Nat) (h : HaltWhy) (t : Team) (g : Group) (ht : s.team core = some t)
    (hg : t.groups[gi]? = some g) :
    (s.haltGroup core gi h).group core gi = some { g with halts := g.halts ++ [⟨{ groupRecord s core t g h with stamp := s.nextStamp },
      h.atUnit, h.words, h.after, h.dog, h.logged, if g.halts.isEmpty then lowestFree (s.slotsUsed t.part) 512 else none⟩] } := by
  have hs : ∀ s' : State, s'.cores = s.cores → s'.group core gi = some g := by
    intro s' h'
    have : s'.group core gi = s.group core gi := by simp [State.group, State.team, State.core, h']
    rw [this]; simp [State.group, ht, hg]
  unfold State.haltGroup
  simp only [ht, hg]
  show State.group (State.modGroup _ _ _ _) _ _ = _
  rw [State.group_modGroup, if_pos ⟨rfl, rfl⟩, hs _ (by simp)]
  rfl

/-- The halt's own fields of a failing unit (R109): the first failing lane's cause, the failing lanes. -/
def failWhy (c : Ctx) (e : Cause) (fails : List (Nat × Cause)) : HaltWhy :=
  ⟨e.kind, e.detail, e.extra, lanesMask (fails.map fun (p : Nat × Cause) => p.1),
    lanesMask (fails.map fun (p : Nat × Cause) => p.1), c.place.pc, c.words, e.after, false, none⟩

/-- The group after a unit: its own bookkeeping, and a halt more where a lane failed. -/
theorem finish_group (s : State) (c : Ctx) (fails : List (Nat × Cause)) (g : Group)
    (hg : s.group c.core c.gi = some g) (hb : g.atNoBarrier = true) :
    ∃ hs, (s.finish c fails).group c.core c.gi = some { g.afterIssue c with halts := (g.afterIssue c).halts ++ hs } ∧
      (fails = [] → hs = []) ∧ (∀ x xs, fails = x :: xs → ∃ h, hs = [h] ∧ h.record.kind = x.2.kind ∧
        h.record.detail = BitVec.ofNat 32 x.2.detail ∧ h.record.extra = BitVec.ofNat 64 x.2.extra ∧
        h.record.lanes = lanesMask (fails.map fun (p : Nat × Cause) => p.1) ∧ h.record.pc = c.place.pc ∧
        h.record.core = c.core ∧ h.record.group = g.index ∧ h.record.stage = g.stage ∧ h.words = c.words ∧
        h.after = x.2.after) := by
  have h1 : (s.modGroup c.core c.gi (Group.afterIssue c)).group c.core c.gi = some (g.afterIssue c) := by
    rw [State.group_modGroup]; simp [hg]
  have h2 : ((s.modGroup c.core c.gi (Group.afterIssue c)).modTeam c.core fun t =>
      { t with groups := mapFrom (fun k g => if k == c.gi then g else yieldSeen c.gi g) 0 t.groups }).group c.core c.gi
      = some (g.afterIssue c) :=
    group_modTeam _ c.core c.gi _ _ h1 fun t _ ht => by simp [ht]
  have hb' : (g.afterIssue c).atNoBarrier = true := by
    unfold Group.atNoBarrier at hb ⊢; rw [afterIssue_wait]; exact hb
  unfold State.finish
  cases fails with
  | nil =>
    refine ⟨[], ?_, fun _ => rfl, fun x xs h => by simp at h⟩
    simp only [List.append_nil]
    exact afterEnds_group _ _ _ copyLeft _ h2 hb'
  | cons x xs =>
    obtain ⟨k, e⟩ := x
    generalize hs1 : ((s.modGroup c.core c.gi (Group.afterIssue c)).modTeam c.core fun t =>
      { t with groups := mapFrom (fun k g => if k == c.gi then g else yieldSeen c.gi g) 0 t.groups }) = s1 at h2
    cases ht : s1.team c.core with
    | none => simp [State.group, ht] at h2
    | some t =>
      have hg' : t.groups[c.gi]? = some (g.afterIssue c) := by simpa [State.group, ht] using h2
      have h3 := haltGroup_group s1 c.core c.gi (failWhy c e ((k, e) :: xs)) t _ ht hg'
      subst hs1
      refine ⟨[_], afterEnds_group _ c.core c.gi copyLeft _ h3 hb', fun h => by simp at h, ?_⟩
      intro y ys hy
      simp only [List.cons.injEq] at hy
      obtain ⟨rfl, rfl⟩ := hy
      refine ⟨_, rfl, rfl, rfl, rfl, rfl, rfl, rfl, ?_, ?_, rfl, rfl⟩
      · exact afterIssue_index c g
      · exact afterIssue_stage c g

/-- A lane that waits for nothing is as the unit left it. -/
theorem finish_lane (s : State) (c : Ctx) (fails : List (Nat × Cause)) (g : Group) (n : Nat) (l : Lane)
    (hg : s.group c.core c.gi = some g) (hr : g.rvz = none) (hb : g.atNoBarrier = true) (hl : g.lanes[n]? = some l)
    (hw : l.wait = .none) : (s.finish c fails).laneAt c.core c.gi n = some l := by
  obtain ⟨hs, h, _⟩ := finish_group s c fails g hg hb
  simp only [State.laneAt, h, Option.bind_some]
  exact afterIssue_lane c g n l hl hw hr

/-! ## Lanes that act on themselves -/

theorem context_group (s : State) (c : Ctx) (h : s.context = some c) : s.group c.core c.gi = some c.g := by
  unfold State.context at h
  split at h
  · simp at h
  · split at h
    · simp at h
    · split at h
      · simp at h
      · rename_i u _ _ t ht _ g hg
        simp only [Option.some.injEq] at h
        subst h
        simp [State.group, ht, hg]

theorem context_lane {s : State} {c : Ctx} {i : Instr} {n : Nat} {l : Lane} (h : Executes s c i n l) :
    c.g.lane n = l := by
  simp [Group.lane, nth_eq, h.lane]

/-- One lane's execution, where it passes the checks. -/
theorem laneRun_passes {s : State} {c : Ctx} {i : Instr} {n : Nat} {l : Lane} (h : Executes s c i n l)
    (body : Lane → LaneEnd) :
    laneRun i c body l = ({ l with wait := .none } : Lane).ended (({ l with wait := .none } : Lane).begin_ i c).1 i c
      (body (l.started i c)) := by
  have hp := h.passes
  unfold laneRun
  simp only
  split
  · rename_i heq; rw [heq] at hp; simp at hp
  · rename_i heq
    simp only [Lane.started, heq]

@[simp] theorem begin_wait (l : Lane) (i : Instr) (c : Ctx) : (l.begin_ i c).1.wait = l.wait := by
  unfold Lane.begin_
  split
  · rfl
  · split
    · rfl
    · split <;> rfl

@[simp] theorem chained_wait (l : Lane) (b : Bool) : (l.chained b).wait = l.wait := by
  unfold Lane.chained; split <;> rfl

@[simp] theorem started_wait (l : Lane) (i : Instr) (c : Ctx) : (l.started i c).wait = .none := by
  simp [Lane.started]

/-- `localUnit` answers a next state. -/
theorem localUnit_next (i : Instr) (s : State) (body : Ctx → Nat → Lane → LaneEnd) (c : Ctx) (h : s.context = some c) :
    ∃ t, localUnit i s body = .next t := by
  unfold localUnit; rw [h]; exact ⟨_, rfl⟩

/-- A lane that passes its checks ends as the body says, where that leaves it waiting for nothing. -/
theorem localUnit_lane {i : Instr} {s : State} {body : Ctx → Nat → Lane → LaneEnd} {c : Ctx} {n : Nat} {l x : Lane}
    (h : Executes s c i n l)
    (hx : (({ l with wait := .none } : Lane).ended (({ l with wait := .none } : Lane).begin_ i c).1 i c
      (body c n (l.started i c))).1 = x) (hw : x.wait = .none) :
    ∃ t, localUnit i s body = .next t ∧ c.laneIn t n = some x := by
  unfold localUnit
  rw [h.inHand]
  refine ⟨_, rfl, ?_⟩
  have hg := context_group s c h.inHand
  let ls := mapFrom (fun n l => if c.lanes.contains n then (laneRun i c (body c n) l).1 else l) 0 c.g.lanes
  refine finish_lane _ c _ { c.g with lanes := ls } n x ?_ h.noRvz ?_ ?_ hw
  · rw [State.group_modGroup, if_pos ⟨rfl, rfl⟩, hg]; rfl
  · exact h.noBar
  · show (mapFrom _ 0 c.g.lanes)[n]? = some x
    simp only [getElem?_mapFrom_zero, h.lane, Option.map_some]
    rw [if_pos (by simpa using h.among), laneRun_passes h]
    exact congrArg some hx

/-- A lane that goes on past the unit. -/
theorem localUnit_go {i : Instr} {s : State} {body : Ctx → Nat → Lane → LaneEnd} {c : Ctx} {n : Nat} {l x : Lane}
    (h : Executes s c i n l) (hb : body c n (l.started i c) = .go x) (hw : x.wait = .none) (ht : i.transfer = false) :
    ∃ t, localUnit i s body = .next t ∧ c.laneIn t n = some (x.past c) := by
  apply localUnit_lane h
  · rw [hb]; simp [Lane.ended, ht, Lane.past]
  · exact hw

/-- A lane that a transfer sends on. -/
theorem localUnit_jump {i : Instr} {s : State} {body : Ctx → Nat → Lane → LaneEnd} {c : Ctx} {n : Nat} {l x : Lane} {pc : Word}
    (h : Executes s c i n l) (hb : body c n (l.started i c) = .jump x pc) (hw : x.wait = .none) (ht : i.transfer = true) :
    ∃ t, localUnit i s body = .next t ∧ c.laneIn t n = some { x with pc := pc, chain := 0 } := by
  apply localUnit_lane h
  · rw [hb]; simp [Lane.ended, ht]
  · exact hw

/-- A transfer that is not taken. -/
theorem localUnit_fall {i : Instr} {s : State} {body : Ctx → Nat → Lane → LaneEnd} {c : Ctx} {n : Nat} {l x : Lane}
    (h : Executes s c i n l) (hb : body c n (l.started i c) = .go x) (hw : x.wait = .none) (ht : i.transfer = true) :
    ∃ t, localUnit i s body = .next t ∧ c.laneIn t n = some { x.past c with chain := 0 } := by
  apply localUnit_lane h
  · rw [hb]; simp [Lane.ended, ht, Lane.past]
  · exact hw

/-- A producer whose guard holds and whose flags the fault mask lets pass: the result enters the latches, and the register
unless W is set. -/
theorem producer_go {i : Instr} {s : State} {g : Guard} {w : Bool} {d : Fin 64}
    {f : Env → Lane → Except Cause (Word × Word)} {c : Ctx} {n : Nat} {l : Lane} {r fl : Word} (h : Executes s c i n l)
    (hg : g.holds (l.started i c) = true) (hf : f (c.env n) (l.started i c) = .ok (r, fl))
    (hr : (l.started i c).raises (recFmask c.r) fl = none) (ht : i.transfer = false) :
    ∃ t, localUnit i s (producer g w d f) = .next t ∧
      c.laneIn t n = some ((((l.started i c).produce w d r).setFlags fl).past c) := by
  apply localUnit_go h _ _ ht
  · simp [producer, hg, hf, hr]
  · show (Lane.produce _ _ _ _).wait = _
    unfold Lane.produce
    simp only
    split <;> simp

/-- A producer whose guard is false: only its latches shift. -/
theorem producer_off {i : Instr} {s : State} {g : Guard} {w : Bool} {d : Fin 64}
    {f : Env → Lane → Except Cause (Word × Word)} {c : Ctx} {n : Nat} {l : Lane} (h : Executes s c i n l)
    (hg : g.holds (l.started i c) = false) (ht : i.transfer = false) :
    ∃ t, localUnit i s (producer g w d f) = .next t ∧
      c.laneIn t n = some (((l.started i c).produce true d ((l.started i c).reg d)).past c) := by
  apply localUnit_go h _ _ ht
  · simp [producer, hg]
  · show (Lane.produce _ _ _ _).wait = _
    unfold Lane.produce
    simp

/-- Flags of no kind are raised by none. -/
@[simp] theorem raises_zero (l : Lane) (m : Nat) : l.raises m 0 = none := by
  unfold Lane.raises maskSelects
  simp [bit]

@[simp] theorem setFlags_zero (l : Lane) : l.setFlags 0 = l := by
  unfold Lane.setFlags
  simp

/-- A lane instruction that is no producer, where its guard is false. -/
theorem guarded_off {i : Instr} {s : State} {g : Guard} {f : Env → Lane → LaneEnd} {c : Ctx} {n : Nat} {l : Lane}
    (h : Executes s c i n l) (hg : g.holds (l.started i c) = false) (ht : i.transfer = false) :
    ∃ t, localUnit i s (guarded g f) = .next t ∧ c.laneIn t n = some ((l.started i c).past c) := by
  apply localUnit_go h _ _ ht
  · simp [guarded, hg]
  · simp

/-- A lane instruction that is no producer, where its guard holds. -/
theorem guarded_go {i : Instr} {s : State} {g : Guard} {f : Env → Lane → LaneEnd} {c : Ctx} {n : Nat} {l x : Lane}
    (h : Executes s c i n l) (hg : g.holds (l.started i c) = true) (hf : f (c.env n) (l.started i c) = .go x)
    (hw : x.wait = .none) (ht : i.transfer = false) :
    ∃ t, localUnit i s (guarded g f) = .next t ∧ c.laneIn t n = some (x.past c) := by
  apply localUnit_go h _ hw ht
  simp [guarded, hg, hf]

/-! ## Lanes that act one after another -/

/-- `memUnit` answers a next state. -/
theorem memUnit_next (i : Instr) (s : State) (body : Ctx → State → Nat → Lane → State × LaneEnd) (c : Ctx)
    (h : s.context = some c) : ∃ t, memUnit i s body = .next t := by
  unfold memUnit
  rw [h]
  exact ⟨_, rfl⟩

/-- What another lane's act leaves of a group: every lane but `m`, and what the group waits for. -/
structure LeavesBut (c : Ctx) (m : Nat) (s t : State) : Prop where
  keep : ∀ g, s.group c.core c.gi = some g → ∃ g', t.group c.core c.gi = some g' ∧ g'.rvz = g.rvz ∧ g'.wait = g.wait ∧
    g'.lanes.length = g.lanes.length ∧ ∀ k, k ≠ m → g'.lanes[k]? = g.lanes[k]?

theorem LeavesBut.refl (c : Ctx) (m : Nat) (s : State) : LeavesBut c m s s :=
  ⟨fun g h => ⟨g, h, rfl, rfl, rfl, fun _ _ => rfl⟩⟩

theorem LeavesBut.of_groups (c : Ctx) (m : Nat) {s t : State} (h : SameGroups s t) : LeavesBut c m s t :=
  ⟨fun g hg => ⟨g, (h c.core c.gi).trans hg, rfl, rfl, rfl, fun _ _ => rfl⟩⟩

theorem LeavesBut.trans {c : Ctx} {m : Nat} {s t u : State} (h : LeavesBut c m s t) (h' : LeavesBut c m t u) :
    LeavesBut c m s u :=
  ⟨fun g hg => by
    obtain ⟨g1, a1, a2, a3, a5, a4⟩ := h.keep g hg
    obtain ⟨g2, b1, b2, b3, b5, b4⟩ := h'.keep g1 a1
    exact ⟨g2, b1, b2.trans a2, b3.trans a3, b5.trans a5, fun k hk => (b4 k hk).trans (a4 k hk)⟩⟩

theorem leavesBut_modLane (c : Ctx) (m : Nat) (s : State) (f : Lane → Lane) : LeavesBut c m s (s.modLane c.core c.gi m f) := by
  constructor
  intro g hg
  refine ⟨g.modLane m f, ?_, rfl, rfl, by simp [Group.modLane], fun k hk => ?_⟩
  · unfold State.modLane
    rw [State.group_modGroup, if_pos ⟨rfl, rfl⟩, hg]
    rfl
  · simp only [Group.modLane, getElem?_modifyNth]
    rw [if_neg (Ne.symm hk)]

/-- The lane of the unit that a `memUnit` has reached, with the checks passed. -/
theorem memLane_passes {i : Instr} {c : Ctx} {body : Ctx → State → Nat → Lane → State × LaneEnd} {s : State} {n : Nat} {l : Lane}
    {fails : List (Nat × Cause)} {moved : Bool} (hl : c.laneIn s n = some l)
    (hp : (({ l with wait := .none } : Lane).begin_ i c).2 = none) :
    memLane i c body (s, fails, moved) n =
      (let r := body c s n (l.started i c)
       let e := ({ l with wait := .none } : Lane).ended (({ l with wait := .none } : Lane).begin_ i c).1 i c r.2
       (r.1.modLane c.core c.gi n fun _ => e.1, fails ++ (e.2.map fun k => (n, k)).toList, moved || r.2 != .stay)) := by
  have hg : ((s.group c.core c.gi).map fun g => g.lane n) = some l := by
    unfold Ctx.laneIn State.laneAt at hl
    cases h : s.group c.core c.gi with
    | none => simp [h] at hl
    | some g =>
      simp only [h, Option.bind_some] at hl
      simp [Group.lane, nth_eq, hl]
  unfold memLane
  simp only [hg, Option.getD_some]
  split
  · rename_i heq; rw [heq] at hp; simp at hp
  · rename_i heq
    simp only [Lane.started, heq]

/-- What one lane of a `memUnit` leaves of the group: every other lane, and what the group waits for. -/
theorem memLane_leaves {i : Instr} {c : Ctx} {body : Ctx → State → Nat → Lane → State × LaneEnd}
    (hq : ∀ s m x, LeavesBut c m s (body c s m x).1) (acc : State × List (Nat × Cause) × Bool) (m : Nat) :
    LeavesBut c m acc.1 (memLane i c body acc m).1 := by
  obtain ⟨s, fails, moved⟩ := acc
  unfold memLane
  simp only
  split
  · exact leavesBut_modLane _ _ _ _
  · exact (hq _ _ _).trans (leavesBut_modLane _ _ _ _)

/-- A lane of a `memUnit` ends as its body says, whatever the lanes before and after it do, where `P` is what it needs of the
machine, no other lane disturbs that, and no body disturbs another lane. -/
theorem memUnit_lane {i : Instr} {s : State} {body : Ctx → State → Nat → Lane → State × LaneEnd} {c : Ctx} {n : Nat} {l x : Lane}
    (P : State → Prop) (h : Executes s c i n l) (h0 : P s)
    (hP : ∀ acc m, m ≠ n → P acc.1 → P (memLane i c body acc m).1)
    (hq : ∀ s m x, LeavesBut c m s (body c s m x).1)
    (hb : ∀ s', P s' → (body c s' n (l.started i c)).2 ≠ .stay ∧
      (({ l with wait := .none } : Lane).ended (({ l with wait := .none } : Lane).begin_ i c).1 i c
        (body c s' n (l.started i c)).2).1 = x)
    (hw : x.wait = .none) :
    ∃ t, memUnit i s body = .next t ∧ c.laneIn t n = some x := by
  have good : ∀ (ls : List Nat) (acc : State × List (Nat × Cause) × Bool), n ∉ ls →
      LeavesBut c n acc.1 acc.1 → ∀ g, acc.1.group c.core c.gi = some g →
      ∃ g', (ls.foldl (memLane i c body) acc).1.group c.core c.gi = some g' ∧ g'.rvz = g.rvz ∧ g'.wait = g.wait ∧
        g'.lanes.length = g.lanes.length ∧ g'.lanes[n]? = g.lanes[n]? := by
    intro ls
    induction ls with
    | nil => intro acc _ _ g hg; exact ⟨g, hg, rfl, rfl, rfl, rfl⟩
    | cons m ms ih =>
      intro acc hn _ g hg
      obtain ⟨g1, a1, a2, a3, a5, a4⟩ := (memLane_leaves (i := i) hq acc m).keep g hg
      have hm : n ≠ m := fun e => hn (by simp [e])
      obtain ⟨g2, b1, b2, b3, b5, b4⟩ := ih (memLane i c body acc m) (fun e => hn (List.mem_cons_of_mem _ e)) (LeavesBut.refl _ _ _) g1 a1
      exact ⟨g2, b1, b2.trans a2, b3.trans a3, b5.trans a5, b4.trans (a4 n hm)⟩
  have goodP : ∀ (ls : List Nat) (acc : State × List (Nat × Cause) × Bool), n ∉ ls → P acc.1 →
      P (ls.foldl (memLane i c body) acc).1 := by
    intro ls
    induction ls with
    | nil => intro acc _ hp; exact hp
    | cons m ms ih =>
      intro acc hn hp
      exact ih _ (fun e => hn (List.mem_cons_of_mem _ e)) (hP acc m (fun e => hn (by simp [e])) hp)
  have movedKeeps : ∀ (ls : List Nat) (acc : State × List (Nat × Cause) × Bool), acc.2.2 = true →
      (ls.foldl (memLane i c body) acc).2.2 = true := by
    intro ls
    induction ls with
    | nil => intro acc ha; exact ha
    | cons m ms ih =>
      intro acc ha
      apply ih
      obtain ⟨s', f', b'⟩ := acc
      simp only at ha
      subst ha
      unfold memLane
      simp only
      split <;> simp
  obtain ⟨as, bs, hab⟩ := List.append_of_mem h.among
  have hnd := h.once
  rw [hab] at hnd
  have hna : n ∉ as := by
    intro ha
    have := (List.nodup_append.1 hnd).2.2 n ha n (by simp)
    exact this rfl
  have hnb : n ∉ bs := by
    have := (List.nodup_append.1 hnd).2.1
    exact (List.nodup_cons.1 this).1
  have hg := context_group s c h.inHand
  unfold memUnit
  rw [h.inHand]
  simp only
  rw [hab, List.foldl_append, List.foldl_cons]
  obtain ⟨g1, a1, a2, a3, a5, a4⟩ := good as (s, [], false) hna (LeavesBut.refl _ _ _) c.g hg
  have hp1 := goodP as (s, [], false) hna h0
  generalize hacc : as.foldl (memLane i c body) (s, [], false) = acc at a1 hp1
  obtain ⟨s1, f1, m1⟩ := acc
  simp only at a1 hp1
  have hl1 : c.laneIn s1 n = some l := by
    unfold Ctx.laneIn State.laneAt
    rw [a1]
    exact a4.trans h.lane
  rw [memLane_passes hl1 h.passes]
  obtain ⟨hb1, hb2⟩ := hb s1 hp1
  simp only
  rw [hb2]
  generalize hs2 : (body c s1 n (l.started i c)).1 = s2
  have hq2 : LeavesBut c n s1 s2 := hs2 ▸ hq s1 n _
  obtain ⟨g2, b1, b2, b3, b5, _⟩ := hq2.keep g1 a1
  generalize hf : f1 ++ _ = f2
  have hmv : (m1 || (body c s1 n (l.started i c)).2 != .stay) = true := by
    rw [bne_iff_ne.2 hb1]; simp
  rw [hmv]
  have c1 : (s2.modLane c.core c.gi n fun _ => x).group c.core c.gi = some (g2.modLane n fun _ => x) := by
    unfold State.modLane
    rw [State.group_modGroup, if_pos ⟨rfl, rfl⟩, b1]
    rfl
  obtain ⟨g3, d1, d2, d3, _, d4⟩ := good bs (s2.modLane c.core c.gi n fun _ => x, f2, true) hnb (LeavesBut.refl _ _ _) _ c1
  have hm := movedKeeps bs (s2.modLane c.core c.gi n fun _ => x, f2, true) rfl
  rw [hm]
  refine ⟨_, rfl, ?_⟩
  have hx : (g2.modLane n fun _ => x).lanes[n]? = some x := by
    have hlen : n < g2.lanes.length := by
      rw [b5, a5]
      exact (List.getElem?_eq_some_iff.1 h.lane).1
    simp only [Group.modLane, getElem?_modifyNth_same, List.getElem?_eq_getElem hlen, Option.map_some]
  refine finish_lane _ c _ g3 n x d1 ?_ ?_ ?_ hw
  · rw [d2]; exact (b2.trans a2).trans h.noRvz
  · have : g3.wait = c.g.wait := (d3.trans b3).trans a3
    have hb := h.noBar
    unfold Group.atNoBarrier at hb ⊢
    rw [this]; exact hb
  · exact d4.trans hx

/-! ## Units that execute once for their group -/

/-- `groupUnit` answers a next state. -/
theorem groupUnit_next (i : Instr) (s : State) (body : Ctx → State → GroupEnd) (c : Ctx) (h : s.context = some c) :
    ∃ t, groupUnit i s body = .next t := by
  unfold groupUnit
  rw [h]
  simp only
  repeat' split
  all_goals exact ⟨_, rfl⟩

/-- Where the unit passes its checks, the outcome is that of the body. -/
def groupRest (i : Instr) (c : Ctx) (e : GroupEnd) (s : State) : Res :=
  match e with
  | .go s1 f => .next ((s1.allPast i c f).finish c [])
  | .fail e => .next (s.finish c (allFail c e))
  | .retry s1 => .next (s1.stall c)
  | .wait s1 w =>
    .next ((s1.modGroup c.core c.gi fun g =>
      { g with wait := w, lanes := mapFrom (fun n (l : Lane) =>
          if c.lanes.contains n then (({ l with wait := .none } : Lane).chained (readsLatch i c)).sidedBy i else l) 0 g.lanes }).finish c [])

theorem groupUnit_rest {i : Instr} {s : State} {body : Ctx → State → GroupEnd} {c : Ctx} (h : ExecutesOnce s c i) :
    groupUnit i s body = groupRest i c (body c s) s := by
  unfold groupUnit
  rw [h.inHand]
  simp only
  rw [if_neg, if_neg]
  · rw [if_neg]
    · cases body c s <;> rfl
    · cases hr : i.role with
      | none => simp
      | some r => simpa using h.role r hr
  · intro hf
    simp only [Bool.and_eq_true, Bool.not_eq_true', ] at hf
    exact absurd (h.full hf.1) (by simp [hf.2])
  · simp only [List.any_eq_true, not_exists, not_and, Bool.not_eq_true, Option.isSome_eq_false_iff, Option.isNone_iff_eq_none]
    exact h.passes

/-- A lane of the unit with its last change, past the unit. -/
def Lane.lastPast (l : Lane) (i : Instr) (c : Ctx) (f : Nat → Lane → Lane) (n : Nat) : Lane :=
  ((f n (({ l with wait := .none } : Lane).chained (readsLatch i c))).sidedBy i).past c

theorem allPast_group (s : State) (i : Instr) (c : Ctx) (f : Nat → Lane → Lane) (g : Group)
    (hg : s.group c.core c.gi = some g) :
    (s.allPast i c f).group c.core c.gi = some { g with
      lanes := mapFrom (fun n l => if c.lanes.contains n then l.lastPast i c f n else l) 0 g.lanes } := by
  unfold State.allPast
  rw [State.group_modGroup, if_pos ⟨rfl, rfl⟩, hg]
  rfl

/-- A body that ends past the unit: the group has what the body gave it, and each lane of the unit the last change. -/
theorem groupUnit_go {i : Instr} {s s1 : State} {body : Ctx → State → GroupEnd} {c : Ctx} {f : Nat → Lane → Lane} {g : Group}
    (h : ExecutesOnce s c i) (hb : body c s = .go s1 f) (hg : s1.group c.core c.gi = some g) (hr : g.rvz = none)
    (hn : g.atNoBarrier = true) :
    ∃ t, groupUnit i s body = .next t ∧
      (∃ g', c.groupIn t = some g' ∧ g'.s = g.s ∧ g'.cmask = g.cmask ∧ g'.log = g.log ∧ g'.halts = g.halts ∧ g'.wait = g.wait) ∧
      ∀ n ∈ c.lanes, ∀ l, g.lanes[n]? = some l → (f n (({ l with wait := .none } : Lane).chained (readsLatch i c))).wait = .none →
        c.laneIn t n = some (l.lastPast i c f n) := by
  rw [groupUnit_rest h, hb]
  refine ⟨_, rfl, ?_, ?_⟩
  · have h1 := allPast_group s1 i c f g hg
    obtain ⟨hs, h2, h3, _⟩ := finish_group (s1.allPast i c f) c [] _ h1 hn
    refine ⟨_, h2, ?_, ?_, ?_, ?_, ?_⟩
    · exact afterIssue_s _ _
    · exact afterIssue_cmask _ _
    · exact afterIssue_log _ _
    · rw [h3 rfl]; exact (List.append_nil _).trans (afterIssue_halts _ _)
    · exact afterIssue_wait _ _
  · intro n hn' l hl hw
    have h1 := allPast_group s1 i c f g hg
    refine finish_lane _ c [] _ n _ h1 hr hn ?_ ?_
    · show (mapFrom _ 0 g.lanes)[n]? = _
      simp only [getElem?_mapFrom_zero, hl, Option.map_some]
      rw [if_pos (by simpa using hn')]
    · show (Lane.sidedBy _ i).wait = _
      unfold Lane.sidedBy
      split
      · unfold Lane.sided; split <;> exact hw
      · exact hw

end Sys2Proof.Machine
end

