-- ==== Sys2Proof/Laws/Shapes.lean ====
section
/-!
SUPPORT. How the shared forms of a meaning meet the shapes of Safety.lean: `Produces`, `Changes`, `SetsScalar`.
-/
namespace Sys2Proof.Machine

@[simp] theorem begin_inside (l : Lane) (i : Instr) (c : Ctx) : (l.begin_ i c).1.inside.isSome = l.inside.isSome := by
  unfold Lane.begin_
  split
  · rfl
  · rename_i h
    split
    · rfl
    · split
      · rfl
      · simp [h]

@[simp] theorem chained_inside (l : Lane) (b : Bool) : (l.chained b).inside = l.inside := by
  unfold Lane.chained; split <;> rfl

@[simp] theorem started_inside (l : Lane) (i : Instr) (c : Ctx) : (l.started i c).inside.isSome = l.inside.isSome := by
  unfold Lane.started
  rw [chained_inside, begin_inside]

/-- Joining a chain does not change what a delivered outcome leaves. -/
theorem deliver_chained (l : Lane) (b : Bool) (k : Nat) (h : l.inside.isSome = true) : (l.chained b).deliver k = l.deliver k := by
  obtain ⟨x, hx⟩ := Option.isSome_iff_exists.1 h
  unfold Lane.deliver
  rw [chained_inside, hx]
  cases b <;> rfl

@[simp] theorem deliver_wait (l : Lane) (k : Nat) : (l.deliver k).wait = l.wait := by
  unfold Lane.deliver
  split <;> rfl

/-- A contained lane whose body ends with a condition has its outcome delivered (R107, R109). -/
theorem localUnit_deliver {i : Instr} {s : State} {body : Ctx → Nat → Lane → LaneEnd} {c : Ctx} {n : Nat} {l : Lane} {e : Cause}
    (h : Executes s c i n l) (hb : body c n (l.started i c) = .fail e) (hin : l.inside.isSome = true) :
    ∃ t, localUnit i s body = .next t ∧ c.laneIn t n = some ((l.started i c).deliver e.outcome) := by
  refine localUnit_lane h ?_ ?_
  · rw [hb]
    show (Lane.failed _ _ e).1 = _
    unfold Lane.failed
    rw [if_pos (by exact hin)]
    unfold Lane.started
    rw [deliver_chained _ _ _ (by rw [begin_inside]; exact hin)]
  · simp

/-- Only the body's behaviour in the unit in hand counts. -/
theorem localUnit_congr {i : Instr} {s : State} {b b' : Ctx → Nat → Lane → LaneEnd} {c : Ctx} (h : s.context = some c)
    (hb : b c = b' c) : localUnit i s b = localUnit i s b' := by
  unfold localUnit
  rw [h]
  simp only [hb]

/-- A meaning made of `producer` produces. -/
theorem producesIn_of {i : Instr} {g : Guard} {w : Bool} {d : Fin 64} {f : Ctx → Env → Lane → Word × Word}
    (h : ∀ s, exec i s = localUnit i s fun c => producer g w d (fun e l => .ok (f c e l)) c) (ht : i.transfer = false) :
    ProducesIn i g w d f := by
  intro s c n l hx
  simp only
  rw [h, localUnit_congr (b := fun c => producer g w d (fun e l => .ok (f c e l)) c)
    (b' := producer g w d fun e l => .ok (f c e l)) hx.inHand rfl]
  split
  · rename_i hg
    split
    · rename_i e he
      have hin : (l.started i c).inside.isSome = true := by
        unfold Lane.raises at he
        split at he
        · rename_i h2; exact (Bool.and_eq_true _ _ ▸ h2).1
        · simp at he
      refine localUnit_deliver hx ?_ (by simpa using hin)
      simp only [producer, hg, if_true]
      rw [he]
    · rename_i he
      obtain ⟨t, h1, h2⟩ := producer_go (w := w) (d := d) (f := fun e l => .ok (f c e l)) hx hg rfl he ht
      refine ⟨t, h1, h2.trans ?_⟩
      congr 1
      unfold Lane.produce Lane.setFlags Lane.setReg Lane.past
      cases w <;> rfl
  · rename_i hg
    obtain ⟨t, h1, h2⟩ := producer_off (w := w) (d := d) (f := fun e l => .ok (f c e l)) hx (by simpa using hg) ht
    exact ⟨t, h1, h2⟩

theorem produces_of {i : Instr} {g : Guard} {w : Bool} {d : Fin 64} {f : Env → Lane → Word × Word}
    (h : ∀ s, exec i s = localUnit i s (producer g w d fun e l => .ok (f e l))) (ht : i.transfer = false) :
    Produces i g w d f := producesIn_of h ht

/-- A lane instruction that is no producer. -/
theorem changesIn_of {i : Instr} {g : Guard} {f : Ctx → Env → Lane → Lane}
    (h : ∀ s, exec i s = localUnit i s fun c => guarded g (fun e l => .go (f c e l)) c)
    (hw : ∀ c e (l : Lane), l.wait = .none → (f c e l).wait = .none) (ht : i.transfer = false) : ChangesIn i g f := by
  intro s c n l hx
  rw [h, localUnit_congr (b := fun c => guarded g (fun e l => .go (f c e l)) c)
    (b' := guarded g fun e l => .go (f c e l)) hx.inHand rfl]
  split
  · rename_i hg
    exact guarded_go hx hg rfl (hw _ _ _ (by simp)) ht
  · rename_i hg
    exact guarded_off hx (by simpa using hg) ht

theorem changes_of {i : Instr} {g : Guard} {f : Env → Lane → Lane}
    (h : ∀ s, exec i s = localUnit i s (guarded g fun e l => .go (f e l)))
    (hw : ∀ e (l : Lane), l.wait = .none → (f e l).wait = .none) (ht : i.transfer = false) : Changes i g f :=
  changesIn_of h (fun _ => hw) ht

/-- A transfer of control whose body jumps or falls through. -/
theorem transfers_of {i : Instr} {g : Guard} {f : Ctx → Env → Lane → Lane × Option Word}
    {b : Ctx → Nat → Lane → LaneEnd} (h : ∀ s, exec i s = localUnit i s b)
    (hb : ∀ c n (l : Lane), b c n l = if g.holds l then
      (match (f c (c.env n) l).2 with
        | some pc => .jump (f c (c.env n) l).1 pc
        | none => .go (f c (c.env n) l).1) else .go l)
    (hp : ∀ c e (l : Lane), (f c e l).1.pc = l.pc)
    (hw : ∀ c e (l : Lane), l.wait = .none → (f c e l).1.wait = .none) (ht : i.transfer = true) : Transfers i g f := by
  intro s c n l hx
  simp only
  rw [h]
  have hbn := hb c n (l.started i c)
  by_cases hg : g.holds (l.started i c) = true
  · simp only [hg, if_true] at hbn ⊢
    cases hr : (f c (c.env n) (l.started i c)).2 with
    | some pc =>
      rw [hr] at hbn
      exact localUnit_jump hx hbn (hw _ _ _ (by simp)) ht
    | none =>
      rw [hr] at hbn
      obtain ⟨t, h1, h2⟩ := localUnit_fall hx hbn (hw _ _ _ (by simp)) ht
      refine ⟨t, h1, h2.trans ?_⟩
      simp [Lane.past, hp]
  · simp only [hg, Bool.false_eq_true, if_false] at hbn ⊢
    exact localUnit_fall hx hbn (by simp) ht

/-- A scalar-destination instruction. -/
theorem setsScalar_of {i : Instr} {d : Fin 32} {f : Vector Word 32 → List Hint → Word} (h : ∀ s, exec i s = scalar i d f s)
    (he : i.engine = false) : SetsScalar i d f := by
  intro s c hx
  rw [h]
  unfold scalar
  have hg := context_group s c hx.inHand
  obtain ⟨t, h1, ⟨g', h2, h3, _⟩, h4⟩ := groupUnit_go (s1 := s.modGroup c.core c.gi fun g => { g with s := g.s.set d.val (f c.g.s c.hints) })
    (body := fun c s => .go (s.modGroup c.core c.gi fun g => { g with s := g.s.set d.val (f c.g.s c.hints) }) fun _ l => l)
    (f := fun _ l => l) (g := { c.g with s := c.g.s.set d.val (f c.g.s c.hints) }) hx rfl
    (by rw [State.group_modGroup, if_pos ⟨rfl, rfl⟩, hg]; rfl) hx.noRvz hx.noBar
  refine ⟨t, h1, ⟨g', h2, h3⟩, fun n hn l hl => ?_⟩
  rw [h4 n hn l hl (by simp)]
  unfold Lane.lastPast Lane.sidedBy
  rw [he]
  rfl

end Sys2Proof.Machine
end

