-- ==== Sys2Proof/Tests/Slice0.lean ====
section
/-!
SUPPORT. Tests on fixed values: terms that are not well formed are refused, words of the spec decode to their instructions,
single steps, and, for the hypotheses of each statement, a state and operands that meet them together.
-/
namespace Sys2Proof.Machine.Slice0

set_option Elab.async false

/-! ## Small states to test in -/

/-- A view (R98, R99): its space, type, rank, BASE, two extents and a stride, with all rights, valid. -/
def viewOf (space ty rank base : Nat) (e0 e1 s0 : Word) : View :=
  ⟨BitVec.ofNat 64 base, BitVec.ofNat 64 (space + 2 ^ 3 * rank + 2 ^ 6 * ty + 7 * 2 ^ 16 + 2 ^ 63), #v[e0, e1, 0, 0, 0],
    #v[s0, 0, 0, 0], 0, none⟩

/-- The view table with the views given at their numbers. -/
def viewTable (vs : List (Nat × View)) : Vector View 64 :=
  vs.foldl (fun (t : Vector View 64) x => t.setIfInBounds x.1 x.2) (Vector.replicate 64 View.zero)

/-- A team on core 0: one group of eight threads of a role, in front of word 0 of its code. -/
def teamOf (role : Nat) (vs : List (Nat × View)) (hs : List Handle) : Team :=
  { newTeam (placedRecord role) (viewTable vs) [] 0 0 with handles := hs }

/-- The team with its first group, or with lane 0 of that, changed. -/
def inGroup (f : Group → Group) (t : Team) : Team := { t with groups := modifyNth f 0 t.groups }
def inLane (f : Lane → Lane) (t : Team) : Team := inGroup (fun g => g.modLane 0 f) t

/-- Partition 0, which owns every sheaf of die 0, with a launch. -/
def partOf (r : LaunchBytes) : Part :=
  let l : Launch := ⟨r, .active, Vector.replicate 64 View.zero, [], [], [], [], [0], [], false, false⟩
  { newPart ⟨0, 0xFFFFFF, [], 0, [], 0, false, 1⟩ 0 0 with last := 1, consumed := 1, launches := [l] }

/-- The machine with the team, and a unit in hand for some lanes of its first group. -/
def unitOf (r : LaunchBytes) (t : Team) (lanes : List Nat) : State :=
  let place := match t.groups with
    | [] => ⟨false, 0⟩
    | g :: _ => g.place
  { State.reset with
    cores := [⟨0, some t, [], some 0, false⟩]
    parts := [partOf r]
    issue := some ⟨0, 0, lanes, place, 1, [], false⟩ }

/-- All eight lanes, and lane 0 alone, changed as given. -/
def eight : List Nat := [0, 1, 2, 3, 4, 5, 6, 7]
def whole (t : Team) : State := unitOf (placedRecord 2) t eight
def lone (f : Lane → Lane) (vs : List (Nat × View)) : State := unitOf (placedRecord 2) (inLane f (teamOf 2 vs [])) [0]

/-- The unit in hand with hint words before it (R56). -/
def hinted (hs : List Hint) (s : State) : State := { s with issue := s.issue.map fun u => { u with hints := hs, words := hs.length + 1 } }

/-- A lane in contained state at word 1 of a candidate of eight words (R104). -/
def boxed (l : Lane) : Lane :=
  { l with pc := 1, fuel := 100, inside := some ⟨1, 9, 0, [], 0, Vector.replicate 4 false, 0, 5, 0⟩ }

/-! ## What the hypotheses of the statements ask, as data -/

/-- The unit in hand is as `Issuing` asks, and has a further property. -/
def issuesIn (s : State) (p : Ctx → Bool) : Bool :=
  match s.context with
  | none => false
  | some c => decide c.lanes.Nodup && c.g.rvz.isNone && c.g.atNoBarrier && p c

theorem issuing_of {s : State} {p : Ctx → Prop} [DecidablePred p] (h : issuesIn s (fun c => decide (p c)) = true) :
    ∃ c, Issuing s c ∧ p c := by
  unfold issuesIn at h
  split at h
  · simp at h
  · rename_i c hc
    simp only [Bool.and_eq_true, decide_eq_true_eq, Option.isNone_iff_eq_none] at h
    obtain ⟨⟨⟨h1, h2⟩, h3⟩, h4⟩ := h
    exact ⟨c, ⟨hc, h1, h2, h3⟩, h4⟩

/-- Lane `n` is of the unit and passes its checks. -/
abbrev Passes (c : Ctx) (i : Instr) (n : Nat) : Prop :=
  n ∈ c.lanes ∧ n < c.g.lanes.length ∧ (({ c.g.lane n with wait := .none } : Lane).begin_ i c).2 = none

theorem executes_of_passes {s : State} {c : Ctx} {i : Instr} {n : Nat} (h : Issuing s c) (q : Passes c i n) :
    Executes s c i n (c.g.lane n) := by
  refine ⟨h, q.1, ?_, q.2.2⟩
  have := q.2.1
  simp [Group.lane, nth_eq, this]

theorem executes_of {s : State} {i : Instr} {n : Nat} {p : Ctx → Lane → Prop} [∀ c l, Decidable (p c l)]
    (h : issuesIn s (fun c => decide (Passes c i n ∧ p c (c.g.lane n))) = true) : ∃ c l, Executes s c i n l ∧ p c l := by
  obtain ⟨c, hc, hp, hq⟩ := issuing_of (p := fun c => Passes c i n ∧ p c (c.g.lane n)) h
  exact ⟨c, _, executes_of_passes hc hp, hq⟩

/-- Every lane of the unit passes. -/
theorem all_execute_of {s : State} {i : Instr} {p : Ctx → Prop} [DecidablePred p]
    (h : issuesIn s (fun c => decide ((∀ n ∈ c.lanes, Passes c i n) ∧ p c)) = true) :
    ∃ c, Issuing s c ∧ (∀ n ∈ c.lanes, Executes s c i n (c.g.lane n)) ∧ p c := by
  obtain ⟨c, hc, hp, hq⟩ := issuing_of (p := fun c => (∀ n ∈ c.lanes, Passes c i n) ∧ p c) h
  exact ⟨c, hc, fun n hn => executes_of_passes hc (hp n hn), hq⟩

/-- What `ExecutesOnce` asks beyond `Issuing`. -/
abbrev Once (c : Ctx) (i : Instr) : Prop :=
  (∀ n ∈ c.lanes, (({ c.g.lane n with wait := .none } : Lane).begin_ i c).2 = none) ∧ (i.needsFull = true → c.full = true) ∧
    (i.role = none ∨ i.role = some c.g.role)

theorem once_of {s : State} {i : Instr} {p : Ctx → Prop} [DecidablePred p]
    (h : issuesIn s (fun c => decide (Once c i ∧ p c)) = true) : ∃ c, ExecutesOnce s c i ∧ p c := by
  obtain ⟨c, hc, ⟨h1, h2, h3⟩, hq⟩ := issuing_of (p := fun c => Once c i ∧ p c) h
  refine ⟨c, ⟨hc, h1, h2, fun r hr => ?_⟩, hq⟩
  rcases h3 with h3 | h3 <;> rw [h3] at hr
  · simp at hr
  · exact (Option.some.inj hr).symm

/-- What `Ctx.Calm` asks, of lane 0. -/
abbrev Still (c : Ctx) : Prop := c.g.triggered = false ∧ 0 < c.g.lanes.length ∧ (c.g.lane 0).exited = false

theorem calm_of_still {c : Ctx} (h : Still c) : c.Calm := by
  refine ⟨h.1, 0, c.g.lane 0, ?_, h.2.2⟩
  have := h.2.1
  simp [Group.lane, nth_eq, this]

theorem calm_of {s : State} {i : Instr} {p : Ctx → Prop} [DecidablePred p]
    (h : issuesIn s (fun c => decide (Once c i ∧ Still c ∧ c.lanes ≠ [] ∧ p c)) = true) : ∃ c, ExecutesCalm s c i ∧ p c := by
  obtain ⟨c, hc, h1, h2, h3⟩ := once_of (p := fun c => Still c ∧ c.lanes ≠ [] ∧ p c) h
  exact ⟨c, ⟨hc, calm_of_still h1, h2⟩, h3⟩

/-- What `Accesses` asks beyond `Issuing`. -/
abbrev Reaches (s : State) (c : Ctx) (i : Instr) (g : Guard) (vw : Fin 64) : Prop :=
  Still c ∧ c.g.log = [] ∧ (∀ n ∈ c.lanes, Passes c i n) ∧ (c.view vw.val).sram = true ∧ (c.view vw.val).region = none ∧
    ∀ m ∈ c.lanes, g.holds (c.g.lane m) = true → c.maskOk (c.g.lane m) vw.val = true ∧
      ((s.placeOf c i vw m).any fun a => decide (a < 2 ^ 40) && s.firewall c.t.part a && !s.poisoned a (memBytes i) &&
        (s.strayAt a).isEmpty) = true

theorem accesses_of {s : State} {i : Instr} {g : Guard} {vw : Fin 64} {p : Ctx → Prop} [DecidablePred p]
    (h : issuesIn s (fun c => decide (Reaches s c i g vw ∧ p c)) = true) : ∃ c, Accesses s c i g vw ∧ p c := by
  obtain ⟨c, hc, ⟨h1, h2, h3, h4, h5, h6⟩, hq⟩ := issuing_of (p := fun c => Reaches s c i g vw ∧ p c) h
  refine ⟨c, ⟨hc, calm_of_still h1, h2, fun m hm => ⟨_, executes_of_passes hc (h3 m hm)⟩, h4, h5, fun m hm hg => ⟨(h6 m hm hg).1, ?_⟩⟩, hq⟩
  have h := (h6 m hm hg).2
  rw [Option.any_eq_true] at h
  obtain ⟨a, ha, hb⟩ := h
  simp only [Bool.and_eq_true, decide_eq_true_eq, Bool.not_eq_eq_eq_not, Bool.not_true] at hb
  exact ⟨a, ha, hb.1.1.1, hb.1.1.2, hb.1.2, List.isEmpty_iff.1 hb.2⟩

/-- The same of every instruction of a list, for lane 0. -/
theorem each_executes_of {s : State} {is : List Instr}
    (h : (is.all fun i => issuesIn s fun c => decide (Passes c i 0 ∧ True)) = true) : ∀ i ∈ is, ∃ c l, Executes s c i 0 l :=
  fun i hi => (executes_of (p := fun _ _ => True) (List.all_eq_true.1 h i hi)).imp fun _ h => h.imp fun _ h => h.1

/-- The same of units that execute once for their group, and neither end nor trigger it. -/
theorem each_calm_of {s : State} {is : List Instr}
    (h : (is.all fun i => issuesIn s fun c => decide (Once c i ∧ Still c ∧ c.lanes ≠ [] ∧ True)) = true) :
    ∀ i ∈ is, ∃ c, ExecutesCalm s c i :=
  fun i hi => (calm_of (p := fun _ => True) (List.all_eq_true.1 h i hi)).imp fun _ h => h.1

/-! ## Terms that are no instructions: one for each check of `Instr.wellFormed` -/

theorem test_wf_registers :
    (Instr.iaddi ⟨.always, false, 1, .zero, 5⟩).wellFormed = false ∧
    (Instr.add64 ⟨.always, 3, .v 2, .v 4⟩).wellFormed = false ∧ (Instr.add64 ⟨.always, 2, .v 3, .v 4⟩).wellFormed = false ∧
    (Instr.sub64 ⟨.always, 2, .v 2, .s 4⟩).wellFormed = false ∧ (Instr.mul64 ⟨.always, 2, .b 0, .v 4⟩).wellFormed = false ∧
    (Instr.shl64 ⟨.always, 1, .v 2, .v 4⟩).wellFormed = false ∧ (Instr.shl64 ⟨.always, 2, .v 1, .v 4⟩).wellFormed = false ∧
    (Instr.fread ⟨5, 1⟩).wellFormed = false ∧ (Instr.ffill ⟨5, 1⟩).wellFormed = false ∧
    (Instr.ffill ⟨62, 1⟩).wellFormed = false := by decide

theorem test_wf_memory :
    (Instr.ld ⟨.always, .w64, 7, 1, 1⟩).wellFormed = false ∧ (Instr.ld ⟨.always, .w32, 7, 1, 0x68⟩).wellFormed = false ∧
    (Instr.st ⟨.always, .w128, 6, 1, 1⟩).wellFormed = false ∧ (Instr.st ⟨.always, .w32, 6, 1, 0x6F⟩).wellFormed = false ∧
    (Instr.lda ⟨.always, .core, 6, 1, 0x68⟩).wellFormed = false ∧ (Instr.stl ⟨.always, .core, 6, 1, 0x68⟩).wellFormed = false ∧
    (Instr.atom ⟨.always, .add, 6, 1, 0x68⟩).wellFormed = false ∧ (Instr.atomx ⟨.always, .cas64, 6, 1, 1⟩).wellFormed = false ∧
    (Instr.atomx ⟨.always, .xchg, 6, 1, 0x68⟩).wellFormed = false ∧ (Instr.pld ⟨.always, false, 0, 6, 1, 0x6A⟩).wellFormed = false := by
  decide

theorem test_wf_others :
    (Instr.icmp ⟨.always, 1, .tst, .set, true, .v 2, .v 3⟩).wellFormed = false ∧
    (Instr.swrite ⟨.always, .fuel, .v 1⟩).wellFormed = false ∧ (Instr.swrite ⟨.off 1, .cmaskLo, .v 1⟩).wellFormed = false ∧
    (Instr.mbr ⟨0, ⟨false, 1⟩, ⟨false, 2⟩, ⟨false, 0⟩, ⟨false, 0⟩⟩).wellFormed = false ∧
    (Instr.mbr ⟨1, ⟨false, 1⟩, ⟨false, 2⟩, ⟨true, 0⟩, ⟨false, 0⟩⟩).wellFormed = false ∧
    (Instr.mbr ⟨2, ⟨false, 1⟩, ⟨false, 2⟩, ⟨true, 0⟩, ⟨false, 3⟩⟩).wellFormed = false ∧
    (Instr.hord ⟨.rel, .core, true⟩).wellFormed = false ∧
    (Instr.vqry ⟨29, 1, 0⟩).wellFormed = false ∧ (Instr.vqry ⟨4, 1, 4⟩).wellFormed = false ∧
    (Instr.mapr ⟨1, 31⟩).wellFormed = false ∧ (Instr.hbind ⟨1, 29⟩).wellFormed = false ∧
    (Instr.hqry ⟨29, .imm 1⟩).wellFormed = false := by decide

theorem test_wf_units :
    (Instr.mmag ⟨0, 255, 1, .p1, false, false⟩).wellFormed = false ∧ (Instr.mdrnl ⟨0, .bf16, 6⟩).wellFormed = false ∧
    (Instr.bcopy ⟨2, 25⟩).wellFormed = false ∧ (Instr.qpop ⟨57, 1⟩).wellFormed = false ∧
    (Instr.qspawn ⟨57, 1, none⟩).wellFormed = false ∧ (Instr.slotq ⟨29⟩).wellFormed = false ∧
    (Instr.featq ⟨29, 0⟩).wellFormed = false ∧ (Instr.featq ⟨4, 2⟩).wellFormed = false := by decide

/-! ## Words that the spec writes out beside their instructions -/

/-- spec/05, spec/03: the integer family. -/
theorem test_decode_integer :
    decodeWord 0x00310103 = some (.isubs ⟨.always, false, 4, .v 2, .v 3⟩) ∧
    decodeWord 0x08028104 = some (.add64 ⟨.always, 10, .v 2, .v 4⟩) ∧
    decodeWord 0x1011C082 = some (.udiv ⟨.always, false, 7, .v 1, .v 2⟩) ∧
    decodeWord 0x24014307 = some (.bfxz ⟨.always, false, 5, .v 6, .v 7⟩) ∧
    decodeWord 0x4002C878 = some (.movi ⟨.always, false, 2, 0x78⟩) := by decide

/-- spec/06: float, conversions and planes. -/
theorem test_decode_float :
    decodeWord 0x78010182 = some (.fsqrt ⟨.always, false, false, false, 4, .v 3⟩) ∧
    decodeWord 0x7C014213 = some (.cvtE4m3F32 ⟨.always, false, false, false, 5, .v 4, true⟩) ∧
    decodeWord 0x8400C082 = some (.bfadd2 ⟨.always, false, false, false, 3, .v 1, .v 2⟩) ∧
    decodeWord 0x8C01C301 = some (.plmax ⟨.always, false, 7, .v 6⟩) ∧
    decodeWord 0x8C01828D = some (.pldec ⟨.always, false, 6, .v 5, true, 1⟩) := by decide

/-- spec/09: the cohort family. -/
theorem test_decode_cohort :
    decodeWord 0x9C018282 = some (.vbal ⟨.always, 6, .v 5⟩) ∧ decodeWord 0x9C013887 = some (.ptov ⟨.always, 4, 1⟩) ∧
    decodeWord 0x9C008308 = some (.vtop ⟨.always, 2, .v 6⟩) ∧ decodeWord 0x9C00C3C5 = some (.readl ⟨3, 7, 5⟩) := by decide

/-- spec/05: control, special registers and candidates. -/
theorem test_decode_control :
    decodeWord 0xA8000801 = some (.callr ⟨.always, .v 16⟩) ∧ decodeWord 0xA8000002 = some (.ret ⟨.always⟩) ∧
    decodeWord 0xA8002303 = some (.rvz ⟨.always, .s 6⟩) ∧ decodeWord 0xA8002104 = some (.syncl ⟨.always, .s 2⟩) ∧
    decodeWord 0xAC250000 = some (.mbr ⟨1, ⟨false, 1⟩, ⟨false, 2⟩, ⟨false, 0⟩, ⟨false, 0⟩⟩) ∧
    decodeWord 0xB4000000 = some (.exit ⟨.always⟩) ∧ decodeWord 0xB8001000 = some (.sread ⟨.always, 4, .status⟩) ∧
    decodeWord 0xBC008084 = some (.center ⟨.always, 2, .v 1, .v 4⟩) ∧ decodeWord 0xBC100280 = some (.sigf ⟨.always, .v 5⟩) ∧
    decodeWord 0xBC300000 = some (.sigz ⟨.always⟩) := by decide

/-- spec/09: memory, views, fences, barriers and handles. -/
theorem test_decode_memory :
    decodeWord 0xC4528502 = some (.st ⟨.always, .w64, 10, 5, 1⟩) ∧ decodeWord 0xD0010602 = some (.atom ⟨.always, .add, 4, 6, 1⟩) ∧
    decodeWord 0xDC020C00 = some (.vdrop ⟨3⟩) ∧ decodeWord 0xDC035240 = some (.mapr ⟨20, 8⟩) ∧
    decodeWord 0xE0000002 = some (.fence ⟨.core⟩) ∧ decodeWord 0xE0010228 = some (.qfence ⟨.s 5⟩) ∧
    decodeWord 0xE0030380 = some (.barg ⟨.always, .imm 0⟩) ∧ decodeWord 0xE0050002 = some (.barc ⟨2⟩) ∧
    decodeWord 0xE00C33A0 = some (.hqry ⟨12, .imm 4⟩) := by decide

/-- spec/10, spec/14, spec/16, spec/17: the matrix array, copies, queues and the team's own; spec/02: hint words. -/
theorem test_decode_units :
    decodeWord 0xE8206070 = some (.mmag ⟨2, 6, 7, .p1, false, false⟩) ∧ decodeWord 0xEC002020 = some (.mdrnl ⟨0, .bf16, 2⟩) ∧
    decodeWord 0xEC00A054 = some (.padd ⟨0, 10, 4⟩) ∧ decodeWord 0xF0000A2C = some (.tilein ⟨0, 5, 5, 2, false⟩) ∧
    decodeWord 0xF410104E = some (.tileout ⟨8, 8, 9, 3, false⟩) ∧ decodeWord 0xF8000A80 = some (.bcopy ⟨2, 16⟩) ∧
    decodeWord 0xF8012050 = some (.qpop ⟨8, 10⟩) ∧ decodeWord 0xF8060000 = some .trig ∧
    decodeWord 0xF8071000 = some (.slotq ⟨4⟩) ∧ decodeWord 0xF8081001 = some (.featq ⟨4, 1⟩) ∧
    decodeWord 0xFC091A2B = some (.himm 0x091A2B) ∧ decodeWord 0xFE200000 = some (.hgath 1) := by decide

/-! ## Single steps of a placed instruction -/

/-- What lane 0 of the placed group satisfies after one step of an instruction word placed at the machine's reset. -/
def after (w : Nat) (p : Lane → Bool) : Bool :=
  match step (State.reset.withFetchWord 32 w) with
  | .next t => ((t.laneAt 0 0 0).map p).getD false
  | _ => false

/-- IADD v3, v1, 5 of zeros gives 5 and goes to word 1 (R116). -/
theorem test_step_iadd : after 0x0000C0F5 (fun l => l.v[3] == 5 && l.pc == 1 && l.latches == [5]) = true := by decide +kernel

/-- UDIV by zero gives all ones and sets DZ, bit 1 (R121). -/
theorem test_step_udiv : after 0x1011C082 (fun l => l.v[7] == 0xFFFFFFFF && l.status == 2) = true := by decide +kernel

/-- MOVI v2, 0x78 (R119). -/
theorem test_step_movi : after 0x4002C878 (fun l => l.v[2] == 0x78) = true := by decide +kernel

/-- FSQRT of +0 is +0 without a flag (R150). -/
theorem test_step_fsqrt : after 0x78010182 (fun l => l.v[4] == 0 && l.status == 0 && l.pc == 1) = true := by decide +kernel

/-- CALLR to word 0 pushes word 1 (R130). -/
theorem test_step_callr : after 0xA8000801 (fun l => l.stack == [1] && l.pc == 0) = true := by decide +kernel

/-- EXIT ends the thread (R134). -/
theorem test_step_exit : after 0xB4000000 (fun l => l.exited) = true := by decide +kernel

/-- A reserved word halts the group: no lane moves on (R70). -/
theorem test_step_reserved : after 0x00000068 (fun l => l.pc == 0 && !l.exited) = true := by decide +kernel

/-- LD through an invalid view is a view fault: the lane stands at it (R109). -/
theorem test_step_ld : after 0xC0420302 (fun l => l.pc == 0 && l.v[8] == 0) = true := by decide +kernel

/-! ## Witnesses: the lane and scalar instructions -/

/-- The hypotheses of `Produces`, `ProducesIn`, `Changes`, `ChangesIn` and `Transfers`: IntegerBinaryResults,
IntegerSaturation, IntegerFieldsAndImmediates, IntegerUnary, IntegerDivision, IntegerPairs, SelectCompareLogic. -/
theorem witness_integer : ∀ i ∈ ([.iadd ⟨.always, false, 3, .v 1, .imm 5⟩, .isub ⟨.on 1, true, 3, .v 1, .lane⟩,
    .iabsd ⟨.off 0, false, 63, .s 31, .ones⟩, .uavg ⟨.always, false, 3, .tid, .zero⟩, .imul ⟨.always, false, 3, .v 63, .v 0⟩,
    .imulhi ⟨.always, false, 3, .v 1, .v 2⟩, .umulhi ⟨.always, false, 3, .v 1, .v 2⟩, .and ⟨.always, false, 3, .v 1, .v 2⟩,
    .or ⟨.always, false, 3, .v 1, .v 2⟩, .xor ⟨.always, false, 3, .v 1, .v 2⟩, .andn ⟨.always, false, 3, .v 1, .v 2⟩,
    .shl ⟨.always, false, 3, .v 1, .v 2⟩, .shr ⟨.always, false, 3, .v 1, .v 2⟩, .sar ⟨.always, false, 3, .v 1, .v 2⟩,
    .rotl ⟨.always, false, 3, .v 1, .v 2⟩, .imin ⟨.always, false, 3, .v 1, .v 2⟩, .imax ⟨.always, false, 3, .v 1, .v 2⟩,
    .umin ⟨.always, false, 3, .v 1, .v 2⟩, .umax ⟨.always, false, 3, .v 1, .v 2⟩, .iadds ⟨.always, false, 3, .v 1, .v 2⟩,
    .isubs ⟨.always, false, 3, .v 1, .v 2⟩, .uadds ⟨.always, false, 3, .v 1, .v 2⟩, .usubs ⟨.always, false, 3, .v 1, .v 2⟩,
    .imad ⟨.always, false, 3, .v 1, .v 2⟩, .bfxz ⟨.always, false, 3, .v 1, .v 2⟩, .bfxs ⟨.always, false, 3, .v 1, .v 2⟩,
    .bfi ⟨.always, false, 3, .v 1, .v 2⟩, .fshl ⟨.always, false, 3, .v 1, .v 2⟩, .iaddi ⟨.always, false, 3, .v 1, 0x1FF⟩,
    .andi ⟨.always, false, 3, .v 1, 5⟩, .ori ⟨.always, false, 3, .v 1, 5⟩, .xori ⟨.always, false, 3, .v 1, 5⟩,
    .shli ⟨.always, false, 3, .v 1, 5⟩, .shri ⟨.always, false, 3, .v 1, 5⟩, .sari ⟨.always, false, 3, .v 1, 5⟩,
    .imuli ⟨.always, false, 3, .v 1, 5⟩, .movi ⟨.always, false, 3, 5⟩, .mov ⟨.always, false, 3, .v 1⟩, .not ⟨.always, false, 3, .v 1⟩,
    .neg ⟨.always, false, 3, .v 1⟩, .iabs ⟨.always, false, 3, .v 1⟩, .popc ⟨.always, false, 3, .v 1⟩, .clz ⟨.always, false, 3, .v 1⟩,
    .ctz ⟨.always, false, 3, .v 1⟩, .brev ⟨.always, false, 3, .v 1⟩, .bswap ⟨.always, false, 3, .v 1⟩, .sext8 ⟨.always, false, 3, .v 1⟩,
    .sext16 ⟨.always, false, 3, .v 1⟩, .zext8 ⟨.always, false, 3, .v 1⟩, .zext16 ⟨.always, false, 3, .v 1⟩,
    .idiv ⟨.always, false, 3, .v 1, .v 2⟩, .irem ⟨.always, false, 3, .v 1, .v 2⟩, .udiv ⟨.always, false, 3, .v 1, .v 2⟩,
    .urem ⟨.always, false, 3, .v 1, .v 2⟩, .add64 ⟨.always, 2, .v 4, .v 6⟩, .sub64 ⟨.always, 2, .v 4, .v 6⟩,
    .mul64 ⟨.always, 2, .v 4, .v 6⟩, .shl64 ⟨.always, 2, .v 4, .v 7⟩, .sel ⟨⟨true, 0⟩, false, 3, .v 1, .v 2⟩,
    .icmp ⟨.always, 1, .lt, .xor, true, .v 2, .v 3⟩, .plog ⟨.always, 1, .nand, .set, ⟨false, 0⟩, ⟨true, 3⟩⟩] : List Instr),
    ∃ c l, Executes (whole (teamOf 2 [] [])) c i 0 l :=
  each_executes_of (by decide +kernel)

/-- FloatResults, FloatToInteger, FloatCompare, PlaneElements, ShuffleResults and CohortResults. -/
theorem witness_float_and_cohort : ∀ i ∈ ([.fadd ⟨.always, false, true, true, 3, .v 1, .s 2⟩, .fsub ⟨.always, true, false, false, 3, .v 1, .v 2⟩,
    .fmul ⟨.on 0, false, false, false, 3, .v 1, .v 2⟩, .ffma ⟨.off 1, false, true, false, 8, .v 0, .s 4⟩,
    .fmin ⟨.always, false, false, false, 3, .v 1, .v 2⟩, .fmax ⟨.always, false, false, false, 3, .v 1, .v 2⟩,
    .bfadd2 ⟨.always, false, false, false, 3, .v 1, .v 2⟩, .bfmul2 ⟨.always, false, false, false, 3, .v 1, .v 2⟩,
    .bfma2 ⟨.always, false, false, false, 3, .v 1, .v 2⟩, .fabs ⟨.always, false, false, false, 3, .v 1⟩,
    .fneg ⟨.always, false, false, false, 3, .v 1⟩, .fsqrt ⟨.always, false, false, false, 3, .v 1⟩,
    .frcp ⟨.always, false, false, false, 3, .v 1⟩, .frsq ⟨.always, false, false, false, 3, .v 1⟩,
    .fexp2 ⟨.always, false, false, false, 3, .v 1⟩, .flog2 ⟨.always, false, false, false, 3, .v 1⟩,
    .ffloor ⟨.always, false, false, false, 3, .v 1⟩, .fceil ⟨.always, false, false, false, 3, .v 1⟩,
    .ftrunc ⟨.always, false, false, false, 3, .v 1⟩, .frint ⟨.always, false, false, false, 3, .v 1⟩,
    .fclass ⟨.always, false, false, false, 3, .v 1⟩, .cvtF32S32 ⟨.always, false, false, false, 3, .v 1⟩,
    .cvtF32N32 ⟨.always, false, false, false, 3, .v 1⟩, .cvtBf16F32 ⟨.always, false, false, false, 3, .v 1⟩,
    .cvtF32Bf16 ⟨.always, false, false, false, 3, .v 1⟩, .cvtF32E4m3 ⟨.always, false, false, false, 3, .v 1⟩,
    .cvtF32E5m2 ⟨.always, false, false, false, 3, .v 1⟩, .cvtE4m3E2m1 ⟨.always, false, false, false, 3, .v 1⟩,
    .cvtE4m3E3m2 ⟨.always, false, false, false, 3, .v 1⟩, .cvtE4m3E2m3 ⟨.always, false, false, false, 3, .v 1⟩,
    .cvtE4m3I4 ⟨.always, false, false, false, 3, .v 1⟩, .cvtE4m3F32 ⟨.always, false, false, false, 3, .v 1, true⟩,
    .cvtE5m2F32 ⟨.always, false, false, false, 3, .v 1, false⟩, .cvtS32F32 ⟨.always, false, false, false, 3, .v 1, .rn⟩,
    .cvtN32F32 ⟨.always, false, false, false, 3, .v 1, .ru⟩, .fcmp ⟨.always, 1, .un, .set, true, false, .v 2, .v 3⟩,
    .plmax ⟨.always, false, 7, .v 6⟩, .plenc ⟨.always, false, 7, .v 6⟩, .pldec ⟨.always, false, 6, .v 5, true, 3⟩,
    .shfli ⟨.always, false, 3, .v 1, .v 2⟩, .shflu ⟨.always, false, 3, .v 1, .imm 1⟩, .shfld ⟨.always, false, 3, .v 1, .imm 1⟩,
    .shflx ⟨.always, false, 3, .v 1, .imm 1⟩, .vany ⟨.always, 3, .v 1⟩, .vall ⟨.always, 3, .v 1⟩, .vbal ⟨.always, 3, .v 1⟩,
    .redadd ⟨.always, 3, .v 1⟩, .redmin ⟨.always, 3, .v 1⟩, .redmax ⟨.always, 3, .v 1⟩, .redfadd ⟨.always, 3, .v 1⟩,
    .ptov ⟨.always, 4, 1⟩, .vtop ⟨.always, 2, .v 6⟩, .bra ⟨.always, 5⟩, .dbnz ⟨.always, 7, 5⟩, .nop ⟨.always⟩, .sread ⟨.always, 4, .timeLo⟩, .sread ⟨.on 2, 4, .cmaskHi⟩,
    .swrite ⟨.always, .sig1hi, .v 1⟩, .sigf ⟨.always, .v 5⟩, .sigz ⟨.always⟩] : List Instr),
    ∃ c l, Executes (whole (teamOf 2 [] [])) c i 0 l :=
  each_executes_of (by decide +kernel)

/-- ScalarResults, ViewInstructions (VQRY), TeamQueries (SLOTQ, FEATQ) and LaneAndScalarFrame. -/
theorem witness_scalars : ∀ i ∈ ([.sadd ⟨5, .s 4, .imm 3⟩, .ssub ⟨5, .s 4, .imm 3⟩, .smul ⟨5, .s 4, .imm 3⟩, .smin ⟨5, .s 4, .imm 3⟩,
    .sand ⟨5, .s 4, .imm 3⟩, .sor ⟨5, .s 4, .imm 3⟩, .sxor ⟨5, .s 4, .imm 3⟩, .sshl ⟨5, .s 4, .imm 3⟩, .smov ⟨5, .s 4⟩,
    .snot ⟨5, .s 4⟩, .sneg ⟨5, .s 4⟩, .spopc ⟨5, .s 4⟩, .sclz ⟨5, .s 4⟩, .sshr ⟨5, .s 4, 31⟩, .saddi ⟨5, .s 4, 0x1FF⟩,
    .readl ⟨3, 7, 7⟩, .vqry ⟨28, 63, 3⟩, .slotq ⟨28⟩, .featq ⟨28, 1⟩, .featq ⟨0, 0⟩] : List Instr),
    ∃ c, ExecutesCalm (whole (teamOf 2 [] [])) c i :=
  each_calm_of (by decide +kernel)

/-- FloatSpecialValues: the smallest and a quiet NaN, the smallest and the largest subnormal. -/
theorem witness_float_special :
    let nan := fun a => 0x7F800000 < a % 2 ^ 31
    let sub := fun a => 0 < a % 2 ^ 31 ∧ a % 2 ^ 31 < 0x00800000
    (0x7F800001 < 2 ^ 32 ∧ nan 0x7F800001) ∧ (0xFFC00000 < 2 ^ 32 ∧ nan 0xFFC00000) ∧ (¬ nan 0x7F800000 ∧ ¬ sub 0x7F800000) ∧
      sub 1 ∧ sub 0x807FFFFF ∧ 0x807FFFFF < 2 ^ 32 := by decide

/-- FloatRounding: 2 ^ 24 + 1 lies between two neighbours of the format, and goes to the even one. -/
theorem witness_float_rounding :
    valOf fmtF32 (roundTo fmtF32 false (.fin false (2 ^ 24 + 1) 0)).1 = .fin false (2 ^ 23) 1 ∧
    valOf fmtF32 0x4B800001 = .fin false (2 ^ 23 + 1) 1 ∧
    |(2 ^ 23 : Rat) * (2 : Rat) ^ (1 : Int) - (2 ^ 24 + 1)| = |((2 ^ 23 + 1 : Nat) : Rat) * (2 : Rat) ^ (1 : Int) - (2 ^ 24 + 1)| := by
  refine ⟨by decide +kernel, by decide +kernel, ?_⟩
  norm_num

/-- CohortResults: two present children, and one. -/
theorem witness_tree :
    (treeSum (fun _ => some 0x3F800000) 0 0).1 = some 0x3F800000 ∧ (treeSum (fun _ => some 0x3F800000) 0 (0 + 2 ^ 0)).1 = some 0x3F800000 ∧
    (treeSum (fun q => if q = 0 then some 0 else none) 0 (0 + 2 ^ 0)).1 = none ∧
    (treeSum (fun q => if q = 1 then some 0 else none) 0 0).1 = none := by decide

/-! ## Witnesses: control, special registers and candidates -/

/-- BranchesAndCalls: MBR behind its hint word. -/
theorem witness_mbr : ∃ c l, Executes (hinted [.bt ⟨5, 0x7FF⟩] (whole (teamOf 2 [] []))) c
    (.mbr ⟨1, ⟨false, 1⟩, ⟨true, 2⟩, ⟨false, 0⟩, ⟨false, 0⟩⟩) 0 l ∧ True := executes_of (by decide +kernel)

/-- A contained lane whose register 3 holds word 9, just outside its candidate, or word 8, its last. -/
def boxedAt (a : Word) : State := lone (fun l => boxed { l with v := l.v.set 3 a }) []

/-- BranchesAndCalls: JMPR and CALLR of a contained lane outside its candidate. -/
theorem witness_jump_outside : ∀ i ∈ ([.jmpr ⟨.always, .v 3⟩, .callr ⟨.always, .v 3⟩] : List Instr),
    ∃ c l, Executes (boxedAt 9) c i 0 l ∧ ∃ k, (l.started i c).inside = some k ∧
      ((readSrc (c.env 0) (l.started i c) (.v 3)).toNat < k.entry ∨ k.limit ≤ (readSrc (c.env 0) (l.started i c) (.v 3)).toNat) := by
  have h : (([.jmpr ⟨.always, .v 3⟩, .callr ⟨.always, .v 3⟩] : List Instr).all fun i => issuesIn (boxedAt 9) fun c =>
      decide (Passes c i 0 ∧ ((c.g.lane 0).started i c).inside.any (fun k => decide ((readSrc (c.env 0) ((c.g.lane 0).started i c) (.v 3)).toNat < k.entry
        ∨ k.limit ≤ (readSrc (c.env 0) ((c.g.lane 0).started i c) (.v 3)).toNat)) = true)) = true := by decide +kernel
  intro i hi
  obtain ⟨c, l, h1, h2⟩ := executes_of (p := fun c l => (l.started i c).inside.any (fun k => decide
    ((readSrc (c.env 0) (l.started i c) (.v 3)).toNat < k.entry ∨ k.limit ≤ (readSrc (c.env 0) (l.started i c) (.v 3)).toNat)) = true)
    (List.all_eq_true.1 h i hi)
  rw [Option.any_eq_true] at h2
  obtain ⟨k, hk, h3⟩ := h2
  exact ⟨c, l, h1, k, hk, of_decide_eq_true h3⟩

/-- BranchesAndCalls: the last word of the candidate, with room in the stack and without. -/
theorem witness_call_inside :
    (∃ c l, Executes (boxedAt 8) c (.callr ⟨.always, .v 3⟩) 0 l ∧ (l.started (.callr ⟨.always, .v 3⟩) c).stack.length < 4 ∧
      (l.started (.callr ⟨.always, .v 3⟩) c).inside.all (fun k => decide (k.entry ≤ 8 ∧ 8 < k.limit)) = true) ∧
    (∃ c l, Executes (lone (fun l => boxed { l with stack := [1, 2, 3] }) []) c (.call ⟨.always, 1⟩) 0 l ∧
      (l.started (.call ⟨.always, 1⟩) c).stack.length = 3) ∧
    (∃ c l, Executes (lone (fun l => boxed { l with stack := [1, 2, 3, 4] }) []) c (.call ⟨.always, 1⟩) 0 l ∧
      ¬ (l.started (.call ⟨.always, 1⟩) c).stack.length < 4 ∧ (l.started (.call ⟨.always, 1⟩) c).inside.isSome = true) ∧
    (∃ c l, Executes (lone (fun l => boxed { l with stack := [1, 2, 3, 4] }) []) c (.callr ⟨.always, .imm 8⟩) 0 l ∧
      ¬ (l.started (.callr ⟨.always, .imm 8⟩) c).stack.length < 4 ∧ (l.started (.callr ⟨.always, .imm 8⟩) c).inside.isSome = true) :=
  ⟨executes_of (by decide +kernel), executes_of (by decide +kernel), executes_of (by decide +kernel), executes_of (by decide +kernel)⟩

/-- BranchesAndCalls: RET with one entry and with none, and the guard false. -/
theorem witness_ret :
    (∃ c l, Executes (lone (fun l => { l with stack := [7] }) []) c (.ret ⟨.always⟩) 0 l ∧
      (l.started (.ret ⟨.always⟩) c).stack = [] ++ [7]) ∧
    (∃ c l, Executes (lone boxed []) c (.ret ⟨.always⟩) 0 l ∧ (l.started (.ret ⟨.always⟩) c).stack = [] ∧
      (l.started (.ret ⟨.always⟩) c).inside.isSome = true) ∧
    (∃ c l, Executes (lone id []) c (.ret ⟨.on 2⟩) 0 l ∧ Guard.holds (.on 2) (l.started (.ret ⟨.on 2⟩) c) = false) :=
  ⟨executes_of (by decide +kernel), executes_of (by decide +kernel), executes_of (by decide +kernel)⟩

/-- ExitNopYield: EXIT of a contained lane, of one in ordinary state, and with a false guard. -/
theorem witness_exit :
    (∃ c l, Executes (lone boxed []) c (.exit ⟨.always⟩) 0 l ∧ (l.started (.exit ⟨.always⟩) c).inside.isSome = true) ∧
    (∃ c l, Executes (lone id []) c (.exit ⟨.always⟩) 0 l ∧ (l.started (.exit ⟨.always⟩) c).inside = none ∧ l.task.hold = false ∧
      ∀ k ∈ (lone id []).clusters, ∀ r ∈ k.recs, ∀ w ∈ r.waiters, w.core = c.core → w.group = c.gi → w.lane ∉ c.lanes) ∧
    (∃ c l, Executes (lone id []) c (.exit ⟨.on 0⟩) 0 l ∧ Guard.holds (.on 0) (l.started (.exit ⟨.on 0⟩) c) = false) :=
  ⟨executes_of (by decide +kernel), executes_of (by decide +kernel), executes_of (by decide +kernel)⟩

/-- ExitNopYield: a YIELD of a whole group to another of its segment that is ready. -/
theorem witness_yield :
    let t := teamOf 2 [] []
    let s := { (whole { t with groups := t.groups ++ t.groups }) with cores := [⟨0, some { t with groups := t.groups ++ t.groups }, [placedLine 0], some 0, false⟩] }
    ∃ c, Issuing s c ∧ (∀ n ∈ c.lanes, Executes s c (.yield ⟨.always⟩) n (c.g.lane n)) ∧ c.g.halts = [] ∧ c.full = true ∧
      (∃ n ∈ c.lanes, Guard.always.holds (c.g.lane n) = true) ∧ s.yieldsTo c.core c.gi ≠ [] := all_execute_of (by decide +kernel)

/-- TrapAndBreakpoint. -/
theorem witness_trap :
    (∃ c, Issuing (whole (teamOf 2 [] [])) c ∧ (∀ n ∈ c.lanes, Executes (whole (teamOf 2 [] [])) c (.trap ⟨.off 0, .v 3, 7⟩) n (c.g.lane n)) ∧
      (∀ n ∈ c.lanes, (c.g.lane n).inside = none) ∧ (c.lanes.filter fun m => Guard.holds (.off 0) (c.g.lane m)) = 0 :: [1, 2, 3, 4, 5, 6, 7]) ∧
    (∃ c, Issuing (whole (teamOf 2 [] [])) c ∧ (∀ n ∈ c.lanes, Executes (whole (teamOf 2 [] [])) c (.brk ⟨.always⟩) n (c.g.lane n)) ∧
      (∀ n ∈ c.lanes, (c.g.lane n).inside = none) ∧ (c.lanes.filter fun m => Guard.always.holds (c.g.lane m)) ≠ []) :=
  ⟨all_execute_of (by decide +kernel), all_execute_of (by decide +kernel)⟩

/-- What RendezvousAndLaneSync asks of the lanes of an RVZ. -/
abbrev Standing (c : Ctx) : Prop :=
  (∀ m ∈ c.lanes, m < c.g.lanes.length ∧ (c.g.lane m).exited = false ∧ (c.g.lane m).place = c.place ∧ (c.g.lane m).excused = false) ∧
    c.g.wait = .none ∧ c.lanes.head? = some 0

/-- RendezvousAndLaneSync: no lane asks, bound 0, the whole group, and a part of it while lane 7 is elsewhere. -/
theorem witness_rvz :
    (∃ c, ExecutesOnce (whole (teamOf 2 [] [])) c (.rvz ⟨.on 0, .imm 9⟩) ∧ Standing c ∧
      c.lanes.filter (fun m => Guard.holds (.on 0) (c.g.lane m)) = []) ∧
    (∃ c, ExecutesOnce (whole (teamOf 2 [] [])) c (.rvz ⟨.always, .v 3⟩) ∧ Standing c ∧ readSrc (c.env 0) (c.g.lane 0) (.v 3) = 0) ∧
    (∃ c, ExecutesOnce (whole (teamOf 2 [] [])) c (.rvz ⟨.always, .imm 9⟩) ∧ Standing c ∧ (∀ n, n < 8 → n ∈ c.lanes) ∧
      readSrc (c.env 0) (c.g.lane 0) (.imm 9) ≠ 0) ∧
    (∃ c, ExecutesOnce (unitOf (placedRecord 2) (inGroup (fun g => g.modLane 7 fun l => { l with pc := 5 }) (teamOf 2 [] [])) [0, 1]) c
        (.rvz ⟨.always, .imm 9⟩) ∧ Standing c ∧ 7 < c.g.lanes.length ∧ (c.g.lane 7).exited = false ∧ 7 ∉ c.lanes ∧
      (c.g.lane 7).place ≠ c.place ∧ (c.g.lane 7).excused = false ∧ (c.g.lane 7).wait = .none) :=
  ⟨once_of (by decide +kernel), once_of (by decide +kernel), once_of (by decide +kernel), once_of (by decide +kernel)⟩

/-- RendezvousAndLaneSync: SYNCL for the lane itself and for another, and with a false guard. -/
theorem witness_syncl :
    (∃ c l, Executes (lone (fun l => { l with v := l.v.set 3 1 }) []) c (.syncl ⟨.always, .v 3⟩) 0 l ∧
      (lone (fun l => { l with v := l.v.set 3 1 }) []).logged c.core c.gi 0 = false ∧
      ∀ k, k < 32 → (readSrc (c.env 0) (l.started (.syncl ⟨.always, .v 3⟩) c) (.v 3)).toNat.testBit k = true → k = 0 % 32) ∧
    (∃ c l, Executes (lone id []) c (.syncl ⟨.always, .imm 2⟩) 0 l ∧ (lone id []).logged c.core c.gi 0 = false) ∧
    (∃ c l, Executes (lone id []) c (.syncl ⟨.on 1, .imm 2⟩) 0 l ∧ Guard.holds (.on 1) (l.started (.syncl ⟨.on 1, .imm 2⟩) c) = false) :=
  ⟨executes_of (by decide +kernel), executes_of (by decide +kernel), executes_of (by decide +kernel)⟩

/-- SpecialRegisters: a write of a half of the candidate mask by a whole group. -/
theorem witness_cmask :
    (∃ c, ExecutesOnce (whole (teamOf 2 [] [])) c (.swrite ⟨.always, .cmaskLo, .v 1⟩) ∧ c.lanes = 0 :: [1, 2, 3, 4, 5, 6, 7]) ∧
    (∃ c, ExecutesOnce (whole (teamOf 2 [] [])) c (.swrite ⟨.always, .cmaskHi, .v 1⟩) ∧ c.lanes = 0 :: [1, 2, 3, 4, 5, 6, 7]) :=
  ⟨once_of (by decide +kernel), once_of (by decide +kernel)⟩

/-- A winnow view of 16 buckets in vault 3 (R143). -/
def winnow : View := viewOf 2 0x10 1 (3 * 2 ^ 32) 16 0 0

/-- Candidates: SIGC of a lane with a signature, where the bucket holds it in its last slot, is empty, or is full. -/
def sigcIn (m : Memory) : State := { lone (fun l => { l with h0 := 0x21, h1 := 7 }) [(0, winnow)] with mem := m }

theorem witness_sigc :
    ∀ m ∈ ([[], [(vaultAt 0 3 0x70, 0x21), (vaultAt 0 3 0x78, 7)],
      [(vaultAt 0 3 0x40, 1), (vaultAt 0 3 0x50, 1), (vaultAt 0 3 0x60, 1), (vaultAt 0 3 0x70, 1)]] : List Memory),
    ∃ c l, Executes (sigcIn m) c (.sigc ⟨.always, 4⟩) 0 l ∧ c.lanes = [0] ∧ Guard.always.holds l = true ∧ (sigcIn m).mem.wf = true ∧
      (c.view (recWinnow c.r)).winnowOk = true ∧
      (sigcIn m).sramAt c.core c.t (c.view (recWinnow c.r)) (64 * (l.h0.toNat % (c.view (recWinnow c.r)).extN 0)) = some (vaultAt 0 3 0x40) ∧
      vaultAt 0 3 0x40 < 2 ^ 40 ∧ (sigcIn m).firewall c.t.part (vaultAt 0 3 0x40) = true ∧ (sigcIn m).poisoned (vaultAt 0 3 0x40) 64 = false ∧
      c.g.triggered = false ∧ l.exited = false := by
  intro m hm
  simp only [List.mem_cons, List.not_mem_nil, or_false] at hm
  rcases hm with rfl | rfl | rfl <;> exact executes_of (by decide +kernel)

/-- A launch whose lanes may enter contained state (R319). -/
def containing : LaunchBytes := placedRecord 2 ||| BitVec.ofNat 1024 (2 ^ 73)

/-- Partition 0 with one range of 1 MiB of tier 1 DRAM from intermediate address 0, its tables at 0x10000: one leaf maps the
virtual addresses below 128 MiB to the same (R301, R302). -/
def mapped (m : Memory) (s : State) : State :=
  let range : RangeEntry := BitVec.ofNat 128 (2 ^ 124 + 7 * 2 ^ 121 + 15 * 2 ^ 64)
  { s with
    parts := s.parts.map fun p => { p with root := 0x10000, ranges := range :: p.ranges.drop 1 }
    mem := m ++ [(tier1At 0x10000, 0x01), (tier1At 0x10001, 0x10), (tier1At 0x10002, 0x01), (tier1At 0x11000, 0x1F)]
    phase := .running
    ready1 := BitVec.ofNat 64 (2 ^ 48 - 1) }

/-- A bank view of two slots at virtual address 0 (R141). -/
def bank : View := viewOf 6 0x11 1 0 32 0 0

/-- Candidates: CENTER of a slot of the bank with a legal and an illegal length word, and of a slot beyond it. -/
def centerIn (m : Memory) (slot : Word) : State :=
  mapped m (unitOf containing (inLane (fun l => { l with v := l.v.set 1 slot }) { newTeam containing (viewTable [(0, bank)]) [] 0 0 with handles := [] }) [0])

theorem witness_center_beyond :
    ∃ c l, Executes (centerIn [] 2) c (.center ⟨.always, 2, .v 1, .v 4⟩) 0 l ∧ c.lanes = [0] ∧ Guard.always.holds l = true ∧
      recContain c.r = true ∧ 64 ≤ c.g.nregs ∧ (c.view (recBank c.r)).bankOk = true ∧ (c.view (recBank c.r)).stook = false ∧
      (c.view (recBank c.r)).extN 0 ≤ 16 * (readSrc (c.env 0) (l.started (.center ⟨.always, 2, .v 1, .v 4⟩) c) (.v 1)).toNat + 15 :=
  executes_of (by decide +kernel)

theorem witness_center : ∀ m ∈ ([[(tier1At 64, 15)], [(tier1At 64, 16)], []] : List Memory),
    ∃ c l, Executes (centerIn m 1) c (.center ⟨.always, 2, .v 1, .v 4⟩) 0 l ∧ c.lanes = [0] ∧ Guard.always.holds l = true ∧
      recContain c.r = true ∧ 64 ≤ c.g.nregs ∧ (c.view (recBank c.r)).bankOk = true ∧ (c.view (recBank c.r)).stook = false ∧
      ¬ (c.view (recBank c.r)).extN 0 ≤ 16 * (readSrc (c.env 0) (l.started (.center ⟨.always, 2, .v 1, .v 4⟩) c) (.v 1)).toNat + 15 ∧
      ((centerIn m 1).part c.t.part).map (fun p => walk (centerIn m 1) p false ((c.view (recBank c.r)).offset + 64) 1)
        = some (.ok (tier1At 64) 7 7 false) ∧
      (centerIn m 1).mayBegin (tier1At 64) = true ∧ (centerIn m 1).poisoned (tier1At 64) 4 = false := by
  intro m hm
  simp only [List.mem_cons, List.not_mem_nil, or_false] at hm
  rcases hm with rfl | rfl | rfl <;> exact executes_of (by decide +kernel)

/-! ## Witnesses: memory -/

/-- HintWords: any unit in hand. -/
theorem witness_hint : (whole (teamOf 2 [] [])).issue = some ⟨0, 0, eight, ⟨false, 0⟩, 1, [], false⟩ := by decide +kernel

/-- A view of 64 words in the scratchpad from byte 64 on, and one of a future's cells; coordinate code 0x04 is register 4. -/
def pad : View := viewOf 0 0x02 1 64 64 0 0
def bytesView : View := viewOf 0 0x00 1 64 256 0 0

/-- A whole group whose view 1 is the pad. -/
def padded : State := whole (teamOf 2 [(1, pad), (2, bytesView), (3, winnow)] [])

/-- LoadsAndStores, OrderedAccesses, Atomics. -/
theorem witness_accesses :
    (∃ c, Accesses padded c (.ld ⟨.always, .w32, 8, 1, 4⟩) .always 1 ∧ ordOf c.hints = none) ∧
    (∃ c, Accesses padded c (.ld ⟨.off 0, .w128, 8, 2, 4⟩) (.off 0) 2 ∧ ordOf c.hints = none) ∧
    (∃ c, Accesses padded c (.ld ⟨.always, .s8, 8, 2, 0x70⟩) .always 2 ∧ ordOf c.hints = none) ∧
    (∃ c, Accesses padded c (.st ⟨.always, .w64, 8, 2, 4⟩) .always 2 ∧ ordOf c.hints = none) ∧
    (∃ c, Accesses padded c (.lda ⟨.always, .cluster, 8, 1, 4⟩) .always 1 ∧ Scope.cluster.code < 5 ∧ ∀ o, ordOf c.hints = some o → o.rem = false) ∧
    (∃ c, Accesses padded c (.stl ⟨.always, .lane, 8, 1, 4⟩) .always 1 ∧ Scope.lane.code < 5) := by
  refine ⟨accesses_of (by decide +kernel), accesses_of (by decide +kernel), accesses_of (by decide +kernel), accesses_of (by decide +kernel), ?_,
    accesses_of (by decide +kernel)⟩
  obtain ⟨c, h1, h2⟩ := accesses_of (s := padded) (i := .lda ⟨.always, .cluster, 8, 1, 4⟩) (g := .always) (vw := 1)
    (p := fun c => ordOf c.hints = none) (by decide +kernel)
  exact ⟨c, h1, by decide, fun o ho => by simp [h2] at ho⟩

theorem witness_atomics :
    (∀ op ∈ ([.add, .min, .max, .umin, .umax, .and, .or, .xor] : List AtomOp),
      ∃ c, Accesses padded c (.atom ⟨.always, op, 8, 1, 4⟩) .always 1 ∧ ordOf c.hints = none) ∧
    (∀ op ∈ ([.xchg, .cas, .fadd, .bfadd2, .add64, .xchg64, .cas64] : List AtomXOp),
      ∃ c, Accesses padded c (.atomx ⟨.on 0, op, 8, 2, 4⟩) (.on 0) 2 ∧ ordOf c.hints = none) := by
  refine ⟨fun op h => ?_, fun op h => ?_⟩ <;> simp only [List.mem_cons, List.not_mem_nil, or_false] at h
  · rcases h with rfl | rfl | rfl | rfl | rfl | rfl | rfl | rfl <;> exact accesses_of (by decide +kernel)
  · rcases h with rfl | rfl | rfl | rfl | rfl | rfl | rfl <;> exact accesses_of (by decide +kernel)

/-- A planed view of two blocks in the scratchpad (R103). -/
def planes : View := { viewOf 0 0x0D 1 0 32 0 0 with flags := BitVec.ofNat 64 (8 + 2 ^ 6 * 0x0D + 15 * 2 ^ 16 + 2 ^ 63) }

/-- PlaneLoad: the group reads element 4 of the first block. -/
theorem witness_plane_load :
    let s := whole (teamOf 2 [(1, planes)] [])
    let i : Instr := .pld ⟨.always, true, 3, 8, 1, 0x74⟩
    ∃ c, Issuing s c ∧ (∀ n ∈ c.lanes, Executes s c i n (c.g.lane n)) ∧ Still c ∧ c.g.log = [] ∧ ordOf c.hints = none ∧
      (c.view 1).valid = true ∧ (c.view 1).planed = true ∧ (c.view 1).stook = false ∧ (c.view 1).hasR = true ∧ (c.view 1).sram = true ∧
      ∀ m ∈ c.lanes, c.maskOk (c.g.lane m) 1 = true ∧ (c.view 1).inExtent (c.coordsOf i m) = true ∧
        ((s.sramAt c.core c.t (c.view 1) ((c.view 1).lineAt (c.coordsOf i m))).any fun a => s.firewall c.t.part a && !s.poisoned a 64 &&
          (s.strayAt a).isEmpty) = true :=
  all_execute_of (by decide +kernel)

/-- A DEVICE view of a page, bound to a region of two slots at the start of the scratchpad (R293). -/
def region (k : Slot) : Region := ⟨0, false, 0, 0, [k, ⟨.invalid, 0, none, none⟩], 1, 3, 0, []⟩
def device : View := { viewOf 3 0x02 1 0 1024 0 0 with region := some 0 }
def bound (k : Slot) : State :=
  unitOf (placedRecord 2) { teamOf 2 [(1, device), (2, viewOf 3 0x02 1 0 1024 0 0)] [] with regions := [region k] } [0]

/-- LoadsAndStores: the first and the last word of a bound region's storage, through a view of the scratchpad. -/
theorem witness_stray : ∀ i ∈ ([.ld ⟨.always, .w32, 8, 3, 0x70⟩, .st ⟨.always, .w32, 8, 4, 0x70⟩] : List Instr),
    let s := unitOf (placedRecord 2) { teamOf 2 [(1, device), (3, viewOf 0 0x02 1 0 1 0 0), (4, viewOf 0 0x02 1 9212 1 0 0)] [] with
      regions := [region ⟨.clean, 0, none, none⟩] } [0]
    let vw : Fin 64 := if i = .ld ⟨.always, .w32, 8, 3, 0x70⟩ then 3 else 4
    ∃ c l, Executes s c i 0 l ∧ c.lanes = [0] ∧ Still c ∧ c.g.log = [] ∧ ordOf c.hints = none ∧ c.maskOk l vw.val = true ∧
      (c.view vw.val).sram = true ∧ (c.view vw.val).region = none ∧ s.mem.wf = true ∧
      ((s.placeOf c i vw 0).any fun a => decide (a < 2 ^ 40) && s.firewall c.t.part a && !s.poisoned a (memBytes i) &&
        !(s.strayAt a).isEmpty) = true := by
  intro i hi
  simp only [List.mem_cons, List.not_mem_nil, or_false] at hi
  rcases hi with rfl | rfl <;> exact executes_of (by decide +kernel)

/-- MappedAccess: the page in a clean slot, in a dirty one, and not there. -/
theorem witness_mapped : ∀ i ∈ ([.ld ⟨.always, .w32, 8, 1, 4⟩, .st ⟨.always, .w128, 8, 1, 0x74⟩] : List Instr),
    ∀ k ∈ ([⟨.clean, 0, none, none⟩, ⟨.dirty, 0, none, none⟩, ⟨.invalid, 0, none, none⟩, ⟨.clean, 2, none, none⟩] : List Slot),
    ∃ c l, Executes (bound k) c i 0 l ∧ c.lanes = [0] ∧ Still c ∧ c.g.log = [] ∧ ordOf c.hints = none ∧ c.maskOk l 1 = true ∧
      (bound k).mem.wf = true ∧ (bound k).cutDies = [] ∧ (c.view 1).translated = true ∧ (c.view 1).region = some 0 ∧
      (bound k).region c.core 0 = some (region k) ∧
      (c.view 1).resolve (memKind i) (c.coordsOf i 0) (memBytes i) = .ok (4 * (c.coordsOf i 0).headD 0) ∧
      (region k).maskAt c.core + 512 * (region k).slots.length ≤ 2 ^ 40 ∧
      (bound k).poisoned ((region k).dataAt c.core + (4 * (c.coordsOf i 0).headD 0)) (memBytes i) = false := by
  intro i hi k hk
  simp only [List.mem_cons, List.not_mem_nil, or_false] at hi hk
  rcases hi with rfl | rfl <;> rcases hk with rfl | rfl | rfl | rfl <;> exact executes_of (by decide +kernel)

/-! ## Witnesses: views, regions, fences and barriers -/

/-- The group with scalars from s0 on. -/
def scalars (ws : List Word) (t : Team) : Team :=
  inGroup (fun g => { g with s := (ws.zipIdx).foldl (fun (v : Vector Word 32) x => v.setIfInBounds x.2 x.1) g.s }) t

/-- ViewInstructions: a legal narrowing to the last element, one beyond the extent; VQRY, VDROP. -/
theorem witness_views :
    (∃ c, ExecutesCalm (whole (scalars [63, 1, 0, 0] (teamOf 2 [(1, pad)] []))) c (.vnarrow ⟨2, 1, 0⟩) ∧
      (c.view 1).valid = true ∧ (c.view 1).planed = false ∧ (c.view 1).stook = false ∧ (c.view 1).perm = 0 ∧ 8 ≤ elemBits (c.view 1).ty ∧
      0 < (c.view 1).rank ∧ c.g.s[0].toNat + c.g.s[1].toNat ≤ (c.view 1).extN 0 ∧ c.g.s[1] ≠ 0 ∧ c.g.s[3] = 0 ∧ c.g.s[2].toNat / 64 = 0 ∧
      (c.view 1).offset + 63 * 4 < 2 ^ (c.view 1).offsetBits) ∧
    (∃ c, ExecutesCalm (whole (scalars [63, 2, 0, 0] (teamOf 2 [(1, pad)] []))) c (.vnarrow ⟨2, 1, 0⟩) ∧
      ¬ c.g.s[0].toNat + c.g.s[1].toNat ≤ (c.view 1).extN 0) ∧
    (∃ c, ExecutesCalm (whole (teamOf 2 [(1, pad)] [])) c (.vdrop ⟨1⟩) ∧ True) ∧
    (∀ q ∈ ([0, 1, 2, 3] : List (Fin 8)), ∃ c, ExecutesCalm (whole (teamOf 2 [(1, pad)] [])) c (.vqry ⟨4, 1, q⟩) ∧ q.val ≤ 3) := by
  refine ⟨calm_of (by decide +kernel), calm_of (by decide +kernel), calm_of (by decide +kernel), fun q hq => ?_⟩
  simp only [List.mem_cons, List.not_mem_nil, or_false] at hq
  rcases hq with rfl | rfl | rfl | rfl <;> exact calm_of (by decide +kernel)

/-- MappedRegions: MAPR of the last storage that fits beside a region and of one that overlaps it; the others of an invalid, an unbound and
a bound view, with a logged access and without. -/
theorem witness_regions :
    let s := fun (ws : List Word) => unitOf (placedRecord 2) { scalars ws (teamOf 2 [(2, viewOf 3 0x02 1 0 1024 0 0)] []) with regions := [region ⟨.clean, 0, none, none⟩] } eight
    (∃ c, ExecutesCalm (s [62, 1]) c (.mapr ⟨2, 0⟩) ∧ (c.view 2).valid = true ∧ (c.view 2).translated = true ∧ (c.view 2).stook = false ∧
      (c.view 2).region = none ∧ c.t.regions.length < 8 ∧ mapStorage (s [62, 1]) c.core c.t 62 1 ≠ none) ∧
    (∃ c, ExecutesCalm (s [2, 1]) c (.mapr ⟨2, 0⟩) ∧ mapStorage (s [2, 1]) c.core c.t 2 1 = none) ∧
    ∀ f ∈ ([.unmapr, .flushr, .invr] : List (OpVOne → Instr)),
      (∃ c, ExecutesCalm (s []) c (f ⟨1⟩) ∧ (c.view 1).valid = false) ∧
      (∃ c, ExecutesCalm (s []) c (f ⟨2⟩) ∧ (c.view 2).valid = true ∧ (c.view 2).region = none) ∧
      (∃ c, ExecutesCalm { bound ⟨.clean, 0, none, none⟩ with issue := (s []).issue } c (f ⟨1⟩) ∧ (c.view 1).valid = true ∧ (c.view 1).region = some 0 ∧
        (∀ g ∈ c.t.groups, ∀ e ∈ g.log, e.view.region ≠ some 0) ∧
        ∀ r ∈ c.t.regions, r.id = 0 → ∀ k ∈ r.slots, k.state ≠ .dirty ∧ k.filling = none) ∧
      (∃ c, ExecutesCalm { unitOf (placedRecord 2) (inGroup (fun g => { g with log := [⟨0, ⟨false, 0⟩, 1, .nop ⟨.always⟩, [], [], 1, device, [], false⟩] })
          { teamOf 2 [(1, device)] [] with regions := [region ⟨.clean, 0, none, none⟩] }) eight with draws := 0 } c (f ⟨1⟩) ∧
        (c.view 1).valid = true ∧ (c.view 1).region = some 0 ∧ ∃ e ∈ c.g.log, e.view.region = some 0) := by
  refine ⟨calm_of (by decide +kernel), calm_of (by decide +kernel), fun f hf => ?_⟩
  simp only [List.mem_cons, List.not_mem_nil, or_false] at hf
  rcases hf with rfl | rfl | rfl <;>
    exact ⟨calm_of (by decide +kernel), calm_of (by decide +kernel), calm_of (by decide +kernel), calm_of (by decide +kernel)⟩

/-- MappedRegions: a region with no dirty slot, of a core with a write to a peer that is not acknowledged, and with none. -/
theorem witness_unacked : ∀ out ∈ [true, false],
    let s0 := bound ⟨.clean, 0, none, none⟩
    let r : Request := ⟨4, false, 7, 0, false, [peerAt 7 64], .write 0⟩
    let s : State := { s0 with issue := (whole (teamOf 2 [] [])).issue, requests := if out then [r] else [] }
    ∃ c, ExecutesCalm s c (.flushr ⟨1⟩) ∧ (c.view 1).region = some 0 ∧ s.unacked c.core = out := by
  intro out h
  simp only [List.mem_cons, List.not_mem_nil, or_false] at h
  rcases h with rfl | rfl <;> exact calm_of (by decide +kernel)

/-- Fences: FENCE and CSYNC at scopes on both sides of DIE. -/
theorem witness_fences : ∀ sc ∈ ([.lane, .cluster, .die, .system] : List Scope),
    (∃ c l, Executes (bound ⟨.clean, 0, none, none⟩) c (.fence ⟨sc⟩) 0 l ∧ (bound ⟨.clean, 0, none, none⟩).logged c.core c.gi 0 = false ∧
      (∀ r ∈ c.t.regions, ∀ k ∈ r.slots, k.state ≠ .dirty) ∧ (bound ⟨.clean, 0, none, none⟩).unacked c.core = false ∧ Still c) ∧
    (∃ c l, Executes (bound ⟨.clean, 0, none, none⟩) c (.csync ⟨sc⟩) 0 l ∧ (bound ⟨.clean, 0, none, none⟩).logged c.core c.gi 0 = false) := by
  intro sc hs
  simp only [List.mem_cons, List.not_mem_nil, or_false] at hs
  rcases hs with rfl | rfl | rfl | rfl <;> exact ⟨executes_of (by decide +kernel), executes_of (by decide +kernel)⟩

/-- The names in a QFENCE's operand and whether the model's state lets it name them (R206), as Fences says it. -/
abbrev FenceLegal (s : State) (c : Ctx) (m : Nat) : Prop :=
  m / 2 ^ 19 = 0 ∧ m / 2 ^ 4 % 2 ^ 4 = 0 ∧ ∀ j, j < 8 → m.testBit (8 + j) = true → s.holdsQueue c.t.part (dieOfCore c.core) (m / 2 ^ 16 % 8) j = true

/-- A team with something in its matrix queue. -/
def queued (n : Nat) : State :=
  whole { teamOf 2 [] [] with mq := List.replicate n (.op (.mzero ⟨0⟩) [] 0 0 none []) }

/-- Fences: QFENCE of nothing, of an unheld queue, of empty queues, behind an entry, and of a full queue. -/
theorem witness_qfence :
    (∃ c, ExecutesCalm (queued 0) c (.qfence ⟨.imm 0⟩) ∧ (readSrc (c.env 0) (c.g.lane 0) (.imm 0)).toNat = 0) ∧
    (∃ c, ExecutesCalm (whole (inLane (fun l => { l with v := l.v.set 3 0x100 }) (teamOf 2 [] []))) c (.qfence ⟨.v 3⟩) ∧
      ¬ FenceLegal (whole (inLane (fun l => { l with v := l.v.set 3 0x100 }) (teamOf 2 [] []))) c (readSrc (c.env 0) (c.g.lane 0) (.v 3)).toNat) ∧
    (∃ c, ExecutesCalm (queued 0) c (.qfence ⟨.imm 15⟩) ∧ FenceLegal (queued 0) c (readSrc (c.env 0) (c.g.lane 0) (.imm 15)).toNat ∧ c.t.mq = [] ∧
      c.t.inq = [] ∧ c.t.outq = [] ∧ (∀ e ∈ (queued 0).engines, ∀ q ∈ e.queues, q = []) ∧ c.g.log = []) ∧
    (∃ c, ExecutesCalm (queued 15) c (.qfence ⟨.imm 8⟩) ∧ FenceLegal (queued 15) c 8 ∧ (readSrc (c.env 0) (c.g.lane 0) (.imm 8)).toNat = 8 ∧
      c.t.mq.length = 15 ∧ ∀ e ∈ c.t.mq, e.marks (queued 15).nextFence = false) ∧
    (∃ c, ExecutesCalm (queued 16) c (.qfence ⟨.imm 8⟩) ∧ FenceLegal (queued 16) c 8 ∧
      (readSrc (c.env 0) (c.g.lane 0) (.imm 8)).toNat.testBit 3 = true ∧ 16 ≤ c.t.mq.length) :=
  ⟨calm_of (by decide +kernel), calm_of (by decide +kernel), calm_of (by decide +kernel), calm_of (by decide +kernel), calm_of (by decide +kernel)⟩

/-- Barriers: BARG whose arrivals reach the target, and one that waits. -/
theorem witness_barg : ∀ t ∈ ([8, 9, 0] : List (Fin 16)),
    ∃ c, Issuing (whole (teamOf 2 [] [])) c ∧ (∀ n ∈ c.lanes, Executes (whole (teamOf 2 [] [])) c (.barg ⟨.always, .imm t⟩) n (c.g.lane n)) ∧
      c.g.log = [] ∧ ∀ n ∈ c.lanes, (c.g.lane n).wait = .none ∧ (c.g.lane n).exited = false := by
  intro t ht
  simp only [List.mem_cons, List.not_mem_nil, or_false] at ht
  rcases ht with rfl | rfl | rfl <;> exact all_execute_of (by decide +kernel)

/-- Two groups of one team, the second waiting as given. -/
def two (f : Group → Group) : Team :=
  let t := teamOf 2 [] []
  { t with groups := t.groups ++ (t.groups.map fun g => f { g with index := 1 }) }

/-- Barriers: BART of a part of a group, of nobody, behind a logged access, of one group of two and of both. -/
theorem witness_bart :
    (∃ c, ExecutesCalm (whole (two id)) c (.bart ⟨.on 0, .imm 0⟩) ∧ c.lanes.filter (fun m => Guard.holds (.on 0) (c.g.lane m)) = []) ∧
    (∃ c, ExecutesCalm (whole (inLane (fun l => { l with p := l.p.set 1 true }) (two id))) c (.bart ⟨.on 0, .imm 0⟩) ∧
      c.lanes.filter (fun m => Guard.holds (.on 0) (c.g.lane m)) = [0]) ∧
    (∃ c, ExecutesCalm (whole (two id)) c (.bart ⟨.always, .imm 0⟩) ∧ c.lanes.filter (fun m => Guard.always.holds (c.g.lane m)) = c.lanes ∧
      c.g.log = [] ∧ ¬ ∀ k ∈ c.t.open_, k ∈ [c.gi]) ∧
    (∃ c, ExecutesCalm (whole { two id with bart := some ⟨2, [1]⟩ }) c (.bart ⟨.always, .imm 0⟩) ∧ c.g.log = [] ∧
      c.t.bart = some ⟨2, [1]⟩ ∧ ∀ k ∈ c.t.open_, k ∈ [1, c.gi]) ∧
    (∃ c, ExecutesCalm (whole (inGroup (fun g => { g with log := [⟨0, ⟨false, 0⟩, 1, .nop ⟨.always⟩, [], [], 1, device, [], false⟩] }) (two id))) c
      (.bart ⟨.always, .imm 0⟩) ∧ c.g.log ≠ []) :=
  ⟨calm_of (by decide +kernel), calm_of (by decide +kernel), calm_of (by decide +kernel), calm_of (by decide +kernel), calm_of (by decide +kernel)⟩

/-- A team of a crew of two on core 0, its group at cell 7. -/
def crewed : State :=
  let r := placedRecord 2 ||| BitVec.ofNat 1024 (2 ^ 84)
  { unitOf r (teamOf 2 [] []) eight with
    clusters := [⟨0, [], [⟨0, 1, 0, List.replicate 8 ⟨false, 2, 0, 0, false⟩⟩], false⟩] }

/-- Barriers: BARC of the last group of a team without a crew, of the first, of a team of a crew, and behind a logged access. -/
theorem witness_barc :
    (∃ c, ExecutesCalm (whole (two fun g => { g with wait := .barc 7 1 })) c (.barc ⟨7⟩) ∧ c.g.log = [] ∧ recCrew c.r = 1 ∧ c.t.open_ = [0, 1] ∧
      c.gi = 0 ∧ (c.t.groups[1]?).map (·.wait) = some (.barc 7 1)) ∧
    (∃ c, ExecutesCalm (whole (two id)) c (.barc ⟨7⟩) ∧ c.g.log = [] ∧ c.t.open_ = [0, 1] ∧ c.gi = 0 ∧ (c.t.groups[1]?).map (·.wait) = some .none) ∧
    (∃ c, ExecutesCalm crewed c (.barc ⟨7⟩) ∧ c.g.log = [] ∧ recCrew c.r ≠ 1 ∧ c.t.open_ = [c.gi] ∧ c.t.barcIn = none ∧ c.t.outq = [] ∧
      (crewed.crewOf c.core c.t).map (fun w => w.cells.all fun b => decide (b.pending < 2 ^ 36)) = some true) ∧
    (∃ c, ExecutesCalm (whole (inGroup (fun g => { g with log := [⟨0, ⟨false, 0⟩, 1, .nop ⟨.always⟩, [], [], 1, device, [], false⟩] }) (two id))) c
      (.barc ⟨7⟩) ∧ c.g.log ≠ []) :=
  ⟨calm_of (by decide +kernel), calm_of (by decide +kernel), calm_of (by decide +kernel), calm_of (by decide +kernel)⟩

/-! ## Witnesses: handles and the team's own -/

/-- A handle of 1280 bytes from byte 64 of the scratchpad on, in a state. -/
def handle (st : HState) : Handle := ⟨st, false, false, false, 0, 2, 1, 1, 20, 0, none, false⟩

/-- A whole group of a role whose team has one handle. -/
def holding (role : Nat) (h : Handle) : State := whole (teamOf role [] [h])

/-- Handles: a number beyond 255 and one that is not planned. -/
theorem witness_handle_missing : ∀ i ∈ ([.harm ⟨.s 0, 1⟩, .hseal ⟨.s 0⟩, .hwait ⟨.s 0, false⟩, .htake ⟨.s 0⟩, .hfree ⟨.s 0⟩, .hqry ⟨4, .s 0⟩] : List Instr),
    ∀ n ∈ ([1, 255, 256] : List Word), ∃ c, ExecutesCalm (whole (scalars [n] (teamOf 2 [] [handle .free]))) c i ∧
      (255 < (readSSrc c.g.s (.s 0)).toNat ∨ c.t.handle (readSSrc c.g.s (.s 0)).toNat = none) := by
  intro i hi n hn
  simp only [List.mem_cons, List.not_mem_nil, or_false] at hi hn
  rcases hi with rfl | rfl | rfl | rfl | rfl | rfl <;> rcases hn with rfl | rfl | rfl <;> exact calm_of (by decide +kernel)

/-- What Handles asks of a handle named by an immediate 0. -/
abbrev Names (c : Ctx) (h : Handle) : Prop := (readSSrc c.g.s (.imm 0)).toNat ≤ 255 ∧ c.t.handle (readSSrc c.g.s (.imm 0)).toNat = some h

/-- Handles: each member on a handle in each state, and on a faulted one. -/
theorem witness_handles : ∀ i ∈ ([.harm ⟨.imm 0, 63⟩, .hseal ⟨.imm 0⟩, .hwait ⟨.imm 0, false⟩, .hwait ⟨.imm 0, true⟩, .htake ⟨.imm 0⟩, .hfree ⟨.imm 0⟩,
      .hqry ⟨28, .imm 0⟩] : List Instr),
    ∀ st ∈ ([.free, .filling, .full, .draining] : List HState),
      (∃ c, ExecutesCalm (holding 2 (handle st)) c i ∧ Names c (handle st)) ∧
      ∃ c, ExecutesCalm (holding 2 { handle st with faulted := true }) c i ∧ Names c { handle st with faulted := true } := by
  intro i hi st hs
  simp only [List.mem_cons, List.not_mem_nil, or_false] at hi hs
  rcases hi with rfl | rfl | rfl | rfl | rfl | rfl | rfl <;> rcases hs with rfl | rfl | rfl | rfl <;>
    exact ⟨calm_of (by decide +kernel), calm_of (by decide +kernel)⟩

/-- Handles: HSEAL after the last arrival, and HFREE of a handle that a matrix entry names. -/
theorem witness_handle_ends :
    (∃ c, ExecutesCalm (holding 2 { handle .filling with arrived := 2 }) c (.hseal ⟨.imm 0⟩) ∧ Names c { handle .filling with arrived := 2 } ∧
      (holding 2 { handle .filling with arrived := 2 }).mem.wf = true ∧ (holding 2 { handle .filling with arrived := 2 }).cutDies = [] ∧
      (handle .filling).at c.core 0 < 2 ^ 40) ∧
    (let t := { teamOf 2 [] [handle .draining] with mq := [.op (.pnorm ⟨0⟩) [] 0 0 none []] }
     ∃ c, ExecutesCalm (whole t) c (.hfree ⟨.imm 0⟩) ∧ Names c (handle .draining) ∧ ∃ e ∈ c.t.mq, e.names 0 = true) :=
  ⟨calm_of (by decide +kernel), calm_of (by decide +kernel)⟩

/-- Handles: HBIND of a handle that is planned and of one that is not. -/
theorem witness_hbind :
    (∃ c, ExecutesCalm (whole (scalars [0, 0x1C500, 16, 16, 64] (teamOf 2 [] [handle .full]))) c (.hbind ⟨3, 1⟩) ∧
      c.t.handle (c.g.s[1].toNat % 2 ^ 8) = some (handle .full)) ∧
    (∃ c, ExecutesCalm (whole (scalars [0, 0x1C501, 16, 16, 64] (teamOf 2 [] [handle .full]))) c (.hbind ⟨3, 1⟩) ∧
      c.t.handle (c.g.s[1].toNat % 2 ^ 8) = none) :=
  ⟨calm_of (by decide +kernel), calm_of (by decide +kernel)⟩

/-- TeamQueries: TRIG of the last group of a team, and behind a logged access. -/
theorem witness_trig :
    (∃ c, ExecutesOnce (whole (two fun g => { g with triggered := true })) c .trig ∧ c.g.triggered = false ∧ c.t.regions = [] ∧ c.g.log = [] ∧
      ((whole (two fun g => { g with triggered := true })).launchOf c.t).isSome = true ∧ Still c ∧ c.g.ended = false ∧
      (∀ h ∈ c.t.groups, h.log = []) ∧ (c.t.groups[1]?).map (·.triggered) = some true ∧ c.t.groups.length = 2 ∧ c.gi = 0 ∧ c.t.inq = [] ∧
      c.t.outq = [] ∧ ∀ e ∈ (whole (two fun g => { g with triggered := true })).engines, ∀ q ∈ e.queues, q = []) ∧
    (∃ c, ExecutesOnce (whole (inGroup (fun g => { g with log := [⟨0, ⟨false, 0⟩, 1, .nop ⟨.always⟩, [], [], 1, device, [], false⟩] }) (two id))) c
      .trig ∧ c.g.triggered = false ∧ c.t.regions = [] ∧ c.g.log ≠ []) :=
  ⟨once_of (by decide +kernel), once_of (by decide +kernel)⟩

/-! ## Witnesses: the matrix array and copies -/

/-- A whole group of the matrix role with two handles of 3200 bytes, and the headers of their tiles. -/
def matrixTeam (a b : Handle) (q : List MatrixEntry) : Team := { teamOf 1 [] [a, b] with mq := q }
def tile (ty k pitch base : Nat) : Memory :=
  ((tileHeader ⟨ty, 4, 16, k, pitch, 0⟩ 0 0).zipIdx.map fun x => (scratchAt 0 (64 * base) + x.2, x.1)).filter fun x => x.2 != 0
def matrix (a b : Handle) (q : List MatrixEntry) (hints : List Hint) (m : Memory) : State :=
  { hinted hints (whole (matrixTeam a b q)) with mem := m }
def operand (st : HState) (base : Nat) : Handle := ⟨st, false, false, false, 0, 0, 0, base, 50, 0, none, false⟩
def tiles (ty k pitch : Nat) : Memory := tile ty k pitch 0 ++ tile ty k pitch 50

def mma (acc : Bool) : OpMma := ⟨3, 0, 1, .p1, false, acc⟩
def mmaProd : Product := ⟨some 0, 1, planesOf .p1, false, true, 3, none⟩

/-- MatrixIssue: MMA and MMAG of readable operands, of one whose type has no product, of one not full, faulted, or not planned, and with a full
queue. -/
theorem witness_mma :
    (∃ c, ExecutesCalm (matrix (operand .full 0) (operand .draining 50) [] [] (tiles 6 96 192)) c (.mma (mma true)) ∧
      mmaProd.late c.t ((matrix (operand .full 0) (operand .draining 50) [] [] (tiles 6 96 192)).productHeads c.core c.t mmaProd).1
        ((matrix (operand .full 0) (operand .draining 50) [] [] (tiles 6 96 192)).productHeads c.core c.t mmaProd).2 = none) ∧
    (∃ c, ExecutesCalm (matrix (operand .full 0) (operand .full 50) [] [] (tiles 2 96 192)) c (.mma (mma true)) ∧
      mmaProd.late c.t ((matrix (operand .full 0) (operand .full 50) [] [] (tiles 2 96 192)).productHeads c.core c.t mmaProd).1
        ((matrix (operand .full 0) (operand .full 50) [] [] (tiles 2 96 192)).productHeads c.core c.t mmaProd).2 = some (.handle 0 2)) ∧
    (∃ c, ExecutesCalm (matrix (operand .full 0) (operand .filling 50) [] [] []) c (.mma (mma true)) ∧
      (c.t.handle 1).map (fun h => decide (h.faulted = false ∧ h.state = .filling)) = some true) ∧
    (∃ c, ExecutesCalm (matrix { operand .full 0 with faulted := true } (operand .full 50) [] [] []) c (.mma (mma true)) ∧
      (c.t.handle 0).map (·.faulted) = some true ∧ (c.t.handle 1).isSome = true) ∧
    (∃ c, ExecutesCalm (matrix (operand .full 0) (operand .full 50) [] [] []) c (.mma ⟨3, 2, 1, .p1, false, true⟩) ∧ c.t.handle 2 = none) ∧
    (∃ c, ExecutesCalm (matrix (operand .full 0) (operand .full 50) [] [] []) c (.mma ⟨3, 255, 1, .p1, false, true⟩) ∧ c.t.alatch = none) ∧
    (∃ c, ExecutesCalm (matrix (operand .full 0) (operand .full 50) (List.replicate 16 (.op (.mzero ⟨0⟩) [] 0 0 none [])) [] []) c (.mma (mma true)) ∧
      16 ≤ c.t.mq.length) ∧
    (∃ c, ExecutesCalm (matrix (operand .full 0) (operand .full 50) [] [.gath 1] (tiles 6 96 192)) c (.mmag (mma true)) ∧ c.t.mq.length < 16) :=
  ⟨calm_of (by decide +kernel), calm_of (by decide +kernel), calm_of (by decide +kernel), calm_of (by decide +kernel), calm_of (by decide +kernel),
    calm_of (by decide +kernel), calm_of (by decide +kernel), calm_of (by decide +kernel)⟩

/-- MatrixIssue: the drains of a free handle that is large enough, too small, not free, and not planned; MDRNL and MZERO. -/
theorem witness_drains : ∀ f ∈ ([.mdrn, .mdrnb] : List (OpDrn → Instr)),
    (∃ c, ExecutesCalm (matrix { operand .free 0 with size := 17 } (operand .full 50) [] [] []) c (f ⟨2, 0⟩) ∧
      c.t.handle 0 = some { operand .free 0 with size := 17 } ∧ c.t.mq.length < 16) ∧
    (∃ c, ExecutesCalm (matrix { operand .free 0 with size := 16 } (operand .full 50) [] [] []) c (f ⟨2, 0⟩) ∧
      c.t.handle 0 = some { operand .free 0 with size := 16 } ∧ c.t.mq.length < 16) ∧
    (∃ c, ExecutesCalm (matrix (operand .free 0) (operand .full 50) [] [] []) c (f ⟨2, 1⟩) ∧ c.t.handle 1 = some (operand .full 50)) ∧
    (∃ c, ExecutesCalm (matrix (operand .free 0) (operand .full 50) [] [] []) c (f ⟨2, 2⟩) ∧ c.t.handle 2 = none) ∧
    (∃ c, ExecutesCalm (matrix (operand .free 0) (operand .full 50) [] [] []) c (.mdrnl ⟨0, .bf16, 5⟩) ∧ c.t.mq.length < 16) ∧
    (∃ c, ExecutesCalm (matrix (operand .free 0) (operand .full 50) (List.replicate 16 (.op (.mzero ⟨0⟩) [] 0 0 none [])) [] []) c (.mzero ⟨7⟩) ∧
      16 ≤ c.t.mq.length) := by
  intro f hf
  simp only [List.mem_cons, List.not_mem_nil, or_false] at hf
  rcases hf with rfl | rfl <;> exact ⟨calm_of (by decide +kernel), calm_of (by decide +kernel), calm_of (by decide +kernel),
    calm_of (by decide +kernel), calm_of (by decide +kernel), calm_of (by decide +kernel)⟩

/-- MatrixIssue: MLOAD, PADD and PNORM of a suitable tile, of one of another type, of too few planes, of a short pitch, and of no tile. -/
theorem witness_tile_readers :
    (∃ c, ExecutesCalm (matrix (operand .full 0) (operand .full 50) [] [] (tiles 5 16 64)) c (.mload ⟨0, 0⟩) ∧
      (matrix (operand .full 0) (operand .full 50) [] [] (tiles 5 16 64)).readHeader c.core (operand .full 0) = ⟨5, 4, 16, 16, 64, 0⟩) ∧
    (∃ c, ExecutesCalm (matrix (operand .full 0) (operand .full 50) [] [] (tiles 6 16 64)) c (.mload ⟨0, 0⟩) ∧
      (matrix (operand .full 0) (operand .full 50) [] [] (tiles 6 16 64)).readHeader c.core (operand .full 0) = ⟨6, 4, 16, 16, 64, 0⟩) ∧
    (∀ i ∈ ([.padd ⟨0, 0, 4⟩, .pnorm ⟨0⟩] : List Instr),
      (∃ c, ExecutesCalm (matrix (operand .full 0) (operand .full 50) [] [] (tiles 13 16 64)) c i ∧
        (matrix (operand .full 0) (operand .full 50) [] [] (tiles 13 16 64)).readHeader c.core (operand .full 0) = ⟨13, 4, 16, 16, 64, 0⟩) ∧
      (∃ c, ExecutesCalm (matrix (operand .full 0) (operand .full 50) [] [] (tiles 13 32 64)) c i ∧
        (matrix (operand .full 0) (operand .full 50) [] [] (tiles 13 32 64)).readHeader c.core (operand .full 0) = ⟨13, 4, 16, 32, 64, 0⟩) ∧
      (∃ c, ExecutesCalm (matrix (operand .filling 0) (operand .full 50) [] [] []) c i ∧ c.t.handle 0 = some (operand .filling 0)) ∧
      (∃ c, ExecutesCalm (matrix { operand .full 0 with faulted := true } (operand .full 50) [] [] []) c i ∧
        c.t.handle 0 = some { operand .full 0 with faulted := true }) ∧
      (∃ c, ExecutesCalm (whole (teamOf 1 [] [])) c i ∧ c.t.handle 0 = none)) := by
  refine ⟨calm_of (by decide +kernel), calm_of (by decide +kernel), fun i hi => ?_⟩
  simp only [List.mem_cons, List.not_mem_nil, or_false] at hi
  rcases hi with rfl | rfl <;>
    exact ⟨calm_of (by decide +kernel), calm_of (by decide +kernel), calm_of (by decide +kernel), calm_of (by decide +kernel), calm_of (by decide +kernel)⟩

/-- MatrixResults: a product, a clear and a load at the head of a queue with nothing behind it. -/
theorem witness_matrix_results : ∀ i ∈ ([.mma (mma true), .mzero ⟨7⟩, .mload ⟨0, 0⟩, .pnorm ⟨0⟩] : List Instr),
    let s := matrix (operand .full 0) (operand .full 50) [.op i [] 0 0 none [⟨6, 4, 16, 96, 192, 0⟩, ⟨6, 4, 16, 96, 192, 0⟩]] [] (tiles 6 96 192)
    (s.team 0).map (fun t => decide (s.enginesRun 0 t = true ∧ t.follows = [] ∧ t.z.length = 8 ∧ t.mq.length = 1)) = some true ∧
      pairK 6 6 (planesOf .p1) false = some 96 := by
  decide +kernel

/-- CopyIssue: the issuer of a copy of 2 rows of 64 bytes between a scratchpad view and the handle, its block in s8 to s15. -/
def copies (st : HState) (rows : Nat) : State :=
  let v := viewOf 0 0x00 2 4096 4 64 64
  let blk := [0, 0, 0, 0, BitVec.ofNat 32 (rows * 2 ^ 16 + 64), 0, BitVec.ofNat 32 (1 * 2 ^ 26 + 2 * 2 ^ 20), 0]
  let s := whole (scalars (List.replicate 8 0 ++ blk) (teamOf 0 [(1, v), (2, { v with base := 8192 })] [handle st]))
  { s with parts := s.parts.map fun p => { p with engines := 1 } }

theorem witness_copies :
    (∃ c, ExecutesCalm (copies .free 2) c (.tilein ⟨0, 0, 1, 1, false⟩) ∧
      ((tileChecks c (copies .free 2) ⟨0, 0, 1, 1, false⟩ true).toOption.map fun y => decide (y.bytes < 2 ^ 36)) = some true ∧
      c.t.handle 0 = some (handle .free) ∧ c.g.halts = [] ∧ (copies .free 2).enginesRun c.core c.t = true ∧ c.t.inq.length < 32) ∧
    (∃ c, ExecutesCalm (copies .free 5) c (.tilein ⟨0, 0, 1, 1, false⟩) ∧
      (tileChecks c (copies .free 5) ⟨0, 0, 1, 1, false⟩ true).toOption = none) ∧
    (∃ c, ExecutesCalm { copies .full 2 with mem := tile 0 64 64 1 } c (.tileout ⟨0, 0, 1, 1, false⟩) ∧
      ((tileChecks c { copies .full 2 with mem := tile 0 64 64 1 } ⟨0, 0, 1, 1, false⟩ false).toOption.map fun y =>
        decide (outFault y (State.readHeader { copies .full 2 with mem := tile 0 64 64 1 } c.core (handle .full)) = none)) = some true ∧
      c.t.handle 0 = some (handle .full) ∧ c.g.halts = [] ∧ c.t.outq.length < 32) ∧
    (∃ c, ExecutesCalm (copies .full 2) c (.tileout ⟨0, 1, 1, 1, false⟩) ∧
      (tileChecks c (copies .full 2) ⟨0, 1, 1, 1, false⟩ false).toOption = none) ∧
    (∃ c, ExecutesCalm (copies .free 2) c (.bcopy ⟨0, 8⟩) ∧
      ((bulkChecks c (copies .free 2) ⟨0, 8⟩).toOption.map fun y => decide (c.t.handle y.1.h = some (handle .free) ∧ y.1.bytes < 2 ^ 36 ∧
        (((copies .free 2).engine (dieOfCore c.core) y.2.1).queues[y.2.2]?) = some [])) = some true ∧ c.g.halts = [] ∧
      (copies .free 2).enginesRun c.core c.t = true) ∧
    (∃ c, ExecutesCalm (copies .free 5) c (.bcopy ⟨0, 8⟩) ∧ (bulkChecks c (copies .free 5) ⟨0, 8⟩).toOption = none) :=
  ⟨calm_of (by decide +kernel), calm_of (by decide +kernel), calm_of (by decide +kernel), calm_of (by decide +kernel), calm_of (by decide +kernel),
    calm_of (by decide +kernel)⟩

/-! ## Witnesses: tasks and futures -/

/-- A loaded queue of four entries in vault 0, with a view of it at w1. -/
def qview : View := viewOf 2 0x0E 1 0 4 0 0
def record (head tail : Word) (closed : Bool) (ws : List Waiter) : QRec := ⟨3, 0, 0, 4, head, tail, 2, 1, 2, closed, false, false, 1, ws, [0], 0⟩
def ring (r : QRec) (f : Lane → Lane) (lanes : List Nat) : State :=
  { unitOf (placedRecord 2) (inLane f (teamOf 2 [(1, qview)] [])) lanes with clusters := [⟨0, [r], [], false⟩] }

/-- What `NamesQueue` asks of view 1. -/
abbrev Named (s : State) (c : Ctx) (r : QRec) : Prop :=
  (c.view 1).queueOk c.core = true ∧ (s.cluster (clusterOfCore c.core)).frozen = false ∧
    (s.cluster (clusterOfCore c.core)).recs.find? (fun q => q.vault == dieOfCore c.core * 96 + bvFld (c.view 1).base 32 7 &&
      q.base == (c.view 1).offset) = some r ∧
    s.qrec (clusterOfCore c.core) r.no = some r ∧ r.cap = (c.view 1).extN 0 ∧ r.error = false ∧ s.firewall c.t.part (r.at 0) = true

theorem names_of {s : State} {c : Ctx} {r : QRec} (h : Named s c r) : NamesQueue s c 1 r :=
  ⟨h.1, h.2.1, h.2.2.1, h.2.2.2.1, h.2.2.2.2.1, h.2.2.2.2.2.1, h.2.2.2.2.2.2⟩

theorem names_executes_of {s : State} {i : Instr} {n : Nat} {r : QRec} {p : Ctx → Lane → Prop} [∀ c l, Decidable (p c l)]
    (h : issuesIn s (fun c => decide (Passes c i n ∧ Named s c r ∧ p c (c.g.lane n))) = true) :
    ∃ c l, Executes s c i n l ∧ NamesQueue s c 1 r ∧ p c l := by
  obtain ⟨c, hc, hp, hn, hq⟩ := issuing_of (p := fun c => Passes c i n ∧ Named s c r ∧ p c (c.g.lane n)) h
  exact ⟨c, _, executes_of_passes hc hp, names_of hn, hq⟩

theorem names_calm_of {s : State} {i : Instr} {r : QRec} {p : Ctx → Prop} [DecidablePred p]
    (h : issuesIn s (fun c => decide (Once c i ∧ Still c ∧ c.lanes ≠ [] ∧ Named s c r ∧ p c)) = true) :
    ∃ c, ExecutesCalm s c i ∧ NamesQueue s c 1 r ∧ p c := by
  obtain ⟨c, hc, hn, hq⟩ := calm_of (p := fun c => Named s c r ∧ p c) h
  exact ⟨c, hc, names_of hn, hq⟩

/-- TaskQueues: QPOP where an entry waits, at an empty queue, at a closed one, and of a lane that holds a task. -/
theorem witness_qpop :
    (∃ c l, Executes (ring (record 5 6 false []) id [0]) c (.qpop ⟨8, 1⟩) 0 l ∧ NamesQueue (ring (record 5 6 false []) id [0]) c 1 (record 5 6 false []) ∧
      c.lanes = [0] ∧ c.g.log = [] ∧ l.task.hold = false ∧ (ring (record 5 6 false []) id [0]).poisoned (2 ^ 30 + 64 + 32) 32 = false ∧
      (ring (record 5 6 false []) id [0]).strayAt (2 ^ 30 + 64 + 32) = []) ∧
    (∃ c l, Executes (ring (record 6 6 false []) id [0]) c (.qpop ⟨8, 1⟩) 0 l ∧ NamesQueue (ring (record 6 6 false []) id [0]) c 1 (record 6 6 false []) ∧
      c.lanes = [0] ∧ c.g.log = [] ∧ l.task.hold = false) ∧
    (∃ c l, Executes (ring (record 5 6 true []) id [0]) c (.qpop ⟨8, 1⟩) 0 l ∧ NamesQueue (ring (record 5 6 true []) id [0]) c 1 (record 5 6 true []) ∧
      c.lanes = [0] ∧ c.g.log = [] ∧ l.task.hold = false) ∧
    (∃ c l, Executes (ring (record 5 6 false []) (fun l => { l with task := ⟨true, 3, 2 ^ 30, [], none, false⟩ }) [0]) c (.qpop ⟨8, 1⟩) 0 l ∧
      NamesQueue (ring (record 5 6 false []) (fun l => { l with task := ⟨true, 3, 2 ^ 30, [], none, false⟩ }) [0]) c 1 (record 5 6 false []) ∧
      l.task.hold = true ∧ l.task.queue = (record 5 6 false []).no ∧ (record 5 6 false []).auto = false) :=
  ⟨names_executes_of (by decide +kernel), names_executes_of (by decide +kernel), names_executes_of (by decide +kernel),
    names_executes_of (by decide +kernel)⟩

/-- TaskQueues: QSPAWN of two entries into the last two places, of three into two, and into a closed queue; QCLOSE. -/
theorem witness_qspawn :
    (∃ c, ExecutesCalm (ring (record 5 6 false []) id [0, 1]) c (.qspawn ⟨8, 1, none⟩) ∧
      NamesQueue (ring (record 5 6 false []) id [0, 1]) c 1 (record 5 6 false []) ∧ c.g.log = [] ∧
      (ring (record 5 6 false []) id [0, 1]).mem.wf = true ∧ (ring (record 5 6 false []) id [0, 1]).cutDies = [] ∧
      (record 5 6 false []).at 0 + 64 + 32 * 4 ≤ 2 ^ 40 ∧
      (∀ j, j < 64 → (ring (record 5 6 false []) id [0, 1]).strayAt ((record 5 6 false []).slotAt (6 + BitVec.ofNat 32 j)) = []) ∧ c.lanes.length + (record 5 6 false []).queued + (record 5 6 false []).parked ≤ 4) ∧
    (∃ c, ExecutesCalm (ring (record 5 6 false []) id [0, 1, 2]) c (.qspawn ⟨8, 1, none⟩) ∧
      NamesQueue (ring (record 5 6 false []) id [0, 1, 2]) c 1 (record 5 6 false []) ∧ c.g.log = [] ∧
      ¬ c.lanes.length + (record 5 6 false []).queued + (record 5 6 false []).parked ≤ 4) ∧
    (∃ c, ExecutesCalm (ring (record 5 6 true []) id [0]) c (.qspawn ⟨8, 1, some 3⟩) ∧
      NamesQueue (ring (record 5 6 true []) id [0]) c 1 (record 5 6 true []) ∧ c.g.log = []) ∧
    (∃ c, ExecutesCalm (ring (record 6 6 false []) id eight) c (.qclose ⟨1⟩) ∧
      NamesQueue (ring (record 6 6 false []) id eight) c 1 (record 6 6 false []) ∧ c.g.log = []) :=
  ⟨names_calm_of (by decide +kernel), names_calm_of (by decide +kernel), names_calm_of (by decide +kernel), names_calm_of (by decide +kernel)⟩

theorem witness_close :
    let w : Waiter := ⟨0, 0, 5, 8, 1, 1⟩
    (ring (record 6 6 false [w]) id [0]).qrec 0 3 = some (record 6 6 false [w]) ∧ ((ring (record 6 6 false [w]) id [0]).laneAt 0 0 5).isSome = true := by
  decide +kernel

/-- A future cell at the start of vault 1 (R280), with a view of it at w1; `w` is its word at 8. -/
def fview : View := viewOf 2 0x0F 1 (2 ^ 32) 4 0 0
def cell (w : Word) (f : Lane → Lane) : State :=
  { unitOf (placedRecord 2) (inLane f (teamOf 2 [(1, fview)] [])) [0] with
    clusters := [⟨0, [record 5 6 false []], [], false⟩]
    mem := ((bytesOf 4 w.toNat).zipIdx.map fun x => (vaultAt 0 1 (8 + x.2), x.1)).filter fun x => x.2 != 0 }

/-- What Futures asks of the cell, for FREAD (`i` at register `d`) and FFILL (`d + 2`). -/
abbrev CellAt (s : State) (c : Ctx) (k : Access) (coord : Word) : Prop :=
  c.lanes = [0] ∧ c.g.log = [] ∧ s.firewall c.t.part (vaultAt 0 1 0) = true ∧ (s.cellAt c 1 k coord).toOption = some (vaultAt 0 1 0)

/-- Futures: FREAD of a full cell, of one in another state, and of an empty one without a task, with one that has had a side effect, and with one
that may park. -/
theorem witness_fread :
    (∃ c l, Executes (cell 0x40000000 id) c (.fread ⟨8, 1⟩) 0 l ∧ CellAt (cell 0x40000000 id) c .load (l.reg 8) ∧ l.inside = none ∧
      (cell 0x40000000 id).num (vaultAt 0 1 8) 4 / 2 ^ 30 = 1) ∧
    (∃ c l, Executes (cell 0x80000000 id) c (.fread ⟨8, 1⟩) 0 l ∧ CellAt (cell 0x80000000 id) c .load (l.reg 8) ∧ l.inside = none ∧
      (cell 0x80000000 id).num (vaultAt 0 1 8) 4 / 2 ^ 30 = 2) ∧
    (∃ c l, Executes (cell 0 id) c (.fread ⟨8, 1⟩) 0 l ∧ CellAt (cell 0 id) c .load (l.reg 8) ∧ l.inside = none ∧ l.task.hold = false) ∧
    (∃ c l, Executes (cell 0 fun l => { l with task := ⟨true, 3, 7, [0, 3], none, true⟩ }) c (.fread ⟨8, 1⟩) 0 l ∧
      CellAt (cell 0 fun l => { l with task := ⟨true, 3, 7, [0, 3], none, true⟩ }) c .load (l.reg 8) ∧ l.inside = none ∧ l.task.hold = true ∧ l.task.side = true) ∧
    (∃ c l, Executes (cell 0 fun l => { l with task := ⟨true, 3, 7, [0, 3], some ⟨7, [], 0⟩, false⟩ }) c (.fread ⟨8, 1⟩) 0 l ∧
      CellAt (cell 0 fun l => { l with task := ⟨true, 3, 7, [0, 3], some ⟨7, [], 0⟩, false⟩ }) c .load (l.reg 8) ∧ l.inside = none ∧ l.task.hold = true ∧
      l.task.side = false ∧ entryDep l.task.entry < 255 ∧ l.task.check = some ⟨7, [], 0⟩ ∧
      (((cell 0 fun l => { l with task := ⟨true, 3, 7, [0, 3], some ⟨7, [], 0⟩, false⟩ }).qrec (clusterOfCore c.core) (entryHome l.task.entry)).map (·.pfree)) = some 1) :=
  ⟨executes_of (by decide +kernel), executes_of (by decide +kernel), executes_of (by decide +kernel), executes_of (by decide +kernel),
    executes_of (by decide +kernel)⟩

/-- Futures: FFILL of an empty cell that no record names, of a full one, and of one in another state. -/
theorem witness_ffill :
    (∃ c l, Executes (cell 0 id) c (.ffill ⟨8, 1⟩) 0 l ∧ Still c ∧ CellAt (cell 0 id) c .store (l.reg 10) ∧ (cell 0 id).mem.wf = true ∧
      vaultAt 0 1 0 + 16 ≤ 2 ^ 40 ∧ (cell 0 id).qrec (clusterOfCore c.core) 0 = none) ∧
    (∃ c l, Executes (cell 0x40000000 id) c (.ffill ⟨8, 1⟩) 0 l ∧ Still c ∧ CellAt (cell 0x40000000 id) c .store (l.reg 10)) ∧
    (∃ c l, Executes (cell 0xC0000000 id) c (.ffill ⟨8, 1⟩) 0 l ∧ Still c ∧ CellAt (cell 0xC0000000 id) c .store (l.reg 10)) ∧
    (let t := teamOf 2 [] []
     let s : State := { cell 0 id with cores := (cell 0 id).cores ++ [⟨1, some (inLane (fun l => { l with wait := .fread (vaultAt 0 1 0) 1 8 }) t), [], some 0, false⟩] }
     (s.laneAt 1 0 0).map (fun l => decide (l.wait = .fread (vaultAt 0 1 0) 1 8 ∧ l.inside = none)) = some true) :=
  ⟨executes_of (by decide +kernel), executes_of (by decide +kernel), executes_of (by decide +kernel), by decide +kernel⟩

/-! ## Witnesses: what comes about without an instruction -/

/-- A fact about the group or the team on core 0 of a state. -/
def groupOk (s : State) (p : Group → Bool) : Bool := ((s.group 0 0).map p).getD false
def teamOk (s : State) (p : Team → Bool) : Bool := ((s.team 0).map p).getD false
def partOk (s : State) (p : Part → Bool) : Bool := ((s.part 0).map p).getD false

/-- A launch whose watchdog is 5 frames. -/
def watched : LaunchBytes := placedRecord 2 ||| BitVec.ofNat 1024 (5 * 2 ^ (8 * 0x34))

/-- BoundsAndBarrierEpisodes. -/
theorem witness_bounds :
    groupOk (whole (inGroup (fun g => { (g.modLane 3 fun l => { l with wait := .held, pc := 4 }) with heldFor := [(⟨false, 4⟩, 256)] }) (teamOf 2 [] [])))
      (fun g => g.rvz.isNone && (g.heldFor.any fun x => decide (256 ≤ x.2)) && g.lanes.any fun l => !l.exited && l.wait == .held) = true ∧
    groupOk (whole (inGroup (fun g => { g with rvz := some ⟨⟨false, 0⟩, 9, 1, .always⟩ }) (teamOf 2 [] [])))
      (fun g => g.rvz.isSome && g.halts.isEmpty && g.atNoBarrier) = true ∧
    groupOk (whole (inGroup (fun g => { g with wait := .yielded [1] }) (two id))) (fun g => g.wait == .yielded [1]) = true ∧
    groupOk (whole (inGroup (fun g => { g with run := 1 }) (teamOf 2 [] []))) (fun g => g.run != 0) = true := by decide +kernel

theorem witness_watchdog :
    let s := unitOf watched { newTeam watched (viewTable []) [] 0 0 with watchdog := 0 } eight
    teamOk s (fun u => u.phase == .runs && recWdog (s.recordOf u) != 0 && u.watchdog == 0 && u.groups.any fun g => !g.ended && !g.dogged) = true ∧
      teamOk (whole (teamOf 2 [] [])) (fun u => recWdog ((whole (teamOf 2 [] [])).recordOf u) == 0) = true := by decide +kernel

theorem witness_episode :
    let s (a p : Nat) : State := { crewed with
      cores := (unitOf (placedRecord 2) (inGroup (fun g => { g with wait := .barc 7 1 }) { teamOf 2 [] [] with barcIn := some 7 }) eight).cores
      clusters := [⟨0, [], [⟨0, 1, 0, List.replicate 8 ⟨false, 2, a, p, false⟩⟩], false⟩] }
    teamOk (s 2 0) (fun u => u.barcIn == some 7 && (((s 2 0).crewOf 0 u).map fun x => x.cells[7]? == some ⟨false, 2, 2, 0, false⟩).getD false) = true ∧
      teamOk (s 1 0) (fun u => (((s 1 0).crewOf 0 u).map fun x => x.cells[7]? == some ⟨false, 2, 1, 0, false⟩).getD false) = true ∧
      teamOk (s 2 1) (fun u => (((s 2 1).crewOf 0 u).map fun x => x.cells[7]? == some ⟨false, 2, 2, 1, false⟩).getD false) = true := by decide +kernel

/-- CodeAndSlotFills: a line of code whose page is mapped, and one whose page is not. -/
def coded : State := mapped [] (whole (teamOf 2 [] []))

theorem witness_code_fetch :
    partOk coded (fun p => !coded.awaits 0 (.code 0 1) && translate coded p false (64 * 1) 1 == .ok (tier1At 64) 7 7 false) = true ∧
      coded.channelReady (tier1At 64) = true ∧ coded.cutDies = [] ∧ coded.phase = .running ∧ (coded.core 0).frozen = false ∧
      partOk coded (fun p => !p.halted) = true ∧ isDram (tier1At 64) = true ∧
      partOk { coded with ready1 := 0 } (fun p => translate { coded with ready1 := 0 } p false (64 * 1) 1 == .bad waitCause 0) = true ∧
      partOk coded (fun p => match translate coded p false (64 * 0x200000) 1 with
        | .bad c _ => c != wallCause && c != waitCause
        | _ => false) = true := by decide +kernel

/-- CodeAndSlotFills: a slot that waits for its page, and one that is dirty, of a DEVICE page that is mapped. -/
def slotted (k : Slot) : State := mapped [] (bound k)

theorem witness_slots :
    teamOk (slotted ⟨.invalid, 0, some 1, none⟩) (fun u => u.groups.any (fun g => !g.triggered && !g.ended) && u.groups.all (·.log.isEmpty)) = true ∧
    (slotted ⟨.invalid, 0, some 1, none⟩).region 0 0 = some (region ⟨.invalid, 0, some 1, none⟩) ∧
    (slotted ⟨.invalid, 0, some 1, none⟩).regionHome 0 (region ⟨.invalid, 0, some 1, none⟩) 4096 1 = .ok (tier1At 4096) 7 7 false ∧
    (slotted ⟨.invalid, 0, some 1, none⟩).mayBegin (tier1At 4096) = true ∧ (slotted ⟨.invalid, 0, some 1, none⟩).awaits 0 (.fill 0 0 0) = false ∧
    (slotted ⟨.invalid, 0, some 1, none⟩).asked (.fill 0 0 0) = false ∧ (slotted ⟨.invalid, 0, some 1, none⟩).mem.wf = true ∧
    (slotted ⟨.invalid, 0, some 1, none⟩).cutDies = [] ∧ (region ⟨.invalid, 0, some 1, none⟩).maskAt 0 + 1024 ≤ 2 ^ 40 ∧
    ((slotted ⟨.invalid, 0, some 1, none⟩).core 0).frozen = false ∧ isDram (tier1At 4096) = true := by decide +kernel

theorem witness_write_back :
    (slotted ⟨.dirty, 1, none, none⟩).region 0 0 = some (region ⟨.dirty, 1, none, none⟩) ∧ (region ⟨.dirty, 1, none, none⟩).slot 0 = ⟨.dirty, 1, none, none⟩ ∧
    (slotted ⟨.dirty, 1, none, none⟩).wbAwaits 0 0 0 0 = false ∧
    (slotted ⟨.dirty, 1, none, none⟩).regionHome 0 (region ⟨.dirty, 1, none, none⟩) 4096 2 = .ok (tier1At 4096) 7 7 false ∧
    isDram (tier1At 4096 + 4095) = true ∧ (slotted ⟨.dirty, 1, none, none⟩).mayBegin (tier1At 4096) = true ∧
    ((slotted ⟨.dirty, 1, none, none⟩).writeBack 0 (region ⟨.dirty, 1, none, none⟩) 0 none 0 0).2 = true ∧ ((slotted ⟨.dirty, 1, none, none⟩).core 0).frozen = false := by
  decide +kernel

/-- TileAndBulkMoves: the copy that a whole group has issued, at the head of a queue. -/
def copyOf (s : State) (x : Copy → Copy) : Copy :=
  match s.context with
  | none => x ⟨0, .bulk, 0, View.zero, View.zero, View.zero, [], 0, 0, 0, 1, 0, 0, 0, ⟨false, 0⟩, 0, 0, [], [], false, none, none, [], [], [], false⟩
  | some c =>
    match bulkChecks c s ⟨0, 8⟩ with
    | .ok (y, _) => x y
    | .error _ => x ⟨0, .bulk, 0, View.zero, View.zero, View.zero, [], 0, 0, 0, 1, 0, 0, 0, ⟨false, 0⟩, 0, 0, [], [], false, none, none, [], [], [], false⟩

/-- A state in which the copy of BCOPY stands at the head of each queue that has one. -/
def moving (st : HState) (n : Nat) : State :=
  let s := copies .free 2
  let c := copyOf s fun y => { y with moved := n }
  { s with
    cores := s.cores.map fun k => { k with team := k.team.map fun u => { u with
      handles := [{ handle st with pending := 128, isSealed := true, arrived := 2 }], inq := [.copy c], outq := [.copy c] } }
    engines := [⟨0, 0, [.copy c] :: List.replicate 7 [], false, 0, none⟩] }

theorem witness_moves : ∀ n ∈ ([0, 1] : List Nat),
    let s := moving .filling n
    let c := copyOf s fun y => { y with moved := n }
    teamOk s (fun u => s.enginesRun 0 u && u.inq == [.copy c] && u.outq == [.copy c] && (u.handle c.h).isSome && !u.holdsFollow false &&
      !u.holdsFollow true && u.groups.any (fun g => !g.triggered && !g.ended) && !u.stopped) = true ∧ c.core = 0 ∧ c.susp = none ∧ c.moved < c.pieces ∧
      c.sent = false ∧ c.hops = [] ∧ c.tile = [] ∧ c.follow = none ∧ (s.hopAt 0) = none ∧ (s.movePiece c c.moved).toOption.isSome = true ∧ s.ownsCopy c = true ∧
      (s.engine 0 0).queues[0]? = some [.copy c] ∧ (s.engine 0 0).frozen = false ∧ c.pieces = 2 := by decide +kernel

theorem witness_follow_on :
    teamOk (whole { teamOf 2 [] [] with follows := [⟨none, false, .op (.mzero ⟨0⟩) [] 0 0 none []⟩], mq := List.replicate 15 (.op (.mzero ⟨0⟩) [] 0 0 none []) })
      (fun u => u.follows.length == 1 && (u.follows.all fun f => f.h.isNone) && decide (u.mq.length < 16)) = true := by decide +kernel

/-- TileAndBulkMoves: a granule that is performed at once, and one of a copy that has bytes on their way to a peer. -/
theorem witness_lands : ∀ out ∈ [true, false],
    let s0 := moving .filling 0
    let c := copyOf s0 id
    let s : State := { s0 with requests := if out then [⟨4, false, 7, 0, false, [peerAt 7 64], .sent 0 c.no⟩] else [] }
    ((s.movePiece c c.moved).toOption.map fun l => l.state.copyOut c) = some out := by
  unfold State.movePiece State.putRun State.backInvalidate
  generalize Config.cxlTrained = b
  cases b <;> decide +kernel

/-- TileAndBulkMoves: copies whose granule has gone to a peer, acknowledged and not. -/
theorem witness_sent : ∀ out ∈ [true, false],
    let s0 := moving .filling 0
    let c := copyOf s0 fun y => { y with sent := true }
    let r : Request := ⟨4, false, 7, 0, false, [peerAt 7 64], .sent 0 c.no⟩
    let s : State := { s0 with
      requests := if out then [r] else []
      cores := s0.cores.map fun k => { k with team := k.team.map fun u => { u with outq := [.copy c] } }
      engines := [⟨0, 0, [.copy c] :: List.replicate 7 [], false, 0, none⟩] }
    c.sent = true ∧ s.copyOut c = out ∧ s.bulkTurn (s.engine 0 0) = (if out then none else some 0) ∧ s.flightOf (s.engine 0 0) = some 0 ∧
      s.ownsCopy c = true := by
  decide +kernel

/-- The hop of a chain to core 1 waits there. -/
theorem witness_hop :
    let c := { copyOf (copies .free 2) id with hops := [1], hop := true, moved := 2, tile := [(64, [1, 2, 3])] }
    let s : State := { copies .free 2 with
      cores := [⟨0, some { teamOf 0 [] [handle .filling] with inq := [.copy c] }, [], some 0, false⟩,
        ⟨1, some { teamOf 0 [] [handle .filling] with number := 1 }, [], some 0, false⟩] }
    s.hopAt 1 = some c ∧ (s.team 1).map (fun u => decide (u.part = c.part ∧ u.seq = c.seq ∧ u.handle c.h = some (handle .filling) ∧
        s.coreOf c.part c.seq u.number = some 1) && s.enginesRun 1 u) = some true ∧
      (handle .filling).arrived < (handle .filling).expect ∧ (handle .filling).at 1 64 + 3 ≤ 2 ^ 40 ∧
      teamOk s (fun w => s.enginesRun c.core w && w.groups.any fun g => !g.triggered && !g.ended) = true ∧ s.mem.wf = true ∧ s.cutDies = [] := by
  decide +kernel

/-! ## Witnesses: the calendar, the integrity unit and power -/

/-- The reset machine with partition 0 alone, and the same outside a slot. -/
def alone : State := { State.reset with parts := [partOf (placedRecord 2)] }
def outside : State := { alone with phase := .running }

/-- SlotCalendar: a slot and none, the longest extension, and a port with lanes lost. -/
theorem witness_calendar :
    State.reset.phase = .slot ∧ outside.phase = .running ∧ State.reset.slotLen + 64 * 384 ≤ 30720 ∧
    partOk alone (fun p => p.held.isEmpty && !p.queueFull) = true ∧ (alone.parts.map (·.id)).Nodup ∧
    State.reset.time.toNat / 32768 % 32 = 0 ∧
    (let s : State := { State.reset with phase := .starting, ports := List.replicate 12 { Port.down with up := true, lanes := 6 } }
     s.ports[11]? = some { Port.down with up := true, lanes := 6 } ∧ s.engines = []) := by decide +kernel

/-- SlotCalendar: an engine whose next granule has a PEER side is caught exactly as the free value says, and an idle one never. -/
theorem witness_engine_caught :
    let c : Copy := copyOf (copies .free 2) fun y => { y with src := { device with flags := device.flags + 2 } }
    (copies .free 2).caught ⟨0, 0, [.copy c] :: List.replicate 7 [], false, 7, none⟩ 0 = (if Config.stillHolds 0 0 0 then some 0 else none) ∧
      (copies .free 2).caught ⟨0, 0, List.replicate 8 [], false, 0, none⟩ 0 = none := by
  constructor
  · unfold State.caught
    cases Config.stillHolds (0 : Nat) 0 0 <;> decide +kernel
  · unfold State.caught
    cases Config.stillHolds (0 : Nat) 0 0 <;> decide +kernel

/-- A sealed partition whose one range is tier 1 DRAM from 0, its lines at an epoch. -/
def sealed (tag : Word) (seen : List Nat) : State :=
  let range : RangeEntry := BitVec.ofNat 128 (2 ^ 124 + 7 * 2 ^ 121 + 2 ^ 120)
  let i : Integrity := ⟨0, 4, Vector.replicate 2 0, Vector.replicate 2 0, Vector.replicate 2 0, [(2 ^ 34, tag)], seen, 0, false⟩
  { outside with parts := [{ partOf (placedRecord 2) with isSealed := true, ranges := [range], integ := some i }] }

/-- IntegrityAndPower: a visit of a line with a right tag and with a wrong one, and the end of a period. -/
theorem witness_sweep : ∀ tag ∈ ([4, 5] : List Word),
    partOk (sealed tag []) (fun p => !p.frozen && (p.integ.map fun x => x.seen.isEmpty && x.tagOf (2 ^ 34) == tag && x.epoch == 4).getD false) = true ∧
      (sealedOwner (sealed tag []).parts (64 * 2 ^ 34)).map (·.id) = some 0 ∧ (sealed tag []).phase = .running := by
  intro tag h
  simp only [List.mem_cons, List.not_mem_nil, or_false] at h
  rcases h with rfl | rfl <;> decide +kernel

theorem witness_period_end :
    let s : State := { sealed 4 (upFrom (2 ^ 34) 1024) with time := 1000000 }
    partOk s (fun p => (p.integ.map fun x => x.seen.length == p.sealedCount && decide (x.began + 1000000 * p.period ≤ s.time.toNat)).getD false) = true := by
  decide +kernel

theorem witness_pool :
    partOk alone (fun p => p.sheaves.getLsbD 23) = true ∧ alone.phase = .slot ∧ (∀ c ∈ alone.cores, c.id / 16 = 23 → c.team = none) ∧
      ∃ c ∈ (whole (teamOf 2 [] [])).cores, c.id / 16 = 0 ∧ c.team ≠ none := by decide +kernel

/-! ## Witnesses: launches, pre-emption and the driver -/

/-- A launch record of number 2, and of number 33 and 34, the ends of the window after one copied launch. -/
def launchOf (n : Nat) : LaunchBytes := placedRecord 2 + BitVec.ofNat 1024 (n - 1)

theorem witness_commit :
    partOk alone (fun p => !p.frozen && p.tdisp == .unlocked && !p.isSealed && recSeq (launchOf 2) == p.last.toNat + 1 &&
      decide (recSeq (launchOf 2) ≤ p.consumed.toNat + 32) && (recSeq (launchOf 2) % 32 == 2)) = true ∧
    (let s : State := { alone with parts := alone.parts.map fun p => { p with last := 32 } }
     partOk s (fun p => recSeq (launchOf 33) == p.last.toNat + 1 && decide (recSeq (launchOf 33) ≤ p.consumed.toNat + 32)) = true) ∧
    (let s : State := { alone with parts := alone.parts.map fun p => { p with last := 33 } }
     partOk s (fun p => recSeq (launchOf 34) == p.last.toNat + 1 && !decide (recSeq (launchOf 34) ≤ p.consumed.toNat + 32)) = true) := by decide +kernel

theorem witness_record_copy :
    let s : State := { mapped [] alone with parts := (mapped [] alone).parts.map fun p => { p with window := [launchOf 2], last := 2 } }
    partOk s (fun p => p.window == [launchOf 2] && !p.halted && !p.kills.contains (recSeq (launchOf 2)) && s.tablesServe p (launchOf 2)) = true ∧
      (let s1 : State := { s with phase := .slot }
       partOk s1 (fun p => !p.halted && !s1.tablesServe p (launchOf 2)) = true) := by decide +kernel

/-- A launch of two teams, one placed. -/
def waitingLaunch : Launch := ⟨placedRecord 2 + BitVec.ofNat 1024 (2 ^ (8 * 0x0C)), .active, viewTable [], [], [], [], [], [0], [], false, false⟩
def dispatching : State := { alone with
  ready0 := BitVec.ofNat 64 (2 ^ 41 - 1)
  parts := alone.parts.map fun p => { p with launches := [waitingLaunch], pool := [] } }

theorem witness_place :
    partOk dispatching (fun p => !p.frozen && (p.launches.all fun q => recPred q.record == 0) && p.poolChoice 0 == some (waitingLaunch, .fresh [[1]]) &&
      (dispatching.freeCores p 0).head? == some 0) = true ∧ dispatching.queueWaits 0 = [] ∧ recClass waitingLaunch.record = 0 ∧
      recCrew waitingLaunch.record = 1 ∧ (waitingLaunch.views[recQueue waitingLaunch.record]?.getD View.zero).valid = false := by decide +kernel

/-- A launch with a scratchpad image of 320 bytes at virtual address 4096. -/
def imaged : LaunchBytes := placedRecord 2 ||| BitVec.ofNat 1024 ((4096 + 5 * 2 ^ 48) * 2 ^ (8 * 0x58))

theorem witness_image : ∀ k ∈ ([0, 1] : List Nat),
    let s := mapped [] (unitOf imaged { newTeam imaged (viewTable []) [] 0 0 with phase := .image k } eight)
    teamOk s (fun u => u.phase == .image k && recSplen (s.recordOf u) == 5 && recSpimg (s.recordOf u) == 4096 &&
        !(u.views[recQueue (s.recordOf u)]?.getD View.zero).valid) = true ∧
      partOk s (fun p => !p.frozen && translate s p false (4096 + 256 * k) 1 == .ok (tier1At (4096 + 256 * k)) 7 7 false) = true ∧
      s.awaits 0 (.image 0) = false ∧ s.mem.wf = true ∧ s.cutDies = [] ∧ s.mayBegin (tier1At (4096 + 256 * k)) = true ∧
      (s.engine 0 0).frozen = false ∧ 256 * k < 320 := by decide +kernel

theorem witness_team_end : ∀ killed ∈ [true, false],
    let s := whole { teamOf 2 [] [] with phase := .ending killed }
    let s1 : State := { s with parts := s.parts.map fun p => { p with launches := p.launches.map fun l => { l with trig := [0] } } }
    teamOk s1 (fun u => u.phase == .ending killed && s1.quiet 0 u && s1.enginesRun 0 u && u.regions.isEmpty && s1.crewCores u == [0] &&
      ((s1.launchOf u).map fun l => l.trig.contains u.number).getD false) = true := by decide +kernel

/-- PreemptionAndKill: a running team to stop, a stopped one to save, and a launch to kill. -/
theorem witness_preempt :
    teamOk (whole (teamOf 2 [] [])) (fun u => u.part == 0 && u.phase == .runs && u.seq == 1 && !(whole (teamOf 2 [] [])).crewFrozen 0) = true ∧
    (let s0 := whole (teamOf 2 [] [])
     ({ s0 with cores := s0.cores.map fun k => { k with frozen := true } } : State).crewFrozen 0 = true) ∧
    partOk (whole (teamOf 2 [] [])) (fun p => !p.preempting && p.saved.isEmpty) = true ∧
    (let s0 := whole { teamOf 2 [] [] with stopped := true }
     let s : State := { s0 with phase := .running, parts := s0.parts.map fun p => { p with preempting := true } }
     partOk s (fun p => p.preempting && !p.frozen) = true ∧ (s.cores.map (·.id)).Nodup ∧ s.saveCores 0 = [0] ∧ s.savable 0 = true ∧
       teamOk s (fun u => u.regions.isEmpty) = true) ∧
    partOk (whole (teamOf 2 [] [])) (fun p => decide (p.last.toNat < 2) && (p.launch 1).any (fun l => l.life == .active) && (p.launch 0).isNone) = true := by
  decide +kernel

/-- DriverActions: a suspended copy of the in-queue, and nothing to answer. -/
theorem witness_retry :
    let w : XWait := ⟨{ Record.ofKind 0x0D with stamp := 6 }, .tile 0 false, 1, []⟩
    let s0 := moving .filling 0
    let c := { copyOf (copies .free 2) id with susp := some 6 }
    let s : State := { s0 with
      parts := s0.parts.map fun p => { p with xwaits := [w] }
      cores := s0.cores.map fun k => { k with team := k.team.map fun u => { u with inq := [.copy c] } } }
    partOk s (fun p => p.answered 6 == some w && p.answered 7 == some w && (p.answered 8).isNone) = true ∧
      teamOk s (fun u => u.inq == [.copy c] && (u.handle c.h).isSome && u.groups.any fun g => !g.triggered && !g.ended) = true ∧ c.core = 0 := by
  decide +kernel

/-- DriverActions: a halt in a slot of the window, and a fault queue with a record held. -/
theorem witness_halt :
    let h : Halt := ⟨Record.ofKind 9, 0xFF, 1, true, false, none, some 5⟩
    let s := whole (inGroup (fun g => { g with halts := [h] }) (teamOf 2 [] []))
    s.slotGroup 0 5 = some (0, 0) ∧ groupOk s (fun g => g.halts == [h]) = true ∧ teamOk s (fun u => u.phase == .runs) = true ∧
    (let p : Part := { partOf (placedRecord 2) with held := [Record.ofKind 9], fqprod := 64 }
     p.queueFull = true ∧ ({ p with fqcons := 1 } : Part).queueFull = false) := by decide +kernel

/-! ## Witnesses: the management core, the host port and the fabric -/

/-- ManagementCore. -/
theorem witness_create :
    let g : PartCfg := ⟨1, 2 ^ 24, [], 0, [], 0, false, 1⟩
    alone.part g.id.val = none ∧ (∀ p ∈ alone.parts, p.sheaves &&& g.sheaves = 0 ∧ p.engines &&& g.engines = 0) ∧ g.ranges = [] ∧
      (∃ p ∈ alone.parts, p.sheaves &&& 1 ≠ 0) ∧ (alone.part 0).isSome = true := by decide +kernel

theorem witness_configuration :
    partOk alone (fun p => p.tdisp == .unlocked && p.integ.isNone) = true ∧ alone.phase = .slot ∧
    (∀ q ∈ alone.parts, q.id ≠ 0 → q.sheaves &&& 0x1FFFFFF = 0 ∧ q.engines &&& 7 = 0) ∧ (∀ c ∈ alone.cores, c.team = none) ∧
    (∀ e ∈ alone.engines, ∀ q ∈ e.queues, q = []) ∧ outside.phase ≠ .slot ∧ overlap (0 : RangeEntry) 0 = false := by decide +kernel

theorem witness_release :
    let s : State := { alone with cores := [⟨5, none, [], none, true⟩] }
    (s.core 5).frozen = true ∧ s.team 5 = none ∧ (State.reset.tenants.getD 255 0).getLsbD 63 = false ∧ State.reset.cutDies = [] := by decide +kernel

/-- HostAccess: bytes of a range, bytes beyond it, a granted vault and another. -/
theorem witness_host :
    let s := mapped [] alone
    partOk s (fun p => !p.portFrozen && p.tdisp == .unlocked && (iaAddrs p 1 (fun _ => true) 0xFFFFC 4).isSome &&
      (iaAddrs p 1 (fun _ => true) 0xFFFFD 4).isNone && p.sheaves.getLsbD (24 * 0 + 95 / 4) && !p.sheaves.getLsbD 24) = true ∧
      s.mem.wf = true ∧ s.cutDies = [] ∧ (s.part 1) = none := by decide +kernel

theorem witness_host_completion :
    let r : Request := ⟨9, true, 0, 0, false, upFrom (hostAt 0) 4096, .fill 0 0 0⟩
    let s : State := { bound ⟨.invalid, 0, some 1, none⟩ with requests := [r] }
    let s1 : State := { s with parts := s.parts.map fun p => { p with tdisp := .run } }
    s.requests = [r] ∧ partOk s (fun p => !p.portFrozen && !s.tlpLost p) = true ∧ partOk s1 (fun p => s1.tlpLost p) = true ∧ r.addrs.length = 4096 ∧ s.region 0 0 = some (region ⟨.invalid, 0, some 1, none⟩) ∧
      ((region ⟨.invalid, 0, some 1, none⟩).slot 0).filling = some 1 ∧
      teamOk s (fun u => u.groups.any (fun g => !g.triggered && !g.ended) && u.groups.all (·.log.isEmpty)) = true ∧ s.mem.wf = true ∧ s.cutDies = [] :=
  ⟨rfl, by decide +kernel, by decide +kernel, length_upFrom _ _, by decide +kernel, by decide +kernel, by decide +kernel, by decide +kernel, rfl⟩

/-- Attestation: each state of a TDI, and a secured session. -/
theorem witness_attestation : ∀ x ∈ ([.unlocked, .locked, .run, .error] : List Tdisp),
    let s : State := { alone with parts := alone.parts.map fun p => { p with tdisp := x }, spdm := ⟨true, true, true, true, true, 7⟩ }
    partOk s (fun p => p.tdisp == x) = true ∧ s.spdm.secured = true ∧ s.spdm.session = true := by decide +kernel

/-- A port up to package 7, whose partition 3 may read, write, use atomics and launch at partition 0; and a flit of it in clear. -/
def linked (rights : Nat) : State :=
  { mapped [] alone with
    ports := ⟨true, 8, 7, false, false⟩ :: List.replicate 11 Port.down
    tenants := BitVec.ofNat 64 (2 ^ 63 + 7 * 2 ^ 47 + 3 * 2 ^ 40 + rights) :: List.replicate 255 0 }
def flit : Flit := ⟨0, 7, 3, 0, 0x55, false, false, 0⟩

/-- Flits: accepted and turned away, with the rights and without. -/
theorem witness_flits :
    ((linked (15 * 2 ^ 28 + 2 ^ 22)).receive flit).2 = true ∧ ((linked 0).receive { flit with port := 1 }).2 = false ∧
    (let s := ((linked (15 * 2 ^ 28 + 2 ^ 22)).receive flit).1
     (∀ k ∈ ([29, 30, 31] : List Nat), ((s.actsFor flit k).map fun p => p.id == 0 && !p.isSealed) = some true) ∧
     ((s.actsFor flit 30).bind fun p => s.vaAddrs p 2 0x7FFC 4) = some (upFrom (tier1At 0x7FFC) 4) ∧
     ((s.actsFor flit 29).bind fun p => s.vaAddrs p 4 0x7FFC 4) = some (upFrom (tier1At 0x7FFC) 4) ∧ s.mem.wf = true ∧ s.cutDies = [] ∧
     (s.launchRefused flit 0 (launchOf 2)) = none ∧ recPart (launchOf 2) = 0 ∧ partOk s (fun p => p.windowOpen && p.last == 1) = true) ∧
    (let s := ((linked 0).receive flit).1
     s.actsFor flit 29 = none ∧ s.actsFor flit 30 = none ∧ s.actsFor flit 31 = none ∧ (s.tenantOf flit).isSome = true) ∧
    (((mapped [] { alone with ports := (linked 0).ports }).receive flit).1.tenantOf flit) = none := by decide +kernel

theorem witness_responses : ∀ atomic ∈ [true, false],
    let r : Request := ⟨0x55, false, 7, 0, atomic, [peerAt 7 64], .access 5 0 0 0⟩
    let s := ((({ linked 0 with requests := [r] } : State)).receive flit)
    s.2 = true ∧ s.1.requests = [r] ∧ r.tag = flit.tag ∧ r.pkg = flit.spkg ∧ s.1.team 5 = none := by decide +kernel

theorem witness_time :
    let s : State := { State.reset with ports := [⟨true, 8, 7, false, true⟩] }
    s.timePorts.head? = some flit.port.val ∧ s.parts = [] := by
  exact ⟨by simp [State.timePorts, placesFrom, flit], rfl⟩

/-- Links: a port without a request, one whose request it carries, a port of four and of five lanes, and a stream that may move. -/
theorem witness_links :
    (linked 0).ports[0]? = some ⟨true, 8, 7, false, false⟩ ∧ (linked 0).requestsOn 0 = [] ∧
    (let r : Request := ⟨4, false, 7, 0, false, [peerAt 7 64], .write 0⟩
     let x : Stream := ⟨false, 0, 7, 0, 0, 5, none, none, false⟩
     let s : State := { linked 0 with requests := [r], streams := [x] }
     s.requestsOn 0 = [r] ∧ s.outStream 0 7 = some x ∧ s.mem.wf = true ∧ s.portFor 7 = some 0 ∧ s.streamBusy x = true ∧
     ({ s with requests := [], ports := [Port.down, ⟨true, 8, 7, false, false⟩] } : State).portFor 7 = some 1 ∧
     ({ s with requests := [], ports := [Port.down, ⟨true, 8, 7, false, false⟩] } : State).streamBusy x = false) ∧
    4 - 1 < 4 ∧ 5 ≤ 5 := by decide +kernel

/-! ## Witnesses: the machine as a whole -/

/-- EncodeDecodeRoundTrip, for an instruction and for a word. -/
theorem witness_round_trip :
    (Instr.iadd ⟨.always, false, 3, .v 1, .imm 5⟩).wellFormed = true ∧ encode (.iadd ⟨.always, false, 3, .v 1, .imm 5⟩) = some 0x0000C0F5 ∧
      0xFE200000 < 2 ^ 32 ∧ decodeWord 0xFE200000 = some (.hgath 1) := by decide

/-- StepRunsDecoded: the placed instruction is what the group's turn executes; and a lane alone, a hint word, an event and a default turn. -/
def placed : State := State.reset.withFetchWord 32 0x0000C0F5

theorem witness_turn :
    placed.turns = [.unit 0 0] ∧ teamOk placed (fun t => (t.groups[0]?).any fun g => g.refreshBroadcast == g && placed.runs 0 && !t.stopped && !g.mustMove && !placed.barred 0 t 0 g && g.open_ placed.progress &&
      g.standing == eight && (g.standing.all fun n => (g.lane n).free placed.progress && (g.lane n).pending.isEmpty) && !g.place.bank &&
      decide (g.place.pc.toNat < 16 * recCodeLen (placed.recordOf t)) &&
      wordAt (placed.core 0).fetch (recCode (placed.recordOf t) + 4 * g.place.pc.toNat) == some 0x0000C0F5) = true ∧
      (0x0000C0F5 : Word).toNat / 2 ^ 26 ≠ 0x3F ∧ placed.front 0 0 = .issue ⟨[], decodeWord 0x0000C0F5, 1⟩ eight ∧
      ((placed.take 0 0 eight (placed.frontPlace 0 0) 1 false).group 0 0).isSome = true := by decide +kernel

theorem witness_alone :
    let s0 := State.reset.placed 0x0000C0F5
    let s : State := { s0 with
      turns := [.lane 0 0 3]
      cores := s0.cores.map fun k => { k with
        team := k.team.map (inGroup fun g => g.modLane 3 fun l => { l with pc := 4 })
        fetch := [⟨0, List.replicate 16 0x0000C0F5⟩] } }
    (s.group 0 0).isSome = true ∧ s.alone 0 0 3 = .issue ⟨[], decodeWord 0x0000C0F5, 1⟩ ∧
      ((s.take 0 0 [3] ⟨false, 4⟩ 1 true).group 0 0).isSome = true := by decide +kernel

theorem witness_hinted :
    let t := teamOf 2 [] []
    let ls : List CodeLine := [⟨0, 0xFC091A2B :: List.replicate 15 0x4002C878⟩]
    fetchAt t (placedRecord 2) ls ⟨false, 0⟩ [] = .unit ⟨[decodeWord 0xFC091A2B], decodeWord 0x4002C878, 2⟩ ∧
      wordAt ls (recCode (placedRecord 2) + 4 * (0 + 1)) = some 0x4002C878 ∧ 0 + 1 < 16 * recCodeLen (placedRecord 2) := by decide +kernel

theorem witness_default :
    ({ placed with turns := [] } : State).due = false ∧ ({ placed with turns := [] } : State).flip = false ∧
      ({ placed with turns := [] } : State).unitMove = some (.unit 0 0) ∧ encode .frameStart = none := by decide +kernel

/-- InvariantKept. -/
theorem witness_invariant : State.reset.Inv ∧ ∃ t, step State.reset = .next t := ⟨⟨by decide, rfl⟩, _, rfl⟩

/-- UnitConditions: a unit beyond its candidate, one without fuel, one forbidden in contained state, a latch without a chain, a register beyond the
allocation, a reserved hint, a poisoned register that is read; each is refused with its own cause. A lane whose guard is false reads no
latch, and a poisoned register that is only written fails nothing. -/
theorem test_conditions :
    issuesIn (lone (fun l => { boxed l with pc := 9 }) []) (fun c => ((c.g.lane 0).begin_ (.nop ⟨.always⟩) c).2 == some .codeBounds) = true ∧
    issuesIn (lone (fun l => { boxed l with fuel := 0 }) []) (fun c => ((c.g.lane 0).begin_ (.nop ⟨.always⟩) c).2 == some .fuel) = true ∧
    issuesIn (lone boxed []) (fun c => ((c.g.lane 0).begin_ (.brk ⟨.always⟩) c).2 == some .forbidden) = true ∧
    issuesIn (lone boxed []) (fun c => ((c.g.lane 0).begin_ (.iadd ⟨.always, false, 32, .zero, .zero⟩) c).2 == some .illegal) = true ∧
    issuesIn (lone id []) (fun c => ((c.g.lane 0).begin_ (.iadd ⟨.always, false, 3, .b 0, .zero⟩) c).2 == some .latch) = true ∧
    issuesIn (hinted [.gath 1] (lone id [])) (fun c => ((c.g.lane 0).begin_ (.nop ⟨.always⟩) c).2 == some .illegal) = true ∧
    issuesIn (lone (fun l => { l with bad := [1] }) []) (fun c => ((c.g.lane 0).begin_ (.iadd ⟨.always, false, 3, .v 1, .zero⟩) c).2 == some (.dataError 63)) = true ∧
    issuesIn (lone (fun l => { l with bad := [3] }) []) (fun c => ((c.g.lane 0).begin_ (.iadd ⟨.always, false, 3, .v 1, .zero⟩) c).2 == none) = true ∧
    issuesIn (lone id []) (fun c => ((c.g.lane 0).begin_ (.iadd ⟨.on 0, false, 3, .b 0, .zero⟩) c).2 == none) = true := by decide +kernel

/-- UnitConditions: a unit that needs its whole group and does not have it, and one of another role. -/
theorem witness_roles :
    issuesIn (unitOf (placedRecord 2) (teamOf 2 [] []) [0]) (fun c => decide ((∀ n ∈ c.lanes, Passes c .trig n) ∧ Instr.trig.needsFull = true ∧ c.full = false)) = true ∧
    issuesIn (whole (teamOf 2 [] [])) (fun c => decide ((∀ n ∈ c.lanes, Passes c (.mzero ⟨0⟩) n) ∧ (Instr.mzero ⟨0⟩).needsFull = true ∧ c.full = true ∧
      (Instr.mzero ⟨0⟩).role = some .matrix ∧ c.g.role = .vector)) = true := by decide +kernel

/-- LaneAndScalarFrame: a lane instruction of a whole group. -/
theorem witness_frame :
    ∃ c, Issuing (whole (teamOf 2 [] [])) c ∧ (∀ n ∈ c.lanes, Executes (whole (teamOf 2 [] [])) c (.iadd ⟨.always, false, 3, .v 1, .imm 5⟩) n (c.g.lane n)) ∧
      Still c ∧ c.lanes ≠ [] ∧ (Instr.iadd ⟨.always, false, 3, .v 1, .imm 5⟩).actsOnLanes = true := all_execute_of (by decide +kernel)

/-! ## Witnesses of the wider statements -/

/-- FloatResults: 1 and 128, on both sides of FEXP2's overflow; 1 and the last table entry for FLOG2. -/
theorem witness_exp_log :
    (RneInt ((valOf fmtF32 0x3F800000).rat * 32) 32 ∧ (32 : Int) < 4096) ∧
    (RneInt ((valOf fmtF32 0x43000000).rat * 32) 4096 ∧ (valOf fmtF32 0x43000000).isFin = true) ∧
    (∀ c ∈ [(0x3F800000, 0), (0x3FFA83B3, 31)], (valOf fmtF32 c.1).isFin = true ∧ 0 < (valOf fmtF32 c.1).rat ∧
      (valOf fmtF32 c.1).rat = (2 : Rat) ^ (0 : Int) * (valOf fmtF32 c.1).rat ∧ 1 ≤ (valOf fmtF32 c.1).rat ∧ (valOf fmtF32 c.1).rat < 2 ∧
      (valOf fmtF32 (exp2Table.getD c.2 0)).rat ≤ (valOf fmtF32 c.1).rat ∧
      ∀ i, i < 32 → c.2 < i → (valOf fmtF32 c.1).rat < (valOf fmtF32 (exp2Table.getD i 0)).rat) := by
  unfold RneInt
  decide +kernel

/-- FloatSpecialValues, FloatRounding: an infinity of each format with a finite nonzero operand, a code of the top exponent, E4M3's NaN,
magnitudes at the ends of FP8, and roots of positive and negative numbers. -/
theorem witness_float_ends :
    (∀ fi, valOf fmtF32 (flush fmtF32 fi 0x7F800000) = .inf false ∧ valOf fmtBF16 (flush fmtBF16 fi 0xFF80) = .inf true ∧
      (valOf fmtF32 (flush fmtF32 fi 0x3F800000)).isFin = true ∧ (valOf fmtF32 (flush fmtF32 fi 0x3F800000)).rat ≠ 0) ∧
    0x7F80 / 2 ^ 7 % 2 ^ 8 = 2 ^ 8 - 1 ∧ 0xFF % 2 ^ 7 = 2 ^ 7 - 1 ∧
    (29 : Rat) * 2 ^ (4 : Int) ≤ 464 ∧ 464 < (465 : Rat) * 2 ^ (0 : Int) ∧ (61439 : Rat) * 2 ^ (0 : Int) < 61440 ∧ 61440 ≤ (15 : Rat) * 2 ^ (12 : Int) ∧
    0 < (valOf fmtF32 0x3F800000).rat ∧ (valOf fmtF32 0xBF800000).rat < 0 := by decide +kernel

/-- PlaneElements: a block of ones, one with an infinity, one of zeros; elements on both sides of 1. -/
theorem witness_blocks :
    (let val := fun j : Nat => valOf fmtF32 ((List.replicate 16 0x3F800000).getD j 0)
     (∀ j, j < 16 → (val j).isFin = true ∧ |(val j).rat| ≤ |(val 0).rat|) ∧ (2 : Rat) ^ (0 : Int) ≤ |(val 0).rat| ∧ |(val 0).rat| < (2 : Rat) ^ (1 : Int)) ∧
    (∃ j, j < 16 ∧ (valOf fmtF32 ((0x7F800000 :: List.replicate 15 0).getD j 0)).isFin = false) ∧
    (∀ j, j < 16 → (valOf fmtF32 ((List.replicate 16 0).getD j 0)).isFin = true ∧ (valOf fmtF32 ((List.replicate 16 0).getD j 0)).rat = 0) ∧
    (1 : Rat) * 2 ^ (-1 - 0 : Int) < 1 ∧ (2 : Rat) ^ 2 ≤ (7 : Rat) * 2 ^ (0 - 0 : Int) ∧ (7 : Rat) * 2 ^ (0 - 0 : Int) < 2 ^ 3 := by
  refine ⟨by decide +kernel, ⟨0, by decide +kernel⟩, by decide +kernel, by decide +kernel⟩

/-- What `AccessesOne` asks of lane `n`. -/
abbrev Alone (c : Ctx) (i : Instr) (g : Guard) (n : Nat) : Prop :=
  Passes c i n ∧ c.lanes = [n] ∧ g.holds (c.g.lane n) = true ∧ Still c ∧ c.g.log = []

theorem one_of_alone {s : State} {c : Ctx} {i : Instr} {g : Guard} {n : Nat} (h : Issuing s c) (q : Alone c i g n) :
    AccessesOne s c i g n (c.g.lane n) :=
  ⟨executes_of_passes h q.1, q.2.1, q.2.2.1, calm_of_still q.2.2.2.1, q.2.2.2.2⟩

theorem one_of {s : State} {i : Instr} {g : Guard} {n : Nat} {p : Ctx → Lane → Prop} [∀ c l, Decidable (p c l)]
    (h : issuesIn s (fun c => decide (Alone c i g n ∧ p c (c.g.lane n))) = true) : ∃ c l, AccessesOne s c i g n l ∧ p c l := by
  obtain ⟨c, hc, hp, hq⟩ := issuing_of (p := fun c => Alone c i g n ∧ p c (c.g.lane n)) h
  exact ⟨c, _, one_of_alone hc hp, hq⟩

theorem behind_of {s : State} {i : Instr} {g : Guard} {n : Nat} {p : Ctx → Lane → Prop} [∀ c l, Decidable (p c l)]
    (h : issuesIn s (fun c => decide (Passes c i n ∧ c.lanes = [n] ∧ g.holds (c.g.lane n) = true ∧ c.alone = false ∧ c.g.wait = .none ∧
      p c (c.g.lane n))) = true) : ∃ c l, AccessesOneBehind s c i g n l ∧ p c l := by
  obtain ⟨c, hc, h1, h2, h3, h4, h5, hq⟩ := issuing_of (p := fun c => Passes c i n ∧ c.lanes = [n] ∧ g.holds (c.g.lane n) = true ∧
    c.alone = false ∧ c.g.wait = .none ∧ p c (c.g.lane n)) h
  exact ⟨c, _, ⟨executes_of_passes hc h1, h2, h3, h4, h5⟩, hq⟩

/-- The spill view at w63 of three spills for each of eight threads, and a lane with a return stack and a spill count. -/
def spillView : View := viewOf 0 0x03 2 4096 8 3 24
def spiller (v : View) (stack : List Word) (n : BitVec 16) : State := lone (fun l => { l with stack := stack, spill := n }) [(63, v)]

/-- What BranchesAndCalls asks of w63, and of the place of a spill. -/
abbrev Fits (c : Ctx) (n count : Nat) : Prop :=
  let v := c.view 63
  v.valid = true ∧ v.rank = 2 ∧ v.ty = 0x03 ∧ v.hasR = true ∧ v.hasW = true ∧ (BitVec.ofNat 32 (c.env n).tid).toNat < v.extN 0 ∧ count < v.extN 1
abbrev SpillsAt (s : State) (c : Ctx) (n count : Nat) (k : Access) (off a : Nat) : Prop :=
  let v := c.view 63
  v.sram = true ∧ v.region = none ∧ a < 2 ^ 40 ∧ s.firewall c.t.part a = true ∧ s.strayAt a = [] ∧ s.poisoned a 8 = false ∧
    v.resolve k [(BitVec.ofNat 32 (c.env n).tid).toNat, count] 8 = .ok off ∧ s.sramAt c.core c.t v off = some a

/-- BranchesAndCalls: calls on a full stack at the last spill and beyond it; RET of an empty stack with a spill, with none, and with a bad view. -/
theorem witness_spill :
    (∀ i ∈ ([.call ⟨.always, 1⟩, .callr ⟨.always, .imm 8⟩] : List Instr),
      (∃ c l, AccessesOne (spiller spillView [1, 2, 3, 4] 2) c i .always 0 l ∧ l.inside = none ∧ l.stack = [1, 2, 3, 4] ∧
        Fits c 0 l.spill.toNat ∧ SpillsAt (spiller spillView [1, 2, 3, 4] 2) c 0 l.spill.toNat .store 16 (scratchAt 0 4112)) ∧
      ∃ c l, AccessesOne (spiller spillView [1, 2, 3, 4] 3) c i .always 0 l ∧ l.inside = none ∧ l.stack = [1, 2, 3, 4] ∧ ¬ Fits c 0 l.spill.toNat) ∧
    (∃ c l, AccessesOne (spiller spillView [] 1) c (.ret ⟨.always⟩) .always 0 l ∧ l.inside = none ∧ l.stack = [] ∧ l.spill ≠ 0 ∧
      Fits c 0 (l.spill - 1).toNat ∧ SpillsAt (spiller spillView [] 1) c 0 (l.spill - 1).toNat .load 0 (scratchAt 0 4096)) ∧
    (∃ c l, AccessesOne (spiller spillView [] 0) c (.ret ⟨.always⟩) .always 0 l ∧ l.inside = none ∧ l.stack = [] ∧ l.spill = 0) ∧
    (∃ c l, AccessesOne (spiller pad [] 1) c (.ret ⟨.always⟩) .always 0 l ∧ l.inside = none ∧ l.stack = [] ∧ l.spill ≠ 0 ∧ ¬ Fits c 0 (l.spill - 1).toNat) := by
  refine ⟨fun i hi => ?_, one_of (by decide +kernel), one_of (by decide +kernel), one_of (by decide +kernel)⟩
  simp only [List.mem_cons, List.not_mem_nil, or_false] at hi
  rcases hi with rfl | rfl <;> exact ⟨one_of (by decide +kernel), one_of (by decide +kernel)⟩

/-- TrapAndBreakpoint: a TRAP of a contained lane, and one with a false guard. -/
theorem witness_trap_contained :
    (∃ c l, Executes (lone boxed []) c (.trap ⟨.always, .v 3, 31⟩) 0 l ∧ l.inside.isSome = true) ∧
    (∃ c l, Executes (lone id []) c (.brk ⟨.on 0⟩) 0 l ∧ Guard.holds (.on 0) (l.started (.brk ⟨.on 0⟩) c) = false) :=
  ⟨executes_of (by decide +kernel), executes_of (by decide +kernel)⟩

/-- A view of 64 words by code, of a DEVICE or HOST page, and the state whose lane 0 accesses it at the coordinate in v4, with data in v8. -/
def codeView : View := viewOf 6 0x02 1 0 64 0 0
def hostPage : View := { device with flags := device.flags + 1 }
def reaching (x : Word) (v : View) : State := lone (fun l => { l with v := (l.v.set 4 x).set 8 3 }) [(1, v)]

/-- LoadsAndStores: a word through a CODE view. -/
theorem witness_code_access : ∀ i ∈ ([.ld ⟨.always, .w32, 8, 1, 4⟩, .st ⟨.always, .w32, 8, 1, 4⟩] : List Instr),
    ∃ c l, AccessesOne (mapped [] (reaching 5 codeView)) c i .always 0 l ∧ ordOf c.hints = none ∧ c.maskOk l 1 = true ∧ (c.view 1).space = 6 ∧
      (c.view 1).resolve (memKind i) (c.coordsOf i 0) (memBytes i) = .ok 20 ∧
      ((mapped [] (reaching 5 codeView)).part c.t.part).map (fun p => walk (mapped [] (reaching 5 codeView)) p false ((c.view 1).offset + 20)
        (if memKind i = .store then 2 else 1)) = some (.ok (tier1At 20) 7 7 false) ∧
      (mapped [] (reaching 5 codeView)).mayBegin (tier1At 20) = true ∧ (mapped [] (reaching 5 codeView)).poisoned (tier1At 20) 4 = false := by
  intro i hi
  simp only [List.mem_cons, List.not_mem_nil, or_false] at hi
  rcases hi with rfl | rfl <;> exact one_of (by decide +kernel)

/-- What LoadsAndStores calls refused and unbound. -/
abbrev Refused (c : Ctx) (i : Instr) : Prop :=
  let v := c.view 1
  let k := memKind i
  let b := memBytes i
  let cs := fun d => (c.coordsOf i 0).getD d 0
  let e := elemBits v.ty / 8
  let last := cs (v.rank - 1)
  let rows := ((List.range (v.rank - 1)).map fun d => cs d * v.strN d).sum
  v.valid = false ∨ ¬ (v.ty ≤ 8 ∨ v.ty = 0x0F ∨ v.ty = 0x10 ∨ v.ty = 0x11) ∨ (∃ d, d < v.rank ∧ v.extN d ≤ cs d) ∨
    v.extN (v.rank - 1) < last + max 1 (b / e) ∨ (v.offset + (rows + last * e)) % b ≠ 0 ∨
    (k = .load ∧ v.hasR = false) ∨ (k = .store ∧ v.hasW = false) ∨ (k = .atomic ∧ v.hasA = false) ∨ v.stook = true ∨ (v.space = 6 ∧ k = .atomic)
abbrev Unbound (c : Ctx) : Prop := (c.view 1).translated = true ∧ (c.view 1).region = none

/-- LoadsAndStores: an invalid view, a type that is not for lanes, the first coordinate and the first element beyond, a misaligned byte, each
missing right, STOOK, an atomic through CODE. -/
def refusals : List (Instr × Word × View) :=
  let off := fun k : Nat => { pad with flags := pad.flags - BitVec.ofNat 64 (2 ^ k) }
  [(.ld ⟨.always, .w32, 8, 1, 4⟩, 0, View.zero), (.st ⟨.always, .w32, 8, 1, 4⟩, 0, { pad with flags := pad.flags + BitVec.ofNat 64 (0x0C * 2 ^ 6) }),
    (.lda ⟨.always, .core, 8, 1, 4⟩, 64, pad), (.ld ⟨.always, .w64, 8, 1, 4⟩, 63, pad), (.stl ⟨.always, .core, 8, 1, 4⟩, 2, bytesView),
    (.ld ⟨.always, .w32, 8, 1, 4⟩, 0, off 16), (.st ⟨.always, .w32, 8, 1, 4⟩, 0, off 17), (.atom ⟨.always, .add, 8, 1, 4⟩, 0, off 18),
    (.ld ⟨.always, .w32, 8, 1, 4⟩, 0, { pad with flags := pad.flags + BitVec.ofNat 64 (2 ^ 20) }), (.atomx ⟨.always, .xchg, 8, 1, 4⟩, 0, codeView)]

theorem witness_refusals : ∀ x ∈ refusals, issuesIn (reaching x.2.1 x.2.2) (fun c => decide (Alone c x.1 .always 0 ∧
      (c.g.lane 0).inside = none ∧ Refused c x.1)) = true := by decide +kernel

/-- LoadsAndStores: an unbound view, one of HOST, and a contained lane whose mask shuts its view out. -/
theorem witness_unbound :
    (∀ i ∈ ([.ld ⟨.always, .w32, 8, 1, 4⟩, .atomx ⟨.always, .fadd, 8, 1, 4⟩] : List Instr), ∀ v ∈ [device, hostPage],
      ∃ c l, AccessesOne (reaching 0 { v with region := none }) c i .always 0 l ∧ l.inside = none ∧ ¬ Refused c i ∧ Unbound c) ∧
    (∃ c l, AccessesOne (unitOf (placedRecord 2) { teamOf 2 [(1, hostPage)] [] with regions := [{ region ⟨.clean, 0, none, none⟩ with space := 4 }] } [0]) c
      (.atomx ⟨.always, .fadd, 8, 1, 4⟩) .always 0 l ∧ l.inside = none ∧ ¬ Refused c (.atomx ⟨.always, .fadd, 8, 1, 4⟩) ∧ ¬ Unbound c ∧
      (c.view 1).space = 4 ∧ memKind (.atomx ⟨.always, .fadd, 8, 1, 4⟩) = .atomic ∧ pcieAtomic (.atomx ⟨.always, .fadd, 8, 1, 4⟩) = false) ∧
    ∃ c l, AccessesOne (unitOf (placedRecord 2) (inGroup (fun g => { g.modLane 0 boxed with cmask := 0 }) (teamOf 2 [(1, pad)] [])) [0]) c
      (.st ⟨.always, .w32, 8, 1, 4⟩) .always 0 l ∧ l.inside.isSome = true ∧ c.g.cmask.getLsbD 1 = false := by
  refine ⟨fun i hi v hv => ?_, one_of (by decide +kernel), one_of (by decide +kernel)⟩
  simp only [List.mem_cons, List.not_mem_nil, or_false] at hi hv
  rcases hi with rfl | rfl <;> rcases hv with rfl | rfl <;> exact one_of (by decide +kernel)

/-- The lane of `reaching` behind an HORD, the line of its word tagged as given, where a team has one clean slot. -/
def ordering (o : OpHord) (q : List Tag) : State :=
  let t : Team := inLane (fun l => { l with v := (l.v.set 4 0).set 8 3 }) { teamOf 2 [(1, viewOf 0 0x02 1 16384 64 0 0)] [] with regions := [region ⟨.clean, 0, none, none⟩] }
  { hinted [.ord o] (unitOf (placedRecord 2) t [0]) with tags := q }

/-- OrderedAccesses: every ordered instruction, narrower than DIE and from DIE on, on an untagged line and on one that another lane tagged. -/
def orderedForms : List (Instr × OpHord) :=
  let ld := .ld ⟨.always, .w32, 8, 1, 4⟩
  let st := .st ⟨.always, .w32, 8, 1, 4⟩
  let atom := .atom ⟨.always, .add, 8, 1, 4⟩
  let atomx := .atomx ⟨.always, .xchg, 8, 1, 4⟩
  [(ld, ⟨.acq, .cluster, false⟩), (ld, ⟨.sc, .die, false⟩), (st, ⟨.rel, .cluster, false⟩), (st, ⟨.sc, .system, false⟩),
    (.lda ⟨.always, .die, 8, 1, 4⟩, ⟨.sc, .die, false⟩), (.stl ⟨.always, .system, 8, 1, 4⟩, ⟨.rel, .system, false⟩), (atom, ⟨.acq, .cluster, true⟩),
    (atom, ⟨.rel, .die, false⟩), (atomx, ⟨.ar, .package, false⟩), (atomx, ⟨.sc, .lane, false⟩)]

theorem witness_ordered : ∀ x ∈ orderedForms, ∀ q ∈ ([[], [⟨scratchAt 0 16384 / 64, 1, 3, 0, 3, 5⟩]] : List (List Tag)),
    issuesIn (ordering x.2 q) (fun c => decide (Alone c x.1 .always 0 ∧ c.maskOk (c.g.lane 0) 1 = true ∧ (c.view 1).sram = true ∧
      (c.view 1).region = none ∧ (ordering x.2 q).placeOf c x.1 1 0 = some (scratchAt 0 16384) ∧
      (∀ r ∈ c.t.regions, ∀ k ∈ r.slots, k.state ≠ .dirty) ∧ (ordering x.2 q).firewall c.t.part (scratchAt 0 16384) = true ∧
      (ordering x.2 q).strayAt (scratchAt 0 16384) = [] ∧ ∀ z ∈ q, z.legal (scratchAt 0 16384) = true)) = true := by decide +kernel

/-- OrderedAccesses: an STL behind a logged access of its lane, and tags of every scope, each with an origin that a release of it writes. -/
theorem witness_behind :
    let e : LogEntry := ⟨0, ⟨false, 0⟩, 1, .nop ⟨.always⟩, [], [⟨0, [], []⟩], 1, device, [], false⟩
    let s := unitOf (placedRecord 2) (inGroup (fun g => { g with log := [e] }) (teamOf 2 [(1, pad)] [])) [0]
    ∃ c l, AccessesOneBehind s c (.stl ⟨.always, .core, 8, 1, 4⟩) .always 0 l ∧ c.maskOk l 1 = true ∧ s.logged c.core c.gi 0 = true :=
  behind_of (by decide +kernel)

theorem witness_tags : ∀ z ∈ ([.lane, .group, .core, .sheaf, .cluster, .die, .package, .system] : List Scope), ∀ core ∈ ([0, 1, 1535] : List Nat),
    let a := scratchAt core 0
    dieOfAddr a = some (core / 384) ∧ (⟨a / 64, z.code, originOf z a core 31, core, 31, 63⟩ : Tag).legal a = true := by decide +kernel

/-- Atomics: a word of a page in a clean slot, with its home in DEVICE memory, and in HOST memory by a translation held. -/
def atHome : State := mapped [] (bound ⟨.clean, 0, none, none⟩)
def atHost : State :=
  let s := unitOf (placedRecord 2) { teamOf 2 [(1, hostPage)] [] with regions := [{ region ⟨.clean, 0, none, none⟩ with space := 4 }] } [0]
  { s with parts := s.parts.map fun p => { p with tlb := [⟨0, hostAt 0, 7, 7, false⟩] } }

theorem witness_atomic_home : ∀ i ∈ ([.atom ⟨.always, .add, 8, 1, 4⟩, .atomx ⟨.always, .cas, 8, 1, 4⟩] : List Instr),
    (∃ c l, AccessesOne atHome c i .always 0 l ∧ ordOf c.hints = none ∧ c.maskOk l 1 = true ∧ atHome.mem.wf = true ∧ atHome.cutDies = [] ∧
      (c.view 1).region = some 0 ∧ atHome.region c.core 0 = some (region ⟨.clean, 0, none, none⟩) ∧ (c.view 1).resolve .atomic (c.coordsOf i 0) 4 = .ok 0 ∧
      (region ⟨.clean, 0, none, none⟩).maskAt c.core + 1024 ≤ 2 ^ 40 ∧ atHome.wbAwaits c.t.part c.core 0 0 = false ∧
      atHome.maskAny c.core (region ⟨.clean, 0, none, none⟩) 0 = false ∧
      atHome.slotHome c.t.part (region ⟨.clean, 0, none, none⟩) 0 4 = .ok (tier1At 0) 7 7 false ∧ (c.view 1).space = 3 ∧ 2 ^ 40 ≤ tier1At 0 ∧
      tier1At 0 < 2 ^ 50 ∧ atHome.mayBegin (tier1At 0) = true ∧ atHome.poisoned (tier1At 0) 4 = false) ∧
    ∃ c l, AccessesOne atHost c i .always 0 l ∧ ordOf c.hints = none ∧ c.maskOk l 1 = true ∧ atHost.mem.wf = true ∧ atHost.cutDies = [] ∧
      (c.view 1).region = some 0 ∧ atHost.region c.core 0 = some { region ⟨.clean, 0, none, none⟩ with space := 4 } ∧ (c.view 1).resolve .atomic (c.coordsOf i 0) 4 = .ok 0 ∧
      atHost.wbAwaits c.t.part c.core 0 0 = false ∧ atHost.maskAny c.core (region ⟨.clean, 0, none, none⟩) 0 = false ∧
      atHost.slotHome c.t.part { region ⟨.clean, 0, none, none⟩ with space := 4 } 0 4 = .ok (hostAt 0) 7 7 false ∧ (c.view 1).space = 4 ∧
      isHost (hostAt 0) = true ∧ atHost.hostTag = some 0 ∧ pcieAtomic i = true ∧ atHost.asked (.access c.core c.gi atHost.nextFence 0) = false := by
  intro i hi
  simp only [List.mem_cons, List.not_mem_nil, or_false] at hi
  rcases hi with rfl | rfl <;> exact ⟨one_of (by decide +kernel), one_of (by decide +kernel)⟩

/-- PlaneLoad: ordered at DIE with a clean slot held; of an invalid view, of one that is not PLANED, of a coordinate just beyond, and through an
unbound view. -/
def planed (v : View) (x : Word) (hs : List Hint) : State :=
  hinted hs (unitOf (placedRecord 2) (inLane (fun l => { l with v := l.v.set 4 x }) { teamOf 2 [(1, v)] [] with regions := [region ⟨.clean, 0, none, none⟩] }) [0])
def plainPlanes : View := { planes with base := BitVec.ofNat 64 16384 }

theorem witness_plane_ordered :
    let s := planed plainPlanes 31 [.ord ⟨.acq, .die, false⟩]
    issuesIn s (fun c => decide (Alone c (.pld ⟨.always, true, 3, 8, 1, 4⟩) .always 0 ∧
      ordOf c.hints = some ⟨.acq, .die, false⟩ ∧ (∀ r ∈ c.t.regions, ∀ k ∈ r.slots, k.state ≠ .dirty) ∧ (c.view 1).valid = true ∧ (c.view 1).planed = true ∧
      (c.view 1).stook = false ∧ (c.view 1).hasR = true ∧ (c.view 1).sram = true ∧ c.maskOk (c.g.lane 0) 1 = true ∧
      (c.view 1).inExtent (c.coordsOf (.pld ⟨.always, true, 3, 8, 1, 4⟩) 0) = true ∧
      s.sramAt c.core c.t (c.view 1) ((c.view 1).lineAt (c.coordsOf (.pld ⟨.always, true, 3, 8, 1, 4⟩) 0)) = some (scratchAt 0 16448) ∧
      s.firewall c.t.part (scratchAt 0 16448) = true ∧ s.poisoned (scratchAt 0 16448) 64 = false ∧ s.strayAt (scratchAt 0 16448) = [] ∧
      s.tagAt (scratchAt 0 16448 / 64) = none)) = true := by decide +kernel

theorem witness_plane_refused : ∀ x ∈ [(View.zero, 0), (pad, 0), (plainPlanes, 32)],
    issuesIn (planed x.1 x.2 []) (fun c => decide (Alone c (.pld ⟨.always, true, 3, 8, 1, 4⟩) .always 0 ∧ ordOf c.hints = none ∧
      (c.g.lane 0).inside = none ∧ ((c.view 1).valid = false ∨ (c.view 1).planed = false ∨
        (c.view 1).extN 0 ≤ (c.coordsOf (.pld ⟨.always, true, 3, 8, 1, 4⟩) 0).getD 0 0))) = true := by decide +kernel

theorem witness_plane_unbound :
    issuesIn (planed { plainPlanes with flags := plainPlanes.flags + 3 } 0 []) (fun c => decide (Alone c (.pld ⟨.always, true, 3, 8, 1, 4⟩) .always 0 ∧
      (c.view 1).valid = true ∧ (c.view 1).planed = true ∧ (c.view 1).stook = false ∧ (c.view 1).hasR = true ∧
      0 < (c.view 1).extN 0 ∧ (c.view 1).translated = true ∧ (c.view 1).region = none)) = true := by decide +kernel

/-- MappedRegions, Fences, TeamQueries: a whole group of a team of two whose one region has a dirty slot of page 1, and a lane alone. -/
def dirtied (lanes : List Nat) : State :=
  mapped [] (unitOf (placedRecord 2) { two id with views := viewTable [(1, device)], regions := [region ⟨.dirty, 1, none, none⟩] } lanes)

/-- What `OneDirty` asks of slot 0. -/
abbrev Dirtied (s : State) (c : Ctx) (r : Region) : Prop :=
  s.region c.core r.id = some r ∧ c.t.regions = [r] ∧ r.slots.length = 2 ∧ (r.slot 0).state = .dirty ∧ (r.slot 1).state = .invalid

theorem one_dirty_of {s : State} {c : Ctx} {r : Region} (h : Dirtied s c r) : c.OneDirty s r 0 := by
  obtain ⟨h1, h2, h3, h4, h5⟩ := h
  refine ⟨h1, by simp [h2], by omega, h4, fun q hq j hj => ?_⟩
  rw [h2, List.mem_singleton] at hq
  subst hq
  have hj : j ≠ 0 := by simpa using hj
  match j, hj with
  | 1, _ => simp [h5]
  | k + 2, _ =>
    have hn : q.slots[k + 2]? = none := List.getElem?_eq_none (by omega)
    simp [Region.slot, nth_eq, hn]

theorem witness_dirty_regions : ∀ f ∈ ([.unmapr, .flushr, .invr] : List (OpVOne → Instr)), ∀ ready ∈ [true, false],
    let s := if ready then dirtied eight else { dirtied eight with phase := .guard }
    ∃ c, ExecutesCalm s c (f ⟨1⟩) ∧ (c.view 1).valid = true ∧ (c.view 1).region = some 0 ∧ (∀ g ∈ c.t.groups, g.log = []) ∧
      Dirtied s c (region ⟨.dirty, 1, none, none⟩) ∧ ((region ⟨.dirty, 1, none, none⟩).slot 0).filling = none ∧
      (s.writeBack c.core (region ⟨.dirty, 1, none, none⟩) 0 (some c.gi) c.place.pc (maskOf c.lanes)).2 = ready := by
  intro f hf ready hr
  simp only [List.mem_cons, List.not_mem_nil, or_false] at hf hr
  rcases hf with rfl | rfl | rfl <;> rcases hr with rfl | rfl <;> exact calm_of (by decide +kernel)

theorem witness_dirty_fence : ∀ sc ∈ ([.die, .system] : List Scope), ∀ ready ∈ [true, false],
    let s := if ready then dirtied [0] else { dirtied [0] with phase := .guard }
    ∀ i ∈ ([.fence ⟨sc⟩, .csync ⟨sc⟩] : List Instr),
    ∃ c l, Executes s c i 0 l ∧ c.lanes = [0] ∧ c.alone = false ∧ s.logged c.core c.gi 0 = false ∧ 5 ≤ sc.code ∧ Still c ∧
      Dirtied s c (region ⟨.dirty, 1, none, none⟩) ∧ (region ⟨.dirty, 1, none, none⟩).space ≠ 5 ∧ s.unacked c.core = false ∧
      (s.writeBack c.core (region ⟨.dirty, 1, none, none⟩) 0 (some c.gi) c.place.pc (BitVec.ofNat 64 (2 ^ 0))).2 = ready := by
  intro sc hs ready hr s i hi
  simp only [List.mem_cons, List.not_mem_nil, or_false] at hs hr hi
  rcases hs with rfl | rfl <;> rcases hr with rfl | rfl <;> rcases hi with rfl | rfl <;> exact executes_of (by decide +kernel)

/-- TeamQueries: TRIG with a dirty slot while another group goes on, and of a group that is marked. -/
theorem witness_trig_dirty :
    (∃ c, ExecutesCalm (dirtied eight) c .trig ∧ Dirtied (dirtied eight) c (region ⟨.dirty, 1, none, none⟩) ∧
      (c.t.groups[1]?).map (fun h => (h.triggered, h.ended)) = some (false, false) ∧ c.gi = 0 ∧
      ((dirtied eight).writeBack c.core (region ⟨.dirty, 1, none, none⟩) 0 (some c.gi) c.place.pc (maskOf c.lanes)).2 = true) ∧
    (∃ c, ExecutesOnce (whole (inGroup (fun g => { g with triggered := true }) (two id))) c .trig ∧ c.lanes ≠ [] ∧ c.g.triggered = true ∧
      (c.g.lanes[0]?).map (·.exited) = some false ∧ ∃ h ∈ c.t.groups, h.triggered = false ∧ h.ended = false) :=
  ⟨calm_of (by decide +kernel), once_of (by decide +kernel)⟩

/-- Barriers: BARC of a team of a crew whose cell 7 is frozen. -/
theorem witness_barc_frozen :
    let s : State := { crewed with clusters := [⟨0, [], [⟨0, 1, 0, List.replicate 8 ⟨false, 2, 0, 0, true⟩⟩], false⟩] }
    ∃ c, ExecutesCalm s c (.barc ⟨7⟩) ∧ ((s.crewOf c.core c.t).map fun w => (w.cells[7]?).map (·.frozen)) = some (some true) := calm_of (by decide +kernel)

/-- A team of the matrix role with an entry at the head of its queue, its accumulators filled and a latch, handle 0 of 1,088 bytes of data. -/
def performing (i : Instr) (rows : List Nat) (step : Word) (h : Handle) (heads : List TileDesc) (l : Option ALatch) : State :=
  whole { teamOf 1 [] [h, operand .full 50] with
    mq := [.op i rows step 0 none heads], alatch := l
    z := List.replicate 8 ((upFrom 0 256).map fun k => BitVec.ofNat 32 (0x3F800000 + 0x12345 * k)) }

/-- MatrixResults: MMAG's sixteen rows, an MMA from the latch, the drains, PADD and PNORM at the head of the queue. -/
theorem witness_matrix_more :
    let ok := fun (s : State) (i : Instr) => (s.team 0).map (fun t => decide (s.enginesRun 0 t = true ∧ t.follows = [] ∧ t.z.length = 8 ∧ t.mq.length = 1) &&
      (match t.mq with
        | [.op j _ _ _ _ _] => j == i
        | _ => false) && t.groups.any (fun g => !g.triggered && !g.ended) && (t.handle 0).isSome && s.mem.wf && s.cutDies.isEmpty)
    let latch : ALatch := ⟨.bf16, List.replicate 16 (List.replicate 192 0)⟩
    (∀ i ∈ ([.mmag (mma true), .mma ⟨3, 255, 1, .p1, false, true⟩] : List Instr),
      ok (performing i (List.replicate 16 0xFFFF) 0 (operand .full 0) [⟨6, 4, 16, 96, 192, 0⟩, ⟨6, 4, 16, 96, 192, 0⟩] (some latch)) i = some true) ∧
    (List.replicate 16 0xFFFF).length = 16 ∧ latch.rows.length = 16 ∧ (∀ row ∈ latch.rows, row.length = 192) ∧
    (∀ i ∈ ([.mdrn ⟨2, 0⟩, .mdrnb ⟨2, 0⟩] : List Instr), ok (performing i [] 0 { operand .filling 0 with pending := 1024, isSealed := true } [] none) i = some true) ∧
    (∀ i ∈ ([.mdrnl ⟨2, .bf16, 5⟩, .mdrnl ⟨2, .e4m3, 11⟩] : List Instr), ∀ l ∈ [none, some latch], ok (performing i [] 0 (operand .full 0) [] l) i = some true) ∧
    (∀ i ∈ ([.padd ⟨2, 0, 4⟩, .pnorm ⟨0⟩] : List Instr), ok (performing i [] 0x3F800000 (operand .full 0) [⟨0x0D, 4, 16, 16, 64, 0⟩] none) i = some true) ∧
    (operand .full 0).at 0 (64 + 15 * 64) + 64 ≤ 2 ^ 40 := by decide +kernel

/-- MatrixResults: a step's terms of one number, of both infinities and of one; a block whose largest is 1. -/
theorem witness_step_terms :
    (∃ x ∈ [Sys2Proof.Num.fin false 3 0, .fin true 1 (-60)], (2 : Rat) ^ (1 : Int) ≤ |x.rat|) ∧
    (∀ x ∈ [Sys2Proof.Num.fin false 3 0, .fin true 1 (-60)], x.isFin = true ∧ |x.rat| < (2 : Rat) ^ (2 : Int)) ∧
    (let b : Block := ⟨127, 0, 0x200000 :: List.replicate 15 0⟩
     let val := fun j => (readElem b j 4 false).1
     (∀ x ∈ b.elems, x < 2 ^ 24) ∧ b.elems.length = 16 ∧ (∀ j, j < 16 → |(val j).rat| ≤ |(val 0).rat|) ∧ (2 : Rat) ^ (0 : Int) ≤ |(val 0).rat| ∧
       |(val 0).rat| < (2 : Rat) ^ (1 : Int)) ∧
    (∀ j, j < 16 → (readElem ⟨127, 0, List.replicate 16 0⟩ j 4 false).1.rat = 0) := by decide +kernel

/-- CopyIssue: a group whose log holds an acquire. -/
theorem witness_copy_waits : ∀ i ∈ ([.tilein ⟨0, 0, 1, 1, false⟩, .tileout ⟨0, 0, 1, 1, false⟩, .bcopy ⟨0, 8⟩] : List Instr),
    let e : LogEntry := ⟨0, ⟨false, 0⟩, 1, .lda ⟨.always, .core, 8, 1, 4⟩, [], [⟨0, [], []⟩], 1, device, [], false⟩
    let s := copies .free 2
    let s := { s with cores := s.cores.map fun k => { k with team := k.team.map (inGroup fun g => { g with log := [e] }) } }
    ∃ c, ExecutesCalm s c i ∧ c.g.acquiring = true := by
  intro i hi
  simp only [List.mem_cons, List.not_mem_nil, or_false] at hi
  rcases hi with rfl | rfl | rfl <;> exact calm_of (by decide +kernel)

/-- The ring of `ring` with a second record, of the queue of vault 1, and a lane that holds a task of the queue at `home`. -/
def holdingTask (r r2 : QRec) (home : Nat) : State :=
  let s := ring r (fun l => { l with task := ⟨true, 4, home, [], none, false⟩ }) [0]
  { s with clusters := [⟨0, [r, r2], [], false⟩] }
def otherRecord (auto : Bool) : QRec := { record 6 6 false [] with no := 4, vault := 1, live := 1, auto := auto }

/-- TaskQueues: QPOP of a lane that holds the last task of its AUTOCLOSE queue, one of another queue, and one of a queue that is not loaded. -/
theorem witness_qpop_holding :
    (let r := { record 5 6 false [] with auto := true, live := 1 }
     ∃ c l, Executes (holdingTask r (otherRecord false) (2 ^ 30)) c (.qpop ⟨8, 1⟩) 0 l ∧ NamesQueue (holdingTask r (otherRecord false) (2 ^ 30)) c 1 r ∧
       c.lanes = [0] ∧ c.g.log = [] ∧ l.task.hold = true ∧ (holdingTask r (otherRecord false) (2 ^ 30)).recordAt l.task.home = some r ∧
       clusterAt l.task.home = clusterOfCore c.core ∧ r.live - 1 = 0) ∧
    (∀ auto ∈ [true, false], let s := holdingTask (record 5 6 false []) (otherRecord auto) (2 ^ 30 + 2 ^ 22)
     ∃ c l, Executes s c (.qpop ⟨8, 1⟩) 0 l ∧ NamesQueue s c 1 (record 5 6 false []) ∧ c.lanes = [0] ∧ c.g.log = [] ∧ l.task.hold = true ∧
       s.recordAt l.task.home = some (otherRecord auto) ∧ s.qrec (clusterAt l.task.home) 4 = some (otherRecord auto) ∧
       (otherRecord auto).no ≠ (record 5 6 false []).no) ∧
    (let s := holdingTask (record 5 6 false []) (otherRecord false) (2 ^ 30 + 2 ^ 23)
     ∃ c l, Executes s c (.qpop ⟨8, 1⟩) 0 l ∧ NamesQueue s c 1 (record 5 6 false []) ∧ c.lanes = [0] ∧ c.g.log = [] ∧ l.task.hold = true ∧
       s.recordAt l.task.home = none ∧ s.mem.wf = true ∧ s.cutDies = [] ∧ l.task.home + 64 ≤ 2 ^ 40) := by
  refine ⟨names_executes_of (by decide +kernel), fun auto ha => ?_, names_executes_of (by decide +kernel)⟩
  simp only [List.mem_cons, List.not_mem_nil, or_false] at ha
  rcases ha with rfl | rfl <;> exact names_executes_of (by decide +kernel)

/-- TaskQueues: two waiting lanes and one entry, and three entries. -/
def waiting : List Waiter := [⟨0, 0, 5, 8, 1, 1⟩, ⟨0, 0, 2, 8, 1, 1⟩]
theorem witness_assign : ∀ r ∈ [record 5 6 false waiting, record 5 8 false waiting],
    (ring r id [0]).qrec 0 r.no = some r ∧ (r.waiters.map fun w => (w.core, w.group, w.lane)).Nodup ∧
      (∀ w ∈ r.waiters, ((ring r id [0]).laneAt w.core w.group w.lane).isSome = true) ∧ r.waiters.length = 2 ∧
      ∀ k ∈ [0, 1], (ring r id [0]).poisoned (r.slotAt (r.head + BitVec.ofNat 32 k)) 32 = false ∧
        (ring r id [0]).strayAt (r.slotAt (r.head + BitVec.ofNat 32 k)) = [] := by decide +kernel

/-- TaskQueues: no region of the team holds any address. -/
theorem witness_no_stray (a : Nat) : (holdingTask (record 5 6 false []) (otherRecord false) (2 ^ 30 + 2 ^ 23)).strayAt a = [] := rfl

/-- ExitNopYield: a lane that holds a task and has no logged access, beside two lanes that wait at the queue. -/
theorem witness_exit_holding :
    let s := holdingTask (record 6 6 false waiting) (otherRecord true) (2 ^ 30 + 2 ^ 22)
    ∃ c l, Executes s c (.exit ⟨.always⟩) 0 l ∧ l.task.hold = true ∧ s.logged c.core c.gi 0 = false ∧ l.inside = none ∧
      ∀ k ∈ s.clusters, ∀ r ∈ k.recs, ∀ w ∈ r.waiters, w.core = c.core → w.group = c.gi → w.lane ∉ c.lanes := executes_of (by decide +kernel)

/-- Futures: FFILL of an empty cell whose number is that of a loaded record, and of one with a parked task that waits for one cell more or two. -/
def parkedCell (dep : Nat) : State :=
  let put := fun (a n x : Nat) => (((bytesOf n x).zipIdx.map fun y => (a + y.2, y.1)).filter fun y => y.2 != 0 : Memory)
  { cell 0 id with mem := put (2 ^ 30 + 192) 8 (dep * 2 ^ 24 + 5 + 2 ^ 32 * 3) ++ put (vaultAt 0 1 8) 8 (3 * 2 ^ 24 + 1 + 2 ^ 32) }

theorem witness_ffill_loaded :
    (∃ c l, Executes (cell (3 * 2 ^ 24) id) c (.ffill ⟨8, 1⟩) 0 l ∧ Still c ∧ CellAt (cell (3 * 2 ^ 24) id) c .store (l.reg 10) ∧
      (cell (3 * 2 ^ 24) id).qrec (clusterOfCore c.core) ((cell (3 * 2 ^ 24) id).num (vaultAt 0 1 8) 4 / 2 ^ 24 % 2 ^ 6) = some (record 5 6 false []) ∧
      (record 5 6 false []).users ≠ [] ∧ (cell (3 * 2 ^ 24) id).strayAt (vaultAt 0 1 0) = []) ∧
    ∀ dep ∈ [1, 2], ∃ c l, Executes (parkedCell dep) c (.ffill ⟨8, 1⟩) 0 l ∧ Still c ∧ CellAt (parkedCell dep) c .store (l.reg 10) ∧
      (parkedCell dep).mem.wf = true ∧ (parkedCell dep).num (vaultAt 0 1 8) 4 / 2 ^ 30 = 0 ∧ (parkedCell dep).num (vaultAt 0 1 8) 4 % 2 ^ 16 = 1 ∧
      (parkedCell dep).num (vaultAt 0 1 0xC) 4 = 0 + 1 ∧ (parkedCell dep).num (vaultAt 0 1 8) 4 / 2 ^ 24 % 2 ^ 6 = 3 ∧
      (parkedCell dep).qrec (clusterOfCore c.core) 3 = some (record 5 6 false []) ∧ 0 < (record 5 6 false []).parkn ∧
      (record 5 6 false []).at (64 + 32 * (4 + 2)) ≤ vaultAt 0 1 0 ∧ (parkedCell dep).poisoned ((record 5 6 false []).parkAt 0) 32 = false ∧
      (parkedCell dep).strayAt ((record 5 6 false []).parkAt 0) = [] ∧ (parkedCell dep).strayAt ((record 5 6 false []).slotAt 6) = [] ∧
      (parkedCell dep).num ((record 5 6 false []).parkAt 0) 4 / 2 ^ 24 = dep := by
  refine ⟨executes_of (by decide +kernel), fun dep hd => ?_⟩
  simp only [List.mem_cons, List.not_mem_nil, or_false] at hd
  rcases hd with rfl | rfl <;> exact executes_of (by decide +kernel)

/-- BoundsAndBarrierEpisodes: lanes held for 255 issues at one place; teams whose watchdog does not fire; a frozen cell. -/
theorem witness_bounds_more :
    groupOk (whole (inGroup (fun g => { (g.modLane 3 fun l => { l with wait := .held, pc := 4 }) with heldFor := [(⟨false, 4⟩, 255)] }) (teamOf 2 [] [])))
      (fun g => (g.heldFor.all fun x => decide (x.2 < 256)) && (g.lanes.any fun l => !l.exited && l.wait == .held && l.place == ⟨false, 4⟩) &&
        !(g.lanes.any fun l => !l.exited && l.wait == .held && l.place == ⟨false, 5⟩)) = true ∧
    teamOk (unitOf watched { newTeam watched (viewTable []) [] 0 0 with watchdog := 0, stopped := true } eight) (fun u => u.stopped) = true ∧
    teamOk (unitOf watched { newTeam watched (viewTable []) [] 0 0 with watchdog := 1 } eight) (fun u => u.watchdog != 0) = true ∧
    (let s : State := { crewed with clusters := [⟨0, [], [⟨0, 1, 0, List.replicate 8 ⟨false, 2, 2, 0, true⟩⟩], false⟩] }
     teamOk s (fun u => ((s.crewOf 0 u).map fun x => x.cells[7]? == some ⟨false, 2, 2, 0, true⟩).getD false) = true) := by decide +kernel

/-- CodeAndSlotFills: the slots' team runs its map, and a page's traffic may begin; a slot that is not dirty. -/
theorem witness_slots_more :
    (∀ k ∈ ([⟨.invalid, 0, some 1, none⟩, ⟨.dirty, 1, none, none⟩, ⟨.clean, 1, none, none⟩] : List Slot), teamOk (slotted k) (fun u => (slotted k).mapRuns 0 u) = true ∧
      (slotted k).mayBeginAll (tier1At 4096) 4096 = true ∧ (region k).strays = [] ∧ 0 < (region k).slots.length ∧
      (slotted k).region 0 0 = some (region k) ∧ (slotted k).mem.wf = true ∧ (slotted k).cutDies = []) ∧
    ((region ⟨.clean, 1, none, none⟩).slot 0).state ≠ .dirty := by decide +kernel

/-- TileAndBulkMoves: queue 0 is the engine's next, after queue 7; of a frozen engine in a slot none is; no word of the copy is spoilt. -/
theorem witness_turns :
    (∀ k ∈ ([0, 7] : List Nat), let s := moving .filling 0
      let e : Engine := { s.engine 0 0 with turn := k }
      s.bulkTurn e = some 0 ∧ e.frozen = false ∧ e.turn < 8) ∧
    (moving .filling 0).bulkTurn { (moving .filling 0).engine 0 0 with frozen := true, flight := some 0 } ≠ some 0 ∧
    (copyOf (copies .free 2) id).spoilt = [] := by decide +kernel

/-- SlotCalendar: each phase; teams that run, that are stopped and that have finished at a frame start; two engines; a deferred read; a
report before the slot, and one in it. -/
theorem witness_calendar_more :
    (∀ x ∈ ([.guard, .running, .starting, .slot] : List CalPhase), ({ alone with phase := x } : State).phase = x) ∧
    teamOk (whole (teamOf 2 [] [])) (fun u => u.phase == .runs && !u.stopped) = true ∧
    teamOk (whole { teamOf 2 [] [] with stopped := true, phase := .finished }) (fun u => u.phase == .finished && u.stopped) = true ∧
    (let es : List Engine := [⟨3, 7, List.replicate 8 [], false, 0, none⟩, ⟨0, 0, List.replicate 8 [], false, 0, none⟩]
     let s : State := { alone with phase := .starting, engines := es }
     (s.engines.map fun e => (e.die, e.id)).Nodup ∧ (∀ e ∈ s.engines, e.frozen = false ∧ e.die < 4 ∧ e.id < 8 ∧ s.caught e 0 = none) ∧
       ∀ p ∈ s.parts, p.engines = 0) ∧
    (let s : State := { mapped [] alone with phase := .slot, deferred := [.inbound 0 0 (.read 4)] }
     s.phase = .slot ∧ ∀ c ∈ s.cores, c.team = none) ∧
    (let late : State → Nat × Option Nat × Record → Bool :=
        fun s x => x.1 == 2 && decide (0 < (BitVec.ofNat 64 (32768 * (s.time.toNat / 32768) * 256) - x.2.2.stamp).toInt)
     let s (stamp : Word64) : State := { alone with time := 1048576 + 5, testing := [(2, none, { Record.ofKind 0x19 with stamp := stamp })] }
     (s 0).phase = .slot ∧ (s 0).time.toNat / 32768 % 32 = 0 ∧
     (s (1048576 * 256)).testing.any (late (s 0)) = false ∧
     (s (1048576 * 256 - 1)).testing.find? (late (s 0)) = some (2, none, { Record.ofKind 0x19 with stamp := 1048576 * 256 - 1 })) := by
  refine ⟨by decide +kernel, by decide +kernel, by decide +kernel, ⟨by decide +kernel, ?_, by decide +kernel⟩, by decide +kernel,
    by decide +kernel⟩
  intro e he
  simp only [List.mem_cons, List.not_mem_nil, or_false] at he
  rcases he with rfl | rfl <;> refine ⟨rfl, by decide, by decide, ?_⟩ <;> unfold State.caught
  · cases Config.stillHolds (0 : Nat) 3 7 <;> decide +kernel
  · cases Config.stillHolds (0 : Nat) 0 0 <;> decide +kernel

/-- IntegrityAndPower: a partition whose accumulators are in order and one where one is not, neither halted; and a pool of a sheaf that
was not empty at the slot's start. -/
theorem witness_broken : ∀ b ∈ [true, false],
    let s0 := sealed 4 []
    let s : State := { s0 with parts := s0.parts.map fun p => { p with integ := p.integ.map fun x => { x with broken := b } } }
    partOk s (fun p => !p.halted && (p.integ.map fun x => x.broken == b).getD false) = true ∧
      partOk { alone with slotEmpty := BitVec.ofNat 96 (2 ^ 23) } (fun p => p.sheaves.getLsbD 23) = true ∧
      (BitVec.ofNat 96 (2 ^ 23)).getLsbD 23 = true ∧ (BitVec.ofNat 96 (2 ^ 23)).getLsbD 22 = false := by decide +kernel
theorem arrives_of {s : State} {n : Nat} (h : ((s.part n).map fun p => !p.portFrozen && !s.tlpLost p) = some true) : ∃ p, Arrives s n p := by
  cases hp : s.part n with
  | none => simp [hp] at h
  | some p => simp [hp] at h; exact ⟨p, hp, h.1, h.2⟩

theorem no_fences_of {s : State} {k : Core} (hk : s.cores = [k]) (h0 : k.id = 0)
    (hw : teamOk s (fun u => u.groups.all fun g => match g.wait with
      | .qfence _ _ _ => false
      | _ => true) = true) : s.NoFences := by
  intro core u hu g hg id words mem h
  by_cases hc : core = 0
  · subst hc
    simp only [teamOk, hu, Option.map_some, Option.getD_some, List.all_eq_true] at hw
    simpa [h] using hw g hg
  · simp [State.team, State.core, hk, findCore, h0, Ne.symm hc, Core.idle] at hu

/-- Launches, PreemptionAndKill, DriverActions, HostAccess: a TLP arrives at a partition that is not locked; of a locked one without a
stream each is lost. -/
theorem witness_arrives :
    (∃ p, Arrives alone 0 p) ∧ (∃ p, Arrives (whole (teamOf 2 [] [])) 0 p) ∧ (∃ p, Arrives (mapped [] alone) 0 p) ∧
    (∀ x ∈ ([.locked, .run] : List Tdisp), let s : State := { alone with parts := alone.parts.map fun p => { p with tdisp := x } }
      partOk s (fun p => !p.portFrozen && s.tlpLost p && p.ideLive.isNone && p.held.isEmpty && !p.queueFull) = true) :=
  ⟨arrives_of (by decide +kernel), arrives_of (by decide +kernel), arrives_of (by decide +kernel), by decide +kernel⟩

/-- Launches: a commit into a slot that another holds; a partition that is not halted, with a record to copy and a team to place. -/
theorem witness_launches :
    (let s : State := { alone with parts := alone.parts.map fun p => { p with window := [launchOf 2], last := 2 } }
     partOk s (fun p => !p.portFrozen && !s.tlpLost p && (p.window.any fun x => recSeq x % 32 == 2) && recSeq (launchOf 34) != p.last.toNat + 1 &&
       !p.halted && !p.queueFull && p.held.isEmpty) = true) ∧
    partOk dispatching (fun p => !p.halted) = true ∧ recSeq (launchOf 34) % 32 = 2 := by decide +kernel

/-- Launches: the image's first granule, across the end of a 64 KiB page. -/
def crossing : LaunchBytes := placedRecord 2 ||| BitVec.ofNat 1024 ((65536 - 128 + 5 * 2 ^ 48) * 2 ^ (8 * 0x58))

theorem witness_image_crossing :
    let s := mapped [] (unitOf crossing { newTeam crossing (viewTable []) [] 0 0 with phase := .image 0 } eight)
    teamOk s (fun u => u.phase == .image 0 && recSplen (s.recordOf u) == 5 && recSpimg (s.recordOf u) == 65536 - 128 &&
        !(u.views[recQueue (s.recordOf u)]?.getD View.zero).valid) = true ∧
      partOk s (fun p => !p.halted && translate s p false (65536 - 128) 1 == .ok (tier1At (65536 - 128)) 7 7 false &&
        translate s p false 65536 1 == .ok (tier1At 65536) 7 7 false) = true ∧
      s.awaits 0 (.image 0) = false ∧ s.mayBeginAll (tier1At (65536 - 128)) 128 = true ∧ s.mayBeginAll (tier1At 65536) 128 = true ∧
      s.mem.wf = true ∧ s.cutDies = [] := by decide +kernel

/-- PreemptionAndKill: a stopped team whose lane 0 is in a latch chain; a launch with a team to place and one on a core, with a marker in
a bulk queue. -/
theorem witness_stopped :
    (let s : State := { whole { inLane (fun l => { l with chain := 1 }) (teamOf 2 [] []) with stopped := true } with issue := none, phase := .running }
     teamOk s (fun t => t.stopped) = true ∧ s.groupReady 0 0 = true) ∧
    (let s0 := whole (inGroup (fun g => { g with wait := .qfence 5 1 false }) (teamOf 2 [] []))
     let s : State := { s0 with
       engines := [⟨0, 0, [.fence 5] :: List.replicate 7 [], false, 0, none⟩]
       parts := s0.parts.map fun p => { p with launches := [{ waitingLaunch with placed := [0] }] } }
     partOk s (fun p => p.saved.isEmpty && ((p.launch 1).map fun l => l.life == .active && l.waiting == [1]).getD false) = true ∧
       teamOk s (fun u => u.part == 0 && u.seq == 1 && u.phase == .runs) = true) ∧
    (let s0 := whole { teamOf 2 [] [] with stopped := true }
     let s : State := { s0 with phase := .running, parts := s0.parts.map fun p => { p with preempting := true } }
     partOk s (fun p => p.preempting && !p.halted) = true) := by decide +kernel

/-- DriverActions: no group waits at a QFENCE beside a copy to answer and beside a halt; the words of a launch window's slots. -/
theorem witness_driver :
    (moving .filling 0).NoFences ∧
    (whole (inGroup (fun g => { g with halts := [⟨Record.ofKind 9, 0xFF, 1, true, false, none, some 5⟩] }) (teamOf 2 [] []))).NoFences ∧
    partOk alone (fun p => p.lwin.length == 32 && p.window.isEmpty) = true ∧
    (0xFF8 < 0x1000 ∧ 0xFF8 % 8 = 0 ∧ 0xFF8 % 128 ≠ 0) ∧ (0xF80 < 0x1000 ∧ 0xF80 % 128 = 0) ∧ 0xFF9 % 8 ≠ 0 :=
  ⟨no_fences_of rfl rfl (by decide +kernel), no_fences_of rfl rfl (by decide +kernel), by decide +kernel, by decide, by decide, by decide⟩

/-- ManagementCore: the ends of the period, and a frozen core with a team. -/
theorem witness_management :
    (∀ n ∈ [1, 10000], let g : PartCfg := ⟨1, 2 ^ 24, [], 0, [], 0, true, n⟩
      alone.part g.id.val = none ∧ g.ranges = [] ∧ g.sheaves ≠ 0 ∧ 1 ≤ g.period ∧ g.period ≤ 10000 ∧ (alone.parts.filter (·.isSealed)).length < 32 ∧
        (∀ p ∈ alone.parts, p.sheaves &&& g.sheaves = 0 ∧ p.engines &&& g.engines = 0)) ∧
    (let s0 := whole (teamOf 2 [] [])
     let s : State := { s0 with cores := s0.cores.map fun c => { c with frozen := true } }
     (s.core 0).frozen = true ∧ teamOk s (fun u => u.groups.any (fun g => !g.triggered && !g.ended) && u.groups.all (·.log.isEmpty)) = true) := by
  decide +kernel

/-- HostAccess: an access outside a slot and one within, and the first byte of a filled page. -/
theorem witness_host_more :
    (mapped [] alone).phase = .running ∧ ({ mapped [] alone with phase := .slot } : State).phase = .slot ∧
    partOk (mapped [] alone) (fun p => ((iaAddrs p 1 (fun _ => true) 0xFFFFC 4).map fun l => l.length == 4 && l.all fun a =>
      (mapped [] alone).channelReady a && !({ mapped [] alone with ready1 := 0 } : State).channelReady a) == some true) = true ∧
    partOk (mapped [] alone) (fun p => (iaAddrs p 2 (fun _ => true) 0xFFFFC 4).isSome && (outSize (.write [1, 2, 3, 4] [true, true, true, true])) == some 4) = true ∧
    (upFrom (hostAt 0) 4096).headD 0 % 4096 = 0 ∧ partOk { alone with parts := alone.parts.map fun p => { p with portFrozen := true } } (·.portFrozen) = true := by
  decide +kernel

/-- Attestation: a session that is not secured, and a request for a partition within it. -/
theorem witness_unsecured :
    let s : State := { alone with spdm := ⟨true, true, true, true, false, 7⟩ }
    (s.part 0).isSome = true ∧ s.spdm.secured = false ∧ alone.spdm.session = false := by decide +kernel

/-- Flits: a flit's fields at their largest, an outbound stream at its last count, a package reached on port 0 and one whose stream waits. -/
def streaming (x : Stream) : State := { linked (15 * 2 ^ 28 + 2 ^ 22) with streams := [x] }

theorem witness_streams :
    ((List.replicate 208 (0 : Byte)).length ≤ 208 ∧ 255 < 256 ∧ 127 < 128) ∧
    (streaming ⟨false, 0, 7, 0, 3, 0xFFFFFFFF, some 2, none, false⟩).outStream 0 7 = some ⟨false, 0, 7, 0, 3, 0xFFFFFFFF, some 2, none, false⟩ ∧
    ((linked 0).receive flit).1.reach 0 7 = .port 0 ∧
    (∀ x ∈ ([⟨false, 0, 7, 1, 0, 5, none, none, false⟩, ⟨false, 0, 7, 0, 0, 5, none, some 4, false⟩] : List Stream), ((streaming x).receive flit).2 = true ∧
      ((streaming x).receive flit).1.reach 0 7 = .wait) ∧
    (streaming ⟨false, 0, 7, 1, 0, 5, none, none, false⟩).portFor 7 = some 0 ∧ (streaming ⟨false, 0, 7, 1, 0, 5, none, none, false⟩).replies = [] := by
  decide +kernel

/-- Flits: the same requests within a slot, and while the channel of their bytes is not ready. -/
theorem witness_untranslated :
    let s := ((({ linked (15 * 2 ^ 28 + 2 ^ 22) with phase := .slot } : State)).receive flit)
    s.2 = true ∧ ∀ x ∈ ([(29, 4), (30, 2), (31, 1)] : List (Nat × Need)), ((s.1.actsFor flit x.1).map fun p => walk s.1 p false 0x7F40 x.2) = some (.bad waitCause 0) := by
  decide +kernel

theorem witness_shut :
    let s := ((({ linked (15 * 2 ^ 28 + 2 ^ 22) with ready1 := BitVec.ofNat 64 (2 ^ 48 - 1 - 2 ^ 7) } : State)).receive flit)
    s.2 = true ∧ (∀ a ∈ [tier1At 0x7F40, tier1At 0x7F80, tier1At 0x7FFC], s.1.channelReady a = false) ∧ (s.1.actsFor flit 30).isSome = true ∧
      ((s.1.actsFor flit 31).bind fun p => s.1.vaAddrs p 1 0x7F40 192) = some (upFrom (tier1At 0x7F40) 192) ∧ isDram (tier1At 0x7FFC) = true ∧
      ((s.1.actsFor flit 30).bind fun p => s.1.vaAddrs p 2 0x7F80 128) = some (upFrom (tier1At 0x7F80) 128) ∧ (upFrom (tier1At 0x7F80) 128).Nodup := by
  decide +kernel

/-- Flits: a launch of package 7 whose record is copied next. -/
theorem witness_verdict :
    let s : State := { linked 0 with parts := (linked 0).parts.map fun p => { p with window := [launchOf 2], last := 2, verdicts := [(2, flit)] } }
    partOk s (fun p => p.window == [launchOf 2] && !p.halted && s.tablesServe p (launchOf 2) && !p.kills.contains (recSeq (launchOf 2)) &&
      p.verdicts == [(BitVec.ofNat 64 (recSeq (launchOf 2)), flit)]) = true ∧ recSeq (launchOf 2) < 2 ^ 64 := by decide +kernel

/-- A region of one page of package 7, by a fill or by a logged access of lane 0 into v8. -/
def peerPage : View := { device with base := BitVec.ofNat 64 (7 * 2 ^ 48), flags := device.flags + 2 }
def peered (slot : Slot) (log : List LogEntry) (r : Request) : State :=
  let t := inGroup (fun g => { (g.modLane 0 fun l => { l with pending := if log.isEmpty then [] else [8] }) with log := log })
    { teamOf 2 [(1, peerPage)] [] with regions := [{ region slot with space := 5, pkg := 7 }] }
  { linked 0 with cores := (whole t).cores, requests := [r] }
def logging (i : Instr) (hs : List Hint) (data : List Word) : LogEntry := ⟨5, ⟨false, 0⟩, 1, i, hs, [⟨0, [0], data⟩], 1, peerPage, [8], false⟩
def asking (atomic : Bool) (n : Nat) (x : ReqAgent) : Request := ⟨0x55, false, 7, 0, atomic, upFrom (peerAt 7 0) n, x⟩

/-- Flits: the last part of a page's bytes for a slot that waits. -/
theorem witness_fill_response :
    let r : Request := { asking false 64 (.fill 0 0 0) with addrs := upFrom (peerAt 7 (4096 - 64)) 64 }
    let s := (peered ⟨.invalid, 0, some 0, none⟩ [] r).receive flit
    s.2 = true ∧ s.1.requests = [r] ∧ r.tag = flit.tag ∧ r.pkg = flit.spkg ∧ r.addrs.headD 0 % 4096 = 4032 ∧ r.addrs.length = 64 ∧
      teamOk s.1 (fun u => u.groups.any (fun g => !g.triggered && !g.ended) && u.groups.all (·.log.isEmpty)) = true ∧
      (s.1.region 0 0).map (fun v => (v.slot 0).filling) = some (some 0) ∧ s.1.mem.wf = true ∧ s.1.cutDies = [] ∧ (region ⟨.invalid, 0, some 0, none⟩).maskAt 0 + 1024 ≤ 2 ^ 40 := by
  decide +kernel

/-- Flits: the word and the old value that a lane waits for. -/
def answered (x : Bool × LogEntry) : State × Bool := (peered ⟨.clean, 0, none, none⟩ [x.2] (asking x.1 4 (.access 0 0 5 0))).receive flit
def awaited : List (Bool × LogEntry) :=
  [(false, logging (.lda ⟨.always, .die, 8, 1, 4⟩) [] []), (true, logging (.atom ⟨.always, .add, 8, 1, 4⟩) [.ord ⟨.acq, .die, false⟩] [3])]

theorem witness_lane_responses : ∀ x ∈ awaited,
    (answered x).2 = true ∧ (answered x).1.requests = [asking x.1 4 (.access 0 0 5 0)] ∧
      groupOk (answered x).1 (fun g => g.log == [x.2] && (g.lanes[0]?).any fun l => l.inside.isNone) = true ∧ x.2.view.region = some 0 ∧
      wideOrder x.2.instr x.2.hints = true ∧ ((answered x).1.team 0).isSome = true ∧ flit.poison = false := by decide +kernel

def done? : AccEnd → Bool
  | .done _ _ _ => true
  | .fail _ => false
  | .dead _ _ => false
  | .log _ _ => false
  | .hold _ => false

theorem witness_lane_lands : ∀ x ∈ awaited,
    done? (((answered x).1.forget (asking x.1 4 (.access 0 0 5 0))).access ⟨0, 0, 0, 0, x.2.place.pc⟩ x.2.instr x.2.hints x.2.vw x.2.view [0]
        (if x.1 then [3] else []) 5 (some ([1, 2, 3, 4], false))) = true := by decide +kernel

/-- Flits: a package that is up, whose time a TIME flit finds ahead and behind. -/
theorem witness_time_up :
    let s : State := { alone with time := 200, ports := [⟨true, 8, 7, false, true⟩] }
    s.timePorts.head? = some flit.port.val ∧ s.parts ≠ [] ∧ s.time.toNat + 6 < 2 ^ 56 ∧ s.due = false ∧ s.boundary < 2 ^ 56 :=
  ⟨by simp [State.timePorts, placesFrom, flit], by decide +kernel, by decide +kernel, by decide +kernel, by decide +kernel⟩

/-- Links: a partition whose stream is on another port than its package's. -/
theorem witness_draining :
    let x : Stream := ⟨false, 0, 7, 1, 0, 5, none, none, false⟩
    x.port ≠ 0 ∧ (streaming x).outStream 0 7 = some x ∧ partOk (streaming x) (fun p => !p.isSealed) = true ∧ (streaming x).streamBusy x = false := by
  decide +kernel

end Sys2Proof.Machine.Slice0
end

section
/-!
PROOF. The saturating lane members (spec/01_numbers.md R12, spec/05_lane_integer_control.md R118): the model clamps by two
comparisons and compares the outcome with the exact result; the statement says the same by max, min and the range's bounds.
-/
namespace Sys2Proof.Machine

/-! ## Clamping to a range -/

theorem clampInt_eq_max_min {lo hi : Int} (h : lo ≤ hi) (x : Int) : clampInt x lo hi = max lo (min hi x) := by
  unfold clampInt
  split
  · omega
  · split <;> omega

theorem clampInt_eq_self_iff {lo hi : Int} (h : lo ≤ hi) (x : Int) : clampInt x lo hi = x ↔ lo ≤ x ∧ x ≤ hi := by
  rw [clampInt_eq_max_min h]
  omega

/-- The model's clamped word, with SAT where clamping changed the value, in the terms of R12: the nearest value of the range, with
SAT outside the range. `satS32` and `satU32` are this form at the two ranges. -/
theorem clamped_word_and_sat {lo hi : Int} (h : lo ≤ hi) (x : Int) :
    (BitVec.ofInt 32 (clampInt x lo hi), if clampInt x lo hi == x then 0 else fSAT) =
      (BitVec.ofInt 32 (max lo (min hi x)), if lo ≤ x ∧ x ≤ hi then (0 : Word) else 0x20) := by
  simp only [beq_iff_eq, clampInt_eq_self_iff h]
  rw [clampInt_eq_max_min h]
  rfl

theorem satS32_eq (x : Int) : satS32 x =
    (BitVec.ofInt 32 (max (-(2 ^ 31)) (min (2 ^ 31 - 1) x)), if -(2 ^ 31) ≤ x ∧ x ≤ 2 ^ 31 - 1 then 0 else 0x20) :=
  clamped_word_and_sat (by decide) x

theorem satU32_eq (x : Int) : satU32 x =
    (BitVec.ofInt 32 (max 0 (min (2 ^ 32 - 1) x)), if 0 ≤ x ∧ x ≤ 2 ^ 32 - 1 then 0 else 0x20) :=
  clamped_word_and_sat (by decide) x

/-! ## Members that are binary producers -/

/-- A word below major 0x28 is no transfer of control (R55). -/
theorem transfer_eq_false_of_base {i : Instr} {b : Nat} (hb : i.base = some b) (hlt : b < 0x28 * 2 ^ 26) : i.transfer = false := by
  unfold Instr.transfer
  split
  case h_1 x =>
    have hbase : b = 0xBC000000 := (Option.some.inj hb).symm
    omega
  case h_2 =>
    have hm : i.major < 0x28 := by
      simp only [Instr.major, hb, Option.getD_some]
      omega
    simp [Nat.not_le.2 hm]

/-- A member whose meaning is a `binary` with `f` produces `f` of its two sources (R118), in whatever terms `r` says it. -/
theorem produces_of_binary {i : Instr} {x : OpR} {b : Nat} {f : Word → Word → Word × Word} {r : Env → Lane → Word × Word}
    (hexec : ∀ s, exec i s = binary i x f s) (hb : i.base = some b) (hlt : b < 0x28 * 2 ^ 26)
    (hr : ∀ e y, f (readSrc e y x.a) (readSrc e y x.b) = r e y) : Produces i x.g x.w x.d r := by
  obtain rfl : (fun e y => f (readSrc e y x.a) (readSrc e y x.b)) = r := funext₂ hr
  exact produces_of hexec (transfer_eq_false_of_base hb hlt)

/-! ## The saturating members -/

theorem exec_iadds (x : OpR) (s : State) :
    exec (.iadds x) s = binary (.iadds x) x (fun a b => satS32 (a.toInt + b.toInt)) s := rfl

theorem exec_isubs (x : OpR) (s : State) :
    exec (.isubs x) s = binary (.isubs x) x (fun a b => satS32 (a.toInt - b.toInt)) s := rfl

theorem exec_uadds (x : OpR) (s : State) :
    exec (.uadds x) s = binary (.uadds x) x (fun a b => satU32 ((a.toNat : Int) + (b.toNat : Int))) s := rfl

theorem exec_usubs (x : OpR) (s : State) :
    exec (.usubs x) s = binary (.usubs x) x (fun a b => satU32 ((a.toNat : Int) - (b.toNat : Int))) s := rfl

/-- Settles O2: each saturating member is a `binary` with `satS32` or `satU32` of the exact result. -/
theorem integerSaturation : Obligations.IntegerSaturation := by
  unfold Obligations.IntegerSaturation
  simp only [List.forall_mem_cons]
  refine ⟨fun x => ?iadds, fun x => ?isubs, fun x => ?uadds, fun x => ?usubs, by simp⟩
  case iadds => exact produces_of_binary (exec_iadds x) rfl (by decide) fun _ _ => satS32_eq _
  case isubs => exact produces_of_binary (exec_isubs x) rfl (by decide) fun _ _ => satS32_eq _
  case uadds => exact produces_of_binary (exec_uadds x) rfl (by decide) fun _ _ => satU32_eq _
  case usubs => exact produces_of_binary (exec_usubs x) rfl (by decide) fun _ _ => satU32_eq _

end Sys2Proof.Machine
end

section
/-!
PROOF. IMAD, the bit-field family and the immediate family (spec/02_encoding.md R57, R66,
spec/05_lane_integer_control.md R118, R119, R123): the model computes on words and on named fields; the statement says the same
by quotients and remainders of numbers.
-/
namespace Sys2Proof.Machine

/-! ## Fields of the second source -/

theorem count5_eq_mod (b : Word) : count5 b = b.toNat % 32 := by
  simp [count5, bvFld, fld]

theorem fieldPos_eq_mod (b : Word) : fieldPos b = b.toNat % 32 := by
  simp [fieldPos, bvFld, fld]

theorem fieldLen_eq_min (b : Word) : fieldLen b = min (b.toNat / 2 ^ 8 % 2 ^ 6) (32 - b.toNat % 32) := by
  rw [fieldLen, fieldPos_eq_mod, bvFld, fld]

/-! ## Words by their numbers -/

theorem mul_eq_ofNat (a b : Word) : a * b = BitVec.ofNat 32 (a.toNat * b.toNat) := rfl

theorem mul_add_eq_ofNat (a b d : Word) : a * b + d = BitVec.ofNat 32 (a.toNat * b.toNat + d.toNat) := by
  rw [BitVec.ofNat_add, ← mul_eq_ofNat, BitVec.ofNat_toNat, BitVec.setWidth_eq]

theorem shl_count5 (a b : Word) : a <<< count5 b = BitVec.ofNat 32 (a.toNat * 2 ^ (b.toNat % 32)) := by
  rw [count5_eq_mod]
  exact BitVec.eq_of_toNat_eq (by simp [Nat.shiftLeft_eq])

theorem shr_count5 (a b : Word) : a >>> count5 b = BitVec.ofNat 32 (a.toNat / 2 ^ (b.toNat % 32)) := by
  have hlt : a.toNat / 2 ^ (b.toNat % 32) < 2 ^ 32 := (Nat.div_le_self _ _).trans_lt a.isLt
  apply BitVec.eq_of_toNat_eq
  rw [count5_eq_mod, BitVec.toNat_ushiftRight, Nat.shiftRight_eq_div_pow, BitVec.toNat_ofNat, Nat.mod_eq_of_lt hlt]

theorem sar_count5 (a b : Word) : a.sshiftRight (count5 b) = BitVec.ofInt 32 (Int.fdiv a.toInt (2 ^ (b.toNat % 32))) := by
  rw [count5_eq_mod, BitVec.sshiftRight, Int.shiftRight_eq_div_pow, Int.fdiv_eq_ediv_of_nonneg _ (by positivity)]
  norm_cast

/-! ## The signed field -/

/-- An (n+1)-bit remainder is below half its range exactly where its top bit is clear. -/
theorem two_mul_mod_lt_iff (y n : Nat) : 2 * (y % 2 ^ (n + 1)) < 2 ^ (n + 1) ↔ y / 2 ^ n % 2 ≠ 1 := by
  have hlow : y % 2 ^ n < 2 ^ n := Nat.mod_lt _ (by positivity)
  rw [pow_succ, Nat.mod_mul]
  obtain htop | htop := Nat.mod_two_eq_zero_or_one (y / 2 ^ n) <;> rw [htop] <;> omega

/-- The sign of a field is its highest bit, which stands in the word at bit `pos + len − 1` (R123). -/
theorem sextNat_fld (x pos len : Nat) : (if len == 0 then 0 else sextNat len (fld x pos len)) =
    if len = 0 then 0
    else if x / 2 ^ (pos + len - 1) % 2 = 1 then ((x / 2 ^ pos % 2 ^ len : Nat) : Int) - 2 ^ len
    else (x / 2 ^ pos % 2 ^ len : Nat) := by
  cases len with
  | zero => rfl
  | succ n =>
    have htop : x / 2 ^ (pos + (n + 1) - 1) = x / 2 ^ pos / 2 ^ n := by
      rw [Nat.div_div_eq_div_mul, ← pow_add]
      rfl
    rw [htop, sextNat, fld]
    simp only [beq_iff_eq, Nat.add_one_ne_zero, if_false, two_mul_mod_lt_iff, ne_eq, ite_not]

/-! ## The immediate -/

theorem immOf_nil (imm : BitVec 9) : immOf [] imm = BitVec.ofInt 32 imm.toInt := rfl

/-- HIMM's payload stands above imm9, which is not sign-extended (R57). -/
theorem immOf_himm (hi : BitVec 23) (imm : BitVec 9) : immOf [.imm hi] imm = BitVec.ofNat 32 (hi.toNat * 2 ^ 9 + imm.toNat) := by
  have happ : (hi ++ imm).toNat = hi.toNat * 2 ^ 9 + imm.toNat := by
    rw [BitVec.toNat_append, ← Nat.shiftLeft_add_eq_or_of_lt imm.isLt, Nat.shiftLeft_eq]
  calc immOf [.imm hi] imm = hi ++ imm := rfl
    _ = BitVec.ofNat 32 (hi ++ imm).toNat := (BitVec.ofNat_toNat .. |>.trans (BitVec.setWidth_eq _)).symm
    _ = BitVec.ofNat 32 (hi.toNat * 2 ^ 9 + imm.toNat) := by rw [happ]

/-! ## Members that read D, and members with an immediate -/

/-- A member whose meaning is a `binaryT` with `f` produces `f` of its destination and its two sources (R66), in whatever terms
`r` says it. -/
theorem produces_of_binaryT {i : Instr} {x : OpR} {b : Nat} {f : Word → Word → Word → Word} {r : Env → Lane → Word}
    (hexec : ∀ s, exec i s = binaryT i x f s) (hb : i.base = some b) (hlt : b < 0x28 * 2 ^ 26)
    (hr : ∀ e y, f (y.reg x.d) (readSrc e y x.a) (readSrc e y x.b) = r e y) :
    Produces i x.g x.w x.d fun e y => (r e y, 0) := by
  obtain rfl : (fun e y => f (y.reg x.d) (readSrc e y x.a) (readSrc e y x.b)) = r := funext₂ hr
  exact produces_of hexec (transfer_eq_false_of_base hb hlt)

/-- A member whose meaning is an `immediate` with `f` produces `r` of its source and the unit's immediate, where `r` says the same
word as `f` (R119). -/
theorem produces_of_immediate {i : Instr} {x : OpI} {b : Nat} {f r : Word → Word → Word}
    (hexec : ∀ s, exec i s = immediate i x f s) (hb : i.base = some b) (hlt : b < 0x28 * 2 ^ 26)
    (hr : ∀ a k, f a k = r a k) : Produces i x.g x.w x.d fun e y => (r (readSrc e y x.a) (immOf e.hints x.imm), 0) := by
  obtain rfl : f = r := funext₂ hr
  exact produces_of hexec (transfer_eq_false_of_base hb hlt)

/-! ## The meanings of the members -/

theorem exec_imad (x : OpR) (s : State) : exec (.imad x) s = binaryT (.imad x) x (fun d a b => a * b + d) s := rfl

theorem exec_bfxz (x : OpR) (s : State) :
    exec (.bfxz x) s = binary (.bfxz x) x (fun a b => (BitVec.ofNat 32 (bvFld a (fieldPos b) (fieldLen b)), 0)) s := rfl

theorem exec_bfxs (x : OpR) (s : State) :
    exec (.bfxs x) s = binary (.bfxs x) x (fun a b =>
      (BitVec.ofInt 32 (if fieldLen b == 0 then 0 else sextNat (fieldLen b) (bvFld a (fieldPos b) (fieldLen b))), 0)) s := rfl

theorem exec_bfi (x : OpR) (s : State) :
    exec (.bfi x) s = binaryT (.bfi x) x
      (fun d a b => BitVec.ofNat 32 (setFld d.toNat (fieldPos b) (fieldLen b) a.toNat)) s := rfl

theorem exec_fshl (x : OpR) (s : State) :
    exec (.fshl x) s = binaryT (.fshl x) x
      (fun d a b => BitVec.ofNat 32 ((d.toNat * 2 ^ 32 + a.toNat) * 2 ^ count5 b / 2 ^ 32)) s := rfl

theorem exec_iaddi (x : OpI) (s : State) : exec (.iaddi x) s = immediate (.iaddi x) x (fun a k => a + k) s := rfl

theorem exec_andi (x : OpI) (s : State) : exec (.andi x) s = immediate (.andi x) x (fun a k => a &&& k) s := rfl

theorem exec_ori (x : OpI) (s : State) : exec (.ori x) s = immediate (.ori x) x (fun a k => a ||| k) s := rfl

theorem exec_xori (x : OpI) (s : State) : exec (.xori x) s = immediate (.xori x) x (fun a k => a ^^^ k) s := rfl

theorem exec_shli (x : OpI) (s : State) : exec (.shli x) s = immediate (.shli x) x (fun a k => a <<< count5 k) s := rfl

theorem exec_shri (x : OpI) (s : State) : exec (.shri x) s = immediate (.shri x) x (fun a k => a >>> count5 k) s := rfl

theorem exec_sari (x : OpI) (s : State) : exec (.sari x) s = immediate (.sari x) x (fun a k => a.sshiftRight (count5 k)) s := rfl

theorem exec_imuli (x : OpI) (s : State) : exec (.imuli x) s = immediate (.imuli x) x (fun a k => a * k) s := rfl

theorem exec_movi (x : OpMovI) (s : State) :
    exec (.movi x) s = localUnit (.movi x) s (producer x.g x.w x.d fun e _ => .ok (immOf e.hints x.imm, 0)) := rfl

/-! ## The statement -/

/-- Settles O3: each member is a `binary`, `binaryT`, `immediate` or plain producer of a word that the laws above say in numbers. -/
theorem integerFieldsAndImmediates : Obligations.IntegerFieldsAndImmediates := by
  unfold Obligations.IntegerFieldsAndImmediates
  simp only [List.forall_mem_cons]
  refine ⟨⟨fun x => ?imad, ⟨fun x => ?bfxz, fun x => ?bfxs, fun x => ?bfi, by simp⟩, fun x => ?fshl⟩,
    ⟨fun x => ?iaddi, fun x => ?andi, fun x => ?ori, fun x => ?xori, fun x => ?shli, fun x => ?shri, fun x => ?sari,
      fun x => ?imuli, by simp⟩, fun x => ?movi, immOf_nil, immOf_himm⟩
  case imad => exact produces_of_binaryT (exec_imad x) rfl (by decide) fun _ _ => mul_add_eq_ofNat ..
  case bfxz =>
    refine produces_of_binary (exec_bfxz x) rfl (by decide) fun _ _ => ?_
    rw [fieldPos_eq_mod, fieldLen_eq_min, bvFld, fld]
  case bfxs =>
    refine produces_of_binary (exec_bfxs x) rfl (by decide) fun _ _ => ?_
    rw [fieldPos_eq_mod, fieldLen_eq_min, bvFld, sextNat_fld]
  case bfi =>
    refine produces_of_binaryT (exec_bfi x) rfl (by decide) fun _ _ => ?_
    rw [fieldPos_eq_mod, fieldLen_eq_min, setFld, fld]
  case fshl =>
    refine produces_of_binaryT (exec_fshl x) rfl (by decide) fun _ _ => ?_
    rw [count5_eq_mod]
  case iaddi => exact produces_of_immediate (exec_iaddi x) rfl (by decide) BitVec.add_def
  case andi => exact produces_of_immediate (exec_andi x) rfl (by decide) fun _ _ => rfl
  case ori => exact produces_of_immediate (exec_ori x) rfl (by decide) fun _ _ => rfl
  case xori => exact produces_of_immediate (exec_xori x) rfl (by decide) fun _ _ => rfl
  case shli => exact produces_of_immediate (exec_shli x) rfl (by decide) shl_count5
  case shri => exact produces_of_immediate (exec_shri x) rfl (by decide) shr_count5
  case sari => exact produces_of_immediate (exec_sari x) rfl (by decide) sar_count5
  case imuli => exact produces_of_immediate (exec_imuli x) rfl (by decide) mul_eq_ofNat
  case movi => exact produces_of (exec_movi x) (transfer_eq_false_of_base rfl (by decide))

end Sys2Proof.Machine
end

section
/-!
PROOF. The division family (spec/01_numbers.md R11, spec/05_lane_integer_control.md R108, R121): each member is a `division`
with one part of `divSigned` or `divUnsigned`.
-/
namespace Sys2Proof.Machine

/-! ## The parts of a division -/

theorem divSigned_zero (a : Word) : divSigned a 0 = (0xFFFFFFFF, a, true) := rfl

theorem divUnsigned_zero (a : Word) : divUnsigned a 0 = (0xFFFFFFFF, a, true) := rfl

/-- The remainder is what the truncated quotient leaves of the dividend; in the corner −2^31 by −1 that is 0, though the quotient
does not fit. -/
theorem divSigned_of_ne_zero (a : Word) {b : Word} (hb : b ≠ 0) : divSigned a b =
    (if a = 0x80000000 ∧ b = 0xFFFFFFFF then a else BitVec.ofInt 32 (Int.tdiv a.toInt b.toInt),
      BitVec.ofInt 32 (a.toInt - Int.tdiv a.toInt b.toInt * b.toInt), false) := by
  unfold divSigned
  simp only [beq_iff_eq, hb, if_false, Bool.and_eq_true]
  split
  case isTrue hcorner =>
    obtain ⟨rfl, rfl⟩ := hcorner
    decide
  case isFalse => rw [Int.tmod_def, mul_comm]

theorem divUnsigned_of_ne_zero (a : Word) {b : Word} (hb : b ≠ 0) : divUnsigned a b =
    (BitVec.ofNat 32 (a.toNat / b.toNat), BitVec.ofNat 32 (a.toNat - a.toNat / b.toNat * b.toNat), false) := by
  unfold divUnsigned
  simp only [beq_iff_eq, hb, if_false]
  rw [Nat.mod_eq_sub_div_mul]

/-! ## What a lane makes of a division -/

theorem bit_zero_eq_testBit (m : Nat) : bit m 0 = m.testBit 0 := by
  simp [bit, Nat.testBit_zero, beq_eq_decide]

@[simp] theorem Ctx.env_fmask (c : Ctx) (n : Nat) : (c.env n).fmask = recFmask c.r := rfl

@[simp] theorem Lane.produce_wait (l : Lane) (w : Bool) (d : Fin 64) (r : Word) : (l.produce w d r).wait = l.wait := by
  cases w <;> rfl

section
variable {i : Instr} {x : OpR} {s : State} {c : Ctx} {n : Nat} {l : Lane} {f : Word → Word → Word × Bool} {r : Word} {dz : Bool}

/-- A zero divisor that the fault mask selects in a contained lane ends the candidate (R108). -/
theorem division_deliver (h : Executes s c i n l) (hg : x.g.holds (l.started i c) = true)
    (hf : f (readSrc (c.env n) (l.started i c) x.a) (readSrc (c.env n) (l.started i c) x.b) = (r, true))
    (hin : (l.started i c).inside.isSome = true) (hm : bit (recFmask c.r) 0 = true) :
    ∃ t, division i x f s = .next t ∧ c.laneIn t n = some ((l.started i c).deliver 6) := by
  refine localUnit_deliver (e := .divZero) h ?_ (by simpa using hin)
  simp only [hg, if_true, hf, hin, Ctx.env_fmask, hm, Bool.and_self]

/-- Any other division delivers its result, with DZ where the divisor was zero. -/
theorem division_go (h : Executes s c i n l) (hg : x.g.holds (l.started i c) = true)
    (hf : f (readSrc (c.env n) (l.started i c) x.a) (readSrc (c.env n) (l.started i c) x.b) = (r, dz))
    (hm : ¬ (dz = true ∧ (l.started i c).inside.isSome = true ∧ bit (recFmask c.r) 0 = true)) (ht : i.transfer = false) :
    ∃ t, division i x f s = .next t ∧
      c.laneIn t n = some ((((l.started i c).produce x.w x.d r).setFlags (if dz then fDZ else 0)).past c) := by
  refine localUnit_go h ?_ (by simp) ht
  simp only [hg, if_true, hf, Ctx.env_fmask]
  exact if_neg (by simpa only [Bool.and_eq_true, and_assoc] using hm)

theorem division_off (h : Executes s c i n l) (hg : x.g.holds (l.started i c) = false) (ht : i.transfer = false) :
    ∃ t, division i x f s = .next t ∧
      c.laneIn t n = some (((l.started i c).produce true x.d ((l.started i c).reg x.d)).past c) :=
  localUnit_go h (by simp [hg]) (by simp) ht

end

/-- `i` divides by its second source (R121): `q` is its result, and `z` its result for the divisor 0. -/
def Divides (i : Instr) (x : OpR) (q : Word → Word → Word) (z : Word → Word) : Prop :=
  ∀ (s : State) (c : Ctx) (n : Nat) (l : Lane), Executes s c i n l →
    let y := l.started i c
    let a := readSrc (c.env n) y x.a
    let b := readSrc (c.env n) y x.b
    let r := if b = 0 then z a else q a b
    ∃ t, exec i s = .next t ∧ c.laneIn t n = some (
      if x.g.holds y then
        if b = 0 ∧ y.inside.isSome ∧ (recFmask c.r).testBit 0 then y.deliver 6
        else ({ y with
          v := if x.w then y.v else y.v.set (y.phys x.d).val r
          latches := (r :: y.latches).take 4
          status := y.status ||| (if b = 0 then 2 else 0) } : Lane).past c
      else ({ y with latches := (y.reg x.d :: y.latches).take 4 } : Lane).past c)

/-- The result and the flag of a division, in the fields of the lane. -/
theorem produce_setFlags_dz (y : Lane) (w : Bool) (d : Fin 64) (r b : Word) :
    (y.produce w d r).setFlags (if b == 0 then fDZ else 0) =
      { y with v := if w then y.v else y.v.set (y.phys d).val r, latches := (r :: y.latches).take 4,
               status := y.status ||| (if b = 0 then 2 else 0) } := by
  have hflag : (if b == 0 then fDZ else 0) &&& 0xFF = if b = 0 then 2 else 0 := by
    by_cases h0 : b = 0
    · rw [h0]
      rfl
    · rw [if_neg h0, if_neg (by rwa [beq_iff_eq])]
      rfl
  rw [← hflag]
  cases w <;> rfl

/-- A member whose meaning is a `division` with `f` divides, where `f` gives `z` and DZ for the divisor 0 and else `q`. -/
theorem divides_of_division {i : Instr} {x : OpR} {b : Nat} {f : Word → Word → Word × Bool} {q : Word → Word → Word} {z : Word → Word}
    (hexec : ∀ s, exec i s = division i x f s) (hb : i.base = some b) (hlt : b < 0x28 * 2 ^ 26)
    (hzero : ∀ a, f a 0 = (z a, true)) (hne : ∀ a b, b ≠ 0 → f a b = (q a b, false)) : Divides i x q z := by
  have hf (a b : Word) : f a b = (if b = 0 then z a else q a b, b == 0) := by
    by_cases h0 : b = 0
    · rw [h0, hzero]
      rfl
    · rw [hne a b h0, if_neg h0, beq_eq_false_iff_ne.2 h0]
  have ht : i.transfer = false := transfer_eq_false_of_base hb hlt
  intro s c n l hx
  simp only [hexec]
  split
  case isTrue hg =>
    split
    case isTrue hm =>
      obtain ⟨h0, hin, hbit⟩ := hm
      exact division_deliver hx hg (by rw [hf, h0]; rfl) hin (bit_zero_eq_testBit _ ▸ hbit)
    case isFalse hm =>
      rw [← produce_setFlags_dz]
      exact division_go hx hg (hf _ _) (by rwa [beq_iff_eq, bit_zero_eq_testBit]) ht
  case isFalse hg => exact division_off hx (by simpa using hg) ht

/-! ## The members of the family -/

theorem exec_idiv (x : OpR) (s : State) :
    exec (.idiv x) s = division (.idiv x) x (fun a b => ((divSigned a b).1, (divSigned a b).2.2)) s := rfl

theorem exec_irem (x : OpR) (s : State) :
    exec (.irem x) s = division (.irem x) x (fun a b => ((divSigned a b).2.1, (divSigned a b).2.2)) s := rfl

theorem exec_udiv (x : OpR) (s : State) :
    exec (.udiv x) s = division (.udiv x) x (fun a b => ((divUnsigned a b).1, (divUnsigned a b).2.2)) s := rfl

theorem exec_urem (x : OpR) (s : State) :
    exec (.urem x) s = division (.urem x) x (fun a b => ((divUnsigned a b).2.1, (divUnsigned a b).2.2)) s := rfl

/-- Settles O5: each member is a `division` with the quotient or the remainder of `divSigned` or `divUnsigned`. -/
theorem integerDivision : Obligations.IntegerDivision := by
  show ∀ m ∈ ([_, _, _, _] : List ((OpR → Instr) × (Word → Word → Word) × (Word → Word))), ∀ x : OpR, Divides (m.1 x) x m.2.1 m.2.2
  simp only [List.forall_mem_cons]
  refine ⟨fun x => ?idiv, fun x => ?irem, fun x => ?udiv, fun x => ?urem, by simp⟩
  case idiv =>
    exact divides_of_division (exec_idiv x) rfl (by decide) (fun a => by rw [divSigned_zero]) fun a b hb => by rw [divSigned_of_ne_zero a hb]
  case irem =>
    exact divides_of_division (exec_irem x) rfl (by decide) (fun a => by rw [divSigned_zero]) fun a b hb => by rw [divSigned_of_ne_zero a hb]
  case udiv =>
    exact divides_of_division (exec_udiv x) rfl (by decide) (fun a => by rw [divUnsigned_zero]) fun a b hb => by rw [divUnsigned_of_ne_zero a hb]
  case urem =>
    exact divides_of_division (exec_urem x) rfl (by decide) (fun a => by rw [divUnsigned_zero]) fun a b hb => by rw [divUnsigned_of_ne_zero a hb]

end Sys2Proof.Machine
end

section
/-!
PROOF. SEL, ICMP and PLOG (spec/05_lane_integer_control.md R124, R126, R127): the model compares words by their bits; the
statement compares the numbers they stand for.
-/
namespace Sys2Proof.Machine

/-! ## Comparing words by their numbers -/

/-- The number that ICMP takes a word for: unsigned where U is set, else signed (R126). -/
def icmpValue (u : Bool) (w : Word) : Int := if u then w.toNat else w.toInt

theorem icmpValue_inj {u : Bool} {a b : Word} : icmpValue u a = icmpValue u b ↔ a = b := by
  cases u
  · exact BitVec.toInt_inj
  · exact Int.ofNat_inj.trans BitVec.toNat_inj

theorem lessThan_iff_icmpValue (u : Bool) (a b : Word) :
    (if u then a.ult b else a.slt b) = true ↔ icmpValue u a < icmpValue u b := by
  cases u
  · exact BitVec.slt_iff_toInt_lt
  · exact BitVec.ult_iff_lt.trans (BitVec.lt_def.trans Int.ofNat_lt.symm)

theorem lessThan_or_eq_iff_icmpValue (u : Bool) (a b : Word) :
    ((if u then a.ult b else a.slt b) || a == b) = true ↔ icmpValue u a ≤ icmpValue u b := by
  rw [Bool.or_eq_true, lessThan_iff_icmpValue, beq_iff_eq, ← icmpValue_inj (u := u), Int.le_iff_lt_or_eq]

section
variable (u : Bool) (a b : Word)

theorem icmpHolds_lt : icmpHolds .lt u a b = decide (icmpValue u a < icmpValue u b) := by
  rw [Bool.eq_iff_iff, decide_eq_true_iff]
  exact lessThan_iff_icmpValue u a b

theorem icmpHolds_le : icmpHolds .le u a b = decide (icmpValue u a ≤ icmpValue u b) := by
  rw [Bool.eq_iff_iff, decide_eq_true_iff]
  exact lessThan_or_eq_iff_icmpValue u a b

theorem icmpHolds_gt : icmpHolds .gt u a b = decide (icmpValue u b < icmpValue u a) := by
  have hnot : icmpHolds .gt u a b = !icmpHolds .le u a b := rfl
  rw [hnot, icmpHolds_le, ← decide_not, decide_eq_decide, not_le]

theorem icmpHolds_ge : icmpHolds .ge u a b = decide (icmpValue u b ≤ icmpValue u a) := by
  have hnot : icmpHolds .ge u a b = !icmpHolds .lt u a b := rfl
  rw [hnot, icmpHolds_lt, ← decide_not, decide_eq_decide, not_lt]

end

/-! ## Instructions that write one predicate -/

/-- A member that combines `k` into a predicate changes that predicate alone, in whatever terms `r` says `k`. -/
theorem changes_of_setP {i : Instr} {g : Guard} {pd : Fin 4} {comb : Comb} {b : Nat} {k r : Env → Lane → Bool}
    (hexec : ∀ s, exec i s = localUnit i s (guarded g fun e l => .go (l.setP pd (combine comb l.p[pd.val] (k e l)))))
    (hb : i.base = some b) (hlt : b < 0x28 * 2 ^ 26) (hk : ∀ e y, k e y = r e y) :
    Changes i g fun e y => { y with p := y.p.set pd.val (combine comb y.p[pd.val] (r e y)) } := by
  obtain rfl : k = r := funext₂ hk
  exact changes_of hexec (fun _ _ hw => hw) (transfer_eq_false_of_base hb hlt)

theorem exec_sel (x : OpSel) (s : State) : exec (.sel x) s = localUnit (.sel x) s (producer .always x.w x.d fun e l =>
    .ok (if x.sel.holds l then readSrc e l x.a else readSrc e l x.b, 0)) := rfl

theorem exec_icmp (x : OpICmp) (s : State) : exec (.icmp x) s = localUnit (.icmp x) s (guarded x.g fun e l =>
    .go (l.setP x.pd (combine x.comb l.p[x.pd.val] (icmpHolds x.cond x.u (readSrc e l x.a) (readSrc e l x.b))))) := rfl

theorem exec_plog (x : OpPLog) (s : State) : exec (.plog x) s = localUnit (.plog x) s (guarded x.g fun _ l =>
    .go (l.setP x.pd (combine x.comb l.p[x.pd.val] (plogFn x.fn (x.x.holds l) (x.y.holds l))))) := rfl

/-! ## The statement -/

/-- Settles O7: SEL is a producer under no guard; ICMP and PLOG write their one predicate, ICMP by the order of the numbers that its
sources stand for. -/
theorem selectCompareLogic : Obligations.SelectCompareLogic := by
  unfold Obligations.SelectCompareLogic
  refine ⟨fun x => ?sel, fun x => ?icmp, fun x => ?plog, fun _ _ => ⟨rfl, rfl, rfl, rfl⟩⟩
  case sel => exact produces_of (exec_sel x) (transfer_eq_false_of_base rfl (by decide))
  case icmp =>
    refine changes_of_setP (exec_icmp x) rfl (by decide) fun _ _ => ?_
    cases x.cond with
    | eq => rfl
    | ne => rfl
    | lt => exact icmpHolds_lt ..
    | le => exact icmpHolds_le ..
    | gt => exact icmpHolds_gt ..
    | ge => exact icmpHolds_ge ..
    | tst => rfl
  case plog =>
    refine changes_of_setP (exec_plog x) rfl (by decide) fun _ _ => ?_
    cases x.fn <;> rfl

end Sys2Proof.Machine
end

section
/-!
PROOF. FCMP (spec/06_lane_float_planes.md R153): the model orders two values by their magnitudes in units of the smaller exponent,
with −0 below +0, and takes LE and GE as "not after"; the statement compares the numbers that the values are.
-/
namespace Sys2Proof.Machine

/-! ## The order of values -/

/-- A finite value is its signed magnitude in units of any smaller power of two. -/
theorem signedUnits_mul_zpow (neg : Bool) (m : Nat) {e q : Int} (h : q ≤ e) :
    (signedUnits neg m e q : Rat) * 2 ^ q = (Num.fin neg m e).rat := by
  have hpow : (2 : Rat) ^ (e - q).toNat * 2 ^ q = 2 ^ e := by
    rw [← zpow_natCast, ← zpow_add₀ two_ne_zero, Int.toNat_of_nonneg (Int.sub_nonneg.2 h), Int.sub_add_cancel]
  have hmag : ((m : Rat) * 2 ^ (e - q).toNat) * 2 ^ q = m * 2 ^ e := by rw [mul_assoc, hpow]
  cases neg <;> simp [signedUnits, Num.rat, hmag]

section
variable (na nb : Bool) (ma mb : Nat) (ea eb : Int)

theorem signedUnits_eq_iff_rat :
    signedUnits na ma ea (min ea eb) = signedUnits nb mb eb (min ea eb) ↔ (Num.fin na ma ea).rat = (Num.fin nb mb eb).rat := by
  rw [← signedUnits_mul_zpow na ma (min_le_left ea eb), ← signedUnits_mul_zpow nb mb (min_le_right ea eb),
    mul_left_inj' (zpow_ne_zero _ two_ne_zero), Int.cast_inj]

theorem signedUnits_lt_iff_rat :
    signedUnits na ma ea (min ea eb) < signedUnits nb mb eb (min ea eb) ↔ (Num.fin na ma ea).rat < (Num.fin nb mb eb).rat := by
  rw [← signedUnits_mul_zpow na ma (min_le_left ea eb), ← signedUnits_mul_zpow nb mb (min_le_right ea eb),
    mul_lt_mul_iff_left₀ (zpow_pos two_pos _), Int.cast_lt]

theorem numEq_fin_iff_rat :
    numEq (.fin na ma ea) (.fin nb mb eb) = true ↔ (Num.fin na ma ea).rat = (Num.fin nb mb eb).rat :=
  beq_iff_eq.trans (signedUnits_eq_iff_rat na nb ma mb ea eb)

/-- Two zeros are ordered by `numLt`, −0 before +0, but they are equal; all other values `numLt` orders as numbers. -/
theorem numLt_fin_iff_rat :
    (numLt (.fin na ma ea) (.fin nb mb eb) && !numEq (.fin na ma ea) (.fin nb mb eb)) = true ↔
      (Num.fin na ma ea).rat < (Num.fin nb mb eb).rat := by
  rw [Bool.and_eq_true, Bool.not_eq_true', ← Bool.not_eq_true, numEq_fin_iff_rat]
  by_cases hz : (ma == 0 && mb == 0) = true
  · have heq : (Num.fin na ma ea).rat = (Num.fin nb mb eb).rat := by
      obtain ⟨rfl, rfl⟩ : ma = 0 ∧ mb = 0 := by simpa using hz
      simp [Num.rat]
    exact iff_of_false (fun h => h.2 heq) heq.not_lt
  · have hlt : numLt (.fin na ma ea) (.fin nb mb eb) = true ↔ (Num.fin na ma ea).rat < (Num.fin nb mb eb).rat := by
      rw [← signedUnits_lt_iff_rat]
      simp [numLt, hz]
    rw [hlt]
    exact and_iff_left_of_imp ne_of_lt
end

theorem numEq_comm (x y : Num) : numEq x y = numEq y x := by
  cases x with
  | nan => cases y <;> rfl
  | inf => cases y with
    | inf => exact Bool.beq_comm
    | nan | fin => rfl
  | fin na ma ea => cases y with
    | fin nb mb eb => rw [Bool.eq_iff_iff, numEq_fin_iff_rat, numEq_fin_iff_rat, eq_comm]
    | nan | inf => rfl

theorem numEq_and_numLt_of_isNaN {x y : Num} (h : x.isNaN = true ∨ y.isNaN = true) : numEq x y = false ∧ numLt x y = false := by
  rcases h with h | h
  · cases x with
    | nan => cases y <;> exact ⟨rfl, rfl⟩
    | inf | fin => contradiction
  · cases y with
    | nan => cases x <;> exact ⟨rfl, rfl⟩
    | inf | fin => contradiction

/-- Values that are no NaN are ordered totally: one that does not come after the other comes before it or equals it. -/
theorem not_after_eq_of_ordered {x y : Num} (hx : x.isNaN = false) (hy : y.isNaN = false) :
    (!(numLt y x && !numEq x y)) = (numLt x y || numEq x y) := by
  cases x with
  | nan => contradiction
  | inf n => cases y with
    | nan => contradiction
    | inf k => revert n k; decide
    | fin => cases n <;> rfl
  | fin na ma ea => cases y with
    | nan => contradiction
    | inf k => cases k <;> rfl
    | fin nb mb eb =>
      have hor (p q : Bool) : (p || q) = ((p && !q) || q) := by revert p q; decide
      rw [hor, numEq_comm, Bool.eq_iff_iff, Bool.not_eq_true', ← Bool.not_eq_true, numLt_fin_iff_rat, not_lt, numEq_comm,
        Bool.or_eq_true, numLt_fin_iff_rat, numEq_fin_iff_rat, le_iff_lt_or_eq]

/-- LE as the model takes it, ordered and not after, and as the statement does. -/
theorem ordered_and_not_after (x y : Num) :
    (!(x.isNaN || y.isNaN) && !(numLt y x && !numEq x y)) = (!(x.isNaN || y.isNaN) && (numLt x y || numEq x y)) := by
  cases hx : x.isNaN with
  | true => rfl
  | false => cases hy : y.isNaN with
    | true => rfl
    | false => rw [not_after_eq_of_ordered hx hy]

/-- The same of GE. -/
theorem ordered_and_not_before (x y : Num) :
    (!(x.isNaN || y.isNaN) && !(numLt x y && !numEq x y)) = (!(x.isNaN || y.isNaN) && (numLt y x || numEq x y)) := by
  rw [Bool.or_comm, numEq_comm]
  exact ordered_and_not_after y x

/-- An infinity against a finite value: −∞ before it, +∞ after it. -/
theorem numEq_and_numLt_inf_of_isFin (n : Bool) {y : Num} (h : y.isFin = true) :
    numEq (.inf n) y = false ∧ numLt (.inf n) y = n ∧ numLt y (.inf n) = !n := by
  cases y with
  | fin => exact ⟨rfl, rfl, rfl⟩
  | nan | inf => contradiction

/-! ## The flag -/

theorem numNV_eq_ite (x : Num) : numNV x = if x = .nan true then fNV else 0 := by
  cases x with
  | nan s => cases s <;> rfl
  | inf => rfl
  | fin => rfl

theorem ite_fNV_or_ite_fNV (p q : Prop) [Decidable p] [Decidable q] :
    (if p then fNV else 0) ||| (if q then fNV else 0) = if p ∨ q then fNV else 0 := by
  by_cases hp : p <;> by_cases hq : q <;> simp [hp, hq]

theorem opFCmp_flags (c : FCond) (q fi : Bool) (a b : Nat) :
    let x := valOf fmtF32 (flush fmtF32 fi a)
    let y := valOf fmtF32 (flush fmtF32 fi b)
    (opFCmp c q fi a b).2 = if x = .nan true ∨ y = .nan true ∨
      (!q) ∧ (x.isNaN || y.isNaN) ∧ (c = .lt ∨ c = .le ∨ c = .gt ∨ c = .ge) then fNV else 0 := by
  simp only [opFCmp, numNV_eq_ite, ite_fNV_or_ite_fNV, Bool.and_eq_true, Bool.or_eq_true, beq_iff_eq, or_assoc, and_assoc]

theorem bit_eq_testBit (m k : Nat) : bit m k = m.testBit k := by
  rw [Nat.testBit_eq_decide_div_mod_eq]
  rfl

/-- NV alone ends a contained lane where the fault mask has bit 1 (R108). -/
theorem raises_ite_fNV (l : Lane) (m : Nat) (nv : Bool) :
    l.raises m (if nv then fNV else 0) = if nv ∧ l.inside.isSome ∧ m.testBit 1 then some .arith else none := by
  cases nv with
  | false => exact raises_zero l m
  | true =>
    have hmask : maskSelects m fNV = m.testBit 1 := by
      simp [maskSelects, ← bit_eq_testBit, show bit fNV.toNat 0 = true from rfl, show bit fNV.toNat 1 = false from rfl,
        show bit fNV.toNat 2 = false from rfl, show bit fNV.toNat 5 = false from rfl]
    simp [Lane.raises, hmask]

/-! ## The instruction -/

theorem exec_fcmp (x : OpFCmp) (s : State) : exec (.fcmp x) s = localUnit (.fcmp x) s (guarded x.g fun e l =>
    let r := opFCmp x.cond x.q x.fi (readSrc e l x.a).toNat (readSrc e l x.b).toNat
    match l.raises e.fmask r.2 with
    | some k => .fail k
    | none => .go ((l.setP x.pd (combine x.comb l.p[x.pd.val] r.1)).setFlags r.2)) := rfl

/-- A lane that executes FCMP, by the condition `k` and the flag `nv` of the comparison, in whatever terms these are said. -/
theorem fcmp_lane {x : OpFCmp} {s : State} {c : Ctx} {n : Nat} {l : Lane} {k nv : Bool} (h : Executes s c (.fcmp x) n l)
    (hk : let y := l.started (.fcmp x) c
      opFCmp x.cond x.q x.fi (readSrc (c.env n) y x.a).toNat (readSrc (c.env n) y x.b).toNat = (k, if nv then fNV else 0)) :
    let y := l.started (.fcmp x) c
    ∃ t, exec (.fcmp x) s = .next t ∧ c.laneIn t n = some (
      if x.g.holds y then
        if nv ∧ y.inside.isSome ∧ (recFmask c.r).testBit 1 then y.deliver 0x0A
        else ({ y with
          p := y.p.set x.pd.val (combine x.comb y.p[x.pd.val] k)
          status := y.status ||| (if nv then 1 else 0) } : Lane).past c
      else y.past c) := by
  have ht : (Instr.fcmp x).transfer = false := transfer_eq_false_of_base rfl (by decide)
  simp only at hk ⊢
  rw [exec_fcmp]
  split
  case isFalse hg => exact guarded_off h (by simpa using hg) ht
  case isTrue hg =>
    split
    case isTrue hm =>
      have ⟨_, hin, _⟩ := hm
      refine localUnit_deliver (e := .arith) h ?_ (by simpa using hin)
      have hraise : (l.started (.fcmp x) c).raises (recFmask c.r) (if nv then fNV else 0) = some .arith := by
        rw [raises_ite_fNV, if_pos hm]
      simp only [guarded, hg, if_true, hk, Ctx.env_fmask, hraise]
    case isFalse hm =>
      have hflag : (if nv then fNV else 0) &&& 0xFF = if nv then 1 else 0 := by cases nv <;> rfl
      rw [← hflag]
      refine guarded_go (x := Lane.setFlags (Lane.setP _ x.pd _) _) h hg ?_ (by exact started_wait l _ c) ht
      have hraise : (l.started (.fcmp x) c).raises (recFmask c.r) (if nv then fNV else 0) = none := by
        rw [raises_ite_fNV, if_neg hm]
      simp only [hk, Ctx.env_fmask, hraise]

/-! ## The statement -/

/-- Settles O13: `opFCmp` gives the condition in the statement's terms and NV alone, and `numEq` and `numLt` order the values as
the numbers that they are. -/
theorem floatCompare : Obligations.FloatCompare := by
  unfold Obligations.FloatCompare
  refine ⟨fun x s c n l h => ?lane, fun x y => ⟨numEq_and_numLt_of_isNaN, ?finite, ?infFinite, ?infinities⟩, by decide⟩
  case lane =>
    refine fcmp_lane h (Prod.ext ?_ (by simp only [opFCmp_flags, decide_eq_true_iff]))
    cases x.cond with
    | eq => rfl
    | ne => rfl
    | lt => rfl
    | le => exact ordered_and_not_after ..
    | gt => rfl
    | ge => exact ordered_and_not_before ..
    | un => rfl
    | ord => rfl
  case finite =>
    intro hx hy
    cases x with
    | nan | inf => contradiction
    | fin => cases y with
      | nan | inf => contradiction
      | fin => exact ⟨numEq_fin_iff_rat .., numLt_fin_iff_rat ..⟩
  case infFinite =>
    rintro n rfl hy
    obtain ⟨heq, hlt, hgt⟩ := numEq_and_numLt_inf_of_isFin n hy
    simp [heq, numEq_comm y, hlt, hgt]
  case infinities =>
    rintro n k rfl rfl
    revert n k
    decide

end Sys2Proof.Machine
end

section
/-!
PROOF. The decoder and the encoder invert each other (spec/02_encoding.md R34 to R70). That the word of a term decodes to it
stands in Laws/PerInstr.lean, instruction by instruction. The converse, that a word is the one that the encoder writes for what
it decodes to, goes format by format: the fields that a format names or holds at zero, with the major and the opcode, are all the bits of a word.
-/
namespace Sys2Proof.Laws

-- The proofs of this file run one after another: side by side they take the check's memory.
set_option Elab.async false

/-! ## Codes read back -/

theorem whenZero_eq_some {f : Nat} {x : Option Instr} {i : Instr} : whenZero f x = some i ↔ f = 0 ∧ x = some i := by
  simp [whenZero]

theorem b2n_bit (w n : Nat) : b2n (bit w n) = fld w n 1 := by
  have hlt : w / 2 ^ n % 2 < 2 := Nat.mod_lt _ (by decide)
  by_cases h : w / 2 ^ n % 2 = 1
  · simp [b2n, bit, fld, h]
  · simp only [b2n, bit, fld, beq_iff_eq, h, if_false]
    omega

theorem fld_lt (w lo n : Nat) : fld w lo n < 2 ^ n := Nat.mod_lt _ (by positivity)

theorem val_ofNat_fld {w lo n k : Nat} [NeZero k] (h : 2 ^ n = k) : (Fin.ofNat k (fld w lo n)).val = fld w lo n :=
  Nat.mod_eq_of_lt (h ▸ fld_lt w lo n)

theorem toNat_ofNat_fld (w lo n : Nat) : (BitVec.ofNat n (fld w lo n)).toNat = fld w lo n := Nat.mod_eq_of_lt (fld_lt w lo n)

/-- The fields of the widths `ns` from bit `lo` on, put together, with what stands above them. -/
def joined (w : Nat) : Nat → List Nat → Nat
  | lo, [] => w / 2 ^ lo
  | lo, n :: ns => fld w lo n + 2 ^ n * joined w (lo + n) ns

theorem joined_eq (w : Nat) (ns : List Nat) (lo : Nat) : joined w lo ns = w / 2 ^ lo := by
  induction ns generalizing lo with
  | nil => rfl
  | cons n ns ih => rw [joined, ih, fld, pow_add, ← Nat.div_div_eq_div_mul, Nat.mod_add_div]

/-- A word is put together from its fields. -/
theorem eq_joined (w : Nat) (ns : List Nat) : w = joined w 0 ns := by
  rw [joined_eq, pow_zero, Nat.div_one]

/-- A field's code is read back from what it decodes to, where that holds of each code of the field's width. -/
theorem enc_of_dec {α : Type} {dec : Nat → Option α} {enc : α → Nat} {w lo n : Nat} {a : α}
    (hcodes : ∀ c < 2 ^ n, (dec c).all (fun a => enc a == c) = true) (h : dec (fld w lo n) = some a) : enc a = fld w lo n := by
  have hc := hcodes _ (fld_lt w lo n)
  rw [h] at hc
  simpa using hc

theorem enc_dec {α : Type} {dec : Nat → α} {enc : α → Nat} (n : Nat) (hcodes : ∀ c < 2 ^ n, enc (dec c) = c) (w lo : Nat) :
    enc (dec (fld w lo n)) = fld w lo n := hcodes _ (fld_lt w lo n)

section
variable {w lo : Nat}

theorem encGuard_of_dec {g : Guard} : decGuard (fld w lo 3) = some g → encGuard g = fld w lo 3 := enc_of_dec (by decide)
theorem encSrc_of_dec {a : Src} : decSrc (fld w lo 7) = some a → encSrc a = fld w lo 7 := enc_of_dec (by decide)
theorem encSSrc_of_dec {a : SSrc} : decSSrc (fld w lo 7) = some a → encSSrc a = fld w lo 7 := enc_of_dec (by decide)
theorem encICond_of_dec {c : ICond} : decICond (fld w lo 3) = some c → encICond c = fld w lo 3 := enc_of_dec (by decide)
theorem encLogFn_of_dec {f : LogFn} : decLogFn (fld w lo 3) = some f → encLogFn f = fld w lo 3 := enc_of_dec (by decide)
theorem encLdSize_of_dec {z : LdSize} : decLdSize (fld w lo 3) = some z → encLdSize z = fld w lo 3 := enc_of_dec (by decide)
theorem encStSize_of_dec {z : StSize} : decStSize (fld w lo 3) = some z → encStSize z = fld w lo 3 := enc_of_dec (by decide)
theorem encAtomXOp_of_dec {o : AtomXOp} : decAtomXOp (fld w lo 3) = some o → encAtomXOp o = fld w lo 3 :=
  enc_of_dec (by decide)
theorem encLatchTy_of_dec {t : LatchTy} : decLatchTy (fld w lo 2) = some t → encLatchTy t = fld w lo 2 := enc_of_dec (by decide)
theorem encMPlanes_of_dec {p : MPlanes} : decMPlanes (fld w lo 2) = some p → encMPlanes p = fld w lo 2 := enc_of_dec (by decide)
theorem encSpecial_of_dec {n : Nat} {x : Special} (hn : n ≤ 7) (h : decSpecial (fld w lo n) = some x) : encSpecial x = fld w lo n := by
  have hcodes : ∀ c < 2 ^ 7, (decSpecial c).all (fun a => encSpecial a == c) = true := by decide
  exact enc_of_dec (fun c hc => hcodes c (hc.trans_le (Nat.pow_le_pow_right two_pos hn))) h

end

theorem encPSel_dec : ∀ w lo, encPSel (decPSel (fld w lo 3)) = fld w lo 3 := enc_dec 3 (by decide)
theorem encFCond_dec : ∀ w lo, encFCond (decFCond (fld w lo 3)) = fld w lo 3 := enc_dec 3 (by decide)
theorem encComb_dec : ∀ w lo, encComb (decComb (fld w lo 2)) = fld w lo 2 := enc_dec 2 (by decide)
theorem scopeCode_dec : ∀ w lo, (decScope (fld w lo 3)).code = fld w lo 3 := enc_dec 3 (by decide)
theorem encOrder_dec : ∀ w lo, encOrder (decOrder (fld w lo 2)) = fld w lo 2 := enc_dec 2 (by decide)
theorem encAtomOp_dec : ∀ w lo, encAtomOp (decAtomOp (fld w lo 3)) = fld w lo 3 := enc_dec 3 (by decide)
theorem encRMode_dec : ∀ w lo, encRMode (decRMode (fld w lo 2)) = fld w lo 2 := enc_dec 2 (by decide)

/-! ## One format at a time -/

section
variable {w m f : Nat} {i : Instr} (hw : w < 2 ^ 32) (hm : fld w 26 6 = m)
include hw hm

theorem encode_of_decR {mk : OpR → Instr} (hf : fld w 20 2 = f)
    (he : ∀ x, encode (mk x) = some (m * 2 ^ 26 + f * 2 ^ 20 + encR x)) (h : decR w mk = some i) : encode i = some w := by
  simp only [decR, Option.bind_eq_some_iff, Option.some.injEq] at h
  obtain ⟨g, hg, a, ha, b, hb, rfl⟩ := h
  have := encGuard_of_dec hg
  have := encSrc_of_dec ha
  have := encSrc_of_dec hb
  rw [he, encR]
  simp (disch := decide) only [b2n_bit, val_ofNat_fld]
  have hfields := eq_joined w [7, 7, 6, 2, 1, 3, 6]
  simp only [joined, Nat.reduceAdd, Nat.reducePow] at hfields
  exact congrArg some (by omega)

theorem encode_of_decR64 {mk : OpR64 → Instr} (hf : fld w 20 2 = f)
    (he : ∀ x, encode (mk x) = some (m * 2 ^ 26 + f * 2 ^ 20 + encR64 x)) (h : decR64 w mk = some i) : encode i = some w := by
  simp only [decR64, whenZero_eq_some, Option.bind_eq_some_iff, Option.some.injEq] at h
  obtain ⟨hz22, g, hg, a, ha, b, hb, rfl⟩ := h
  have := encGuard_of_dec hg
  have := encSrc_of_dec ha
  have := encSrc_of_dec hb
  rw [he, encR64]
  simp (disch := decide) only [val_ofNat_fld]
  have hfields := eq_joined w [7, 7, 6, 2, 1, 3, 6]
  simp only [joined, Nat.reduceAdd, Nat.reducePow] at hfields
  exact congrArg some (by omega)

theorem encode_of_decU {mk : OpU → Instr} (hf : fld w 0 7 = f)
    (he : ∀ x, encode (mk x) = some (m * 2 ^ 26 + f + encU x)) (h : decU w mk = some i) : encode i = some w := by
  simp only [decU, whenZero_eq_some, Option.bind_eq_some_iff, Option.some.injEq] at h
  obtain ⟨hz20, g, hg, a, ha, rfl⟩ := h
  have := encGuard_of_dec hg
  have := encSrc_of_dec ha
  rw [he, encU]
  simp (disch := decide) only [b2n_bit, val_ofNat_fld]
  have hfields := eq_joined w [7, 7, 6, 2, 1, 3, 6]
  simp only [joined, Nat.reduceAdd, Nat.reducePow] at hfields
  exact congrArg some (by omega)

theorem encode_of_decSel {mk : OpSel → Instr}
    (he : ∀ x, encode (mk x) = some (m * 2 ^ 26 + encSel x)) (h : decSel w mk = some i) : encode i = some w := by
  simp only [decSel, whenZero_eq_some, Option.bind_eq_some_iff, Option.some.injEq] at h
  obtain ⟨hz20, a, ha, b, hb, rfl⟩ := h
  have := encSrc_of_dec ha
  have := encSrc_of_dec hb
  rw [he, encSel]
  simp (disch := decide) only [encPSel_dec, b2n_bit, val_ofNat_fld]
  have hfields := eq_joined w [7, 7, 6, 2, 1, 3, 6]
  simp only [joined, Nat.reduceAdd, Nat.reducePow] at hfields
  exact congrArg some (by omega)

theorem encode_of_decSR {mk : OpSR → Instr} (hf : fld w 20 2 = f)
    (he : ∀ x, encode (mk x) = some (m * 2 ^ 26 + f * 2 ^ 20 + encSR x)) (h : decSR w mk = some i) : encode i = some w := by
  simp only [decSR, whenZero_eq_some, Option.bind_eq_some_iff, Option.some.injEq] at h
  obtain ⟨hz22, hz19, a, ha, b, hb, rfl⟩ := h
  have := encSSrc_of_dec ha
  have := encSSrc_of_dec hb
  rw [he, encSR]
  simp (disch := decide) only [val_ofNat_fld]
  have hfields := eq_joined w [7, 7, 5, 1, 2, 4, 6]
  simp only [joined, Nat.reduceAdd, Nat.reducePow] at hfields
  exact congrArg some (by omega)

theorem encode_of_decSU {mk : OpSU → Instr} (hf : fld w 0 7 = f)
    (he : ∀ x, encode (mk x) = some (m * 2 ^ 26 + f + encSU x)) (h : decSU w mk = some i) : encode i = some w := by
  simp only [decSU, whenZero_eq_some, Option.bind_eq_some_iff, Option.some.injEq] at h
  obtain ⟨hz20, hz19, a, ha, rfl⟩ := h
  have := encSSrc_of_dec ha
  rw [he, encSU]
  simp (disch := decide) only [val_ofNat_fld]
  have hfields := eq_joined w [7, 7, 5, 1, 6, 6]
  simp only [joined, Nat.reduceAdd, Nat.reducePow] at hfields
  exact congrArg some (by omega)

theorem encode_of_decSI {mk : OpSI → Instr}
    (he : ∀ x, encode (mk x) = some (m * 2 ^ 26 + encSI x)) (h : decSI w mk = some i) : encode i = some w := by
  simp only [decSI, whenZero_eq_some, Option.bind_eq_some_iff, Option.some.injEq] at h
  obtain ⟨hz22, hz21, a, ha, rfl⟩ := h
  have := encSSrc_of_dec ha
  rw [he, encSI]
  simp (disch := decide) only [val_ofNat_fld, toNat_ofNat_fld]
  have hfields := eq_joined w [9, 7, 5, 1, 4, 6]
  simp only [joined, Nat.reduceAdd, Nat.reducePow] at hfields
  exact congrArg some (by omega)

theorem encode_of_decI {mk : OpI → Instr}
    (he : ∀ x, encode (mk x) = some (m * 2 ^ 26 + encI x)) (h : decI w mk = some i) : encode i = some w := by
  simp only [decI, Option.bind_eq_some_iff, Option.some.injEq] at h
  obtain ⟨g, hg, a, ha, rfl⟩ := h
  have := encGuard_of_dec hg
  have := encSrc_of_dec ha
  rw [he, encI]
  simp (disch := decide) only [b2n_bit, val_ofNat_fld, toNat_ofNat_fld]
  have hfields := eq_joined w [9, 7, 6, 1, 3, 6]
  simp only [joined, Nat.reduceAdd, Nat.reducePow] at hfields
  exact congrArg some (by omega)

theorem encode_of_decRF {mk : OpRF → Instr}
    (he : ∀ x, encode (mk x) = some (m * 2 ^ 26 + encRF x)) (h : decRF w mk = some i) : encode i = some w := by
  simp only [decRF, Option.bind_eq_some_iff, Option.some.injEq] at h
  obtain ⟨g, hg, a, ha, b, hb, rfl⟩ := h
  have := encGuard_of_dec hg
  have := encSrc_of_dec ha
  have := encSrc_of_dec hb
  rw [he, encRF]
  simp (disch := decide) only [b2n_bit, val_ofNat_fld]
  have hfields := eq_joined w [7, 7, 6, 1, 1, 1, 3, 6]
  simp only [joined, Nat.reduceAdd, Nat.reducePow] at hfields
  exact congrArg some (by omega)

theorem encode_of_decUF {mk : OpUF → Instr} (hf : fld w 0 7 = f)
    (he : ∀ x, encode (mk x) = some (m * 2 ^ 26 + f + encUF x)) (h : decUF w mk = some i) : encode i = some w := by
  simp only [decUF, Option.bind_eq_some_iff, Option.some.injEq] at h
  obtain ⟨g, hg, a, ha, rfl⟩ := h
  have := encGuard_of_dec hg
  have := encSrc_of_dec ha
  rw [he, encUF]
  simp (disch := decide) only [b2n_bit, val_ofNat_fld]
  have hfields := eq_joined w [7, 7, 6, 1, 1, 1, 3, 6]
  simp only [joined, Nat.reduceAdd, Nat.reducePow] at hfields
  exact congrArg some (by omega)

theorem encode_of_decICmp {mk : OpICmp → Instr}
    (he : ∀ x, encode (mk x) = some (m * 2 ^ 26 + encICmp x)) (h : decICmp w mk = some i) : encode i = some w := by
  simp only [decICmp, whenZero_eq_some, Option.bind_eq_some_iff, Option.some.injEq] at h
  obtain ⟨hz14, g, hg, c, hc, a, ha, b, hb, rfl⟩ := h
  have := encGuard_of_dec hg
  have := encICond_of_dec hc
  have := encSrc_of_dec ha
  have := encSrc_of_dec hb
  rw [he, encICmp]
  simp (disch := decide) only [encComb_dec, b2n_bit, val_ofNat_fld]
  have hfields := eq_joined w [7, 7, 1, 1, 2, 3, 2, 3, 6]
  simp only [joined, Nat.reduceAdd, Nat.reducePow] at hfields
  exact congrArg some (by omega)

theorem encode_of_decFCmp {mk : OpFCmp → Instr}
    (he : ∀ x, encode (mk x) = some (m * 2 ^ 26 + encFCmp x)) (h : decFCmp w mk = some i) : encode i = some w := by
  simp only [decFCmp, Option.bind_eq_some_iff, Option.some.injEq] at h
  obtain ⟨g, hg, a, ha, b, hb, rfl⟩ := h
  have := encGuard_of_dec hg
  have := encSrc_of_dec ha
  have := encSrc_of_dec hb
  rw [he, encFCmp]
  simp (disch := decide) only [encComb_dec, encFCond_dec, b2n_bit, val_ofNat_fld]
  have hfields := eq_joined w [7, 7, 1, 1, 2, 3, 2, 3, 6]
  simp only [joined, Nat.reduceAdd, Nat.reducePow] at hfields
  exact congrArg some (by omega)

theorem encode_of_decPLog {mk : OpPLog → Instr}
    (he : ∀ x, encode (mk x) = some (m * 2 ^ 26 + encPLog x)) (h : decPLog w mk = some i) : encode i = some w := by
  simp only [decPLog, whenZero_eq_some, Option.bind_eq_some_iff, Option.some.injEq] at h
  obtain ⟨hz10, hz3, g, hg, f, hf, rfl⟩ := h
  have := encGuard_of_dec hg
  have := encLogFn_of_dec hf
  rw [he, encPLog]
  simp (disch := decide) only [encComb_dec, encPSel_dec, val_ofNat_fld]
  have hfields := eq_joined w [3, 4, 3, 6, 2, 3, 2, 3, 6]
  simp only [joined, Nat.reduceAdd, Nat.reducePow] at hfields
  exact congrArg some (by omega)

theorem encode_of_decCoh {mk : OpCoh → Instr} (hf : fld w 0 7 = f)
    (he : ∀ x, encode (mk x) = some (m * 2 ^ 26 + f + encCoh x)) (h : decCoh w mk = some i) : encode i = some w := by
  simp only [decCoh, whenZero_eq_some, Option.bind_eq_some_iff, Option.some.injEq] at h
  obtain ⟨hz20, g, hg, a, ha, rfl⟩ := h
  have := encGuard_of_dec hg
  have := encSrc_of_dec ha
  rw [he, encCoh]
  simp (disch := decide) only [val_ofNat_fld]
  have hfields := eq_joined w [7, 7, 6, 3, 3, 6]
  simp only [joined, Nat.reduceAdd, Nat.reducePow] at hfields
  exact congrArg some (by omega)

theorem encode_of_decVToP {mk : OpVToP → Instr} (hf : fld w 0 7 = f)
    (he : ∀ x, encode (mk x) = some (m * 2 ^ 26 + f + encVToP x)) (h : decVToP w mk = some i) : encode i = some w := by
  simp only [decVToP, whenZero_eq_some, Option.bind_eq_some_iff, Option.some.injEq] at h
  obtain ⟨hz16, g, hg, a, ha, rfl⟩ := h
  have := encGuard_of_dec hg
  have := encSrc_of_dec ha
  rw [he, encVToP]
  simp (disch := decide) only [val_ofNat_fld]
  have hfields := eq_joined w [7, 7, 2, 7, 3, 6]
  simp only [joined, Nat.reduceAdd, Nat.reducePow] at hfields
  exact congrArg some (by omega)

theorem encode_of_decB {mk : OpB → Instr}
    (he : ∀ x, encode (mk x) = some (m * 2 ^ 26 + encB x)) (h : decB w mk = some i) : encode i = some w := by
  simp only [decB, Option.bind_eq_some_iff, Option.some.injEq] at h
  obtain ⟨g, hg, rfl⟩ := h
  have := encGuard_of_dec hg
  rw [he, encB]
  simp only [toNat_ofNat_fld]
  have hfields := eq_joined w [23, 3, 6]
  simp only [joined, Nat.reduceAdd, Nat.reducePow] at hfields
  exact congrArg some (by omega)

theorem encode_of_decGA {mk : OpGA → Instr} (hf : fld w 0 7 = f)
    (he : ∀ x, encode (mk x) = some (m * 2 ^ 26 + f + encGA x)) (h : decGA w mk = some i) : encode i = some w := by
  simp only [decGA, whenZero_eq_some, Option.bind_eq_some_iff, Option.some.injEq] at h
  obtain ⟨hz14, g, hg, a, ha, rfl⟩ := h
  have := encGuard_of_dec hg
  have := encSrc_of_dec ha
  rw [he, encGA]
  simp only []
  have hfields := eq_joined w [7, 7, 9, 3, 6]
  simp only [joined, Nat.reduceAdd, Nat.reducePow] at hfields
  exact congrArg some (by omega)

theorem encode_of_decRet {mk : OpG → Instr} (hf : fld w 0 7 = f)
    (he : ∀ x, encode (mk x) = some (m * 2 ^ 26 + f + encG x)) (h : decRet w mk = some i) : encode i = some w := by
  simp only [decRet, whenZero_eq_some, Option.bind_eq_some_iff, Option.some.injEq] at h
  obtain ⟨hz7, g, hg, rfl⟩ := h
  have := encGuard_of_dec hg
  rw [he, encG]
  simp only []
  have hfields := eq_joined w [7, 16, 3, 6]
  simp only [joined, Nat.reduceAdd, Nat.reducePow] at hfields
  exact congrArg some (by omega)

theorem encode_of_decG {mk : OpG → Instr} (hf : fld w 16 7 = f)
    (he : ∀ x, encode (mk x) = some (m * 2 ^ 26 + f * 2 ^ 16 + encG x)) (h : decG w mk = some i) : encode i = some w := by
  simp only [decG, whenZero_eq_some, Option.bind_eq_some_iff, Option.some.injEq] at h
  obtain ⟨hz0, g, hg, rfl⟩ := h
  have := encGuard_of_dec hg
  rw [he, encG]
  simp only []
  have hfields := eq_joined w [16, 7, 3, 6]
  simp only [joined, Nat.reduceAdd, Nat.reducePow] at hfields
  exact congrArg some (by omega)

theorem encode_of_decMbr {mk : OpMbr → Instr}
    (he : ∀ x, encode (mk x) = some (m * 2 ^ 26 + encMbr x)) (h : decMbr w mk = some i) : encode i = some w := by
  simp only [decMbr, whenZero_eq_some, Option.some.injEq] at h
  obtain ⟨hz23, hz0, rfl⟩ := h
  rw [he, encMbr]
  simp (disch := decide) only [encPSel_dec, val_ofNat_fld]
  have hfields := eq_joined w [9, 3, 3, 3, 3, 2, 3, 6]
  simp only [joined, Nat.reduceAdd, Nat.reducePow] at hfields
  exact congrArg some (by omega)

theorem encode_of_decBL {mk : OpBL → Instr}
    (he : ∀ x, encode (mk x) = some (m * 2 ^ 26 + encBL x)) (h : decBL w mk = some i) : encode i = some w := by
  simp only [decBL, whenZero_eq_some, Option.bind_eq_some_iff, Option.some.injEq] at h
  obtain ⟨hz22, g, hg, rfl⟩ := h
  have := encGuard_of_dec hg
  rw [he, encBL]
  simp (disch := decide) only [val_ofNat_fld, toNat_ofNat_fld]
  have hfields := eq_joined w [16, 6, 1, 3, 6]
  simp only [joined, Nat.reduceAdd, Nat.reducePow] at hfields
  exact congrArg some (by omega)

theorem encode_of_decTrap {mk : OpTrap → Instr} (hf : fld w 16 7 = f)
    (he : ∀ x, encode (mk x) = some (m * 2 ^ 26 + f * 2 ^ 16 + encTrap x)) (h : decTrap w mk = some i) : encode i = some w := by
  simp only [decTrap, whenZero_eq_some, Option.bind_eq_some_iff, Option.some.injEq] at h
  obtain ⟨hz10, g, hg, a, ha, rfl⟩ := h
  have := encGuard_of_dec hg
  have := encSrc_of_dec ha
  rw [he, encTrap]
  simp (disch := decide) only [val_ofNat_fld]
  have hfields := eq_joined w [3, 7, 6, 7, 3, 6]
  simp only [joined, Nat.reduceAdd, Nat.reducePow] at hfields
  exact congrArg some (by omega)

theorem encode_of_decSRead {mk : OpSRead → Instr} (hf : fld w 16 7 = f)
    (he : ∀ x, encode (mk x) = some (m * 2 ^ 26 + f * 2 ^ 16 + encSRead x)) (h : decSRead w mk = some i) : encode i = some w := by
  simp only [decSRead, whenZero_eq_some, Option.bind_eq_some_iff, Option.some.injEq] at h
  obtain ⟨hz0, g, hg, n, hn, rfl⟩ := h
  have := encGuard_of_dec hg
  have := encSpecial_of_dec (by decide) hn
  rw [he, encSRead]
  simp (disch := decide) only [val_ofNat_fld]
  have hfields := eq_joined w [3, 7, 6, 7, 3, 6]
  simp only [joined, Nat.reduceAdd, Nat.reducePow] at hfields
  exact congrArg some (by omega)

theorem encode_of_decSWrite {mk : OpSWrite → Instr} (hf : fld w 16 7 = f)
    (he : ∀ x, encode (mk x) = some (m * 2 ^ 26 + f * 2 ^ 16 + encSWrite x)) (h : decSWrite w mk = some i) : encode i = some w := by
  simp only [decSWrite, whenZero_eq_some, Option.bind_eq_some_iff, Option.some.injEq] at h
  obtain ⟨hz0, g, hg, n, hn, a, ha, rfl⟩ := h
  have := encGuard_of_dec hg
  have := encSpecial_of_dec (by decide) hn
  have := encSrc_of_dec ha
  rw [he, encSWrite]
  simp only []
  have hfields := eq_joined w [3, 7, 6, 7, 3, 6]
  simp only [joined, Nat.reduceAdd, Nat.reducePow] at hfields
  exact congrArg some (by omega)

theorem encode_of_decCenter {mk : OpCenter → Instr} (hf : fld w 20 2 = f)
    (he : ∀ x, encode (mk x) = some (m * 2 ^ 26 + f * 2 ^ 20 + encCenter x)) (h : decCenter w mk = some i) : encode i = some w := by
  simp only [decCenter, whenZero_eq_some, Option.bind_eq_some_iff, Option.some.injEq] at h
  obtain ⟨hz22, g, hg, a, ha, b, hb, rfl⟩ := h
  have := encGuard_of_dec hg
  have := encSrc_of_dec ha
  have := encSrc_of_dec hb
  rw [he, encCenter]
  simp (disch := decide) only [val_ofNat_fld]
  have hfields := eq_joined w [7, 7, 6, 2, 1, 3, 6]
  simp only [joined, Nat.reduceAdd, Nat.reducePow] at hfields
  exact congrArg some (by omega)

theorem encode_of_decSigf {mk : OpGA → Instr} (hf : fld w 20 2 = f)
    (he : ∀ x, encode (mk x) = some (m * 2 ^ 26 + f * 2 ^ 20 + encSigf x)) (h : decSigf w mk = some i) : encode i = some w := by
  simp only [decSigf, whenZero_eq_some, Option.bind_eq_some_iff, Option.some.injEq] at h
  obtain ⟨hz22, hz14, hz0, g, hg, a, ha, rfl⟩ := h
  have := encGuard_of_dec hg
  have := encSrc_of_dec ha
  rw [he, encSigf, encGA]
  simp only []
  have hfields := eq_joined w [7, 7, 6, 2, 1, 3, 6]
  simp only [joined, Nat.reduceAdd, Nat.reducePow] at hfields
  exact congrArg some (by omega)

theorem encode_of_decSigc {mk : OpSigc → Instr} (hf : fld w 20 2 = f)
    (he : ∀ x, encode (mk x) = some (m * 2 ^ 26 + f * 2 ^ 20 + encSigc x)) (h : decSigc w mk = some i) : encode i = some w := by
  simp only [decSigc, whenZero_eq_some, Option.bind_eq_some_iff, Option.some.injEq] at h
  obtain ⟨hz22, hz0, g, hg, rfl⟩ := h
  have := encGuard_of_dec hg
  rw [he, encSigc]
  simp (disch := decide) only [val_ofNat_fld]
  have hfields := eq_joined w [14, 6, 2, 1, 3, 6]
  simp only [joined, Nat.reduceAdd, Nat.reducePow] at hfields
  exact congrArg some (by omega)

theorem encode_of_decSigz {mk : OpG → Instr} (hf : fld w 20 2 = f)
    (he : ∀ x, encode (mk x) = some (m * 2 ^ 26 + f * 2 ^ 20 + encG x)) (h : decSigz w mk = some i) : encode i = some w := by
  simp only [decSigz, whenZero_eq_some, Option.bind_eq_some_iff, Option.some.injEq] at h
  obtain ⟨hz22, hz0, g, hg, rfl⟩ := h
  have := encGuard_of_dec hg
  rw [he, encG]
  simp only []
  have hfields := eq_joined w [20, 2, 1, 3, 6]
  simp only [joined, Nat.reduceAdd, Nat.reducePow] at hfields
  exact congrArg some (by omega)

theorem encode_of_decLd {mk : OpLd → Instr}
    (he : ∀ x, encode (mk x) = some (m * 2 ^ 26 + encLd x)) (h : decLd w mk = some i) : encode i = some w := by
  simp only [decLd, whenZero_eq_some, Option.bind_eq_some_iff, Option.some.injEq] at h
  obtain ⟨hz0, g, hg, z, hz, rfl⟩ := h
  have := encGuard_of_dec hg
  have := encLdSize_of_dec hz
  rw [he, encLd, encM]
  simp (disch := decide) only [val_ofNat_fld]
  have hfields := eq_joined w [1, 7, 6, 6, 3, 3, 6]
  simp only [joined, Nat.reduceAdd, Nat.reducePow] at hfields
  exact congrArg some (by omega)

theorem encode_of_decSt {mk : OpSt → Instr}
    (he : ∀ x, encode (mk x) = some (m * 2 ^ 26 + encSt x)) (h : decSt w mk = some i) : encode i = some w := by
  simp only [decSt, whenZero_eq_some, Option.bind_eq_some_iff, Option.some.injEq] at h
  obtain ⟨hz0, g, hg, z, hz, rfl⟩ := h
  have := encGuard_of_dec hg
  have := encStSize_of_dec hz
  rw [he, encSt, encM]
  simp (disch := decide) only [val_ofNat_fld]
  have hfields := eq_joined w [1, 7, 6, 6, 3, 3, 6]
  simp only [joined, Nat.reduceAdd, Nat.reducePow] at hfields
  exact congrArg some (by omega)

theorem encode_of_decOrd {mk : OpOrd → Instr}
    (he : ∀ x, encode (mk x) = some (m * 2 ^ 26 + encOrd x)) (h : decOrd w mk = some i) : encode i = some w := by
  simp only [decOrd, whenZero_eq_some, Option.bind_eq_some_iff, Option.some.injEq] at h
  obtain ⟨hz0, g, hg, rfl⟩ := h
  have := encGuard_of_dec hg
  rw [he, encOrd, encM]
  simp (disch := decide) only [scopeCode_dec, val_ofNat_fld]
  have hfields := eq_joined w [1, 7, 6, 6, 3, 3, 6]
  simp only [joined, Nat.reduceAdd, Nat.reducePow] at hfields
  exact congrArg some (by omega)

theorem encode_of_decAtom {mk : OpAtom → Instr}
    (he : ∀ x, encode (mk x) = some (m * 2 ^ 26 + encAtom x)) (h : decAtom w mk = some i) : encode i = some w := by
  simp only [decAtom, whenZero_eq_some, Option.bind_eq_some_iff, Option.some.injEq] at h
  obtain ⟨hz0, g, hg, rfl⟩ := h
  have := encGuard_of_dec hg
  rw [he, encAtom, encM]
  simp (disch := decide) only [encAtomOp_dec, val_ofNat_fld]
  have hfields := eq_joined w [1, 7, 6, 6, 3, 3, 6]
  simp only [joined, Nat.reduceAdd, Nat.reducePow] at hfields
  exact congrArg some (by omega)

theorem encode_of_decAtomX {mk : OpAtomX → Instr}
    (he : ∀ x, encode (mk x) = some (m * 2 ^ 26 + encAtomX x)) (h : decAtomX w mk = some i) : encode i = some w := by
  simp only [decAtomX, whenZero_eq_some, Option.bind_eq_some_iff, Option.some.injEq] at h
  obtain ⟨hz0, g, hg, o, ho, rfl⟩ := h
  have := encGuard_of_dec hg
  have := encAtomXOp_of_dec ho
  rw [he, encAtomX, encM]
  simp (disch := decide) only [val_ofNat_fld]
  have hfields := eq_joined w [1, 7, 6, 6, 3, 3, 6]
  simp only [joined, Nat.reduceAdd, Nat.reducePow] at hfields
  exact congrArg some (by omega)

theorem encode_of_decPld {mk : OpPld → Instr}
    (he : ∀ x, encode (mk x) = some (m * 2 ^ 26 + encPld x)) (h : decPld w mk = some i) : encode i = some w := by
  simp only [decPld, whenZero_eq_some, Option.bind_eq_some_iff, Option.some.injEq] at h
  obtain ⟨hz0, g, hg, rfl⟩ := h
  have := encGuard_of_dec hg
  rw [he, encPld, encM]
  simp (disch := decide) only [b2n_bit, val_ofNat_fld]
  have hfields := eq_joined w [1, 7, 6, 6, 2, 1, 3, 6]
  simp only [joined, Nat.reduceAdd, Nat.reducePow] at hfields
  exact congrArg some (by omega)

theorem encode_of_decVNar {mk : OpVNar → Instr} (hf : fld w 16 7 = f)
    (he : ∀ x, encode (mk x) = some (m * 2 ^ 26 + f * 2 ^ 16 + encVNar x)) (h : decVNar w mk = some i) : encode i = some w := by
  simp only [decVNar, whenZero_eq_some, Option.some.injEq] at h
  obtain ⟨hz23, hz9, rfl⟩ := h
  rw [he, encVNar]
  simp (disch := decide) only [val_ofNat_fld]
  have hfields := eq_joined w [3, 6, 1, 6, 7, 3, 6]
  simp only [joined, Nat.reduceAdd, Nat.reducePow] at hfields
  exact congrArg some (by omega)

theorem encode_of_decVQry {mk : OpVQry → Instr} (hf : fld w 16 7 = f)
    (he : ∀ x, encode (mk x) = some (m * 2 ^ 26 + f * 2 ^ 16 + encVQry x)) (h : decVQry w mk = some i) : encode i = some w := by
  simp only [decVQry, whenZero_eq_some, Option.some.injEq] at h
  obtain ⟨hz23, hz9, rfl⟩ := h
  rw [he, encVQry]
  simp (disch := decide) only [val_ofNat_fld]
  have hfields := eq_joined w [3, 6, 1, 6, 7, 3, 6]
  simp only [joined, Nat.reduceAdd, Nat.reducePow] at hfields
  exact congrArg some (by omega)

theorem encode_of_decVOne {mk : OpVOne → Instr} (hf : fld w 16 7 = f)
    (he : ∀ x, encode (mk x) = some (m * 2 ^ 26 + f * 2 ^ 16 + encVOne x)) (h : decVOne w mk = some i) : encode i = some w := by
  simp only [decVOne, whenZero_eq_some, Option.some.injEq] at h
  obtain ⟨hz23, hz0, rfl⟩ := h
  rw [he, encVOne]
  simp (disch := decide) only [val_ofNat_fld]
  have hfields := eq_joined w [10, 6, 7, 3, 6]
  simp only [joined, Nat.reduceAdd, Nat.reducePow] at hfields
  exact congrArg some (by omega)

theorem encode_of_decVBlk {mk : OpVBlk → Instr} (hf : fld w 16 7 = f)
    (he : ∀ x, encode (mk x) = some (m * 2 ^ 26 + f * 2 ^ 16 + encVBlk x)) (h : decVBlk w mk = some i) : encode i = some w := by
  simp only [decVBlk, whenZero_eq_some, Option.ite_none_right_eq_some, beq_iff_eq, Option.some.injEq] at h
  obtain ⟨hz23, hz0, hs, rfl⟩ := h
  rw [he, encVBlk]
  simp (disch := decide) only [val_ofNat_fld]
  have hfields := eq_joined w [3, 5, 2, 6, 7, 3, 6]
  simp only [joined, Nat.reduceAdd, Nat.reducePow] at hfields
  exact congrArg some (by omega)

theorem encode_of_decScopeOp {mk : OpScope → Instr} (hf : fld w 16 7 = f)
    (he : ∀ x, encode (mk x) = some (m * 2 ^ 26 + f * 2 ^ 16 + encScope x)) (h : decScopeOp w mk = some i) : encode i = some w := by
  simp only [decScopeOp, whenZero_eq_some, Option.some.injEq] at h
  obtain ⟨hz23, hz3, rfl⟩ := h
  rw [he, encScope]
  simp only [scopeCode_dec]
  have hfields := eq_joined w [3, 13, 7, 3, 6]
  simp only [joined, Nat.reduceAdd, Nat.reducePow] at hfields
  exact congrArg some (by omega)

theorem encode_of_decQFen {mk : OpQFen → Instr} (hf : fld w 16 7 = f)
    (he : ∀ x, encode (mk x) = some (m * 2 ^ 26 + f * 2 ^ 16 + encQFen x)) (h : decQFen w mk = some i) : encode i = some w := by
  simp only [decQFen, whenZero_eq_some, Option.bind_eq_some_iff, Option.some.injEq] at h
  obtain ⟨hz23, hz10, hz0, a, ha, rfl⟩ := h
  have := encSrc_of_dec ha
  rw [he, encQFen]
  simp only []
  have hfields := eq_joined w [3, 7, 6, 7, 3, 6]
  simp only [joined, Nat.reduceAdd, Nat.reducePow] at hfields
  exact congrArg some (by omega)

theorem encode_of_decBar {mk : OpBar → Instr} (hf : fld w 16 7 = f)
    (he : ∀ x, encode (mk x) = some (m * 2 ^ 26 + f * 2 ^ 16 + encBar x)) (h : decBar w mk = some i) : encode i = some w := by
  simp only [decBar, whenZero_eq_some, Option.bind_eq_some_iff, Option.some.injEq] at h
  obtain ⟨hz10, hz0, g, hg, a, ha, rfl⟩ := h
  have := encGuard_of_dec hg
  have := encSrc_of_dec ha
  rw [he, encBar]
  simp only []
  have hfields := eq_joined w [3, 7, 6, 7, 3, 6]
  simp only [joined, Nat.reduceAdd, Nat.reducePow] at hfields
  exact congrArg some (by omega)

theorem encode_of_decBarc {mk : OpBarc → Instr} (hf : fld w 16 7 = f)
    (he : ∀ x, encode (mk x) = some (m * 2 ^ 26 + f * 2 ^ 16 + encBarc x)) (h : decBarc w mk = some i) : encode i = some w := by
  simp only [decBarc, whenZero_eq_some, Option.some.injEq] at h
  obtain ⟨hz23, hz3, rfl⟩ := h
  rw [he, encBarc]
  simp (disch := decide) only [val_ofNat_fld]
  have hfields := eq_joined w [3, 13, 7, 3, 6]
  simp only [joined, Nat.reduceAdd, Nat.reducePow] at hfields
  exact congrArg some (by omega)

theorem encode_of_decHarm {mk : OpHarm → Instr} (hf : fld w 16 7 = f)
    (he : ∀ x, encode (mk x) = some (m * 2 ^ 26 + f * 2 ^ 16 + encHarm x)) (h : decHarm w mk = some i) : encode i = some w := by
  simp only [decHarm, whenZero_eq_some, Option.bind_eq_some_iff, Option.some.injEq] at h
  obtain ⟨hz23, hz0, h, hh, rfl⟩ := h
  have := encSSrc_of_dec hh
  rw [he, encHarm]
  simp (disch := decide) only [val_ofNat_fld]
  have hfields := eq_joined w [3, 7, 6, 7, 3, 6]
  simp only [joined, Nat.reduceAdd, Nat.reducePow] at hfields
  exact congrArg some (by omega)

theorem encode_of_decHnd {mk : OpHnd → Instr} (hf : fld w 16 7 = f)
    (he : ∀ x, encode (mk x) = some (m * 2 ^ 26 + f * 2 ^ 16 + encHnd x)) (h : decHnd w mk = some i) : encode i = some w := by
  simp only [decHnd, whenZero_eq_some, Option.bind_eq_some_iff, Option.some.injEq] at h
  obtain ⟨hz23, hz10, hz0, h, hh, rfl⟩ := h
  have := encSSrc_of_dec hh
  rw [he, encHnd]
  simp only []
  have hfields := eq_joined w [3, 7, 6, 7, 3, 6]
  simp only [joined, Nat.reduceAdd, Nat.reducePow] at hfields
  exact congrArg some (by omega)

theorem encode_of_decHWait {mk : OpHWait → Instr} (hf : fld w 16 7 = f)
    (he : ∀ x, encode (mk x) = some (m * 2 ^ 26 + f * 2 ^ 16 + encHWait x)) (h : decHWait w mk = some i) : encode i = some w := by
  simp only [decHWait, whenZero_eq_some, Option.bind_eq_some_iff, Option.some.injEq] at h
  obtain ⟨hz23, hz10, hz1, h, hh, rfl⟩ := h
  have := encSSrc_of_dec hh
  rw [he, encHWait]
  simp only [b2n_bit]
  have hfields := eq_joined w [1, 2, 7, 6, 7, 3, 6]
  simp only [joined, Nat.reduceAdd, Nat.reducePow] at hfields
  exact congrArg some (by omega)

theorem encode_of_decHQry {mk : OpHQry → Instr} (hf : fld w 16 7 = f)
    (he : ∀ x, encode (mk x) = some (m * 2 ^ 26 + f * 2 ^ 16 + encHQry x)) (h : decHQry w mk = some i) : encode i = some w := by
  simp only [decHQry, whenZero_eq_some, Option.bind_eq_some_iff, Option.some.injEq] at h
  obtain ⟨hz23, hz0, h, hh, rfl⟩ := h
  have := encSSrc_of_dec hh
  rw [he, encHQry]
  simp (disch := decide) only [val_ofNat_fld]
  have hfields := eq_joined w [3, 7, 6, 7, 3, 6]
  simp only [joined, Nat.reduceAdd, Nat.reducePow] at hfields
  exact congrArg some (by omega)

theorem encode_of_decMma {mk : OpMma → Instr}
    (he : ∀ x, encode (mk x) = some (m * 2 ^ 26 + encMma x)) (h : decMma w mk = some i) : encode i = some w := by
  simp only [decMma, whenZero_eq_some, Option.bind_eq_some_iff, Option.some.injEq] at h
  obtain ⟨hz23, p, hp, rfl⟩ := h
  have := encMPlanes_of_dec hp
  rw [he, encMma]
  simp (disch := decide) only [b2n_bit, val_ofNat_fld]
  have hfields := eq_joined w [1, 1, 2, 8, 8, 3, 3, 6]
  simp only [joined, Nat.reduceAdd, Nat.reducePow] at hfields
  exact congrArg some (by omega)

theorem encode_of_decDrn {mk : OpDrn → Instr} (hf : fld w 4 8 = f)
    (he : ∀ x, encode (mk x) = some (m * 2 ^ 26 + f * 2 ^ 4 + encDrn x)) (h : decDrn w mk = some i) : encode i = some w := by
  simp only [decDrn, whenZero_eq_some, Option.some.injEq] at h
  obtain ⟨hz23, hz0, rfl⟩ := h
  rw [he, encDrn]
  simp (disch := decide) only [val_ofNat_fld]
  have hfields := eq_joined w [4, 8, 8, 3, 3, 6]
  simp only [joined, Nat.reduceAdd, Nat.reducePow] at hfields
  exact congrArg some (by omega)

theorem encode_of_decDrnL {mk : OpDrnL → Instr} (hf : fld w 4 8 = f)
    (he : ∀ x, encode (mk x) = some (m * 2 ^ 26 + f * 2 ^ 4 + encDrnL x)) (h : decDrnL w mk = some i) : encode i = some w := by
  simp only [decDrnL, whenZero_eq_some, Option.bind_eq_some_iff, Option.some.injEq] at h
  obtain ⟨hz23, hz0, hz16, t, ht, rfl⟩ := h
  have := encLatchTy_of_dec ht
  rw [he, encDrnL]
  simp (disch := decide) only [val_ofNat_fld]
  have hfields := eq_joined w [4, 8, 4, 2, 2, 3, 3, 6]
  simp only [joined, Nat.reduceAdd, Nat.reducePow] at hfields
  exact congrArg some (by omega)

theorem encode_of_decAcc {mk : OpAcc → Instr} (hf : fld w 4 8 = f)
    (he : ∀ x, encode (mk x) = some (m * 2 ^ 26 + f * 2 ^ 4 + encAcc x)) (h : decAcc w mk = some i) : encode i = some w := by
  simp only [decAcc, whenZero_eq_some, Option.some.injEq] at h
  obtain ⟨hz23, hz12, hz0, rfl⟩ := h
  rw [he, encAcc]
  simp (disch := decide) only [val_ofNat_fld]
  have hfields := eq_joined w [4, 8, 8, 3, 3, 6]
  simp only [joined, Nat.reduceAdd, Nat.reducePow] at hfields
  exact congrArg some (by omega)

theorem encode_of_decPAdd {mk : OpPAdd → Instr} (hf : fld w 4 8 = f)
    (he : ∀ x, encode (mk x) = some (m * 2 ^ 26 + f * 2 ^ 4 + encPAdd x)) (h : decPAdd w mk = some i) : encode i = some w := by
  simp only [decPAdd, whenZero_eq_some, Option.some.injEq] at h
  obtain ⟨hz23, rfl⟩ := h
  rw [he, encPAdd]
  simp (disch := decide) only [val_ofNat_fld]
  have hfields := eq_joined w [4, 8, 8, 3, 3, 6]
  simp only [joined, Nat.reduceAdd, Nat.reducePow] at hfields
  exact congrArg some (by omega)

theorem encode_of_decPNorm {mk : OpPNorm → Instr} (hf : fld w 4 8 = f)
    (he : ∀ x, encode (mk x) = some (m * 2 ^ 26 + f * 2 ^ 4 + encPNorm x)) (h : decPNorm w mk = some i) : encode i = some w := by
  simp only [decPNorm, whenZero_eq_some, Option.some.injEq] at h
  obtain ⟨hz20, hz0, rfl⟩ := h
  rw [he, encPNorm]
  simp (disch := decide) only [val_ofNat_fld]
  have hfields := eq_joined w [4, 8, 8, 6, 6]
  simp only [joined, Nat.reduceAdd, Nat.reducePow] at hfields
  exact congrArg some (by omega)

theorem encode_of_decTile {mk : OpTile → Instr}
    (he : ∀ x, encode (mk x) = some (m * 2 ^ 26 + encTile x)) (h : decTile w mk = some i) : encode i = some w := by
  simp only [decTile, whenZero_eq_some, Option.some.injEq] at h
  obtain ⟨hz23, rfl⟩ := h
  rw [he, encTile]
  simp (disch := decide) only [b2n_bit, val_ofNat_fld]
  have hfields := eq_joined w [1, 2, 6, 8, 6, 3, 6]
  simp only [joined, Nat.reduceAdd, Nat.reducePow] at hfields
  exact congrArg some (by omega)

theorem encode_of_decBCopy {mk : OpBCopy → Instr} (hf : fld w 16 7 = f)
    (he : ∀ x, encode (mk x) = some (m * 2 ^ 26 + f * 2 ^ 16 + encBCopy x)) (h : decBCopy w mk = some i) : encode i = some w := by
  simp only [decBCopy, whenZero_eq_some, Option.ite_none_right_eq_some, beq_iff_eq, Option.some.injEq] at h
  obtain ⟨hz23, hz0, hs, rfl⟩ := h
  rw [he, encBCopy]
  simp (disch := decide) only [val_ofNat_fld]
  have hfields := eq_joined w [3, 5, 2, 6, 7, 3, 6]
  simp only [joined, Nat.reduceAdd, Nat.reducePow] at hfields
  exact congrArg some (by omega)

theorem encode_of_decQPop {mk : OpQPop → Instr} (hf : fld w 16 7 = f)
    (he : ∀ x, encode (mk x) = some (m * 2 ^ 26 + f * 2 ^ 16 + encQPop x)) (h : decQPop w mk = some i) : encode i = some w := by
  simp only [decQPop, whenZero_eq_some, Option.some.injEq] at h
  obtain ⟨hz23, hz9, hz0, rfl⟩ := h
  rw [he, encQPop]
  simp (disch := decide) only [val_ofNat_fld]
  have hfields := eq_joined w [3, 6, 1, 6, 7, 3, 6]
  simp only [joined, Nat.reduceAdd, Nat.reducePow] at hfields
  exact congrArg some (by omega)

theorem encode_of_decQView {mk : OpQView → Instr} (hf : fld w 16 7 = f)
    (he : ∀ x, encode (mk x) = some (m * 2 ^ 26 + f * 2 ^ 16 + encQView x)) (h : decQView w mk = some i) : encode i = some w := by
  simp only [decQView, whenZero_eq_some, Option.some.injEq] at h
  obtain ⟨hz23, hz9, hz0, rfl⟩ := h
  rw [he, encQView]
  simp (disch := decide) only [val_ofNat_fld]
  have hfields := eq_joined w [3, 6, 7, 7, 3, 6]
  simp only [joined, Nat.reduceAdd, Nat.reducePow] at hfields
  exact congrArg some (by omega)

theorem encode_of_decFut {mk : OpFut → Instr} (hf : fld w 16 7 = f)
    (he : ∀ x, encode (mk x) = some (m * 2 ^ 26 + f * 2 ^ 16 + encFut x)) (h : decFut w mk = some i) : encode i = some w := by
  simp only [decFut, whenZero_eq_some, Option.some.injEq] at h
  obtain ⟨hz23, hz9, hz0, rfl⟩ := h
  rw [he, encFut]
  simp (disch := decide) only [val_ofNat_fld]
  have hfields := eq_joined w [3, 6, 1, 6, 7, 3, 6]
  simp only [joined, Nat.reduceAdd, Nat.reducePow] at hfields
  exact congrArg some (by omega)

theorem encode_of_decSlotQ {mk : OpSlotQ → Instr} (hf : fld w 16 7 = f)
    (he : ∀ x, encode (mk x) = some (m * 2 ^ 26 + f * 2 ^ 16 + encSlotQ x)) (h : decSlotQ w mk = some i) : encode i = some w := by
  simp only [decSlotQ, whenZero_eq_some, Option.some.injEq] at h
  obtain ⟨hz23, hz0, rfl⟩ := h
  rw [he, encSlotQ]
  simp (disch := decide) only [val_ofNat_fld]
  have hfields := eq_joined w [10, 6, 7, 3, 6]
  simp only [joined, Nat.reduceAdd, Nat.reducePow] at hfields
  exact congrArg some (by omega)

theorem encode_of_decFeatQ {mk : OpFeatQ → Instr} (hf : fld w 16 7 = f)
    (he : ∀ x, encode (mk x) = some (m * 2 ^ 26 + f * 2 ^ 16 + encFeatQ x)) (h : decFeatQ w mk = some i) : encode i = some w := by
  simp only [decFeatQ, whenZero_eq_some, Option.some.injEq] at h
  obtain ⟨hz23, hz3, rfl⟩ := h
  rw [he, encFeatQ]
  simp (disch := decide) only [val_ofNat_fld]
  have hfields := eq_joined w [3, 7, 6, 7, 3, 6]
  simp only [joined, Nat.reduceAdd, Nat.reducePow] at hfields
  exact congrArg some (by omega)

theorem encode_of_decHbt {mk : OpHbt → Instr} (hf : fld w 23 3 = f)
    (he : ∀ x, encode (mk x) = some (m * 2 ^ 26 + f * 2 ^ 23 + encHbt x)) (h : decHbt w mk = some i) : encode i = some w := by
  simp only [decHbt, whenZero_eq_some, Option.some.injEq] at h
  obtain ⟨hz22, rfl⟩ := h
  rw [he, encHbt]
  simp only [toNat_ofNat_fld]
  have hfields := eq_joined w [11, 11, 1, 3, 6]
  simp only [joined, Nat.reduceAdd, Nat.reducePow] at hfields
  exact congrArg some (by omega)

theorem encode_of_decHord {mk : OpHord → Instr} (hf : fld w 23 3 = f)
    (he : ∀ x, encode (mk x) = some (m * 2 ^ 26 + f * 2 ^ 23 + encHord x)) (h : decHord w mk = some i) : encode i = some w := by
  simp only [decHord, whenZero_eq_some, Option.some.injEq] at h
  obtain ⟨hz0, rfl⟩ := h
  rw [he, encHord]
  simp only [encOrder_dec, scopeCode_dec, b2n_bit]
  have hfields := eq_joined w [17, 1, 3, 2, 3, 6]
  simp only [joined, Nat.reduceAdd, Nat.reducePow] at hfields
  exact congrArg some (by omega)

theorem encode_of_decSShr {mk : OpSShr → Instr} (hn : fld w 5 2 = 1) (he : ∀ x, encode (mk x) = some (m * 2 ^ 26 + 32 + encSShr x))
    (h : decSShr w mk = some i) : encode i = some w := by
  simp only [decSShr, whenZero_eq_some, Option.bind_eq_some_iff, Option.some.injEq] at h
  obtain ⟨hz20, hz19, a, ha, rfl⟩ := h
  have := encSSrc_of_dec ha
  rw [he, encSShr]
  simp (disch := decide) only [val_ofNat_fld]
  have hfields := eq_joined w [5, 2, 7, 5, 1, 6, 6]
  simp only [joined, Nat.reduceAdd, Nat.reducePow] at hfields
  exact congrArg some (by omega)

theorem encode_of_decMovI {mk : OpMovI → Instr} (ha : fld w 9 7 = 0x64)
    (he : ∀ x, encode (mk x) = some (m * 2 ^ 26 + 0x64 * 2 ^ 9 + encMovI x)) (h : decMovI w mk = some i) : encode i = some w := by
  simp only [decMovI, Option.bind_eq_some_iff, Option.some.injEq] at h
  obtain ⟨g, hg, rfl⟩ := h
  have := encGuard_of_dec hg
  rw [he, encMovI]
  simp (disch := decide) only [b2n_bit, val_ofNat_fld, toNat_ofNat_fld]
  have hfields := eq_joined w [9, 7, 6, 1, 3, 6]
  simp only [joined, Nat.reduceAdd, Nat.reducePow] at hfields
  exact congrArg some (by omega)

theorem encode_of_decCvtR {mk : OpCvtR → Instr} (hf : fld w 2 5 = f) (he : ∀ x, encode (mk x) = some (m * 2 ^ 26 + f * 2 ^ 2 + encCvtR x))
    (h : decCvtR w mk = some i) : encode i = some w := by
  simp only [decCvtR, Option.bind_eq_some_iff, Option.some.injEq] at h
  obtain ⟨g, hg, a, ha, rfl⟩ := h
  have := encGuard_of_dec hg
  have := encSrc_of_dec ha
  rw [he, encCvtR]
  simp (disch := decide) only [encRMode_dec, b2n_bit, val_ofNat_fld]
  have hfields := eq_joined w [2, 5, 7, 6, 1, 1, 1, 3, 6]
  simp only [joined, Nat.reduceAdd, Nat.reducePow] at hfields
  exact congrArg some (by omega)

theorem encode_of_decCvtS {mk : OpCvtS → Instr} (hf : fld w 1 6 = f) (he : ∀ x, encode (mk x) = some (m * 2 ^ 26 + f * 2 ^ 1 + encCvtS x))
    (h : decCvtS w mk = some i) : encode i = some w := by
  simp only [decCvtS, Option.bind_eq_some_iff, Option.some.injEq] at h
  obtain ⟨g, hg, a, ha, rfl⟩ := h
  have := encGuard_of_dec hg
  have := encSrc_of_dec ha
  rw [he, encCvtS]
  simp (disch := decide) only [b2n_bit, val_ofNat_fld]
  have hfields := eq_joined w [1, 6, 7, 6, 1, 1, 1, 3, 6]
  simp only [joined, Nat.reduceAdd, Nat.reducePow] at hfields
  exact congrArg some (by omega)

theorem encode_of_decPlDec {mk : OpPlDec → Instr} (hf : fld w 3 4 = 1) (he : ∀ x, encode (mk x) = some (m * 2 ^ 26 + 8 + encPlDec x))
    (h : decPlDec w mk = some i) : encode i = some w := by
  simp only [decPlDec, whenZero_eq_some, Option.bind_eq_some_iff, Option.some.injEq] at h
  obtain ⟨hz20, g, hg, a, ha, rfl⟩ := h
  have := encGuard_of_dec hg
  have := encSrc_of_dec ha
  rw [he, encPlDec]
  simp (disch := decide) only [b2n_bit, val_ofNat_fld]
  have hfields := eq_joined w [2, 1, 4, 7, 6, 2, 1, 3, 6]
  simp only [joined, Nat.reduceAdd, Nat.reducePow] at hfields
  exact congrArg some (by omega)

theorem encode_of_decPToV {mk : OpPToV → Instr} (hf : fld w 0 7 = f)
    (he : ∀ x, encode (mk x) = some (m * 2 ^ 26 + 0x1C * 2 ^ 9 + f + encPToV x)) (h : decPToV w mk = some i) : encode i = some w := by
  simp only [decPToV, whenZero_eq_some, Option.ite_none_right_eq_some, beq_iff_eq, Option.bind_eq_some_iff, Option.some.injEq] at h
  obtain ⟨hz20, hs, g, hg, rfl⟩ := h
  have := encGuard_of_dec hg
  rw [he, encPToV]
  simp (disch := decide) only [val_ofNat_fld]
  have hfields := eq_joined w [7, 2, 5, 6, 3, 3, 6]
  simp only [joined, Nat.reduceAdd, Nat.reducePow] at hfields
  exact congrArg some (by omega)

theorem encode_of_decReadL {mk : OpReadL → Instr} (hf : fld w 6 1 = 1) (he : ∀ x, encode (mk x) = some (m * 2 ^ 26 + 2 ^ 6 + encReadL x))
    (h : decReadL w mk = some i) : encode i = some w := by
  simp only [decReadL, whenZero_eq_some, Option.some.injEq] at h
  obtain ⟨hz19, hz13, rfl⟩ := h
  rw [he, encReadL]
  simp (disch := decide) only [val_ofNat_fld]
  have hfields := eq_joined w [6, 1, 6, 1, 5, 7, 6]
  simp only [joined, Nat.reduceAdd, Nat.reducePow] at hfields
  exact congrArg some (by omega)

/-- QSPAWN's imm3 selects all lanes by 0 or those of a predicate by 4 to 7. -/
theorem encode_of_decQSpawn {mk : OpQSpawn → Instr} (hf : fld w 16 7 = f)
    (he : ∀ x, encode (mk x) = some (m * 2 ^ 26 + f * 2 ^ 16 + encQSpawn x)) (h : decQSpawn w mk = some i) : encode i = some w := by
  simp only [decQSpawn, whenZero_eq_some] at h
  obtain ⟨hz23, hz9, h⟩ := h
  split at h
  case isTrue hall =>
    obtain rfl := Option.some.inj h
    rw [he, encQSpawn]
    simp (disch := decide) only [val_ofNat_fld]
    exact congrArg some (by simp only [fld, beq_iff_eq] at *; omega)
  case isFalse =>
    rw [Option.ite_none_left_eq_some] at h
    obtain ⟨hsome, h⟩ := h
    obtain rfl := Option.some.inj h
    rw [he, encQSpawn]
    simp (disch := decide) only [val_ofNat_fld, Fin.val_ofNat (n := 4)]
    exact congrArg some (by simp only [fld] at *; omega)

theorem encode_of_decTrig (hm' : m = 0x3E) (hf : fld w 16 7 = 6) (h : decTrig w = some i) : encode i = some w := by
  simp only [decTrig, whenZero_eq_some, Option.some.injEq] at h
  obtain ⟨hz23, hz0, rfl⟩ := h
  exact congrArg some (by simp only [fld] at *; show 0xF8060000 + 0 = w; omega)

theorem encode_of_decHimm (hm' : m = 0x3F) (hf : fld w 23 3 = 0) (h : decHimm w = some i) : encode i = some w := by
  obtain rfl := Option.some.inj h
  show some (0xFC000000 + (BitVec.ofNat 23 (fld w 0 23)).toNat) = some w
  rw [toNat_ofNat_fld]
  have hfields := eq_joined w [23, 3, 6]
  simp only [joined, Nat.reduceAdd, Nat.reducePow] at hfields
  exact congrArg some (by omega)

theorem encode_of_decHsch (hm' : m = 0x3F) (hf : fld w 23 3 = 3) (h : decHsch w = some i) : encode i = some w := by
  simp only [decHsch, whenZero_eq_some, Option.some.injEq] at h
  obtain ⟨hz4, rfl⟩ := h
  show some (0xFD800000 + (Fin.ofNat 16 (fld w 0 4)).val) = some w
  simp (disch := decide) only [val_ofNat_fld]
  have hfields := eq_joined w [4, 19, 3, 6]
  simp only [joined, Nat.reduceAdd, Nat.reducePow] at hfields
  exact congrArg some (by omega)

theorem encode_of_decHgath (hm' : m = 0x3F) (hf : fld w 23 3 = 4) (h : decHgath w = some i) : encode i = some w := by
  simp only [decHgath, whenZero_eq_some, Option.some.injEq] at h
  obtain ⟨hz0, rfl⟩ := h
  show some (0xFE000000 + (Fin.ofNat 4 (fld w 21 2)).val * 2 ^ 21) = some w
  simp (disch := decide) only [val_ofNat_fld]
  have hfields := eq_joined w [21, 2, 3, 6]
  simp only [joined, Nat.reduceAdd, Nat.reducePow] at hfields
  exact congrArg some (by omega)

end

/-! ## All words -/

theorem encode_of_decodeRaw {w : Nat} {i : Instr} (hw : w < 2 ^ 32) (h : decodeRaw w = some i) : encode i = some w := by
  unfold decodeRaw at h
  split at h
  case h_1 hm | h_2 hm | h_4 hm | h_5 hm | h_6 hm | h_7 hm | h_8 hm | h_10 hm | h_12 hm =>
    split at h
    iterate 4 next hf => exact encode_of_decR hw hm hf (fun _ => rfl) h
    contradiction
  case h_3 hm =>
    split at h
    iterate 4 next hf => exact encode_of_decR64 hw hm hf (fun _ => rfl) h
    contradiction
  case h_9 hm =>
    split at h
    iterate 13 next hf => exact encode_of_decU hw hm hf (fun _ => rfl) h
    contradiction
  case h_11 hm => exact encode_of_decSel hw hm (fun _ => rfl) h
  case h_13 hm | h_14 hm =>
    split at h
    iterate 4 next hf => exact encode_of_decSR hw hm hf (fun _ => rfl) h
    contradiction
  case h_15 hm =>
    split at h
    case isTrue hn =>
      simp only [Bool.and_eq_true, decide_eq_true_eq] at hn
      exact encode_of_decSShr hw hm (by simp only [fld] at hn ⊢; omega) (fun _ => rfl) h
    case isFalse =>
      split at h
      iterate 5 next hf => exact encode_of_decSU hw hm hf (fun _ => rfl) h
      contradiction
  case h_16 hm => exact encode_of_decSI hw hm (fun _ => rfl) h
  case h_17 hm =>
    split at h
    case isTrue ha => exact encode_of_decMovI hw hm (by simpa using ha) (fun _ => rfl) h
    case isFalse => exact encode_of_decI hw hm (fun _ => rfl) h
  case h_18 hm | h_19 hm | h_20 hm | h_21 hm | h_22 hm | h_23 hm | h_24 hm => exact encode_of_decI hw hm (fun _ => rfl) h
  case h_25 hm | h_26 hm | h_27 hm | h_28 hm | h_29 hm | h_30 hm | h_33 hm | h_34 hm | h_35 hm =>
    exact encode_of_decRF hw hm (fun _ => rfl) h
  case h_31 hm =>
    split at h
    iterate 12 next hf => exact encode_of_decUF hw hm hf (fun _ => rfl) h
    contradiction
  case h_32 hm =>
    split at h
    iterate 2 next hf => exact encode_of_decUF hw hm hf (fun _ => rfl) h
    iterate 4 next hf => exact encode_of_decCvtR hw hm (f := 1) (by simp only [fld] at hf ⊢; omega) (fun _ => rfl) h
    iterate 4 next hf => exact encode_of_decCvtR hw hm (f := 2) (by simp only [fld] at hf ⊢; omega) (fun _ => rfl) h
    iterate 2 next hf => exact encode_of_decUF hw hm hf (fun _ => rfl) h
    iterate 2 next hf => exact encode_of_decCvtS hw hm (f := 9) (by simp only [fld] at hf ⊢; omega) (fun _ => rfl) h
    iterate 2 next hf => exact encode_of_decCvtS hw hm (f := 10) (by simp only [fld] at hf ⊢; omega) (fun _ => rfl) h
    iterate 6 next hf => exact encode_of_decUF hw hm hf (fun _ => rfl) h
    contradiction
  case h_36 hm =>
    split at h
    case isTrue hn =>
      simp only [Bool.and_eq_true, decide_eq_true_eq] at hn
      exact encode_of_decPlDec hw hm (by simp only [fld] at hn ⊢; omega) (fun _ => rfl) h
    case isFalse =>
      split at h
      iterate 2 next hf => exact encode_of_decU hw hm hf (fun _ => rfl) h
      contradiction
  case h_37 hm => exact encode_of_decICmp hw hm (fun _ => rfl) h
  case h_38 hm => exact encode_of_decFCmp hw hm (fun _ => rfl) h
  case h_39 hm => exact encode_of_decPLog hw hm (fun _ => rfl) h
  case h_40 hm =>
    split at h
    case isTrue hn => exact encode_of_decReadL hw hm (by simp only [fld] at hn ⊢; omega) (fun _ => rfl) h
    case isFalse =>
      split at h
      iterate 7 next hf => exact encode_of_decCoh hw hm hf (fun _ => rfl) h
      next hf => exact encode_of_decPToV hw hm hf (fun _ => rfl) h
      next hf => exact encode_of_decVToP hw hm hf (fun _ => rfl) h
      contradiction
  case h_41 hm | h_42 hm => exact encode_of_decB hw hm (fun _ => rfl) h
  case h_43 hm =>
    split at h
    iterate 2 next hf => exact encode_of_decGA hw hm hf (fun _ => rfl) h
    next hf => exact encode_of_decRet hw hm hf (fun _ => rfl) h
    iterate 2 next hf => exact encode_of_decGA hw hm hf (fun _ => rfl) h
    contradiction
  case h_44 hm => exact encode_of_decMbr hw hm (fun _ => rfl) h
  case h_45 hm => exact encode_of_decBL hw hm (fun _ => rfl) h
  case h_46 hm =>
    split at h
    next hf => exact encode_of_decG hw hm hf (fun _ => rfl) h
    next hf => exact encode_of_decTrap hw hm hf (fun _ => rfl) h
    iterate 3 next hf => exact encode_of_decG hw hm hf (fun _ => rfl) h
    contradiction
  case h_47 hm =>
    split at h
    next hf => exact encode_of_decSRead hw hm hf (fun _ => rfl) h
    next hf => exact encode_of_decSWrite hw hm hf (fun _ => rfl) h
    contradiction
  case h_48 hm =>
    split at h
    next hf => exact encode_of_decCenter hw hm hf (fun _ => rfl) h
    next hf => exact encode_of_decSigf hw hm hf (fun _ => rfl) h
    next hf => exact encode_of_decSigc hw hm hf (fun _ => rfl) h
    next hf => exact encode_of_decSigz hw hm hf (fun _ => rfl) h
    contradiction
  case h_49 hm => exact encode_of_decLd hw hm (fun _ => rfl) h
  case h_50 hm => exact encode_of_decSt hw hm (fun _ => rfl) h
  case h_51 hm | h_52 hm => exact encode_of_decOrd hw hm (fun _ => rfl) h
  case h_53 hm => exact encode_of_decAtom hw hm (fun _ => rfl) h
  case h_54 hm => exact encode_of_decAtomX hw hm (fun _ => rfl) h
  case h_55 hm => exact encode_of_decPld hw hm (fun _ => rfl) h
  case h_56 hm =>
    split at h
    next hf => exact encode_of_decVNar hw hm hf (fun _ => rfl) h
    next hf => exact encode_of_decVQry hw hm hf (fun _ => rfl) h
    next hf => exact encode_of_decVOne hw hm hf (fun _ => rfl) h
    next hf => exact encode_of_decVBlk hw hm hf (fun _ => rfl) h
    iterate 3 next hf => exact encode_of_decVOne hw hm hf (fun _ => rfl) h
    contradiction
  case h_57 hm =>
    split at h
    next hf => exact encode_of_decScopeOp hw hm hf (fun _ => rfl) h
    next hf => exact encode_of_decQFen hw hm hf (fun _ => rfl) h
    next hf => exact encode_of_decScopeOp hw hm hf (fun _ => rfl) h
    iterate 2 next hf => exact encode_of_decBar hw hm hf (fun _ => rfl) h
    next hf => exact encode_of_decBarc hw hm hf (fun _ => rfl) h
    next hf => exact encode_of_decVBlk hw hm hf (fun _ => rfl) h
    next hf => exact encode_of_decHarm hw hm hf (fun _ => rfl) h
    next hf => exact encode_of_decHnd hw hm hf (fun _ => rfl) h
    next hf => exact encode_of_decHWait hw hm hf (fun _ => rfl) h
    iterate 2 next hf => exact encode_of_decHnd hw hm hf (fun _ => rfl) h
    next hf => exact encode_of_decHQry hw hm hf (fun _ => rfl) h
    contradiction
  case h_58 hm | h_59 hm => exact encode_of_decMma hw hm (fun _ => rfl) h
  case h_60 hm =>
    split at h
    iterate 2 next hf => exact encode_of_decDrn hw hm hf (fun _ => rfl) h
    next hf => exact encode_of_decDrnL hw hm hf (fun _ => rfl) h
    next hf => exact encode_of_decAcc hw hm hf (fun _ => rfl) h
    next hf => exact encode_of_decDrn hw hm hf (fun _ => rfl) h
    next hf => exact encode_of_decPAdd hw hm hf (fun _ => rfl) h
    next hf => exact encode_of_decPNorm hw hm hf (fun _ => rfl) h
    contradiction
  case h_61 hm | h_62 hm => exact encode_of_decTile hw hm (fun _ => rfl) h
  case h_63 hm =>
    split at h
    next hf => exact encode_of_decBCopy hw hm hf (fun _ => rfl) h
    next hf => exact encode_of_decQPop hw hm hf (fun _ => rfl) h
    next hf => exact encode_of_decQSpawn hw hm hf (fun _ => rfl) h
    next hf => exact encode_of_decQView hw hm hf (fun _ => rfl) h
    iterate 2 next hf => exact encode_of_decFut hw hm hf (fun _ => rfl) h
    next hf => exact encode_of_decTrig hw hm rfl hf h
    next hf => exact encode_of_decSlotQ hw hm hf (fun _ => rfl) h
    next hf => exact encode_of_decFeatQ hw hm hf (fun _ => rfl) h
    contradiction
  case h_64 hm =>
    split at h
    next hf => exact encode_of_decHimm hw hm rfl hf h
    next hf => exact encode_of_decHbt hw hm hf (fun _ => rfl) h
    next hf => exact encode_of_decHord hw hm hf (fun _ => rfl) h
    next hf => exact encode_of_decHsch hw hm rfl hf h
    next hf => exact encode_of_decHgath hw hm rfl hf h
    contradiction
  case h_65 => contradiction

theorem decodeWord_of_encode (i : Instr) : RoundTrip.Statement i := by
  by_cases hb : i.base = none
  · exact of_event hb
  cases i with
  | iadd x => exact RoundTrip.iadd x | isub x => exact RoundTrip.isub x | iadds x => exact RoundTrip.iadds x
  | isubs x => exact RoundTrip.isubs x | uadds x => exact RoundTrip.uadds x | usubs x => exact RoundTrip.usubs x
  | iabsd x => exact RoundTrip.iabsd x | uavg x => exact RoundTrip.uavg x | add64 x => exact RoundTrip.add64 x
  | sub64 x => exact RoundTrip.sub64 x | mul64 x => exact RoundTrip.mul64 x | shl64 x => exact RoundTrip.shl64 x
  | imul x => exact RoundTrip.imul x | imulhi x => exact RoundTrip.imulhi x | umulhi x => exact RoundTrip.umulhi x
  | imad x => exact RoundTrip.imad x | idiv x => exact RoundTrip.idiv x | udiv x => exact RoundTrip.udiv x
  | irem x => exact RoundTrip.irem x | urem x => exact RoundTrip.urem x | and x => exact RoundTrip.and x
  | or x => exact RoundTrip.or x | xor x => exact RoundTrip.xor x | andn x => exact RoundTrip.andn x
  | shl x => exact RoundTrip.shl x | shr x => exact RoundTrip.shr x | sar x => exact RoundTrip.sar x
  | rotl x => exact RoundTrip.rotl x | imin x => exact RoundTrip.imin x | imax x => exact RoundTrip.imax x
  | umin x => exact RoundTrip.umin x | umax x => exact RoundTrip.umax x | mov x => exact RoundTrip.mov x
  | not x => exact RoundTrip.not x | neg x => exact RoundTrip.neg x | iabs x => exact RoundTrip.iabs x
  | popc x => exact RoundTrip.popc x | clz x => exact RoundTrip.clz x | ctz x => exact RoundTrip.ctz x
  | brev x => exact RoundTrip.brev x | bswap x => exact RoundTrip.bswap x | sext8 x => exact RoundTrip.sext8 x
  | sext16 x => exact RoundTrip.sext16 x | zext8 x => exact RoundTrip.zext8 x | zext16 x => exact RoundTrip.zext16 x
  | bfxz x => exact RoundTrip.bfxz x | bfxs x => exact RoundTrip.bfxs x | bfi x => exact RoundTrip.bfi x
  | fshl x => exact RoundTrip.fshl x | sel x => exact RoundTrip.sel x | shfli x => exact RoundTrip.shfli x
  | shflu x => exact RoundTrip.shflu x | shfld x => exact RoundTrip.shfld x | shflx x => exact RoundTrip.shflx x
  | sadd x => exact RoundTrip.sadd x | ssub x => exact RoundTrip.ssub x | smul x => exact RoundTrip.smul x
  | smin x => exact RoundTrip.smin x | sand x => exact RoundTrip.sand x | sor x => exact RoundTrip.sor x
  | sxor x => exact RoundTrip.sxor x | sshl x => exact RoundTrip.sshl x | smov x => exact RoundTrip.smov x
  | snot x => exact RoundTrip.snot x | sneg x => exact RoundTrip.sneg x | spopc x => exact RoundTrip.spopc x
  | sclz x => exact RoundTrip.sclz x | sshr x => exact RoundTrip.sshr x | saddi x => exact RoundTrip.saddi x
  | iaddi x => exact RoundTrip.iaddi x | movi x => exact RoundTrip.movi x | andi x => exact RoundTrip.andi x
  | ori x => exact RoundTrip.ori x | xori x => exact RoundTrip.xori x | shli x => exact RoundTrip.shli x
  | shri x => exact RoundTrip.shri x | sari x => exact RoundTrip.sari x | imuli x => exact RoundTrip.imuli x
  | fadd x => exact RoundTrip.fadd x | fsub x => exact RoundTrip.fsub x | fmul x => exact RoundTrip.fmul x
  | ffma x => exact RoundTrip.ffma x | fmin x => exact RoundTrip.fmin x | fmax x => exact RoundTrip.fmax x
  | fabs x => exact RoundTrip.fabs x | fneg x => exact RoundTrip.fneg x | fsqrt x => exact RoundTrip.fsqrt x
  | frcp x => exact RoundTrip.frcp x | frsq x => exact RoundTrip.frsq x | fexp2 x => exact RoundTrip.fexp2 x
  | flog2 x => exact RoundTrip.flog2 x | ffloor x => exact RoundTrip.ffloor x | fceil x => exact RoundTrip.fceil x
  | ftrunc x => exact RoundTrip.ftrunc x | frint x => exact RoundTrip.frint x | fclass x => exact RoundTrip.fclass x
  | cvtF32S32 x => exact RoundTrip.cvtF32S32 x | cvtF32N32 x => exact RoundTrip.cvtF32N32 x
  | cvtS32F32 x => exact RoundTrip.cvtS32F32 x | cvtN32F32 x => exact RoundTrip.cvtN32F32 x
  | cvtBf16F32 x => exact RoundTrip.cvtBf16F32 x | cvtF32Bf16 x => exact RoundTrip.cvtF32Bf16 x
  | cvtE4m3F32 x => exact RoundTrip.cvtE4m3F32 x | cvtE5m2F32 x => exact RoundTrip.cvtE5m2F32 x
  | cvtF32E4m3 x => exact RoundTrip.cvtF32E4m3 x | cvtF32E5m2 x => exact RoundTrip.cvtF32E5m2 x
  | cvtE4m3E2m1 x => exact RoundTrip.cvtE4m3E2m1 x | cvtE4m3E3m2 x => exact RoundTrip.cvtE4m3E3m2 x
  | cvtE4m3E2m3 x => exact RoundTrip.cvtE4m3E2m3 x | cvtE4m3I4 x => exact RoundTrip.cvtE4m3I4 x
  | bfma2 x => exact RoundTrip.bfma2 x | bfadd2 x => exact RoundTrip.bfadd2 x | bfmul2 x => exact RoundTrip.bfmul2 x
  | plenc x => exact RoundTrip.plenc x | plmax x => exact RoundTrip.plmax x | pldec x => exact RoundTrip.pldec x
  | icmp x => exact RoundTrip.icmp x | fcmp x => exact RoundTrip.fcmp x | plog x => exact RoundTrip.plog x
  | vany x => exact RoundTrip.vany x | vall x => exact RoundTrip.vall x | vbal x => exact RoundTrip.vbal x
  | redadd x => exact RoundTrip.redadd x | redmin x => exact RoundTrip.redmin x | redmax x => exact RoundTrip.redmax x
  | redfadd x => exact RoundTrip.redfadd x | ptov x => exact RoundTrip.ptov x | vtop x => exact RoundTrip.vtop x
  | readl x => exact RoundTrip.readl x | bra x => exact RoundTrip.bra x | call x => exact RoundTrip.call x
  | jmpr x => exact RoundTrip.jmpr x | callr x => exact RoundTrip.callr x | ret x => exact RoundTrip.ret x
  | rvz x => exact RoundTrip.rvz x | syncl x => exact RoundTrip.syncl x | mbr x => exact RoundTrip.mbr x
  | dbnz x => exact RoundTrip.dbnz x | exit x => exact RoundTrip.exit x | trap x => exact RoundTrip.trap x
  | brk x => exact RoundTrip.brk x | nop x => exact RoundTrip.nop x | yield x => exact RoundTrip.yield x
  | sread x => exact RoundTrip.sread x | swrite x => exact RoundTrip.swrite x | center x => exact RoundTrip.center x
  | sigf x => exact RoundTrip.sigf x | sigc x => exact RoundTrip.sigc x | sigz x => exact RoundTrip.sigz x
  | ld x => exact RoundTrip.ld x | st x => exact RoundTrip.st x | lda x => exact RoundTrip.lda x
  | stl x => exact RoundTrip.stl x | atom x => exact RoundTrip.atom x | atomx x => exact RoundTrip.atomx x
  | pld x => exact RoundTrip.pld x | vnarrow x => exact RoundTrip.vnarrow x | vqry x => exact RoundTrip.vqry x
  | vdrop x => exact RoundTrip.vdrop x | mapr x => exact RoundTrip.mapr x | unmapr x => exact RoundTrip.unmapr x
  | flushr x => exact RoundTrip.flushr x | invr x => exact RoundTrip.invr x | fence x => exact RoundTrip.fence x
  | qfence x => exact RoundTrip.qfence x | csync x => exact RoundTrip.csync x | barg x => exact RoundTrip.barg x
  | bart x => exact RoundTrip.bart x | barc x => exact RoundTrip.barc x | hbind x => exact RoundTrip.hbind x
  | harm x => exact RoundTrip.harm x | hseal x => exact RoundTrip.hseal x | hwait x => exact RoundTrip.hwait x
  | htake x => exact RoundTrip.htake x | hfree x => exact RoundTrip.hfree x | hqry x => exact RoundTrip.hqry x
  | mma x => exact RoundTrip.mma x | mmag x => exact RoundTrip.mmag x | mdrn x => exact RoundTrip.mdrn x
  | mdrnb x => exact RoundTrip.mdrnb x | mdrnl x => exact RoundTrip.mdrnl x | mzero x => exact RoundTrip.mzero x
  | mload x => exact RoundTrip.mload x | padd x => exact RoundTrip.padd x | pnorm x => exact RoundTrip.pnorm x
  | tilein x => exact RoundTrip.tilein x | tileout x => exact RoundTrip.tileout x | bcopy x => exact RoundTrip.bcopy x
  | qpop x => exact RoundTrip.qpop x | qspawn x => exact RoundTrip.qspawn x | qclose x => exact RoundTrip.qclose x
  | fread x => exact RoundTrip.fread x | ffill x => exact RoundTrip.ffill x | trig => exact RoundTrip.trig
  | slotq x => exact RoundTrip.slotq x | featq x => exact RoundTrip.featq x | himm x => exact RoundTrip.himm x
  | hbt x => exact RoundTrip.hbt x | hord x => exact RoundTrip.hord x | hsch x => exact RoundTrip.hsch x
  | hgath x => exact RoundTrip.hgath x
  | _ => exact absurd rfl hb

/-- Settles O53: a term by its own round trip, a word by its format's. -/
theorem encodeDecodeRoundTrip : Obligations.EncodeDecodeRoundTrip := by
  refine ⟨fun i w hi hw => decodeWord_of_encode i hi w hw, fun w i hw h => ?_⟩
  obtain ⟨j, hj, hwf⟩ := Option.bind_eq_some_iff.1 h
  obtain ⟨hj', rfl⟩ := Option.ite_none_right_eq_some.1 hwf |>.imp_right Option.some.inj
  exact ⟨hj', encode_of_decodeRaw hw hj⟩

end Sys2Proof.Laws
end

section
/-!
PROOF. Words of the spec, reset and the hint words (spec/02_encoding.md R56 to R61, spec/17_package.md R349).
-/
namespace Sys2Proof.Machine

-- The proofs of this file run one after another: side by side they take the check's memory.
set_option Elab.async false

/-- Settles O54: the decoder runs on each word. -/
theorem decodedWords : Obligations.DecodedWords := by
  unfold Obligations.DecodedWords
  decide

/-- Settles O56: each register is read off `State.reset`. -/
theorem resetValues : Obligations.ResetValues := by
  unfold Obligations.ResetValues
  refine ⟨rfl, rfl, rfl, fun k => ?measures, rfl, fun _ => rfl, ?ports, rfl, rfl, rfl, rfl, State.reset_mem_wf, rfl⟩
  case measures => exact Vector.getElem_replicate ..
  case ports => decide

/-- A hint word is kept behind the hints before it, whatever it says. -/
theorem hintUnit_of_inHand {s : State} {u : Issue} (h : Hint) (hu : s.issue = some u) :
    hintUnit h s = .next { s with issue := some { u with hints := u.hints ++ [h] } } := by
  rw [hintUnit, hu]

/-- Settles O23: every hint word's meaning is `hintUnit`. -/
theorem hintWords : Obligations.HintWords := by
  intro s u hu
  exact ⟨fun x => hintUnit_of_inHand (.imm x) hu, fun x => hintUnit_of_inHand (.bt x) hu, fun x => hintUnit_of_inHand (.ord x) hu,
    fun n => hintUnit_of_inHand (.sch n) hu, fun n => hintUnit_of_inHand (.gath n) hu⟩

end Sys2Proof.Machine
end

section
/-!
PROOF. Words by their numbers (spec/01_numbers.md R11), and the lane and scalar integer families said by them
(spec/05_lane_integer_control.md R118, R120, R122, R125; spec/09_core_memory_sync.md R219).
-/
namespace Sys2Proof.Machine

-- The proofs of this file run one after another: side by side they take the check's memory.
set_option Elab.async false

/-! ## Sums, differences, products and orders of words -/

theorem sub_eq_ofInt {w : Nat} (a b : BitVec w) : a - b = BitVec.ofInt w (a.toInt - b.toInt) := by
  rw [BitVec.sub_eq_add_neg, Int.sub_eq_add_neg, BitVec.ofInt_add, BitVec.ofInt_neg, BitVec.ofInt_toInt, BitVec.ofInt_toInt]

theorem neg_eq_ofInt (a : Word) : -a = BitVec.ofInt 32 (-a.toInt) := by
  rw [BitVec.ofInt_neg, BitVec.ofInt_toInt]

theorem not_eq_ofNat (a : Word) : ~~~a = BitVec.ofNat 32 (2 ^ 32 - 1 - a.toNat) := by
  rw [← BitVec.toNat_not, BitVec.ofNat_toNat, BitVec.setWidth_eq]

theorem mulHigh_eq_ofInt_fdiv (a b : Word) :
    BitVec.ofInt 32 (a.toInt * b.toInt / 2 ^ 32) = BitVec.ofInt 32 (Int.fdiv (a.toInt * b.toInt) (2 ^ 32)) := by
  rw [Int.fdiv_eq_ediv_of_nonneg _ (by decide)]

theorem ofInt_ite_toInt (p : Prop) [Decidable p] (a b : Word) :
    (if p then a else b) = BitVec.ofInt 32 (if p then a.toInt else b.toInt) := by
  split <;> rw [BitVec.ofInt_toInt]

theorem ofNat_ite_toNat (p : Prop) [Decidable p] (a b : Word) :
    (if p then a else b) = BitVec.ofNat 32 (if p then a.toNat else b.toNat) := by
  split <;> rw [BitVec.ofNat_toNat, BitVec.setWidth_eq]

theorem smaller_eq_ofInt_min (a b : Word) : (if b.slt a then b else a) = BitVec.ofInt 32 (min a.toInt b.toInt) := by
  rw [ofInt_ite_toInt]
  simp only [BitVec.slt_iff_toInt_lt]
  congr 1
  split <;> omega

theorem larger_eq_ofInt_max (a b : Word) : (if a.slt b then b else a) = BitVec.ofInt 32 (max a.toInt b.toInt) := by
  rw [ofInt_ite_toInt]
  simp only [BitVec.slt_iff_toInt_lt]
  congr 1
  split <;> omega

theorem smaller_eq_ofNat_min (a b : Word) : (if b.ult a then b else a) = BitVec.ofNat 32 (min a.toNat b.toNat) := by
  rw [ofNat_ite_toNat]
  simp only [BitVec.ult_iff_lt, BitVec.lt_def]
  congr 1
  split <;> omega

theorem larger_eq_ofNat_max (a b : Word) : (if a.ult b then b else a) = BitVec.ofNat 32 (max a.toNat b.toNat) := by
  rw [ofNat_ite_toNat]
  simp only [BitVec.ult_iff_lt, BitVec.lt_def]
  congr 1
  split <;> omega

theorem magnitude_eq_ofNat_natAbs (a : Word) : (if a.toInt < 0 then -a else a) = BitVec.ofNat 32 a.toInt.natAbs := by
  split
  case isTrue h => rw [neg_eq_ofInt, ← BitVec.ofInt_natCast, Int.ofNat_natAbs_of_nonpos h.le]
  case isFalse h => rw [← BitVec.ofInt_natCast, Int.natAbs_of_nonneg (not_lt.1 h), BitVec.ofInt_toInt]

/-! ## Counting bits -/

theorem upFrom_eq_range' (a n : Nat) : upFrom a n = List.range' a n := by
  induction n generalizing a with
  | zero => rfl
  | succ n ih => rw [upFrom, ih, List.range'_succ]

theorem upFrom_zero_eq_range (n : Nat) : upFrom 0 n = List.range n := by
  rw [upFrom_eq_range', List.range_eq_range']

theorem bit_eq_testBit_fun (x : Nat) : (fun k => bit x k) = fun k => x.testBit k := funext (bit_eq_testBit x)

theorem popCount_eq_countP (a : Word) : popCount a = (List.range 32).countP fun k => a.toNat.testBit k := by
  rw [popCount, upFrom_zero_eq_range, bit_eq_testBit_fun, List.countP_eq_length_filter]

/-- How many numbers from 0 on satisfy `p` before the first that does not. -/
theorem length_takeWhile_range {p : Nat → Bool} {n k : Nat} (hbefore : ∀ j < k, p j = true) (hat : k < n → p k = false)
    (hk : k ≤ n) : ((List.range n).takeWhile p).length = k := by
  obtain ⟨m, rfl⟩ := Nat.exists_eq_add_of_le hk
  rw [List.range_add, List.takeWhile_append_of_pos (by simpa using hbefore), List.length_append, List.length_range]
  cases m with
  | zero => rfl
  | succ m =>
    have hpk : p k = false := hat (by omega)
    simp [List.range_succ_eq_map, hpk]

theorem leadZeros_eq_takeWhile (a : Word) :
    leadZeros a = ((List.range 32).takeWhile fun k => !a.toNat.testBit (31 - k)).length := by
  unfold leadZeros
  split
  case isTrue h =>
    obtain rfl : a = 0 := by simpa using h
    rfl
  case isFalse h =>
    have hne : a.toNat ≠ 0 := fun h0 => h (by simpa using BitVec.eq_of_toNat_eq (y := 0) h0)
    have hlog : Nat.log2 a.toNat < 32 := (Nat.log2_lt hne).2 a.isLt
    refine (length_takeWhile_range (fun j hj => ?_) (fun _ => ?_) (by omega)).symm
    · have hlt : a.toNat < 2 ^ (31 - j) := Nat.lt_of_lt_of_le Nat.lt_log2_self (Nat.pow_le_pow_right two_pos (by omega))
      simp [Nat.testBit_lt_two_pow hlt]
    · rw [show 31 - (31 - Nat.log2 a.toNat) = Nat.log2 a.toNat by omega, Nat.testBit_log2 hne]
      rfl

theorem trailZeros_eq_takeWhile (a : Word) :
    trailZeros a = ((List.range 32).takeWhile fun k => !a.toNat.testBit k).length := by
  rw [trailZeros, upFrom_zero_eq_range, bit_eq_testBit_fun]
  cases hfind : (List.range 32).find? fun k => a.toNat.testBit k with
  | none =>
    rw [List.find?_eq_none] at hfind
    exact (length_takeWhile_range (k := 32) (fun j hj => by simpa using hfind j (List.mem_range.2 hj)) (by simp) le_rfl).symm
  | some k =>
    rw [List.find?_range_eq_some] at hfind
    obtain ⟨hk, hmem, hbefore⟩ := hfind
    exact (length_takeWhile_range (fun j hj => hbefore j hj) (fun _ => by simp [hk]) (List.mem_range.1 hmem).le).symm

/-! ## Words built of their bits and bytes -/

/-- A sum of distinct powers of two has exactly their bits. -/
theorem sum_twoPow_lt_and_testBit (p : Nat → Prop) [DecidablePred p] (n : Nat) :
    ((List.range n).map fun k => if p k then 2 ^ k else 0).sum < 2 ^ n ∧
    ∀ j, ((List.range n).map fun k => if p k then 2 ^ k else 0).sum.testBit j = (decide (j < n) && decide (p j)) := by
  induction n with
  | zero => simp
  | succ n ih =>
    obtain ⟨hlt, hbit⟩ := ih
    rw [List.range_succ, List.map_append, List.sum_append, List.map_singleton, List.sum_singleton]
    split
    case isTrue hp =>
      refine ⟨by rw [pow_succ]; omega, fun j => ?_⟩
      rw [add_comm]
      rcases lt_trichotomy j n with hj | rfl | hj
      · rw [Nat.testBit_two_pow_add_gt hj, hbit]
        simp [hj, hj.trans (Nat.lt_succ_self n)]
      · rw [Nat.testBit_two_pow_add_eq, hbit]
        simp [hp]
      · rw [Nat.testBit_lt_two_pow (x := 2 ^ n + _) (i := j)]
        · simp [show ¬ j < n + 1 by omega]
        · calc 2 ^ n + _ < 2 ^ n + 2 ^ n := Nat.add_lt_add_left hlt _
            _ = 2 ^ (n + 1) := by rw [pow_succ, mul_two]
            _ ≤ 2 ^ j := Nat.pow_le_pow_right two_pos hj
    case isFalse hp =>
      refine ⟨by rw [pow_succ]; omega, fun j => ?_⟩
      rw [add_zero, hbit]
      by_cases hj : j = n
      · subst hj
        simp [hp]
      · simp [show j < n + 1 ↔ j < n by omega]

theorem reverse_eq_ofNat_sum (a : Word) : a.reverse =
    BitVec.ofNat 32 (((List.range 32).map fun k => if a.toNat.testBit (31 - k) then 2 ^ k else 0).sum) := by
  apply BitVec.eq_of_getLsbD_eq
  intro j hj
  rw [BitVec.getLsbD_ofNat, (sum_twoPow_lt_and_testBit (fun k => a.toNat.testBit (31 - k) = true) 32).2, BitVec.getLsbD_reverse,
    BitVec.getMsbD_eq_getLsbD]
  simp [hj, BitVec.getLsbD]

theorem byteSwap_eq_ofNat (a : Word) : byteSwap a = BitVec.ofNat 32 (a.toNat % 2 ^ 8 * 2 ^ 24 + a.toNat / 2 ^ 8 % 2 ^ 8 * 2 ^ 16
    + a.toNat / 2 ^ 16 % 2 ^ 8 * 2 ^ 8 + a.toNat / 2 ^ 24) := by
  have hlt := a.isLt
  unfold byteSwap
  congr 1
  simp only [bytesOf, List.reverse_cons, List.reverse_nil, List.nil_append, List.cons_append, ofBytes, BitVec.toNat_ofNat,
    Nat.div_div_eq_div_mul, Nat.reduceMul, Nat.reducePow]
  omega

theorem zeroExtend8_eq_ofNat (a : Word) : (a.setWidth 8).setWidth 32 = BitVec.ofNat 32 (a.toNat % 2 ^ 8) :=
  BitVec.eq_of_toNat_eq (by simp)

theorem zeroExtend16_eq_ofNat (a : Word) : (a.setWidth 16).setWidth 32 = BitVec.ofNat 32 (a.toNat % 2 ^ 16) :=
  BitVec.eq_of_toNat_eq (by simp)

/-! ## The 32-bit families -/

/-- A member whose meaning is a `unary` with `f` produces `f` of its source (R122), in whatever terms `r` says it. -/
theorem produces_of_unary {i : Instr} {x : OpU} {b : Nat} {f : Word → Word} {r : Env → Lane → Word}
    (hexec : ∀ s, exec i s = unary i x f s) (hb : i.base = some b) (hlt : b < 0x28 * 2 ^ 26)
    (hr : ∀ e y, f (readSrc e y x.a) = r e y) : Produces i x.g x.w x.d fun e y => (r e y, 0) := by
  obtain rfl : (fun e y => f (readSrc e y x.a)) = r := funext₂ hr
  exact produces_of hexec (transfer_eq_false_of_base hb hlt)

/-- A binary member that sets no flag (R118). -/
theorem produces_of_binary_word {i : Instr} {x : OpR} {b : Nat} {f : Word → Word → Word} {r : Env → Lane → Word}
    (hexec : ∀ s, exec i s = binary i x (fun a b => (f a b, 0)) s) (hb : i.base = some b) (hlt : b < 0x28 * 2 ^ 26)
    (hr : ∀ e y, f (readSrc e y x.a) (readSrc e y x.b) = r e y) : Produces i x.g x.w x.d fun e y => (r e y, 0) :=
  produces_of_binary hexec hb hlt fun e y => Prod.ext (hr e y) rfl

theorem exec_iadd (x : OpR) (s : State) : exec (.iadd x) s = binary (.iadd x) x (fun a b => (a + b, 0)) s := rfl

theorem exec_isub (x : OpR) (s : State) : exec (.isub x) s = binary (.isub x) x (fun a b => (a - b, 0)) s := rfl

theorem exec_iabsd (x : OpR) (s : State) :
    exec (.iabsd x) s = binary (.iabsd x) x (fun a b => (BitVec.ofNat 32 (a.toInt - b.toInt).natAbs, 0)) s := rfl

theorem exec_uavg (x : OpR) (s : State) :
    exec (.uavg x) s = binary (.uavg x) x (fun a b => (BitVec.ofNat 32 ((a.toNat + b.toNat + 1) / 2), 0)) s := rfl

theorem exec_imul (x : OpR) (s : State) : exec (.imul x) s = binary (.imul x) x (fun a b => (a * b, 0)) s := rfl

theorem exec_imulhi (x : OpR) (s : State) :
    exec (.imulhi x) s = binary (.imulhi x) x (fun a b => (BitVec.ofInt 32 (a.toInt * b.toInt / 2 ^ 32), 0)) s := rfl

theorem exec_umulhi (x : OpR) (s : State) :
    exec (.umulhi x) s = binary (.umulhi x) x (fun a b => (BitVec.ofNat 32 (a.toNat * b.toNat / 2 ^ 32), 0)) s := rfl

theorem exec_and (x : OpR) (s : State) : exec (.and x) s = binary (.and x) x (fun a b => (a &&& b, 0)) s := rfl

theorem exec_or (x : OpR) (s : State) : exec (.or x) s = binary (.or x) x (fun a b => (a ||| b, 0)) s := rfl

theorem exec_xor (x : OpR) (s : State) : exec (.xor x) s = binary (.xor x) x (fun a b => (a ^^^ b, 0)) s := rfl

theorem exec_andn (x : OpR) (s : State) : exec (.andn x) s = binary (.andn x) x (fun a b => (a &&& ~~~b, 0)) s := rfl

theorem exec_shl (x : OpR) (s : State) : exec (.shl x) s = binary (.shl x) x (fun a b => (a <<< count5 b, 0)) s := rfl

theorem exec_shr (x : OpR) (s : State) : exec (.shr x) s = binary (.shr x) x (fun a b => (a >>> count5 b, 0)) s := rfl

theorem exec_sar (x : OpR) (s : State) : exec (.sar x) s = binary (.sar x) x (fun a b => (a.sshiftRight (count5 b), 0)) s := rfl

theorem exec_rotl (x : OpR) (s : State) : exec (.rotl x) s = binary (.rotl x) x (fun a b => (a.rotateLeft (count5 b), 0)) s := rfl

theorem exec_imin (x : OpR) (s : State) :
    exec (.imin x) s = binary (.imin x) x (fun a b => (if b.slt a then b else a, 0)) s := rfl

theorem exec_imax (x : OpR) (s : State) :
    exec (.imax x) s = binary (.imax x) x (fun a b => (if a.slt b then b else a, 0)) s := rfl

theorem exec_umin (x : OpR) (s : State) :
    exec (.umin x) s = binary (.umin x) x (fun a b => (if b.ult a then b else a, 0)) s := rfl

theorem exec_umax (x : OpR) (s : State) :
    exec (.umax x) s = binary (.umax x) x (fun a b => (if a.ult b then b else a, 0)) s := rfl


/-- Settles O1: each member is a `binary` of a word that the laws above say in numbers. -/
theorem integerBinaryResults : Obligations.IntegerBinaryResults := by
  unfold Obligations.IntegerBinaryResults
  simp only [List.forall_mem_cons]
  refine ⟨fun x => ?iadd, fun x => ?isub, fun x => ?iabsd, fun x => ?uavg, fun x => ?imul, fun x => ?imulhi, fun x => ?umulhi,
    fun x => ?and, fun x => ?or, fun x => ?xor, fun x => ?andn, fun x => ?shl, fun x => ?shr, fun x => ?sar, fun x => ?rotl,
    fun x => ?imin, fun x => ?imax, fun x => ?umin, fun x => ?umax, by simp⟩
  case iadd => exact produces_of_binary_word (exec_iadd x) rfl (by decide) fun _ _ => BitVec.add_def ..
  case isub => exact produces_of_binary_word (exec_isub x) rfl (by decide) fun _ _ => sub_eq_ofInt ..
  case iabsd => exact produces_of_binary_word (exec_iabsd x) rfl (by decide) fun _ _ => rfl
  case uavg => exact produces_of_binary_word (exec_uavg x) rfl (by decide) fun _ _ => rfl
  case imul => exact produces_of_binary_word (exec_imul x) rfl (by decide) fun _ _ => mul_eq_ofNat ..
  case imulhi => exact produces_of_binary_word (exec_imulhi x) rfl (by decide) fun _ _ => mulHigh_eq_ofInt_fdiv ..
  case umulhi => exact produces_of_binary_word (exec_umulhi x) rfl (by decide) fun _ _ => rfl
  case and => exact produces_of_binary_word (exec_and x) rfl (by decide) fun _ _ => rfl
  case or => exact produces_of_binary_word (exec_or x) rfl (by decide) fun _ _ => rfl
  case xor => exact produces_of_binary_word (exec_xor x) rfl (by decide) fun _ _ => rfl
  case andn => exact produces_of_binary_word (exec_andn x) rfl (by decide) fun _ _ => rfl
  case shl => exact produces_of_binary_word (exec_shl x) rfl (by decide) fun _ _ => shl_count5 ..
  case shr => exact produces_of_binary_word (exec_shr x) rfl (by decide) fun _ _ => shr_count5 ..
  case sar => exact produces_of_binary_word (exec_sar x) rfl (by decide) fun _ _ => sar_count5 ..
  case rotl => exact produces_of_binary_word (exec_rotl x) rfl (by decide) fun _ _ => congrArg _ (count5_eq_mod _)
  case imin => exact produces_of_binary_word (exec_imin x) rfl (by decide) fun _ _ => smaller_eq_ofInt_min ..
  case imax => exact produces_of_binary_word (exec_imax x) rfl (by decide) fun _ _ => larger_eq_ofInt_max ..
  case umin => exact produces_of_binary_word (exec_umin x) rfl (by decide) fun _ _ => smaller_eq_ofNat_min ..
  case umax => exact produces_of_binary_word (exec_umax x) rfl (by decide) fun _ _ => larger_eq_ofNat_max ..

theorem exec_mov (x : OpU) (s : State) : exec (.mov x) s = unary (.mov x) x (fun a => a) s := rfl

theorem exec_not (x : OpU) (s : State) : exec (.not x) s = unary (.not x) x (fun a => ~~~a) s := rfl

theorem exec_neg (x : OpU) (s : State) : exec (.neg x) s = unary (.neg x) x (fun a => -a) s := rfl

theorem exec_iabs (x : OpU) (s : State) : exec (.iabs x) s = unary (.iabs x) x (fun a => if a.toInt < 0 then -a else a) s := rfl

theorem exec_popc (x : OpU) (s : State) : exec (.popc x) s = unary (.popc x) x (fun a => BitVec.ofNat 32 (popCount a)) s := rfl

theorem exec_clz (x : OpU) (s : State) : exec (.clz x) s = unary (.clz x) x (fun a => BitVec.ofNat 32 (leadZeros a)) s := rfl

theorem exec_ctz (x : OpU) (s : State) : exec (.ctz x) s = unary (.ctz x) x (fun a => BitVec.ofNat 32 (trailZeros a)) s := rfl

theorem exec_brev (x : OpU) (s : State) : exec (.brev x) s = unary (.brev x) x (fun a => bitReverse a) s := rfl

theorem exec_bswap (x : OpU) (s : State) : exec (.bswap x) s = unary (.bswap x) x (fun a => byteSwap a) s := rfl

theorem exec_sext8 (x : OpU) (s : State) : exec (.sext8 x) s = unary (.sext8 x) x (fun a => (a.setWidth 8).signExtend 32) s := rfl

theorem exec_sext16 (x : OpU) (s : State) :
    exec (.sext16 x) s = unary (.sext16 x) x (fun a => (a.setWidth 16).signExtend 32) s := rfl

theorem exec_zext8 (x : OpU) (s : State) : exec (.zext8 x) s = unary (.zext8 x) x (fun a => (a.setWidth 8).setWidth 32) s := rfl

theorem exec_zext16 (x : OpU) (s : State) :
    exec (.zext16 x) s = unary (.zext16 x) x (fun a => (a.setWidth 16).setWidth 32) s := rfl


/-- Settles O4: each member is a `unary` of a word that the laws above say in numbers. -/
theorem integerUnary : Obligations.IntegerUnary := by
  unfold Obligations.IntegerUnary
  simp only [List.forall_mem_cons]
  refine ⟨fun x => ?mov, fun x => ?not, fun x => ?neg, fun x => ?iabs, fun x => ?popc, fun x => ?clz, fun x => ?ctz,
    fun x => ?brev, fun x => ?bswap, fun x => ?sext8, fun x => ?sext16, fun x => ?zext8, fun x => ?zext16, by simp⟩
  case mov => exact produces_of_unary (exec_mov x) rfl (by decide) fun _ _ => rfl
  case not => exact produces_of_unary (exec_not x) rfl (by decide) fun _ _ => not_eq_ofNat ..
  case neg => exact produces_of_unary (exec_neg x) rfl (by decide) fun _ _ => neg_eq_ofInt ..
  case iabs => exact produces_of_unary (exec_iabs x) rfl (by decide) fun _ _ => magnitude_eq_ofNat_natAbs ..
  case popc => exact produces_of_unary (exec_popc x) rfl (by decide) fun _ _ => congrArg (BitVec.ofNat 32) (popCount_eq_countP _)
  case clz => exact produces_of_unary (exec_clz x) rfl (by decide) fun _ _ => congrArg (BitVec.ofNat 32) (leadZeros_eq_takeWhile _)
  case ctz => exact produces_of_unary (exec_ctz x) rfl (by decide) fun _ _ => congrArg (BitVec.ofNat 32) (trailZeros_eq_takeWhile _)
  case brev => exact produces_of_unary (exec_brev x) rfl (by decide) fun _ _ => reverse_eq_ofNat_sum ..
  case bswap => exact produces_of_unary (exec_bswap x) rfl (by decide) fun _ _ => byteSwap_eq_ofNat ..
  case sext8 => exact produces_of_unary (exec_sext8 x) rfl (by decide) fun _ _ => rfl
  case sext16 => exact produces_of_unary (exec_sext16 x) rfl (by decide) fun _ _ => rfl
  case zext8 => exact produces_of_unary (exec_zext8 x) rfl (by decide) fun _ _ => zeroExtend8_eq_ofNat ..
  case zext16 => exact produces_of_unary (exec_zext16 x) rfl (by decide) fun _ _ => zeroExtend16_eq_ofNat ..

/-! ## The 64-bit pairs -/

theorem setPair_eq_halves (l : Lane) (d : Fin 64) (r : Word64) : l.setPair d r =
    { l with v := (l.v.set (l.phys d).val (BitVec.ofNat 32 r.toNat)).set (l.phys (d + 1)).val (BitVec.ofNat 32 (r.toNat / 2 ^ 32)) } := by
  have hhigh : (r >>> 32).setWidth 32 = BitVec.ofNat 32 (r.toNat / 2 ^ 32) :=
    BitVec.eq_of_toNat_eq (by simp [Nat.shiftRight_eq_div_pow])
  have hlow : r.setWidth 32 = BitVec.ofNat 32 r.toNat := rfl
  rw [Lane.setPair, hhigh, hlow]
  rfl

/-- A member that writes a pair changes its two registers alone (R120), in whatever terms `r` says the pair. -/
theorem changes_of_setPair {i : Instr} {x : OpR64} {b : Nat} {f r : Env → Lane → Word64}
    (hexec : ∀ s, exec i s = localUnit i s (guarded x.g fun e l => .go (l.setPair x.d (f e l)))) (hb : i.base = some b)
    (hlt : b < 0x28 * 2 ^ 26) (hr : ∀ e y, f e y = r e y) :
    Changes i x.g fun e y =>
      { y with
        v := (y.v.set (y.phys x.d).val (BitVec.ofNat 32 (r e y).toNat)).set (y.phys (x.d + 1)).val
          (BitVec.ofNat 32 ((r e y).toNat / 2 ^ 32)) } := by
  obtain rfl : f = r := funext₂ hr
  have hset := changes_of hexec (fun _ _ hw => hw) (transfer_eq_false_of_base hb hlt)
  simpa only [setPair_eq_halves] using hset

theorem shl64_eq_ofNat (a : Word64) (b : Word) : a <<< bvFld b 0 6 = BitVec.ofNat 64 (a.toNat * 2 ^ (b.toNat % 64)) := by
  have hcount : bvFld b 0 6 = b.toNat % 64 := by simp [bvFld, fld]
  rw [hcount]
  exact BitVec.eq_of_toNat_eq (by simp [Nat.shiftLeft_eq])

theorem exec_add64 (x : OpR64) (s : State) : exec (.add64 x) s = pairOp (.add64 x) x (fun a b => a + b) s := rfl

theorem exec_sub64 (x : OpR64) (s : State) : exec (.sub64 x) s = pairOp (.sub64 x) x (fun a b => a - b) s := rfl

theorem exec_mul64 (x : OpR64) (s : State) : exec (.mul64 x) s = pairOp (.mul64 x) x (fun a b => a * b) s := rfl

theorem exec_shl64 (x : OpR64) (s : State) :
    exec (.shl64 x) s = localUnit (.shl64 x) s (guarded x.g fun e l => .go (l.setPair x.d (readSrc64 e l x.a <<< bvFld (readSrc e l x.b) 0 6))) := rfl


/-- Settles O6: each member sets the pair of D to a 64-bit sum, difference, product or shift. -/
theorem integerPairs : Obligations.IntegerPairs := by
  unfold Obligations.IntegerPairs
  simp only [List.forall_mem_cons]
  refine ⟨fun x => ?add64, fun x => ?sub64, fun x => ?mul64, fun x => ?shl64, by simp⟩
  case add64 => exact changes_of_setPair (exec_add64 x) rfl (by decide) fun _ _ => BitVec.add_def ..
  case sub64 => exact changes_of_setPair (exec_sub64 x) rfl (by decide) fun _ _ => sub_eq_ofInt ..
  case mul64 => exact changes_of_setPair (exec_mul64 x) rfl (by decide) fun _ _ => rfl
  case shl64 => exact changes_of_setPair (exec_shl64 x) rfl (by decide) fun _ _ => shl64_eq_ofNat ..

/-! ## Scalars -/

/-- A scalar instruction that writes `f` of the scalars and the hints sets `r` of them, where `r` says the same word. -/
theorem setsScalar_of_eq {i : Instr} {d : Fin 32} {f r : Vector Word 32 → List Hint → Word} (hexec : ∀ s, exec i s = scalar i d f s)
    (he : i.engine = false) (hr : ∀ v h, f v h = r v h) : SetsScalar i d r := by
  obtain rfl : f = r := funext₂ hr
  exact setsScalar_of hexec he

theorem shr_eq_ofNat (a : Word) (n : Nat) : a >>> n = BitVec.ofNat 32 (a.toNat / 2 ^ n) := by
  have hlt : a.toNat / 2 ^ n < 2 ^ 32 := (Nat.div_le_self _ _).trans_lt a.isLt
  apply BitVec.eq_of_toNat_eq
  rw [BitVec.toNat_ushiftRight, Nat.shiftRight_eq_div_pow, BitVec.toNat_ofNat, Nat.mod_eq_of_lt hlt]

/-- READL is a scalar instruction that reads a lane register instead of the scalars. -/
theorem readl_sets (x : OpReadL) (s : State) (c : Ctx) (h : ExecutesOnce s c (.readl x)) :
    ∃ t, exec (.readl x) s = .next t ∧
      (∃ g, c.groupIn t = some g ∧ g.s = c.g.s.set x.d.val (c.g.lane x.n.val).v[x.r.val]) ∧
      ∀ n ∈ c.lanes, ∀ l, c.g.lanes[n]? = some l →
        c.laneIn t n = some ((({ l with wait := .none } : Lane).chained (readsLatch (.readl x) c)).past c) := by
  have hg := context_group s c h.inHand
  let g : Group := { c.g with s := c.g.s.set x.d.val (c.g.lane x.n.val).v[x.r.val] }
  obtain ⟨t, ht, ⟨g', hg', hs, _⟩, hlanes⟩ := groupUnit_go
    (body := fun c s => .go (s.modGroup c.core c.gi fun g => { g with s := g.s.set x.d.val (c.g.lane x.n.val).v[x.r.val] }) fun _ l => l)
    (f := fun _ l => l) (g := g) h rfl (by rw [State.group_modGroup, if_pos ⟨rfl, rfl⟩, hg]; rfl) h.noRvz h.noBar
  refine ⟨t, ht, ⟨g', hg', hs⟩, fun n hn l hl => ?_⟩
  rw [hlanes n hn l hl (by simp)]
  rfl

theorem exec_sadd (x : OpSR) (s : State) : exec (.sadd x) s = scalar2 (.sadd x) x (fun a b => a + b) s := rfl

theorem exec_ssub (x : OpSR) (s : State) : exec (.ssub x) s = scalar2 (.ssub x) x (fun a b => a - b) s := rfl

theorem exec_smul (x : OpSR) (s : State) : exec (.smul x) s = scalar2 (.smul x) x (fun a b => a * b) s := rfl

theorem exec_smin (x : OpSR) (s : State) : exec (.smin x) s = scalar2 (.smin x) x (fun a b => if b.slt a then b else a) s := rfl

theorem exec_sand (x : OpSR) (s : State) : exec (.sand x) s = scalar2 (.sand x) x (fun a b => a &&& b) s := rfl

theorem exec_sor (x : OpSR) (s : State) : exec (.sor x) s = scalar2 (.sor x) x (fun a b => a ||| b) s := rfl

theorem exec_sxor (x : OpSR) (s : State) : exec (.sxor x) s = scalar2 (.sxor x) x (fun a b => a ^^^ b) s := rfl

theorem exec_sshl (x : OpSR) (s : State) : exec (.sshl x) s = scalar2 (.sshl x) x (fun a b => a <<< count5 b) s := rfl

theorem exec_smov (x : OpSU) (s : State) : exec (.smov x) s = scalar1 (.smov x) x (fun a => a) s := rfl

theorem exec_snot (x : OpSU) (s : State) : exec (.snot x) s = scalar1 (.snot x) x (fun a => ~~~a) s := rfl

theorem exec_sneg (x : OpSU) (s : State) : exec (.sneg x) s = scalar1 (.sneg x) x (fun a => -a) s := rfl

theorem exec_spopc (x : OpSU) (s : State) :
    exec (.spopc x) s = scalar1 (.spopc x) x (fun a => BitVec.ofNat 32 (popCount a)) s := rfl

theorem exec_sclz (x : OpSU) (s : State) :
    exec (.sclz x) s = scalar1 (.sclz x) x (fun a => BitVec.ofNat 32 (leadZeros a)) s := rfl

theorem exec_sshr (x : OpSShr) (s : State) :
    exec (.sshr x) s = scalar (.sshr x) x.d (fun v _ => readSSrc v x.a >>> x.n.val) s := rfl

theorem exec_saddi (x : OpSI) (s : State) :
    exec (.saddi x) s = scalar (.saddi x) x.d (fun v h => readSSrc v x.a + immOf h x.imm) s := rfl


/-- Settles O8: each member is a `scalar` of a word that the laws above say in numbers, and READL one that reads a lane register. -/
theorem scalarResults : Obligations.ScalarResults := by
  unfold Obligations.ScalarResults
  simp only [List.forall_mem_cons]
  refine ⟨⟨⟨fun x => ?sadd, fun x => ?ssub, fun x => ?smul, fun x => ?smin, fun x => ?sand, fun x => ?sor, fun x => ?sxor,
      fun x => ?sshl, by simp⟩, ⟨fun x => ?smov, fun x => ?snot, fun x => ?sneg, fun x => ?spopc, fun x => ?sclz, by simp⟩,
    fun x => ?sshr, fun x => ?saddi⟩, readl_sets⟩
  case sadd => exact setsScalar_of_eq (exec_sadd x) rfl fun _ _ => BitVec.add_def ..
  case ssub => exact setsScalar_of_eq (exec_ssub x) rfl fun _ _ => sub_eq_ofInt ..
  case smul => exact setsScalar_of_eq (exec_smul x) rfl fun _ _ => mul_eq_ofNat ..
  case smin => exact setsScalar_of_eq (exec_smin x) rfl fun _ _ => smaller_eq_ofInt_min ..
  case sand => exact setsScalar_of_eq (exec_sand x) rfl fun _ _ => rfl
  case sor => exact setsScalar_of_eq (exec_sor x) rfl fun _ _ => rfl
  case sxor => exact setsScalar_of_eq (exec_sxor x) rfl fun _ _ => rfl
  case sshl => exact setsScalar_of_eq (exec_sshl x) rfl fun _ _ => shl_count5 ..
  case smov => exact setsScalar_of_eq (exec_smov x) rfl fun _ _ => rfl
  case snot => exact setsScalar_of_eq (exec_snot x) rfl fun _ _ => not_eq_ofNat _
  case sneg => exact setsScalar_of_eq (exec_sneg x) rfl fun _ _ => neg_eq_ofInt _
  case spopc => exact setsScalar_of_eq (exec_spopc x) rfl fun _ _ => congrArg (BitVec.ofNat 32) (popCount_eq_countP _)
  case sclz => exact setsScalar_of_eq (exec_sclz x) rfl fun _ _ => congrArg (BitVec.ofNat 32) (leadZeros_eq_takeWhile _)
  case sshr => exact setsScalar_of_eq (exec_sshr x) rfl fun _ _ => shr_eq_ofNat ..
  case saddi => exact setsScalar_of_eq (exec_saddi x) rfl fun _ _ => BitVec.add_def ..

end Sys2Proof.Machine
end

section
/-!
PROOF. Shuffles and the cohort family (spec/09_core_memory_sync.md R214 to R218): the model reads the contributing lanes as a list of
the lanes that pass the checks and then those whose guard holds; the statements read both at once.
-/
namespace Sys2Proof.Machine

-- The proofs of this file run one after another: side by side they take the check's memory.
set_option Elab.async false

/-! ## The lanes that take part -/

theorem contributing_eq_givers (c : Ctx) (i : Instr) (g : Guard) : c.contributing i g = c.givers i g := by
  simp only [Ctx.contributing, Ctx.present, Ctx.givers, List.filter_filter, Bool.and_comm]

theorem begin_isNone_eq_decide (c : Ctx) (i : Instr) (n : Nat) :
    ((c.g.lane n).begin_ i c).2.isNone = decide (((c.g.lane n).begin_ i c).2 = none) := by
  rw [Bool.eq_iff_iff, Option.isNone_iff_eq_none, decide_eq_true_iff]

theorem readAt_eq_sees (c : Ctx) (a : Src) : c.readAt a = c.sees a := rfl

/-- The lane that a shuffle selects is in the unit and passes its checks (R214). -/
theorem selected_iff (c : Ctx) (i : Instr) (j : Int) :
    (decide (0 ≤ j) && decide (j < c.g.width) && (c.present i).contains j.toNat) = true ↔
      0 ≤ j ∧ j < c.g.width ∧ j.toNat ∈ c.lanes ∧ ((c.g.lane j.toNat).begin_ i c).2 = none := by
  simp [Ctx.present, and_assoc]

/-! ## Shuffles -/

/-- What a shuffle that picks lane `pick n b` delivers. -/
def shuffled (i : Instr) (x : OpR) (pick : Int → Int → Int) (c : Ctx) (e : Env) (l : Lane) : Word :=
  let j := pick e.n (readSrc e l x.b).toNat
  if 0 ≤ j ∧ j < c.g.width ∧ j.toNat ∈ c.lanes ∧ ((c.g.lane j.toNat).begin_ i c).2 = none
  then c.sees x.a j.toNat else readSrc e l x.a

theorem shuffle_eq_producer (i : Instr) (x : OpR) (pick : Int → Int → Int) (s : State) :
    shuffle i x pick s = localUnit i s fun c => producer x.g x.w x.d (fun e l => .ok (shuffled i x pick c e l, 0)) c := by
  unfold shuffle
  congr 1
  funext c n l
  simp only [producer, selected_iff, readAt_eq_sees]
  rfl

theorem producesIn_of_shuffle {i : Instr} {x : OpR} {b : Nat} {pick : Int → Int → Int} (hexec : ∀ s, exec i s = shuffle i x pick s)
    (hb : i.base = some b) (hlt : b < 0x28 * 2 ^ 26) : ProducesIn i x.g x.w x.d fun c e y => (shuffled i x pick c e y, 0) :=
  producesIn_of (fun s => (hexec s).trans (shuffle_eq_producer ..)) (transfer_eq_false_of_base hb hlt)

theorem exec_shfli (x : OpR) (s : State) : exec (.shfli x) s = shuffle (.shfli x) x (fun _ b => b) s := rfl

theorem exec_shflu (x : OpR) (s : State) : exec (.shflu x) s = shuffle (.shflu x) x (fun l b => l - b) s := rfl

theorem exec_shfld (x : OpR) (s : State) : exec (.shfld x) s = shuffle (.shfld x) x (fun l b => l + b) s := rfl

theorem exec_shflx (x : OpR) (s : State) :
    exec (.shflx x) s = shuffle (.shflx x) x (fun l b => (Nat.xor l.toNat b.toNat : Nat)) s := rfl

/-- Settles O15: each member is a `shuffle` that picks the statement's lane. -/
theorem shuffleResults : Obligations.ShuffleResults := by
  unfold Obligations.ShuffleResults
  simp only [List.forall_mem_cons]
  refine ⟨fun x => ?shfli, fun x => ?shflu, fun x => ?shfld, fun x => ?shflx, by simp⟩
  case shfli => exact producesIn_of_shuffle (exec_shfli x) rfl (by decide)
  case shflu => exact producesIn_of_shuffle (exec_shflu x) rfl (by decide)
  case shfld => exact producesIn_of_shuffle (exec_shfld x) rfl (by decide)
  case shflx => exact producesIn_of_shuffle (exec_shflx x) rfl (by decide)

/-! ## Reductions over words -/

theorem sum_words_eq_ofNat (vs : List Word) : vs.foldr (· + ·) 0 = BitVec.ofNat 32 (vs.map BitVec.toNat).sum := by
  induction vs with
  | nil => rfl
  | cons v vs ih =>
    rw [List.foldr_cons, ih, List.map_cons, List.sum_cons, BitVec.ofNat_add, BitVec.ofNat_toNat, BitVec.setWidth_eq]

theorem least_word_toInt (vs : List Word) :
    (vs.foldr (fun a b : Word => if a.slt b then a else b) 0x7FFFFFFF).toInt = (vs.map BitVec.toInt).foldr min (2 ^ 31 - 1) := by
  induction vs with
  | nil => rfl
  | cons v vs ih =>
    rw [List.foldr_cons, List.map_cons, List.foldr_cons, ← ih, apply_ite BitVec.toInt]
    simp only [BitVec.slt_iff_toInt_lt]
    split <;> omega

theorem greatest_word_toInt (vs : List Word) :
    (vs.foldr (fun a b : Word => if b.slt a then a else b) 0x80000000).toInt = (vs.map BitVec.toInt).foldr max (-(2 ^ 31)) := by
  induction vs with
  | nil => rfl
  | cons v vs ih =>
    rw [List.foldr_cons, List.map_cons, List.foldr_cons, ← ih, apply_ite BitVec.toInt]
    simp only [BitVec.slt_iff_toInt_lt]
    split <;> omega

theorem least_word_eq_ofInt (vs : List Word) : vs.foldr (fun a b : Word => if a.slt b then a else b) 0x7FFFFFFF =
    BitVec.ofInt 32 ((vs.map BitVec.toInt).foldr min (2 ^ 31 - 1)) := by
  rw [← least_word_toInt, BitVec.ofInt_toInt]

theorem greatest_word_eq_ofInt (vs : List Word) : vs.foldr (fun a b : Word => if b.slt a then a else b) 0x80000000 =
    BitVec.ofInt 32 ((vs.map BitVec.toInt).foldr max (-(2 ^ 31))) := by
  rw [← greatest_word_toInt, BitVec.ofInt_toInt]

/-! ## Masks -/

theorem ballot_eq_ofNat_sum (width n : Nat) (p : Nat → Bool) (q : Nat → Prop) [DecidablePred q] (h : ∀ m, p m = true ↔ q m) :
    ballot width n p = BitVec.ofNat 32
      (((List.range 32).map fun k => if q ((if width = 64 then n / 32 * 32 else 0) + k) then 2 ^ k else 0).sum) := by
  have hterm (k : Nat) : b2n (p (halfLane width n k)) * 2 ^ k =
      if q ((if width = 64 then n / 32 * 32 else 0) + k) then 2 ^ k else 0 := by
    have hlane : halfLane width n k = (if width = 64 then n / 32 * 32 else 0) + k := by
      simp only [halfLane, beq_iff_eq]
      split <;> simp
    simp only [hlane, ← h, b2n, ite_mul, one_mul, zero_mul]
  rw [ballot, upFrom_zero_eq_range]
  simp only [hterm]
  rfl

/-! ## Members that write a register or a predicate -/

theorem changesIn_of_vote {i : Instr} {x : OpCoh} {b : Nat} {f r : List Word → Word} (hexec : ∀ s, exec i s = vote i x f s)
    (hb : i.base = some b) (hlt : b < 0x28 * 2 ^ 26) (hr : ∀ vs, f vs = r vs) :
    ChangesIn i x.g fun c _ y => y.setReg x.d (r ((c.givers i x.g).map (c.sees x.a))) := by
  obtain rfl : f = r := funext hr
  refine changesIn_of (fun s => (hexec s).trans ?_) (fun _ _ _ hw => hw) (transfer_eq_false_of_base hb hlt)
  simp only [vote, contributing_eq_givers]
  rfl

theorem exec_vany (x : OpCoh) (s : State) : exec (.vany x) s = vote (.vany x) x (fun vs => b2w (vs.any (· != 0))) s := rfl

theorem exec_vall (x : OpCoh) (s : State) : exec (.vall x) s = vote (.vall x) x (fun vs => b2w (vs.all (· != 0))) s := rfl

theorem exec_redadd (x : OpCoh) (s : State) : exec (.redadd x) s = vote (.redadd x) x (fun vs => vs.foldr (· + ·) 0) s := rfl

theorem exec_redmin (x : OpCoh) (s : State) :
    exec (.redmin x) s = vote (.redmin x) x (fun vs => vs.foldr (fun a b : Word => if a.slt b then a else b) 0x7FFFFFFF) s := rfl

theorem exec_redmax (x : OpCoh) (s : State) :
    exec (.redmax x) s = vote (.redmax x) x (fun vs => vs.foldr (fun a b : Word => if b.slt a then a else b) 0x80000000) s := rfl

/-- A member whose lanes change by `F` of their index: `f` says the same of the index that the environment holds. -/
theorem changesIn_of_indexed {i : Instr} {g : Guard} {b : Nat} {F : Ctx → Nat → Env → Lane → Lane} {f : Ctx → Env → Lane → Lane}
    (hexec : ∀ s, exec i s = localUnit i s fun c n => guarded g (fun e l => .go (F c n e l)) c n) (hb : i.base = some b)
    (hlt : b < 0x28 * 2 ^ 26) (hw : ∀ c n e (l : Lane), l.wait = .none → (F c n e l).wait = .none)
    (hf : ∀ c e l, F c e.n e l = f c e l) : ChangesIn i g f := by
  obtain rfl : (fun c (e : Env) => F c e.n e) = f := funext fun c => funext₂ (hf c)
  exact changesIn_of hexec (fun c e => hw c e.n e) (transfer_eq_false_of_base hb hlt)

/-- The mask of VBAL in lane `n`, and that of PTOV. -/
def voteMask (x : OpCoh) (c : Ctx) (n : Nat) : Word :=
  ballot c.g.width n fun m => (c.contributing (.vbal x) x.g).contains m && c.readAt x.a m != 0

def predicateMask (x : OpPToV) (c : Ctx) (n : Nat) : Word :=
  ballot c.g.width n fun m => (c.contributing (.ptov x) x.g).contains m && (c.g.lane m).p[x.p.val]

/-- The mask that VTOP reads: that of the lowest contributing lane of the half, or the lane's own. -/
def halfMask (x : OpVToP) (c : Ctx) (n : Nat) (e : Env) (l : Lane) : Word :=
  match ((c.contributing (.vtop x) x.g).filter fun m => c.g.width != 64 || m / 32 == n / 32).head? with
  | some m => c.readAt x.a m
  | none => readSrc e l x.a

theorem exec_vbal (x : OpCoh) (s : State) : exec (.vbal x) s = localUnit (.vbal x) s fun c n =>
    guarded x.g (fun _ l => .go (l.setReg x.d (voteMask x c n))) c n := rfl

theorem exec_ptov (x : OpPToV) (s : State) : exec (.ptov x) s = localUnit (.ptov x) s fun c n =>
    guarded x.g (fun _ l => .go (l.setReg x.d (predicateMask x c n))) c n := rfl

theorem exec_vtop (x : OpVToP) (s : State) : exec (.vtop x) s = localUnit (.vtop x) s fun c n =>
    guarded x.g (fun e l => .go (l.setP x.p (bit (halfMask x c n e l).toNat (n % 32)))) c n := rfl

theorem voteMask_eq (x : OpCoh) (c : Ctx) (n : Nat) : voteMask x c n = BitVec.ofNat 32 (((List.range 32).map fun k =>
    let m := (if c.g.width = 64 then n / 32 * 32 else 0) + k
    if m ∈ c.givers (.vbal x) x.g ∧ c.sees x.a m ≠ 0 then 2 ^ k else 0).sum) :=
  ballot_eq_ofNat_sum (q := fun m => m ∈ c.givers (.vbal x) x.g ∧ c.sees x.a m ≠ 0) _ _ _
    fun m => by simp [contributing_eq_givers, readAt_eq_sees]

theorem predicateMask_eq (x : OpPToV) (c : Ctx) (n : Nat) : predicateMask x c n = BitVec.ofNat 32 (((List.range 32).map fun k =>
    let m := (if c.g.width = 64 then n / 32 * 32 else 0) + k
    if m ∈ c.givers (.ptov x) x.g ∧ (c.g.lane m).p[x.p.val] then 2 ^ k else 0).sum) :=
  ballot_eq_ofNat_sum (q := fun m => m ∈ c.givers (.ptov x) x.g ∧ (c.g.lane m).p[x.p.val] = true) _ _ _
    fun m => by simp [contributing_eq_givers]

theorem halfMask_eq (x : OpVToP) (c : Ctx) (n : Nat) (e : Env) (l : Lane) : halfMask x c n e l =
    ((((c.givers (.vtop x) x.g).filter fun m => c.g.width ≠ 64 ∨ m / 32 = n / 32).head?).map (c.sees x.a)).getD
      (readSrc e l x.a) := by
  have hhalf : (fun m => c.g.width != 64 || m / 32 == n / 32) = fun m => decide (c.g.width ≠ 64 ∨ m / 32 = n / 32) := by
    funext m
    rw [Bool.eq_iff_iff]
    simp
  rw [halfMask, contributing_eq_givers, hhalf]
  split
  case h_1 m hm => rw [hm]; rfl
  case h_2 hm => rw [hm]; rfl

/-! ## The summing tree -/

theorem raises_inside {l : Lane} {m : Nat} {fl : Word} {e : Cause} (h : l.raises m fl = some e) : l.inside.isSome = true := by
  unfold Lane.raises at h
  obtain ⟨hmask, -⟩ := Option.ite_none_right_eq_some.1 h
  exact (Bool.and_eq_true _ _ ▸ hmask).1

theorem exec_redfadd (x : OpCoh) (s : State) : exec (.redfadd x) s = localUnit (.redfadd x) s fun c => guarded x.g (fun e l =>
    let r := treeSum (fun q => if (c.contributing (.redfadd x) x.g).contains q then some (c.readAt x.a q).toNat else none)
      (log2 c.g.width) 0
    match l.raises e.fmask r.2 with
    | some k => .fail k
    | none => .go ((l.setReg x.d (BitVec.ofNat 32 (r.1.getD 0))).setFlags r.2)) c := rfl

/-- A lane of REDFADD, by what the tree gives. -/
theorem redfadd_lane (x : OpCoh) (s : State) (c : Ctx) (n : Nat) (l : Lane) (h : Executes s c (.redfadd x) n l) :
    let y := l.started (.redfadd x) c
    let r := treeSum (fun q => if q ∈ c.givers (.redfadd x) x.g then some (c.sees x.a q).toNat else none) (log2 c.g.width) 0
    ∃ t, exec (.redfadd x) s = .next t ∧ c.laneIn t n = some (
      if x.g.holds y then
        match y.raises (recFmask c.r) r.2 with
        | some e => y.deliver e.outcome
        | none => ((y.setReg x.d (BitVec.ofNat 32 (r.1.getD 0))).setFlags r.2).past c
      else y.past c) := by
  have ht : (Instr.redfadd x).transfer = false := transfer_eq_false_of_base rfl (by decide)
  have htree : treeSum (fun q => if (c.contributing (.redfadd x) x.g).contains q then some (c.readAt x.a q).toNat else none)
      (log2 c.g.width) 0 =
      treeSum (fun q => if q ∈ c.givers (.redfadd x) x.g then some (c.sees x.a q).toNat else none) (log2 c.g.width) 0 := by
    simp [contributing_eq_givers, readAt_eq_sees]
  intro y r
  rw [exec_redfadd, localUnit_congr (b' := guarded x.g fun e l =>
    match l.raises e.fmask r.2 with
    | some k => .fail k
    | none => .go ((l.setReg x.d (BitVec.ofNat 32 (r.1.getD 0))).setFlags r.2)) h.inHand (by simp only [htree]; rfl)]
  split
  case isFalse hg => exact guarded_off h (by simpa using hg) ht
  case isTrue hg =>
    cases hraise : y.raises (recFmask c.r) r.2 with
    | none =>
      refine guarded_go h hg ?_ (by exact started_wait l _ c) ht
      show (match y.raises (recFmask c.r) r.2 with | some k => LaneEnd.fail k | none => _) = _
      rw [hraise]
    | some e =>
      have hin : (l.started (.redfadd x) c).inside.isSome = true := raises_inside hraise
      refine localUnit_deliver (e := e) h ?_ (by simpa using hin)
      simp only [guarded, y, hg, if_true]
      show (match y.raises (recFmask c.r) r.2 with | some k => LaneEnd.fail k | none => _) = _
      rw [hraise]

/-- A node of the tree whose children are both present, and one of whose children is absent (R218). -/
theorem treeSum_succ (v : Nat → Option Nat) (m q : Nat) :
    let x := treeSum v m q
    let y := treeSum v m (q + 2 ^ m)
    (∀ a b, x.1 = some a → y.1 = some b → treeSum v (m + 1) q =
      (some (opAdd fmtF32 false false a b).1, x.2 ||| y.2 ||| (opAdd fmtF32 false false a b).2)) ∧
    (y.1 = none → (treeSum v (m + 1) q).1 = x.1) ∧ (x.1 = none → (treeSum v (m + 1) q).1 = y.1) := by
  simp only [treeSum]
  refine ⟨fun a b ha hb => by rw [ha, hb]; rfl, fun hy => ?_, fun hx => ?_⟩
  · rw [hy]
    cases (treeSum v m q).1 <;> rfl
  · rw [hx]
    cases (treeSum v m (q + 2 ^ m)).1 <;> rfl

/-! ## The statement -/

/-- Settles O16: votes and integer reductions are a `vote`, masks a `ballot`, VTOP reads the half's lowest mask, and REDFADD a tree. -/
theorem cohortResults : Obligations.CohortResults := by
  unfold Obligations.CohortResults
  simp only [List.forall_mem_cons]
  refine ⟨⟨⟨fun x => ?vany, fun x => ?vall, fun x => ?redadd, fun x => ?redmin, fun x => ?redmax, by simp⟩, fun x => ?vbal,
    fun x => ?ptov, fun x => ?vtop, redfadd_lane⟩, fun v m q => ⟨rfl, treeSum_succ v m q⟩⟩
  case vany => exact changesIn_of_vote (exec_vany x) rfl (by decide) fun _ => rfl
  case vall => exact changesIn_of_vote (exec_vall x) rfl (by decide) fun _ => rfl
  case redadd => exact changesIn_of_vote (exec_redadd x) rfl (by decide) sum_words_eq_ofNat
  case redmin => exact changesIn_of_vote (exec_redmin x) rfl (by decide) least_word_eq_ofInt
  case redmax => exact changesIn_of_vote (exec_redmax x) rfl (by decide) greatest_word_eq_ofInt
  case vbal =>
    exact changesIn_of_indexed (exec_vbal x) rfl (by decide) (fun _ _ _ _ hw => hw) fun c e l => by rw [voteMask_eq]
  case ptov =>
    exact changesIn_of_indexed (exec_ptov x) rfl (by decide) (fun _ _ _ _ hw => hw) fun c e l => by rw [predicateMask_eq]
  case vtop =>
    refine changesIn_of_indexed (exec_vtop x) rfl (by decide) (fun _ _ _ _ hw => hw) fun c e l => ?_
    rw [halfMask_eq, bit_eq_testBit]
    rfl

end Sys2Proof.Machine
end

section
/-!
PROOF. Special registers (spec/05_lane_integer_control.md R135 to R137): the model reads a register as its low word and the half it
latches; the statement says both as numbers.
-/
namespace Sys2Proof.Machine

-- The proofs of this file run one after another: side by side they take the check's memory.
set_option Elab.async false

/-- A lane instruction whose change may read the machine as it stood at issue: `changesIn_of` of one state. -/
theorem guarded_change {i : Instr} {s : State} {g : Guard} {f : Ctx → Env → Lane → Lane} {c : Ctx} {n : Nat} {l : Lane}
    (h : Executes s c i n l) (hexec : exec i s = localUnit i s fun c => guarded g (fun e l => .go (f c e l)) c)
    (hw : ∀ c e (l : Lane), l.wait = .none → (f c e l).wait = .none) (ht : i.transfer = false) :
    ∃ t, exec i s = .next t ∧
      c.laneIn t n = some ((if g.holds (l.started i c) then f c (c.env n) (l.started i c) else l.started i c).past c) := by
  rw [hexec, localUnit_congr (b := fun c => guarded g (fun e l => .go (f c e l)) c)
    (b' := guarded g fun e l => .go (f c e l)) h.inHand rfl]
  split
  case isTrue hg => exact guarded_go h hg rfl (hw _ _ _ (started_wait l i c)) ht
  case isFalse hg => exact guarded_off h (by simpa using hg) ht

/-- A word above the transfers is none, CENTER apart (R55). -/
theorem transfer_eq_false_of_base_ge {i : Instr} {b : Nat} (hb : i.base = some b) (hge : 0x2E * 2 ^ 26 ≤ b) (hne : b ≠ 0xBC000000) :
    i.transfer = false := by
  unfold Instr.transfer
  split
  case h_1 => exact absurd (Option.some.inj hb).symm hne
  case h_2 =>
    have hm : ¬ i.major ≤ 0x2D := by
      simp only [Instr.major, hb, Option.getD_some]
      omega
    simp [hm]

/-! ## Halves of a 64-bit register -/

theorem setWidth32_eq_ofNat {n : Nat} (x : BitVec n) : x.setWidth 32 = BitVec.ofNat 32 x.toNat :=
  BitVec.eq_of_toNat_eq (by simp)

theorem lo32_eq_ofNat (x : Word64) : lo32 x = BitVec.ofNat 32 x.toNat := rfl

theorem hi32_eq_ofNat (x : Word64) : hi32 x = BitVec.ofNat 32 (x.toNat / 2 ^ 32) :=
  BitVec.eq_of_toNat_eq (by simp [hi32, Nat.shiftRight_eq_div_pow])

theorem setLo_eq_ofNat (x : Word64) (w : Word) : setLo x w = BitVec.ofNat 64 (x.toNat / 2 ^ 32 * 2 ^ 32 + w.toNat) := by
  have hw := w.isLt
  unfold setLo setFld fld
  congr 1
  omega

theorem setHi_eq_ofNat (x : Word64) (w : Word) : setHi x w = BitVec.ofNat 64 (w.toNat * 2 ^ 32 + x.toNat % 2 ^ 32) := by
  have hw := w.isLt
  have hx := x.isLt
  unfold setHi setFld fld
  congr 1
  omega

theorem statusOf_eq_ofNat (a : Word) : statusOf a = BitVec.ofNat 32 (a.toNat % 2 ^ 8) := by
  apply BitVec.eq_of_toNat_eq
  have hmask : a.toNat &&& 255 = a.toNat % 2 ^ 8 := Nat.and_two_pow_sub_one_eq_mod a.toNat 8
  have hlt := a.isLt
  rw [statusOf, BitVec.toNat_and, BitVec.toNat_ofNat, show (0xFF : Word).toNat = 255 from rfl, hmask]
  omega

/-! ## Reading -/

/-- A lane with what a read of a special register gives: the value, and the latched halves. -/
def specialRead (s : State) (c : Ctx) (l : Lane) (n : Special) : Word × Vector Word 6 :=
  ((readSpecial s c l n).1, match (readSpecial s c l n).2 with
    | some (k, h) => l.hi.set k.val h
    | none => l.hi)

theorem exec_sread (x : OpSRead) (s : State) : exec (.sread x) s = localUnit (.sread x) s fun c => guarded x.g (fun _ l =>
    let (v, half) := readSpecial s c l x.n
    let l1 := match half with
      | some (k, h) => { l with hi := l.hi.set k.val h }
      | none => l
    .go (l1.setReg x.d v)) c := rfl

theorem exec_sread_eq (x : OpSRead) (s : State) : exec (.sread x) s = localUnit (.sread x) s fun c => guarded x.g (fun _ l =>
    .go { l with v := l.v.set (l.phys x.d).val (specialRead s c l x.n).1, hi := (specialRead s c l x.n).2 }) c := by
  rw [exec_sread]
  congr 1
  funext c
  congr 1
  funext e l
  unfold specialRead
  generalize readSpecial s c l x.n = r
  obtain ⟨v, half⟩ := r
  cases half <;> rfl

theorem stage_fields (w : Nat) : bvFld (BitVec.ofNat 32 w) 20 2 = w / 2 ^ 20 % 4 ∧ bvFld (BitVec.ofNat 32 w) 22 2 = w / 2 ^ 22 % 4 := by
  simp only [bvFld, fld, BitVec.toNat_ofNat]
  omega

theorem sread_lane (x : OpSRead) (s : State) (c : Ctx) (n : Nat) (l : Lane) (h : Executes s c (.sread x) n l) :
    let y := l.started (.sread x) c
    let r := specialRead s c y x.n
    ∃ t, exec (.sread x) s = .next t ∧ c.laneIn t n = some (
      (if x.g.holds y then ({ y with v := y.v.set (y.phys x.d).val r.1, hi := r.2 } : Lane) else y).past c) :=
  guarded_change h (exec_sread_eq x s) (fun _ _ _ hw => hw) (transfer_eq_false_of_base_ge rfl (by decide) (by decide))

/-! ## Writing -/

theorem exec_swrite_lane (x : OpSWrite) (hx : x.n.groupWide = false) (s : State) : exec (.swrite x) s =
    localUnit (.swrite x) s (guarded x.g fun e l => .go (writeSpecial l x.n (readSrc e l x.a))) :=
  if_neg (by rw [hx]; decide)

theorem exec_swrite_group (x : OpSWrite) (hx : x.n.groupWide = true) (s : State) : exec (.swrite x) s =
    groupUnit (.swrite x) s fun c s =>
      let a := match c.lanes.head? with
        | some n => readSrc (c.env n) (c.g.lane n) x.a
        | none => 0
      .go (s.modGroup c.core c.gi fun g => { g with cmask := clearMask x.n g.cmask a }) fun _ l => l :=
  if_pos hx

/-- What a lane's write of a special register leaves, in numbers (R136). -/
theorem writeSpecial_eq (l : Lane) (n : Special) (a : Word) : writeSpecial l n a = match n with
    | .status => { l with status := BitVec.ofNat 32 (a.toNat % 2 ^ 8) }
    | .sig0lo => { l with h0 := BitVec.ofNat 64 (l.h0.toNat / 2 ^ 32 * 2 ^ 32 + a.toNat) }
    | .sig0hi => { l with h0 := BitVec.ofNat 64 (a.toNat * 2 ^ 32 + l.h0.toNat % 2 ^ 32) }
    | .sig1lo => { l with h1 := BitVec.ofNat 64 (l.h1.toNat / 2 ^ 32 * 2 ^ 32 + a.toNat) }
    | .sig1hi => { l with h1 := BitVec.ofNat 64 (a.toNat * 2 ^ 32 + l.h1.toNat % 2 ^ 32) }
    | _ => l := by
  rw [← statusOf_eq_ofNat, ← setLo_eq_ofNat, ← setHi_eq_ofNat, ← setLo_eq_ofNat, ← setHi_eq_ofNat]
  cases n <;> rfl

theorem wait_writeSpecial (l : Lane) (n : Special) (a : Word) : (writeSpecial l n a).wait = l.wait := by
  have hstatus (w : Word) : ({ l with status := w } : Lane).wait = l.wait := rfl
  have hh0 (w : Word64) : ({ l with h0 := w } : Lane).wait = l.wait := rfl
  have hh1 (w : Word64) : ({ l with h1 := w } : Lane).wait = l.wait := rfl
  cases n with
  | status => exact hstatus _
  | sig0lo | sig0hi => exact hh0 _
  | sig1lo | sig1hi => exact hh1 _
  | _ => rfl

/-- A write of half of the candidate view mask clears bits of that half alone (R136). -/
theorem getLsbD_clearMask {n : Special} (hn : n = .cmaskLo ∨ n = .cmaskHi) (m : Word64) (a : Word) {k : Nat} (hk : k < 64) :
    (clearMask n m a).getLsbD k = (m.getLsbD k &&
      if n = .cmaskLo then 32 ≤ k || a.getLsbD k else k < 32 || a.getLsbD (k - 32)) := by
  have hhigh : (0xFFFFFFFF00000000 : Word64).getLsbD k = decide (32 ≤ k) := by
    revert k
    decide
  have hlow : (0xFFFFFFFF : Word64).getLsbD k = decide (k < 32) := by
    revert k
    decide
  rcases hn with rfl | rfl
  · rw [clearMask, BitVec.getLsbD_and, BitVec.getLsbD_or, hhigh]
    simp [hk]
  · rw [show clearMask .cmaskHi m a = m &&& ((0xFFFFFFFF : Word64) ||| a.setWidth 64 <<< 32) from rfl, BitVec.getLsbD_and,
      BitVec.getLsbD_or, hlow]
    by_cases h : k < 32 <;> simp [hk, h]

theorem swrite_cmask (x : OpSWrite) (s : State) (c : Ctx) (n : Nat) (ns : List Nat) (h : ExecutesOnce s c (.swrite x))
    (hn : c.lanes = n :: ns) (hx : x.n = .cmaskLo ∨ x.n = .cmaskHi) :
    ∃ t g, exec (.swrite x) s = .next t ∧ c.groupIn t = some g ∧
      g.cmask = clearMask x.n c.g.cmask (readSrc (c.env n) (c.g.lane n) x.a) ∧
      ∀ m ∈ c.lanes, ∀ l, c.g.lanes[m]? = some l →
        c.laneIn t m = some ((({ l with wait := .none } : Lane).chained (readsLatch (.swrite x) c)).past c) := by
  have hwide : x.n.groupWide = true := by rcases hx with hx | hx <;> rw [hx] <;> rfl
  have hg := context_group s c h.inHand
  let a := readSrc (c.env n) (c.g.lane n) x.a
  obtain ⟨t, ht, ⟨g, hgt, -, hmask, -⟩, hlanes⟩ := groupUnit_go
    (s1 := s.modGroup c.core c.gi fun g => { g with cmask := clearMask x.n g.cmask a })
    (body := fun c s =>
      let a := match c.lanes.head? with
        | some n => readSrc (c.env n) (c.g.lane n) x.a
        | none => 0
      .go (s.modGroup c.core c.gi fun g => { g with cmask := clearMask x.n g.cmask a }) fun _ l => l)
    (f := fun _ l => l) (g := { c.g with cmask := clearMask x.n c.g.cmask a }) h (by simp only [hn]; rfl)
    (by rw [State.group_modGroup, if_pos ⟨rfl, rfl⟩, hg]; rfl) h.noRvz h.noBar
  refine ⟨t, g, (exec_swrite_group x hwide s).trans ht, hgt, hmask, fun m hm l hl => ?_⟩
  rw [hlanes m hm l hl (by simp)]
  rfl

/-! ## The statement -/

/-- Settles O21: SREAD by `readSpecial`, register by register; SWRITE by `writeSpecial` in a lane and `clearMask` in a group. -/
theorem specialRegisters : Obligations.SpecialRegisters := by
  unfold Obligations.SpecialRegisters
  refine ⟨fun x s c n l h => ?sread, fun x hx => ?lane, fun x s c n ns h hn hx => ?group⟩
  case sread =>
    have hread := sread_lane x s c n l h
    obtain ⟨hmode, hrole⟩ := stage_fields (recStage c.r c.g.stage)
    cases hx : x.n <;> rw [hx] at hread <;> simp only [specialRead, readSpecial, lo32_eq_ofNat, hi32_eq_ofNat,
      setWidth32_eq_ofNat, hmode, hrole] at hread
    case seqLo => simpa only [BitVec.toNat_ofNat] using hread
    case timeLo => simpa only [BitVec.toNat_setWidth_of_le (show 56 ≤ 64 by decide)] using hread
    case energyLo =>
      convert hread using 8 <;> cases s.part c.t.part <;> rfl
    all_goals exact hread
  case lane =>
    have hwritten := changes_of (exec_swrite_lane x hx)
      (fun e l hw => (wait_writeSpecial l x.n (readSrc e l x.a)).trans hw)
      (transfer_eq_false_of_base_ge rfl (by decide) (by decide))
    rw [show (fun (e : Env) (l : Lane) => writeSpecial l x.n (readSrc e l x.a)) = _ from
      funext₂ fun e l => writeSpecial_eq l x.n (readSrc e l x.a)] at hwritten
    exact hwritten
  case group =>
    obtain ⟨t, g, ht, hg, hmask, hlanes⟩ := swrite_cmask x s c n ns h hn hx
    exact ⟨t, g, ht, hg, fun k hk => hmask ▸ getLsbD_clearMask hx _ _ hk, hlanes⟩

end Sys2Proof.Machine
end

section
/-!
PROOF. What no function on the machine does: each leaves the unit in hand as it is, and a canonical memory canonical
(`Keeps`, Laws/Keep.lean). One lemma per function of the model, by the branches of its definition. (DESIGN CHOICE, log 1.)
-/
namespace Sys2Proof.Machine

-- The proofs of this file run one after another: side by side they take the check's memory.
set_option Elab.async false
variable {s₀ s : State}

theorem Keeps.ite {c : Prop} [Decidable c] {a b : State} (ha : Keeps s₀ a) (hb : Keeps s₀ b) :
    Keeps s₀ (if c then a else b) := by
  split <;> assumption

theorem Keeps.fold {α : Type} {f : State → α → State} (kept : Keeps s₀ s) (l : List α)
    (hf : ∀ s a, Keeps s (f s a)) : Keeps s₀ (l.foldl f s) := kept.trans (Keeps.foldl f hf l s)

/-! ## Updates of other registers -/

theorem Keeps.same {t : State} (kept : Keeps s₀ s) (hm : t.mem = s.mem) (hi : t.issue = s.issue) : Keeps s₀ t :=
  kept.trans (.of_eq hm hi)

theorem Keeps.withTags (kept : Keeps s₀ s) (xs : List Tag) (ws : List TeamWrite) :
    Keeps s₀ { s with tags := xs, writes := ws } := kept.same rfl rfl

theorem Keeps.withoutDie (kept : Keeps s₀ s) (ks : List Cluster) (es : List Engine) (ps : List Part) :
    Keeps s₀ { s with clusters := ks, engines := es, parts := ps } := kept.same rfl rfl

theorem Keeps.withParts (kept : Keeps s₀ s) (ps : List Part) (n : Nat) :
    Keeps s₀ { s with parts := ps, draws := n } := kept.same rfl rfl

theorem Keeps.cleared (kept : Keeps s₀ s) (ks : List Cluster) (es : List Engine) (rs : List Request) :
    Keeps s₀ { s with clusters := ks, engines := es, requests := rs } := kept.same rfl rfl

theorem Keeps.withoutPart (kept : Keeps s₀ s) (ps : List Part) (xs : List Stream) (rs : List Reply) (ws : List TeamWrite) :
    Keeps s₀ { s with parts := ps, streams := xs, replies := rs, writes := ws } := kept.same rfl rfl

theorem Keeps.inCalendar (kept : Keeps s₀ s) (p : CalPhase) (n : Nat) :
    Keeps s₀ { s with phase := p, slotLen := n } := kept.same rfl rfl

theorem Keeps.slotStarts (kept : Keeps s₀ s) (n : Nat) (m : BitVec 96) :
    Keeps s₀ { s with phase := .slot, slotLen := n, slotEmpty := m } := kept.same rfl rfl

theorem Keeps.withKeys (kept : Keeps s₀ s) (n : Nat) (xs : List Stream) :
    Keeps s₀ { s with draws := n, streams := xs } := kept.same rfl rfl

theorem Keeps.withTime (kept : Keeps s₀ s) (b : Bool) (n : Nat) : Keeps s₀ { s with timeHad := b, timeOff := n } :=
  kept.same rfl rfl

theorem Keeps.withMem (kept : Keeps s₀ s) {m : Memory} (hm : s.mem.wf = true → m.wf = true) (n : Nat) :
    Keeps s₀ { s with draws := n, mem := m } := kept.trans ⟨hm, rfl⟩

theorem Keeps.cutOff (kept : Keeps s₀ s) (ds : List Nat) (r : Word64) :
    Keeps s₀ { s with cutDies := ds, ready0 := r } := kept.same rfl rfl

theorem Keeps.withReplies (kept : Keeps s₀ s) (rs : List Reply) : Keeps s₀ { s with replies := rs } := kept.same rfl rfl

theorem Keeps.withDeferred (kept : Keeps s₀ s) (ds : List Deferred) : Keeps s₀ { s with deferred := ds } := kept.same rfl rfl

theorem Keeps.withEnergyHi (kept : Keeps s₀ s) (e : Word) : Keeps s₀ { s with energyHi := e } := kept.same rfl rfl

theorem Keeps.withStreams_ (kept : Keeps s₀ s) (xs : List Stream) : Keeps s₀ { s with streams := xs } := kept.same rfl rfl

theorem Keeps.withRequests (kept : Keeps s₀ s) (rs : List Request) : Keeps s₀ { s with requests := rs } := kept.same rfl rfl

theorem Keeps.withEngines (kept : Keeps s₀ s) (es : List Engine) : Keeps s₀ { s with engines := es } := kept.same rfl rfl

theorem Keeps.withReady (kept : Keeps s₀ s) (r : Word64) : Keeps s₀ { s with ready0 := r } := kept.same rfl rfl

theorem Keeps.withDraws (kept : Keeps s₀ s) (n : Nat) : Keeps s₀ { s with draws := n } := kept.same rfl rfl

theorem Keeps.slewing (kept : Keeps s₀ s) (n : Nat) : Keeps s₀ { s with timeSlow := n } := kept.same rfl rfl

theorem Keeps.withSlotLen (kept : Keeps s₀ s) (n : Nat) : Keeps s₀ { s with slotLen := n } := kept.same rfl rfl

theorem Keeps.withTesting (kept : Keeps s₀ s) (xs : List (Nat × Option Nat × Record)) :
    Keeps s₀ { s with testing := xs } := kept.same rfl rfl

theorem Keeps.withTenants (kept : Keeps s₀ s) (xs : List Word64) : Keeps s₀ { s with tenants := xs } := kept.same rfl rfl

theorem Keeps.withSpdm (kept : Keeps s₀ s) (x : Spdm) : Keeps s₀ { s with spdm := x } := kept.same rfl rfl

theorem Keeps.inPhase (kept : Keeps s₀ s) (p : CalPhase) : Keeps s₀ { s with phase := p } := kept.same rfl rfl

theorem Keeps.withPorts (kept : Keeps s₀ s) (ps : List Port) : Keeps s₀ { s with ports := ps } := kept.same rfl rfl

theorem Keeps.withTimeOff (kept : Keeps s₀ s) (n : Nat) : Keeps s₀ { s with timeOff := n } := kept.same rfl rfl

theorem Keeps.withTimeHad (kept : Keeps s₀ s) (b : Bool) : Keeps s₀ { s with timeHad := b } := kept.same rfl rfl

theorem Keeps.withNextFence (kept : Keeps s₀ s) (n : Nat) : Keeps s₀ { s with nextFence := n } := kept.same rfl rfl

/-! ## Branches and folds -/

theorem Keeps.iteFst {α : Type} {c : Prop} [Decidable c] {a b : State × α} (ha : Keeps s₀ a.1) (hb : Keeps s₀ b.1) :
    Keeps s₀ (if c then a else b).1 := by
  split <;> assumption

theorem Keeps.foldFst {α β : Type} {f : State × β → α → State × β} {acc : State × β} (kept : Keeps s₀ acc.1) (l : List α)
    (hf : ∀ acc a, Keeps acc.1 (f acc a).1) : Keeps s₀ (l.foldl f acc).1 := by
  induction l generalizing acc with
  | nil => exact kept
  | cons a l ih => exact ih (kept.trans (hf acc a))

/-! ## Answers that carry a machine: it has kept memory and the unit in hand -/

/-- Of a request sent to a peer or to the host. -/
def Ask.Kept (s₀ : State) : Ask → Prop
  | .sent s => Keeps s₀ s
  | .wait => True
  | .unreachable => True

/-- Of a look at a slot of a mapped region. -/
def Touch.Kept (s₀ : State) : Touch → Prop
  | .hit _ s => Keeps s₀ s
  | .fill s => Keeps s₀ s
  | .hold s => Keeps s₀ s

/-- Of a lane's access. -/
def AccEnd.Kept (s₀ : State) : AccEnd → Prop
  | .done s _ _ => Keeps s₀ s
  | .fail _ => True
  | .dead _ _ => True
  | .log s _ => Keeps s₀ s
  | .hold s => Keeps s₀ s

/-- Of a push or a pop of the return stack. -/
def StackEnd.Kept (s₀ : State) : StackEnd → Prop
  | .ok s _ => Keeps s₀ s
  | .fail _ => True
  | .stay s => Keeps s₀ s
  | .wait s _ => Keeps s₀ s

/-- Of a look-up of a queue's record. -/
def QName.Kept (s₀ : State) : QName → Prop
  | .ok _ s => Keeps s₀ s
  | .wait s => Keeps s₀ s
  | .bad _ => True

/-- Of a task given up. -/
def TaskEnd.Kept (s₀ : State) : TaskEnd → Prop
  | .bad _ s => Keeps s₀ s
  | .wait => True
  | .done s => Keeps s₀ s

/-- Of what a group does with its unit. -/
def GroupEnd.Kept (s₀ : State) : GroupEnd → Prop
  | .go s _ => Keeps s₀ s
  | .fail _ => True
  | .retry s => Keeps s₀ s
  | .wait s _ => Keeps s₀ s

theorem Keeps.setCore (kept : Keeps s₀ s) (c : Core) : Keeps s₀ (s.setCore c) := kept.trans (keeps_setCore ..)

theorem Keeps.modTeam (kept : Keeps s₀ s) (c : Nat) (f : Team → Team) : Keeps s₀ (s.modTeam c f) :=
  kept.trans (keeps_modTeam ..)

theorem Keeps.modGroup (kept : Keeps s₀ s) (c g : Nat) (f : Group → Group) : Keeps s₀ (s.modGroup c g f) :=
  kept.trans (keeps_modGroup ..)

theorem Keeps.modLane (kept : Keeps s₀ s) (c g l : Nat) (f : Lane → Lane) : Keeps s₀ (s.modLane c g l f) :=
  kept.trans (keeps_modLane ..)

theorem Keeps.passOn (kept : Keeps s₀ s) (f : Core → Bool) : Keeps s₀ (s.passOn f) := kept.same rfl rfl

theorem Keeps.modPart (kept : Keeps s₀ s) (p : Nat) (f : Part → Part) : Keeps s₀ (s.modPart p f) :=
  kept.trans (keeps_modPart ..)

theorem Keeps.setCluster (kept : Keeps s₀ s) (c : Cluster) : Keeps s₀ (s.setCluster c) := kept.trans (keeps_setCluster ..)

theorem Keeps.setEngine (kept : Keeps s₀ s) (x : Engine) : Keeps s₀ (s.setEngine x) := kept.trans (keeps_setEngine ..)

theorem Keeps.moved (kept : Keeps s₀ s) : Keeps s₀ s.moved := kept.trans (keeps_moved ..)

theorem Keeps.served (kept : Keeps s₀ s) : Keeps s₀ s.served := kept.same rfl rfl

theorem Keeps.atTime (kept : Keeps s₀ s) (t : BitVec 56) : Keeps s₀ (s.atTime t) := kept.same rfl rfl

theorem Keeps.stamped (kept : Keeps s₀ s) : Keeps s₀ s.stamped := kept.trans (keeps_stamped ..)

theorem mem_insertEvent {e x : Source × (State → State)} (es : List (Source × (State → State))) (h : x ∈ insertEvent e es) :
    x = e ∨ x ∈ es := by
  induction es with
  | nil => simpa [insertEvent] using h
  | cons y ys ih =>
    unfold insertEvent at h
    split at h
    · simpa using h
    · rcases List.mem_cons.1 h with rfl | h
      · exact .inr List.mem_cons_self
      · exact (ih h).imp_right (List.mem_cons_of_mem _)

theorem mem_foldl_insertEvent {x : Source × (State → State)} (es xs : List (Source × (State → State)))
    (h : x ∈ es.foldl (fun xs e => insertEvent e xs) xs) : x ∈ es ∨ x ∈ xs := by
  induction es generalizing xs with
  | nil => exact .inr h
  | cons e es ih =>
    rcases ih _ h with h | h
    · exact .inl (List.mem_cons_of_mem _ h)
    · rcases mem_insertEvent xs h with rfl | h
      · exact .inl List.mem_cons_self
      · exact .inr h

/-- A fold whose steps keep for the members of its list. -/
theorem Keeps.fold_mem {α : Type} {f : State → α → State} (kept : Keeps s₀ s) (l : List α)
    (hf : ∀ a ∈ l, ∀ s, Keeps s (f s a)) : Keeps s₀ (l.foldl f s) := by
  induction l generalizing s with
  | nil => exact kept
  | cons a l ih => exact ih (kept.trans (hf a List.mem_cons_self s)) fun b hb => hf b (List.mem_cons_of_mem _ hb)

theorem Keeps.together (kept : Keeps s₀ s) (es : List (Source × (State → State))) (h : ∀ e ∈ es, ∀ s, Keeps s (e.2 s)) :
    Keeps s₀ (s.together es) :=
  kept.fold_mem _ fun e he => h e ((mem_foldl_insertEvent es [] he).resolve_right List.not_mem_nil)

theorem Keeps.postMgmt (kept : Keeps s₀ s) (r : Record) : Keeps s₀ (s.postMgmt r) := kept.trans (keeps_postMgmt ..)

theorem Keeps.reportIntegrity (kept : Keeps s₀ s) (before : List Part) : Keeps s₀ (s.reportIntegrity before) :=
  kept.fold _ fun _ _ => ((Keeps.refl _).postMgmt ..)

theorem Keeps.store (kept : Keeps s₀ s) (a : Nat) (bs : List Byte) : Keeps s₀ (s.store a bs) := kept.trans (keeps_store ..)

theorem Keeps.storeMask (kept : Keeps s₀ s) (a : Nat) (bs : List Byte) (ks : List Bool) : Keeps s₀ (s.storeMask a bs ks) :=
  kept.trans (keeps_storeMask ..)

theorem Keeps.markPoison (kept : Keeps s₀ s) (a n : Nat) : Keeps s₀ (s.markPoison a n) := kept.trans (keeps_markPoison ..)

theorem Keeps.carryPoison (kept : Keeps s₀ s) (src dst n : Nat) (mask : List Bool) :
    Keeps s₀ (s.carryPoison src dst n mask) := kept.trans (carryPoison_spec ..).1

theorem Keeps.zeroRange (kept : Keeps s₀ s) (a n : Nat) : Keeps s₀ (s.zeroRange a n) := kept.trans (keeps_zeroRange ..)

theorem Keeps.untag (kept : Keeps s₀ s) (k : Nat) : Keeps s₀ (s.untag k) := kept.trans (keeps_untag ..)

theorem Keeps.untagRange (kept : Keeps s₀ s) (a n : Nat) : Keeps s₀ (s.untagRange a n) := kept.trans (keeps_untagRange ..)

theorem Keeps.setTag (kept : Keeps s₀ s) (t : Tag) : Keeps s₀ (s.setTag t) := kept.trans (keeps_setTag ..)

theorem Keeps.cache (kept : Keeps s₀ s) (part va : Nat) (w : Walk) : Keeps s₀ (s.cache part va w) := kept.trans (keeps_cache ..)

theorem Keeps.devWrite (kept : Keeps s₀ s) (part va : Nat) (bs : List Byte) : Keeps s₀ (s.devWrite part va bs) :=
  kept.trans (devWrite_spec ..).1

theorem Keeps.enqueue (kept : Keeps s₀ s) (part : Nat) (r : Record) : Keeps s₀ (s.enqueue part r) :=
  kept.trans (enqueue_spec ..).1

theorem Keeps.postStamped (kept : Keeps s₀ s) (part : Nat) (r : Record) : Keeps s₀ (s.postStamped part r) :=
  kept.trans (keeps_postStamped ..)

theorem Keeps.post (kept : Keeps s₀ s) (part : Nat) (r : Record) : Keeps s₀ (s.post part r) := kept.trans (keeps_post ..)

theorem Keeps.postOwner (kept : Keeps s₀ s) (part : Option Nat) (r : Record) : Keeps s₀ (s.postOwner part r) :=
  kept.trans (keeps_postOwner ..)

theorem Keeps.errorReport (kept : Keeps s₀ s) (part : Option Nat) (unit : Nat) (corrected poisonedData : Bool) (loc : Nat) :
    Keeps s₀ (s.errorReport part unit corrected poisonedData loc) := kept.trans (keeps_errorReport ..)

theorem Keeps.reportCut (kept : Keeps s₀ s) (part a : Nat) (read : Bool) : Keeps s₀ (s.reportCut part a read) :=
  kept.trans (keeps_reportCut ..)

theorem Keeps.note (kept : Keeps s₀ s) (part seq team : Nat) (addrs : List Nat) :
    Keeps s₀ (s.note part seq team addrs) := kept.same rfl rfl

theorem Keeps.noteBy (kept : Keeps s₀ s) (core : Nat) (addrs : List Nat) : Keeps s₀ (s.noteBy core addrs) :=
  kept.trans (keeps_noteBy ..)

theorem Keeps.postFrozen (kept : Keeps s₀ s) (part : Nat) (r : Record) (target : Nat) :
    Keeps s₀ (s.postFrozen part r target) := kept.trans (keeps_postFrozen ..)

theorem Keeps.freezeCore (kept : Keeps s₀ s) (core part target : Nat) : Keeps s₀ (s.freezeCore core part target) :=
  kept.trans (keeps_freezeCore ..)

theorem Keeps.freezeEngine (kept : Keeps s₀ s) (die e part target : Nat) :
    Keeps s₀ (s.freezeEngine die e part target) := kept.trans (keeps_freezeEngine ..)

theorem Keeps.freezeQueues (kept : Keeps s₀ s) (cl part target : Nat) : Keeps s₀ (s.freezeQueues cl part target) :=
  kept.trans (keeps_freezeQueues ..)

theorem Keeps.tlpSeen (kept : Keeps s₀ s) (p : Part) : Keeps s₀ (s.tlpSeen p) := Keeps.ite (kept.same rfl rfl) kept

theorem Keeps.tlp (kept : Keeps s₀ s) (part target : Nat) (f : State → State) (hf : ∀ s, Keeps s (f s)) :
    Keeps s₀ (s.tlp part target f) := by
  unfold State.tlp
  split
  · exact kept
  · split
    · exact kept
    · split
      · exact ((kept.tlpSeen _).modPart ..).postFrozen ..
      · exact (kept.tlpSeen _).trans (hf _)

theorem Keeps.drawn (kept : Keeps s₀ s) (n : Nat) : Keeps s₀ (s.drawn n).2 := kept.same rfl rfl

theorem Keeps.modRegion (kept : Keeps s₀ s) (core id : Nat) (f : Region → Region) :
    Keeps s₀ (s.modRegion core id f) := kept.trans (keeps_modRegion ..)

theorem Keeps.astray (kept : Keeps s₀ s) (xs : List (Nat × Nat × Nat)) : Keeps s₀ (s.astray xs) :=
  kept.fold _ fun _ _ => ((Keeps.refl _).modRegion ..)

theorem Keeps.strayBytes (kept : Keeps s₀ s) (a n : Nat) : Keeps s₀ (s.strayBytes a n) := by
  unfold State.strayBytes
  split
  · exact kept
  · exact ((kept.drawn ..).store ..).astray ..

theorem Keeps.haltGroup (kept : Keeps s₀ s) (core g : Nat) (h : HaltWhy) : Keeps s₀ (s.haltGroup core g h) :=
  kept.trans (keeps_haltGroup ..)

theorem Keeps.fillSlot (kept : Keeps s₀ s) (part : Nat) : Keeps s₀ (s.fillSlot part) := by
  unfold State.fillSlot
  split
  · exact kept.modGroup ..
  · exact kept.modPart ..
  · exact kept

theorem Keeps.fillSlots (kept : Keeps s₀ s) (part n : Nat) : Keeps s₀ (s.fillSlots part n) := by
  induction n generalizing s with
  | zero => exact kept
  | succ n ih => exact ih (kept.fillSlot ..)

theorem Keeps.returnGroup (kept : Keeps s₀ s) (part slot : Nat) (skip : Bool) :
    Keeps s₀ (s.returnGroup part slot skip) := by
  unfold State.returnGroup
  dsimp only
  split
  · exact ((kept.modTeam ..).fillSlot ..).moved
  · exact ((kept.modPart ..).fillSlot ..).moved

theorem Keeps.modRec (kept : Keeps s₀ s) (cl no : Nat) (f : QRec → QRec) : Keeps s₀ (s.modRec cl no f) := kept.setCluster ..

theorem Keeps.putEntry (kept : Keeps s₀ s) (a : Nat) (e : List Word) : Keeps s₀ (s.putEntry a e) :=
  ((kept.store ..).untagRange ..).strayBytes ..

theorem Keeps.errorQueue (kept : Keeps s₀ s) (cl no : Nat) : Keeps s₀ (s.errorQueue cl no) := by
  unfold State.errorQueue
  split
  · exact kept
  · exact ((kept.modRec ..).fold _ fun _ _ => ((Keeps.refl _).modLane ..)).fold _ fun _ _ => ((Keeps.refl _).haltGroup ..)

theorem Keeps.assignTo (kept : Keeps s₀ s) (cl no : Nat) (ws : List Waiter) : Keeps s₀ (s.assignTo cl no ws) := by
  induction ws generalizing s with
  | nil => exact kept
  | cons w ws ih =>
    unfold State.assignTo
    split
    · exact kept
    · split
      · exact kept
      · split
        · exact kept.errorQueue ..
        · exact ih ((((kept.strayBytes ..).modRec ..).modLane ..).moved)

theorem Keeps.assign (kept : Keeps s₀ s) (cl no : Nat) : Keeps s₀ (s.assign cl no) := by
  unfold State.assign
  split
  · exact kept
  · exact kept.assignTo ..

theorem Keeps.closeQueue (kept : Keeps s₀ s) (cl no : Nat) : Keeps s₀ (s.closeQueue cl no) := by
  unfold State.closeQueue
  split
  · exact kept
  · exact ((kept.modRec ..).fold _ fun _ _ => ((Keeps.refl _).modLane ..)).moved

theorem Keeps.liveDown (kept : Keeps s₀ s) (cl no : Nat) : Keeps s₀ (s.liveDown cl no) := by
  unfold State.liveDown
  split
  · exact kept
  · exact Keeps.ite ((kept.modRec ..).closeQueue ..) (kept.modRec ..)

theorem Keeps.headerDown (kept : Keeps s₀ s) (home : Nat) : Keeps s₀ (s.headerDown home) :=
  ((Keeps.ite (((kept.strayBytes ..).store ..).store ..) ((kept.strayBytes ..).store ..)).untagRange ..).strayBytes ..

theorem Keeps.taskOver (kept : Keeps s₀ s) (home : Nat) : Keeps s₀ (s.taskOver home) := by
  unfold State.taskOver
  split
  · exact kept.liveDown ..
  · exact kept.headerDown ..

theorem Keeps.releaseTask (kept : Keeps s₀ s) (core g l : Nat) : Keeps s₀ (s.releaseTask core g l) := by
  unfold State.releaseTask
  split
  · exact kept
  · exact Keeps.ite ((kept.modLane ..).taskOver ..) kept

theorem Keeps.putField (kept : Keeps s₀ s) (a : Nat) (bs : List Byte) : Keeps s₀ (s.putField a bs) :=
  ((kept.store ..).untagRange ..).strayBytes ..

theorem Keeps.linkParks (kept : Keeps s₀ s) (r : QRec) (j n : Nat) : Keeps s₀ (s.linkParks r j n) := by
  induction n generalizing s j with
  | zero => exact kept
  | succ n ih => exact ih (kept.putField ..) _

theorem Keeps.putHome (kept : Keeps s₀ s) (no a : Nat) : Keeps s₀ (s.putHome no a) := kept.putField ..

theorem Keeps.writeHomes (kept : Keeps s₀ s) (r : QRec) : Keeps s₀ (s.writeHomes r) :=
  kept.fold _ fun _ _ => ((Keeps.refl _).putHome ..)

theorem Keeps.nameQueue (kept : Keeps s₀ s) {core part vw : Nat} {v : View}
    {e : QName} (he : s.nameQueue core part vw v = e) : e.Kept s₀ := by
  subst he
  unfold State.nameQueue
  split
  · exact trivial
  · dsimp only
    split
    · exact kept
    · split
      · split
        · exact trivial
        · split
          · exact kept.freezeQueues ..
          · exact kept.modRec ..
      · split
        · exact kept
        · split
          · exact trivial
          · split
            · exact trivial
            · split
              · exact trivial
              · exact ((Keeps.ite ((kept.strayBytes ..).linkParks ..) (kept.strayBytes ..)).writeHomes ..).setCluster ..

theorem Keeps.nameQueue_ok (kept : Keeps s₀ s) {core part vw : Nat} {v : View}
    {u : State} {k : Nat} (h : s.nameQueue core part vw v = .ok k u) : Keeps s₀ u := kept.nameQueue h

theorem Keeps.nameQueue_wait (kept : Keeps s₀ s) {core part vw : Nat} {v : View}
    {u : State} (h : s.nameQueue core part vw v = .wait u) : Keeps s₀ u := kept.nameQueue h

theorem Keeps.retire (kept : Keeps s₀ s) (cl : Nat) (r : QRec) : Keeps s₀ (s.retire cl r) :=
  Keeps.ite kept (Keeps.ite (((((kept.store ..).untagRange ..).strayBytes ..).setCluster ..).moved) (((kept.store ..).untagRange ..).strayBytes ..))

theorem Keeps.dropUser (kept : Keeps s₀ s) (core : Nat) : Keeps s₀ (s.dropUser core) := by
  unfold State.dropUser
  exact (kept.fold _ fun _ _ => by
      dsimp only
      split
      · exact (Keeps.refl _).modRec ..
      · exact (((Keeps.refl _).modRec ..).retire ..))

theorem Keeps.popLane (kept : Keeps s₀ s) (core g l no words vw : Nat) (d : Fin 64) :
    Keeps s₀ (s.popLane core g l no words vw d) := by
  unfold State.popLane
  dsimp only
  split
  · exact kept.releaseTask ..
  · exact Keeps.ite ((kept.releaseTask ..).modLane ..) ((((kept.releaseTask ..).modRec ..).modLane ..).assign ..)

theorem Keeps.placeAll (kept : Keeps s₀ s) (r : QRec) (n : Word) (es : List (List Word)) : Keeps s₀ (s.placeAll r n es) := by
  induction es generalizing s n with
  | nil => exact kept
  | cons e es ih => exact ih (kept.putEntry ..) _

theorem Keeps.requeue (kept : Keeps s₀ s) (cl : Nat) (r : QRec) (e : List Word) : Keeps s₀ (s.requeue cl r e) :=
  (kept.putEntry ..).modRec ..

theorem Keeps.putCell (kept : Keeps s₀ s) (a : Nat) (c : FCell) : Keeps s₀ (s.putCell a c) := (kept.store ..).untagRange ..

theorem Keeps.squash (kept : Keeps s₀ s) {cl a vw : Nat} {t : List Word}
    {e : TaskEnd} (he : s.squash cl a vw t = e) : e.Kept s₀ := by
  subst he
  unfold State.squash
  split
  · exact kept
  · split
    · exact kept
    · split
      · exact kept
      · dsimp only
        split
        · split
          · exact (kept.requeue ..).assign ..
          · exact trivial
        · split
          · exact kept.errorQueue ..
          · exact (((kept.strayBytes ..).putEntry ..).modRec ..).putCell ..

theorem Keeps.squash_bad (kept : Keeps s₀ s) {cl a vw : Nat} {t : List Word}
    {u : State} {e : Cause} (h : s.squash cl a vw t = .bad e u) : Keeps s₀ u := kept.squash h

theorem Keeps.squash_done (kept : Keeps s₀ s) {cl a vw : Nat} {t : List Word}
    {u : State} (h : s.squash cl a vw t = .done u) : Keeps s₀ u := kept.squash h

theorem Keeps.wake (kept : Keeps s₀ s) (cl no k n : Nat) : Keeps s₀ (s.wake cl no k n) := by
  induction n generalizing s k with
  | zero => cases k <;> exact kept
  | succ n ih =>
    cases k with
    | zero => exact kept
    | succ k =>
      unfold State.wake
      split
      · exact kept
      · have kept1 := fun a n => kept.strayBytes a n
        exact ih (Keeps.ite ((((kept1 _ _).requeue ..).putEntry ..).modRec ..) ((kept1 _ _).putEntry ..)) _

theorem Keeps.wakeReaders (kept : Keeps s₀ s) (a : Nat) (value : Word64) : Keeps s₀ (s.wakeReaders a value) := kept.same rfl rfl

theorem Keeps.fill (kept : Keeps s₀ s) {cl a vw : Nat} {value : Word64}
    {e : TaskEnd} (he : s.fill cl a vw value = e) : e.Kept s₀ := by
  subst he
  unfold State.fill
  dsimp only
  split
  · exact kept
  · split
    · exact kept
    · split
      · exact kept
      · split
        · exact kept.errorQueue ..
        · refine Keeps.moved ?_
          refine Keeps.wakeReaders ?_ ..
          split
          · exact ((kept.putCell ..).wake ..).assign ..
          · exact (((kept.putCell ..).wake ..).assign ..).retire ..

theorem Keeps.fill_bad (kept : Keeps s₀ s) {cl a vw : Nat} {value : Word64}
    {u : State} {e : Cause} (h : s.fill cl a vw value = .bad e u) : Keeps s₀ u := kept.fill h

theorem Keeps.fill_done (kept : Keeps s₀ s) {cl a vw : Nat} {value : Word64}
    {u : State} (h : s.fill cl a vw value = .done u) : Keeps s₀ u := kept.fill h

theorem Keeps.sent (kept : Keeps s₀ s) (part pkg port : Nat) : Keeps s₀ (s.sent part pkg port) := kept.trans (sent_spec ..).1

theorem Keeps.emit (kept : Keeps s₀ s) (port type : Nat) (bytes : List Byte) : Keeps s₀ (s.emit port type bytes) :=
  kept.same rfl rfl

theorem Keeps.sendFlit (kept : Keeps s₀ s) (port : Nat) (x : OutFlit) : Keeps s₀ (s.sendFlit port x) := kept.emit ..

theorem Keeps.sendOn (kept : Keeps s₀ s) (part pkg port : Nat) (x : OutFlit) : Keeps s₀ (s.sendOn part pkg port x) :=
  kept.trans (sendOn_spec ..).1

theorem Keeps.answer (kept : Keeps s₀ s) (r : Reply) : Keeps s₀ (s.answer r) := by
  unfold State.answer
  split
  · exact kept.sendOn ..
  · exact kept.same rfl rfl
  · exact kept

theorem Keeps.flushReplies (kept : Keeps s₀ s) : Keeps s₀ s.flushReplies :=
  (kept.withReplies _).fold _ fun _ _ => (Keeps.refl _).answer ..

theorem Keeps.addRequest (kept :
    Keeps s₀ s) (tag : Word) (toHost atomic : Bool) (pkg part : Nat) (addrs : List Nat) (x : ReqAgent) :
    Keeps s₀ (s.addRequest tag toHost atomic pkg part addrs x) := kept.same rfl rfl

theorem Keeps.request (kept :
    Keeps s₀ s) (type part pkg port : Nat) (stook : Bool) (body : List Byte) (addrs : List Nat) (x : ReqAgent) :
    Keeps s₀ (s.request type part pkg port stook body addrs x) := kept.trans (request_spec ..).1

theorem Keeps.askMore (kept : Keeps s₀ s) {part : Nat} {atomic : Option (List Byte)} {a n : Nat} {x : ReqAgent}
    {e : Ask} (he : s.askMore part atomic a n x = e) : e.Kept s₀ := by
  subst he
  unfold State.askMore
  split
  · split
    · exact kept.addRequest ..
    · exact trivial
  · split
    · exact trivial
    · exact trivial
    · split
      · exact kept.request ..
      · exact kept.fold _ fun _ _ => ((Keeps.refl _).request ..)

theorem Keeps.askMore_sent (kept : Keeps s₀ s) {part : Nat} {atomic : Option (List Byte)} {a n : Nat} {x : ReqAgent}
    {u : State} (h : s.askMore part atomic a n x = .sent u) : Keeps s₀ u := kept.askMore h

theorem Keeps.ask (kept : Keeps s₀ s) {part : Nat} {atomic : Option (List Byte)} {a n : Nat} {x : ReqAgent}
    {e : Ask} (he : s.ask part atomic a n x = e) : e.Kept s₀ := by
  subst he
  unfold State.ask
  split
  · exact kept
  · exact kept.askMore rfl

theorem Keeps.ask_sent (kept : Keeps s₀ s) {part : Nat} {atomic : Option (List Byte)} {a n : Nat} {x : ReqAgent}
    {u : State} (h : s.ask part atomic a n x = .sent u) : Keeps s₀ u := kept.ask h

theorem Keeps.backInvalidate (kept : Keeps s₀ s) (ls : List Nat) : Keeps s₀ (s.backInvalidate ls) :=
  kept.trans (backInvalidate_spec ..).1

theorem Keeps.writeHome (kept :
    Keeps s₀ s) (part : Nat) (x : ReqAgent) (a : Nat) (bs : List Byte) (mask : List Bool) (stook : Bool) :
    Keeps s₀ (s.writeHome part x a bs mask stook) := kept.trans (writeHome_spec ..).1

theorem Keeps.modSlot (kept : Keeps s₀ s) (core id k : Nat) (f : Slot → Slot) : Keeps s₀ (s.modSlot core id k f) :=
  kept.trans (keeps_modSlot ..)

theorem Keeps.setMask (kept : Keeps s₀ s) (core : Nat) (r : Region) (k o : Nat) (dirty : Bool) (n : Nat) :
    Keeps s₀ (s.setMask core r k o dirty n) := kept.trans (setMask_spec ..).1

theorem Keeps.homeStore (kept : Keeps s₀ s) (a : Nat) (bs : List Byte) : Keeps s₀ (s.homeStore a bs) :=
  (kept.store ..).untagRange ..

theorem Keeps.sendDirty (kept : Keeps s₀ s) (core : Nat) (r : Region) (k o : Nat) (home : Nat) (n : Nat) :
    Keeps s₀ (s.sendDirty core r k o home n) := kept.trans (sendDirty_spec ..).1

theorem Keeps.postTranslate (kept : Keeps s₀ s) (part : Nat) (r : Record) (x : XAgent) :
    Keeps s₀ (s.postTranslate part r x) := kept.trans (postTranslate_spec ..).1

theorem Keeps.joinWriteBack (kept : Keeps s₀ s) (part core id k : Nat) (grp : Option Nat) (pc : Word) (lanes : BitVec 64) :
    Keeps s₀ (s.joinWriteBack part core id k grp pc lanes) := kept.trans (joinWriteBack_spec ..).1

theorem Keeps.writeBack (kept :
    Keeps s₀ s) (core : Nat) (r : Region) (k : Nat) (grp : Option Nat) (pc : Word) (lanes : BitVec 64) :
    Keeps s₀ (s.writeBack core r k grp pc lanes).1 := kept.trans (writeBack_spec ..).1

theorem Keeps.writeBackRegion (kept : Keeps s₀ s) (core id : Nat) (grp : Option Nat) (pc : Word) (lanes : BitVec 64)
    (k n : Nat) : Keeps s₀ (s.writeBackRegion core id grp pc lanes k n).1 := kept.trans (writeBackRegion_spec ..).1

theorem Keeps.writeBackAll (kept : Keeps s₀ s) (core : Nat) (grp : Option Nat) (pc : Word) (lanes : BitVec 64)
    (rs : List Region) : Keeps s₀ (s.writeBackAll core grp pc lanes rs).1 := kept.trans (writeBackAll_spec ..).1

theorem Keeps.flushTeam (kept : Keeps s₀ s) (core : Nat) (grp : Option Nat) (pc : Word) (lanes : BitVec 64) :
    Keeps s₀ (s.flushTeam core grp pc lanes).1 := kept.trans (flushTeam_spec ..).1

theorem Keeps.dropFills (kept : Keeps s₀ s) (core : Nat) (mine : Nat → Bool) : Keeps s₀ (s.dropFills core mine) :=
  kept.same rfl rfl

theorem Keeps.invalidate (kept : Keeps s₀ s) (core : Nat) : Keeps s₀ (s.invalidate core) := (kept.dropFills ..).modTeam ..

theorem Keeps.touch (kept : Keeps s₀ s) {core id va : Nat} {grp : Nat} {pc : Word} {lane : Nat}
    {e : Touch} (he : s.touch core id va grp pc lane = e) : e.Kept s₀ := by
  subst he
  unfold State.touch
  split
  · exact kept
  · dsimp only
    split
    · split
      · exact kept
      · exact kept
    · split
      · split
        · exact kept
        · exact kept
      · split
        · exact (kept.writeBack ..).modSlot ..
        · split
          · exact kept.writeBack ..
          · exact kept.writeBack ..

theorem Keeps.landPart (kept : Keeps s₀ s) (core id k o : Nat) (bytes : List Byte) (bad : Bool) :
    Keeps s₀ (s.landPart core id k o bytes bad) := by
  unfold State.landPart
  split
  · exact kept
  · exact Keeps.ite ((kept.homeStore ..).markPoison ..) (kept.homeStore ..)

theorem Keeps.landEnd (kept : Keeps s₀ s) (core id k g : Nat) : Keeps s₀ (s.landEnd core id k g) := by
  unfold State.landEnd
  split
  · exact kept
  · exact (((kept.store ..).modSlot ..).modRegion ..).moved

theorem Keeps.landFill (kept : Keeps s₀ s) (core id k g : Nat) (bytes : List Byte) (bad : Bool) :
    Keeps s₀ (s.landFill core id k g bytes bad) := (kept.landPart ..).landEnd ..

theorem Keeps.fillSlotNow (kept : Keeps s₀ s) (core id k : Nat) : Keeps s₀ (s.fillSlotNow core id k).1 := by
  unfold State.fillSlotNow
  split
  · split
    · exact kept
    · dsimp only
      split
      · exact kept
      · split
        · split
          · exact kept
          · split
            · exact kept.freezeCore ..
            · exact kept.postTranslate ..
        · split
          · split
            · exact ((kept.modSlot ..).ask_sent ‹_›).cache ..
            · exact kept
            · exact (kept.modSlot ..).landFill ..
          · split
            · exact kept
            · exact ((((kept.modSlot ..).cache ..).landFill ..).carryPoison ..).reportCut ..
  · exact kept

theorem Keeps.cleanLines (kept : Keeps s₀ s) (core id va n home : Nat) : Keeps s₀ (s.cleanLines core id va n home) := by
  unfold State.cleanLines
  split
  · exact kept
  · exact Keeps.ite ((kept.sendDirty ..).setMask ..) (((kept.sendDirty ..).setMask ..).modSlot ..)

theorem Keeps.modCells (kept : Keeps s₀ s) (core : Nat) (t : Team) (f : Nat → BarCell → BarCell) :
    Keeps s₀ (s.modCells core t f) := kept.trans (keeps_modCells ..)

theorem Keeps.arriveBarc (kept : Keeps s₀ s) (core : Nat) (left : Copy → Nat) : Keeps s₀ (s.arriveBarc core left) :=
  kept.trans (keeps_arriveBarc ..)

theorem Keeps.writeBitmap (kept : Keeps s₀ s) (part seq team : Nat) (ended : Bool) :
    Keeps s₀ (s.writeBitmap part seq team ended) := kept.trans (writeBitmap_spec ..).1

theorem Keeps.setTrig (kept : Keeps s₀ s) (part seq team : Nat) : Keeps s₀ (s.setTrig part seq team) :=
  kept.trans (setTrig_spec ..).1

theorem Keeps.setEnd (kept : Keeps s₀ s) (part seq team : Nat) : Keeps s₀ (s.setEnd part seq team) :=
  kept.trans (setEnd_spec ..).1

theorem Keeps.triggerTeam (kept : Keeps s₀ s) (core : Nat) (grp : Option Nat) (pc : Word) (lanes : BitVec 64) :
    Keeps s₀ (s.triggerTeam core grp pc lanes).1 := kept.trans (triggerTeam_spec ..).1

theorem Keeps.afterEnds (kept : Keeps s₀ s) (core : Nat) (left : Copy → Nat) : Keeps s₀ (s.afterEnds core left) :=
  kept.trans (keeps_afterEnds ..)

theorem Keeps.releaseTasks (kept : Keeps s₀ s) (core : Nat) : Keeps s₀ (s.releaseTasks core) := by
  unfold State.releaseTasks
  split
  · exact kept
  · exact kept.fold _ fun _ _ => ((Keeps.refl _).releaseTask ..)

theorem Keeps.dropRequests (kept : Keeps s₀ s) (core : Nat) : Keeps s₀ (s.dropRequests core) := kept.same rfl rfl

theorem Keeps.dropBulk (kept : Keeps s₀ s) (core : Nat) (t : Team) : Keeps s₀ (s.dropBulk core t) := kept.same rfl rfl

theorem Keeps.killTeam (kept : Keeps s₀ s) (core : Nat) : Keeps s₀ (s.killTeam core) := by
  unfold State.killTeam
  split
  · exact kept
  · split
    · exact kept
    · exact ((((((kept.releaseTasks ..).dropBulk ..).modPart ..).dropRequests ..).modTeam ..).fillSlots ..).moved





theorem Keeps.allPast (kept : Keeps s₀ s) (i : Instr) (c : Ctx) (f : Nat → Lane → Lane) :
    Keeps s₀ (s.allPast i c f) := kept.modGroup ..

theorem Keeps.sign (kept : Keeps s₀ s) (a n core group lane : Nat) : Keeps s₀ (s.sign a n core group lane) := by
  unfold State.sign
  split
  · exact kept
  · exact Keeps.ite (kept.same rfl rfl) kept

theorem Keeps.writeTag (kept : Keeps s₀ s) (a : Nat) (scope : Scope) (core group lane : Nat) :
    Keeps s₀ (s.writeTag a scope core group lane) := kept.setTag ..

theorem Keeps.force (kept : Keeps s₀ s) (x : Inst) (scope : Nat) : Keeps s₀ (s.force x scope).1 := by
  unfold State.force
  split
  · exact kept
  · exact kept.foldFst _ fun _ _ => ((Keeps.refl _).flushTeam ..)

theorem Keeps.acquireAt (kept : Keeps s₀ s) (w : Who) (i : Instr) (hs : List Hint) (a n : Nat) :
    Keeps s₀ (s.acquireAt w i hs a n).1 := by
  unfold State.acquireAt
  split
  · exact kept
  · split
    · exact kept
    · split
      · exact kept
      · exact kept
      · exact (kept.untag ..).errorReport ..
      · exact kept.force ..

theorem Keeps.faultLog (kept : Keeps s₀ s) (w : Who) (no vw va cause stage : Nat) (write : Bool) :
    Keeps s₀ (s.faultLog w no vw va cause stage write) := by
  unfold State.faultLog
  split
  · exact kept
  · exact Keeps.ite kept (Keeps.ite (kept.freezeCore ..) (kept.postTranslate ..))

theorem Keeps.perform (kept :
    Keeps s₀ s) {w : Who} {i : Instr} {hs : List Hint} {a : Nat} {data : List Word} {ans : Option (List Byte × Bool)}
    {e : AccEnd} (he : s.perform w i hs a data ans = e) : e.Kept s₀ := by
  subst he
  unfold State.perform
  dsimp only
  split
  · split
    · exact trivial
    · exact trivial
  · split
    · exact kept.acquireAt ..
    · split
      · refine Keeps.reportCut ?_ ..
        split
        · exact kept.acquireAt ..
        · refine Keeps.noteBy ?_ ..
          refine Keeps.sign ?_ ..
          split
          · exact ((kept.acquireAt ..).store ..).writeTag ..
          · exact (kept.acquireAt ..).store ..
          · exact (kept.acquireAt ..).homeStore ..
      · split
        · exact kept.acquireAt ..
        · refine Keeps.noteBy ?_ ..
          refine Keeps.sign ?_ ..
          split
          · exact ((kept.acquireAt ..).store ..).writeTag ..
          · exact (kept.acquireAt ..).store ..
          · exact (kept.acquireAt ..).homeStore ..

theorem Keeps.perform_done (kept :
    Keeps s₀ s) {w : Who} {i : Instr} {hs : List Hint} {a : Nat} {data : List Word} {ans : Option (List Byte × Bool)}
    {u : State} {out : List Word} {fl : Word} (h : s.perform w i hs a data ans = .done u out fl) : Keeps s₀ u := kept.perform h

theorem Keeps.perform_log (kept :
    Keeps s₀ s) {w : Who} {i : Instr} {hs : List Hint} {a : Nat} {data : List Word} {ans : Option (List Byte × Bool)}
    {u : State} {ds : List Word} (h : s.perform w i hs a data ans = .log u ds) : Keeps s₀ u := kept.perform h

theorem Keeps.perform_hold (kept :
    Keeps s₀ s) {w : Who} {i : Instr} {hs : List Hint} {a : Nat} {data : List Word} {ans : Option (List Byte × Bool)}
    {u : State} (h : s.perform w i hs a data ans = .hold u) : Keeps s₀ u := kept.perform h

theorem Keeps.beforeOrder (kept : Keeps s₀ s) (w : Who) (i : Instr) (hs : List Hint) (space : Nat) :
    Keeps s₀ (s.beforeOrder w i hs space).1 := by
  unfold State.beforeOrder
  dsimp only
  split
  · exact kept.flushTeam ..
  · exact kept

theorem Keeps.afterOrder (kept : Keeps s₀ s) (w : Who) (i : Instr) (hs : List Hint) :
    Keeps s₀ (s.afterOrder w i hs) := by
  unfold State.afterOrder
  split
  · exact Keeps.ite (kept.invalidate ..) kept
  · exact kept

theorem AccEnd.Kept.ordered {e : AccEnd} (kept : e.Kept s₀) (w : Who) (i : Instr) (hs : List Hint) :
    (e.ordered w i hs).Kept s₀ := by
  cases e with
  | done s out fl => exact Keeps.afterOrder kept ..
  | fail => trivial
  | dead => trivial
  | log => exact kept
  | hold => exact kept

theorem AccEnd.Kept.named {e : AccEnd} (kept : e.Kept s₀) (vw : Nat) : (e.named vw).Kept s₀ := by
  cases e with
  | fail c => cases c <;> trivial
  | done => exact kept
  | dead => trivial
  | log => exact kept
  | hold => exact kept

theorem Keeps.mirror (kept : Keeps s₀ s) (core id va data : Nat) (bs : List Byte) :
    Keeps s₀ (s.mirror core id va data bs) := by
  unfold State.mirror
  split
  · exact kept
  · exact (kept.homeStore ..).setMask ..

theorem Keeps.atHome (kept :
    Keeps s₀ s) {w : Who} {i : Instr} {hs : List Hint} {vw id va data : Nat} {ws : List Word} {no : Nat} {ans : Option (List Byte × Bool)}
    {e : AccEnd} (he : s.atHome w i hs vw id va data ws no ans = e) : e.Kept s₀ := by
  subst he
  unfold State.atHome
  dsimp only
  split
  · exact kept
  · split
    · exact kept.faultLog ..
    · split
      · exact kept
      · split
        · exact kept
        · split
          · split
            · exact ((kept.cleanLines ..).perform_done ‹_›).mirror ..
            · exact trivial
            · exact trivial
            · exact (kept.cleanLines ..).perform_log ‹_›
            · exact (kept.cleanLines ..).perform_hold ‹_›
          · split
            · exact (((kept.cleanLines ..).writeHome ..).noteBy ..).mirror ..
            · split
              · exact (kept.cleanLines ..).ask_sent ‹_›
              · exact kept.cleanLines ..
              · exact trivial

theorem Keeps.inSlot (kept : Keeps s₀ s) {w : Who} {i : Instr} {vw id va data : Nat} {ws : List Word}
    {e : AccEnd} (he : s.inSlot w i vw id va data ws = e) : e.Kept s₀ := by
  subst he
  unfold State.inSlot
  dsimp only
  split
  · split
    · exact trivial
    · exact kept
  · split
    · exact kept
    · exact ((kept.homeStore ..).setMask ..).modSlot ..

theorem Keeps.codeAccess (kept : Keeps s₀ s) {w : Who} {i : Instr} {hs : List Hint} {vw va no : Nat} {ws : List Word}
    {e : AccEnd} (he : s.codeAccess w i hs vw va no ws = e) : e.Kept s₀ := by
  subst he
  unfold State.codeAccess
  split
  · exact kept
  · dsimp only
    split
    · exact kept.faultLog ..
    · split
      · exact kept.perform rfl
      · exact kept

theorem Keeps.performStray (kept :
    Keeps s₀ s) {w : Who} {i : Instr} {hs : List Hint} {a : Nat} {ws : List Word} {xs : List (Nat × Nat × Nat)}
    {e : AccEnd} (he : s.performStray w i hs a ws xs = e) : e.Kept s₀ := by
  subst he
  unfold State.performStray
  exact (((kept.drawn ..).drawn ..).astray ..).perform rfl

theorem Keeps.pldSections (w : Who) (i : Instr) (hs : List Hint) (vw : Nat) (v : View) (id : Nat) (cs : List Nat) (no m : Nat)
    (kept : Keeps s₀ s) (ws : List Word) (ans : Option (List Byte × Bool)) (k : Nat) :
    (s.pldSections w i hs vw v id cs no ws ans k m).Kept s₀ := by
  induction m generalizing s ws ans k with
  | zero => exact kept
  | succ m ih =>
    unfold State.pldSections
    split
    · exact ih kept _ _ _
    · dsimp only
      split
      · exact kept.touch ‹_›
      · exact kept.touch ‹_›
      · next data s1 ht =>
        have kept1 : Keeps s₀ s1 := kept.touch ht
        have kept2 := fun r => kept1.cleanLines w.core id (v.granuleAt cs k) (granuleBytes k) r
        split
        · split
          · trivial
          · exact ih kept1 _ _ _
        · split
          · exact kept1
          · split
            · exact kept1.faultLog ..
            · split
              · exact kept1
              · split
                · exact kept1
                · split
                  · split
                    · trivial
                    · exact ih ((kept2 _).mirror ..) _ _ _
                  · split
                    · split
                      · exact (kept2 _).ask ‹_›
                      · exact kept2 _
                      · trivial
                    · split
                      · trivial
                      · split
                        · trivial
                        · exact ih ((kept2 _).mirror ..) _ _ _

theorem Keeps.pld (kept : Keeps s₀ s) {w : Who} {i : Instr} {hs : List Hint} {vw : Nat} {v : View} {cs : List Nat} {no : Nat}
    {ws : List Word} {ans : Option (List Byte × Bool)} {e : AccEnd} (he : s.pld w i hs vw v cs no ws ans = e) : e.Kept s₀ := by
  subst he
  unfold State.pld
  split
  · trivial
  · split
    · split
      · exact kept
      · split
        · trivial
        · split
          · exact kept.freezeCore ..
          · split
            · trivial
            · have kept1 := fun a => kept.acquireAt w i hs a 50
              dsimp only
              split
              · split
                · exact kept1 _
                · exact ((kept1 _).drawn ..).astray ..
              · exact kept1 _
    · split
      · trivial
      · exact Keeps.pldSections _ _ _ _ _ _ _ _ _ kept ..

theorem Keeps.access (kept : Keeps s₀ s) {w : Who} {i : Instr} {hs : List Hint} {vw : Nat} {v : View} {coords ws : List Word}
    {no : Nat} {ans : Option (List Byte × Bool)} {e : AccEnd} (he : s.access w i hs vw v coords ws no ans = e) :
    e.Kept s₀ := by
  subst he
  have kept0 : Keeps s₀ (s.beforeOrder w i hs v.space).1 := kept.beforeOrder ..
  unfold State.access
  dsimp only
  split
  · split
    · exact (kept0.pld rfl).ordered ..
    · exact kept0
  · split
    · trivial
    · trivial
    · split
      · trivial
      · split
        · exact kept0
        · split
          · exact ((kept0.codeAccess rfl).named _).ordered ..
          · split
            · split
              · exact kept0
              · split
                · trivial
                · split
                  · exact kept0.freezeCore ..
                  · split
                    · exact ((kept0.perform rfl).named _).ordered ..
                    · exact ((kept0.performStray rfl).named _).ordered ..
            · split
              · exact kept0.touch ‹_›
              · exact kept0.touch ‹_›
              · next data s1 ht =>
                have kept1 : Keeps s₀ s1 := kept0.touch ht
                split
                · exact ((kept1.atHome rfl).named _).ordered ..
                · exact kept1.inSlot rfl

theorem Keeps.access_done (kept :
    Keeps s₀ s) {w : Who} {i : Instr} {hs : List Hint} {vw : Nat} {v : View} {coords ws : List Word} {no : Nat} {ans : Option (List Byte × Bool)}
    {u : State} {out : List Word} {fl : Word} (h : s.access w i hs vw v coords ws no ans = .done u out fl) : Keeps s₀ u := kept.access h

theorem Keeps.access_log (kept :
    Keeps s₀ s) {w : Who} {i : Instr} {hs : List Hint} {vw : Nat} {v : View} {coords ws : List Word} {no : Nat} {ans : Option (List Byte × Bool)}
    {u : State} {ds : List Word} (h : s.access w i hs vw v coords ws no ans = .log u ds) : Keeps s₀ u := kept.access h

theorem Keeps.access_hold (kept :
    Keeps s₀ s) {w : Who} {i : Instr} {hs : List Hint} {vw : Nat} {v : View} {coords ws : List Word} {no : Nat} {ans : Option (List Byte × Bool)}
    {u : State} (h : s.access w i hs vw v coords ws no ans = .hold u) : Keeps s₀ u := kept.access h

theorem Keeps.atPort (kept : Keeps s₀ s) (c : Ctx) : Keeps s₀ (s.atPort c) := kept.modGroup ..

theorem Keeps.logLane (kept : Keeps s₀ s) (c : Ctx) (i : Instr) (vw : Nat) (v : View) (dests : List (Fin 64)) (x : LaneAccess) :
    Keeps s₀ (s.logLane c i vw v dests x) := by
  unfold State.logLane
  split
  · exact kept.modGroup ..
  · exact (kept.modGroup ..).same rfl rfl

theorem Keeps.memBody (kept : Keeps s₀ s) (i : Instr) (g : Guard) (vw : Nat) (c : Ctx) (n : Nat) (l : Lane) :
    Keeps s₀ (memBody i g vw c s n l).1 := by
  unfold Machine.memBody
  split
  · exact kept
  · split
    · exact kept
    · dsimp only
      split
      · exact kept
      · split
        · exact kept
        · exact kept.reportCut ..
        · exact kept.access_hold ‹_›
        · split
          · exact (kept.access_log ‹_›).logLane ..
          · exact kept.atPort ..
        · split
          · exact kept.access_done ‹_›
          · exact kept.access_done ‹_›

theorem Keeps.push (kept : Keeps s₀ s) {c : Ctx} {n : Nat} {l : Lane} {ret : Word}
    {e : StackEnd} (he : s.push c n l ret = e) : e.Kept s₀ := by
  subst he
  unfold State.push
  split
  · exact kept
  · split
    · exact trivial
    · dsimp only
      split
      · exact trivial
      · split
        · exact trivial
        · split
          · exact kept
          · split
            · exact trivial
            · exact trivial
            · exact kept.access_hold ‹_›
            · split
              · exact (kept.access_log ‹_›).logLane ..
              · exact kept.atPort ..
            · exact kept.access_done ‹_›

theorem Keeps.pop (kept : Keeps s₀ s) {i : Instr} {c : Ctx} {n : Nat} {l : Lane}
    {e : StackEnd} (he : s.pop i c n l = e) : e.Kept s₀ := by
  subst he
  unfold State.pop
  split
  · exact kept
  · split
    · exact trivial
    · dsimp only
      split
      · exact trivial
      · split
        · exact trivial
        · split
          · exact kept
          · split
            · exact trivial
            · exact trivial
            · exact kept.access_hold ‹_›
            · split
              · exact (kept.access_log ‹_›).logLane ..
              · exact kept.atPort ..
            · exact kept.access_done ‹_›

theorem Keeps.pop_ok (kept : Keeps s₀ s) {i : Instr} {c : Ctx} {n : Nat} {l : Lane}
    {u : State} {l' : Lane} (h : s.pop i c n l = .ok u l') : Keeps s₀ u := kept.pop h

theorem Keeps.pop_stay (kept : Keeps s₀ s) {i : Instr} {c : Ctx} {n : Nat} {l : Lane}
    {u : State} (h : s.pop i c n l = .stay u) : Keeps s₀ u := kept.pop h

theorem Keeps.pop_wait (kept : Keeps s₀ s) {i : Instr} {c : Ctx} {n : Nat} {l : Lane}
    {u : State} {l' : Lane} (h : s.pop i c n l = .wait u l') : Keeps s₀ u := kept.pop h

theorem Keeps.failLogged (kept : Keeps s₀ s) (core gi no kind detail : Nat) (lanes : List Nat) :
    Keeps s₀ (s.failLogged core gi no kind detail lanes) := by
  unfold State.failLogged
  split
  · exact kept
  · split
    · exact kept
    · exact Keeps.ite (kept.fold _ fun _ _ => (((Keeps.refl _).modLane ..).modGroup ..)) (((kept.fold _ fun _ _ => (((Keeps.refl _).modLane ..).modGroup ..)).modGroup ..).haltGroup ..)

theorem Keeps.replayOne (kept : Keeps s₀ s) (core gi no lane : Nat) (ans : Option (List Byte × Bool)) :
    Keeps s₀ (s.replayOne core gi no lane ans).1 := by
  unfold State.replayOne
  split
  · exact kept
  · split
    · exact kept
    · split
      · exact kept
      · split
        · exact kept
        · dsimp only
          split
          · exact kept.access_hold ‹_›
          · exact (kept.access_log ‹_›).modGroup ..
          · exact kept
          · exact kept.reportCut ..
          · exact (((kept.access_done ‹_›).modLane ..).modGroup ..).moved

theorem Keeps.replayFails (kept : Keeps s₀ s) (core gi no : Nat) (fails : List (Nat × Cause)) :
    Keeps s₀ (s.replayFails core gi no fails) := by
  unfold State.replayFails
  split
  · exact kept
  · exact kept.failLogged ..

theorem Keeps.replayLane (kept : Keeps s₀ s) (core gi no lane : Nat) (ans : Option (List Byte × Bool)) :
    Keeps s₀ (s.replayLane core gi no lane ans) := (kept.replayOne ..).replayFails ..

theorem Keeps.replayEntry (kept : Keeps s₀ s) (core gi : Nat) (e : LogEntry) : Keeps s₀ (s.replayEntry core gi e) := by
  refine Keeps.replayFails (Keeps.foldFst kept _ fun acc x => ?_) ..
  exact (Keeps.refl acc.1).replayOne ..

theorem Keeps.replayGroup (kept : Keeps s₀ s) (core gi : Nat) : Keeps s₀ (s.replayGroup core gi) := by
  unfold State.replayGroup
  split
  · exact kept
  · exact kept.fold _ fun _ _ => ((Keeps.refl _).replayEntry ..)

theorem Keeps.replayTeam (kept : Keeps s₀ s) (core : Nat) : Keeps s₀ (s.replayTeam core) := by
  unfold State.replayTeam
  split
  · exact kept
  · exact kept.fold _ fun _ _ => ((Keeps.refl _).replayGroup ..)

theorem Keeps.callBody (kept : Keeps s₀ s) (g : Guard) (target : Ctx → Env → Lane → Word) (check : Bool) (c : Ctx) (n : Nat)
    (l : Lane) : Keeps s₀ (Machine.callBody g target check c s n l).1 := by
  unfold Machine.callBody
  split
  · exact kept
  · dsimp only
    split
    · exact kept
    · next h => exact kept.push h
    · next h => exact kept.push h
    · next h => exact Keeps.iteFst kept (kept.push h)

theorem Keeps.setView (kept : Keeps s₀ s) (core : Nat) (vw : Fin 64) (v : View) : Keeps s₀ (s.setView core vw v) :=
  kept.modTeam ..

theorem Keeps.storesDone (kept : Keeps s₀ s) (c : Ctx) (n : Nat) (scope : Scope) :
    Keeps s₀ (s.storesDone c n scope).1 := by
  unfold State.storesDone
  split
  · exact kept
  · split
    · exact kept
    · exact kept.flushTeam ..

theorem Keeps.dropMarkers (kept : Keeps s₀ s) (core id : Nat) : Keeps s₀ (s.dropMarkers core id) :=
  (kept.modTeam ..).same rfl rfl

theorem Keeps.settleFence (kept : Keeps s₀ s) (core gi : Nat) : Keeps s₀ (s.settleFence core gi) := by
  unfold State.settleFence
  split
  · exact kept
  · split
    · exact kept
    · split
      · exact Keeps.ite (((kept.dropMarkers ..).modGroup ..).moved) kept
      · exact kept

theorem Keeps.settleFences (kept : Keeps s₀ s) : Keeps s₀ s.settleFences :=
  kept.fold _ fun _ _ => ((Keeps.refl _).settleFence ..)

theorem Keeps.settled (kept : Keeps s₀ s) (core : Nat) : Keeps s₀ (s.settled core) := (kept.settleFences.afterEnds ..).moved

theorem Keeps.modHandle (kept : Keeps s₀ s) (core h : Nat) (f : Handle → Handle) : Keeps s₀ (s.modHandle core h f) :=
  kept.modTeam ..

theorem Keeps.unitStore (kept : Keeps s₀ s) (a : Nat) (bs : List Byte) : Keeps s₀ (s.unitStore a bs) :=
  (kept.store ..).untagRange ..

theorem Keeps.settleHandle (kept : Keeps s₀ s) (core h : Nat) : Keeps s₀ (s.settleHandle core h) := by
  unfold State.settleHandle
  split
  · exact kept
  · split
    · refine Keeps.moved ?_
      refine Keeps.modTeam ?_ ..
      split
      · exact kept.modHandle ..
      · exact (kept.modHandle ..).stamped.unitStore ..
    · exact kept

theorem Keeps.addHome (kept : Keeps s₀ s) (c : Copy) (x : Nat × List Byte) : Keeps s₀ (s.addHome c x) := by
  unfold State.addHome
  split
  · exact kept.fold _ fun _ _ => ((Keeps.refl _).request ..)
  · exact kept

theorem Keeps.putRun (kept : Keeps s₀ s) (c : Copy) (r : Nat × List Byte) : Keeps s₀ (s.putRun c r) :=
  ((Keeps.ite (kept.writeHome ..) ((kept.backInvalidate ..).unitStore ..)).reportCut ..).note ..

theorem Keeps.reportSrc (kept : Keeps s₀ s) (c : Copy) (p : Piece) (bad : Bool) : Keeps s₀ (s.reportSrc c p bad) := by
  unfold State.reportSrc
  split
  · exact kept.reportCut ..
  · exact kept

theorem Keeps.reportCorrupt (kept : Keeps s₀ s) (c : Copy) (ts : List (Option Taint)) :
    Keeps s₀ (s.reportCorrupt c ts) := kept.fold _ fun _ _ => ((Keeps.refl _).errorReport ..)

theorem Keeps.modCopy (kept : Keeps s₀ s) (core no : Nat) (f : Copy → Copy) : Keeps s₀ (s.modCopy core no f) :=
  (kept.modTeam ..).same rfl rfl

theorem Keeps.askFor (kept : Keeps s₀ s) (c : Copy) (as : List Nat) : Keeps s₀ (s.askFor c as) := by
  unfold State.askFor
  exact (kept.fold _ fun _ _ => by
      split
      · exact (Keeps.refl _).askMore_sent ‹_›
      · exact Keeps.refl _
      · exact (Keeps.refl _))

theorem Keeps.movePiece (kept : Keeps s₀ s) (c : Copy) (i : Nat) {l : Landed} (h : s.movePiece c i = .ok l) :
    Keeps s₀ l.state := by
  unfold State.movePiece at h
  split at h
  · cases h
  · split at h
    · cases h
    · cases h
      have kept1 := fun b bs => (kept.reportSrc c (c.piece i) b).reportCorrupt c bs
      exact Keeps.fold (Keeps.ite ((kept1 _ _).fold _ fun _ _ => (Keeps.refl _).addHome ..)
        ((kept1 _ _).fold _ fun _ _ => (Keeps.refl _).putRun ..)) _ fun _ _ => (Keeps.refl _).markPoison ..

theorem Keeps.failWait (kept : Keeps s₀ s) (c : Copy) (words : Nat) (e : Cause) : Keeps s₀ (s.failWait c words e) :=
  (kept.modGroup ..).haltGroup ..

theorem Keeps.enterIn (kept : Keeps s₀ s) (c : Copy) (words : Nat) (t : Team) (h : Handle) :
    Keeps s₀ (s.enterIn c words t h) := by
  unfold State.enterIn
  split
  · exact kept
  · split
    · exact kept.failWait ..
    · exact ((kept.modTeam ..).modGroup ..).moved

theorem Keeps.enterOut (kept : Keeps s₀ s) (c : Copy) (words : Nat) (t : Team) (h : Handle) :
    Keeps s₀ (s.enterOut c words t h) := by
  unfold State.enterOut
  split
  · exact kept.failWait ..
  · split
    · exact kept
    · dsimp only
      split
      · exact kept.failWait ..
      · exact ((kept.modTeam ..).modGroup ..).moved

theorem Keeps.suspend (kept : Keeps s₀ s) (c : Copy) (vw va cause stage : Nat) (write : Bool) (x : XAgent) :
    Keeps s₀ (s.suspend c vw va cause stage write x) := by
  unfold State.suspend
  split
  · exact kept
  · exact ((kept.modHandle ..).postTranslate ..).moved

theorem Keeps.landIn (kept : Keeps s₀ s) (t : Team) (c : Copy) : Keeps s₀ (s.landIn t c) := by
  unfold State.landIn
  split
  · exact (kept.suspend ..).modTeam ..
  · exact kept.freezeCore ..
  · exact kept.askFor ..
  · exact kept
  · exact ((((kept.movePiece _ _ ‹_›).modHandle ..).modTeam ..).settleHandle ..).settled ..

theorem Keeps.arrive (kept : Keeps s₀ s) (core h : Nat) : Keeps s₀ (s.arrive core h) := (kept.modHandle ..).settleHandle ..

theorem Keeps.landTile (kept : Keeps s₀ s) (core : Nat) (c : Copy) : Keeps s₀ (s.landTile core c) := by
  unfold State.landTile
  split
  · exact kept
  · exact ((kept.fold _ fun _ _ => ((Keeps.refl _).unitStore ..)).fold _ fun _ _ => ((Keeps.refl _).markPoison ..)).modHandle ..

theorem Keeps.endChain (kept : Keeps s₀ s) (c : Copy) : Keeps s₀ (s.endChain c) :=
  ((kept.fold _ fun _ _ => ((Keeps.refl _).arrive ..)).modHandle ..).settleHandle ..

theorem Keeps.clusterLanded (kept : Keeps s₀ s) (c : Copy) (n : Nat) : Keeps s₀ (s.clusterLanded c n) := by
  unfold State.clusterLanded
  split
  · exact kept
  · split
    · exact Keeps.ite (kept.modCells ..) kept
    · exact kept

theorem Keeps.landOut (kept : Keeps s₀ s) (core : Nat) (c : Copy) : Keeps s₀ (s.landOut core c) :=
  ((kept.clusterLanded ..).modTeam ..).settled ..

theorem Keeps.servedBulk (kept : Keeps s₀ s) (die e q : Nat) (y : Option Copy) : Keeps s₀ (s.servedBulk die e q y) :=
  kept.setEngine ..

theorem Keeps.landBulk (kept : Keeps s₀ s) (die e q : Nat) (c : Copy) : Keeps s₀ (s.landBulk die e q c) :=
  (((kept.modHandle ..).servedBulk ..).settleHandle ..).settled ..

theorem Keeps.until_ (kept : Keeps s₀ s) (t : Nat) : Keeps s₀ (s.until_ t) := kept.atTime ..

theorem Keeps.pass (kept : Keeps s₀ s) (ns : Nat) : Keeps s₀ (s.pass ns) :=
  Keeps.ite kept ((kept.atTime ..).slewing _)

theorem Keeps.postAll (kept : Keeps s₀ s) (r : Record) : Keeps s₀ (s.postAll r) :=
  kept.fold _ fun _ _ => ((Keeps.refl _).post ..)

theorem Keeps.dogHalt (kept : Keeps s₀ s) (core gi : Nat) (t : Team) (r : Record) :
    Keeps s₀ (s.dogHalt core gi t r) := kept.modGroup ..

theorem Keeps.postTimeLost (kept : Keeps s₀ s) : Keeps s₀ s.postTimeLost := kept.postMgmt ..

theorem Keeps.overrun (kept : Keeps s₀ s) (x : Engine) (q : Nat) : Keeps s₀ (s.overrun x q) :=
  ((kept.setEngine ..).fold _ fun _ _ => ((Keeps.refl _).post ..)).postMgmt ..

theorem Keeps.charge (kept : Keeps s₀ s) : Keeps s₀ s.charge := kept.same rfl rfl

theorem Keeps.fetchCode (kept : Keeps s₀ s) (core line : Nat) : Keeps s₀ (s.fetchCode core line) := by
  unfold State.fetchCode
  split
  · exact kept
  · split
    · exact kept
    · split
      · exact kept
      · split
        · exact Keeps.ite kept (Keeps.ite (kept.freezeCore ..) ((kept.postTranslate ..).moved))
        · exact Keeps.ite kept ((((kept.cache ..).setCore ..).reportCut ..).moved)

theorem Keeps.replayAll (kept : Keeps s₀ s) : Keeps s₀ s.replayAll := by
  unfold State.replayAll
  exact (kept.fold _ fun _ _ => by
      split
      · exact Keeps.refl _
      · exact (Keeps.ite (((Keeps.refl _).replayTeam ..).settled ..) (Keeps.refl _)))

theorem Keeps.completeCell (kept : Keeps s₀ s) (core cell : Nat) (t : Team) : Keeps s₀ (s.completeCell core cell t) := by
  unfold State.completeCell
  split
  · exact kept
  · exact Keeps.ite kept (((kept.modCells ..).fold _ fun _ _ => (((Keeps.refl _).modTeam ..).afterEnds ..)).moved)

theorem Keeps.haltFrozen (kept : Keeps s₀ s) (core : Nat) : Keeps s₀ (s.haltFrozen core) := by
  unfold State.haltFrozen
  split
  · exact kept
  · exact (kept.fold _ fun _ _ => by
      dsimp only
      split
      · exact Keeps.refl _
      · split
        · exact Keeps.ite ((((Keeps.refl _).modTeam ..).modGroup ..).haltGroup ..) (Keeps.refl _)
        · exact (Keeps.refl _))

theorem Keeps.haltErrors (kept : Keeps s₀ s) : Keeps s₀ s.haltErrors :=
  (kept.fold _ fun _ _ => ((Keeps.refl _).errorQueue ..)).fold _ fun _ _ => ((Keeps.refl _).haltFrozen ..)

theorem Keeps.flaw (kept : Keeps s₀ s) (a : Nat) (corrected : Bool) : Keeps s₀ (s.flaw a corrected) := by
  unfold State.flaw
  split
  · exact kept
  · exact (Keeps.ite kept (kept.markPoison ..)).errorReport ..

theorem Keeps.linkFlaw (kept : Keeps s₀ s) (a : Nat) (corrected : Bool) : Keeps s₀ (s.linkFlaw a corrected) :=
  kept.errorReport ..

theorem Keeps.regFlaw (kept : Keeps s₀ s) (core gi n : Nat) (r : Fin 64) (corrected : Bool) :
    Keeps s₀ (s.regFlaw core gi n r corrected) := by
  unfold State.regFlaw
  split
  · exact kept
  · exact Keeps.ite kept ((Keeps.ite kept ((kept.modLane ..).modLane ..)).errorReport ..)

theorem Keeps.rewritten (kept : Keeps s₀ s) (i : Instr) (core gi : Nat) (lanes : List Nat) (old : Group) :
    Keeps s₀ (s.rewritten i core gi lanes old) := kept.modGroup ..

theorem Keeps.postBlocked (kept : Keeps s₀ s) (part : Nat) : Keeps s₀ (s.postBlocked part) := by
  unfold State.postBlocked
  split
  · exact kept
  · exact kept.fold _ fun _ _ => (Keeps.ite (((Keeps.refl _).modPart ..).post ..) (Keeps.refl _))

theorem Keeps.commit (kept : Keeps s₀ s) (part slot : Nat) (r : LaunchBytes) : Keeps s₀ (s.commit part slot r).2 := by
  unfold State.commit
  split
  · exact kept
  · dsimp only
    split
    · exact (kept.modPart ..).moved
    · exact kept.post ..

theorem Keeps.commitWrite (kept : Keeps s₀ s) (part slot : Nat) (r : LaunchBytes) :
    Keeps s₀ (s.commitWrite part slot r).2 := (kept.modPart ..).commit ..

theorem Keeps.checkDone (kept : Keeps s₀ s) (part seq : Nat) : Keeps s₀ (s.checkDone part seq) := by
  unfold State.checkDone
  split
  · exact kept
  · exact Keeps.ite ((kept.modPart ..).post ..) kept

theorem Keeps.endAll (kept : Keeps s₀ s) (part seq : Nat) (ns : List Nat) : Keeps s₀ (s.endAll part seq ns) :=
  kept.fold _ fun _ _ => ((Keeps.refl _).setEnd ..)

theorem Keeps.releaseSaved (kept : Keeps s₀ s) (t : Team) : Keeps s₀ (s.releaseSaved t) :=
  kept.fold _ fun _ _ => (Keeps.ite ((Keeps.refl _).taskOver ..) (Keeps.refl _))

theorem Keeps.killLaunch (kept : Keeps s₀ s) (part seq : Nat) : Keeps s₀ (s.killLaunch part seq) := by
  unfold State.killLaunch
  split
  · exact kept
  · split
    · exact kept
    · exact kept
    · exact (((((((kept.fold _ fun _ _ => ((Keeps.refl _).killTeam ..)).fold _ fun _ _ => ((Keeps.refl _).releaseSaved ..)).modPart ..).endAll ..).checkDone ..).postBlocked ..).fillSlots ..).moved

theorem Keeps.returnVerdict (kept : Keeps s₀ s) (part seq : Nat) (bad : Option Nat) :
    Keeps s₀ (s.returnVerdict part seq bad) := by
  unfold State.returnVerdict
  split
  · exact kept
  · split
    · exact kept
    · exact (kept.modPart ..).answer ..

theorem Keeps.writeBelow (kept : Keeps s₀ s) (part seq start : Nat) : Keeps s₀ (s.writeBelow part seq start) :=
  kept.fold _ fun _ _ => (((Keeps.refl _).writeBitmap ..).writeBitmap ..)

theorem Keeps.recordCopied (kept : Keeps s₀ s) (p : Part) (rs : List LaunchBytes) (l : Launch) (bad : Option Nat) :
    Keeps s₀ (s.recordCopied p rs l bad) := by
  unfold State.recordCopied
  refine Keeps.postBlocked ?_ ..
  refine Keeps.returnVerdict ?_ ..
  split
  · exact (kept.modPart ..).post ..
  · exact Keeps.ite (((kept.modPart ..).writeBelow ..).killLaunch ..) ((kept.modPart ..).writeBelow ..)

theorem Keeps.putTeam (kept : Keeps s₀ s) (core : Nat) (t : Team) : Keeps s₀ (s.putTeam core t) :=
  ((Keeps.ite kept (kept.zeroRange ..)).withTags ..).setCore ..

theorem Keeps.placeNew (kept : Keeps s₀ s) (part : Nat) (l : Launch) (n core : Nat) :
    Keeps s₀ (s.placeNew part l n core) := (kept.putTeam ..).modPart ..

theorem Keeps.newCells (kept : Keeps s₀ s) (cl part seq crew expect : Nat) :
    Keeps s₀ (s.newCells cl part seq crew expect) := kept.setCluster ..

theorem Keeps.haltTeam (kept : Keeps s₀ s) (core kind detail : Nat) : Keeps s₀ (s.haltTeam core kind detail) := by
  unfold State.haltTeam
  split
  · exact kept
  · exact ((kept.stamped.postStamped ..).fold _ fun _ _ => ((Keeps.refl _).modGroup ..)).moved

theorem Keeps.loadQueue (kept : Keeps s₀ s) (core : Nat) : Keeps s₀ (s.loadQueue core) := by
  unfold State.loadQueue
  split
  · exact kept
  · split
    · exact kept
    · dsimp only
      split
      · exact ((kept.nameQueue_ok ‹_›).modTeam ..).moved
      · exact kept.nameQueue_wait ‹_›
      · exact (kept.modTeam ..).moved.haltTeam ..

theorem Keeps.requeueBulk (kept : Keeps s₀ s) (die : Nat) (f : Nat → Nat) (xs : List (Nat × Nat × Copy)) :
    Keeps s₀ (s.requeueBulk die f xs) := by
  unfold State.requeueBulk
  induction xs with
  | nil => exact kept
  | cons x xs ih => exact ih.setEngine ..

theorem Memory.wf_foldl_putAll {α : Type} (at_ : α → Nat) (bs : α → List Byte) (xs : List α) (m : Memory) (h : m.wf = true) :
    (xs.foldl (fun (m : Memory) c => m.putAll (at_ c) (bs c)) m).wf = true := by
  induction xs generalizing m with
  | nil => exact h
  | cons x xs ih => exact ih _ (Memory.wf_putAll _ _ _ h)

/-- Bytes put one after another at their places. -/
theorem Keeps.putBytes (kept : Keeps s₀ s) (bytes : List (Nat × Byte)) (at_ : Nat → Nat) (p : List Nat) :
    Keeps s₀ { s with mem := bytes.foldl (fun (m : Memory) (c : Nat × Byte) => m.putAll (at_ c.1) [c.2]) s.mem, poison := p } :=
  kept.trans ⟨Memory.wf_foldl_putAll (fun c : Nat × Byte => at_ c.1) (fun c => [c.2]) _ _, rfl⟩

theorem Keeps.placeSaved (kept : Keeps s₀ s) (f : Nat → Nat) (x : SavedTeam) : Keeps s₀ (s.placeSaved f x) := by
  unfold State.placeSaved
  exact ((((kept.putTeam ..).zeroRange ..).putBytes ..).requeueBulk ..).modPart ..

theorem Keeps.placeChoice (kept : Keeps s₀ s) (p : Part) (l : Launch) (ch : Choice) {t : State}
    (h : s.placeChoice p l ch = some t) : Keeps s₀ t := by
  unfold State.placeChoice at h
  dsimp only at h
  split at h
  · split at h
    · cases h
    · split at h
      · cases h
      · cases h
        refine Keeps.fold ?_ _ fun _ _ => (Keeps.refl _).replayTeam ..
        have kept1 := fun f ts => Keeps.fold kept ts fun s (x : SavedTeam) => (Keeps.refl s).placeSaved f x
        split
        · split
          · exact (kept1 _ _).setCluster ..
          · exact kept1 _ _
        · exact kept1 _ _
  · split at h
    · cases h
    · split at h
      · cases h
      · split at h
        · cases h
        · cases h
          refine Keeps.fold ?_ _ fun _ _ => (Keeps.refl _).loadQueue ..
          have kept1 := fun ps => Keeps.fold kept ps fun s (x : Nat × Nat) => (Keeps.refl s).placeNew p.id l x.1 x.2
          split
          · exact kept1 _
          · exact (kept1 _).fold _ fun _ _ => (Keeps.refl _).newCells ..

theorem Keeps.placeFirst (kept : Keeps s₀ s) (p : Part) (cs : List Nat) {t : State} (h : s.placeFirst p cs = some t) :
    Keeps s₀ t := by
  induction cs with
  | nil => cases h
  | cons c cs ih =>
    unfold State.placeFirst at h
    split at h
    · exact ih h
    · split at h
      · cases h
        exact kept.placeChoice _ _ _ ‹_›
      · exact ih h

theorem Keeps.landImage (kept : Keeps s₀ s) (part core off : Nat) (x : Nat × Nat × Nat × Walk) :
    Keeps s₀ (s.landImage part core off x) :=
    (((Keeps.ite (((kept.cache ..).unitStore ..).markPoison ..) ((kept.cache ..).unitStore ..)).carryPoison ..).reportCut ..).noteBy ..

theorem Keeps.spoil (kept : Keeps s₀ s) (as : List Nat) : Keeps s₀ (s.spoil as) :=
  kept.fold _ fun _ _ => (((Keeps.refl _).store ..).same rfl rfl)

theorem Keeps.unsettle (kept : Keeps s₀ s) (part seq : Nat) (lost : List Nat) : Keeps s₀ (s.unsettle part seq lost) := by
  unfold State.unsettle
  split
  · exact kept
  · exact (kept.spoil ..).same rfl rfl

theorem Keeps.unsettleEnd (kept : Keeps s₀ s) (part seq : Nat) : Keeps s₀ (s.unsettleEnd part seq) := by
  unfold State.unsettleEnd
  split
  · exact kept
  · exact Keeps.ite (kept.unsettle ..) kept

theorem Keeps.crewDown (kept : Keeps s₀ s) (core : Nat) (t : Team) : Keeps s₀ (s.crewDown core t) :=
  (kept.modCells ..).fold _ fun _ _ => ((Keeps.refl _).completeCell ..)

theorem Keeps.releaseCrew (kept : Keeps s₀ s) (t : Team) : Keeps s₀ (s.releaseCrew t) :=
  Keeps.ite kept ((kept.fold _ fun _ _ => (((Keeps.refl _).dropRequests ..).setCore ..)).fold _ fun _ _ => ((Keeps.refl _).setCluster ..))

theorem Keeps.stopTeam (kept : Keeps s₀ s) (core : Nat) : Keeps s₀ (s.stopTeam core) := by
  unfold State.stopTeam
  split
  · exact kept
  · exact (((kept.fold _ fun _ _ => ((Keeps.refl _).dropMarkers ..)).modTeam ..).setCluster ..).modCells ..

theorem Keeps.packTeam (kept : Keeps s₀ s) (core : Nat) : Keeps s₀ (s.packTeam core) := by
  unfold State.packTeam
  split
  · exact kept
  · exact (((kept.modTeam ..).modPart ..).withEngines _).dropRequests ..

theorem Keeps.saveArea (kept : Keeps s₀ s) (part va n : Nat) : Keeps s₀ (s.saveArea part va n) := by
  induction n generalizing s va with
  | zero => exact kept
  | succ n ih =>
    refine ih (Keeps.withDraws ?_ _) _
    split
    · exact kept
    · split
      · exact (kept.store ..).reportCut ..
      · exact kept

theorem Keeps.saveTeam (kept : Keeps s₀ s) (core : Nat) : Keeps s₀ (s.saveTeam core) := by
  unfold State.saveTeam
  split
  · exact kept
  · exact ((((kept.withEngines _).saveArea ..).dropUser ..).modPart ..).setCore ..

theorem Keeps.dropCrews (kept : Keeps s₀ s) (ts : List Team) : Keeps s₀ (s.dropCrews ts) := kept.same rfl rfl

theorem Keeps.stopAgain (kept : Keeps s₀ s) (core : Nat) : Keeps s₀ (s.stopAgain core) :=
  Keeps.ite ((kept.stopTeam ..).packTeam ..) kept

theorem Keeps.goAgain (kept : Keeps s₀ s) (part : Nat) : Keeps s₀ (s.goAgain part) := kept.same rfl rfl

theorem Keeps.windowWrite (kept : Keeps s₀ s) (part slot o : Nat) (value : Word64) :
    Keeps s₀ (s.windowWrite part slot o value) := by
  unfold State.windowWrite
  split
  · exact kept
  · exact Keeps.ite kept (Keeps.ite (kept.commit ..) (kept.modPart ..))

theorem Keeps.drain (kept : Keeps s₀ s) (part n : Nat) : Keeps s₀ (s.drain part n) := by
  induction n generalizing s with
  | zero => exact kept
  | succ n ih =>
    unfold State.drain
    split
    · exact kept
    · split
      · exact kept
      · split
        · exact kept
        · exact ih ((kept.enqueue ..).modPart ..)

theorem Keeps.unsuspend (kept : Keeps s₀ s) (c : Option Copy) : Keeps s₀ (s.unsuspend c) := by
  unfold State.unsuspend
  split
  · exact kept.modHandle ..
  · exact kept

theorem Keeps.breakHandle (kept : Keeps s₀ s) (c : Option Copy) : Keeps s₀ (s.breakHandle c) := by
  unfold State.breakHandle
  split
  · exact kept.modHandle ..
  · exact kept

theorem Keeps.modTileQueue (kept : Keeps s₀ s) (core : Nat) (out : Bool) (f : List CopyEntry → List CopyEntry) :
    Keeps s₀ (s.modTileQueue core out f) := kept.modTeam ..

theorem Keeps.modBulk (kept : Keeps s₀ s) (die e q : Nat) (f : List CopyEntry → List CopyEntry) :
    Keeps s₀ (s.modBulk die e q f) := kept.setEngine ..

theorem Keeps.retryAgent (kept : Keeps s₀ s) (part : Nat) (x : XAgent) : Keeps s₀ (s.retryAgent part x) := by
  unfold State.retryAgent
  split
  · exact (kept.replayGroup ..).settled ..
  · exact Keeps.ite (((kept.fillSlotNow ..).replayTeam ..).settled ..) (kept.fillSlotNow ..)
  · exact kept.fetchCode ..
  · exact (kept.unsuspend ..).modTileQueue ..
  · exact (kept.unsuspend ..).modBulk ..
  · exact kept
  · exact kept.writeBitmap ..
  · exact kept

theorem Keeps.failLog (kept : Keeps s₀ s) (core gi no va vw : Nat) : Keeps s₀ (s.failLog core gi no va vw) := by
  unfold State.failLog
  split
  · exact kept
  · exact kept.failLogged ..

theorem Keeps.failFill (kept : Keeps s₀ s) (core id k : Nat) : Keeps s₀ (s.failFill core id k) := by
  unfold State.failFill
  split
  · exact (kept.modSlot ..).fold _ fun _ _ => (Keeps.ite (Keeps.refl _) ((Keeps.refl _).failLogged ..))
  · exact kept

theorem Keeps.failCode (kept : Keeps s₀ s) (core gi line : Nat) : Keeps s₀ (s.failCode core gi line) := by
  unfold State.failCode
  split
  · exact kept
  · exact (kept.modGroup ..).fold _ fun _ _ => ((Keeps.refl _).haltGroup ..)

theorem Keeps.dropSlot (kept : Keeps s₀ s) (core id k : Nat) : Keeps s₀ (s.dropSlot core id k) := by
  unfold State.dropSlot
  split
  · exact kept
  · exact (kept.store ..).modSlot ..

theorem Keeps.failForced (kept : Keeps s₀ s) (core vw : Nat) (x : Forced) : Keeps s₀ (s.failForced core vw x) := by
  unfold State.failForced
  split
  · exact kept
  · split
    · dsimp only
      split
      · exact kept
      · exact kept.failLogged ..
    · exact Keeps.ite (kept.fold _ fun _ _ => ((Keeps.refl _).modLane ..)) ((kept.fold _ fun _ _ => ((Keeps.refl _).modLane ..)).haltGroup ..)

theorem Keeps.failAgent (kept : Keeps s₀ s) (w : XWait) : Keeps s₀ (s.failAgent w) := by
  unfold State.failAgent
  split
  · exact kept.failLog ..
  · exact kept.failFill ..
  · split
    · exact kept
    · exact kept.fold _ fun _ _ => ((Keeps.refl _).failCode ..)
  · exact ((kept.breakHandle ..).modTileQueue ..).settled ..
  · dsimp only
    split
    · exact ((kept.breakHandle ..).modBulk ..).settled ..
    · exact (kept.breakHandle ..).modBulk ..
  · exact (kept.dropSlot ..).fold _ fun _ _ => ((Keeps.refl _).failForced ..)
  · exact kept
  · exact kept.killTeam ..

theorem Keeps.killSaved (kept : Keeps s₀ s) (part : Nat) (x : SavedTeam) : Keeps s₀ (s.killSaved part x) :=
  ((((((kept.releaseSaved ..).modPart ..).setEnd ..).checkDone ..).postBlocked ..).fillSlots ..).moved

theorem Keeps.extend (kept : Keeps s₀ s) (i : Fin 16) (d : BitVec 384) : Keeps s₀ (s.extend i d) := kept.same rfl rfl

theorem Keeps.measure (kept : Keeps s₀ s) (i : Fin 16) : Keeps s₀ (s.measure i) := (kept.extend ..).withDraws _

theorem Keeps.setRange (kept : Keeps s₀ s) (part i : Nat) (e : RangeEntry) : Keeps s₀ (s.setRange part i e) := by
  unfold State.setRange
  split
  · exact kept
  · split
    · exact kept
    · dsimp only
      split
      · exact Keeps.ite (kept.modPart ..) (((kept.modPart ..).zeroRange ..).modPart ..)
      · exact kept.modPart ..

theorem Keeps.bringUp (kept : Keeps s₀ s) : Keeps s₀ s.bringUp := kept.same rfl rfl

theorem Keeps.setRanges (kept : Keeps s₀ s) (part i : Nat) (es : List RangeEntry) : Keeps s₀ (s.setRanges part i es) := by
  induction es generalizing s i with
  | nil => exact kept
  | cons e es ih => exact ih (kept.setRange ..) _

theorem Keeps.endNow (kept : Keeps s₀ s) (core : Nat) : Keeps s₀ (s.endNow core) := by
  unfold State.endNow
  split
  · exact kept
  · refine Keeps.setCore ?_ ..
    split
    · exact kept
    · exact (kept.dropUser ..).setEnd ..

theorem Keeps.wipe (kept : Keeps s₀ s) (part : Nat) : Keeps s₀ (s.wipe part) := by
  unfold State.wipe
  split
  · exact kept
  · exact ((((kept.fold _ fun _ _ => ((Keeps.refl _).killLaunch ..)).fold _ fun _ _ => ((Keeps.refl _).endNow ..)).fold _ fun _ _ => ((Keeps.refl _).checkDone ..)).cleared ..).fold _ fun _ _ => (((Keeps.refl _).fold _ fun _ _ => ((Keeps.refl _).zeroRange ..)).fold _ fun _ _ => ((Keeps.refl _).zeroRange ..))

theorem Keeps.destroy (kept : Keeps s₀ s) (part : Nat) : Keeps s₀ (s.destroy part) :=
  (((kept.wipe ..).passOn ..).withoutPart ..).measure ..

theorem Keeps.setReady (kept : Keeps s₀ s) (register : Fin 3) (n : Nat) : Keeps s₀ (s.setReady register n) := by
  unfold State.setReady
  split
  · exact kept.same rfl rfl
  · exact kept.same rfl rfl
  · exact kept.same rfl rfl

theorem Keeps.dropDie (kept : Keeps s₀ s) (die : Nat) : Keeps s₀ (s.dropDie die) :=
  ((kept.fold _ fun _ _ => ((Keeps.refl _).dropRequests ..).setCore ..).withoutDie ..).fold _ fun _ _ => (Keeps.refl _).fillSlots ..

theorem Keeps.loseTeams (kept : Keeps s₀ s) (part seq : Nat) (lost : List Nat) :
    Keeps s₀ (s.loseTeams part seq lost) := by
  unfold State.loseTeams
  split
  · exact kept
  · exact Keeps.ite (kept.modPart ..) ((Keeps.ite (kept.modPart ..) ((kept.modPart ..).fold _ fun _ _ => ((Keeps.refl _).killTeam ..))).post ..)

theorem Keeps.outAtomic (kept :
    Keeps s₀ s) (a : Nat) (i : Instr) (ops : List Byte) (pkg : Nat) (order : Option (Order × Scope)) :
    Keeps s₀ (s.outAtomic a i ops pkg order).1 := by
  unfold State.outAtomic
  dsimp only
  split
  · exact kept
  · split
    · exact (kept.store ..).setTag ..
    · exact (kept.store ..).setTag ..
    · exact (kept.store ..).setTag ..
    · exact (kept.store ..).same rfl rfl

theorem Keeps.outPerform (kept :
    Keeps s₀ s) (part : Nat) (as : List Nat) (x : OutAccess) (pkg : Nat) (order : Option (Order × Scope)) :
    Keeps s₀ (s.outPerform part as x pkg order).1 := by
  unfold State.outPerform
  dsimp only
  split
  · exact kept.fold _ fun _ _ => ((Keeps.refl _).reportCut ..)
  · exact (kept.fold _ fun _ _ => ((Keeps.refl _).reportCut ..)).fold _ fun _ _ => (((Keeps.refl _).store ..).untagRange ..)
  · split
    · split
      · exact kept.fold _ fun _ _ => ((Keeps.refl _).reportCut ..)
      · exact (kept.fold _ fun _ _ => ((Keeps.refl _).reportCut ..)).outAtomic ..
    · exact kept.fold _ fun _ _ => ((Keeps.refl _).reportCut ..)

theorem Keeps.complete_ (kept : Keeps s₀ s) (proto code part : Nat) (body : List Byte) :
    Keeps s₀ (s.complete_ proto code part body) := kept.same rfl rfl

theorem Keeps.answerOut (proto part : Nat) (x : OutAccess) {r : State × List Byte × Bool} (kept : Keeps s₀ r.1) :
    Keeps s₀ (Machine.answerOut proto part x r) := by
  cases x with
  | write => exact kept
  | read => exact kept.complete_ ..
  | atomic => exact kept.complete_ ..

theorem Keeps.defer (kept : Keeps s₀ s) (d : Deferred) : Keeps s₀ (s.defer d) := (kept.withDeferred _).moved

theorem Keeps.serveInbound (kept : Keeps s₀ s) (part : Fin 96) (offset : Nat) (access : OutAccess) :
    Keeps s₀ (s.serveInbound part offset access) := by
  unfold State.serveInbound
  split
  · exact kept.complete_ ..
  · split
    · exact kept.complete_ ..
    · split
      · exact kept.defer ..
      · exact (Keeps.answerOut _ _ _ (kept.outPerform ..)).moved

theorem Keeps.serveCxl (kept : Keeps s₀ s) (part : Fin 96) (address : Nat) (access : OutAccess) :
    Keeps s₀ (s.serveCxl part address access) := by
  unfold State.serveCxl
  split
  · exact kept
  · split
    · exact kept.complete_ ..
    · split
      · exact kept.defer ..
      · exact (Keeps.answerOut _ _ _ (kept.outPerform ..)).moved

theorem Keeps.pageRead (kept : Keeps s₀ s) (offset : Nat) : Keeps s₀ (s.pageRead offset) := by
  unfold State.pageRead
  split
  · exact kept.complete_ ..
  · exact kept.complete_ ..
  · exact kept.complete_ ..
  · exact (kept.withEnergyHi _).complete_ ..
  · exact kept.complete_ ..

theorem Keeps.vfRead (kept : Keeps s₀ s) (part offset : Nat) : Keeps s₀ (s.vfRead part offset) := by
  unfold State.vfRead
  split
  · exact kept.complete_ ..
  · refine kept.tlp _ _ _ fun s => ?_
    split
    · exact Keeps.refl s
    · have kept1 := fun f => Keeps.ite (c := (offset == 0x1070) = true) ((Keeps.refl s).modPart part f) (Keeps.refl s)
      dsimp only
      split
      · exact (kept1 _).complete_ ..
      · exact (kept1 _).complete_ ..

theorem Keeps.reply (kept : Keeps s₀ s) (proto code dest : Nat) (body : List Byte) :
    Keeps s₀ (s.reply proto code dest body) := kept.same rfl rfl

theorem Keeps.mailed (kept : Keeps s₀ s) : Keeps s₀ s.mailed := kept.stamped

theorem Keeps.ideRequest (kept : Keeps s₀ s) (part code : Nat) (f : State → Part → State) (hf : ∀ s p, Keeps s (f s p)) :
    Keeps s₀ (s.ideRequest part code f) := by
  unfold State.ideRequest
  split
  · exact kept.mailed
  · split
    · exact (kept.mailed.trans (hf _ _)).reply ..
    · exact kept.mailed

theorem Keeps.tdispRequest (kept : Keeps s₀ s) (part : Nat) (f : State → Part → State) (hf : ∀ s p, Keeps s (f s p)) :
    Keeps s₀ (s.tdispRequest part f) := by
  unfold State.tdispRequest
  split
  · exact kept.mailed
  · exact kept.mailed.trans (hf _ _)

theorem Keeps.tdispError (kept : Keeps s₀ s) (proto part : Nat) : Keeps s₀ (s.tdispError proto part) := kept.reply ..

theorem Keeps.spdmSay (kept : Keeps s₀ s) (via : Mailbox) (code : Nat) (body : List Byte) :
    Keeps s₀ (s.spdmSay via code body) := kept.mailed.reply ..

theorem Keeps.spdmReply (kept : Keeps s₀ s) (via : Mailbox) (code : Nat) : Keeps s₀ (s.spdmReply via code) := kept.spdmSay ..

theorem Keeps.settleStreams (kept : Keeps s₀ s) : Keeps s₀ s.settleStreams := (kept.withStreams_ _).flushReplies

theorem Keeps.withStreams (kept : Keeps s₀ s) (part : Nat) (pkg : BitVec 16) : Keeps s₀ (s.withStreams part pkg) :=
  Keeps.ite (Keeps.ite kept (kept.withStreams_ _)) ((Keeps.ite kept (kept.withStreams_ _)).withStreams_ _)

theorem Keeps.modInStream (kept : Keeps s₀ s) (f : Flit) (g : Stream → Stream) : Keeps s₀ (s.modInStream f g) :=
  kept.same rfl rfl

theorem Keeps.freezeStream (kept : Keeps s₀ s) (f : Flit) : Keeps s₀ (s.freezeStream f) := by
  unfold State.freezeStream
  dsimp only
  split
  · exact (kept.modInStream ..).postFrozen ..
  · exact (kept.modInStream ..).postMgmt ..

theorem Keeps.receive (kept : Keeps s₀ s) (f : Flit) : Keeps s₀ (s.receive f).1 := by
  unfold State.receive
  split
  · exact kept
  · split
    · exact Keeps.iteFst ((kept.withStreams_ _).freezeStream ..) ((kept.withStreams_ _).modInStream ..)
    · exact Keeps.iteFst kept (Keeps.iteFst (kept.modInStream ..) (kept.freezeStream ..))

theorem Keeps.respond (kept : Keeps s₀ s) (f : Flit) (part : Option Nat) (type : Nat) (bad : Bool) (body : List Byte) :
    Keeps s₀ (s.respond f part type bad body) := by
  unfold State.respond
  split
  · exact kept.sendFlit ..
  · exact kept.answer ..

theorem Keeps.inbound (kept : Keeps s₀ s) (f : Flit) (b : Nat) (va : BitVec 64) (x : OutAccess)
    (order : Option (Order × Scope)) {p : Nat} {r : State × List Byte × Bool} (h : s.inbound f b va x order = some (p, r)) :
    Keeps s₀ r.1 := by
  unfold State.inbound at h
  split at h
  · split at h
    · cases h
      exact kept.outPerform ..
    · cases h
  · cases h

theorem Keeps.serveWrite (kept : Keeps s₀ s) (f : Flit) (va : BitVec 64) (mask : BitVec 128) (bytes : List Byte) :
    Keeps s₀ (s.serveWrite f va mask bytes) := by
  unfold State.serveWrite
  dsimp only
  split
  · exact kept.defer ..
  · split
    · exact kept
    · next h => exact (Keeps.respond (kept.inbound _ _ _ _ _ h) ..).moved

theorem Keeps.serveRead (kept : Keeps s₀ s) (f : Flit) (va : BitVec 64) (count : Nat) :
    Keeps s₀ (s.serveRead f va count) := by
  unfold State.serveRead
  split
  · exact kept.defer ..
  · split
    · exact kept.respond ..
    · next h => exact (Keeps.respond (kept.inbound _ _ _ _ _ h) ..).moved

theorem Keeps.serveAtomic (kept : Keeps s₀ s) (f : Flit) (va : BitVec 64) (major mod : Nat) (order : Option (Order × Scope))
    (operands : List Byte) : Keeps s₀ (s.serveAtomic f va major mod order operands) := by
  unfold State.serveAtomic
  dsimp only
  split
  · exact kept.defer ..
  · split
    · exact kept.respond ..
    · next h =>
      split at h
      · exact (Keeps.respond (kept.inbound _ _ _ _ _ h) ..).moved
      · cases h

theorem Keeps.serve (kept : Keeps s₀ s) (d : Deferred) : Keeps s₀ (s.serve d) := by
  unfold State.serve
  split
  · exact kept.serveInbound ..
  · exact kept.serveCxl ..
  · exact kept.serveWrite ..
  · exact kept.serveRead ..
  · exact kept.serveAtomic ..

theorem Keeps.serveDeferred (kept : Keeps s₀ s) : Keeps s₀ s.serveDeferred :=
  (kept.withDeferred _).fold _ fun _ _ => (Keeps.refl _).serve ..

theorem Keeps.forget (kept : Keeps s₀ s) (r : Request) : Keeps s₀ (s.forget r) := kept.same rfl rfl

theorem Keeps.fillAnswer (kept : Keeps s₀ s) (core id k o : Nat) (data : List Byte) (bad : Bool) :
    Keeps s₀ (s.fillAnswer core id k o data bad) := by
  unfold State.fillAnswer
  split
  · exact kept
  · exact Keeps.ite ((kept.landPart ..).moved) ((((kept.landPart ..).landEnd ..).replayTeam ..).settled ..)

theorem Keeps.handAnswer (kept : Keeps s₀ s) (r : Request) (bytes : List Byte) (bad : Bool) :
    Keeps s₀ (s.handAnswer r bytes bad) := by
  unfold State.handAnswer
  dsimp only
  split
  · exact (kept.forget ..).fillAnswer ..
  · exact ((kept.forget ..).replayLane ..).settled ..
  · exact (kept.forget ..).moved
  · exact (kept.forget ..).moved
  · exact ((kept.forget ..).modCopy ..).moved
  · exact ((kept.forget ..).store ..).moved

theorem Keeps.modPort (kept : Keeps s₀ s) (n : Nat) (f : Port → Port) : Keeps s₀ (s.modPort n f) := kept.same rfl rfl

theorem Memory.wf_foldl_put (xs : List (Nat × Byte)) (m : Memory) (h : m.wf = true) :
    (xs.foldl (fun (m : Memory) x => m.put x.1 x.2) m).wf = true := by
  induction xs generalizing m with
  | nil => exact h
  | cons x xs ih => exact ih _ (Memory.wf_put _ _ _ h)

theorem Keeps.giveUp (kept : Keeps s₀ s) (r : Request) : Keeps s₀ (s.giveUp r) := by
  have lost (m : Memory → Memory) (hm : ∀ x : Memory, x.wf = true → (m x).wf = true) (n : Nat) :
      Keeps s₀ (State.forget { s with draws := n, mem := m s.mem } r) :=
    Keeps.forget (kept.withMem (hm _) _) r
  unfold State.giveUp
  split
  · exact lost _ (Memory.wf_foldl_put _) _
  · exact lost _ (Memory.wf_foldl_put _) _
  · exact lost _ (Memory.wf_foldl_put _) _
  · exact (kept.withDraws _).handAnswer ..
  · exact (kept.withDraws _).handAnswer ..
  · exact (kept.withDraws _).handAnswer ..

theorem Keeps.portDown (kept : Keeps s₀ s) (port : Fin 12) : Keeps s₀ (s.portDown port) := by
  refine Keeps.ite kept (Keeps.settleStreams (Keeps.together ((kept.modPort ..).withReady _) _ fun e he s => ?_)).moved
  rcases List.mem_cons.1 he with rfl | he
  · exact (Keeps.refl s).postMgmt ..
  · obtain ⟨r, -, rfl⟩ := List.mem_map.1 he
    exact (Keeps.refl s).giveUp r

theorem Keeps.stepTime (kept : Keeps s₀ s) (t : Nat) : Keeps s₀ (s.stepTime t) :=
  Keeps.ite kept ((kept.atTime ..).inCalendar ..)

theorem Keeps.slew (kept : Keeps s₀ s) (t : Nat) : Keeps s₀ (s.slew t) :=
  Keeps.ite (kept.slewing _) ((kept.slewing _).pass _)

theorem Keeps.queueMatrix (kept : Keeps s₀ s) (core : Nat) (e : MatrixEntry) : Keeps s₀ (s.queueMatrix core e) :=
  kept.modTeam ..

theorem Keeps.setAcc (kept : Keeps s₀ s) (core n : Nat) (z : List Word) : Keeps s₀ (s.setAcc core n z) := kept.modTeam ..

theorem Keeps.performProduct (kept : Keeps s₀ s) (core : Nat) (t : Team) (p : Product) (a b : TileDesc) :
    Keeps s₀ (s.performProduct core t p a b) := by
  unfold State.performProduct
  dsimp only
  split
  · exact (kept.drawn ..).setAcc ..
  · refine Keeps.setAcc ?_ ..
    refine Keeps.modHandle ?_ ..
    split
    · exact kept
    · exact kept.modHandle ..

theorem Keeps.performDrain (kept : Keeps s₀ s) (core : Nat) (t : Team) (x : OpDrn) (narrow : Bool) :
    Keeps s₀ (s.performDrain core t x narrow) := by
  unfold State.performDrain
  split
  · exact kept
  · exact (((kept.fold _ fun _ _ => ((Keeps.refl _).unitStore ..)).noteBy ..).modHandle ..).settleHandle ..

theorem Keeps.performLoad (kept : Keeps s₀ s) (core : Nat) (t : Team) (x : OpDrn) (d : TileDesc) :
    Keeps s₀ (s.performLoad core t x d) := by
  unfold State.performLoad
  split
  · exact kept
  · exact kept.setAcc ..

theorem Keeps.performPadd (kept : Keeps s₀ s) (core : Nat) (t : Team) (x : OpPAdd) (a : Word) (d : TileDesc) :
    Keeps s₀ (s.performPadd core t x a d) := by
  unfold State.performPadd
  split
  · exact kept
  · exact (kept.fold _ fun _ _ => by
      refine Keeps.modHandle ?_ ..
      split
      · exact Keeps.refl _
      · exact (((Keeps.refl _).unitStore ..).noteBy ..))

theorem Keeps.performPnorm (kept : Keeps s₀ s) (core : Nat) (t : Team) (x : OpPNorm) (d : TileDesc) :
    Keeps s₀ (s.performPnorm core t x d) := by
  unfold State.performPnorm
  split
  · exact kept
  · exact (kept.fold _ fun _ _ => by
      split
      · exact Keeps.refl _
      · exact (((Keeps.refl _).unitStore ..).noteBy ..))

theorem Keeps.performEntry (kept :
    Keeps s₀ s) (core : Nat) (t : Team) (i : Instr) (rows : List Nat) (step : Word) (heads : List TileDesc) :
    Keeps s₀ (s.performEntry core t i rows step heads) := by
  unfold State.performEntry
  dsimp only
  split
  · exact kept.performProduct ..
  · exact kept.performProduct ..
  · exact kept.performDrain ..
  · exact kept.performDrain ..
  · exact kept.modTeam ..
  · exact kept.setAcc ..
  · exact kept.performLoad ..
  · exact kept.performPadd ..
  · exact kept.performPnorm ..
  · exact kept

theorem Keeps.mqPop (kept : Keeps s₀ s) (core : Nat) : Keeps s₀ (s.mqPop core) := (kept.modTeam ..).settled ..

theorem Keeps.dropFollow (kept : Keeps s₀ s) (core gi : Nat) (p : Place) (e : Cause) :
    Keeps s₀ (s.dropFollow core gi p e) := by
  unfold State.dropFollow
  dsimp only
  split
  · exact kept.mqPop ..
  · exact Keeps.ite (kept.mqPop ..) ((kept.mqPop ..).haltGroup ..)

theorem Keeps.pollCells (kept : Keeps s₀ s) : Keeps s₀ s.pollCells :=
  (kept.fold _ fun _ _ => ((Keeps.refl _).strayBytes ..)).same rfl rfl



theorem Keeps.awaitLine (kept : Keeps s₀ s) (core gi line : Nat) (lanes : List Nat) :
    Keeps s₀ (s.awaitLine core gi line lanes) := (kept.modGroup ..).fetchCode ..

theorem Keeps.aged (kept : Keeps s₀ s) : Keeps s₀ s.aged := kept.same rfl rfl

theorem Keeps.afterStep (kept : Keeps s₀ s) : Keeps s₀ s.afterStep :=
  (kept.settleFences.pollCells.haltErrors.aged.pass ..).charge

end Sys2Proof.Machine
end

section
/-!
PROOF. Every event keeps memory in canonical form and touches no unit in hand. One lemma per event.
-/
namespace Sys2Proof.Machine

-- The proofs of this file run one after another: side by side they take the check's memory.
set_option Elab.async false
variable {s₀ s : State}

/-- A meaning answers a next state that has kept memory and the unit in hand. -/
def Res.Kept (s₀ : State) : Res → Prop
  | .next s => Keeps s₀ s
  | .fault _ => False
  | .refused _ => False

theorem Res.Kept.ite {c : Prop} [Decidable c] {a b : Res} (ha : a.Kept s₀) (hb : b.Kept s₀) :
    (if c then a else b : Res).Kept s₀ := by
  split <;> assumption

theorem Keeps.execTileCopyEnqueue (kept : Keeps s₀ s) (core group : Nat) : (execTileCopyEnqueue core group s).Kept s₀ := by
  unfold Machine.execTileCopyEnqueue
  split
  · split
    · split
      · split
        · exact kept
        · exact Keeps.ite (kept.enterIn ..) (kept.enterOut ..)
      · exact kept
    · exact kept
  · exact kept

theorem Keeps.execBcopyEnqueue (kept : Keeps s₀ s) (core group : Nat) : (execBcopyEnqueue core group s).Kept s₀ := by
  unfold Machine.execBcopyEnqueue
  split
  · split
    · split
      · dsimp only
        split
        · exact kept
        · split
          · exact (kept.freezeCore ..).moved
          · split
            · split
              · exact kept.failWait ..
              · exact (((kept.modHandle ..).setEngine ..).modGroup ..).moved
            · split
              · exact kept.failWait ..
              · exact (((kept.modHandle ..).setEngine ..).modGroup ..).moved
      · exact kept
    · exact kept
  · exact kept

theorem Keeps.execTileGranuleLand (kept : Keeps s₀ s) (core : Nat) : (execTileGranuleLand core s).Kept s₀ := by
  unfold Machine.execTileGranuleLand
  split
  · exact kept
  · split
    · exact kept
    · split
      · exact kept
      · exact kept.landIn ..

theorem Keeps.execMcastHopArrival (kept : Keeps s₀ s) (core : Nat) : (execMcastHopArrival core s).Kept s₀ := by
  unfold Machine.execMcastHopArrival
  split
  · exact kept
  · dsimp only
    split
    · split
      · exact kept
      · exact ((Keeps.ite ((kept.landTile ..).arrive ..) (Keeps.ite ((kept.landTile ..).endChain ..) (kept.landTile ..))).modTeam ..).settled ..
    · split
      · exact kept
      · exact ((Keeps.ite ((kept.landTile ..).arrive ..) (Keeps.ite ((kept.landTile ..).endChain ..) (kept.landTile ..))).modTeam ..).settled ..

theorem Keeps.execFollowOnRelease (kept : Keeps s₀ s) (core : Nat) : (execFollowOnRelease core s).Kept s₀ := by
  unfold Machine.execFollowOnRelease
  split
  · exact kept
  · split
    · exact (kept.modTeam ..).moved
    · exact kept

theorem Keeps.execTileoutGranule (kept : Keeps s₀ s) (core : Nat) : (execTileoutGranule core s).Kept s₀ := by
  unfold Machine.execTileoutGranule
  split
  · exact kept
  · split
    · exact kept
    · dsimp only
      split
      · split
        · exact kept
        · exact kept.landOut ..
      · split
        · exact kept
        · split
          · exact (kept.suspend ..).modTeam ..
          · exact kept.freezeCore ..
          · exact kept.askFor ..
          · exact kept
          · have moved := kept.movePiece _ _ ‹_›
            exact Res.Kept.ite (((moved.modHandle ..).modTeam ..).settled ..) ((moved.modHandle ..).landOut ..)

theorem Keeps.execBulkGranule (kept : Keeps s₀ s) (die : Nat) (engine queue : Fin 8) :
    (execBulkGranule die engine queue s).Kept s₀ := by
  unfold Machine.execBulkGranule
  dsimp only
  split
  · exact kept
  · split
    · exact kept
    · split
      · exact (kept.servedBulk ..).moved
      · split
        · exact kept.landBulk ..
        · split
          · exact (kept.suspend ..).servedBulk ..
          · exact kept.freezeEngine ..
          · exact kept.askFor ..
          · exact kept
          · have moved := kept.movePiece _ _ ‹_›
            exact Keeps.ite ((moved.modHandle ..).modCopy ..).moved ((moved.modHandle ..).landBulk ..)

theorem Keeps.execWatchdogExpire (kept : Keeps s₀ s) (core : Nat) : (execWatchdogExpire core s).Kept s₀ := by
  unfold Machine.execWatchdogExpire
  split
  · exact kept
  · split
    · exact kept
    · exact ((kept.stamped.postStamped ..).fold _ fun _ _ => (Keeps.ite (Keeps.refl _) ((Keeps.refl _).dogHalt ..))).moved

theorem Keeps.execFrameStart (kept : Keeps s₀ s) : (execFrameStart s).Kept s₀ := by
  unfold Machine.execFrameStart
  split
  · exact kept
  · have counted (s1 : State) (h : Keeps s₀ s1) := Keeps.fold (f := fun (s : State) p =>
      s.sendFlit p ⟨0x21, false, false, 0, bytesOf 8 s.time.toNat⟩) h s1.upPorts fun s _ => (Keeps.refl s).sendFlit ..
    generalize BitVec.ofNat 56 (32768 * (s.frame + 1)) = t
    have started (s1 : State) (h : s1.mem = (s.atTime t).mem) (h' : s1.issue = (s.atTime t).issue) : Keeps s₀ s1 :=
      (kept.atTime t).trans (Keeps.of_eq h h')
    refine Keeps.moved (Keeps.ite (Keeps.withTime (Keeps.postTimeLost (counted _ ?_)) ..) (counted _ ?_))
    · exact started _ rfl rfl
    · exact started _ rfl rfl

theorem Keeps.execSlotGuardOpen (kept : Keeps s₀ s) : (execSlotGuardOpen s).Kept s₀ := by
  unfold Machine.execSlotGuardOpen
  split
  · exact kept
  · exact ((kept.until_ ..).inPhase _).moved

theorem Keeps.execSlotStart (kept : Keeps s₀ s) : (execSlotStart s).Kept s₀ := by
  unfold Machine.execSlotStart
  split
  · exact kept
  · have frozen := fun s1 h es hes => Keeps.together (s₀ := s₀) (s := s1) h es hes
    dsimp only
    refine Keeps.moved (Keeps.ite (Keeps.withPorts (frozen _ (kept.slotStarts ..) _ ?_) _) (frozen _ (kept.slotStarts ..) _ ?_)) <;>
    · intro e he s
      obtain ⟨x, -, hx⟩ := List.mem_filterMap.1 he
      obtain ⟨q, -, rfl⟩ := Option.map_eq_some_iff.1 hx
      exact (Keeps.refl s).overrun ..

theorem Keeps.execSlotExtended (kept : Keeps s₀ s) (steps : Nat) : (execSlotExtended steps s).Kept s₀ := by
  unfold Machine.execSlotExtended
  split
  · exact kept
  · exact (kept.withSlotLen _).postAll ..

theorem Keeps.execSelfTestVerdict (kept : Keeps s₀ s) (die : Nat) (verdict : Verdict) :
    (execSelfTestVerdict die verdict s).Kept s₀ := by
  unfold Machine.execSelfTestVerdict
  split
  · exact kept
  · split
    · exact kept
    · exact (kept.withTesting _).postOwner ..

theorem Keeps.execIntegritySweepVisit (kept : Keeps s₀ s) (part : Fin 96) (line : Nat) :
    (execIntegritySweepVisit part line s).Kept s₀ := by
  unfold Machine.execIntegritySweepVisit
  split
  · exact kept
  · split
    · exact kept
    · split
      · exact kept
      · split
        · exact ((kept.modPart ..).reportIntegrity ..).moved
        · exact kept.modPart ..

theorem Keeps.execIntegrityPeriodEnd (kept : Keeps s₀ s) (part : Fin 96) : (execIntegrityPeriodEnd part s).Kept s₀ := by
  unfold Machine.execIntegrityPeriodEnd
  split
  · exact kept
  · split
    · exact kept
    · split
      · exact kept
      · dsimp only
        split
        · exact ((kept.modPart ..).reportIntegrity ..).moved
        · exact kept.modPart ..

theorem Keeps.execBallastWindow (kept : Keeps s₀ s) (sheaf : Fin 96) (issued : Nat) :
    (execBallastWindow sheaf issued s).Kept s₀ := by
  unfold Machine.execBallastWindow
  dsimp only
  split
  · exact Keeps.ite (kept.same rfl rfl) (kept.same rfl rfl)
  · exact kept.same rfl rfl

theorem Keeps.execReadGrantBudget (kept : Keeps s₀ s) (sheaf : Fin 96) (budget : Nat) :
    (execReadGrantBudget sheaf budget s).Kept s₀ := by
  unfold Machine.execReadGrantBudget
  split
  · exact kept
  · exact kept.same rfl rfl

theorem Keeps.execThermalEvent (kept : Keeps s₀ s) (sheaf : Fin 96) (budget : Nat) :
    (execThermalEvent sheaf budget s).Kept s₀ := by
  unfold Machine.execThermalEvent
  split
  · exact kept
  · exact kept.same rfl rfl

theorem Keeps.execPoolWrite (kept : Keeps s₀ s) (part : Fin 96) (sheaf : Fin 96) (cls : Fin 4) :
    (execPoolWrite part sheaf cls s).Kept s₀ := by
  unfold Machine.execPoolWrite
  split
  · exact kept
  · split
    · exact kept
    · exact (kept.modPart ..).moved

theorem Keeps.execEnergyLoRead (kept : Keeps s₀ s) (agent : EnergyAgent) : (execEnergyLoRead agent s).Kept s₀ := by
  unfold Machine.execEnergyLoRead
  split
  · exact kept.tlp _ _ _ fun _ => ((Keeps.refl _).modPart ..)
  · exact kept.same rfl rfl

theorem Keeps.execBroadcastPcTimeout (kept : Keeps s₀ s) (core group : Nat) : (execBroadcastPcTimeout core group s).Kept s₀ :=
  by
  unfold Machine.execBroadcastPcTimeout
  split
  · exact kept
  · split
    · exact kept
    · exact (kept.modGroup ..).moved

theorem Keeps.execRvzBoundExpire (kept : Keeps s₀ s) (core group : Nat) : (execRvzBoundExpire core group s).Kept s₀ := by
  unfold Machine.execRvzBoundExpire
  split
  · exact kept
  · split
    · exact kept
    · split
      · exact kept
      · exact ((kept.modGroup ..).afterEnds ..).moved

theorem Keeps.execYieldExpire (kept : Keeps s₀ s) (core group : Nat) : (execYieldExpire core group s).Kept s₀ := by
  unfold Machine.execYieldExpire
  split
  · exact (kept.modGroup ..).moved
  · exact kept

theorem Keeps.execHschRunEnd (kept : Keeps s₀ s) (core group : Nat) : (execHschRunEnd core group s).Kept s₀ := by
  unfold Machine.execHschRunEnd
  split
  · exact kept
  · split
    · exact kept
    · exact (kept.modGroup ..).moved

theorem Keeps.execCodeFetchFill (kept : Keeps s₀ s) (core : Nat) (line : Nat) : (execCodeFetchFill core line s).Kept s₀ :=
  kept.fetchCode ..

theorem Keeps.execMappedFillComplete (kept : Keeps s₀ s) (core region slot : Nat) :
    (execMappedFillComplete core region slot s).Kept s₀ := by
  unfold Machine.execMappedFillComplete
  split
  · exact kept
  · split
    · exact kept
    · exact Keeps.ite (((kept.fillSlotNow ..).replayTeam ..).settled ..) (kept.fillSlotNow ..)

theorem Keeps.execMappedWriteBack (kept : Keeps s₀ s) (core region slot : Nat) :
    (execMappedWriteBack core region slot s).Kept s₀ := by
  unfold Machine.execMappedWriteBack
  split
  · split
    · exact kept
    · exact Keeps.ite ((kept.writeBack ..).settled ..) (kept.writeBack ..)
  · exact kept

theorem Keeps.execBarrierEpisodeComplete (kept : Keeps s₀ s) (core : Nat) (cell : Fin 8) :
    (execBarrierEpisodeComplete core cell s).Kept s₀ := by
  unfold Machine.execBarrierEpisodeComplete
  split
  · exact kept
  · exact kept.completeCell ..

theorem Keeps.execLaunchCommit (kept : Keeps s₀ s) (part : Fin 96) (slot : Fin 32) (record : LaunchBytes) :
    (execLaunchCommit part slot record s).Kept s₀ := kept.tlp _ _ _ fun _ => ((Keeps.refl _).commitWrite ..)

theorem Keeps.execKill (kept : Keeps s₀ s) (part : Fin 96) (seq : Word64) : (execKill part seq s).Kept s₀ := by
  unfold Machine.execKill
  refine kept.tlp _ _ _ fun _ => ?_
  split
  · exact Keeps.refl _
  · exact Keeps.ite (Keeps.refl _) (Keeps.ite ((Keeps.refl _).killLaunch ..) ((Keeps.refl _).modPart ..))

theorem Keeps.tableErrors (p : Part) (r : LaunchBytes) (t : Tables) (s : State) :
    ∀ e ∈ s.tableErrors p r t, ∀ s1, Keeps s1 (e.2 s1) := by
  intro e he s1
  obtain ⟨x, -, hx⟩ := List.mem_filterMap.1 he
  split at hx
  · obtain ⟨d, -, rfl⟩ := Option.map_eq_some_iff.1 hx
    exact (Keeps.refl s1).reportCut ..
  · cases hx

theorem Keeps.execRecordCopy (kept : Keeps s₀ s) (part : Fin 96) : (execRecordCopy part s).Kept s₀ := by
  unfold Machine.execRecordCopy
  split
  · exact kept
  · split
    · exact kept
    · split
      · exact kept
      · refine Keeps.moved (Keeps.together kept _ fun e he s1 => ?_)
        rcases List.mem_cons.1 he with rfl | he
        · exact (Keeps.refl s1).recordCopied ..
        · exact Keeps.tableErrors _ _ _ _ e he s1

theorem Keeps.execTeamPlace (kept : Keeps s₀ s) (part : Fin 96) : (execTeamPlace part s).Kept s₀ := by
  unfold Machine.execTeamPlace
  split
  · exact kept
  · have loaded := Keeps.fold kept (s.queueWaits part.val) fun s c => (Keeps.refl s).loadQueue c
    dsimp only
    split
    · next h =>
      obtain ⟨p, -, hp⟩ := Option.bind_eq_some_iff.1 h
      exact ((loaded.placeFirst _ _ hp).postBlocked ..).moved
    · exact loaded.postBlocked ..

theorem Keeps.execScratchpadImageCopy (kept : Keeps s₀ s) (core : Nat) : (execScratchpadImageCopy core s).Kept s₀ := by
  unfold Machine.execScratchpadImageCopy
  split
  · exact kept
  · split
    · split
      · exact kept
      · dsimp only
        split
        · exact kept
        · split
          · split
            · exact kept
            · split
              · exact kept.freezeEngine ..
              · exact (kept.postTranslate ..).moved
          · split
            · exact kept
            · exact Keeps.ite (((kept.fold _ fun _ _ => ((Keeps.refl _).landImage ..)).modTeam ..).moved.loadQueue ..) (((kept.fold _ fun _ _ => ((Keeps.refl _).landImage ..)).modTeam ..).moved)
    · exact kept

theorem Keeps.execTeamEnd (kept : Keeps s₀ s) (core : Nat) : (execTeamEnd core s).Kept s₀ := by
  unfold Machine.execTeamEnd
  split
  · exact kept
  · split
    · split
      · exact kept
      · dsimp only
        split
        · split
          · exact kept
          · exact ((((((((((kept.modTeam ..).dropUser ..).setEnd ..).unsettleEnd ..).modPart ..).crewDown ..).releaseCrew ..).checkDone ..).postBlocked ..).fillSlot ..).moved
        · split
          · split
            · exact kept.flushTeam ..
            · exact (((((((((((kept.flushTeam ..).modTeam ..).dropUser ..).setEnd ..).unsettleEnd ..).modPart ..).crewDown ..).releaseCrew ..).checkDone ..).postBlocked ..).fillSlot ..).moved
          · split
            · exact kept.triggerTeam ..
            · exact (((((((((((kept.triggerTeam ..).modTeam ..).dropUser ..).setEnd ..).unsettleEnd ..).modPart ..).crewDown ..).releaseCrew ..).checkDone ..).postBlocked ..).fillSlot ..).moved
    · exact kept

theorem Keeps.execPreempt (kept : Keeps s₀ s) (part : Fin 96) (seq : Word64) : (execPreempt part seq s).Kept s₀ := by
  unfold Machine.execPreempt
  refine kept.tlp _ _ _ fun _ => ?_
  dsimp only
  split
  · exact Keeps.refl _
  · exact Keeps.ite (Keeps.refl _) ((((Keeps.refl _).fold _ fun _ _ => ((Keeps.refl _).stopTeam ..)).modPart ..).moved)

theorem Keeps.execContextSaveComplete (kept : Keeps s₀ s) (part : Fin 96) : (execContextSaveComplete part s).Kept s₀ := by
  have flushed (on : List Nat) := Keeps.foldFst (f := fun (acc : State × Bool) c =>
    ((acc.1.flushTeam c none 0 0).1, acc.2 && (acc.1.flushTeam c none 0 0).2)) (acc := (s, true)) kept on
    fun acc _ => (Keeps.refl acc.1).flushTeam ..
  have saved (on : List Nat) {s1 : State} (h : Keeps s₀ s1) := Keeps.fold (f := fun (s : State) c => (s.stopAgain c).saveTeam c)
    h on fun s c => ((Keeps.refl s).stopAgain c).saveTeam c
  unfold Machine.execContextSaveComplete
  split
  · exact kept
  · dsimp only
    split
    · exact kept
    · split
      · exact flushed _
      · exact (((((saved _ (flushed _)).dropCrews ..).goAgain ..).modPart ..).post ..).moved

theorem Keeps.execRestore (kept : Keeps s₀ s) (part : Fin 96) (seq : Word64) : (execRestore part seq s).Kept s₀ :=
  kept.tlp _ _ _ fun _ => ((Keeps.refl _).modPart ..).moved

theorem Keeps.execRegisterWrite (kept : Keeps s₀ s) (part : Fin 96) (offset : Nat) (value : Word64) :
    (execRegisterWrite part offset value s).Kept s₀ :=
    kept.tlp _ _ _ fun _ => (Keeps.ite ((Keeps.refl _).windowWrite ..) ((Keeps.refl _).modPart ..))

theorem Keeps.execFqconsWrite (kept : Keeps s₀ s) (part : Fin 96) (value : Word64) : (execFqconsWrite part value s).Kept s₀ :=
  kept.tlp _ _ _ fun _ => (((Keeps.refl _).modPart ..).drain ..)

theorem Keeps.execXactRetry (kept : Keeps s₀ s) (part : Fin 96) (stamp : Word64) : (execXactRetry part stamp s).Kept s₀ := by
  unfold Machine.execXactRetry
  refine kept.tlp _ _ _ fun _ => ?_
  split
  · exact Keeps.refl _
  · exact (((Keeps.refl _).modPart ..).retryAgent ..).moved

theorem Keeps.execXactFail (kept : Keeps s₀ s) (part : Fin 96) (stamp : Word64) : (execXactFail part stamp s).Kept s₀ := by
  unfold Machine.execXactFail
  refine kept.tlp _ _ _ fun _ => ?_
  split
  · exact Keeps.refl _
  · exact (((Keeps.refl _).modPart ..).failAgent ..).moved

theorem Keeps.execXinv (kept : Keeps s₀ s) (part : Fin 96) : (execXinv part s).Kept s₀ :=
  kept.tlp _ _ _ fun _ => ((Keeps.refl _).modPart ..).moved

theorem Keeps.execXinvComplete (kept : Keeps s₀ s) (part : Fin 96) : (execXinvComplete part s).Kept s₀ := by
  unfold Machine.execXinvComplete
  split
  · exact kept
  · split
    · exact (kept.modPart ..).moved
    · exact kept

theorem Keeps.execResume (kept : Keeps s₀ s) (part : Fin 96) (slot : Nat) : (execResume part slot s).Kept s₀ := by
  unfold Machine.execResume
  refine kept.tlp _ _ _ fun _ => ?_
  dsimp only
  split
  · exact ((Keeps.refl _).modPart ..).returnGroup ..
  · split
    · exact (Keeps.refl _).returnGroup ..
    · exact ((((Keeps.refl _).modGroup ..).returnGroup ..).replayGroup ..).settled ..

theorem Keeps.execSkip (kept : Keeps s₀ s) (part : Fin 96) (slot : Nat) : (execSkip part slot s).Kept s₀ := by
  unfold Machine.execSkip
  refine kept.tlp _ _ _ fun _ => ?_
  dsimp only
  split
  · exact ((Keeps.refl _).modPart ..).returnGroup ..
  · exact (((Keeps.refl _).modGroup ..).returnGroup ..).settled ..

theorem Keeps.execHaltKill (kept : Keeps s₀ s) (part : Fin 96) (slot : Nat) : (execHaltKill part slot s).Kept s₀ := by
  unfold Machine.execHaltKill
  refine kept.tlp _ _ _ fun _ => ?_
  split
  · exact (Keeps.refl _).killTeam ..
  · split
    · exact (Keeps.refl _).killSaved ..
    · exact Keeps.refl _

theorem Keeps.execMeasurementExtend (kept : Keeps s₀ s) (index : Fin 16) (digest : BitVec 384) :
    (execMeasurementExtend index digest s).Kept s₀ := by
  unfold Machine.execMeasurementExtend
  split
  · exact kept
  · exact kept.extend ..

theorem Keeps.execSheavesWrite (kept : Keeps s₀ s) (part : Fin 96) (sheaves : BitVec 96) :
    (execSheavesWrite part sheaves s).Kept s₀ := by
  unfold Machine.execSheavesWrite
  split
  · exact kept
  · dsimp only
    split
    · exact kept
    · exact ((kept.passOn ..).modPart ..).moved

theorem Keeps.execStage1Write (kept : Keeps s₀ s) (part : Fin 96) (root : BitVec 48) :
    (execStage1Write part root s).Kept s₀ := (kept.modPart ..).moved

theorem Keeps.execRangesWrite (kept : Keeps s₀ s) (part : Fin 96) (index : Fin 48) (entry : RangeEntry) :
    (execRangesWrite part index entry s).Kept s₀ := by
  unfold Machine.execRangesWrite
  split
  · exact kept
  · split
    · exact (kept.setRange ..).moved
    · exact kept

theorem Keeps.execEnginesWrite (kept : Keeps s₀ s) (part : Fin 96) (engines : BitVec 256) :
    (execEnginesWrite part engines s).Kept s₀ := by
  unfold Machine.execEnginesWrite
  split
  · exact kept
  · dsimp only
    split
    · exact kept
    · exact (kept.modPart ..).moved

theorem Keeps.execPartitionCreate (kept : Keeps s₀ s) (cfg : PartCfg) : (execPartitionCreate cfg s).Kept s₀ := by
  unfold Machine.execPartitionCreate
  dsimp only
  split
  · exact kept
  · exact (((kept.bringUp.withParts ..).setRanges ..).measure ..).moved

theorem Keeps.execPartitionDestroy (kept : Keeps s₀ s) (part : Fin 96) : (execPartitionDestroy part s).Kept s₀ := by
  unfold Machine.execPartitionDestroy
  split
  · exact kept
  · exact (kept.destroy ..).moved

theorem Keeps.execCoreRelease (kept : Keeps s₀ s) (core : Nat) : (execCoreRelease core s).Kept s₀ := by
  unfold Machine.execCoreRelease
  split
  · exact ((kept.setCore ..).replayTeam ..).settled ..
  · exact kept

theorem Keeps.execEngineRelease (kept : Keeps s₀ s) (die : Nat) (engine : Fin 8) : (execEngineRelease die engine s).Kept s₀ :=
  by
  unfold Machine.execEngineRelease
  dsimp only
  split
  · exact (kept.setEngine ..).moved
  · exact kept

theorem Keeps.execTenantTableWrite (kept : Keeps s₀ s) (index : Fin 256) (entry : Word64) :
    (execTenantTableWrite index entry s).Kept s₀ := by
  unfold Machine.execTenantTableWrite
  split
  · exact (kept.withTenants _).measure ..
  · exact kept

theorem execReset_kept (s : State) :
    ∃ t, execReset s = .next t ∧ t.mem.wf = true ∧ t.issue = none := ⟨_, rfl, rfl, rfl⟩

theorem Keeps.execDieUnreachable (kept : Keeps s₀ s) (die : Nat) : (execDieUnreachable die s).Kept s₀ := by
  unfold Machine.execDieUnreachable
  split
  · exact kept
  · refine Keeps.moved (Keeps.together ((kept.dropDie ..).cutOff ..) _ fun e he s1 => ?_)
    rcases List.mem_cons.1 he with rfl | he
    · exact (Keeps.refl s1).errorReport ..
    · obtain rfl := List.mem_singleton.1 he
      exact ((Keeps.refl s1).fold _ fun s _ => ((Keeps.refl s).loseTeams ..).unsettle ..).fold _
        fun s _ => (Keeps.refl s).postBlocked ..

theorem Keeps.execInboundApertureAccess (kept : Keeps s₀ s) (part : Fin 96) (offset : Nat) (access : OutAccess) :
    (execInboundApertureAccess part offset access s).Kept s₀ := by
  unfold Machine.execInboundApertureAccess
  split
  · exact kept.complete_ ..
  · exact kept.tlp _ _ _ fun _ => ((Keeps.refl _).serveInbound ..)

theorem Keeps.execVaultApertureAccess (kept : Keeps s₀ s) (part : Fin 96) (offset : Nat) (access : OutAccess) :
    (execVaultApertureAccess part offset access s).Kept s₀ := by
  unfold Machine.execVaultApertureAccess
  split
  · exact kept.complete_ ..
  · refine kept.tlp _ _ _ fun s => ?_
    split
    · exact (Keeps.refl s).complete_ ..
    · exact (Keeps.answerOut _ _ _ ((Keeps.refl s).outPerform ..)).moved

theorem Keeps.execCxlMemAccess (kept : Keeps s₀ s) (part : Fin 96) (address : Nat) (access : OutAccess) :
    (execCxlMemAccess part address access s).Kept s₀ := by
  unfold Machine.execCxlMemAccess
  split
  · exact kept
  · exact kept.serveCxl ..

theorem Keeps.execQuery (kept : Keeps s₀ s) (part : Fin 96) : (execQuery part s).Kept s₀ :=
  kept.ideRequest _ _ _ fun _ _ => (Keeps.refl _)

theorem Keeps.execKeyProg (kept : Keeps s₀ s) (part : Fin 96) (keySet : Bool) : (execKeyProg part keySet s).Kept s₀ :=
  kept.ideRequest _ _ _ fun _ _ => ((Keeps.refl _).modPart ..)

theorem Keeps.execKSetGo (kept : Keeps s₀ s) (part : Fin 96) (keySet : Bool) : (execKSetGo part keySet s).Kept s₀ :=
  kept.ideRequest _ _ _ fun _ _ => (Keeps.ite (((Keeps.refl _).modPart ..).measure ..) (Keeps.refl _))

theorem Keeps.execKSetStop (kept : Keeps s₀ s) (part : Fin 96) (keySet : Bool) : (execKSetStop part keySet s).Kept s₀ :=
  kept.ideRequest _ _ _ fun _ _ => (Keeps.ite (((Keeps.refl _).modPart ..).measure ..) (Keeps.refl _))

theorem Keeps.execGetTdispVersion (kept : Keeps s₀ s) (part : Fin 96) : (execGetTdispVersion part s).Kept s₀ :=
  kept.tdispRequest _ _ fun _ _ => ((Keeps.refl _).reply ..)

theorem Keeps.execGetTdispCapabilities (kept : Keeps s₀ s) (part : Fin 96) : (execGetTdispCapabilities part s).Kept s₀ :=
  kept.tdispRequest _ _ fun _ _ => ((Keeps.refl _).reply ..)

theorem Keeps.execLockInterfaceRequest (kept : Keeps s₀ s) (part : Fin 96) (via : Mailbox) :
    (execLockInterfaceRequest part via s).Kept s₀ :=
    kept.tdispRequest _ _ fun _ _ => (Keeps.ite ((((Keeps.refl _).modPart ..).measure ..).reply ..) ((Keeps.refl _).tdispError ..))

theorem Keeps.execGetDeviceInterfaceReport (kept : Keeps s₀ s) (part : Fin 96) :
    (execGetDeviceInterfaceReport part s).Kept s₀ := kept.tdispRequest _ _ fun _ _ => ((Keeps.refl _).reply ..)

theorem Keeps.execGetDeviceInterfaceState (kept : Keeps s₀ s) (part : Fin 96) :
    (execGetDeviceInterfaceState part s).Kept s₀ := kept.tdispRequest _ _ fun _ _ => ((Keeps.refl _).reply ..)

theorem Keeps.execStartInterfaceRequest (kept : Keeps s₀ s) (part : Fin 96) : (execStartInterfaceRequest part s).Kept s₀ :=
  kept.tdispRequest _ _ fun _ _ => (Keeps.ite ((((Keeps.refl _).modPart ..).measure ..).reply ..) ((Keeps.refl _).tdispError ..))

theorem Keeps.execStopInterfaceRequest (kept : Keeps s₀ s) (part : Fin 96) : (execStopInterfaceRequest part s).Kept s₀ :=
  kept.tdispRequest _ _ fun _ _ => (((Keeps.ite ((Keeps.refl _).destroy ..) (((Keeps.refl _).wipe ..).modPart ..)).measure ..).reply ..).moved

theorem Keeps.execGetVersion (kept : Keeps s₀ s) (via : Mailbox) : (execGetVersion via s).Kept s₀ :=
  (kept.withSpdm _).spdmReply ..

theorem Keeps.execGetCapabilities (kept : Keeps s₀ s) (via : Mailbox) : (execGetCapabilities via s).Kept s₀ :=
  (kept.withSpdm _).spdmReply ..

theorem Keeps.execNegotiateAlgorithms (kept : Keeps s₀ s) (via : Mailbox) : (execNegotiateAlgorithms via s).Kept s₀ :=
  (kept.withSpdm _).spdmReply ..

theorem Keeps.execGetDigests (kept : Keeps s₀ s) (via : Mailbox) : (execGetDigests via s).Kept s₀ := kept.spdmReply ..

theorem Keeps.execGetCertificate (kept : Keeps s₀ s) (via : Mailbox) : (execGetCertificate via s).Kept s₀ := kept.spdmReply ..

theorem Keeps.execChallenge (kept : Keeps s₀ s) (via : Mailbox) : (execChallenge via s).Kept s₀ := kept.spdmReply ..

theorem Keeps.execGetMeasurements (kept : Keeps s₀ s) (via : Mailbox) : (execGetMeasurements via s).Kept s₀ := kept.spdmSay ..

theorem Keeps.execKeyExchange (kept : Keeps s₀ s) (via : Mailbox) (stream : Option (Fin 96 × BitVec 16)) :
    (execKeyExchange via stream s).Kept s₀ := by
  unfold Machine.execKeyExchange
  dsimp only
  split
  · exact (kept.withSpdm _).spdmReply ..
  · exact ((((kept.withSpdm _).spdmReply ..).withStreams ..).withKeys ..).settleStreams.moved

theorem Keeps.execFinish (kept : Keeps s₀ s) (via : Mailbox) : (execFinish via s).Kept s₀ := by
  unfold Machine.execFinish
  split
  · exact (kept.withSpdm _).spdmReply ..
  · exact kept.spdmReply ..

theorem Keeps.execSpdmUnsupported (kept : Keeps s₀ s) (via : Mailbox) : (execSpdmUnsupported via s).Kept s₀ := kept.spdmSay ..

theorem Keeps.execWrite (kept : Keeps s₀ s) (f : Flit) (va : BitVec 64) (mask : BitVec 128) (bytes : List Byte) :
    (execWrite f va mask bytes s).Kept s₀ := Keeps.ite ((kept.receive ..).serveWrite ..) (kept.receive ..)

theorem Keeps.execRead (kept : Keeps s₀ s) (f : Flit) (va : BitVec 64) (count : Nat) : (execRead f va count s).Kept s₀ :=
  Keeps.ite ((kept.receive ..).serveRead ..) (kept.receive ..)

theorem Keeps.execAtomic (kept :
    Keeps s₀ s) (f : Flit) (va : BitVec 64) (major : Nat) (mod : Nat) (order : Option (Order × Scope)) (operands : List Byte) :
    (execAtomic f va major mod order operands s).Kept s₀ := Keeps.ite ((kept.receive ..).serveAtomic ..) (kept.receive ..)

theorem Keeps.execSlotEnd (kept : Keeps s₀ s) : (execSlotEnd s).Kept s₀ := by
  unfold Machine.execSlotEnd
  split
  · exact kept
  · exact ((kept.until_ ..).inPhase _).serveDeferred.replayAll.moved

theorem Keeps.execFunctionReady (kept : Keeps s₀ s) (register : Fin 3) (bitNo : Fin 64) :
    (execFunctionReady register bitNo s).Kept s₀ := by
  unfold Machine.execFunctionReady
  split
  · exact kept
  · exact (kept.bringUp.setReady ..).serveDeferred.replayAll.moved

theorem Keeps.execReadResponse (kept : Keeps s₀ s) (f : Flit) (bytes : List Byte) : (execReadResponse f bytes s).Kept s₀ := by
  unfold Machine.execReadResponse
  dsimp only
  split
  · split
    · exact kept.receive ..
    · exact ((kept.receive ..).handAnswer ..).settleStreams
  · exact kept.receive ..

theorem Keeps.execAtomicResponse (kept : Keeps s₀ s) (f : Flit) (old : Word64) : (execAtomicResponse f old s).Kept s₀ := by
  unfold Machine.execAtomicResponse
  dsimp only
  split
  · split
    · exact ((kept.receive ..).handAnswer ..).settleStreams
    · exact kept.receive ..
  · exact kept.receive ..

theorem Keeps.execAck (kept : Keeps s₀ s) (f : Flit) (tags : List (BitVec 32)) : (execAck f tags s).Kept s₀ := by
  unfold Machine.execAck
  dsimp only
  split
  · exact kept.receive ..
  · exact ((kept.receive ..).withRequests _).settleStreams.moved

theorem Keeps.execLaunch (kept : Keeps s₀ s) (f : Flit) (target : Byte) (record : LaunchBytes) :
    (execLaunch f target record s).Kept s₀ := by
  unfold Machine.execLaunch
  dsimp only
  split
  · exact kept.receive ..
  · split
    · exact ((kept.receive ..).respond ..).postMgmt ..
    · split
      · exact (((kept.receive ..).commitWrite ..).modPart ..).moved
      · exact (((kept.receive ..).commitWrite ..).respond ..).moved

theorem Keeps.execLaunchResult (kept : Keeps s₀ s) (f : Flit) (_verdict : Byte) : (execLaunchResult f _verdict s).Kept s₀ :=
  kept.receive ..

theorem Keeps.execFlitNop (kept : Keeps s₀ s) (_f : Flit) : (execFlitNop _f s).Kept s₀ := kept

theorem Keeps.execFlitUnlisted (kept : Keeps s₀ s) (f : Flit) (_type : Byte) : (execFlitUnlisted f _type s).Kept s₀ := by
  unfold Machine.execFlitUnlisted
  split
  · exact kept
  · exact (kept.withDraws _).postMgmt ..

theorem Keeps.execCapability (kept : Keeps s₀ s) (f : Flit) (package : BitVec 16) (stook timeMaster : Bool) :
    (execCapability f package stook timeMaster s).Kept s₀ := kept.modPort ..

theorem Keeps.execLinkTrained (kept : Keeps s₀ s) (port : Fin 12) (peer : BitVec 16) :
    (execLinkTrained port peer s).Kept s₀ := (((kept.bringUp.modPort ..).sendFlit ..).setReady ..).moved

theorem Keeps.execLinkDown (kept : Keeps s₀ s) (port : Fin 12) : (execLinkDown port s).Kept s₀ := kept.portDown ..

theorem Keeps.execLaneFails (kept : Keeps s₀ s) (port : Fin 12) : (execLaneFails port s).Kept s₀ := by
  unfold Machine.execLaneFails
  dsimp only
  split
  · exact (kept.modPort ..).portDown ..
  · exact kept.modPort ..

theorem Keeps.execStreamMove (kept : Keeps s₀ s) (part : Fin 96) (package : BitVec 16) :
    (execStreamMove part package s).Kept s₀ := by
  unfold Machine.execStreamMove
  split
  · split
    · exact kept
    · exact (kept.withStreams_ _).flushReplies.moved
  · exact kept

theorem Keeps.execHostReadCompletion (kept : Keeps s₀ s) (tag : BitVec 32) (bytes : List Byte) (poison : Bool) :
    (execHostReadCompletion tag bytes poison s).Kept s₀ := by
  unfold Machine.execHostReadCompletion
  split
  · exact kept.tlp _ _ _ fun _ => ((Keeps.refl _).handAnswer ..)
  · exact kept

theorem Keeps.execTime (kept : Keeps s₀ s) (f : Flit) (time : BitVec 56) : (execTime f time s).Kept s₀ := by
  unfold Machine.execTime
  split
  · exact kept
  · dsimp only
    split
    · exact (Keeps.stepTime (kept.withTimeHad true) _).withTimeOff _
    · exact Keeps.ite (((Keeps.slew (kept.withTimeHad true) _).withTimeOff _).postTimeLost.withTimeOff _) ((Keeps.slew (kept.withTimeHad true) _).withTimeOff _)

theorem Keeps.execMatrixQueuePerform (kept : Keeps s₀ s) (core : Nat) : (execMatrixQueuePerform core s).Kept s₀ := by
  unfold Machine.execMatrixQueuePerform
  split
  · exact kept
  · split
    · exact kept
    · split
      · split
        · dsimp only
          split
          · exact kept.dropFollow ..
          · split
            · exact kept
            · split
              · exact kept.dropFollow ..
              · exact (kept.performEntry ..).mqPop ..
        · exact (kept.performEntry ..).mqPop ..
      · exact kept

end Sys2Proof.Machine
end

section
/-!
PROOF. Every instruction that is no event ends the unit in hand, and keeps memory in canonical form. One lemma per shape of
unit, and one per instruction that acts on memory, on its group or on tasks.
-/
namespace Sys2Proof.Machine

-- The proofs of this file run one after another: side by side they take the check's memory.
set_option Elab.async false
variable {s₀ s : State}

/-- A meaning answers a next state with no unit in hand, whose memory is canonical where it was. -/
def Res.Ends (s₀ : State) : Res → Prop
  | .next s => (s₀.mem.wf = true → s.mem.wf = true) ∧ s.issue = none
  | .fault _ => False
  | .refused _ => False

theorem Res.Ends.ite {c : Prop} [Decidable c] {a b : Res} (ha : a.Ends s₀) (hb : b.Ends s₀) :
    (if c then a else b : Res).Ends s₀ := by
  split <;> assumption

theorem GroupEnd.Kept.ite {c : Prop} [Decidable c] {a b : GroupEnd} (ha : a.Kept s₀) (hb : b.Kept s₀) :
    (if c then a else b : GroupEnd).Kept s₀ := by
  split <;> assumption

theorem Keeps.finish (kept : Keeps s₀ s) (c : Ctx) (fails : List (Nat × Cause)) :
    Res.Ends s₀ (.next (s.finish c fails)) :=
  ⟨fun h => (finish_keeps s c fails).1 (kept.wf h), (finish_keeps s c fails).2⟩

theorem Keeps.stall (kept : Keeps s₀ s) (c : Ctx) : Res.Ends s₀ (.next (s.stall c)) :=
  ⟨fun h => (stall_keeps s c).1 (kept.wf h), (stall_keeps s c).2⟩

section
variable {c : Ctx} (hc : s.context = some c)
include hc

theorem localUnit_ends (i : Instr) (body : Ctx → Nat → Lane → LaneEnd) : (localUnit i s body).Ends s := by
  unfold localUnit
  rw [hc]
  exact ((Keeps.refl s).modGroup ..).finish ..

theorem groupUnit_ends (i : Instr) (body : Ctx → State → GroupEnd) (hb : (body c s).Kept s) : (groupUnit i s body).Ends s := by
  unfold groupUnit
  rw [hc]
  refine Res.Ends.ite (((Keeps.refl s).modGroup ..).finish ..) (Res.Ends.ite ((Keeps.refl s).finish ..)
    (Res.Ends.ite ((Keeps.refl s).finish ..) ?_))
  generalize body c s = e at hb
  cases e with
  | go s1 f => exact Keeps.finish (Keeps.allPast hb ..) ..
  | fail e => exact (Keeps.refl s).finish ..
  | retry s1 => exact Keeps.stall hb ..
  | wait s1 w => exact Keeps.finish (Keeps.modGroup hb ..) ..

omit hc in
theorem memLane_keeps (i : Instr) (c : Ctx) (body : Ctx → State → Nat → Lane → State × LaneEnd)
    (hb : ∀ s n l, Keeps s (body c s n l).1) (acc : State × List (Nat × Cause) × Bool) (n : Nat) :
    Keeps acc.1 (memLane i c body acc n).1 := by
  unfold memLane
  dsimp only
  split
  · exact (Keeps.refl acc.1).modLane ..
  · exact (hb ..).modLane ..

omit hc in
theorem taskLane_keeps (i : Instr) (c : Ctx) (body : Ctx → State → Nat → Lane → State × LaneEnd)
    (hb : ∀ s n l, Keeps s (body c s n l).1) (acc : State × List (Nat × Cause) × Bool) (n : Nat) :
    Keeps acc.1 (taskLane i c body acc n).1 := by
  unfold taskLane
  split
  · exact memLane_keeps i c body hb acc n
  · exact Keeps.refl acc.1

theorem memUnit_ends (i : Instr) (body : Ctx → State → Nat → Lane → State × LaneEnd)
    (hb : ∀ s n l, Keeps s (body c s n l).1) : (memUnit i s body).Ends s := by
  have kept := Keeps.foldFst (acc := (s, [], false)) (Keeps.refl s) c.lanes (memLane_keeps i c body hb)
  unfold memUnit
  rw [hc]
  dsimp only
  split
  · exact kept.finish ..
  · exact kept.stall ..

theorem taskUnit_ends (i : Instr) (body : Ctx → State → Nat → Lane → State × LaneEnd)
    (hb : ∀ s n l, Keeps s (body c s n l).1) : (taskUnit i s body).Ends s := by
  have kept := Keeps.foldFst (acc := (s, [], false)) (Keeps.refl s) c.lanes (taskLane_keeps i c body hb)
  unfold taskUnit
  rw [hc]
  dsimp only
  split
  · exact kept.finish ..
  · exact kept.stall ..
end

section
variable {c : Ctx} (hc : s.context = some c)
include hc

theorem scalar_ends (i : Instr) (d : Fin 32) (f : Vector Word 32 → List Hint → Word) : (scalar i d f s).Ends s :=
  groupUnit_ends hc _ _ ((Keeps.refl _).modGroup ..)

theorem scalarsUnit_ends (i : Instr) (d : Nat) (f : Ctx → State → List Word) : (scalarsUnit i d f s).Ends s :=
  groupUnit_ends hc _ _ ((Keeps.refl _).modGroup ..)

theorem regionUnit_ends (i : Instr) (x : OpVOne) (wait : Bool) (f : Nat → State → Nat → State)
    (hf : ∀ core s id, Keeps s (f core s id)) : (regionUnit i x wait f s).Ends s := by
  refine groupUnit_ends hc _ _ ?_
  dsimp only
  split
  · trivial
  · split
    · exact Keeps.refl s
    · split
      · exact Keeps.refl s
      · have kept := fun id n => (Keeps.refl s).writeBackRegion c.core id (some c.gi) c.place.pc (lanesMask c.lanes) 0 n
        split
        · exact (kept _ _).trans (hf ..)
        · exact kept _ _

theorem handleUnit_ends (i : Instr) (a : SSrc) (f : Ctx → State → Nat → Handle → GroupEnd)
    (hf : ∀ v h, (f c s v h).Kept s) : (handleUnit i a s f).Ends s := by
  refine groupUnit_ends hc _ _ ?_
  dsimp only
  split
  · trivial
  · split
    · trivial
    · exact hf ..

theorem productUnit_ends (i : Instr) (f : Ctx → Product) : (productUnit i s f).Ends s := by
  refine groupUnit_ends hc _ _ ?_
  dsimp only
  split
  · trivial
  · split
    · exact Keeps.refl s
    · split
      · trivial
      · exact (Keeps.refl s).queueMatrix ..

theorem drainUnit_ends (i : Instr) (x : OpDrn) (ty : Nat) : (drainUnit i x ty s).Ends s := by
  refine groupUnit_ends hc _ _ ?_
  split
  · exact trivial
  · split
    · exact Keeps.refl _
    · split
      · exact trivial
      · exact ((Keeps.refl _).modHandle ..).queueMatrix ..

theorem plainEntry_ends (i : Instr) : (plainEntry i s).Ends s := by
  refine groupUnit_ends hc _ _ ?_
  split
  · exact Keeps.refl _
  · exact (Keeps.refl _).queueMatrix ..

theorem readerUnit_ends (i : Instr) (n : Nat) (chk : Handle → TileDesc → Option Nat) (step : Ctx → Word) : (readerUnit i n chk step s).Ends s := by
  refine groupUnit_ends hc _ _ ?_
  split
  · exact trivial
  · split
    · exact trivial
    · split
      · exact Keeps.refl _
      · dsimp only
        split
        · exact trivial
        · exact (Keeps.refl _).queueMatrix ..

theorem execReadl_ends (x : OpReadL) : (execReadl x s).Ends s := groupUnit_ends hc _ _ ((Keeps.refl _).modGroup ..)

theorem execCall_ends (x : OpB) : (execCall x s).Ends s := memUnit_ends hc _ _ fun _ _ _ => ((Keeps.refl _).callBody ..)

theorem execCallr_ends (x : OpGA) : (execCallr x s).Ends s := memUnit_ends hc _ _ fun _ _ _ => ((Keeps.refl _).callBody ..)

theorem execRet_ends (x : OpG) : (execRet x s).Ends s := by
  refine memUnit_ends hc _ _ fun s n l => ?_
  split
  · exact Keeps.refl _
  · split
    · exact Keeps.refl _
    · exact (Keeps.refl _).pop_stay ‹_›
    · exact (Keeps.refl _).pop_wait ‹_›
    · exact (Keeps.refl _).pop_ok ‹_›

theorem execRvz_ends (x : OpGA) : (execRvz x s).Ends s := by
  refine groupUnit_ends hc _ _ ?_
  split
  · exact Keeps.refl s
  · exact GroupEnd.Kept.ite (Keeps.refl s) ((Keeps.refl s).modGroup ..)

theorem execSyncl_ends (x : OpGA) : (execSyncl x s).Ends s := by
  refine memUnit_ends hc _ _ fun s n l => ?_
  split
  · exact Keeps.refl _
  · split
    · exact Keeps.refl _
    · exact Keeps.refl _

theorem execExit_ends (x : OpG) : (execExit x s).Ends s := by
  refine memUnit_ends hc _ _ fun s n l => ?_
  split
  · exact Keeps.refl _
  · split
    · exact Keeps.refl _
    · split
      · exact Keeps.refl _
      · exact (Keeps.refl _).releaseTask ..

theorem execCenter_ends (x : OpCenter) : (execCenter x s).Ends s := by
  refine memUnit_ends hc _ _ fun s n l0 => ?_
  dsimp only
  generalize (if x.g.holds l0 then l0.sided else l0) = l
  split
  · exact Keeps.refl _
  · split
    · exact Keeps.refl _
    · split
      · exact Keeps.refl _
      · split
        · exact Keeps.refl _
        · split
          · exact Keeps.refl _
          · exact (Keeps.refl _).reportCut ..
          · exact (Keeps.refl _).access_hold ‹_›
          · split
            · exact ((Keeps.refl _).access_log ‹_›).logLane ..
            · exact Keeps.refl _
          · exact (Keeps.refl _).access_done ‹_›

theorem execSigc_ends (x : OpSigc) : (execSigc x s).Ends s := by
  refine memUnit_ends hc _ _ fun s n l => ?_
  split
  · exact Keeps.refl _
  · dsimp only
    split
    · exact Keeps.refl _
    · split
      · exact Keeps.refl _
      · split
        · exact (Keeps.refl _).freezeCore ..
        · split
          · exact Keeps.refl _
          · dsimp only
            split
            · exact ((((Keeps.refl _).strayBytes ..).store ..).strayBytes ..).noteBy ..
            · exact (Keeps.refl _).strayBytes ..

theorem execLd_ends (x : OpLd) : (execLd x s).Ends s := memUnit_ends hc _ _ fun _ _ _ => ((Keeps.refl _).memBody ..)

theorem execSt_ends (x : OpSt) : (execSt x s).Ends s := memUnit_ends hc _ _ fun _ _ _ => ((Keeps.refl _).memBody ..)

theorem execLda_ends (x : OpOrd) : (execLda x s).Ends s := memUnit_ends hc _ _ fun _ _ _ => ((Keeps.refl _).memBody ..)

theorem execStl_ends (x : OpOrd) : (execStl x s).Ends s := memUnit_ends hc _ _ fun _ _ _ => ((Keeps.refl _).memBody ..)

theorem execAtom_ends (x : OpAtom) : (execAtom x s).Ends s := memUnit_ends hc _ _ fun _ _ _ => ((Keeps.refl _).memBody ..)

theorem execAtomx_ends (x : OpAtomX) : (execAtomx x s).Ends s := memUnit_ends hc _ _ fun _ _ _ => ((Keeps.refl _).memBody ..)

theorem execPld_ends (x : OpPld) : (execPld x s).Ends s := memUnit_ends hc _ _ fun _ _ _ => ((Keeps.refl _).memBody ..)

theorem execVnarrow_ends (x : OpVNar) : (execVnarrow x s).Ends s := groupUnit_ends hc _ _ ((Keeps.refl _).setView ..)

theorem execVdrop_ends (x : OpVOne) : (execVdrop x s).Ends s := groupUnit_ends hc _ _ ((Keeps.refl _).setView ..)

theorem execMapr_ends (x : OpVBlk) : (execMapr x s).Ends s := by
  refine groupUnit_ends hc _ _ ?_
  dsimp only
  split
  · exact Keeps.refl _
  · exact ((Keeps.refl _).modTeam ..).setView ..

theorem execFence_ends (x : OpScope) : (execFence x s).Ends s := by
  refine memUnit_ends hc _ _ fun s n l => ?_
  have kept := (Keeps.refl s).storesDone c n x.scope
  split
  · next h => rwa [h] at kept
  · next h =>
    rw [h] at kept
    exact Keeps.ite (kept.invalidate ..) kept

theorem execQfence_ends (x : OpQFen) : (execQfence x s).Ends s := by
  refine groupUnit_ends hc _ _ ?_
  dsimp only
  refine .ite trivial (.ite (Keeps.refl s) (.ite (Keeps.refl s) (.ite ?_ ?_)))
  · exact ((Keeps.ite ((Keeps.refl s).modTeam ..) (((Keeps.refl s).modTeam ..).setEngine ..)).withNextFence _).dropMarkers ..
  · exact (Keeps.ite ((Keeps.refl s).modTeam ..) (((Keeps.refl s).modTeam ..).setEngine ..)).withNextFence _

theorem execCsync_ends (x : OpScope) : (execCsync x s).Ends s := by
  refine memUnit_ends hc _ _ fun s n l => ?_
  have kept := (Keeps.refl s).storesDone c n x.scope
  split
  · next h => rwa [h] at kept
  · next h =>
    rw [h] at kept
    exact kept.same rfl rfl

theorem execBarg_ends (x : OpBar) : (execBarg x s).Ends s := by
  refine memUnit_ends hc _ _ fun s n l => ?_
  split
  · exact Keeps.refl _
  · split
    · exact Keeps.refl _
    · exact (Keeps.refl _).modGroup ..

theorem execBart_ends (x : OpBar) : (execBart x s).Ends s := by
  refine groupUnit_ends hc _ _ ?_
  split
  · exact Keeps.refl _
  · split
    · exact trivial
    · split
      · exact Keeps.refl _
      · exact (Keeps.refl _).modTeam ..

theorem execBarc_ends (x : OpBarc) : (execBarc x s).Ends s := by
  refine groupUnit_ends hc _ _ ?_
  split
  · exact trivial
  · split
    · exact Keeps.refl _
    · exact Keeps.refl _

theorem execHbind_ends (x : OpVBlk) : (execHbind x s).Ends s := by
  refine groupUnit_ends hc _ _ ?_
  dsimp only
  split
  · exact trivial
  · exact (Keeps.refl _).setView ..

theorem execTilein_ends (x : OpTile) : (execTilein x s).Ends s := by
  refine groupUnit_ends hc _ _ ?_
  split
  · exact Keeps.refl _
  · split
    · exact trivial
    · exact (Keeps.refl _).same rfl rfl

theorem execTileout_ends (x : OpTile) : (execTileout x s).Ends s := by
  refine groupUnit_ends hc _ _ ?_
  split
  · exact Keeps.refl _
  · split
    · exact trivial
    · exact (Keeps.refl _).same rfl rfl

theorem execBcopy_ends (x : OpBCopy) : (execBcopy x s).Ends s := by
  refine groupUnit_ends hc _ _ ?_
  split
  · exact Keeps.refl _
  · split
    · exact trivial
    · exact (Keeps.refl _).same rfl rfl

theorem execQpop_ends (x : OpQPop) : (execQpop x s).Ends s := by
  refine taskUnit_ends hc _ _ fun s n l => ?_
  split
  · exact Keeps.refl _
  · split
    · exact Keeps.refl _
    · exact (Keeps.refl _).nameQueue_wait ‹_›
    · exact (((Keeps.refl _).nameQueue_ok ‹_›).modLane ..).popLane ..

theorem execQspawn_ends (x : OpQSpawn) : (execQspawn x s).Ends s := by
  refine groupUnit_ends hc _ _ (GroupEnd.Kept.ite (Keeps.refl s) ?_)
  split
  · trivial
  · next h => exact (Keeps.refl s).nameQueue h
  · next no s1 h =>
    have named : Keeps s s1 := (Keeps.refl s).nameQueue h
    dsimp only
    split
    · exact Keeps.refl s
    · exact GroupEnd.Kept.ite ((((named.placeAll ..).noteBy ..).modRec ..).assign ..) named

theorem execQclose_ends (x : OpQView) : (execQclose x s).Ends s := by
  refine groupUnit_ends hc _ _ ?_
  split
  · exact Keeps.refl _
  · split
    · exact trivial
    · exact (Keeps.refl _).nameQueue_wait ‹_›
    · exact ((Keeps.refl _).nameQueue_ok ‹_›).closeQueue ..

theorem execFread_ends (x : OpFut) : (execFread x s).Ends s := by
  refine taskUnit_ends hc _ _ fun s n l => ?_
  dsimp only
  split
  · exact Keeps.refl _
  · split
    · exact ((Keeps.refl _).strayBytes ..).freezeCore ..
    · split
      · exact (Keeps.refl _).strayBytes ..
      · split
        · exact (Keeps.refl _).strayBytes ..
        · split
          · exact (Keeps.refl _).strayBytes ..
          · split
            · exact (Keeps.refl _).strayBytes ..
            · split
              · exact ((Keeps.refl _).strayBytes ..).squash_bad ‹_›
              · exact (Keeps.refl _).strayBytes ..
              · exact (((Keeps.refl _).strayBytes ..).squash_done ‹_›).moved

theorem execFfill_ends (x : OpFut) : (execFfill x s).Ends s := by
  refine taskUnit_ends hc _ _ fun s n l => ?_
  dsimp only
  split
  · exact Keeps.refl _
  · split
    · exact Keeps.refl _
    · split
      · exact (Keeps.refl _).freezeCore ..
      · split
        · exact ((Keeps.refl _).strayBytes ..).fill_bad ‹_›
        · exact Keeps.refl _
        · exact ((((Keeps.refl _).strayBytes ..).fill_done ‹_›).strayBytes ..).noteBy ..

theorem execTrig_ends : (execTrig s).Ends s := by
  refine groupUnit_ends hc _ _ ?_
  split
  · exact Keeps.refl _
  · dsimp only
    split
    · exact (Keeps.refl _).flushTeam ..
    · exact (((Keeps.refl _).flushTeam ..).modGroup ..).same rfl rfl

end

end Sys2Proof.Machine
end

section
/-!
PROOF. The instructions by which each lane acts on itself alone (`Instr.actsOnLanes`): each is a `localUnit` whose body neither ends a lane nor
fails one in ordinary state. One lemma per shape of such an instruction.
-/
namespace Sys2Proof.Machine

-- The proofs of this file run one after another: side by side they take the check's memory.
set_option Elab.async false

/-- A body leaves the lane quietly: it does not exit the lane, and fails it at most in contained state (R108, R109). -/
def LaneEnd.Quiet (l : Lane) : LaneEnd → Prop
  | .go x => x.exited = l.exited
  | .jump x _ => x.exited = l.exited
  | .fail _ => l.inside.isSome = true
  | .stay => True
  | .away x => x.exited = l.exited

/-- A meaning lets each lane act on itself, and leave quietly. -/
def QuietUnit (i : Instr) (s : State) (r : Res) : Prop :=
  ∃ body, r = localUnit i s body ∧ ∀ c n l, (body c n l).Quiet l

theorem Lane.produce_exited (l : Lane) (w : Bool) (d : Fin 64) (r : Word) : (l.produce w d r).exited = l.exited := by
  unfold Lane.produce
  cases w <;> rfl

theorem Lane.inside_of_raises {l : Lane} {m : Nat} {fl : Word} {k : Cause} (h : l.raises m fl = some k) : l.inside.isSome = true := by
  unfold Lane.raises at h
  split at h
  next hc => exact (Bool.and_eq_true_iff.1 hc).1
  · cases h

theorem producer_quiet (g : Guard) (w : Bool) (d : Fin 64) (f : Env → Lane → Word × Word) (c : Ctx) (n : Nat) (l : Lane) :
    (producer g w d (fun e l => .ok (f e l)) c n l).Quiet l := by
  unfold producer
  split
  · dsimp only
    split
    next h => exact Lane.inside_of_raises h
    · exact l.produce_exited w d _
  · exact l.produce_exited true d _

theorem guarded_quiet {g : Guard} {f : Env → Lane → LaneEnd} (hf : ∀ e l, (f e l).Quiet l) (c : Ctx) (n : Nat) (l : Lane) :
    (guarded g f c n l).Quiet l := by
  unfold guarded
  split
  · exact hf _ _
  · exact (rfl : l.exited = l.exited)

theorem writeSpecial_exited (l : Lane) (n : Special) (a : Word) : (writeSpecial l n a).exited = l.exited := by
  unfold writeSpecial
  split <;> rfl

section
variable (i : Instr) (s : State)

theorem producer_quietUnit (g : Guard) (w : Bool) (d : Fin 64) (f : Env → Lane → Word × Word) :
    QuietUnit i s (localUnit i s (producer g w d fun e l => .ok (f e l))) := ⟨_, rfl, producer_quiet g w d f⟩

theorem guarded_quietUnit (g : Guard) (f : Env → Lane → LaneEnd) (hf : ∀ e l, (f e l).Quiet l) :
    QuietUnit i s (localUnit i s (guarded g f)) := ⟨_, rfl, guarded_quiet hf⟩

theorem binary_quiet (x : OpR) (f : Word → Word → Word × Word) : QuietUnit i s (binary i x f s) := producer_quietUnit ..
theorem binaryT_quiet (x : OpR) (f : Word → Word → Word → Word) : QuietUnit i s (binaryT i x f s) := producer_quietUnit ..
theorem unary_quiet (x : OpU) (f : Word → Word) : QuietUnit i s (unary i x f s) := producer_quietUnit ..
theorem immediate_quiet (x : OpI) (f : Word → Word → Word) : QuietUnit i s (immediate i x f s) := producer_quietUnit ..
theorem fbinary_quiet (x : OpRF) (f : Nat → Nat → Nat × Word) : QuietUnit i s (fbinary i x f s) := producer_quietUnit ..
theorem fbinaryT_quiet (x : OpRF) (f : Nat → Nat → Nat → Nat × Word) : QuietUnit i s (fbinaryT i x f s) := producer_quietUnit ..
theorem funary_quiet (x : OpUF) (f : Nat → Nat × Word) : QuietUnit i s (funary i x f s) := producer_quietUnit ..
theorem pairOp_quiet (x : OpR64) (f : Word64 → Word64 → Word64) : QuietUnit i s (pairOp i x f s) := by
  refine ⟨_, rfl, guarded_quiet fun e l => ?_⟩
  exact (rfl : l.exited = l.exited)

theorem shuffle_quiet (x : OpR) (pick : Int → Int → Int) : QuietUnit i s (shuffle i x pick s) :=
  ⟨_, rfl, fun c n l => producer_quiet x.g x.w x.d (fun e l =>
    let j := pick n ((readSrc e l x.b).toNat : Int)
    (if 0 ≤ j && j < c.g.width && (c.present i).contains j.toNat then c.readAt x.a j.toNat else readSrc e l x.a, 0)) c n l⟩

theorem blockUnit_quiet (x : OpU) (f : List Nat → Nat → Word × Word) : QuietUnit i s (blockUnit i x f s) :=
  ⟨_, rfl, fun c n l => producer_quiet x.g x.w x.d (fun e _ => f (c.block i x.g x.a n) (e.n % 16)) c n l⟩

theorem vote_quiet (x : OpCoh) (f : List Word → Word) : QuietUnit i s (vote i x f s) := by
  refine ⟨_, rfl, fun c n l => guarded_quiet (fun e l => ?_) c n l⟩
  exact (rfl : l.exited = l.exited)

theorem division_quiet (x : OpR) (f : Word → Word → Word × Bool) : QuietUnit i s (division i x f s) := by
  refine ⟨_, rfl, fun c n l => ?_⟩
  split
  · dsimp only
    split
    next h => exact (Bool.and_eq_true_iff.1 (Bool.and_eq_true_iff.1 h).1).2
    · exact l.produce_exited x.w x.d _
  · exact l.produce_exited true x.d _

end

/-- An instruction that acts on lanes lets each lane of its unit act on itself alone, and leave quietly. -/
theorem exec_quiet {i : Instr} (hi : i.actsOnLanes = true) (s : State) : QuietUnit i s (exec i s) := by
  cases i
  case iadd | isub | iadds | isubs | uadds | usubs | iabsd | uavg | imul | imulhi | umulhi | and | or | xor | andn | shl | shr |
      sar | rotl | imin | imax | umin | umax | bfxz | bfxs =>
    simp only [exec, execIadd, execIsub, execIadds, execIsubs, execUadds, execUsubs, execIabsd, execUavg, execImul,
      execImulhi, execUmulhi, execAnd, execOr, execXor, execAndn, execShl, execShr, execSar, execRotl, execImin,
      execImax, execUmin, execUmax, execBfxz, execBfxs]
    exact binary_quiet ..
  case imad | bfi | fshl =>
    simp only [exec, execImad, execBfi, execFshl]
    exact binaryT_quiet ..
  case idiv | udiv | irem | urem =>
    simp only [exec, execIdiv, execUdiv, execIrem, execUrem]
    exact division_quiet ..
  case add64 | sub64 | mul64 =>
    simp only [exec, execAdd64, execSub64, execMul64]
    exact pairOp_quiet ..
  case mov | not | neg | iabs | popc | clz | ctz | brev | bswap | sext8 | sext16 | zext8 | zext16 =>
    simp only [exec, execMov, execNot, execNeg, execIabs, execPopc, execClz, execCtz, execBrev, execBswap,
      execSext8, execSext16, execZext8, execZext16]
    exact unary_quiet ..
  case shfli | shflu | shfld | shflx =>
    simp only [exec, execShfli, execShflu, execShfld, execShflx]
    exact shuffle_quiet ..
  case iaddi | andi | ori | xori | shli | shri | sari | imuli =>
    simp only [exec, execIaddi, execAndi, execOri, execXori, execShli, execShri, execSari, execImuli]
    exact immediate_quiet ..
  case fadd | fsub | fmul | fmin | fmax | bfadd2 | bfmul2 =>
    simp only [exec, execFadd, execFsub, execFmul, execFmin, execFmax, execBfadd2, execBfmul2]
    exact fbinary_quiet ..
  case ffma | bfma2 =>
    simp only [exec, execFfma, execBfma2]
    exact fbinaryT_quiet ..
  case fabs | fneg | fsqrt | frcp | frsq | fexp2 | flog2 | ffloor | fceil | ftrunc | frint | fclass | cvtF32S32 | cvtF32N32 |
      cvtBf16F32 | cvtF32Bf16 | cvtF32E4m3 | cvtF32E5m2 | cvtE4m3E2m1 | cvtE4m3E3m2 | cvtE4m3E2m3 | cvtE4m3I4 =>
    simp only [exec, execFabs, execFneg, execFsqrt, execFrcp, execFrsq, execFexp2, execFlog2, execFfloor, execFceil,
      execFtrunc, execFrint, execFclass, execCvtF32S32, execCvtF32N32, execCvtBf16F32, execCvtF32Bf16, execCvtF32E4m3,
      execCvtF32E5m2, execCvtE4m3E2m1, execCvtE4m3E3m2, execCvtE4m3E2m3, execCvtE4m3I4]
    exact funary_quiet ..
  case sel | movi | cvtS32F32 | cvtN32F32 | cvtE4m3F32 | cvtE5m2F32 | pldec =>
    simp only [exec, execSel, execMovi, execCvtS32F32, execCvtN32F32, execCvtE4m3F32, execCvtE5m2F32, execPldec]
    exact producer_quietUnit ..
  case plenc | plmax =>
    simp only [exec, execPlenc, execPlmax]
    exact blockUnit_quiet ..
  case vany | vall | redadd | redmin | redmax =>
    simp only [exec, execVany, execVall, execRedadd, execRedmin, execRedmax]
    exact vote_quiet ..
  case shl64 | icmp | plog | nop | sigf | sigz =>
    simp only [exec, execShl64, execIcmp, execPlog, execNop, execSigf, execSigz]
    refine ⟨_, rfl, guarded_quiet fun e l => ?_⟩
    exact (rfl : l.exited = l.exited)
  case vbal | ptov | vtop | bra =>
    refine ⟨_, rfl, fun c n l => guarded_quiet (fun e l => ?_) c n l⟩
    exact (rfl : l.exited = l.exited)
  case fcmp x =>
    refine guarded_quietUnit _ _ _ _ fun e l => ?_
    dsimp only
    split
    next h => exact Lane.inside_of_raises h
    · rfl
  case redfadd x =>
    refine ⟨_, rfl, fun c n l => guarded_quiet (fun e l => ?_) c n l⟩
    dsimp only
    split
    next h => exact Lane.inside_of_raises h
    · rfl
  case mbr x =>
    refine ⟨_, rfl, fun c n l => ?_⟩
    split <;> exact (rfl : l.exited = l.exited)
  case dbnz x =>
    refine ⟨_, rfl, fun c n l => guarded_quiet (fun e l => ?_) c n l⟩
    dsimp only
    split <;> exact l.setReg_exited ..
  case sread x =>
    refine ⟨_, rfl, fun c n l => guarded_quiet (fun e l => ?_) c n l⟩
    generalize readSpecial s _ l x.n = r
    obtain ⟨v, half⟩ := r
    cases half <;> exact (rfl : l.exited = l.exited)
  case swrite x =>
    have hn : ¬ x.n.groupWide = true := by simpa [Instr.actsOnLanes] using hi
    exact ⟨_, if_neg hn, guarded_quiet fun _ l => writeSpecial_exited l ..⟩
  all_goals exact absurd hi Bool.false_ne_true

end Sys2Proof.Machine
end

section
/-!
PROOF. A step keeps memory in canonical form, leaves no unit in hand, and answers a next state: the instruction of a fetched unit
(spec/02_encoding.md R56), the turns, the default move (DESIGN CHOICE, log 2), and what every step adds.
-/
namespace Sys2Proof.Machine

-- The proofs of this file run one after another: side by side they take the check's memory.
set_option Elab.async false
variable {s₀ s : State}

/-! ## Every instruction of a unit in hand -/

theorem execYield_ends {c : Ctx} (hc : s.context = some c) (x : OpG) : (execYield x s).Ends s := by
  have ended := localUnit_ends hc (.yield x) (guarded x.g fun _ l => .go l)
  unfold execYield
  rw [hc]
  dsimp only
  split
  · next s1 h =>
    obtain ⟨hwf, hidle⟩ : Res.Ends s (.next s1) := h ▸ ended
    have kept := fun f => (Keeps.refl s1).modGroup c.core c.gi f
    refine Res.Ends.ite ?_ ⟨hwf, hidle⟩
    split
    · exact ⟨hwf, hidle⟩
    · exact ⟨fun h => (kept _).wf (hwf h), (kept _).issue.trans hidle⟩
  · next h => exact (h ▸ ended : Res.Ends s (.fault _))
  · next h => exact (h ▸ ended : Res.Ends s (.refused _))

/-- What a hint word says, where the instruction is one (R57 to R60). -/
def hintOf : Instr → Option Hint
  | .himm imm => some (.imm imm)
  | .hbt x => some (.bt x)
  | .hord x => some (.ord x)
  | .hsch n => some (.sch n)
  | .hgath sel => some (.gath sel)
  | _ => none

theorem exec_hint {i : Instr} {h : Hint} (hi : hintOf i = some h) (s : State) : exec i s = hintUnit h s := by
  cases i
  case himm | hbt | hord | hsch | hgath =>
    cases hi
    rfl
  all_goals cases hi

/-- The instructions that write one scalar register with a function of the scalar registers. -/
def writesScalar : Instr → Bool
  | .sadd _ | .ssub _ | .smul _ | .smin _ | .sand _ | .sor _ | .sxor _ | .sshl _ | .smov _ | .snot _ | .sneg _ | .spopc _ | .sclz _
  | .sshr _ | .saddi _ => true
  | _ => false

theorem exec_eq_scalar {i : Instr} (hi : writesScalar i = true) : ∃ d f, exec i s = scalar i d f s := by
  cases i
  case sadd | ssub | smul | smin | sand | sor | sxor | sshl | smov | snot | sneg | spopc | sclz | sshr | saddi =>
    simp only [exec, execSadd, execSsub, execSmul, execSmin, execSand, execSor, execSxor, execSshl, execSmov, execSnot, execSneg,
      execSpopc, execSclz, execSshr, execSaddi, scalar1, scalar2]
    exact ⟨_, _, rfl⟩
  all_goals exact absurd hi Bool.false_ne_true

/-- An instruction of a unit in hand ends it. -/
theorem exec_ends {c : Ctx} (hc : s.context = some c) (i : Instr) (hb : i.base.isSome = true) (hh : hintOf i = none) :
    Res.Ends s (exec i s) := by
  by_cases hl : i.actsOnLanes = true
  · obtain ⟨body, h, -⟩ := exec_quiet hl s
    exact h ▸ localUnit_ends hc i body
  by_cases hs : writesScalar i = true
  · obtain ⟨d, f, h⟩ := exec_eq_scalar (s := s) hs
    exact h ▸ scalar_ends hc i d f
  have hrest : (i.base.isSome && !i.actsOnLanes && !writesScalar i) = true := by simp [hb, hl, hs]
  cases i
  case himm | hbt | hord | hsch | hgath => cases hh
  case jmpr | trap | brk => exact localUnit_ends hc _ _
  case readl => exact execReadl_ends hc _
  case call => exact execCall_ends hc _
  case callr => exact execCallr_ends hc _
  case ret => exact execRet_ends hc _
  case rvz => exact execRvz_ends hc _
  case syncl => exact execSyncl_ends hc _
  case exit => exact execExit_ends hc _
  case yield => exact execYield_ends hc _
  case swrite x =>
    exact Res.Ends.ite (groupUnit_ends hc _ _ ((Keeps.refl s).modGroup ..)) (localUnit_ends hc _ _)
  case center => exact execCenter_ends hc _
  case sigc => exact execSigc_ends hc _
  case ld => exact execLd_ends hc _
  case st => exact execSt_ends hc _
  case lda => exact execLda_ends hc _
  case stl => exact execStl_ends hc _
  case atom => exact execAtom_ends hc _
  case atomx => exact execAtomx_ends hc _
  case pld => exact execPld_ends hc _
  case vnarrow => exact execVnarrow_ends hc _
  case vqry | slotq | featq =>
    simp only [exec, execVqry, execSlotq, execFeatq]
    exact scalarsUnit_ends hc _ _ _
  case vdrop => exact execVdrop_ends hc _
  case mapr => exact execMapr_ends hc _
  case unmapr =>
    simp only [exec, execUnmapr]
    exact regionUnit_ends hc _ _ _ _ fun _ s _ => (Keeps.refl s).modTeam ..
  case flushr =>
    simp only [exec, execFlushr]
    exact regionUnit_ends hc _ _ _ _ fun _ s _ => Keeps.refl s
  case invr =>
    simp only [exec, execInvr]
    exact regionUnit_ends hc _ _ _ _ fun _ s _ => ((Keeps.refl s).dropFills ..).modRegion ..
  case fence => exact execFence_ends hc _
  case qfence => exact execQfence_ends hc _
  case csync => exact execCsync_ends hc _
  case barg => exact execBarg_ends hc _
  case bart => exact execBart_ends hc _
  case barc => exact execBarc_ends hc _
  case hbind => exact execHbind_ends hc _
  case harm =>
    simp only [exec, execHarm]
    exact handleUnit_ends hc _ _ _ fun _ _ =>
      GroupEnd.Kept.ite (Keeps.refl s) ((Keeps.refl s).modHandle ..)
  case hseal =>
    simp only [exec, execHseal]
    exact handleUnit_ends hc _ _ _ fun _ _ =>
      GroupEnd.Kept.ite trivial (((Keeps.refl s).modHandle ..).settleHandle ..)
  case hwait =>
    simp only [exec, execHwait]
    exact handleUnit_ends hc _ _ _ fun _ _ =>
      GroupEnd.Kept.ite trivial (GroupEnd.Kept.ite (Keeps.refl s) (Keeps.refl s))
  case htake =>
    simp only [exec, execHtake]
    exact handleUnit_ends hc _ _ _ fun _ _ =>
      GroupEnd.Kept.ite trivial (GroupEnd.Kept.ite ((Keeps.refl s).modHandle ..) (Keeps.refl s))
  case hfree =>
    simp only [exec, execHfree]
    exact handleUnit_ends hc _ _ _ fun _ _ =>
      GroupEnd.Kept.ite trivial (GroupEnd.Kept.ite (Keeps.refl s) ((Keeps.refl s).modHandle ..))
  case hqry =>
    simp only [exec, execHqry]
    exact handleUnit_ends hc _ _ _ fun _ _ =>
      (Keeps.refl s).modGroup ..
  case mma | mmag => exact productUnit_ends hc _ _
  case mdrn | mdrnb => exact drainUnit_ends hc _ _ _
  case mdrnl | mzero => exact plainEntry_ends hc _
  case mload | padd | pnorm =>
    simp only [exec, execMload, execPadd, execPnorm]
    exact readerUnit_ends hc _ _ _ _
  case tilein => exact execTilein_ends hc _
  case tileout => exact execTileout_ends hc _
  case bcopy => exact execBcopy_ends hc _
  case qpop => exact execQpop_ends hc _
  case qspawn => exact execQspawn_ends hc _
  case qclose => exact execQclose_ends hc _
  case fread => exact execFread_ends hc _
  case ffill => exact execFfill_ends hc _
  case trig => exact execTrig_ends hc
  all_goals exact absurd hrest Bool.false_ne_true

/-- What becomes of memory and of the unit in hand when a step's move has been made: memory stays canonical, and a machine without a unit
in hand stays without one. -/
def Res.Settles (s₀ : State) : Res → Prop
  | .next s => (s₀.mem.wf = true → s.mem.wf = true) ∧ (s₀.issue = none → s.issue = none)
  | .fault _ => False
  | .refused _ => False

theorem Res.Kept.settles {r : Res} (h : r.Kept s₀) : r.Settles s₀ := by
  cases r with
  | next s => exact ⟨h.wf, h.issue.trans⟩
  | fault e => exact h
  | refused e => exact h

theorem Res.Ends.settles {r : Res} (h : r.Ends s₀) : r.Settles s₀ := by
  cases r with
  | next s => exact ⟨h.1, fun _ => h.2⟩
  | fault e => exact h
  | refused e => exact h

theorem execReset_settles (s : State) : (execReset s).Settles s := by
  obtain ⟨t, ht, hwf, hidle⟩ := execReset_kept s
  rw [ht]
  exact ⟨fun _ => hwf, fun _ => hidle⟩

/-- An event of the machine that no word encodes keeps memory canonical and touches no unit in hand. -/
theorem exec_event {i : Instr} (hb : i.base = none) (s : State) : Res.Settles s (exec i s) := by
  have kept := Keeps.refl s
  cases i
  case broadcastPcTimeout => exact (Keeps.execBroadcastPcTimeout kept ..).settles
  case rvzBoundExpire => exact (Keeps.execRvzBoundExpire kept ..).settles
  case yieldExpire => exact (Keeps.execYieldExpire kept ..).settles
  case hschRunEnd => exact (Keeps.execHschRunEnd kept ..).settles
  case codeFetchFill => exact (Keeps.execCodeFetchFill kept ..).settles
  case mappedFillComplete => exact (Keeps.execMappedFillComplete kept ..).settles
  case mappedWriteBack => exact (Keeps.execMappedWriteBack kept ..).settles
  case tileCopyEnqueue => exact (Keeps.execTileCopyEnqueue kept ..).settles
  case tileGranuleLand => exact (Keeps.execTileGranuleLand kept ..).settles
  case followOnRelease => exact (Keeps.execFollowOnRelease kept ..).settles
  case mcastHopArrival => exact (Keeps.execMcastHopArrival kept ..).settles
  case tileoutGranule => exact (Keeps.execTileoutGranule kept ..).settles
  case matrixQueuePerform => exact (Keeps.execMatrixQueuePerform kept ..).settles
  case bcopyEnqueue => exact (Keeps.execBcopyEnqueue kept ..).settles
  case bulkGranule => exact (Keeps.execBulkGranule kept ..).settles
  case barrierEpisodeComplete => exact (Keeps.execBarrierEpisodeComplete kept ..).settles
  case watchdogExpire => exact (Keeps.execWatchdogExpire kept ..).settles
  case frameStart => exact (Keeps.execFrameStart kept ..).settles
  case slotGuardOpen => exact (Keeps.execSlotGuardOpen kept ..).settles
  case slotStart => exact (Keeps.execSlotStart kept ..).settles
  case slotExtended => exact (Keeps.execSlotExtended kept ..).settles
  case slotEnd => exact (Keeps.execSlotEnd kept ..).settles
  case selfTestVerdict => exact (Keeps.execSelfTestVerdict kept ..).settles
  case integritySweepVisit => exact (Keeps.execIntegritySweepVisit kept ..).settles
  case integrityPeriodEnd => exact (Keeps.execIntegrityPeriodEnd kept ..).settles
  case ballastWindow => exact (Keeps.execBallastWindow kept ..).settles
  case thermalEvent => exact (Keeps.execThermalEvent kept ..).settles
  case readGrantBudget => exact (Keeps.execReadGrantBudget kept ..).settles
  case poolWrite => exact (Keeps.execPoolWrite kept ..).settles
  case launchCommit => exact (Keeps.execLaunchCommit kept ..).settles
  case recordCopy => exact (Keeps.execRecordCopy kept ..).settles
  case teamPlace => exact (Keeps.execTeamPlace kept ..).settles
  case scratchpadImageCopy => exact (Keeps.execScratchpadImageCopy kept ..).settles
  case teamEnd => exact (Keeps.execTeamEnd kept ..).settles
  case preempt => exact (Keeps.execPreempt kept ..).settles
  case contextSaveComplete => exact (Keeps.execContextSaveComplete kept ..).settles
  case restore => exact (Keeps.execRestore kept ..).settles
  case kill => exact (Keeps.execKill kept ..).settles
  case xactRetry => exact (Keeps.execXactRetry kept ..).settles
  case xactFail => exact (Keeps.execXactFail kept ..).settles
  case xinv => exact (Keeps.execXinv kept ..).settles
  case xinvComplete => exact (Keeps.execXinvComplete kept ..).settles
  case resume => exact (Keeps.execResume kept ..).settles
  case skip => exact (Keeps.execSkip kept ..).settles
  case haltKill => exact (Keeps.execHaltKill kept ..).settles
  case registerWrite => exact (Keeps.execRegisterWrite kept ..).settles
  case partitionCreate => exact (Keeps.execPartitionCreate kept ..).settles
  case partitionDestroy => exact (Keeps.execPartitionDestroy kept ..).settles
  case sheavesWrite => exact (Keeps.execSheavesWrite kept ..).settles
  case stage1Write => exact (Keeps.execStage1Write kept ..).settles
  case rangesWrite => exact (Keeps.execRangesWrite kept ..).settles
  case enginesWrite => exact (Keeps.execEnginesWrite kept ..).settles
  case coreRelease => exact (Keeps.execCoreRelease kept ..).settles
  case engineRelease => exact (Keeps.execEngineRelease kept ..).settles
  case tenantTableWrite => exact (Keeps.execTenantTableWrite kept ..).settles
  case measurementExtend => exact (Keeps.execMeasurementExtend kept ..).settles
  case reset => exact execReset_settles s
  case functionReady => exact (Keeps.execFunctionReady kept ..).settles
  case dieUnreachable => exact (Keeps.execDieUnreachable kept ..).settles
  case inboundApertureAccess => exact (Keeps.execInboundApertureAccess kept ..).settles
  case vaultApertureAccess => exact (Keeps.execVaultApertureAccess kept ..).settles
  case cxlMemAccess => exact (Keeps.execCxlMemAccess kept ..).settles
  case query => exact (Keeps.execQuery kept ..).settles
  case keyProg => exact (Keeps.execKeyProg kept ..).settles
  case kSetGo => exact (Keeps.execKSetGo kept ..).settles
  case kSetStop => exact (Keeps.execKSetStop kept ..).settles
  case getTdispVersion => exact (Keeps.execGetTdispVersion kept ..).settles
  case getTdispCapabilities => exact (Keeps.execGetTdispCapabilities kept ..).settles
  case lockInterfaceRequest => exact (Keeps.execLockInterfaceRequest kept ..).settles
  case getDeviceInterfaceReport => exact (Keeps.execGetDeviceInterfaceReport kept ..).settles
  case getDeviceInterfaceState => exact (Keeps.execGetDeviceInterfaceState kept ..).settles
  case startInterfaceRequest => exact (Keeps.execStartInterfaceRequest kept ..).settles
  case stopInterfaceRequest => exact (Keeps.execStopInterfaceRequest kept ..).settles
  case getVersion => exact (Keeps.execGetVersion kept ..).settles
  case getCapabilities => exact (Keeps.execGetCapabilities kept ..).settles
  case negotiateAlgorithms => exact (Keeps.execNegotiateAlgorithms kept ..).settles
  case getDigests => exact (Keeps.execGetDigests kept ..).settles
  case getCertificate => exact (Keeps.execGetCertificate kept ..).settles
  case challenge => exact (Keeps.execChallenge kept ..).settles
  case getMeasurements => exact (Keeps.execGetMeasurements kept ..).settles
  case keyExchange => exact (Keeps.execKeyExchange kept ..).settles
  case finish => exact (Keeps.execFinish kept ..).settles
  case spdmUnsupported => exact (Keeps.execSpdmUnsupported kept ..).settles
  case write => exact (Keeps.execWrite kept ..).settles
  case read => exact (Keeps.execRead kept ..).settles
  case readResponse => exact (Keeps.execReadResponse kept ..).settles
  case atomic => exact (Keeps.execAtomic kept ..).settles
  case atomicResponse => exact (Keeps.execAtomicResponse kept ..).settles
  case ack => exact (Keeps.execAck kept ..).settles
  case launch => exact (Keeps.execLaunch kept ..).settles
  case launchResult f verdict => exact (Keeps.execLaunchResult kept f verdict).settles
  case capability => exact (Keeps.execCapability kept ..).settles
  case time => exact (Keeps.execTime kept ..).settles
  case flitNop => exact Res.Kept.settles kept
  case flitUnlisted f type => exact (Keeps.execFlitUnlisted kept f type).settles
  case linkTrained => exact (Keeps.execLinkTrained kept ..).settles
  case linkDown => exact (Keeps.execLinkDown kept ..).settles
  case streamMove => exact (Keeps.execStreamMove kept ..).settles
  case fqconsWrite => exact (Keeps.execFqconsWrite kept ..).settles
  case energyLoRead => exact (Keeps.execEnergyLoRead kept ..).settles
  case hostReadCompletion => exact (Keeps.execHostReadCompletion kept ..).settles
  case laneFails => exact (Keeps.execLaneFails kept ..).settles
  all_goals exact absurd hb (Option.some_ne_none _)

/-! ## What a fetch decodes -/

theorem decodeRaw_of_decodeWord {w : Nat} {i : Instr} (h : decodeWord w = some i) : decodeRaw w = some i := by
  obtain ⟨j, hj, hij⟩ := Option.bind_eq_some_iff.1 h
  split at hij
  · exact hj.trans hij
  · cases hij

/-- A word of major 0x3F that is an instruction is a hint word (R56). -/
theorem hintOf_of_major {w : Nat} {i : Instr} (hm : fld w 26 6 = 0x3F) (h : decodeWord w = some i) : (hintOf i).isSome = true :=
  by
  have h := decodeRaw_of_decodeWord h
  simp only [decodeRaw, hm] at h
  split at h
  · cases h
    rfl
  · simp only [decHbt, Laws.whenZero_eq_some] at h
    cases h.2
    rfl
  · simp only [decHord, Laws.whenZero_eq_some] at h
    cases h.2
    rfl
  · cases (Laws.whenZero_eq_some.1 h).2
    rfl
  · cases (Laws.whenZero_eq_some.1 h).2
    rfl
  · cases h

/-- The word of a hint has major 0x3F (R56). -/
theorem major_of_hintOf {w : Nat} {i : Instr} (hw : w < 2 ^ 32) (he : encode i = some w) (hi : (hintOf i).isSome = true) :
    fld w 26 6 = 0x3F := by
  have hbase : ∃ b, i.base = some b ∧ 0xFC000000 ≤ b := by
    cases i
    case himm | hbt | hord | hsch | hgath => exact ⟨_, rfl, by decide⟩
    all_goals cases hi
  obtain ⟨b, hb, hle⟩ := hbase
  rw [encode, hb, Option.map_some, Option.some.injEq] at he
  simp only [fld]
  omega

/-- A word of another major that is an instruction is no hint word. -/
theorem notHint_of_major {w : Nat} {i : Instr} (hw : w < 2 ^ 32) (hm : fld w 26 6 ≠ 0x3F) (h : decodeWord w = some i) :
    hintOf i = none ∧ i.base.isSome = true := by
  have he := Laws.encode_of_decodeRaw hw (decodeRaw_of_decodeWord h)
  refine ⟨?_, ?_⟩
  · by_contra hne
    exact hm (major_of_hintOf hw he (Option.isSome_iff_ne_none.2 hne))
  · have hs : (encode i).isSome = true := he ▸ rfl
    rwa [encode, Option.isSome_map] at hs

/-- A unit as a fetch gives it: its hints are hint words, and its instruction is none and has a word. -/
def CodeUnit.Decoded (u : CodeUnit) : Prop :=
  (∀ i, some i ∈ u.hints → (hintOf i).isSome = true) ∧ ∀ i, u.main = some i → hintOf i = none ∧ i.base.isSome = true

theorem fetchWords_decoded {ls : List CodeLine} {base ext pc n k : Nat} {hs : List (Option Instr)} {u : CodeUnit}
    (hh : ∀ i, some i ∈ hs → (hintOf i).isSome = true) (h : fetchWords ls base ext pc n k hs = .unit u) : u.Decoded := by
  induction n generalizing k hs with
  | zero => cases h
  | succ n ih =>
    unfold fetchWords at h
    split at h
    · cases h
    split at h
    · cases h
    next w hw =>
      split at h
      next hm =>
        refine ih (fun i hi => ?_) h
        rcases List.mem_append.1 hi with hi | hi
        · exact hh i hi
        · exact hintOf_of_major (eq_of_beq hm) (List.mem_singleton.1 hi).symm
      next hm =>
        cases h
        exact ⟨hh, fun i hi => notHint_of_major w.isLt (fun he => hm (beq_iff_eq.2 he)) hi⟩

theorem fetchAt_decoded {t : Team} {r : LaunchBytes} {ls : List CodeLine} {p : Place} {lanes : List Lane} {u : CodeUnit}
    (h : fetchAt t r ls p lanes = .unit u) : u.Decoded := by
  unfold fetchAt at h
  exact fetchWords_decoded (fun i hi => absurd hi List.not_mem_nil) h

/-! ## A unit in hand -/

theorem context_withHints {u : Issue} {c : Ctx} (hu : s.issue = some u) (hc : s.context = some c) (hs : List Hint) :
    State.context { s with issue := some { u with hints := hs } } = some { c with hints := hs } := by
  unfold State.context at hc ⊢
  rw [hu] at hc
  dsimp only at hc ⊢
  have ht : State.team { s with issue := some { u with hints := hs } } u.core = s.team u.core := rfl
  rw [ht]
  split at hc
  · cases hc
  split at hc
  · cases hc
  · cases hc
    rfl

theorem issue_of_context {c : Ctx} (hc : s.context = some c) : ∃ u, s.issue = some u := by
  unfold State.context at hc
  split at hc
  · cases hc
  · exact ⟨_, ‹_›⟩

/-- The hints of a unit are read one after another (R56). -/
theorem foldl_hints {hs : List Instr} (hh : ∀ i ∈ hs, (hintOf i).isSome = true) {u : Issue} (hu : s.issue = some u) :
    ∃ xs, hs.foldl (fun (r : Res) h => Res.andThen r (exec h)) (.next s)
      = .next { s with issue := some { u with hints := xs } } := by
  induction hs generalizing s u with
  | nil => exact ⟨u.hints, by rw [← hu]; rfl⟩
  | cons i hs ih =>
    obtain ⟨h, hi⟩ := Option.isSome_iff_exists.1 (hh i List.mem_cons_self)
    obtain ⟨xs, hxs⟩ := ih (fun j hj => hh j (List.mem_cons_of_mem i hj)) (s := { s with issue := some { u with hints := u.hints ++ [h] } }) rfl
    refine ⟨xs, ?_⟩
    rw [List.foldl_cons, Res.andThen, exec_hint hi, hintUnit_of_inHand h hu]
    exact hxs

theorem reservedUnit_ends {c : Ctx} (hc : s.context = some c) : Res.Ends s (reservedUnit s) := by
  obtain ⟨u, hu⟩ := issue_of_context hc
  have hc' := context_withHints hu hc []
  unfold reservedUnit
  rw [hu]
  exact localUnit_ends hc' _ _

theorem Res.Ends.map {r : Res} (h : r.Ends s₀) {f : State → State} (hf : ∀ t, Keeps t (f t)) : (Res.map f r).Ends s₀ := by
  cases r with
  | next t => exact ⟨fun hw => (hf t).wf (h.1 hw), (hf t).issue.trans h.2⟩
  | fault e => exact h
  | refused e => exact h

/-- A fetched unit that is in hand runs to its end. -/
theorem runUnit_ends {c : Ctx} (hc : s.context = some c) {u : CodeUnit} (hd : u.Decoded) : Res.Ends s (runUnit u s) := by
  obtain ⟨hhints, hmain⟩ := hd
  unfold runUnit
  split
  · exact reservedUnit_ends hc
  next i hi =>
    split
    · exact reservedUnit_ends hc
    obtain ⟨x, hx⟩ := issue_of_context hc
    obtain ⟨xs, hxs⟩ := foldl_hints (hs := u.hints.filterMap id) (fun j hj => hhints j (by simpa using hj)) hx
    rw [hxs, Res.andThen]
    have hc' := context_withHints hx hc xs
    obtain ⟨hnone, hbase⟩ := hmain i hi
    refine Res.Ends.map (exec_ends hc' i hbase hnone : Res.Ends s _) fun t => ?_
    split
    · exact (Keeps.refl t).rewritten ..
    · exact Keeps.refl t

theorem group_take {core gi : Nat} {g : Group} (hg : s.group core gi = some g) (lanes : List Nat) (p : Place) (words : Nat)
    (alone : Bool) : (s.take core gi lanes p words alone).group core gi
      = some { g.refreshBroadcast with wait := if alone then g.wait else .none } := by
  refine (State.group_modGroup s core gi core gi fun g =>
    { g.refreshBroadcast with wait := if alone then g.wait else .none }).trans ?_
  rw [if_pos ⟨rfl, rfl⟩, hg]
  rfl

theorem context_take {core gi : Nat} {g : Group} (hg : s.group core gi = some g) (lanes : List Nat) (p : Place) (words : Nat)
    (alone : Bool) : ∃ c, (s.take core gi lanes p words alone).context = some c := by
  have hg' := group_take hg lanes p words alone
  unfold State.group at hg'
  split at hg'
  · cases hg'
  next t ht =>
    unfold State.context
    have hi : (s.take core gi lanes p words alone).issue = some ⟨core, gi, lanes, p, words, [], alone⟩ := rfl
    rw [hi]
    dsimp only
    rw [ht]
    dsimp only
    rw [hg']
    exact ⟨_, rfl⟩

theorem Keeps.take_wf (s : State) (core gi : Nat) (lanes : List Nat) (p : Place) (words : Nat) (alone : Bool)
    (h : s.mem.wf = true) : (s.take core gi lanes p words alone).mem.wf = true :=
  ((Keeps.refl s).modGroup ..).wf h

theorem Res.Ends.ofTake {core gi : Nat} {lanes : List Nat} {p : Place} {words : Nat} {alone : Bool} {r : Res}
    (h : Res.Ends (s.take core gi lanes p words alone) r) : Res.Ends s r := by
  cases r with
  | next t => exact ⟨fun hw => h.1 (Keeps.take_wf s core gi lanes p words alone hw), h.2⟩
  | fault e => exact h
  | refused e => exact h

/-! ## Turns -/

theorem eq_of_ite {α : Type} {c : Prop} [Decidable c] {a b x : α} (h : (if c then a else b) = x) (ha : a ≠ x) : b = x := by
  split at h
  · exact absurd h ha
  · exact h

theorem group_of_path {core gi : Nat} (h : s.path core gi ≠ .idle) : ∃ g, s.group core gi = some g := by
  cases hg : s.group core gi with
  | some g => exact ⟨g, rfl⟩
  | none =>
    refine absurd ?_ h
    unfold State.group at hg
    unfold State.path
    cases ht : s.team core with
    | none => rfl
    | some t =>
      rw [ht] at hg
      have hnone : t.groups[gi]? = none := hg
      simp only [hnone, Option.map_none]

theorem path_of_front {core gi : Nat} (h : s.front core gi ≠ .idle) : s.front core gi = s.path core gi := by
  unfold State.front at h ⊢
  split
  · simp [*] at h
  split
  · simp [*] at h
  split
  · simp [*] at h
  · rfl

theorem group_of_front {core gi : Nat} (h : s.front core gi ≠ .idle) : ∃ g, s.group core gi = some g :=
  group_of_path (path_of_front h ▸ h)

theorem path_decoded {core gi : Nat} {u : CodeUnit} {lanes : List Nat} (h : s.path core gi = .issue u lanes) : u.Decoded := by
  unfold State.path at h
  split at h
  · cases h
  split at h
  · cases h
  have h := eq_of_ite h nofun
  have h := eq_of_ite h nofun
  split at h
  · cases h
  · exact absurd (eq_of_ite h nofun) nofun
  next hf =>
    cases eq_of_ite h nofun
    exact fetchAt_decoded hf

theorem alone_decoded {core gi n : Nat} {u : CodeUnit} (h : s.alone core gi n = .issue u) : u.Decoded := by
  unfold State.alone at h
  split at h
  · cases h
  split at h
  · cases h
  have h := eq_of_ite h nofun
  split at h
  · cases h
  · exact absurd (eq_of_ite h nofun) nofun
  next hf =>
    have h := eq_of_ite (eq_of_ite h nofun) nofun
    split at h
    · cases h
      exact fetchAt_decoded hf
    · cases h

theorem boundsUnit_ends {c : Ctx} (hc : s.context = some c) : Res.Ends s (boundsUnit s) := localUnit_ends hc _ _

theorem unitTurn_settles (core gi : Nat) (s : State) : (unitTurn core gi s).Settles s := by
  unfold unitTurn
  split
  · exact Res.Kept.settles (Keeps.refl s)
  · exact Res.Kept.settles ((Keeps.refl s).awaitLine ..)
  next words lanes h =>
    obtain ⟨g, hg⟩ := group_of_front (s := s) (core := core) (gi := gi) (by simp [h])
    obtain ⟨c, hc⟩ := context_take hg lanes (s.frontPlace core gi) words false
    exact (boundsUnit_ends hc).ofTake.settles
  next u lanes h =>
    have hp := path_of_front (s := s) (core := core) (gi := gi) (by simp [h])
    obtain ⟨g, hg⟩ := group_of_front (s := s) (core := core) (gi := gi) (by simp [h])
    obtain ⟨c, hc⟩ := context_take hg lanes (s.frontPlace core gi) u.words false
    exact (runUnit_ends hc (path_decoded (hp ▸ h))).ofTake.settles

theorem Res.Ends.trans {t : State} (kept : Keeps s₀ t) {r : Res} (h : r.Ends t) : r.Ends s₀ := by
  cases r with
  | next s => exact ⟨fun hw => h.1 (kept.wf hw), h.2⟩
  | fault e => exact h
  | refused e => exact h

theorem laneTurn_settles (core gi n : Nat) (s : State) : (laneTurn core gi n s).Settles s := by
  unfold laneTurn
  split
  · exact Res.Kept.settles (Keeps.refl s)
  next g hg =>
    dsimp only
    split
    · exact Res.Kept.settles (Keeps.refl s)
    · exact Res.Kept.settles ((Keeps.refl s).modLane ..)
    · exact Res.Kept.settles ((Keeps.refl s).awaitLine ..)
    · obtain ⟨c, hc⟩ := context_take hg _ _ _ _
      exact (boundsUnit_ends hc).ofTake.settles
    next u h =>
      have hg' : ∃ g', (s.modLane core gi n fun l => l.looped (s.core core).fetch (s.laneVa core l) u.words).group core gi = some g' :=
        ⟨_, (State.group_modGroup ..).trans ((if_pos ⟨rfl, rfl⟩).trans (congrArg _ hg))⟩
      obtain ⟨g', hg'⟩ := hg'
      obtain ⟨c, hc⟩ := context_take hg' _ _ _ _
      exact ((runUnit_ends hc (alone_decoded h)).ofTake.trans ((Keeps.refl s).modLane ..)).settles

theorem runTurn_settles (t : Turn) (s : State) : (runTurn t s).Settles s := by
  cases t with
  | unit core gi => exact unitTurn_settles core gi s
  | lane core gi n => exact laneTurn_settles core gi n s
  | event e =>
    unfold runTurn
    dsimp only
    split
    · exact Res.Kept.settles (Keeps.refl s)
    next h =>
      have hb : e.base = none := by simpa [encode] using h
      exact exec_event hb s
  | wait ns => exact Res.Kept.settles ((Keeps.refl s).pass ns)
  | page offset => exact Res.Kept.settles ((Keeps.refl s).pageRead offset)
  | vfPage part offset => exact Res.Kept.settles ((Keeps.refl s).vfRead part offset)
  | flaw a corrected => exact Res.Kept.settles ((Keeps.refl s).flaw a corrected)
  | linkFlaw a corrected => exact Res.Kept.settles ((Keeps.refl s).linkFlaw a corrected)
  | regFlaw core gi n r corrected => exact Res.Kept.settles ((Keeps.refl s).regFlaw core gi n r corrected)

theorem Res.Settles.map {r : Res} (h : r.Settles s₀) {f : State → State} (hf : ∀ t, Keeps t (f t)) :
    (Res.map f r).Settles s₀ := by
  cases r with
  | next t => exact ⟨fun hw => (hf t).wf (h.1 hw), fun hi => (hf t).issue.trans (h.2 hi)⟩
  | fault e => exact h
  | refused e => exact h

theorem stepTurn_settles (t : Turn) (s : State) : (stepTurn t s).Settles s :=
  (runTurn_settles t s).map fun t => (Keeps.refl t).afterStep

/-! ## The default move -/

/-- A move that settles in every state. -/
def Move (f : State → Res) : Prop := ∀ s, (f s).Settles s

theorem exec_move {i : Instr} (hb : i.base = none) : Move (exec i) := exec_event hb

theorem base_of_mem_ite {c : Prop} [Decidable c] {a b : List Instr} {i : Instr} (ha : i ∈ a → i.base = none)
    (hb : i ∈ b → i.base = none) (h : i ∈ if c then a else b) : i.base = none := by
  split at h
  · exact ha h
  · exact hb h

theorem base_of_mem_nil {i : Instr} (h : i ∈ []) : i.base = none := absurd h List.not_mem_nil

theorem base_of_mem_singleton {e i : Instr} (he : e.base = none) (h : i ∈ [e]) : i.base = none := by
  cases List.mem_singleton.1 h
  exact he

theorem groupEvents_base {core gi : Nat} {g : Group} {i : Instr} (h : i ∈ groupEvents core gi g) : i.base = none := by
  unfold groupEvents at h
  rcases List.mem_append.1 h with h | h
  · rcases List.mem_append.1 h with h | h
    · split at h
      · exact base_of_mem_singleton rfl h
      · exact base_of_mem_singleton rfl h
      · cases h
    · exact base_of_mem_ite (base_of_mem_singleton rfl) base_of_mem_nil h
  · obtain ⟨l, -, hl⟩ := List.mem_filterMap.1 h
    split at hl
    · cases hl; rfl
    · cases hl

theorem regionEvents_base {core : Nat} {r : Region} {i : Instr} (h : i ∈ regionEvents core r) : i.base = none := by
  obtain ⟨k, -, rfl⟩ := List.mem_map.1 h
  rfl

theorem engineEvents_base {e : Engine} {i : Instr} (h : i ∈ engineEvents e) : i.base = none := by
  obtain ⟨q, -, rfl⟩ := List.mem_map.1 h
  rfl

theorem partEvents_base {p : Part} {i : Instr} (h : i ∈ partEvents p) : i.base = none := by
  unfold partEvents at h
  simp only [List.mem_cons, List.not_mem_nil, or_false] at h
  rcases h with rfl | rfl | rfl | rfl <;> rfl

theorem mem_flatten_mapFrom {α β : Type} {f : Nat → α → List β} {xs : List α} {n : Nat} {y : β}
    (h : y ∈ (mapFrom f n xs).flatten) : ∃ k x, y ∈ f k x := by
  induction xs generalizing n with
  | nil => cases h
  | cons x xs ih =>
    rcases List.mem_append.1 h with h | h
    · exact ⟨n, x, h⟩
    · exact ih h

theorem coreEvents_base {c : Core} {i : Instr} (h : i ∈ coreEvents c) : i.base = none := by
  unfold coreEvents at h
  split at h
  · cases h
  simp only [List.mem_append, or_assoc] at h
  rcases h with h | h | h | h | h | h | h | h | h | h
  · obtain ⟨k, g, h⟩ := mem_flatten_mapFrom h
    exact groupEvents_base h
  · obtain ⟨l, hl, h⟩ := List.mem_flatten.1 h
    obtain ⟨r, -, rfl⟩ := List.mem_map.1 hl
    exact regionEvents_base h
  · exact base_of_mem_ite base_of_mem_nil (base_of_mem_singleton rfl) h
  · exact base_of_mem_singleton rfl h
  · exact base_of_mem_ite base_of_mem_nil (base_of_mem_singleton rfl) h
  · exact base_of_mem_ite base_of_mem_nil (base_of_mem_singleton rfl) h
  · exact base_of_mem_ite base_of_mem_nil (base_of_mem_singleton rfl) h
  · split at h
    · exact base_of_mem_singleton rfl h
    · cases h
  · exact base_of_mem_ite (base_of_mem_singleton rfl) base_of_mem_nil h
  · split at h
    · exact base_of_mem_singleton rfl h
    · exact base_of_mem_singleton rfl h
    all_goals cases h

theorem boundEvents_base {i : Instr} (h : i ∈ s.boundEvents) : i.base = none := by
  obtain ⟨l, hl, h⟩ := List.mem_flatten.1 h
  obtain ⟨c, -, rfl⟩ := List.mem_map.1 hl
  split at h
  · cases h
  obtain ⟨k, g, h⟩ := mem_flatten_mapFrom h
  rcases List.mem_append.1 h with h | h
  · exact base_of_mem_ite (base_of_mem_singleton rfl) base_of_mem_nil h
  · split at h
    · exact base_of_mem_singleton rfl h
    · cases h

theorem moveStream_move (x : Stream) : Move (moveStream x) := fun s => ((Keeps.refl s).execStreamMove ..).settles

theorem answerRequest_move (r : Request) : Move (answerRequest r) := by
  intro s
  unfold answerRequest
  refine Res.Kept.settles ?_
  dsimp only
  split
  · exact (Keeps.refl s).execHostReadCompletion ..
  split
  · exact Keeps.refl s
  split
  · exact (Keeps.refl s).execAck ..
  split
  · exact (Keeps.refl s).execAtomicResponse ..
  · exact (Keeps.refl s).execReadResponse ..

theorem candidates_move {f : State → Res} (h : f ∈ s.candidates) : Move f := by
  unfold State.candidates at h
  dsimp only at h
  have h : f ∈ _ := (List.mem_append.1 h).elim List.mem_of_mem_drop List.mem_of_mem_take
  rcases List.mem_append.1 h with h | h
  · rcases List.mem_append.1 h with h | h
    · obtain ⟨i, hi, rfl⟩ := List.mem_map.1 h
      refine exec_move ?_
      rcases List.mem_append.1 hi with hi | hi
      · rcases List.mem_append.1 hi with hi | hi
        · obtain ⟨l, hl, hi⟩ := List.mem_flatten.1 hi
          obtain ⟨c, -, rfl⟩ := List.mem_map.1 hl
          exact coreEvents_base hi
        · obtain ⟨l, hl, hi⟩ := List.mem_flatten.1 hi
          obtain ⟨e, -, rfl⟩ := List.mem_map.1 hl
          exact engineEvents_base hi
      · obtain ⟨l, hl, hi⟩ := List.mem_flatten.1 hi
        obtain ⟨p, -, rfl⟩ := List.mem_map.1 hl
        exact partEvents_base hi
    · obtain ⟨x, -, rfl⟩ := List.mem_map.1 h
      exact moveStream_move x
  · obtain ⟨r, -, rfl⟩ := List.mem_map.1 h
    exact answerRequest_move r

theorem firstMove_settles {es : List (State → Res)} (hes : ∀ f ∈ es, Move f) {r : Res} (h : firstMove s es = some r) : r.Settles s := by
  induction es with
  | nil => cases h
  | cons e es ih =>
    have rest := ih fun f hf => hes f (List.mem_cons_of_mem e hf)
    have settles := hes e List.mem_cons_self s
    unfold firstMove at h
    split at h
    next s1 he =>
      split at h
      · exact rest h
      · cases h
        exact he ▸ settles
    · exact rest h
    · exact rest h

theorem firstMove_candidates {r : Res} (h : firstMove s s.candidates = some r) : r.Settles s :=
  firstMove_settles (fun _ => candidates_move) h

theorem firstMove_boundEvents {r : Res} (h : firstMove s (s.boundEvents.map exec) = some r) : r.Settles s := by
  refine firstMove_settles (fun f hf => ?_) h
  obtain ⟨i, hi, rfl⟩ := List.mem_map.1 hf
  exact exec_move (boundEvents_base hi)

theorem defaultMove_settles {r : Res} (h : defaultMove s = .inr r) : r.Settles s := by
  unfold defaultMove at h
  have h := eq_of_ite h nofun
  dsimp only at h
  split at h
  · split at h
    · cases h
      exact firstMove_candidates ‹_›
    · split at h
      · cases h
      · split at h
        · cases h
          exact firstMove_boundEvents ‹_›
        · cases h
  · split at h
    · cases h
    · split at h
      · cases h
        exact firstMove_candidates ‹_›
      · split at h
        · cases h
          exact firstMove_boundEvents ‹_›
        · cases h

theorem stepDefault_settles (s : State) : (stepDefault s).Settles s := by
  unfold stepDefault
  split
  · exact (stepTurn_settles _ s).map fun t => (Keeps.refl t).same rfl rfl
  next r h => exact (defaultMove_settles h).map fun t => (Keeps.refl t).afterStep.trans (Keeps.of_eq rfl rfl)

theorem step_settles (s : State) : Res.Settles s (step s) := by
  unfold step
  split
  · exact stepDefault_settles s
  next t ts _ => exact stepTurn_settles t { s with turns := ts }

/-- Settles O57: a step settles from every state. -/
theorem invariantKept : Obligations.InvariantKept := by
  intro s t ⟨hmem, hidle⟩ h
  obtain ⟨hwf, hissue⟩ : Res.Settles s (.next t) := h ▸ step_settles s
  exact ⟨hwf hmem, hissue hidle⟩

/-- Settles O58: a step that faulted or was refused would not settle. -/
theorem stepGoesOn : Obligations.StepGoesOn := by
  intro s
  have settles := step_settles s
  cases h : step s with
  | next t => exact ⟨t, rfl⟩
  | fault e => exact absurd (h ▸ settles : Res.Settles s (.fault e)) id
  | refused e => exact absurd (h ▸ settles : Res.Settles s (.refused e)) id

end Sys2Proof.Machine
end

section
/-!
PROOF. A step executes what the words at the PC decode to (spec/02_encoding.md R56, spec/04_lane.md R90 to R92).
-/
namespace Sys2Proof.Machine

-- The proofs of this file run one after another: side by side they take the check's memory.
set_option Elab.async false

theorem step_of_turn {s : State} {t : Turn} {ts : List Turn} (h : s.turns = t :: ts) :
    step s = Res.map State.afterStep (runTurn t { s with turns := ts }) := by
  unfold step
  rw [h]
  rfl

/-! ## Fetches -/

theorem bvFld_major (w : Word) : bvFld w 26 6 = w.toNat / 2 ^ 26 := by
  have := w.isLt
  simp only [bvFld, fld]
  omega

theorem fetchWords_main {ls : List CodeLine} {base ext pc n k : Nat} {hs : List (Option Instr)} {w : Word} (hn : n ≠ 0)
    (hpc : pc + k < ext) (hw : wordAt ls (base + 4 * (pc + k)) = some w) (hm : w.toNat / 2 ^ 26 ≠ 0x3F) :
    fetchWords ls base ext pc n k hs = .unit ⟨hs, decodeWord w.toNat, k + 1⟩ := by
  obtain ⟨n, rfl⟩ := Nat.exists_eq_succ_of_ne_zero hn
  rw [fetchWords, if_neg (by omega), hw]
  exact if_neg (by simpa [bvFld_major] using hm)

theorem fetchWords_hint {ls : List CodeLine} {base ext pc n k : Nat} {hs : List (Option Instr)} {w : Word}
    (hpc : pc + k < ext) (hw : wordAt ls (base + 4 * (pc + k)) = some w) (hm : w.toNat / 2 ^ 26 = 0x3F) :
    fetchWords ls base ext pc (n + 1) k hs = fetchWords ls base ext pc n (k + 1) (hs ++ [decodeWord w.toNat]) := by
  rw [fetchWords, if_neg (by omega), hw]
  exact if_pos (by simpa [bvFld_major] using hm)

theorem fetchAt_main {t : Team} {r : LaunchBytes} {ls : List CodeLine} {p : Place} {lanes : List Lane} {w : Word}
    (hb : p.bank = false) (hpc : p.pc.toNat < 16 * recCodeLen r) (hw : wordAt ls (recCode r + 4 * p.pc.toNat) = some w)
    (hm : w.toNat / 2 ^ 26 ≠ 0x3F) : fetchAt t r ls p lanes = .unit ⟨[], decodeWord w.toNat, 1⟩ := by
  simp only [fetchAt, codeWindow, hb, Bool.false_eq_true, if_false]
  exact fetchWords_main (by omega) (by omega) hw hm

theorem fetchAt_hint {t : Team} {r : LaunchBytes} {ls : List CodeLine} {pc w x : Word} {lanes : List Lane}
    (hpc : pc.toNat + 1 < 16 * recCodeLen r) (hw : wordAt ls (recCode r + 4 * pc.toNat) = some w)
    (hx : wordAt ls (recCode r + 4 * (pc.toNat + 1)) = some x) (hm : w.toNat / 2 ^ 26 = 0x3F) (hm' : x.toNat / 2 ^ 26 ≠ 0x3F) :
    fetchAt t r ls ⟨false, pc⟩ lanes = .unit ⟨[decodeWord w.toNat], decodeWord x.toNat, 2⟩ := by
  simp only [fetchAt, codeWindow, Bool.false_eq_true, if_false]
  rw [fetchWords_hint (by omega) hw hm]
  exact fetchWords_main (by omega) (by omega) hx hm'

/-! ## The unit that is run -/

/-- The hints of a unit read one after another, then its instruction, and what it wrote no longer poisoned. -/
theorem runUnit_of_hints {s : State} {u : CodeUnit} {hs : List Instr} {i : Instr} {y : Issue} {x : Group} (hh : u.hints = hs.map some)
    (hi : u.main = some i) (hy : s.issue = some y) (hx : s.group y.core y.group = some x) :
    runUnit u s = Res.map (fun t => t.rewritten i y.core y.group y.lanes x)
      (Res.andThen (hs.foldl (fun (r : Res) h => Res.andThen r (exec h)) (.next s)) (exec i)) := by
  have hc : ∃ c, s.context = some c ∧ c.g = x := by
    unfold State.group at hx
    split at hx
    · cases hx
    next t ht =>
      unfold State.context
      simp only [hy, ht, hx]
      exact ⟨_, rfl, rfl⟩
  obtain ⟨c, hc, rfl⟩ := hc
  have hnone : u.hints.any Option.isNone = false := by simp [hh]
  have hsome : u.hints.filterMap id = hs := by simp [hh]
  unfold runUnit
  rw [hi]
  dsimp only
  rw [hnone, hsome, hy, hc]
  rfl

theorem unitTurn_issue {s : State} {core gi : Nat} {u : CodeUnit} {lanes : List Nat} {hs : List Instr} {i : Instr} {x : Group}
    (hf : s.front core gi = .issue u lanes) (hh : u.hints = hs.map some) (hi : u.main = some i)
    (hx : (s.take core gi lanes (s.frontPlace core gi) u.words false).group core gi = some x) :
    unitTurn core gi s = Res.map (fun t => t.rewritten i core gi lanes x)
      (Res.andThen (hs.foldl (fun (r : Res) h => Res.andThen r (exec h))
        (.next (s.take core gi lanes (s.frontPlace core gi) u.words false))) (exec i)) := by
  unfold unitTurn
  rw [hf]
  exact runUnit_of_hints (y := ⟨core, gi, lanes, s.frontPlace core gi, u.words, [], false⟩) hh hi rfl hx

theorem laneTurn_issue {s : State} {core gi n : Nat} {g : Group} {u : CodeUnit} {hs : List Instr} {i : Instr} {x : Group}
    (hg : s.group core gi = some g) (ha : s.alone core gi n = .issue u) (hh : u.hints = hs.map some) (hi : u.main = some i)
    {s1 : State} (hs1 : s1 = (s.modLane core gi n fun l => l.looped (s.core core).fetch (s.laneVa core l) u.words).take core gi [n]
      (g.lane n).place u.words true) (hx : s1.group core gi = some x) :
    laneTurn core gi n s = Res.map (fun t => t.rewritten i core gi [n] x)
      (Res.andThen (hs.foldl (fun (r : Res) h => Res.andThen r (exec h)) (.next s1)) (exec i)) := by
  subst hs1
  unfold laneTurn
  rw [hg]
  dsimp only
  rw [ha]
  exact runUnit_of_hints (y := ⟨core, gi, [n], (g.lane n).place, u.words, [], true⟩) hh hi rfl hx

/-- The broadcast path of a group whose lanes at the broadcast PC are all ready issues the unit there. -/
theorem path_issue {s : State} {core gi : Nat} {t : Team} {g : Group} {u : CodeUnit} (ht : s.team core = some t)
    (hg : t.groups[gi]? = some g) (hr : g.refreshBroadcast = g) (hruns : s.runs core = true) (hstop : t.stopped = false)
    (hopen : g.open_ s.progress = true) (hmove : g.mustMove = false) (hne : g.standing ≠ [])
    (hfree : ∀ n ∈ g.standing, (g.lane n).free s.progress = true ∧ (g.lane n).pending = [])
    (hu : fetchAt t (s.recordOf t) (s.core core).fetch g.place (g.standing.map g.lane) = .unit u) :
    s.path core gi = .issue u g.standing := by
  have hall : g.standing.filter (fun n => (g.lane n).free s.progress && (!t.stopped || 0 < (g.lane n).chain)) = g.standing :=
    List.filter_eq_self.2 fun n hn => by simp [(hfree n hn).1, hstop]
  have hready : g.standing.filter (fun n => (g.lane n).operandsReady t u && (g.lane n).mayIssue t u) = g.standing := by
    refine List.filter_eq_self.2 fun n hn => ?_
    have hops : (g.lane n).operandsReady t u = true := by
      unfold Lane.operandsReady
      split
      · rfl
      · simp [(hfree n hn).2]
    simp [hops, Lane.mayIssue, hstop]
  have hempty : g.standing.isEmpty = false := by simpa using hne
  unfold State.path
  rw [ht]
  dsimp only
  rw [hg, Option.map_some, hr]
  dsimp only
  rw [hall, hruns, hopen, hmove, hempty, hu]
  dsimp only
  rw [hready, hempty]
  simp

theorem front_of_not_barred {s : State} {core gi : Nat} {t : Team} {g : Group} (ht : s.team core = some t)
    (hg : t.groups[gi]? = some g) (hb : s.barred core t gi g = false) : s.front core gi = s.path core gi := by
  unfold State.front
  rw [ht]
  dsimp only
  rw [hg]
  dsimp only
  rw [hb]
  rfl

/-- Settles O55, clause by clause: the broadcast path, its units with hints, a diverged lane, a hint before its instruction, an event, and the
default move. -/
theorem stepRunsDecoded : Obligations.StepRunsDecoded := by
  refine ⟨?front, ?unit, ?lane, ?hint, ?event, ?default⟩
  case front =>
    intro s core gi ts t g w i hts ht hg hr hruns hstop hopen hmove hbar hne hfree hbank hpc hw hm hi
    have hgroup : s.group core gi = some g := by rw [State.group, ht]; exact hg
    have hu := fetchAt_main (t := t) (lanes := g.standing.map g.lane) hbank hpc hw hm
    have hfront := (front_of_not_barred ht hg hbar).trans (path_issue ht hg hr hruns hstop hopen hmove hne hfree hu)
    have hplace : s.frontPlace core gi = g.place := by rw [State.frontPlace, hgroup, Option.map_some, hr]; rfl
    have hx := group_take (s := { s with turns := ts }) hgroup g.standing g.place 1 false
    rw [hr] at hx
    rw [step_of_turn hts]
    refine congrArg _ ?_
    have := unitTurn_issue (s := { s with turns := ts }) (hs := []) hfront rfl hi (hplace ▸ hx)
    exact this.trans (by rw [show State.frontPlace { s with turns := ts } core gi = g.place from hplace]; rfl)
  case unit =>
    intro s core gi ts u lanes hs i x hts hf hh hi s1 hx
    rw [step_of_turn hts]
    exact congrArg _ (unitTurn_issue (s := { s with turns := ts }) hf hh hi hx)
  case lane =>
    intro s core gi n ts g x u hs i hts hg ha hh hi s1 hx
    rw [step_of_turn hts]
    exact congrArg _ (laneTurn_issue (s := { s with turns := ts }) hg ha hh hi rfl hx)
  case hint =>
    intro t r ls pc lanes w x h hpc hw hx hm hd hm'
    rw [fetchAt_hint hpc hw hx hm hm', hd]
  case event =>
    intro s e ts hts he
    rw [step_of_turn hts]
    refine congrArg _ (if_neg ?_)
    simp [he]
  case default =>
    intro s turn hts hdue hflip hmove
    have hdef : defaultMove s = .inl turn := by
      unfold defaultMove
      simp only [hdue, hflip, hmove, Bool.false_eq_true, if_false]
    have hself : ({ s with turns := [] } : State) = s := by rw [← hts]
    rw [step_of_turn (s := { s with turns := [turn] }) (ts := []) rfl]
    unfold step stepDefault
    rw [hts]
    dsimp only
    rw [hdef, hself]
    rfl

end Sys2Proof.Machine
end

section
/-!
PROOF. The frame of a unit: what its end spares. After a unit its group's bookkeeping runs, lanes and groups that waited for each other
may go on, and the team may end or trigger; no register, predicate or scalar changes thereby.
-/
namespace Sys2Proof.Machine

-- The proofs of this file run one after another: side by side they take the check's memory.
set_option Elab.async false

/-! ## What is spared -/

/-- The registers of the machine that no unit's end changes. -/
def State.registers (s : State) :=
  (s.parts, s.mem, s.tags, s.poison, s.time, s.measures, s.tenants, s.ready0, s.ready1, s.ready2, s.energy)

/-- The part of a team that no unit's end changes, beside its groups. -/
def Team.works (u : Team) := (u.views, u.handles, u.regions, u.mq, u.inq, u.outq, u.z, u.alatch)

/-- The lane `z` is `l`, but for where it stands and what it waits for. -/
def Lane.Spares (l z : Lane) : Prop := z.own = l.own ∧ z.exited = l.exited

/-- The group `x` is `g`, but for its bookkeeping, for where its lanes stand and for what they wait for. -/
structure Group.Spares (g x : Group) : Prop where
  scalars : x.s = g.s
  cmask   : x.cmask = g.cmask
  lanes   : ∀ (m : Nat) (l : Lane), g.lanes[m]? = some l → ∃ z, x.lanes[m]? = some z ∧ l.Spares z

/-- From `s` to `t` nothing changed but bookkeeping of the groups of the team on a core, what they and their lanes wait for and where
they stand. -/
structure Spares (core : Nat) (s t : State) : Prop where
  registers : t.registers = s.registers
  cores     : ∀ k, k ≠ core → t.core k = s.core k
  team      : ∀ u, s.team core = some u → ∃ v, t.team core = some v ∧ v.works = u.works
  groups    : ∀ (gi : Nat) (g : Group), s.group core gi = some g → ∃ x, t.group core gi = some x ∧ g.Spares x

theorem Lane.Spares.refl (l : Lane) : l.Spares l := ⟨rfl, rfl⟩

theorem Lane.Spares.trans {l y z : Lane} (h : l.Spares y) (h' : y.Spares z) : l.Spares z := ⟨h'.1.trans h.1, h'.2.trans h.2⟩

theorem Lane.spares_skip (l : Lane) (words : Nat) : l.Spares (l.skip words) := ⟨rfl, rfl⟩

theorem Group.Spares.refl (g : Group) : g.Spares g := ⟨rfl, rfl, fun _ l h => ⟨l, h, .refl l⟩⟩

theorem Group.Spares.trans {g x y : Group} (h : g.Spares x) (h' : x.Spares y) : g.Spares y := by
  refine ⟨h'.scalars.trans h.scalars, h'.cmask.trans h.cmask, fun m l hl => ?_⟩
  obtain ⟨z, hz, hs⟩ := h.lanes m l hl
  obtain ⟨z', hz', hs'⟩ := h'.lanes m z hz
  exact ⟨z', hz', hs.trans hs'⟩

/-- A group with its lanes changed one by one, and what else of it is no scalar. -/
theorem Group.Spares.mapFrom {g x : Group} {f : Nat → Lane → Lane} (hs : x.s = g.s) (hc : x.cmask = g.cmask)
    (hl : x.lanes = Sys2Proof.mapFrom f 0 g.lanes) (hf : ∀ n (l : Lane), l.Spares (f n l)) : g.Spares x := by
  refine ⟨hs, hc, fun m l h => ⟨f m l, ?_, hf m l⟩⟩
  rw [hl, getElem?_mapFrom_zero, h]
  rfl

theorem Group.Spares.map {g x : Group} {f : Lane → Lane} (hs : x.s = g.s) (hc : x.cmask = g.cmask) (hl : x.lanes = g.lanes.map f)
    (hf : ∀ l : Lane, l.Spares (f l)) : g.Spares x := by
  refine ⟨hs, hc, fun m l h => ⟨f l, ?_, hf l⟩⟩
  rw [hl, List.getElem?_map, h]
  rfl

theorem Group.Spares.ofLanes {g x : Group} (hs : x.s = g.s) (hc : x.cmask = g.cmask) (hl : x.lanes = g.lanes) : g.Spares x :=
  ⟨hs, hc, fun _ l h => ⟨l, hl ▸ h, .refl l⟩⟩

theorem Spares.refl (core : Nat) (s : State) : Spares core s s :=
  ⟨rfl, fun _ _ => rfl, fun u h => ⟨u, h, rfl⟩, fun _ g h => ⟨g, h, .refl g⟩⟩

theorem Spares.trans {core : Nat} {s t u : State} (h : Spares core s t) (h' : Spares core t u) : Spares core s u := by
  refine ⟨h'.registers.trans h.registers, fun k hk => (h'.cores k hk).trans (h.cores k hk), fun x hx => ?_, fun gi g hg => ?_⟩
  · obtain ⟨y, hy, hw⟩ := h.team x hx
    obtain ⟨z, hz, hw'⟩ := h'.team y hy
    exact ⟨z, hz, hw'.trans hw⟩
  · obtain ⟨x, hx, hs⟩ := h.groups gi g hg
    obtain ⟨y, hy, hs'⟩ := h'.groups gi x hx
    exact ⟨y, hy, hs.trans hs'⟩

/-- An update that changes no core and none of the registers. -/
theorem Spares.ofCores {core : Nat} {s t : State} (hc : t.cores = s.cores) (hr : t.registers = s.registers) : Spares core s t := by
  have hcore : ∀ k, t.core k = s.core k := fun k => by rw [State.core, hc]; rfl
  have hteam : ∀ k, t.team k = s.team k := fun k => by rw [State.team, hcore]; rfl
  have hgroup : ∀ k gi, t.group k gi = s.group k gi := fun k gi => by rw [State.group, hteam]; rfl
  exact ⟨hr, fun k _ => hcore k, fun u hu => ⟨u, (hteam core).trans hu, rfl⟩, fun gi g hg => ⟨g, (hgroup core gi).trans hg, .refl g⟩⟩

theorem State.modTeam_registers (s : State) (core : Nat) (f : Team → Team) : (s.modTeam core f).registers = s.registers := by
  unfold State.modTeam
  split <;> rfl

/-- The team on a core changed, which spares what of it and of its groups no unit's end changes. -/
theorem Spares.modTeam {core : Nat} {s : State} {f : Team → Team} (hw : ∀ u, (f u).works = u.works)
    (hg : ∀ u (gi : Nat) (g : Group), s.team core = some u → u.groups[gi]? = some g → ∃ x, (f u).groups[gi]? = some x ∧ g.Spares x) :
    Spares core s (s.modTeam core f) := by
  refine ⟨State.modTeam_registers s core f, fun k hk => ?_, fun u hu => ⟨f u, ?_, hw u⟩, fun gi g h => ?_⟩
  · rw [State.core_modTeam, if_neg (Ne.symm hk)]
  · rw [State.team_modTeam, if_pos rfl, hu]
    rfl
  · unfold State.group at h ⊢
    rw [State.team_modTeam, if_pos rfl]
    cases hu : s.team core with
    | none => simp [hu] at h
    | some u =>
      simp only [hu] at h
      exact hg u gi g hu h

/-- The team on a core changed in neither what is spared nor its groups. -/
theorem Spares.modTeamRest {core : Nat} {s : State} {f : Team → Team} (hw : ∀ u, (f u).works = u.works)
    (hg : ∀ u, (f u).groups = u.groups) : Spares core s (s.modTeam core f) :=
  .modTeam hw fun u gi g _ h => ⟨g, by rwa [hg], .refl g⟩

theorem Spares.moved {core : Nat} {s t : State} (h : Spares core s t) : Spares core s t.moved := h.trans (.ofCores rfl rfl)

/-! ## The bookkeeping of a group -/

theorem Group.spares_settleSyncl (g : Group) : g.Spares g.settleSyncl := by
  refine .mapFrom rfl rfl rfl fun n l => ?_
  split
  · split
    · exact l.spares_skip _
    · exact .refl l
  · exact .refl l

theorem Group.spares_settleBarg (g : Group) : g.Spares g.settleBarg := by
  unfold Group.settleBarg
  split
  · exact .refl g
  · dsimp only
    split
    · refine .map rfl rfl rfl fun l => ?_
      split
      · exact l.spares_skip _
      · exact .refl l
    · exact .refl g

theorem Group.spares_settle {g : Group} (hr : g.rvz = none) : g.Spares g.settle := by
  have h := g.spares_settleSyncl.trans g.settleSyncl.spares_settleBarg
  have hrvz : g.settleSyncl.settleBarg.settleRvz = g.settleSyncl.settleBarg := settleRvz_none _ (by simp [hr])
  unfold Group.settle
  rw [hrvz]
  dsimp only
  split
  · exact h.trans (.ofLanes rfl rfl rfl)
  · exact h

/-- A group of which a lane has not exited is not triggered by its end (R329). -/
theorem Group.settle_triggered {g : Group} (hr : g.rvz = none) (ht : g.triggered = false)
    (ha : ∃ (n : Nat) (l : Lane), g.lanes[n]? = some l ∧ l.exited = false) : g.settle.triggered = false := by
  have h := g.spares_settleSyncl.trans g.settleSyncl.spares_settleBarg
  have hrvz : g.settleSyncl.settleBarg.settleRvz = g.settleSyncl.settleBarg := settleRvz_none _ (by simp [hr])
  have hkeep : g.settleSyncl.settleBarg.triggered = g.triggered := by
    unfold Group.settleBarg
    split
    · rfl
    · dsimp only
      split <;> rfl
  obtain ⟨n, l, hl, hx⟩ := ha
  obtain ⟨z, hz, -, hzx⟩ := h.lanes n l hl
  have hout : g.settleSyncl.settleBarg.allExited = false := by
    refine Bool.eq_false_iff.2 fun hall => ?_
    have := List.all_eq_true.1 hall z (List.mem_of_getElem? hz)
    rw [hzx, hx] at this
    exact absurd this Bool.false_ne_true
  unfold Group.settle
  rw [hrvz]
  dsimp only
  rw [hout]
  exact hkeep.trans ht

theorem Group.spares_moveBroadcast (g : Group) : g.Spares g.moveBroadcast := by
  obtain ⟨p, h⟩ := moveBroadcast_booked g
  rw [h]
  exact .ofLanes rfl rfl rfl

theorem Group.moveBroadcast_triggered (g : Group) : g.moveBroadcast.triggered = g.triggered := by
  obtain ⟨p, h⟩ := moveBroadcast_booked g
  rw [h]
  rfl

theorem Group.spares_refreshBroadcast (g : Group) : g.Spares g.refreshBroadcast := by
  unfold Group.refreshBroadcast
  split
  · exact .refl g
  · exact g.spares_moveBroadcast

theorem Group.refreshBroadcast_triggered (g : Group) : g.refreshBroadcast.triggered = g.triggered := by
  unfold Group.refreshBroadcast
  split
  · rfl
  · exact g.moveBroadcast_triggered

/-- The broadcast PC after an issue: the group is spared, and its trigger and its RVZ are as they were. -/
theorem Group.spares_nextBroadcast (g : Group) (ls : List Nat) :
    g.Spares (g.nextBroadcast ls) ∧ (g.nextBroadcast ls).triggered = g.triggered := by
  unfold Group.nextBroadcast
  split
  · exact ⟨.refl g, rfl⟩
  split
  · exact ⟨.refl g, rfl⟩
  split
  · exact ⟨g.spares_moveBroadcast, g.moveBroadcast_triggered⟩
  · exact ⟨.ofLanes rfl rfl rfl, rfl⟩

/-- The bookkeeping of a group after its issue spares it; where a lane has not exited it does not trigger the group. -/
theorem Group.spares_afterIssue (c : Ctx) {g : Group} (hr : g.rvz = none) :
    g.Spares (g.afterIssue c) ∧ (g.triggered = false → (∃ (n : Nat) (l : Lane), g.lanes[n]? = some l ∧ l.exited = false) →
      (g.afterIssue c).triggered = false) := by
  have hg1 : g.Spares (if c.alone then g else g.nextBroadcast c.lanes) ∧
      (if c.alone then g else g.nextBroadcast c.lanes).triggered = g.triggered ∧
      (if c.alone then g else g.nextBroadcast c.lanes).rvz = none := by
    split
    · exact ⟨.refl g, rfl, hr⟩
    · exact ⟨(g.spares_nextBroadcast _).1, (g.spares_nextBroadcast _).2, (nextBroadcast_same g c.lanes).2.trans hr⟩
  unfold Group.afterIssue
  dsimp only
  generalize (if c.alone then g else g.nextBroadcast c.lanes) = g1 at hg1 ⊢
  obtain ⟨hs, ht, hr1⟩ := hg1
  generalize hg2 : ({ g1 with
    heldFor := if g1.rvz.isSome || c.alone then g1.heldFor else g1.countHeld
    age := if c.alone then g1.age else none
    run := if c.alone then g1.run else runLeft g c.hints } : Group) = g2
  have hs2 : g1.Spares g2 := hg2 ▸ .ofLanes rfl rfl rfl
  have hr2 : g2.rvz = none := hg2 ▸ hr1
  have ht2 : g2.triggered = g1.triggered := hg2 ▸ rfl
  refine ⟨((hs.trans hs2).trans (Group.spares_settle hr2)).trans (Group.spares_refreshBroadcast _), fun hun ha => ?_⟩
  rw [Group.refreshBroadcast_triggered]
  refine Group.settle_triggered hr2 (ht2.trans (ht.trans hun)) ?_
  obtain ⟨n, l, hl, hx⟩ := ha
  obtain ⟨z, hz, -, hzx⟩ := (hs.trans hs2).lanes n l hl
  exact ⟨n, z, hz, hzx.trans hx⟩

/-! ## What follows in the team -/

theorem Group.spares_advance (g : Group) (words : Nat) : g.Spares (g.advance words) := by
  refine .map rfl rfl rfl fun l => ?_
  split
  · exact .refl l
  · exact l.spares_skip words

theorem Spares.settleBart (core : Nat) (s : State) : Spares core s (s.modTeam core Team.settleBart) := by
  refine .modTeam (fun u => ?_) fun u gi g _ hg => ?_
  · unfold Team.settleBart
    split
    · rfl
    · split <;> rfl
  · unfold Team.settleBart
    split
    · exact ⟨g, hg, .refl g⟩
    split
    · dsimp only
      rw [List.getElem?_map, hg]
      refine ⟨_, rfl, ?_⟩
      dsimp only
      split
      · exact g.spares_advance _
      · exact .refl g
    · exact ⟨g, hg, .refl g⟩

theorem Spares.passBarc (core : Nat) (s : State) (k : Nat) : Spares core s (s.modTeam core fun u => u.passBarc k) := by
  refine .modTeam (fun u => rfl) fun u gi g _ hg => ?_
  unfold Team.passBarc
  dsimp only
  rw [List.getElem?_map, hg]
  refine ⟨_, rfl, ?_⟩
  dsimp only
  split
  · split
    · exact g.spares_advance _
    · exact .refl g
  · exact .refl g

theorem Spares.modCells (core : Nat) (s : State) (k : Nat) (t : Team) (f : Nat → BarCell → BarCell) :
    Spares core s (s.modCells k t f) := by
  refine .ofCores (State.setCluster_cores ..) ?_
  unfold State.modCells State.setCluster
  dsimp only
  split <;> rfl

theorem Spares.arriveBarc (core : Nat) (s : State) (left : Copy → Nat) : Spares core s (s.arriveBarc core left) := by
  unfold State.arriveBarc
  split
  · exact .refl core s
  split
  · exact .refl core s
  split
  · exact (Spares.passBarc core s _).moved
  split
  · exact .refl core s
  split
  · exact .refl core s
  dsimp only
  split
  · exact .refl core s
  · refine .moved ((Spares.modCells core s _ _ _).trans (.modTeamRest ?_ ?_)) <;> exact fun _ => rfl

/-- Where a group of the team has not triggered, what follows the end of groups spares the machine. -/
theorem Spares.afterEnds {core gi : Nat} {s : State} (left : Copy → Nat) {g : Group} (hg : s.group core gi = some g)
    (ht : g.triggered = false) : Spares core s (s.afterEnds core left) := by
  unfold State.afterEnds
  split
  · exact .refl core s
  next t hteam =>
    have h := (Spares.settleBart core s).trans (Spares.arriveBarc core _ left)
    dsimp only
    split
    · split
      · refine .moved (h.trans (.modTeamRest ?_ ?_)) <;> exact fun _ => rfl
      · exact h
    · split
      · exact h
      · have hno : t.triggers = false := by
          refine Bool.eq_false_iff.2 fun hall => ?_
          rw [State.group, hteam] at hg
          rw [List.all_eq_true.1 hall g (List.mem_of_getElem? hg)] at ht
          exact absurd ht Bool.noConfusion
        rw [hno]
        exact h

theorem Group.spares_yieldSeen (g : Group) (gi : Nat) : g.Spares (yieldSeen gi g) := by
  unfold yieldSeen
  split
  · exact .ofLanes rfl rfl rfl
  · exact .refl g

/-- The end of a unit in which no lane failed spares the machine, where its group has not triggered and a lane of it has not exited. -/
theorem Spares.finish {s : State} {c : Ctx} {g : Group} (hg : s.group c.core c.gi = some g) (hr : g.rvz = none)
    (ht : g.triggered = false) (ha : ∃ (n : Nat) (l : Lane), g.lanes[n]? = some l ∧ l.exited = false) :
    Spares c.core s (s.finish c []) := by
  obtain ⟨hspare, htrig⟩ := Group.spares_afterIssue c hr
  have h1 : Spares c.core s (s.modGroup c.core c.gi (Group.afterIssue c)) := by
    refine .modTeam (fun _ => rfl) fun u gi x hu hx => ?_
    dsimp only
    rw [getElem?_modifyNth, hx]
    split
    next he =>
      rw [State.group, hu, he] at hg
      obtain rfl := Option.some.inj (hx.symm.trans hg)
      exact ⟨_, rfl, hspare⟩
    · exact ⟨x, rfl, .refl x⟩
  have h2 : Spares c.core (s.modGroup c.core c.gi (Group.afterIssue c)) ((s.modGroup c.core c.gi (Group.afterIssue c)).modTeam c.core fun t =>
      { t with groups := mapFrom (fun k g => if k == c.gi then g else yieldSeen c.gi g) 0 t.groups }) := by
    refine .modTeam (fun _ => rfl) fun u gi x _ hx => ?_
    dsimp only
    rw [getElem?_mapFrom_zero, hx]
    refine ⟨_, rfl, ?_⟩
    split
    · exact .refl x
    · exact x.spares_yieldSeen _
  have hg1 : (s.modGroup c.core c.gi (Group.afterIssue c)).group c.core c.gi = some (g.afterIssue c) := by
    rw [State.group_modGroup, if_pos ⟨rfl, rfl⟩, hg]
    rfl
  have hg2 := group_modTeam (s.modGroup c.core c.gi (Group.afterIssue c)) c.core c.gi (fun t =>
    { t with groups := mapFrom (fun k g => if k == c.gi then g else yieldSeen c.gi g) 0 t.groups }) _ hg1 fun t _ hx => by simp [hx]
  unfold State.finish
  exact ((h1.trans h2).trans (.afterEnds copyLeft hg2 (htrig ht ha))).trans (.ofCores rfl rfl)

/-! ## The frame that the statements name -/

section
variable {c : Ctx} {s t u : State}

theorem Leaves.trans (h : Leaves c s t) (h' : Leaves c t u) : Leaves c s u := by
  refine ⟨h'.parts.trans h.parts, fun k hk => (h'.cores k hk).trans (h.cores k hk), fun gi m l hm hl => ?_, fun gi g hgi hg => ?_,
    fun x hx => ?_, ?_⟩
  · obtain ⟨z, hz, hs⟩ := h.lanes gi m l hm hl
    obtain ⟨z', hz', hs'⟩ := h'.lanes gi m z hm hz
    exact ⟨z', hz', hs'.trans hs⟩
  · obtain ⟨x, hx, hs, hc⟩ := h.scalars gi g hgi hg
    obtain ⟨y, hy, hs', hc'⟩ := h'.scalars gi x hgi hx
    exact ⟨y, hy, hs'.trans hs, hc'.trans hc⟩
  · obtain ⟨y, hy, hz, ha⟩ := h.sums x hx
    obtain ⟨w, hw, hz', ha'⟩ := h'.sums y hy
    exact ⟨w, hw, hz'.trans hz, ha'.trans ha⟩
  · obtain ⟨h1, h2, h3, h4, h5, h6, h7⟩ := h.others
    obtain ⟨h1', h2', h3', h4', h5', h6', h7'⟩ := h'.others
    exact ⟨h1'.trans h1, h2'.trans h2, h3'.trans h3, h4'.trans h4, h5'.trans h5, h6'.trans h6, h7'.trans h7⟩

theorem LeavesMemory.trans (h : LeavesMemory s t) (h' : LeavesMemory t u) : LeavesMemory s u :=
  ⟨fun a => (h'.bytes a).trans (h.bytes a), h'.tags.trans h.tags, h'.poison.trans h.poison⟩

theorem LeavesTeam.trans (h : LeavesTeam c s t) (h' : LeavesTeam c t u) : LeavesTeam c s u := by
  intro x hx
  obtain ⟨y, hy, h1, h2, h3, h4, h5, h6⟩ := h x hx
  obtain ⟨z, hz, h1', h2', h3', h4', h5', h6'⟩ := h' y hy
  exact ⟨z, hz, h1'.trans h1, h2'.trans h2, h3'.trans h3, h4'.trans h4, h5'.trans h5, h6'.trans h6⟩

theorem State.laneAt_eq_some {s : State} {core gi m : Nat} {l : Lane} :
    s.laneAt core gi m = some l ↔ ∃ g, s.group core gi = some g ∧ g.lanes[m]? = some l := Option.bind_eq_some_iff

theorem Spares.leaves (h : Spares c.core s t) : Leaves c s t := by
  have hreg := h.registers
  simp only [State.registers, Prod.mk.injEq] at hreg
  obtain ⟨hparts, -, -, -, htime, hmeas, hten, h0, h1, h2, hen⟩ := hreg
  refine ⟨hparts, h.cores, fun gi m l _ hl => ?_, fun gi g _ hg => ?_, fun x hx => ?_, htime, hmeas, hten, h0, h1, h2, hen⟩
  · obtain ⟨g, hg, hgl⟩ := State.laneAt_eq_some.1 hl
    obtain ⟨x, hx, hs⟩ := h.groups gi g hg
    obtain ⟨z, hz, hown, -⟩ := hs.lanes m l hgl
    exact ⟨z, State.laneAt_eq_some.2 ⟨x, hx, hz⟩, hown⟩
  · obtain ⟨x, hx, hs⟩ := h.groups gi g hg
    exact ⟨x, hx, hs.scalars, hs.cmask⟩
  · obtain ⟨v, hv, hw⟩ := h.team x hx
    simp only [Team.works, Prod.mk.injEq] at hw
    exact ⟨v, hv, hw.2.2.2.2.2.2.1, hw.2.2.2.2.2.2.2⟩

theorem Spares.leavesMemory {core : Nat} (h : Spares core s t) : LeavesMemory s t := by
  have hreg := h.registers
  simp only [State.registers, Prod.mk.injEq] at hreg
  obtain ⟨-, hmem, htags, hpoison, -⟩ := hreg
  exact ⟨fun a => by rw [hmem], htags, hpoison⟩

theorem Spares.leavesTeam (h : Spares c.core s t) : LeavesTeam c s t := by
  intro x hx
  obtain ⟨v, hv, hw⟩ := h.team x hx
  simp only [Team.works, Prod.mk.injEq] at hw
  obtain ⟨h1, h2, h3, h4, h5, h6, -⟩ := hw
  exact ⟨v, hv, h1, h2, h3, h4, h5, h6⟩

end

end Sys2Proof.Machine
end

section
/-!
PROOF. The frame of the lane and scalar instructions (spec/02_encoding.md R52 to R55, spec/05_lane_integer_control.md R118 to R137): what a unit changes
of its own group and lanes, and what its end spares.
-/
namespace Sys2Proof.Machine

-- The proofs of this file run one after another: side by side they take the check's memory.
set_option Elab.async false
variable {s : State} {c : Ctx}

/-! ## Changes of the unit's own group -/

theorem Leaves.modGroup {g : Group} {f : Group → Group} (hg : s.group c.core c.gi = some g)
    (hf : ∀ (m : Nat) (l : Lane), m ∉ c.lanes → g.lanes[m]? = some l → ∃ z, (f g).lanes[m]? = some z ∧ z.own = l.own) :
    Leaves c s (s.modGroup c.core c.gi f) := by
  have hreg := State.modTeam_registers s c.core fun t => { t with groups := modifyNth f c.gi t.groups }
  simp only [State.registers, Prod.mk.injEq] at hreg
  obtain ⟨hparts, -, -, -, hothers⟩ := hreg
  refine ⟨hparts, fun k hk => ?_, fun gi m l hm hl => ?_, fun gi x hgi hx => ?_, fun u hu => ?_, hothers⟩
  · exact (State.core_modTeam ..).trans (if_neg (Ne.symm hk))
  · obtain ⟨x, hx, hxl⟩ := State.laneAt_eq_some.1 hl
    by_cases hgi : c.gi = gi
    · subst hgi
      obtain rfl := Option.some.inj (hx.symm.trans hg)
      obtain ⟨z, hz, hown⟩ := hf m l (hm.resolve_left fun h => h rfl) hxl
      exact ⟨z, State.laneAt_eq_some.2 ⟨f x, by rw [State.group_modGroup, if_pos ⟨rfl, rfl⟩, hx]; rfl, hz⟩, hown⟩
    · exact ⟨l, State.laneAt_eq_some.2 ⟨x, by rw [State.group_modGroup, if_neg fun h => hgi h.2]; exact hx, hxl⟩, rfl⟩
  · exact ⟨x, by rw [State.group_modGroup, if_neg fun h => hgi h.2.symm]; exact hx, rfl, rfl⟩
  · exact ⟨_, (State.team_modTeam ..).trans ((if_pos rfl).trans (congrArg _ hu)), rfl, rfl⟩

theorem LeavesMemory.modGroup (core gi : Nat) (f : Group → Group) : LeavesMemory s (s.modGroup core gi f) := by
  have hreg := State.modTeam_registers s core fun t => { t with groups := modifyNth f gi t.groups }
  simp only [State.registers, Prod.mk.injEq] at hreg
  obtain ⟨-, hmem, htags, hpoison, -⟩ := hreg
  exact ⟨fun a => congrArg (fun m => m.get a) hmem, htags, hpoison⟩

theorem LeavesTeam.modGroup (gi : Nat) (f : Group → Group) : LeavesTeam c s (s.modGroup c.core gi f) := fun _ hu =>
  ⟨_, (State.team_modTeam ..).trans ((if_pos rfl).trans (congrArg _ hu)), rfl, rfl, rfl, rfl, rfl, rfl⟩

/-- The group of the unit with the unit's lanes changed by `f`. -/
def Ctx.withLanes (c : Ctx) (f : Nat → Lane → Lane) (g : Group) : Group :=
  { g with lanes := mapFrom (fun n l => if c.lanes.contains n then f n l else l) 0 g.lanes }

theorem Ctx.withLanes_lane (f : Nat → Lane → Lane) (g : Group) (n : Nat) :
    (c.withLanes f g).lanes[n]? = g.lanes[n]?.map fun l => if c.lanes.contains n then f n l else l := getElem?_mapFrom_zero ..

theorem Leaves.withLanes {g : Group} (hg : s.group c.core c.gi = some g) (f : Nat → Lane → Lane) :
    Leaves c s (s.modGroup c.core c.gi (c.withLanes f)) :=
  .modGroup hg fun m l hm hl => ⟨l, by rw [Ctx.withLanes_lane, hl, Option.map_some, if_neg (by simpa using hm)], rfl⟩

theorem Ctx.withLanes_alive {g : Group} {f : Nat → Lane → Lane} (hf : ∀ n ∈ c.lanes, ∀ l, g.lanes[n]? = some l → (f n l).exited = l.exited)
    (ha : ∃ (n : Nat) (l : Lane), g.lanes[n]? = some l ∧ l.exited = false) :
    ∃ (n : Nat) (l : Lane), (c.withLanes f g).lanes[n]? = some l ∧ l.exited = false := by
  obtain ⟨n, l, hl, hx⟩ := ha
  by_cases hn : n ∈ c.lanes
  · exact ⟨n, f n l, by rw [Ctx.withLanes_lane, hl, Option.map_some, if_pos (by simpa using hn)], (hf n hn l hl).trans hx⟩
  · exact ⟨n, l, by rw [Ctx.withLanes_lane, hl, Option.map_some, if_neg (by simpa using hn)], hx⟩

theorem group_withLanes {g : Group} (hg : s.group c.core c.gi = some g) (f : Nat → Lane → Lane) :
    (s.modGroup c.core c.gi (c.withLanes f)).group c.core c.gi = some (c.withLanes f g) := by
  rw [State.group_modGroup, if_pos ⟨rfl, rfl⟩, hg]
  rfl

/-- A unit of which no lane failed, its lanes changed by `f`: what it left as it was. -/
theorem finish_withLanes {g : Group} {f : Nat → Lane → Lane} (hg : s.group c.core c.gi = some g) (hr : g.rvz = none)
    (ht : g.triggered = false) (ha : ∃ (n : Nat) (l : Lane), g.lanes[n]? = some l ∧ l.exited = false)
    (hf : ∀ n ∈ c.lanes, ∀ l, g.lanes[n]? = some l → (f n l).exited = l.exited) :
    let t := (s.modGroup c.core c.gi (c.withLanes f)).finish c []
    Leaves c s t ∧ LeavesMemory s t ∧ LeavesTeam c s t ∧ ∃ x, c.groupIn t = some x ∧ x.s = g.s ∧ x.cmask = g.cmask ∧
      ∀ n ∈ c.lanes, ∀ l, g.lanes[n]? = some l → ∃ z, c.laneIn t n = some z ∧ z.own = (f n l).own := by
  have h1 := group_withLanes hg f
  have spared := Spares.finish (c := c) h1 hr ht (Ctx.withLanes_alive hf ha)
  obtain ⟨x, hx, hs⟩ := spared.groups c.gi _ h1
  refine ⟨(Leaves.withLanes hg f).trans spared.leaves, (LeavesMemory.modGroup ..).trans spared.leavesMemory,
    LeavesTeam.trans (.modGroup _ _) spared.leavesTeam, x, hx, hs.scalars, hs.cmask, fun n hn l hl => ?_⟩
  obtain ⟨z, hz, hown, -⟩ := hs.lanes n (f n l) (by rw [Ctx.withLanes_lane, hl, Option.map_some, if_pos (by simpa using hn)])
  exact ⟨z, State.laneAt_eq_some.2 ⟨x, hx, hz⟩, hown⟩

/-! ## Lanes that act on themselves -/

theorem deliver_exited (l : Lane) (k : Nat) : (l.deliver k).exited = l.exited := by
  unfold Lane.deliver
  split <;> rfl

theorem begin_exited (l : Lane) (i : Instr) (c : Ctx) : (l.begin_ i c).1.exited = l.exited := by
  unfold Lane.begin_
  split
  · rfl
  split
  · rfl
  split <;> rfl

theorem started_exited (l : Lane) (i : Instr) (c : Ctx) : (l.started i c).exited = l.exited := by
  have h : ∀ b, ((({ l with wait := .none } : Lane).begin_ i c).1.chained b).exited = l.exited := fun b => by
    cases b <;> exact begin_exited ..
  exact h _

/-- A lane that executes quietly neither fails nor exits. -/
theorem laneRun_quiet {i : Instr} {n : Nat} {l : Lane} (h : Executes s c i n l) {body : Lane → LaneEnd}
    (hq : (body (l.started i c)).Quiet (l.started i c)) :
    (laneRun i c body l).2 = none ∧ (laneRun i c body l).1.exited = l.exited := by
  have hx := started_exited l i c
  rw [laneRun_passes h]
  generalize body (l.started i c) = e at hq
  cases e with
  | go x => exact ⟨rfl, Eq.trans hq hx⟩
  | jump x pc => exact ⟨rfl, Eq.trans hq hx⟩
  | fail k =>
    have hin : ({ l with wait := .none } : Lane).inside.isSome = true := (started_inside l i c).symm.trans hq
    simp only [Lane.ended, Lane.failed, hin, if_true]
    exact ⟨trivial, (deliver_exited ..).trans (begin_exited ..)⟩
  | stay => exact ⟨rfl, rfl⟩
  | away x => exact ⟨rfl, Eq.trans hq hx⟩

theorem localUnit_frame {i : Instr} {body : Ctx → Nat → Lane → LaneEnd} (hi : Issuing s c) (hcalm : c.Calm)
    (hex : ∀ n ∈ c.lanes, ∃ l, Executes s c i n l) (hq : ∀ n l, (body c n l).Quiet l) :
    ∃ t, localUnit i s body = .next t ∧ Leaves c s t ∧ LeavesMemory s t ∧ LeavesTeam c s t ∧ LeavesScalars c t := by
  have hrun : ∀ n ∈ c.lanes, ∀ l, c.g.lanes[n]? = some l →
      (laneRun i c (body c n) l).2 = none ∧ (laneRun i c (body c n) l).1.exited = l.exited := fun n hn l hl => by
    obtain ⟨l', h⟩ := hex n hn
    obtain rfl := Option.some.inj (hl.symm.trans h.lane)
    exact laneRun_quiet h (hq n _)
  have hfails : (c.lanes.filterMap fun n => (laneRun i c (body c n) (c.g.lane n)).2.map fun e => (n, e)) = [] := by
    refine List.filterMap_eq_nil_iff.2 fun n hn => ?_
    obtain ⟨l, h⟩ := hex n hn
    rw [context_lane h, (hrun n hn l h.lane).1]
    rfl
  obtain ⟨h1, h2, h3, x, hx, hs, hc, -⟩ := finish_withLanes (f := fun n l => (laneRun i c (body c n) l).1)
    (context_group s c hi.inHand) hi.noRvz hcalm.untriggered hcalm.alive fun n hn l hl => (hrun n hn l hl).2
  refine ⟨_, ?_, h1, h2, h3, x, hx, hs, hc⟩
  unfold localUnit
  rw [hi.inHand]
  dsimp only
  rw [hfails]
  rfl

/-! ## Units that execute once for their group -/

theorem State.allPast_eq (s : State) (i : Instr) (c : Ctx) (f : Nat → Lane → Lane) :
    s.allPast i c f = s.modGroup c.core c.gi (c.withLanes fun n l => l.lastPast i c f n) := rfl

theorem sidedBy_exited (l : Lane) (i : Instr) : (l.sidedBy i).exited = l.exited := by
  unfold Lane.sidedBy Lane.sided
  split
  · split <;> rfl
  · rfl

theorem chained_exited (l : Lane) (b : Bool) : (l.chained b).exited = l.exited := by
  cases b <;> rfl

theorem lastPast_exited {l : Lane} {f : Nat → Lane → Lane} (hf : ∀ n l, (f n l).exited = l.exited) (i : Instr) (n : Nat) :
    (l.lastPast i c f n).exited = l.exited :=
  (sidedBy_exited ..).trans ((hf ..).trans (chained_exited ..))

/-- A body that ends past the unit, having changed no more than what it left: what the unit left. -/
theorem groupUnit_frame {i : Instr} {s1 : State} {body : Ctx → State → GroupEnd} {f : Nat → Lane → Lane} {g : Group}
    (h : ExecutesOnce s c i) (hb : body c s = .go s1 f) (hg : s1.group c.core c.gi = some g) (hr : g.rvz = none)
    (ht : g.triggered = false) (ha : ∃ (n : Nat) (l : Lane), g.lanes[n]? = some l ∧ l.exited = false)
    (hf : ∀ n l, (f n l).exited = l.exited) :
    ∃ t, groupUnit i s body = .next t ∧ Leaves c s1 t ∧ LeavesMemory s1 t ∧ LeavesTeam c s1 t ∧
      ∃ x, c.groupIn t = some x ∧ x.s = g.s ∧ x.cmask = g.cmask ∧
        ∀ n ∈ c.lanes, ∀ l, g.lanes[n]? = some l → ∃ z, c.laneIn t n = some z ∧ z.own = (l.lastPast i c f n).own := by
  refine ⟨_, (groupUnit_rest h).trans (congrArg (fun e => groupRest i c e s) hb), ?_⟩
  rw [State.allPast_eq]
  exact finish_withLanes hg hr ht ha fun n _ l _ => lastPast_exited hf i n

/-- A meaning writes scalar registers of its group, once for the group, and does nothing else (R125). -/
def WritesScalars (i : Instr) (s : State) (c : Ctx) (r : Res) : Prop :=
  ∃ body, r = groupUnit i s body ∧ ∃ h : Group → Vector Word 32,
    body c s = .go (s.modGroup c.core c.gi fun g => { g with s := h g }) fun _ l => l

theorem scalar_writes (i : Instr) (d : Fin 32) (f : Vector Word 32 → List Hint → Word) : WritesScalars i s c (scalar i d f s) :=
  ⟨_, rfl, fun g => g.s.set d.val (f c.g.s c.hints), rfl⟩

theorem setScalars_eq (g : Group) (d : Nat) (ws : List Word) : g.setScalars d ws = { g with s := (g.setScalars d ws).s } := by
  induction ws generalizing g d with
  | nil => rfl
  | cons w ws ih => exact ih ..

theorem scalarsUnit_writes (i : Instr) (d : Nat) (f : Ctx → State → List Word) : WritesScalars i s c (scalarsUnit i d f s) := by
  refine ⟨_, rfl, fun g => (g.setScalars d (f c s)).s, ?_⟩
  exact congrArg (fun h => GroupEnd.go (s.modGroup c.core c.gi h) _) (funext fun g => setScalars_eq g d (f c s))

theorem exec_writesScalars {i : Instr} (hi : i.actsOnScalars = true) : WritesScalars i s c (exec i s) := by
  cases i
  case sadd | ssub | smul | smin | sand | sor | sxor | sshl | smov | snot | sneg | spopc | sclz | sshr | saddi =>
    simp only [exec, execSadd, execSsub, execSmul, execSmin, execSand, execSor, execSxor, execSshl, execSmov, execSnot, execSneg,
      execSpopc, execSclz, execSshr, execSaddi, scalar1, scalar2]
    exact scalar_writes ..
  case readl x =>
    simp only [exec, execReadl]
    refine ⟨_, rfl, fun g => g.s.set x.d.val (c.g.lane x.n.val).v[x.r.val], ?_⟩
    rfl
  case vqry | slotq | featq =>
    simp only [exec, execVqry, execSlotq, execFeatq]
    exact scalarsUnit_writes ..
  all_goals exact absurd hi Bool.false_ne_true

/-- A last change that leaves the lane's own registers where it stood. -/
theorem lastPast_own {i : Instr} (hi : i.engine = false) (l : Lane) (n : Nat) : (l.lastPast i c (fun _ l => l) n).own = l.own := by
  unfold Lane.lastPast Lane.sidedBy
  rw [hi]
  cases readsLatch i c <;> rfl

theorem engine_of_actsOnScalars {i : Instr} (hi : i.actsOnScalars = true) : i.engine = false := by
  cases i
  case sadd | ssub | smul | smin | sand | sor | sxor | sshl | smov | snot | sneg | spopc | sclz | sshr | saddi | readl | vqry | slotq |
      featq => rfl
  all_goals exact absurd hi Bool.false_ne_true

/-- Settles O60: a lane instruction is a quiet `localUnit`, a scalar one a `groupUnit` that writes scalars. -/
theorem laneAndScalarFrame : Obligations.LaneAndScalarFrame := by
  refine ⟨fun s c i hi hcalm _ hex hacts => ?_, fun s c i h hacts => ?_⟩
  · obtain ⟨body, hb, hq⟩ := exec_quiet hacts s
    rw [hb]
    exact localUnit_frame hi hcalm hex fun n l => hq c n l
  · obtain ⟨body, hb, v, hgo⟩ := exec_writesScalars (s := s) (c := c) hacts
    have hg := context_group s c h.inHand
    have hg1 : (s.modGroup c.core c.gi fun g => { g with s := v g }).group c.core c.gi = some { c.g with s := v c.g } := by
      rw [State.group_modGroup, if_pos ⟨rfl, rfl⟩, hg]
      rfl
    obtain ⟨t, ht, h1, h2, h3, x, hx, hs, hc, hl⟩ := groupUnit_frame h.toExecutesOnce hgo hg1 h.noRvz h.calm.untriggered h.calm.alive
      fun _ _ => rfl
    rw [hb]
    refine ⟨t, ht, (Leaves.modGroup hg fun m l _ hl => ⟨l, hl, rfl⟩).trans h1, (LeavesMemory.modGroup ..).trans h2,
      LeavesTeam.trans (.modGroup _ _) h3, fun g hgt => ?_⟩
    obtain rfl := Option.some.inj (hx.symm.trans hgt)
    refine ⟨hc, fun n hn l hln => ?_⟩
    obtain ⟨z, hz, hown⟩ := hl n hn l hln
    have hown := hown.trans (lastPast_own (engine_of_actsOnScalars hacts) l n)
    simp only [Lane.own, Prod.mk.injEq] at hown
    exact ⟨z, hz, hown.1, hown.2.1, hown.2.2.1⟩

end Sys2Proof.Machine
end

section
/-!
PROOF. The checks of a unit before it executes, what becomes of a lane that fails one, and of a unit that fails as a whole (spec/04_lane.md R95, R106 to
R109, spec/02_encoding.md R55, R70, spec/08_core.md R177, R187).
-/
namespace Sys2Proof.Machine

-- The proofs of this file run one after another: side by side they take the check's memory.
set_option Elab.async false

/-! ## The checks -/

theorem Ctx.runFor_getD (c : Ctx) (i : Instr) (l : Lane) :
    (c.runFor i l).getD [] = if i.readsIn l then (c.run i).getD [] else [] := by
  unfold Ctx.runFor
  split <;> rfl

theorem Ctx.runFor_isNone (c : Ctx) (i : Instr) (l : Lane) :
    (c.runFor i l).isNone = (i.readsIn l && (c.run i).isNone) := by
  unfold Ctx.runFor
  cases i.readsIn l <;> rfl

theorem precheck_badWord {l : Lane} {i : Instr} {c : Ctx} (h : hintsOk i c.hints = false ∨ readlOk i c.g.width = false) :
    precheck i c l = some .illegal := by
  unfold precheck
  rcases h with h | h <;> simp [h]

theorem precheck_goodWord (l : Lane) (i : Instr) (c : Ctx) (hh : hintsOk i c.hints = true) (hr : readlOk i c.g.width = true) :
    let on := i.readsIn l
    let run := if on then (c.run i).getD [] else []
    let vs := i.fields ++ (run.map Src.vs).flatten
    let depth := if on then (run.map Src.latch).foldr max i.shape.latch else 0
    let room := if l.inside.isSome then 32 else c.g.nregs
    precheck i c l =
      if l.inside.isNone ∧ ∃ v ∈ vs, room ≤ v then some .illegal
      else if l.inside.isSome ∧ (i.forbidden = true ∨ hintsForbidden c.hints = true) then some .forbidden
      else if (∃ v ∈ vs, room ≤ v) ∨ (on = true ∧ c.run i = none) then some .illegal
      else if 0 < depth ∧ (l.latches.length < depth ∨ l.chain = 0 ∨ 8 ≤ l.chain) then some .latch
      else if on = true ∧ ∃ v ∈ i.reads ++ (run.map Src.vs).flatten, l.phys (Fin.ofNat 64 v) ∈ l.bad then some (.dataError 63)
      else none := by
  dsimp only
  have hdepth : c.depth i l = if i.readsIn l = true then
      ((if i.readsIn l = true then (c.run i).getD [] else []).map Src.latch).foldr max i.shape.latch else 0 := by
    unfold Ctx.depth
    split <;> rfl
  unfold precheck
  dsimp only
  rw [Ctx.runFor_getD, Ctx.runFor_isNone, ← hdepth, hh, hr]
  have hbad : ∀ ws : List Nat, (i.readsIn l && ws.any fun v => l.bad.contains (l.phys (Fin.ofNat 64 v))) =
      decide (i.readsIn l = true ∧ ∃ v ∈ ws, l.phys (Fin.ofNat 64 v) ∈ l.bad) := fun ws => by
    rw [Bool.eq_iff_iff]
    simp
  rw [hbad]
  generalize i.fields ++ _ = vs
  generalize i.reads ++ _ = ws
  cases l.inside with
  | none =>
    by_cases hv : ∃ v ∈ vs, c.g.nregs ≤ v
    · simp [hv]
    · simp [hv, or_assoc]
  | some k =>
    by_cases hv : ∃ v ∈ vs, 32 ≤ v
    · simp [hv]
    · simp [hv, or_assoc]
/-! ## What becomes of a lane that fails -/

/-- The group after a unit of which lanes failed: its halts hold one more, at the unit (R109, R187). -/
theorem finish_halted {s : State} {c : Ctx} {g : Group} (k : Nat) (e : Cause) (xs : List (Nat × Cause))
    (hg : s.group c.core c.gi = some g) (hb : g.atNoBarrier = true) :
    ∃ x h, c.groupIn (s.finish c ((k, e) :: xs)) = some x ∧ x.halts = g.halts ++ [h] ∧ h.record.kind = e.kind ∧
      h.record.detail = BitVec.ofNat 32 e.detail ∧ h.record.extra = BitVec.ofNat 64 e.extra ∧ h.record.pc = c.place.pc ∧
      h.record.lanes = maskOf (((k, e) :: xs).map Prod.fst) ∧ h.atUnit = maskOf (((k, e) :: xs).map Prod.fst) ∧
      h.words = c.words ∧ h.after = e.after := by
  have h1 : (s.modGroup c.core c.gi (Group.afterIssue c)).group c.core c.gi = some (g.afterIssue c) := by
    rw [State.group_modGroup]; simp [hg]
  have h2 := group_modTeam (s.modGroup c.core c.gi (Group.afterIssue c)) c.core c.gi
    (fun t => { t with groups := mapFrom (fun k g => if k == c.gi then g else yieldSeen c.gi g) 0 t.groups }) _ h1
    fun t _ ht => by simp [ht]
  have hb' : (g.afterIssue c).atNoBarrier = true := by
    unfold Group.atNoBarrier at hb ⊢; rw [afterIssue_wait]; exact hb
  unfold State.finish Ctx.groupIn
  dsimp only
  generalize (s.modGroup c.core c.gi (Group.afterIssue c)).modTeam c.core _ = s1 at h2
  obtain ⟨t, ht, hgt⟩ : ∃ t, s1.team c.core = some t ∧ t.groups[c.gi]? = some (g.afterIssue c) := by
    unfold State.group at h2
    cases ht : s1.team c.core with
    | none => simp [ht] at h2
    | some t => exact ⟨t, rfl, by simpa [ht] using h2⟩
  have h3 := haltGroup_group s1 c.core c.gi (failWhy c e ((k, e) :: xs)) t _ ht hgt
  refine ⟨_, _, afterEnds_group _ c.core c.gi copyLeft _ h3 hb', congrArg (· ++ _) (afterIssue_halts c g), ?_⟩
  exact ⟨rfl, rfl, rfl, rfl, rfl, rfl, rfl, rfl⟩

/-- A unit whose lanes all fail on one condition halts its group at it, with all its lanes. -/
theorem finish_allFail {s : State} {c : Ctx} (hi : Issuing s c) (hc : c.lanes ≠ []) (e : Cause) (he : e.after = false) :
    c.HaltsIn (s.finish c (allFail c e)) e.kind e.detail := by
  obtain ⟨n, ns, hns⟩ := List.exists_cons_of_ne_nil hc
  have hfails : allFail c e = (n, e) :: ns.map fun m => (m, e) := by unfold allFail; rw [hns]; rfl
  have hlanes : (allFail c e).map Prod.fst = c.lanes := by
    unfold allFail
    rw [List.map_map]
    exact List.map_id c.lanes
  obtain ⟨x, h, hx, hh, hk, hd, -, hp, hl, ha, -, haf⟩ := finish_halted n e (ns.map fun m => (m, e))
    (context_group s c hi.inHand) hi.noBar
  rw [← hfails] at hx hl ha
  rw [hlanes] at hl ha
  exact ⟨x, h, hx, hh, hk, hd, hp, hl, ha, haf.trans he⟩

/-- The body of a meaning whose unit fails on a condition in every lane at once. -/
theorem groupUnit_fail {i : Instr} {s : State} {body : Ctx → State → GroupEnd} {c : Ctx} {e : Cause} (h : ExecutesOnce s c i)
    (hc : c.lanes ≠ []) (hb : body c s = .fail e) (he : e.after = false) :
    ∃ t, groupUnit i s body = .next t ∧ c.HaltsIn t e.kind e.detail :=
  ⟨_, (groupUnit_rest h).trans (congrArg (fun e => groupRest i c e s) hb), finish_allFail h.toIssuing hc e he⟩

/-- What a quietly executing lane fails on: what its checks failed on, in ordinary state. -/
theorem laneRun_fails {i : Instr} {c : Ctx} {body : Lane → LaneEnd} (hq : ∀ l, (body l).Quiet l) (l : Lane) :
    (laneRun i c body l).2 = if l.inside.isNone then (({ l with wait := .none } : Lane).begin_ i c).2 else none := by
  have hin : ∀ y, y = ({ l with wait := .none } : Lane).begin_ i c → y.1.inside.isSome = l.inside.isSome := by
    rintro _ rfl
    exact begin_inside ..
  unfold laneRun
  dsimp only
  generalize ({ l with wait := .none } : Lane).begin_ i c = y at hin
  obtain ⟨l1, o⟩ := y
  have hin := hin _ rfl
  cases o with
  | some e => cases h : l.inside <;> simp [Lane.failed]
  | none =>
    have hq := hq (l1.chained (readsLatch i c))
    show (Lane.ended _ l1 i c (body (l1.chained (readsLatch i c)))).2 = _
    generalize body (l1.chained (readsLatch i c)) = b at hq
    cases b with
    | fail e =>
      have h : l.inside.isSome = true := hin ▸ (congrArg Option.isSome (chained_inside l1 _)) ▸ hq
      simp [Lane.ended, Lane.failed, h]
    | go x => simp [Lane.ended]
    | jump x pc => simp [Lane.ended]
    | stay => simp [Lane.ended]
    | away x => simp [Lane.ended]

/-- What becomes of a lane that fails its checks (R55, R107, R109). -/
theorem laneRun_failed {i : Instr} {c : Ctx} (body : Lane → LaneEnd) {l : Lane} {e : Cause}
    (h : (({ l with wait := .none } : Lane).begin_ i c).2 = some e) :
    (laneRun i c body l).1 = if l.inside.isSome then (({ l with wait := .none } : Lane).begin_ i c).1.deliver e.outcome else
      { l with wait := .none, status := if e = .latch then l.status ||| fUNBOUND else l.status } := by
  unfold laneRun
  dsimp only
  generalize ({ l with wait := .none } : Lane).begin_ i c = y at h
  obtain ⟨l1, o⟩ := y
  obtain rfl : o = some e := h
  cases l.inside with
  | some k => simp [Lane.failed]
  | none =>
    by_cases he : e = .latch
    · simp [Lane.failed, he, Lane.setFlags, fUNBOUND]
    · simp [Lane.failed, he]

theorem map_fst_filterMap {α β : Type} (f : α → Option β) (ls : List α) :
    (ls.filterMap fun n => (f n).map fun e => (n, e)).map Prod.fst = ls.filter fun n => (f n).isSome := by
  induction ls with
  | nil => rfl
  | cons n ns ih => cases h : f n <;> simp [h, ih]

theorem precheck_after {l : Lane} {i : Instr} {c : Ctx} {e : Cause} (h : precheck i c l = some e) : e.after = false := by
  unfold precheck at h
  dsimp only at h
  iterate 7
    split at h
    · cases h; rfl
  cases h

/-- A failed check leaves its group halted before the unit, not behind it (R109). -/
theorem begin_after {l : Lane} {i : Instr} {c : Ctx} {e : Cause} (h : (l.begin_ i c).2 = some e) : e.after = false := by
  unfold Lane.begin_ at h
  split at h
  · exact precheck_after h
  split at h
  · cases h; rfl
  split at h
  · cases h; rfl
  · exact precheck_after h

/-- What a unit of quiet bodies leaves: its failing lanes as they fail, and one halt for those in ordinary state. -/
theorem localUnit_fails {i : Instr} {s : State} {c : Ctx} {body : Ctx → Nat → Lane → LaneEnd} (hi : Issuing s c)
    (hq : ∀ n l, (body c n l).Quiet l) :
    let first := fun n => ({ c.g.lane n with wait := .none } : Lane).begin_ i c
    let bad := c.lanes.filter fun n => (c.g.lane n).inside.isNone && (first n).2.isSome
    ∃ t, localUnit i s body = .next t ∧
      (∀ n ∈ c.lanes, ∀ l e, c.g.lanes[n]? = some l → (first n).2 = some e →
        (l.inside.isSome = true → c.laneIn t n = some ((first n).1.deliver e.outcome)) ∧
        (l.inside = none → c.laneIn t n = some { l with
          wait := .none
          status := if e = .latch then l.status ||| fUNBOUND else l.status })) ∧
      (bad = [] → ∃ g, c.groupIn t = some g ∧ g.halts = c.g.halts) ∧
      ∀ n ns, bad = n :: ns → ∃ e g h, (first n).2 = some e ∧ c.groupIn t = some g ∧ g.halts = c.g.halts ++ [h] ∧
        h.record.kind = e.kind ∧ h.record.detail = BitVec.ofNat 32 e.detail ∧ h.record.pc = c.place.pc ∧
        h.record.lanes = maskOf bad ∧ h.atUnit = maskOf bad ∧ h.after = false := by
  intro first bad
  have hg := context_group s c hi.inHand
  let fail := fun n => if (c.g.lane n).inside.isNone then (first n).2 else none
  let fails := c.lanes.filterMap fun n => (fail n).map fun e => (n, e)
  have hbad : fails.map Prod.fst = bad := by
    refine (map_fst_filterMap fail c.lanes).trans (List.filter_congr fun n _ => ?_)
    cases h : (c.g.lane n).inside <;> simp [fail, h]
  have hunit : localUnit i s body = .next ((s.modGroup c.core c.gi (c.withLanes fun n l => (laneRun i c (body c n) l).1)).finish c fails) := by
    have h : ∀ n, (laneRun i c (body c n) (c.g.lane n)).2 = fail n := fun n => laneRun_fails (hq n) _
    unfold localUnit
    rw [hi.inHand]
    dsimp only
    simp only [h]
    rfl
  have hg1 := group_withLanes hg fun n l => (laneRun i c (body c n) l).1
  refine ⟨_, hunit, fun n hn l e hl he => ?_, fun hb => ?_, fun n ns hb => ?_⟩
  · have hlane : c.g.lane n = l := by simp [Group.lane, nth_eq, hl]
    have he' : (({ l with wait := .none } : Lane).begin_ i c).2 = some e := by rw [← hlane]; exact he
    have hfail := laneRun_failed (body c n) he'
    have hend : ∀ x, (laneRun i c (body c n) l).1 = x → x.wait = .none → c.laneIn _ n = some x := fun x hx hw =>
      finish_lane _ c fails _ n x hg1 hi.noRvz hi.noBar (by
        rw [Ctx.withLanes_lane, hl, Option.map_some, if_pos (by simpa using hn), hx]) hw
    refine ⟨fun hin => hend _ ?_ ?_, fun hin => hend _ ?_ rfl⟩
    · rw [hfail, if_pos hin]
      simp only [first, hlane]
    · simp [first]
    · rw [hfail, if_neg (by simp [hin])]
  · obtain ⟨hs, hx, h0, -⟩ := finish_group _ c fails _ hg1 hi.noBar
    refine ⟨_, hx, ?_⟩
    rw [h0 (List.map_eq_nil_iff.1 (hbad.trans hb))]
    exact (List.append_nil _).trans (afterIssue_halts ..)
  · obtain ⟨⟨k, e⟩, xs, hfails, rfl, -⟩ := List.map_eq_cons_iff.1 (hbad.trans hb)
    obtain ⟨x, h, hx, hh, hk, hd, -, hp, hl, ha, -, haf⟩ := finish_halted k e xs hg1 hi.noBar
    have hk1 : fail k = some e := by
      have hm : (k, e) ∈ fails := hfails ▸ List.mem_cons_self
      obtain ⟨m, -, hm⟩ := List.mem_filterMap.1 hm
      obtain ⟨e', he', hpair⟩ := Option.map_eq_some_iff.1 hm
      cases hpair
      exact he'
    have he : (first k).2 = some e := (Option.ite_none_right_eq_some.1 hk1).2
    rw [← hfails] at hx hl ha
    rw [hbad] at hl ha
    exact ⟨e, x, h, he, hx, hh, hk, hd, hp, hl, ha, haf.trans (begin_after he)⟩

/-! ## Units that need their whole group -/

/-- An instruction that needs full convergence executes once for its group (R95). -/
theorem exec_once {i : Instr} (hi : i.needsFull = true) (s : State) : ∃ body, exec i s = groupUnit i s body := by
  cases i
  case sadd | ssub | smul | smin | sand | sor | sxor | sshl | smov | snot | sneg | spopc | sclz | sshr | saddi =>
    simp only [exec, execSadd, execSsub, execSmul, execSmin, execSand, execSor, execSxor, execSshl, execSmov, execSnot, execSneg,
      execSpopc, execSclz, execSshr, execSaddi, scalar1, scalar2, scalar]
    exact ⟨_, rfl⟩
  case swrite x =>
    have hw : x.n.groupWide = true := hi
    exact ⟨_, if_pos hw⟩
  case vqry | slotq | featq =>
    simp only [exec, execVqry, execSlotq, execFeatq, scalarsUnit]
    exact ⟨_, rfl⟩
  case readl | vnarrow | vdrop | mapr | qfence | bart | barc | hbind | tilein | tileout | bcopy | trig =>
    simp only [exec, execReadl, execVnarrow, execVdrop, execMapr, execQfence, execBart, execBarc, execHbind, execTilein, execTileout,
      execBcopy, execTrig]
    exact ⟨_, rfl⟩
  case unmapr | flushr | invr =>
    simp only [exec, execUnmapr, execFlushr, execInvr, regionUnit]
    exact ⟨_, rfl⟩
  case harm | hseal | hwait | htake | hfree | hqry =>
    simp only [exec, execHarm, execHseal, execHwait, execHtake, execHfree, execHqry, handleUnit]
    exact ⟨_, rfl⟩
  case mma | mmag | mdrn | mdrnb | mdrnl | mzero | mload | padd | pnorm =>
    simp only [exec, execMma, execMmag, execMdrn, execMdrnb, execMdrnl, execMzero, execMload, execPadd, execPnorm, productUnit,
      drainUnit, plainEntry, readerUnit]
    exact ⟨_, rfl⟩
  all_goals simp [Instr.needsFull, Instr.major, Instr.base] at hi

/-- A unit of no full convergence, or of another role's stage, halts its group (R95, R177). -/
theorem exec_unready {s : State} {c : Ctx} {i : Instr} (hi : Issuing s c) (hc : c.lanes ≠ [])
    (hp : ∀ n ∈ c.lanes, (({ c.g.lane n with wait := .none } : Lane).begin_ i c).2 = none) (hn : i.needsFull = true) :
    (c.full = false → ∃ t, exec i s = .next t ∧ c.HaltsIn t 0x08 0) ∧
    (∀ r, c.full = true → i.role = some r → r ≠ c.g.role → ∃ t, exec i s = .next t ∧ c.HaltsIn t 0x0B 0) := by
  obtain ⟨body, hb⟩ := exec_once hn s
  have hpass : ¬ (c.lanes.any fun n => (({ c.g.lane n with wait := .none } : Lane).begin_ i c).2.isSome) = true := by
    simpa using hp
  have hunit : ∀ t, (i.needsFull && !c.full) = true ∧ t = s.finish c (allFail c .diverged) ∨ (i.needsFull && !c.full) = false ∧
      (∃ r, i.role = some r ∧ r ≠ c.g.role) ∧ t = s.finish c (allFail c .role) → exec i s = .next t := by
    intro t ht
    rw [hb]
    unfold groupUnit
    rw [hi.inHand]
    dsimp only
    rw [if_neg hpass]
    rcases ht with ⟨h, rfl⟩ | ⟨h, ⟨r, hr, hne⟩, rfl⟩
    · rw [if_pos h]
    · rw [if_neg (by simp [h]), hr]
      exact if_pos (by simpa using hne)
  refine ⟨fun hf => ?_, fun r hf hr hne => ?_⟩
  · exact ⟨_, hunit _ (.inl ⟨by simp [hn, hf], rfl⟩), finish_allFail hi hc .diverged rfl⟩
  · exact ⟨_, hunit _ (.inr ⟨by simp [hf], ⟨r, hr, hne⟩, rfl⟩), finish_allFail hi hc .role rfl⟩

/-- The checks of a contained lane whose words are charged (R106). -/
theorem begin_charged {l : Lane} {i : Instr} {c : Ctx} {k : Contained} (hk : l.inside = some k) (h1 : k.entry ≤ l.pc.toNat)
    (h2 : l.pc.toNat + c.words ≤ k.limit) (h3 : c.words ≤ l.fuel.toNat) :
    l.begin_ i c = ({ l with fuel := l.fuel - BitVec.ofNat 24 c.words, inside := some { k with count := k.count + c.words } },
      precheck i c { l with fuel := l.fuel - BitVec.ofNat 24 c.words, inside := some { k with count := k.count + c.words } }) := by
  unfold Lane.begin_
  rw [hk]
  dsimp only
  rw [if_neg (by simp; omega), if_neg (by omega)]

/-- Settles O59: the checks by cases of `Lane.begin_` and `precheck`, the failing lanes through the quiet bodies of `exec_quiet`, the
unready unit through `exec_once`. -/
theorem unitConditions : Obligations.UnitConditions := by
  refine ⟨fun l i c => ⟨fun h => ?_, fun k hk hout => ?_, fun k hk hin hlim => ⟨fun hf => ?_, fun hf => ?_⟩⟩, precheck_goodWord,
    fun l i c h => precheck_badWord h, fun s c i hi hacts => ?_, fun s c i hi hc hp => ⟨fun hn => (exec_unready hi hc hp hn).1,
      fun r hn hf hr hne => (exec_unready hi hc hp hn).2 r hf hr hne⟩⟩
  · unfold Lane.begin_
    rw [h]
  · unfold Lane.begin_
    rw [hk]
    exact if_pos (by simpa using hout)
  · unfold Lane.begin_
    rw [hk]
    dsimp only
    rw [if_neg (by simp; omega), if_pos hf]
  · refine ⟨_, begin_charged hk hin hlim hf, ?_, rfl, rfl, rfl, rfl, rfl⟩
    have hw : (BitVec.ofNat 24 c.words).toNat = c.words := by
      rw [BitVec.toNat_ofNat]
      exact Nat.mod_eq_of_lt (Nat.lt_of_le_of_lt hf l.fuel.isLt)
    show (l.fuel - BitVec.ofNat 24 c.words).toNat = _
    rw [BitVec.toNat_sub_of_le (by rw [BitVec.le_def, hw]; exact hf), hw]
  · obtain ⟨body, hb, hq⟩ := exec_quiet hacts s
    rw [hb]
    exact localUnit_fails hi fun n l => hq c n l

end Sys2Proof.Machine
end

section
/-!
PROOF. TRAP and BRK (spec/05_lane_integer_control.md R134): a `localUnit` whose lanes fail where the guard holds.
-/
namespace Sys2Proof.Machine

-- The proofs of this file run one after another: side by side they take the check's memory.
set_option Elab.async false

/-- What the lanes of a unit fail on, each with its number. -/
def Ctx.failsOf (c : Ctx) (i : Instr) (body : Nat → Lane → LaneEnd) : List (Nat × Cause) :=
  c.lanes.filterMap fun n => (laneRun i c (body n) (c.g.lane n)).2.map fun e => (n, e)

theorem localUnit_eq {s : State} {c : Ctx} (i : Instr) (body : Ctx → Nat → Lane → LaneEnd) (h : s.context = some c) :
    localUnit i s body = .next ((s.modGroup c.core c.gi (c.withLanes fun n l => (laneRun i c (body c n) l).1)).finish c
      (c.failsOf i (body c))) := by
  unfold localUnit
  rw [h]
  rfl

/-- A lane of the unit after its own run, where that leaves it waiting for nothing. -/
theorem localUnit_lane_of {s : State} {c : Ctx} (hi : Issuing s c) {i : Instr} {body : Ctx → Nat → Lane → LaneEnd} {n : Nat}
    {l x : Lane} (hn : n ∈ c.lanes) (hl : c.g.lanes[n]? = some l) (hx : (laneRun i c (body c n) l).1 = x) (hw : x.wait = .none)
    (fails : List (Nat × Cause)) :
    c.laneIn ((s.modGroup c.core c.gi (c.withLanes fun n l => (laneRun i c (body c n) l).1)).finish c fails) n = some x :=
  finish_lane _ c fails _ n x (group_withLanes (context_group s c hi.inHand) _) hi.noRvz hi.noBar (by
    rw [Ctx.withLanes_lane, hl, Option.map_some, if_pos (by simpa using hn), hx]) hw

theorem begin_p (l : Lane) (i : Instr) (c : Ctx) : (l.begin_ i c).1.p = l.p := by
  unfold Lane.begin_
  split
  · rfl
  split
  · rfl
  split <;> rfl

/-- The checks change no predicate, so that a guard holds before them as behind them. -/
theorem started_holds (g : Guard) (l : Lane) (i : Instr) (c : Ctx) : g.holds (l.started i c) = g.holds l := by
  have h : ∀ b, ((({ l with wait := .none } : Lane).begin_ i c).1.chained b).p = l.p := fun b => by
    cases b <;> exact begin_p ..
  have h : (l.started i c).p = l.p := h _
  unfold Guard.holds
  rw [h]

/-- A condition that a lane of ordinary state, past its checks, runs into where its guard holds. -/
theorem laneRun_guardedFail {s : State} {c : Ctx} {i : Instr} {n : Nat} {l : Lane} (h : Executes s c i n l) (hin : l.inside = none)
    (ht : i.transfer = true) (g : Guard) (e : Env → Lane → Cause) (hne : ∀ e' y, e e' y ≠ .latch) :
    laneRun i c (guarded g (fun e' y => .fail (e e' y)) c n) l =
      if g.holds l then ({ l with wait := .none }, some (e (c.env n) (l.started i c)))
      else ({ (l.started i c).past c with chain := 0 }, none) := by
  rw [laneRun_passes h]
  unfold guarded
  rw [started_holds]
  split
  · have hin' : ({ l with wait := .none } : Lane).inside.isSome = false := by simp [hin]
    simp [Lane.ended, Lane.failed, hin', hne]
  · simp [Lane.ended, ht, Lane.past]

/-- Lanes of ordinary state whose guard holds fail together: their group halts with one record, and the others go past. -/
theorem guardedFail_halts {s : State} {c : Ctx} {i : Instr} (hi : Issuing s c)
    (hex : ∀ m ∈ c.lanes, ∃ l, Executes s c i m l ∧ l.inside = none) (ht : i.transfer = true) (g : Guard) (e : Env → Lane → Cause)
    (hne : ∀ e' y, e e' y ≠ .latch) {n : Nat} {ns : List Nat} (hns : (c.lanes.filter fun m => g.holds (c.g.lane m)) = n :: ns) :
    ∃ t x h, localUnit i s (guarded g fun e' y => .fail (e e' y)) = .next t ∧ c.groupIn t = some x ∧ x.halts = c.g.halts ++ [h] ∧
      h.record.kind = (e (c.env n) ((c.g.lane n).started i c)).kind ∧
      h.record.detail = BitVec.ofNat 32 (e (c.env n) ((c.g.lane n).started i c)).detail ∧ h.record.pc = c.place.pc ∧
      h.record.lanes = maskOf (n :: ns) ∧ h.record.extra = BitVec.ofNat 64 (e (c.env n) ((c.g.lane n).started i c)).extra ∧
      h.record.core = c.core ∧ h.record.group = c.g.index ∧ h.record.stage = c.g.stage ∧
      h.after = (e (c.env n) ((c.g.lane n).started i c)).after ∧ h.words = c.words ∧
      ∀ m ∈ c.lanes, ∀ l, c.g.lanes[m]? = some l → c.laneIn t m = some (
        if g.holds l then { l with wait := .none } else { (l.started i c).past c with chain := 0 }) := by
  let fail := fun m => if g.holds (c.g.lane m) then some (e (c.env m) ((c.g.lane m).started i c)) else none
  have hrun : ∀ m ∈ c.lanes, ∀ l, c.g.lanes[m]? = some l → laneRun i c (guarded g (fun e' y => .fail (e e' y)) c m) l =
      if g.holds l then ({ l with wait := .none }, some (e (c.env m) (l.started i c)))
      else ({ (l.started i c).past c with chain := 0 }, none) := fun m hm l hl => by
    obtain ⟨l', h, hin⟩ := hex m hm
    obtain rfl := Option.some.inj (hl.symm.trans h.lane)
    exact laneRun_guardedFail h hin ht g e hne
  have hfails : c.failsOf i (guarded g (fun e' y => .fail (e e' y)) c) = c.lanes.filterMap fun m => (fail m).map fun e => (m, e) := by
    refine List.filterMap_congr fun m hm => ?_
    obtain ⟨l, h, -⟩ := hex m hm
    rw [context_lane h, hrun m hm l h.lane]
    dsimp only [fail]
    rw [context_lane h]
    split <;> rfl
  have hnames : (c.failsOf i (guarded g (fun e' y => .fail (e e' y)) c)).map Prod.fst = n :: ns := by
    rw [hfails, map_fst_filterMap, ← hns]
    refine List.filter_congr fun m _ => ?_
    dsimp only [fail]
    split <;> simp [*]
  obtain ⟨⟨k, e1⟩, xs, hcons, rfl, -⟩ := List.map_eq_cons_iff.1 hnames
  have hfirst : fail k = some e1 := by
    have hm : (k, e1) ∈ c.failsOf i (guarded g (fun e' y => .fail (e e' y)) c) := hcons ▸ List.mem_cons_self
    rw [hfails] at hm
    obtain ⟨m, -, hm⟩ := List.mem_filterMap.1 hm
    obtain ⟨e', he', hpair⟩ := Option.map_eq_some_iff.1 hm
    cases hpair
    exact he'
  obtain rfl := Option.some.inj (Option.ite_none_right_eq_some.1 hfirst).2
  obtain ⟨hs, hx, -, hhalt⟩ := finish_group (s.modGroup c.core c.gi (c.withLanes fun n l => _)) c
    (c.failsOf i (guarded g (fun e' y => .fail (e e' y)) c)) _ (group_withLanes (context_group s c hi.inHand) _) hi.noBar
  obtain ⟨h, rfl, hk, hd, hext, hl, hp, hcore, hgroup, hstage, hwords, hafter⟩ := hhalt _ _ hcons
  refine ⟨_, _, h, localUnit_eq i _ hi.inHand, hx, congrArg (· ++ _) (afterIssue_halts ..), hk, hd, hp, hl.trans (congrArg maskOf hnames), hext,
    hcore, hgroup, hstage, hafter, hwords, fun m hm l hl => ?_⟩
  refine localUnit_lane_of hi hm hl ?_ ?_ _
  · rw [hrun m hm l hl]
    split <;> rfl
  · split
    · rfl
    · exact started_wait ..

/-- A lane whose guard is false goes past; a contained lane has the outcome of the condition delivered. -/
theorem guardedFail_lane {s : State} {c : Ctx} {i : Instr} {n : Nat} {l : Lane} (h : Executes s c i n l) (ht : i.transfer = true)
    (g : Guard) (e : Env → Lane → Cause) :
    ∃ t, localUnit i s (guarded g fun e' y => .fail (e e' y)) = .next t ∧
      (g.holds (l.started i c) = false → c.laneIn t n = some { (l.started i c).past c with chain := 0 }) ∧
      (g.holds (l.started i c) = true → l.inside.isSome = true →
        c.laneIn t n = some ((l.started i c).deliver (e (c.env n) (l.started i c)).outcome)) := by
  by_cases hg : g.holds (l.started i c) = true
  · by_cases hin : l.inside.isSome = true
    · obtain ⟨t, h1, h2⟩ := localUnit_deliver (body := guarded g fun e' y => .fail (e e' y)) h (if_pos hg) hin
      exact ⟨t, h1, fun hoff => by simp [hg] at hoff, fun _ _ => h2⟩
    · obtain ⟨t, h1⟩ := localUnit_next i s (guarded g fun e' y => .fail (e e' y)) c h.inHand
      exact ⟨t, h1, fun hoff => by simp [hg] at hoff, fun _ h => absurd h hin⟩
  · obtain ⟨t, h1, h2⟩ := localUnit_fall (body := guarded g fun e' y => .fail (e e' y)) h (if_neg hg) (started_wait ..) ht
    exact ⟨t, h1, fun _ => h2, fun h => absurd h hg⟩

/-- Settles O19: TRAP and BRK fail where their guard holds; a contained lane has its outcome delivered. -/
theorem trapAndBreakpoint : Obligations.TrapAndBreakpoint := by
  refine ⟨fun i g a kind k hi s c n ns hc hex hns => ?_, fun i g hi s c n l h => ?_⟩
  · obtain ⟨x, rfl, rfl, rfl, rfl, rfl⟩ | ⟨x, rfl, rfl, rfl, rfl, rfl⟩ := hi
    · obtain ⟨t, y, h, ht, hy, hh, hk, hd, hp, hl, hext, hcore, hgroup, hstage, hafter, hwords, hlanes⟩ :=
        guardedFail_halts hc hex (by simp [Instr.transfer, Instr.major, Instr.base]) x.g
          (fun e y => .trap x.k.val (readSrc e y x.a)) (fun _ _ => by simp) hns
      exact ⟨t, y, h, ht, hy, hh, hk, hd, hp, hl, hext.trans (BitVec.ofNat_toNat _ _), hcore, hgroup, hstage, hafter, hwords, hlanes⟩
    · obtain ⟨t, y, h, ht, hy, hh, hk, hd, hp, hl, hext, hcore, hgroup, hstage, hafter, hwords, hlanes⟩ :=
        guardedFail_halts hc hex (by simp [Instr.transfer, Instr.major, Instr.base]) x.g (fun e y => .brk) (fun _ _ => by simp) hns
      exact ⟨t, y, h, ht, hy, hh, hk, hd, hp, hl, hext, hcore, hgroup, hstage, hafter, hwords, hlanes⟩
  · obtain ⟨x, rfl, rfl⟩ | ⟨x, rfl, rfl⟩ := hi
    · obtain ⟨t, ht, hoff, hin⟩ := guardedFail_lane h (by simp [Instr.transfer, Instr.major, Instr.base]) x.g fun e y => .trap x.k.val (readSrc e y x.a)
      exact ⟨t, ht, hoff, fun _ => hin⟩
    · obtain ⟨t, ht, hoff, -⟩ := guardedFail_lane h (by simp [Instr.transfer, Instr.major, Instr.base]) x.g fun _ _ => .brk
      exact ⟨t, ht, hoff, fun ⟨_, hx⟩ => by cases hx⟩

end Sys2Proof.Machine
end

section
/-!
PROOF. Units whose lanes act one after the other (R203): the fold of `memUnit`, with what stands between two lanes; and what giving up a task leaves of
a group's lanes (spec/13_cluster.md R260, R261).
-/
namespace Sys2Proof.Machine

-- The proofs of this file run one after another: side by side they take the check's memory.
set_option Elab.async false

/-! ## The fold over the lanes of a unit -/

theorem foldl_prefix {α β : Type} (f : β → α → β) (J : List α → β → Prop) (ls : List α) (b : β) (h0 : J [] b)
    (hstep : ∀ done m rest b, ls = done ++ m :: rest → J done b → J (done ++ [m]) (f b m)) : J ls (ls.foldl f b) := by
  suffices h : ∀ rest done b, ls = done ++ rest → J done b → J ls (rest.foldl f b) from h ls [] b rfl h0
  intro rest
  induction rest with
  | nil =>
    intro done b hls hJ
    obtain rfl : ls = done := by simpa using hls
    exact hJ
  | cons m rest ih =>
    intro done b hls hJ
    exact ih (done ++ [m]) (f b m) (by simp [hls]) (hstep done m rest b hls hJ)

/-- What stands of the unit's group while the lanes `done` have acted: the lanes still to act are as at issue, and the group waits for
nothing that could hold its lanes. -/
structure Ctx.Midway (c : Ctx) (done : List Nat) (s : State) : Prop where
  group : ∃ g, s.group c.core c.gi = some g ∧ g.rvz = none ∧ g.atNoBarrier = true ∧ g.log = c.g.log ∧
    g.lanes.length = c.g.lanes.length ∧ ∀ k ∈ c.lanes, k ∉ done → g.lanes[k]? = c.g.lanes[k]?

theorem Ctx.Midway.start {s : State} {c : Ctx} (hi : Issuing s c) : c.Midway [] s :=
  ⟨c.g, context_group s c hi.inHand, hi.noRvz, hi.noBar, rfl, rfl, fun _ _ _ => rfl⟩

theorem Ctx.Midway.lane {s : State} {c : Ctx} {done : List Nat} {n : Nat} (h : c.Midway done s) (hn : n ∈ c.lanes) (hd : n ∉ done) :
    c.laneIn s n = c.g.lanes[n]? := by
  obtain ⟨g, hg, -, -, -, -, hl⟩ := h.group
  unfold Ctx.laneIn State.laneAt
  rw [hg]
  exact hl n hn hd

theorem Ctx.Midway.logged {s s0 : State} {c : Ctx} {done : List Nat} (h : c.Midway done s) (hi : Issuing s0 c) (n : Nat) :
    s.logged c.core c.gi n = s0.logged c.core c.gi n := by
  obtain ⟨g, hg, -, -, hlog, -, -⟩ := h.group
  unfold State.logged
  rw [hg, context_group s0 c hi.inHand, Option.map_some, Option.map_some, hlog]

/-- From `s` to `t` no lane of the unit but `m` changed, nor what the group waits for and has logged. -/
def LeavesOthers (c : Ctx) (m : Nat) (s t : State) : Prop :=
  ∀ g, s.group c.core c.gi = some g → ∃ x, t.group c.core c.gi = some x ∧ x.rvz = g.rvz ∧ x.wait = g.wait ∧ x.log = g.log ∧
    x.lanes.length = g.lanes.length ∧ ∀ k ∈ c.lanes, k ≠ m → x.lanes[k]? = g.lanes[k]?

section
variable {c : Ctx} {m : Nat} {s t u : State}

theorem LeavesOthers.same (h : SameGroups s t) : LeavesOthers c m s t :=
  fun g hg => ⟨g, (h ..).trans hg, rfl, rfl, rfl, rfl, fun _ _ _ => rfl⟩

theorem LeavesOthers.trans (h : LeavesOthers c m s t) (h' : LeavesOthers c m t u) : LeavesOthers c m s u := fun g hg => by
  obtain ⟨x, hx, h1, h2, h3, h4, h5⟩ := h g hg
  obtain ⟨y, hy, i1, i2, i3, i4, i5⟩ := h' x hx
  exact ⟨y, hy, i1.trans h1, i2.trans h2, i3.trans h3, i4.trans h4, fun k hk hne => (i5 k hk hne).trans (h5 k hk hne)⟩

theorem LeavesOthers.modLane (core gi n : Nat) (f : Lane → Lane) (h : core = c.core → gi = c.gi → n ∈ c.lanes → n = m) :
    LeavesOthers c m s (s.modLane core gi n f) := fun g hg => by
  unfold State.modLane
  rw [State.group_modGroup]
  split
  next he =>
    rw [hg]
    refine ⟨_, rfl, rfl, rfl, rfl, by simp [Group.modLane], fun k hk hne => ?_⟩
    simp only [Group.modLane, getElem?_modifyNth]
    rw [if_neg]
    rintro rfl
    exact hne (h he.1 he.2 hk)
  next => exact ⟨g, hg, rfl, rfl, rfl, rfl, fun _ _ _ => rfl⟩

theorem Ctx.Midway.next {done : List Nat} (h : c.Midway done s) (h' : LeavesOthers c m s t) : c.Midway (done ++ [m]) t := by
  obtain ⟨g, hg, hr, hb, hlog, hlen, hl⟩ := h.group
  obtain ⟨x, hx, h1, h2, h3, h4, h5⟩ := h' g hg
  refine ⟨x, hx, h1.trans hr, ?_, h3.trans hlog, h4.trans hlen, fun k hk hd => ?_⟩
  · unfold Group.atNoBarrier at hb ⊢
    rw [h2]
    exact hb
  · simp only [List.mem_append, List.mem_singleton, not_or] at hd
    exact (h5 k hk hd.2).trans (hl k hk hd.1)

end

/-- One lane's turn in a `memUnit` changes no other lane of the unit where its body does not. -/
theorem memLane_leavesOthers {i : Instr} {c : Ctx} {body : Ctx → State → Nat → Lane → State × LaneEnd} {m : Nat}
    (acc : State × List (Nat × Cause) × Bool) (hq : ∀ x, LeavesOthers c m acc.1 (body c acc.1 m x).1) :
    LeavesOthers c m acc.1 (memLane i c body acc m).1 := by
  obtain ⟨s, fails, moved⟩ := acc
  unfold memLane
  dsimp only
  split
  · exact .modLane _ _ _ _ fun _ _ _ => rfl
  · exact (hq _).trans (.modLane _ _ _ _ fun _ _ _ => rfl)

theorem memLane_moved {i : Instr} {c : Ctx} {body : Ctx → State → Nat → Lane → State × LaneEnd} {m : Nat}
    {acc : State × List (Nat × Cause) × Bool} (h : acc.2.2 = true) : (memLane i c body acc m).2.2 = true := by
  obtain ⟨s, fails, moved⟩ := acc
  obtain rfl : moved = true := h
  unfold memLane
  dsimp only
  split <;> simp

/-- A lane of a `memUnit` is changed as its body says, before the unit's end: `J` is what its body needs of the machine, which no lane
of the unit disturbs. -/
theorem memUnit_before {i : Instr} {s : State} {body : Ctx → State → Nat → Lane → State × LaneEnd} {c : Ctx} {n : Nat} {l x : Lane}
    (J : State → Prop) (h : Executes s c i n l) (h0 : J s)
    (hJ : ∀ done s' m, m ∈ c.lanes → c.Midway done s' → J s' → ∀ y, LeavesOthers c m s' (body c s' m y).1 ∧ J (body c s' m y).1)
    (hJl : ∀ s' m f, J s' → J (s'.modLane c.core c.gi m f))
    (hb : ∀ done s', c.Midway done s' → J s' → (body c s' n (l.started i c)).2 ≠ .stay ∧
      (({ l with wait := .none } : Lane).ended (({ l with wait := .none } : Lane).begin_ i c).1 i c
        (body c s' n (l.started i c)).2).1 = x) :
    ∃ s1 fails, memUnit i s body = .next (s1.finish c fails) ∧ c.Midway c.lanes s1 ∧ J s1 ∧ c.laneIn s1 n = some x := by
  let K : List Nat → State × List (Nat × Cause) × Bool → Prop := fun done acc =>
    c.Midway done acc.1 ∧ J acc.1 ∧ (n ∈ done → c.laneIn acc.1 n = some x ∧ acc.2.2 = true)
  have hfold : K c.lanes (c.lanes.foldl (memLane i c body) (s, [], false)) := by
    refine foldl_prefix _ K _ _ ⟨.start h.toIssuing, h0, fun hn => by simp at hn⟩ fun done m rest acc hls hK => ?_
    obtain ⟨hmid, hj, hdone⟩ := hK
    have hm : m ∈ c.lanes := by rw [hls]; simp
    have hmd : m ∉ done := fun hmd => (List.nodup_append.1 (hls ▸ h.once)).2.2 m hmd m (by simp) rfl
    have hothers := memLane_leavesOthers (i := i) acc fun y => (hJ done acc.1 m hm hmid hj y).1
    have hj' : J (memLane i c body acc m).1 := by
      unfold memLane
      dsimp only
      split
      · exact hJl _ _ _ hj
      · exact hJl _ _ _ (hJ done acc.1 m hm hmid hj _).2
    refine ⟨hmid.next hothers, hj', fun hn => ?_⟩
    rcases List.mem_append.1 hn with hn | hn
    · obtain ⟨hlane, hmoved⟩ := hdone hn
      obtain ⟨g, hg, hgl⟩ := State.laneAt_eq_some.1 hlane
      obtain ⟨g', hg', -, -, -, -, hl'⟩ := hothers g hg
      exact ⟨State.laneAt_eq_some.2 ⟨g', hg', (hl' n h.among fun e => hmd (e ▸ hn)).trans hgl⟩, memLane_moved hmoved⟩
    · obtain rfl := List.mem_singleton.1 hn
      obtain ⟨s', fails, moved⟩ := acc
      obtain ⟨hne, hx⟩ := hb done s' hmid hj
      rw [memLane_passes ((hmid.lane hm hmd).trans h.lane) h.passes]
      dsimp only
      rw [hx]
      obtain ⟨g, hg, -, -, -, hlen, -⟩ := (hmid.next (hJ done s' n hm hmid hj (l.started i c)).1).group
      have hlt : n < g.lanes.length := hlen ▸ (List.getElem?_eq_some_iff.1 h.lane).1
      refine ⟨State.laneAt_eq_some.2 ⟨g.modLane n fun _ => x, ?_, ?_⟩, by simp [bne_iff_ne.2 hne]⟩
      · unfold State.modLane
        rw [State.group_modGroup, if_pos ⟨rfl, rfl⟩, hg]
        rfl
      · simp only [Group.modLane, getElem?_modifyNth_same, List.getElem?_eq_getElem hlt, Option.map_some]
  obtain ⟨hmid, hj, hdone⟩ := hfold
  obtain ⟨hlane, hmoved⟩ := hdone h.among
  refine ⟨_, (c.lanes.foldl (memLane i c body) (s, [], false)).2.1, ?_, hmid, hj, hlane⟩
  unfold memUnit
  rw [h.inHand]
  exact congrArg Host.Outcome.next (if_pos hmoved)

/-- A lane that waits for nothing behind its own turn is so behind the unit. -/
theorem finish_lane_midway {s : State} {c : Ctx} {n : Nat} {x : Lane} (hmid : c.Midway c.lanes s) (hlane : c.laneIn s n = some x)
    (hw : x.wait = .none) (fails : List (Nat × Cause)) : c.laneIn (s.finish c fails) n = some x := by
  obtain ⟨g, hg, hr, hb, -, -, -⟩ := hmid.group
  obtain ⟨g', hg', hl⟩ := State.laneAt_eq_some.1 hlane
  obtain rfl := Option.some.inj (hg'.symm.trans hg)
  exact finish_lane _ c _ g' n x hg hr hb hl hw

/-- A lane of a `memUnit` ends as its body says. -/
theorem memUnit_lane_of {i : Instr} {s : State} {body : Ctx → State → Nat → Lane → State × LaneEnd} {c : Ctx} {n : Nat} {l x : Lane}
    (J : State → Prop) (h : Executes s c i n l) (h0 : J s)
    (hJ : ∀ done s' m, m ∈ c.lanes → c.Midway done s' → J s' → ∀ y, LeavesOthers c m s' (body c s' m y).1 ∧ J (body c s' m y).1)
    (hJl : ∀ s' m f, J s' → J (s'.modLane c.core c.gi m f))
    (hb : ∀ done s', c.Midway done s' → J s' → (body c s' n (l.started i c)).2 ≠ .stay ∧
      (({ l with wait := .none } : Lane).ended (({ l with wait := .none } : Lane).begin_ i c).1 i c
        (body c s' n (l.started i c)).2).1 = x)
    (hw : x.wait = .none) :
    ∃ t, memUnit i s body = .next t ∧ c.laneIn t n = some x := by
  obtain ⟨s1, fails, ht, hmid, -, hlane⟩ := memUnit_before J h h0 hJ hJl hb
  exact ⟨_, ht, finish_lane_midway hmid hlane hw fails⟩

/-! ## Lanes that wait at no queue, and giving up a task -/

/-- No lane of the unit waits at a queue (R275). -/
def Ctx.AtNoQueue (c : Ctx) (s : State) : Prop :=
  ∀ k ∈ s.clusters, ∀ r ∈ k.recs, ∀ w ∈ r.waiters, w.core = c.core → w.group = c.gi → w.lane ∉ c.lanes

section
variable {c : Ctx} {m : Nat} {s : State}

theorem State.modTeam_clusters (s : State) (core : Nat) (f : Team → Team) : (s.modTeam core f).clusters = s.clusters := by
  unfold State.modTeam
  split <;> rfl

theorem Ctx.AtNoQueue.same {t : State} (h : c.AtNoQueue s) (ht : t.clusters = s.clusters) : c.AtNoQueue t := by
  unfold Ctx.AtNoQueue
  rw [ht]
  exact h

theorem Ctx.AtNoQueue.modLane (h : c.AtNoQueue s) (core gi n : Nat) (f : Lane → Lane) : c.AtNoQueue (s.modLane core gi n f) :=
  h.same (State.modTeam_clusters ..)

/-- The records of a cluster have only waiters that records of the machine have. -/
theorem Ctx.AtNoQueue.cluster (h : c.AtNoQueue s) (cl : Nat) :
    ∀ r ∈ (s.cluster cl).recs, ∀ w ∈ r.waiters, w.core = c.core → w.group = c.gi → w.lane ∉ c.lanes := by
  unfold State.cluster
  cases hf : s.clusters.find? fun x => x.id == cl with
  | none => intro r hr; cases hr
  | some k => exact h k (List.mem_of_find?_eq_some hf)

theorem Ctx.AtNoQueue.modRec (h : c.AtNoQueue s) (cl no : Nat) {f : QRec → QRec} (hf : ∀ r, ∀ w ∈ (f r).waiters, w ∈ r.waiters) :
    c.AtNoQueue (s.modRec cl no f) := by
  have hrecs : ∀ r ∈ ((s.cluster cl).recs.map fun r => if r.no == no then f r else r), ∀ w ∈ r.waiters, w.core = c.core →
      w.group = c.gi → w.lane ∉ c.lanes := fun r hr w hw => by
    obtain ⟨q, hq, rfl⟩ := List.mem_map.1 hr
    refine h.cluster cl q hq w ?_
    split at hw
    · exact hf q w hw
    · exact hw
  unfold State.modRec State.setCluster
  dsimp only
  split
  · intro k hk
    obtain ⟨q, hq, rfl⟩ := List.mem_map.1 hk
    split
    · exact hrecs
    · exact h q hq
  · intro k hk
    rcases List.mem_append.1 hk with hk | hk
    · exact h k hk
    · obtain rfl := List.mem_singleton.1 hk
      exact hrecs

theorem State.modRec_cores (s : State) (cl no : Nat) (f : QRec → QRec) : (s.modRec cl no f).cores = s.cores :=
  State.setCluster_cores ..

theorem Ctx.AtNoQueue.record (h : c.AtNoQueue s) {cl no : Nat} {r : QRec} (hr : s.qrec cl no = some r) :
    ∀ w ∈ r.waiters, w.core = c.core → w.group = c.gi → w.lane ∉ c.lanes := h.cluster cl r (List.mem_of_find?_eq_some hr)

/-- Waiting lanes outside the unit change. -/
theorem LeavesOthers.waiters (ws : List Waiter) (hws : ∀ w ∈ ws, w.core = c.core → w.group = c.gi → w.lane ∉ c.lanes)
    (f : Waiter → Lane → Lane) (h : c.AtNoQueue s) :
    let t := ws.foldl (fun (s : State) w => s.modLane w.core w.group w.lane (f w)) s
    LeavesOthers c m s t ∧ c.AtNoQueue t := by
  induction ws generalizing s with
  | nil => exact ⟨.same (.refl s), h⟩
  | cons w ws ih =>
    obtain ⟨h1, h2⟩ := ih (s := s.modLane w.core w.group w.lane (f w)) (fun x hx => hws x (List.mem_cons_of_mem _ hx)) (h.modLane _ _ _ _)
    exact ⟨LeavesOthers.trans (.modLane _ _ _ _ fun a b d => absurd d (hws w (by simp) a b)) h1, h2⟩

theorem LeavesOthers.closeQueue (h : c.AtNoQueue s) (cl no : Nat) :
    LeavesOthers c m s (s.closeQueue cl no) ∧ c.AtNoQueue (s.closeQueue cl no) := by
  unfold State.closeQueue
  cases hr : s.qrec cl no with
  | none => exact ⟨.same (.refl s), h⟩
  | some r =>
    have h1 := h.modRec cl no (f := fun q => { q with closed := true, waiters := [] }) fun _ _ hw => by cases hw
    obtain ⟨h2, h3⟩ := LeavesOthers.waiters (m := m) r.waiters (h.record hr) (fun w => Lane.popFails w.words) h1
    exact ⟨LeavesOthers.trans (.same (.of_cores (State.modRec_cores ..))) (LeavesOthers.trans h2 (.same (.of_cores rfl))), h3.same rfl⟩

theorem LeavesOthers.liveDown (h : c.AtNoQueue s) (cl no : Nat) :
    LeavesOthers c m s (s.liveDown cl no) ∧ c.AtNoQueue (s.liveDown cl no) := by
  unfold State.liveDown
  split
  · exact ⟨.same (.refl s), h⟩
  · have h1 := h.modRec cl no (f := fun q => { q with live := q.live - 1 }) fun _ _ hw => hw
    have h0 : LeavesOthers c m s _ := .same (.of_cores (State.modRec_cores s cl no fun q => { q with live := q.live - 1 }))
    dsimp only
    split
    · obtain ⟨h2, h3⟩ := LeavesOthers.closeQueue (m := m) h1 cl no
      exact ⟨h0.trans h2, h3⟩
    · exact ⟨h0, h1⟩

theorem State.reportIntegrity_clusters (s : State) (ps : List Part) : (s.reportIntegrity ps).clusters = s.clusters := by
  unfold State.reportIntegrity
  generalize s.parts.filter _ = qs
  induction qs generalizing s with
  | nil => rfl
  | cons q qs ih => exact (ih _).trans (State.postMgmt_clusters ..)

theorem State.store_clusters (s : State) (a : Nat) (bs : List Byte) : (s.store a bs).clusters = s.clusters := by
  unfold State.store
  split
  · rfl
  dsimp only
  split
  · exact State.reportIntegrity_clusters ..
  · rfl

theorem State.astray_same (s : State) (xs : List (Nat × Nat × Nat)) :
    SameGroups s (s.astray xs) ∧ (s.astray xs).clusters = s.clusters := by
  unfold State.astray
  induction xs generalizing s with
  | nil => exact ⟨.refl s, rfl⟩
  | cons x xs ih =>
    obtain ⟨h1, h2⟩ := ih (s.modRegion x.1 x.2.1 fun r => { r with strays := x.2.2 :: r.strays })
    exact ⟨SameGroups.trans (sameGroups_modRegion _ _ _ _) h1, h2.trans (State.modTeam_clusters ..)⟩

theorem State.strayBytes_same (s : State) (a n : Nat) :
    SameGroups s (s.strayBytes a n) ∧ (s.strayBytes a n).clusters = s.clusters := by
  unfold State.strayBytes
  split
  · exact ⟨.refl s, rfl⟩
  · obtain ⟨h1, h2⟩ := State.astray_same ((s.drawn n).2.store a (s.drawn n).1) (s.strayAt a)
    exact ⟨SameGroups.trans (SameGroups.of_cores (State.store_cores (s.drawn n).2 _ _)) h1, h2.trans (State.store_clusters ..)⟩

theorem State.headerDown_same (s : State) (home : Nat) :
    SameGroups s (s.headerDown home) ∧ (s.headerDown home).clusters = s.clusters := by
  unfold State.headerDown
  dsimp only
  obtain ⟨h1, h2⟩ := State.strayBytes_same s home 64
  generalize s.strayBytes home 64 = s1 at h1 h2
  have h3 : ∀ t : State, t.cores = s1.cores → t.clusters = s1.clusters →
      SameGroups s ((t.untagRange home 64).strayBytes home 64) ∧ ((t.untagRange home 64).strayBytes home 64).clusters = s.clusters := by
    intro t hc hk
    obtain ⟨h4, h5⟩ := State.strayBytes_same (t.untagRange home 64) home 64
    exact ⟨h1.trans ((SameGroups.of_cores hc).trans h4), h5.trans (hk.trans h2)⟩
  split
  · exact h3 _ ((State.store_cores ..).trans (State.store_cores ..)) ((State.store_clusters ..).trans (State.store_clusters ..))
  · exact h3 _ (State.store_cores ..) (State.store_clusters ..)

/-- A lane of the unit that gives up its task changes no other lane of it, where none waits at a queue (R260, R261). -/
theorem LeavesOthers.releaseTask (h : c.AtNoQueue s) (m : Nat) :
    LeavesOthers c m s (s.releaseTask c.core c.gi m) ∧ c.AtNoQueue (s.releaseTask c.core c.gi m) := by
  unfold State.releaseTask
  split
  · exact ⟨.same (.refl s), h⟩
  split
  · have h1 : LeavesOthers c m s (s.modLane c.core c.gi m fun y => { y with task := { y.task with hold := false } }) :=
      .modLane _ _ _ _ fun _ _ _ => rfl
    have h2 := h.modLane c.core c.gi m fun y => { y with task := { y.task with hold := false } }
    unfold State.taskOver
    split
    · obtain ⟨h3, h4⟩ := LeavesOthers.liveDown (m := m) h2 _ _
      exact ⟨h1.trans h3, h4⟩
    · obtain ⟨h3, h4⟩ := State.headerDown_same (s.modLane c.core c.gi m fun y => { y with task := { y.task with hold := false } }) _
      exact ⟨h1.trans (.same h3), h2.same h4⟩
  · exact ⟨.same (.refl s), h⟩

end

/-! ## EXIT and YIELD (R134) -/

theorem exit_transfer (x : OpG) : (Instr.exit x).transfer = true := by
  simp [Instr.transfer, Instr.major, Instr.base]

theorem started_task (l : Lane) (i : Instr) (c : Ctx) : (l.started i c).task = l.task := by
  have hb : ∀ y : Lane, (y.begin_ i c).1.task = y.task := fun y => by
    unfold Lane.begin_
    split
    · rfl
    split
    · rfl
    split <;> rfl
  have h : ∀ b, ((({ l with wait := .none } : Lane).begin_ i c).1.chained b).task = l.task := fun b => by
    cases b <;> exact hb _
  exact h _

/-- A contained lane whose body fails has the condition's outcome delivered. -/
theorem ended_deliver {l : Lane} {i : Instr} {c : Ctx} (e : Cause) (h : (l.started i c).inside.isSome = true) :
    (({ l with wait := .none } : Lane).ended (({ l with wait := .none } : Lane).begin_ i c).1 i c (.fail e)).1 =
      (l.started i c).deliver e.outcome := by
  have hin : ({ l with wait := .none } : Lane).inside.isSome = true := (started_inside l i c).symm.trans h
  show (Lane.failed _ _ e).1 = _
  unfold Lane.failed
  rw [if_pos hin]
  unfold Lane.started
  rw [deliver_chained _ _ _ (by rw [begin_inside]; exact hin)]

/-- A transfer's unit that a lane goes past. -/
theorem ended_go {l : Lane} {i : Instr} (ht : i.transfer = true) (c : Ctx) (l0 l1 : Lane) :
    (l0.ended l1 i c (.go l)).1 = { l.past c with chain := 0 } := by
  simp [Lane.ended, ht, Lane.past]

theorem exit_lane {s : State} {c : Ctx} {x : OpG} {n : Nat} {l z : Lane} (h : Executes s c (.exit x) n l)
    (hlog : l.task.hold = true → s.logged c.core c.gi n = false) (hq : c.AtNoQueue s)
    (hz : z = if x.g.holds (l.started (.exit x) c) then
        if (l.started (.exit x) c).inside.isSome then (l.started (.exit x) c).deliver 0
        else { l.started (.exit x) c with
          exited := true, latches := [], chain := 0, task := { (l.started (.exit x) c).task with hold := false } }
      else { (l.started (.exit x) c).past c with chain := 0 }) :
    ∃ t, exec (.exit x) s = .next t ∧ c.laneIn t n = some z := by
  have ht := exit_transfer x
  generalize hy : l.started (.exit x) c = y at hz
  simp only [exec, execExit]
  refine memUnit_lane_of c.AtNoQueue h hq (fun done s' m hm hmid hj y => ?_) (fun s' m f hj => hj.modLane _ _ _ _)
    (fun done s' hmid hj => ?_) ?_
  · have stays : LeavesOthers c m s' s' ∧ c.AtNoQueue s' := ⟨.same (.refl s'), hj⟩
    split
    · exact stays
    split
    · exact stays
    split
    · exact stays
    · exact LeavesOthers.releaseTask hj m
  · rw [hy, hz]
    dsimp only
    by_cases hg : x.g.holds y = true
    · by_cases hin : y.inside.isSome = true
      · have he := ended_deliver .exited (hy ▸ hin : (l.started (.exit x) c).inside.isSome = true)
        rw [hy] at he
        simp only [hg, hin, Bool.not_true, Bool.false_eq_true, if_false, if_true]
        exact ⟨by simp, he⟩
      · have hstay : (y.task.hold && s'.logged c.core c.gi n) = false := by
          rw [hmid.logged h.toIssuing, ← hy, started_task]
          cases hh : l.task.hold
          · rfl
          · exact hlog hh
        simp only [hg, hin, hstay, Bool.not_true, Bool.false_eq_true, if_false, if_true]
        exact ⟨by simp, rfl⟩
    · simp only [hg, Bool.not_false, if_true, Bool.false_eq_true, if_false]
      exact ⟨by simp, ended_go ht ..⟩
  · have hw : y.wait = .none := hy ▸ started_wait ..
    rw [hz]
    split
    · split
      · exact (deliver_wait ..).trans hw
      · exact hw
    · exact hw

theorem nop_transfer (x : OpG) : (Instr.nop x).transfer = true := by
  simp [Instr.transfer, Instr.major, Instr.base]

theorem yield_transfer (x : OpG) : (Instr.yield x).transfer = true := by
  simp [Instr.transfer, Instr.major, Instr.base]

theorem nop_transfers (x : OpG) : Transfers (.nop x) x.g fun _ _ y => (y, none) := by
  have hexec : ∀ s, exec (.nop x) s = localUnit (.nop x) s (guarded x.g fun _ l => .go l) := fun s => by
    simp only [exec, execNop]
  exact transfers_of hexec (fun c n l => rfl) (fun _ _ _ => rfl) (fun _ _ _ hw => hw) (nop_transfer x)

/-- Settles O18: EXIT by the fold of its unit, YIELD as a NOP that then waits for the groups it yields to. -/
theorem exitNopYield : Obligations.ExitNopYield := by
  refine ⟨fun x s c n l h hlog hq => ?_, nop_transfers, fun x s c hi hh hex => ?_⟩
  · obtain ⟨t, ht, hl⟩ := exit_lane h hlog hq rfl
    refine ⟨t, ht, fun hg => ?_, fun hg hin => ?_, fun hg hin => ?_⟩
    · simpa [hg] using hl
    · simpa [hg, hin] using hl
    · simpa [hg, hin] using hl
  · have ht := yield_transfer x
    have hrun : ∀ n ∈ c.lanes, ∀ l, c.g.lanes[n]? = some l → laneRun (.yield x) c (guarded x.g (fun _ l => .go l) c n) l =
        ({ (l.started (.yield x) c).past c with chain := 0 }, none) := fun n hn l hl => by
      obtain ⟨l', h⟩ := hex n hn
      obtain rfl := Option.some.inj (hl.symm.trans h.lane)
      rw [laneRun_passes h]
      unfold guarded
      split <;> simp [Lane.ended, ht, Lane.past]
    have hfails : c.failsOf (.yield x) (guarded x.g (fun _ l => .go l) c) = [] := by
      refine List.filterMap_eq_nil_iff.2 fun n hn => ?_
      obtain ⟨l, h⟩ := hex n hn
      rw [context_lane h, hrun n hn l h.lane]
      rfl
    have hunit := localUnit_eq (.yield x) (guarded x.g fun _ l => .go l) hi.inHand
    rw [hfails] at hunit
    have hlanes := fun n (hn : n ∈ c.lanes) l (hl : c.g.lanes[n]? = some l) =>
      localUnit_lane_of hi hn hl (congrArg Prod.fst (hrun n hn l hl)) (started_wait l _ c) []
    obtain ⟨hs, hx, h0, -⟩ := finish_group (s.modGroup c.core c.gi (c.withLanes fun n l =>
      (laneRun (.yield x) c (guarded x.g (fun _ l => .go l) c n) l).1)) c [] _ (group_withLanes (context_group s c hi.inHand) _) hi.noBar
    obtain rfl := h0 rfl
    have hgroup : ∃ g, ((s.modGroup c.core c.gi (c.withLanes fun n l =>
        (laneRun (.yield x) c (guarded x.g (fun _ l => .go l) c n) l).1)).finish c []).group c.core c.gi = some g ∧ g.halts = [] ∧
        g.wait = c.g.wait :=
      ⟨_, hx, (List.append_nil _).trans ((afterIssue_halts ..).trans hh), afterIssue_wait ..⟩
    generalize (s.modGroup c.core c.gi _).finish c [] = t at hunit hlanes hgroup
    obtain ⟨g, hg, hgh, hgw⟩ := hgroup
    have hexec : exec (.yield x) s = if c.full && c.lanes.any fun n => x.g.holds (c.g.lane n) then
        match s.yieldsTo c.core c.gi with
        | [] => .next t
        | ws => .next (t.modGroup c.core c.gi fun g => if g.halts.isEmpty then { g with wait := .yielded ws } else g)
      else .next t := by
      simp only [exec, execYield]
      rw [hi.inHand]
      dsimp only
      rw [hunit] <;> rfl
    have hany : (c.full && c.lanes.any fun n => x.g.holds (c.g.lane n)) = true ↔
        c.full = true ∧ ∃ n ∈ c.lanes, x.g.holds (c.g.lane n) = true := by simp
    by_cases hw : c.full = true ∧ ∃ n ∈ c.lanes, x.g.holds (c.g.lane n) = true
    · rw [if_pos (hany.2 hw)] at hexec
      cases hws : s.yieldsTo c.core c.gi with
      | nil =>
        rw [hws] at hexec
        exact ⟨t, g, hexec, hg, hlanes, by simpa using hgw⟩
      | cons w ws =>
        rw [hws] at hexec
        have hg1 : (t.modGroup c.core c.gi fun g => if g.halts.isEmpty then { g with wait := .yielded (w :: ws) } else g).group
            c.core c.gi = some { g with wait := .yielded (w :: ws) } := by
          rw [State.group_modGroup, if_pos ⟨rfl, rfl⟩, hg, Option.map_some, if_pos (by simp [hgh])]
        refine ⟨_, _, hexec, hg1, fun n hn l hl => ?_, by simp [hw]⟩
        obtain ⟨g', hg', hgl⟩ := State.laneAt_eq_some.1 (hlanes n hn l hl)
        obtain rfl := Option.some.inj (hg'.symm.trans hg)
        exact State.laneAt_eq_some.2 ⟨_, hg1, hgl⟩
    · rw [if_neg fun h => hw (hany.1 h)] at hexec
      exact ⟨t, g, hexec, hg, hlanes, by rw [if_neg fun h => hw ⟨h.1, h.2.1⟩]; exact hgw⟩

end Sys2Proof.Machine
end

section
/-!
PROOF. SYNCL (spec/05_lane_integer_control.md R132) in a group whose width is neither 64 nor within 32: the model takes the mask's lanes from lane 0 on
there, and not from the lane's own 32, so that a lane beyond the first 32 waits for another one although its mask names only its own place.
-/
namespace Sys2Proof.Machine

-- The kernel evaluations of this file run one after another: side by side they take the check's memory.
set_option Elab.async false

/-- A group of 48 threads, every register 0x100, of which lane 40 alone has a unit in hand. -/
def wideGroup : State :=
  let t := newTeam 0 (Vector.replicate 64 View.zero) [] 0 0
  let l : Lane := { Lane.blank with v := Vector.replicate 64 0x100 }
  { State.reset with
    cores := [⟨0, some { t with groups := [{ newGroup 0 0 0 0 with width := 48, nregs := 64, lanes := List.replicate 48 l }] }, [], some 0, false⟩]
    issue := some ⟨0, 0, [40], ⟨false, 0⟩, 1, [], false⟩ }

/-- SYNCL on register 3, whose value 0x100 names the lane's own place in its 32 lanes. -/
def syncOwn : Instr := .syncl ⟨.always, .v 3⟩

/-- The unit in hand of `wideGroup`, and lane 40 before and behind SYNCL: it waits at the unit. -/
theorem wideGroup_waits : (match wideGroup.context, exec syncOwn wideGroup with
    | some c, .next t => decide (c.lanes = [40] ∧ c.words = 1 ∧ c.g.rvz = none ∧ c.g.atNoBarrier = true ∧
        (c.g.lanes[40]?.map fun l => (({ l with wait := .none } : Lane).begin_ syncOwn c).2) = some none ∧
        (c.g.lanes[40]?.map fun l => ((l.started syncOwn c).pc, readSrc (c.env 40) (l.started syncOwn c) (.v 3))) = some (0, 0x100) ∧
        (c.laneIn t 40).map (·.pc) = some 0 ∧ wideGroup.logged c.core c.gi 40 = false)
    | _, _ => false) = true := by decide +kernel

/-- Refutes O20: lane 40 of a group of 48 threads, whose SYNCL names only its own place, waits at it. -/
theorem not_rendezvousAndLaneSync : ¬ Obligations.RendezvousAndLaneSync := by
  rintro ⟨-, h⟩
  have hw := wideGroup_waits
  split at hw
  next c t hc ht =>
    obtain ⟨hlanes, hwords, hrvz, hbar, hpass, hstart, hpc, hlog⟩ := of_decide_eq_true hw
    obtain ⟨l, hl, hpass⟩ := Option.map_eq_some_iff.1 hpass
    rw [hl, Option.map_some, Option.some.injEq, Prod.mk.injEq] at hstart
    obtain ⟨hlpc, hmask⟩ := hstart
    have hex : Executes wideGroup c syncOwn 40 l :=
      ⟨⟨hc, by rw [hlanes]; decide, hrvz, hbar⟩, by rw [hlanes]; decide, hl, hpass⟩
    obtain ⟨u, z, hu, hz, -, -, -, -, -, hown⟩ := h ⟨.always, .v 3⟩ wideGroup c 40 l hex hlog
    obtain rfl := Host.Outcome.next.inj (hu.symm.trans ht)
    rw [hz, Option.map_some, Option.some.injEq] at hpc
    have hgo := hown rfl fun k hk hbit => ?_
    · rw [hpc, show (l.started (.syncl ⟨.always, .v 3⟩) c).pc = 0 from hlpc, hwords] at hgo
      exact absurd hgo (by decide)
    · rw [show readSrc (c.env 40) (l.started (.syncl ⟨.always, .v 3⟩) c) (.v 3) = 0x100 from hmask] at hbit
      revert k
      decide
  next => cases hw

end Sys2Proof.Machine
end

section
/-!
PROOF. SIGC (spec/05_lane_integer_control.md R144) on a winnow view whose BASE is not a multiple of 64: no premise of the statement asks for that, and a bucket
may then run from one die into the next. The model asks only at a bucket's first byte whether its die answers (R330), so a slot behind it is taken but not
written when the next die does not.
-/
namespace Sys2Proof.Machine

-- The kernel evaluations of this file run one after another: side by side they take the check's memory.
set_option Elab.async false

/-- A winnow view of one bucket, 8 bytes before the end of the last vault of die 0. -/
def straddling : View :=
  { View.zero with
    base := BitVec.ofNat 64 (95 * 2 ^ 32 + 2 ^ 22 - 8)
    ext := #v[1, 0, 0, 0, 0]
    flags := BitVec.ofNat 64 (spVAULT + 1 * 2 ^ 3 + tyWINNOW * 2 ^ 6 + 7 * 2 ^ 16 + 2 ^ 63) }

/-- The first byte of its bucket. -/
def bucketStart : Nat := vaultAt 0 95 (2 ^ 22 - 8)

/-- A group of 8 threads whose winnow is `straddling`; slot 0 of the bucket holds the signature (5, 0), and die 1 has stopped answering. -/
def bucketAcross : State :=
  let t := newTeam 0 (Vector.replicate 64 straddling) [] 0 0
  { State.reset with
    cores := [⟨0, some { t with groups := [{ newGroup 0 0 0 0 with width := 8, nregs := 64, lanes := List.replicate 8 Lane.blank }] }, [], some 0, false⟩]
    parts := [newPart ⟨0, BitVec.ofNat 96 (2 ^ 23), [], 0, [], 0, false, 1⟩ 0 0]
    mem := [(bucketStart, 5)]
    cutDies := [1]
    issue := some ⟨0, 0, [0], ⟨false, 0⟩, 1, [], false⟩ }

/-- SIGC into register 4. -/
def sigcTo4 : Instr := .sigc ⟨.always, 4⟩

/-- The premises of the statement hold in `bucketAcross`. -/
theorem bucketAcross_fits : (match bucketAcross.context with
    | some c =>
      let v := c.view (recWinnow c.r)
      decide (c.lanes = [0] ∧ c.g.rvz = none ∧ c.g.atNoBarrier = true ∧
        (c.g.lanes[0]?.map fun l => (({ l with wait := .none } : Lane).begin_ sigcTo4 c).2) = some none ∧
        (c.g.lanes[0]?.map fun l => (l.h0, l.h1, l.exited)) = some (0, 0, false) ∧ bucketAcross.mem.wf = true ∧ v.winnowOk = true ∧
        bucketAcross.sramAt c.core c.t v (64 * (1 % v.extN 0)) = some bucketStart ∧
        bucketAcross.firewall c.t.part bucketStart = true ∧ bucketAcross.poisoned bucketStart 64 = false ∧
        bucketAcross.strayAt bucketStart = [] ∧ c.g.triggered = false)
    | none => false) = true := by decide +kernel

/-- Slot 1 is the bucket's lowest empty one, and no slot holds the signature (1, 0). -/
theorem bucketAcross_slots :
    let slot := fun k => (bucketAcross.num (bucketStart + 16 * k) 8, bucketAcross.num (bucketStart + 16 * k + 8) 8)
    ((List.range 4).find? fun k => slot k == (0, 0)) = some 1 ∧ ((List.range 4).any fun k => slot k == (1, 0)) = false := by
  decide +kernel

/-- SIGC leaves slot 1 empty. -/
theorem bucketAcross_unwritten : (match exec sigcTo4 bucketAcross with
    | .next t => decide (t.num (bucketStart + 16 * 1) 8 = 0)
    | _ => false) = true := by decide +kernel

/-- Refutes O22: in `bucketAcross` the signature (1, 0) does not come to stand in the lowest empty slot. -/
theorem not_candidates : ¬ Obligations.Candidates := by
  rintro ⟨-, h, -⟩
  have hfits := bucketAcross_fits
  split at hfits
  next c hc =>
    obtain ⟨hlanes, hrvz, hbar, hpass, hl, hwf, hok, hat, hwall, hclean, hstray, htrig⟩ := of_decide_eq_true hfits
    obtain ⟨l, hlane, hpass⟩ := Option.map_eq_some_iff.1 hpass
    rw [hlane, Option.map_some, Option.some.injEq, Prod.mk.injEq, Prod.mk.injEq] at hl
    obtain ⟨h0, h1, hexited⟩ := hl
    have hex : Executes bucketAcross c sigcTo4 0 l :=
      ⟨⟨hc, by rw [hlanes]; decide, hrvz, hbar⟩, by rw [hlanes]; decide, hlane, hpass⟩
    have hsig : (if l.h0 = 0 ∧ l.h1 = 0 then (1, 0) else (l.h0.toNat, l.h1.toNat)) = (1, 0) := if_pos ⟨h0, h1⟩
    have hcase := h ⟨.always, 4⟩ bucketAcross c 0 l bucketStart hex hlanes rfl hwf
    dsimp only at hcase
    rw [hsig] at hcase
    obtain ⟨t, z, ht, -, -, -, -, -, -, -, hslot, -⟩ := hcase hok hat (by decide) hwall hclean hstray htrig hexited
    have hwritten := (hslot 1 bucketAcross_slots.1 bucketAcross_slots.2).1
    have hleft := bucketAcross_unwritten
    rw [show exec sigcTo4 bucketAcross = .next t from ht] at hleft
    rw [of_decide_eq_true hleft] at hwritten
    cases hwritten
  next => cases hfits

end Sys2Proof.Machine
end

section
/-!
PROOF. FENCE at SYSTEM (spec/09_core_memory_sync.md R205, R297, R377). The statement says of a write-back that its region's space is not PEER; the page's
translation may still stand in the partition's caches with an address in a peer's memory, which nothing in the statement excludes. The model then sends the
bytes to the peer and the lane waits for the acknowledgement, although the write-back is done.
-/
namespace Sys2Proof.Machine

-- The kernel evaluations of this file run one after another: side by side they take the check's memory.
set_option Elab.async false

/-! ## What does not touch the requests that are outstanding -/

theorem State.unacked_of_requests {s t : State} (h : t.requests = s.requests) (core : Nat) : t.unacked core = s.unacked core := by
  unfold State.unacked
  rw [h]

theorem foldl_requests {α : Type} (f : State → α → State) (h : ∀ s x, (f s x).requests = s.requests) (xs : List α) (s : State) :
    (xs.foldl f s).requests = s.requests := by
  induction xs generalizing s with
  | nil => rfl
  | cons x xs ih => rw [List.foldl_cons, ih, h]

theorem State.reportIntegrity_requests (s : State) (before : List Part) : (s.reportIntegrity before).requests = s.requests := by
  unfold State.reportIntegrity
  refine foldl_requests _ (fun s x => ?_) _ _
  exact State.postMgmt_requests ..

@[simp] theorem State.store_requests (s : State) (a : Nat) (bs : List Byte) : (s.store a bs).requests = s.requests := by
  unfold State.store
  split
  · rfl
  · dsimp only
    split
    · rw [State.reportIntegrity_requests]
    · rfl

@[simp] theorem State.storeMask_requests (s : State) (a : Nat) (bs : List Byte) (ks : List Bool) :
    (s.storeMask a bs ks).requests = s.requests := by
  induction bs generalizing s a ks with
  | nil => rfl
  | cons b bs ih =>
    cases ks with
    | nil => rfl
    | cons k ks =>
      rw [State.storeMask, ih]
      split
      · rw [State.store_requests]
      · rfl

@[simp] theorem State.carryPoison_requests (s : State) (a b n : Nat) (mask : List Bool) : (s.carryPoison a b n mask).requests = s.requests := by
  unfold State.carryPoison
  refine foldl_requests _ (fun s x => ?_) _ _
  refine foldl_requests _ (fun s x => ?_) _ _
  exact State.markPoison_requests ..

theorem State.cache_requests (s : State) (part va : Nat) (w : Walk) : (s.cache part va w).requests = s.requests := by
  unfold State.cache
  split <;> rfl

theorem State.backInvalidate_requests (s : State) (ls : List Nat) : (s.backInvalidate ls).requests = s.requests := by
  unfold State.backInvalidate
  split <;> rfl

theorem State.noteBy_requests (s : State) (core : Nat) (addrs : List Nat) : (s.noteBy core addrs).requests = s.requests := by
  unfold State.noteBy
  split <;> rfl

theorem State.modTeam_requests (s : State) (core : Nat) (f : Team → Team) : (s.modTeam core f).requests = s.requests := by
  unfold State.modTeam
  split <;> rfl

theorem State.sendOn_requests (s : State) (part pkg port : Nat) (x : OutFlit) : (s.sendOn part pkg port x).requests = s.requests := by
  change (s.sent part pkg port).requests = _
  unfold State.sent
  split <;> rfl

/-! ## A write to a peer waits for its acknowledgement -/

/-- A request of a core's write is outstanding once it is sent. -/
theorem State.request_unacked (s : State) (type part pkg port : Nat) (stook : Bool) (body : List Byte) (addrs : List Nat) (core : Nat) :
    (s.request type part pkg port stook body addrs (.write core)).unacked core = true := by
  unfold State.request State.addRequest State.unacked
  simp [State.sendOn_requests]

theorem State.request_keeps_unacked {s : State} {core : Nat} (h : s.unacked core = true) (type part pkg port : Nat) (stook : Bool)
    (body : List Byte) (addrs : List Nat) (x : ReqAgent) : (s.request type part pkg port stook body addrs x).unacked core = true := by
  unfold State.request State.addRequest State.unacked at *
  rw [State.sendOn_requests, List.any_append, h, Bool.true_or]

theorem foldl_unacked {α : Type} {core : Nat} (f : State → α → State) (hf : ∀ s x, s.unacked core = true → (f s x).unacked core = true)
    (xs : List α) (s : State) (h : s.unacked core = true) : (xs.foldl f s).unacked core = true := by
  induction xs generalizing s with
  | nil => exact h
  | cons x xs ih => exact ih _ (hf _ _ h)

/-- A write to a peer some of whose first 128 bytes are to be written leaves a request of its core outstanding. -/
theorem State.writeHome_unacked {s : State} {part core a p : Nat} {bs : List Byte} {mask : List Bool} (stook : Bool)
    (ha : isPeer a = true) (hr : s.reach part (peerPkg a) = .port p) (hb : bs ≠ [])
    (hm : placesFrom (fun _ (x : Bool) => x) 0 (mask.take (min 128 bs.length)) ≠ []) :
    (s.writeHome part (.write core) a bs mask stook).unacked core = true := by
  obtain ⟨k, hk⟩ : ∃ k, ceilDiv bs.length 128 = k + 1 := ⟨(bs.length - 1) / 128, by
    have := List.length_pos_iff.2 hb
    unfold ceilDiv
    omega⟩
  have hparts : runParts 128 a bs.length = (a, min 128 bs.length) :: (upFrom 1 k).map fun k => (a + 128 * k, min 128 (bs.length - 128 * k)) := by
    unfold runParts
    rw [hk]
    rfl
  unfold State.writeHome
  rw [if_pos ha, hr]
  dsimp only
  rw [hparts, List.foldl_cons]
  refine foldl_unacked _ (fun s x h => ?_) _ _ ?_
  · split
    · exact h
    · exact State.request_keeps_unacked ((State.unacked_of_requests (State.storeMask_requests ..) core).trans h) ..
  · dsimp only
    rw [Nat.sub_self, List.drop_zero, if_neg (by simpa using hm)]
    exact State.request_unacked ..

/-- A dirty slot is written back where its home is found, may be reached now, and nothing waits for the driver. -/
theorem State.writeBack_done {s : State} {core k a r1 r2 : Nat} {r : Region} {t : Team} {sealed_ : Bool} (grp : Option Nat) (pc : Word)
    (lanes : BitVec 64) (hdirty : (r.slot k).state = .dirty) (hawake : (s.core core).frozen = false) (ht : s.team core = some t)
    (hasked : s.wbAwaits t.part core r.id k = false) (hhome : s.regionHome t.part r (4096 * (r.slot k).page) 2 = .ok a r1 r2 sealed_)
    (hbegin : s.mayBeginAll a 4096 = true) (hopen : s.closedTo t.part a = false) :
    s.writeBack core r k grp pc lanes =
      ((((s.cache t.part (4096 * (r.slot k).page) (.ok a r1 r2 sealed_)).sendDirty core r k 0 a 4096).store (r.maskAt core + 512 * k)
        (List.replicate 512 0)).modSlot core r.id k fun x => { x with state := .clean }, true) := by
  unfold State.writeBack
  dsimp only
  rw [if_neg (by simp [hdirty]), if_neg (by simp [hawake]), ht]
  dsimp only
  rw [if_neg (by simp [hasked]), hhome]
  dsimp only
  rw [if_neg (by simp [hbegin, hopen])]

theorem State.core_of_cores {s t : State} (h : t.cores = s.cores) (core : Nat) : t.core core = s.core core := by
  unfold State.core
  rw [h]

theorem State.cut_of_isPeer {a : Nat} (h : isPeer a = true) (s : State) : s.cut a = false := by
  have h : 2 ^ 60 ≤ a := of_decide_eq_true h
  unfold State.cut dieOfAddr
  rw [if_neg (by omega), if_neg (by omega), if_neg (by omega), if_neg (by omega)]

@[simp] theorem Memory.read_length (m : Memory) (a n : Nat) : (m.read a n).length = n := by
  induction n generalizing a with
  | zero => rfl
  | succ n ih => rw [Memory.read, List.length_cons, ih]

/-- The dirty bytes of a slot sent to a peer are not acknowledged yet, where one of the first 128 is among them. -/
theorem State.sendDirty_unacked {s : State} {core k home p : Nat} {r : Region} {t : Team} (ht : s.team core = some t)
    (hstray : r.strays.contains k = false) (hpeer : isPeer home = true) (hreach : s.reach t.part (peerPkg home) = .port p)
    (hmask : placesFrom (fun _ (x : Bool) => x) 0 ((s.slotMask core r k).take 128) ≠ []) :
    (s.sendDirty core r k 0 home 4096).unacked core = true := by
  have hlen : (s.read (r.dataAt core + 4096 * k + 0) 4096).length = 4096 := Memory.read_length ..
  have hsent : ∀ ls, ((s.backInvalidate ls).writeHome t.part (.write core) home (s.read (r.dataAt core + 4096 * k + 0) 4096)
      (((s.slotMask core r k).drop 0).take 4096) false).unacked core = true := fun ls => by
    refine State.writeHome_unacked (p := p) false hpeer ?_ (List.ne_nil_of_length_pos (by omega)) ?_
    · unfold State.backInvalidate
      split <;> exact hreach
    · rwa [hlen, List.drop_zero, List.take_take]
  unfold State.sendDirty
  simp only [hstray, ht, Option.map_some, Option.getD_some, Bool.false_eq_true, if_false]
  split
  · exact hsent _
  · rw [State.unacked_of_requests (State.noteBy_requests ..), State.reportCut, if_neg (by rw [State.cut_of_isPeer hpeer]; decide),
      State.unacked_of_requests (State.carryPoison_requests ..)]
    exact hsent _

/-- A page of DEVICE memory that is dirty in its slot, its first byte alone written. -/
def dirtyPage : Region := ⟨0, false, 0, 0, [⟨.dirty, 0, none, none⟩], 0, spDEVICE, 0, []⟩

/-- A group of 8 threads with that page, whose partition's cache translates it to memory of a peer; the port to the peer is up. -/
def flushToPeer : State :=
  let t := newTeam 0 (Vector.replicate 64 View.zero) [] 0 0
  { State.reset with
    cores := [⟨0, some { t with
      regions := [dirtyPage]
      groups := [{ newGroup 0 0 0 0 with width := 8, nregs := 64, lanes := List.replicate 8 Lane.blank }] }, [], some 0, false⟩]
    parts := [{ newPart ⟨0, 1, [], 0, [], 0, false, 1⟩ 0 0 with tlb := [⟨0, 2 ^ 60, 7, 7, false⟩] }]
    mem := [(dirtyPage.maskAt 0, 1)]
    ports := [{ Port.down with up := true }]
    issue := some ⟨0, 0, [0], ⟨false, 0⟩, 1, [], false⟩ }

/-- FENCE at SYSTEM. -/
def fenceSystem : Instr := .fence ⟨.system⟩

theorem flushToPeer_fits : (match flushToPeer.context with
    | some c => decide (c.core = 0 ∧ c.gi = 0 ∧ c.lanes = [0] ∧ c.words = 1 ∧ c.place.pc = 0 ∧ c.alone = false ∧ c.g.rvz = none ∧ c.g.atNoBarrier = true ∧
        (c.g.lanes[0]?.map fun l => (({ l with wait := .none } : Lane).begin_ fenceSystem c).2) = some none ∧
        (c.g.lanes[0]?.map fun l => (l.pc, (l.started fenceSystem c).pc, l.exited)) = some (0, 0, false) ∧
        flushToPeer.logged 0 0 0 = false ∧ c.g.triggered = false ∧ c.t.regions = [dirtyPage])
    | none => false) = true := by decide +kernel

/-- The write-back has nothing to wait for. -/
theorem flushToPeer_ready : (match flushToPeer.team 0 with
    | some t =>
      let s := flushToPeer.cache t.part (4096 * (dirtyPage.slot 0).page) (.ok (2 ^ 60) 7 7 false)
      decide ((flushToPeer.core 0).frozen = false ∧ flushToPeer.wbAwaits t.part 0 dirtyPage.id 0 = false ∧
        flushToPeer.regionHome t.part dirtyPage (4096 * (dirtyPage.slot 0).page) 2 = .ok (2 ^ 60) 7 7 false ∧ flushToPeer.mayBeginAll (2 ^ 60) 4096 = true ∧
        flushToPeer.closedTo t.part (2 ^ 60) = false ∧ s.reach t.part (peerPkg (2 ^ 60)) = .port 0 ∧ s.team 0 = some t ∧
        placesFrom (fun _ (x : Bool) => x) 0 ((s.slotMask 0 dirtyPage 0).take 128) = [0])
    | none => false) = true := by decide +kernel

/-- The write-back of its page is done, but the peer has not acknowledged it. -/
theorem flushToPeer_writeBack (pc : Word) (lanes : BitVec 64) :
    (flushToPeer.writeBack 0 dirtyPage 0 (some 0) pc lanes).2 = true ∧
      (flushToPeer.writeBack 0 dirtyPage 0 (some 0) pc lanes).1.unacked 0 = true := by
  have hready := flushToPeer_ready
  split at hready
  next t ht =>
    obtain ⟨hawake, hasked, hhome, hbegin, hopen, hreach, hteam, hmask⟩ := of_decide_eq_true hready
    rw [State.writeBack_done (some 0) pc lanes (k := 0) (r := dirtyPage) rfl hawake ht hasked hhome hbegin hopen]
    refine ⟨rfl, (State.unacked_of_requests ?_ 0).trans (State.sendDirty_unacked (r := dirtyPage) (k := 0) hteam (by decide) (by decide) hreach ?_)⟩
    · exact (State.modTeam_requests ..).trans (State.store_requests ..)
    · exact fun h => absurd (hmask.symm.trans h) (by decide)
  next => cases hready

theorem flushToPeer_regions : decide (flushToPeer.regions 0 = [dirtyPage] ∧ flushToPeer.region 0 dirtyPage.id = some dirtyPage) = true := by
  decide +kernel

theorem flushToPeer_flush (pc : Word) (lanes : BitVec 64) :
    flushToPeer.flushTeam 0 (some 0) pc lanes = flushToPeer.writeBack 0 dirtyPage 0 (some 0) pc lanes := by
  obtain ⟨hregions, hregion⟩ := of_decide_eq_true flushToPeer_regions
  unfold State.flushTeam
  rw [hregions, State.writeBackAll, show dirtyPage.slots.length = 1 from rfl, State.writeBackRegion, hregion]
  simp only [State.writeBackRegion, State.writeBackAll, Bool.and_true]

/-- So the stores of a lane that nothing of is logged are not done at SYSTEM. -/
theorem flushToPeer_undone {c : Ctx} (hc : c.core = 0) (hg : c.gi = 0) (hlog : flushToPeer.logged 0 0 0 = false) :
    (flushToPeer.storesDone c 0 .system).2 = false := by
  obtain ⟨hok, hout⟩ := flushToPeer_writeBack c.place.pc (BitVec.ofNat 64 (2 ^ 0))
  unfold State.storesDone
  rw [hc, hg, hlog, if_neg (by decide), if_neg (by decide), flushToPeer_flush]
  dsimp only
  rw [hok, hout]
  rfl

/-- A lane that was written is what was written. -/
theorem State.modLane_laneAt {s : State} {core gi n : Nat} {l z : Lane}
    (h : (s.modLane core gi n fun _ => l).laneAt core gi n = some z) : z = l := by
  obtain ⟨g, hg, hz⟩ := State.laneAt_eq_some.1 h
  rw [State.modLane, State.group_modGroup, if_pos ⟨rfl, rfl⟩] at hg
  obtain ⟨g0, -, rfl⟩ := Option.map_eq_some_iff.1 hg
  simp only [Group.modLane, getElem?_modifyNth, if_true, Option.map_eq_some_iff] at hz
  obtain ⟨-, -, rfl⟩ := hz
  rfl

/-- A group that stalls on the broadcast path keeps its lanes. -/
theorem State.stall_laneAt {s : State} {c : Ctx} (h : c.alone = false) (n : Nat) : c.laneIn (s.stall c) n = c.laneIn s n := by
  have hstall : ∀ u : State, ({ u with issue := none } : State).laneAt c.core c.gi n = u.laneAt c.core c.gi n := fun _ => rfl
  unfold Ctx.laneIn State.stall
  simp only [h, Bool.false_eq_true, if_false]
  rw [hstall]
  unfold State.laneAt
  rw [State.group_modGroup, if_pos ⟨rfl, rfl⟩]
  cases s.group c.core c.gi <;> rfl

/-- A unit of one lane that stays waits to be issued again. -/
theorem memUnit_stays {s : State} {c : Ctx} {i : Instr} {n : Nat} {l : Lane} {body : Ctx → State → Nat → Lane → State × LaneEnd}
    (hex : Executes s c i n l) (hlanes : c.lanes = [n]) (hstay : (body c s n (l.started i c)).2 = .stay) :
    memUnit i s body =
      .next (((body c s n (l.started i c)).1.modLane c.core c.gi n fun _ => ({ l with wait := .none } : Lane)).stall c) := by
  have hl : c.laneIn s n = some l := by
    unfold Ctx.laneIn State.laneAt
    rw [context_group _ _ hex.inHand]
    exact hex.lane
  unfold memUnit
  rw [hex.inHand]
  dsimp only
  rw [hlanes, List.foldl_cons, List.foldl_nil, memLane_passes hl hex.passes]
  generalize body c s n (l.started i c) = r at *
  obtain ⟨s1, e⟩ := r
  obtain rfl : e = .stay := hstay
  simp [Lane.ended]

/-- The only lane of the unit stays at it. -/
theorem flushToPeer_stays {c : Ctx} {l : Lane} (hc : c.core = 0) (hg : c.gi = 0) (hlanes : c.lanes = [0]) (halone : c.alone = false)
    (hex : Executes flushToPeer c fenceSystem 0 l) (hlog : flushToPeer.logged 0 0 0 = false) :
    ∃ t, exec fenceSystem flushToPeer = .next t ∧ ∀ z, c.laneIn t 0 = some z → z.pc = l.pc := by
  have hundone := flushToPeer_undone hc hg hlog
  refine ⟨_, (memUnit_stays hex hlanes ?_ : execFence ⟨.system⟩ flushToPeer = _), fun z hz => ?_⟩
  · dsimp only
    generalize flushToPeer.storesDone c 0 .system = r at *
    obtain ⟨s1, ok⟩ := r
    obtain rfl : ok = false := hundone
    rfl
  · rw [State.stall_laneAt halone] at hz
    rw [State.modLane_laneAt hz]

/-- Refutes O31: in `flushToPeer` the write-back that FENCE begins is done, and yet the lane stays. -/
theorem not_fences : ¬ Obligations.Fences := by
  rintro ⟨-, h, -⟩
  have hfits := flushToPeer_fits
  split at hfits
  next c hc =>
    obtain ⟨hcore, hgi, hlanes, hwords, hpc, halone, hrvz, hbar, hpass, hl, hlog, htrig, hregions⟩ := of_decide_eq_true hfits
    obtain ⟨l, hlane, hpass⟩ := Option.map_eq_some_iff.1 hpass
    rw [hlane, Option.map_some, Option.some.injEq, Prod.mk.injEq, Prod.mk.injEq] at hl
    obtain ⟨hlpc, hypc, hexited⟩ := hl
    have hex : Executes flushToPeer c fenceSystem 0 l :=
      ⟨⟨hc, by rw [hlanes]; decide, hrvz, hbar⟩, by rw [hlanes]; decide, hlane, hpass⟩
    obtain ⟨hregs, hregion⟩ := of_decide_eq_true flushToPeer_regions
    have hone : c.OneDirty flushToPeer dirtyPage 0 := by
      refine ⟨hcore ▸ hregion, by rw [hregions]; decide, by decide, rfl, fun q hq j hj => ?_⟩
      rw [hregions, List.mem_singleton] at hq
      subst hq
      obtain ⟨j, rfl⟩ := Nat.exists_eq_succ_of_ne_zero (hj.resolve_left fun h => h rfl)
      exact fun h => nomatch h
    obtain ⟨t, ht, -, hgone, -⟩ := h ⟨.system⟩ flushToPeer c 0 l dirtyPage 0 fenceSystem (.inl rfl) hex hlanes halone
      (by rw [hcore, hgi]; exact hlog) (by decide) ⟨htrig, 0, l, hlane, hexited⟩ hone fun _ => ⟨by decide, by rw [hcore]; decide +kernel⟩
    rw [hcore, hgi] at hgone
    have hlane := ((hgone (flushToPeer_writeBack ..).1).1 rfl).2
    obtain ⟨u, hu, hstay⟩ := flushToPeer_stays hcore hgi hlanes halone hex hlog
    obtain rfl := Host.Outcome.next.inj (hu.symm.trans ht)
    have hstay := hstay _ hlane
    rw [show ((l.started fenceSystem c).past c).pc = (l.started fenceSystem c).pc + BitVec.ofNat 32 c.words from rfl, hypc, hwords, hlpc] at hstay
    exact absurd hstay (by decide)
  next => cases hfits

end Sys2Proof.Machine
end

section
/-!
PROOF. QPOP (spec/14_cluster_instructions.md R260, R261, R275). The statement lets other lanes wait at an empty queue and does not exclude the lane itself.
Where the task that the lane gives up is the last of an AUTOCLOSE queue, the queue's close makes the waiting lane's QPOP fail, and the one in hand fails too.
-/
namespace Sys2Proof.Machine

-- The kernel evaluations of this file run one after another: side by side they take the check's memory.
set_option Elab.async false

/-- A queue view in vault 0, of 2 entries. -/
def queueView : View :=
  { View.zero with
    ext := #v[2, 0, 0, 0, 0]
    flags := BitVec.ofNat 64 (spVAULT + 1 * 2 ^ 3 + tyQUEUE * 2 ^ 6 + 3 * 2 ^ 16 + 2 ^ 63) }

/-- Its record: an empty AUTOCLOSE queue with one task left, at which lane 0 of group 0 of core 0 waits. -/
def lastTask : QRec :=
  { no := 0, vault := 0, base := 0, cap := 2, head := 0, tail := 0, live := 1, parked := 0, parkn := 0, closed := false, auto := true
    error := false, pfree := 0, waiters := [⟨0, 0, 0, 0, 1, 0⟩], users := [0], part := 0 }

/-- A group of 8 threads, each with the last task of that queue; lane 0 has a unit in hand although it waits at the queue. -/
def popsTwice : State :=
  let t := newTeam 0 (Vector.replicate 64 queueView) [] 0 0
  let l : Lane := { Lane.blank with task := ⟨true, 0, 2 ^ 30, List.replicate 8 0, none, false⟩ }
  { State.reset with
    cores := [⟨0, some { t with groups := [{ newGroup 0 0 0 0 with width := 8, nregs := 64, lanes := List.replicate 8 l }] }, [], some 0, false⟩]
    clusters := [⟨0, [lastTask], [], false⟩]
    parts := [newPart ⟨0, 1, [], 0, [], 0, false, 1⟩ 0 0]
    issue := some ⟨0, 0, [0], ⟨false, 0⟩, 1, [], false⟩ }

/-- QPOP into register 4. -/
def qpopTo4 : Instr := .qpop ⟨4, 0⟩

/-- The premises of the statement hold in `popsTwice`, its queue closes, and the lane goes two words on. -/
theorem popsTwice_skips : (match popsTwice.context, exec qpopTo4 popsTwice with
    | some c, .next t =>
      let v := c.view 0
      decide (c.lanes = [0] ∧ c.words = 1 ∧ c.g.log = [] ∧ c.g.rvz = none ∧ c.g.atNoBarrier = true ∧
        (c.g.lanes[0]?.map fun l => (({ l with wait := .none } : Lane).begin_ qpopTo4 c).2) = some none ∧
        (c.g.lanes[0]?.map fun l => ((l.started qpopTo4 c).pc, l.task.hold, l.task.home)) = some (0, true, 2 ^ 30) ∧
        (v.queueOk c.core = true ∧ (popsTwice.cluster (clusterOfCore c.core)).frozen = false ∧
          ((popsTwice.cluster (clusterOfCore c.core)).recs.find? fun q => q.vault == dieOfCore c.core * 96 + bvFld v.base 32 7 && q.base == v.offset) =
            some lastTask ∧
          popsTwice.qrec (clusterOfCore c.core) 0 = some lastTask ∧ lastTask.cap = v.extN 0 ∧ popsTwice.firewall c.t.part (lastTask.at 0) = true) ∧
        popsTwice.recordAt (2 ^ 30) = some lastTask ∧ clusterAt (2 ^ 30) = clusterOfCore c.core ∧
        (c.laneIn t 0).map (·.pc) = some 2)
    | _, _ => false) = true := by decide +kernel

/-- Refutes O38: a lane that waits at its queue already is sent on twice where its QPOP gives up the queue's last task. -/
theorem not_taskQueues : ¬ Obligations.TaskQueues := by
  rintro ⟨h, -⟩
  have hskips := popsTwice_skips
  split at hskips
  next c t hc ht =>
    obtain ⟨hlanes, hwords, hlog, hrvz, hbar, hpass, hl, ⟨hview, hawake, hfound, hnumber, hsize, hwall⟩, hrecord, hcluster, hpc⟩ :=
      of_decide_eq_true hskips
    obtain ⟨l, hlane, hpass⟩ := Option.map_eq_some_iff.1 hpass
    rw [hlane, Option.map_some, Option.some.injEq, Prod.mk.injEq, Prod.mk.injEq] at hl
    obtain ⟨hlpc, hhold, hhome⟩ := hl
    have hex : Executes popsTwice c qpopTo4 0 l :=
      ⟨⟨hc, by rw [hlanes]; decide, hrvz, hbar⟩, by rw [hlanes]; decide, hlane, hpass⟩
    obtain ⟨u, z, q, hu, hz, -, -, -, -, -, -, hclosed⟩ := h ⟨4, 0⟩ popsTwice c 0 l lastTask hex hlanes hlog
      ⟨hview, hawake, hfound, hnumber, hsize, rfl, hwall⟩ (.inr rfl) fun _ => by rw [hhome]; exact ⟨hrecord, hcluster⟩
    obtain rfl := Host.Outcome.next.inj (hu.symm.trans ht)
    have hcloses : lastTask.closed = true ∨ l.task.hold = true ∧ lastTask.auto = true ∧
        (if l.task.hold then lastTask.live - 1 else lastTask.live) = 0 := .inr ⟨hhold, rfl, by rw [hhold]; decide⟩
    obtain ⟨-, hgone, -⟩ := hclosed hcloses
    rw [hz, Option.map_some, Option.some.injEq] at hpc
    rw [hpc, show (l.started (.qpop ⟨4, 0⟩) c).pc = 0 from hlpc, hwords] at hgone
    exact absurd hgone (by decide)
  next => cases hskips

end Sys2Proof.Machine
end

section
/-!
PROOF. The scratchpad image (spec/17_package.md R324). The statement gives each page run of a granule by its own translation and does not keep the second run's
source apart from the first run's destination: where a cached translation names the core's own scratchpad, the second run copies what the first has left there.
-/
namespace Sys2Proof.Machine

-- The kernel evaluations of this file run one after another: side by side they take the check's memory.
set_option Elab.async false

/-- A record whose image is four units from 64 bytes below the end of page 0. -/
def imageRecord : LaunchBytes := BitVec.ofNat 1024 ((4 * 2 ^ 48 + 65472) * 2 ^ (8 * 0x58) + 1)

/-- The launch of that record. -/
def imageLaunch : Launch :=
  ⟨imageRecord, .active, Vector.replicate 64 View.zero, [], [], [], [], [0], [], false, false⟩

/-- Team 0 of that launch on core 0, its image to come: page 0's last bytes stand at 2^17, where memory has a byte 1, and page 1 at the
scratchpad's start, which is zero. -/
def imageOverItself : State :=
  { State.reset with
    mem := [(2 ^ 17, 1)]
    cores := [⟨0, some { newTeam imageRecord (Vector.replicate 64 View.zero) [] 0 0 with groups := [] }, [], some 0, false⟩]
    parts := [{ newPart ⟨0, 1, [], 0, [], 0, false, 1⟩ 0 0 with
      launches := [imageLaunch]
      tlb := [⟨0, 2 ^ 17 - 65472, 7, 7, false⟩, ⟨1, 0, 7, 7, false⟩] }] }

/-- Where the two pages stand. -/
def imagePlace (va : Nat) : Nat := if va = 65472 then 2 ^ 17 else 0

/-- The premises of the statement hold in `imageOverItself`, and the copy leaves the byte 1 where the second run begins, whose source was zero. -/
theorem imageOverItself_copies : (match imageOverItself.team 0, imageOverItself.part 0, exec (.scratchpadImageCopy 0) imageOverItself with
    | some u, some p, .next t =>
      decide (u.phase = .image 0 ∧ u.part = 0 ∧ p.halted = false ∧ imageOverItself.awaits 0 (.image 0) = false ∧
        imageOverItself.recordOf u = imageRecord ∧ (imageOverItself.engine 0 0).frozen = false ∧
        (u.views[0].valid = false) ∧
        translate imageOverItself p false 65472 1 = .ok (2 ^ 17) 7 7 false ∧ translate imageOverItself p false 65536 1 = .ok 0 7 7 false ∧
        imageOverItself.mayBeginAll (2 ^ 17) 64 = true ∧ imageOverItself.mayBeginAll 0 192 = true ∧
        imageOverItself.mem.get 0 = 0 ∧ t.mem.get 64 = 1)
    | _, _, _ => false) = true := by decide +kernel

/-- The fields of the record that the copy reads. -/
theorem imageRecord_fields : recSplen imageRecord = 4 ∧ recSpimg imageRecord = 65472 ∧ recQueue imageRecord = 0 := by decide +kernel

/-- Refutes O45: where a granule's second run is read from the first run's destination, it copies the first run's bytes. -/
theorem not_launches : ¬ Obligations.Launches := by
  rintro ⟨-, -, -, h, -⟩
  obtain ⟨hlen, hfrom, hqueue⟩ := imageRecord_fields
  have hcopy := imageOverItself_copies
  split at hcopy
  next u p t hu hp ht =>
    obtain ⟨hphase, hpart, hhalt, hawaits, hrecord, hengine, hview, hfirst, hsecond, hbegin1, hbegin2, hzero, hone⟩ :=
      of_decide_eq_true hcopy
    have hplain : imageOverItself.Plain := ⟨by decide +kernel, rfl⟩
    have himage := h imageOverItself 0 0 imagePlace u p hu hphase (by rw [hpart]; exact hp) hhalt (by rw [hpart]; exact hawaits) hplain (by decide)
    simp only [hrecord, hlen, hfrom, hqueue] at himage
    obtain ⟨t', v, ht', -, -, hmem⟩ := himage (by
      intro x hx
      have hx : x = (65472, 64) ∨ x = (65536, 192) := by simpa using hx
      obtain rfl | rfl := hx
      · exact ⟨⟨7, 7, false, hfirst⟩, hbegin1⟩
      · exact ⟨⟨7, 7, false, hsecond⟩, hbegin2⟩) hengine hview (by decide)
    obtain rfl := Host.Outcome.next.inj (ht'.symm.trans ht)
    have hbyte := hmem (65536, 192) (by simp) 0 (by decide)
    have hbyte : t'.mem.get 64 = imageOverItself.mem.get 0 := hbyte
    rw [hone, hzero] at hbyte
    exact absurd hbyte (by decide)
  next => cases hcopy

end Sys2Proof.Machine
end

section
/-!
PROOF. The end of a sweep's period (spec/17_package.md R337, R338). The statement wants an INTEGRITY record at every mismatch; the model posts one where the
partition had not failed before, so a partition that has failed once and is not frozen any more is frozen again without one.
-/
namespace Sys2Proof.Machine

-- The kernel evaluations of this file run one after another: side by side they take the check's memory.
set_option Elab.async false

/-- A sealed partition without ranges whose accumulators met an uncorrectable error; it has failed before and is not frozen. -/
def failedBefore : Part :=
  { newPart ⟨0, 1, [], 0, [], 0, true, 1⟩ 0 0 with
    integ := some ⟨0, 0, Vector.replicate 2 0, Vector.replicate 2 0, Vector.replicate 2 0, [], [], 0, true⟩
    integFail := true }

/-- The machine with that partition, at the end of its period. -/
def periodEnds : State := { State.reset with parts := [failedBefore], time := 1000000 }

/-- Its period ends without a record. -/
theorem periodEnds_silent : (match exec (.integrityPeriodEnd 0) periodEnds with
    | .next t => t.mgmt
    | _ => [Record.ofKind 0]) = [] := by decide +kernel

/-- Refutes O44: a partition that has failed before is frozen again without an INTEGRITY record. -/
theorem not_integrityAndPower : ¬ Obligations.IntegrityAndPower := by
  rintro ⟨-, h, -⟩
  obtain ⟨t, q, ht, -, -, -, hbroken, -⟩ := h periodEnds 0 failedBefore
    ⟨0, 0, Vector.replicate 2 0, Vector.replicate 2 0, Vector.replicate 2 0, [], [], 0, true⟩ rfl rfl rfl (by decide +kernel) (by decide +kernel)
  obtain ⟨-, -, r, hr, -⟩ := hbroken (.inl rfl)
  have hnone := periodEnds_silent
  rw [ht] at hnone
  simp only at hnone
  rw [hnone] at hr
  exact absurd hr List.not_mem_nil

end Sys2Proof.Machine
end

section
/-!
PROOF. Two partitions with one number. The statements name a partition by its number and do not require that no other has it. The integrity unit's work for a
write of a sealed line (spec/17_package.md R336) replaces every partition of that number with the one whose line it is: after a store to such a line, the other's
registers and launches are gone.
-/
namespace Sys2Proof.Machine

-- The kernel evaluations of this file run one after another: side by side they take the check's memory.
set_option Elab.async false

/-- A DRAM range that maps the first 2^16 pages of tier 1, with every right, sealed. -/
def sealedRange : RangeEntry := BitVec.ofNat 128 (2 ^ 124 + 7 * 2 ^ 121 + 2 ^ 120 + 0xFFFF * 2 ^ 64)

/-- Page tables at the start of that range: the root's entry 0 names a table, whose entry 0 maps 2^27 bytes with every right. -/
def flatTables : Memory := [(tier1At 0, 0x01), (tier1At 1, 0x10), (tier1At 0x1000, 0x1F)]

/-- Launch 0 of partition 0, of one team. -/
def onlyLaunch : Launch := ⟨0, .active, Vector.replicate 64 View.zero, [], [], [], [], [0], [], false, false⟩

/-- Partition 0, with its launch, its memory mapped by that range. -/
def firstOfTwo : Part :=
  { newPart ⟨0, 1, [], 0, [], 0, false, 1⟩ 0 0 with
    ranges := [sealedRange]
    launches := [onlyLaunch] }

/-- Another of the same number, sealed, without a launch; an accumulator of it met an error. -/
def secondOfTwo : Part :=
  { newPart ⟨0, 0, [], 0, [], 0, true, 1⟩ 0 0 with
    ranges := [sealedRange]
    integ := some ⟨0, 0, Vector.replicate 2 0, Vector.replicate 2 0, Vector.replicate 2 0, [], [], 0, true⟩ }

/-- The machine with both, and a team of the launch with one group of 8 threads. -/
def twoOfOneNumber : State :=
  let t := newTeam 0 (Vector.replicate 64 View.zero) [] 0 0
  { State.reset with
    mem := flatTables
    cores := [⟨0, some { t with groups := [{ newGroup 0 0 0 0 with width := 8, nregs := 64, lanes := List.replicate 8 Lane.blank }] }, [], some 0, false⟩]
    parts := [firstOfTwo, secondOfTwo]
    issue := some ⟨0, 0, [0, 1, 2, 3, 4, 5, 6, 7], ⟨false, 0⟩, 1, [], false⟩ }

/-- The premises of the statement about TRIG hold in `twoOfOneNumber`, and the launch of the team is gone after it. -/
theorem twoOfOneNumber_trig : (match twoOfOneNumber.context, exec .trig twoOfOneNumber with
    | some c, .next t =>
      decide (c.lanes = [0, 1, 2, 3, 4, 5, 6, 7] ∧ c.g.rvz = none ∧ c.g.atNoBarrier = true ∧
        (∀ n ∈ c.lanes, (({ c.g.lane n with wait := .none } : Lane).begin_ .trig c).2 = none) ∧ c.full = true ∧ c.g.triggered = false ∧
        c.t.regions = [] ∧ twoOfOneNumber.launchOf c.t = some onlyLaunch ∧ c.g.lanes[0]?.map (·.exited) = some false ∧ c.g.ended = false ∧
        (∀ h ∈ c.t.groups, h.log = []) ∧ c.t.groups.length = 1 ∧ c.gi = 0 ∧ c.t.inq = [] ∧ c.t.outq = [] ∧ t.launchOf c.t = none)
    | _, _ => false) = true := by decide +kernel

/-- Refutes O34: the TRIG bit's write to a sealed line takes the launch away from its partition, whose number another has too. -/
theorem not_teamQueries : ¬ Obligations.TeamQueries := by
  rintro ⟨h, -⟩
  have htrig := twoOfOneNumber_trig
  split at htrig
  next c t hc ht =>
    obtain ⟨hlanes, hrvz, hbar, hpass, hfull, huntrig, hregions, hlaunch, halive, hend, hlog, hone, hgi, hinq, houtq, hgone⟩ :=
      of_decide_eq_true htrig
    have hex : ExecutesOnce twoOfOneNumber c .trig :=
      ⟨⟨hc, by rw [hlanes]; decide, hrvz, hbar⟩, hpass, fun _ => hfull, fun r hr => by cases hr⟩
    obtain ⟨t', g, ht', -, -, -, -, hbit⟩ := h twoOfOneNumber c hex huntrig hregions
    obtain rfl := Host.Outcome.next.inj (ht'.symm.trans ht)
    obtain ⟨l, hl, hlive⟩ := Option.map_eq_some_iff.1 halive
    have hothers : ∀ (k : Nat) (h : Group), c.t.groups[k]? = some h → k ≠ c.gi → h.triggered = true := fun k h hk hne => by
      have hlt := (List.getElem?_eq_some_iff.1 hk).1
      omega
    obtain ⟨l', hl', -⟩ := hbit _ hlaunch ⟨huntrig, 0, l, hl, hlive⟩ hend hlog hothers hinq houtq (by decide)
    rw [hgone] at hl'
    cases hl'
  next => cases htrig

/-! ## KILL (R317) and FQCONS (R317) -/

/-- The premises of the statement about KILL hold in `twoOfOneNumber`, and the launch is gone after it. -/
theorem twoOfOneNumber_kill : (match twoOfOneNumber.part 0, exec (.kill 0 0) twoOfOneNumber with
    | some p, .next t =>
      decide (p.portFrozen = false ∧ twoOfOneNumber.tlpLost p = false ∧ p.launch 0 = some onlyLaunch ∧ p.saved = [] ∧
        (t.part 0).all fun q => (q.launch 0).isNone)
    | _, _ => false) = true := by decide +kernel

/-- Refutes O46: the record of the launch's end is written to a sealed line and takes the launch away from its partition. -/
theorem not_preemptionAndKill : ¬ Obligations.PreemptionAndKill := by
  rintro ⟨-, -, -, -, h⟩
  have hkill := twoOfOneNumber_kill
  split at hkill
  next p t hp ht =>
    obtain ⟨hopen, hkept, hlaunch, hsaved, hgone⟩ := of_decide_eq_true hkill
    obtain ⟨t', q, m, ht', hq, hm, -⟩ := (h twoOfOneNumber 0 0 p ⟨hp, hopen, hkept⟩).2.2 (Nat.zero_le _) _ hlaunch rfl hsaved
    obtain rfl := Host.Outcome.next.inj (ht'.symm.trans ht)
    have hq : t'.part 0 = some q := hq
    have hm : q.launch 0 = some m := hm
    rw [hq, Option.all_some, hm] at hgone
    cases hgone
  next => cases hkill

/-- The two partitions, the first with a held record, the second further on in its queue. -/
def heldByFirst : State :=
  { State.reset with
    mem := flatTables
    parts := [{ firstOfTwo with held := [Record.ofKind 0] }, { secondOfTwo with fqprod := 5 }] }

/-- The premises of the statement about FQCONS hold in `heldByFirst`, and FQPROD is the other partition's after it. -/
theorem heldByFirst_fqcons : (match heldByFirst.part 0, exec (.fqconsWrite 0 0) heldByFirst with
    | some p, .next t =>
      decide (p.portFrozen = false ∧ heldByFirst.tlpLost p = false ∧ p.held = [Record.ofKind 0] ∧ p.fqprod = 0 ∧
        ({ p with fqcons := BitVec.ofNat 32 0 } : Part).queueFull = false ∧ (t.part 0).map (·.fqprod) = some 6)
    | _, _ => false) = true := by decide +kernel

/-- Refutes O47: the held record is written to a sealed line and gives the partition the other's FQPROD. -/
theorem not_driverActions : ¬ Obligations.DriverActions := by
  rintro ⟨-, -, -, -, -, -, h⟩
  have hfqcons := heldByFirst_fqcons
  split at hfqcons
  next p t hp ht =>
    obtain ⟨hopen, hkept, hheld, hprod, hroom, hafter⟩ := of_decide_eq_true hfqcons
    obtain ⟨t', q, ht', hq, -, hdrained⟩ := h heldByFirst 0 0 p ⟨hp, hopen, hkept⟩
    obtain rfl := Host.Outcome.next.inj (ht'.symm.trans ht)
    obtain ⟨-, hnext, -⟩ := hdrained _ hheld hroom
    have hq : t'.part 0 = some q := hq
    rw [hq, Option.map_some, Option.some.injEq, hnext, hprod] at hafter
    exact absurd hafter (by decide)
  next => cases hfqcons

/-! ## TLPs outside the stream (R363) and the verdict on a launch packet (R374) -/

/-- The two partitions, the first one's TDI locked without a key set in force. -/
def lockedFirst : State :=
  { State.reset with
    mem := flatTables
    parts := [{ firstOfTwo with tdisp := .locked }, secondOfTwo] }

/-- A KILL in clear is lost there, and the launch is gone after it. -/
theorem lockedFirst_loses : (match lockedFirst.part 0, exec (.kill 0 0) lockedFirst with
    | some p, .next t =>
      decide (p.portFrozen = false ∧ lockedFirst.tlpLost p = true ∧ p.launches = [onlyLaunch] ∧ (t.part 0).map (·.launches) = some [])
    | _, _ => false) = true := by decide +kernel

/-- Refutes O49: the FROZEN record of a lost TLP is written to a sealed line and takes the launch away from its partition. -/
theorem not_hostAccess : ¬ Obligations.HostAccess := by
  rintro ⟨-, -, h, -⟩
  have hlost := lockedFirst_loses
  split at hlost
  next p t hp ht =>
    obtain ⟨hopen, hlost, hlaunches, hgone⟩ := of_decide_eq_true hlost
    obtain ⟨t', q, ht', hq, -, hkept, -⟩ := ((h lockedFirst 0 p hp).2.2 (.kill 0 0) (.inr (.inr (.inr (.inl ⟨0, rfl⟩))))).2 hopen hlost
    obtain rfl := Host.Outcome.next.inj (ht'.symm.trans ht)
    have hq : t'.part 0 = some q := hq
    rw [hq, Option.map_some, Option.some.injEq, hkept, hlaunches] at hgone
    cases hgone
  next => cases hlost

/-- A record whose view table lies beyond what the tables map; it has no teams. -/
def unmappedRecord : LaunchBytes := BitVec.ofNat 1024 (2 ^ 27 * 2 ^ (8 * 0x20))

/-- The launch packet that brought it, from package 0. -/
def launchFlit : Flit := ⟨0, 0, 0, 0, 0, false, false, 0⟩

/-- The two partitions, that record committed to the first; the stream to the packet's sender stands on a port that does not carry it. -/
def committedToFirst : State :=
  { State.reset with
    mem := flatTables
    phase := .running
    ready1 := BitVec.allOnes 64
    ports := [{ Port.down with up := true }]
    streams := [⟨false, 0, 0, 1, 0, 0, none, none, false⟩]
    parts := [{ firstOfTwo with window := [unmappedRecord], verdicts := [(0, launchFlit)] }, secondOfTwo] }

/-- The record is copied there and rejected, and no verdict goes back. -/
theorem committedToFirst_silent : (match committedToFirst.part 0, exec (.recordCopy 0) committedToFirst with
    | some p, .next t =>
      decide (p.window = [unmappedRecord] ∧ p.halted = false ∧ committedToFirst.tablesServe p unmappedRecord = true ∧ p.kills = [] ∧
        p.verdicts = [(0, launchFlit)] ∧ committedToFirst.reach 0 launchFlit.spkg.toNat = .wait ∧ t.replies = [])
    | _, _ => false) = true := by decide +kernel

/-- Refutes O51: the LAUNCH REJECTED record is written to a sealed line and takes away the verdict that the sender waits for. -/
theorem not_flits : ¬ Obligations.Flits := by
  rintro ⟨-, -, -, -, -, h, -⟩
  have hsilent := committedToFirst_silent
  split at hsilent
  next p t hp ht =>
    obtain ⟨hwindow, hhalt, hserve, hkills, hverdicts, hreach, hnone⟩ := of_decide_eq_true hsilent
    have hseq : recSeq unmappedRecord = 0 := by decide +kernel
    obtain ⟨t', q, ht', -, -, -, hwait⟩ := h committedToFirst 0 p unmappedRecord [] launchFlit hp hwindow hhalt hserve
      (by rw [hkills]; exact List.not_mem_nil) (by rw [hseq]; decide) (by rw [hverdicts, hseq]; rfl)
    obtain rfl := Host.Outcome.next.inj (ht'.symm.trans ht)
    obtain ⟨-, hreplies⟩ := hwait hreach
    rw [hnone] at hreplies
    exact absurd hreplies (by simp)
  next => cases hsilent

end Sys2Proof.Machine
end

section
/-!
PROOF. Beacon links (spec/19_fabric.md R368, R371, R376). What settling the streams of a machine may change is its outbox, its streams and the replies that wait
(`Speaks`); a request given up writes at its addresses only.
-/
namespace Sys2Proof.Machine

-- The proofs of this file run one after another: side by side they take the check's memory.
set_option Elab.async false

/-! ## Writing one byte -/

/-- A byte written leaves the others. -/
theorem Memory.get_put_of_ne (m : Memory) {a x : Nat} (b : Byte) (hm : m.wf = true) (hx : x ≠ a) : (m.put a b).get x = m.get x := by
  have hsorted := ((Memory.wf_iff m).1 hm).1
  clear hm
  induction m with
  | nil =>
    simp only [Memory.put]
    split
    · rfl
    · simp [Memory.get, Ne.symm hx]
  | cons c m ih =>
    obtain ⟨y, d⟩ := c
    simp only [List.map_cons, List.pairwise_cons] at hsorted
    obtain ⟨hfirst, hrest⟩ := hsorted
    have hbelow : x ≤ y → Memory.get m x = 0 := fun hle => Memory.get_of_lt m x fun c hc => by
      have := hfirst c.1 (List.mem_map_of_mem hc)
      omega
    simp only [Memory.put]
    split
    next hlt =>
      split
      · rfl
      · simp only [Memory.get]
        grind
    next =>
      split
      next heq =>
        have : a = y := by simpa using heq
        subst this
        split
        · simp only [Memory.get]
          grind
        · simp only [Memory.get]
          grind
      next =>
        simp only [Memory.get, ih hrest]

/-- Bytes written one by one leave the other addresses. -/
theorem Memory.get_foldl_put (xs : List (Nat × Byte)) (m : Memory) {x : Nat} (hm : m.wf = true) (hx : ∀ c ∈ xs, x ≠ c.1) :
    (xs.foldl (fun (m : Memory) (c : Nat × Byte) => m.put c.1 c.2) m).get x = m.get x := by
  induction xs generalizing m with
  | nil => rfl
  | cons c xs ih =>
    rw [List.foldl_cons, ih _ (Memory.wf_put _ _ _ hm) fun d hd => hx d (List.mem_cons_of_mem _ hd)]
    exact Memory.get_put_of_ne _ _ hm (hx c (List.mem_cons_self ..))

/-! ## Settling the streams -/

/-- From `s` to `t` only the outbox, the streams and the waiting replies changed. -/
def Speaks (s t : State) : Prop := ∃ o xs rs, t = { s with outbox := o, streams := xs, replies := rs }

theorem Speaks.trans {s t u : State} (h : Speaks s t) (h' : Speaks t u) : Speaks s u := by
  obtain ⟨_, _, _, rfl⟩ := h
  obtain ⟨_, _, _, rfl⟩ := h'
  exact ⟨_, _, _, rfl⟩

theorem Speaks.sendOn (s : State) (part pkg port : Nat) (x : OutFlit) : Speaks s (s.sendOn part pkg port x) := by
  unfold State.sendOn State.sent
  dsimp only
  split <;> exact ⟨_, _, _, rfl⟩

theorem Speaks.answer (s : State) (r : Reply) : Speaks s (s.answer r) := by
  unfold State.answer
  split
  · exact .sendOn ..
  · exact ⟨_, _, _, rfl⟩
  · exact ⟨_, _, _, rfl⟩

theorem Speaks.flushReplies (s : State) : Speaks s s.flushReplies := by
  unfold State.flushReplies
  have fold (rs : List Reply) (t : State) (h : Speaks s t) : Speaks s (rs.foldl (fun (t : State) r => t.answer r) t) := by
    induction rs generalizing t with
    | nil => exact h
    | cons r rs ih => exact ih _ (h.trans (.answer t r))
  exact fold _ _ ⟨_, _, _, rfl⟩

theorem Speaks.settleStreams (s : State) : Speaks s s.settleStreams :=
  .trans ⟨_, _, _, rfl⟩ (.flushReplies _)

section
variable {s t : State} (h : Speaks s t)
include h

theorem Speaks.ports : t.ports = s.ports := by
  obtain ⟨_, _, _, rfl⟩ := h
  rfl

theorem Speaks.mem : t.mem = s.mem := by
  obtain ⟨_, _, _, rfl⟩ := h
  rfl

theorem Speaks.ready0 : t.ready0 = s.ready0 := by
  obtain ⟨_, _, _, rfl⟩ := h
  rfl

theorem Speaks.mgmt : t.mgmt = s.mgmt := by
  obtain ⟨_, _, _, rfl⟩ := h
  rfl

theorem Speaks.requests : t.requests = s.requests := by
  obtain ⟨_, _, _, rfl⟩ := h
  rfl

end

/-- With no reply waiting, none is sent. -/
theorem State.flushReplies_nil (s : State) (h : s.replies = []) : s.flushReplies = s := by
  cases s
  subst h
  rfl

/-! ## Ports -/

theorem modifyNth_eq_set {α : Type} (f : α → α) (l : List α) {i : Nat} {x : α} (h : l[i]? = some x) : modifyNth f i l = l.set i (f x) := by
  refine List.ext_getElem? fun j => ?_
  rw [getElem?_modifyNth, List.getElem?_set]
  split
  next hij =>
    subst hij
    rw [h, if_pos (List.getElem?_eq_some_iff.1 h).1]
    rfl
  next => rfl

/-- A port that is up goes down: its bit, its LINK DOWN record, then what it carried is given up. -/
theorem portDown_eq {s : State} {n : Fin 12} {p : Port} (hp : s.ports[n.val]? = some p) (hup : p.up = true) :
    s.portDown n = (((({ s with
      ports := s.ports.set n.val { p with up := false }
      ready0 := s.ready0 &&& ~~~(BitVec.ofNat 64 (2 ^ (29 + n.val))) } : State).together
        ((Source.port n.val, fun (s : State) => s.postMgmt (Record.ofKind 0x31)) :: (s.requestsOn n.val).map fun r =>
          (Source.cluster (clusterOfCore r.core), fun (s : State) => s.giveUp r))).settleStreams).moved) := by
  unfold State.portDown
  rw [hp]
  simp only [Option.map_some, hup, Option.getD_some, Bool.not_true, Bool.false_eq_true, if_false, State.modPort, modifyNth_eq_set _ _ hp]

/-- The outstanding request of a WRITE given up: the machine without it, other memory as it was. -/
theorem giveUp_write {s : State} {r : Request} {c : Nat} (hr : r.agent = .write c) (hs : s.requests = [r]) (hm : s.mem.wf = true) :
    (s.giveUp r).requests = [] ∧ ∀ a, a ∉ r.addrs → (s.giveUp r).mem.get a = s.mem.get a := by
  unfold State.giveUp
  rw [hr]
  dsimp only [State.forget]
  refine ⟨by simp [hs], fun a ha => Memory.get_foldl_put _ _ hm fun x hx => ?_⟩
  rintro rfl
  exact ha (List.of_mem_zip hx).1

/-! ## A stream moved -/

/-- The stream that is found is found changed after a change of those like it that leaves what finds them. -/
theorem find?_map_if {α : Type} (p : α → Bool) (q : α → Bool) (f : α → α) (l : List α) {x : α} (hq : ∀ y, q y = p y)
    (hf : ∀ y, p (f y) = p y) (h : l.find? p = some x) : (l.map fun y => if q y then f y else y).find? p = some (f x) := by
  induction l with
  | nil => cases h
  | cons y ys ih =>
    simp only [List.map_cons, hq] at ih ⊢
    rw [List.find?_cons] at h ⊢
    cases hy : p y
    · simp only [hy, Bool.false_eq_true, if_false] at h ⊢
      exact ih h
    · simp only [hy, if_true, hf] at h ⊢
      rw [Option.some.injEq] at h
      rw [h]

theorem streamMove_eq {s : State} {part : Fin 96} {pkg : BitVec 16} {x : Stream} {k : Nat} (hx : s.outStream part.val pkg.toNat = some x)
    (hk : s.portFor pkg.toNat = some k) : execStreamMove part pkg s = if x.port == k || s.streamBusy x then .next s else
      .next { s with streams := s.streams.map fun (y : Stream) =>
        if !y.inbound && y.part == part.val && y.pkg == pkg then { y with port := k } else y }.flushReplies.moved := by
  unfold execStreamMove
  rw [hx, hk]

/-- Settles O52: through what settling the streams may change. -/
theorem links : Obligations.Links := by
  refine ⟨fun s n peer p hp => ?_, fun s n p i k hp hup hi hnone => ?_, fun s n p r hp hup hon hs hr hm => ?_, fun s n p hp hlanes => ?_,
    fun s part pkg x k hx hk => ?_⟩
  · refine ⟨_, rfl, ?_, rfl, rfl, ?_⟩
    · exact modifyNth_eq_set _ _ hp
    · cases Config.timeMaster <;> rfl
  · have hdown : ∀ (u : State) (q : Port), u.ports[n.val]? = some q → q.up = true → u.requestsOn n.val = [] →
        ∃ r, (u.portDown n).ports = u.ports.set n.val { q with up := false } ∧ (u.portDown n).mem = u.mem ∧
          (u.portDown n).ready0 = u.ready0 &&& ~~~(BitVec.ofNat 64 (2 ^ (29 + n.val))) ∧ (u.portDown n).mgmt = u.mgmt ++ [r] ∧
          r.kind = 0x31 ∧ r.stamp = u.nextStamp := fun u q hq hqup hnone => by
      rw [portDown_eq hq hqup, hnone]
      exact ⟨{ Record.ofKind 0x31 with stamp := u.nextStamp }, (Speaks.settleStreams _).ports, (Speaks.settleStreams _).mem,
        (Speaks.settleStreams _).ready0, (Speaks.settleStreams _).mgmt, rfl, rfl⟩
    obtain ⟨rfl, rfl⟩ | ⟨rfl, rfl, hfew⟩ := hi
    · obtain ⟨r, h⟩ := hdown s p hp hup hnone
      exact ⟨_, r, rfl, h⟩
    · have hmod : s.modPort n.val (fun p => { p with lanes := p.lanes - 1 }) = { s with ports := s.ports.set n.val { p with lanes := p.lanes - 1 } } := by
        rw [State.modPort, modifyNth_eq_set _ _ hp]
      have hport : (s.ports.set n.val { p with lanes := p.lanes - 1 })[n.val]? = some { p with lanes := p.lanes - 1 } := by
        rw [List.getElem?_set_self (List.getElem?_eq_some_iff.1 hp).1]
      have hsame : ({ s with ports := s.ports.set n.val { p with lanes := p.lanes - 1 } } : State).requestsOn n.val = [] := hnone
      obtain ⟨r, h⟩ := hdown { s with ports := s.ports.set n.val { p with lanes := p.lanes - 1 } } _ hport hup hsame
      simp only [List.set_set] at h
      refine ⟨_, r, ?_, h⟩
      simp only [exec, execLaneFails, hmod, hport, Option.map_some, Option.getD_some, hfew, decide_true, if_true]
  · obtain ⟨c, hr⟩ := hr
    refine ⟨_, rfl, ?_⟩
    rw [portDown_eq hp hup, hon]
    have horder : ¬ (Source.cluster (clusterOfCore r.core)).no < (Source.port n.val).no := by
      simp only [Source.no]
      have := n.isLt
      omega
    simp only [List.map_cons, List.map_nil, State.together, List.foldl_cons, List.foldl_nil, insertEvent, horder, if_false]
    obtain ⟨hgone, hmem⟩ := giveUp_write (s := State.postMgmt { s with
        ports := s.ports.set n.val { p with up := false }
        ready0 := s.ready0 &&& ~~~(BitVec.ofNat 64 (2 ^ (29 + n.val))) } (Record.ofKind 0x31)) hr hs hm
    exact ⟨(Speaks.settleStreams _).requests.trans hgone, fun a ha => (congrArg (Memory.get · a) (Speaks.settleStreams _).mem).trans (hmem a ha)⟩
  · have hmod : s.modPort n.val (fun p => { p with lanes := p.lanes - 1 }) = { s with ports := s.ports.set n.val { p with lanes := p.lanes - 1 } } := by
      rw [State.modPort, modifyNth_eq_set _ _ hp]
    have hport : (s.ports.set n.val { p with lanes := p.lanes - 1 })[n.val]? = some { p with lanes := p.lanes - 1 } := by
      rw [List.getElem?_set_self (List.getElem?_eq_some_iff.1 hp).1]
    have hmany : ¬ p.lanes - 1 < 4 := by omega
    simp only [exec, execLaneFails, hmod, hport, Option.map_some, Option.getD_some, hmany, decide_false, Bool.false_eq_true, if_false]
  · simp only [exec]
    rw [streamMove_eq hx hk]
    refine ⟨fun h => ?_, fun hne hidle hreplies => ?_, fun hne hkey => ?_⟩
    · rw [if_pos (by simpa using h)]
    · rw [if_neg (by simpa [hne] using hidle)]
      refine ⟨_, rfl, (Speaks.flushReplies _).mem, ?_⟩
      rw [State.flushReplies_nil]
      case h => exact hreplies
      exact find?_map_if (fun y : Stream => !y.inbound && y.part == part.val && y.pkg.toNat == pkg.toNat) _ _ _
        (fun y => by simp [Bool.beq_eq_decide_eq, BitVec.toNat_inj]) (fun y => rfl) hx
    · unfold State.reach
      rw [hk, hx]
      dsimp only
      have hopen : (((s.part part.val).map (·.isSealed)).getD false && x.key.isNone) = false := by
        cases hpart : s.part part.val with
        | none => rfl
        | some p =>
          cases hsealed : p.isSealed
          · simp [hsealed]
          · simpa [hsealed] using Option.isSome_iff_ne_none.2 (hkey p hpart hsealed)
      rw [hopen]
      simp [hne]

end Sys2Proof.Machine
end

section
/-!
PROOF. What a code of a float format is (spec/01_numbers.md R14): its sign and its magnitude bits, and the value of a magnitude below infinity as a significand and a
last place.
-/
namespace Sys2Proof

-- The proofs of this file run one after another: side by side they take the check's memory.
set_option Elab.async false

/-! ## Sign and magnitude -/

section
variable (f : Fmt)

theorem Fmt.sgn_pack (neg : Bool) {mag : Nat} (h : mag < 2 ^ f.magBits) : f.sgn (f.pack neg mag) = neg := by
  have hdiv : (b2n neg * 2 ^ f.magBits + mag) / 2 ^ f.magBits = b2n neg := by
    rw [Nat.mul_comm, Nat.mul_add_div (Nat.two_pow_pos _), Nat.div_eq_of_lt h, Nat.add_zero]
  unfold Fmt.sgn bit Fmt.pack
  rw [hdiv]
  cases neg <;> rfl

theorem Fmt.pack_mod (neg : Bool) {mag : Nat} (h : mag < 2 ^ f.magBits) : f.pack neg mag % 2 ^ f.magBits = mag := by
  unfold Fmt.pack
  rw [Nat.mul_comm, Nat.mul_add_mod, Nat.mod_eq_of_lt h]

theorem Fmt.pack_lt (neg : Bool) {mag : Nat} (h : mag < 2 ^ f.magBits) : f.pack neg mag < 2 ^ (f.eb + f.mb + 1) := by
  have hb : b2n neg ≤ 1 := by cases neg <;> decide
  have := Nat.mul_le_mul_right (2 ^ f.magBits) hb
  have hpow : 2 ^ (f.eb + f.mb + 1) = 2 ^ f.magBits * 2 := Nat.pow_succ ..
  unfold Fmt.pack
  omega

/-- A code is its sign and its magnitude bits. -/
theorem Fmt.pack_sgn {x : Nat} (h : x < 2 ^ (f.eb + f.mb + 1)) : f.pack (f.sgn x) (x % 2 ^ f.magBits) = x := by
  have hlt : x / 2 ^ f.magBits < 2 := Nat.div_lt_of_lt_mul ((Nat.pow_succ ..) ▸ h : x < 2 ^ f.magBits * 2)
  have hbit : b2n (f.sgn x) = x / 2 ^ f.magBits := by
    unfold Fmt.sgn bit
    rw [Nat.mod_eq_of_lt hlt]
    obtain h0 | h1 : x / 2 ^ f.magBits = 0 ∨ x / 2 ^ f.magBits = 1 := Nat.le_one_iff_eq_zero_or_eq_one.1 (Nat.lt_succ_iff.1 hlt)
    · rw [h0]; rfl
    · rw [h1]; rfl
  unfold Fmt.pack
  rw [hbit, Nat.mul_comm]
  exact Nat.div_add_mod ..

theorem Fmt.mod_lt (x : Nat) : x % 2 ^ f.magBits < 2 ^ f.magBits := Nat.mod_lt _ (Nat.two_pow_pos _)

/-! ## The parts of a magnitude -/

/-- The significand of a magnitude: its mantissa bits, with the leading bit where it is normal. -/
def Fmt.sig (mag : Nat) : Nat := if mag < 2 ^ f.mb then mag else 2 ^ f.mb + mag % 2 ^ f.mb

/-- The exponent of the last place of a magnitude. -/
def Fmt.ulp (mag : Nat) : Int := if mag < 2 ^ f.mb then f.emin else f.emin + (mag / 2 ^ f.mb : Nat) - 1

theorem Fmt.sig_eq_zero_iff (mag : Nat) : f.sig mag = 0 ↔ mag = 0 := by
  have := Nat.two_pow_pos f.mb
  unfold Fmt.sig
  split <;> omega

/-- The exponent field is all ones from infinity on. -/
theorem Fmt.div_eq_ones_iff {mag : Nat} (h : mag < 2 ^ f.magBits) : mag / 2 ^ f.mb = 2 ^ f.eb - 1 ↔ f.inf ≤ mag := by
  have hlt : mag / 2 ^ f.mb < 2 ^ f.eb := Nat.div_lt_of_lt_mul (by rw [← Nat.pow_add, Nat.add_comm]; exact h)
  have hle : 2 ^ f.eb - 1 ≤ mag / 2 ^ f.mb ↔ f.inf ≤ mag := Nat.le_div_iff_mul_le (Nat.two_pow_pos _)
  omega

/-- The exponent field is zero below the smallest normal magnitude. -/
theorem Fmt.div_eq_zero_iff (mag : Nat) : mag / 2 ^ f.mb = 0 ↔ mag < 2 ^ f.mb := Nat.div_eq_zero_iff_lt (Nat.two_pow_pos _)

theorem Fmt.isSub_eq (x : Nat) : f.isSub x = (decide (x % 2 ^ f.magBits < 2 ^ f.mb) && x % 2 ^ f.magBits != 0) := by
  unfold Fmt.isSub
  by_cases h : x % 2 ^ f.magBits < 2 ^ f.mb
  · simp [(f.div_eq_zero_iff _).2 h, h, Nat.mod_eq_of_lt h]
  · have := mt (f.div_eq_zero_iff _).1 h
    simp [this, h]

/-- What is no special code is the number that its significand names. -/
theorem valOf_finite {x : Nat} (h : match f.top with
    | .ieee => x % 2 ^ f.magBits < f.inf
    | .oneNaN => x % 2 ^ f.magBits ≠ 2 ^ f.magBits - 1
    | .none => True) : valOf f x = .fin (f.sgn x) (f.sig (x % 2 ^ f.magBits)) (f.ulp (x % 2 ^ f.magBits)) := by
  have hparts : (if x % 2 ^ f.magBits / 2 ^ f.mb == 0 then Num.fin (f.sgn x) (x % 2 ^ f.magBits % 2 ^ f.mb) f.emin
      else .fin (f.sgn x) (2 ^ f.mb + x % 2 ^ f.magBits % 2 ^ f.mb) (f.emin + (x % 2 ^ f.magBits / 2 ^ f.mb : Nat) - 1)) =
      .fin (f.sgn x) (f.sig (x % 2 ^ f.magBits)) (f.ulp (x % 2 ^ f.magBits)) := by
    unfold Fmt.sig Fmt.ulp
    by_cases hsub : x % 2 ^ f.magBits < 2 ^ f.mb
    · simp [hsub, (f.div_eq_zero_iff _).2 hsub, Nat.mod_eq_of_lt hsub]
    · have := mt (f.div_eq_zero_iff _).1 hsub
      simp [hsub, this]
  rw [← hparts]
  have hones := f.div_eq_ones_iff (f.mod_lt x)
  unfold valOf
  cases htop : f.top with
  | ieee =>
    rw [htop] at h
    have : x % 2 ^ f.magBits / 2 ^ f.mb ≠ 2 ^ f.eb - 1 := mt hones.1 (Nat.not_le.2 h)
    simp [this]
  | oneNaN =>
    rw [htop] at h
    have : x % 2 ^ f.magBits ≠ 2 ^ f.magBits - 1 := h
    simp [this]
  | none => simp

/-- In a format with infinities a magnitude from infinity on is an infinity or a NaN. -/
theorem valOf_special {x : Nat} (hf : f.top = .ieee) (hm : 0 < f.mb) (h : f.inf ≤ x % 2 ^ f.magBits) :
    valOf f x = if x % 2 ^ f.magBits = f.inf then .inf (f.sgn x) else .nan (!bit x (f.mb - 1)) := by
  have hones := (f.div_eq_ones_iff (f.mod_lt x)).2 h
  have hsplit := Nat.div_add_mod (x % 2 ^ f.magBits) (2 ^ f.mb)
  rw [hones] at hsplit
  have hinf : x % 2 ^ f.magBits % 2 ^ f.mb = 0 ↔ x % 2 ^ f.magBits = f.inf := by
    unfold Fmt.inf
    rw [Nat.mul_comm (2 ^ f.eb - 1)]
    omega
  have hquiet : bit (x % 2 ^ f.magBits % 2 ^ f.mb) (f.mb - 1) = bit x (f.mb - 1) := by
    rw [Machine.bit_eq_testBit, Machine.bit_eq_testBit, Nat.testBit_mod_two_pow, Nat.testBit_mod_two_pow]
    have h1 : f.mb - 1 < f.mb := by omega
    have h2 : f.mb - 1 < f.magBits := by unfold Fmt.magBits; omega
    simp [h1, h2]
  unfold valOf
  simp only [hf, hones, beq_self_eq_true, if_true, Bool.true_and, hquiet, beq_iff_eq, hinf]

end

/-! ## FI (R16) -/

section
variable (f : Fmt) (x : Nat)

theorem flush_of_not_isSub {fi : Bool} (h : f.isSub x = false) : flush f fi x = x := by simp [flush, h]

theorem flush_false : flush f false x = x := rfl

theorem flush_isSub (h : f.isSub x = true) : flush f true x = f.pack (f.sgn x) 0 := by simp [flush, h]

theorem flush_sgn (fi : Bool) : f.sgn (flush f fi x) = f.sgn x := by
  unfold flush
  split
  · exact f.sgn_pack _ (Nat.two_pow_pos _)
  · rfl

/-- The magnitude after FI. -/
theorem flush_mod (fi : Bool) : flush f fi x % 2 ^ f.magBits = if fi && f.isSub x then 0 else x % 2 ^ f.magBits := by
  unfold flush
  split
  · exact f.pack_mod _ (Nat.two_pow_pos _)
  · rfl

theorem flush_lt (fi : Bool) (h : x < 2 ^ (f.eb + f.mb + 1)) : flush f fi x < 2 ^ (f.eb + f.mb + 1) := by
  unfold flush
  split
  · exact f.pack_lt _ (Nat.two_pow_pos _)
  · exact h

end

/-! ## binary32 -/

theorem sgn_f32 (x : Nat) : fmtF32.sgn x = bit x 31 := rfl

/-- A NaN of binary32. -/
theorem valOf_f32_nan {x : Nat} (h : 0x7F800000 < x % 2 ^ 31) : valOf fmtF32 x = .nan (decide (x / 2 ^ 22 % 2 = 0)) := by
  rw [valOf_special fmtF32 rfl (by decide) (show 0x7F800000 ≤ x % 2 ^ 31 from h.le),
    if_neg (show ¬ x % 2 ^ fmtF32.magBits = fmtF32.inf from (Nat.ne_of_lt h).symm)]
  have hquiet : bit x (fmtF32.mb - 1) = decide (x / 2 ^ 22 % 2 = 1) := rfl
  rw [hquiet, ← decide_not]
  exact congrArg Num.nan (decide_eq_decide.2 Nat.mod_two_not_eq_one)

theorem valOf_f32_inf {x : Nat} (h : x % 2 ^ 31 = 0x7F800000) : valOf fmtF32 x = .inf (bit x 31) := by
  rw [valOf_special fmtF32 rfl (by decide) (show 0x7F800000 ≤ x % 2 ^ 31 from h.ge), 
    if_pos (show x % 2 ^ fmtF32.magBits = fmtF32.inf from h), sgn_f32]

theorem valOf_f32_fin {x : Nat} (h : x % 2 ^ 31 < 0x7F800000) :
    valOf fmtF32 x = .fin (bit x 31) (fmtF32.sig (x % 2 ^ 31)) (fmtF32.ulp (x % 2 ^ 31)) := valOf_finite fmtF32 h

theorem isSub_f32 (x : Nat) : fmtF32.isSub x = decide (0 < x % 2 ^ 31 ∧ x % 2 ^ 31 < 0x00800000) := by
  rw [Fmt.isSub_eq]
  change (decide (x % 2 ^ 31 < 0x00800000) && x % 2 ^ 31 != 0) = _
  rw [Bool.eq_iff_iff]
  simp only [Bool.and_eq_true, decide_eq_true_iff, bne_iff_ne]
  omega

theorem valOf_flush_nan (fi : Bool) {x : Nat} (h : 0x7F800000 < x % 2 ^ 31) :
    valOf fmtF32 (flush fmtF32 fi x) = .nan (decide (x / 2 ^ 22 % 2 = 0)) := by
  rw [flush_of_not_isSub _ _ (by rw [isSub_f32]; exact decide_eq_false (by omega)), valOf_f32_nan h]

/-- What is no NaN is none after FI. -/
theorem isNaN_flush_f32 (fi : Bool) {x : Nat} (h : ¬ 0x7F800000 < x % 2 ^ 31) : (valOf fmtF32 (flush fmtF32 fi x)).isNaN = false := by
  have hmod : flush fmtF32 fi x % 2 ^ 31 = if fi && fmtF32.isSub x then 0 else x % 2 ^ 31 := flush_mod fmtF32 x fi
  have hle : flush fmtF32 fi x % 2 ^ 31 ≤ 0x7F800000 := by
    rw [hmod]
    split
    · decide
    · exact Nat.not_lt.1 h
  obtain h | h := hle.eq_or_lt
  · rw [valOf_f32_inf h]; rfl
  · rw [valOf_f32_fin h]; rfl

end Sys2Proof
end

section
/-!
PROOF. What no rounding decides (spec/01_numbers.md R15 to R17, spec/06_lane_float_planes.md R148 to R152, R156, R157): NaNs, infinities,
subnormal and flushed operands, and FCLASS.
-/
namespace Sys2Proof.Machine

-- The kernel evaluations of this file run one after another: side by side they take the check's memory.
set_option Elab.async false

/-! ## The constants of binary32 -/

theorem fmtF32_magBits : fmtF32.magBits = 31 := rfl

theorem div_mb_eq_zero_iff {mag : Nat} : mag / 2 ^ fmtF32.mb = 0 ↔ mag < 0x00800000 := fmtF32.div_eq_zero_iff _

/-! ## NaNs -/

/-- Whether a value is a signalling NaN. -/
def signals : Num → Bool
  | .nan s => s
  | .inf _ => false
  | .fin _ _ _ => false

theorem numAdd_of_isNaN {x y : Num} (h : x.isNaN = true ∨ y.isNaN = true) : numAdd x y = .nan (signals x || signals y) := by
  cases x <;> cases y <;> simp [Num.isNaN, numAdd, signals] at h ⊢

theorem numMul_of_isNaN {x y : Num} (h : x.isNaN = true ∨ y.isNaN = true) : numMul x y = .nan (signals x || signals y) := by
  cases x <;> cases y <;> simp [Num.isNaN, numMul, signals] at h ⊢

theorem isNaN_numNeg (x : Num) : (numNeg x).isNaN = x.isNaN := by cases x <;> rfl

theorem signals_numNeg (x : Num) : signals (numNeg x) = signals x := by cases x <;> rfl

theorem isNaN_numFma {x y z : Num} (h : x.isNaN = true ∨ y.isNaN = true ∨ z.isNaN = true) : (numFma x y z).isNaN = true := by
  unfold numFma
  rw [numAdd_of_isNaN]
  · rfl
  · obtain h | h | h := h
    · exact .inl (by rw [numMul_of_isNaN (.inl h)]; rfl)
    · exact .inl (by rw [numMul_of_isNaN (.inr h)]; rfl)
    · exact .inr h

/-- A NaN result: the canonical NaN, with NV where it is signalling. -/
theorem delivered_nan (f : Fmt) (fo s : Bool) : delivered f fo (.nan s) = (f.nan, if s then 1 else 0) := by
  cases s <;> rfl

theorem delivered_inf (f : Fmt) (fo n : Bool) : delivered f fo (.inf n) = (f.pack n f.inf, 0) := by
  simp [delivered, roundTo, numNV]

theorem delivered_of_isNaN (f : Fmt) (fo : Bool) {x : Num} (h : x.isNaN = true) : (delivered f fo x).1 = f.nan := by
  cases x with
  | nan => rfl
  | inf | fin => contradiction

section
variable (fi : Bool) {a : Nat}

/-- A code of binary32 is a NaN, before or after FI, where its magnitude bits lie beyond infinity. -/
theorem isNaN_valOf_flush : (valOf fmtF32 (flush fmtF32 fi a)).isNaN = decide (0x7F800000 < a % 2 ^ 31) := by
  by_cases h : 0x7F800000 < a % 2 ^ 31
  · rw [valOf_flush_nan fi h, decide_eq_true h]; rfl
  · rw [isNaN_flush_f32 fi h, decide_eq_false h]

theorem signals_valOf_flush :
    signals (valOf fmtF32 (flush fmtF32 fi a)) = decide (0x7F800000 < a % 2 ^ 31 ∧ a / 2 ^ 22 % 2 = 0) := by
  by_cases h : 0x7F800000 < a % 2 ^ 31
  · rw [valOf_flush_nan fi h]
    exact decide_eq_decide.2 (and_iff_right h).symm
  · have hnot := isNaN_flush_f32 fi h
    rw [decide_eq_false fun hs => h hs.1]
    generalize valOf fmtF32 (flush fmtF32 fi a) = x at hnot
    cases x with
    | nan => contradiction
    | inf | fin => rfl

end

/-- The result of an operation of two operands, one of them a NaN. -/
theorem delivered_of_nan_operand (f : Fmt) (fo : Bool) {p q : Prop} [Decidable p] [Decidable q] {x : Num} {s t : Bool}
    (hx : x = .nan (s || t)) (hs : s = decide p) (ht : t = decide q) :
    delivered f fo x = (f.nan, if p ∨ q then 1 else 0) := by
  subst hx hs ht
  rw [delivered_nan]
  simp only [Bool.or_eq_true, decide_eq_true_iff]

/-- FMIN and FMAX of a NaN and a code that is neither a NaN nor subnormal (R17). -/
theorem opMinMax_nan (mx fo : Bool) {a b : Nat} (ha : a < 2 ^ 32) (hb : 0x7F800000 < b % 2 ^ 31) (hna : ¬ 0x7F800000 < a % 2 ^ 31)
    (hsub : ¬ (0 < a % 2 ^ 31 ∧ a % 2 ^ 31 < 0x00800000)) :
    opMinMax mx false fo a b = (a, if 0x7F800000 < b % 2 ^ 31 ∧ b / 2 ^ 22 % 2 = 0 then 1 else 0) ∧
      opMinMax mx false fo b a = (a, if 0x7F800000 < b % 2 ^ 31 ∧ b / 2 ^ 22 % 2 = 0 then 1 else 0) := by
  have hnv : numNV (valOf fmtF32 a) = 0 := by
    have := isNaN_flush_f32 false hna
    rw [flush_false] at this
    generalize valOf fmtF32 a = x at this
    cases x with
    | nan => contradiction
    | inf | fin => rfl
  have hout (fl : Word) : flushOut fmtF32 fo (a % 2 ^ fmtF32.magBits) fl = (a % 2 ^ fmtF32.magBits, fl) := by
    unfold flushOut
    rw [if_neg]
    rw [fmtF32_magBits, Bool.and_eq_true, beq_iff_eq, div_mb_eq_zero_iff, Bool.and_eq_true, bne_iff_ne]
    omega
  have hpack : fmtF32.pack (fmtF32.sgn a) (a % 2 ^ fmtF32.magBits) = a := fmtF32.pack_sgn ha
  have hbnan := isNaN_valOf_flush false (a := b)
  have hanan := isNaN_valOf_flush false (a := a)
  have hbnv : numNV (valOf fmtF32 b) = if 0x7F800000 < b % 2 ^ 31 ∧ b / 2 ^ 22 % 2 = 0 then 1 else 0 := by
    have hval := valOf_flush_nan false hb
    rw [flush_false] at hval
    rw [hval, numNV_eq_ite]
    exact if_congr ((decide_eq_true_iff.symm.trans (by simp)).trans (and_iff_right hb).symm) rfl rfl
  rw [decide_eq_true hb] at hbnan
  rw [decide_eq_false hna] at hanan
  rw [flush_false] at hbnan hanan
  constructor
  · simp [opMinMax, flush_false, hbnan, hanan, hnv, hbnv, hout, hpack]
  · simp [opMinMax, flush_false, hbnan, hanan, hnv, hbnv, hout, hpack]

/-! ## Subnormals -/

/-- FI takes a subnormal for the zero of its sign (R16). -/
theorem flush_of_sub {a : Nat} (h : 0 < a % 2 ^ 31 ∧ a % 2 ^ 31 < 0x00800000) (ha : a < 2 ^ 32) :
    flush fmtF32 true a = a / 2 ^ 31 * 2 ^ 31 := by
  refine (flush_isSub _ _ (by rw [isSub_f32]; exact decide_eq_true h)).trans ?_
  have hpack (m : Nat) : fmtF32.pack (fmtF32.sgn a) m = b2n (fmtF32.sgn a) * 2 ^ 31 + m := rfl
  have hsplit := (fmtF32.pack_sgn ha).trans (Nat.div_add_mod' a (2 ^ 31)).symm
  rw [fmtF32_magBits, hpack] at hsplit
  rw [hpack, Nat.add_right_cancel hsplit, Nat.add_zero]

theorem flush_of_zero (a : Nat) : flush fmtF32 true (a / 2 ^ 31 * 2 ^ 31) = a / 2 ^ 31 * 2 ^ 31 :=
  flush_of_not_isSub _ _ (by rw [isSub_f32]; exact decide_eq_false (by omega))

/-- FO delivers a subnormal result as a zero with UF and NX (R16). -/
theorem opSign_of_sub (sign : Bool → Bool) {a : Nat} (h : 0 < a % 2 ^ 31 ∧ a % 2 ^ 31 < 0x00800000) :
    opSign sign false true a = (fmtF32.pack (sign (bit a 31)) 0, 0x18) := by
  have hout : flushOut fmtF32 true (a % 2 ^ fmtF32.magBits) 0 = (0, 0x18) := by
    unfold flushOut
    rw [if_pos]
    · rfl
    · rw [fmtF32_magBits, Bool.and_eq_true, beq_iff_eq, div_mb_eq_zero_iff, Bool.true_and, bne_iff_ne]
      omega
  unfold opSign
  simp only [flush_false]
  rw [valOf_f32_fin (by omega)]
  rw [hout]

/-- The sign bit of a code of binary32. -/
theorem bit_sign {a : Nat} (ha : a < 2 ^ 32) : bit a 31 = decide (a / 2 ^ 31 = 1) := by
  unfold bit
  have hlt : a / 2 ^ 31 < 2 := Nat.div_lt_of_lt_mul ha
  rw [Nat.mod_eq_of_lt hlt]
  rfl

theorem pack_not_sign {a : Nat} (ha : a < 2 ^ 32) : fmtF32.pack (!bit a 31) 0 = (1 - a / 2 ^ 31) * 2 ^ 31 := by
  have hlt : a / 2 ^ 31 < 2 := Nat.div_lt_of_lt_mul ha
  rw [bit_sign ha]
  obtain h | h : a / 2 ^ 31 = 0 ∨ a / 2 ^ 31 = 1 := Nat.le_one_iff_eq_zero_or_eq_one.1 (Nat.lt_succ_iff.1 hlt)
  · rw [h]; rfl
  · rw [h]; rfl

/-! ## FCLASS (R152) -/

theorem opClass_eq {a : Nat} (ha : a < 2 ^ 32) :
    opClass false a = 2 ^ (if 0x7F800000 < a % 2 ^ 31 then (if 0x7F800000 < a % 2 ^ 31 ∧ a / 2 ^ 22 % 2 = 0 then 8 else 9)
      else if a % 2 ^ 31 = 0x7F800000 then (if a / 2 ^ 31 = 1 then 0 else 7)
      else if a % 2 ^ 31 = 0 then (if a / 2 ^ 31 = 1 then 3 else 4)
      else if 0 < a % 2 ^ 31 ∧ a % 2 ^ 31 < 0x00800000 then (if a / 2 ^ 31 = 1 then 2 else 5)
      else (if a / 2 ^ 31 = 1 then 1 else 6)) := by
  unfold opClass
  rw [flush_false]
  dsimp only
  obtain hnan | hinf | hfin := lt_trichotomy 0x7F800000 (a % 2 ^ 31)
  · rw [valOf_f32_nan hnan, if_pos hnan]
    by_cases hs : a / 2 ^ 22 % 2 = 0
    · rw [if_pos ⟨hnan, hs⟩]
      exact if_pos (decide_eq_true hs)
    · rw [if_neg fun h => hs h.2]
      exact if_neg (by rw [decide_eq_false hs]; decide)
  · rw [valOf_f32_inf hinf.symm, if_neg hinf.not_lt, if_pos hinf.symm, bit_sign ha]
    by_cases hs : a / 2 ^ 31 = 1
    · rw [if_pos hs, decide_eq_true hs]; rfl
    · rw [if_neg hs, decide_eq_false hs]; rfl
  · have hsub : fmtF32.isSub a = true ↔ 0 < a % 2 ^ 31 ∧ a % 2 ^ 31 < 0x00800000 := by rw [isSub_f32, decide_eq_true_iff]
    have hzero := fmtF32.sig_eq_zero_iff (a % 2 ^ 31)
    rw [valOf_f32_fin hfin, if_neg hfin.not_gt, if_neg hfin.ne, bit_sign ha]
    dsimp only
    by_cases h0 : a % 2 ^ 31 = 0
    · rw [if_pos h0, if_pos (by rw [hzero.2 h0]; rfl)]
      by_cases hs : a / 2 ^ 31 = 1
      · rw [if_pos hs, if_pos (decide_eq_true hs)]
      · rw [if_neg hs, if_neg (by rw [decide_eq_false hs]; decide)]
    · rw [if_neg h0, if_neg (by rw [beq_iff_eq]; exact mt hzero.1 h0)]
      by_cases hsubn : 0 < a % 2 ^ 31 ∧ a % 2 ^ 31 < 0x00800000 <;> by_cases hs : a / 2 ^ 31 = 1
      · rw [if_pos hsubn, if_pos hs, if_pos (hsub.2 hsubn), if_pos (decide_eq_true hs)]
      · rw [if_pos hsubn, if_neg hs, if_pos (hsub.2 hsubn), if_neg (by rw [decide_eq_false hs]; decide)]
      · rw [if_neg hsubn, if_pos hs, if_neg (mt hsub.1 hsubn), if_pos (decide_eq_true hs)]
      · rw [if_neg hsubn, if_neg hs, if_neg (mt hsub.1 hsubn), if_neg (by rw [decide_eq_false hs]; decide)]

/-! ## Infinities (R148) -/

section
variable {x y : Num} {n : Bool}

theorem numAdd_inf (h : y.isFin = true ∨ y = .inf n) : numAdd (.inf n) y = .inf n ∧ numAdd y (.inf n) = .inf n := by
  obtain h | rfl := h
  · cases y with
    | fin => exact ⟨rfl, rfl⟩
    | nan | inf => contradiction
  · exact ⟨by simp [numAdd], by simp [numAdd]⟩

theorem rat_of_zero (neg : Bool) (e : Int) : (Num.fin neg 0 e).rat = 0 := by simp [Num.rat]

theorem numMul_inf (h : y = .inf y.negative ∨ y.isFin = true ∧ y.rat ≠ 0) :
    numMul (.inf n) y = .inf (n != y.negative) ∧ numMul y (.inf n) = .inf (n != y.negative) := by
  cases y with
  | nan => simp [Num.isFin] at h
  | inf k =>
    have : (k != n) = (n != k) := by cases k <;> cases n <;> rfl
    exact ⟨rfl, congrArg Num.inf this⟩
  | fin k m e =>
    have hm : (m == 0) = false := by
      rw [beq_eq_false_iff_ne]
      rintro rfl
      exact h.elim nofun fun h => h.2 (rat_of_zero k e)
    have : (k != n) = (n != k) := by cases k <;> cases n <;> rfl
    simp only [numMul, hm, Bool.false_eq_true, if_false, Num.negative, this, and_self]

theorem isFin_numMul (hx : x.isFin = true) (hy : y.isFin = true) : (numMul x y).isFin = true := by
  cases x with
  | nan | inf => contradiction
  | fin => cases y with
    | nan | inf => contradiction
    | fin => rfl

end

theorem pack_inf (f : Fmt) (hf : f = fmtF32 ∨ f = fmtBF16) (s : Bool) :
    f.pack s f.inf = (if s then 2 ^ (f.eb + f.mb) else 0) + 255 * 2 ^ f.mb := by
  obtain rfl | rfl := hf <;> cases s <;> rfl

/-! ## NaNs and infinities of the other members -/

theorem opIntegral_nan (d : RDir) (fi : Bool) {a : Nat} {s : Bool} (h : valOf fmtF32 (flush fmtF32 fi a) = .nan s) :
    opIntegral d fi a = (0x7FC00000, if s then 1 else 0) := by
  unfold opIntegral
  rw [h]
  rfl

theorem opIntegral_inf (d : RDir) (fi n : Bool) {a : Nat} (h : valOf fmtF32 (flush fmtF32 fi a) = .inf n) :
    opIntegral d fi a = (fmtF32.pack n fmtF32.inf, 0) := by
  unfold opIntegral
  rw [h]

/-- FSQRT, FRSQ and FLOG2 of a value below zero. -/
theorem roots_of_negative {fi fo : Bool} {a : Nat} (h : valOf fmtF32 (flush fmtF32 fi a) = .inf true ∨
    ∃ m e, m ≠ 0 ∧ valOf fmtF32 (flush fmtF32 fi a) = .fin true m e) :
    opSqrt fi fo a = (0x7FC00000, 1) ∧ opRsq fi fo a = (0x7FC00000, 1) ∧ opLog2 fi a = (0x7FC00000, 1) := by
  unfold opSqrt opRsq opLog2 f32v
  obtain h | ⟨m, e, hm, h⟩ := h
  · rw [h]
    exact ⟨rfl, rfl, rfl⟩
  · have hne : (m == 0) = false := beq_eq_false_iff_ne.2 hm
    rw [h]
    simp only [hne, if_true, if_false, Bool.false_eq_true]
    exact ⟨rfl, rfl, rfl⟩

theorem members_of_nan {fi : Bool} {a : Nat} {s : Bool} (fo : Bool) (h : valOf fmtF32 (flush fmtF32 fi a) = .nan s) :
    opSqrt fi fo a = (0x7FC00000, if s then 1 else 0) ∧ opRcp fi fo a = (0x7FC00000, if s then 1 else 0) ∧
      opRsq fi fo a = (0x7FC00000, if s then 1 else 0) ∧ opExp2 fi fo a = (0x7FC00000, if s then 1 else 0) ∧
      opLog2 fi a = (0x7FC00000, if s then 1 else 0) ∧ opNarrowBF16 fi fo a = (0x7FC0, if s then 1 else 0) ∧
      ∀ sat, opNarrowF8 fmtE4M3 fi fo sat a = (0x7F, if s then 1 else 0) ∧ opNarrowF8 fmtE5M2 fi fo sat a = (0x7E, if s then 1 else 0) := by
  unfold opSqrt opRcp opRsq opExp2 opLog2 opNarrowBF16 opNarrowF8 f32v
  rw [h, delivered_nan]
  exact ⟨rfl, rfl, rfl, rfl, rfl, rfl, fun _ => ⟨rfl, rfl⟩⟩

theorem valOf_f32_minus_inf (fi : Bool) {s : Bool} : valOf fmtF32 (flush fmtF32 fi ((if s then 2 ^ 31 else 0) + 0x7F800000)) = .inf s := by
  revert fi s
  decide +kernel

/-- A negative value that FI does not take for a zero. -/
theorem valOf_negative {fi : Bool} {a : Nat} (h : 2 ^ 31 < a) (hle : a ≤ 0xFF800000)
    (hfi : fi = false ∨ ¬ (0 < a % 2 ^ 31 ∧ a % 2 ^ 31 < 0x00800000)) :
    valOf fmtF32 (flush fmtF32 fi a) = .inf true ∨ ∃ m e, m ≠ 0 ∧ valOf fmtF32 (flush fmtF32 fi a) = .fin true m e := by
  have hflush : flush fmtF32 fi a = a := by
    obtain rfl | hfi := hfi
    · rfl
    · exact flush_of_not_isSub _ _ (by rw [isSub_f32]; exact decide_eq_false hfi)
  have hsign : bit a 31 = true := by
    rw [bit_sign (by omega)]
    exact decide_eq_true (by omega)
  rw [hflush]
  obtain hinf | hfin := Nat.eq_or_lt_of_le (show a % 2 ^ 31 ≤ 0x7F800000 by omega)
  · exact .inl (by rw [valOf_f32_inf hinf, hsign])
  · have hne : a % 2 ^ 31 ≠ 0 := by omega
    exact .inr ⟨_, _, mt (fmtF32.sig_eq_zero_iff _).1 hne, by rw [valOf_f32_fin hfin, hsign]⟩

/-- A NaN of BF16 or E5M2 widened (R157). -/
theorem opWiden_nan {f : Fmt} (fi : Bool) {a : Nat} (hf : f.top = .ieee) (hm : 0 < f.mb) (hinf : 2 ^ f.mb ≤ f.inf)
    (h : f.inf < a % 2 ^ f.magBits) : opWiden f fi a = (0x7FC00000, if a / 2 ^ (f.mb - 1) % 2 = 0 then 1 else 0) := by
  have hsub : f.isSub a = false := by
    have : ¬ a % 2 ^ f.magBits < 2 ^ f.mb := by omega
    rw [Fmt.isSub_eq, decide_eq_false this, Bool.false_and]
  unfold opWiden
  rw [flush_of_not_isSub _ _ hsub, valOf_special f hf hm h.le, if_neg h.ne', delivered_nan]
  refine Prod.ext rfl (if_congr ?_ rfl rfl)
  unfold bit
  rw [Bool.not_eq_true', beq_eq_false_iff_ne]
  exact Nat.mod_two_ne_one

/-! ## The statement -/

/-- Settles O11: NaN operands are found by `isNaN_valOf_flush`, infinities by the cases of the exact operations, and the constants by
evaluation. -/
theorem floatSpecialValues : Obligations.FloatSpecialValues := by
  unfold Obligations.FloatSpecialValues
  dsimp only
  refine ⟨?binary, ?fused, ?undefined, ?minMax, ?flushIn, ?flushOut, ?cls, ?inf, ?nans, ?constants, ?widen⟩
  case binary =>
    intro a b _ _ fi fo h
    have hnan : (valOf fmtF32 (flush fmtF32 fi a)).isNaN = true ∨ (valOf fmtF32 (flush fmtF32 fi b)).isNaN = true := by
      rw [isNaN_valOf_flush, isNaN_valOf_flush, decide_eq_true_iff, decide_eq_true_iff]
      exact h
    have hneg := hnan
    rw [← isNaN_numNeg (valOf fmtF32 (flush fmtF32 fi b))] at hneg
    simp only [List.forall_mem_cons]
    refine ⟨?_, ?_, ?_, nofun⟩
    · exact delivered_of_nan_operand _ _ (numAdd_of_isNaN hnan) (signals_valOf_flush fi) (signals_valOf_flush fi)
    · exact delivered_of_nan_operand _ _ (numAdd_of_isNaN hneg) (signals_valOf_flush fi) ((signals_numNeg _).trans (signals_valOf_flush fi))
    · exact delivered_of_nan_operand _ _ (numMul_of_isNaN hnan) (signals_valOf_flush fi) (signals_valOf_flush fi)
  case fused =>
    intro a b c _ _ _ fi fo h
    refine delivered_of_isNaN _ _ (isNaN_numFma ?_)
    rw [isNaN_valOf_flush, isNaN_valOf_flush, isNaN_valOf_flush, decide_eq_true_iff, decide_eq_true_iff, decide_eq_true_iff]
    exact h
  case undefined => decide +kernel
  case minMax => exact fun a b ha _ mx fo hb hna hsub => opMinMax_nan mx fo ha hb hna hsub
  case flushIn =>
    intro a ha fo b h
    unfold opAdd opMul
    rw [flush_of_sub h ha, flush_of_zero]
    exact ⟨rfl, rfl⟩
  case flushOut =>
    intro a ha h
    rw [opSign_of_sub _ h, opSign_of_sub _ h, pack_not_sign ha]
    exact ⟨rfl, rfl⟩
  case cls => exact fun a ha => opClass_eq ha
  case inf =>
    intro f fi fo a b c n hf hx
    simp only [← pack_inf f hf]
    unfold opAdd opMul opFma numFma
    rw [hx]
    refine ⟨fun h => ?_, fun h => ?_, fun hy hz => ?_⟩
    · rw [(numAdd_inf h).1, (numAdd_inf h).2, delivered_inf]
      exact ⟨rfl, rfl⟩
    · rw [(numMul_inf h).1, (numMul_inf h).2, delivered_inf]
      exact ⟨rfl, rfl, fun hz => by rw [(numAdd_inf hz).1, delivered_inf]⟩
    · rw [(numAdd_inf (.inl (isFin_numMul hy hz))).2, delivered_inf]
  case nans =>
    intro fi fo a _
    refine ⟨fun h => ?_, fun h hle hfi => roots_of_negative (valOf_negative h hle hfi)⟩
    have hval := valOf_flush_nan fi h
    have hite : (if decide (a / 2 ^ 22 % 2 = 0) = true then (1 : Word) else 0) =
        if 0x7F800000 < a % 2 ^ 31 ∧ a / 2 ^ 22 % 2 = 0 then 1 else 0 :=
      if_congr (decide_eq_true_iff.trans (and_iff_right h).symm) rfl rfl
    obtain ⟨hsqrt, hrcp, hrsq, hexp, hlog, hbf, hf8⟩ := members_of_nan fo hval
    rw [← hite]
    exact ⟨hsqrt, hrcp, hrsq, hexp, hlog, fun d => opIntegral_nan d fi hval, hbf, hf8⟩
  case constants =>
    intro fi fo
    refine ⟨?_, ?_, ?_, ?_, ?_, ?_, ?_, ?_, ?_, ?_, ?_, ?_, ?_, ?_, ?_, fun s => ⟨fun d => ?integral, ?signed⟩⟩
    case integral =>
      rw [opIntegral_inf d fi s (valOf_f32_minus_inf fi)]
      cases s <;> rfl
    case signed => revert fi fo s; decide +kernel
    all_goals (revert fi fo; decide +kernel)
  case widen =>
    intro fi
    refine ⟨fun a _ h => ?_, fun a _ h => ?_, ?_, ?_⟩
    · exact opWiden_nan (f := fmtBF16) fi rfl (by decide) (by decide) h
    · exact opWiden_nan (f := fmtE5M2) fi rfl (by decide) (by decide) h
    · revert fi; decide +kernel
    · revert fi; decide +kernel

end Sys2Proof.Machine
end

section
/-!
PROOF. Rounding to a float format (spec/01_numbers.md R15): the magnitudes of a format as rational numbers, which follow each other at the distance of a
last place, and `roundMag`, whose result lies between the midpoints to its neighbours.
-/
namespace Sys2Proof

-- The proofs of this file run one after another: side by side they take the check's memory.
set_option Elab.async false

theorem two_zpow_pos (k : Int) : (0 : Rat) < 2 ^ k := zpow_pos two_pos k

theorem two_zpow_add (j k : Int) : (2 : Rat) ^ (j + k) = 2 ^ j * 2 ^ k := zpow_add₀ two_ne_zero j k

theorem two_zpow_le {j k : Int} (h : j ≤ k) : (2 : Rat) ^ j ≤ 2 ^ k := zpow_le_zpow_right₀ one_le_two h

/-! ## Magnitudes as numbers -/

section
variable (f : Fmt)

/-- The number that a magnitude names, beyond the largest finite one too. -/
def Fmt.mval (mag : Nat) : Rat := f.sig mag * (2 : Rat) ^ f.ulp mag

/-- A magnitude by the blocks of 2^mb codes that share a last place: `n` units of the last place of block `k`, up to the first of the next block. -/
theorem Fmt.mval_block {k n : Nat} (hk : k = 0 ∨ 2 ^ f.mb ≤ n) (hn : n ≤ 2 ^ (f.mb + 1)) :
    f.mval (k * 2 ^ f.mb + n) = n * (2 : Rat) ^ (f.emin + k) := by
  have hpos := Nat.two_pow_pos f.mb
  have hdbl : 2 ^ (f.mb + 1) = 2 * 2 ^ f.mb := by rw [Nat.pow_succ, Nat.mul_comm]
  unfold Fmt.mval Fmt.sig Fmt.ulp
  by_cases hsub : n < 2 ^ f.mb
  · obtain rfl : k = 0 := hk.resolve_right (by omega)
    simp [hsub]
  have hnot : ¬ k * 2 ^ f.mb + n < 2 ^ f.mb := fun h => hsub (lt_of_le_of_lt (Nat.le_add_left ..) h)
  rw [if_neg hnot, if_neg hnot]
  obtain ⟨r, rfl⟩ : ∃ r, n = 2 ^ f.mb + r := ⟨n - 2 ^ f.mb, by omega⟩
  obtain hr | hr : r < 2 ^ f.mb ∨ r = 2 ^ f.mb := by omega
  · have hmag : k * 2 ^ f.mb + (2 ^ f.mb + r) = 2 ^ f.mb * (k + 1) + r := by ring
    rw [hmag, Nat.mul_add_div hpos, Nat.mul_add_mod, Nat.div_eq_of_lt hr, Nat.mod_eq_of_lt hr]
    congr 2
    push_cast
    ring
  · have hmag : k * 2 ^ f.mb + (2 ^ f.mb + r) = 2 ^ f.mb * (k + 2) := by rw [hr]; ring
    rw [hmag, Nat.mul_div_cancel_left _ hpos, Nat.mul_mod_right, hr]
    have hexp : f.emin + ((k + 2 : Nat) : Int) - 1 = f.emin + k + 1 := by push_cast; ring
    rw [hexp, zpow_add_one₀ two_ne_zero]
    push_cast
    ring

/-- Every magnitude lies in one block, and its last place is the block's. -/
theorem Fmt.exists_block (mag : Nat) :
    ∃ k n, mag = k * 2 ^ f.mb + n ∧ (k = 0 ∨ 2 ^ f.mb ≤ n) ∧ n < 2 ^ (f.mb + 1) ∧ f.ulp mag = f.emin + k := by
  have hpos := Nat.two_pow_pos f.mb
  have hdbl : 2 ^ (f.mb + 1) = 2 * 2 ^ f.mb := by rw [Nat.pow_succ, Nat.mul_comm]
  unfold Fmt.ulp
  by_cases hsub : mag < 2 ^ f.mb
  · exact ⟨0, mag, by simp, .inl rfl, by omega, by simp [hsub]⟩
  · have hmod := Nat.mod_lt mag hpos
    have hsplit := Nat.div_add_mod' mag (2 ^ f.mb)
    have hdiv : 0 < mag / 2 ^ f.mb := Nat.div_pos (by omega) hpos
    obtain ⟨k, hk⟩ : ∃ k, mag / 2 ^ f.mb = k + 1 := ⟨_, (Nat.succ_pred_eq_of_pos hdiv).symm⟩
    rw [hk, Nat.add_mul] at hsplit
    refine ⟨k, 2 ^ f.mb + mag % 2 ^ f.mb, by omega, .inr (Nat.le_add_right ..), by omega, ?_⟩
    rw [if_neg hsub, hk]
    push_cast
    ring

/-- A magnitude and the next are one last place apart. -/
theorem Fmt.mval_succ (mag : Nat) : f.mval (mag + 1) = f.mval mag + 2 ^ f.ulp mag := by
  obtain ⟨k, n, hmag, hk, hn, hulp⟩ := f.exists_block mag
  rw [hulp, hmag, Nat.add_assoc, f.mval_block (hk.imp_right (Nat.le_succ_of_le ·)) hn, f.mval_block hk hn.le]
  push_cast
  ring

theorem Fmt.mval_zero : f.mval 0 = 0 := by simp [Fmt.mval, (f.sig_eq_zero_iff 0).2 rfl]

theorem Fmt.mval_strictMono : StrictMono f.mval :=
  strictMono_nat_of_lt_succ fun mag => by
    rw [f.mval_succ]
    exact lt_add_of_pos_right _ (two_zpow_pos _)

theorem Fmt.mval_nonneg (mag : Nat) : 0 ≤ f.mval mag := f.mval_zero ▸ f.mval_strictMono.monotone (Nat.zero_le mag)

/-- The next last place is at most twice as large. -/
theorem Fmt.ulp_succ_le (mag : Nat) : f.ulp (mag + 1) ≤ f.ulp mag + 1 := by
  have hmono : (mag + 1) / 2 ^ f.mb ≤ mag / 2 ^ f.mb + 1 := by
    rw [← Nat.add_div_right _ (Nat.two_pow_pos _)]
    exact Nat.div_le_div_right (Nat.add_le_add_left (Nat.two_pow_pos _) _)
  have hzero := f.div_eq_zero_iff mag
  unfold Fmt.ulp
  split <;> split <;> omega

theorem Fmt.emin_le_ulp (mag : Nat) : f.emin ≤ f.ulp mag := by
  obtain ⟨k, n, -, -, -, hulp⟩ := f.exists_block mag
  omega

end

/-! ## Rounding to units -/

/-- m · 2^e counted in units of 2^q. -/
theorem unitsRNE_spec (m : Nat) (e q : Int) :
    RneInt (m * (2 : Rat) ^ (e - q)) (unitsRNE m e q).1 ∧
      ((unitsRNE m e q).2 = false ↔ ((unitsRNE m e q).1 : Rat) = m * (2 : Rat) ^ (e - q)) := by
  unfold unitsRNE
  by_cases hq : q ≤ e
  · have hpow : (2 : Rat) ^ (e - q) = 2 ^ (e - q).toNat := by
      rw [← zpow_natCast, Int.toNat_of_nonneg (by omega)]
    rw [if_pos hq, hpow]
    unfold RneInt
    push_cast
    simp
  · rw [if_neg hq]
    obtain ⟨k, hk⟩ : ∃ k : Nat, q - e = k + 1 := ⟨(q - e).toNat - 1, by omega⟩
    have hk' : (q - e).toNat = k + 1 := by omega
    have hpow : (2 : Rat) ^ (e - q) = 1 / (2 * 2 ^ k) := by
      rw [show e - q = -((k + 1 : Nat) : Int) by omega, zpow_neg, zpow_natCast, pow_succ, mul_comm, one_div]
    rw [hk', hpow]
    have hp : (0 : Rat) < 2 ^ k := by positivity
    have hsplit : (m : Rat) = 2 * 2 ^ k * (m / 2 ^ (k + 1) : Nat) + (m % 2 ^ (k + 1) : Nat) := by
      have := Nat.div_add_mod m (2 ^ (k + 1))
      rw [pow_succ'] at this ⊢
      exact_mod_cast this.symm
    have hr : m % 2 ^ (k + 1) < 2 * 2 ^ k := pow_succ' 2 k ▸ Nat.mod_lt _ (Nat.two_pow_pos _)
    simp only [Nat.add_sub_cancel]
    generalize m / 2 ^ (k + 1) = n at *
    generalize m % 2 ^ (k + 1) = r at *
    have hr' : (r : Rat) < 2 * 2 ^ k := by exact_mod_cast hr
    have hval : (m : Rat) * (1 / (2 * 2 ^ k)) = n + r / (2 * 2 ^ k) := by
      rw [hsplit]
      field_simp
    have hfrac : (r : Rat) / (2 * 2 ^ k) < 1 := by rwa [div_lt_one (by positivity)]
    have hfrac0 : 0 ≤ (r : Rat) / (2 * 2 ^ k) := by positivity
    have hhalf : 1 / 2 < (r : Rat) / (2 * 2 ^ k) ↔ 2 ^ k < r := by
      rw [lt_div_iff₀ (by positivity)]
      constructor
      · intro h
        have : (2 ^ k : Rat) < r := by linarith
        exact_mod_cast this
      · intro h
        have : (2 ^ k : Rat) < r := by exact_mod_cast h
        linarith
    have htie : (r : Rat) / (2 * 2 ^ k) = 1 / 2 ↔ r = 2 ^ k := by
      rw [div_eq_iff (by positivity)]
      constructor
      · intro h
        have : (r : Rat) = 2 ^ k := by linarith
        exact_mod_cast this
      · rintro rfl
        push_cast
        ring
    have hzero : (r : Rat) / (2 * 2 ^ k) = 0 ↔ r = 0 := by simp
    rw [hval]
    generalize (r : Rat) / (2 * 2 ^ k) = t at *
    unfold RneInt
    simp only [Bool.or_eq_true, Bool.and_eq_true, decide_eq_true_iff, beq_iff_eq, ← hhalf, ← htie, bne_eq_false_iff_eq, ← hzero]
    split
    next h =>
      push_cast
      refine ⟨⟨?_, ?_, ?_⟩, ?_⟩
      · obtain h | h := h <;> linarith
      · linarith
      · rintro (h' | h')
        · obtain h | h := h
          · linarith
          · omega
        · linarith
      · constructor <;> intro h'
        · obtain h | h := h <;> linarith
        · linarith
    next h =>
      rw [not_or] at h
      push_cast
      refine ⟨⟨?_, ?_, ?_⟩, ?_⟩
      · linarith
      · linarith [not_lt.1 h.1]
      · rintro (h' | h')
        · linarith
        · have := h.2
          have ht : t = 1 / 2 := by linarith
          simp only [ht, true_and] at this
          omega
      · constructor <;> intro h' <;> linarith

/-- The last place is even in both: a number and its last block's units. -/
theorem block_parity {f : Fmt} (hmb : 1 ≤ f.mb) (k n : Nat) : (k * 2 ^ f.mb + n) % 2 = n % 2 := by
  obtain ⟨b, hb⟩ : ∃ b, f.mb = b + 1 := ⟨f.mb - 1, by omega⟩
  rw [hb, pow_succ, ← mul_assoc]
  omega

section
variable {v : Rat} {n : Nat} (h : RneInt v n)
include h

theorem RneInt.le_nat {N : Nat} (hv : v ≤ N) : n ≤ N := by
  obtain ⟨hhi, -, -⟩ := h
  push_cast at hhi
  have : (n : Rat) < N + 1 := by linarith
  exact Nat.lt_succ_iff.1 (by exact_mod_cast this)

theorem RneInt.nat_le {N : Nat} (hv : N ≤ v) : N ≤ n := by
  obtain ⟨-, hlo, -⟩ := h
  push_cast at hlo
  have : (N : Rat) < n + 1 := by linarith
  exact Nat.lt_succ_iff.1 (by exact_mod_cast this)

end

/-! ## The nearest magnitude -/

section
variable (f : Fmt)

/-- The midpoint of a magnitude and the next. -/
def Fmt.mid (mag : Nat) : Rat := (f.mval mag + f.mval (mag + 1)) / 2

theorem Fmt.mid_strictMono : StrictMono f.mid :=
  strictMono_nat_of_lt_succ fun mag => by
    have h1 := f.mval_strictMono (Nat.lt_succ_self mag)
    have h2 := f.mval_strictMono (Nat.lt_succ_self (mag + 1))
    unfold Fmt.mid
    simp only [Nat.succ_eq_add_one] at h1 h2
    linarith

theorem Fmt.lt_mid (mag : Nat) : f.mval mag < f.mid mag := by
  have := f.mval_strictMono (Nat.lt_succ_self mag)
  unfold Fmt.mid
  linarith

theorem Fmt.mid_lt (mag : Nat) : f.mid mag < f.mval (mag + 1) := by
  have := f.mval_strictMono (Nat.lt_succ_self mag)
  unfold Fmt.mid
  linarith

/-- The magnitude `mag` lies nearest, ties to even, to `x`, those beyond the largest finite one counted too. -/
structure Fmt.NearMag (x : Rat) (mag : Nat) : Prop where
  above : x ≤ f.mid mag
  above_tie : x = f.mid mag → mag % 2 = 0
  below : ∀ k, mag = k + 1 → f.mid k ≤ x
  below_tie : ∀ k, mag = k + 1 → f.mid k = x → mag % 2 = 0

variable {f}

/-- A number that lies in a block, rounded to units of the block, is rounded to the nearest magnitude. -/
theorem Fmt.nearMag_of_block (hmb : 1 ≤ f.mb) {k n : Nat} {v : Rat} (hk : k = 0 ∨ 2 ^ f.mb ≤ v) (hlt : v ≤ 2 ^ (f.mb + 1))
    (h : RneInt v n) : f.NearMag (v * (2 : Rat) ^ (f.emin + k)) (k * 2 ^ f.mb + n) := by
  have hu := two_zpow_pos (f.emin + k)
  have hkn : k = 0 ∨ 2 ^ f.mb ≤ n := hk.imp_right fun hv => h.nat_le (by exact_mod_cast hv)
  have hn : n ≤ 2 ^ (f.mb + 1) := h.le_nat (by exact_mod_cast hlt)
  have hmag := f.mval_block hkn hn
  obtain ⟨hhi, hlo, htie⟩ := h
  push_cast at hhi hlo htie
  have heven : ((n : Rat) - v = 1 / 2 ∨ v - n = 1 / 2) → (k * 2 ^ f.mb + n) % 2 = 0 := fun ht => by
    rw [block_parity hmb]
    have := htie ht
    omega
  have habove : v * (2 : Rat) ^ (f.emin + k) ≤ f.mid (k * 2 ^ f.mb + n) ∧
      (v * (2 : Rat) ^ (f.emin + k) = f.mid (k * 2 ^ f.mb + n) → v - n = 1 / 2) := by
    obtain hn | hn := hn.lt_or_eq
    · have hmid : f.mid (k * 2 ^ f.mb + n) = (n + 1 / 2) * (2 : Rat) ^ (f.emin + k) := by
        unfold Fmt.mid
        rw [hmag, Nat.add_assoc, f.mval_block (hkn.imp_right Nat.le_succ_of_le) hn]
        push_cast
        ring
      rw [hmid]
      refine ⟨mul_le_mul_of_nonneg_right (by linarith) hu.le, fun he => ?_⟩
      have := mul_right_cancel₀ hu.ne' he
      linarith
    · have hle : v * (2 : Rat) ^ (f.emin + k) ≤ f.mval (k * 2 ^ f.mb + n) := by
        rw [hmag, hn]
        push_cast
        exact mul_le_mul_of_nonneg_right hlt hu.le
      have := hle.trans_lt (f.lt_mid _)
      exact ⟨this.le, fun he => absurd he this.ne⟩
  have hbelow : ∀ j, k * 2 ^ f.mb + n = j + 1 → f.mid j ≤ v * (2 : Rat) ^ (f.emin + k) ∧
      (f.mid j = v * (2 : Rat) ^ (f.emin + k) → (n : Rat) - v = 1 / 2) := by
    intro j hj
    by_cases hedge : k ≠ 0 ∧ n = 2 ^ f.mb
    · obtain ⟨hk0, hn0⟩ := hedge
      have hle : f.mval (j + 1) ≤ v * (2 : Rat) ^ (f.emin + k) := by
        rw [← hj, hmag, hn0]
        push_cast
        exact mul_le_mul_of_nonneg_right (hk.resolve_left hk0) hu.le
      have := (f.mid_lt j).trans_le hle
      exact ⟨this.le, fun he => absurd he this.ne⟩
    · have hn1 : 1 ≤ n := by
        by_contra hn0
        have hn0 : n = 0 := by omega
        have := Nat.two_pow_pos f.mb
        obtain rfl | hge := hkn
        · omega
        · omega
      obtain ⟨p, rfl⟩ : ∃ p, n = p + 1 := ⟨n - 1, by omega⟩
      have hp : k = 0 ∨ 2 ^ f.mb ≤ p := by omega
      obtain rfl : j = k * 2 ^ f.mb + p := by omega
      have hmid : f.mid (k * 2 ^ f.mb + p) = (p + 1 / 2) * (2 : Rat) ^ (f.emin + k) := by
        unfold Fmt.mid
        rw [← hj, hmag, f.mval_block hp (by omega)]
        push_cast
        ring
      rw [hmid]
      push_cast at hhi
      refine ⟨mul_le_mul_of_nonneg_right (by linarith) hu.le, fun he => ?_⟩
      have := mul_right_cancel₀ hu.ne' he
      push_cast
      linarith
  exact ⟨habove.1, fun he => heven (.inr (habove.2 he)), fun j hj => (hbelow j hj).1, fun j hj he => heven (.inl ((hbelow j hj).2 he))⟩

end

/-! ## `roundMag` -/

section
variable {m : Nat} (hm : m ≠ 0) (e : Int)
include hm

theorem two_zpow_expOf_le : (2 : Rat) ^ expOf m e ≤ m * (2 : Rat) ^ e := by
  unfold expOf
  rw [two_zpow_add, zpow_natCast]
  exact mul_le_mul_of_nonneg_right (by exact_mod_cast Nat.log2_self_le hm) (two_zpow_pos e).le

omit hm in
theorem lt_two_zpow_expOf : m * (2 : Rat) ^ e < 2 ^ (expOf m e + 1) := by
  unfold expOf
  rw [add_right_comm, two_zpow_add, ← Nat.cast_succ, zpow_natCast]
  exact mul_lt_mul_of_pos_right (by exact_mod_cast Nat.lt_log2_self) (two_zpow_pos e)

/-- The exponent of a number is the one power of two that it reaches. -/
theorem expOf_lt_iff (k : Int) : expOf m e < k ↔ m * (2 : Rat) ^ e < 2 ^ k := by
  constructor
  · exact fun h => (lt_two_zpow_expOf e).trans_le (two_zpow_le h)
  · intro h
    by_contra hk
    exact absurd ((two_zpow_le (not_lt.1 hk)).trans (two_zpow_expOf_le hm e)) (not_le.2 h)

end

theorem Fmt.roundMag_zero (f : Fmt) (e : Int) : roundMag f 0 e = (0, false, false) := rfl

/-- A number in units of 2^q. -/
theorem units_mul (m : Nat) (e q : Int) : m * (2 : Rat) ^ (e - q) * 2 ^ q = m * (2 : Rat) ^ e := by
  rw [mul_assoc, ← two_zpow_add, sub_add_cancel]

section
variable {f : Fmt} {m : Nat} (hm : m ≠ 0) (e : Int)
include hm

theorem roundMag_eq :
    roundMag f m e = ((max (expOf m e - f.mb) f.emin - f.emin).toNat * 2 ^ f.mb + (unitsRNE m e (max (expOf m e - f.mb) f.emin)).1,
      (unitsRNE m e (max (expOf m e - f.mb) f.emin)).2,
      decide (expOf (unitsRNE m e (expOf m e - f.mb)).1 (expOf m e - f.mb) < 1 - (f.bias : Int))) := by
  unfold roundMag
  rw [if_neg (by simpa using hm)]

/-- `roundMag` rounds to units of the number's block. -/
theorem roundMag_block : ∃ (k n : Nat) (v : Rat), (roundMag f m e).1 = k * 2 ^ f.mb + n ∧ (k = 0 ∨ 2 ^ f.mb ≤ v) ∧ v ≤ 2 ^ (f.mb + 1) ∧
    RneInt v n ∧ v * 2 ^ (f.emin + k) = m * (2 : Rat) ^ e ∧ ((roundMag f m e).2.1 = false ↔ (n : Rat) = v) ∧
    expOf m e - f.mb ≤ f.emin + k := by
  rw [roundMag_eq hm]
  generalize hq : max (expOf m e - f.mb) f.emin = q
  obtain ⟨k, rfl⟩ : ∃ k : Nat, q = f.emin + k := ⟨(q - f.emin).toNat, by omega⟩
  have hk : (f.emin + k - f.emin).toNat = k := by omega
  obtain ⟨hround, hexact⟩ := unitsRNE_spec m e (f.emin + k)
  refine ⟨k, _, _, by rw [hk], ?_, ?_, hround, units_mul .., hexact, by omega⟩
  · obtain rfl | hk0 := Nat.eq_zero_or_pos k
    · exact .inl rfl
    · refine .inr (le_of_mul_le_mul_right ?_ (two_zpow_pos (f.emin + k)))
      rw [units_mul, ← zpow_natCast, ← two_zpow_add]
      exact (two_zpow_le (by omega)).trans (two_zpow_expOf_le hm e)
  · refine le_of_mul_le_mul_right ?_ (two_zpow_pos (f.emin + k))
    rw [units_mul, ← zpow_natCast, ← two_zpow_add]
    exact (lt_two_zpow_expOf e).le.trans (two_zpow_le (by push_cast; omega))

theorem roundMag_near (hmb : 1 ≤ f.mb) : f.NearMag (m * (2 : Rat) ^ e) (roundMag f m e).1 := by
  obtain ⟨k, n, v, hmag, hk, hlt, hround, hv, -, -⟩ := roundMag_block (f := f) hm e
  rw [hmag, ← hv]
  exact Fmt.nearMag_of_block hmb hk hlt hround

/-- The rounding is inexact where the magnitude names another number. -/
theorem roundMag_inexact : (roundMag f m e).2.1 = false ↔ f.mval (roundMag f m e).1 = m * (2 : Rat) ^ e := by
  obtain ⟨k, n, v, hmag, hk, hlt, hround, hv, hexact, -⟩ := roundMag_block (f := f) hm e
  rw [hexact, hmag, f.mval_block (hk.imp_right fun hv => hround.nat_le (by exact_mod_cast hv)) (hround.le_nat (by exact_mod_cast hlt)),
    ← hv, mul_left_inj' (two_zpow_pos _).ne']

/-- The last place of the result is no finer than the number's own. -/
theorem expOf_le_ulp_roundMag : expOf m e - f.mb ≤ f.ulp (roundMag f m e).1 := by
  obtain ⟨k, n, v, hmag, hk, hlt, hround, -, -, hexp⟩ := roundMag_block (f := f) hm e
  have hn : k = 0 ∨ 2 ^ f.mb ≤ n := hk.imp_right fun hv => hround.nat_le (by exact_mod_cast hv)
  have hmin := f.emin_le_ulp (roundMag f m e).1
  obtain rfl | hn := hn
  · simp at hexp
    omega
  · have hpos := Nat.two_pow_pos f.mb
    have hdiv : k + 1 ≤ (k * 2 ^ f.mb + n) / 2 ^ f.mb := by
      rw [Nat.le_div_iff_mul_le hpos, Nat.add_mul]
      omega
    unfold Fmt.ulp
    rw [hmag, if_neg (by have := Nat.le_mul_of_pos_left (2 ^ f.mb) (Nat.succ_pos k); omega)]
    omega

/-- What is tiny after rounding lies below half a place under the smallest normal number (R15). -/
theorem roundMag_tiny :
    (roundMag f m e).2.2 = true ↔ m * (2 : Rat) ^ e < (2 ^ (f.mb + 2) - 1) * (2 : Rat) ^ (-(f.bias : Int) - f.mb - 1) := by
  rw [roundMag_eq hm, decide_eq_true_iff]
  obtain ⟨hround, -⟩ := unitsRNE_spec m e (expOf m e - f.mb)
  have hlow := two_zpow_expOf_le hm e
  have hhigh := lt_two_zpow_expOf (m := m) e
  have hunit := units_mul m e (expOf m e - f.mb)
  generalize m * (2 : Rat) ^ (e - (expOf m e - f.mb)) = v at hround hunit
  generalize (unitsRNE m e (expOf m e - f.mb)).1 = n at hround
  generalize expOf m e = l at *
  generalize m * (2 : Rat) ^ e = x at *
  have hu := two_zpow_pos (l - f.mb)
  have hpow (j : Nat) : (2 : Rat) ^ j * 2 ^ (l - f.mb) = 2 ^ (l - f.mb + j) := by rw [← zpow_natCast, ← two_zpow_add, add_comm]
  have hv1 : (2 : Rat) ^ f.mb ≤ v := by
    refine le_of_mul_le_mul_right ?_ hu
    rwa [hunit, hpow, sub_add_cancel]
  have hv2 : v < 2 ^ (f.mb + 1) := by
    refine lt_of_mul_lt_mul_right ?_ hu.le
    rwa [hunit, hpow, show l - (f.mb : Int) + ((f.mb + 1 : Nat) : Int) = l + 1 by push_cast; ring]
  have hn1 : 2 ^ f.mb ≤ n := hround.nat_le (by exact_mod_cast hv1)
  have hn2 : n ≤ 2 ^ (f.mb + 1) := hround.le_nat (by exact_mod_cast hv2.le)
  have hn0 : n ≠ 0 := by have := Nat.two_pow_pos f.mb; omega
  rw [expOf_lt_iff hn0]
  have hdbl : (2 : Rat) ^ (f.mb + 1) = 2 * 2 ^ f.mb := pow_succ' ..
  have hquad : (2 : Rat) ^ (f.mb + 2) = 4 * 2 ^ f.mb := by rw [pow_add, mul_comm]; norm_num
  have hone : (1 : Rat) ≤ 2 ^ f.mb := one_le_pow₀ one_le_two
  -- the bound in half units of the smallest normal binade's last place
  have hw := two_zpow_pos (-(f.bias : Int) - f.mb - 1)
  have hnormal : (2 : Rat) ^ (1 - (f.bias : Int)) = 2 ^ (f.mb + 2) * 2 ^ (-(f.bias : Int) - f.mb - 1) := by
    rw [← zpow_natCast, ← two_zpow_add]
    congr 1
    push_cast
    ring
  rw [hnormal]
  obtain hl | rfl | hl := lt_trichotomy l (-(f.bias : Int))
  · have hle : (2 : Rat) ^ (l + 1) ≤ 2 ^ (f.mb + 1) * 2 ^ (-(f.bias : Int) - f.mb - 1) := by
      rw [← zpow_natCast, ← two_zpow_add]
      exact two_zpow_le (by push_cast; omega)
    have hle' : (n : Rat) * 2 ^ (l - f.mb) ≤ 2 ^ (l + 1) := by
      rw [show l + 1 = l - f.mb + ((f.mb + 1 : Nat) : Int) by push_cast; ring, ← hpow]
      exact mul_le_mul_of_nonneg_right (by exact_mod_cast hn2) hu.le
    refine iff_of_true ?_ ?_
    · refine (hle'.trans hle).trans_lt (mul_lt_mul_of_pos_right ?_ hw)
      linarith
    · refine (hhigh.trans_le hle).trans_le (mul_le_mul_of_nonneg_right ?_ hw.le)
      linarith
  · have hdouble : (2 : Rat) ^ (-(f.bias : Int) - f.mb) = 2 * 2 ^ (-(f.bias : Int) - f.mb - 1) := by
      rw [← zpow_one_add₀ two_ne_zero]
      congr 1
      ring
    rw [← hunit, hdouble, ← mul_assoc, ← mul_assoc, mul_lt_mul_iff_left₀ hw, mul_lt_mul_iff_left₀ hw]
    obtain ⟨hhi, hlo, htie⟩ := hround
    push_cast at hhi hlo htie
    obtain hn2 | hn2 := hn2.lt_or_eq
    · refine iff_of_true ?_ ?_
      · have : (n : Rat) < 2 ^ (f.mb + 1) := by exact_mod_cast hn2
        linarith
      · have : (n : Rat) + 1 ≤ 2 ^ (f.mb + 1) := by exact_mod_cast hn2
        have hne : v - n ≠ 1 / 2 ∨ (n : Rat) + 1 < 2 ^ (f.mb + 1) := by
          by_contra hboth
          rw [not_or, not_not, not_lt] at hboth
          have heven := htie (.inr hboth.1)
          have hn : n + 1 = 2 ^ (f.mb + 1) := by
            have : (n : Rat) + 1 = 2 ^ (f.mb + 1) := le_antisymm this hboth.2
            exact_mod_cast this
          rw [pow_succ] at hn
          omega
        obtain hne | hne := hne
        · have := lt_of_le_of_ne hlo hne
          linarith
        · linarith
    · refine iff_of_false ?_ ?_
      · have : (n : Rat) = 2 ^ (f.mb + 1) := by exact_mod_cast hn2
        linarith
      · have : (n : Rat) = 2 ^ (f.mb + 1) := by exact_mod_cast hn2
        linarith
  · have hge : (2 : Rat) ^ (f.mb + 2) * 2 ^ (-(f.bias : Int) - f.mb - 1) ≤ 2 ^ l := by
      rw [← hnormal]
      exact two_zpow_le (by omega)
    have hge' : (2 : Rat) ^ l ≤ n * 2 ^ (l - f.mb) := by
      have := mul_le_mul_of_nonneg_right (show (2 : Rat) ^ f.mb ≤ n by exact_mod_cast hn1) hu.le
      rwa [hpow, sub_add_cancel] at this
    refine iff_of_false (not_lt.2 (hge.trans hge')) (not_lt.2 (le_trans ?_ (hge.trans hlow)))
    exact mul_le_mul_of_nonneg_right (by linarith) hw.le

end

end Sys2Proof
end

section
/-!
PROOF. What `roundTo` and `roundF8` answer for a finite number (spec/01_numbers.md R15, R16, R19): the finite code nearest to it, with its flags, or what lies
beyond the largest finite code. The number need not be known but by how it lies against multiples of a small power of two: so a root or a reciprocal, which is
kept with a sticky last bit, is rounded as the exact one.
-/
namespace Sys2Proof

-- The proofs of this file run one after another: side by side they take the check's memory.
set_option Elab.async false

/-! ## The finite codes -/

section
variable (f : Fmt)

/-- The finite codes of a format are those up to its largest magnitude, and such a code is its sign, significand and last place. -/
structure Fmt.Regular : Prop where
  mb_pos : 1 ≤ f.mb
  finite_iff : ∀ x, (valOf f x).isFin = true ↔ x % 2 ^ f.magBits ≤ f.maxFin
  value : ∀ x, x % 2 ^ f.magBits ≤ f.maxFin → valOf f x = .fin (f.sgn x) (f.sig (x % 2 ^ f.magBits)) (f.ulp (x % 2 ^ f.magBits))
  maxFin_lt : f.maxFin < 2 ^ f.magBits

variable {f}

theorem regular_of_ieee (htop : f.top = .ieee) (hmb : 1 ≤ f.mb) (heb : 1 ≤ f.eb) : f.Regular := by
  have hmb1 : 1 ≤ 2 ^ f.mb := Nat.two_pow_pos _
  have heb2 : 2 ^ 1 ≤ 2 ^ f.eb := Nat.pow_le_pow_right Nat.two_pos heb
  have hones : 0 < 2 ^ f.eb - 1 := Nat.sub_pos_of_lt heb2
  have hinf : 1 ≤ f.inf := Nat.mul_pos hones hmb1
  have hmax : f.maxFin = f.inf - 1 := by unfold Fmt.maxFin Fmt.inf; rw [htop]
  have hlt : f.inf < 2 ^ f.magBits := by
    unfold Fmt.inf Fmt.magBits
    rw [Nat.pow_add]
    exact Nat.mul_lt_mul_of_pos_right (by omega) hmb1
  have hvalue (x : Nat) (h : x % 2 ^ f.magBits ≤ f.maxFin) := valOf_finite f (x := x) (by rw [htop]; show x % 2 ^ f.magBits < f.inf; omega)
  refine ⟨hmb, fun x => ⟨fun h => ?_, fun h => by rw [hvalue x h]; rfl⟩, hvalue, by omega⟩
  by_contra hnot
  rw [valOf_special f htop hmb (by omega)] at h
  split at h <;> contradiction

theorem regular_of_oneNaN (htop : f.top = .oneNaN) (hmb : 1 ≤ f.mb) (heb : 1 ≤ f.eb) : f.Regular := by
  have hmax : f.maxFin = 2 ^ f.magBits - 2 := by unfold Fmt.maxFin; rw [htop]
  have htwo : 2 ^ 2 ≤ 2 ^ f.magBits := Nat.pow_le_pow_right (by decide) (by unfold Fmt.magBits; omega)
  have hvalue (x : Nat) (h : x % 2 ^ f.magBits ≤ f.maxFin) :=
    valOf_finite f (x := x) (by rw [htop]; show x % 2 ^ f.magBits ≠ 2 ^ f.magBits - 1; omega)
  refine ⟨hmb, fun x => ⟨fun h => ?_, fun h => by rw [hvalue x h]; rfl⟩, hvalue, by omega⟩
  by_contra hnot
  have hlt := f.mod_lt x
  have htopmost : x % 2 ^ f.magBits = 2 ^ f.magBits - 1 := by omega
  have hnan : valOf f x = .nan false := by
    unfold valOf
    simp [htop, htopmost]
  rw [hnan] at h
  contradiction

theorem regular_f32 : fmtF32.Regular := regular_of_ieee rfl (by decide) (by decide)
theorem regular_bf16 : fmtBF16.Regular := regular_of_ieee rfl (by decide) (by decide)
theorem regular_e5m2 : fmtE5M2.Regular := regular_of_ieee rfl (by decide) (by decide)
theorem regular_e4m3 : fmtE4M3.Regular := regular_of_oneNaN rfl (by decide) (by decide)

section
variable (h : f.Regular) {x : Nat} (hx : x % 2 ^ f.magBits ≤ f.maxFin)
include h hx

theorem Fmt.Regular.negative : (valOf f x).negative = f.sgn x := by rw [h.value x hx]; rfl

theorem Fmt.Regular.rat : (valOf f x).rat = (if f.sgn x then -1 else 1) * f.mval (x % 2 ^ f.magBits) := by
  rw [h.value x hx]
  exact mul_assoc ..

theorem Fmt.Regular.abs_rat : |(valOf f x).rat| = f.mval (x % 2 ^ f.magBits) := by
  rw [h.rat hx, abs_mul, abs_of_nonneg (f.mval_nonneg _)]
  cases f.sgn x <;> simp

end

/-- The last bit of a code is that of its magnitude. -/
theorem pack_parity (hf : f.Regular) (neg : Bool) (mag : Nat) : f.pack neg mag % 2 = mag % 2 := by
  obtain ⟨b, hb⟩ : ∃ b, f.magBits = b + 1 := ⟨f.magBits - 1, by have := hf.mb_pos; unfold Fmt.magBits; omega⟩
  unfold Fmt.pack
  rw [hb, pow_succ, ← mul_assoc]
  omega

end

theorem Fmt.mid_nonneg (f : Fmt) (mag : Nat) : 0 ≤ f.mid mag := (f.mval_nonneg mag).trans (f.lt_mid mag).le

/-- A finite magnitude that the number told of by `le` and `ge` lies nearest to, by the midpoints to its neighbours, ties to even. -/
theorem nearest_of_mids {f : Fmt} (hf : f.Regular) {le ge : Rat → Bool} {mag : Nat} (hmax : mag ≤ f.maxFin)
    (hanti : ∀ p q, 0 ≤ p → p ≤ q → le q = true → le p = true) (hmono : ∀ p q, 0 ≤ p → p ≤ q → ge p = true → ge q = true)
    (habove : ge (f.mid mag) = true) (hatie : le (f.mid mag) = true → mag % 2 = 0)
    (hbelow : ∀ k, mag = k + 1 → le (f.mid k) = true ∧ (ge (f.mid k) = true → mag % 2 = 0)) (neg : Bool) :
    f.Nearest neg le ge (f.pack neg mag) := by
  have hlt : mag < 2 ^ f.magBits := hmax.trans_lt hf.maxFin_lt
  have hmod := f.pack_mod neg hlt
  have hfin : f.pack neg mag % 2 ^ f.magBits ≤ f.maxFin := hmod.symm ▸ hmax
  refine ⟨f.pack_lt neg hlt, (hf.finite_iff _).2 hfin, by rw [hf.negative hfin, f.sgn_pack neg hlt], fun y _ hyfin _ => ?_⟩
  have hy := (hf.finite_iff y).1 hyfin
  dsimp only
  rw [hf.abs_rat hfin, hf.abs_rat hy, hmod, pack_parity hf]
  generalize y % 2 ^ f.magBits = k
  constructor
  · intro hlt
    have hk : mag + 1 ≤ k := f.mval_strictMono.lt_iff_lt.1 hlt
    have hle : f.mid mag ≤ (f.mval mag + f.mval k) / 2 := by
      have := f.mval_strictMono.monotone hk
      unfold Fmt.mid
      linarith
    exact ⟨hmono _ _ (f.mid_nonneg _) hle habove, fun hle' => hatie (hanti _ _ (f.mid_nonneg _) hle hle')⟩
  · intro hlt
    have hk : k < mag := f.mval_strictMono.lt_iff_lt.1 hlt
    obtain ⟨j, rfl⟩ : ∃ j, mag = j + 1 := ⟨mag - 1, by omega⟩
    have hge : (f.mval (j + 1) + f.mval k) / 2 ≤ f.mid j := by
      have := f.mval_strictMono.monotone (Nat.lt_succ_iff.1 hk)
      unfold Fmt.mid
      linarith
    have hnonneg : 0 ≤ (f.mval (j + 1) + f.mval k) / 2 := by
      have := f.mval_nonneg (j + 1)
      have := f.mval_nonneg k
      linarith
    obtain ⟨hmid, htie⟩ := hbelow j rfl
    exact ⟨hanti _ _ hnonneg hge hmid, fun hge' => htie (hmono _ _ hnonneg hge hge')⟩

/-! ## A number told of by its place among multiples of a power of two -/

/-- `le` (q ≤ x) and `ge` (x ≤ q) tell of a magnitude that lies as `x` does against the multiples of 2^g. -/
structure Tells (le ge : Rat → Bool) (x : Rat) (g : Int) : Prop where
  le_anti : ∀ p q, 0 ≤ p → p ≤ q → le q = true → le p = true
  ge_mono : ∀ p q, 0 ≤ p → p ≤ q → ge p = true → ge q = true
  le_iff : ∀ (j : Nat) (i : Int), g ≤ i → (le (j * (2 : Rat) ^ i) = true ↔ j * (2 : Rat) ^ i ≤ x)
  ge_iff : ∀ (j : Nat) (i : Int), g ≤ i → (ge (j * (2 : Rat) ^ i) = true ↔ x ≤ j * (2 : Rat) ^ i)

/-- A number tells of itself. -/
theorem tells_self (x : Rat) (g : Int) : Tells (fun q => decide (q ≤ x)) (fun q => decide (x ≤ q)) x g where
  le_anti _ _ _ hpq h := decide_eq_true (hpq.trans (of_decide_eq_true h))
  ge_mono _ _ _ hpq h := decide_eq_true ((of_decide_eq_true h).trans hpq)
  le_iff _ _ _ := decide_eq_true_iff
  ge_iff _ _ _ := decide_eq_true_iff

section
variable (f : Fmt)

theorem Fmt.mid_eq (mag : Nat) : f.mid mag = (2 * f.sig mag + 1 : Nat) * (2 : Rat) ^ (f.ulp mag - 1) := by
  have hhalf : (2 : Rat) ^ f.ulp mag = 2 * 2 ^ (f.ulp mag - 1) := by
    rw [← zpow_one_add₀ two_ne_zero]
    congr 1
    ring
  unfold Fmt.mid
  rw [f.mval_succ]
  unfold Fmt.mval
  rw [hhalf]
  push_cast
  ring

variable {f} {le ge : Rat → Bool} {x : Rat} {g : Int} (ht : Tells le ge x g) {mag : Nat}
include ht

theorem Tells.le_mid (hg : g ≤ f.ulp mag - 1) : le (f.mid mag) = true ↔ f.mid mag ≤ x := by
  rw [f.mid_eq]
  exact ht.le_iff _ _ hg

theorem Tells.ge_mid (hg : g ≤ f.ulp mag - 1) : ge (f.mid mag) = true ↔ x ≤ f.mid mag := by
  rw [f.mid_eq]
  exact ht.ge_iff _ _ hg

theorem Tells.le_mval (hg : g ≤ f.ulp mag) : le (f.mval mag) = true ↔ f.mval mag ≤ x := ht.le_iff _ _ hg

theorem Tells.ge_mval (hg : g ≤ f.ulp mag) : ge (f.mval mag) = true ↔ x ≤ f.mval mag := ht.ge_iff _ _ hg

/-- The nearest magnitude to a number, where it is finite, is the nearest code of a sign. -/
theorem Fmt.NearMag.nearest (hf : f.Regular) (h : f.NearMag x mag) (hmax : mag ≤ f.maxFin) (hg : g ≤ f.ulp mag - 2) (neg : Bool) :
    f.Nearest neg le ge (f.pack neg mag) := by
  refine nearest_of_mids hf hmax ht.le_anti ht.ge_mono ((ht.ge_mid (by omega)).2 h.above) (fun hle => ?_) (fun j hj => ?_) neg
  · exact h.above_tie (le_antisymm h.above ((ht.le_mid (by omega)).1 hle))
  · have hulp := f.ulp_succ_le j
    rw [← hj] at hulp
    refine ⟨(ht.le_mid (by omega)).2 (h.below j hj), fun hge => ?_⟩
    exact h.below_tie j hj (le_antisymm (h.below j hj) ((ht.ge_mid (by omega)).1 hge))

end

/-! ## The finite results -/

/-- How fine the multiples must be by which the number m · 2^e is told of, to round it to `f`. -/
def Fine (f : Fmt) (g : Int) (m : Nat) (e : Int) : Prop := g ≤ f.emin - 2 ∨ m ≠ 0 ∧ g ≤ expOf m e - f.mb - 2

section
variable {f : Fmt} {m : Nat} {e : Int}

theorem roundMag_nearMag (hf : f.Regular) : f.NearMag (m * (2 : Rat) ^ e) (roundMag f m e).1 := by
  by_cases hm : m = 0
  · subst hm
    rw [f.roundMag_zero, Nat.cast_zero, zero_mul]
    exact ⟨f.mid_nonneg 0, fun _ => rfl, nofun, nofun⟩
  · exact roundMag_near hm e hf.mb_pos

theorem roundMag_nx : (roundMag f m e).2.1 = true ↔ f.mval (roundMag f m e).1 ≠ m * (2 : Rat) ^ e := by
  by_cases hm : m = 0
  · subst hm
    simp [f.roundMag_zero, f.mval_zero]
  · rw [← Bool.not_eq_false, roundMag_inexact hm]

theorem roundMag_uf : ((roundMag f m e).2.1 && (roundMag f m e).2.2) = true ↔ f.mval (roundMag f m e).1 ≠ m * (2 : Rat) ^ e ∧
    m * (2 : Rat) ^ e < (2 ^ (f.mb + 2) - 1) * (2 : Rat) ^ (-(f.bias : Int) - f.mb - 1) := by
  rw [Bool.and_eq_true, roundMag_nx]
  by_cases hm : m = 0
  · subst hm
    simp [f.roundMag_zero, f.mval_zero]
  · rw [roundMag_tiny hm]

variable {g : Int} (hg : Fine f g m e)
include hg

theorem Fine.le_ulp : g ≤ f.ulp (roundMag f m e).1 - 2 := by
  obtain hg | ⟨hm, hg⟩ := hg
  · have := f.emin_le_ulp (roundMag f m e).1
    omega
  · have := expOf_le_ulp_roundMag (f := f) hm e
    omega

/-- Against multiples of the last place of a subnormal, halved twice, the number is told of. -/
theorem Fine.le_iff {le ge : Rat → Bool} (ht : Tells le ge (m * (2 : Rat) ^ e) g) (j : Nat) {i : Int} (hi : f.emin - 2 ≤ i)
    (hj : j < 2 ^ (f.mb + 2)) : le (j * (2 : Rat) ^ i) = true ↔ j * (2 : Rat) ^ i ≤ m * (2 : Rat) ^ e := by
  by_cases hgi : g ≤ i
  · exact ht.le_iff j i hgi
  obtain hg | ⟨hm, hg⟩ := hg
  · omega
  have hlow := two_zpow_expOf_le hm e
  have hbound : j * (2 : Rat) ^ i ≤ 2 ^ expOf m e := by
    refine le_trans (mul_le_mul_of_nonneg_right (show (j : Rat) ≤ 2 ^ (f.mb + 2) by exact_mod_cast hj.le) (two_zpow_pos i).le) ?_
    rw [← zpow_natCast, ← two_zpow_add]
    exact two_zpow_le (by push_cast; omega)
  have hle : le ((1 : Nat) * (2 : Rat) ^ expOf m e) = true := (ht.le_iff 1 _ (by omega)).2 (by simpa using hlow)
  rw [Nat.cast_one, one_mul] at hle
  exact iff_of_true (ht.le_anti _ _ (mul_nonneg (Nat.cast_nonneg j) (two_zpow_pos i).le) hbound hle) (hbound.trans hlow)

end

/-- FO of R16: a subnormal result becomes a zero, with UF and NX. -/
theorem flushOut_eq (f : Fmt) (fo : Bool) (mag : Nat) (fl : Word) :
    flushOut f fo mag fl = if fo = true ∧ 0 < mag ∧ mag < 2 ^ f.mb then (0, fl ||| 0x18) else (mag, fl) := by
  unfold flushOut
  refine if_congr ?_ (congrArg (Prod.mk 0) (BitVec.or_assoc ..)) rfl
  rw [Bool.and_eq_true, Bool.and_eq_true, and_assoc, bne_iff_ne, beq_iff_eq, f.div_eq_zero_iff, Nat.pos_iff_ne_zero]

/-- The code and the flags of a rounded finite magnitude, after FO. -/
def finiteCode (f : Fmt) (fo neg : Bool) (r : Nat × Bool × Bool) : Nat × Word :=
  let fl : Word := (if r.2.1 then fNX else 0) ||| (if r.2.1 && r.2.2 then fUF else 0)
  (f.pack neg (flushOut f fo r.1 fl).1, (flushOut f fo r.1 fl).2)

theorem roundTo_fin (f : Fmt) (fo neg : Bool) (m : Nat) (e : Int) : roundTo f fo (.fin neg m e) =
    if f.inf ≤ (roundMag f m e).1 then (f.pack neg f.inf, 0x14) else finiteCode f fo neg (roundMag f m e) := rfl

/-- A finite result is the nearest code, with its flags. -/
theorem finiteCode_rounds {f : Fmt} (hf : f.Regular) {m : Nat} {e g : Int} {le ge : Rat → Bool}
    (ht : Tells le ge (m * (2 : Rat) ^ e) g) (hg : Fine f g m e) (hmax : (roundMag f m e).1 ≤ f.maxFin) (fo neg : Bool) :
    f.RoundsFinite fo neg le ge (finiteCode f fo neg (roundMag f m e)) := by
  have hulp := hg.le_ulp
  refine ⟨_, (roundMag_nearMag hf).nearest ht hf hmax hulp neg, ?_⟩
  have hlt : (roundMag f m e).1 < 2 ^ f.magBits := hmax.trans_lt hf.maxFin_lt
  have hmod := f.pack_mod neg hlt
  have hnx : (!(le (f.mval (roundMag f m e).1) && ge (f.mval (roundMag f m e).1))) = (roundMag f m e).2.1 := by
    rw [Bool.eq_iff_iff, roundMag_nx, Bool.not_eq_true', ← Bool.not_eq_true, Bool.and_eq_true, ht.le_mval (by omega), ht.ge_mval (by omega),
      ← le_antisymm_iff]
  have hsmall : le ((2 ^ (f.mb + 2) - 1) * (2 : Rat) ^ (-(f.bias : Int) - f.mb - 1)) = true ↔
      (2 ^ (f.mb + 2) - 1) * (2 : Rat) ^ (-(f.bias : Int) - f.mb - 1) ≤ m * (2 : Rat) ^ e := by
    have := hg.le_iff ht (2 ^ (f.mb + 2) - 1) (i := -(f.bias : Int) - f.mb - 1) (by unfold Fmt.emin; omega)
      (Nat.sub_lt (Nat.two_pow_pos _) Nat.one_pos)
    rwa [Nat.cast_sub (Nat.two_pow_pos _), Nat.cast_pow, Nat.cast_ofNat, Nat.cast_one] at this
  have huf : ((roundMag f m e).2.1 && !le ((2 ^ (f.mb + 2) - 1) * (2 : Rat) ^ (-(f.bias : Int) - f.mb - 1))) =
      ((roundMag f m e).2.1 && (roundMag f m e).2.2) := by
    rw [Bool.eq_iff_iff, roundMag_uf, Bool.and_eq_true, roundMag_nx, Bool.not_eq_true', ← Bool.not_eq_true, hsmall, not_le]
  have hfin : f.pack neg (roundMag f m e).1 % 2 ^ f.magBits ≤ f.maxFin := hmod.symm ▸ hmax
  dsimp only
  rw [hf.abs_rat hfin, hmod, hnx, huf, show f.eb + f.mb = f.magBits from rfl, hmod]
  unfold finiteCode
  dsimp only
  rw [flushOut_eq]
  split
  · refine Prod.ext ?_ rfl
    unfold Fmt.pack
    dsimp only
    omega
  · rfl

/-! ## Beyond the largest finite value -/

section
variable {f : Fmt} {x : Rat} {mag N : Nat} (h : f.NearMag x mag)
include h

/-- What rounds beyond an odd magnitude lies at the midpoint to the next or beyond. -/
theorem Fmt.NearMag.lt_odd_iff (hN : N % 2 = 1) : N < mag ↔ f.mid N ≤ x := by
  constructor
  · intro hlt
    obtain ⟨k, rfl⟩ : ∃ k, mag = k + 1 := ⟨mag - 1, by omega⟩
    exact (f.mid_strictMono.monotone (Nat.lt_succ_iff.1 hlt)).trans (h.below k rfl)
  · intro hle
    by_contra hnot
    have hmid := f.mid_strictMono.monotone (not_lt.1 hnot)
    have heq : f.mid mag = f.mid N := le_antisymm hmid (hle.trans h.above)
    have := f.mid_strictMono.injective heq
    have := h.above_tie (le_antisymm h.above (heq ▸ hle))
    omega

/-- What rounds beyond an even magnitude lies beyond the midpoint to the next. -/
theorem Fmt.NearMag.lt_even_iff (hN : N % 2 = 0) : N < mag ↔ f.mid N < x := by
  constructor
  · intro hlt
    obtain ⟨k, rfl⟩ : ∃ k, mag = k + 1 := ⟨mag - 1, by omega⟩
    have hmid := f.mid_strictMono.monotone (Nat.lt_succ_iff.1 hlt)
    have hle := h.below k rfl
    refine lt_of_le_of_ne (hmid.trans hle) fun heq => ?_
    have := f.mid_strictMono.injective (le_antisymm hmid (heq ▸ hle))
    have := h.below_tie k rfl (le_antisymm hle (heq ▸ hmid))
    omega
  · intro hlt
    by_contra hnot
    exact absurd (h.above.trans (f.mid_strictMono.monotone (not_lt.1 hnot))) (not_le.2 hlt)

end

/-- Half a unit beyond the largest finite value of a format with infinities. -/
theorem mid_inf_pred {f : Fmt} (hbias : 2 ^ f.eb = 2 * f.bias + 2) (hb : 1 ≤ f.bias) :
    f.mid (f.inf - 1) = (2 ^ (f.mb + 2) - 1) * (2 : Rat) ^ ((f.bias : Int) - f.mb - 1) := by
  have hpos := Nat.two_pow_pos f.mb
  have hdbl : 2 ^ (f.mb + 1) = 2 * 2 ^ f.mb := by rw [Nat.pow_succ, Nat.mul_comm]
  have hinf : f.inf = (2 * f.bias - 1) * 2 ^ f.mb + 2 ^ (f.mb + 1) := by
    unfold Fmt.inf
    rw [hbias, hdbl, ← Nat.add_mul]
    congr 1
    omega
  have hlast : f.inf - 1 = (2 * f.bias - 1) * 2 ^ f.mb + (2 ^ (f.mb + 1) - 1) := by omega
  have hnext : (2 * f.bias - 1) * 2 ^ f.mb + (2 ^ (f.mb + 1) - 1) + 1 = (2 * f.bias - 1) * 2 ^ f.mb + 2 ^ (f.mb + 1) := by omega
  unfold Fmt.mid
  rw [hlast, hnext, f.mval_block (.inr (by omega)) (by omega), f.mval_block (.inr (by omega)) le_rfl]
  have hexp : f.emin + ((2 * f.bias - 1 : Nat) : Int) = (f.bias : Int) - f.mb - 1 + 1 := by unfold Fmt.emin; omega
  rw [hexp, zpow_add_one₀ two_ne_zero, Nat.cast_sub (Nat.two_pow_pos _)]
  push_cast
  ring

/-- A number rounded to a format with infinities (R15, R16). -/
theorem roundTo_rounds {f : Fmt} (hf : f.Regular) (htop : f.top = .ieee) (hbias : 2 ^ f.eb = 2 * f.bias + 2) (hb : 1 ≤ f.bias) {m : Nat}
    {e g : Int} {le ge : Rat → Bool} (ht : Tells le ge (m * (2 : Rat) ^ e) g) (hg : Fine f g m e) (fo neg : Bool) :
    f.Rounds fo neg le ge (roundTo f fo (.fin neg m e)) := by
  have hmax : f.maxFin = f.inf - 1 := by unfold Fmt.maxFin Fmt.inf; rw [htop]
  have hpos : 2 ≤ f.inf := by
    have := Nat.pow_le_pow_right (n := 2) (by decide) hf.mb_pos
    unfold Fmt.inf
    exact this.trans (Nat.le_mul_of_pos_left _ (by omega))
  have hodd : (f.inf - 1) % 2 = 1 := by
    obtain ⟨b, hb⟩ : ∃ b, f.mb = b + 1 := ⟨f.mb - 1, by have := hf.mb_pos; omega⟩
    have : f.inf % 2 = 0 := by
      unfold Fmt.inf
      rw [hb, pow_succ, ← mul_assoc]
      omega
    omega
  have hover : f.inf ≤ (roundMag f m e).1 ↔ (2 ^ (f.mb + 2) - 1) * (2 : Rat) ^ ((f.bias : Int) - f.mb - 1) ≤ m * (2 : Rat) ^ e := by
    rw [← mid_inf_pred hbias hb, ← (roundMag_nearMag hf).lt_odd_iff hodd]
    omega
  have htold : le ((2 ^ (f.mb + 2) - 1) * (2 : Rat) ^ ((f.bias : Int) - f.mb - 1)) = true ↔ f.inf ≤ (roundMag f m e).1 := by
    have := hg.le_iff ht (2 ^ (f.mb + 2) - 1) (i := (f.bias : Int) - f.mb - 1) (by unfold Fmt.emin; omega)
      (Nat.sub_lt (Nat.two_pow_pos _) Nat.one_pos)
    rw [Nat.cast_sub (Nat.two_pow_pos _), Nat.cast_pow, Nat.cast_ofNat, Nat.cast_one] at this
    rw [this, hover]
  rw [roundTo_fin]
  constructor
  · intro hle
    rw [if_pos (htold.1 hle)]
    unfold Fmt.pack Fmt.inf Fmt.magBits
    cases neg <;> simp [b2n]
  · intro hle
    have hnot : ¬ f.inf ≤ (roundMag f m e).1 := fun h => by rw [htold.2 h] at hle; contradiction
    rw [if_neg hnot]
    exact finiteCode_rounds hf ht hg (by omega) fo neg

theorem roundTo_rounds_f32 {m : Nat} {e g : Int} {le ge : Rat → Bool} (ht : Tells le ge (m * (2 : Rat) ^ e) g) (hg : Fine fmtF32 g m e)
    (fo neg : Bool) : fmtF32.Rounds fo neg le ge (roundTo fmtF32 fo (.fin neg m e)) :=
  roundTo_rounds regular_f32 rfl rfl (by decide) ht hg fo neg

theorem roundTo_rounds_bf16 {m : Nat} {e g : Int} {le ge : Rat → Bool} (ht : Tells le ge (m * (2 : Rat) ^ e) g) (hg : Fine fmtBF16 g m e)
    (fo neg : Bool) : fmtBF16.Rounds fo neg le ge (roundTo fmtBF16 fo (.fin neg m e)) :=
  roundTo_rounds regular_bf16 rfl rfl (by decide) ht hg fo neg

/-- An exact number is told of as finely as one likes. -/
theorem fine_emin (f : Fmt) (m : Nat) (e : Int) : Fine f (f.emin - 2) m e := .inl le_rfl

end Sys2Proof
end

section
/-!
PROOF. FSQRT, FRCP and FRSQ (spec/06_lane_float_planes.md R150): the model keeps the integer part of the root or the reciprocal with a sticky last bit, which tells
of the exact number.
-/
namespace Sys2Proof

-- The proofs of this file run one after another: side by side they take the check's memory.
set_option Elab.async false

/-! ## The integer square root -/

theorem isqrtFrom_spec (x : Nat) : ∀ k r, r * r ≤ x → x < (r + 2 ^ k) * (r + 2 ^ k) →
    isqrtFrom x k r * isqrtFrom x k r ≤ x ∧ x < (isqrtFrom x k r + 1) * (isqrtFrom x k r + 1)
  | 0, _, hle, hlt => ⟨hle, hlt⟩
  | k + 1, r, hle, hlt => by
    unfold isqrtFrom
    split
    next h =>
      refine isqrtFrom_spec x k _ h ?_
      rwa [Nat.add_assoc, ← Nat.two_mul, ← pow_succ']
    next h => exact isqrtFrom_spec x k r hle (not_le.1 h)

theorem isqrt_spec (x : Nat) : isqrt x * isqrt x ≤ x ∧ x < (isqrt x + 1) * (isqrt x + 1) := by
  refine isqrtFrom_spec x _ 0 (Nat.zero_le _) ?_
  rw [Nat.zero_add, ← pow_add]
  refine Nat.lt_log2_self.trans_le (Nat.pow_le_pow_right Nat.two_pos ?_)
  omega

theorem le_isqrt_iff (x j : Nat) : j ≤ isqrt x ↔ j * j ≤ x := by
  obtain ⟨hle, hlt⟩ := isqrt_spec x
  constructor
  · exact fun h => (Nat.mul_le_mul h h).trans hle
  · intro h
    by_contra hnot
    exact absurd ((Nat.mul_le_mul (not_le.1 hnot) (not_le.1 hnot)).trans h) (not_le.2 hlt)

/-! ## An integer part with a sticky last bit -/

/-- The greatest `r` whose `c r` does not exceed `N`, in units of 2^g and with half a unit where `c r` is not `N`, tells of the number that
is to the units as `N` is to `c`. -/
theorem tells_of_greatest {le ge : Rat → Bool} {g : Int} {c : Nat → Nat} {N r : Nat} (hc : StrictMono c) (hr : ∀ j, c j ≤ N ↔ j ≤ r)
    (hanti : ∀ p q, 0 ≤ p → p ≤ q → le q = true → le p = true) (hmono : ∀ p q, 0 ≤ p → p ≤ q → ge p = true → ge q = true)
    (hle : ∀ j : Nat, le (j * (2 : Rat) ^ g) = true ↔ c j ≤ N) (hge : ∀ j : Nat, ge (j * (2 : Rat) ^ g) = true ↔ N ≤ c j) :
    Tells le ge ((2 * r + b2n (c r != N) : Nat) * (2 : Rat) ^ (g - 1)) g := by
  have hscale (j : Nat) {i : Int} (hi : g ≤ i) : j * (2 : Rat) ^ i = (j * 2 ^ (i - g).toNat : Nat) * (2 : Rat) ^ g := by
    push_cast
    rw [mul_assoc, ← zpow_natCast, ← two_zpow_add]
    congr 2
    omega
  have hhalf (j : Nat) : j * (2 : Rat) ^ g = (2 * j : Nat) * 2 ^ (g - 1) := by
    rw [show (2 : Rat) ^ g = 2 * 2 ^ (g - 1) by rw [← zpow_one_add₀ two_ne_zero]; congr 1; ring]
    push_cast
    ring
  have hpos := two_zpow_pos (g - 1)
  have hsticky : b2n (c r != N) = 0 ∧ c r = N ∨ b2n (c r != N) = 1 ∧ c r < N := by
    obtain h | h := ((hr r).2 le_rfl).eq_or_lt
    · exact .inl ⟨by simp [h, b2n], h⟩
    · exact .inr ⟨by simp [h.ne, b2n], h⟩
  refine ⟨hanti, hmono, fun j i hi => ?_, fun j i hi => ?_⟩
  · rw [hscale j hi, hle, hr, hhalf, mul_le_mul_iff_left₀ hpos, Nat.cast_le]
    omega
  · rw [hscale j hi, hge, hhalf, mul_le_mul_iff_left₀ hpos, Nat.cast_le]
    generalize j * 2 ^ (i - g).toNat = k
    obtain ⟨hs, h⟩ | ⟨hs, h⟩ := hsticky
    · rw [hs, ← h, hc.le_iff_le]
      omega
    · have hk : N ≤ c k ↔ r < k := by
        constructor
        · intro hN
          by_contra hnot
          exact absurd (hN.trans (hc.monotone (not_lt.1 hnot))) (not_le.2 h)
        · intro hlt
          exact (not_le.1 (mt (hr k).1 (not_le.2 hlt))).le
      rw [hs, hk]
      omega

/-- An integer part of 25 bits or more is fine enough for binary32. -/
theorem fine_of_floor {g : Int} {r : Nat} (s : Nat) (h : 2 ^ 25 ≤ r) : Fine fmtF32 g (2 * r + s) (g - 1) := by
  refine .inr ⟨by omega, ?_⟩
  have hlog : 26 ≤ Nat.log2 (2 * r + s) := (Nat.le_log2 (by omega)).2 (by omega)
  unfold expOf
  change g ≤ (Nat.log2 (2 * r + s) : Int) + (g - 1) - 23 - 2
  omega

theorem mul_self_strictMono : StrictMono fun j : Nat => j * j := fun _ _ h => Nat.mul_self_lt_mul_self h

/-! ## The exact numbers -/

section
variable {m : Nat} {e : Int} {v : Rat} (hv : v = m * (2 : Rat) ^ e)
include hv

/-- The square root of a number with an even exponent, in units of 2^(e/2 − 40). -/
theorem tells_root (he : e % 2 = 0) : Tells (fun q => decide (q * q ≤ v)) (fun q => decide (v ≤ q * q))
    ((2 * isqrt (m * 4 ^ 40) + b2n (isqrt (m * 4 ^ 40) * isqrt (m * 4 ^ 40) != m * 4 ^ 40) : Nat) * (2 : Rat) ^ (e / 2 - 40 - 1)) (e / 2 - 40) := by
  have hdouble : (2 : Rat) ^ (e - 80) = 2 ^ (e / 2 - 40) * 2 ^ (e / 2 - 40) := by
    rw [← two_zpow_add]
    congr 1
    omega
  have hsq (j : Nat) : j * (2 : Rat) ^ (e / 2 - 40) * (j * (2 : Rat) ^ (e / 2 - 40)) = (j * j : Nat) * (2 : Rat) ^ (e - 80) := by
    rw [hdouble]
    push_cast
    ring
  have hval : v = (m * 4 ^ 40 : Nat) * (2 : Rat) ^ (e - 80) := by
    have : (2 : Rat) ^ e = 4 ^ 40 * 2 ^ (e - 80) := by
      rw [show (4 : Rat) ^ 40 = 2 ^ (80 : Int) by norm_num, ← two_zpow_add]
      congr 1
      ring
    rw [hv, this]
    push_cast
    ring
  have hpos := two_zpow_pos (e - 80)
  refine tells_of_greatest (c := fun j => j * j) mul_self_strictMono (fun j => (le_isqrt_iff _ j).symm) (fun p q hp hpq h => ?_) (fun p q hp hpq h => ?_)
    (fun j => ?_) (fun j => ?_)
  · exact decide_eq_true ((mul_self_le_mul_self hp hpq).trans (of_decide_eq_true h))
  · exact decide_eq_true ((of_decide_eq_true h).trans (mul_self_le_mul_self hp hpq))
  · rw [decide_eq_true_iff, hsq, hval, mul_le_mul_iff_left₀ hpos, Nat.cast_le]
  · rw [decide_eq_true_iff, hsq, hval, mul_le_mul_iff_left₀ hpos, Nat.cast_le]

/-- The reciprocal of a number, in units of 2^(−k − e). -/
theorem tells_recip (hm : 0 < m) (k : Nat) : Tells (fun q => decide (q * v ≤ 1)) (fun q => decide (1 ≤ q * v))
    ((2 * (2 ^ k / m) + b2n (2 ^ k / m * m != 2 ^ k) : Nat) * (2 : Rat) ^ (-(k : Int) - e - 1)) (-(k : Int) - e) := by
  have hunit (j : Nat) : j * (2 : Rat) ^ (-(k : Int) - e) * v = (j * m : Nat) * (2 : Rat) ^ (-(k : Int)) := by
    rw [hv, show (2 : Rat) ^ (-(k : Int)) = 2 ^ (-(k : Int) - e) * 2 ^ e by rw [← two_zpow_add, sub_add_cancel]]
    generalize (2 : Rat) ^ (-(k : Int) - e) = u
    push_cast
    ring
  have hone : (1 : Rat) = (2 ^ k : Nat) * (2 : Rat) ^ (-(k : Int)) := by
    rw [zpow_neg, zpow_natCast]
    push_cast
    exact (mul_inv_cancel₀ (by positivity)).symm
  have hpos := two_zpow_pos (-(k : Int))
  have hv0 : 0 ≤ v := hv ▸ mul_nonneg (Nat.cast_nonneg m) (two_zpow_pos e).le
  refine tells_of_greatest (c := fun j => j * m) (fun _ _ h => Nat.mul_lt_mul_of_pos_right h hm) (fun j => (Nat.le_div_iff_mul_le hm).symm)
    (fun p q hp hpq h => ?_) (fun p q hp hpq h => ?_) (fun j => ?_) (fun j => ?_)
  · exact decide_eq_true ((mul_le_mul_of_nonneg_right hpq hv0).trans (of_decide_eq_true h))
  · exact decide_eq_true ((of_decide_eq_true h).trans (mul_le_mul_of_nonneg_right hpq hv0))
  · rw [decide_eq_true_iff, hunit]
    nth_rw 1 [hone]
    rw [mul_le_mul_iff_left₀ hpos, Nat.cast_le]
  · rw [decide_eq_true_iff, hunit]
    nth_rw 1 [hone]
    rw [mul_le_mul_iff_left₀ hpos, Nat.cast_le]

/-- The reciprocal of the root of a number with an even exponent, in units of 2^(−64 − e/2). -/
theorem tells_recipRoot (hm : 0 < m) (he : e % 2 = 0) : Tells (fun q => decide (q * q * v ≤ 1)) (fun q => decide (1 ≤ q * q * v))
    ((2 * isqrt (4 ^ 64 / m) + b2n (isqrt (4 ^ 64 / m) * isqrt (4 ^ 64 / m) * m != 4 ^ 64) : Nat) * (2 : Rat) ^ (-64 - e / 2 - 1))
    (-64 - e / 2) := by
  have hunit (j : Nat) : j * (2 : Rat) ^ (-64 - e / 2) * (j * (2 : Rat) ^ (-64 - e / 2)) * v = (j * j * m : Nat) * (2 : Rat) ^ (-128 : Int) := by
    have : (2 : Rat) ^ (-128 : Int) = 2 ^ (-64 - e / 2) * 2 ^ (-64 - e / 2) * 2 ^ e := by
      rw [← two_zpow_add, ← two_zpow_add]
      congr 1
      omega
    rw [hv, this]
    push_cast
    ring
  have hone : (1 : Rat) = (4 ^ 64 : Nat) * (2 : Rat) ^ (-128 : Int) := by norm_num
  have hpos := two_zpow_pos (-128)
  have hv0 : 0 ≤ v := hv ▸ mul_nonneg (Nat.cast_nonneg m) (two_zpow_pos e).le
  refine tells_of_greatest (c := fun j => j * j * m) (fun _ _ h => Nat.mul_lt_mul_of_pos_right (Nat.mul_self_lt_mul_self h) hm)
    (fun j => by rw [le_isqrt_iff, Nat.le_div_iff_mul_le hm])
    (fun p q hp hpq h => ?_) (fun p q hp hpq h => ?_) (fun j => ?_) (fun j => ?_)
  · exact decide_eq_true ((mul_le_mul_of_nonneg_right (mul_self_le_mul_self hp hpq) hv0).trans (of_decide_eq_true h))
  · exact decide_eq_true ((of_decide_eq_true h).trans (mul_le_mul_of_nonneg_right (mul_self_le_mul_self hp hpq) hv0))
  · rw [decide_eq_true_iff, hunit]
    nth_rw 1 [hone]
    rw [mul_le_mul_iff_left₀ hpos, Nat.cast_le]
  · rw [decide_eq_true_iff, hunit]
    nth_rw 1 [hone]
    rw [mul_le_mul_iff_left₀ hpos, Nat.cast_le]

end

/-! ## The members -/

/-- A significand of binary32 with its last place, moved to an even exponent. -/
theorem even_exponent (m : Nat) (e : Int) : ∃ m' e', (if e % 2 == 0 then (m, e) else (2 * m, e - 1)) = (m', e') ∧ e' % 2 = 0 ∧
    m' * (2 : Rat) ^ e' = m * (2 : Rat) ^ e ∧ m ≤ m' ∧ m' ≤ 2 * m := by
  by_cases h : e % 2 = 0
  · exact ⟨m, e, by simp [h], h, rfl, le_rfl, by omega⟩
  · refine ⟨2 * m, e - 1, by simp [h], by omega, ?_, by omega, le_rfl⟩
    push_cast
    rw [show (2 : Rat) ^ e = 2 * 2 ^ (e - 1) by rw [← zpow_one_add₀ two_ne_zero]; congr 1; ring]
    ring

section
variable {fi : Bool} {a m : Nat} {e : Int} {v : Rat} (fo : Bool) (hm : m ≠ 0) (hv : v = m * (2 : Rat) ^ e)
include hm hv

theorem opSqrt_rounds (h : valOf fmtF32 (flush fmtF32 fi a) = .fin false m e) :
    fmtF32.Rounds fo false (fun q => decide (q * q ≤ v)) (fun q => decide (v ≤ q * q)) (opSqrt fi fo a) := by
  obtain ⟨m', e', heq, heven, hval, hle, -⟩ := even_exponent m e
  have hroot : opSqrt fi fo a = roundTo fmtF32 fo (.fin false (2 * isqrt (m' * 4 ^ 40) + b2n (isqrt (m' * 4 ^ 40) * isqrt (m' * 4 ^ 40) != m' * 4 ^ 40))
      (e' / 2 - 40 - 1)) := by
    have hne : (m == 0) = false := beq_eq_false_iff_ne.2 hm
    unfold opSqrt rootOf
    rw [h]
    simp only [hne, Bool.false_eq_true, if_false, heq]
    congr 2
    omega
  rw [hroot]
  refine roundTo_rounds_f32 (tells_root (hv.trans hval.symm) heven) (fine_of_floor _ ?_) fo false
  rw [le_isqrt_iff]
  omega

theorem opRcp_rounds {n : Bool} (h : valOf fmtF32 (flush fmtF32 fi a) = .fin n m e) :
    fmtF32.Rounds fo n (fun q => decide (q * v ≤ 1)) (fun q => decide (1 ≤ q * v)) (opRcp fi fo a) := by
  have hrecip : opRcp fi fo a = roundTo fmtF32 fo (.fin n (2 * (2 ^ (Nat.log2 m + 65) / m) +
      b2n (2 ^ (Nat.log2 m + 65) / m * m != 2 ^ (Nat.log2 m + 65))) (-((Nat.log2 m + 65 : Nat) : Int) - e - 1)) := by
    have hne : (m == 0) = false := beq_eq_false_iff_ne.2 hm
    unfold opRcp recipOf
    rw [h]
    simp only [hne, Bool.false_eq_true, if_false]
  rw [hrecip]
  refine roundTo_rounds_f32 (tells_recip hv (Nat.pos_of_ne_zero hm) _) (fine_of_floor _ ?_) fo n
  rw [Nat.le_div_iff_mul_le (Nat.pos_of_ne_zero hm), show Nat.log2 m + 65 = Nat.log2 m + 1 + 64 by ring, Nat.pow_add, Nat.mul_comm]
  exact Nat.mul_le_mul Nat.lt_log2_self.le (by decide)

theorem opRsq_rounds (h : valOf fmtF32 (flush fmtF32 fi a) = .fin false m e) (hlt : m < 2 ^ 24) :
    fmtF32.Rounds fo false (fun q => decide (q * q * v ≤ 1)) (fun q => decide (1 ≤ q * q * v)) (opRsq fi fo a) := by
  obtain ⟨m', e', heq, heven, hval, hle, hle'⟩ := even_exponent m e
  have hm' : 0 < m' := by omega
  have hroot : opRsq fi fo a = roundTo fmtF32 fo (.fin false (2 * isqrt (4 ^ 64 / m') +
      b2n (isqrt (4 ^ 64 / m') * isqrt (4 ^ 64 / m') * m' != 4 ^ 64)) (-64 - e' / 2 - 1)) := by
    have hne : (m == 0) = false := beq_eq_false_iff_ne.2 hm
    unfold opRsq
    rw [h]
    simp only [hne, Bool.false_eq_true, if_false, heq]
    congr 2
    omega
  rw [hroot]
  refine roundTo_rounds_f32 (tells_recipRoot (hv.trans hval.symm) hm' heven) (fine_of_floor _ ?_) fo false
  rw [le_isqrt_iff, Nat.le_div_iff_mul_le hm']
  refine (Nat.mul_le_mul_left _ (show m' ≤ 2 ^ 25 by omega)).trans (by decide)

end

end Sys2Proof
end

section
/-!
PROOF. The numbers that codes name, and rounding to the formats (spec/01_numbers.md R14 to R16, R18, R19; spec/06_lane_float_planes.md R150, R156).
-/
namespace Sys2Proof.Machine

-- The proofs of this file run one after another: side by side they take the check's memory.
set_option Elab.async false

/-! ## The fields of a code (R14) -/

section
variable (f : Fmt) (x : Nat)

theorem mod_magBits_div : x % 2 ^ f.magBits / 2 ^ f.mb = x / 2 ^ f.mb % 2 ^ f.eb := by
  unfold Fmt.magBits
  rw [Nat.add_comm, Nat.pow_add, Nat.mod_mul_right_div_self]

theorem mod_magBits_mod : x % 2 ^ f.magBits % 2 ^ f.mb = x % 2 ^ f.mb :=
  Nat.mod_mod_of_dvd x (Nat.pow_dvd_pow 2 (Nat.le_add_left ..))

theorem sgn_eq (h : x < 2 ^ (f.eb + f.mb + 1)) : f.sgn x = decide (x / 2 ^ (f.eb + f.mb) = 1) := by
  have hlt : x / 2 ^ f.magBits < 2 := Nat.div_lt_of_lt_mul ((Nat.pow_succ ..) ▸ h : x < 2 ^ f.magBits * 2)
  unfold Fmt.sgn bit
  rw [Nat.mod_eq_of_lt hlt]
  rfl

/-- The number of a magnitude by its exponent and mantissa fields. -/
theorem mval_fields : f.mval (x % 2 ^ f.magBits) = if x / 2 ^ f.mb % 2 ^ f.eb = 0 then (x % 2 ^ f.mb : Nat) * (2 : Rat) ^ (1 - (f.bias : Int) - f.mb)
    else (2 ^ f.mb + (x % 2 ^ f.mb : Nat)) * (2 : Rat) ^ (((x / 2 ^ f.mb % 2 ^ f.eb : Nat) : Int) - f.bias - f.mb) := by
  have hzero := f.div_eq_zero_iff (x % 2 ^ f.magBits)
  rw [← mod_magBits_div, ← mod_magBits_mod]
  unfold Fmt.mval Fmt.sig Fmt.ulp
  generalize x % 2 ^ f.magBits = mag at *
  by_cases h : mag < 2 ^ f.mb
  · rw [if_pos h, if_pos h, if_pos (hzero.2 h), Nat.mod_eq_of_lt h]
    rfl
  · rw [if_neg h, if_neg h, if_neg (mt hzero.1 h)]
    push_cast
    congr 2
    unfold Fmt.emin
    ring

/-- FI by the fields of a code (R16). -/
theorem flush_fields (h : x < 2 ^ (f.eb + f.mb + 1)) :
    flush f true x = if x / 2 ^ f.mb % 2 ^ f.eb = 0 ∧ x % 2 ^ f.mb ≠ 0 then x - x % 2 ^ f.mb else x := by
  have hsub : f.isSub x = true ↔ x / 2 ^ f.mb % 2 ^ f.eb = 0 ∧ x % 2 ^ f.mb ≠ 0 := by
    unfold Fmt.isSub
    simp [mod_magBits_div, mod_magBits_mod]
  unfold flush
  rw [Bool.true_and]
  by_cases hs : x / 2 ^ f.mb % 2 ^ f.eb = 0 ∧ x % 2 ^ f.mb ≠ 0
  · rw [if_pos (hsub.2 hs), if_pos hs]
    have hmag : x % 2 ^ f.magBits = x % 2 ^ f.mb := by
      have := Nat.div_add_mod (x % 2 ^ f.magBits) (2 ^ f.mb)
      rw [mod_magBits_div, hs.1, mod_magBits_mod, Nat.mul_zero, Nat.zero_add] at this
      exact this.symm
    have hpack := f.pack_sgn h
    unfold Fmt.pack at hpack ⊢
    omega
  · rw [if_neg (mt hsub.1 hs), if_neg hs]

end

/-- A format of R14 by the statement's terms: its codes with an exponent of ones are special where `special` is set. -/
def FieldsAgree (f : Fmt) (eb mb bias : Nat) (special : Bool) : Prop :=
  ∀ x, x < 2 ^ (eb + mb + 1) →
    let neg := decide (x / 2 ^ (eb + mb) = 1)
    let e : Nat := x / 2 ^ mb % 2 ^ eb
    let m : Nat := x % 2 ^ mb
    let topmost := special = true ∧ e = 2 ^ eb - 1
    let nan := f = fmtE4M3 ∧ x % 2 ^ 7 = 2 ^ 7 - 1
    (topmost → valOf f x = if m = 0 then .inf neg else .nan (decide (m < 2 ^ (mb - 1)))) ∧ (nan → valOf f x = .nan false) ∧
    (¬ topmost → ¬ nan → (valOf f x).isFin = true ∧ (valOf f x).negative = neg ∧
      |(valOf f x).rat| = if e = 0 then m * (2 : Rat) ^ (1 - (bias : Int) - mb) else (2 ^ mb + m) * (2 : Rat) ^ ((e : Int) - bias - mb)) ∧
    flush f false x = x ∧ flush f true x = if e = 0 ∧ m ≠ 0 then x - m else x

section
variable {f : Fmt}

/-- A finite code in the statement's terms. -/
theorem finite_fields (hf : f.Regular) {x : Nat} (hx : x < 2 ^ (f.eb + f.mb + 1)) (h : x % 2 ^ f.magBits ≤ f.maxFin) :
    (valOf f x).isFin = true ∧ (valOf f x).negative = decide (x / 2 ^ (f.eb + f.mb) = 1) ∧
      |(valOf f x).rat| = if x / 2 ^ f.mb % 2 ^ f.eb = 0 then (x % 2 ^ f.mb : Nat) * (2 : Rat) ^ (1 - (f.bias : Int) - f.mb)
        else (2 ^ f.mb + (x % 2 ^ f.mb : Nat)) * (2 : Rat) ^ (((x / 2 ^ f.mb % 2 ^ f.eb : Nat) : Int) - f.bias - f.mb) :=
  ⟨(hf.finite_iff x).2 h, (hf.negative h).trans (sgn_eq f x hx), (hf.abs_rat h).trans (mval_fields f x)⟩

/-- The leading mantissa bit is clear where the mantissa lies in its lower half. -/
theorem not_bit_eq (hmb : 1 ≤ f.mb) (x : Nat) : (!bit x (f.mb - 1)) = decide (x % 2 ^ f.mb < 2 ^ (f.mb - 1)) := by
  obtain ⟨k, hk⟩ : ∃ k, f.mb = k + 1 := ⟨f.mb - 1, by omega⟩
  have hdiv : x % 2 ^ (k + 1) / 2 ^ k = x / 2 ^ k % 2 := by rw [Nat.pow_succ, Nat.mod_mul_right_div_self]
  have hlt : x % 2 ^ (k + 1) < 2 ^ k ↔ x / 2 ^ k % 2 = 0 := by rw [← hdiv, Nat.div_eq_zero_iff_lt (Nat.two_pow_pos k)]
  rw [hk, Nat.add_sub_cancel, Bool.eq_iff_iff, Bool.not_eq_true', decide_eq_true_iff, hlt]
  unfold bit
  rw [beq_eq_false_iff_ne]
  exact Nat.mod_two_ne_one

theorem fieldsAgree_of_ieee (hf : f.Regular) (htop : f.top = .ieee) (hne : f ≠ fmtE4M3) : FieldsAgree f f.eb f.mb f.bias true := by
  intro x hx
  have hones := f.div_eq_ones_iff (f.mod_lt x)
  rw [mod_magBits_div] at hones
  have hmax : f.maxFin = f.inf - 1 := by unfold Fmt.maxFin Fmt.inf; rw [htop]
  refine ⟨fun h => ?_, fun h => absurd h.1 hne, fun h _ => finite_fields hf hx ?_, rfl, flush_fields f x hx⟩
  · have hsplit := Nat.div_add_mod' (x % 2 ^ f.magBits) (2 ^ f.mb)
    rw [mod_magBits_div, mod_magBits_mod, h.2] at hsplit
    rw [valOf_special f htop hf.mb_pos (hones.1 h.2), not_bit_eq hf.mb_pos, sgn_eq f x hx]
    refine if_congr ?_ rfl rfl
    rw [← hsplit]
    exact Nat.add_eq_left
  · have := mt hones.2 fun he => h ⟨rfl, he⟩
    omega

theorem regular_of_none (htop : f.top = .none) (hmb : 1 ≤ f.mb) : f.Regular := by
  have hmax : f.maxFin = 2 ^ f.magBits - 1 := by unfold Fmt.maxFin; rw [htop]
  have hpos := Nat.two_pow_pos f.magBits
  have hvalue (x : Nat) := valOf_finite f (x := x) (by rw [htop]; trivial)
  refine ⟨hmb, fun x => ⟨fun _ => ?_, fun _ => by rw [hvalue x]; rfl⟩, fun x _ => hvalue x, by omega⟩
  have := f.mod_lt x
  omega

theorem fieldsAgree_of_none (htop : f.top = .none) (hmb : 1 ≤ f.mb) (hne : f ≠ fmtE4M3) : FieldsAgree f f.eb f.mb f.bias false := by
  intro x hx
  have hmax : f.maxFin = 2 ^ f.magBits - 1 := by unfold Fmt.maxFin; rw [htop]
  refine ⟨fun h => absurd h.1 (by decide), fun h => absurd h.1 hne,
    fun _ _ => finite_fields (regular_of_none htop hmb) hx ?_, rfl, flush_fields f x hx⟩
  have := f.mod_lt x
  omega

theorem fieldsAgree_e4m3 : FieldsAgree fmtE4M3 4 3 7 false := by
  intro x hx
  refine ⟨fun h => absurd h.1 (by decide), fun h => ?_, fun _ h => finite_fields regular_e4m3 hx ?_, rfl, flush_fields fmtE4M3 x hx⟩
  · have hnot : ¬ (valOf fmtE4M3 x).isFin = true := fun hfin => absurd ((regular_e4m3.finite_iff x).1 hfin) (by
      have : x % 2 ^ fmtE4M3.magBits = 127 := h.2
      rw [this]
      decide)
    have hmag : x % 2 ^ fmtE4M3.magBits = 2 ^ fmtE4M3.magBits - 1 := h.2
    unfold valOf
    simp [hmag, show fmtE4M3.top = .oneNaN from rfl]
  · have hlt := fmtE4M3.mod_lt x
    have hne : x % 2 ^ 7 ≠ 2 ^ 7 - 1 := fun he => h ⟨rfl, he⟩
    change x % 2 ^ 7 < 2 ^ 7 at hlt
    change x % 2 ^ 7 ≤ 126
    omega

end

/-! ## Rounded results -/

theorem abs_rat_fin (neg : Bool) (m : Nat) (e : Int) : |(Num.fin neg m e).rat| = m * (2 : Rat) ^ e := by
  have : (Num.fin neg m e).rat = (if neg then -1 else 1) * (m * (2 : Rat) ^ e) := mul_assoc ..
  rw [this, abs_mul, abs_of_nonneg (mul_nonneg (Nat.cast_nonneg m) (two_zpow_pos e).le)]
  cases neg <;> simp

/-- An exact finite value, rounded and delivered; `zero` is the sign of a zero. -/
theorem delivered_roundsRat {f : Fmt} (hf : f = fmtF32 ∨ f = fmtBF16) (fo neg : Bool) (m : Nat) (e : Int) :
    f.RoundsRat fo (Num.fin neg m e).rat neg (delivered f fo (.fin neg m e)) := by
  have habs := abs_rat_fin neg m e
  have hsign : (if (Num.fin neg m e).rat = 0 then neg else decide ((Num.fin neg m e).rat < 0)) = neg := by
    by_cases h0 : (Num.fin neg m e).rat = 0
    · rw [if_pos h0]
    · rw [if_neg h0]
      have hx : 0 < m * (2 : Rat) ^ e := habs ▸ abs_pos.2 h0
      cases neg
      · exact decide_eq_false (by simp only [Num.rat, if_false, Bool.false_eq_true, one_mul]; exact hx.not_gt)
      · exact decide_eq_true (by simp only [Num.rat, if_true, neg_mul, one_mul]; linarith)
  have hdel : delivered f fo (.fin neg m e) = roundTo f fo (.fin neg m e) := by
    unfold delivered
    simp [numNV]
  unfold Fmt.RoundsRat
  rw [hsign, hdel, habs]
  obtain rfl | rfl := hf
  · exact roundTo_rounds_f32 (tells_self _ _) (fine_emin _ _ _) fo neg
  · exact roundTo_rounds_bf16 (tells_self _ _) (fine_emin _ _ _) fo neg

theorem roundF8_fin (f : Fmt) (sat fo neg : Bool) (m : Nat) (e : Int) : roundF8 f sat fo (.fin neg m e) =
    if f.maxFin < (roundMag f m e).1 then
      if sat then (f.pack neg f.maxFin, fSAT)
      else match f.top with
        | .ieee => (f.pack neg f.inf, 0x14)
        | .oneNaN => (f.nan, 0x14)
        | .none => (f.pack neg f.maxFin, fSAT)
    else finiteCode f fo neg (roundMag f m e) := rfl

/-- The midpoint beyond E4M3's largest value, an even code, and beyond E5M2's, an odd one. -/
theorem mid_e4m3 : fmtE4M3.mid 0x7E = 464 := by
  norm_num [Fmt.mid, Fmt.mval, Fmt.sig, Fmt.ulp, Fmt.emin, fmtE4M3]
theorem mid_e5m2 : fmtE5M2.mid 0x7B = 61440 := by
  norm_num [Fmt.mid, Fmt.mval, Fmt.sig, Fmt.ulp, Fmt.emin, fmtE5M2]

theorem roundF8_e4m3 (sat fo neg : Bool) (m : Nat) (e : Int) :
    (m * (2 : Rat) ^ e ≤ 464 → fmtE4M3.RoundsFinite fo neg (fun q => decide (q ≤ m * (2 : Rat) ^ e)) (fun q => decide (m * (2 : Rat) ^ e ≤ q))
      (roundF8 fmtE4M3 sat fo (.fin neg m e))) ∧
    (464 < m * (2 : Rat) ^ e → roundF8 fmtE4M3 sat fo (.fin neg m e) =
      if sat then ((if neg then 0x80 else 0) + 0x7E, 0x20) else (0x7F, 0x14)) := by
  have hover := (roundMag_nearMag (m := m) (e := e) regular_e4m3).lt_even_iff (N := 0x7E) (by decide)
  rw [mid_e4m3] at hover
  rw [roundF8_fin]
  constructor
  · intro h
    have hmax : ¬ fmtE4M3.maxFin < (roundMag fmtE4M3 m e).1 := mt hover.1 (not_lt.2 h)
    rw [if_neg hmax]
    exact finiteCode_rounds regular_e4m3 (tells_self _ _) (fine_emin _ _ _) (not_lt.1 hmax) fo neg
  · intro h
    have hmax : fmtE4M3.maxFin < (roundMag fmtE4M3 m e).1 := hover.2 h
    rw [if_pos hmax]
    cases neg <;> rfl

theorem roundF8_e5m2 (sat fo neg : Bool) (m : Nat) (e : Int) :
    (m * (2 : Rat) ^ e < 61440 → fmtE5M2.RoundsFinite fo neg (fun q => decide (q ≤ m * (2 : Rat) ^ e)) (fun q => decide (m * (2 : Rat) ^ e ≤ q))
      (roundF8 fmtE5M2 sat fo (.fin neg m e))) ∧
    (61440 ≤ m * (2 : Rat) ^ e → roundF8 fmtE5M2 sat fo (.fin neg m e) =
      if sat then ((if neg then 0x80 else 0) + 0x7B, 0x20) else ((if neg then 0x80 else 0) + 0x7C, 0x14)) := by
  have hover := (roundMag_nearMag (m := m) (e := e) regular_e5m2).lt_odd_iff (N := 0x7B) (by decide)
  rw [mid_e5m2] at hover
  rw [roundF8_fin]
  constructor
  · intro h
    have hmax : ¬ fmtE5M2.maxFin < (roundMag fmtE5M2 m e).1 := mt hover.1 (not_le.2 h)
    rw [if_neg hmax]
    exact finiteCode_rounds regular_e5m2 (tells_self _ _) (fine_emin _ _ _) (not_lt.1 hmax) fo neg
  · intro h
    have hmax : fmtE5M2.maxFin < (roundMag fmtE5M2 m e).1 := hover.2 h
    rw [if_pos hmax]
    cases neg <;> rfl

/-! ## The nearest value -/

/-- A code nearest by midpoints is nearest by distance. -/
theorem dist_le_of_nearest {f : Fmt} {neg : Bool} {x : Rat} {p y : Nat} (h : f.Nearest neg (fun q => decide (q ≤ x)) (fun q => decide (x ≤ q)) p)
    (hlt : y < 2 ^ (f.eb + f.mb + 1)) (hfin : (valOf f y).isFin = true) (hneg : (valOf f y).negative = neg) :
    |(|(valOf f p).rat| - x)| ≤ |(|(valOf f y).rat| - x)| ∧
      (|(|(valOf f p).rat| - x)| = |(|(valOf f y).rat| - x)| → |(valOf f p).rat| ≠ |(valOf f y).rat| → p % 2 = 0) := by
  obtain ⟨-, -, -, hmid⟩ := h
  have := hmid y hlt hfin hneg
  simp only [decide_eq_true_iff] at this
  generalize |(valOf f p).rat| = a at *
  generalize |(valOf f y).rat| = b at *
  obtain ⟨hlow, hhigh⟩ := this
  obtain hab | rfl | hab := lt_trichotomy a b
  · obtain ⟨hx, htie⟩ := hlow hab
    refine ⟨?_, fun heq _ => htie ?_⟩
    · rw [abs_of_nonneg (show 0 ≤ b - x by linarith), abs_le]
      exact ⟨by linarith, by linarith⟩
    · rw [abs_of_nonneg (show 0 ≤ b - x by linarith)] at heq
      obtain h | h := abs_eq_abs.1 (heq.trans (abs_of_nonneg (show 0 ≤ b - x by linarith)).symm) <;> linarith
  · exact ⟨le_rfl, fun _ hne => absurd rfl hne⟩
  · obtain ⟨hx, htie⟩ := hhigh hab
    refine ⟨?_, fun heq _ => htie ?_⟩
    · rw [abs_of_nonpos (show b - x ≤ 0 by linarith), abs_le]
      exact ⟨by linarith, by linarith⟩
    · rw [abs_of_nonpos (show b - x ≤ 0 by linarith)] at heq
      obtain h | h := abs_eq_abs.1 (heq.trans (abs_of_nonpos (show b - x ≤ 0 by linarith)).symm) <;> linarith

theorem roundTo_nearest {neg : Bool} {m : Nat} {e : Int} {m' : Nat} {e' : Int}
    (h : valOf fmtF32 (roundTo fmtF32 false (.fin neg m e)).1 = .fin neg m' e') {y m'' : Nat} {e'' : Int} (hy : y < 2 ^ 32)
    (hyval : valOf fmtF32 y = .fin neg m'' e'') :
    |m' * (2 : Rat) ^ e' - m * (2 : Rat) ^ e| ≤ |m'' * (2 : Rat) ^ e'' - m * (2 : Rat) ^ e| ∧
      (|m' * (2 : Rat) ^ e' - m * (2 : Rat) ^ e| = |m'' * (2 : Rat) ^ e'' - m * (2 : Rat) ^ e| → (m' : Rat) * 2 ^ e' ≠ m'' * 2 ^ e'' →
        (roundTo fmtF32 false (.fin neg m e)).1 % 2 = 0) := by
  obtain ⟨hinf, hfin⟩ := roundTo_rounds_f32 (m := m) (tells_self _ _) (fine_emin _ _ e) false neg
  obtain hle | hle := Bool.eq_false_or_eq_true (decide ((2 ^ (fmtF32.mb + 2) - 1) * (2 : Rat) ^ ((fmtF32.bias : Int) - fmtF32.mb - 1) ≤ m * (2 : Rat) ^ e))
  · have htop : valOf fmtF32 ((if neg then 2 ^ (fmtF32.eb + fmtF32.mb) else 0) + (2 ^ fmtF32.eb - 1) * 2 ^ fmtF32.mb) = .inf neg := by
      cases neg <;> rfl
    rw [hinf hle, htop] at h
    contradiction
  · obtain ⟨p, hp, hr⟩ := hfin hle
    simp only [Bool.false_eq_true, false_and, if_false] at hr
    rw [hr] at h ⊢
    have := dist_le_of_nearest hp hy (by rw [hyval]; rfl) (by rw [hyval]; rfl)
    simp only [h, hyval, abs_rat_fin] at this
    exact this

theorem pos_of_rat_fin {n : Bool} {m : Nat} {e : Int} (h : 0 < (Num.fin n m e).rat) :
    n = false ∧ m ≠ 0 ∧ (Num.fin n m e).rat = m * (2 : Rat) ^ e := by
  have hm : m ≠ 0 := by
    rintro rfl
    exact h.ne' (rat_of_zero n e)
  have hnonneg := mul_nonneg (Nat.cast_nonneg m) (two_zpow_pos e).le
  cases n
  · exact ⟨rfl, hm, by simp [Num.rat]⟩
  · exact absurd h (by simp only [Num.rat, if_true, neg_mul, one_mul]; linarith)

/-! ## The statement -/

theorem sig_lt (f : Fmt) (mag : Nat) : f.sig mag < 2 ^ (f.mb + 1) := by
  have := Nat.mod_lt mag (Nat.two_pow_pos f.mb)
  rw [Nat.pow_succ]
  unfold Fmt.sig
  split <;> omega

/-- A finite value of binary32 has a significand of at most 24 bits. -/
theorem sig_lt_of_valOf {x m : Nat} {n : Bool} {e : Int} (h : valOf fmtF32 x = .fin n m e) : m < 2 ^ 24 := by
  have hfin := (regular_f32.finite_iff x).1 (by rw [h]; rfl)
  rw [regular_f32.value x hfin] at h
  obtain ⟨-, rfl, -⟩ := Num.fin.inj h
  exact sig_lt fmtF32 _

/-- Settles O12: a code's value is read off its fields, and what is rounded lies by `roundMag_near` between the midpoints. -/
theorem floatRounding : Obligations.FloatRounding := by
  unfold Obligations.FloatRounding
  refine ⟨fun neg m e _ m' e' h y m'' e'' hy hyval => roundTo_nearest h hy hyval, ?fields, ?ieee, ?fp8, ?members⟩
  case fields =>
    show ∀ p ∈ ([_, _, _, _, _, _, _] : List (Fmt × Nat × Nat × Nat × Bool)), FieldsAgree p.1 p.2.1 p.2.2.1 p.2.2.2.1 p.2.2.2.2
    simp only [List.forall_mem_cons]
    exact ⟨fieldsAgree_of_ieee regular_f32 rfl (by decide), fieldsAgree_of_ieee regular_bf16 rfl (by decide),
      fieldsAgree_of_ieee regular_e5m2 rfl (by decide), fieldsAgree_e4m3, fieldsAgree_of_none (f := fmtE3M2) rfl (by decide) (by decide),
      fieldsAgree_of_none (f := fmtE2M3) rfl (by decide) (by decide), fieldsAgree_of_none (f := fmtE2M1) rfl (by decide) (by decide), nofun⟩
  case ieee =>
    rintro f fo neg m e (rfl | rfl)
    · exact roundTo_rounds_f32 (tells_self _ _) (fine_emin _ _ _) fo neg
    · exact roundTo_rounds_bf16 (tells_self _ _) (fine_emin _ _ _) fo neg
  case fp8 =>
    intro sat fo neg m e
    obtain ⟨h1, h2⟩ := roundF8_e4m3 sat fo neg m e
    obtain ⟨h3, h4⟩ := roundF8_e5m2 sat fo neg m e
    exact ⟨h1, h2, h3, h4⟩
  case members =>
    intro fi fo a _
    cases hval : valOf fmtF32 (flush fmtF32 fi a) with
    | nan | inf => exact nofun
    | fin n m e =>
      intro x v _
      have hnarrow : opNarrowBF16 fi fo a = delivered fmtBF16 fo (.fin n m e) := by unfold opNarrowBF16; rw [hval]
      have hpos : 0 < v → n = false ∧ m ≠ 0 ∧ v = m * (2 : Rat) ^ e := pos_of_rat_fin
      refine ⟨hnarrow ▸ delivered_roundsRat (.inr rfl) fo n m e, fun sat => ?_, fun h => ?_, fun h => ?_, fun h => ?_⟩
      · unfold opNarrowF8
        rw [hval]
        exact ⟨rfl, rfl⟩
      · obtain ⟨rfl, hm, hv⟩ := hpos h
        exact opSqrt_rounds fo hm hv hval
      · obtain ⟨rfl, hm, hv⟩ := hpos h
        exact opRsq_rounds fo hm hv hval (sig_lt_of_valOf hval)
      · have hv : |v| = m * (2 : Rat) ^ e := abs_rat_fin n m e
        refine opRcp_rounds fo ?_ hv hval
        rintro rfl
        exact h (by simp [v, x, Num.rat])

end Sys2Proof.Machine
end

section
/-!
PROOF. Numbers that a format holds are rounded to themselves, and the whole numbers of a number (spec/06_lane_float_planes.md R151, R155, R157, R158).
-/
namespace Sys2Proof

-- The proofs of this file run one after another: side by side they take the check's memory.
set_option Elab.async false

/-! ## Exact rounding -/

section
variable {f : Fmt}

/-- A significand of the format's bits in units no finer than its subnormals' is a magnitude. -/
theorem Fmt.exists_mval (f : Fmt) : ∀ d n : Nat, n < 2 ^ (f.mb + 1) → ∃ mag, f.mval mag = n * (2 : Rat) ^ (f.emin + d)
  | 0, n, hn => ⟨0 * 2 ^ f.mb + n, f.mval_block (.inl rfl) hn.le⟩
  | d + 1, n, hn => by
    by_cases h : 2 ^ f.mb ≤ n
    · exact ⟨(d + 1) * 2 ^ f.mb + n, f.mval_block (.inr h) hn.le⟩
    · obtain ⟨mag, hmag⟩ := f.exists_mval d (2 * n) (by rw [Nat.pow_succ]; omega)
      refine ⟨mag, hmag.trans ?_⟩
      rw [show f.emin + ((d + 1 : Nat) : Int) = f.emin + d + 1 by push_cast; ring, zpow_add_one₀ two_ne_zero]
      push_cast
      ring

theorem Fmt.exists_mval_of_le (f : Fmt) {n : Nat} {i : Int} (hn : n < 2 ^ (f.mb + 1)) (hi : f.emin ≤ i) :
    ∃ mag, f.mval mag = n * (2 : Rat) ^ i := by
  obtain ⟨mag, hmag⟩ := f.exists_mval (i - f.emin).toNat n hn
  exact ⟨mag, by rw [hmag, show f.emin + ((i - f.emin).toNat : Int) = i by omega]⟩

/-- A magnitude is the nearest to itself. -/
theorem Fmt.NearMag.eq_of_mval {mag mag' : Nat} (h : f.NearMag (f.mval mag) mag') : mag' = mag := by
  obtain hlt | heq | hlt := lt_trichotomy mag' mag
  · have := (f.mid_lt mag').trans_le (f.mval_strictMono.monotone hlt)
    exact absurd h.above (not_le.2 this)
  · exact heq
  · obtain ⟨k, rfl⟩ : ∃ k, mag' = k + 1 := ⟨mag' - 1, by omega⟩
    have := (f.lt_mid mag).trans_le (f.mid_strictMono.monotone (Nat.lt_succ_iff.1 hlt))
    exact absurd (h.below k rfl) (not_le.2 this)

variable (hf : f.Regular) {m : Nat} {e : Int} {mag : Nat} (h : f.mval mag = m * (2 : Rat) ^ e)
include hf h

theorem roundMag_exact : (roundMag f m e).1 = mag ∧ (roundMag f m e).2.1 = false := by
  have hmag : (roundMag f m e).1 = mag := Fmt.NearMag.eq_of_mval (h ▸ roundMag_nearMag hf)
  exact ⟨hmag, by rw [← Bool.not_eq_true, roundMag_nx, hmag, h, not_not]⟩

theorem finiteCode_exact (neg : Bool) : finiteCode f false neg (roundMag f m e) = (f.pack neg mag, 0) := by
  obtain ⟨hmag, hnx⟩ := roundMag_exact hf h
  unfold finiteCode
  rw [hmag, hnx]
  dsimp only
  rw [flushOut_eq, if_neg (by simp), Bool.false_and]
  rfl

omit h in
/-- The number of a finite code, by its sign and magnitude. -/
theorem valOf_pack (neg : Bool) (hmax : mag ≤ f.maxFin) :
    f.pack neg mag < 2 ^ (f.eb + f.mb + 1) ∧ valOf f (f.pack neg mag) = .fin neg (f.sig mag) (f.ulp mag) := by
  have hlt : mag < 2 ^ f.magBits := hmax.trans_lt hf.maxFin_lt
  have hmod := f.pack_mod neg hlt
  exact ⟨f.pack_lt neg hlt, by rw [hf.value _ (hmod.symm ▸ hmax), f.sgn_pack neg hlt, hmod]⟩

omit hf in
theorem rat_of_mval (neg : Bool) : (Num.fin neg (f.sig mag) (f.ulp mag)).rat = (Num.fin neg m e).rat := by
  simp only [Num.rat, mul_assoc]
  exact congrArg _ h

end

/-- A number that the format holds is rounded to itself without a flag. -/
theorem roundTo_exact {f : Fmt} (hf : f.Regular) (hinf : f.maxFin < f.inf) {m : Nat} {e : Int} {mag : Nat}
    (h : f.mval mag = m * (2 : Rat) ^ e) (hmax : mag ≤ f.maxFin) (neg : Bool) :
    roundTo f false (.fin neg m e) = (f.pack neg mag, 0) := by
  rw [roundTo_fin, if_neg (by rw [(roundMag_exact hf h).1]; omega), finiteCode_exact hf h]

theorem mval_f32_inf : fmtF32.mval 0x7F800000 = (2 : Rat) ^ (128 : Int) := by
  norm_num [Fmt.mval, Fmt.sig, Fmt.ulp, Fmt.emin, fmtF32]

/-- A number of at most 24 bits in the range of binary32, rounded to it. -/
theorem roundTo_f32_exact {n m : Nat} {i e : Int} (hn : n < 2 ^ 24) (hi : -149 ≤ i) (heq : m * (2 : Rat) ^ e = n * 2 ^ i)
    (hlt : m * (2 : Rat) ^ e < 2 ^ (128 : Int)) (neg : Bool) :
    (roundTo fmtF32 false (.fin neg m e)).2 = 0 ∧ (roundTo fmtF32 false (.fin neg m e)).1 < 2 ^ 32 ∧
      (valOf fmtF32 (roundTo fmtF32 false (.fin neg m e)).1).isFin = true ∧
      (valOf fmtF32 (roundTo fmtF32 false (.fin neg m e)).1).negative = neg ∧
      (valOf fmtF32 (roundTo fmtF32 false (.fin neg m e)).1).rat = (Num.fin neg m e).rat := by
  obtain ⟨mag, hmag⟩ := fmtF32.exists_mval_of_le hn hi
  rw [← heq] at hmag
  have hmax : mag ≤ fmtF32.maxFin := by
    have : mag < 0x7F800000 := fmtF32.mval_strictMono.lt_iff_lt.1 (by rw [hmag, mval_f32_inf]; exact hlt)
    exact Nat.le_pred_of_lt this
  obtain ⟨hcode, hval⟩ := valOf_pack regular_f32 neg hmax
  rw [roundTo_exact regular_f32 (by decide) hmag hmax]
  refine ⟨rfl, hcode, ?_⟩
  rw [hval]
  exact ⟨rfl, rfl, rat_of_mval hmag neg⟩

/-! ## Whole numbers -/

theorem RneInt.neg {v : Rat} {z : Int} (h : RneInt v z) : RneInt (-v) (-z) := by
  obtain ⟨hhi, hlo, htie⟩ := h
  unfold RneInt
  push_cast
  refine ⟨by linarith, by linarith, fun ht => ?_⟩
  have := htie (by rcases ht with ht | ht; exacts [.inr (by linarith), .inl (by linarith)])
  omega

theorem floor_eq_iff {v : Rat} {z : Int} : v.floor = z ↔ (z : Rat) ≤ v ∧ v < z + 1 := by
  change ⌊v⌋ = z ↔ _
  exact Int.floor_eq_iff

/-- `floorOf` is the floor, and whether it is the number. -/
theorem floorOf_spec (m : Nat) (e : Int) : ((floorOf m e).1 : Rat) ≤ m * (2 : Rat) ^ e ∧ m * (2 : Rat) ^ e < (floorOf m e).1 + 1 ∧
    ((floorOf m e).2 = true ↔ ((floorOf m e).1 : Rat) = m * (2 : Rat) ^ e) := by
  unfold floorOf
  by_cases he : 0 ≤ e
  · have hpow : (2 : Rat) ^ e = 2 ^ e.toNat := by rw [← zpow_natCast, Int.toNat_of_nonneg he]
    rw [if_pos he, hpow]
    push_cast
    exact ⟨le_rfl, lt_add_one _, iff_of_true rfl rfl⟩
  · obtain ⟨k, hk⟩ : ∃ k : Nat, e = -(k : Int) := ⟨(-e).toNat, by omega⟩
    have hpow : (2 : Rat) ^ e = 1 / (2 ^ k : Nat) := by rw [hk, zpow_neg, zpow_natCast, one_div]; push_cast; rfl
    rw [if_neg he, hpow, show (-e).toNat = k by omega, mul_one_div]
    have hpos := Nat.two_pow_pos k
    generalize 2 ^ k = d at *
    have hd : (0 : Rat) < d := by exact_mod_cast hpos
    have hsplit : (m : Rat) = (m / d : Nat) * d + (m % d : Nat) := by exact_mod_cast (Nat.div_add_mod' m d).symm
    have hmod : ((m % d : Nat) : Rat) < d := by exact_mod_cast Nat.mod_lt m hpos
    have hmod0 : (0 : Rat) ≤ (m % d : Nat) := Nat.cast_nonneg _
    refine ⟨?_, ?_, ?_⟩
    · rw [le_div_iff₀ hd]
      linarith
    · rw [div_lt_iff₀ hd]
      linarith
    · rw [beq_iff_eq, eq_div_iff hd.ne']
      constructor
      · intro h
        rw [h, Nat.cast_zero] at hsplit
        linarith
      · intro h
        have : ((m % d : Nat) : Rat) = 0 := by linarith
        exact_mod_cast this

/-- The signed whole number that a number is rounded to in a direction. -/
def wholeOf (r : RDir) (neg : Bool) (m : Nat) (e : Int) : Int := if neg then -(integralOf r neg m e : Int) else integralOf r neg m e

/-- `z` is `v`, of the sign `neg`, rounded in a direction. -/
def RoundsWhole (r : RDir) (neg : Bool) (v : Rat) (z : Int) : Prop :=
  match r with
  | .near => RneInt v z
  | .zero => z = if neg then -(-v).floor else v.floor
  | .down => z = v.floor
  | .up => z = -(-v).floor

theorem rat_fin (neg : Bool) (m : Nat) (e : Int) : (Num.fin neg m e).rat = if neg then -(m * (2 : Rat) ^ e) else m * (2 : Rat) ^ e := by
  cases neg <;> simp [Num.rat]

theorem unitsRNE_zero (m : Nat) (e : Int) : RneInt (m * (2 : Rat) ^ e) (unitsRNE m e 0).1 ∧
    ((unitsRNE m e 0).2 = false ↔ ((unitsRNE m e 0).1 : Rat) = m * (2 : Rat) ^ e) := by
  have := unitsRNE_spec m e 0
  rwa [sub_zero] at this

theorem wholeOf_spec (r : RDir) (neg : Bool) (m : Nat) (e : Int) : RoundsWhole r neg (Num.fin neg m e).rat (wholeOf r neg m e) := by
  obtain ⟨hle, hlt, hexact⟩ := floorOf_spec m e
  have hfloor : (m * (2 : Rat) ^ e).floor = (floorOf m e).1 := floor_eq_iff.2 ⟨by exact_mod_cast hle, by exact_mod_cast hlt⟩
  -- the negated number's floor is the floor, or one further down
  have hceil : (-(m * (2 : Rat) ^ e)).floor = if (floorOf m e).2 then -((floorOf m e).1 : Int) else -((floorOf m e).1 : Int) - 1 := by
    rw [floor_eq_iff]
    by_cases h : (floorOf m e).2 = true
    · rw [if_pos h, ← hexact.1 h]
      push_cast
      exact ⟨le_rfl, lt_add_one _⟩
    · rw [if_neg h]
      have hne := lt_of_le_of_ne hle (mt hexact.2 h)
      push_cast
      exact ⟨by linarith, by linarith⟩
  unfold RoundsWhole wholeOf integralOf
  rw [rat_fin]
  cases r with
  | near =>
    cases neg
    · exact (unitsRNE_zero m e).1
    · exact (unitsRNE_zero m e).1.neg
  | zero => cases neg <;> simp [hfloor]
  | down =>
    cases neg
    · simp [hfloor]
    · simp only [if_true, hceil]
      cases (floorOf m e).2 <;> simp
      ring
  | up =>
    cases neg
    · simp only [Bool.false_eq_true, if_false, hceil]
      cases (floorOf m e).2 <;> simp
      ring
    · simp [hfloor]

/-- The rounding is exact where the number is whole. -/
theorem wholeOf_exact (r : RDir) (neg : Bool) (m : Nat) (e : Int) :
    (floorOf m e).2 = true ↔ (wholeOf r neg m e : Rat) = (Num.fin neg m e).rat := by
  obtain ⟨hle, hlt, hexact⟩ := floorOf_spec m e
  have hmag : (floorOf m e).2 = true ↔ (integralOf r neg m e : Rat) = m * (2 : Rat) ^ e := by
    constructor
    · intro h
      have hval := hexact.1 h
      have hnear : (unitsRNE m e 0).1 = (floorOf m e).1 := by
        have hround := (unitsRNE_zero m e).1
        rw [← hval] at hround
        exact le_antisymm (hround.le_nat le_rfl) (hround.nat_le le_rfl)
      unfold integralOf
      rw [← hval]
      cases r <;> simp [h, hnear]
    · intro h
      rw [hexact]
      rw [← h] at hle hlt ⊢
      have h1 : (floorOf m e).1 ≤ integralOf r neg m e := by exact_mod_cast hle
      have h2 : integralOf r neg m e < (floorOf m e).1 + 1 := by exact_mod_cast hlt
      rw [show integralOf r neg m e = (floorOf m e).1 by omega]
  unfold wholeOf
  rw [hmag, rat_fin]
  cases neg <;> simp

end Sys2Proof
end

section
/-!
PROOF. Floats to integers, the integral members and the widenings (spec/06_lane_float_planes.md R151, R155, R157, R158).
-/
namespace Sys2Proof.Machine

-- The proofs of this file run one after another: side by side they take the check's memory.
set_option Elab.async false

/-! ## CVT to an integer (R155) -/

theorem exec_cvtS32F32 (x : OpCvtR) (s : State) : exec (.cvtS32F32 x) s = localUnit (.cvtS32F32 x) s (producer x.g x.w x.d fun e l =>
    .ok (opToInt (RMode.dir x.r) x.fi (-(2 ^ 31)) (2 ^ 31 - 1) (readSrc e l x.a).toNat)) := rfl

theorem exec_cvtN32F32 (x : OpCvtR) (s : State) : exec (.cvtN32F32 x) s = localUnit (.cvtN32F32 x) s (producer x.g x.w x.d fun e l =>
    .ok (opToInt (RMode.dir x.r) x.fi 0 (2 ^ 32 - 1) (readSrc e l x.a).toNat)) := rfl

/-- The statement's terms of a rounding direction. -/
def RoundsBy (r : RMode) (neg : Bool) (v : Rat) (z : Int) : Prop :=
  match r with
  | .rn => (z : Rat) - v ≤ 1 / 2 ∧ v - z ≤ 1 / 2 ∧ (((z : Rat) - v = 1 / 2 ∨ v - z = 1 / 2) → z % 2 = 0)
  | .rz => z = (if neg then -(-v).floor else v.floor)
  | .rd => z = v.floor
  | .ru => z = -(-v).floor

theorem roundsBy_wholeOf (r : RMode) (neg : Bool) (m : Nat) (e : Int) :
    RoundsBy r neg (Num.fin neg m e).rat (wholeOf (RMode.dir r) neg m e) := by
  have := wholeOf_spec (RMode.dir r) neg m e
  cases r <;> exact this

/-- What `opToInt` gives for each value. -/
theorem opToInt_spec (r : RMode) (fi : Bool) (lo hi : Int) (a : Nat) :
    match valOf fmtF32 (flush fmtF32 fi a) with
    | .nan _ => opToInt (RMode.dir r) fi lo hi a = (0, 1)
    | .inf neg => opToInt (RMode.dir r) fi lo hi a = (BitVec.ofInt 32 (if neg then lo else hi), 1)
    | .fin neg m e => ∃ z : Int, RoundsBy r neg (Num.fin neg m e).rat z ∧ opToInt (RMode.dir r) fi lo hi a =
        if z < lo then (BitVec.ofInt 32 lo, 1) else if hi < z then (BitVec.ofInt 32 hi, 1)
        else (BitVec.ofInt 32 z, if (z : Rat) = (Num.fin neg m e).rat then 0 else 0x10) := by
  unfold opToInt
  cases valOf fmtF32 (flush fmtF32 fi a) with
  | nan => rfl
  | inf => rfl
  | fin neg m e =>
    refine ⟨wholeOf (RMode.dir r) neg m e, roundsBy_wholeOf r neg m e, ?_⟩
    have hflag : (if (floorOf m e).2 = true then (0 : Word) else fNX) =
        if (wholeOf (RMode.dir r) neg m e : Rat) = (Num.fin neg m e).rat then 0 else 0x10 := if_congr (wholeOf_exact (RMode.dir r) neg m e) rfl rfl
    rw [← hflag]
    rfl

/-! ## The integral members (R151) -/

/-- A whole number that a finite value of binary32 is rounded to has at most 24 bits, or is the value. -/
theorem integralOf_units {x m : Nat} {neg : Bool} {e : Int} (h : valOf fmtF32 x = .fin neg m e) (r : RDir) :
    ∃ (n : Nat) (i : Int), n < 2 ^ 24 ∧ -149 ≤ i ∧ (integralOf r neg m e : Rat) * 2 ^ (0 : Int) = n * 2 ^ i ∧
      (integralOf r neg m e : Rat) * 2 ^ (0 : Int) < 2 ^ (128 : Int) := by
  have hm := sig_lt_of_valOf h
  have hfin := (regular_f32.finite_iff x).1 (by rw [h]; rfl)
  have hval := regular_f32.value x hfin
  rw [h] at hval
  obtain ⟨-, rfl, rfl⟩ := Num.fin.inj hval
  obtain ⟨hle, hlt, -⟩ := floorOf_spec (fmtF32.sig (x % 2 ^ fmtF32.magBits)) (fmtF32.ulp (x % 2 ^ fmtF32.magBits))
  have hmin := fmtF32.emin_le_ulp (x % 2 ^ fmtF32.magBits)
  have hbound : fmtF32.mval (x % 2 ^ fmtF32.magBits) < 2 ^ (128 : Int) := by
    rw [← mval_f32_inf]
    exact fmtF32.mval_strictMono (lt_of_le_of_lt hfin (by decide))
  unfold Fmt.mval at hbound
  generalize fmtF32.sig (x % 2 ^ fmtF32.magBits) = m at *
  generalize fmtF32.ulp (x % 2 ^ fmtF32.magBits) = e at *
  rw [zpow_zero, mul_one]
  by_cases he : 0 ≤ e
  · have hfloor : (floorOf m e).2 = true := by unfold floorOf; rw [if_pos he]
    have := (wholeOf_exact r false m e).1 hfloor
    have hval : (integralOf r neg m e : Rat) = m * 2 ^ e := by
      have := (wholeOf_exact r neg m e).1 hfloor
      unfold wholeOf at this
      rw [rat_fin] at this
      cases neg
      · simpa using this
      · simpa using this
    exact ⟨m, e, hm, hmin, hval, hval ▸ hbound⟩
  · have hhalf : m * (2 : Rat) ^ e ≤ 2 ^ 23 := by
      have h1 : (2 : Rat) ^ e ≤ 2 ^ (-1 : Int) := two_zpow_le (by omega)
      have h2 : (m : Rat) ≤ 2 ^ 24 := by exact_mod_cast hm.le
      calc m * (2 : Rat) ^ e ≤ 2 ^ 24 * 2 ^ (-1 : Int) := mul_le_mul h2 h1 (two_zpow_pos e).le (by positivity)
        _ = 2 ^ 23 := by norm_num
    have hfloor : (floorOf m e).1 ≤ 2 ^ 23 := by
      have := hle.trans hhalf
      exact_mod_cast this
    have hnear : (unitsRNE m e 0).1 ≤ 2 ^ 23 := (unitsRNE_zero m e).1.le_nat (by exact_mod_cast hhalf)
    have hint : integralOf r neg m e < 2 ^ 24 := by
      unfold integralOf
      cases r <;> simp only <;> (try split) <;> omega
    refine ⟨integralOf r neg m e, 0, hint, by decide, by rw [zpow_zero, mul_one], ?_⟩
    have : (integralOf r neg m e : Rat) < 2 ^ 24 := by exact_mod_cast hint
    exact this.trans (by norm_num)

theorem opIntegral_spec (d : RDir) (fi : Bool) {a : Nat} (h : (valOf fmtF32 (flush fmtF32 fi a)).isFin = true) :
    (opIntegral d fi a).2 = 0 ∧ (opIntegral d fi a).1 < 2 ^ 32 ∧ (valOf fmtF32 (opIntegral d fi a).1).isFin = true ∧
      (valOf fmtF32 (opIntegral d fi a).1).negative = (valOf fmtF32 (flush fmtF32 fi a)).negative ∧
      ∃ z : Int, (valOf fmtF32 (opIntegral d fi a).1).rat = z ∧
        RoundsWhole d (valOf fmtF32 (flush fmtF32 fi a)).negative (valOf fmtF32 (flush fmtF32 fi a)).rat z := by
  unfold opIntegral
  cases hval : valOf fmtF32 (flush fmtF32 fi a) with
  | nan | inf => rw [hval] at h; contradiction
  | fin neg m e =>
    obtain ⟨n, i, hn, hi, heq, hlt⟩ := integralOf_units hval d
    obtain ⟨-, hcode, hfin, hneg, hrat⟩ := roundTo_f32_exact hn hi heq hlt neg
    refine ⟨rfl, hcode, hfin, hneg, wholeOf d neg m e, hrat.trans ?_, wholeOf_spec d neg m e⟩
    rw [rat_fin, zpow_zero, mul_one]
    unfold wholeOf
    cases neg <;> simp

/-! ## Widenings (R157) -/

theorem mval_maxFin_lt {f : Fmt} (hf : f = fmtBF16 ∨ f = fmtE4M3 ∨ f = fmtE5M2) : f.mval f.maxFin < 2 ^ (128 : Int) := by
  obtain rfl | rfl | rfl := hf <;> norm_num [Fmt.mval, Fmt.sig, Fmt.ulp, Fmt.emin, Fmt.maxFin, Fmt.magBits, fmtBF16, fmtE4M3, fmtE5M2]

theorem opWiden_spec {f : Fmt} (fi : Bool) {a : Nat} (hf : f = fmtBF16 ∨ f = fmtE4M3 ∨ f = fmtE5M2)
    (h : (valOf f (flush f fi a)).isFin = true) :
    (opWiden f fi a).2 = 0 ∧ (opWiden f fi a).1 < 2 ^ 32 ∧ (valOf fmtF32 (opWiden f fi a).1).isFin = true ∧
      (valOf fmtF32 (opWiden f fi a).1).rat = (valOf f (flush f fi a)).rat ∧
      (valOf fmtF32 (opWiden f fi a).1).negative = (valOf f (flush f fi a)).negative := by
  have hreg : f.Regular := by
    obtain rfl | rfl | rfl := hf
    · exact regular_bf16
    · exact regular_e4m3
    · exact regular_e5m2
  have hmax := mval_maxFin_lt hf
  have hsize : f.mb + 1 ≤ 24 ∧ -149 ≤ f.emin := by obtain rfl | rfl | rfl := hf <;> decide
  have hfin := (hreg.finite_iff _).1 h
  unfold opWiden
  rw [hreg.value _ hfin]
  generalize flush f fi a % 2 ^ f.magBits = mag at *
  obtain ⟨hflag, hcode, hisFin, hneg, hrat⟩ := roundTo_f32_exact (n := f.sig mag) (m := f.sig mag) (i := f.ulp mag) (e := f.ulp mag)
    ((sig_lt f mag).trans_le (Nat.pow_le_pow_right Nat.two_pos hsize.1)) (hsize.2.trans (f.emin_le_ulp mag)) rfl
    ((f.mval_strictMono.monotone hfin).trans_lt hmax) (f.sgn (flush f fi a))
  exact ⟨by simp only [delivered, hflag, numNV]; rfl, hcode, hisFin, hrat, hneg⟩

/-! ## Sub-byte elements (R158) -/

/-- Four bytes of a word, each by its place. -/
theorem ofBytes_elem (f : Nat → Nat) {k : Nat} (hk : k < 4) (hf : f k < 2 ^ 8) :
    ofBytes ((upFrom 0 4).map fun j => BitVec.ofNat 8 (f j)) / 2 ^ (8 * k) % 2 ^ 8 = f k := by
  have hbyte (j : Nat) := (BitVec.ofNat 8 (f j)).isLt
  have hval : (BitVec.ofNat 8 (f k)).toNat = f k := by rw [BitVec.toNat_ofNat, Nat.mod_eq_of_lt hf]
  simp only [upFrom, List.map_cons, List.map_nil, ofBytes, Nat.zero_add, Nat.reduceAdd]
  have h0 := hbyte 0
  have h1 := hbyte 1
  have h2 := hbyte 2
  have h3 := hbyte 3
  interval_cases k <;> omega

/-- The E4M3 code of an element is finite and has its value and its sign. -/
def SameValue (x z : Num) : Bool := z.isFin && numEq z x && z.negative == x.negative

theorem sameValue_spec {x z : Num} (h : SameValue x z = true) (hx : x.isFin = true) :
    z.isFin = true ∧ z.rat = x.rat ∧ z.negative = x.negative := by
  unfold SameValue at h
  rw [Bool.and_eq_true, Bool.and_eq_true, beq_iff_eq] at h
  obtain ⟨⟨hfin, heq⟩, hneg⟩ := h
  refine ⟨hfin, ?_, hneg⟩
  cases x with
  | nan | inf => contradiction
  | fin => cases z with
    | nan | inf => contradiction
    | fin => exact (numEq_fin_iff_rat ..).1 heq

theorem expandSub_spec : ∀ p ∈ [(fmtE2M1, 4), (fmtE3M2, 6), (fmtE2M3, 6)], ∀ fi : Bool, ∀ y < 2 ^ p.2,
    expandSub (some p.1) fi y < 2 ^ 8 ∧ (valOf p.1 (flush p.1 fi y)).isFin = true ∧
      SameValue (valOf p.1 (flush p.1 fi y)) (valOf fmtE4M3 (expandSub (some p.1) fi y)) = true := by decide +kernel

theorem expandSub_int4 : ∀ fi : Bool, ∀ i < 2 ^ 4, expandSub none fi i < 2 ^ 8 ∧
    SameValue (.fin (8 ≤ i) (if i < 8 then i else 16 - i) 0) (valOf fmtE4M3 (expandSub none fi i)) = true := by decide +kernel

/-! ## The statement -/

/-- Settles O10: the direction's whole number is `wholeOf`, and what is exact in the wider format is rounded to itself. -/
theorem floatToInteger : Obligations.FloatToInteger := by
  unfold Obligations.FloatToInteger
  refine ⟨?toInt, fun d fi a _ h => opIntegral_spec d fi h, fun f fi a hf _ h => opWiden_spec fi hf h, fun fi a k hk => ⟨?floats, ?ints⟩⟩
  case toInt =>
    simp only [List.forall_mem_cons]
    refine ⟨fun x => ⟨fun w => opToInt (RMode.dir x.r) x.fi (-(2 ^ 31)) (2 ^ 31 - 1) w.toNat, ?_, fun a => ?_⟩,
      fun x => ⟨fun w => opToInt (RMode.dir x.r) x.fi 0 (2 ^ 32 - 1) w.toNat, ?_, fun a => ?_⟩, nofun⟩
    · exact produces_of (exec_cvtS32F32 x) (transfer_eq_false_of_base rfl (by decide))
    · exact opToInt_spec x.r x.fi _ _ a.toNat
    · exact produces_of (exec_cvtN32F32 x) (transfer_eq_false_of_base rfl (by decide))
    · exact opToInt_spec x.r x.fi _ _ a.toNat
  case floats =>
    intro p hp
    obtain ⟨hlt, hfin, hsame⟩ := expandSub_spec p hp fi (a / 2 ^ (p.2 * k) % 2 ^ p.2) (Nat.mod_lt _ (Nat.two_pow_pos _))
    have hbyte : opExpand4 (some p.1) p.2 fi a / 2 ^ (8 * k) % 2 ^ 8 = expandSub (some p.1) fi (a / 2 ^ (p.2 * k) % 2 ^ p.2) :=
      ofBytes_elem (fun j => expandSub (some p.1) fi (fld a (p.2 * j) p.2)) hk hlt
    dsimp only
    rw [hbyte]
    exact sameValue_spec hsame hfin
  case ints =>
    obtain ⟨hlt, hsame⟩ := expandSub_int4 fi (a / 2 ^ (4 * k) % 2 ^ 4) (Nat.mod_lt _ (Nat.two_pow_pos _))
    have hbyte : opExpand4 none 4 fi a / 2 ^ (8 * k) % 2 ^ 8 = expandSub none fi (a / 2 ^ (4 * k) % 2 ^ 4) :=
      ofBytes_elem (fun j => expandSub none fi (fld a (4 * j) 4)) hk hlt
    dsimp only
    rw [hbyte]
    obtain ⟨hfin, hrat, hneg⟩ := sameValue_spec hsame rfl
    refine ⟨hfin, hrat.trans ?_, hneg⟩
    have h16 := Nat.mod_lt (a / 2 ^ (4 * k)) (Nat.two_pow_pos 4)
    generalize a / 2 ^ (4 * k) % 2 ^ 4 = i at h16
    rw [rat_fin, zpow_zero, mul_one]
    by_cases h8 : i < 8
    · rw [if_pos h8, if_pos h8, if_neg (by simpa using h8)]
    · rw [if_neg h8, if_neg h8, if_pos (by simpa using h8), Nat.cast_sub (by omega)]
      push_cast
      ring

end Sys2Proof.Machine
end

section
/-!
PROOF. The exact operations on values and their rounding (spec/06_lane_float_planes.md R148): what a sum, a product or a fused sum of finite values is as a number, with
the sign that a zero has.
-/
namespace Sys2Proof.Machine

-- The proofs of this file run one after another: side by side they take the check's memory.
set_option Elab.async false

/-! ## Exact operations -/

/-- A finite value by its number and the sign that it has where it is zero. -/
structure IsExactly (x : Num) (v : Rat) (zero : Bool) : Prop where
  fin : x.isFin = true
  rat : x.rat = v
  sign : v = 0 → x.negative = zero

theorem isExactly_self {x : Num} (h : x.isFin = true) : IsExactly x x.rat x.negative := ⟨h, rfl, fun _ => rfl⟩

theorem rat_numNeg (x : Num) : (numNeg x).rat = -x.rat := by
  cases x with
  | nan | inf => exact neg_zero.symm
  | fin n m e => cases n <;> simp [numNeg, Num.rat]

theorem isFin_numNeg (x : Num) : (numNeg x).isFin = x.isFin := by cases x <;> rfl

theorem negative_numNeg {x : Num} (h : x.isFin = true) : (numNeg x).negative = !x.negative := by
  cases x with
  | nan | inf => contradiction
  | fin => rfl

/-- The number of a finite value has its sign. -/
theorem rat_nonneg_of_not_negative {x : Num} (h : x.negative = false) : 0 ≤ x.rat := by
  cases x with
  | nan | inf => exact le_rfl
  | fin n m e =>
    obtain rfl : n = false := h
    rw [rat_fin]
    exact mul_nonneg (Nat.cast_nonneg m) (two_zpow_pos e).le

theorem rat_nonpos_of_negative {x : Num} (h : x.negative = true) : x.rat ≤ 0 := by
  have := rat_nonneg_of_not_negative (x := numNeg x) (by
    cases x with
    | nan => rfl
    | inf n | fin n => obtain rfl : n = true := h; rfl)
  rw [rat_numNeg] at this
  linarith

/-- A finite value whose significand is not zero is not zero. -/
theorem rat_fin_eq_zero_iff (n : Bool) (m : Nat) (e : Int) : (Num.fin n m e).rat = 0 ↔ m = 0 := by
  rw [rat_fin]
  have := (two_zpow_pos e).ne'
  cases n <;> simp [this]

theorem signedUnits_rat (t : Int) (q : Int) : (Num.fin (decide (t < 0)) t.natAbs q).rat = t * (2 : Rat) ^ q := by
  rw [rat_fin]
  by_cases h : t < 0
  · rw [decide_eq_true h, if_pos rfl, ← neg_mul]
    congr 1
    have : (t.natAbs : Int) = -t := by omega
    have : ((t.natAbs : Int) : Rat) = -t := by rw [this]; push_cast; rfl
    rw [Int.cast_natCast] at this
    rw [this, neg_neg]
  · rw [decide_eq_false h, if_neg (by decide)]
    congr 1
    have : (t.natAbs : Int) = t := by omega
    have : ((t.natAbs : Int) : Rat) = t := by rw [this]
    rwa [Int.cast_natCast] at this

section
variable {x y z : Num} (hx : x.isFin = true) (hy : y.isFin = true)
include hx hy

omit hx hy in
theorem numAdd_fin (na nb : Bool) (ma mb : Nat) (ea eb : Int) : numAdd (.fin na ma ea) (.fin nb mb eb) =
    if ma == 0 && mb == 0 then .fin (na && nb) 0 0
    else .fin (decide (signedUnits na ma ea (min ea eb) + signedUnits nb mb eb (min ea eb) < 0))
      (signedUnits na ma ea (min ea eb) + signedUnits nb mb eb (min ea eb)).natAbs (min ea eb) := rfl

/-- A zero sum is −0 where both terms are −0 alone. -/
theorem numAdd_exactly : IsExactly (numAdd x y) (x.rat + y.rat) (x.negative && y.negative) := by
  cases x with
  | nan | inf => contradiction
  | fin na ma ea => cases y with
    | nan | inf => contradiction
    | fin nb mb eb =>
      rw [numAdd_fin]
      by_cases hz : (ma == 0 && mb == 0) = true
      · rw [if_pos hz]
        obtain ⟨rfl, rfl⟩ : ma = 0 ∧ mb = 0 := by simpa using hz
        exact ⟨rfl, by rw [rat_of_zero, rat_of_zero, rat_of_zero, add_zero], fun _ => rfl⟩
      · rw [if_neg hz]
        have hsum : ((signedUnits na ma ea (min ea eb) + signedUnits nb mb eb (min ea eb) : Int) : Rat) * 2 ^ (min ea eb) =
            (Num.fin na ma ea).rat + (Num.fin nb mb eb).rat := by
          push_cast
          rw [add_mul, signedUnits_mul_zpow na ma (min_le_left ea eb), signedUnits_mul_zpow nb mb (min_le_right ea eb)]
        refine ⟨rfl, (signedUnits_rat _ _).trans hsum, fun h0 => ?_⟩
        rw [← hsum, mul_eq_zero, or_iff_left (two_zpow_pos _).ne'] at h0
        have h0 : signedUnits na ma ea (min ea eb) + signedUnits nb mb eb (min ea eb) = 0 := by exact_mod_cast h0
        rw [h0]
        by_contra hne
        obtain ⟨rfl, rfl⟩ : na = true ∧ nb = true := by simpa [Num.negative] using hne
        have h1 := rat_nonpos_of_negative (x := .fin true ma ea) rfl
        have h2 := rat_nonpos_of_negative (x := .fin true mb eb) rfl
        rw [h0, Int.cast_zero, zero_mul] at hsum
        have ha : ma = 0 := (rat_fin_eq_zero_iff true ma ea).1 (by linarith)
        have hb : mb = 0 := (rat_fin_eq_zero_iff true mb eb).1 (by linarith)
        exact hz (by simp [ha, hb])

theorem numMul_exactly : IsExactly (numMul x y) (x.rat * y.rat) (x.negative != y.negative) := by
  cases x with
  | nan | inf => contradiction
  | fin na ma ea => cases y with
    | nan | inf => contradiction
    | fin nb mb eb =>
      refine ⟨rfl, ?_, fun _ => rfl⟩
      simp only [numMul, rat_fin, two_zpow_add]
      cases na <;> cases nb <;> push_cast <;> simp <;> ring

omit hy in
theorem numNeg_exactly : IsExactly (numNeg x) (-x.rat) (!x.negative) :=
  ⟨(isFin_numNeg x).trans hx, rat_numNeg x, fun _ => negative_numNeg hx⟩

theorem numSub_exactly : IsExactly (numAdd x (numNeg y)) (x.rat - y.rat) (x.negative && !y.negative) := by
  have := numAdd_exactly hx ((isFin_numNeg y).trans hy)
  rwa [rat_numNeg, negative_numNeg hy, ← sub_eq_add_neg] at this

theorem numFma_exactly (hz : z.isFin = true) :
    IsExactly (numFma x y z) (x.rat * y.rat + z.rat) ((numMul x y).negative && z.negative) := by
  obtain ⟨hfin, hrat, -⟩ := numMul_exactly hx hy
  have := numAdd_exactly hfin hz
  rwa [hrat] at this

theorem negative_numMul : (numMul x y).negative = (x.negative != y.negative) := by
  cases x with
  | nan | inf => contradiction
  | fin => cases y with
    | nan | inf => contradiction
    | fin => rfl

end

/-! ## Their rounding -/

theorem roundsRat_zero_congr {f : Fmt} {fo : Bool} {v : Rat} {a b : Bool} {r : Nat × Word} (h : v = 0 → a = b) (ha : f.RoundsRat fo v a r) :
    f.RoundsRat fo v b r := by
  unfold Fmt.RoundsRat at ha ⊢
  by_cases hv : v = 0
  · rw [if_pos hv] at ha ⊢
    rwa [← h hv]
  · rwa [if_neg hv] at ha ⊢

section
variable {f : Fmt} (hf : f = fmtF32 ∨ f = fmtBF16) {x : Num} {v : Rat} {zero : Bool} (h : IsExactly x v zero) (fo : Bool)
include hf h

theorem IsExactly.delivered : f.RoundsRat fo v zero (delivered f fo x) := by
  obtain ⟨hfin, rfl, hsign⟩ := h
  cases x with
  | nan | inf => contradiction
  | fin n m e => exact roundsRat_zero_congr hsign (delivered_roundsRat hf fo n m e)

theorem IsExactly.roundTo : f.RoundsRat fo v zero (roundTo f fo x) := by
  have hdel : Sys2Proof.delivered f fo x = Sys2Proof.roundTo f fo x := by
    obtain ⟨hfin, -, -⟩ := h
    cases x with
    | nan | inf => contradiction
    | fin n m e => simp [Sys2Proof.delivered, numNV]
  exact hdel ▸ h.delivered hf fo

end

/-! ## FMIN and FMAX (R148) -/

/-- Whether a finite value comes before another, −0 before +0. -/
theorem numLt_iff {x y : Num} (hx : x.isFin = true) (hy : y.isFin = true) : numLt x y = true ↔
    x.rat < y.rat ∨ x.rat = 0 ∧ y.rat = 0 ∧ x.negative = true ∧ y.negative = false := by
  cases x with
  | nan | inf => contradiction
  | fin na ma ea => cases y with
    | nan | inf => contradiction
    | fin nb mb eb =>
      have heq : numLt (.fin na ma ea) (.fin nb mb eb) = if ma == 0 && mb == 0 then na && !nb
          else decide (signedUnits na ma ea (min ea eb) < signedUnits nb mb eb (min ea eb)) := rfl
      rw [heq, rat_fin_eq_zero_iff, rat_fin_eq_zero_iff]
      by_cases hz : (ma == 0 && mb == 0) = true
      · rw [if_pos hz]
        obtain ⟨rfl, rfl⟩ : ma = 0 ∧ mb = 0 := by simpa using hz
        simp [rat_of_zero, Num.negative]
      · rw [if_neg hz, decide_eq_true_iff, signedUnits_lt_iff_rat, or_iff_left]
        exact fun h => hz (by simp [h.1, h.2.1])

section
variable {x y : Num} (hx : x.isFin = true) (hy : y.isFin = true)
include hx hy

theorem greater_spec : (if numLt x y then y else x).rat = max x.rat y.rat ∧
    ((if numLt x y then y else x).rat = 0 → (if numLt x y then y else x).negative = (x.negative && y.negative)) := by
  have hlt := numLt_iff hx hy
  have hxn := rat_nonneg_of_not_negative (x := x)
  have hyp := rat_nonpos_of_negative (x := y)
  have hyn := rat_nonneg_of_not_negative (x := y)
  split
  case isTrue h =>
    obtain h | ⟨hx0, hy0, hxneg, hyneg⟩ := hlt.1 h
    · refine ⟨(max_eq_right h.le).symm, fun h0 => ?_⟩
      cases hxneg : x.negative
      · linarith [hxn hxneg]
      · exact (Bool.true_and _).symm
    · exact ⟨by rw [hx0, hy0, max_self], fun _ => by rw [hxneg, hyneg]; rfl⟩
  case isFalse h =>
    rw [hlt, not_or, not_lt] at h
    refine ⟨(max_eq_left h.1).symm, fun h0 => ?_⟩
    cases hxneg : x.negative
    · rfl
    · cases hyneg : y.negative
      · exact absurd ⟨h0, le_antisymm (h0 ▸ h.1) (hyn hyneg), hxneg, hyneg⟩ h.2
      · rfl

theorem lesser_spec : (if numLt y x then y else x).rat = min x.rat y.rat ∧
    ((if numLt y x then y else x).rat = 0 → (if numLt y x then y else x).negative = (x.negative || y.negative)) := by
  have hlt := numLt_iff hy hx
  have hxp := rat_nonpos_of_negative (x := x)
  have hyp := rat_nonpos_of_negative (x := y)
  split
  case isTrue h =>
    obtain h | ⟨hy0, hx0, hyneg, hxneg⟩ := hlt.1 h
    · refine ⟨(min_eq_right h.le).symm, fun h0 => ?_⟩
      cases hxneg : x.negative
      · exact (Bool.false_or _).symm
      · linarith [hxp hxneg]
    · exact ⟨by rw [hx0, hy0, min_self], fun _ => by rw [hxneg, hyneg]; rfl⟩
  case isFalse h =>
    rw [hlt, not_or, not_lt] at h
    refine ⟨(min_eq_left h.1).symm, fun h0 => ?_⟩
    cases hyneg : y.negative
    · exact (Bool.or_false _).symm
    · cases hxneg : x.negative
      · exact absurd ⟨le_antisymm (hyp hyneg) (h0 ▸ h.1), h0, hyneg, hxneg⟩ h.2
      · rfl

end

theorem opMinMax_spec (fi : Bool) {a b : Nat} (ha : a < 2 ^ 32) (hb : b < 2 ^ 32) (hx : (valOf fmtF32 (flush fmtF32 fi a)).isFin = true)
    (hy : (valOf fmtF32 (flush fmtF32 fi b)).isFin = true) (mx : Bool) :
    (opMinMax mx fi false a b).2 = 0 ∧
      (opMinMax mx fi false a b).1 = if (if mx then numLt (valOf fmtF32 (flush fmtF32 fi a)) (valOf fmtF32 (flush fmtF32 fi b))
        else numLt (valOf fmtF32 (flush fmtF32 fi b)) (valOf fmtF32 (flush fmtF32 fi a))) then flush fmtF32 fi b else flush fmtF32 fi a := by
  have hnan {x : Num} (h : x.isFin = true) : x.isNaN = false ∧ numNV x = 0 := by
    cases x with
    | nan | inf => contradiction
    | fin => exact ⟨rfl, rfl⟩
  have hpack (r : Nat) (hr : r < 2 ^ 32) : fmtF32.pack (fmtF32.sgn r) (r % 2 ^ fmtF32.magBits) = r := fmtF32.pack_sgn hr
  have hfa : flush fmtF32 fi a < 2 ^ 32 := flush_lt fmtF32 a fi ha
  have hfb : flush fmtF32 fi b < 2 ^ 32 := flush_lt fmtF32 b fi hb
  have hout (mag : Nat) (fl : Word) : flushOut fmtF32 false mag fl = (mag, fl) := rfl
  unfold opMinMax
  simp only [(hnan hx).1, (hnan hx).2, (hnan hy).1, (hnan hy).2, Bool.and_self, Bool.false_eq_true, if_false, hout]
  refine ⟨rfl, ?_⟩
  rw [hpack]
  · cases mx <;> rfl
  · split <;> split <;> assumption

end Sys2Proof.Machine
end

section
/-!
PROOF. FEXP2 and FLOG2 (spec/01_numbers.md R32): the table holds the codes nearest to the powers, and every step is an exact operation rounded once, whose operands
stay in a range where nothing overflows.
-/
namespace Sys2Proof.Machine

-- The kernel evaluations of this file run one after another: side by side they take the check's memory.
set_option Elab.async false

/-! ## Rounding within bounds -/

section
variable {f : Fmt} {x : Rat} {mag N : Nat} (h : f.NearMag x mag)
include h

theorem near_le (hle : x ≤ f.mval N) : mag ≤ N := by
  by_contra hnot
  obtain ⟨k, rfl⟩ : ∃ k, mag = k + 1 := ⟨mag - 1, by omega⟩
  have hmid := f.mid_strictMono.monotone (show N ≤ k by omega)
  linarith [h.below k rfl, f.lt_mid N]

theorem le_near (hle : f.mval N ≤ x) : N ≤ mag := by
  by_contra hnot
  have hmono := f.mval_strictMono.monotone (show mag + 1 ≤ N by omega)
  linarith [h.above, f.mid_lt mag]

end

/-- A power of two in the range of binary32 is one of its magnitudes. -/
theorem exists_mval_two_zpow {i : Int} (hlo : -149 ≤ i) (hhi : i ≤ 127) :
    ∃ N, fmtF32.mval N = (2 : Rat) ^ i ∧ N ≤ fmtF32.maxFin := by
  obtain ⟨N, hN⟩ := fmtF32.exists_mval_of_le (n := 1) (by decide) hlo
  rw [Nat.cast_one, one_mul] at hN
  refine ⟨N, hN, ?_⟩
  have : N < 0x7F800000 := fmtF32.mval_strictMono.lt_iff_lt.1 (by
    rw [hN, mval_f32_inf]
    exact zpow_lt_zpow_right₀ one_lt_two (by omega))
  exact Nat.le_pred_of_lt this

/-- A value rounded to binary32, as FEXP2 and FLOG2 do between their steps. -/
def round32 (x : Num) : Num := f32v (roundTo fmtF32 false x).1

theorem fma32_eq (a b c : Num) : fma32 a b c = round32 (numFma a b c) := rfl
theorem mul32_eq (a b : Num) : mul32 a b = round32 (numMul a b) := rfl

/-- `w` is `v` rounded once, by a finite value of the sign of a zero. -/
structure Rounded (v : Rat) (w : Num) : Prop where
  fin : w.isFin = true
  once : OnceRounded v w.rat
  below : ∀ i : Int, -149 ≤ i → i ≤ 127 → |v| ≤ (2 : Rat) ^ i → |w.rat| ≤ 2 ^ i
  above : ∀ i : Int, -149 ≤ i → i ≤ 127 → (2 : Rat) ^ i ≤ v → (2 : Rat) ^ i ≤ w.rat
  under : ∀ i : Int, -149 ≤ i → i ≤ 127 → v ≤ -(2 : Rat) ^ i → w.rat ≤ -(2 : Rat) ^ i
  sign : 0 ≤ v → w.negative = false

theorem round32_rounded {x : Num} {v : Rat} (h : IsExactly x v false) (hb : |v| ≤ (2 : Rat) ^ (127 : Int)) : Rounded v (round32 x) := by
  obtain ⟨hfin, hrat, hsign⟩ := h
  have hround := IsExactly.roundTo (.inl rfl) ⟨hfin, hrat, hsign⟩ false
  cases x with
  | nan | inf => contradiction
  | fin n m e =>
    have habs : |v| = m * (2 : Rat) ^ e := by rw [← hrat, abs_rat_fin]
    have hnear := roundMag_nearMag (m := m) (e := e) regular_f32
    obtain ⟨N, hN, hNmax⟩ := exists_mval_two_zpow (i := 127) (by decide) le_rfl
    have hmax : (roundMag fmtF32 m e).1 ≤ fmtF32.maxFin := (near_le hnear (by rw [hN, ← habs]; exact hb)).trans hNmax
    have hcode : (roundTo fmtF32 false (.fin n m e)).1 = fmtF32.pack n (roundMag fmtF32 m e).1 := by
      have hinf : fmtF32.maxFin < fmtF32.inf := by decide
      rw [roundTo_fin, if_neg (by omega)]
      unfold finiteCode
      dsimp only
      rw [flushOut_eq, if_neg (by simp)]
    have hval : round32 (.fin n m e) = .fin n (fmtF32.sig (roundMag fmtF32 m e).1) (fmtF32.ulp (roundMag fmtF32 m e).1) := by
      unfold round32 f32v
      rw [hcode, (valOf_pack regular_f32 n hmax).2]
    have hw : (round32 (.fin n m e)).rat = if n then -fmtF32.mval (roundMag fmtF32 m e).1 else fmtF32.mval (roundMag fmtF32 m e).1 := by
      rw [hval, rat_fin]
      rfl
    have hmono := fmtF32.mval_strictMono.monotone
    have hnonneg := fmtF32.mval_nonneg (roundMag fmtF32 m e).1
    have hisFin : (round32 (.fin n m e)).isFin = true := by rw [hval]; rfl
    have honce : OnceRounded v (round32 (.fin n m e)).rat :=
      ⟨(roundTo fmtF32 false (.fin n m e)).1, (roundTo fmtF32 false (.fin n m e)).2, hround, hisFin, rfl⟩
    refine ⟨hisFin, honce, fun i hlo hhi hi => ?_,
      fun i hlo hhi hi => ?_, fun i hlo hhi hi => ?_, fun h0 => ?_⟩
    · obtain ⟨N, hN, -⟩ := exists_mval_two_zpow hlo hhi
      have := hmono (near_le hnear (by rw [hN, ← habs]; exact hi))
      rw [hw]
      cases n
      · rw [if_neg (by decide), abs_of_nonneg hnonneg, ← hN]; exact this
      · rw [if_pos rfl, abs_neg, abs_of_nonneg hnonneg, ← hN]; exact this
    · obtain ⟨N, hN, -⟩ := exists_mval_two_zpow hlo hhi
      have hpos := two_zpow_pos i
      have hn : n = false := by
        cases n
        · rfl
        · have := rat_nonpos_of_negative (x := .fin true m e) rfl
          linarith
      subst hn
      have := hmono (le_near hnear (by rw [hN, ← habs]; exact hi.trans (le_abs_self v)))
      rw [hw, if_neg (by decide), ← hN]
      exact this
    · obtain ⟨N, hN, -⟩ := exists_mval_two_zpow hlo hhi
      have hpos := two_zpow_pos i
      have hn : n = true := by
        cases n
        · have := rat_nonneg_of_not_negative (x := .fin false m e) rfl
          linarith
        · rfl
      subst hn
      have := hmono (le_near hnear (by rw [hN, ← habs, abs_of_nonpos (by linarith)]; linarith))
      rw [hw, if_pos rfl, ← hN]
      linarith
    · rw [hval]
      obtain h0 | h0 := h0.eq_or_lt
      · exact hsign h0.symm
      · cases n
        · rfl
        · have := rat_nonpos_of_negative (x := .fin true m e) rfl
          linarith

/-! ## The table -/

theorem nth_eq_getD {α : Type} (d : α) : ∀ (l : List α) (i : Nat), nth d l i = l.getD i d
  | [], _ => rfl
  | _ :: _, 0 => rfl
  | _ :: xs, i + 1 => nth_eq_getD d xs i

/-- The entries lie from 1 up to 2. -/
theorem tab_eq : ∀ j < 32, tab j = .fin false (2 ^ 23 + exp2Table.getD j 0 % 2 ^ 23) (-23) ∧
    exp2Table.getD j 0 = fmtF32.pack false (127 * 2 ^ 23 + exp2Table.getD j 0 % 2 ^ 23) := by decide +kernel

/-- An entry's midpoints to its neighbours lie on the two sides of 2^(j/32). -/
theorem exp2Table_between : ∀ j < 32, 2 ^ (j + 768) < (2 * (2 ^ 23 + exp2Table.getD j 0 % 2 ^ 23) + 1) ^ 32 ∧
    (2 * (2 ^ 23 + exp2Table.getD j 0 % 2 ^ 23) - 1) ^ 32 < 2 ^ (j + 768) ∧ (j = 0 ∨ exp2Table.getD j 0 % 2 ^ 23 ≠ 0) := by decide +kernel

theorem mval_unit_binade {r : Nat} (hr : r ≤ 2 ^ 23) : fmtF32.mval (127 * 2 ^ 23 + r) = (2 ^ 23 + r : Nat) * (2 : Rat) ^ (-23 : Int) := by
  have := fmtF32.mval_block (k := 126) (n := 2 ^ 23 + r) (.inr (Nat.le_add_right ..)) (show 2 ^ 23 + r ≤ 2 ^ 24 by omega)
  rw [show 126 * 2 ^ fmtF32.mb + (2 ^ 23 + r) = 127 * 2 ^ 23 + r by show 126 * 2 ^ 23 + (2 ^ 23 + r) = _; omega] at this
  exact this

theorem exp2Table_nearest {j : Nat} (hj : j < 32) :
    fmtF32.Nearest false (fun q => decide (q ^ 32 ≤ 2 ^ j)) (fun q => decide (2 ^ j ≤ q ^ 32)) (exp2Table.getD j 0) := by
  obtain ⟨habove, hbelow, hzero⟩ := exp2Table_between j hj
  rw [(tab_eq j hj).2]
  have hr := Nat.mod_lt (exp2Table.getD j 0) (Nat.two_pow_pos 23)
  generalize exp2Table.getD j 0 % 2 ^ 23 = r at *
  have hpow (n : Nat) : ((n : Rat) * 2 ^ (-24 : Int)) ^ 32 = (n ^ 32 : Nat) / (2 ^ 768 : Nat) := by
    have hexp : ((2 : Rat) ^ (-24 : Int)) ^ 32 = (2 ^ 768)⁻¹ := by
      rw [zpow_neg, inv_pow, zpow_ofNat, ← pow_mul]
    rw [mul_pow, hexp, Nat.cast_pow, Nat.cast_pow, Nat.cast_ofNat, div_eq_mul_inv]
  have hcmp (n : Nat) : ((n : Rat) * 2 ^ (-24 : Int)) ^ 32 ≤ 2 ^ j ↔ n ^ 32 ≤ 2 ^ (j + 768) := by
    rw [hpow, div_le_iff₀ (by exact_mod_cast Nat.two_pow_pos 768), pow_add]
    exact_mod_cast Iff.rfl
  have hcmp' (n : Nat) : 2 ^ j ≤ ((n : Rat) * 2 ^ (-24 : Int)) ^ 32 ↔ 2 ^ (j + 768) ≤ n ^ 32 := by
    rw [hpow, le_div_iff₀ (by exact_mod_cast Nat.two_pow_pos 768), pow_add]
    exact_mod_cast Iff.rfl
  have hunit : (2 : Rat) ^ (-23 : Int) = 2 * 2 ^ (-24 : Int) := by norm_num
  have hmid : fmtF32.mid (127 * 2 ^ 23 + r) = (2 * (2 ^ 23 + r) + 1 : Nat) * (2 : Rat) ^ (-24 : Int) := by
    unfold Fmt.mid
    rw [Nat.add_assoc, mval_unit_binade hr.le, mval_unit_binade hr, hunit]
    push_cast
    ring
  refine nearest_of_mids regular_f32 (show _ ≤ 0x7F7FFFFF by omega) (fun p q hp hpq h => ?_) (fun p q hp hpq h => ?_) ?_ (fun h => ?_) (fun k hk => ?_) false
  · exact decide_eq_true ((pow_le_pow_left₀ hp hpq 32).trans (of_decide_eq_true h))
  · exact decide_eq_true ((of_decide_eq_true h).trans (pow_le_pow_left₀ hp hpq 32))
  · rw [decide_eq_true_iff, hmid, hcmp']
    exact habove.le
  · rw [decide_eq_true_iff, hmid, hcmp] at h
    omega
  · obtain rfl | hr0 := Nat.eq_zero_or_pos r
    · obtain rfl : j = 0 := hzero.resolve_right (by simp)
      have hone : fmtF32.mval (k + 1) = 1 := by
        rw [← hk, mval_unit_binade (by decide)]
        norm_num
      have hlt := fmtF32.mid_lt k
      rw [hone] at hlt
      have hpow1 : fmtF32.mid k ^ 32 < 1 := pow_lt_one₀ (fmtF32.mid_nonneg k) hlt (by decide)
      rw [pow_zero]
      exact ⟨decide_eq_true hpow1.le, fun h => absurd (of_decide_eq_true h) (not_le.2 hpow1)⟩
    · obtain ⟨p, rfl⟩ : ∃ p, r = p + 1 := ⟨r - 1, by omega⟩
      obtain rfl : k = 127 * 2 ^ 23 + p := by omega
      have hmid' : fmtF32.mid (127 * 2 ^ 23 + p) = (2 * (2 ^ 23 + (p + 1)) - 1 : Nat) * (2 : Rat) ^ (-24 : Int) := by
        unfold Fmt.mid
        rw [Nat.add_assoc, mval_unit_binade (by omega), mval_unit_binade hr.le, hunit, Nat.cast_sub (by omega)]
        push_cast
        ring
      rw [hmid', decide_eq_true_iff, decide_eq_true_iff, hcmp, hcmp']
      exact ⟨hbelow.le, fun h => absurd h (not_le.2 hbelow)⟩

end Sys2Proof.Machine
end

section
/-!
PROOF. FEXP2 and FLOG2 of finite operands (spec/01_numbers.md R32), step by step.
-/
namespace Sys2Proof.Machine

-- The proofs of this file run one after another: side by side they take the check's memory.
set_option Elab.async false

/-! ## Units of 1/32 -/

/-- There is one nearest whole number. -/
theorem RneInt_unique {v : Rat} {a b : Int} (ha : RneInt v a) (hb : RneInt v b) : a = b := by
  obtain ⟨ha1, ha2, hat⟩ := ha
  obtain ⟨hb1, hb2, hbt⟩ := hb
  have h1 : (a : Rat) ≤ b + 1 := by linarith
  have h2 : (b : Rat) ≤ a + 1 := by linarith
  have h1' : a ≤ b + 1 := by exact_mod_cast h1
  have h2' : b ≤ a + 1 := by exact_mod_cast h2
  obtain h | h | h : a = b ∨ a = b + 1 ∨ b = a + 1 := by omega
  · exact h
  · have hr : (a : Rat) = b + 1 := by exact_mod_cast h
    have := hat (.inl (by linarith))
    have := hbt (.inr (by linarith))
    omega
  · have hr : (b : Rat) = a + 1 := by exact_mod_cast h
    have := hat (.inr (by linarith))
    have := hbt (.inl (by linarith))
    omega

/-- The operand counted in units of 1/32 with its sign. -/
def unitsOf (neg : Bool) (m : Nat) (e : Int) : Int := if neg then -((unitsRNE m e (-5)).1 : Int) else (unitsRNE m e (-5)).1

theorem unitsOf_spec (neg : Bool) (m : Nat) (e : Int) : RneInt ((Num.fin neg m e).rat * 32) (unitsOf neg m e) := by
  have hunits := (unitsRNE_spec m e (-5)).1
  have hmul : m * (2 : Rat) ^ (e - -5) = m * (2 : Rat) ^ e * 32 := by
    rw [sub_neg_eq_add, two_zpow_add, ← mul_assoc]
    norm_num
  rw [hmul] at hunits
  unfold unitsOf
  rw [rat_fin]
  cases neg
  · exact hunits
  · rw [if_pos rfl, if_pos rfl, neg_mul]
    exact hunits.neg

theorem rat_units (n : Int) (neg : Bool) (h : neg = decide (0 < n)) : (Num.fin neg n.natAbs (-5)).rat = -((n : Rat) / 32) := by
  have hpow : (2 : Rat) ^ (-5 : Int) = 1 / 32 := by norm_num
  rw [rat_fin, hpow, h]
  by_cases hn : 0 < n
  · have : ((n.natAbs : Int) : Rat) = n := by rw [show (n.natAbs : Int) = n by omega]
    rw [Int.cast_natCast] at this
    rw [decide_eq_true hn, if_pos rfl, this]
    ring
  · have : ((n.natAbs : Int) : Rat) = -n := by rw [show (n.natAbs : Int) = -n by omega]; push_cast; rfl
    rw [Int.cast_natCast] at this
    rw [decide_eq_false hn, if_neg (by decide), this]
    ring

/-! ## The constants -/

theorem lit_a : f32v 0x3D635847 = .fin false 14899271 (-28) := by decide +kernel
theorem lit_b : f32v 0x3E75FDF0 = .fin false 16121328 (-26) := by decide +kernel
theorem lit_c : f32v 0x3F317218 = .fin false 11629080 (-24) := by decide +kernel
theorem lit_p : f32v 0x3EF6384F = .fin false 16136271 (-25) := by decide +kernel
theorem lit_q : f32v 0xBF38AA3B = .fin true 12102203 (-24) := by decide +kernel
theorem lit_r : f32v 0x3FB8AA3B = .fin false 12102203 (-23) := by decide +kernel

theorem tab_bounds {j : Nat} (hj : j < 32) : (tab j).isFin = true ∧ (tab j).negative = false ∧ 1 ≤ (tab j).rat ∧ (tab j).rat ≤ 2 := by
  rw [(tab_eq j hj).1, rat_fin]
  have hr := Nat.mod_lt (exp2Table.getD j 0) (Nat.two_pow_pos 23)
  generalize exp2Table.getD j 0 % 2 ^ 23 = r at hr
  have hr' : (r : Rat) ≤ 2 ^ 23 := by exact_mod_cast hr.le
  have hr0 : (0 : Rat) ≤ r := Nat.cast_nonneg r
  refine ⟨rfl, rfl, ?_, ?_⟩
  · push_cast
    norm_num
    linarith
  · push_cast
    norm_num
    linarith

/-! ## The steps of FEXP2 -/

/-- A step t · r + c with a positive result between 2^lo and 2^hi. -/
theorem fma32_rounded {x y z : Num} (hx : x.isFin = true) (hy : y.isFin = true) (hz : z.isFin = true) (hne : x.rat * y.rat + z.rat ≠ 0)
    (hb : |x.rat * y.rat + z.rat| ≤ 4) : Rounded (x.rat * y.rat + z.rat) (fma32 x y z) := by
  obtain ⟨hfin, hrat, -⟩ := numFma_exactly hx hy hz
  exact round32_rounded ⟨hfin, hrat, fun h => absurd h hne⟩ (hb.trans (by norm_num))

theorem mul32_rounded {x y : Num} (hx : x.isFin = true) (hy : y.isFin = true) (hneg : x.rat * y.rat = 0 → (x.negative != y.negative) = false)
    (hb : |x.rat * y.rat| ≤ 4) : Rounded (x.rat * y.rat) (mul32 x y) := by
  obtain ⟨hfin, hrat, hsign⟩ := numMul_exactly hx hy
  exact round32_rounded ⟨hfin, hrat, fun h => (hsign h).trans (hneg h)⟩ (hb.trans (by norm_num))

/-- The chain of FEXP2 from the rest `r` and the entry `t` of the table. -/
def expSteps (r t : Num) : Num := fma32 t (mul32 (fma32 (fma32 (f32v 0x3D635847) r (f32v 0x3E75FDF0)) r (f32v 0x3F317218)) r) t

theorem expSteps_spec {r t : Num} (hr : r.isFin = true) (hrneg : r.rat = 0 → r.negative = false) (hlo : -(1 / 64) ≤ r.rat) (hhi : r.rat ≤ 1 / 64)
    (ht : t.isFin = true) (htlo : 1 ≤ t.rat) (hthi : t.rat ≤ 2) :
    ∃ t1 t2 t3, OnceRounded ((f32v 0x3D635847).rat * r.rat + (f32v 0x3E75FDF0).rat) t1 ∧ OnceRounded (t1 * r.rat + (f32v 0x3F317218).rat) t2 ∧
      OnceRounded (t2 * r.rat) t3 ∧ OnceRounded (t.rat * t3 + t.rat) (expSteps r t).rat ∧ (expSteps r t).isFin = true ∧
      1 / 2 ≤ (expSteps r t).rat ∧ (expSteps r t).rat ≤ 4 := by
  have ha : (f32v 0x3D635847).rat = 14899271 / 2 ^ 28 := by rw [lit_a, rat_fin]; norm_num
  have hb : (f32v 0x3E75FDF0).rat = 16121328 / 2 ^ 26 := by rw [lit_b, rat_fin]; norm_num
  have hc : (f32v 0x3F317218).rat = 11629080 / 2 ^ 24 := by rw [lit_c, rat_fin]; norm_num
  have hafin : (f32v 0x3D635847).isFin = true := by rw [lit_a]; rfl
  have hbfin : (f32v 0x3E75FDF0).isFin = true := by rw [lit_b]; rfl
  have hcfin : (f32v 0x3F317218).isFin = true := by rw [lit_c]; rfl
  have hv1 : 1 / 8 ≤ (f32v 0x3D635847).rat * r.rat + (f32v 0x3E75FDF0).rat ∧ (f32v 0x3D635847).rat * r.rat + (f32v 0x3E75FDF0).rat ≤ 1 / 2 := by
    rw [ha, hb]
    constructor <;> linarith
  have h1 := fma32_rounded hafin hr hbfin (by linarith [hv1.1]) (by rw [abs_of_nonneg (by linarith [hv1.1])]; linarith [hv1.2])
  have h1lo := h1.above (-3) (by decide) (by decide) (by norm_num; linarith [hv1.1])
  have h1hi := (le_abs_self _).trans (h1.below (-1) (by decide) (by decide) (by rw [abs_of_nonneg (by linarith [hv1.1])]; norm_num; linarith [hv1.2]))
  unfold expSteps
  generalize fma32 (f32v 0x3D635847) r (f32v 0x3E75FDF0) = x1 at *
  norm_num at h1lo h1hi
  have hp1 : -(1 / 128) ≤ x1.rat * r.rat ∧ x1.rat * r.rat ≤ 1 / 128 := by constructor <;> nlinarith
  have hv2 : 1 / 2 ≤ x1.rat * r.rat + (f32v 0x3F317218).rat ∧ x1.rat * r.rat + (f32v 0x3F317218).rat ≤ 1 := by
    rw [hc]
    constructor <;> linarith [hp1.1, hp1.2]
  have h2 := fma32_rounded h1.fin hr hcfin (by linarith [hv2.1]) (by rw [abs_of_nonneg (by linarith [hv2.1])]; linarith [hv2.2])
  have h2lo := h2.above (-1) (by decide) (by decide) (by norm_num; linarith [hv2.1])
  have h2hi := (le_abs_self _).trans (h2.below 0 (by decide) (by decide) (by rw [abs_of_nonneg (by linarith [hv2.1])]; norm_num; linarith [hv2.2]))
  generalize fma32 x1 r (f32v 0x3F317218) = x2 at *
  norm_num at h2lo h2hi
  have h2neg : x2.negative = false := by
    by_contra h
    have := rat_nonpos_of_negative (x := x2) (by simpa using h)
    linarith
  have hv3 : -(1 / 64) ≤ x2.rat * r.rat ∧ x2.rat * r.rat ≤ 1 / 64 := by constructor <;> nlinarith
  have habs3 : |x2.rat * r.rat| ≤ 1 / 64 := abs_le.2 hv3
  have h3 := mul32_rounded h2.fin hr (fun h => by
    rw [h2neg, hrneg ((mul_eq_zero.1 h).resolve_left (by linarith))]
    rfl) (habs3.trans (by norm_num))
  have h3b := h3.below (-6) (by decide) (by decide) (habs3.trans (by norm_num))
  generalize mul32 x2 r = x3 at *
  norm_num at h3b
  obtain ⟨h3lo, h3hi⟩ := abs_le.1 h3b
  have hv4 : 1 / 2 ≤ t.rat * x3.rat + t.rat ∧ t.rat * x3.rat + t.rat ≤ 4 := by constructor <;> nlinarith
  have h4 := fma32_rounded ht h3.fin ht (by linarith [hv4.1]) (by rw [abs_of_nonneg (by linarith [hv4.1])]; exact hv4.2)
  have h4lo := h4.above (-1) (by decide) (by decide) (by norm_num; linarith [hv4.1])
  have h4hi := (le_abs_self _).trans (h4.below 2 (by decide) (by decide) (by rw [abs_of_nonneg (by linarith [hv4.1])]; norm_num; linarith [hv4.2]))
  norm_num at h4lo h4hi
  exact ⟨_, _, _, h1.once, h2.once, h3.once, h4.once, h4.fin, by linarith, by linarith⟩

/-! ## The result of FEXP2 -/

/-- What lies below half the smallest subnormal is rounded to +0, with UF and NX. -/
theorem roundTo_tiny (fo : Bool) {m : Nat} {e : Int} (hm : m ≠ 0) (h : m * (2 : Rat) ^ e < 2 ^ (-150 : Int)) :
    roundTo fmtF32 fo (.fin false m e) = (0, 0x18) := by
  have hnear := roundMag_nearMag (m := m) (e := e) regular_f32
  have hmid : fmtF32.mid 0 = (2 : Rat) ^ (-150 : Int) := by
    rw [fmtF32.mid_eq]
    norm_num [Fmt.sig, Fmt.ulp, Fmt.emin, fmtF32]
  have hpos : 0 < m * (2 : Rat) ^ e := mul_pos (by exact_mod_cast Nat.pos_of_ne_zero hm) (two_zpow_pos e)
  have hmag : (roundMag fmtF32 m e).1 = 0 := by
    by_contra hne
    obtain ⟨k, hk⟩ : ∃ k, (roundMag fmtF32 m e).1 = k + 1 := ⟨_, (Nat.succ_pred hne).symm⟩
    have := fmtF32.mid_strictMono.monotone (Nat.zero_le k)
    linarith [hnear.below k hk]
  have hnx : (roundMag fmtF32 m e).2.1 = true := by
    rw [roundMag_nx, hmag, fmtF32.mval_zero]
    exact hpos.ne
  have htiny : (roundMag fmtF32 m e).2.2 = true := by
    rw [roundMag_tiny hm]
    refine h.trans ?_
    norm_num [fmtF32]
  rw [roundTo_fin, if_neg (by rw [hmag]; decide)]
  unfold finiteCode
  rw [hmag, hnx, htiny]
  cases fo <;> rfl

theorem numScale_exactly (k : Int) {x : Num} (h : x.isFin = true) : IsExactly (numScale k x) (x.rat * (2 : Rat) ^ k) x.negative := by
  cases x with
  | nan | inf => contradiction
  | fin n m e =>
    refine ⟨rfl, ?_, fun _ => rfl⟩
    simp only [numScale, rat_fin, two_zpow_add]
    cases n <;> simp <;> ring

/-- The operand is whole where it is the whole part of its units. -/
theorem whole_iff (neg : Bool) (m : Nat) (e : Int) :
    (floorOf m e).2 = true ↔ (Num.fin neg m e).rat = ((unitsOf neg m e / 32 : Int) : Rat) := by
  rw [wholeOf_exact .down neg m e]
  constructor
  · intro h
    have hunits : RneInt ((Num.fin neg m e).rat * 32) (32 * wholeOf .down neg m e) := by
      rw [← h]
      refine ⟨?_, ?_, fun ht => ?_⟩
      · push_cast; linarith
      · push_cast; linarith
      · push_cast at ht
        rcases ht with ht | ht <;> linarith
    have := RneInt_unique (unitsOf_spec neg m e) hunits
    rw [this, Int.mul_ediv_cancel_left _ (by decide), h]
  · intro h
    have hfloor : wholeOf .down neg m e = (Num.fin neg m e).rat.floor := wholeOf_spec .down neg m e
    have : (Num.fin neg m e).rat.floor = unitsOf neg m e / 32 := floor_eq_iff.2 ⟨h.ge, by linarith⟩
    rw [hfloor, this, h]

section
variable {fi : Bool} {a : Nat} {neg : Bool} {m : Nat} {e : Int} (h : valOf fmtF32 (flush fmtF32 fi a) = .fin neg m e) (fo : Bool)
include h

/-- The rest of the operand beyond its units of 1/32. -/
def restOf (neg : Bool) (m : Nat) (e : Int) : Num := numAdd (.fin neg m e) (.fin (decide (0 < unitsOf neg m e)) (unitsOf neg m e).natAbs (-5))

theorem opExp2_fin : opExp2 fi fo a =
    if 4096 ≤ unitsOf neg m e then (fmtF32.inf, 0x14)
    else if unitsOf neg m e < -(2 ^ 14) then
      ((roundTo fmtF32 fo (.fin false 1 (-400))).1, (roundTo fmtF32 fo (.fin false 1 (-400))).2 ||| fNX)
    else
      let r := roundTo fmtF32 fo (numScale (unitsOf neg m e / 32) (expSteps (restOf neg m e) (tab (unitsOf neg m e % 32).toNat)))
      (r.1, r.2 ||| if (floorOf m e).2 && -126 ≤ unitsOf neg m e / 32 && unitsOf neg m e / 32 ≤ 127 then 0 else fNX) := by
  have hcond : (!neg && decide (4096 ≤ (unitsRNE m e (-5)).1)) = decide (4096 ≤ unitsOf neg m e) := by
    unfold unitsOf
    cases neg
    · rw [Bool.eq_iff_iff]
      simp
    · rw [Bool.eq_iff_iff]
      simp only [Bool.not_true, Bool.false_and, Bool.false_eq_true, if_true, decide_eq_true_iff, false_iff]
      omega
  unfold opExp2
  rw [show f32v (flush fmtF32 fi a) = .fin neg m e from h]
  dsimp only
  rw [hcond]
  exact if_congr decide_eq_true_iff rfl rfl

theorem opExp2_spec {n : Int} (hn : RneInt ((Num.fin neg m e).rat * 32) n) :
    (4096 ≤ n → opExp2 fi fo a = (0x7F800000, 0x14)) ∧
    (n < 4096 →
      ∃ t1 t2 t3 y fl, OnceRounded ((f32v 0x3D635847).rat * ((Num.fin neg m e).rat - n / 32) + (f32v 0x3E75FDF0).rat) t1 ∧
        OnceRounded (t1 * ((Num.fin neg m e).rat - n / 32) + (f32v 0x3F317218).rat) t2 ∧
        OnceRounded (t2 * ((Num.fin neg m e).rat - n / 32)) t3 ∧
        OnceRounded ((tab (n % 32).toNat).rat * t3 + (tab (n % 32).toNat).rat) y ∧
        fmtF32.RoundsRat fo (y * (2 : Rat) ^ (n / 32)) false ((opExp2 fi fo a).1, fl) ∧
        (opExp2 fi fo a).2 = fl ||| if (Num.fin neg m e).rat = ((n / 32 : Int) : Rat) ∧ -126 ≤ n / 32 ∧ n / 32 ≤ 127 then 0 else 0x10) := by
  obtain rfl := RneInt_unique hn (unitsOf_spec neg m e)
  have heq := opExp2_fin h fo
  constructor
  · intro hle
    rw [heq, if_pos hle]
    rfl
  · intro hlt
    rw [if_neg (not_le.2 hlt)] at heq
    have hrest : IsExactly (restOf neg m e) ((Num.fin neg m e).rat - unitsOf neg m e / 32) (neg && decide (0 < unitsOf neg m e)) := by
      have := numAdd_exactly (x := .fin neg m e) (y := .fin (decide (0 < unitsOf neg m e)) (unitsOf neg m e).natAbs (-5)) rfl rfl
      rwa [rat_units _ _ rfl, ← sub_eq_add_neg] at this
    have hneg : (neg && decide (0 < unitsOf neg m e)) = false := by
      cases neg
      · rfl
      · exact decide_eq_false (by unfold unitsOf; simp)
    obtain ⟨hhi, hlo, -⟩ := hn
    obtain ⟨hrfin, hrrat, hrsign⟩ := hrest
    have hj : (unitsOf neg m e % 32).toNat < 32 := by omega
    obtain ⟨htfin, -, htlo, hthi⟩ := tab_bounds hj
    obtain ⟨t1, t2, t3, h1, h2, h3, h4, hyfin, hylo, hyhi⟩ := expSteps_spec hrfin (fun h0 => (hrsign (hrrat ▸ h0)).trans hneg)
      (by rw [hrrat]; linarith) (by rw [hrrat]; linarith) htfin htlo hthi
    rw [hrrat] at h1 h2 h3
    have hypos : (expSteps (restOf neg m e) (tab (unitsOf neg m e % 32).toNat)).negative = false := by
      by_contra hn
      have := rat_nonpos_of_negative (x := expSteps (restOf neg m e) (tab (unitsOf neg m e % 32).toNat)) (by simpa using hn)
      linarith
    generalize expSteps (restOf neg m e) (tab (unitsOf neg m e % 32).toNat) = y at *
    have hscale := numScale_exactly (unitsOf neg m e / 32) hyfin
    rw [hypos] at hscale
    have hround := hscale.roundTo (.inl rfl) fo
    have hwhole := whole_iff neg m e
    generalize unitsOf neg m e = n at *
    by_cases hsmall : n < -(2 ^ 14)
    · rw [if_pos hsmall] at heq
      refine ⟨t1, t2, t3, y.rat, (roundTo fmtF32 fo (.fin false 1 (-400))).2, h1, h2, h3, h4, ?_, ?_⟩
      · have htiny : roundTo fmtF32 fo (numScale (n / 32) y) = roundTo fmtF32 fo (.fin false 1 (-400)) := by
          cases y with
          | nan | inf => contradiction
          | fin yn ym ye =>
            obtain rfl : yn = false := hypos
            rw [roundTo_tiny fo (m := 1) (by decide) (by rw [Nat.cast_one, one_mul]; exact zpow_lt_zpow_right₀ one_lt_two (by decide))]
            refine roundTo_tiny fo (fun h0 => ?_) ?_
            · subst h0
              rw [rat_of_zero] at hylo
              norm_num at hylo
            · rw [two_zpow_add, ← mul_assoc]
              have hyval : ym * (2 : Rat) ^ ye ≤ 4 := by rwa [rat_fin] at hyhi
              have hk : (2 : Rat) ^ (n / 32) ≤ 2 ^ (-200 : Int) := two_zpow_le (by omega)
              calc ym * (2 : Rat) ^ ye * 2 ^ (n / 32) ≤ 4 * 2 ^ (-200 : Int) := mul_le_mul hyval hk (two_zpow_pos _).le (by norm_num)
                _ < 2 ^ (-150 : Int) := by norm_num
        rw [htiny] at hround
        rw [heq]
        exact hround
      · rw [heq, if_neg (fun hc => by omega)]
        rfl
    · rw [if_neg hsmall] at heq
      refine ⟨t1, t2, t3, y.rat, (roundTo fmtF32 fo (numScale (n / 32) y)).2, h1, h2, h3, h4, ?_, ?_⟩
      · rw [heq]
        exact hround
      · rw [heq]
        dsimp only
        congr 1
        refine if_congr ?_ rfl rfl
        rw [Bool.and_eq_true, Bool.and_eq_true, decide_eq_true_iff, decide_eq_true_iff, hwhole, and_assoc]

end

end Sys2Proof.Machine
end

section
/-!
PROOF. FLOG2 of a positive operand (spec/01_numbers.md R32).
-/
namespace Sys2Proof.Machine

-- The proofs of this file run one after another: side by side they take the check's memory.
set_option Elab.async false

/-- The chain of FLOG2 from the quotient `u`. -/
def logSteps (u : Num) : Num := mul32 (fma32 (fma32 (f32v 0x3EF6384F) u (f32v 0xBF38AA3B)) u (f32v 0x3FB8AA3B)) u

theorem logSteps_spec {u : Num} (hu : u.isFin = true) (huneg : u.rat = 0 → u.negative = false) (hlo : 0 ≤ u.rat) (hhi : u.rat ≤ 1) :
    ∃ t1 t2, OnceRounded ((f32v 0x3EF6384F).rat * u.rat + (f32v 0xBF38AA3B).rat) t1 ∧ OnceRounded (t1 * u.rat + (f32v 0x3FB8AA3B).rat) t2 ∧
      OnceRounded (t2 * u.rat) (logSteps u).rat ∧ (logSteps u).isFin = true ∧ |(logSteps u).rat| ≤ 2 := by
  have hp : (f32v 0x3EF6384F).rat = 16136271 / 2 ^ 25 := by rw [lit_p, rat_fin]; norm_num
  have hq : (f32v 0xBF38AA3B).rat = -(12102203 / 2 ^ 24) := by rw [lit_q, rat_fin]; norm_num
  have hr : (f32v 0x3FB8AA3B).rat = 12102203 / 2 ^ 23 := by rw [lit_r, rat_fin]; norm_num
  have hpfin : (f32v 0x3EF6384F).isFin = true := by rw [lit_p]; rfl
  have hqfin : (f32v 0xBF38AA3B).isFin = true := by rw [lit_q]; rfl
  have hrfin : (f32v 0x3FB8AA3B).isFin = true := by rw [lit_r]; rfl
  have hv1 : -1 ≤ (f32v 0x3EF6384F).rat * u.rat + (f32v 0xBF38AA3B).rat ∧ (f32v 0x3EF6384F).rat * u.rat + (f32v 0xBF38AA3B).rat ≤ -(1 / 8) := by
    rw [hp, hq]
    constructor <;> linarith
  have habs1 : |(f32v 0x3EF6384F).rat * u.rat + (f32v 0xBF38AA3B).rat| ≤ 1 := abs_le.2 ⟨hv1.1, by linarith [hv1.2]⟩
  have h1 := fma32_rounded hpfin hu hqfin (by linarith [hv1.2]) (by linarith)
  have h1b := h1.below 0 (by decide) (by decide) (by simpa using habs1)
  have h1hi := h1.under (-3) (by decide) (by decide) (by norm_num; linarith [hv1.2])
  unfold logSteps
  generalize fma32 (f32v 0x3EF6384F) u (f32v 0xBF38AA3B) = x1 at *
  norm_num at h1b h1hi
  obtain ⟨h1lo, -⟩ := abs_le.1 h1b
  have hprod : -1 ≤ x1.rat * u.rat ∧ x1.rat * u.rat ≤ 0 := by constructor <;> nlinarith
  have hv2 : 1 / 4 ≤ x1.rat * u.rat + (f32v 0x3FB8AA3B).rat ∧ x1.rat * u.rat + (f32v 0x3FB8AA3B).rat ≤ 2 := by
    rw [hr]
    constructor <;> linarith [hprod.1, hprod.2]
  have h2 := fma32_rounded h1.fin hu hrfin (by linarith [hv2.1]) (by rw [abs_of_nonneg (by linarith [hv2.1])]; linarith [hv2.2])
  have h2lo := h2.above (-2) (by decide) (by decide) (by norm_num; linarith [hv2.1])
  have h2hi := (le_abs_self _).trans (h2.below 1 (by decide) (by decide) (by rw [abs_of_nonneg (by linarith [hv2.1])]; norm_num; linarith [hv2.2]))
  generalize fma32 x1 u (f32v 0x3FB8AA3B) = x2 at *
  norm_num at h2lo h2hi
  have h2neg : x2.negative = false := by
    by_contra h
    have := rat_nonpos_of_negative (x := x2) (by simpa using h)
    linarith
  have habs3 : |x2.rat * u.rat| ≤ 2 := by
    rw [abs_of_nonneg (mul_nonneg (by linarith) hlo)]
    nlinarith
  have h3 := mul32_rounded h2.fin hu (fun h => by
    rw [h2neg, huneg ((mul_eq_zero.1 h).resolve_left (by linarith))]
    rfl) (habs3.trans (by norm_num))
  have h3b := h3.below 1 (by decide) (by decide) (by rw [zpow_one]; exact habs3)
  norm_num at h3b
  exact ⟨_, _, h1.once, h2.once, h3.once, h3.fin, h3b⟩

/-! ## The entry of the table -/

theorem numLt_tab {x : Num} (hx : x.isFin = true) {j : Nat} (hj : j < 32) : numLt x (tab j) = true ↔ x.rat < (tab j).rat := by
  obtain ⟨hfin, -, hlo, -⟩ := tab_bounds hj
  rw [numLt_iff hx hfin, or_iff_left]
  rintro ⟨-, h0, -⟩
  linarith

/-- `tabIndex` finds the last entry that does not exceed the number. -/
theorem tabIndex_eq {x : Num} (hx : x.isFin = true) {j : Nat} (hle : (tab j).rat ≤ x.rat) (hgt : ∀ i, j < i → i < 32 → x.rat < (tab i).rat) :
    ∀ k, j ≤ k → k < 32 → tabIndex x k = j
  | 0, hjk, _ => by obtain rfl : j = 0 := by omega
                    rfl
  | k + 1, hjk, hk => by
    unfold tabIndex
    obtain rfl | hlt := Nat.eq_or_lt_of_le hjk
    · rw [if_neg (by rw [numLt_tab hx hk]; exact not_lt.2 hle)]
    · rw [if_pos ((numLt_tab hx hk).2 (hgt _ hlt hk))]
      exact tabIndex_eq hx hle hgt k (Nat.lt_succ_iff.1 hlt) (by omega)

/-- The significand between 1 and 2 of a number, and its exponent, are its own. -/
theorem binade_unique {k k' : Int} {m m' : Rat} (h : (2 : Rat) ^ k * m = 2 ^ k' * m') (h1 : 1 ≤ m) (h2 : m < 2) (h1' : 1 ≤ m') (h2' : m' < 2) :
    k = k' ∧ m = m' := by
  have hle {i i' : Int} {n n' : Rat} (he : (2 : Rat) ^ i * n = 2 ^ i' * n') (hn : 1 ≤ n) (hn' : n' < 2) : i ≤ i' := by
    by_contra hlt
    have hpow : (2 : Rat) ^ (i' + 1) ≤ 2 ^ i := two_zpow_le (by omega)
    rw [zpow_add_one₀ two_ne_zero] at hpow
    have hpos := two_zpow_pos i'
    have hposi := two_zpow_pos i
    have h3 : (2 : Rat) ^ i' * n' < 2 ^ i' * 2 := mul_lt_mul_of_pos_left hn' hpos
    have h4 : (2 : Rat) ^ i * 1 ≤ 2 ^ i * n := mul_le_mul_of_nonneg_left hn hposi.le
    linarith
  obtain rfl := le_antisymm (hle h h1 h2') (hle h.symm h1' h2)
  exact ⟨rfl, mul_left_cancel₀ (two_zpow_pos k).ne' h⟩

theorem isPow2_iff {m : Nat} (hm : m ≠ 0) : isPow2 m = true ↔ m = 2 ^ Nat.log2 m := by
  unfold isPow2
  rw [Bool.and_eq_true, bne_iff_ne, beq_iff_eq]
  exact and_iff_right hm

/-! ## The result -/

/-- The quotient that the chain begins with. -/
def quotientOf (x : Num) (j : Nat) : Num :=
  mul32 (numAdd x (numNeg (tab j))) (if j == 0 then .fin false 1 0 else numScale (-1) (tab (32 - j)))

theorem opLog2_fin {fi : Bool} {a m : Nat} {e : Int} (h : valOf fmtF32 (flush fmtF32 fi a) = .fin false m e) (hm : m ≠ 0) {j : Nat}
    (hj : tabIndex (.fin false m (-(Nat.log2 m : Int))) 31 = j) : opLog2 fi a =
      let kj : Int := ((Nat.log2 m : Int) + e) * 32 + j
      let r := roundTo fmtF32 false (numAdd (.fin (decide (kj < 0)) kj.natAbs (-5)) (logSteps (quotientOf (.fin false m (-(Nat.log2 m : Int))) j)))
      if isPow2 m then (r.1, 0) else (r.1, r.2 ||| fNX) := by
  have hne : (m == 0) = false := beq_eq_false_iff_ne.2 hm
  unfold opLog2
  rw [show f32v (flush fmtF32 fi a) = .fin false m e from h]
  simp only [hne, Bool.false_eq_true, if_false]
  rw [hj]
  rfl

theorem quotientOf_rounded {x : Num} (hx : x.isFin = true) {j : Nat} (hj : j < 32) (hle : (tab j).rat ≤ x.rat) (hlt : x.rat < 2) :
    Rounded ((x.rat - (tab j).rat) * if j = 0 then 1 else (tab (32 - j)).rat / 2) (quotientOf x j) ∧
      0 ≤ (x.rat - (tab j).rat) * (if j = 0 then 1 else (tab (32 - j)).rat / 2) ∧
      (x.rat - (tab j).rat) * (if j = 0 then 1 else (tab (32 - j)).rat / 2) ≤ 1 := by
  obtain ⟨htfin, htneg, htlo, -⟩ := tab_bounds hj
  obtain ⟨hyfin, hyrat, hysign⟩ := numSub_exactly hx htfin
  rw [htneg] at hysign
  have hfactor : ∃ z : Num, (if j == 0 then .fin false 1 0 else numScale (-1) (tab (32 - j))) = z ∧ z.isFin = true ∧ z.negative = false ∧
      z.rat = (if j = 0 then 1 else (tab (32 - j)).rat / 2) ∧ 0 < z.rat ∧ z.rat ≤ 1 := by
    refine ⟨_, rfl, ?_⟩
    by_cases h0 : j = 0
    · subst h0
      exact ⟨rfl, rfl, by simp [rat_fin], by simp [rat_fin], by simp [rat_fin]⟩
    · obtain ⟨hfin, hneg, hlo, hhi⟩ := tab_bounds (j := 32 - j) (by omega)
      have hscale := numScale_exactly (-1) hfin
      have hhalf : (2 : Rat) ^ (-1 : Int) = 1 / 2 := by norm_num
      have hrat : (numScale (-1) (tab (32 - j))).rat = (tab (32 - j)).rat / 2 := by rw [hscale.rat, hhalf, mul_one_div]
      have hsign : (numScale (-1) (tab (32 - j))).negative = false := by
        by_contra hn
        have := rat_nonpos_of_negative (x := numScale (-1) (tab (32 - j))) (by simpa using hn)
        linarith
      rw [if_neg (by simpa using h0), if_neg h0]
      exact ⟨hscale.fin, hsign, hrat, by linarith, by linarith⟩
  obtain ⟨z, hz, hzfin, hzneg, hzrat, hzpos, hzle⟩ := hfactor
  unfold quotientOf
  rw [hz, ← hzrat, ← hyrat]
  have hnonneg : 0 ≤ (numAdd x (numNeg (tab j))).rat := by rw [hyrat]; linarith
  have hone : (numAdd x (numNeg (tab j))).rat ≤ 1 := by rw [hyrat]; linarith
  have hprod := mul_nonneg hnonneg hzpos.le
  have hprod1 : (numAdd x (numNeg (tab j))).rat * z.rat ≤ 1 := by nlinarith
  refine ⟨mul32_rounded hyfin hzfin (fun h0 => ?_) (by rw [abs_of_nonneg hprod]; linarith), hprod, hprod1⟩
  have hy0 := (mul_eq_zero.1 h0).resolve_right hzpos.ne'
  rw [hzneg, hysign (hyrat ▸ hy0)]
  have hxneg : x.negative = false := by
    by_contra hn
    have := rat_nonpos_of_negative (x := x) (by simpa using hn)
    linarith
  rw [hxneg]
  rfl

theorem opLog2_spec {fi : Bool} {a m : Nat} {e : Int} (h : valOf fmtF32 (flush fmtF32 fi a) = .fin false m e) (hm : m ≠ 0)
    {k : Int} {s : Rat} {j : Nat} (hval : (Num.fin false m e).rat = (2 : Rat) ^ k * s) (h1 : 1 ≤ s) (h2 : s < 2) (hj : j < 32)
    (hle : (tab j).rat ≤ s) (hgt : ∀ i, j < i → i < 32 → s < (tab i).rat) :
    ∃ u t1 t2 t3 fl, OnceRounded ((s - (tab j).rat) * if j = 0 then 1 else (tab (32 - j)).rat / 2) u ∧
      OnceRounded ((f32v 0x3EF6384F).rat * u + (f32v 0xBF38AA3B).rat) t1 ∧ OnceRounded (t1 * u + (f32v 0x3FB8AA3B).rat) t2 ∧
      OnceRounded (t2 * u) t3 ∧
      fmtF32.RoundsRat false (k + j / 32 + t3) false ((opLog2 fi a).1, fl) ∧ (opLog2 fi a).2 = if s = 1 then 0 else fl ||| 0x10 := by
  have hmant : (Num.fin false m (-(Nat.log2 m : Int))).rat = m * (2 : Rat) ^ (-(Nat.log2 m : Int)) := rat_fin ..
  have hm1 : 1 ≤ m * (2 : Rat) ^ (-(Nat.log2 m : Int)) := by
    have := two_zpow_expOf_le hm (-(Nat.log2 m : Int))
    unfold expOf at this
    rwa [add_neg_cancel, zpow_zero] at this
  have hm2 : m * (2 : Rat) ^ (-(Nat.log2 m : Int)) < 2 := by
    have := lt_two_zpow_expOf (m := m) (-(Nat.log2 m : Int))
    unfold expOf at this
    rwa [add_neg_cancel, zero_add, zpow_one] at this
  have hsplit : (2 : Rat) ^ ((Nat.log2 m : Int) + e) * (m * (2 : Rat) ^ (-(Nat.log2 m : Int))) = 2 ^ k * s := by
    rw [← hval, rat_fin, mul_left_comm, ← two_zpow_add]
    congr 2
    ring
  obtain ⟨rfl, hs⟩ := binade_unique hsplit hm1 hm2 h1 h2
  rw [← hs] at hle hgt h2 ⊢
  rw [← hmant] at hle hgt h2 ⊢
  have heq := opLog2_fin h hm (tabIndex_eq rfl hle hgt 31 (by omega) (by decide))
  obtain ⟨hu, hulo, huhi⟩ := quotientOf_rounded (x := .fin false m (-(Nat.log2 m : Int))) rfl hj hle h2
  have huneg := hu.sign hulo
  have hu0 := rat_nonneg_of_not_negative huneg
  have hu1 := (le_abs_self _).trans (hu.below 0 (by decide) (by decide) (by rw [abs_of_nonneg hulo]; simpa using huhi))
  rw [zpow_zero] at hu1
  obtain ⟨t1, t2, h3, h4, h5, hfin, -⟩ := logSteps_spec hu.fin (fun _ => huneg) hu0 hu1
  have hpow : isPow2 m = true ↔ m * (2 : Rat) ^ (-(Nat.log2 m : Int)) = 1 := by
    rw [isPow2_iff hm, zpow_neg, zpow_natCast, mul_inv_eq_one₀ (by positivity)]
    exact_mod_cast Iff.rfl
  rw [← hmant] at hpow
  generalize logSteps (quotientOf (.fin false m (-(Nat.log2 m : Int))) j) = t at *
  have hkj : ((((Nat.log2 m : Int) + e) * 32 + j : Int) : Rat) / 32 = ((Nat.log2 m : Int) + e : Int) + j / 32 := by
    push_cast
    ring
  generalize ((Nat.log2 m : Int) + e) * 32 + (j : Int) = kj at *
  have hpart : (Num.fin (decide (kj < 0)) kj.natAbs (-5)).rat = (kj : Rat) / 32 := by
    rw [signedUnits_rat]
    norm_num
    ring
  have hsum := numAdd_exactly (x := .fin (decide (kj < 0)) kj.natAbs (-5)) rfl hfin
  rw [hpart, hkj] at hsum
  have hround := hsum.roundTo (.inl rfl) false
  have hzero : ((Nat.log2 m : Int) + e : Int) + (j : Rat) / 32 + t.rat = 0 → (decide (kj < 0) && t.negative) = false := by
    intro h0
    by_contra hne
    obtain ⟨hk, ht⟩ : kj < 0 ∧ t.negative = true := by simpa using hne
    have := rat_nonpos_of_negative ht
    have hk' : (kj : Rat) < 0 := by exact_mod_cast hk
    linarith
  refine ⟨_, t1, t2, t.rat, (roundTo fmtF32 false (numAdd (.fin (decide (kj < 0)) kj.natAbs (-5)) t)).2, hu.once, h3, h4, h5, ?_, ?_⟩
  · have hcode : (opLog2 fi a).1 = (roundTo fmtF32 false (numAdd (.fin (decide (kj < 0)) kj.natAbs (-5)) t)).1 := by
      rw [heq]
      dsimp only
      split <;> rfl
    rw [hcode]
    exact roundsRat_zero_congr hzero hround
  · rw [heq]
    by_cases hp : isPow2 m = true
    · rw [if_pos (hpow.1 hp)]
      exact congrArg Prod.snd (if_pos hp)
    · rw [if_neg (mt hpow.2 hp)]
      exact congrArg Prod.snd (if_neg hp)

end Sys2Proof.Machine
end

section
/-!
PROOF. Which float operation each float, conversion and BF16 instruction performs (spec/06_lane_float_planes.md R148 to R159).
-/
namespace Sys2Proof.Machine

-- The proofs of this file run one after another: side by side they take the check's memory.
set_option Elab.async false

/-! ## The forms -/

section
variable {i : Instr} {b : Nat} (hb : i.base = some b) (hlt : b < 0x28 * 2 ^ 26)
include hb hlt

theorem produces_of_fbinary {x : OpRF} {f : Nat → Nat → Nat × Word} (hexec : ∀ s, exec i s = fbinary i x f s) :
    Produces i x.g x.w x.d fun e y => wordOf (f (readSrc e y x.a).toNat (readSrc e y x.b).toNat) :=
  produces_of hexec (transfer_eq_false_of_base hb hlt)

theorem produces_of_fbinaryT {x : OpRF} {f : Nat → Nat → Nat → Nat × Word} (hexec : ∀ s, exec i s = fbinaryT i x f s) :
    Produces i x.g x.w x.d fun e y => wordOf (f (y.reg x.d).toNat (readSrc e y x.a).toNat (readSrc e y x.b).toNat) :=
  produces_of hexec (transfer_eq_false_of_base hb hlt)

theorem produces_of_funary {x : OpUF} {f : Nat → Nat × Word} (hexec : ∀ s, exec i s = funary i x f s) :
    Produces i x.g x.w x.d fun e y => wordOf (f (readSrc e y x.a).toNat) :=
  produces_of hexec (transfer_eq_false_of_base hb hlt)

/-- The same of an operation that agrees with `f` on words. -/
theorem produces_of_funary_congr {x : OpUF} {f f' : Nat → Nat × Word} (hexec : ∀ s, exec i s = funary i x f s)
    (hf : ∀ w : Word, f w.toNat = f' w.toNat) : Produces i x.g x.w x.d fun e y => wordOf (f' (readSrc e y x.a).toNat) := by
  have := produces_of_funary hb hlt hexec
  simpa only [hf] using this

end

/-! ## BF16 pairs (R159) -/

theorem fld_low (x : Word) : fld x.toNat 0 16 = x.toNat % 2 ^ 16 := by
  unfold fld
  rw [pow_zero, Nat.div_one]

theorem fld_high (x : Word) : fld x.toNat 16 16 = x.toNat / 2 ^ 16 := by
  unfold fld
  exact Nat.mod_eq_of_lt (Nat.div_lt_of_lt_mul x.isLt)

theorem fld_byte (x : Word) : fld x.toNat 0 8 = x.toNat % 2 ^ 8 := by
  unfold fld
  rw [pow_zero, Nat.div_one]

/-- A pair of sources, computed by halves. -/
theorem halves_words (f : Nat → Nat → Nat → Nat × Word) (d a b : Word) : wordOf (halves f d.toNat a.toNat b.toNat) =
    (BitVec.ofNat 32 ((f (d.toNat / 2 ^ 16) (a.toNat / 2 ^ 16) (b.toNat / 2 ^ 16)).1 * 2 ^ 16 + (f (d.toNat % 2 ^ 16) (a.toNat % 2 ^ 16) (b.toNat % 2 ^ 16)).1),
      (f (d.toNat % 2 ^ 16) (a.toNat % 2 ^ 16) (b.toNat % 2 ^ 16)).2 ||| (f (d.toNat / 2 ^ 16) (a.toNat / 2 ^ 16) (b.toNat / 2 ^ 16)).2) := by
  unfold wordOf halves
  simp only [fld_low, fld_high]

/-- The same of an operation that does not read D. -/
theorem halves_words_two (f : Nat → Nat → Nat × Word) (a b : Word) : wordOf (halves (fun _ => f) 0 a.toNat b.toNat) =
    (BitVec.ofNat 32 ((f (a.toNat / 2 ^ 16) (b.toNat / 2 ^ 16)).1 * 2 ^ 16 + (f (a.toNat % 2 ^ 16) (b.toNat % 2 ^ 16)).1),
      (f (a.toNat % 2 ^ 16) (b.toNat % 2 ^ 16)).2 ||| (f (a.toNat / 2 ^ 16) (b.toNat / 2 ^ 16)).2) :=
  halves_words (fun _ => f) 0 a b

theorem exec_bfadd2 (x : OpRF) (s : State) :
    exec (.bfadd2 x) s = fbinary (.bfadd2 x) x (halves (fun _ a b => opAdd fmtBF16 x.fi x.fo a b) 0) s := rfl

theorem exec_bfmul2 (x : OpRF) (s : State) :
    exec (.bfmul2 x) s = fbinary (.bfmul2 x) x (halves (fun _ a b => opMul fmtBF16 x.fi x.fo a b) 0) s := rfl

theorem exec_bfma2 (x : OpRF) (s : State) :
    exec (.bfma2 x) s = fbinaryT (.bfma2 x) x (halves fun d a b => opFma fmtBF16 x.fi x.fo a b d) s := rfl

/-! ## CVT from an integer (R155) -/

theorem opFromInt_signed (w : Word) : opFromInt (BitVec.ofNat 32 w.toNat).toInt =
    roundTo fmtF32 false (.fin (2 ^ 31 ≤ w.toNat) (if 2 ^ 31 ≤ w.toNat then 2 ^ 32 - w.toNat else w.toNat) 0) := by
  have hlt := w.isLt
  rw [BitVec.ofNat_toNat, BitVec.setWidth_eq]
  unfold opFromInt
  rw [BitVec.toInt_eq_toNat_cond]
  by_cases h : 2 ^ 31 ≤ w.toNat
  · rw [if_neg (by omega), if_pos h, decide_eq_true (by omega), decide_eq_true h]
    congr 2
    omega
  · rw [if_pos (by omega), if_neg h, decide_eq_false (by omega), decide_eq_false h, Int.natAbs_natCast]

theorem opFromInt_unsigned (a : Nat) : opFromInt a = roundTo fmtF32 false (.fin false a 0) := by
  unfold opFromInt
  rw [decide_eq_false (by omega), Int.natAbs_natCast]

/-! ## The statement -/

theorem float_members (x : OpRF) :
    Produces (.fadd x) x.g x.w x.d (fun e y => wordOf (opAdd fmtF32 x.fi x.fo (readSrc e y x.a).toNat (readSrc e y x.b).toNat)) ∧
    Produces (.fsub x) x.g x.w x.d (fun e y => wordOf (opSub fmtF32 x.fi x.fo (readSrc e y x.a).toNat (readSrc e y x.b).toNat)) ∧
    Produces (.fmul x) x.g x.w x.d (fun e y => wordOf (opMul fmtF32 x.fi x.fo (readSrc e y x.a).toNat (readSrc e y x.b).toNat)) ∧
    Produces (.ffma x) x.g x.w x.d (fun e y =>
      wordOf (opFma fmtF32 x.fi x.fo (readSrc e y x.a).toNat (readSrc e y x.b).toNat (y.reg x.d).toNat)) ∧
    Produces (.fmin x) x.g x.w x.d (fun e y => wordOf (opMinMax false x.fi x.fo (readSrc e y x.a).toNat (readSrc e y x.b).toNat)) ∧
    Produces (.fmax x) x.g x.w x.d (fun e y => wordOf (opMinMax true x.fi x.fo (readSrc e y x.a).toNat (readSrc e y x.b).toNat)) :=
  ⟨produces_of_fbinary (f := opAdd fmtF32 x.fi x.fo) rfl (by decide) fun _ => rfl,
    produces_of_fbinary (f := opSub fmtF32 x.fi x.fo) rfl (by decide) fun _ => rfl,
    produces_of_fbinary (f := opMul fmtF32 x.fi x.fo) rfl (by decide) fun _ => rfl,
    produces_of_fbinaryT (f := fun d a b => opFma fmtF32 x.fi x.fo a b d) rfl (by decide) fun _ => rfl,
    produces_of_fbinary (f := opMinMax false x.fi x.fo) rfl (by decide) fun _ => rfl,
    produces_of_fbinary (f := opMinMax true x.fi x.fo) rfl (by decide) fun _ => rfl⟩

theorem pair_members (x : OpRF) :
    Produces (.bfadd2 x) x.g x.w x.d (fun e y =>
      wordOf (halves (fun _ a b => opAdd fmtBF16 x.fi x.fo a b) 0 (readSrc e y x.a).toNat (readSrc e y x.b).toNat)) ∧
    Produces (.bfmul2 x) x.g x.w x.d (fun e y =>
      wordOf (halves (fun _ a b => opMul fmtBF16 x.fi x.fo a b) 0 (readSrc e y x.a).toNat (readSrc e y x.b).toNat)) ∧
    Produces (.bfma2 x) x.g x.w x.d (fun e y =>
      wordOf (halves (fun d a b => opFma fmtBF16 x.fi x.fo a b d) (y.reg x.d).toNat (readSrc e y x.a).toNat (readSrc e y x.b).toNat)) :=
  ⟨produces_of_fbinary rfl (by decide) (exec_bfadd2 x), produces_of_fbinary rfl (by decide) (exec_bfmul2 x),
    produces_of_fbinaryT rfl (by decide) (exec_bfma2 x)⟩

theorem exec_cvtF32S32 (x : OpUF) (s : State) :
    exec (.cvtF32S32 x) s = funary (.cvtF32S32 x) x (fun a => opFromInt (BitVec.ofNat 32 a).toInt) s := rfl

theorem exec_cvtF32N32 (x : OpUF) (s : State) : exec (.cvtF32N32 x) s = funary (.cvtF32N32 x) x (fun a => opFromInt a) s := rfl

theorem fromInt_members (x : OpUF) :
    Produces (.cvtF32S32 x) x.g x.w x.d (fun e y => wordOf (roundTo fmtF32 false (.fin (2 ^ 31 ≤ (readSrc e y x.a).toNat)
      (if 2 ^ 31 ≤ (readSrc e y x.a).toNat then 2 ^ 32 - (readSrc e y x.a).toNat else (readSrc e y x.a).toNat) 0))) ∧
    Produces (.cvtF32N32 x) x.g x.w x.d (fun e y => wordOf (roundTo fmtF32 false (.fin false (readSrc e y x.a).toNat 0))) :=
  ⟨produces_of_funary_congr (f' := fun a => roundTo fmtF32 false (.fin (2 ^ 31 ≤ a) (if 2 ^ 31 ≤ a then 2 ^ 32 - a else a) 0))
      rfl (by decide) (exec_cvtF32S32 x) opFromInt_signed,
    produces_of_funary_congr (f' := fun a => roundTo fmtF32 false (.fin false a 0))
      rfl (by decide) (exec_cvtF32N32 x) fun w => opFromInt_unsigned w.toNat⟩

theorem widen_members (x : OpUF) :
    Produces (.cvtF32Bf16 x) x.g x.w x.d (fun e y => wordOf (opWiden fmtBF16 x.fi ((readSrc e y x.a).toNat % 2 ^ 16))) ∧
    Produces (.cvtF32E4m3 x) x.g x.w x.d (fun e y => wordOf (opWiden fmtE4M3 x.fi ((readSrc e y x.a).toNat % 2 ^ 8))) ∧
    Produces (.cvtF32E5m2 x) x.g x.w x.d (fun e y => wordOf (opWiden fmtE5M2 x.fi ((readSrc e y x.a).toNat % 2 ^ 8))) :=
  ⟨produces_of_funary_congr (f := fun a => opWiden fmtBF16 x.fi (fld a 0 16)) (f' := fun a => opWiden fmtBF16 x.fi (a % 2 ^ 16))
      rfl (by decide) (fun _ => rfl) fun w => congrArg (opWiden fmtBF16 x.fi) (fld_low w),
    produces_of_funary_congr (f := fun a => opWiden fmtE4M3 x.fi (fld a 0 8)) (f' := fun a => opWiden fmtE4M3 x.fi (a % 2 ^ 8))
      rfl (by decide) (fun _ => rfl) fun w => congrArg (opWiden fmtE4M3 x.fi) (fld_byte w),
    produces_of_funary_congr (f := fun a => opWiden fmtE5M2 x.fi (fld a 0 8)) (f' := fun a => opWiden fmtE5M2 x.fi (a % 2 ^ 8))
      rfl (by decide) (fun _ => rfl) fun w => congrArg (opWiden fmtE5M2 x.fi) (fld_byte w)⟩

/-- FEXP2 and FLOG2 in the terms of the statement. -/
def ExpLog (fi fo : Bool) (a : Nat) : Prop :=
  let x := valOf fmtF32 (flush fmtF32 fi a)
  let tab := fun j : Nat => (valOf fmtF32 (exp2Table.getD j 0)).rat
  let lit := fun c : Nat => (valOf fmtF32 c).rat
  (∀ n : Int, RneInt (x.rat * 32) n →
    (4096 ≤ n → opExp2 fi fo a = (0x7F800000, 0x14)) ∧
    (n < 4096 →
      let k := n / 32
      let r := x.rat - n / 32
      let t := tab (n % 32).toNat
      ∃ t1 t2 t3 y fl, OnceRounded (lit 0x3D635847 * r + lit 0x3E75FDF0) t1 ∧ OnceRounded (t1 * r + lit 0x3F317218) t2 ∧
        OnceRounded (t2 * r) t3 ∧ OnceRounded (t * t3 + t) y ∧
        fmtF32.RoundsRat fo (y * (2 : Rat) ^ k) false ((opExp2 fi fo a).1, fl) ∧
        (opExp2 fi fo a).2 = fl ||| if x.rat = k ∧ -126 ≤ k ∧ k ≤ 127 then 0 else 0x10)) ∧
  (0 < x.rat → ∀ (k : Int) (m : Rat) (j : Nat), x.rat = (2 : Rat) ^ k * m → 1 ≤ m → m < 2 → j < 32 → tab j ≤ m →
    (∀ i, j < i → i < 32 → m < tab i) →
      ∃ u t1 t2 t3 fl, OnceRounded ((m - tab j) * if j = 0 then 1 else tab (32 - j) / 2) u ∧
        OnceRounded (lit 0x3EF6384F * u + lit 0xBF38AA3B) t1 ∧ OnceRounded (t1 * u + lit 0x3FB8AA3B) t2 ∧ OnceRounded (t2 * u) t3 ∧
        fmtF32.RoundsRat false (k + j / 32 + t3) false ((opLog2 fi a).1, fl) ∧ (opLog2 fi a).2 = if m = 1 then 0 else fl ||| 0x10)

theorem rat_tab (j : Nat) : (valOf fmtF32 (exp2Table.getD j 0)).rat = (tab j).rat := by
  unfold tab f32v
  rw [nth_eq_getD]

theorem expLog_of_fin {fi : Bool} (fo : Bool) {a m : Nat} {neg : Bool} {e : Int} (h : valOf fmtF32 (flush fmtF32 fi a) = .fin neg m e) :
    ExpLog fi fo a := by
  unfold ExpLog
  simp only [rat_tab]
  rw [h]
  refine ⟨fun n hn => opExp2_spec h fo hn, fun hpos k s j hval h1 h2 hj hle hgt => ?_⟩
  obtain ⟨rfl, hm, -⟩ := pos_of_rat_fin hpos
  exact opLog2_spec h hm hval h1 h2 hj hle hgt

/-- Settles O9: each member is a form of `fbinary`, `fbinaryT` or `funary` with its operation; the exact operations are rounded once
by `IsExactly.delivered`, and FEXP2 and FLOG2 by the steps of `opExp2_spec` and `opLog2_spec`. -/
theorem floatResults : Obligations.FloatResults := by
  unfold Obligations.FloatResults
  refine ⟨⟨?binary, ?pairs⟩, ⟨?unary, ?narrow4, ?narrow5⟩, ?rounded, ?minMax, fun j hj => exp2Table_nearest hj, ?expLog⟩
  case binary =>
    simp only [List.forall_mem_cons]
    refine ⟨fun x => (float_members x).1, fun x => (float_members x).2.1, fun x => (float_members x).2.2.1, fun x => (float_members x).2.2.2.1,
      fun x => (float_members x).2.2.2.2.1, fun x => (float_members x).2.2.2.2.2, nofun⟩
  case pairs =>
    simp only [List.forall_mem_cons]
    refine ⟨fun x => ?_, fun x => ?_, fun x => ?_, nofun⟩
    · simpa only [halves_words_two] using (pair_members x).1
    · simpa only [halves_words_two] using (pair_members x).2.1
    · simpa only [halves_words] using (pair_members x).2.2
  case unary =>
    simp only [List.forall_mem_cons]
    refine ⟨fun x => ?_, fun x => ?_, fun x => ?_, fun x => ?_, fun x => ?_, fun x => ?_, fun x => ?_, fun x => ?_, fun x => ?_, fun x => ?_,
      fun x => ?_, fun x => ?_, fun x => ?_, fun x => ?_, fun x => ?_, fun x => ?_, fun x => ?_, fun x => ?_, fun x => ?_, fun x => ?_,
      fun x => ?_, fun x => ?_, nofun⟩
    · exact produces_of_funary (f := opSign (fun _ => false) x.fi x.fo) rfl (by decide) fun _ => rfl
    · exact produces_of_funary (f := opSign (fun n => !n) x.fi x.fo) rfl (by decide) fun _ => rfl
    · exact produces_of_funary (f := opSqrt x.fi x.fo) rfl (by decide) fun _ => rfl
    · exact produces_of_funary (f := opRcp x.fi x.fo) rfl (by decide) fun _ => rfl
    · exact produces_of_funary (f := opRsq x.fi x.fo) rfl (by decide) fun _ => rfl
    · exact produces_of_funary (f := opExp2 x.fi x.fo) rfl (by decide) fun _ => rfl
    · exact produces_of_funary (f := opLog2 x.fi) rfl (by decide) fun _ => rfl
    · exact produces_of_funary (f := opIntegral .down x.fi) rfl (by decide) fun _ => rfl
    · exact produces_of_funary (f := opIntegral .up x.fi) rfl (by decide) fun _ => rfl
    · exact produces_of_funary (f := opIntegral .zero x.fi) rfl (by decide) fun _ => rfl
    · exact produces_of_funary (f := opIntegral .near x.fi) rfl (by decide) fun _ => rfl
    · exact produces_of_funary (f := fun a => (opClass x.fi a, 0)) rfl (by decide) fun _ => rfl
    · exact (fromInt_members x).1
    · exact (fromInt_members x).2
    · exact produces_of_funary (f := opNarrowBF16 x.fi x.fo) rfl (by decide) fun _ => rfl
    · exact (widen_members x).1
    · exact (widen_members x).2.1
    · exact (widen_members x).2.2
    · exact produces_of_funary (f := fun a => (opExpand4 (some fmtE2M1) 4 x.fi a, 0)) rfl (by decide) fun _ => rfl
    · exact produces_of_funary (f := fun a => (opExpand4 (some fmtE3M2) 6 x.fi a, 0)) rfl (by decide) fun _ => rfl
    · exact produces_of_funary (f := fun a => (opExpand4 (some fmtE2M3) 6 x.fi a, 0)) rfl (by decide) fun _ => rfl
    · exact produces_of_funary (f := fun a => (opExpand4 none 4 x.fi a, 0)) rfl (by decide) fun _ => rfl
  case narrow4 =>
    exact fun x => produces_of (f := fun e l => wordOf (opNarrowF8 fmtE4M3 x.fi x.fo x.sat (readSrc e l x.a).toNat)) (fun _ => rfl)
      (transfer_eq_false_of_base rfl (by decide))
  case narrow5 =>
    exact fun x => produces_of (f := fun e l => wordOf (opNarrowF8 fmtE5M2 x.fi x.fo x.sat (readSrc e l x.a).toNat)) (fun _ => rfl)
      (transfer_eq_false_of_base rfl (by decide))
  case rounded =>
    intro f fi fo a b c hf _ _ _ x y z hx hy
    refine ⟨(numAdd_exactly hx hy).delivered hf fo, (numSub_exactly hx hy).delivered hf fo, (numMul_exactly hx hy).delivered hf fo, fun hz => ?_⟩
    have := (numFma_exactly hx hy hz).delivered hf fo
    rwa [negative_numMul hx hy] at this
  case minMax =>
    intro fi a b ha hb x y hx hy mx
    obtain ⟨hflag, hcode⟩ := opMinMax_spec fi ha hb hx hy mx
    dsimp only
    rw [hcode]
    refine ⟨hflag, (ite_eq_or_eq _ _ _).symm, ?_⟩
    cases mx
    · have := lesser_spec hx hy
      simp only [Bool.false_eq_true, if_false, apply_ite (valOf fmtF32)]
      exact this
    · have := greater_spec hx hy
      simp only [if_true, apply_ite (valOf fmtF32)]
      exact this
  case expLog =>
    intro fi fo a _ x _ _ hx
    cases hval : valOf fmtF32 (flush fmtF32 fi a) with
    | nan | inf => simp only [x, hval] at hx; contradiction
    | fin neg m e => exact expLog_of_fin fo hval

end Sys2Proof.Machine
end

section
/-!
PROOF. The elements of the planed format (spec/01_numbers.md R22, R23, R25, R27): what an element read through its leading planes names, what an encoded element is,
and where the planes stand in a block line.
-/
namespace Sys2Proof.Machine

-- The proofs of this file run one after another: side by side they take the check's memory.
set_option Elab.async false

/-! ## Read elements (R22, R23) -/

/-- The bits of n planes. -/
theorem planeBits_eq {n : Nat} (h1 : 1 ≤ n) (h4 : n ≤ 4) : planeBits n = [1, 5, 13, 21].getD (n - 1) 0 ∧ 1 ≤ planeBits n ∧ planeBits n ≤ 21 ∧
    (n < 4 → planeBits n ≤ 20) := by
  interval_cases n <;> decide

/-- The exponent, the leading mantissa bits and the saturation of an element read through `L` bits. -/
def readParts (x L : Nat) (up : Bool) : Nat × Nat × Bool :=
  let e := x / 2 ^ 21 % 4
  let f := x % 2 ^ 21 / 2 ^ (21 - L) + if up then 1 else 0
  if f < 2 ^ L then (e, f, false) else if e < 3 then (e + 1, 0, false) else (3, 2 ^ L - 1, true)

/-- The element code of exponent `e` and leading mantissa bits `f`. -/
theorem fields_of_code {L e f s : Nat} (hL : L ≤ 21) (he : e < 4) (hf : f < 2 ^ L) :
    fld (s * 2 ^ 23 + (e * 2 ^ L + f) * 2 ^ (21 - L)) 21 2 = e ∧ fld (s * 2 ^ 23 + (e * 2 ^ L + f) * 2 ^ (21 - L)) 0 21 = f * 2 ^ (21 - L) := by
  have hsplit : 2 ^ L * 2 ^ (21 - L) = 2 ^ 21 := by rw [← Nat.pow_add]; congr 1; omega
  have hlow : f * 2 ^ (21 - L) < 2 ^ 21 := hsplit ▸ Nat.mul_lt_mul_of_pos_right hf (Nat.two_pow_pos _)
  have hcode : s * 2 ^ 23 + (e * 2 ^ L + f) * 2 ^ (21 - L) = s * 2 ^ 23 + e * 2 ^ 21 + f * 2 ^ (21 - L) := by
    rw [Nat.add_mul, mul_assoc, hsplit]
    ring
  rw [hcode]
  generalize f * 2 ^ (21 - L) = r at hlow
  unfold fld
  omega

theorem readCode_eq {x n : Nat} (rnp : Bool) (hx : x < 2 ^ 24) (h1 : 1 ≤ n) (h4 : n ≤ 4) :
    let L := planeBits n
    let r := readParts x L (rnp && n < 4 && bit x (20 - L))
    (readCode x n rnp).2 = r.2.2 ∧
      (readCode x n rnp).1 = x / 2 ^ 23 * 2 ^ 23 + (r.1 * 2 ^ L + r.2.1) * 2 ^ (21 - L) ∧ r.1 < 4 ∧ r.2.1 < 2 ^ L := by
  obtain ⟨-, hL1, hL, -⟩ := planeBits_eq h1 h4
  unfold readCode readParts
  dsimp only
  generalize (rnp && decide (n < 4) && bit x (20 - planeBits n)) = up
  generalize planeBits n = L at *
  have hsplit : 2 ^ L * 2 ^ (21 - L) = 2 ^ 21 := by rw [← Nat.pow_add]; congr 1; omega
  have hpos := Nat.two_pow_pos (21 - L)
  have hposL := Nat.two_pow_pos L
  have hsign : fld x 23 1 = x / 2 ^ 23 := by unfold fld; omega
  have hf : x % 2 ^ 21 / 2 ^ (21 - L) < 2 ^ L := by
    rw [Nat.div_lt_iff_lt_mul hpos, hsplit]
    exact Nat.mod_lt _ (by decide)
  have hmag : fld x 0 23 / 2 ^ (21 - L) = x / 2 ^ 21 % 4 * 2 ^ L + x % 2 ^ 21 / 2 ^ (21 - L) := by
    have : fld x 0 23 = 2 ^ (21 - L) * (x / 2 ^ 21 % 4 * 2 ^ L) + x % 2 ^ 21 := by
      rw [mul_left_comm, mul_comm (2 ^ (21 - L)), hsplit]
      unfold fld
      omega
    rw [this, Nat.mul_add_div hpos]
  have he : x / 2 ^ 21 % 4 < 4 := Nat.mod_lt _ (by decide)
  have hquad : 2 ^ (L + 2) = 4 * 2 ^ L := by rw [Nat.pow_add, Nat.mul_comm]
  rw [hsign, hmag, hquad]
  generalize x / 2 ^ 21 % 4 = e at he
  generalize x % 2 ^ 21 / 2 ^ (21 - L) = f at hf
  generalize 2 ^ L = p at *
  cases up
  · simp only [Bool.false_eq_true, if_false, Nat.add_zero, if_pos hf]
    exact ⟨trivial, trivial, he, hf⟩
  · rw [if_pos rfl, if_pos rfl]
    by_cases hcarry : f + 1 < p
    · have hlt : e * p + f + 1 < 4 * p := by interval_cases e <;> omega
      rw [if_pos hlt, if_pos hcarry]
      exact ⟨rfl, rfl, he, hcarry⟩
    · rw [if_neg hcarry]
      by_cases h3 : e < 3
      · have hlt : e * p + f + 1 < 4 * p := by interval_cases e <;> omega
        have hnext : e * p + f + 1 = (e + 1) * p + 0 := by rw [Nat.add_mul]; omega
        rw [if_pos hlt, if_pos h3, hnext]
        exact ⟨rfl, rfl, by omega, hposL⟩
      · obtain rfl : e = 3 := by omega
        have hlast : 3 * p + f = 3 * p + (p - 1) := by omega
        rw [if_neg (by omega), if_neg h3, hlast]
        exact ⟨rfl, rfl, Nat.lt_succ_self 3, Nat.sub_lt hposL Nat.one_pos⟩

/-- The number of an element code, by its fields, at a scale. -/
theorem elemVal_fields {L e f s : Nat} (sc : Int) (hL : L ≤ 21) (he : e < 4) (hf : f < 2 ^ L) (hs : s < 2) :
    let y := elemVal (s * 2 ^ 23 + (e * 2 ^ L + f) * 2 ^ (21 - L)) sc
    y.isFin = true ∧ y.negative = decide (s = 1) ∧
      |y.rat| = if e = 0 then (f : Rat) / 2 ^ L * 2 ^ sc else 2 ^ (e - 1) * (1 + (f : Rat) / 2 ^ L) * 2 ^ sc := by
  obtain ⟨hexp, hmant⟩ := fields_of_code (s := s) hL he hf
  have hsign : bit (s * 2 ^ 23 + (e * 2 ^ L + f) * 2 ^ (21 - L)) 23 = decide (s = 1) := by
    have hsplit : 2 ^ L * 2 ^ (21 - L) = 2 ^ 21 := by rw [← Nat.pow_add]; congr 1; omega
    have hlow : f * 2 ^ (21 - L) < 2 ^ 21 := hsplit ▸ Nat.mul_lt_mul_of_pos_right hf (Nat.two_pow_pos _)
    have hcode : (e * 2 ^ L + f) * 2 ^ (21 - L) < 2 ^ 23 := by
      rw [Nat.add_mul, mul_assoc, hsplit]
      omega
    have hdiv : (s * 2 ^ 23 + (e * 2 ^ L + f) * 2 ^ (21 - L)) / 2 ^ 23 = s := by omega
    unfold bit
    rw [hdiv, Nat.mod_eq_of_lt hs]
    rfl
  have hunit : (f * 2 ^ (21 - L) : Nat) * (2 : Rat) ^ (sc - 21) = (f : Rat) / 2 ^ L * 2 ^ sc := by
    have h21 : (2 : Rat) ^ (sc - 21) = 2 ^ sc / 2 ^ 21 := by rw [sub_eq_add_neg, two_zpow_add, div_eq_mul_inv]; rfl
    have hsplit : (2 : Rat) ^ L * 2 ^ (21 - L) = 2 ^ 21 := by rw [← pow_add]; congr 1; omega
    rw [h21, ← hsplit]
    push_cast
    have := (pow_pos (two_pos : (0 : Rat) < 2) (21 - L)).ne'
    field_simp
  unfold elemVal
  dsimp only
  rw [hexp, hmant, hsign]
  by_cases h0 : e = 0
  · subst h0
    refine ⟨rfl, rfl, ?_⟩
    rw [if_pos rfl]
    exact (abs_rat_fin ..).trans hunit
  · obtain ⟨d, rfl⟩ : ∃ d, e = d + 1 := ⟨e - 1, by omega⟩
    have hne : (d + 1 == 0) = false := rfl
    simp only [hne, Bool.false_eq_true, if_false, Nat.add_sub_cancel, h0]
    refine ⟨rfl, rfl, ?_⟩
    rw [abs_rat_fin, show sc - 21 + ((d + 1 : Nat) : Int) - 1 = (d : Int) + (sc - 21) by push_cast; ring, two_zpow_add, zpow_natCast, Nat.cast_add]
    have hone : ((2 ^ 21 : Nat) : Rat) * 2 ^ (sc - 21) = 2 ^ sc := by
      rw [Nat.cast_pow, ← zpow_natCast, Nat.cast_two, ← two_zpow_add]
      congr 1
      push_cast
      ring
    linear_combination (2 : Rat) ^ d * hone + (2 : Rat) ^ d * hunit

/-- `ReadElem` in the terms of the statement. -/
theorem readElem_spec (b : Block) (i n : Nat) (rnp : Bool) (h1 : 1 ≤ n) (h4 : n ≤ 4) (hx : b.elems.getD i 0 < 2 ^ 24) (he : b.e ≠ 0xFF) :
    let x := b.elems.getD i 0
    let L := planeBits n
    let r := readParts x L (rnp && n < 4 && bit x (20 - L))
    let scale : Rat := (2 : Rat) ^ ((b.e : Int) - 127 - (b.mu / 2 ^ (i / 2) % 2 : Nat))
    let y := readElem b i n rnp
    y.1.isFin = true ∧ y.1.negative = decide (x / 2 ^ 23 = 1) ∧ y.2 = r.2.2 ∧
      |y.1.rat| = if r.1 = 0 then r.2.1 / 2 ^ L * scale else 2 ^ (r.1 - 1) * (1 + (r.2.1 : Rat) / 2 ^ L) * scale := by
  have hcode := readCode_eq rnp hx h1 h4
  obtain ⟨-, -, hL, -⟩ := planeBits_eq h1 h4
  have hscale : b.scale i = (b.e : Int) - 127 - (b.mu / 2 ^ (i / 2) % 2 : Nat) := by
    unfold Block.scale bit
    obtain h | h := Nat.mod_two_eq_zero_or_one (b.mu / 2 ^ (i / 2)) <;> rw [h] <;> rfl
  unfold readElem
  rw [if_neg (by simpa using he), nth_eq_getD, hscale]
  dsimp only at hcode ⊢
  generalize readParts (b.elems.getD i 0) (planeBits n) (rnp && decide (n < 4) && bit (b.elems.getD i 0) (20 - planeBits n)) = r at *
  obtain ⟨hsat, hval, hr1, hr2⟩ := hcode
  rw [hval]
  obtain ⟨hfin, hneg, hrat⟩ := elemVal_fields ((b.e : Int) - 127 - (b.mu / 2 ^ (i / 2) % 2 : Nat)) hL hr1 hr2
    (show b.elems.getD i 0 / 2 ^ 23 < 2 by omega)
  exact ⟨hfin, hneg, hsat, hrat⟩

/-! ## Encoded elements (R27) -/

theorem RneInt_sub_even {v : Rat} {n k : Nat} (h : RneInt v n) (hk : k ≤ n) (heven : k % 2 = 0) : RneInt (v - k) ((n - k : Nat) : Int) := by
  obtain ⟨hhi, hlo, htie⟩ := h
  have hcast : ((n - k : Nat) : Rat) = n - k := by rw [Nat.cast_sub hk]
  push_cast at hhi hlo htie
  refine ⟨?_, ?_, fun ht => ?_⟩
  · push_cast
    rw [hcast]
    linarith
  · push_cast
    rw [hcast]
    linarith
  · push_cast at ht
    rw [hcast] at ht
    have := htie (by rcases ht with ht | ht; exacts [.inl (by linarith), .inr (by linarith)])
    omega

theorem b2n_mul (neg : Bool) (k : Nat) : b2n neg * k = if neg then k else 0 := by cases neg <;> simp [b2n]

theorem encodeElem_spec (neg : Bool) (m : Nat) (x sc : Int) :
    (m * (2 : Rat) ^ (x - sc) < 1 → ∃ z : Nat, RneInt (m * (2 : Rat) ^ (x - sc) * 2 ^ 21) z ∧
      encodeElem neg m x sc = ((if neg then 2 ^ 23 else 0) + z, false)) ∧
    (∀ l : Nat, 2 ^ l ≤ m * (2 : Rat) ^ (x - sc) → m * (2 : Rat) ^ (x - sc) < 2 ^ (l + 1) →
      ∃ z : Nat, RneInt ((m * (2 : Rat) ^ (x - sc) / 2 ^ l - 1) * 2 ^ 21) z ∧
        encodeElem neg m x sc = if (l + 1) * 2 ^ 21 + z < 2 ^ 23 then ((if neg then 2 ^ 23 else 0) + ((l + 1) * 2 ^ 21 + z), false)
          else ((if neg then 2 ^ 23 else 0) + 2 ^ 23 - 1, true)) := by
  generalize hv : m * (2 : Rat) ^ (x - sc) = v
  constructor
  · intro hlt
    have hl : (if m == 0 then -1 else max (expOf m (x - sc)) (-1)) = -1 := by
      by_cases hm : m = 0
      · simp [hm]
      · have := (expOf_lt_iff hm (x - sc) 0).2 (by rw [hv, zpow_zero]; exact hlt)
        simp only [beq_iff_eq, hm, if_false]
        omega
    have hround := (unitsRNE_spec m (x - sc) (-21)).1
    have hmul : m * (2 : Rat) ^ (x - sc - -21) = v * 2 ^ 21 := by
      rw [sub_neg_eq_add, two_zpow_add, ← mul_assoc, hv]
      norm_num
    rw [hmul] at hround
    refine ⟨_, hround, ?_⟩
    have hle : (unitsRNE m (x - sc) (-21)).1 ≤ 2 ^ 21 := RneInt.le_nat hround (by push_cast; linarith)
    unfold encodeElem
    dsimp only
    rw [hl, b2n_mul]
    simp only [show ((-1 : Int) < 0) = True by simp, if_true]
    rw [if_neg (by omega)]
  · intro l hlo hhi
    have hm : m ≠ 0 := by
      rintro rfl
      have : (0 : Rat) < 2 ^ l := by positivity
      rw [Nat.cast_zero, zero_mul] at hv
      linarith
    have hexp : expOf m (x - sc) = l := by
      have h1 := (expOf_lt_iff hm (x - sc) ((l : Int) + 1)).2 (by rw [hv, ← Nat.cast_succ, zpow_natCast]; exact hhi)
      have h2 := mt (expOf_lt_iff hm (x - sc) l).1 (by rw [hv, zpow_natCast]; exact not_lt.2 hlo)
      omega
    have hl : (if m == 0 then -1 else max (expOf m (x - sc)) (-1)) = l := by
      simp only [beq_iff_eq, hm, if_false, hexp]
      omega
    have hround := (unitsRNE_spec m (x - sc) ((l : Int) - 21)).1
    have hmul : m * (2 : Rat) ^ (x - sc - ((l : Int) - 21)) = v / 2 ^ l * 2 ^ 21 := by
      rw [show x - sc - ((l : Int) - 21) = x - sc + (-(l : Int) + 21) by ring, two_zpow_add, ← mul_assoc, hv, two_zpow_add, zpow_neg, zpow_natCast]
      norm_num
      ring
    rw [hmul] at hround
    have hpow : (0 : Rat) < 2 ^ l := by positivity
    have hge : 2 ^ 21 ≤ (unitsRNE m (x - sc) ((l : Int) - 21)).1 := RneInt.nat_le hround (by
      have : 1 ≤ v / 2 ^ l := (one_le_div hpow).2 hlo
      push_cast
      linarith)
    have hsub := RneInt_sub_even hround hge (by decide)
    rw [show v / 2 ^ l * 2 ^ 21 - (2 ^ 21 : Nat) = (v / 2 ^ l - 1) * 2 ^ 21 by rw [Nat.cast_pow, Nat.cast_two]; ring] at hsub
    refine ⟨_, hsub, ?_⟩
    unfold encodeElem
    dsimp only
    rw [hl, b2n_mul]
    have hnot : ¬ (l : Int) < 0 := by omega
    simp only [hnot, if_false, Int.toNat_natCast]
    generalize (unitsRNE m (x - sc) ((l : Int) - 21)).1 = n at *
    have hcode : (l + 1) * 2 ^ 21 + (n - 2 ^ 21) = l * 2 ^ 21 + n := by omega
    rw [hcode]
    by_cases hmax : l * 2 ^ 21 + n < 2 ^ 23
    · rw [if_pos hmax, if_neg (by omega)]
    · rw [if_neg hmax, if_pos (by omega)]

end Sys2Proof.Machine
end

section
/-!
PROOF. PLMAX, PLENC and PLDEC (spec/06_lane_float_planes.md R161 to R163), the quantising of a block (spec/01_numbers.md R28) and the places
of a block in its line (R25).
-/
namespace Sys2Proof.Machine

-- The proofs of this file run one after another: side by side they take the check's memory.
set_option Elab.async false

/-! ## Lane blocks -/

/-- The sixteen values of the block of a lane, as the statement lists them. -/
def blockOf (c : Ctx) (i : Instr) (x : OpU) (n : Nat) : List Nat := (List.range 16).map fun k =>
  let m := n / 16 * 16 + k
  if ((c.g.lane n).inside.isSome ∧ m ≠ n) ∨ m ∉ c.givers i x.g then 0 else (c.sees x.a m).toNat

theorem contribution_eq (c : Ctx) (i : Instr) (g : Guard) (a : Src) (m : Nat) :
    c.contribution i g a m = if m ∉ c.givers i g then 0 else (c.sees a m).toNat := by
  have hgive : (c.lanes.contains m && ((c.g.lane m).begin_ i c).2.isNone && g.holds (c.g.lane m)) = decide (m ∈ c.givers i g) := by
    rw [Bool.eq_iff_iff]
    simp [Ctx.givers, and_assoc]
  unfold Ctx.contribution
  simp only [hgive, decide_eq_true_eq, ite_not]
  rfl

theorem block_eq_blockOf (c : Ctx) (i : Instr) (x : OpU) (n : Nat) : c.block i x.g x.a n = blockOf c i x n := by
  unfold Ctx.block blockOf
  rw [upFrom_eq_range', List.range'_eq_map_range, List.map_map]
  refine List.map_congr_left fun k _ => ?_
  simp only [Function.comp, contribution_eq]
  by_cases h : (c.g.lane n).inside.isSome = true ∧ n / 16 * 16 + k ≠ n
  · rw [if_pos (by simpa using h), if_pos (.inl h)]
  · rw [if_neg (by simpa using h)]
    exact if_congr (by rw [or_iff_right h]) rfl rfl

theorem producesIn_of_block {i : Instr} {x : OpU} {b : Nat} {f : List Nat → Nat → Word × Word} (hexec : ∀ s, exec i s = blockUnit i x f s)
    (hb : i.base = some b) (hlt : b < 0x28 * 2 ^ 26) : ProducesIn i x.g x.w x.d fun c e _ => f (blockOf c i x e.n) (e.n % 16) := by
  refine producesIn_of (fun s => (hexec s).trans ?_) (transfer_eq_false_of_base hb hlt)
  unfold blockUnit
  congr 1
  funext c n l
  simp only [producer, block_eq_blockOf]
  rfl

theorem exec_plmax (x : OpU) (s : State) : exec (.plmax x) s = blockUnit (.plmax x) x blockMax s := rfl

theorem exec_plenc (x : OpU) (s : State) : exec (.plenc x) s = blockUnit (.plenc x) x blockEnc s := rfl

theorem exec_pldec (x : OpPlDec) (s : State) : exec (.pldec x) s = localUnit (.pldec x) s (producer x.g x.w x.d fun e l =>
    .ok (wordOf (decodeElem (x.n.val + 1) x.rnp (readSrc e l x.a).toNat))) := rfl

theorem isNaN_f32v (v : Nat) : (f32v v).isNaN = decide (0x7F800000 < v % 2 ^ 31) := isNaN_valOf_flush (a := v) false

theorem blockMax_eq (vs : List Nat) (k : Nat) : blockMax vs k = (if ∃ v ∈ vs, 0x7F800000 < v % 2 ^ 31 then 0x7FC00000
    else BitVec.ofNat 32 ((vs.map (· % 2 ^ 31)).foldr max 0), 0) := by
  unfold blockMax
  simp only [isNaN_f32v, List.any_eq_true, decide_eq_true_eq]
  split <;> rfl

theorem decodeElem_eq (n : Nat) (rnp : Bool) (a : Word) : wordOf (decodeElem n rnp a.toNat) =
    if a.toNat / 2 ^ 24 = 0xFF then (0x7FC00000, 0)
    else
      let v := readElem ⟨a.toNat / 2 ^ 24, 0, [a.toNat % 2 ^ 24]⟩ 0 n rnp
      let r := roundTo fmtF32 false v.1
      (BitVec.ofNat 32 r.1, r.2 ||| if v.2 then 0x20 else 0) := by
  have hexp : fld a.toNat 24 8 = a.toNat / 2 ^ 24 := by unfold fld; omega
  have helem : fld a.toNat 0 24 = a.toNat % 2 ^ 24 := by unfold fld; rw [Nat.pow_zero, Nat.div_one]
  unfold decodeElem
  dsimp only
  rw [hexp, helem]
  by_cases h : a.toNat / 2 ^ 24 = 0xFF
  · rw [if_pos h, if_pos (beq_iff_eq.2 h)]
    rfl
  · rw [if_neg h, if_neg (mt beq_iff_eq.1 h)]
    rfl

/-! ## Quantised blocks (R28) -/

/-- The largest magnitude of finite values bounds each of them, and is one of them where it is not 0. -/
theorem maxMag_spec (xs : List Num) (h : ∀ x ∈ xs, x.isFin = true) :
    (∀ x ∈ xs, |x.rat| ≤ (maxMag xs).1 * (2 : Rat) ^ (maxMag xs).2) ∧
      ((maxMag xs).1 = 0 ∨ ∃ x ∈ xs, |x.rat| = (maxMag xs).1 * (2 : Rat) ^ (maxMag xs).2) := by
  induction xs with
  | nil => exact ⟨by simp, .inl rfl⟩
  | cons x xs ih =>
    obtain ⟨hle, hone⟩ := ih fun y hy => h y (.tail _ hy)
    have hx := h x (.head _)
    cases x with
    | nan | inf => contradiction
    | fin n k f =>
      have hlt : numLt (.fin false (maxMag xs).1 (maxMag xs).2) (.fin false k f) = true ↔
          (maxMag xs).1 * (2 : Rat) ^ (maxMag xs).2 < k * (2 : Rat) ^ f := by
        rw [numLt_iff rfl rfl, rat_fin, rat_fin]
        simp [Num.negative]
      have heq : maxMag (.fin n k f :: xs) =
          if numLt (.fin false (maxMag xs).1 (maxMag xs).2) (.fin false k f) then (k, f) else maxMag xs := rfl
      rw [heq]
      split
      case isTrue hn =>
        rw [hlt] at hn
        refine ⟨fun y hy => ?_, .inr ⟨_, .head _, abs_rat_fin ..⟩⟩
        obtain rfl | hy := List.mem_cons.1 hy
        · exact (abs_rat_fin ..).le
        · exact (hle y hy).trans hn.le
      case isFalse hn =>
        rw [hlt, not_lt] at hn
        refine ⟨fun y hy => ?_, hone.imp_right fun ⟨y, hy, e⟩ => ⟨y, .tail _ hy, e⟩⟩
        obtain rfl | hy := List.mem_cons.1 hy
        · exact (abs_rat_fin ..).trans_le hn
        · exact hle y hy

/-- The largest of two magnitudes. -/
theorem maxMag_pair {x y : Num} (hx : x.isFin = true) (hy : y.isFin = true) :
    (maxMag [x, y]).1 * (2 : Rat) ^ (maxMag [x, y]).2 = max |x.rat| |y.rat| := by
  obtain ⟨hle, hone⟩ := maxMag_spec [x, y] (by simp [hx, hy])
  refine le_antisymm ?_ (max_le (hle x (by simp)) (hle y (by simp)))
  obtain hzero | ⟨z, hz, hmax⟩ := hone
  · rw [hzero, Nat.cast_zero, zero_mul]
    exact (abs_nonneg _).trans (le_max_left ..)
  · rw [← hmax]
    obtain rfl | rfl : z = x ∨ z = y := by simpa using hz
    · exact le_max_left ..
    · exact le_max_right ..

theorem muOf_spec (f : Nat → Bool) : muOf f < 2 ^ 8 ∧ ∀ j, j < 8 → (muOf f).testBit j = f j := by
  have hsum : muOf f = ((List.range 8).map fun k => if f k = true then 2 ^ k else 0).sum := by
    unfold muOf
    rw [upFrom_zero_eq_range]
    simp only [b2n_mul]
    rfl
  obtain ⟨hlt, hbit⟩ := sum_twoPow_lt_and_testBit (fun k => f k = true) 8
  rw [hsum]
  exact ⟨hlt, fun j hj => by rw [hbit, decide_eq_true hj, Bool.true_and, Bool.decide_eq_true]⟩

theorem pairMu_spec {xs : List Num} (hlen : xs.length = 16) (h : ∀ x ∈ xs, x.isFin = true) (e : Nat) : pairMu xs e < 2 ^ 8 ∧
    ∀ j, j < 8 → ((pairMu xs e).testBit j = true ↔
      max |(xs.getD (2 * j) (.fin false 0 0)).rat| |(xs.getD (2 * j + 1) (.fin false 0 0)).rat| < 4 * (2 : Rat) ^ ((e : Int) - 127)) := by
  obtain ⟨hlt, hbit⟩ := muOf_spec fun j =>
    numLt (.fin false (maxMag [nth (.fin false 0 0) xs (2 * j), nth (.fin false 0 0) xs (2 * j + 1)]).1
      (maxMag [nth (.fin false 0 0) xs (2 * j), nth (.fin false 0 0) xs (2 * j + 1)]).2) (.fin false 4 ((e : Int) - 127))
  refine ⟨hlt, fun j hj => ?_⟩
  have hfin {k : Nat} (hk : k < 16) : (xs.getD k (.fin false 0 0)).isFin = true := by
    rw [List.getD_eq_getElem xs _ (hlen ▸ hk)]
    exact h _ (List.getElem_mem _)
  have hmax := maxMag_pair (hfin (show 2 * j < 16 by omega)) (hfin (show 2 * j + 1 < 16 by omega))
  refine (Bool.eq_iff_iff.1 (hbit j hj)).trans ?_
  rw [numLt_iff rfl rfl, nth_eq_getD, nth_eq_getD, rat_fin, rat_fin, ← hmax]
  simp [Num.negative]

/-- The block of sixteen finite values whose largest lies in [2^l, 2^(l+1)). -/
theorem quantBlock_finite {xs : List Num} {t : Num} {l : Int} (h : ∀ x ∈ xs, x.isFin = true) (ht : t ∈ xs) (hmax : ∀ x ∈ xs, |x.rat| ≤ |t.rat|)
    (hlo : (2 : Rat) ^ l ≤ |t.rat|) (hhi : |t.rat| < 2 ^ (l + 1)) :
    let e := (max 1 (min 254 (l - 2 + 127))).toNat
    (quantBlock xs).1.e = e ∧ (quantBlock xs).1.mu = pairMu xs e ∧ e < 255 ∧
      ∀ k n m x, xs[k]? = some (.fin n m x) →
        let c := encodeElem n m x ((e : Int) - 127 - if (pairMu xs e).testBit (k / 2) then 1 else 0)
        nth 0 (quantBlock xs).1.elems k = c.1 ∧ nth false (quantBlock xs).2 k = c.2 := by
  obtain ⟨hle, hone⟩ := maxMag_spec xs h
  have hpos : (0 : Rat) < 2 ^ l := two_zpow_pos l
  have hval : (maxMag xs).1 * (2 : Rat) ^ (maxMag xs).2 = |t.rat| := by
    refine le_antisymm ?_ (hle t ht)
    obtain hzero | ⟨z, hz, e⟩ := hone
    · rw [hzero, Nat.cast_zero, zero_mul]
      exact abs_nonneg _
    · exact e ▸ hmax z hz
  have hm : (maxMag xs).1 ≠ 0 := by
    intro hzero
    rw [hzero, Nat.cast_zero, zero_mul] at hval
    linarith
  have hexp : expOf (maxMag xs).1 (maxMag xs).2 = l := by
    have h1 := (expOf_lt_iff hm (maxMag xs).2 (l + 1)).2 (hval ▸ hhi)
    have h2 := mt (expOf_lt_iff hm (maxMag xs).2 l).1 (hval ▸ not_lt.2 hlo)
    omega
  have hall : ¬ (xs.any fun x => !x.isFin) = true := by simpa using h
  have hclamp : clampInt (l - 2 + 127) 1 254 = max 1 (min 254 (l - 2 + 127)) := by unfold clampInt; split <;> omega
  unfold quantBlock
  rw [if_neg hall]
  dsimp only
  rw [if_neg (mt beq_iff_eq.1 hm), hexp, hclamp]
  refine ⟨rfl, rfl, by omega, fun k n m x hk => ?_⟩
  rw [nth_eq_getD, nth_eq_getD, List.getD_eq_getElem?_getD, List.getD_eq_getElem?_getD, List.getElem?_map, List.getElem?_map,
    getElem?_mapFrom_zero, hk, bit_eq_testBit]
  unfold b2n
  cases (pairMu xs (max 1 (min 254 (l - 2 + 127))).toNat).testBit (k / 2) <;> exact ⟨rfl, rfl⟩

theorem nth_replicate {α : Type} (d : α) (n k : Nat) : nth d (List.replicate n d) k = d := by
  rw [nth_eq_getD, List.getD_eq_getElem?_getD, List.getElem?_replicate]
  split <;> rfl

/-- The exponent or the μ bits of a block, as the statement puts them above an element. -/
theorem blockEnc_em (k e mu : Nat) : (if (k % 2 == 0) = true then e else mu) * 2 ^ 24 = if k % 2 = 0 then e * 2 ^ 24 else mu * 2 ^ 24 := by
  by_cases h : k % 2 = 0
  · rw [if_pos h, if_pos (beq_iff_eq.2 h)]
  · rw [if_neg h, if_neg (mt beq_iff_eq.1 h)]

theorem blockEnc_eq (vs : List Nat) (k : Nat) : blockEnc vs k =
    let q := quantBlock (vs.map f32v)
    (BitVec.ofNat 32 ((if k % 2 = 0 then q.1.e * 2 ^ 24 else q.1.mu * 2 ^ 24) + nth 0 q.1.elems k),
      if (if q.1.e == 0xFF then !(f32v (nth 0 vs k)).isFin else nth false q.2 k) then 0x20 else 0) := by
  dsimp only
  rw [← blockEnc_em]
  rfl

theorem blockEnc_notFinite {vs : List Nat} (h : ∃ v ∈ vs, (f32v v).isFin = false) (k : Nat) : blockEnc vs k =
    (BitVec.ofNat 32 (if k % 2 = 0 then 0xFF * 2 ^ 24 else 0 * 2 ^ 24), if (f32v (vs.getD k 0)).isFin then 0 else 0x20) := by
  have hany : ((vs.map f32v).any fun x => !x.isFin) = true := by simpa [List.any_eq_true] using h
  have hblock : (quantBlock (vs.map f32v)).1 = ⟨0xFF, 0, List.replicate 16 0⟩ := by
    unfold quantBlock
    rw [if_pos hany]
  rw [blockEnc_eq]
  dsimp only
  rw [hblock, nth_replicate, nth_eq_getD]
  cases (f32v (vs.getD k 0)).isFin <;> rfl

theorem blockEnc_zeros {vs : List Nat} (h : ∀ v ∈ vs, (f32v v).isFin = true) (hz : ∀ v ∈ vs, (f32v v).rat = 0) (k : Nat) : blockEnc vs k =
    (BitVec.ofNat 32 (if k % 2 = 0 then 1 * 2 ^ 24 else 0 * 2 ^ 24), 0) := by
  have hall : ¬ ((vs.map f32v).any fun x => !x.isFin) = true := by simpa [List.any_eq_true] using h
  have hm : (maxMag (vs.map f32v)).1 = 0 := by
    obtain hzero | ⟨x, hx, e⟩ := (maxMag_spec (vs.map f32v) (by simpa using h)).2
    · exact hzero
    · obtain ⟨v, hv, rfl⟩ := List.mem_map.1 hx
      rw [hz v hv, abs_zero, eq_comm, mul_eq_zero] at e
      exact Nat.cast_eq_zero.1 (e.resolve_right (two_zpow_pos _).ne')
  have hblock : quantBlock (vs.map f32v) = (⟨1, 0, List.replicate 16 0⟩, (vs.map f32v).map fun _ => false) := by
    unfold quantBlock
    rw [if_neg hall]
    dsimp only
    rw [if_pos (beq_iff_eq.2 hm)]
  have hfalse : nth false ((vs.map f32v).map fun _ => false) k = false := by
    rw [nth_eq_getD, List.getD_eq_getElem?_getD, List.getElem?_map]
    cases (vs.map f32v)[k]? <;> rfl
  rw [blockEnc_eq, hblock]
  dsimp only
  rw [nth_replicate, hfalse]
  rfl

/-- The three clauses of R28 about what PLENC gives of sixteen codes. -/
theorem blockEnc_spec (vs : List Nat) (k : Nat) (hlen : vs.length = 16) (hk : k < 16) :
    let val := fun j => valOf fmtF32 (vs.getD j 0)
    let mag := fun j => |(val j).rat|
    let fin := ∀ j, j < 16 → (val j).isFin = true
    let y := blockEnc vs k
    let em := fun e mu : Nat => if k % 2 = 0 then e * 2 ^ 24 else mu * 2 ^ 24
    (¬ fin → y = (BitVec.ofNat 32 (em 0xFF 0), if (val k).isFin then 0 else 0x20)) ∧
    (fin → (∀ j, j < 16 → (val j).rat = 0) → y = (BitVec.ofNat 32 (em 1 0), 0)) ∧
    (fin → ∀ (t : Nat) (l : Int), t < 16 → (∀ j, j < 16 → mag j ≤ mag t) → (2 : Rat) ^ l ≤ mag t → mag t < (2 : Rat) ^ (l + 1) →
      let e := (max 1 (min 254 (l - 2 + 127))).toNat
      let low := fun j : Nat => max (mag (2 * j)) (mag (2 * j + 1)) < 4 * (2 : Rat) ^ ((e : Int) - 127)
      ∃ mu : Nat, mu < 2 ^ 8 ∧ (∀ j, j < 8 → (mu.testBit j = true ↔ low j)) ∧
        ∀ n m x, val k = .fin n m x →
          let c := encodeElem n m x ((e : Int) - 127 - if mu.testBit (k / 2) then 1 else 0)
          y = (BitVec.ofNat 32 (em e mu + c.1), if c.2 then 0x20 else 0)) := by
  have hmem (v : Nat) : v ∈ vs ↔ ∃ j, j < 16 ∧ vs.getD j 0 = v := by
    rw [List.mem_iff_getElem]
    refine exists_congr fun j => ⟨fun ⟨hj, e⟩ => ⟨hlen ▸ hj, ?_⟩, fun ⟨hj, e⟩ => ⟨hlen ▸ hj, ?_⟩⟩
    · rw [List.getD_eq_getElem vs _ hj, e]
    · rw [← e, List.getD_eq_getElem vs _ (hlen ▸ hj)]
  have hat {j : Nat} (hj : j < 16) : (vs.map f32v)[j]? = some (valOf fmtF32 (vs.getD j 0)) := by
    rw [List.getElem?_map, List.getElem?_eq_getElem (hlen ▸ hj), List.getD_eq_getElem vs _ (hlen ▸ hj)]
    rfl
  have hall {p : Num → Prop} (h : ∀ j, j < 16 → p (valOf fmtF32 (vs.getD j 0))) : ∀ x ∈ vs.map f32v, p x := by
    intro x hx
    obtain ⟨v, hv, rfl⟩ := List.mem_map.1 hx
    obtain ⟨j, hj, rfl⟩ := (hmem v).1 hv
    exact h j hj
  intro val mag fin y em
  refine ⟨fun h => ?_, fun h hz => ?_, fun h t l ht hmax hlo hhi => ?_⟩
  · refine blockEnc_notFinite ?_ k
    by_contra hno
    exact h fun j hj => by_contra fun hj' => hno ⟨_, (hmem _).2 ⟨j, hj, rfl⟩, Bool.eq_false_iff.2 hj'⟩
  · exact blockEnc_zeros (fun v hv => hall (p := fun x => x.isFin = true) h _ (List.mem_map_of_mem hv))
      (fun v hv => hall (p := fun x => x.rat = 0) hz _ (List.mem_map_of_mem hv)) k
  · have hfin := hall (p := fun x => x.isFin = true) h
    obtain ⟨he, hmu, hlt, helem⟩ := quantBlock_finite hfin (List.mem_of_getElem? (hat ht))
      (hall (p := fun x => |x.rat| ≤ |(valOf fmtF32 (vs.getD t 0)).rat|) hmax) hlo hhi
    dsimp only
    generalize (max 1 (min 254 (l - 2 + 127))).toNat = e at *
    obtain ⟨hmu8, hbits⟩ := pairMu_spec (by rw [List.length_map, hlen]) hfin e
    refine ⟨pairMu (vs.map f32v) e, hmu8, fun j hj => ?_, fun n m x hval => ?_⟩
    · have := hbits j hj
      rw [List.getD_eq_getElem?_getD, List.getD_eq_getElem?_getD, hat (by omega), hat (by omega)] at this
      exact this
    · obtain ⟨hcode, hsat⟩ := helem k n m x ((hat hk).trans (congrArg some hval))
      have hnot : ¬ (e == 0xFF) = true := by simpa using hlt.ne
      show blockEnc vs k = _
      rw [blockEnc_eq]
      dsimp only
      rw [he, if_neg hnot, hmu, hcode, hsat]

/-! ## Block lines (R25) -/

theorem ofLine_spec (bs : List Byte) (i : Nat) (hi : i < 16) :
    let at_ := fun k => (bs.getD k 0).toNat
    let nibble := fun plane => at_ (8 * plane + i / 2) / 2 ^ (4 * (i % 2)) % 2 ^ 4
    let b := Block.ofLine bs
    b.e = at_ 48 ∧ b.mu = at_ 49 ∧ b.elems.length = 16 ∧
      b.elems.getD i 0 = nibble 0 * 2 ^ 20 + nibble 1 * 2 ^ 16 + at_ (16 + i) * 2 ^ 8 + at_ (32 + i) := by
  have hpart (from_ n k : Nat) (hk : k < n) : nth 0 ((bs.drop from_).take n) k = bs.getD (from_ + k) 0 := by
    rw [nth_eq_getD, List.getD_eq_getElem?_getD, List.getD_eq_getElem?_getD, List.getElem?_take_of_lt hk, List.getElem?_drop]
  have hfirst (k : Nat) (hk : k < 8) : nth 0 (bs.take 8) k = bs.getD k 0 := by
    rw [nth_eq_getD, List.getD_eq_getElem?_getD, List.getD_eq_getElem?_getD, List.getElem?_take_of_lt hk]
  refine ⟨congrArg BitVec.toNat (hpart 48 2 0 (by decide)), congrArg BitVec.toNat (hpart 48 2 1 (by decide)), by simp [Block.ofLine, Block.ofPlanes, upFrom_zero_eq_range], ?_⟩
  unfold Block.ofLine Block.ofPlanes
  dsimp only
  rw [upFrom_zero_eq_range, List.getD_eq_getElem?_getD, List.getElem?_map, List.getElem?_range hi, Option.map_some, Option.getD_some,
    hfirst (i / 2) (by omega), hpart 8 8 (i / 2) (by omega), hpart 16 16 i hi, hpart 32 16 i hi, Nat.mul_zero, Nat.zero_add, Nat.mul_one]
  rfl

/-- The eight bytes of a plane of nibbles, and the sixteen of a plane of bytes. -/
def nibblePlane (b : Block) (lo : Nat) : List Byte :=
  (upFrom 0 8).map fun k => BitVec.ofNat 8 (fld (nth 0 b.elems (2 * k)) lo 4 + 16 * fld (nth 0 b.elems (2 * k + 1)) lo 4)

def bytePlane (b : Block) (lo : Nat) : List Byte := (upFrom 0 16).map fun i => BitVec.ofNat 8 (fld (nth 0 b.elems i) lo 8)

theorem ofLine_line (b : Block) : Block.ofLine b.line =
    Block.ofPlanes [BitVec.ofNat 8 b.e, BitVec.ofNat 8 b.mu] (nibblePlane b 20) (nibblePlane b 16) (bytePlane b 8) (bytePlane b 0) := rfl

theorem nibblePlane_at (b : Block) (lo i : Nat) (hi : i < 16) :
    fld (nth 0 (nibblePlane b lo) (i / 2)).toNat (4 * (i % 2)) 4 = fld (nth 0 b.elems i) lo 4 := by
  have hat : nth 0 (nibblePlane b lo) (i / 2) =
      BitVec.ofNat 8 (fld (nth 0 b.elems (2 * (i / 2))) lo 4 + 16 * fld (nth 0 b.elems (2 * (i / 2) + 1)) lo 4) := by
    rw [nth_eq_getD, nibblePlane, upFrom_zero_eq_range, List.getD_eq_getElem?_getD, List.getElem?_map,
      List.getElem?_range (by omega)]
    rfl
  have hlt (x : Nat) : fld x lo 4 < 16 := Nat.mod_lt _ (by decide)
  have hlow := hlt (nth 0 b.elems (2 * (i / 2)))
  have hhigh := hlt (nth 0 b.elems (2 * (i / 2) + 1))
  have hfld (v k : Nat) : fld v k 4 = v / 2 ^ k % 16 := rfl
  rw [hat, BitVec.toNat_ofNat, hfld _ (4 * (i % 2))]
  obtain heven | hodd := Nat.mod_two_eq_zero_or_one i
  · have hi2 : 2 * (i / 2) = i := by omega
    rw [heven, Nat.mul_zero, Nat.pow_zero, Nat.div_one]
    rw [hi2] at hlow ⊢
    omega
  · have hi2 : 2 * (i / 2) + 1 = i := by omega
    rw [hodd, Nat.mul_one]
    rw [hi2] at hhigh ⊢
    omega

theorem bytePlane_at (b : Block) (lo i : Nat) (hi : i < 16) : (nth 0 (bytePlane b lo) i).toNat = fld (nth 0 b.elems i) lo 8 := by
  rw [nth_eq_getD, bytePlane, upFrom_zero_eq_range, List.getD_eq_getElem?_getD, List.getElem?_map, List.getElem?_range hi]
  exact Nat.mod_mod _ _

theorem line_spec (b : Block) (he : b.e < 2 ^ 8) (hmu : b.mu < 2 ^ 8) (hlen : b.elems.length = 16) (hx : ∀ x ∈ b.elems, x < 2 ^ 24) :
    b.line.length = 64 ∧ Block.ofLine b.line = b ∧ b.line.drop 50 = List.replicate 14 0 := by
  refine ⟨rfl, ?_, rfl⟩
  rw [ofLine_line]
  unfold Block.ofPlanes
  have hhead : (BitVec.ofNat 8 b.e).toNat = b.e := Nat.mod_eq_of_lt he
  have hmask : (BitVec.ofNat 8 b.mu).toNat = b.mu := Nat.mod_eq_of_lt hmu
  have helems : ((upFrom 0 16).map fun i =>
      fld (nth 0 (nibblePlane b 20) (i / 2)).toNat (4 * (i % 2)) 4 * 2 ^ 20 + fld (nth 0 (nibblePlane b 16) (i / 2)).toNat (4 * (i % 2)) 4 * 2 ^ 16 +
        (nth 0 (bytePlane b 8) i).toNat * 2 ^ 8 + (nth 0 (bytePlane b 0) i).toNat) = b.elems := by
    refine List.ext_getElem? fun i => ?_
    rw [upFrom_zero_eq_range, List.getElem?_map]
    by_cases hi : i < 16
    · rw [List.getElem?_range hi, Option.map_some, nibblePlane_at b _ i hi, nibblePlane_at b _ i hi, bytePlane_at b _ i hi, bytePlane_at b _ i hi,
        nth_eq_getD, List.getD_eq_getElem _ _ (hlen ▸ hi), List.getElem?_eq_getElem (hlen ▸ hi)]
      have := hx _ (List.getElem_mem (hlen ▸ hi : i < b.elems.length))
      generalize b.elems[i]'(hlen ▸ hi) = x at *
      refine congrArg some ?_
      unfold fld
      omega
    · rw [List.getElem?_eq_none (by simpa using hi), List.getElem?_eq_none (by omega)]
      rfl
  dsimp only [nth]
  rw [hhead, hmask, helems]

/-! ## The statement -/

/-- Settles O14: the block of a lane is read as the statement lists it, and the planed format's functions by their rules. -/
theorem planeElements : Obligations.PlaneElements := by
  unfold Obligations.PlaneElements
  refine ⟨fun x => ?plmax, fun x => ?plenc, fun x => ?pldec, fun b i n rnp h1 h4 hx => ?read, encodeElem_spec, fun vs k hlen _ hk => ?block,
    fun bs i _ hi => ofLine_spec bs i hi, line_spec⟩
  case plmax =>
    have h := producesIn_of_block (exec_plmax x) rfl (by decide)
    simp only [blockMax_eq] at h
    exact h
  case plenc => exact producesIn_of_block (exec_plenc x) rfl (by decide)
  case pldec =>
    have h := produces_of (exec_pldec x) (transfer_eq_false_of_base rfl (by decide))
    simp only [decodeElem_eq] at h
    exact h
  case read =>
    obtain ⟨hbits, -⟩ := planeBits_eq h1 h4
    have hup : (if (rnp = true ∧ n < 4 ∧ b.elems.getD i 0 / 2 ^ (20 - planeBits n) % 2 = 1) then 1 else 0) =
        if (rnp && decide (n < 4) && bit (b.elems.getD i 0) (20 - planeBits n)) = true then 1 else 0 :=
      if_congr (by simp [bit, and_assoc]) rfl rfl
    dsimp only
    rw [← hbits, hup]
    refine ⟨fun he => ?_, readElem_spec b i n rnp h1 h4 hx⟩
    unfold readElem
    rw [if_pos (beq_iff_eq.2 he)]
  case block => exact blockEnc_spec vs k hlen hk

end Sys2Proof.Machine
end

section
/-!
PROOF. What write-backs, records and triggers leave steady: the registers of the machine that none of them reads or writes, the partitions
that exist, and what stands on the other cores.
-/
namespace Sys2Proof.Machine

-- The proofs of this file run one after another: side by side they take the check's memory.
set_option Elab.async false

/-- The registers that neither a record nor a write-back changes, and the partitions by their numbers. -/
def State.fixed (s : State) :=
  (s.parts.map (·.id), s.time, s.phase, s.slotLen, s.slotEmpty, s.ready0, s.ready1, s.ready2, s.cutDies, s.measures, s.tenants, s.packageId,
    s.budgets, s.ballast, s.timeHad, s.timeOff, s.timeSlow, s.energyHi, s.ports, s.spdm, s.engines)

/-- From `s` to `t` the fixed registers are the same, and every core but one. -/
structure Steady (core : Nat) (s t : State) : Prop where
  fixed : t.fixed = s.fixed
  cores : ∀ k, k ≠ core → t.core k = s.core k

/-- The clusters are the same too. -/
structure Quiet (core : Nat) (s t : State) : Prop extends Steady core s t where
  clusters : t.clusters = s.clusters

theorem Steady.refl (core : Nat) (s : State) : Steady core s s := ⟨rfl, fun _ _ => rfl⟩

theorem Steady.trans {core : Nat} {s t u : State} (h : Steady core s t) (h' : Steady core t u) : Steady core s u :=
  ⟨h'.fixed.trans h.fixed, fun k hk => (h'.cores k hk).trans (h.cores k hk)⟩

theorem Quiet.refl (core : Nat) (s : State) : Quiet core s s := ⟨.refl core s, rfl⟩

theorem Quiet.trans {core : Nat} {s t u : State} (h : Quiet core s t) (h' : Quiet core t u) : Quiet core s u :=
  ⟨h.toSteady.trans h'.toSteady, h'.clusters.trans h.clusters⟩

/-- An update of registers that are not among the fixed ones. -/
theorem Quiet.ofEq {s t : State} (core : Nat) (hf : t.fixed = s.fixed) (hc : t.cores = s.cores) (hk : t.clusters = s.clusters) : Quiet core s t :=
  ⟨⟨hf, fun k _ => by rw [State.core, hc]; rfl⟩, hk⟩

section
variable {core : Nat} {s₀ s : State}

theorem Quiet.moved (h : Quiet core s₀ s) : Quiet core s₀ s.moved := h.trans (.ofEq core rfl rfl rfl)

theorem Quiet.stamped (h : Quiet core s₀ s) : Quiet core s₀ s.stamped := h.trans (.ofEq core rfl rfl rfl)

theorem Quiet.foldl {α : Type} {f : State → α → State} (l : List α) (h : Quiet core s₀ s) (hf : ∀ s a, Quiet core s₀ s → Quiet core s₀ (f s a)) :
    Quiet core s₀ (l.foldl f s) := by
  induction l generalizing s with
  | nil => exact h
  | cons x xs ih => exact ih (hf s x h)

/-! ## Changes of the parts of the machine -/

theorem modPart_ids (s : State) (n : Nat) {f : Part → Part} (hf : ∀ p, (f p).id = p.id) :
    (s.modPart n f).parts.map (·.id) = s.parts.map (·.id) := by
  rw [State.modPart_parts, List.map_map]
  refine List.map_congr_left fun p _ => ?_
  simp only [Function.comp]
  split
  · exact hf p
  · rfl

theorem Quiet.modPart (h : Quiet core s₀ s) (n : Nat) {f : Part → Part} (hf : ∀ p, (f p).id = p.id) : Quiet core s₀ (s.modPart n f) :=
  h.trans (.ofEq core (congrArg (·, (s.modPart n f).fixed.2) (modPart_ids s n hf)) rfl rfl)

theorem Quiet.setCore (h : Quiet core s₀ s) (c : Core) (hc : c.id = core) : Quiet core s₀ (s.setCore c) := by
  refine h.trans ⟨⟨rfl, fun k hk => ?_⟩, rfl⟩
  rw [State.core_setCore, if_neg (by rw [hc]; exact Ne.symm hk)]

theorem Quiet.modTeam (h : Quiet core s₀ s) (f : Team → Team) : Quiet core s₀ (s.modTeam core f) := by
  unfold State.modTeam
  split
  · exact h
  · exact h.setCore _ (State.core_id ..)

theorem integrityLines_ids (old new : Memory) (ls : List Nat) (ps : List Part) :
    (integrityLines ps old new ls).map (·.id) = ps.map (·.id) := by
  induction ls generalizing ps with
  | nil => rfl
  | cons l ls ih =>
    unfold integrityLines
    split
    · exact ih ps
    next p _ =>
      dsimp only
      rw [ih, List.map_map]
      refine List.map_congr_left fun q _ => ?_
      simp only [Function.comp]
      split
      next hq =>
        have hid : p.id = q.id := (beq_iff_eq.1 hq).symm
        split
        · exact hid
        · split
          · exact hid
          · exact hid
      · rfl

theorem Quiet.postMgmt (h : Quiet core s₀ s) (r : Record) : Quiet core s₀ (s.postMgmt r) := h.trans (.ofEq core rfl rfl rfl)

theorem Quiet.reportIntegrity (h : Quiet core s₀ s) (ps : List Part) : Quiet core s₀ (s.reportIntegrity ps) :=
  h.foldl _ fun _ _ h => h.postMgmt _

theorem Quiet.store (h : Quiet core s₀ s) (a : Nat) (bs : List Byte) : Quiet core s₀ (s.store a bs) := by
  unfold State.store
  split
  · exact h
  dsimp only
  split
  · refine Quiet.reportIntegrity (h.trans ?_) _
    refine .ofEq core ?_ rfl rfl
    exact congrArg (·, s.fixed.2) (integrityLines_ids ..)
  · exact h.trans (.ofEq core rfl rfl rfl)

theorem Quiet.storeMask (h : Quiet core s₀ s) (a : Nat) (bs : List Byte) (ks : List Bool) : Quiet core s₀ (s.storeMask a bs ks) := by
  induction bs generalizing s a ks with
  | nil => exact h
  | cons b bs ih =>
    cases ks with
    | nil => exact h
    | cons k ks =>
      refine ih (s := if k then s.store a [b] else s) ?_ (a + 1) ks
      split
      · exact h.store a [b]
      · exact h

theorem Quiet.markPoison (h : Quiet core s₀ s) (a n : Nat) : Quiet core s₀ (s.markPoison a n) := h.trans (.ofEq core rfl rfl rfl)

theorem Quiet.cache (h : Quiet core s₀ s) (part va : Nat) (w : Walk) : Quiet core s₀ (s.cache part va w) := by
  unfold State.cache
  split
  · exact h
  · refine h.modPart part fun p => ?_
    split <;> rfl

/-! ## Records -/

theorem Quiet.devWrite (h : Quiet core s₀ s) (part va : Nat) (bs : List Byte) : Quiet core s₀ (s.devWrite part va bs) := by
  induction bs generalizing s va with
  | nil => exact h
  | cons b bs ih =>
    unfold State.devWrite
    refine ih ?_ (va + 1)
    split
    · exact h
    · split
      · exact h.store _ _
      · exact h

theorem Quiet.enqueue (h : Quiet core s₀ s) (part : Nat) (r : Record) : Quiet core s₀ (s.enqueue part r) := by
  unfold State.enqueue
  split
  · exact h
  · exact (h.devWrite ..).modPart part fun _ => rfl

theorem Quiet.postStamped (h : Quiet core s₀ s) (part : Nat) (r : Record) : Quiet core s₀ (s.postStamped part r) := by
  unfold State.postStamped
  split
  · exact h
  · split
    · refine h.modPart part fun q => ?_
      split <;> rfl
    · exact h.enqueue part r

theorem Quiet.post (h : Quiet core s₀ s) (part : Nat) (r : Record) : Quiet core s₀ (s.post part r) := h.stamped.postStamped ..

theorem Quiet.postOwner (h : Quiet core s₀ s) (part : Option Nat) (r : Record) : Quiet core s₀ (s.postOwner part r) := by
  unfold State.postOwner
  split
  · exact h.post _ _
  · exact h.postMgmt _

theorem Quiet.errorReport (h : Quiet core s₀ s) (part : Option Nat) (unit : Nat) (corrected poisoned : Bool) (loc : Nat) :
    Quiet core s₀ (s.errorReport part unit corrected poisoned loc) := by
  unfold State.errorReport
  dsimp only
  split
  · split
    · exact (h.postOwner ..).trans (.ofEq core rfl rfl rfl)
    · exact h.postOwner ..
  · exact h.postOwner ..

theorem Quiet.reportCut (h : Quiet core s₀ s) (part a : Nat) (read : Bool) : Quiet core s₀ (s.reportCut part a read) := by
  unfold State.reportCut
  split
  · exact h.errorReport ..
  · exact h

theorem Quiet.noteBy (h : Quiet core s₀ s) (k : Nat) (as : List Nat) : Quiet core s₀ (s.noteBy k as) := by
  unfold State.noteBy
  split
  · exact h
  · exact h.trans (.ofEq core rfl rfl rfl)

theorem Quiet.postFrozen (h : Quiet core s₀ s) (part : Nat) (r : Record) (target : Nat) : Quiet core s₀ (s.postFrozen part r target) :=
  (h.post ..).postMgmt _

theorem Quiet.freezeCore (h : Quiet core s₀ s) (part target : Nat) : Quiet core s₀ (s.freezeCore core part target) := by
  unfold State.freezeCore
  split
  · exact h
  · refine Quiet.postFrozen (h.setCore _ ?_) ..
    exact State.core_id ..

theorem Quiet.postTranslate (h : Quiet core s₀ s) (part : Nat) (r : Record) (x : XAgent) : Quiet core s₀ (s.postTranslate part r x) := by
  unfold State.postTranslate
  split
  · exact h
  · split
    · exact h
    · refine Quiet.moved (Quiet.modPart (h.post ..) part ?_)
      exact fun _ => rfl

/-! ## Write-backs and triggers -/

theorem Quiet.sendOn (h : Quiet core s₀ s) (part pkg port : Nat) (x : OutFlit) : Quiet core s₀ (s.sendOn part pkg port x) := by
  refine h.trans ?_
  unfold State.sendOn State.sent
  dsimp only
  split <;> exact .ofEq core rfl rfl rfl

theorem Quiet.request (h : Quiet core s₀ s) (type part pkg port : Nat) (stook : Bool) (body : List Byte) (as : List Nat) (x : ReqAgent) :
    Quiet core s₀ (s.request type part pkg port stook body as x) := by
  refine (h.sendOn part pkg port ⟨type, stook, false, s.nextTag, body⟩).trans ?_
  exact .ofEq core rfl rfl rfl

theorem Quiet.writeHome (h : Quiet core s₀ s) (part : Nat) (x : ReqAgent) (a : Nat) (bs : List Byte) (mask : List Bool) (stook : Bool) :
    Quiet core s₀ (s.writeHome part x a bs mask stook) := by
  unfold State.writeHome
  split
  · split
    · refine h.foldl _ fun s y h => ?_
      dsimp only
      split
      · exact h
      · exact (h.storeMask ..).request ..
    · exact h
  · exact h.storeMask ..

theorem Quiet.backInvalidate (h : Quiet core s₀ s) (ls : List Nat) : Quiet core s₀ (s.backInvalidate ls) := by
  unfold State.backInvalidate
  split
  · exact h
  · exact h.trans (.ofEq core rfl rfl rfl)

theorem Quiet.carryPoison (h : Quiet core s₀ s) (src dst n : Nat) (mask : List Bool) : Quiet core s₀ (s.carryPoison src dst n mask) :=
  h.foldl _ fun _ _ h => h.foldl _ fun _ _ h => h.markPoison ..

theorem Quiet.sendDirty (h : Quiet core s₀ s) (r : Region) (k o home n : Nat) : Quiet core s₀ (s.sendDirty core r k o home n) := by
  have hdrawn : Quiet core s₀ (if r.strays.contains k then (s.drawn n).2 else s) := by
    split
    · exact h.trans (.ofEq core rfl rfl rfl)
    · exact h
  unfold State.sendDirty
  dsimp only
  split
  · exact (hdrawn.backInvalidate _).writeHome ..
  · exact ((((hdrawn.backInvalidate _).writeHome ..).carryPoison ..).reportCut ..).noteBy ..

theorem Quiet.modSlot (h : Quiet core s₀ s) (id k : Nat) (f : Slot → Slot) : Quiet core s₀ (s.modSlot core id k f) := h.modTeam _

theorem Quiet.joinWriteBack (h : Quiet core s₀ s) (part k id slot : Nat) (grp : Option Nat) (pc : Word) (lanes : BitVec 64) :
    Quiet core s₀ (s.joinWriteBack part k id slot grp pc lanes) := by
  unfold State.joinWriteBack
  split
  · exact h
  · exact h.modPart part fun _ => rfl

theorem Quiet.writeBack (h : Quiet core s₀ s) (r : Region) (k : Nat) (grp : Option Nat) (pc : Word) (lanes : BitVec 64) :
    Quiet core s₀ (s.writeBack core r k grp pc lanes).1 := by
  unfold State.writeBack
  dsimp only
  split
  · exact h
  split
  · exact h
  split
  · exact h
  split
  · exact h.joinWriteBack ..
  split
  · split
    · exact h
    split
    · exact h.freezeCore ..
    · exact h.postTranslate ..
  · split
    · exact h
    · exact (((h.cache ..).sendDirty ..).store ..).modSlot ..

theorem Quiet.writeBackRegion (h : Quiet core s₀ s) (id : Nat) (grp : Option Nat) (pc : Word) (lanes : BitVec 64) (n k : Nat) :
    Quiet core s₀ (s.writeBackRegion core id grp pc lanes k n).1 := by
  induction n generalizing s k with
  | zero => exact h
  | succ n ih =>
    unfold State.writeBackRegion
    split
    · exact h
    · exact ih (h.writeBack ..) (k + 1)

theorem Quiet.writeBackAll (h : Quiet core s₀ s) (grp : Option Nat) (pc : Word) (lanes : BitVec 64) (rs : List Region) :
    Quiet core s₀ (s.writeBackAll core grp pc lanes rs).1 := by
  induction rs generalizing s with
  | nil => exact h
  | cons r rs ih =>
    unfold State.writeBackAll
    exact ih (h.writeBackRegion ..)

theorem Quiet.flushTeam (h : Quiet core s₀ s) (grp : Option Nat) (pc : Word) (lanes : BitVec 64) :
    Quiet core s₀ (s.flushTeam core grp pc lanes).1 := h.writeBackAll ..

theorem Quiet.writeBitmap (h : Quiet core s₀ s) (part seq team : Nat) (ended : Bool) : Quiet core s₀ (s.writeBitmap part seq team ended) := by
  unfold State.writeBitmap
  split
  · exact h
  split
  · exact h
  dsimp only
  split
  · exact (h.store ..).reportCut ..
  · exact h.postTranslate ..

theorem Quiet.setTrig (h : Quiet core s₀ s) (part seq team : Nat) : Quiet core s₀ (s.setTrig part seq team) := by
  refine Quiet.writeBitmap (h.modPart part ?_) ..
  exact fun _ => rfl

theorem Quiet.setEnd (h : Quiet core s₀ s) (part seq team : Nat) : Quiet core s₀ (s.setEnd part seq team) := by
  refine Quiet.writeBitmap (h.modPart part ?_) ..
  exact fun _ => rfl

theorem Quiet.triggerTeam (h : Quiet core s₀ s) (grp : Option Nat) (pc : Word) (lanes : BitVec 64) :
    Quiet core s₀ (s.triggerTeam core grp pc lanes).1 := by
  unfold State.triggerTeam
  split
  · exact h
  split
  · exact h
  dsimp only
  split
  · exact (h.flushTeam ..).setTrig ..
  · exact h.flushTeam ..

/-! ## The cells of a crew -/

/-- A crew but for what has arrived at its cells and what is pending there. -/
def CrewCells.frame (x : CrewCells) := (x.part, x.seq, x.crew, x.cells.map fun b => (b.phase, b.expect, b.frozen))

/-- A cluster's crews but for arrivals. -/
def Cluster.frame (k : Cluster) := (k.recs, k.frozen, k.crews.map CrewCells.frame)

/-- From `s` to `t` the fixed registers are the same, every core but one, and the clusters but for arrivals at their crews' cells. -/
structure Settles (core : Nat) (s t : State) : Prop extends Steady core s t where
  clusters : ∀ k, (t.cluster k).frame = (s.cluster k).frame

theorem Settles.refl (core : Nat) (s : State) : Settles core s s := ⟨.refl core s, fun _ => rfl⟩

theorem Settles.trans {core : Nat} {s t u : State} (h : Settles core s t) (h' : Settles core t u) : Settles core s u :=
  ⟨h.toSteady.trans h'.toSteady, fun k => (h'.clusters k).trans (h.clusters k)⟩

theorem Quiet.settles (h : Quiet core s₀ s) : Settles core s₀ s :=
  ⟨h.toSteady, fun k => by rw [State.cluster, h.clusters]; rfl⟩

theorem State.cluster_id (s : State) (k : Nat) : (s.cluster k).id = k := by
  unfold State.cluster
  cases h : s.clusters.find? fun x => x.id == k with
  | none => rfl
  | some c => simpa using List.find?_some h

theorem find?_replaced {cs : List Cluster} {c x : Cluster} (h : cs.find? (fun x => x.id == c.id) = some x) :
    (cs.map fun x => if x.id == c.id then c else x).find? (fun x => x.id == c.id) = some c := by
  induction cs with
  | nil => cases h
  | cons y ys ih =>
    rw [List.find?_cons] at h
    rw [List.map_cons, List.find?_cons]
    by_cases hy : (y.id == c.id) = true
    · rw [if_pos hy, beq_self_eq_true]
    · rw [if_neg hy]
      rw [Bool.eq_false_iff.2 hy] at h ⊢
      exact ih h

theorem find?_others (cs : List Cluster) {c : Cluster} {k : Nat} (hk : c.id ≠ k) :
    (cs.map fun x => if x.id == c.id then c else x).find? (fun x => x.id == k) = cs.find? fun x => x.id == k := by
  induction cs with
  | nil => rfl
  | cons y ys ih =>
    rw [List.map_cons, List.find?_cons, List.find?_cons, ih]
    by_cases hy : (y.id == c.id) = true
    · rw [if_pos hy, beq_eq_false_iff_ne.2 hk, beq_eq_false_iff_ne.2 fun h => hk ((beq_iff_eq.1 hy).symm.trans h)]
    · rw [if_neg hy]

/-- A cluster read after one is replaced. -/
theorem State.cluster_setCluster (s : State) (c : Cluster) (k : Nat) :
    (s.setCluster c).cluster k = if c.id = k then c else s.cluster k := by
  unfold State.cluster State.setCluster
  generalize s.clusters = cs
  by_cases hany : (cs.any fun x => x.id == c.id) = true
  · rw [if_pos hany]
    dsimp only
    by_cases hk : c.id = k
    · subst hk
      rw [if_pos rfl]
      obtain ⟨x, hx⟩ := List.find?_isSome.2 (List.any_eq_true.1 hany) |> Option.isSome_iff_exists.1
      rw [find?_replaced hx]
      rfl
    · rw [if_neg hk, find?_others cs hk]
  · rw [if_neg hany]
    dsimp only
    rw [List.find?_append]
    by_cases hk : c.id = k
    · subst hk
      have hnone : (cs.find? fun x => x.id == c.id) = none := by simpa using hany
      rw [if_pos rfl, hnone]
      simp
    · rw [if_neg hk]
      have : [c].find? (fun x => x.id == k) = none := by simp [hk]
      rw [this, Option.or_none]

theorem Steady.setCluster (c : Cluster) : Steady core s (s.setCluster c) := by
  unfold State.setCluster
  split <;> exact ⟨rfl, fun _ _ => rfl⟩

/-- Cells of a team's crew changed in what has arrived and what is pending. -/
theorem Settles.modCells (h : Settles core s₀ s) (k : Nat) (t : Team) {f : Nat → BarCell → BarCell}
    (hf : ∀ i b, ((f i b).phase, (f i b).expect, (f i b).frozen) = (b.phase, b.expect, b.frozen)) : Settles core s₀ (s.modCells k t f) := by
  refine h.trans ⟨Steady.setCluster _, fun j => ?_⟩
  unfold State.modCells
  rw [State.cluster_setCluster]
  dsimp only
  rw [State.cluster_id]
  split
  next hj =>
    subst hj
    unfold Cluster.frame
    dsimp only
    rw [List.map_map]
    refine congrArg (fun xs => (_, _, xs)) (List.map_congr_left fun x _ => ?_)
    simp only [Function.comp]
    split
    · unfold CrewCells.frame
      dsimp only
      refine congrArg (fun ys => (_, _, _, ys)) (List.ext_getElem? fun i => ?_)
      rw [List.getElem?_map, List.getElem?_map, getElem?_mapFrom_zero]
      cases x.cells[i]? with
      | none => rfl
      | some b => exact congrArg some (hf i b)
    · rfl
  · rfl

theorem Settles.moved (h : Settles core s₀ s) : Settles core s₀ s.moved := h.trans (Quiet.refl core s).moved.settles

theorem Settles.modTeam (h : Settles core s₀ s) (f : Team → Team) : Settles core s₀ (s.modTeam core f) :=
  h.trans ((Quiet.refl core s).modTeam f).settles

theorem Settles.arriveBarc (h : Settles core s₀ s) (left : Copy → Nat) : Settles core s₀ (s.arriveBarc core left) := by
  unfold State.arriveBarc
  split
  · exact h
  split
  · exact h
  split
  · exact (h.modTeam _).moved
  split
  · exact h
  split
  · exact h
  dsimp only
  split
  · exact h
  · refine Settles.moved (Settles.modTeam (h.modCells core _ fun i b => ?_) _)
    split <;> rfl

/-- What follows the end of groups of a core's team. -/
theorem Settles.afterEnds (h : Settles core s₀ s) (left : Copy → Nat) : Settles core s₀ (s.afterEnds core left) := by
  unfold State.afterEnds
  split
  · exact h
  have h2 := (h.modTeam Team.settleBart).arriveBarc left
  dsimp only
  split
  · split
    · exact (h2.modTeam _).moved
    · exact h2
  · split
    · exact h2
    · split
      · exact h2.trans ((Quiet.refl core _).triggerTeam ..).settles
      · exact h2

end

end Sys2Proof.Machine
end

section
/-!
PROOF. Bounded waits, runs, the watchdog and the end of a barrier episode (spec/04 R93, spec/05 R131, R134, spec/08 R171, R189, spec/13 R255).
-/
namespace Sys2Proof.Machine

-- The proofs of this file run one after another: side by side they take the check's memory.
set_option Elab.async false

theorem exec_broadcastPcTimeout (core gi : Nat) (s : State) : exec (.broadcastPcTimeout core gi) s = execBroadcastPcTimeout core gi s := rfl
theorem exec_rvzBoundExpire (core gi : Nat) (s : State) : exec (.rvzBoundExpire core gi) s = execRvzBoundExpire core gi s := rfl
theorem exec_yieldExpire (core gi : Nat) (s : State) : exec (.yieldExpire core gi) s = execYieldExpire core gi s := rfl
theorem exec_hschRunEnd (core gi : Nat) (s : State) : exec (.hschRunEnd core gi) s = execHschRunEnd core gi s := rfl
theorem exec_watchdogExpire (core : Nat) (s : State) : exec (.watchdogExpire core) s = execWatchdogExpire core s := rfl
theorem exec_barrierEpisodeComplete (core : Nat) (cell : Fin 8) (s : State) :
    exec (.barrierEpisodeComplete core cell) s = execBarrierEpisodeComplete core cell s := rfl

theorem State.group_modGroup_same {s : State} {core gi : Nat} {g : Group} (h : s.group core gi = some g) (f : Group → Group) :
    (s.modGroup core gi f).group core gi = some (f g) := by
  rw [State.group_modGroup, if_pos ⟨rfl, rfl⟩, h]
  rfl

theorem State.group_moved (s : State) (core gi : Nat) : s.moved.group core gi = s.group core gi := rfl

/-! ## The broadcast PC (R93) -/

/-- A lane waits under R92 at place `p`. -/
def Lane.heldAt (p : Place) (l : Lane) : Bool := !l.exited && l.wait == .held && l.place == p

theorem heldAt_eq_countP (g : Group) (p : Place) : g.heldAt p = g.lanes.countP (Lane.heldAt p) := List.countP_eq_length_filter.symm

/-- Elements listed each once, behind those listed already. -/
theorem mem_foldl_once {α : Type} [BEq α] [LawfulBEq α] (xs acc : List α) (a : α) :
    a ∈ xs.foldl (fun ps p => if ps.contains p then ps else ps ++ [p]) acc ↔ a ∈ acc ∨ a ∈ xs := by
  induction xs generalizing acc with
  | nil => simp
  | cons x xs ih =>
    rw [List.foldl_cons, ih, List.mem_cons]
    split
    next h =>
      have hx : x ∈ acc := by simpa using h
      constructor
      · rintro (h | h)
        · exact .inl h
        · exact .inr (.inr h)
      · rintro (h | rfl | h)
        · exact .inl h
        · exact .inl hx
        · exact .inr h
    next => rw [List.mem_append, List.mem_singleton, or_assoc]

theorem mem_heldPlaces (g : Group) (p : Place) : p ∈ g.heldPlaces ↔ ∃ l ∈ g.lanes, Lane.heldAt p l = true := by
  unfold Group.heldPlaces Lane.heldAt
  rw [mem_foldl_once]
  simp [and_assoc]

/-- The better of two places: more lanes, or as many and a lower PC. -/
def Group.better (g : Group) (b q : Place) : Place :=
  if g.heldAt b < g.heldAt q || (g.heldAt q == g.heldAt b && q.pc.toNat < b.pc.toNat) then q else b

/-- No place of `ps` has more lanes than `b`, or as many at a lower PC. -/
def Group.Best (g : Group) (b : Place) (p : Place) : Prop :=
  g.heldAt p ≤ g.heldAt b ∧ (g.heldAt p = g.heldAt b → b.pc.toNat ≤ p.pc.toNat)

theorem Group.Best.trans {g : Group} {a b p : Place} (h : g.Best a b) (h' : g.Best b p) : g.Best a p := by
  obtain ⟨h1, h2⟩ := h
  obtain ⟨h3, h4⟩ := h'
  exact ⟨h3.trans h1, fun he => (h2 (by omega)).trans (h4 (by omega))⟩

theorem Group.better_spec (g : Group) (b q : Place) : g.Best (g.better b q) b ∧ g.Best (g.better b q) q := by
  unfold Group.better Group.Best
  split
  next h =>
    simp only [Bool.or_eq_true, Bool.and_eq_true, decide_eq_true_eq, beq_iff_eq] at h
    omega
  next h =>
    simp only [Bool.or_eq_true, Bool.and_eq_true, decide_eq_true_eq, beq_iff_eq] at h
    omega

theorem Group.foldl_better_spec (g : Group) (ps : List Place) (p : Place) :
    ps.foldl g.better p ∈ p :: ps ∧ ∀ q ∈ p :: ps, g.Best (ps.foldl g.better p) q := by
  induction ps generalizing p with
  | nil =>
    refine ⟨.head _, fun q hq => ?_⟩
    obtain rfl := List.mem_singleton.1 hq
    exact ⟨le_rfl, fun _ => le_rfl⟩
  | cons q qs ih =>
    obtain ⟨hmem, hbest⟩ := ih (g.better p q)
    obtain ⟨hp, hq⟩ := g.better_spec p q
    have hhead := hbest _ (.head _)
    refine ⟨?_, fun x hx => ?_⟩
    · rw [List.foldl_cons]
      obtain he | hin := List.mem_cons.1 hmem
      · rw [he]
        unfold Group.better
        split
        · exact .tail _ (.head _)
        · exact .head _
      · exact .tail _ (.tail _ hin)
    · obtain rfl | hx := List.mem_cons.1 hx
      · exact hhead.trans hp
      obtain rfl | hx := List.mem_cons.1 hx
      · exact hhead.trans hq
      · exact hbest x (.tail _ hx)

/-- Where lanes wait under R92, the broadcast PC moves to the best of their places. -/
theorem Group.moveBroadcast_spec {g : Group} (h : ∃ l ∈ g.lanes, l.exited = false ∧ l.wait = .held) :
    ∃ p, g.moveBroadcast = { g with place := p } ∧ p ∈ g.heldPlaces ∧ ∀ q, g.Best p q := by
  obtain ⟨l, hl, hx, hw⟩ := h
  have hin : l.place ∈ g.heldPlaces := (mem_heldPlaces ..).2 ⟨l, hl, by simp [Lane.heldAt, hx, hw]⟩
  unfold Group.moveBroadcast
  cases hps : g.heldPlaces with
  | nil => rw [hps] at hin; cases hin
  | cons p ps =>
    obtain ⟨hmem, hbest⟩ := g.foldl_better_spec ps p
    refine ⟨_, rfl, hmem, fun q => ?_⟩
    by_cases hq : q ∈ g.heldPlaces
    · exact hbest q (hps ▸ hq)
    · have hzero (x : Place) : g.heldAt x = 0 ↔ x ∉ g.heldPlaces := by
        rw [mem_heldPlaces, heldAt_eq_countP, List.countP_eq_zero]
        push Not
        rfl
      have hpos := mt (hzero (ps.foldl g.better p)).1 (not_not.2 (hps ▸ hmem))
      have hq0 := (hzero q).2 hq
      exact ⟨by omega, fun he => absurd (he ▸ hq0) hpos⟩

theorem broadcastPcTimeout_spec {s : State} {core gi : Nat} {g : Group} (hg : s.group core gi = some g) (hr : g.rvz.isSome = false)
    (hlong : ∃ x ∈ g.heldFor, 256 ≤ x.2) (hheld : ∃ l ∈ g.lanes, l.exited = false ∧ l.wait = .held) :
    ∃ t p, exec (.broadcastPcTimeout core gi) s = .next t ∧ t.group core gi = some { g with place := p } ∧ p ∈ g.heldPlaces ∧
      ∀ q, g.Best p q := by
  obtain ⟨p, hmove, hp, hbest⟩ := Group.moveBroadcast_spec hheld
  have hl : g.heldLong = true := by simpa [Group.heldLong] using hlong
  rw [exec_broadcastPcTimeout]
  unfold execBroadcastPcTimeout
  rw [hg]
  dsimp only
  rw [hr, hl, hmove]
  by_cases hsame : p = g.place
  · subst hsame
    exact ⟨s, _, by simp, hg, hp, hbest⟩
  · have hne : (p == g.place) = false := beq_eq_false_iff_ne.2 hsame
    refine ⟨(s.modGroup core gi Group.moveBroadcast).moved, p, by simp [hne], ?_, hp, hbest⟩
    rw [State.group_moved, State.group_modGroup_same hg, hmove]

theorem broadcastPcTimeout_early {s : State} {core gi : Nat} {g : Group} (hg : s.group core gi = some g)
    (hshort : ∀ x ∈ g.heldFor, x.2 < 256) : exec (.broadcastPcTimeout core gi) s = .next s := by
  have hl : g.heldLong = false := by simpa [Group.heldLong] using hshort
  rw [exec_broadcastPcTimeout]
  unfold execBroadcastPcTimeout
  rw [hg]
  dsimp only
  rw [hl]
  simp

theorem countHeld_spec (g : Group) (p : Place) :
    (g.lanes.any (Lane.heldAt p) = true → ∀ k, (∀ x ∈ g.heldFor, x.1 = p → x.2 = k) →
      (p, if g.heldFor.any (·.1 == p) then k + 1 else 1) ∈ g.countHeld) ∧
    (g.lanes.any (Lane.heldAt p) = false → ∀ x ∈ g.countHeld, x.1 ≠ p) := by
  have hplace : p ∈ g.heldPlaces ↔ g.lanes.any (Lane.heldAt p) = true := by rw [mem_heldPlaces, List.any_eq_true]
  unfold Group.countHeld
  refine ⟨fun hin k hk => List.mem_map.2 ⟨p, hplace.2 hin, ?_⟩, fun hout x hx => ?_⟩
  · refine congrArg (Prod.mk p) ?_
    cases hf : g.heldFor.find? fun x => x.1 == p with
    | none =>
      have hnone : g.heldFor.any (·.1 == p) = false := by simpa using hf
      rw [hnone]
      rfl
    | some x =>
      have hx : x.1 = p := by simpa using List.find?_some hf
      have hany : g.heldFor.any (·.1 == p) = true := List.any_eq_true.2 ⟨x, List.mem_of_find?_eq_some hf, beq_iff_eq.2 hx⟩
      rw [hany, if_pos rfl, ← hk x (List.mem_of_find?_eq_some hf) hx]
      rfl
  · obtain ⟨q, hq, rfl⟩ := List.mem_map.1 hx
    rintro rfl
    exact Bool.eq_false_iff.1 hout (hplace.1 hq)

/-! ## An RVZ that expires (R131) -/

theorem settle_waits {g : Group} (hr : g.rvz = none) : g.settle.wait = g.wait ∧ g.settle.rvz = none := by
  have h : g.settleSyncl.settleBarg.wait = g.wait ∧ g.settleSyncl.settleBarg.rvz = none := by
    unfold Group.settleBarg
    split
    · exact ⟨rfl, hr⟩
    · dsimp only
      split <;> exact ⟨rfl, hr⟩
  unfold Group.settle
  rw [settleRvz_none _ (by simp [hr])]
  dsimp only
  split <;> exact h

theorem refreshBroadcast_booked (g : Group) : ∃ p, g.refreshBroadcast = { g with place := p } := by
  unfold Group.refreshBroadcast
  split
  · exact ⟨g.place, rfl⟩
  · exact moveBroadcast_booked g

theorem atNoBarrier_congr {g x : Group} (h : x.wait = g.wait) : x.atNoBarrier = g.atNoBarrier := by
  unfold Group.atNoBarrier
  rw [h]

theorem rvzBoundExpire_spec {s : State} {core gi : Nat} {g : Group} {r : Rvz} (hg : s.group core gi = some g) (hr : g.rvz = some r)
    (hh : g.halts = []) (hb : g.atNoBarrier = true) :
    ∃ t x, exec (.rvzBoundExpire core gi) s = .next t ∧ t.group core gi = some x ∧ x.rvz = none ∧
      ∀ (n : Nat) (l : Lane), g.lanes[n]? = some l → l.exited = false → l.place = r.place →
        ∃ z, t.laneAt core gi n = some z ∧ z.pc = l.pc + BitVec.ofNat 32 r.words ∧ z.latches = [] ∧ z.v = l.v := by
  obtain ⟨hwait, hrvz⟩ := settle_waits (g := g.endRvz r) rfl
  obtain ⟨p, hp⟩ := refreshBroadcast_booked (g.endRvz r).settle
  have hgroup := State.group_modGroup_same hg fun x => ((x.endRvz r).settle).refreshBroadcast
  have hend := afterEnds_group _ core gi copyLeft _ hgroup ((atNoBarrier_congr (by rw [hp]; exact hwait)).trans hb)
  refine ⟨(State.afterEnds _ core copyLeft).moved, (g.endRvz r).settle.refreshBroadcast, ?_, hend, by rw [hp]; exact hrvz, fun n l hl hx hplace => ?_⟩
  · rw [exec_rvzBoundExpire]
    unfold execRvzBoundExpire
    rw [hg]
    dsimp only
    rw [hr]
    dsimp only
    rw [hh]
    rfl
  · have hat : (l.place == r.place) = true := beq_iff_eq.2 hplace
    have hskip : (g.endRvz r).lanes[n]? = some { ({ l.skip r.words with latches := [], chain := 0 } : Lane) with excused := false } := by
      unfold Group.endRvz
      simp only [List.getElem?_map, hl, Option.map_some, hx, hat, Bool.not_false, Bool.and_self, if_true]
    have hfinal : (g.endRvz r).settle.refreshBroadcast.lanes[n]? = (g.endRvz r).lanes[n]? := by
      rw [hp, hskip]
      exact settle_lane _ _ _ hskip rfl rfl
    exact ⟨_, State.laneAt_eq_some.2 ⟨_, hend, hfinal.trans hskip⟩, rfl, rfl, rfl⟩

theorem yieldExpire_spec {s : State} {core gi : Nat} {g : Group} {gs : List Nat} (hg : s.group core gi = some g) (hw : g.wait = .yielded gs) :
    ∃ t, exec (.yieldExpire core gi) s = .next t ∧ t.group core gi = some { g with wait := .none } := by
  refine ⟨State.moved _, ?_, State.group_modGroup_same hg fun g => { g with wait := .none }⟩
  rw [exec_yieldExpire]
  unfold execYieldExpire
  rw [hg, Option.map_some, hw]

theorem hschRunEnd_spec {s : State} {core gi : Nat} {g : Group} (hg : s.group core gi = some g) (hrun : g.run ≠ 0) :
    ∃ t, exec (.hschRunEnd core gi) s = .next t ∧ t.group core gi = some { g with run := 0 } := by
  refine ⟨State.moved _, ?_, State.group_modGroup_same hg fun g => { g with run := 0 }⟩
  rw [exec_hschRunEnd]
  unfold execHschRunEnd
  rw [hg]
  dsimp only
  rw [if_neg (by simpa using hrun)]

/-! ## The watchdog (R189) -/

/-- The record of a team's watchdog. -/
def State.dogRecord (s : State) (core : Nat) (u : Team) : Record :=
  { Record.ofKind 0x0E with stamp := s.nextStamp, core := core, part := u.part, seq := u.seq, teamNo := teamWord (s.recordOf u) u.number }

/-- What the watchdog does to one group. -/
def State.dog (s : State) (core : Nat) (u : Team) (r : Record) (gi : Nat) : State :=
  if ((s.group core gi).map Group.dogged).getD true then s else s.dogHalt core gi u r

theorem dog_self {s : State} {core gi : Nat} {g : Group} (u : Team) (r : Record) (hg : s.group core gi = some g) :
    if g.dogged then (s.dog core u r gi).group core gi = some g
    else ∃ h : Halt, (s.dog core u r gi).group core gi = some { g with halts := g.halts ++ [h] } ∧ h.dog = true ∧ h.after = false ∧ h.record = r := by
  unfold State.dog
  rw [hg, Option.map_some, Option.getD_some]
  split
  · exact hg
  · exact ⟨_, State.group_modGroup_same hg _, rfl, rfl, rfl⟩

theorem dog_other {s : State} {core gi k : Nat} (u : Team) (r : Record) (hk : k ≠ gi) :
    (s.dog core u r k).group core gi = s.group core gi := by
  unfold State.dog
  split
  · rfl
  · unfold State.dogHalt
    rw [State.group_modGroup, if_neg fun h => hk h.2]

theorem dogged_append {g : Group} {h : Halt} (hd : h.dog = true) : ({ g with halts := g.halts ++ [h] } : Group).dogged = true := by
  simp [Group.dogged, hd]

/-- A group that is dogged, or not among those that the watchdog comes to, stays. -/
theorem foldl_dog_keep {core gi : Nat} {g : Group} (u : Team) (r : Record) (gs : List Nat) (hk : gi ∈ gs → g.dogged = true) {s : State}
    (hg : s.group core gi = some g) : (gs.foldl (fun s k => s.dog core u r k) s).group core gi = some g := by
  induction gs generalizing s with
  | nil => exact hg
  | cons k ks ih =>
    refine ih (fun h => hk (.tail _ h)) ?_
    by_cases he : k = gi
    · subst he
      have h := dog_self u r hg
      rwa [if_pos (hk (.head _))] at h
    · exact (dog_other u r he).trans hg

/-- A group that is not yet dogged, and to which the watchdog comes, halts once. -/
theorem foldl_dog_halt {core gi : Nat} {g : Group} (u : Team) (r : Record) (gs : List Nat) (hk : gi ∈ gs) (hd : g.dogged = false) {s : State}
    (hg : s.group core gi = some g) : ∃ h : Halt, (gs.foldl (fun s k => s.dog core u r k) s).group core gi =
      some { g with halts := g.halts ++ [h] } ∧ h.dog = true ∧ h.after = false ∧ h.record = r := by
  induction gs generalizing s with
  | nil => cases hk
  | cons k ks ih =>
    by_cases he : k = gi
    · subst he
      have h := dog_self u r hg
      rw [if_neg (by simp [hd])] at h
      obtain ⟨x, hx, hdog, hafter, hrec⟩ := h
      exact ⟨x, foldl_dog_keep u r ks (fun _ => dogged_append hdog) hx, hdog, hafter, hrec⟩
    · exact ih ((List.mem_cons.1 hk).resolve_left (Ne.symm he)) ((dog_other u r he).trans hg)

theorem mem_open {u : Team} {gi : Nat} {g : Group} (hg : u.groups[gi]? = some g) : gi ∈ u.open_ ↔ g.ended = false := by
  unfold Team.open_
  rw [mem_placesFrom]
  simp [hg]

theorem watchdogExpire_idle {s : State} {core : Nat} {u : Team} (hu : s.team core = some u)
    (h : u.watchdog ≠ 0 ∨ recWdog (s.recordOf u) = 0 ∨ u.stopped = true) : exec (.watchdogExpire core) s = .next s := by
  rw [exec_watchdogExpire]
  unfold execWatchdogExpire
  rw [hu]
  dsimp only
  rw [if_pos]
  rcases h with h | h | h <;> simp [h]

theorem watchdogExpire_spec {s : State} {core : Nat} {u : Team} (hu : s.team core = some u) (hp : u.phase = .runs) (hs : u.stopped = false)
    (hw : recWdog (s.recordOf u) ≠ 0) (hz : u.watchdog = 0) (hg : ∃ g ∈ u.groups, g.ended = false ∧ g.dogged = false) :
    ∃ t, exec (.watchdogExpire core) s = .next t ∧ ∀ (gi : Nat) (g : Group), u.groups[gi]? = some g →
      ∃ z, t.group core gi = some z ∧ z.lanes = g.lanes ∧ ((g.ended = true ∨ g.dogged = true) → z.halts = g.halts) ∧
        (g.ended = false → g.dogged = false → ∃ h, z.halts = g.halts ++ [h] ∧ h.dog = true ∧ h.after = false ∧
          h.record = s.dogRecord core u) := by
  have hres : u.resident = true := by unfold Team.resident; rw [hp]
  have hany : (u.groups.any fun g => !g.ended && !g.dogged) = true := by
    obtain ⟨g, hm, he, hd⟩ := hg
    exact List.any_eq_true.2 ⟨g, hm, by rw [he, hd]; rfl⟩
  refine ⟨State.moved (u.open_.foldl (fun s' k => s'.dog core u (s.dogRecord core u) k) (s.stamped.postStamped u.part (s.dogRecord core u))), ?_, fun gi g hgi => ?_⟩
  · rw [exec_watchdogExpire]
    unfold execWatchdogExpire
    rw [hu]
    dsimp only
    rw [if_neg (by simp [hres, hs, hw, hz, hany])]
    rfl
  · have hg1 : (s.stamped.postStamped u.part (s.dogRecord core u)).group core gi = some g := by
      rw [SameGroups.of_cores (State.postStamped_cores s.stamped u.part (s.dogRecord core u)) core gi]
      show s.group core gi = some g
      rw [State.group, hu]
      exact hgi
    rw [State.group_moved]
    by_cases hout : g.ended = true ∨ g.dogged = true
    · have hkeep : gi ∈ u.open_ → g.dogged = true := fun hin => hout.resolve_left (by rw [(mem_open hgi).1 hin]; decide)
      refine ⟨g, foldl_dog_keep u _ _ hkeep hg1, rfl, fun _ => rfl, fun he hd => ?_⟩
      rw [he, hd] at hout
      exact absurd hout (by decide)
    · rw [not_or, Bool.not_eq_true, Bool.not_eq_true] at hout
      obtain ⟨h, hh, hdog, hafter, hrec⟩ := foldl_dog_halt u (s.dogRecord core u) _ ((mem_open hgi).2 hout.1) hout.2 hg1
      refine ⟨_, hh, rfl, fun ho => ?_, fun _ _ => ⟨h, rfl, hdog, hafter, hrec⟩⟩
      rw [hout.1, hout.2] at ho
      exact absurd ho (by decide)

/-! ## The end of an episode of a crew's cell (R255) -/

/-- The crew of a team by what names it, in a cluster. -/
theorem crewOf_frame {s t : State} {core : Nat} {u : Team} {x : CrewCells} (h : (t.cluster (clusterOfCore core)).frame = (s.cluster (clusterOfCore core)).frame)
    (hx : s.crewOf core u = some x) : ∃ y, t.crewOf core u = some y ∧ y.frame = x.frame := by
  have hcrews : (t.cluster (clusterOfCore core)).crews.map CrewCells.frame = (s.cluster (clusterOfCore core)).crews.map CrewCells.frame :=
    congrArg (·.2.2) h
  unfold State.crewOf at hx ⊢
  generalize (t.cluster (clusterOfCore core)).crews = xs at hcrews ⊢
  generalize (s.cluster (clusterOfCore core)).crews = ys at hcrews hx
  induction ys generalizing xs with
  | nil => cases hx
  | cons y ys ih =>
    cases xs with
    | nil => cases hcrews
    | cons z zs =>
      simp only [List.map_cons, List.cons.injEq] at hcrews
      obtain ⟨hhead, htail⟩ := hcrews
      have hkey : (z.part == u.part && z.seq == u.seq && z.crew == u.crewId) = (y.part == u.part && y.seq == u.seq && y.crew == u.crewId) := by
        simp only [CrewCells.frame, Prod.mk.injEq] at hhead
        obtain ⟨h1, h2, h3, -⟩ := hhead
        rw [h1, h2, h3]
      rw [List.find?_cons] at hx ⊢
      rw [hkey]
      split at hx
      next hy =>
        obtain rfl := Option.some.inj hx
        exact ⟨z, rfl, hhead⟩
      next hy => exact ih zs htail hx

/-- The cells of a team's crew after they are changed. -/
theorem crewOf_modCells {s : State} {core : Nat} {u : Team} {x : CrewCells} (f : Nat → BarCell → BarCell) (hx : s.crewOf core u = some x) :
    (s.modCells core u f).crewOf core u = some { x with cells := mapFrom f 0 x.cells } := by
  have h := find?_map_if (fun y : CrewCells => y.part == u.part && y.seq == u.seq && y.crew == u.crewId) _
    (fun y => { y with cells := mapFrom f 0 y.cells }) _ (fun _ => rfl) (fun _ => rfl) hx
  unfold State.crewOf State.modCells
  rw [State.cluster_setCluster, if_pos (State.cluster_id ..)]
  exact h

/-- The members' cores of a crew, one after the other: the waiting team of a core goes on, and what follows. -/
def State.passEpisode (cell : Nat) (s : State) (c : Nat) : State :=
  (s.modTeam c fun u => if u.barcIn == some cell then u.passBarc cell else u).afterEnds c copyLeft

theorem settles_passEpisode (cell : Nat) (s : State) (c : Nat) : Settles c s (s.passEpisode cell c) := ((Settles.refl c s).modTeam _).afterEnds _

theorem cluster_foldl_passEpisode (cell : Nat) (cs : List Nat) (s : State) (k : Nat) :
    ((cs.foldl (State.passEpisode cell) s).cluster k).frame = (s.cluster k).frame := by
  induction cs generalizing s with
  | nil => rfl
  | cons c cs ih => exact (ih _).trans ((settles_passEpisode cell s c).clusters k)

theorem team_passEpisode (cell : Nat) {core c : Nat} (s : State) (h : core ≠ c) : (s.passEpisode cell c).team core = s.team core :=
  congrArg Core.team ((settles_passEpisode cell s c).cores core h)

/-- A group that waits at no barrier stays. -/
theorem passEpisode_group (cell : Nat) {s : State} {core gi : Nat} {g : Group} (c : Nat) (hg : s.group core gi = some g) (hb : g.atNoBarrier = true) :
    (s.passEpisode cell c).group core gi = some g := by
  by_cases h : core = c
  · subst h
    refine afterEnds_group _ core gi copyLeft g (group_modTeam s core gi _ g hg fun u _ hgi => ?_) hb
    split
    · exact passBarc_group u cell gi g hgi hb
    · exact hgi
  · rw [State.group, team_passEpisode cell s h]
    exact hg

theorem foldl_passEpisode_group (cell : Nat) {core gi : Nat} {g : Group} (cs : List Nat) {s : State} (hg : s.group core gi = some g)
    (hb : g.atNoBarrier = true) : (cs.foldl (State.passEpisode cell) s).group core gi = some g := by
  induction cs generalizing s with
  | nil => exact hg
  | cons c cs ih => exact ih (passEpisode_group cell c hg hb)

/-- A group that waits on the cell goes on as its core's turn comes. -/
theorem foldl_passEpisode_waiting {cell core gi w : Nat} {g : Group} {u : Team} (cs : List Nat) (hc : core ∈ cs) (hin : u.barcIn = some cell)
    (hgi : u.groups[gi]? = some g) (hw : g.wait = .barc cell w) {s : State} (hu : s.team core = some u) :
    (cs.foldl (State.passEpisode cell) s).group core gi = some (g.advance w) := by
  induction cs generalizing s with
  | nil => cases hc
  | cons c cs ih =>
    by_cases h : core = c
    · subst h
      refine foldl_passEpisode_group cell cs (afterEnds_group _ core gi copyLeft _ ?_ rfl) rfl
      rw [State.group, State.team_modTeam, if_pos rfl, hu]
      simp only [Option.map_some, hin, beq_self_eq_true, if_true, Team.passBarc, List.getElem?_map, hgi, hw]
    · exact ih ((List.mem_cons.1 hc).resolve_left h) ((team_passEpisode cell s h).trans hu)

theorem mem_crewCores {s : State} {core : Nat} {u : Team} (hu : s.team core = some u) : core ∈ s.crewCores u := by
  have hmem (cs : List Core) (h : (findCore cs core).team = some u) : ∃ c ∈ cs, c.id = core ∧ c.team = some u := by
    induction cs with
    | nil => cases h
    | cons c cs ih =>
      unfold findCore at h
      split at h
      next hid => exact ⟨c, .head _, beq_iff_eq.1 hid, h⟩
      next =>
        obtain ⟨x, hx, hid, ht⟩ := ih h
        exact ⟨x, .tail _ hx, hid, ht⟩
  obtain ⟨c, hc, hid, ht⟩ := hmem s.cores hu
  exact List.mem_map.2 ⟨c, List.mem_filter.2 ⟨hc, by rw [ht]; simp⟩, hid⟩

theorem barrierEpisode_idle {s : State} {core : Nat} {cell : Fin 8} {u : Team} {x : CrewCells} {b : BarCell} (hu : s.team core = some u)
    (hx : s.crewOf core u = some x) (hb : x.cells[cell.val]? = some b) (h : b.arrived ≠ b.expect ∨ b.pending ≠ 0 ∨ b.frozen = true) :
    exec (.barrierEpisodeComplete core cell) s = .next s := by
  have hcell : nth BarCell.zero x.cells cell.val = b := by rw [nth_eq, hb]; rfl
  rw [exec_barrierEpisodeComplete]
  unfold execBarrierEpisodeComplete
  rw [hu]
  dsimp only
  unfold State.completeCell
  rw [hx]
  dsimp only
  rw [hcell, if_pos]
  rcases h with h | h | h <;> simp [h]

theorem barrierEpisode_spec {s : State} {core : Nat} {cell : Fin 8} {u : Team} {x : CrewCells} {b : BarCell} (hu : s.team core = some u)
    (hx : s.crewOf core u = some x) (hb : x.cells[cell.val]? = some b) (harr : b.arrived ≠ 0) (hexp : b.arrived = b.expect)
    (hpend : b.pending = 0) (hfroz : b.frozen = false) (hin : u.barcIn = some cell.val) :
    ∃ t y b', exec (.barrierEpisodeComplete core cell) s = .next t ∧ t.crewOf core u = some y ∧ y.cells[cell.val]? = some b' ∧
      b'.phase = !b.phase ∧
      ∀ (gi : Nat) (g : Group) (w : Nat), u.groups[gi]? = some g → g.wait = .barc cell.val w →
        ∃ z, t.group core gi = some z ∧ z.wait = .none ∧ ∀ (n : Nat) (l : Lane), g.lanes[n]? = some l → l.exited = false →
          ∃ k, z.lanes[n]? = some k ∧ k.pc = l.pc + BitVec.ofNat 32 w := by
  have hcell : nth BarCell.zero x.cells cell.val = b := by rw [nth_eq, hb]; rfl
  have hcells := crewOf_modCells (fun i (y : BarCell) => if i == cell.val then { y with phase := !y.phase, arrived := 0 } else y) hx
  obtain ⟨y, hy, hframe⟩ := crewOf_frame (cluster_foldl_passEpisode cell.val (s.crewCores u) _ _) hcells
  have hphase : (y.cells[cell.val]?).map (·.phase) = some (!b.phase) := by
    have h := congrArg (fun f => (f.2.2.2[cell.val]?).map (·.1)) hframe
    simp only [CrewCells.frame, List.getElem?_map, Option.map_map, getElem?_mapFrom_zero, hb, Option.map_some, beq_self_eq_true,
      if_true] at h
    exact h
  obtain ⟨b', hb', hp⟩ := Option.map_eq_some_iff.1 hphase
  refine ⟨State.moved _, y, b', ?_, hy, hb', hp, fun gi g w hgi hw => ?_⟩
  · rw [exec_barrierEpisodeComplete]
    unfold execBarrierEpisodeComplete
    rw [hu]
    dsimp only
    unfold State.completeCell
    rw [hx]
    dsimp only
    rw [hcell, if_neg (by simp [hexp ▸ harr, hexp, hpend, hfroz])]
    rfl
  · refine ⟨g.advance w, foldl_passEpisode_waiting (s.crewCores u) (mem_crewCores hu) hin hgi hw ?_, rfl, fun n l hl hx => ?_⟩
    · unfold State.modCells
      rw [State.team, State.core, State.setCluster_cores]
      exact hu
    · refine ⟨l.skip w, ?_, rfl⟩
      unfold Group.advance
      dsimp only
      rw [List.getElem?_map, hl, Option.map_some, hx]
      rfl

/-! ## The statement -/

/-- Settles O40: through what each event does to its group, and the fold over a crew's cores. -/
theorem boundsAndBarrierEpisodes : Obligations.BoundsAndBarrierEpisodes := by
  unfold Obligations.BoundsAndBarrierEpisodes
  refine ⟨fun s core gi g hg hr hlong hheld => ?held, fun s core gi g hg => broadcastPcTimeout_early hg, countHeld_spec,
    fun s core gi g r hg hr hh hb => rvzBoundExpire_spec hg hr hh hb, fun s core gi g gs hg hw => yieldExpire_spec hg hw,
    fun s core gi g hg hrun => hschRunEnd_spec hg hrun,
    fun s core u hu => ⟨watchdogExpire_idle hu, watchdogExpire_spec hu⟩,
    fun s core cell u x b hu hx hb => ⟨barrierEpisode_idle hu hx hb, barrierEpisode_spec hu hx hb⟩⟩
  case held =>
    obtain ⟨t, p, hexec, ht, hp, hbest⟩ := broadcastPcTimeout_spec hg (by rw [hr]; rfl) hlong hheld
    obtain ⟨l, hl, hat⟩ := (mem_heldPlaces g p).1 hp
    simp only [Lane.heldAt, Bool.and_eq_true, Bool.not_eq_true', beq_iff_eq] at hat
    obtain ⟨⟨hx, hw⟩, hplace⟩ := hat
    refine ⟨t, _, hexec, ht, rfl, rfl, ⟨l, hl, hx, hw, hplace⟩, fun q => ?_⟩
    have h := hbest q
    unfold Group.Best at h
    rw [heldAt_eq_countP, heldAt_eq_countP] at h
    exact h

end Sys2Proof.Machine
end

section
/-!
PROOF. What kills, ends and hand-overs leave of the machine: its registers, the partitions that exist, and a core without a team.
-/
namespace Sys2Proof.Machine

-- The proofs of this file run one after another: side by side they take the check's memory.
set_option Elab.async false

/-- The fixed registers of the machine without its engines. -/
def State.settings (s : State) :=
  (s.parts.map (·.id), s.time, s.phase, s.slotLen, s.slotEmpty, s.ready0, s.ready1, s.ready2, s.cutDies, s.measures, s.tenants, s.packageId,
    s.budgets, s.ballast, s.timeHad, s.timeOff, s.timeSlow, s.energyHi, s.ports, s.spdm)

/-- From `s` to `t` the registers are the same, and no core has got a team. -/
structure Tame (s t : State) : Prop where
  settings : t.settings = s.settings
  idle : ∀ c, s.team c = none → t.team c = none

theorem Tame.refl (s : State) : Tame s s := ⟨rfl, fun _ h => h⟩

theorem Tame.trans {s t u : State} (h : Tame s t) (h' : Tame t u) : Tame s u :=
  ⟨h'.settings.trans h.settings, fun c hc => h'.idle c (h.idle c hc)⟩

/-- An update of what is neither a register nor a core. -/
theorem Tame.ofEq {s t : State} (hr : t.settings = s.settings) (hc : t.cores = s.cores) : Tame s t :=
  ⟨hr, fun c h => by rw [State.team, State.core, hc]; exact h⟩

theorem settings_of_fixed {s t : State} (h : t.fixed = s.fixed) : t.settings = s.settings := by
  simp only [State.fixed, Prod.mk.injEq] at h
  simp only [State.settings, h]

/-- What is quiet whatever core is looked at is tame. -/
theorem Tame.ofQuiet {s t : State} (h : ∀ core, Quiet core s t) : Tame s t :=
  ⟨settings_of_fixed (h 0).fixed, fun c hc => by rw [State.team, (h (c + 1)).cores c (by omega)]; exact hc⟩

section
variable {s₀ s : State}

theorem Tame.quiet (h : Tame s₀ s) {t : State} (hq : ∀ core, Quiet core s t) : Tame s₀ t := h.trans (.ofQuiet hq)

theorem Tame.moved (h : Tame s₀ s) : Tame s₀ s.moved := h.trans (.ofEq rfl rfl)

theorem Tame.foldl {α : Type} {f : State → α → State} (l : List α) (h : Tame s₀ s) (hf : ∀ s a, Tame s₀ s → Tame s₀ (f s a)) :
    Tame s₀ (l.foldl f s) := by
  induction l generalizing s with
  | nil => exact h
  | cons x xs ih => exact ih (hf s x h)

theorem Tame.store (h : Tame s₀ s) (a : Nat) (bs : List Byte) : Tame s₀ (s.store a bs) := h.quiet fun _ => (Quiet.refl _ s).store a bs

theorem Tame.post (h : Tame s₀ s) (part : Nat) (r : Record) : Tame s₀ (s.post part r) := h.quiet fun _ => (Quiet.refl _ s).post part r

theorem Tame.errorReport (h : Tame s₀ s) (part : Option Nat) (unit : Nat) (corrected poisoned : Bool) (loc : Nat) :
    Tame s₀ (s.errorReport part unit corrected poisoned loc) := h.quiet fun _ => (Quiet.refl _ s).errorReport ..

theorem Tame.setEnd (h : Tame s₀ s) (part seq team : Nat) : Tame s₀ (s.setEnd part seq team) := h.quiet fun _ => (Quiet.refl _ s).setEnd ..

theorem Tame.modPart (h : Tame s₀ s) (n : Nat) {f : Part → Part} (hf : ∀ p, (f p).id = p.id) : Tame s₀ (s.modPart n f) :=
  h.quiet fun _ => (Quiet.refl _ s).modPart n hf

theorem Tame.untagRange (h : Tame s₀ s) (a n : Nat) : Tame s₀ (s.untagRange a n) := h.trans (.ofEq rfl rfl)

theorem Tame.zeroRange (h : Tame s₀ s) (a n : Nat) : Tame s₀ (s.zeroRange a n) := h.trans (.ofEq rfl rfl)

theorem Tame.setCluster (h : Tame s₀ s) (c : Cluster) : Tame s₀ (s.setCluster c) := by
  unfold State.setCluster
  split
  · exact h.trans (.ofEq rfl rfl)
  · exact h.trans (.ofEq rfl rfl)

theorem Tame.modTeam (h : Tame s₀ s) (core : Nat) (f : Team → Team) : Tame s₀ (s.modTeam core f) := by
  refine h.trans ⟨settings_of_fixed ((Quiet.refl core s).modTeam f).fixed, fun c hc => ?_⟩
  rw [State.team_modTeam, hc]
  exact ite_self _

/-- A core's team taken away. -/
theorem Tame.emptied (h : Tame s₀ s) (c : Core) (hc : c.team = none) : Tame s₀ (s.setCore c) := by
  refine h.trans ⟨rfl, fun k hk => ?_⟩
  rw [State.team, State.core_setCore]
  split
  · exact hc
  · exact hk

theorem Tame.modGroup (h : Tame s₀ s) (core g : Nat) (f : Group → Group) : Tame s₀ (s.modGroup core g f) := h.modTeam ..

theorem Tame.modLane (h : Tame s₀ s) (core g l : Nat) (f : Lane → Lane) : Tame s₀ (s.modLane core g l f) := h.modGroup ..

/-! ## Queues -/

theorem Tame.strayBytes (h : Tame s₀ s) (a n : Nat) : Tame s₀ (s.strayBytes a n) := by
  unfold State.strayBytes
  split
  · exact h
  · refine Tame.foldl _ (Tame.store (h.trans ?_) ..) fun s x h => h.modTeam ..
    exact .ofEq rfl rfl

theorem Tame.modRec (h : Tame s₀ s) (cl no : Nat) (f : QRec → QRec) : Tame s₀ (s.modRec cl no f) := h.setCluster _

theorem Tame.closeQueue (h : Tame s₀ s) (cl no : Nat) : Tame s₀ (s.closeQueue cl no) := by
  unfold State.closeQueue
  split
  · exact h
  · exact ((h.modRec ..).foldl _ fun _ _ h => h.modLane ..).moved

theorem Tame.taskOver (h : Tame s₀ s) (home : Nat) : Tame s₀ (s.taskOver home) := by
  unfold State.taskOver
  split
  · unfold State.liveDown
    split
    · exact h
    · dsimp only
      split
      · exact (h.modRec ..).closeQueue ..
      · exact h.modRec ..
  · unfold State.headerDown
    refine Tame.strayBytes (Tame.untagRange ?_ ..) ..
    split
    · exact ((h.strayBytes ..).store ..).store ..
    · exact (h.strayBytes ..).store ..

theorem Tame.releaseTask (h : Tame s₀ s) (core g l : Nat) : Tame s₀ (s.releaseTask core g l) := by
  unfold State.releaseTask
  split
  · exact h
  · split
    · exact (h.modLane ..).taskOver ..
    · exact h

theorem Tame.releaseTasks (h : Tame s₀ s) (core : Nat) : Tame s₀ (s.releaseTasks core) := by
  unfold State.releaseTasks
  split
  · exact h
  · exact h.foldl _ fun _ _ h => h.releaseTask ..

theorem Tame.releaseSaved (h : Tame s₀ s) (t : Team) : Tame s₀ (s.releaseSaved t) := by
  refine h.foldl _ fun s l h => ?_
  split
  · exact h.taskOver _
  · exact h

theorem Tame.retire (h : Tame s₀ s) (cl : Nat) (r : QRec) : Tame s₀ (s.retire cl r) := by
  have hw := ((h.store (r.at 0) r.header).untagRange (r.at 0) 64).strayBytes (r.at 0) 64
  unfold State.retire
  split
  · exact h
  · dsimp only
    split
    · exact (hw.setCluster _).moved
    · exact hw

theorem Tame.dropUser (h : Tame s₀ s) (core : Nat) : Tame s₀ (s.dropUser core) := by
  refine h.foldl _ fun s r h => ?_
  dsimp only
  split
  · exact h.modRec ..
  · exact (h.modRec ..).retire ..

/-! ## Kills -/

theorem Tame.fillSlots (h : Tame s₀ s) (part n : Nat) : Tame s₀ (s.fillSlots part n) := by
  induction n generalizing s with
  | zero => exact h
  | succ n ih =>
    refine ih (s := s.fillSlot part) ?_
    unfold State.fillSlot
    split
    · exact h.modGroup ..
    · exact h.modPart part fun _ => rfl
    · exact h

theorem Tame.dropRequests (h : Tame s₀ s) (core : Nat) : Tame s₀ (s.dropRequests core) := h.trans (.ofEq rfl rfl)

theorem Tame.killTeam (h : Tame s₀ s) (core : Nat) : Tame s₀ (s.killTeam core) := by
  unfold State.killTeam
  split
  · exact h
  split
  · exact h
  next t _ _ _ =>
    have hb : Tame s₀ ((s.releaseTasks core).dropBulk core t) := (h.releaseTasks core).trans (.ofEq rfl rfl)
    refine Tame.moved (Tame.fillSlots (Tame.modTeam (Tame.dropRequests (hb.modPart _ ?_) core) ..) ..)
    exact fun _ => rfl

theorem Tame.checkDone (h : Tame s₀ s) (part seq : Nat) : Tame s₀ (s.checkDone part seq) := by
  unfold State.checkDone
  split
  · exact h
  split
  · refine Tame.post (h.modPart part ?_) ..
    exact fun _ => rfl
  · exact h

theorem Tame.postBlocked (h : Tame s₀ s) (part : Nat) : Tame s₀ (s.postBlocked part) := by
  unfold State.postBlocked
  split
  · exact h
  · refine h.foldl _ fun s l h => ?_
    split
    · refine Tame.post (h.modPart part ?_) ..
      exact fun _ => rfl
    · exact h

theorem Tame.killLaunch (h : Tame s₀ s) (part seq : Nat) : Tame s₀ (s.killLaunch part seq) := by
  unfold State.killLaunch
  split
  · exact h
  split
  · exact h
  · exact h
  · refine Tame.moved (Tame.fillSlots (Tame.postBlocked (Tame.checkDone (Tame.foldl _ (Tame.modPart (Tame.foldl _ (Tame.foldl _ h ?_) ?_) part ?_) ?_) ..) ..) ..)
    · exact fun _ _ h => h.killTeam _
    · exact fun _ _ h => h.releaseSaved _
    · exact fun _ => rfl
    · exact fun _ _ h => h.setEnd ..

theorem Tame.endNow (h : Tame s₀ s) (core : Nat) : Tame s₀ (s.endNow core) := by
  unfold State.endNow
  split
  · exact h
  · refine Tame.emptied ?_ _ rfl
    split
    · exact h
    · exact (h.dropUser core).setEnd ..

/-- A partition's teams killed and its memories zeroed. -/
theorem Tame.wipe (h : Tame s₀ s) (part : Nat) : Tame s₀ (s.wipe part) := by
  unfold State.wipe
  split
  · exact h
  · refine Tame.foldl _ (Tame.trans (Tame.foldl _ (Tame.foldl _ (Tame.foldl _ h ?_) ?_) ?_) (.ofEq rfl rfl)) fun s q h => ?_
    · exact fun _ _ h => h.killLaunch ..
    · exact fun _ _ h => h.endNow _
    · exact fun _ _ h => h.checkDone ..
    · exact (h.foldl _ fun _ _ h => h.zeroRange ..).foldl _ fun _ _ h => h.zeroRange ..

theorem State.team_passOn (s : State) (f : Core → Bool) (c : Nat) : (s.passOn f).team c = s.team c := by
  unfold State.team State.core State.passOn
  generalize s.cores = cs
  induction cs with
  | nil => rfl
  | cons x xs ih =>
    rw [List.map_cons, findCore, findCore]
    have hid : (if f x then ({ x with user := none } : Core) else x).id = x.id := by split <;> rfl
    rw [hid]
    split
    · split <;> rfl
    · exact ih

theorem Tame.passOn (h : Tame s₀ s) (f : Core → Bool) : Tame s₀ (s.passOn f) :=
  h.trans ⟨rfl, fun c hc => (State.team_passOn s f c).trans hc⟩

end

end Sys2Proof.Machine
end

section
/-!
PROOF. What the management core answers to IDE_KM, TDISP and SPDM requests, and what they leave of the partition.
-/
namespace Sys2Proof.Machine

-- The proofs of this file run one after another: side by side they take the check's memory.
set_option Elab.async false

/-! ## A partition found and changed -/

theorem findPart_id {ps : List Part} {n : Nat} {p : Part} (h : findPart ps n = some p) : p.id = n := by
  induction ps with
  | nil => cases h
  | cons x xs ih =>
    rw [findPart] at h
    split at h
    next hx =>
      cases h
      exact beq_iff_eq.1 hx
    · exact ih h

theorem State.part_id {s : State} {n : Nat} {p : Part} (h : s.part n = some p) : p.id = n := findPart_id h

/-- A partition read after one is changed. -/
theorem State.part_modPart (s : State) (n k : Nat) {f : Part → Part} (hf : ∀ p, (f p).id = p.id) :
    (s.modPart n f).part k = if k = n then (s.part k).map f else s.part k := by
  unfold State.part
  rw [State.modPart_parts]
  generalize s.parts = ps
  induction ps with
  | nil => exact (ite_self _).symm
  | cons x xs ih =>
    rw [List.map_cons, findPart, findPart]
    have hid : (if (x.id == n) = true then f x else x).id = x.id := by
      split
      · exact hf x
      · rfl
    rw [hid]
    by_cases hk : (x.id == k) = true
    · rw [if_pos hk, if_pos hk, beq_iff_eq.1 hk]
      by_cases hn : k = n
      · rw [if_pos hn, if_pos (beq_iff_eq.2 hn)]
        rfl
      · rw [if_neg hn, if_neg fun h => hn (beq_iff_eq.1 h)]
    · rw [if_neg hk, if_neg hk]
      exact ih

theorem State.part_modPart_same {s : State} {n : Nat} {p : Part} (h : s.part n = some p) {f : Part → Part} (hf : ∀ p, (f p).id = p.id) :
    (s.modPart n f).part n = some (f p) := by
  rw [State.part_modPart s n n hf, if_pos rfl, h]
  rfl

theorem findPart_isSome (ps : List Part) (n : Nat) : (findPart ps n).isSome = (ps.map (·.id)).contains n := by
  induction ps with
  | nil => rfl
  | cons x xs ih =>
    rw [findPart, List.map_cons, List.contains_cons, Bool.beq_comm (a := n)]
    by_cases hx : (x.id == n) = true
    · rw [if_pos hx, hx, Bool.true_or]
      rfl
    · rw [if_neg hx, ih, Bool.eq_false_iff.2 hx, Bool.false_or]

/-- The partitions that exist are a setting. -/
theorem Tame.part {s t : State} (h : Tame s t) {n : Nat} {p : Part} (hp : s.part n = some p) : ∃ q, t.part n = some q := by
  refine Option.isSome_iff_exists.1 ?_
  have hids : t.parts.map (·.id) = s.parts.map (·.id) := congrArg (·.1) h.settings
  rw [State.part, findPart_isSome, hids, ← findPart_isSome]
  exact (congrArg Option.isSome hp).trans rfl

theorem findPart_removed (ps : List Part) (n : Nat) : findPart (ps.filter fun p => p.id != n) n = none := by
  refine Option.not_isSome_iff_eq_none.1 fun h => ?_
  rw [findPart_isSome] at h
  obtain ⟨p, hp, hn⟩ := List.mem_map.1 (List.contains_iff_mem.1 h)
  exact bne_iff_ne.1 (List.mem_filter.1 hp).2 hn

theorem findPart_kept (ps : List Part) {n k : Nat} (hk : k ≠ n) : findPart (ps.filter fun p => p.id != n) k = findPart ps k := by
  induction ps with
  | nil => rfl
  | cons x xs ih =>
    rw [List.filter_cons, findPart]
    by_cases hx : x.id = n
    · rw [if_neg (by simp [hx]), if_neg (by simpa [hx] using hk.symm), ih]
    · rw [if_pos (by simpa using hx), findPart, ih]

/-! ## The memories of a partition's sheaves -/

/-- Whether the memory lists no byte at an address: then it reads 0, however it is kept. -/
structure Memory.Blank (m : Memory) (a : Nat) : Prop where
  unlisted : ∀ c ∈ m, c.1 ≠ a

theorem Memory.Blank.get {m : Memory} {a : Nat} (h : m.Blank a) : m.get a = 0 := by
  induction m with
  | nil => rfl
  | cons c m ih =>
    rw [Memory.get, if_neg fun hc => h.unlisted c (List.mem_cons_self ..) (beq_iff_eq.1 hc)]
    split
    · rfl
    · exact ih ⟨fun d hd => h.unlisted d (List.mem_cons_of_mem _ hd)⟩

theorem Memory.Blank.zero {m : Memory} {a : Nat} (h : m.Blank a) (b n : Nat) : (m.zero b n).Blank a :=
  ⟨fun c hc => h.unlisted c (List.mem_filter.1 hc).1⟩

theorem Memory.blank_zero (m : Memory) {a b n : Nat} (h : b ≤ a) (h' : a < b + n) : (m.zero b n).Blank a := by
  refine ⟨?_⟩
  rintro c hc rfl
  have := (List.mem_filter.1 hc).2
  simp only [Bool.or_eq_true, decide_eq_true_eq] at this
  omega

/-- Ranges zeroed one after another leave a byte of any of them blank. -/
theorem blank_foldl_zeroRange {α : Type} (l : List α) (lo : α → Nat) (n a : Nat) (s : State)
    (h : s.mem.Blank a ∨ ∃ x ∈ l, lo x ≤ a ∧ a < lo x + n) :
    (l.foldl (fun (s : State) x => s.zeroRange (lo x) n) s).mem.Blank a := by
  induction l generalizing s with
  | nil =>
    rcases h with h | ⟨x, hx, -⟩
    · exact h
    · cases hx
  | cons x xs ih =>
    refine ih _ ?_
    rcases h with h | ⟨y, hy, hlo, hhi⟩
    · exact .inl (h.zero _ _)
    · rcases List.mem_cons.1 hy with rfl | hy
      · exact .inl (Memory.blank_zero _ hlo hhi)
      · exact .inr ⟨y, hy, hlo, hhi⟩

/-- The scratchpads and vaults of a sheaf zeroed. -/
def State.clearSheaf (s : State) (q : Nat) : State :=
  (upFrom (4 * (q % 24)) 4).foldl (fun (s : State) v => s.zeroRange (vaultAt (q / 24) v 0) (2 ^ 22))
    ((upFrom (16 * q) 16).foldl (fun (s : State) c => s.zeroRange (scratchAt c 0) (2 ^ 18)) s)

theorem State.clearSheaf_blank (s : State) (q : Nat) {a : Nat} (h : s.mem.Blank a) : (s.clearSheaf q).mem.Blank a :=
  blank_foldl_zeroRange _ _ _ _ _ (.inl (blank_foldl_zeroRange _ _ _ _ _ (.inl h)))

theorem State.clearSheaf_scratch (s : State) {q c a : Nat} (hc : c / 16 = q) (ha : a < 2 ^ 18) : (s.clearSheaf q).mem.Blank (scratchAt c a) := by
  refine blank_foldl_zeroRange _ _ _ _ _ (.inl (blank_foldl_zeroRange _ _ _ _ _ (.inr ⟨c, (mem_upFrom ..).2 (by omega), ?_, ?_⟩)))
  · exact Nat.add_le_add_left (Nat.zero_le _) _
  · rw [scratchAt, scratchAt]
    omega

theorem State.clearSheaf_vault (s : State) {q v a : Nat} (hv : v / 4 = q % 24) (ha : a < 2 ^ 22) :
    (s.clearSheaf q).mem.Blank (vaultAt (q / 24) v a) := by
  refine blank_foldl_zeroRange _ _ _ _ _ (.inr ⟨v, (mem_upFrom ..).2 (by omega), ?_, ?_⟩)
  · exact Nat.add_le_add_left (Nat.zero_le _) _
  · rw [vaultAt, vaultAt]
    omega

theorem blank_clearSheaves (qs : List Nat) {q a : Nat} (hq : q ∈ qs) (h : ∀ s : State, (s.clearSheaf q).mem.Blank a) (s : State) :
    (qs.foldl State.clearSheaf s).mem.Blank a := by
  suffices hs : ∀ (qs : List Nat) (s : State), s.mem.Blank a ∨ q ∈ qs → (qs.foldl State.clearSheaf s).mem.Blank a from hs qs s (.inr hq)
  intro qs
  induction qs with
  | nil => exact fun s hs => hs.resolve_right List.not_mem_nil
  | cons x xs ih =>
    intro s hs
    rw [List.foldl_cons]
    refine ih _ ?_
    rcases hs with hs | hs
    · exact .inl (s.clearSheaf_blank x hs)
    · rcases List.mem_cons.1 hs with rfl | hs
      · exact .inl (h s)
      · exact .inr hs

theorem State.wipe_eq {s : State} {part : Nat} {p : Part} (hp : s.part part = some p) :
    ∃ u : State, s.wipe part = ((upFrom 0 96).filter fun q => bit p.sheaves.toNat q).foldl State.clearSheaf u := by
  unfold State.wipe
  rw [hp]
  exact ⟨_, rfl⟩

/-- What a wipe zeroes: every byte that the sheaves of the partition clear. -/
theorem State.wipe_blank {s : State} {part : Nat} {p : Part} (hp : s.part part = some p) {q a : Nat} (hq : q < 96)
    (hs : p.sheaves.getLsbD q = true) (h : ∀ s : State, (s.clearSheaf q).mem.Blank a) : (s.wipe part).mem.Blank a := by
  obtain ⟨u, hu⟩ := State.wipe_eq hp
  have hm : q ∈ (upFrom 0 96).filter fun q => bit p.sheaves.toNat q := by
    refine List.mem_filter.2 ⟨(mem_upFrom ..).2 ⟨Nat.zero_le _, by omega⟩, ?_⟩
    rw [bit_eq_testBit, BitVec.testBit_toNat]
    exact hs
  rw [hu]
  exact blank_clearSheaves _ hm h u

theorem Tame.destroyed_spdm (s : State) (part : Nat) : (s.destroy part).spdm = s.spdm := by
  have h := (((Tame.refl s).wipe part).passOn fun c => c.user == some part).settings
  exact congrArg (fun x => x.2.2.2.2.2.2.2.2.2.2.2.2.2.2.2.2.2.2.2) h

theorem Tame.spdm {s t : State} (h : Tame s t) : t.spdm = s.spdm :=
  congrArg (fun x => x.2.2.2.2.2.2.2.2.2.2.2.2.2.2.2.2.2.2.2) h.settings

theorem State.destroy_part (s : State) (part : Nat) : (s.destroy part).part part = none := findPart_removed ..

/-! ## The answers -/

theorem next_congr {s t : State} (h : s = t) : (.next s : Res) = .next t := by rw [h]

/-- The answer that a machine gives to a request, stamped as it came, and counted. -/
def Answers (s t : State) (proto code dest : Nat) (b : List Byte) : Prop :=
  t.outbox = s.outbox ++ [⟨proto, code, dest, b⟩] ∧ t.spdm.served = s.spdm.served + 1 ∧ t.stampNext = s.nextStamp + 1

/-- A reply on a machine that has taken the request in, and keeps its outbox and its session. -/
theorem answers_reply {s : State} (u : State) (ho : u.outbox = s.outbox) (hs : u.spdm.served = s.spdm.served) (hn : u.stampNext = s.nextStamp + 1)
    (proto code dest : Nat) (b : List Byte) : Answers s (u.reply proto code dest b) proto code dest b :=
  ⟨congrArg (· ++ _) ho, congrArg (· + 1) hs, hn⟩

theorem answers_mailed (s : State) (proto code dest : Nat) (b : List Byte) : Answers s (s.mailed.reply proto code dest b) proto code dest b :=
  answers_reply (s := s) s.mailed rfl rfl rfl ..

theorem State.reply_part (s : State) (proto code dest : Nat) (b : List Byte) (n : Nat) : (s.reply proto code dest b).part n = s.part n := rfl

theorem State.reply_served (s : State) (proto code dest : Nat) (b : List Byte) : (s.reply proto code dest b).spdm.served = s.spdm.served + 1 := rfl

theorem State.reply_mem (s : State) (proto code dest : Nat) (b : List Byte) : (s.reply proto code dest b).mem = s.mem := rfl

theorem State.moved_part (s : State) (n : Nat) : s.moved.part n = s.part n := rfl

theorem State.measure_spdm (s : State) (i : Fin 16) : (s.measure i).spdm = s.spdm := rfl

theorem State.measure_mem (s : State) (i : Fin 16) : (s.measure i).mem = s.mem := rfl

theorem State.measure_part (s : State) (i : Fin 16) (n : Nat) : (s.measure i).part n = s.part n := rfl

theorem State.ideRequest_secured {s : State} {part : Nat} {p : Part} (hp : s.part part = some p) (hs : s.spdm.secured = true) (code : Nat)
    (f : State → Part → State) : s.ideRequest part code f = (f s.mailed p).reply 4 code part (s.protoBody 4 code) := by
  unfold State.ideRequest
  rw [hp]
  exact if_pos hs

theorem State.ideRequest_open {s : State} {part : Nat} {p : Part} (hp : s.part part = some p) (hs : s.spdm.secured = false) (code : Nat)
    (f : State → Part → State) : s.ideRequest part code f = s.stamped := by
  unfold State.ideRequest
  rw [hp]
  exact if_neg (by rw [hs]; exact Bool.false_ne_true)

theorem State.tdispRequest_of {s : State} {part : Nat} {p : Part} (hp : s.part part = some p) (f : State → Part → State) :
    s.tdispRequest part f = f s.mailed p := by
  unfold State.tdispRequest
  rw [hp]

/-- The key set that a partition gets, beside those that it has. -/
def addKey (k : Bool) (p : Part) : Part := { p with ideKeys := if p.ideKeys.contains k then p.ideKeys else k :: p.ideKeys }

/-- A key set in force, and none. -/
def setLive (k : Bool) (p : Part) : Part := { p with ideLive := some k }
def stopLive (p : Part) : Part := { p with ideLive := none, tdisp := if p.locked then .error else p.tdisp }

/-- A TDI locked at a stamp, and running. -/
def lockTdi (n : Word64) (p : Part) : Part := { p with tdisp := .locked, lockedAt := some n }
def runTdi (p : Part) : Part := { p with tdisp := .run }

theorem stopLive_eq (p : Part) :
    stopLive p = { p with ideLive := none, tdisp := if p.tdisp = .locked ∨ p.tdisp = .run then .error else p.tdisp } := by
  unfold stopLive Part.locked
  cases p.tdisp <;> rfl

theorem mem_addKey (k : Bool) (p : Part) : k ∈ (addKey k p).ideKeys ∧ ∀ j ∈ p.ideKeys, j ∈ (addKey k p).ideKeys := by
  unfold addKey
  dsimp only
  split
  next h => exact ⟨List.contains_iff_mem.1 h, fun _ hj => hj⟩
  · exact ⟨List.mem_cons_self .., fun _ hj => List.mem_cons_of_mem _ hj⟩

/-- A partition changed while it is asked for: the machine still answers for it. -/
theorem part_mailed {s : State} {n : Nat} {p : Part} (hp : s.part n = some p) {f : Part → Part} (hf : ∀ p, (f p).id = p.id) :
    (s.mailed.modPart n f).part n = some (f p) := State.part_modPart_same (s := s.mailed) hp hf

theorem exec_query (s : State) (part : Fin 96) : exec (.query part) s = .next (s.ideRequest part.val 1 fun s _ => s) := rfl

theorem exec_keyProg (s : State) (part : Fin 96) (k : Bool) :
    exec (.keyProg part k) s = .next (s.ideRequest part.val 3 fun s p => s.modPart p.id (addKey k)) := rfl

theorem exec_kSetGo (s : State) (part : Fin 96) (k : Bool) : exec (.kSetGo part k) s = .next (s.ideRequest part.val 6 fun s p =>
    if p.ideKeys.contains k then (s.modPart p.id (setLive k)).measure 7 else s) := rfl

theorem exec_kSetStop (s : State) (part : Fin 96) (k : Bool) : exec (.kSetStop part k) s = .next (s.ideRequest part.val 6 fun s p =>
    if p.ideLive == some k then
      (s.modPart p.id stopLive).measure 7
    else s) := rfl

section
variable {s : State} {part : Fin 96} {p : Part}

theorem query_secured (hp : s.part part.val = some p) (hs : s.spdm.secured = true) : ∃ t, exec (.query part) s = .next t ∧
    Answers s t 4 1 part.val (Config.protocolReply 1025 s.spdm.served) ∧ t.parts = s.parts := by
  rw [exec_query, State.ideRequest_secured hp hs]
  exact ⟨_, rfl, answers_mailed .., rfl⟩

theorem keyProg_secured (k : Bool) (hp : s.part part.val = some p) (hs : s.spdm.secured = true) : ∃ t q, exec (.keyProg part k) s = .next t ∧
    Answers s t 4 3 part.val (Config.protocolReply 1027 s.spdm.served) ∧ t.part part.val = some q ∧ k ∈ q.ideKeys ∧
      (∀ j ∈ p.ideKeys, j ∈ q.ideKeys) ∧ q.ideLive = p.ideLive := by
  rw [exec_keyProg, State.ideRequest_secured hp hs, State.part_id hp]
  obtain ⟨hnew, hold⟩ := mem_addKey k p
  have ha := answers_reply (s := s) (s.mailed.modPart part.val (addKey k)) rfl rfl rfl 4 3 part.val (s.protoBody 4 3)
  exact ⟨_, _, rfl, ha, part_mailed hp (f := addKey k) fun _ => rfl, hnew, hold, rfl⟩

theorem kSetGo_secured (k : Bool) (hp : s.part part.val = some p) (hs : s.spdm.secured = true) : ∃ t, exec (.kSetGo part k) s = .next t ∧
    Answers s t 4 6 part.val (Config.protocolReply 1030 s.spdm.served) ∧
      t.part part.val = some (if k ∈ p.ideKeys then setLive k p else p) := by
  rw [exec_kSetGo, State.ideRequest_secured hp hs, State.part_id hp]
  refine ⟨_, rfl, ?_⟩
  by_cases hk : k ∈ p.ideKeys
  · rw [if_pos (List.contains_iff_mem.2 hk), if_pos hk]
    have ha := answers_reply (s := s) ((s.mailed.modPart part.val (setLive k)).measure 7) rfl rfl rfl 4 6 part.val
      (s.protoBody 4 6)
    rw [State.reply_part, State.measure_part]
    exact ⟨ha, part_mailed hp (f := setLive k) fun _ => rfl⟩
  · rw [if_neg fun h => hk (List.contains_iff_mem.1 h), if_neg hk]
    exact ⟨answers_mailed .., hp⟩

theorem kSetStop_secured (k : Bool) (hp : s.part part.val = some p) (hs : s.spdm.secured = true) : ∃ t, exec (.kSetStop part k) s = .next t ∧
    Answers s t 4 6 part.val (Config.protocolReply 1030 s.spdm.served) ∧ t.part part.val = some (if p.ideLive = some k then stopLive p else p) := by
  rw [exec_kSetStop, State.ideRequest_secured hp hs, State.part_id hp]
  refine ⟨_, rfl, ?_⟩
  by_cases hk : p.ideLive = some k
  · rw [if_pos (beq_iff_eq.2 hk), if_pos hk]
    have ha := answers_reply (s := s) ((s.mailed.modPart part.val stopLive).measure 7) rfl rfl rfl 4 6 part.val (s.protoBody 4 6)
    have hq := part_mailed hp (f := stopLive) fun _ => rfl
    refine ⟨ha, ?_⟩
    rw [State.reply_part, State.measure_part]
    exact hq
  · rw [if_neg fun h => hk (beq_iff_eq.1 h), if_neg hk]
    exact ⟨answers_mailed .., hp⟩

end

theorem ideRequests_open (s : State) (part : Fin 96) (p : Part) (k : Bool) (hp : s.part part.val = some p) (hs : s.spdm.secured = false) :
    exec (.query part) s = .next s.stamped ∧ exec (.keyProg part k) s = .next s.stamped ∧
      exec (.kSetGo part k) s = .next s.stamped ∧ exec (.kSetStop part k) s = .next s.stamped := by
  rw [exec_query, exec_keyProg, exec_kSetGo, exec_kSetStop]
  have h := fun code f => next_congr (State.ideRequest_open hp hs code f)
  exact ⟨h .., h .., h .., h ..⟩

/-! ## TDISP -/

theorem Tdisp.code_byte (x : Tdisp) : BitVec.ofNat 8 x.code = match x with
    | .unlocked => 0
    | .locked => 1
    | .run => 2
    | .error => 3 := by
  cases x <;> rfl

theorem exec_lockInterface (s : State) (part : Fin 96) (via : Mailbox) :
    exec (.lockInterfaceRequest part via) s = .next (s.tdispRequest part.val fun s1 p =>
      if p.tdisp == .unlocked then
        ((s1.modPart p.id (lockTdi s.nextStamp)).measure 7).reply (mailTdisp via) 3 p.id
          (s.protoBody 5 3)
      else s1.tdispError (mailTdisp via) p.id) := rfl

theorem exec_startInterface (s : State) (part : Fin 96) : exec (.startInterfaceRequest part) s = .next (s.tdispRequest part.val fun s p =>
    if p.tdisp == .locked then
      ((s.modPart p.id runTdi).measure 7).reply 5 6 p.id (s.protoBody 5 6)
    else s.tdispError 5 p.id) := rfl

/-- LOCK_INTERFACE_REQUEST of an unlocked TDI, and of another. -/
theorem lockInterface (s : State) (part : Fin 96) (p : Part) (via : Mailbox) (hp : s.part part.val = some p) :
    ∃ t, exec (.lockInterfaceRequest part via) s = .next t ∧
      (p.tdisp = .unlocked → Answers s t (mailTdisp via) 3 part.val (Config.protocolReply 1283 s.spdm.served) ∧
        t.part part.val = some (lockTdi s.nextStamp p)) ∧
      (p.tdisp ≠ .unlocked → Answers s t (mailTdisp via) 0x7F part.val [4, 0, 0, 0] ∧ t.parts = s.parts) := by
  rw [exec_lockInterface, State.tdispRequest_of hp, State.part_id hp]
  refine ⟨_, rfl, fun h => ?_, fun h => ?_⟩
  · rw [if_pos (beq_iff_eq.2 h)]
    have ha := answers_reply (s := s) ((s.mailed.modPart part.val (lockTdi s.nextStamp)).measure 7)
      rfl rfl rfl (mailTdisp via) 3 part.val (s.protoBody 5 3)
    rw [State.reply_part, State.measure_part]
    exact ⟨ha, part_mailed hp (f := lockTdi s.nextStamp) fun _ => rfl⟩
  · rw [if_neg fun h' => h (beq_iff_eq.1 h')]
    exact ⟨answers_mailed .., rfl⟩

/-- START_INTERFACE_REQUEST of a locked TDI, and of another. -/
theorem startInterface (s : State) (part : Fin 96) (p : Part) (hp : s.part part.val = some p) :
    ∃ t, exec (.startInterfaceRequest part) s = .next t ∧
      (p.tdisp = .locked → Answers s t 5 6 part.val (Config.protocolReply 1286 s.spdm.served) ∧
        t.part part.val = some (runTdi p)) ∧
      (p.tdisp ≠ .locked → Answers s t 5 0x7F part.val [4, 0, 0, 0] ∧ t.parts = s.parts) := by
  rw [exec_startInterface, State.tdispRequest_of hp, State.part_id hp]
  refine ⟨_, rfl, fun h => ?_, fun h => ?_⟩
  · rw [if_pos (beq_iff_eq.2 h)]
    have ha := answers_reply (s := s) ((s.mailed.modPart part.val runTdi).measure 7)
      rfl rfl rfl 5 6 part.val (s.protoBody 5 6)
    rw [State.reply_part, State.measure_part]
    exact ⟨ha, part_mailed hp (f := runTdi) fun _ => rfl⟩
  · rw [if_neg fun h' => h (beq_iff_eq.1 h')]
    exact ⟨answers_mailed .., rfl⟩

/-- What STOP leaves of the partition before it answers. -/
def State.stopTdi (s : State) (p : Part) : State :=
  if p.tdisp == .error then s.destroy p.id else (s.wipe p.id).modPart p.id fun p => { p with tdisp := .unlocked, lockedAt := none }

theorem exec_stopInterface {s : State} {part : Fin 96} {p : Part} (hp : s.part part.val = some p) :
    exec (.stopInterfaceRequest part) s
      = .next (((s.mailed.stopTdi p).measure 7).reply 5 7 part.val (Config.protocolReply 1287 s.spdm.served)).moved := by
  have h : exec (.stopInterfaceRequest part) s = .next (s.tdispRequest part.val fun s p =>
      (((s.stopTdi p).measure 7).reply 5 7 p.id (s.protoBody 5 7)).moved) := rfl
  rw [h, State.tdispRequest_of hp, State.part_id hp]
  rfl

theorem State.stopTdi_spdm (s : State) (p : Part) : (s.stopTdi p).spdm = s.spdm := by
  unfold State.stopTdi
  split
  · exact Tame.destroyed_spdm ..
  · exact ((Tame.refl s).wipe p.id).spdm

theorem State.stopTdi_blank {s : State} {p : Part} (hp : s.part p.id = some p) {q a : Nat} (hq : q < 96)
    (hs : p.sheaves.getLsbD q = true) (h : ∀ s : State, (s.clearSheaf q).mem.Blank a) : (s.stopTdi p).mem.Blank a := by
  have hw := State.wipe_blank hp hq hs h
  unfold State.stopTdi
  split
  · exact hw
  · exact hw

/-- STOP_INTERFACE_REQUEST: the partition's memories zeroed and its TDI unlocked, or the partition destroyed. -/
theorem stopInterface (s : State) (part : Fin 96) (p : Part) (hp : s.part part.val = some p) :
    ∃ t, exec (.stopInterfaceRequest part) s = .next t ∧ t.outbox.getLast? = some ⟨5, 7, part.val, Config.protocolReply 1287 s.spdm.served⟩ ∧
      t.spdm.served = s.spdm.served + 1 ∧ (p.tdisp = .error → t.part part.val = none) ∧
      (p.tdisp ≠ .error → ∃ q, t.part part.val = some q ∧ q.tdisp = .unlocked ∧ q.lockedAt = none) ∧
      ∀ q a c, q < 96 → p.sheaves.getLsbD q = true → c / 16 = q → a < 2 ^ 18 → t.mem.get (scratchAt c a) = 0 := by
  have hid := State.part_id hp
  rw [exec_stopInterface hp]
  refine ⟨_, rfl, ?_, ?_, fun he => ?_, fun he => ?_,
    fun q a c hq hs hc ha => ?_⟩
  · exact List.getLast?_concat
  · rw [State.moved_spdm, State.reply_served, State.measure_spdm, State.stopTdi_spdm]
    rfl
  · rw [State.moved_part, State.reply_part, State.measure_part, State.stopTdi, if_pos (beq_iff_eq.2 he), hid]
    exact State.destroy_part ..
  · obtain ⟨q, hq⟩ := ((Tame.refl s.mailed).wipe part.val).part (p := p) hp
    refine ⟨{ q with tdisp := .unlocked, lockedAt := none }, ?_, rfl, rfl⟩
    rw [State.moved_part, State.reply_part, State.measure_part, State.stopTdi, if_neg fun h => he (beq_iff_eq.1 h), hid]
    exact State.part_modPart_same hq (f := fun p => { p with tdisp := .unlocked, lockedAt := none }) fun _ => rfl
  · rw [State.moved_mem, State.reply_mem, State.measure_mem]
    refine Memory.Blank.get (State.stopTdi_blank ?_ hq hs fun s => s.clearSheaf_scratch hc ha)
    rw [hid]
    exact hp

theorem exec_getTdispVersion (s : State) (part : Fin 96) :
    exec (.getTdispVersion part) s = .next (s.tdispRequest part.val fun s p => s.reply 5 1 p.id (s.protoBody 5 1)) := rfl

theorem exec_getTdispCapabilities (s : State) (part : Fin 96) :
    exec (.getTdispCapabilities part) s = .next (s.tdispRequest part.val fun s p => s.reply 5 2 p.id (s.protoBody 5 2)) := rfl

theorem exec_getDeviceInterfaceReport (s : State) (part : Fin 96) :
    exec (.getDeviceInterfaceReport part) s = .next (s.tdispRequest part.val fun s p => s.reply 5 4 p.id (s.protoBody 5 4)) := rfl

theorem exec_getDeviceInterfaceState (s : State) (part : Fin 96) :
    exec (.getDeviceInterfaceState part) s
      = .next (s.tdispRequest part.val fun s p => s.reply 5 5 p.id [BitVec.ofNat 8 p.tdisp.code]) := rfl

theorem tdispRequests (s : State) (part : Fin 96) (p : Part) (hp : s.part part.val = some p) :
    (∃ t, exec (.getTdispVersion part) s = .next t ∧ Answers s t 5 1 part.val (Config.protocolReply 1281 s.spdm.served) ∧ t.parts = s.parts) ∧
    (∃ t, exec (.getTdispCapabilities part) s = .next t ∧ Answers s t 5 2 part.val (Config.protocolReply 1282 s.spdm.served) ∧
      t.parts = s.parts) ∧
    (∃ t, exec (.getDeviceInterfaceReport part) s = .next t ∧ Answers s t 5 4 part.val (Config.protocolReply 1284 s.spdm.served) ∧
      t.parts = s.parts) ∧
    (∃ t, exec (.getDeviceInterfaceState part) s = .next t ∧ t.parts = s.parts ∧ Answers s t 5 5 part.val [BitVec.ofNat 8 p.tdisp.code]) := by
  rw [exec_getTdispVersion, exec_getTdispCapabilities, exec_getDeviceInterfaceReport, exec_getDeviceInterfaceState,
    State.tdispRequest_of hp, State.tdispRequest_of hp, State.tdispRequest_of hp, State.tdispRequest_of hp, State.part_id hp]
  exact ⟨⟨_, rfl, answers_mailed .., rfl⟩, ⟨_, rfl, answers_mailed .., rfl⟩, ⟨_, rfl, answers_mailed .., rfl⟩,
    ⟨_, rfl, rfl, answers_mailed ..⟩⟩

/-! ## SPDM -/

/-- An SPDM request that moves the session: its answer, and the session after it. -/
def Replies (s : State) (via : Mailbox) (i : Instr) (code : Nat) (f : Spdm → Spdm) : Prop :=
  ∃ t, exec i s = .next t ∧ Answers s t (mailSpdm via) code 0 (Config.protocolReply (512 + code) s.spdm.served) ∧
    t.spdm = { f s.spdm with served := s.spdm.served + 1 } ∧ t.parts = s.parts

theorem replies_of {s : State} {via : Mailbox} {i : Instr} {code : Nat} {f : Spdm → Spdm} (hf : (f s.spdm).served = s.spdm.served)
    (h : exec i s = .next (({ s with spdm := f s.spdm } : State).spdmReply via code)) : Replies s via i code f := by
  have hb : ({ s with spdm := f s.spdm } : State).protoBody 2 code = Config.protocolReply (512 + code) s.spdm.served :=
    congrArg (Config.protocolReply (512 + code)) hf
  rw [State.spdmReply, hb] at h
  refine ⟨_, h, ⟨rfl, congrArg (· + 1) hf, rfl⟩, ?_, rfl⟩
  exact congrArg (fun n => ({ f s.spdm with served := n + 1 } : Spdm)) hf

/-- The requests that begin or go on with a connection, and those that read what it holds. -/
theorem replies_connection (s : State) (via : Mailbox) :
    Replies s via (.getVersion via) 0x04 (fun x => { x with version := true, caps := false, algs := false }) ∧
      Replies s via (.getCapabilities via) 0x61 (fun x => { x with caps := true }) ∧
      Replies s via (.negotiateAlgorithms via) 0x63 (fun x => { x with algs := true }) ∧
      Replies s via (.getDigests via) 0x01 id ∧ Replies s via (.getCertificate via) 0x02 id ∧ Replies s via (.challenge via) 0x03 id :=
  ⟨replies_of rfl rfl, replies_of rfl rfl, replies_of rfl rfl, replies_of rfl rfl, replies_of rfl rfl, replies_of rfl rfl⟩

/-- The requests that begin and secure a session. -/
theorem replies_session (s : State) (via : Mailbox) :
    Replies s via (.keyExchange via none) 0x64 (fun x => { x with session := true, secured := false }) ∧
      (s.spdm.session = true → Replies s via (.finish via) 0x65 (fun x => { x with secured := true })) ∧
      (s.spdm.session = false → Replies s via (.finish via) 0x7F id) :=
  ⟨replies_of rfl rfl, fun h => replies_of rfl (if_pos h), fun h => replies_of rfl (if_neg (by rw [h]; exact Bool.false_ne_true))⟩

end Sys2Proof.Machine

open Sys2Proof Sys2Proof.Machine in
/-- Settles O50. Every request answers on the machine that has stamped it; STOP's wipe keeps the session and the partition. -/
theorem Sys2Proof.Machine.attestation : Obligations.Attestation := by
  unfold Obligations.Attestation
  refine ⟨fun s part p k hp hs => ⟨query_secured hp hs, keyProg_secured k hp hs, kSetGo_secured k hp hs, ?_⟩, ideRequests_open,
    fun s part p hp => ?_, fun s via => ?_⟩
  · have h := kSetStop_secured k hp hs
    rw [stopLive_eq] at h
    exact h
  · obtain ⟨hv, hc, hr, t, ht, hparts, ha⟩ := tdispRequests s part p hp
    refine ⟨hv, hc, hr, ⟨t, ht, hparts, ?_⟩, fun via => ?_, startInterface s part p hp, stopInterface s part p hp⟩
    · rw [Tdisp.code_byte] at ha
      exact ha
    · have h := lockInterface s part p via hp
      cases via <;> exact h
  · obtain ⟨hversion, hcaps, halgs, hdigests, hcert, hchallenge⟩ := replies_connection s via
    obtain ⟨hkey, hfinish, hnone⟩ := replies_session s via
    have hm : ∃ t, exec (.getMeasurements via) s = .next t ∧ t.measures = s.measures ∧
        Answers s t (mailSpdm via) 0x60 0 s.measurementBlocks := ⟨_, rfl, rfl, answers_mailed ..⟩
    have hu : ∃ t, exec (.spdmUnsupported via) s = .next t ∧ Answers s t (mailSpdm via) 0x7F 0 [7] ∧ t.parts = s.parts :=
      ⟨_, rfl, answers_mailed .., rfl⟩
    cases via <;> exact ⟨hversion, hcaps, halgs, hdigests, hcert, hchallenge, hkey, hfinish, hnone, hm, hu⟩

end

section
/-!
PROOF. What a lane's access leaves of the machine, however it ends: every group as it was, with the registers of the machine.
-/
namespace Sys2Proof.Machine

-- The proofs of this file run one after another: side by side they take the check's memory.
set_option Elab.async false

/-- From `s` to `t` the registers and every group are the same, and no core has got a team. -/
structure Hidden (s t : State) : Prop extends Tame s t where
  groups : SameGroups s t

theorem Hidden.refl (s : State) : Hidden s s := ⟨.refl s, .refl s⟩

theorem Hidden.trans {s t u : State} (h : Hidden s t) (h' : Hidden t u) : Hidden s u :=
  ⟨h.toTame.trans h'.toTame, h.groups.trans h'.groups⟩

/-- What is quiet whatever core is looked at hides. -/
theorem Hidden.ofQuiet {s t : State} (h : ∀ core, Quiet core s t) : Hidden s t :=
  ⟨.ofQuiet h, fun c g => by rw [State.group, State.team, (h (c + 1)).cores c (by omega)]; rfl⟩

section
variable {s₀ s : State}

theorem Hidden.quiet (kept : Hidden s₀ s) {t : State} (h : ∀ core, Quiet core s t) : Hidden s₀ t := kept.trans (.ofQuiet h)

theorem Hidden.same {t : State} (kept : Hidden s₀ s) (hs : t.settings = s.settings) (hc : t.cores = s.cores) : Hidden s₀ t :=
  kept.trans ⟨.ofEq hs hc, .of_cores hc⟩

theorem Hidden.fold {α : Type} {f : State → α → State} (kept : Hidden s₀ s) (l : List α) (hf : ∀ s a, Hidden s (f s a)) :
    Hidden s₀ (l.foldl f s) := by
  induction l generalizing s with
  | nil => exact kept
  | cons x xs ih => exact ih (kept.trans (hf s x))

theorem Hidden.foldFst {α β : Type} {f : State × β → α → State × β} {acc : State × β} (kept : Hidden s₀ acc.1) (l : List α)
    (hf : ∀ acc a, Hidden acc.1 (f acc a).1) : Hidden s₀ (l.foldl f acc).1 := by
  induction l generalizing acc with
  | nil => exact kept
  | cons a l ih => exact ih (kept.trans (hf acc a))

theorem Hidden.ite {c : Prop} [Decidable c] {a b : State} (ha : Hidden s₀ a) (hb : Hidden s₀ b) : Hidden s₀ (if c then a else b) := by
  split <;> assumption

/-! ## Answers that carry a machine -/

/-- Of a request sent to a peer or to the host. -/
def Ask.Hid (s₀ : State) : Ask → Prop
  | .sent s => Hidden s₀ s
  | .wait => True
  | .unreachable => True

/-- Of a look at a slot of a mapped region. -/
def Touch.Hid (s₀ : State) : Touch → Prop
  | .hit _ s => Hidden s₀ s
  | .fill s => Hidden s₀ s
  | .hold s => Hidden s₀ s

/-- Of a lane's access. -/
def AccEnd.Hid (s₀ : State) : AccEnd → Prop
  | .done s _ _ => Hidden s₀ s
  | .fail _ => True
  | .dead _ _ => True
  | .log s _ => Hidden s₀ s
  | .hold s => Hidden s₀ s

/-! ## The operations that an access is made of -/

theorem Hidden.moved (kept : Hidden s₀ s) : Hidden s₀ s.moved := kept.same rfl rfl

theorem Hidden.store (kept : Hidden s₀ s) (a : Nat) (bs : List Byte) : Hidden s₀ (s.store a bs) := kept.quiet fun _ => (Quiet.refl _ s).store a bs

theorem Hidden.markPoison (kept : Hidden s₀ s) (a n : Nat) : Hidden s₀ (s.markPoison a n) := kept.same rfl rfl

theorem Hidden.untag (kept : Hidden s₀ s) (k : Nat) : Hidden s₀ (s.untag k) := kept.same rfl rfl

theorem Hidden.untagRange (kept : Hidden s₀ s) (a n : Nat) : Hidden s₀ (s.untagRange a n) := kept.same rfl rfl

theorem Hidden.setTag (kept : Hidden s₀ s) (t : Tag) : Hidden s₀ (s.setTag t) := kept.same rfl rfl

theorem Hidden.drawn (kept : Hidden s₀ s) (n : Nat) : Hidden s₀ (s.drawn n).2 := kept.same rfl rfl

theorem Hidden.cache (kept : Hidden s₀ s) (part va : Nat) (w : Walk) : Hidden s₀ (s.cache part va w) := kept.quiet fun _ => (Quiet.refl _ s).cache ..

theorem Hidden.errorReport (kept : Hidden s₀ s) (part : Option Nat) (unit : Nat) (corrected poisoned : Bool) (loc : Nat) :
    Hidden s₀ (s.errorReport part unit corrected poisoned loc) := kept.quiet fun _ => (Quiet.refl _ s).errorReport ..

theorem Hidden.reportCut (kept : Hidden s₀ s) (part a : Nat) (read : Bool) : Hidden s₀ (s.reportCut part a read) :=
  kept.quiet fun _ => (Quiet.refl _ s).reportCut ..

theorem Hidden.noteBy (kept : Hidden s₀ s) (k : Nat) (as : List Nat) : Hidden s₀ (s.noteBy k as) := kept.quiet fun _ => (Quiet.refl _ s).noteBy ..

theorem Hidden.postTranslate (kept : Hidden s₀ s) (part : Nat) (r : Record) (x : XAgent) : Hidden s₀ (s.postTranslate part r x) :=
  kept.quiet fun _ => (Quiet.refl _ s).postTranslate ..

theorem Hidden.sendOn (kept : Hidden s₀ s) (part pkg port : Nat) (x : OutFlit) : Hidden s₀ (s.sendOn part pkg port x) :=
  kept.quiet fun _ => (Quiet.refl _ s).sendOn ..

theorem Hidden.request (kept : Hidden s₀ s) (type part pkg port : Nat) (stook : Bool) (body : List Byte) (as : List Nat) (x : ReqAgent) :
    Hidden s₀ (s.request type part pkg port stook body as x) := kept.quiet fun _ => (Quiet.refl _ s).request ..

theorem Hidden.writeHome (kept : Hidden s₀ s) (part : Nat) (x : ReqAgent) (a : Nat) (bs : List Byte) (mask : List Bool) (stook : Bool) :
    Hidden s₀ (s.writeHome part x a bs mask stook) := kept.quiet fun _ => (Quiet.refl _ s).writeHome ..

theorem Hidden.backInvalidate (kept : Hidden s₀ s) (ls : List Nat) : Hidden s₀ (s.backInvalidate ls) :=
  kept.quiet fun _ => (Quiet.refl _ s).backInvalidate ls

theorem Hidden.carryPoison (kept : Hidden s₀ s) (src dst n : Nat) (mask : List Bool) : Hidden s₀ (s.carryPoison src dst n mask) :=
  kept.quiet fun _ => (Quiet.refl _ s).carryPoison ..

theorem Hidden.joinWriteBack (kept : Hidden s₀ s) (part k id slot : Nat) (grp : Option Nat) (pc : Word) (lanes : BitVec 64) :
    Hidden s₀ (s.joinWriteBack part k id slot grp pc lanes) := kept.quiet fun _ => (Quiet.refl _ s).joinWriteBack ..

theorem Hidden.modTeam (kept : Hidden s₀ s) (core : Nat) (f : Team → Team) (hf : ∀ t, (f t).groups = t.groups) :
    Hidden s₀ (s.modTeam core f) :=
  kept.trans ⟨(Tame.refl s).modTeam core f, sameGroups_modTeam s core f hf⟩

theorem Hidden.modSlot (kept : Hidden s₀ s) (core id k : Nat) (f : Slot → Slot) : Hidden s₀ (s.modSlot core id k f) :=
  kept.modTeam core _ fun _ => rfl

theorem Hidden.modRegion (kept : Hidden s₀ s) (core id : Nat) (f : Region → Region) : Hidden s₀ (s.modRegion core id f) :=
  kept.modTeam core _ fun _ => rfl

theorem Hidden.astray (kept : Hidden s₀ s) (xs : List (Nat × Nat × Nat)) : Hidden s₀ (s.astray xs) :=
  kept.fold _ fun s _ => (Hidden.refl s).modRegion ..

theorem Hidden.postFrozen (kept : Hidden s₀ s) (part : Nat) (r : Record) (target : Nat) : Hidden s₀ (s.postFrozen part r target) :=
  kept.quiet fun _ => (Quiet.refl _ s).postFrozen ..

theorem Hidden.freezeCore (kept : Hidden s₀ s) (core part target : Nat) : Hidden s₀ (s.freezeCore core part target) := by
  unfold State.freezeCore
  split
  · exact kept
  · have hf : Hidden s (s.setCore { s.core core with frozen := true }) := by
      refine ⟨⟨rfl, fun k hk => ?_⟩, sameGroups_setCore _ _ ?_⟩
      · rw [State.team, State.core_setCore]
        split
        next h =>
          rw [State.core_id] at h
          subst h
          exact hk
        · exact hk
      · rw [State.core_id]
        rfl
    exact (kept.trans hf).postFrozen ..

theorem Hidden.setMask (kept : Hidden s₀ s) (core : Nat) (r : Region) (k o : Nat) (dirty : Bool) (n : Nat) :
    Hidden s₀ (s.setMask core r k o dirty n) := by
  induction n generalizing s o with
  | zero => exact kept
  | succ n ih => exact ih (kept.store ..) _

theorem Hidden.sendDirty (kept : Hidden s₀ s) (core : Nat) (r : Region) (k o home n : Nat) : Hidden s₀ (s.sendDirty core r k o home n) := by
  have hdrawn : Hidden s₀ (if r.strays.contains k then (s.drawn n).2 else s) := Hidden.ite (kept.drawn n) kept
  unfold State.sendDirty
  dsimp only
  split
  · exact (hdrawn.backInvalidate _).writeHome ..
  · exact ((((hdrawn.backInvalidate _).writeHome ..).carryPoison ..).reportCut ..).noteBy ..

theorem Hidden.writeBack (kept : Hidden s₀ s) (core : Nat) (r : Region) (k : Nat) (grp : Option Nat) (pc : Word) (lanes : BitVec 64) :
    Hidden s₀ (s.writeBack core r k grp pc lanes).1 := by
  unfold State.writeBack
  dsimp only
  split
  · exact kept
  split
  · exact kept
  split
  · exact kept
  split
  · exact kept.joinWriteBack ..
  split
  · split
    · exact kept
    split
    · exact kept.freezeCore ..
    · exact kept.postTranslate ..
  · split
    · exact kept
    · exact (((kept.cache ..).sendDirty ..).store ..).modSlot ..

theorem Hidden.writeBackRegion (kept : Hidden s₀ s) (core id : Nat) (grp : Option Nat) (pc : Word) (lanes : BitVec 64) (n k : Nat) :
    Hidden s₀ (s.writeBackRegion core id grp pc lanes k n).1 := by
  induction n generalizing s k with
  | zero => exact kept
  | succ n ih =>
    unfold State.writeBackRegion
    split
    · exact kept
    · exact ih (kept.writeBack ..) (k + 1)

theorem Hidden.writeBackAll (kept : Hidden s₀ s) (core : Nat) (grp : Option Nat) (pc : Word) (lanes : BitVec 64) (rs : List Region) :
    Hidden s₀ (s.writeBackAll core grp pc lanes rs).1 := by
  induction rs generalizing s with
  | nil => exact kept
  | cons r rs ih =>
    unfold State.writeBackAll
    exact ih (kept.writeBackRegion ..)

theorem Hidden.flushTeam (kept : Hidden s₀ s) (core : Nat) (grp : Option Nat) (pc : Word) (lanes : BitVec 64) :
    Hidden s₀ (s.flushTeam core grp pc lanes).1 := kept.writeBackAll ..

/-! ## The access, by the branches of its parts -/

theorem Hidden.answer (kept : Hidden s₀ s) (r : Reply) : Hidden s₀ (s.answer r) := by
  unfold State.answer
  split
  · exact kept.sendOn ..
  · exact kept.same rfl rfl
  · exact kept

theorem Hidden.addRequest (kept :
    Hidden s₀ s) (tag : Word) (toHost atomic : Bool) (pkg part : Nat) (addrs : List Nat) (x : ReqAgent) :
    Hidden s₀ (s.addRequest tag toHost atomic pkg part addrs x) := kept.same rfl rfl

theorem Hidden.askMore (kept : Hidden s₀ s) {part : Nat} {atomic : Option (List Byte)} {a n : Nat} {x : ReqAgent}
    {e : Ask} (he : s.askMore part atomic a n x = e) : e.Hid s₀ := by
  subst he
  unfold State.askMore
  split
  · split
    · exact kept.addRequest ..
    · exact trivial
  · split
    · exact trivial
    · exact trivial
    · split
      · exact kept.request ..
      · exact kept.fold _ fun _ _ => ((Hidden.refl _).request ..)

theorem Hidden.askMore_sent (kept : Hidden s₀ s) {part : Nat} {atomic : Option (List Byte)} {a n : Nat} {x : ReqAgent}
    {u : State} (h : s.askMore part atomic a n x = .sent u) : Hidden s₀ u := kept.askMore h

theorem Hidden.ask (kept : Hidden s₀ s) {part : Nat} {atomic : Option (List Byte)} {a n : Nat} {x : ReqAgent}
    {e : Ask} (he : s.ask part atomic a n x = e) : e.Hid s₀ := by
  subst he
  unfold State.ask
  split
  · exact kept
  · exact kept.askMore rfl

theorem Hidden.ask_sent (kept : Hidden s₀ s) {part : Nat} {atomic : Option (List Byte)} {a n : Nat} {x : ReqAgent}
    {u : State} (h : s.ask part atomic a n x = .sent u) : Hidden s₀ u := kept.ask h

theorem Hidden.homeStore (kept : Hidden s₀ s) (a : Nat) (bs : List Byte) : Hidden s₀ (s.homeStore a bs) :=
  (kept.store ..).untagRange ..

theorem Hidden.dropFills (kept : Hidden s₀ s) (core : Nat) (mine : Nat → Bool) : Hidden s₀ (s.dropFills core mine) :=
  kept.same rfl rfl

theorem Hidden.invalidate (kept : Hidden s₀ s) (core : Nat) : Hidden s₀ (s.invalidate core) := (kept.dropFills ..).modTeam core _ fun _ => rfl

theorem Hidden.touch (kept : Hidden s₀ s) {core id va : Nat} {grp : Nat} {pc : Word} {lane : Nat}
    {e : Touch} (he : s.touch core id va grp pc lane = e) : e.Hid s₀ := by
  subst he
  unfold State.touch
  split
  · exact kept
  · dsimp only
    split
    · split
      · exact kept
      · exact kept
    · split
      · split
        · exact kept
        · exact kept
      · split
        · exact (kept.writeBack ..).modSlot ..
        · split
          · exact kept.writeBack ..
          · exact kept.writeBack ..

theorem Hidden.cleanLines (kept : Hidden s₀ s) (core id va n home : Nat) : Hidden s₀ (s.cleanLines core id va n home) := by
  unfold State.cleanLines
  split
  · exact kept
  · exact Hidden.ite ((kept.sendDirty ..).setMask ..) (((kept.sendDirty ..).setMask ..).modSlot ..)

theorem Hidden.sign (kept : Hidden s₀ s) (a n core group lane : Nat) : Hidden s₀ (s.sign a n core group lane) := by
  unfold State.sign
  split
  · exact kept
  · exact Hidden.ite (kept.same rfl rfl) kept

theorem Hidden.writeTag (kept : Hidden s₀ s) (a : Nat) (scope : Scope) (core group lane : Nat) :
    Hidden s₀ (s.writeTag a scope core group lane) := kept.setTag ..

theorem Hidden.force (kept : Hidden s₀ s) (x : Inst) (scope : Nat) : Hidden s₀ (s.force x scope).1 := by
  unfold State.force
  split
  · exact kept
  · exact kept.foldFst _ fun _ _ => ((Hidden.refl _).flushTeam ..)

theorem Hidden.acquireAt (kept : Hidden s₀ s) (w : Who) (i : Instr) (hs : List Hint) (a n : Nat) :
    Hidden s₀ (s.acquireAt w i hs a n).1 := by
  unfold State.acquireAt
  split
  · exact kept
  · split
    · exact kept
    · split
      · exact kept
      · exact kept
      · exact (kept.untag ..).errorReport ..
      · exact kept.force ..

theorem Hidden.faultLog (kept : Hidden s₀ s) (w : Who) (no vw va cause stage : Nat) (write : Bool) :
    Hidden s₀ (s.faultLog w no vw va cause stage write) := by
  unfold State.faultLog
  split
  · exact kept
  · exact Hidden.ite kept (Hidden.ite (kept.freezeCore ..) (kept.postTranslate ..))

theorem Hidden.perform (kept :
    Hidden s₀ s) {w : Who} {i : Instr} {hs : List Hint} {a : Nat} {data : List Word} {ans : Option (List Byte × Bool)}
    {e : AccEnd} (he : s.perform w i hs a data ans = e) : e.Hid s₀ := by
  subst he
  unfold State.perform
  dsimp only
  split
  · split
    · exact trivial
    · exact trivial
  · split
    · exact kept.acquireAt ..
    · split
      · refine Hidden.reportCut ?_ ..
        split
        · exact kept.acquireAt ..
        · refine Hidden.noteBy ?_ ..
          refine Hidden.sign ?_ ..
          split
          · exact ((kept.acquireAt ..).store ..).writeTag ..
          · exact (kept.acquireAt ..).store ..
          · exact (kept.acquireAt ..).homeStore ..
      · split
        · exact kept.acquireAt ..
        · refine Hidden.noteBy ?_ ..
          refine Hidden.sign ?_ ..
          split
          · exact ((kept.acquireAt ..).store ..).writeTag ..
          · exact (kept.acquireAt ..).store ..
          · exact (kept.acquireAt ..).homeStore ..

theorem Hidden.perform_done (kept :
    Hidden s₀ s) {w : Who} {i : Instr} {hs : List Hint} {a : Nat} {data : List Word} {ans : Option (List Byte × Bool)}
    {u : State} {out : List Word} {fl : Word} (h : s.perform w i hs a data ans = .done u out fl) : Hidden s₀ u := kept.perform h

theorem Hidden.perform_log (kept :
    Hidden s₀ s) {w : Who} {i : Instr} {hs : List Hint} {a : Nat} {data : List Word} {ans : Option (List Byte × Bool)}
    {u : State} {ds : List Word} (h : s.perform w i hs a data ans = .log u ds) : Hidden s₀ u := kept.perform h

theorem Hidden.perform_hold (kept :
    Hidden s₀ s) {w : Who} {i : Instr} {hs : List Hint} {a : Nat} {data : List Word} {ans : Option (List Byte × Bool)}
    {u : State} (h : s.perform w i hs a data ans = .hold u) : Hidden s₀ u := kept.perform h

theorem Hidden.beforeOrder (kept : Hidden s₀ s) (w : Who) (i : Instr) (hs : List Hint) (space : Nat) :
    Hidden s₀ (s.beforeOrder w i hs space).1 := by
  unfold State.beforeOrder
  dsimp only
  split
  · exact kept.flushTeam ..
  · exact kept

theorem Hidden.afterOrder (kept : Hidden s₀ s) (w : Who) (i : Instr) (hs : List Hint) :
    Hidden s₀ (s.afterOrder w i hs) := by
  unfold State.afterOrder
  split
  · exact Hidden.ite (kept.invalidate ..) kept
  · exact kept

theorem AccEnd.Hid.ordered {e : AccEnd} (kept : e.Hid s₀) (w : Who) (i : Instr) (hs : List Hint) :
    (e.ordered w i hs).Hid s₀ := by
  cases e with
  | done s out fl => exact Hidden.afterOrder kept ..
  | fail => trivial
  | dead => trivial
  | log => exact kept
  | hold => exact kept

theorem AccEnd.Hid.named {e : AccEnd} (kept : e.Hid s₀) (vw : Nat) : (e.named vw).Hid s₀ := by
  cases e with
  | fail c => cases c <;> trivial
  | done => exact kept
  | dead => trivial
  | log => exact kept
  | hold => exact kept

theorem Hidden.mirror (kept : Hidden s₀ s) (core id va data : Nat) (bs : List Byte) :
    Hidden s₀ (s.mirror core id va data bs) := by
  unfold State.mirror
  split
  · exact kept
  · exact (kept.homeStore ..).setMask ..

theorem Hidden.atHome (kept :
    Hidden s₀ s) {w : Who} {i : Instr} {hs : List Hint} {vw id va data : Nat} {ws : List Word} {no : Nat} {ans : Option (List Byte × Bool)}
    {e : AccEnd} (he : s.atHome w i hs vw id va data ws no ans = e) : e.Hid s₀ := by
  subst he
  unfold State.atHome
  dsimp only
  split
  · exact kept
  · split
    · exact kept.faultLog ..
    · split
      · exact kept
      · split
        · exact kept
        · split
          · split
            · exact ((kept.cleanLines ..).perform_done ‹_›).mirror ..
            · exact trivial
            · exact trivial
            · exact (kept.cleanLines ..).perform_log ‹_›
            · exact (kept.cleanLines ..).perform_hold ‹_›
          · split
            · exact (((kept.cleanLines ..).writeHome ..).noteBy ..).mirror ..
            · split
              · exact (kept.cleanLines ..).ask_sent ‹_›
              · exact kept.cleanLines ..
              · exact trivial

theorem Hidden.inSlot (kept : Hidden s₀ s) {w : Who} {i : Instr} {vw id va data : Nat} {ws : List Word}
    {e : AccEnd} (he : s.inSlot w i vw id va data ws = e) : e.Hid s₀ := by
  subst he
  unfold State.inSlot
  dsimp only
  split
  · split
    · exact trivial
    · exact kept
  · split
    · exact kept
    · exact ((kept.homeStore ..).setMask ..).modSlot ..

theorem Hidden.codeAccess (kept : Hidden s₀ s) {w : Who} {i : Instr} {hs : List Hint} {vw va no : Nat} {ws : List Word}
    {e : AccEnd} (he : s.codeAccess w i hs vw va no ws = e) : e.Hid s₀ := by
  subst he
  unfold State.codeAccess
  split
  · exact kept
  · dsimp only
    split
    · exact kept.faultLog ..
    · split
      · exact kept.perform rfl
      · exact kept

theorem Hidden.performStray (kept :
    Hidden s₀ s) {w : Who} {i : Instr} {hs : List Hint} {a : Nat} {ws : List Word} {xs : List (Nat × Nat × Nat)}
    {e : AccEnd} (he : s.performStray w i hs a ws xs = e) : e.Hid s₀ := by
  subst he
  unfold State.performStray
  exact (((kept.drawn ..).drawn ..).astray ..).perform rfl

theorem Hidden.pldSections (w : Who) (i : Instr) (hs : List Hint) (vw : Nat) (v : View) (id : Nat) (cs : List Nat) (no m : Nat)
    (kept : Hidden s₀ s) (ws : List Word) (ans : Option (List Byte × Bool)) (k : Nat) :
    (s.pldSections w i hs vw v id cs no ws ans k m).Hid s₀ := by
  induction m generalizing s ws ans k with
  | zero => exact kept
  | succ m ih =>
    unfold State.pldSections
    split
    · exact ih kept _ _ _
    · dsimp only
      split
      · exact kept.touch ‹_›
      · exact kept.touch ‹_›
      · next data s1 ht =>
        have kept1 : Hidden s₀ s1 := kept.touch ht
        have kept2 := fun r => kept1.cleanLines w.core id (v.granuleAt cs k) (granuleBytes k) r
        split
        · split
          · trivial
          · exact ih kept1 _ _ _
        · split
          · exact kept1
          · split
            · exact kept1.faultLog ..
            · split
              · exact kept1
              · split
                · exact kept1
                · split
                  · split
                    · trivial
                    · exact ih ((kept2 _).mirror ..) _ _ _
                  · split
                    · split
                      · exact (kept2 _).ask ‹_›
                      · exact kept2 _
                      · trivial
                    · split
                      · trivial
                      · split
                        · trivial
                        · exact ih ((kept2 _).mirror ..) _ _ _

theorem Hidden.pld (kept : Hidden s₀ s) {w : Who} {i : Instr} {hs : List Hint} {vw : Nat} {v : View} {cs : List Nat} {no : Nat}
    {ws : List Word} {ans : Option (List Byte × Bool)} {e : AccEnd} (he : s.pld w i hs vw v cs no ws ans = e) : e.Hid s₀ := by
  subst he
  unfold State.pld
  split
  · trivial
  · split
    · split
      · exact kept
      · split
        · trivial
        · split
          · exact kept.freezeCore ..
          · split
            · trivial
            · have kept1 := fun a => kept.acquireAt w i hs a 50
              dsimp only
              split
              · split
                · exact kept1 _
                · exact ((kept1 _).drawn ..).astray ..
              · exact kept1 _
    · split
      · trivial
      · exact Hidden.pldSections _ _ _ _ _ _ _ _ _ kept ..

theorem Hidden.access (kept : Hidden s₀ s) {w : Who} {i : Instr} {hs : List Hint} {vw : Nat} {v : View} {coords ws : List Word}
    {no : Nat} {ans : Option (List Byte × Bool)} {e : AccEnd} (he : s.access w i hs vw v coords ws no ans = e) :
    e.Hid s₀ := by
  subst he
  have kept0 : Hidden s₀ (s.beforeOrder w i hs v.space).1 := kept.beforeOrder ..
  unfold State.access
  dsimp only
  split
  · split
    · exact (kept0.pld rfl).ordered ..
    · exact kept0
  · split
    · trivial
    · trivial
    · split
      · trivial
      · split
        · exact kept0
        · split
          · exact ((kept0.codeAccess rfl).named _).ordered ..
          · split
            · split
              · exact kept0
              · split
                · trivial
                · split
                  · exact kept0.freezeCore ..
                  · split
                    · exact ((kept0.perform rfl).named _).ordered ..
                    · exact ((kept0.performStray rfl).named _).ordered ..
            · split
              · exact kept0.touch ‹_›
              · exact kept0.touch ‹_›
              · next data s1 ht =>
                have kept1 : Hidden s₀ s1 := kept0.touch ht
                split
                · exact ((kept1.atHome rfl).named _).ordered ..
                · exact kept1.inSlot rfl

theorem Hidden.access_done (kept :
    Hidden s₀ s) {w : Who} {i : Instr} {hs : List Hint} {vw : Nat} {v : View} {coords ws : List Word} {no : Nat} {ans : Option (List Byte × Bool)}
    {u : State} {out : List Word} {fl : Word} (h : s.access w i hs vw v coords ws no ans = .done u out fl) : Hidden s₀ u := kept.access h

theorem Hidden.access_log (kept :
    Hidden s₀ s) {w : Who} {i : Instr} {hs : List Hint} {vw : Nat} {v : View} {coords ws : List Word} {no : Nat} {ans : Option (List Byte × Bool)}
    {u : State} {ds : List Word} (h : s.access w i hs vw v coords ws no ans = .log u ds) : Hidden s₀ u := kept.access h

theorem Hidden.access_hold (kept :
    Hidden s₀ s) {w : Who} {i : Instr} {hs : List Hint} {vw : Nat} {v : View} {coords ws : List Word} {no : Nat} {ans : Option (List Byte × Bool)}
    {u : State} (h : s.access w i hs vw v coords ws no ans = .hold u) : Hidden s₀ u := kept.access h

end

end Sys2Proof.Machine
end

section
/-!
PROOF. What a replay of logged accesses and what serving the outside leave: the registers of the machine; and of the outside, every core.
-/
namespace Sys2Proof.Machine

-- The proofs of this file run one after another: side by side they take the check's memory.
set_option Elab.async false

section
variable {s₀ s : State}

theorem Tame.hide (kept : Tame s₀ s) {t : State} (h : Hidden s t) : Tame s₀ t := kept.trans h.toTame

theorem Tame.fold {α : Type} {f : State → α → State} (kept : Tame s₀ s) (l : List α) (hf : ∀ s a, Tame s (f s a)) : Tame s₀ (l.foldl f s) :=
  kept.foldl l fun s a h => h.trans (hf s a)

theorem Tame.foldFst {α β : Type} {f : State × β → α → State × β} {acc : State × β} (kept : Tame s₀ acc.1) (l : List α)
    (hf : ∀ acc a, Tame acc.1 (f acc a).1) : Tame s₀ (l.foldl f acc).1 := by
  induction l generalizing acc with
  | nil => exact kept
  | cons a l ih => exact ih (kept.trans (hf acc a))

theorem Tame.ite {c : Prop} [Decidable c] {a b : State} (ha : Tame s₀ a) (hb : Tame s₀ b) : Tame s₀ (if c then a else b) := by
  split <;> assumption

theorem Tame.haltGroup (kept : Tame s₀ s) (core g : Nat) (h : HaltWhy) : Tame s₀ (s.haltGroup core g h) := by
  unfold State.haltGroup
  split
  · exact kept
  split
  · exact kept
  · exact ((kept.quiet fun _ => (Quiet.refl _ s).stamped.postStamped ..).modGroup ..).moved

/-! ## Ends and triggers -/

theorem Tame.triggerTeam (kept : Tame s₀ s) (core : Nat) (grp : Option Nat) (pc : Word) (lanes : BitVec 64) :
    Tame s₀ (s.triggerTeam core grp pc lanes).1 := by
  have hflush := kept.hide ((Hidden.refl s).flushTeam core grp pc lanes)
  unfold State.triggerTeam
  split
  · exact kept
  split
  · exact kept
  dsimp only
  split
  · exact hflush.quiet fun _ => (Quiet.refl _ _).setTrig ..
  · exact hflush

theorem Tame.arriveBarc (kept : Tame s₀ s) (core : Nat) (left : Copy → Nat) : Tame s₀ (s.arriveBarc core left) := by
  unfold State.arriveBarc
  split
  · exact kept
  split
  · exact kept
  split
  · exact (kept.modTeam ..).moved
  split
  · exact kept
  split
  · exact kept
  dsimp only
  split
  · exact kept
  · exact ((kept.setCluster _).modTeam ..).moved

theorem Tame.afterEnds (kept : Tame s₀ s) (core : Nat) (left : Copy → Nat) : Tame s₀ (s.afterEnds core left) := by
  have hbar := (kept.modTeam core Team.settleBart).arriveBarc core left
  unfold State.afterEnds
  split
  · exact kept
  dsimp only
  split
  · split
    · exact (hbar.modTeam ..).moved
    · exact hbar
  · split
    · exact hbar
    · exact Tame.ite (hbar.triggerTeam ..) hbar

/-! ## Replays -/

theorem Tame.failLogged (kept : Tame s₀ s) (core gi no kind detail : Nat) (lanes : List Nat) :
    Tame s₀ (s.failLogged core gi no kind detail lanes) := by
  unfold State.failLogged
  split
  · exact kept
  · split
    · exact kept
    · exact Tame.ite (kept.fold _ fun _ _ => (((Tame.refl _).modLane ..).modGroup ..)) (((kept.fold _ fun _ _ => (((Tame.refl _).modLane ..).modGroup ..)).modGroup ..).haltGroup ..)

theorem Tame.replayOne (kept : Tame s₀ s) (core gi no lane : Nat) (ans : Option (List Byte × Bool)) :
    Tame s₀ (s.replayOne core gi no lane ans).1 := by
  unfold State.replayOne
  split
  · exact kept
  · split
    · exact kept
    · split
      · exact kept
      · split
        · exact kept
        · dsimp only
          split
          · exact kept.hide ((Hidden.refl s).access_hold ‹_›)
          · exact (kept.hide ((Hidden.refl s).access_log ‹_›)).modGroup ..
          · exact kept
          · exact kept.hide ((Hidden.refl s).reportCut ..)
          · exact (((kept.hide ((Hidden.refl s).access_done ‹_›)).modLane ..).modGroup ..).moved

theorem Tame.replayFails (kept : Tame s₀ s) (core gi no : Nat) (fails : List (Nat × Cause)) :
    Tame s₀ (s.replayFails core gi no fails) := by
  unfold State.replayFails
  split
  · exact kept
  · exact kept.failLogged ..

theorem Tame.replayLane (kept : Tame s₀ s) (core gi no lane : Nat) (ans : Option (List Byte × Bool)) :
    Tame s₀ (s.replayLane core gi no lane ans) := (kept.replayOne ..).replayFails ..

theorem Tame.replayEntry (kept : Tame s₀ s) (core gi : Nat) (e : LogEntry) : Tame s₀ (s.replayEntry core gi e) := by
  refine Tame.replayFails (Tame.foldFst kept _ fun acc x => ?_) ..
  exact (Tame.refl acc.1).replayOne ..

theorem Tame.replayGroup (kept : Tame s₀ s) (core gi : Nat) : Tame s₀ (s.replayGroup core gi) := by
  unfold State.replayGroup
  split
  · exact kept
  · exact kept.fold _ fun _ _ => ((Tame.refl _).replayEntry ..)

theorem Tame.replayTeam (kept : Tame s₀ s) (core : Nat) : Tame s₀ (s.replayTeam core) := by
  unfold State.replayTeam
  split
  · exact kept
  · exact kept.fold _ fun _ _ => ((Tame.refl _).replayGroup ..)

theorem Tame.dropMarkers (kept : Tame s₀ s) (core id : Nat) : Tame s₀ (s.dropMarkers core id) :=
  (kept.modTeam core _).trans (.ofEq rfl rfl)

theorem Tame.settleFence (kept : Tame s₀ s) (core gi : Nat) : Tame s₀ (s.settleFence core gi) := by
  unfold State.settleFence
  split
  · exact kept
  · split
    · exact kept
    · split
      · exact Tame.ite (((kept.dropMarkers ..).modGroup ..).moved) kept
      · exact kept

theorem Tame.settleFences (kept : Tame s₀ s) : Tame s₀ s.settleFences :=
  kept.fold _ fun _ _ => ((Tame.refl _).settleFence ..)

theorem Tame.settled (kept : Tame s₀ s) (core : Nat) : Tame s₀ (s.settled core) := (kept.settleFences.afterEnds ..).moved

theorem Tame.replayAll (kept : Tame s₀ s) : Tame s₀ s.replayAll := by
  unfold State.replayAll
  exact (kept.fold _ fun _ _ => by
      split
      · exact Tame.refl _
      · exact (Tame.ite (((Tame.refl _).replayTeam ..).settled ..) (Tame.refl _)))

end

/-! ## The outside served -/

/-- From `s` to `t` the registers and every core are the same. -/
structure Outer (s t : State) : Prop where
  settings : t.settings = s.settings
  cores : t.cores = s.cores

theorem Outer.refl (s : State) : Outer s s := ⟨rfl, rfl⟩

theorem Outer.tame {s t : State} (h : Outer s t) : Tame s t := .ofEq h.settings h.cores

section
variable {s₀ s : State}

theorem Outer.trans {t u : State} (h : Outer s t) (h' : Outer t u) : Outer s u := ⟨h'.settings.trans h.settings, h'.cores.trans h.cores⟩

theorem Outer.same {t : State} (kept : Outer s₀ s) (hs : t.settings = s.settings) (hc : t.cores = s.cores) : Outer s₀ t :=
  kept.trans ⟨hs, hc⟩

theorem Outer.fold {α : Type} {f : State → α → State} (kept : Outer s₀ s) (l : List α) (hf : ∀ s a, Outer s (f s a)) :
    Outer s₀ (l.foldl f s) := by
  induction l generalizing s with
  | nil => exact kept
  | cons x xs ih => exact ih (kept.trans (hf s x))

theorem Outer.moved (kept : Outer s₀ s) : Outer s₀ s.moved := kept.same rfl rfl

theorem Outer.store (kept : Outer s₀ s) (a : Nat) (bs : List Byte) : Outer s₀ (s.store a bs) :=
  kept.same (settings_of_fixed ((Quiet.refl 0 s).store a bs).fixed) (State.store_cores ..)

theorem Outer.reportCut (kept : Outer s₀ s) (part a : Nat) (read : Bool) : Outer s₀ (s.reportCut part a read) :=
  kept.same (settings_of_fixed ((Quiet.refl 0 s).reportCut part a read).fixed) (State.reportCut_cores ..)

theorem Outer.untagRange (kept : Outer s₀ s) (a n : Nat) : Outer s₀ (s.untagRange a n) := kept.same rfl rfl

theorem Outer.setTag (kept : Outer s₀ s) (t : Tag) : Outer s₀ (s.setTag t) := kept.same rfl rfl

theorem Outer.sendOn (kept : Outer s₀ s) (part pkg port : Nat) (x : OutFlit) : Outer s₀ (s.sendOn part pkg port x) :=
  kept.same (settings_of_fixed ((Quiet.refl 0 s).sendOn part pkg port x).fixed) (by
    unfold State.sendOn State.sent
    dsimp only
    split <;> rfl)

theorem Outer.complete_ (kept : Outer s₀ s) (proto code part : Nat) (body : List Byte) :
    Outer s₀ (s.complete_ proto code part body) := kept.same rfl rfl

theorem Outer.answerOut (proto part : Nat) (x : OutAccess) {r : State × List Byte × Bool} (kept : Outer s₀ r.1) :
    Outer s₀ (Machine.answerOut proto part x r) := by
  cases x with
  | write => exact kept
  | read => exact kept.complete_ ..
  | atomic => exact kept.complete_ ..

theorem Outer.defer (kept : Outer s₀ s) (d : Deferred) : Outer s₀ (s.defer d) := kept.same rfl rfl

theorem Outer.outAtomic (kept :
    Outer s₀ s) (a : Nat) (i : Instr) (ops : List Byte) (pkg : Nat) (order : Option (Order × Scope)) :
    Outer s₀ (s.outAtomic a i ops pkg order).1 := by
  unfold State.outAtomic
  dsimp only
  split
  · exact kept
  · split
    · exact (kept.store ..).setTag ..
    · exact (kept.store ..).setTag ..
    · exact (kept.store ..).setTag ..
    · exact (kept.store ..).same rfl rfl

theorem Outer.outPerform (kept :
    Outer s₀ s) (part : Nat) (as : List Nat) (x : OutAccess) (pkg : Nat) (order : Option (Order × Scope)) :
    Outer s₀ (s.outPerform part as x pkg order).1 := by
  unfold State.outPerform
  dsimp only
  split
  · exact kept.fold _ fun _ _ => ((Outer.refl _).reportCut ..)
  · exact (kept.fold _ fun _ _ => ((Outer.refl _).reportCut ..)).fold _ fun _ _ => (((Outer.refl _).store ..).untagRange ..)
  · split
    · split
      · exact kept.fold _ fun _ _ => ((Outer.refl _).reportCut ..)
      · exact (kept.fold _ fun _ _ => ((Outer.refl _).reportCut ..)).outAtomic ..
    · exact kept.fold _ fun _ _ => ((Outer.refl _).reportCut ..)

theorem Outer.serveInbound (kept : Outer s₀ s) (part : Fin 96) (offset : Nat) (access : OutAccess) :
    Outer s₀ (s.serveInbound part offset access) := by
  unfold State.serveInbound
  split
  · exact kept.complete_ ..
  · split
    · exact kept.complete_ ..
    · split
      · exact kept.defer ..
      · exact (Outer.answerOut _ _ _ (kept.outPerform ..)).moved

theorem Outer.serveCxl (kept : Outer s₀ s) (part : Fin 96) (address : Nat) (access : OutAccess) :
    Outer s₀ (s.serveCxl part address access) := by
  unfold State.serveCxl
  split
  · exact kept
  · split
    · exact kept.complete_ ..
    · split
      · exact kept.defer ..
      · exact (Outer.answerOut _ _ _ (kept.outPerform ..)).moved

theorem Outer.answer (kept : Outer s₀ s) (r : Reply) : Outer s₀ (s.answer r) := by
  unfold State.answer
  split
  · exact kept.sendOn ..
  · exact kept.same rfl rfl
  · exact kept

theorem Outer.respond (kept : Outer s₀ s) (f : Flit) (part : Option Nat) (type : Nat) (bad : Bool) (body : List Byte) :
    Outer s₀ (s.respond f part type bad body) := by
  unfold State.respond
  split
  · exact kept.same rfl rfl
  · exact kept.answer ..

theorem Outer.inbound (kept : Outer s₀ s) (f : Flit) (b : Nat) (va : BitVec 64) (x : OutAccess)
    (order : Option (Order × Scope)) {p : Nat} {r : State × List Byte × Bool} (h : s.inbound f b va x order = some (p, r)) :
    Outer s₀ r.1 := by
  unfold State.inbound at h
  split at h
  · split at h
    · cases h
      exact kept.outPerform ..
    · cases h
  · cases h

theorem Outer.serveWrite (kept : Outer s₀ s) (f : Flit) (va : BitVec 64) (mask : BitVec 128) (bytes : List Byte) :
    Outer s₀ (s.serveWrite f va mask bytes) := by
  unfold State.serveWrite
  dsimp only
  split
  · exact kept.defer ..
  · split
    · exact kept
    · next h => exact (Outer.respond (kept.inbound _ _ _ _ _ h) ..).moved

theorem Outer.serveRead (kept : Outer s₀ s) (f : Flit) (va : BitVec 64) (count : Nat) :
    Outer s₀ (s.serveRead f va count) := by
  unfold State.serveRead
  split
  · exact kept.defer ..
  · split
    · exact kept.respond ..
    · next h => exact (Outer.respond (kept.inbound _ _ _ _ _ h) ..).moved

theorem Outer.serveAtomic (kept : Outer s₀ s) (f : Flit) (va : BitVec 64) (major mod : Nat) (order : Option (Order × Scope))
    (operands : List Byte) : Outer s₀ (s.serveAtomic f va major mod order operands) := by
  unfold State.serveAtomic
  dsimp only
  split
  · exact kept.defer ..
  · split
    · exact kept.respond ..
    · next h =>
      split at h
      · exact (Outer.respond (kept.inbound _ _ _ _ _ h) ..).moved
      · cases h

theorem Outer.serve (kept : Outer s₀ s) (d : Deferred) : Outer s₀ (s.serve d) := by
  unfold State.serve
  split
  · exact kept.serveInbound ..
  · exact kept.serveCxl ..
  · exact kept.serveWrite ..
  · exact kept.serveRead ..
  · exact kept.serveAtomic ..

theorem Outer.serveDeferred (kept : Outer s₀ s) : Outer s₀ s.serveDeferred :=
  (kept.same (t := { s with deferred := [] }) rfl rfl).fold _ fun _ _ => (Outer.refl _).serve ..

theorem Tame.serveDeferred (kept : Tame s₀ s) : Tame s₀ s.serveDeferred := kept.trans (Outer.refl s).serveDeferred.tame

end

end Sys2Proof.Machine
end

section
/-!
PROOF. What the management core creates, destroys, writes and releases.
-/
namespace Sys2Proof.Machine

-- The proofs of this file run one after another: side by side they take the check's memory.
set_option Elab.async false

/-! ## Creation -/

theorem findPart_append (ps : List Part) (p : Part) (n : Nat) : findPart (ps ++ [p]) n = (findPart ps n).or (if p.id = n then some p else none) := by
  induction ps with
  | nil =>
    rw [List.nil_append, findPart, findPart, findPart, Option.none_or]
    by_cases h : p.id = n
    · rw [if_pos h, if_pos (beq_iff_eq.2 h)]
    · rw [if_neg h, if_neg fun h' => h (beq_iff_eq.1 h')]
  | cons x xs ih =>
    rw [List.cons_append, findPart, findPart, ih]
    split <;> rfl

theorem ne_of_findPart_none {ps : List Part} {n : Nat} (h : findPart ps n = none) {p : Part} (hp : p ∈ ps) : p.id ≠ n := by
  intro hid
  have hs := findPart_isSome ps n
  rw [h] at hs
  have hc : (ps.map (·.id)).contains n = true := List.contains_iff_mem.2 (hid ▸ List.mem_map_of_mem hp)
  rw [← hs] at hc
  cases hc

/-- What an owner's mask leaves to a mask: nothing in common with the others. -/
theorem State.unowned_iff {n : Nat} (s : State) (part : Nat) (own : Part → BitVec n) (mask : BitVec n) :
    s.unowned part own mask = true ↔ ∀ p ∈ s.parts, p.id ≠ part → own p &&& mask = 0 := by
  unfold State.unowned
  rw [List.all_eq_true]
  refine forall_congr' fun p => forall_congr' fun _ => ?_
  rw [Bool.or_eq_true, beq_iff_eq, beq_iff_eq]
  exact Decidable.or_iff_not_imp_left

theorem cfgLegal_iff (c : PartCfg) : cfgLegal c = true ↔ c.sheaves ≠ 0 ∧ 1 ≤ c.period ∧ c.period ≤ 10000 := by
  unfold cfgLegal
  rw [Bool.and_eq_true, Bool.and_eq_true, bne_iff_ne, decide_eq_true_eq, decide_eq_true_eq, and_assoc]

/-- Whether PARTITION_CREATE is refused. -/
def createFails (g : PartCfg) (s : State) : Bool :=
  (s.part g.id.val).isSome || !cfgLegal g || !s.unowned g.id.val (·.sheaves) g.sheaves || !s.unowned g.id.val (·.engines) g.engines
    || (g.sealed && 32 ≤ (s.parts.filter (·.isSealed)).length)

theorem exec_partitionCreate (g : PartCfg) (s : State) : exec (.partitionCreate g) s = if createFails g s then .next s else
    .next (((({ s.bringUp with parts := s.parts ++ [newPart g s.draws s.time.toNat], draws := s.draws + 1 } : State).setRanges g.id.val 0
      (g.ranges.take 48)).measure 5).moved) := rfl

theorem createFails_of_owned {g : PartCfg} {s : State} (hs : s.part g.id.val = none)
    (h : ∃ p ∈ s.parts, p.sheaves &&& g.sheaves ≠ 0 ∨ p.engines &&& g.engines ≠ 0) : createFails g s = true := by
  obtain ⟨p, hp, ho⟩ := h
  have hid := ne_of_findPart_none hs hp
  unfold createFails
  rcases ho with ho | ho
  · have hu : s.unowned g.id.val (·.sheaves) g.sheaves = false :=
      Bool.eq_false_iff.2 fun h => ho ((State.unowned_iff ..).1 h p hp hid)
    rw [hu]
    simp
  · have hu : s.unowned g.id.val (·.engines) g.engines = false :=
      Bool.eq_false_iff.2 fun h => ho ((State.unowned_iff ..).1 h p hp hid)
    rw [hu]
    simp

theorem createFails_of_illegal {g : PartCfg} (s : State) (h : g.sheaves = 0 ∨ g.period = 0 ∨ 10000 < g.period) : createFails g s = true := by
  have hl : cfgLegal g = false := Bool.eq_false_iff.2 fun hl => by
    obtain ⟨h0, h1, h2⟩ := (cfgLegal_iff g).1 hl
    rcases h with h | h | h
    · exact h0 h
    · omega
    · omega
  unfold createFails
  rw [hl]
  simp

theorem createFails_false {g : PartCfg} {s : State} (hs : s.part g.id.val = none)
    (hu : ∀ p ∈ s.parts, p.sheaves &&& g.sheaves = 0 ∧ p.engines &&& g.engines = 0) (h0 : g.sheaves ≠ 0) (h1 : 1 ≤ g.period)
    (h2 : g.period ≤ 10000) (hn : g.sealed = true → (s.parts.filter (·.isSealed)).length < 32) : createFails g s = false := by
  have hsh : s.unowned g.id.val (·.sheaves) g.sheaves = true := (State.unowned_iff ..).2 fun p hp _ => (hu p hp).1
  have hen : s.unowned g.id.val (·.engines) g.engines = true := (State.unowned_iff ..).2 fun p hp _ => (hu p hp).2
  have hsl : (g.sealed && decide (32 ≤ (s.parts.filter (·.isSealed)).length)) = false := by
    cases h : g.sealed with
    | false => rfl
    | true => rw [Bool.true_and, decide_eq_false_iff_not]; exact Nat.not_le.2 (hn h)
  unfold createFails
  rw [hs, (cfgLegal_iff g).2 ⟨h0, h1, h2⟩, hsh, hen, hsl]
  rfl

theorem newPart_id (g : PartCfg) (key now : Nat) : (newPart g key now).id = g.id.val := rfl

theorem newPart_integ (g : PartCfg) (key now : Nat) : (newPart g key now).integ.isSome = g.sealed := by
  unfold newPart
  cases g.sealed <;> rfl

/-- A partition created of what nobody owns. -/
theorem create_done {g : PartCfg} {s : State} (hs : s.part g.id.val = none) (hf : createFails g s = false) (hr : g.ranges = []) :
    ∃ t q, exec (.partitionCreate g) s = .next t ∧ t.part g.id.val = some q ∧ t.mem = s.mem ∧ t.cores = s.cores ∧
      t.packageId = Config.packageId ∧ q.sheaves = g.sheaves ∧ q.engines = g.engines ∧ q.pool = g.pool ∧ q.root = g.stage1 ∧
      q.isSealed = g.sealed ∧ q.integ.isSome = g.sealed ∧ q.ranges = List.replicate 48 0 ∧ q.tdisp = .unlocked ∧ q.last = 0 ∧
      q.window = [] ∧ q.launches = [] ∧ q.tlb = [] ∧ ∀ n, n ≠ g.id.val → t.part n = s.part n := by
  have hx := exec_partitionCreate g s
  rw [if_neg (by rw [hf]; exact Bool.false_ne_true), hr, List.take_nil] at hx
  refine ⟨_, newPart g s.draws s.time.toNat, hx, ?_, rfl, rfl, rfl, rfl, rfl, rfl, rfl, rfl, newPart_integ .., rfl, rfl, rfl, rfl, rfl, rfl,
    fun n hn => ?_⟩
  · refine (findPart_append s.parts _ _).trans ?_
    have h : findPart s.parts g.id.val = none := hs
    rw [h, newPart_id, if_pos rfl]
    rfl
  · refine (findPart_append s.parts _ _).trans ?_
    rw [newPart_id, if_neg hn.symm, Option.or_none]
    rfl

/-! ## Destruction -/

theorem exec_partitionDestroy {part : Fin 96} {s : State} {p : Part} (hp : s.part part.val = some p) :
    exec (.partitionDestroy part) s = .next (s.destroy part.val).moved := by
  have h : exec (.partitionDestroy part) s = execPartitionDestroy part s := rfl
  rw [h, execPartitionDestroy, hp]

theorem State.destroy_mem (s : State) (part : Nat) : (s.destroy part).mem = (s.wipe part).mem := rfl

theorem destroyed {part : Fin 96} {s : State} {p : Part} (hp : s.part part.val = some p) :
    ∃ t, exec (.partitionDestroy part) s = .next t ∧ t.part part.val = none ∧
      ∀ q a, q < 96 → p.sheaves.getLsbD q = true →
        (∀ c, c / 16 = q → a < 2 ^ 18 → t.mem.get (scratchAt c a) = 0) ∧
        (∀ v, v < 96 → v / 4 = q % 24 → a < 2 ^ 22 → t.mem.get (vaultAt (q / 24) v a) = 0) := by
  refine ⟨_, exec_partitionDestroy hp, ?_, fun q a hq hs => ⟨fun c hc ha => ?_, fun v _ hv ha => ?_⟩⟩
  · rw [State.moved_part]
    exact State.destroy_part ..
  · rw [State.moved_mem, State.destroy_mem]
    exact Memory.Blank.get (State.wipe_blank hp hq hs fun s => s.clearSheaf_scratch hc ha)
  · rw [State.moved_mem, State.destroy_mem]
    exact Memory.Blank.get (State.wipe_blank hp hq hs fun s => s.clearSheaf_vault hv ha)

/-! ## The writes of a configuration -/

theorem modifyNth_const {α : Type} (l : List α) (i : Nat) (x : α) : modifyNth (fun _ => x) i l = l.set i x := by
  refine List.ext_getElem? fun k => ?_
  rw [getElem?_modifyNth]
  by_cases h : i = k
  · subst h
    rw [if_pos rfl, List.getElem?_set_self']
    cases l[i]? <;> rfl
  · rw [if_neg h, List.getElem?_set_ne h]

theorem Part.unlocked_iff (p : Part) : p.unlocked = true ↔ p.tdisp = .unlocked := by
  rw [Part.unlocked, beq_iff_eq]

theorem Part.unlocked_false {p : Part} (h : p.tdisp ≠ .unlocked) : p.unlocked = false :=
  Bool.eq_false_iff.2 fun h' => h ((Part.unlocked_iff p).1 h')

theorem State.sheafEmpty_of {s : State} {k : Nat} (h : ∀ c ∈ s.cores, c.id / 16 = k → c.team = none) : s.sheafEmpty k = true := by
  unfold State.sheafEmpty
  rw [List.all_eq_true]
  intro c hc
  by_cases hk : sheafOfCore c.id = k
  · rw [h c hc hk]
    exact Bool.or_true _
  · rw [bne_iff_ne.2 hk]
    rfl

/-- The sheaves that change hands. -/
def sheavesChanged (p : Part) (x : BitVec 96) : List Nat := (upFrom 0 96).filter fun q => bit (p.sheaves ^^^ x).toNat q

theorem mem_sheavesChanged (p : Part) (x : BitVec 96) (k : Nat) : k ∈ sheavesChanged p x ↔ (p.sheaves ^^^ x).getLsbD k = true := by
  rw [sheavesChanged, List.mem_filter, mem_upFrom, bit_eq_testBit, BitVec.testBit_toNat]
  refine ⟨fun h => h.2, fun h => ⟨⟨Nat.zero_le _, ?_⟩, h⟩⟩
  have := BitVec.lt_of_getLsbD h
  omega

theorem exec_sheavesWrite {part : Fin 96} {s : State} {p : Part} (hp : s.part part.val = some p) (x : BitVec 96) :
    exec (.sheavesWrite part x) s =
      if x == 0 || s.phase != .slot || !p.unlocked || !(sheavesChanged p x).all s.sheafEmpty || !s.unowned part.val (·.sheaves) x then .next s
      else .next ((s.passOn fun c => (sheavesChanged p x).contains (sheafOfCore c.id)).modPart part.val fun p => { p with sheaves := x }).moved := by
  have h : exec (.sheavesWrite part x) s = execSheavesWrite part x s := rfl
  rw [h, execSheavesWrite, hp]
  rfl

theorem sheavesWrite_refused {part : Fin 96} {s : State} {p : Part} (hp : s.part part.val = some p) (x : BitVec 96)
    (h : x = 0 ∨ s.phase ≠ .slot ∨ p.tdisp ≠ .unlocked) : exec (.sheavesWrite part x) s = .next s := by
  rw [exec_sheavesWrite hp]
  refine if_pos ?_
  rcases h with h | h | h
  · rw [beq_iff_eq.2 h]
    rfl
  · rw [bne_iff_ne.2 h]
    simp
  · rw [Part.unlocked_false h]
    simp

theorem passOn_user {cs : List Core} {f : Core → Bool} {n : Nat} (hf : ∀ c ∈ cs, c.id = n → f c = true) (hn : ∃ c ∈ cs, c.id = n) :
    (findCore (cs.map fun c => if f c then { c with user := none } else c) n).user = none := by
  induction cs with
  | nil =>
    obtain ⟨c, hc, -⟩ := hn
    cases hc
  | cons x xs ih =>
    rw [List.map_cons, findCore]
    have hid : (if f x then ({ x with user := none } : Core) else x).id = x.id := by split <;> rfl
    rw [hid]
    by_cases hx : x.id = n
    · rw [if_pos (beq_iff_eq.2 hx), if_pos (hf x (List.mem_cons_self ..) hx)]
    · rw [if_neg fun h => hx (beq_iff_eq.1 h)]
      refine ih (fun c hc => hf c (List.mem_cons_of_mem _ hc)) ?_
      obtain ⟨c, hc, hcn⟩ := hn
      rcases List.mem_cons.1 hc with rfl | hc
      · exact absurd hcn hx
      · exact ⟨c, hc, hcn⟩

theorem sheavesWrite_done {part : Fin 96} {s : State} {p : Part} (hp : s.part part.val = some p) {x : BitVec 96} (hx : x ≠ 0)
    (hphase : s.phase = .slot) (ht : p.tdisp = .unlocked) (hu : ∀ q ∈ s.parts, q.id ≠ part.val → q.sheaves &&& x = 0)
    (he : ∀ k, k < 96 → (p.sheaves ^^^ x).getLsbD k = true → ∀ c ∈ s.cores, c.id / 16 = k → c.team = none) :
    ∃ t, exec (.sheavesWrite part x) s = .next t ∧ t.part part.val = some { p with sheaves := x } ∧
      ∀ c ∈ s.cores, (p.sheaves ^^^ x).getLsbD (c.id / 16) = true → (t.core c.id).user = none := by
  have hall : (sheavesChanged p x).all s.sheafEmpty = true := List.all_eq_true.2 fun k hk => by
    have hk := (mem_sheavesChanged ..).1 hk
    exact State.sheafEmpty_of (he k (BitVec.lt_of_getLsbD hk) hk)
  have hun : s.unowned part.val (·.sheaves) x = true := (State.unowned_iff ..).2 hu
  rw [exec_sheavesWrite hp, if_neg (by
    rw [beq_eq_false_iff_ne.2 hx, hphase, (Part.unlocked_iff p).2 ht, hall, hun]
    decide)]
  refine ⟨_, rfl, ?_, fun c hc hb => ?_⟩
  · rw [State.moved_part]
    exact State.part_modPart_same (s := s.passOn _) hp (f := fun p => { p with sheaves := x }) fun _ => rfl
  · refine passOn_user (cs := s.cores) (n := c.id) (fun d _ hd => ?_) ⟨c, hc, rfl⟩
    rw [sheafOfCore, hd]
    exact List.contains_iff_mem.2 ((mem_sheavesChanged ..).2 hb)

theorem stage1Write_done {part : Fin 96} {s : State} {p : Part} (hp : s.part part.val = some p) (x : BitVec 48) :
    ∃ t, exec (.stage1Write part x) s = .next t ∧ t.part part.val = some { p with root := x } :=
  ⟨_, rfl, State.part_modPart_same hp (f := fun p => { p with root := x }) fun _ => rfl⟩

theorem exec_rangesWrite {part : Fin 96} {s : State} {p : Part} (hp : s.part part.val = some p) (i : Fin 48) (e : RangeEntry) :
    exec (.rangesWrite part i e) s = if p.unlocked then .next (s.setRange part.val i.val e).moved else .next s := by
  have h : exec (.rangesWrite part i e) s = execRangesWrite part i e s := rfl
  rw [h, execRangesWrite, hp]

theorem any_overlap_iff (rs : List RangeEntry) (i : Nat) (e : RangeEntry) :
    (mapFrom (fun k x => k != i && overlap x e) 0 rs).any id = true ↔ ∃ k ∈ List.range rs.length, k ≠ i ∧ overlap (rs.getD k 0) e = true := by
  rw [List.any_eq_true]
  constructor
  · rintro ⟨b, hb, hbt⟩
    obtain ⟨k, hk⟩ := List.mem_iff_getElem?.1 hb
    rw [getElem?_mapFrom_zero] at hk
    cases hr : rs[k]? with
    | none => rw [hr] at hk; cases hk
    | some x =>
      rw [hr] at hk
      obtain rfl := Option.some.inj hk
      obtain ⟨hki, ho⟩ := Bool.and_eq_true_iff.1 hbt
      refine ⟨k, List.mem_range.2 (List.getElem?_eq_some_iff.1 hr).1, bne_iff_ne.1 hki, ?_⟩
      rw [List.getD_eq_getElem?_getD, hr]
      exact ho
  · rintro ⟨k, hk, hki, ho⟩
    have hlt := List.mem_range.1 hk
    refine ⟨_, List.mem_iff_getElem?.2 ⟨k, ?_⟩, rfl⟩
    rw [getElem?_mapFrom_zero, List.getElem?_eq_getElem hlt, Option.map_some]
    rw [List.getD_eq_getElem?_getD, List.getElem?_eq_getElem hlt] at ho
    exact congrArg some (Bool.and_eq_true_iff.2 ⟨bne_iff_ne.2 hki, ho⟩)

theorem rangesWrite_done {part : Fin 96} {s : State} {p : Part} (hp : s.part part.val = some p) (i : Fin 48) (e : RangeEntry)
    (ht : p.tdisp = .unlocked) (hn : p.integ = none) :
    ∃ t q, exec (.rangesWrite part i e) s = .next t ∧ t.part part.val = some q ∧
      q.ranges = if ∃ k ∈ List.range p.ranges.length, k ≠ i.val ∧ overlap (p.ranges.getD k 0) e = true then p.ranges
        else p.ranges.set i.val e := by
  have hx := exec_rangesWrite hp i e
  rw [if_pos ((Part.unlocked_iff p).2 ht), State.setRange, hp] at hx
  dsimp only at hx
  by_cases ho : ∃ k ∈ List.range p.ranges.length, k ≠ i.val ∧ overlap (p.ranges.getD k 0) e = true
  · rw [if_pos ((any_overlap_iff ..).2 ho)] at hx
    exact ⟨_, p, hx, hp, (if_pos ho).symm⟩
  · rw [if_neg fun h => ho ((any_overlap_iff ..).1 h), hn] at hx
    refine ⟨_, { p with ranges := modifyNth (fun _ => e) i.val p.ranges }, hx,
      State.part_modPart_same hp (f := fun p => { p with ranges := modifyNth (fun _ => e) i.val p.ranges }) fun _ => rfl, ?_⟩
    rw [if_neg ho]
    exact modifyNth_const ..

theorem rangesWrite_refused {part : Fin 96} {s : State} {p : Part} (hp : s.part part.val = some p) (i : Fin 48) (e : RangeEntry)
    (ht : p.tdisp ≠ .unlocked) : exec (.rangesWrite part i e) s = .next s := by
  rw [exec_rangesWrite hp, if_neg (by rw [Part.unlocked_false ht]; exact Bool.false_ne_true)]

theorem State.queueEmpty_of {s : State} (h : ∀ e ∈ s.engines, ∀ q ∈ e.queues, q = []) (k : Nat) : s.queueEmpty k = true := by
  have hq : nth [] (s.engine (k / 64) (k % 64 / 8)).queues (k % 8) = [] := by
    have hall : ∀ q ∈ (s.engine (k / 64) (k % 64 / 8)).queues, q = [] := by
      unfold State.engine
      cases hf : s.engines.find? fun x => x.die == k / 64 && x.id == k % 64 / 8 with
      | none => exact fun q hq => List.eq_of_mem_replicate hq
      | some x => exact h x (List.mem_of_find?_eq_some hf)
    rw [nth_eq]
    cases hg : (s.engine (k / 64) (k % 64 / 8)).queues[k % 8]? with
    | none => rfl
    | some q => exact hall q (List.mem_iff_getElem?.2 ⟨_, hg⟩)
  rw [State.queueEmpty, hq]
  rfl

theorem enginesWrite_done {part : Fin 96} {s : State} {p : Part} (hp : s.part part.val = some p) (x : BitVec 256) (ht : p.tdisp = .unlocked)
    (hu : ∀ q ∈ s.parts, q.id ≠ part.val → q.engines &&& x = 0) (he : ∀ e ∈ s.engines, ∀ q ∈ e.queues, q = []) :
    ∃ t, exec (.enginesWrite part x) s = .next t ∧ t.part part.val = some { p with engines := x } := by
  have h : exec (.enginesWrite part x) s = execEnginesWrite part x s := rfl
  have hall : ∀ ks : List Nat, ks.all s.queueEmpty = true := fun ks => List.all_eq_true.2 fun k _ => State.queueEmpty_of he k
  have hun : s.unowned part.val (·.engines) x = true := (State.unowned_iff ..).2 hu
  rw [h, execEnginesWrite, hp]
  dsimp only
  rw [if_neg (by
    rw [(Part.unlocked_iff p).2 ht, hall, hun]
    decide)]
  exact ⟨_, rfl, State.part_modPart_same hp (f := fun p => { p with engines := x }) fun _ => rfl⟩

end Sys2Proof.Machine
end

section
/-!
PROOF. What a release, a ready bit and the loss of a die leave; the management core's acts together.
-/
namespace Sys2Proof.Machine

-- The proofs of this file run one after another: side by side they take the check's memory.
set_option Elab.async false

/-! ## A core released -/

/-- A core's team stays at work: a group of it has neither ended nor triggered. -/
def State.busyOn (s : State) (core : Nat) : Prop := ∀ u, s.team core = some u → u.Busy

/-- What a core's release goes on with: the frozen flag stays, a team at work stays at work, and an empty core is left alone. -/
structure Released (core : Nat) (s t : State) : Prop where
  frozen : (t.core core).frozen = (s.core core).frozen
  busy : s.busyOn core → t.busyOn core
  empty : s.team core = none → t.core core = s.core core

theorem Released.refl (core : Nat) (s : State) : Released core s s := ⟨rfl, id, fun _ => rfl⟩

theorem Released.trans {core : Nat} {s t u : State} (h : Released core s t) (h' : Released core t u) : Released core s u :=
  ⟨h'.frozen.trans h.frozen, fun hb => h'.busy (h.busy hb), fun he =>
    (h'.empty (by rw [State.team, h.empty he]; exact he)).trans (h.empty he)⟩

theorem Released.ofEq {core : Nat} {s t : State} (h : t.cores = s.cores) : Released core s t := by
  have hc : ∀ k, t.core k = s.core k := fun k => by rw [State.core, h]; rfl
  exact ⟨congrArg Core.frozen (hc core), fun hb u hu => hb u (by rw [State.team, ← hc]; exact hu), fun _ => hc core⟩

section
variable {core : Nat} {s : State}

/-- A change of a team that keeps it at work. -/
theorem Released.modTeam (k : Nat) {f : Team → Team} (hf : ∀ u : Team, u.Busy → (f u).Busy) : Released core s (s.modTeam k f) := by
  refine ⟨?_, fun hb u hu => ?_, fun he => ?_⟩
  · rw [State.core_modTeam]
    split <;> rfl
  · rw [State.team_modTeam] at hu
    split at hu
    · obtain ⟨v, hv, rfl⟩ := Option.map_eq_some_iff.1 hu
      exact hf v (hb v hv)
    · exact hb u hu
  · rw [State.core_modTeam]
    split
    next hk =>
      have hn : (s.core core).team = none := he
      rw [hn]
      exact congrArg (fun x => ({ s.core core with team := x } : Core)) hn.symm
    · rfl

theorem Team.Busy.map {u : Team} (h : u.Busy) {f : Group → Group} (hf : ∀ g, (f g).triggered = g.triggered ∧ (f g).ended = g.ended) :
    ({ u with groups := u.groups.map f } : Team).Busy := by
  obtain ⟨g, hg, ht, he⟩ := h
  exact ⟨f g, List.mem_map_of_mem hg, (hf g).1.trans ht, (hf g).2.trans he⟩

theorem Team.Busy.modGroup {u : Team} (h : u.Busy) (gi : Nat) {f : Group → Group}
    (hf : ∀ g, (f g).triggered = g.triggered ∧ (f g).ended = g.ended) : ({ u with groups := modifyNth f gi u.groups } : Team).Busy := by
  obtain ⟨g, hg, ht, he⟩ := h
  obtain ⟨k, hk⟩ := List.mem_iff_getElem?.1 hg
  have hm : (modifyNth f gi u.groups)[k]? = some (if gi = k then f g else g) := by
    rw [getElem?_modifyNth, hk]
    split <;> rfl
  refine ⟨_, List.mem_iff_getElem?.2 ⟨k, hm⟩, ?_, ?_⟩
  · split
    · exact (hf g).1.trans ht
    · exact ht
  · split
    · exact (hf g).2.trans he
    · exact he

theorem Team.Busy.settleBart {u : Team} (h : u.Busy) : u.settleBart.Busy := by
  unfold Team.settleBart
  split
  · exact h
  split
  · refine Team.Busy.map (u := { u with bart := none }) h fun g => ?_
    split <;> exact ⟨rfl, rfl⟩
  · exact h

theorem Released.dropMarkers (k id : Nat) : Released core s (s.dropMarkers k id) := by
  unfold State.dropMarkers
  refine (Released.modTeam k ?_).trans (.ofEq rfl)
  exact fun _ h => h

theorem Released.settleFence (k gi : Nat) : Released core s (s.settleFence k gi) := by
  unfold State.settleFence
  split
  · exact .refl core s
  split
  · exact .refl core s
  split
  · split
    · refine ((Released.dropMarkers k _).trans (Released.modTeam k fun u h => h.modGroup gi fun g => ?_)).trans (.ofEq rfl)
      exact ⟨rfl, rfl⟩
    · exact .refl core s
  · exact .refl core s

theorem Released.foldl {α : Type} {f : State → α → State} (l : List α) (hf : ∀ s a, Released core s (f s a)) (s : State) :
    Released core s (l.foldl f s) := by
  induction l generalizing s with
  | nil => exact .refl core s
  | cons x xs ih => exact (hf s x).trans (ih _)

theorem Released.settleFences : Released core s s.settleFences := Released.foldl _ (fun _ (x : Nat × Nat) => Released.settleFence x.1 x.2) s

theorem Released.arriveBarc (k : Nat) (left : Copy → Nat) : Released core s (s.arriveBarc k left) := by
  unfold State.arriveBarc
  split
  · exact .refl core s
  split
  · exact .refl core s
  split
  · refine (Released.modTeam k fun u h => ?_).trans (.ofEq rfl)
    refine Team.Busy.map (u := { u with barcIn := none }) h fun g => ?_
    split
    · split <;> exact ⟨rfl, rfl⟩
    · exact ⟨rfl, rfl⟩
  split
  · exact .refl core s
  split
  · exact .refl core s
  dsimp only
  split
  · exact .refl core s
  · refine (Released.trans (.ofEq ?_) (Released.modTeam k fun u h => ?_)).trans (.ofEq rfl)
    · exact State.setCluster_cores ..
    · exact h

/-- Nothing follows for a team that is at work, beyond its barriers. -/
theorem Released.afterEnds (left : Copy → Nat) (hb : s.busyOn core) : Released core s (s.afterEnds core left) := by
  have hbar : Released core s ((s.modTeam core Team.settleBart).arriveBarc core left) :=
    (Released.modTeam core fun _ h => h.settleBart).trans (Released.arriveBarc core left)
  unfold State.afterEnds
  split
  · exact .refl core s
  next t ht =>
    obtain ⟨g, hg, htrig, hend⟩ := hb t ht
    have hall : t.groups.all (·.ended) = false := Bool.eq_false_iff.2 fun h => by
      rw [List.all_eq_true.1 h g hg] at hend
      cases hend
    have htr : t.triggers = false := Bool.eq_false_iff.2 fun h => by
      rw [List.all_eq_true.1 h g hg] at htrig
      cases htrig
    dsimp only
    rw [hall, if_neg Bool.false_ne_true]
    split
    · exact hbar
    · rw [htr, Bool.false_and, if_neg Bool.false_ne_true]
      exact hbar

theorem Released.settled (hb : s.busyOn core) : Released core s (s.settled core) :=
  (Released.settleFences.trans (Released.afterEnds copyLeft (Released.settleFences.busy hb))).trans (.ofEq rfl)

end

theorem foldl_fixed {α : Type} {f : State → α → State} (l : List α) (s : State) (hf : ∀ x ∈ l, f s x = s) : l.foldl f s = s := by
  induction l with
  | nil => rfl
  | cons x xs ih =>
    rw [List.foldl_cons, hf x (List.mem_cons_self ..)]
    exact ih fun y hy => hf y (List.mem_cons_of_mem _ hy)

/-- A replay of empty logs does nothing. -/
theorem State.replayTeam_none {s : State} {core : Nat} (h : ∀ u, s.team core = some u → ∀ g ∈ u.groups, g.log = []) :
    s.replayTeam core = s := by
  unfold State.replayTeam
  split
  · rfl
  next u hu =>
    refine foldl_fixed _ s fun gi _ => ?_
    unfold State.replayGroup
    split
    · rfl
    next g hg =>
      have hm : g ∈ u.groups := by
        rw [State.group, hu] at hg
        exact List.mem_iff_getElem?.2 ⟨gi, hg⟩
      rw [h u hu g hm]
      rfl

theorem coreRelease_done (s : State) (core : Nat) (hf : (s.core core).frozen = true)
    (hu : ∀ u, s.team core = some u → u.Busy ∧ ∀ g ∈ u.groups, g.log = []) :
    ∃ t, exec (.coreRelease core) s = .next t ∧ (t.core core).frozen = false ∧
      (s.team core = none → t.core core = { s.core core with frozen := false }) := by
  let s1 : State := s.setCore { s.core core with frozen := false }
  have hcore : s1.core core = { s.core core with frozen := false } := by
    rw [State.core_setCore, if_pos (State.core_id s core)]
  have hteam : s1.team core = s.team core := by
    rw [State.team, hcore]
    rfl
  have hx : exec (.coreRelease core) s = .next ((s1.replayTeam core).settled core) := if_pos hf
  rw [State.replayTeam_none fun u h => (hu u (hteam ▸ h)).2] at hx
  have hr : Released core s1 (s1.settled core) := Released.settled fun u h => (hu u (hteam ▸ h)).1
  refine ⟨_, hx, hr.frozen.trans (by rw [hcore]), fun he => (hr.empty (hteam.trans he)).trans hcore⟩

/-! ## Engines, tenants, measurements -/

theorem find?_engine {es : List Engine} {x : Engine} (h : es.any (fun y => y.die == x.die && y.id == x.id) = true) :
    (es.map fun y => if y.die == x.die && y.id == x.id then x else y).find? (fun y => y.die == x.die && y.id == x.id) = some x := by
  induction es with
  | nil => cases h
  | cons y ys ih =>
    rw [List.map_cons, List.find?_cons]
    by_cases hy : (y.die == x.die && y.id == x.id) = true
    · rw [if_pos hy, beq_self_eq_true, beq_self_eq_true]
      rfl
    · rw [if_neg hy, Bool.eq_false_iff.2 hy]
      rw [List.any_cons, Bool.eq_false_iff.2 hy, Bool.false_or] at h
      exact ih h

/-- An engine read after it is replaced. -/
theorem State.engine_setEngine_same (s : State) (x : Engine) : (s.setEngine x).engine x.die x.id = x := by
  unfold State.engine State.setEngine
  by_cases h : (s.engines.any fun y => y.die == x.die && y.id == x.id) = true
  · rw [if_pos h]
    dsimp only
    rw [find?_engine h]
    rfl
  · rw [if_neg h]
    dsimp only
    have hn : s.engines.find? (fun y => y.die == x.die && y.id == x.id) = none := by
      rw [List.find?_eq_none]
      exact fun y hy hxy => h (List.any_eq_true.2 ⟨y, hy, hxy⟩)
    rw [List.find?_append, hn, Option.none_or, List.find?_cons, beq_self_eq_true, beq_self_eq_true]
    rfl

theorem State.engine_place (s : State) (die e : Nat) : (s.engine die e).die = die ∧ (s.engine die e).id = e := by
  unfold State.engine
  cases h : s.engines.find? fun x => x.die == die && x.id == e with
  | none => exact ⟨rfl, rfl⟩
  | some x =>
    have hx : (x.die == die && x.id == e) = true := by simpa using List.find?_some h
    obtain ⟨hd, he⟩ := Bool.and_eq_true_iff.1 hx
    exact ⟨beq_iff_eq.1 hd, beq_iff_eq.1 he⟩

theorem engineRelease_done (s : State) (die : Nat) (e : Fin 8) : ∃ t, exec (.engineRelease die e) s = .next t ∧
    t.engine die e.val = { s.engine die e.val with frozen := false } := by
  have hx : exec (.engineRelease die e) s = if (s.engine die e.val).frozen then
      .next (s.setEngine { s.engine die e.val with frozen := false }).moved else .next s := rfl
  obtain ⟨hd, he⟩ := State.engine_place s die e.val
  cases hf : (s.engine die e.val).frozen with
  | true =>
    rw [if_pos hf] at hx
    refine ⟨_, hx, ?_⟩
    have h := State.engine_setEngine_same s { s.engine die e.val with frozen := false }
    rw [show ({ s.engine die e.val with frozen := false } : Engine).die = die from hd,
      show ({ s.engine die e.val with frozen := false } : Engine).id = e.val from he] at h
    exact h
  | false =>
    rw [if_neg (by rw [hf]; exact Bool.false_ne_true)] at hx
    refine ⟨s, hx, ?_⟩
    generalize s.engine die e.val = x at hf
    cases x
    cases hf
    rfl

theorem State.tenantOpen_of {s : State} {e : Word64} (h : e.getLsbD 63 = false ∨ s.part (bvFld e 33 7) = none) : s.tenantOpen e = true := by
  unfold State.tenantOpen
  rw [bit_eq_testBit, BitVec.testBit_toNat]
  rcases h with h | h
  · rw [h]
    rfl
  · have hp : s.part (tenantLpart e) = none := h
    rw [hp]
    exact Bool.or_true _

theorem tenantTableWrite_done (s : State) (i : Fin 256) (e : Word64) (he : e.getLsbD 63 = false ∨ s.part (bvFld e 33 7) = none)
    (ho : (s.tenants.getD i.val 0).getLsbD 63 = false ∨ s.part (bvFld (s.tenants.getD i.val 0) 33 7) = none) :
    ∃ t, exec (.tenantTableWrite i e) s = .next t ∧ t.tenants = s.tenants.set i.val e := by
  have hx : exec (.tenantTableWrite i e) s = if s.tenantOpen e && s.tenantOpen (nth 0 s.tenants i.val) then
      .next ({ s with tenants := modifyNth (fun _ => e) i.val s.tenants }.measure 6) else .next s := rfl
  rw [nth_eq, ← List.getD_eq_getElem?_getD, State.tenantOpen_of he, State.tenantOpen_of ho] at hx
  exact ⟨_, hx.trans (if_pos rfl), modifyNth_const ..⟩

theorem measurementExtend_eq (s : State) (i : Fin 16) (d : BitVec 384) :
    exec (.measurementExtend i d) s = .next (if i.val < 8 ∨ (i.val = 15 ∧ s.measures[i] = 0) then { s with
      measures := s.measures.set i (Config.sha384 (bytesOf 48 s.measures[i].toNat ++ bytesOf 48 d.toNat)) } else s) := by
  have hx : exec (.measurementExtend i d) s
      = if 8 ≤ i.val && (i.val != 15 || s.measures[i] != 0) then .next s else .next (s.extend i d) := rfl
  have hc : (decide (8 ≤ i.val) && (i.val != 15 || s.measures[i] != 0)) = true ↔ ¬ (i.val < 8 ∨ (i.val = 15 ∧ s.measures[i] = 0)) := by
    rw [Bool.and_eq_true, decide_eq_true_eq, Bool.or_eq_true, bne_iff_ne, bne_iff_ne, not_or, not_and_or]
    exact and_congr_left' Nat.not_lt.symm
  rw [hx]
  by_cases h : i.val < 8 ∨ (i.val = 15 ∧ s.measures[i] = 0)
  · rw [if_pos h, if_neg fun h' => hc.1 h' h]
    rfl
  · rw [if_neg h, if_pos (hc.2 h)]

/-! ## Ready bits -/

theorem Tame.ready {s t : State} (h : Tame s t) : t.ready0 = s.ready0 ∧ t.ready1 = s.ready1 ∧ t.ready2 = s.ready2 := by
  have hs := h.settings
  simp only [State.settings, Prod.mk.injEq] at hs
  exact ⟨hs.2.2.2.2.2.1, hs.2.2.2.2.2.2.1, hs.2.2.2.2.2.2.2.1⟩

theorem exec_functionReady {s : State} {r : Fin 3} {n : Fin 64} (hc : s.cutDies = []) (hn : n.val < readyBits r) :
    exec (.functionReady r n) s = .next (s.bringUp.setReady r n.val).serveDeferred.replayAll.moved := by
  have hx : exec (.functionReady r n) s = if readyBits r ≤ n.val || (r == 0 && 1 ≤ n.val && s.cutDies.contains (n.val - 1)) then .next s
      else .next (s.bringUp.setReady r n.val).serveDeferred.replayAll.moved := rfl
  rw [hx, if_neg]
  rw [hc, decide_eq_false (Nat.not_le.2 hn)]
  simp

theorem functionReady_done (s : State) (n : Fin 64) (hc : s.cutDies = []) :
    (n.val < 41 → ∃ t, exec (.functionReady 0 n) s = .next t ∧ t.ready0 = s.ready0 ||| BitVec.ofNat 64 (2 ^ n.val)) ∧
    (n.val < 48 → ∃ t, exec (.functionReady 1 n) s = .next t ∧ t.ready1 = s.ready1 ||| BitVec.ofNat 64 (2 ^ n.val)) ∧
    (n.val < 45 → ∃ t, exec (.functionReady 2 n) s = .next t ∧ t.ready2 = s.ready2 ||| BitVec.ofNat 64 (2 ^ n.val)) := by
  have h := fun r : Fin 3 => (((Tame.refl (s.bringUp.setReady r n.val)).serveDeferred).replayAll.moved).ready
  refine ⟨fun hn => ⟨_, exec_functionReady hc hn, (h 0).1.trans rfl⟩, fun hn => ⟨_, exec_functionReady hc hn, (h 1).2.1.trans rfl⟩,
    fun hn => ⟨_, exec_functionReady hc hn, (h 2).2.2.trans rfl⟩⟩

/-! ## The loss of a die -/

section
variable {s₀ s : State}

theorem Tame.spoil (kept : Tame s₀ s) (as : List Nat) : Tame s₀ (s.spoil as) :=
  kept.fold as fun s a => ((Tame.refl s).store a _).trans (.ofEq rfl rfl)

theorem Tame.unsettle (kept : Tame s₀ s) (part seq : Nat) (lost : List Nat) : Tame s₀ (s.unsettle part seq lost) := by
  unfold State.unsettle
  split
  · exact kept
  · exact (kept.spoil _).trans (.ofEq rfl rfl)

theorem Tame.loseTeams (kept : Tame s₀ s) (part seq : Nat) (lost : List Nat) : Tame s₀ (s.loseTeams part seq lost) := by
  unfold State.loseTeams
  split
  · exact kept
  next l _ =>
    have hm : ∀ f : Launch → Launch, Tame s₀ (s.modPart part fun p => p.modLaunch seq f) := fun f => kept.modPart part fun _ => rfl
    dsimp only
    refine Tame.ite (hm _) (Tame.post (Tame.ite (hm _) (Tame.fold (hm _) _ fun s c => ?_)) ..)
    exact (Tame.refl s).killTeam c

/-- Events of one cycle, each of which is tame. -/
theorem Tame.together (kept : Tame s₀ s) (es : List (Source × (State → State))) (he : ∀ e ∈ es, ∀ s, Tame s (e.2 s)) :
    Tame s₀ (s.together es) := by
  have hmem : ∀ e ∈ es.foldl (fun xs e => insertEvent e xs) [], ∀ s, Tame s (e.2 s) :=
    fun e h => he e ((mem_foldl_insertEvent es [] h).resolve_right List.not_mem_nil)
  unfold State.together
  generalize es.foldl (fun xs e => insertEvent e xs) [] = l at hmem
  induction l generalizing s with
  | nil => exact kept
  | cons x xs ih =>
    exact ih (kept.trans (hmem x (List.mem_cons_self ..) s)) fun e h => hmem e (List.mem_cons_of_mem _ h)

end

/-- The cores of a die emptied, one after another: its teams are gone, and the machine is tame. -/
theorem emptied_foldl (cs : List Nat) (s : State) :
    Tame s (cs.foldl (fun (s : State) c => (s.dropRequests c).setCore { s.core c with team := none, fetch := [] }) s) ∧
      ∀ c ∈ cs, (cs.foldl (fun (s : State) c => (s.dropRequests c).setCore { s.core c with team := none, fetch := [] }) s).team c = none := by
  induction cs generalizing s with
  | nil => exact ⟨.refl s, fun c hc => absurd hc List.not_mem_nil⟩
  | cons x xs ih =>
    have h1 : Tame s ((s.dropRequests x).setCore { s.core x with team := none, fetch := [] }) :=
      ((Tame.refl s).dropRequests x).emptied _ rfl
    obtain ⟨h2, hteams⟩ := ih ((s.dropRequests x).setCore { s.core x with team := none, fetch := [] })
    refine ⟨h1.trans h2, fun c hc => ?_⟩
    rcases List.mem_cons.1 hc with rfl | hc
    · refine h2.idle _ ?_
      rw [State.team, State.core_setCore, if_pos (State.core_id s c)]
    · exact hteams c hc

theorem State.team_none_of {s : State} {c : Nat} (h : ∀ x ∈ s.cores, x.id ≠ c) : s.team c = none := by
  unfold State.team State.core
  generalize s.cores = cs at h
  induction cs with
  | nil => rfl
  | cons x xs ih =>
    rw [findCore, if_neg fun hx => h x (List.mem_cons_self ..) (beq_iff_eq.1 hx)]
    exact ih fun y hy => h y (List.mem_cons_of_mem _ hy)

/-- What the loss of a die leaves on its cores: no team. -/
theorem dropDie_spec (s : State) (die : Nat) : Tame s (s.dropDie die) ∧ ∀ c, dieOfCore c = die → (s.dropDie die).team c = none := by
  obtain ⟨h1, hteams⟩ := emptied_foldl ((s.cores.filter fun c => dieOfCore c.id == die).map (·.id)) s
  have hall : ∀ c, dieOfCore c = die →
      (((s.cores.filter fun c => dieOfCore c.id == die).map (·.id)).foldl
        (fun (s : State) c => (s.dropRequests c).setCore { s.core c with team := none, fetch := [] }) s).team c = none := by
    intro c hc
    by_cases hm : c ∈ (s.cores.filter fun c => dieOfCore c.id == die).map (·.id)
    · exact hteams c hm
    · refine h1.idle c (State.team_none_of fun x hx hid => hm ?_)
      exact List.mem_map.2 ⟨x, List.mem_filter.2 ⟨hx, beq_iff_eq.2 (hid ▸ hc)⟩, hid⟩
  unfold State.dropDie
  dsimp only
  generalize ((s.cores.filter fun c => dieOfCore c.id == die).map (·.id)).foldl
    (fun (s : State) c => (s.dropRequests c).setCore { s.core c with team := none, fetch := [] }) s = u at h1 hall
  have h3 : Tame u { u with
    clusters := u.clusters.filter fun k => k.id / 6 != die
    engines := u.engines.filter fun e => e.die != die
    parts := u.parts.map fun (p : Part) => { p with xwaits := p.xwaits.filter fun w => match w.agent with
      | .log c _ _ => dieOfCore c != die
      | .fill c _ _ => dieOfCore c != die
      | .code c _ => dieOfCore c != die
      | .tile c _ => dieOfCore c != die
      | .bulk d _ _ => d != die
      | .writeBack c _ _ _ => dieOfCore c != die
      | .bitmap _ _ _ => true
      | .image c => dieOfCore c != die } } := by
    refine .ofEq (Prod.ext ?_ rfl) rfl
    rw [State.settings, List.map_map]
    rfl
  have h4 := h3.fold (u.parts.map (·.id)) (f := fun t p => t.fillSlots p (s.slotsOn p die)) fun t p => (Tame.refl t).fillSlots ..
  refine ⟨h1.trans ?_, fun c hc => ?_⟩
  · rw [List.map_map]
    exact h4
  · rw [List.map_map]
    exact h4.idle c (hall c hc)

theorem Tame.cutDies {s t : State} (h : Tame s t) : t.cutDies = s.cutDies := by
  have hs := h.settings
  simp only [State.settings, Prod.mk.injEq] at hs
  exact hs.2.2.2.2.2.2.2.2.1

/-- A register with one bit cleared. -/
theorem getLsbD_cleared (x : Word64) {n : Nat} (hn : n < 64) (k : Nat) :
    (x &&& ~~~(BitVec.ofNat 64 (2 ^ n))).getLsbD k = (x.getLsbD k && k != n) := by
  rw [BitVec.getLsbD_and, BitVec.getLsbD_not, BitVec.getLsbD_ofNat, Nat.testBit_two_pow]
  by_cases hk : k < 64
  · by_cases h : k = n
    · simp [h, hn]
    · have h' : n ≠ k := fun e => h e.symm
      simp [hk, h, h']
  · rw [BitVec.getLsbD_of_ge _ _ (Nat.le_of_not_lt hk), Bool.false_and, Bool.false_and]

/-- The launches that lose teams with a die. -/
def State.goneOn (s : State) (die : Nat) : List (Nat × Nat × Nat) := s.cores.filterMap fun c =>
  if dieOfCore c.id != die then none
  else c.team.bind fun t => if t.phase == .finished then none else some (t.part, t.seq, t.number)

/-- What the error unit and the dispatcher do at the loss of a die. -/
def lossEvents (gone : List (Nat × Nat × Nat)) (die : Nat) : List (Source × (State → State)) := [
  (.dieErrors die, fun s => s.errorReport none 4 false false (vaultAt die 0 0)),
  (.dispatcher, fun s =>
    let s2 := (gone.foldl (fun (acc : List (Nat × Nat)) x =>
        if acc.contains (x.1, x.2.1) then acc else acc ++ [(x.1, x.2.1)]) []).foldl (fun (s : State) k =>
      let lost := (gone.filter fun x => x.1 == k.1 && x.2.1 == k.2).map fun x => x.2.2
      (s.loseTeams k.1 k.2 lost).unsettle k.1 k.2 lost) s
    (s2.parts.map (·.id)).foldl (fun (s : State) p => s.postBlocked p) s2)]

theorem lossEvents_tame (gone : List (Nat × Nat × Nat)) (die : Nat) : ∀ e ∈ lossEvents gone die, ∀ s, Tame s (e.2 s) := by
  intro e he s
  rcases List.mem_cons.1 he with rfl | he
  · exact (Tame.refl s).errorReport ..
  · obtain rfl := List.mem_singleton.1 he
    refine Tame.fold (Tame.fold (Tame.refl s) _ fun s k => ?_) _ fun s p => ?_
    · exact ((Tame.refl s).loseTeams ..).unsettle ..
    · exact (Tame.refl s).postBlocked p

/-- The machine without a die, before its loss is reported. -/
def State.withoutDie (s : State) (die : Nat) : State :=
  { s.dropDie die with
    cutDies := die :: s.cutDies
    ready0 := s.ready0 &&& ~~~(BitVec.ofNat 64 (2 ^ (1 + die))) }

theorem exec_dieUnreachable {s : State} {die : Nat} (hd : die < 4) (hc : die ∉ s.cutDies) :
    exec (.dieUnreachable die) s = .next ((s.withoutDie die).together (lossEvents (s.goneOn die) die)).moved := by
  have hx : exec (.dieUnreachable die) s = if 4 ≤ die || s.cutDies.contains die then .next s
      else .next ((s.withoutDie die).together (lossEvents (s.goneOn die) die)).moved := rfl
  have hn : (decide (4 ≤ die) || s.cutDies.contains die) = false := by
    rw [decide_eq_false (Nat.not_le.2 hd), Bool.false_or]
    exact Bool.eq_false_iff.2 fun h => hc (List.contains_iff_mem.1 h)
  rw [hx, hn, if_neg Bool.false_ne_true]

theorem dieUnreachable_done (s : State) (die : Nat) (hd : die < 4) (hc : die ∉ s.cutDies) :
    ∃ t, exec (.dieUnreachable die) s = .next t ∧ die ∈ t.cutDies ∧
    t.ready0.getLsbD (1 + die) = false ∧ (∀ k, k ≠ 1 + die → t.ready0.getLsbD k = s.ready0.getLsbD k) ∧
    ∀ c, c / 384 = die → t.team c = none := by
  obtain ⟨-, hteams⟩ := dropDie_spec s die
  have ht := ((Tame.refl (s.withoutDie die)).together _ (lossEvents_tame (s.goneOn die) die)).moved
  have hready : _ = s.ready0 &&& ~~~(BitVec.ofNat 64 (2 ^ (1 + die))) := ht.ready.1
  have hbit := getLsbD_cleared s.ready0 (n := 1 + die) (by omega)
  refine ⟨_, exec_dieUnreachable hd hc, ?_, ?_, fun k hk => ?_, fun c hk => ht.idle c (hteams c hk)⟩
  · rw [ht.cutDies]
    exact List.mem_cons_self ..
  · rw [hready, hbit, bne_self_eq_false, Bool.and_false]
  · rw [hready, hbit, bne_iff_ne.2 hk, Bool.and_true]

end Sys2Proof.Machine

open Sys2Proof Sys2Proof.Machine in
/-- Settles O48. A wipe, a release and a loss leave the machine's settings; the writes are checks and one assignment. -/
theorem Sys2Proof.Machine.managementCore : Obligations.ManagementCore := by
  unfold Obligations.ManagementCore
  refine ⟨fun s g hs => ⟨fun h => ?_, fun h => ?_, fun hu hr h0 h1 h2 hn => ?_⟩, fun s part p hp => destroyed hp,
    fun s part p hp => ⟨fun x hx h1 h2 h3 h4 => sheavesWrite_done hp hx h1 h2 h3 h4, fun x h => sheavesWrite_refused hp x h,
      fun x => stage1Write_done hp x, fun i e ht hn => rangesWrite_done hp i e ht hn, fun i e ht => rangesWrite_refused hp i e ht,
      fun x ht hu he => enginesWrite_done hp x ht hu he⟩, coreRelease_done, engineRelease_done, tenantTableWrite_done,
    measurementExtend_eq, fun s => rfl, functionReady_done, dieUnreachable_done⟩
  · rw [exec_partitionCreate, if_pos (createFails_of_owned hs h)]
  · rw [exec_partitionCreate, if_pos (createFails_of_illegal s h)]
  · exact create_done hs (createFails_false hs hu h0 h1 h2 hn) hr

end
